-- ==== Sys2Proof/Word.lean ====
section
/-!
DEFINITION. The word types of the model. Every register of both parts is 64 bits wide (R3); bytes are the units
of wire formats, records and memories (R4, R5). Quantities the spec never masks or wraps as words are plain Nat or Int.
-/
namespace Sys2Proof

/-- One byte of a frame, a parcel, a record or a memory. -/
abbrev Byte := BitVec 8

/-- One 64-bit register (R3). -/
abbrev W64 := BitVec 64

/-- A sparse table: pairs of key and value, keys strictly rising, no entry equal to what an unlisted key reads as. -/
abbrev Store (α : Type) := List (Nat × α)

end Sys2Proof
end

