-- ==== Sys2Proof/Machine/RegTypes.lean ====
section
/-!
DEFINITION. The types of the register layer: the two parts, a field of a register, a row of the register map, and
the register file that a part holds.
-/
namespace Sys2Proof.Machine

/-- The two parts of the spec: the IFD-20 die unit and the IFA-40 tray aggregator. -/
inductive Part where
  | du
  | agg
  deriving DecidableEq, Repr

/-- A field of a register: the key of the register and the bit range [hi:lo] (R2). -/
structure Fld where
  reg : Nat
  hi : Nat
  lo : Nat
  deriving DecidableEq, Repr

/-- Words reached through an aggregator page's indirect pair have keys from here on (R463, R464). -/
abbrev indBase : Nat := 0x10000000000

/-- One row of the register map: `count` registers at `base`, `base + stride`, …; the bits of each access code
(Table 0-3), every other bit being RO or reserved; and the reset value, which grows by `step` from one register of
the row to the next. -/
structure RegRow where
  base : Nat
  stride : Nat
  count : Nat
  priv : Nat
  rw : Nat
  w1c : Nat
  reset : Nat
  step : Nat
  deriving DecidableEq, Repr

/-- The registers of one part. Only words that differ from their reset value are listed (canonical form). -/
structure RegFile where
  part : Part
  words : Store W64
  deriving DecidableEq, Repr

end Sys2Proof.Machine
end

