-- ==== Sys2Proof/Machine/StateCounters.lean ====
section
/-!
DEFINITION. The state of the counter bank, the command latches, the peals and the peal banks (chapter "Counters, Command
Latches and Top-Down Slots", R101 to R130, and R58 to R63). Times are Fleet Times in 2^-16 ns unless named ns.
-/
namespace Sys2Proof.Machine

/-- A change that waits for the next counter-clock edge, where it acts after every capture of that edge (R107). -/
inductive CntChange where
  /-- reset of the PER_CMD counters at a command start (R112) -/
  | perCmd
  /-- CLEAR (R121) -/
  | clear
  /-- freeze (R118) -/
  | freeze
  /-- release of a freeze; `timedOut`: by FREEZE_MAX (R119) -/
  | release (timedOut : Bool)
  /-- selector write (R105) -/
  | sel (n : Nat) (w : W64)
  /-- change of SLOT_WIDTH (R125) -/
  | slotWidth (n : Nat)
  deriving DecidableEq, Repr

/-- A latch image: the 480 main counters at a latch edge, with its Fleet Time (R114), and whether a freeze was held there
(Table 7-8). -/
structure LatchImage where
  cmId : Nat
  cmdSeq : Nat
  t : Nat
  frozen : Bool
  main : Store W64
  deriving DecidableEq, Repr

def LatchImage.init : LatchImage := ⟨0, 0, 0, false, []⟩

/-- A queued latch parcel: both images, the counters that were enabled, and the flags of R115 (R117). -/
structure LatchParcel where
  start : LatchImage
  stop : LatchImage
  counters : List Nat
  scaled : Bool
  gap : Bool
  job : Nat
  gen : Nat
  /-- the clock window in which the command ended has been judged (R66, R115) -/
  judged : Bool
  deriving DecidableEq, Repr

/-- An armed peal, held in the always-on domain (R58). -/
structure ArmedPeal where
  id : Nat
  /-- T_p, a Fleet Time in 2^-16 ns (Table 10-3) -/
  tp : Nat
  /-- the arming frame carried the freeze flag (R118) -/
  freeze : Bool
  /-- light-set wait in µs; 0 acts as 1 (R63) -/
  wait : Nat
  /-- the light set at the first reference edge at or after T_p, and that edge with the time quality at it, once it has passed
  (R62, R63, R122) -/
  light : Option (Nat × Nat × Store W64)
  /-- T_p was passed by a forward step (R62) -/
  stepped : Bool
  deriving DecidableEq, Repr

/-- A peal bank (R122, R123). -/
structure PealBank where
  pending : Bool
  /-- the peal IDs that share the snapshot (R61) -/
  ids : List Nat
  tp : Nat
  snapT : Nat
  quality : Nat
  stepped : Bool
  gap : Bool
  frozen : Bool
  cstop : Bool
  cmdSeq : Nat
  main : Store W64
  light : Store W64
  /-- the light set is still to be read at the next reference edge (R122) -/
  lightDue : Bool
  /-- when the bank was last written, in snapshots (R123) -/
  order : Nat
  deriving DecidableEq, Repr

def PealBank.init : PealBank :=
  { pending := false, ids := [], tp := 0, snapT := 0, quality := 3, stepped := false, gap := false, frozen := false,
    cstop := false, cmdSeq := 0, main := [], light := [], lightDue := false, order := 0 }

/-- The counter domain's state beside its registers. -/
structure CounterBank where
  /-- the 480 main counters (R101) -/
  main : Store W64
  /-- CMD_SEQ (R111) -/
  cmdSeq : Nat
  /-- a command is in progress (R110), its identifier and its CMD_SEQ -/
  inCmd : Bool
  cmId : Nat
  /-- the start latch of the command in progress was captured (R114) -/
  startTaken : Bool
  /-- its start fell while latches were held (R116) -/
  startBlocked : Bool
  /-- a counter-clock window was stretched, or the clock stopped, during the command (R115) -/
  cmdScaled : Bool
  cmdGap : Bool
  startLatch : LatchImage
  endLatch : LatchImage
  /-- local shadow (R120) -/
  snapMain : Store W64
  snapLight : Store W64
  snapSeq : Nat
  snapLightDue : Bool
  /-- when the freeze in force began, in ns of the free-running count (R119) -/
  freezeAt : Nat
  /-- the slot width in force (R125) -/
  slotWidth : Nat
  /-- changes that wait for the next edge, in the order they were made (R107) -/
  pend : List CntChange
  /-- strobes of the edge that comes (R109): a start, an explicit end, an implicit end -/
  edgeStart : Bool
  edgeEnd : Bool
  edgeImplicit : Bool
  /-- latch parcels that wait for the frame builder, at most 4 (R117) -/
  latchQueue : List LatchParcel
  bank0 : PealBank
  bank1 : PealBank
  /-- snapshots taken -/
  snaps : Nat
  /-- the counter clock stands (R63) -/
  stopped : Bool
  /-- Fleet Time of the last counter-clock edge that was stamped (R60), and of the edge at which the last command started
  (R109) -/
  edgeAt : Option Nat
  startAt : Nat
  /-- the last judged window of the counter clock was stretched (R60, R66) -/
  stretched : Bool
  /-- for each counter of internal event 2, the cycles of the present window in which it was enabled, open and not frozen: they
  count if the window is flagged stretched (Table 4-3, R66) -/
  tally : Store Nat
  deriving DecidableEq, Repr

def CounterBank.init : CounterBank :=
  { main := [], cmdSeq := 0, inCmd := false, cmId := 0, startTaken := false, startBlocked := false, cmdScaled := false,
    cmdGap := false, startLatch := LatchImage.init, endLatch := LatchImage.init, snapMain := [], snapLight := [],
    snapSeq := 0, snapLightDue := false, freezeAt := 0, slotWidth := 0, pend := [], edgeStart := false, edgeEnd := false,
    edgeImplicit := false, latchQueue := [], bank0 := PealBank.init, bank1 := PealBank.init, snaps := 0,
    stopped := false, edgeAt := none, startAt := 0, stretched := false, tally := [] }

end Sys2Proof.Machine
end

