-- ==== Sys2Proof/Machine/StateTile.lean ====
section
/-!
DEFINITION. The state of the tile capture domain: the fingerprint map and its queue, the selection values in force, the
commitments that await their answer, pending captures, dumps and the queues of records (chapter "Tensor-Block Checks,
Named Dumps and Sample Lineage", R158 to R180).
-/
namespace Sys2Proof.Machine

/-- A fingerprint map entry (Table 6-4). -/
structure FpMapEnt where
  tensor : Nat
  roles : Nat
  first : Nat
  period : Nat
  deriving DecidableEq, Repr

/-- A fingerprint queue entry with the job, generation and step of its group (Tables 6-5, 6-6). -/
structure FpEntry where
  check : Nat
  block : Nat
  flags : Nat
  map : Nat
  job : Nat
  gen : Nat
  step : Nat
  deriving DecidableEq, Repr

/-- The values a selection uses, which change only at a step advance (R168). -/
structure SelCfg where
  key : Option (List Byte)
  thr : Store W64
  bandT : W64
  bandV : W64
  cls : W64
  deriving DecidableEq, Repr

/-- A commitment that awaits its answer (R91). -/
structure Commit where
  job : Nat
  gen : Nat
  step : Nat
  tensor : Nat
  tile : Nat
  m : Nat
  n : Nat
  k : Nat
  fmt : Nat
  num : Nat
  outCheck : Nat
  t : Nat
  cell : Nat
  temp : Int
  mv : Nat
  stale : Bool
  quality : Nat
  /-- SEL_EN, the key and the threshold test passed at the commitment (R167) -/
  wanted : Bool
  deriving DecidableEq, Repr

/-- A pending capture (R171, R172). -/
structure Capture where
  com : Commit
  seq : Nat
  /-- when its answer was given, in ns of the free-running count -/
  at_ : Nat
  begun : Bool
  /-- the part being received, the bytes of it received so far, and how many left in chunks -/
  part : Nat
  got : Nat
  sent : Nat
  /-- bytes of the chunk being filled -/
  chunk : List Byte
  /-- CRC-64 register over the output part -/
  crc : Nat
  malformed : Bool
  commitFail : Bool
  deriving DecidableEq, Repr

/-- An armed or triggered dump (R173). -/
structure Dump where
  tensor : Nat
  /-- true: END -/
  atEnd : Bool
  step : Nat
  job : Nat
  gen : Nat
  deriving DecidableEq, Repr

/-- The dump that is requested or streaming (R174, R175). -/
structure DumpRun where
  d : Dump
  /-- dm_ack has come -/
  streaming : Bool
  reqAt : Nat
  block : Nat
  /-- bytes of the block received, sent in chunks, the chunk being filled, and the CRC-64 register -/
  got : Nat
  sent : Nat
  chunk : List Byte
  crc : Nat
  deriving DecidableEq, Repr

/-- What the tile capture domain queues for the frame builder besides records: a chunk or a descriptor (Table 7-3). -/
inductive TileOut where
  | capChunk (job gen : Nat) (bytes : List Byte)
  | capDesc (job gen : Nat) (bytes : List Byte)
  | dumpChunk (job gen : Nat) (bytes : List Byte)
  deriving DecidableEq, Repr

/-- A queued record with the job and generation it belongs to. -/
structure JobRec where
  job : Nat
  gen : Nat
  bytes : List Byte
  deriving DecidableEq, Repr

/-- A selection answer on tc_sel (Table 3-8). -/
structure SelAnswer where
  tensor : Nat
  tile : Nat
  sel : Bool
  tag : Nat
  deriving DecidableEq, Repr

structure TileCapture where
  /-- the fingerprint map in force, by map index, and one loaded that takes effect at the next advance (R162) -/
  fpMap : Store FpMapEnt
  fpNext : Option (Store FpMapEnt)
  fpQueue : List FpEntry
  /-- entries dropped since the last gap entry (R164) -/
  fpDropped : Nat
  sel : SelCfg
  /-- a selection key loaded, that takes effect at the next advance (R168) -/
  keyNext : Option (List Byte)
  /-- commitments of the current step per cell, and selections dropped in it (R169) -/
  commits : Store Nat
  dropped : Nat
  covQueue : List JobRec
  mismatch : List JobRec
  lineage : List JobRec
  awaiting : List Commit
  caps : Store Capture
  capSeq : Nat
  /-- data bytes in the 32 KiB capture buffers (R172) -/
  buffered : Nat
  out : List TileOut
  /-- armed dumps in the order armed; triggered dumps that wait; the one that runs (R173, R174) -/
  dumps : List Dump
  triggered : List Dump
  run : Option DumpRun
  /-- answers given on tc_sel, newest last -/
  answers : List SelAnswer
  deriving DecidableEq, Repr

def SelCfg.init : SelCfg := ⟨none, [], 0x7FFF7FFF7FFF, 0xFFFFFFFFFFFF, 0⟩

def TileCapture.init : TileCapture :=
  { fpMap := [], fpNext := none, fpQueue := [], fpDropped := 0, sel := SelCfg.init, keyNext := none, commits := [],
    dropped := 0, covQueue := [], mismatch := [], lineage := [], awaiting := [], caps := [], capSeq := 0, buffered := 0,
    out := [], dumps := [], triggered := [], run := none, answers := [] }

end Sys2Proof.Machine
end

