-- ==== Sys2Proof/Machine/StateControl.lean ====
section
/-!
DEFINITION. The die unit's registration, control-frame and health state (R25, R27, R258 to R264, R395 to R397).
-/
namespace Sys2Proof.Machine

/-- A held health record (R397, Table 14-2). -/
structure HealthRec where
  hseq : Nat
  unit_ : Nat
  op : Nat
  code : Nat
  sev : Nat
  stale : Bool
  quality : Nat
  repeat_ : Nat
  firstT : Nat
  temp : Int
  mv : Nat
  job : Nat
  gen : Nat
  step : Nat
  lastDt : Nat
  /-- when it was queued, in ns of the free-running count -/
  at_ : Nat
  /-- it is released, and waits for the frame builder -/
  released : Bool
  deriving DecidableEq, Repr

/-- The health queue of 16 records (R397). -/
structure Health where
  queue : List HealthRec
  deriving DecidableEq, Repr

def Health.init : Health := ⟨[]⟩

/-- The sequence state of an aggregator whose control frames are obeyed (R264): the last executed CSEQ and the last 8
acknowledgements, newest first. -/
structure SeqState where
  last : Nat
  acks : List (Nat × List Byte)
  deriving DecidableEq, Repr

def SeqState.init : SeqState := ⟨0, []⟩

/-- One register write or read of a REG-WRITE or REG-READ (Table 10-3). -/
structure RegOp where
  addr : Nat
  value : W64
  deriving DecidableEq, Repr

/-- What a control frame asks for: the operations of Table 10-3, and a frame with a reserved opcode or a wrong PLEN. -/
inductive CtlOp where
  | arm (job gen : Nat)
  | retire
  | pealArm (p : ArmedPeal)
  | freezeRelease
  | fpMap (ents : List FpMapEnt)
  | selKey (key : List Byte)
  | dumpArm (tensor : Nat) (atEnd : Bool) (step : Nat)
  | ringTrigger
  | readmit (step : Nat)
  | regs (write : Bool) (ops : List RegOp)
  | bad (op : Nat)
  deriving DecidableEq, Repr

/-- The sender and sequence number of a control frame (Tables 7-1, 10-2). -/
structure CtlHead where
  agg : Nat
  cseq : Nat
  deriving DecidableEq, Repr

/-- A control frame in the receive buffer: one that waits for a domain's wake, or that came after it (R79, R263, R264). -/
structure HeldCtl where
  head : CtlHead
  op : CtlOp
  deriving DecidableEq, Repr

/-- The register accesses of a frame. -/
def CtlOp.accesses : CtlOp → List RegOp
  | .regs _ ops => ops
  | _ => []

/-- A reset requested by a REG-WRITE, which takes effect 1 µs after its acknowledgement (R472): SOFT, the domains, and
when. -/
structure DueReset where
  soft : Bool
  doms : Nat
  at_ : Nat
  deriving DecidableEq, Repr

structure Control where
  /-- MAC addresses learnt at registration; PARTNER_ID 0xFFFF: none (Table 10-1) -/
  aggMac : Nat
  partnerId : Nat
  partnerMac : Nat
  nonce : Nat
  /-- when the last request left, and whether it was refused (R258, R259) -/
  lastReq : Option Nat
  refused : Bool
  /-- a FAILOVER-REQUEST awaits its answer, and when it was last sent (R260) -/
  failReq : Option Nat
  /-- when home last sent a control frame or keepalive (R25) -/
  lastHome : Nat
  home : SeqState
  partner : Option SeqState
  /-- the step named by READMIT, and whether frames of the partner are still obeyed (R27) -/
  readmit : Option Nat
  /-- control frames that wait in the receive buffer, oldest first: the first one waits for a domain (R263) -/
  held : List HeldCtl
  resets : List DueReset
  deriving DecidableEq, Repr

def Control.init : Control :=
  { aggMac := 0, partnerId := 0xFFFF, partnerMac := 0, nonce := 0, lastReq := none, refused := false, failReq := none,
    lastHome := 0, home := SeqState.init, partner := none, readmit := none, held := [], resets := [] }

end Sys2Proof.Machine
end

