-- ==== Sys2Proof/Machine/Bits.lean ====
section
/-!
DEFINITION. Sparse tables, bytes, bit ranges and saturating arithmetic: the helpers every other file uses.
-/
namespace Sys2Proof.Machine

variable {α : Type}

/-! ### Sparse tables -/

/-- What a sparse table holds at a key; `d` is what an unlisted key reads as. -/
def storeGet (d : α) : Store α → Nat → α
  | [], _ => d
  | (k', v) :: m, k => if k' = k then v else storeGet d m k

/-- The table without the entry of a key. -/
def tabDel (m : Store α) (k : Nat) : Store α := m.filter fun e => e.1 ≠ k

/-- An entry put before the first one of a greater key. -/
def storeIns : Store α → Nat → α → Store α
  | [], k, v => [(k, v)]
  | (k', v') :: m, k, v => if k < k' then (k, v) :: (k', v') :: m else (k', v') :: storeIns m k v

/-- A sparse table with the value at one key replaced, the canonical form kept. -/
def storeSet [DecidableEq α] (d : α) (m : Store α) (k : Nat) (v : α) : Store α :=
  if v = d then tabDel m k else storeIns (tabDel m k) k v

/-- Keys strictly rising, all above `lo`, and no entry equal to what its key reads as when unlisted. -/
def storeWfFrom [DecidableEq α] (dflt : Nat → α) : Nat → Store α → Bool
  | _, [] => true
  | lo, (k, v) :: m => decide (lo ≤ k) && decide (v ≠ dflt k) && storeWfFrom dflt (k + 1) m

/-- The canonical form of a sparse table. -/
def storeWf [DecidableEq α] (dflt : Nat → α) (m : Store α) : Bool := storeWfFrom dflt 0 m

/-- The canonical form of a byte memory: addresses rise strictly, and no byte is listed that reads as an unlisted one does,
zero. -/
abbrev Memory.wf (m : Store Byte) : Bool := storeWf (fun _ => (0 : Byte)) m

/-- The entry of a table of optional entries. -/
def tabGet : Store α → Nat → Option α
  | [], _ => none
  | (k', v) :: m, k => if k' = k then some v else tabGet m k

/-- The table with an entry placed, replacing any entry of the same key. -/
def tabPut (m : Store α) (k : Nat) (v : α) : Store α := storeIns (tabDel m k) k v

/-- The table with the entry of a key changed, unchanged where there is none. -/
def tabMod (m : Store α) (k : Nat) (f : α → α) : Store α :=
  m.map fun e => if e.1 = k then (e.1, f e.2) else e

/-! ### Bytes (R4 network order, R5 little-endian) -/

/-- `n` bytes of a number, most significant first (R4). -/
def beBytes : Nat → Nat → List Byte
  | 0, _ => []
  | n + 1, v => BitVec.ofNat 8 (v / 256 ^ n) :: beBytes n v

/-- The number that bytes spell, most significant first (R4). -/
def beNat (l : List Byte) : Nat := l.foldl (fun a b => a * 256 + b.toNat) 0

/-- `n` bytes of a number, least significant first (R5). -/
def leBytes : Nat → Nat → List Byte
  | 0, _ => []
  | n + 1, v => BitVec.ofNat 8 v :: leBytes n (v / 256)

/-- The number that bytes spell, least significant first (R5). -/
def leNat : List Byte → Nat
  | [] => 0
  | b :: l => b.toNat + 256 * leNat l

/-- `n` bytes from an offset. -/
def slice (l : List α) (off n : Nat) : List α := (l.drop off).take n

/-- The field of `n` bytes at an offset of a wire format. -/
def be (l : List Byte) (off n : Nat) : Nat := beNat (slice l off n)

/-- The field of `n` bytes at an offset of a record. -/
def le (l : List Byte) (off n : Nat) : Nat := leNat (slice l off n)

/-- The list with a run of entries replaced, its length kept. -/
def patch (l : List α) (off : Nat) (new : List α) : List α :=
  l.take off ++ new ++ l.drop (off + new.length)

/-- `n` zero bytes (reserved fields, R6). -/
def zeros (n : Nat) : List Byte := List.replicate n 0

/-- Zero bytes appended up to a length. -/
def padTo (n : Nat) (l : List Byte) : List Byte := l ++ zeros (n - l.length)

/-- No step is current, or none is named (R89, Table 13-2). -/
abbrev noStep : Nat := 0xFFFFFFFFFFFF

/-! ### Bits and numbers -/

/-- Bit `i` of a number. -/
def bit (v i : Nat) : Bool := v.testBit i

/-- Bits [hi:lo] of a number (R2). -/
def bits (v hi lo : Nat) : Nat := (v / 2 ^ lo) % 2 ^ (hi + 1 - lo)

/-- A number with bits [hi:lo] replaced. -/
def setBits (w hi lo v : Nat) : Nat :=
  (w / 2 ^ (hi + 1)) * 2 ^ (hi + 1) + (v % 2 ^ (hi + 1 - lo)) * 2 ^ lo + w % 2 ^ lo

/-- 1 for true, 0 for false: the value of a one-bit field. -/
def b2n (b : Bool) : Nat := if b then 1 else 0

/-- A saturating count of `w` bits advanced by `n`. -/
def satAdd (w v n : Nat) : Nat := min (2 ^ w - 1) (v + n)

/-- A two's-complement number of `w` bits read as an integer (R8). -/
def signed (w v : Nat) : Int := if v % 2 ^ w < 2 ^ (w - 1) then (v % 2 ^ w : Nat) else ((v % 2 ^ w : Nat) : Int) - 2 ^ w

/-- An integer as a two's-complement number of `w` bits. -/
def unsigned (w : Nat) (v : Int) : Nat := (v % (2 ^ w : Int)).toNat

/-- An integer held between two bounds. -/
def clampI (lo hi v : Int) : Int := max lo (min hi v)

/-- A number held between two bounds. -/
def clampN (lo hi v : Nat) : Nat := max lo (min hi v)

/-- The quotient rounded up. -/
def ceilDiv (a b : Nat) : Nat := (a + b - 1) / b

/-- How many one bits a number of at most `n` bits has. -/
def popcount : Nat → Nat → Nat
  | 0, _ => 0
  | n + 1, v => v % 2 + popcount n (v / 2)

/-- The least value of a list, where it has one. -/
def minOf : List Nat → Option Nat
  | [] => none
  | a :: l => some (l.foldl min a)

/-- The list with the entry at a position replaced; unchanged past its end. -/
def setAt (l : List α) (i : Nat) (v : α) : List α := l.set i v

/-- The list with the entry at a position changed. -/
def modAt (l : List α) (i : Nat) (f : α → α) : List α := l.modify i f

/-- The least number below `n` that satisfies a test. -/
def firstBelow (n : Nat) (p : Nat → Bool) : Option Nat := (List.range n).find? p

end Sys2Proof.Machine
end

