-- ==== Sys2Proof/Machine/Hash.lean ====
section
/-!
DEFINITION. The check value CRC-64 (R158) and SipHash-2-4 (R165).
-/
namespace Sys2Proof.Machine

/-! ### A bitwise CRC, most significant bit first -/

/-- One bit of a non-reflected CRC of `w` bits over the polynomial `poly`. -/
def crcBit (w poly : Nat) (crc : Nat) (b : Bool) : Nat :=
  let top := crc.testBit (w - 1) ^^ b
  let sh := crc * 2 % 2 ^ w
  if top then sh ^^^ poly else sh

/-- One byte of a non-reflected CRC, bit 7 first. -/
def crcByte (w poly : Nat) (crc : Nat) (x : Byte) : Nat :=
  [7, 6, 5, 4, 3, 2, 1, 0].foldl (fun c i => crcBit w poly c (x.toNat.testBit i)) crc

/-- A non-reflected CRC over bytes in order. -/
def crcBytes (w poly init : Nat) (l : List Byte) : Nat := l.foldl (crcByte w poly) init

/-- The CRC-64 register after bytes, before the final XOR (Table 6-1). -/
def crc64Run (crc : Nat) (l : List Byte) : Nat := crcBytes 64 0x42F0E1EBA9EA3693 crc l

abbrev crc64Init : Nat := 0xFFFFFFFFFFFFFFFF

/-- The check value of bytes (R158, Table 6-1). -/
def crc64 (l : List Byte) : Nat := crc64Run crc64Init l ^^^ 0xFFFFFFFFFFFFFFFF

/-! ### SipHash-2-4 -/

structure Sip where
  v0 : W64
  v1 : W64
  v2 : W64
  v3 : W64
  deriving DecidableEq, Repr

/-- One SipRound. -/
def Sip.round (s : Sip) : Sip :=
  let v0 := s.v0 + s.v1
  let v1 := s.v1.rotateLeft 13 ^^^ v0
  let v0 := v0.rotateLeft 32
  let v2 := s.v2 + s.v3
  let v3 := s.v3.rotateLeft 16 ^^^ v2
  let v0 := v0 + v3
  let v3 := v3.rotateLeft 21 ^^^ v0
  let v2 := v2 + v1
  let v1 := v1.rotateLeft 17 ^^^ v2
  let v2 := v2.rotateLeft 32
  ⟨v0, v1, v2, v3⟩

/-- One message word is taken in with two rounds. -/
def Sip.absorb (s : Sip) (m : W64) : Sip :=
  let s1 := (Sip.round (Sip.round { s with v3 := s.v3 ^^^ m }))
  { s1 with v0 := s1.v0 ^^^ m }

/-- SipHash-2-4 of bytes under a 16-byte key: k0 is key bytes 0 to 7 and k1 bytes 8 to 15, read little-endian (R165). -/
def sipHash (key : List Byte) (msg : List Byte) : W64 :=
  let k0 := BitVec.ofNat 64 (le key 0 8)
  let k1 := BitVec.ofNat 64 (le key 8 8)
  let s0 : Sip := ⟨k0 ^^^ 0x736f6d6570736575, k1 ^^^ 0x646f72616e646f6d, k0 ^^^ 0x6c7967656e657261,
                   k1 ^^^ 0x7465646279746573⟩
  let n := msg.length
  let full := n / 8
  let s1 := (List.range full).foldl (fun s i => s.absorb (BitVec.ofNat 64 (le msg (8 * i) 8))) s0
  let last := leNat (msg.drop (8 * full)) + (n % 256) * 2 ^ 56
  let s2 := s1.absorb (BitVec.ofNat 64 last)
  let s3 := Sip.round (Sip.round (Sip.round (Sip.round { s2 with v2 := s2.v2 ^^^ 0xff })))
  s3.v0 ^^^ s3.v1 ^^^ s3.v2 ^^^ s3.v3

end Sys2Proof.Machine
end

