-- ==== Sys2Proof/Machine/Codec.lean ====
section
/-!
DEFINITION. Frames, parcels and the residual codec: what both parts build and check (R181 to R199).
-/
namespace Sys2Proof.Machine

/-! ### CRC-32C (R186) -/

def crc32cBit (c : Nat) : Nat := if c % 2 = 1 then c / 2 ^^^ 0x82F63B78 else c / 2

/-- One byte of the reflected CRC. -/
def crc32cByte (c : Nat) (b : Byte) : Nat :=
  crc32cBit (crc32cBit (crc32cBit (crc32cBit (crc32cBit (crc32cBit (crc32cBit (crc32cBit (c ^^^ b.toNat))))))))

/-- CRC-32C of bytes: polynomial 0x1EDC6F41 reflected, initial value and final XOR all ones. -/
def crc32c (l : List Byte) : Nat := l.foldl crc32cByte 0xFFFFFFFF ^^^ 0xFFFFFFFF

/-! ### Frames (Tables 7-1 to 7-3) -/

abbrev ftTelemetry : Nat := 0x01
abbrev ftControl : Nat := 0x02
abbrev ftControlAck : Nat := 0x03
abbrev ftRegister : Nat := 0x04
abbrev ftKeepalive : Nat := 0x05
abbrev ftTreeUp : Nat := 0x10
abbrev ftTreeDown : Nat := 0x11
abbrev ftTreeAck : Nat := 0x12
abbrev ftMirror : Nat := 0x20

/-- The frame header, 32 bytes (R182); `launch` is the postmark of the launch decision. -/
def frameHeader (ftype last frags src stream gen job fseq : Nat) (launch : List Byte) : List Byte :=
  beBytes 1 0x20 ++ beBytes 1 ftype ++ beBytes 1 last ++ beBytes 1 frags ++ beBytes 4 src ++ beBytes 2 stream
    ++ beBytes 1 gen ++ zeros 1 ++ beBytes 4 job ++ beBytes 4 fseq ++ launch ++ zeros 2

/-- The Ethernet payload is at least 46 bytes long: padding follows the last fragment (R181, R184). -/
def padFrame (l : List Byte) : List Byte := padTo 46 l

/-- A frame on a wire of the tray: its destination's MAC address and its Ethernet payload. -/
structure Frame where
  dst : Nat
  src : Nat
  ethertype : Nat
  /-- eg_ptp: a PTP event message, whose transmit strobe is owed (R78) -/
  ptp : Bool
  payload : List Byte
  deriving DecidableEq, Repr

/-- The Ethertype of every Ifenov frame (R181). -/
abbrev ifenovEthertype : Nat := 0x88B5

/-- SRC of a die unit and of an aggregator (Table 7-1). -/
def srcDu (duid : Nat) : Nat := duid % 2 ^ 20
def srcAgg (id : Nat) : Nat := 2 ^ 31 + id % 4096

/-- The DUID that SRC of a die unit holds: bits 30 to 20 are reserved and ignored (Table 7-1, R6). -/
def duidOfSrc (src : Nat) : Nat := src % 2 ^ 20

/-- STREAM: the local index and the stream number (Table 7-1). -/
def streamId (duid s : Nat) : Nat := (duid % 256) * 64 + s % 64

/-- Largest LENGTH of a fragment (Table 7-3). -/
abbrev fragMax : Nat := 8956

/-- A fragment: header and data (Table 7-3). -/
def fragment (pseq off : Nat) (first last : Bool) (data : List Byte) : List Byte :=
  beBytes 4 pseq ++ beBytes 4 off ++ beBytes 2 data.length ++ beBytes 1 (b2n first + 2 * b2n last) ++ zeros 1 ++ data

/-- A received fragment. -/
structure Frag where
  pseq : Nat
  off : Nat
  first : Bool
  last : Bool
  data : List Byte
  deriving DecidableEq, Repr

/-- The fragments of a TELEMETRY frame's body, none where it is malformed (R184). -/
def readFrags : Nat → List Byte → Option (List Frag)
  | 0, _ => some []
  | n + 1, l =>
    let len := be l 8 2
    if l.length < 12 ∨ len = 0 ∨ fragMax < len ∨ l.length < 12 + len then none
    else
      (readFrags n (l.drop (12 + len))).map fun rest =>
        ⟨be l 0 4, be l 4 4 % 2 ^ 17, bit (be l 10 1) 0, bit (be l 10 1) 1, slice l 12 len⟩ :: rest

/-! ### Parcels (Tables 7-4 to 7-8) -/

abbrev ptPeal : Nat := 0x01
abbrev ptLatch : Nat := 0x02
abbrev ptTrace : Nat := 0x03
abbrev ptMismatch : Nat := 0x04
abbrev ptFingerprint : Nat := 0x05
abbrev ptCoverage : Nat := 0x06
abbrev ptCapture : Nat := 0x07
abbrev ptCapDesc : Nat := 0x08
abbrev ptDump : Nat := 0x09
abbrev ptLineage : Nat := 0x0A
abbrev ptHealth : Nat := 0x0B
abbrev ptEpoch : Nat := 0x10
abbrev ptSpill : Nat := 0x11

/-- Largest parcel (R186). -/
abbrev parcelMax : Nat := 65536

/-- What a parcel names: its source, stream, job and sequence number. -/
structure ParcelId where
  src : Nat
  stream : Nat
  gen : Nat
  job : Nat
  pseq : Nat
  deriving DecidableEq, Repr

/-- The parcel header, 40 bytes (Table 7-4). -/
def parcelHeader (ptype coding pflags plen : Nat) (i : ParcelId) (ref : List Byte) (records crc : Nat) : List Byte :=
  beBytes 1 1 ++ beBytes 1 ptype ++ beBytes 1 coding ++ beBytes 1 pflags ++ beBytes 4 plen ++ beBytes 4 i.src
    ++ beBytes 2 i.stream ++ beBytes 1 i.gen ++ zeros 1 ++ beBytes 4 i.job ++ beBytes 4 i.pseq ++ ref
    ++ beBytes 2 records ++ beBytes 4 crc

/-- A whole parcel with its CRC (R186). -/
def buildParcel (ptype coding : Nat) (i : ParcelId) (ref : List Byte) (records : Nat) (body : List Byte) : List Byte :=
  let n := 40 + body.length
  parcelHeader ptype coding 0 n i ref records (crc32c (parcelHeader ptype coding 0 n i ref records 0 ++ body)) ++ body

/-- The coding header (Table 7-6). -/
def codingHeader (w h lagK descLen codedLen : Nat) : List Byte :=
  beBytes 2 w ++ beBytes 2 h ++ beBytes 1 lagK ++ zeros 1 ++ beBytes 2 descLen ++ beBytes 4 codedLen ++ zeros 4

/-! ### The residual codec (R192 to R197) -/

/-- Bits of a number, most significant first. -/
def msbBits : Nat → Nat → List Bool
  | 0, _ => []
  | n + 1, v => v.testBit n :: msbBits n v

/-- The number that bits spell, most significant first. -/
def bitsNat (l : List Bool) : Nat := l.foldl (fun a b => 2 * a + b2n b) 0

/-- Bytes from bits, zero bits completing the last byte. -/
def packBits : Nat → List Bool → List Byte
  | 0, _ => []
  | n + 1, l => BitVec.ofNat 8 (bitsNat (l.take 8 ++ List.replicate (8 - l.length) false)) :: packBits n (l.drop 8)

/-- The bits of bytes. -/
def unpackBits (l : List Byte) : List Bool := l.flatMap fun b => msbBits 8 b.toNat

/-- The predictors (Table 7-9). -/
inductive Pred where
  | none
  | prev
  | up
  | lin
  | lag
  deriving DecidableEq, Repr

def Pred.code : Pred → Nat
  | .none => 0
  | .prev => 1
  | .up => 2
  | .lin => 3
  | .lag => 4

def Pred.ofCode : Nat → Option Pred
  | 0 => some .none
  | 1 => some .prev
  | 2 => some .up
  | 3 => some .lin
  | 4 => some .lag
  | _ => Option.none

/-- The sample `k` places back in a history with the newest first: zero before the start of the parcel (R193). -/
def back (hist : List W64) (k : Nat) : W64 := if k = 0 then 0 else hist.getD (k - 1) 0

/-- The prediction (Table 7-9). -/
def Pred.predict (p : Pred) (w k : Nat) (hist : List W64) : W64 :=
  match p with
  | .none => 0
  | .prev => back hist 1
  | .up => back hist w
  | .lin => 2 * back hist w - back hist (2 * w)
  | .lag => back hist k

/-- The mapped residual (R194). -/
def mapResidual (r : W64) : W64 := (r <<< 1) ^^^ BitVec.sshiftRight r 63

/-- The residual restored (R194). -/
def unmapResidual (z : W64) : W64 := (z >>> 1) ^^^ (0 - (z &&& 1))

/-- The mapped residuals of a group. -/
def residuals (p : Pred) (w k : Nat) : List W64 → List W64 → List W64
  | _, [] => []
  | hist, s :: rest => mapResidual (s - p.predict w k hist) :: residuals p w k (s :: hist) rest

/-- The least width that holds every mapped residual of a group (R194). -/
def groupWidth (zs : List W64) : Nat := zs.foldl (fun a z => max a (if z = 0 then 0 else Nat.log2 z.toNat + 1)) 0

/-- The candidates of a group, in order of their codes (R195). -/
def candidates (w : Nat) : List Pred :=
  [.none, .prev, .up] ++ (if 2 * w ≤ 1024 then [.lin] else []) ++ [.lag]

/-- The candidate with the least width, the lowest code among equals. -/
def pickPred (w k : Nat) (hist group : List W64) : Pred × Nat :=
  (candidates w).foldl
    (fun best p =>
      let n := groupWidth (residuals p w k hist group)
      if n < best.2 then (p, n) else best)
    (.none, groupWidth (residuals .none w k hist group))

/-- One coded group (R192). -/
def encodeGroup (w k : Nat) (hist group : List W64) : List Bool :=
  let (p, n) := pickPred w k hist group
  msbBits 3 p.code ++ (if p = .lag then msbBits 6 (k - 1) else []) ++ msbBits 7 n
    ++ (residuals p w k hist group).flatMap fun z => msbBits n z.toNat

/-- Groups of 8 samples in order (R192). -/
def encodeGroups (w k : Nat) : Nat → List W64 → List W64 → List Bool
  | 0, _, _ => []
  | n + 1, hist, l =>
    if l = [] then []
    else encodeGroup w k hist (l.take 8)
      ++ encodeGroups w k n (((l.take 8).reverse ++ hist).take 1024) (l.drop 8)

/-- The sample data of a MATRIX-RESIDUAL parcel. -/
def encodeSamples (w k : Nat) (samples : List W64) : List Byte :=
  let b := encodeGroups w k (samples.length / 8 + 1) [] samples
  packBits (ceilDiv b.length 8) b

/-- The body of a matrix parcel: coding header, descriptor and samples (R189). -/
def matrixBody (w h k : Nat) (residual : Bool) (desc : List Byte) (samples : List W64) : List Byte :=
  let data := if residual then encodeSamples w k samples else samples.flatMap fun s => beBytes 8 s.toNat
  codingHeader w h k desc.length data.length ++ desc ++ data

/-- CODING of a matrix parcel. -/
def matrixCoding (residual : Bool) : Nat := if residual then 2 else 1

/-! ### Checking and decoding (R198, R199) -/

abbrev faultBadHeader : Nat := 0x10
abbrev faultIllegal : Nat := 0x11
abbrev faultHistory : Nat := 0x12
abbrev faultOverrun : Nat := 0x13
abbrev faultCrc : Nat := 0x14
abbrev noFaultBit : Nat := 0xFFFFFFFF

/-- A decoder fault: its code and bit offset (Table 7-10). -/
structure StreamFault where
  code : Nat
  bit : Nat
  deriving DecidableEq, Repr

def isMatrix (ptype : Nat) : Bool := decide (ptype = ptPeal) || decide (ptype = ptLatch)

def ptypeKnown (ptype : Nat) : Bool := decide (1 ≤ ptype ∧ ptype ≤ 0xB) || decide (ptype = 0x10) || decide (ptype = 0x11)

/-- The header checks of Table 7-10 over the bytes available. -/
def headerOk (l : List Byte) : Bool :=
  let ptype := be l 1 1
  let coding := be l 2 1
  let plen := be l 4 4
  let w := be l 40 2
  let h := be l 42 2
  let desc := be l 46 2
  let coded := be l 48 4
  decide (40 ≤ l.length) && decide (be l 0 1 = 1) && ptypeKnown ptype
    && (if isMatrix ptype then decide (coding = 1 ∨ coding = 2) else decide (coding = 0))
    && decide (40 ≤ plen ∧ plen ≤ parcelMax) && decide (plen ≤ l.length)
    && (!isMatrix ptype ||
      (decide (56 ≤ plen) && decide (w ≤ 1024) && decide (w * h ≤ 7680) && decide (desc % 8 = 0 ∧ desc ≤ 1024)
        && decide (plen = 56 + desc + coded) && (decide (coding ≠ 1) || decide (coded = 8 * w * h))))

/-- Where `n` slot entries that begin at `off` end (Table 10-10), none where one passes the end. -/
def slotsEnd (l : List Byte) : Nat → Nat → Option Nat
  | 0, off => if off ≤ l.length then some off else none
  | k + 1, off => if off + 12 ≤ l.length then slotsEnd l k (off + 12 + be l (off + 8) 4) else none

/-- The length of the record at the head of a RECORDS body, none where its own header does not fit (Table 7-5). -/
def recordLen (ptype : Nat) (l : List Byte) : Option Nat :=
  let fixed (n : Nat) : Option Nat := if n ≤ l.length then some n else none
  let own (hdr n : Nat) : Option Nat := if hdr ≤ l.length ∧ n ≤ l.length then some n else none
  match ptype with
  | 0x03 => own 24 (max 24 (be l 4 2))
  | 0x04 => fixed 56
  | 0x05 => own 16 (16 + 16 * be l 0 4)
  | 0x06 => fixed 272
  | 0x07 => own 24 (24 + be l 16 4)
  | 0x08 => fixed 64
  | 0x09 => own 40 (40 + be l 24 4)
  | 0x0A => fixed 48
  | 0x0B => fixed 48
  | 0x10 =>
    if l.length < 48 then none else slotsEnd l (be l 4 2) (48 + 4 * be l 24 2)
  | 0x11 => own 24 (max 24 (le l 0 4))
  | _ => none

/-- The records of a RECORDS body in order, or the bit at which the lengths fail (Table 7-10). -/
def readRecords (ptype : Nat) : Nat → Nat → List Byte → Except Nat (List (List Byte))
  | 0, off, l => if l = [] then .ok [] else .error (8 * off)
  | n + 1, off, l =>
    match recordLen ptype l with
    | none => .error (8 * off)
    | some k =>
      match readRecords ptype n (off + k) (l.drop k) with
      | .ok rest => .ok (l.take k :: rest)
      | .error e => .error e

/-- The bits a parcel's decoder has read after each sample, the samples, and the fault met, if any. -/
structure Decoded where
  samples : List W64
  /-- bits of sample data consumed when each sample is complete -/
  ends : List Nat
  fault : Option StreamFault
  deriving DecidableEq, Repr

/-- The samples of one group: `z` of `n` bits each, until the data ends. -/
def decodeGroup (p : Pred) (w k n : Nat) :
    Nat → List W64 → Nat → List Bool → List (W64 × Nat) × List W64 × Nat × List Bool × Option StreamFault
  | 0, hist, pos, l => ([], hist, pos, l, none)
  | c + 1, hist, pos, l =>
    if l.length < n then ([], hist, pos, l, some ⟨faultOverrun, pos⟩)
    else
      let z := BitVec.ofNat 64 (bitsNat (l.take n))
      let s := p.predict w k hist + unmapResidual z
      let (rest, h, q, r, f) := decodeGroup p w k n c ((s :: hist).take 1024) (pos + n) (l.drop n)
      ((s, pos + n) :: rest, h, q, r, f)

/-- Padding and what follows the last sample (Table 7-10). -/
def tailFault (pos : Nat) (l : List Bool) : Option StreamFault :=
  let pad := (8 - pos % 8) % 8
  match (l.take pad).findIdx? id with
  | some i => some ⟨faultIllegal, pos + i⟩
  | none => if pad < l.length then some ⟨faultOverrun, pos + pad⟩ else none

/-- The groups of a residual stream, `count` samples in all (R192, Table 7-10). -/
def decodeGroups (w : Nat) : Nat → Nat → List W64 → Nat → List Bool → List (W64 × Nat) × Option StreamFault
  | 0, _, _, pos, l => ([], tailFault pos l)
  | g + 1, count, hist, pos, l =>
    if count = 0 then ([], tailFault pos l)
    else if l.length < 3 then ([], some ⟨faultOverrun, pos⟩)
    else match Pred.ofCode (bitsNat (l.take 3)) with
    | none => ([], some ⟨faultIllegal, pos⟩)
    | some p =>
      if p = .lin ∧ 1024 < 2 * w then ([], some ⟨faultHistory, pos⟩)
      else
        let lagBits := if p = .lag then 6 else 0
        let l1 := l.drop 3
        if l1.length < lagBits then ([], some ⟨faultOverrun, pos + 3⟩)
        else
          let k := bitsNat (l1.take lagBits) + 1
          let l2 := l1.drop lagBits
          let pos2 := pos + 3 + lagBits
          if l2.length < 7 then ([], some ⟨faultOverrun, pos2⟩)
          else
            let n := bitsNat (l2.take 7)
            if 64 < n then ([], some ⟨faultIllegal, pos2⟩)
            else
              let (out, hist', pos', l', f) := decodeGroup p w k n (min 8 count) hist (pos2 + 7) (l2.drop 7)
              match f with
              | some e => (out, some e)
              | none =>
                let (rest, f') := decodeGroups w g (count - 8) hist' pos' l'
                (out ++ rest, f')

/-- Decodes the sample data of a matrix parcel with a sound header. -/
def decodeMatrix (l : List Byte) : Decoded :=
  let w := be l 40 2
  let h := be l 42 2
  let data := slice l (56 + be l 46 2) (be l 48 4)
  if be l 2 1 = 1 then
    ⟨(List.range (w * h)).map fun i => BitVec.ofNat 64 (be data (8 * i) 8),
     (List.range (w * h)).map fun i => 64 * (i + 1), none⟩
  else
    let (out, f) := decodeGroups w (w * h / 8 + 1) (w * h) [] 0 (unpackBits data)
    ⟨out.map (·.1), out.map (·.2), f⟩

/-- The CRC of a parcel is right; a decoded copy's CRC field is zero and not checked (R186, Table 7-4). -/
def crcOk (l : List Byte) : Bool :=
  let p := l.take (be l 4 4)
  bit (be l 3 1) 0 || decide (crc32c (patch p 36 (zeros 4)) = be l 36 4)

/-- The first fault of a parcel in the order of Table 7-10, none for a clean one (R198). -/
def parcelFault (l : List Byte) : Option StreamFault :=
  if ¬ headerOk l then some ⟨faultBadHeader, noFaultBit⟩
  else
    let ptype := be l 1 1
    let stream :=
      if isMatrix ptype then (decodeMatrix l).fault
      else match readRecords ptype (be l 34 2) 0 (slice l 40 (be l 4 4 - 40)) with
        | .ok _ => none
        | .error b => some ⟨faultOverrun, b⟩
    match stream with
    | some f => some f
    | none => if crcOk l then none else some ⟨faultCrc, noFaultBit⟩

/-- The records of a clean RECORDS parcel. -/
def parcelRecords (l : List Byte) : List (List Byte) :=
  match readRecords (be l 1 1) (be l 34 2) 0 (slice l 40 (be l 4 4 - 40)) with
  | .ok r => r
  | .error _ => []

/-- The samples and descriptor of a clean matrix parcel. -/
def parcelSamples (l : List Byte) : List W64 := (decodeMatrix l).samples
def parcelDesc (l : List Byte) : List Byte := slice l 56 (be l 46 2)

end Sys2Proof.Machine
end

