-- ==== Sys2Proof/Machine/StateTime.lean ====
section
/-!
DEFINITION. The state of a time client (IFD-20) or time unit slave side (IFA-40): local Fleet Time, the two servos, the
stamps that wait for their frames. Fleet Times are counts of 2^-16 ns (R12); what the register page shows stands in the
register file (Tables 2-8 to 2-13).
-/
namespace Sys2Proof.Machine

/-- The two PTP instances (R42, R55). -/
inductive Dom where
  | pri
  | red
  deriving DecidableEq, Repr

/-- A receive strobe that waits for its frame (R80): the corrected receive time, absent where the stamp was discarded
(R45), and the time it was taken; the port is 0 on a die unit. -/
structure RxStamp where
  port : Nat
  t : Option Int
  at_ : Nat
  deriving DecidableEq, Repr

/-- The PTP profile's Ethertype and destination address (Table 2-2). -/
abbrev ptpEthertype : Nat := 0x88F7
abbrev ptpAddress : Nat := 0x011B19000000

/-- messageType of IEEE 1588-2019, for the messages that Table 2-1 names. -/
abbrev ptpSync : Nat := 0x0
abbrev ptpDelayReq : Nat := 0x1
abbrev ptpFollowUp : Nat := 0x8
abbrev ptpDelayResp : Nat := 0x9
abbrev ptpAnnounce : Nat := 0xB

/-- A PTP message that a part sends (Tables 2-1, 2-2): port, domain instance and domainNumber, messageType, sequenceId,
timestamp, correctionField in 2^-16 ns; clockClass and grandmasterIdentity of an Announce; the requester of a Delay_Resp. No
TLV is sent. -/
structure PtpOut where
  port : Nat
  dom : Dom
  domain : Nat
  kind : Nat
  seq : Nat
  secs : Nat
  nanos : Nat
  correction : Int
  clockClass : Nat
  gm : Option Nat
  requester : Nat
  majorSdoId : Nat
  minorSdoId : Nat
  /-- ptpTimescale flag: false, ARB -/
  ptpTimescale : Bool
  /-- the interval of Table 2-2 that the message names; none: the table gives its type none -/
  logInterval : Option Int
  deriving DecidableEq, Repr

/-- What a transmitted PTP event frame was (R80). -/
inductive PtpKind where
  | sync
  | delayReq
  deriving DecidableEq, Repr

/-- A transmitted PTP event frame whose transmit strobe is owed (R78, R80). -/
structure PtpOwed where
  kind : PtpKind
  port : Nat
  dom : Dom
  seq : Nat
  deriving DecidableEq, Repr

/-- One domain instance's servo (R46 to R54); its Table 2-3 state and filtered offset stand in TC_STATUS and TC_OFFSET. -/
structure Servo where
  /-- Offset of local time from the domain at the last used exchange since it was lost; none: no estimate (R54). -/
  estimate : Option Int
  /-- Filtered mean path delay (R50). -/
  fDelay : Option Int
  /-- Steps of local time since the last filtered offset: the filtered offset of now is the register's and this (R50). -/
  refShift : Int
  /-- Consecutive exchanges beyond the jump threshold (R50). -/
  far : Nat
  /-- Consecutive exchanges with |offset| below 20 ns (Table 2-3). -/
  near : Nat
  /-- Lost by an Announce of clockClass 14 or worse that stands (R53). -/
  badClass : Bool
  /-- The servo has been LOCKED since it was last in FREERUN (Table 2-2, clockClass 248). -/
  everLocked : Bool
  /-- The tray reference was lost since the last ACQUIRE (R36). -/
  afterRefLoss : Bool
  /-- grandmasterIdentity of the last Announce (R53). -/
  gm : Option Nat
  /-- sequenceId of the Sync whose Follow_Up is awaited. -/
  syncSeq : Option Nat
  t1 : Option Int
  t2 : Option Int
  t3 : Option Int
  /-- Sum of the correctionFields of Sync and Follow_Up (R46). -/
  cSync : Int
  /-- sequenceId of the next Delay_Req, and of the one that awaits its Delay_Resp. -/
  reqSeq : Nat
  reqOpen : Option Nat
  /-- Times, in ns of the free-running count, of the last valid Sync pair, Announce and Delay_Req. -/
  lastPair : Nat
  missed : Nat
  lastAnn : Nat
  lastReq : Nat
  /-- When HOLDOVER was entered; a further loss in HOLDOVER does not start it anew (R52). -/
  holdSince : Nat
  deriving DecidableEq, Repr

/-- A servo after reset: FREERUN, nothing measured. -/
def Servo.init : Servo :=
  { estimate := none, fDelay := none, refShift := 0, far := 0, near := 0, badClass := false, everLocked := false, afterRefLoss := false,
    gm := none, syncSeq := none, t1 := none, t2 := none, t3 := none, cSync := 0, reqSeq := 0, reqOpen := none,
    lastPair := 0, missed := 0, lastAnn := 0, lastReq := 0, holdSince := 0 }

/-- The time client or time unit (R33 to R57). -/
structure TimeClient where
  /-- Local Fleet Time at the last reference edge, in 2^-16 ns (R12, R33). -/
  now : Nat
  /-- Nanoseconds that have passed since the domain was reset, in reference periods: what timers measure. -/
  mono : Nat
  /-- The tray reference is lost (R36). -/
  refLost : Bool
  /-- The servo's trim per reference period, 2^-16 ns: its frequency part and its slew part (R33, R49). -/
  freq : Int
  slew : Int
  /-- Progress toward the next 2^-16 ns of the switch residual (R55). -/
  residAcc : Nat
  /-- The delay line in service, and when the lines last exchanged roles (R34). -/
  line : Bool
  lineAt : Nat
  /-- Reference periods since the last clock-monitor window closed (R66). -/
  winTicks : Nat
  pri : Servo
  red : Servo
  /-- Receive strobes that wait for their frames, oldest first (R80). -/
  rxStamps : List RxStamp
  /-- Transmitted event frames whose strobe is owed, oldest first (R80). -/
  owed : List PtpOwed
  /-- A step of local time that has yet to act on peals, gates and trace, with the quality in force before it (R36, R54,
  R62). -/
  stepReq : Option (Int × Nat)
  deriving DecidableEq, Repr

/-- The time client after por_n. -/
def TimeClient.init : TimeClient :=
  { now := 0, mono := 0, refLost := false, freq := 0, slew := 0, residAcc := 0, line := false, lineAt := 0, winTicks := 0,
    pri := Servo.init, red := Servo.init, rxStamps := [], owed := [], stepReq := none }

end Sys2Proof.Machine
end

