-- ==== Sys2Proof/Machine/StateFrame.lean ====
section
/-!
DEFINITION. The state of the egress/codec domain: the frame builder's open parcels and staging, the shaper's buckets and
tags, the gate lists; and the die unit's short-frame path (R82, R181 to R219).
-/
namespace Sys2Proof.Machine

/-- A record parcel that is open (R206, R208): the stream and close time under which it was opened. -/
structure OpenParcel where
  ptype : Nat
  job : Nat
  gen : Nat
  stream : Nat
  /-- close time in ns, and when its first record came, in ns of the free-running count -/
  closeNs : Nat
  at_ : Nat
  records : List (List Byte)
  deriving DecidableEq, Repr

/-- A closed parcel that waits in staging (R206, R207, R509). -/
structure Parcel where
  ptype : Nat
  stream : Nat
  job : Nat
  gen : Nat
  pseq : Nat
  /-- the step current when it closed; none where no step was current -/
  step : Option Nat
  bytes : List Byte
  /-- bytes already sent, and, once the first fragment has left between READMIT and the end of the split, whether the parcel
  goes to the partner: all of its fragments do (R509) -/
  sent : Nat
  split : Option Bool
  /-- it lies in the peal reserve -/
  reserve : Bool
  deriving DecidableEq, Repr

structure FrameBuilder where
  opens : List OpenParcel
  /-- closed parcels in the order in which they closed -/
  staged : List Parcel
  /-- next PSEQ and FSEQ of each stream (R184, R186) -/
  pseq : Store Nat
  fseq : Store Nat
  /-- staging filled, and has not had room since (STAGING_FULL) -/
  full : Bool
  deriving DecidableEq, Repr

def FrameBuilder.init : FrameBuilder := ⟨[], [], [], [], false⟩

/-- One window of a gate list; times in ns. -/
structure GateWin where
  mask : Nat
  excl : Bool
  off : Nat
  dur : Nat
  deriving DecidableEq, Repr

/-- A gate list (R216, R218): its enabled entries by number. -/
structure GateList where
  base : Nat
  cycle : Nat
  wins : Store GateWin
  deriving DecidableEq, Repr

/-- A held write of a shaper register (R211, R214). -/
structure HeldShape where
  key : Nat
  word : W64
  /-- written by a control frame: the buckets fill -/
  fill : Bool
  deriving DecidableEq, Repr

structure Shaper where
  /-- tokens in bits of the committed and the peak buckets (R211) -/
  tokC : Store Nat
  tokP : Store Nat
  /-- the last multiple of 1,000 ns already taken -/
  lastMult : Nat
  held : List HeldShape
  /-- start tags of the streams that have a frame waiting (R215) -/
  tags : Store Nat
  /-- streams whose next frame has been counted in GATE_WAIT_N (R217) -/
  waited : List Nat
  active : Option GateList
  /-- a committed list that awaits its switch, with its switch time in ns (R218) -/
  pending : Option (GateList × Nat)
  /-- windows of the active list that are open (R64), by entry -/
  openWins : List Nat
  /-- windows that would have opened before this local time stay closed: a step passed them (R65) -/
  gateFrom : Nat
  deriving DecidableEq, Repr

/-- The reset depth of a bucket in bits: 36 units of 256 bytes (Table 8-5, R211). -/
abbrev resetDepth : Nat := 36 * 2048

def Shaper.init : Shaper :=
  { tokC := [], tokP := [], lastMult := 0, held := [], tags := [], waited := [], active := none, pending := none,
    openWins := [], gateFrom := 0 }

/-- A frame of the short-frame path that waits for a frame boundary (R69, R82): type, body and destination of an Ifenov frame;
or a Delay_Req, whose body is the whole message, with the strobe that it will owe. -/
structure ShortFrame where
  ftype : Nat
  body : List Byte
  dst : Nat
  ptp : Option PtpOwed
  deriving DecidableEq, Repr

end Sys2Proof.Machine
end

