-- ==== Sys2Proof/Machine/StateRecorder.lean ====
section
/-!
DEFINITION. The state of the event recorder, one in each part (R484 to R490).
-/
namespace Sys2Proof.Machine

/-- A record as it is produced: everything of Table 17-8 but RSEQ and SEAL, which it takes when it is written. -/
structure RecIn where
  code : Nat
  flags : Nat
  t : Nat
  temp : Int
  mv : Nat
  suppressed : Nat
  data : List Byte
  deriving DecidableEq, Repr

/-- A rate bucket (R485). -/
structure Bucket where
  tokens : Nat
  /-- records suppressed since the bucket's last admitted record, and the key last latched -/
  count : Nat
  key : Nat
  /-- when it last gained a token or was full, in ns of the free-running count -/
  at_ : Nat
  deriving DecidableEq, Repr

/-- A running flush (R486): `slot` is being written, `word` words of it are acknowledged. -/
structure Flush where
  id : Nat
  cause : Nat
  bank : Nat
  newest : Nat
  slot : Nat
  word : Nat
  /-- the 64 bytes of the slot being written; FLUSH-END is being written -/
  image : List Byte
  ending : Bool
  /-- it ends after the record in progress, and a power flush follows (R481) -/
  yield_ : Bool
  deriving DecidableEq, Repr

structure Recorder where
  /-- 1,024 ring slots of 64 bytes -/
  ring : Store (List Byte)
  /-- input queue of 16 entries -/
  queue : List RecIn
  buckets : Store Bucket
  /-- time of the last supply record, in ns of the free-running count (Table 17-9) -/
  lastSupply : Nat
  flush : Option Flush
  /-- a fault flush that has been triggered and not begun, and one queued behind a running flush; their causes (R487) -/
  trigger : Option Nat
  queued : Option Nat
  lastFault : Option Nat
  /-- the two flush banks, 16,384 words of 64 bits -/
  area : Store W64
  /-- the record of the window, while READY, or the one being loaded (R489) -/
  window : List Byte
  deriving DecidableEq, Repr

def Recorder.init : Recorder :=
  { ring := [], queue := [], buckets := [], lastSupply := 0, flush := none, trigger := none, queued := none,
    lastFault := none, area := [], window := [] }

end Sys2Proof.Machine
end

