-- ==== Sys2Proof/Machine/StateTocsin.lean ====
section
/-!
DEFINITION. The state of a tocsin MAC and of the die unit's alarm queue (R224 to R231).
-/
namespace Sys2Proof.Machine

/-- A tocsin frame that waits for the bus (Table 8-10), with its collisions so far; `alarm` is the ASEQ of an alarm of the
own queue. -/
structure TocFrame where
  dst : Nat
  type : Nat
  payload : List Byte
  attempts : Nat
  alarm : Option Nat
  deriving DecidableEq, Repr

/-- One tocsin MAC. -/
structure TocMac where
  /-- frames that wait, in order; the first is the one being sent or backed off -/
  queue : List TocFrame
  sending : Bool
  /-- ts_txd: the levels of the frame being sent, two a bit, from its first preamble bit on; none while the bus is released
  (R97, R225) -/
  line : List Bool
  /-- a backoff is served until then, in ns of the free-running count (R227) -/
  backoffUntil : Nat
  /-- frames sent to the end, after the delimiter (Table 8-10), oldest first -/
  sent : List (List Byte)
  deriving DecidableEq, Repr

def TocMac.init : TocMac := ⟨[], false, [], 0, []⟩

/-- An alarm in the alarm queue (R228). -/
structure Alarm where
  aseq : Nat
  payload : List Byte
  /-- its cause is he_sev 0b10 or a supply cause: it is not replaced -/
  grave : Bool
  sends : Nat
  lastSend : Nat
  deriving DecidableEq, Repr

/-- The die unit's tocsin state beside its MAC. -/
structure Tocsin where
  mac : TocMac
  alarms : List Alarm
  aseq : Nat
  /-- when the last valid BEACON of the home aggregator came, or the watch for one began, in ns of the free-running count;
  none while none is awaited or its absence is reported (R230) -/
  beaconAt : Option Nat
  deriving DecidableEq, Repr

def Tocsin.init : Tocsin := ⟨TocMac.init, [], 0, none⟩

end Sys2Proof.Machine
end

