-- ==== Sys2Proof/Machine/StateTrace.lean ====
section
/-!
DEFINITION. The state of the trace funnel: staging, segments, dead letters not yet reported, and the always-on counts of
packets presented while the trace domain sleeps (chapter "Trace Funnel and Local Trace Buffers", R131 to R157, R76).
-/
namespace Sys2Proof.Machine

/-- A packet on a trace port (Table 3-7). -/
structure TracePkt where
  kind : Nat
  payload : Nat
  addr : Nat
  size : Nat
  rw : Bool
  sec : Bool
  prv : Bool
  deriving DecidableEq, Repr

/-- What a staged packet is (Table 5-3). -/
inductive TraceBody where
  | event (payload : Nat)
  | data (rw : Bool) (size addr : Nat) (value : Option Nat)
  | host (payload : Nat)
  | sleep
  | wake
  | gap (stopNs : Nat)
  | scale
  | discont (stepNs : Int)
  | dead (cause count : Nat)
  | auth (sec prv : Bool)
  deriving DecidableEq, Repr

/-- A packet in the staging queue: its presentation cycle and the stamp of that edge, its source and priority, its place
within the cycle (R139), and the last cycle in which trc_stretch was seen when it was staged. -/
structure Staged where
  body : TraceBody
  cyc : Nat
  t : Nat
  src : Nat
  prio : Nat
  port : Nat
  cls : Nat
  key : Nat
  lastStretch : Option Nat
  quality : Nat
  deriving DecidableEq, Repr

/-- A 4 KiB segment that holds packets (R150, Table 5-5). -/
structure Segment where
  seq : Nat
  flags : Nat
  ref : Nat
  quality : Nat
  nom : Nat
  /-- packets written, header excluded -/
  bytes : List Byte
  closed : Bool
  /-- when its first packet was written, in ns of the free-running count (R151) -/
  at_ : Nat
  deriving DecidableEq, Repr

/-- Dead letters of a source that are not yet reported: their number and causes, and the source's configured priority, with
which they are reported (R137, Tables 5-2, 5-4). -/
structure DeadPend where
  count : Nat
  causes : Nat
  prio : Nat
  deriving DecidableEq, Repr

/-- A register change that waits for the next trace edge (R134, R155). -/
inductive TrcChange where
  | auth (sec prv : Bool)
  | mode (n : Nat)
  | reg (addr w : Nat)
  deriving DecidableEq, Repr

structure TraceFunnel where
  /-- trc_clk cycles counted -/
  cyc : Nat
  staging : List Staged
  /-- segments that hold packets, by number -/
  segs : Store Segment
  /-- the open segment, and the number of the next to open -/
  openSeg : Option Nat
  nextSeg : Nat
  /-- the base of deltas, and the last sync point or segment reference edge, as cycles (R140, R142) -/
  base : Nat
  lastSync : Nat
  lastStretch : Option Nat
  /-- the cycle of a marker that was lost: a SYNC precedes the next timed packet (R137) -/
  needSync : Option Nat
  /-- segments in which a delta has been written since the last sync point (R143, Table 5-5) -/
  span : List Nat
  /-- dead letters not yet reported, by source ID; and those of packets and reports that found no segment when they were to be
  written, which precede the next packet of the source (R138) -/
  dead : Store DeadPend
  lost : Store DeadPend
  /-- the edge of the present cycle has been taken, and the Fleet Time of the last edge (R67, R144) -/
  begun : Bool
  edgeT : Option Nat
  /-- changes that wait for the next edge, in the order they were made -/
  pend : List TrcChange
  /-- a SCALE or a DISCONT is due at the next trace edge (R143, R144) -/
  pendScale : Bool
  pendDiscont : Option Int
  /-- tr_sleep levels last seen (R147) -/
  sleepLevel : Nat
  /-- the domain SLEEP packet has been written and power-down waits for the drain (R148) -/
  sleeping : Bool
  /-- a wake cause has come since (R76) -/
  wakeAgain : Bool
  /-- the drain engine has been told to stop (R153) -/
  drainStopped : Bool
  /-- when a packet was last presented, in ns of the free-running count (Table 3-3) -/
  lastPresent : Nat
  /-- the trace clock stands (R144) -/
  stopped : Bool
  /-- always-on counts kept while the domain sleeps (R76): dead letters by port, bad kinds, excluded packets -/
  aoDead : Store Nat
  aoBad : Nat
  aoExcl : Nat
  deriving DecidableEq, Repr

def TraceFunnel.init : TraceFunnel :=
  { cyc := 0, staging := [], segs := [], openSeg := none, nextSeg := 0, base := 0, lastSync := 0, lastStretch := none,
    needSync := none, span := [], dead := [], lost := [], begun := false, edgeT := none, pend := [], pendScale := false, pendDiscont := none, sleepLevel := 0, sleeping := false, wakeAgain := false,
    drainStopped := false, lastPresent := 0, stopped := false, aoDead := [], aoBad := 0, aoExcl := 0 }

end Sys2Proof.Machine
end

