-- ==== Sys2Proof/Machine/StateDu.lean ====
section
/-!
DEFINITION. The IFD-20 die unit: its registers and the state of its five power domains (Table 3-1).
-/
namespace Sys2Proof.Machine

/-- The latest sensor reading (R95). -/
structure Sensor where
  temp : Int
  mv : Nat
  /-- when it came, in ns of the free-running count; none until the first sn_upd after por_n -/
  at_ : Option Nat
  deriving DecidableEq, Repr

/-- A fast domain's power control beside its DU_PD state (R73, R75). -/
structure DomainPower where
  /-- when the clock was requested; none: no request pending -/
  reqAt : Option Nat
  acked : Bool
  /-- how long the sleep condition has held without interruption, ns -/
  idle : Nat
  deriving DecidableEq, Repr

def DomainPower.init : DomainPower := ⟨none, false, 0⟩

/-- The register access port's last answer (R98), and when an IND_DATA access was last made, in ns of the free-running
count (R465). -/
structure RegPort where
  rdata : W64
  slept : Bool
  indAt : Option Nat
  deriving DecidableEq, Repr

structure DieUnit where
  regs : RegFile
  tc : TimeClient
  /-- number of the next free-value draw (the model's own) -/
  free : Nat
  port : RegPort
  sn : Sensor
  pdCnt : DomainPower
  pdTrc : DomainPower
  pdEgr : DomainPower
  pdTcp : DomainPower
  /-- light-set counters L0 to L31 (R102), and the lt_err levels last seen -/
  light : Store W64
  ltErr : Nat
  /-- CNT_STATUS.OVF has been set by a wrap of the light set, and not cleared since (R103) -/
  lightOvf : Bool
  peals : List ArmedPeal
  cnt : CounterBank
  trc : TraceFunnel
  tcp : TileCapture
  fb : FrameBuilder
  shp : Shaper
  /-- short frames that wait for a frame boundary (R82), and the frames the MAC has accepted, oldest first -/
  short : List ShortFrame
  macTx : List Frame
  toc : Tocsin
  he : Health
  recd : Recorder
  ctl : Control
  /-- wake causes held while sg_warn counts, by domain code (R480) -/
  heldWake : List Nat
  deriving DecidableEq, Repr

end Sys2Proof.Machine
end

