-- ==== Sys2Proof/Config.lean ====
section
/-!
DEFINITION. What an implementation fixes and the spec leaves open. Every constant here is opaque: nothing can evaluate
it, so a statement that mentions it holds whatever its value is. A counter held as plain data in each part (the field
`free`) numbers the draws that must differ from one use to the next.
-/
namespace Sys2Proof.Config

/-- The frequency trim that the servo chooses at a used exchange, before the bound of Table 2-4 is applied (R49); log 10. -/
opaque servoFreq : Nat → Int
/-- The phase slew that the servo chooses at a used exchange, before the bound of Table 2-4 is applied (R49); log 10. -/
opaque servoSlew : Nat → Int
/-- The filtered mean path delay after a used exchange, of the previous value and the measurement (R50); log 10. -/
opaque filterDelay : Int → Int → Int
/-- The filtered offset after a used exchange, of the previous value and the measurement (R50); log 10. -/
opaque filterOffset : Int → Int → Int
/-- The filtered inter-domain difference, of the previous value and the measurement; log 10. -/
opaque filterDelta : Int → Int → Int
/-- Whether an aggregator that has been in HOLDOVER for this many ns estimates its error beyond 1 µs (R52); log 10. -/
opaque holdoverBeyond : Nat → Bool

/-- The clockIdentity by which a part names itself in PTP messages, of its MAC address: no rule gives it (Table 2-2); log 121. -/
opaque clockIdentity : Nat → BitVec 64

/-- RSEQ of a FLUSH-HEADER or FLUSH-END record, which no rule gives (Table 17-8), of the FLUSH_ID; log 18. -/
opaque flushRseq : Nat → BitVec 32
/-- OP of a report that the die unit makes itself (Table 14-1, UNIT 0xFF), which no rule gives, of the code; log 19. -/
opaque selfOp : Nat → BitVec 8
/-- The backoff generator of a tocsin node: a draw, of its number (R227); log 20. -/
opaque tocsinDraw : Nat → Nat
/-- NONCE of a request series, chosen by the die unit (Table 10-1), of the number of the draw; log 21. -/
opaque nonce : Nat → BitVec 32

/-- The amount that a SIGNAL of an n outside 1 to 65,535 adds (R241); log 30. -/
opaque semAmount : Nat → Nat
/-- The timeout of a WAIT whose t is 2^24 or more (R241); log 30. -/
opaque semTimeout : Nat → Nat

/-- KIND of the EVENT record that a charge writes, which no rule gives (R400, Table 12-11), of the health code; log 32. -/
opaque chargeKind : Nat → BitVec 8

/-- IN_CONSUMED and IN_BIT of a completion record where the spec does not say what a CDE channel has read: at a stop of an
encode channel, and at a BAD-HEADER fault (log 34). -/
opaque chanConsumed : Nat → BitVec 35

/-- LAST_BUF of a completion record before any unit was written (log 34). -/
opaque chanLastBuf : Nat → BitVec 64

/-- The tocsin node address that a registration assigns to a local index (R226, Table 10-1; log 38). -/
opaque tocsinNode : Nat → BitVec 5

/-- STATE of BEACON and KEEPALIVE where several of degraded (1), unprotected (2) and serving the partner's die units (4) hold
at once, of the sum of those that hold (Table 8-11; log 41). -/
opaque beaconState : Nat → BitVec 8

/-- The image of a job context in a CONTEXT message, whose layout no rule gives (R377; log 42), of the number of the draw. -/
opaque jobImage : Nat → List Byte

/-- The generator that chooses tiles for shadow audits (R313), of the number of the draw; log 50. -/
opaque shadowDraw : Nat → Nat
/-- The usage of an element that is judged by class, which no rule gives (R305, R306), of the number of the draw; log 51. -/
opaque classUsage : Nat → BitVec 16
/-- STEP, cell, descriptor number and COMMIT_NS in the verdict of a capture of which no descriptor arrived (R307), of the number
of the draw; log 52. -/
opaque lostStep : Nat → BitVec 48
opaque lostCell : Nat → BitVec 6
opaque lostNum : Nat → BitVec 4
opaque lostCommit : Nat → BitVec 64
/-- DEV_N, WORST_ROW, WORST_COL, USAGE and the by-class flag of an AUDITOR-FAULT verdict, which has no deciding result (R315,
R316), of the number of the draw; log 55. -/
opaque undecided : Nat → BitVec 65
/-- AT of a DUMP-INDEX record: no chunk says at which end of the step the dump was taken (Tables 6-12, 13-2), of the number of
the draw; log 64. -/
opaque dumpAt : Nat → BitVec 8
/-- The new tree part that a REPARENT payload gives an aggregator, in the layout of Arm Job data, none where it names it not:
no rule gives the layout of the tree parts in the payload (Table 10-15, R283); log 65. -/
opaque reparentPart : List Byte → Nat → Option (List Byte)
/-- The selection key that the aggregator draws for a job from its own random source (R437), of the number of the draw; log 66. -/
opaque selKey : Nat → BitVec 128
/-- The standard deviation of a drift baseline, from its sum of squares and its number of values: no rule says by what the
sum is divided (R352); log 60. -/
opaque driftSd : BitVec 64 → Nat → BitVec 64
/-- VALUE, REF and SCORE of a shipped detector's event where no rule gives them (R352 to R354), of the number of the draw;
log 61. -/
opaque eventValue : Nat → BitVec 64
opaque eventRef : Nat → BitVec 64
opaque eventScore : Nat → BitVec 64
/-- Output 0 of straggler-tray where the value of series 0 is no number that an unsigned integer holds (R351), of the value;
log 61. -/
opaque stragglerOutput : BitVec 64 → BitVec 64
/-- The median of a window of even length, of the two values in its middle (R353); log 62. -/
opaque evenMedian : BitVec 64 → BitVec 64 → BitVec 64
/-- The natural logarithm in FP64, whose rounding no rule gives (R354); log 63. -/
opaque ln : BitVec 64 → BitVec 64
/-- The result in a lane of a vector instruction for an element type or a value for which no rule gives one: opcode, type, the
lane's destination and source values (R336, Table 12-4); log 70. -/
opaque lane : Nat → Nat → BitVec 64 → BitVec 64 → BitVec 64 → BitVec 64
/-- VEXP2, VLOG2 and the logistic and tanh functions, which R336 bounds and does not give: opcode, type or function, the value;
log 71. -/
opaque elementary : Nat → Nat → BitVec 64 → BitVec 64
/-- The result of a reduction over lanes where no rule gives one: opcode, type, mask, lanes, which of its results (R336); log
70. -/
opaque reduce : Nat → Nat → BitVec 64 → List (BitVec 64) → Nat → BitVec 64
/-- What a lane or product that no accumulator holds exactly adds to S and to T (R299, R337): of the number of the draw; log
72. -/
opaque xdeAdd : Nat → Int
/-- Bytes that MST stores, and the products of MMA, for a type that Table 12-4 does not name: of the number of the draw; log
70. -/
opaque tile : Nat → BitVec 32
/-- The bytes of a management event for which no rule gives a layout (R430), of its name and numbers; log 77. -/
opaque reportBytes : String → List Nat → List Byte
/-- The layout of a log for which no rule gives one (Table 15-8), of the log and the numbers it shows; log 78. -/
opaque logLayout : Nat → List Nat → List Byte
/-- RESULT[63:32] of a Read Trace after which no parcel waits (R449), of the number of the draw; log 79. -/
opaque nextPseq : Nat → BitVec 32
/-- Whether a firmware image passes its format and signature check, and its version: no rule gives the format (R442); log 80. -/
opaque fwImageOk : List Byte → Bool
opaque fwVersion : List Byte → BitVec 64

end Sys2Proof.Config
end

