-- ==== Sys2Proof/Machine/RegMap.lean ====
section
/-!
DEFINITION. The register map of the two parts, one row per register of the field maps of the spec
(Tables 2-8 to 17-14): its key, its access masks, its reset value, and one named field per row of the map.
A key is page * 4096 + offset for a register that is addressed directly, and indBase + page * 2^32 + entry for
a word that is reached through the indirect pair of an aggregator page. The time client page, the tocsin MAC page
and the recorder page are named at their die unit pages 0x2, 0xB and 0xD; `Fld.onPage` moves a field to the
aggregator page of the same layout (Table 16-3).
-/
namespace Sys2Proof.Machine

/-- TC_JUMP_THRESH, die unit page 0x2 (Table 2-8): the key of the register. -/
abbrev addr_TC_JUMP_THRESH : Nat := 0x2090
/-- TC_JUMP_THRESH [63:0], PRIV, reset 100: Jump threshold in ns; values below 16 act as 16 -/
abbrev TC_JUMP_THRESH : Fld := ⟨addr_TC_JUMP_THRESH, 63, 0⟩

/-- TC_STROBE_DELAY, die unit page 0x2 (Table 2-8): the key of the register. -/
abbrev addr_TC_STROBE_DELAY : Nat := 0x20A0
/-- TC_STROBE_DELAY [63:0], PRIV, reset 0: D_s in units of 2^-8 ns, declared by the integrator; bits [63:16] reserved -/
abbrev TC_STROBE_DELAY : Fld := ⟨addr_TC_STROBE_DELAY, 63, 0⟩

/-- TC_NOW_NS, die unit page 0x2 (Table 2-8): the key of the register. -/
abbrev addr_TC_NOW_NS : Nat := 0x20A8
/-- TC_NOW_NS [63:0], RO, reset 0: Local Fleet Time nanoseconds; a read latches the matching fraction and quality into TC_NOW_FRAC -/
abbrev TC_NOW_NS : Fld := ⟨addr_TC_NOW_NS, 63, 0⟩

/-- TC_OFFSET_PRI, die unit page 0x2 (Table 2-8): the key of the register. -/
abbrev addr_TC_OFFSET_PRI : Nat := 0x20B8
/-- TC_OFFSET_PRI [63:0], RO, reset 0: Last filtered offset of the primary domain, signed, 2^-16 ns -/
abbrev TC_OFFSET_PRI : Fld := ⟨addr_TC_OFFSET_PRI, 63, 0⟩

/-- TC_OFFSET_RED, die unit page 0x2 (Table 2-8): the key of the register. -/
abbrev addr_TC_OFFSET_RED : Nat := 0x20C0
/-- TC_OFFSET_RED [63:0], RO, reset 0: Last filtered offset of the redundant domain, signed, 2^-16 ns -/
abbrev TC_OFFSET_RED : Fld := ⟨addr_TC_OFFSET_RED, 63, 0⟩

/-- TC_DOMAIN_DELTA, die unit page 0x2 (Table 2-8): the key of the register. -/
abbrev addr_TC_DOMAIN_DELTA : Nat := 0x20C8
/-- TC_DOMAIN_DELTA [63:0], RO, reset 0: Filtered Δ, signed, 2^-16 ns -/
abbrev TC_DOMAIN_DELTA : Fld := ⟨addr_TC_DOMAIN_DELTA, 63, 0⟩

/-- TC_SWITCH_RESID, die unit page 0x2 (Table 2-8): the key of the register. -/
abbrev addr_TC_SWITCH_RESID : Nat := 0x20D0
/-- TC_SWITCH_RESID [63:0], RO, reset 0: Remaining switch residual (R55), signed, 2^-16 ns -/
abbrev TC_SWITCH_RESID : Fld := ⟨addr_TC_SWITCH_RESID, 63, 0⟩

/-- TC_ASYM, die unit page 0x2 (Table 2-8): the key of the register. -/
abbrev addr_TC_ASYM : Nat := 0x20D8
/-- TC_ASYM [63:0], PRIV, reset 0: Delay asymmetry A for compatibility mode, signed, 2^-16 ns -/
abbrev TC_ASYM : Fld := ⟨addr_TC_ASYM, 63, 0⟩

/-- TC_PEAL_NEXT, die unit page 0x2 (Table 2-8): the key of the register. -/
abbrev addr_TC_PEAL_NEXT : Nat := 0x20E8
/-- TC_PEAL_NEXT [63:0], RO, reset 0xFFFF_FFFF_FFFF_FFFF: T_p of the earliest armed peal; all ones when none is armed -/
abbrev TC_PEAL_NEXT : Fld := ⟨addr_TC_PEAL_NEXT, 63, 0⟩

/-- TC_MASTER, die unit page 0x2 (Table 2-8): the key of the register. -/
abbrev addr_TC_MASTER : Nat := 0x20F8
/-- TC_MASTER [63:0], PRIV, reset 0: [47:0] MAC address of the PTP master accepted while no registration stands (R14, R40); zero: none; [63:48] ... -/
abbrev TC_MASTER : Fld := ⟨addr_TC_MASTER, 63, 0⟩

/-- TC_CTRL, die unit page 0x2 (Table 2-9): the key of the register. -/
abbrev addr_TC_CTRL : Nat := 0x2080
/-- TC_CTRL.PRI_DOMAIN [39:32], PRIV, reset 0x00: Primary domainNumber, 0 to 127; values above 127 are ignored -/
abbrev TC_CTRL_PRI_DOMAIN : Fld := ⟨addr_TC_CTRL, 39, 32⟩
/-- TC_CTRL.RED_DOMAIN [31:24], PRIV, reset 0x01: Redundant domainNumber, 0 to 127; values above 127 are ignored -/
abbrev TC_CTRL_RED_DOMAIN : Fld := ⟨addr_TC_CTRL, 31, 24⟩
/-- TC_CTRL.ACCEPT_JUMP [7:7], PRIV, reset 0: Write 1: step to the active domain's estimate (R54); reads 0 -/
abbrev TC_CTRL_ACCEPT_JUMP : Fld := ⟨addr_TC_CTRL, 7, 7⟩
/-- TC_CTRL.ACTIVE_REQ [6:6], PRIV, reset 0: Domain named by a request: 0 primary, 1 redundant (R56); reads the last value written -/
abbrev TC_CTRL_ACTIVE_REQ : Fld := ⟨addr_TC_CTRL, 6, 6⟩
/-- TC_CTRL.COMPAT [5:5], PRIV, reset 0: 1: compatibility mode (R47) -/
abbrev TC_CTRL_COMPAT : Fld := ⟨addr_TC_CTRL, 5, 5⟩
/-- TC_CTRL.POLICY [4:4], PRIV, reset 0: 0: REFUSE; 1: SWITCH -/
abbrev TC_CTRL_POLICY : Fld := ⟨addr_TC_CTRL, 4, 4⟩
/-- TC_CTRL.ACTIVE_SET [3:3], PRIV, reset 0: Write 1: request the domain that ACTIVE_REQ names in the same write (R56); reads 0 -/
abbrev TC_CTRL_ACTIVE_SET : Fld := ⟨addr_TC_CTRL, 3, 3⟩
/-- TC_CTRL.RED_EN [1:1], PRIV, reset 0: 1: redundant instance runs -/
abbrev TC_CTRL_RED_EN : Fld := ⟨addr_TC_CTRL, 1, 1⟩
/-- TC_CTRL.PRI_EN [0:0], PRIV, reset 0: 1: primary instance runs -/
abbrev TC_CTRL_PRI_EN : Fld := ⟨addr_TC_CTRL, 0, 0⟩

/-- TC_STATUS, die unit page 0x2 (Table 2-10): the key of the register. -/
abbrev addr_TC_STATUS : Nat := 0x2088
/-- TC_STATUS.ACTIVE [47:47], RO, reset 0: Active domain: 0 primary, 1 redundant -/
abbrev TC_STATUS_ACTIVE : Fld := ⟨addr_TC_STATUS, 47, 47⟩
/-- TC_STATUS.PRI_STATE [46:44], RO, reset 0b000: Primary servo state (Table 2-3) -/
abbrev TC_STATUS_PRI_STATE : Fld := ⟨addr_TC_STATUS, 46, 44⟩
/-- TC_STATUS.RED_STATE [43:41], RO, reset 0b000: Redundant servo state (Table 2-3) -/
abbrev TC_STATUS_RED_STATE : Fld := ⟨addr_TC_STATUS, 43, 41⟩
/-- TC_STATUS.CLK_STOPPED [7:7], W1C-SEQ, reset 0: A fast-domain clock stopped (R66) -/
abbrev TC_STATUS_CLK_STOPPED : Fld := ⟨addr_TC_STATUS, 7, 7⟩
/-- TC_STATUS.CLK_STRETCHED [6:6], W1C-SEQ, reset 0: A fast-domain clock stretched (R66) -/
abbrev TC_STATUS_CLK_STRETCHED : Fld := ⟨addr_TC_STATUS, 6, 6⟩
/-- TC_STATUS.PEAL_MISSED [5:5], W1C-SEQ, reset 0: A peal arrived late (R59) -/
abbrev TC_STATUS_PEAL_MISSED : Fld := ⟨addr_TC_STATUS, 5, 5⟩
/-- TC_STATUS.MAC_LAT_INVALID [4:4], W1C-SEQ, reset 0: A stamp was discarded (R45) -/
abbrev TC_STATUS_MAC_LAT_INVALID : Fld := ⟨addr_TC_STATUS, 4, 4⟩
/-- TC_STATUS.STEPPED [3:3], W1C-SEQ, reset 0: Local time was stepped -/
abbrev TC_STATUS_STEPPED : Fld := ⟨addr_TC_STATUS, 3, 3⟩
/-- TC_STATUS.JUMP_REFUSED [2:2], W1C-SEQ, reset 0: A jump was refused (R54) -/
abbrev TC_STATUS_JUMP_REFUSED : Fld := ⟨addr_TC_STATUS, 2, 2⟩
/-- TC_STATUS.SWITCHED [1:1], W1C-SEQ, reset 0: The active domain changed (R55, R56) -/
abbrev TC_STATUS_SWITCHED : Fld := ⟨addr_TC_STATUS, 1, 1⟩
/-- TC_STATUS.DOMAIN_LOST [0:0], W1C-SEQ, reset 0: A domain was lost (R53) -/
abbrev TC_STATUS_DOMAIN_LOST : Fld := ⟨addr_TC_STATUS, 0, 0⟩

/-- TC_MAC_LAT, die unit page 0x2 (Table 2-11): the key of the register. -/
abbrev addr_TC_MAC_LAT : Nat := 0x2098
/-- TC_MAC_LAT.VALID [63:63], RO, reset 0: Latency-valid bit sampled with the last stamp -/
abbrev TC_MAC_LAT_VALID : Fld := ⟨addr_TC_MAC_LAT, 63, 63⟩
/-- TC_MAC_LAT.EG_LAT [55:32], RO, reset 0: L_eg sampled with the last transmit stamp, 2^-8 ns -/
abbrev TC_MAC_LAT_EG_LAT : Fld := ⟨addr_TC_MAC_LAT, 55, 32⟩
/-- TC_MAC_LAT.IN_LAT [23:0], RO, reset 0: L_in sampled with the last receive stamp, 2^-8 ns -/
abbrev TC_MAC_LAT_IN_LAT : Fld := ⟨addr_TC_MAC_LAT, 23, 0⟩

/-- TC_NOW_FRAC, die unit page 0x2 (Table 2-12): the key of the register. -/
abbrev addr_TC_NOW_FRAC : Nat := 0x20B0
/-- TC_NOW_FRAC.QUALITY [17:16], RO, reset 0b11: 0b00 locked, 0b01 tracking or acquiring, 0b10 holdover, 0b11 invalid -/
abbrev TC_NOW_FRAC_QUALITY : Fld := ⟨addr_TC_NOW_FRAC, 17, 16⟩
/-- TC_NOW_FRAC.FRACTION [15:0], RO, reset 0: Fraction latched by the last TC_NOW_NS read, 2^-16 ns; bits [13:0] read zero (R13) -/
abbrev TC_NOW_FRAC_FRACTION : Fld := ⟨addr_TC_NOW_FRAC, 15, 0⟩

/-- TC_CLKMON_NOM, die unit page 0x2 (Table 2-13): the key of the register. -/
abbrev addr_TC_CLKMON_NOM : Nat := 0x20E0
/-- TC_CLKMON_NOM.NOM_TILE [63:48], RW, reset 768: Nominal tile-capture clock edges per 640 ns window -/
abbrev TC_CLKMON_NOM_NOM_TILE : Fld := ⟨addr_TC_CLKMON_NOM, 63, 48⟩
/-- TC_CLKMON_NOM.NOM_EGRESS [47:32], RW, reset 768: Nominal egress/codec clock edges per window -/
abbrev TC_CLKMON_NOM_NOM_EGRESS : Fld := ⟨addr_TC_CLKMON_NOM, 47, 32⟩
/-- TC_CLKMON_NOM.NOM_TRACE [31:16], RW, reset 768: Nominal trace clock edges per window -/
abbrev TC_CLKMON_NOM_NOM_TRACE : Fld := ⟨addr_TC_CLKMON_NOM, 31, 16⟩
/-- TC_CLKMON_NOM.NOM_COUNTER [15:0], RW, reset 768: Nominal counter clock edges per window -/
abbrev TC_CLKMON_NOM_NOM_COUNTER : Fld := ⟨addr_TC_CLKMON_NOM, 15, 0⟩

/-- TC_COUNTS, die unit page 0x2 (Table 2-13): the key of the register. -/
abbrev addr_TC_COUNTS : Nat := 0x20F0
/-- TC_COUNTS.OUTLIERS [63:48], RO, reset 0: Exchanges rejected (R50), saturating -/
abbrev TC_COUNTS_OUTLIERS : Fld := ⟨addr_TC_COUNTS, 63, 48⟩
/-- TC_COUNTS.SYNC_MISSED [47:32], RO, reset 0: Sync intervals without a valid Sync, saturating -/
abbrev TC_COUNTS_SYNC_MISSED : Fld := ⟨addr_TC_COUNTS, 47, 32⟩
/-- TC_COUNTS.STAMPS_DISCARDED [31:16], RO, reset 0: Stamps discarded (R45), saturating -/
abbrev TC_COUNTS_STAMPS_DISCARDED : Fld := ⟨addr_TC_COUNTS, 31, 16⟩
/-- TC_COUNTS.IGNORED [15:0], RO, reset 0: PTP messages ignored (R41, R43), saturating -/
abbrev TC_COUNTS_IGNORED : Fld := ⟨addr_TC_COUNTS, 15, 0⟩

/-- CNT_LATCH_T_START, die unit page 0x3 (Table 4-7): the key of the register. -/
abbrev addr_CNT_LATCH_T_START : Nat := 0x30B0
/-- CNT_LATCH_T_START [63:0], RO, reset 0: Fleet Time ns of the start-latch edge -/
abbrev CNT_LATCH_T_START : Fld := ⟨addr_CNT_LATCH_T_START, 63, 0⟩

/-- CNT_LATCH_T_END, die unit page 0x3 (Table 4-7): the key of the register. -/
abbrev addr_CNT_LATCH_T_END : Nat := 0x30B8
/-- CNT_LATCH_T_END [63:0], RO, reset 0: Fleet Time ns of the end-latch edge -/
abbrev CNT_LATCH_T_END : Fld := ⟨addr_CNT_LATCH_T_END, 63, 0⟩

/-- CNT_SNAP_T, die unit page 0x3 (Table 4-7): the key of the register. -/
abbrev addr_CNT_SNAP_T : Nat := 0x30C0
/-- CNT_SNAP_T [63:0], RO, reset 0: Fleet Time ns of the last local snapshot (R120) -/
abbrev CNT_SNAP_T : Fld := ⟨addr_CNT_SNAP_T, 63, 0⟩

/-- CNT_PEAL_T0, die unit page 0x3 (Table 4-7): the key of the register. -/
abbrev addr_CNT_PEAL_T0 : Nat := 0x30D8
/-- CNT_PEAL_T0 [63:0], RO, reset 0: Snapshot postmark ns of peal bank 0 -/
abbrev CNT_PEAL_T0 : Fld := ⟨addr_CNT_PEAL_T0, 63, 0⟩

/-- CNT_PEAL_T1, die unit page 0x3 (Table 4-7): the key of the register. -/
abbrev addr_CNT_PEAL_T1 : Nat := 0x30E0
/-- CNT_PEAL_T1 [63:0], RO, reset 0: Snapshot postmark ns of peal bank 1 -/
abbrev CNT_PEAL_T1 : Fld := ⟨addr_CNT_PEAL_T1, 63, 0⟩

/-- CNT_FROZEN_CYC, die unit page 0x3 (Table 4-7): the key of the register. -/
abbrev addr_CNT_FROZEN_CYC : Nat := 0x30E8
/-- CNT_FROZEN_CYC [63:0], RO, reset 0: cnt_clk cycles under freeze (R118), saturating -/
abbrev CNT_FROZEN_CYC : Fld := ⟨addr_CNT_FROZEN_CYC, 63, 0⟩

/-- CNT_OVF, die unit page 0x3 (Table 4-7): the key of the register. -/
abbrev addr_CNT_OVF (i : Nat) : Nat := 0x3100 + 8 * i
/-- CNT_OVF [63:0], W1C-SEQ, reset 0: Bit i of CNT_OVFk: counter 64k + i wrapped -/
abbrev CNT_OVF (i : Nat) : Fld := ⟨addr_CNT_OVF i, 63, 0⟩

/-- CNT_L, die unit page 0x3 (Table 4-7): the key of the register. -/
abbrev addr_CNT_L (i : Nat) : Nat := 0x3200 + 8 * i
/-- CNT_L [63:0], RO, reset 0: Light-set counter Ln at 0x200 + 8n, in the view selected (R130) -/
abbrev CNT_L (i : Nat) : Fld := ⟨addr_CNT_L i, 63, 0⟩

/-- CNT_CTRL, die unit page 0x3 (Table 4-8): the key of the register. -/
abbrev addr_CNT_CTRL : Nat := 0x3080
/-- CNT_CTRL.FREEZE_MAX [47:32], PRIV, reset 100: Freeze limit in units of 100 µs; 0: no limit (R119) -/
abbrev CNT_CTRL_FREEZE_MAX : Fld := ⟨addr_CNT_CTRL, 47, 32⟩
/-- CNT_CTRL.SLOT_WIDTH [11:8], PRIV, reset 0: Issue width 1 to 8; 0: classification off (R125) -/
abbrev CNT_CTRL_SLOT_WIDTH : Fld := ⟨addr_CNT_CTRL, 11, 8⟩
/-- CNT_CTRL.CLEAR [7:7], PRIV, reset 0: Write 1: zero the main counters (R121); reads 0 -/
abbrev CNT_CTRL_CLEAR : Fld := ⟨addr_CNT_CTRL, 7, 7⟩
/-- CNT_CTRL.LATCH_REL [6:6], PRIV, reset 0: Write 1: release held latches (R116); reads 0 -/
abbrev CNT_CTRL_LATCH_REL : Fld := ⟨addr_CNT_CTRL, 6, 6⟩
/-- CNT_CTRL.LATCH_EMIT [5:5], PRIV, reset 0: 1: queue a latch parcel at each end latch (R117) -/
abbrev CNT_CTRL_LATCH_EMIT : Fld := ⟨addr_CNT_CTRL, 5, 5⟩
/-- CNT_CTRL.LATCH_HOLD [4:4], PRIV, reset 0: 0 overwrite mode; 1 hold mode -/
abbrev CNT_CTRL_LATCH_HOLD : Fld := ⟨addr_CNT_CTRL, 4, 4⟩
/-- CNT_CTRL.LATCH_EN [3:3], PRIV, reset 0: 1: command latching on -/
abbrev CNT_CTRL_LATCH_EN : Fld := ⟨addr_CNT_CTRL, 3, 3⟩
/-- CNT_CTRL.SNAP [2:2], PRIV, reset 0: Write 1: local snapshot (R120); reads 0 -/
abbrev CNT_CTRL_SNAP : Fld := ⟨addr_CNT_CTRL, 2, 2⟩
/-- CNT_CTRL.FREEZE_REL [1:1], PRIV, reset 0: Write 1: release a freeze; reads 0 -/
abbrev CNT_CTRL_FREEZE_REL : Fld := ⟨addr_CNT_CTRL, 1, 1⟩
/-- CNT_CTRL.FREEZE [0:0], PRIV, reset 0: Write 1: freeze (R118); reads 1 while a freeze is held -/
abbrev CNT_CTRL_FREEZE : Fld := ⟨addr_CNT_CTRL, 0, 0⟩

/-- CNT_STATUS, die unit page 0x3 (Table 4-9): the key of the register. -/
abbrev addr_CNT_STATUS : Nat := 0x3088
/-- CNT_STATUS.FROZEN [39:39], RO, reset 0: A freeze is held -/
abbrev CNT_STATUS_FROZEN : Fld := ⟨addr_CNT_STATUS, 39, 39⟩
/-- CNT_STATUS.LATCH_HELD [38:38], RO, reset 0: Latches held in hold mode -/
abbrev CNT_STATUS_LATCH_HELD : Fld := ⟨addr_CNT_STATUS, 38, 38⟩
/-- CNT_STATUS.PEAL_PENDING [37:36], RO, reset 0b00: Bit b: peal bank b is pending (R123) -/
abbrev CNT_STATUS_PEAL_PENDING : Fld := ⟨addr_CNT_STATUS, 37, 36⟩
/-- CNT_STATUS.SNAP_DONE [7:7], W1C-SEQ, reset 0: A local snapshot completed -/
abbrev CNT_STATUS_SNAP_DONE : Fld := ⟨addr_CNT_STATUS, 7, 7⟩
/-- CNT_STATUS.LATCH_DROPPED [6:6], W1C-SEQ, reset 0: A latch parcel was not emitted (R117) -/
abbrev CNT_STATUS_LATCH_DROPPED : Fld := ⟨addr_CNT_STATUS, 6, 6⟩
/-- CNT_STATUS.LATCH_MISSED [5:5], W1C-SEQ, reset 0: A command ended unlatched in hold mode -/
abbrev CNT_STATUS_LATCH_MISSED : Fld := ⟨addr_CNT_STATUS, 5, 5⟩
/-- CNT_STATUS.PEAL_OVERRUN [4:4], W1C-SEQ, reset 0: A peal snapshot was not taken (R123) -/
abbrev CNT_STATUS_PEAL_OVERRUN : Fld := ⟨addr_CNT_STATUS, 4, 4⟩
/-- CNT_STATUS.FREEZE_TIMEOUT [3:3], W1C-SEQ, reset 0: A freeze was released by FREEZE_MAX -/
abbrev CNT_STATUS_FREEZE_TIMEOUT : Fld := ⟨addr_CNT_STATUS, 3, 3⟩
/-- CNT_STATUS.SEL_INVALID [2:2], W1C-SEQ, reset 0: A selector write was ignored (R105) -/
abbrev CNT_STATUS_SEL_INVALID : Fld := ⟨addr_CNT_STATUS, 2, 2⟩
/-- CNT_STATUS.OVF [1:1], W1C-SEQ, reset 0: Some counter wrapped; see CNT_OVF0–7 -/
abbrev CNT_STATUS_OVF : Fld := ⟨addr_CNT_STATUS, 1, 1⟩
/-- CNT_STATUS.CMD_END [0:0], W1C-SEQ, reset 0: An end latch was captured -/
abbrev CNT_STATUS_CMD_END : Fld := ⟨addr_CNT_STATUS, 0, 0⟩

/-- CNT_USER, die unit page 0x3 (Table 4-10): the key of the register. -/
abbrev addr_CNT_USER : Nat := 0x3090
/-- CNT_USER.USER_READ [16:0], PRIV, reset 0: Bit g: group g readable by ordinary masters (R127) -/
abbrev CNT_USER_USER_READ : Fld := ⟨addr_CNT_USER, 16, 0⟩

/-- CNT_VIEW, die unit page 0x3 (Table 4-10): the key of the register. -/
abbrev addr_CNT_VIEW : Nat := 0x3098
/-- CNT_VIEW.VIEW [2:0], RW, reset 0b000: Image presented (Table 4-13) -/
abbrev CNT_VIEW_VIEW : Fld := ⟨addr_CNT_VIEW, 2, 0⟩

/-- CNT_RDINFO, die unit page 0x3 (Table 4-11): the key of the register. -/
abbrev addr_CNT_RDINFO : Nat := 0x30A0
/-- CNT_RDINFO.BOUNDARY [63:63], RO, reset 0: The read sampled a PER_CMD counter in a start cycle (R113) -/
abbrev CNT_RDINFO_BOUNDARY : Fld := ⟨addr_CNT_RDINFO, 63, 63⟩
/-- CNT_RDINFO.FROZEN [62:62], RO, reset 0: A freeze was held at the sampling edge -/
abbrev CNT_RDINFO_FROZEN : Fld := ⟨addr_CNT_RDINFO, 62, 62⟩
/-- CNT_RDINFO.OVF [61:61], RO, reset 0: The counter's overflow bit at the sampling edge -/
abbrev CNT_RDINFO_OVF : Fld := ⟨addr_CNT_RDINFO, 61, 61⟩
/-- CNT_RDINFO.VIEW [60:58], RO, reset 0: View of the read -/
abbrev CNT_RDINFO_VIEW : Fld := ⟨addr_CNT_RDINFO, 60, 58⟩
/-- CNT_RDINFO.COUNTER [40:32], RO, reset 0: Number of the counter read -/
abbrev CNT_RDINFO_COUNTER : Fld := ⟨addr_CNT_RDINFO, 40, 32⟩
/-- CNT_RDINFO.CMD_SEQ [31:0], RO, reset 0: CMD_SEQ at the sampling edge; for latch and shadow views, that of the image -/
abbrev CNT_RDINFO_CMD_SEQ : Fld := ⟨addr_CNT_RDINFO, 31, 0⟩

/-- CNT_LATCH_CMD, die unit page 0x3 (Table 4-12): the key of the register. -/
abbrev addr_CNT_LATCH_CMD : Nat := 0x30A8
/-- CNT_LATCH_CMD.CMD_SEQ [63:32], RO, reset 0: CMD_SEQ of the latched command -/
abbrev CNT_LATCH_CMD_CMD_SEQ : Fld := ⟨addr_CNT_LATCH_CMD, 63, 32⟩
/-- CNT_LATCH_CMD.CM_ID [31:0], RO, reset 0: cm_id of the latched command -/
abbrev CNT_LATCH_CMD_CM_ID : Fld := ⟨addr_CNT_LATCH_CMD, 31, 0⟩

/-- CNT_PEAL_B, die unit page 0x3 (Table 4-12): the key of the register. -/
abbrev addr_CNT_PEAL_B (i : Nat) : Nat := 0x30C8 + 8 * i
/-- CNT_PEAL_B.PEAL_ID [63:48], RO, reset 0: Peal ID of the snapshot in bank b -/
abbrev CNT_PEAL_B_PEAL_ID (i : Nat) : Fld := ⟨addr_CNT_PEAL_B i, 63, 48⟩
/-- CNT_PEAL_B.QUALITY [47:46], RO, reset 0b11: Time quality, encoded as in TC_NOW_FRAC -/
abbrev CNT_PEAL_B_QUALITY (i : Nat) : Fld := ⟨addr_CNT_PEAL_B i, 47, 46⟩
/-- CNT_PEAL_B.STEPPED [45:45], RO, reset 0: Fired by a forward step (R62) -/
abbrev CNT_PEAL_B_STEPPED (i : Nat) : Fld := ⟨addr_CNT_PEAL_B i, 45, 45⟩
/-- CNT_PEAL_B.GAP [44:44], RO, reset 0: Taken after a stopped clock resumed (R63) -/
abbrev CNT_PEAL_B_GAP (i : Nat) : Fld := ⟨addr_CNT_PEAL_B i, 44, 44⟩
/-- CNT_PEAL_B.FROZEN [43:43], RO, reset 0: A freeze was held at the snapshot edge -/
abbrev CNT_PEAL_B_FROZEN (i : Nat) : Fld := ⟨addr_CNT_PEAL_B i, 43, 43⟩
/-- CNT_PEAL_B.CSTOP [42:42], RO, reset 0: Light set only; counter domain stopped (R63) -/
abbrev CNT_PEAL_B_CSTOP (i : Nat) : Fld := ⟨addr_CNT_PEAL_B i, 42, 42⟩

/-- CNT_COUNTS, die unit page 0x3 (Table 4-12): the key of the register. -/
abbrev addr_CNT_COUNTS : Nat := 0x30F0
/-- CNT_COUNTS.LATCH_MISSED_N [63:48], RO, reset 0: Commands ended unlatched, saturating -/
abbrev CNT_COUNTS_LATCH_MISSED_N : Fld := ⟨addr_CNT_COUNTS, 63, 48⟩
/-- CNT_COUNTS.LATCH_DROPPED_N [47:32], RO, reset 0: Latch parcels not emitted, saturating -/
abbrev CNT_COUNTS_LATCH_DROPPED_N : Fld := ⟨addr_CNT_COUNTS, 47, 32⟩
/-- CNT_COUNTS.PEAL_OVERRUN_N [31:16], RO, reset 0: Peal snapshots not taken, saturating -/
abbrev CNT_COUNTS_PEAL_OVERRUN_N : Fld := ⟨addr_CNT_COUNTS, 31, 16⟩

/-- CNT_VAL, die unit page 0x4 (Table 4-14): the key of the register. -/
abbrev addr_CNT_VAL (i : Nat) : Nat := if i < 240 then 0x4080 + 8 * i else 0x5080 + 8 * (i - 240)
/-- CNT_VAL [63:0], RO, reset 0: Counter n in the view selected (R127, R130) -/
abbrev CNT_VAL (i : Nat) : Fld := ⟨addr_CNT_VAL i, 63, 0⟩

/-- CNT_SEL, die unit page 0x4 (Table 4-14): the key of the register. -/
abbrev addr_CNT_SEL (i : Nat) : Nat := if i < 240 then 0x4800 + 8 * i else 0x5800 + 8 * (i - 240)
/-- CNT_SEL.EN [63:63], PRIV, reset 0: 1: counter enabled -/
abbrev CNT_SEL_EN (i : Nat) : Fld := ⟨addr_CNT_SEL i, 63, 63⟩
/-- CNT_SEL.MODE [62:62], PRIV, reset 0: 0 FREE; 1 PER_CMD (R112) -/
abbrev CNT_SEL_MODE (i : Nat) : Fld := ⟨addr_CNT_SEL i, 62, 62⟩
/-- CNT_SEL.GATE [61:60], PRIV, reset 0b00: 0b00 always; 0b01 in command; 0b10 outside commands; 0b11 invalid (R105) -/
abbrev CNT_SEL_GATE (i : Nat) : Fld := ⟨addr_CNT_SEL i, 61, 60⟩
/-- CNT_SEL.SRC_KIND [15:12], PRIV, reset 0x0: Source kind (Table 4-2) -/
abbrev CNT_SEL_SRC_KIND (i : Nat) : Fld := ⟨addr_CNT_SEL i, 15, 12⟩
/-- CNT_SEL.SRC_INDEX [11:0], PRIV, reset 0x000: Source index (Tables 4-2 and 4-3) -/
abbrev CNT_SEL_SRC_INDEX (i : Nat) : Fld := ⟨addr_CNT_SEL i, 11, 0⟩

/-- TRC_SEG_SEQ, die unit page 0x6 (Table 5-7): the key of the register. -/
abbrev addr_TRC_SEG_SEQ : Nat := 0x60A0
/-- TRC_SEG_SEQ [63:0], RO, reset 0: Bits [15:0]: SEQ of the next segment to open; bits [63:16] reserved -/
abbrev TRC_SEG_SEQ : Fld := ⟨addr_TRC_SEG_SEQ, 63, 0⟩

/-- TRC_EXCL_N, die unit page 0x6 (Table 5-7): the key of the register. -/
abbrev addr_TRC_EXCL_N : Nat := 0x60A8
/-- TRC_EXCL_N [63:0], PRIV, reset 0: Excluded packets (R133), saturating; a privileged write loads the value written -/
abbrev TRC_EXCL_N : Fld := ⟨addr_TRC_EXCL_N, 63, 0⟩

/-- TRC_DEAD_TOTAL, die unit page 0x6 (Table 5-7): the key of the register. -/
abbrev addr_TRC_DEAD_TOTAL : Nat := 0x60B8
/-- TRC_DEAD_TOTAL [63:0], RO, reset 0: Dead letters of all ports, saturating -/
abbrev TRC_DEAD_TOTAL : Fld := ⟨addr_TRC_DEAD_TOTAL, 63, 0⟩

/-- TRC_CTRL, die unit page 0x6 (Table 5-8): the key of the register. -/
abbrev addr_TRC_CTRL : Nat := 0x6080
/-- TRC_CTRL.IDLE [47:32], PRIV, reset 100: Trace idle time, units of 10 µs; 0 acts as 1 -/
abbrev TRC_CTRL_IDLE : Fld := ⟨addr_TRC_CTRL, 47, 32⟩
/-- TRC_CTRL.SYNC_LOG [23:20], PRIV, reset 0: SYNC interval 2^(16 + SYNC_LOG) cycles (R142) -/
abbrev TRC_CTRL_SYNC_LOG : Fld := ⟨addr_TRC_CTRL, 23, 20⟩
/-- TRC_CTRL.FLUSH [15:8], PRIV, reset 10: Segment close time, units of 100 µs; 0: never (R151) -/
abbrev TRC_CTRL_FLUSH : Fld := ⟨addr_TRC_CTRL, 15, 8⟩
/-- TRC_CTRL.RING_TRIG [5:5], PRIV, reset 0: Write 1: ring trigger (R154); reads 0 -/
abbrev TRC_CTRL_RING_TRIG : Fld := ⟨addr_TRC_CTRL, 5, 5⟩
/-- TRC_CTRL.DRAIN_EN [3:3], PRIV, reset 1: 1: drain runs; 0: stop at a segment boundary (R153) -/
abbrev TRC_CTRL_DRAIN_EN : Fld := ⟨addr_TRC_CTRL, 3, 3⟩
/-- TRC_CTRL.MODE [2:1], PRIV, reset 0b00: 0b00 STREAM; 0b01 RING; other values ignored (R155) -/
abbrev TRC_CTRL_MODE : Fld := ⟨addr_TRC_CTRL, 2, 1⟩
/-- TRC_CTRL.EN [0:0], PRIV, reset 0: 1: funnel enabled -/
abbrev TRC_CTRL_EN : Fld := ⟨addr_TRC_CTRL, 0, 0⟩

/-- TRC_STATUS, die unit page 0x6 (Table 5-9): the key of the register. -/
abbrev addr_TRC_STATUS : Nat := 0x6088
/-- TRC_STATUS.FREE_SEGS [54:48], RO, reset 64: Free segments, 0 to 64 -/
abbrev TRC_STATUS_FREE_SEGS : Fld := ⟨addr_TRC_STATUS, 54, 48⟩
/-- TRC_STATUS.WR_SEG [45:40], RO, reset 0: Segment being written -/
abbrev TRC_STATUS_WR_SEG : Fld := ⟨addr_TRC_STATUS, 45, 40⟩
/-- TRC_STATUS.RD_SEG [37:32], RO, reset 0: Next segment to drain -/
abbrev TRC_STATUS_RD_SEG : Fld := ⟨addr_TRC_STATUS, 37, 32⟩
/-- TRC_STATUS.DRAIN_IDLE [15:15], RO, reset 0: The drain engine has stopped (R153) -/
abbrev TRC_STATUS_DRAIN_IDLE : Fld := ⟨addr_TRC_STATUS, 15, 15⟩
/-- TRC_STATUS.RING_FROZEN [14:14], RO, reset 0: A ring trigger is being served (R154) -/
abbrev TRC_STATUS_RING_FROZEN : Fld := ⟨addr_TRC_STATUS, 14, 14⟩
/-- TRC_STATUS.SEG_OVERWRITTEN [7:7], W1C-SEQ, reset 0: A segment was reused in RING mode -/
abbrev TRC_STATUS_SEG_OVERWRITTEN : Fld := ⟨addr_TRC_STATUS, 7, 7⟩
/-- TRC_STATUS.CFG_INVALID [6:6], W1C-SEQ, reset 0: A configuration write was ignored (R131, R155, R157) -/
abbrev TRC_STATUS_CFG_INVALID : Fld := ⟨addr_TRC_STATUS, 6, 6⟩
/-- TRC_STATUS.DISCONT [5:5], W1C-SEQ, reset 0: A DISCONT packet was written -/
abbrev TRC_STATUS_DISCONT : Fld := ⟨addr_TRC_STATUS, 5, 5⟩
/-- TRC_STATUS.GAP [4:4], W1C-SEQ, reset 0: A GAP packet was written -/
abbrev TRC_STATUS_GAP : Fld := ⟨addr_TRC_STATUS, 4, 4⟩
/-- TRC_STATUS.SCALED [3:3], W1C-SEQ, reset 0: A SCALE packet or an S flag was written -/
abbrev TRC_STATUS_SCALED : Fld := ⟨addr_TRC_STATUS, 3, 3⟩
/-- TRC_STATUS.ASLEEP_LOST [2:2], W1C-SEQ, reset 0: Packets were lost while asleep or waking (R76) -/
abbrev TRC_STATUS_ASLEEP_LOST : Fld := ⟨addr_TRC_STATUS, 2, 2⟩
/-- TRC_STATUS.DEAD [1:1], W1C-SEQ, reset 0: A dead letter occurred -/
abbrev TRC_STATUS_DEAD : Fld := ⟨addr_TRC_STATUS, 1, 1⟩
/-- TRC_STATUS.RING_DONE [0:0], W1C-SEQ, reset 0: A triggered ring has been drained -/
abbrev TRC_STATUS_RING_DONE : Fld := ⟨addr_TRC_STATUS, 0, 0⟩

/-- TRC_AUTH, die unit page 0x6 (Table 5-10): the key of the register. -/
abbrev addr_TRC_AUTH : Nat := 0x6090
/-- TRC_AUTH.SEC_AUTH [1:1], PRIV, reset 0: 1: secure packets admitted (R133, R134) -/
abbrev TRC_AUTH_SEC_AUTH : Fld := ⟨addr_TRC_AUTH, 1, 1⟩
/-- TRC_AUTH.PRIV_AUTH [0:0], PRIV, reset 0: 1: privileged packets admitted -/
abbrev TRC_AUTH_PRIV_AUTH : Fld := ⟨addr_TRC_AUTH, 0, 0⟩

/-- TRC_DROP_THR, die unit page 0x6 (Table 5-10): the key of the register. -/
abbrev addr_TRC_DROP_THR : Nat := 0x6098
/-- TRC_DROP_THR.STG_R0 [63:56], PRIV, reset 128: Staging reserve, priority 0 -/
abbrev TRC_DROP_THR_STG_R0 : Fld := ⟨addr_TRC_DROP_THR, 63, 56⟩
/-- TRC_DROP_THR.STG_R1 [55:48], PRIV, reset 64: Staging reserve, priority 1 -/
abbrev TRC_DROP_THR_STG_R1 : Fld := ⟨addr_TRC_DROP_THR, 55, 48⟩
/-- TRC_DROP_THR.STG_R2 [47:40], PRIV, reset 16: Staging reserve, priority 2 -/
abbrev TRC_DROP_THR_STG_R2 : Fld := ⟨addr_TRC_DROP_THR, 47, 40⟩
/-- TRC_DROP_THR.SEG_B0 [31:24], PRIV, reset 16: Segment reserve, priority 0 -/
abbrev TRC_DROP_THR_SEG_B0 : Fld := ⟨addr_TRC_DROP_THR, 31, 24⟩
/-- TRC_DROP_THR.SEG_B1 [23:16], PRIV, reset 8: Segment reserve, priority 1 -/
abbrev TRC_DROP_THR_SEG_B1 : Fld := ⟨addr_TRC_DROP_THR, 23, 16⟩
/-- TRC_DROP_THR.SEG_B2 [15:8], PRIV, reset 2: Segment reserve, priority 2 -/
abbrev TRC_DROP_THR_SEG_B2 : Fld := ⟨addr_TRC_DROP_THR, 15, 8⟩

/-- TRC_COUNTS, die unit page 0x6 (Table 5-10): the key of the register. -/
abbrev addr_TRC_COUNTS : Nat := 0x60B0
/-- TRC_COUNTS.BAD_KIND_N [63:48], RO, reset 0: Packets with tr_kind 0b11, saturating -/
abbrev TRC_COUNTS_BAD_KIND_N : Fld := ⟨addr_TRC_COUNTS, 63, 48⟩
/-- TRC_COUNTS.FILTERED_N [47:32], RO, reset 0: Data accesses filtered (R135), saturating -/
abbrev TRC_COUNTS_FILTERED_N : Fld := ⟨addr_TRC_COUNTS, 47, 32⟩
/-- TRC_COUNTS.MARKER_LOST_N [31:16], RO, reset 0: Funnel and source markers lost (R137), saturating -/
abbrev TRC_COUNTS_MARKER_LOST_N : Fld := ⟨addr_TRC_COUNTS, 31, 16⟩
/-- TRC_COUNTS.SEG_OVERWRITTEN_N [15:0], RO, reset 0: Segments reused in RING mode, saturating -/
abbrev TRC_COUNTS_SEG_OVERWRITTEN_N : Fld := ⟨addr_TRC_COUNTS, 15, 0⟩

/-- TRC_SRC, die unit page 0x7 (Table 5-11): the key of the register. -/
abbrev addr_TRC_SRC (i : Nat) : Nat := 0x7080 + 8 * i
/-- TRC_SRC.EN [63:63], PRIV, reset 0: 1: port enabled -/
abbrev TRC_SRC_EN (i : Nat) : Fld := ⟨addr_TRC_SRC i, 63, 63⟩
/-- TRC_SRC.VALUE [62:62], PRIV, reset 0: 1: DATA packets carry the value -/
abbrev TRC_SRC_VALUE (i : Nat) : Fld := ⟨addr_TRC_SRC i, 62, 62⟩
/-- TRC_SRC.SRC_ID [13:8], PRIV, reset p: Source ID, 0x00 to 0x3E (R131) -/
abbrev TRC_SRC_SRC_ID (i : Nat) : Fld := ⟨addr_TRC_SRC i, 13, 8⟩
/-- TRC_SRC.PRIO [5:4], PRIV, reset 0b00: Priority 0 (lowest) to 3 -/
abbrev TRC_SRC_PRIO (i : Nat) : Fld := ⟨addr_TRC_SRC i, 5, 4⟩

/-- TRC_DEAD, die unit page 0x7 (Table 5-12): the key of the register. -/
abbrev addr_TRC_DEAD (i : Nat) : Nat := 0x7100 + 8 * i
/-- TRC_DEAD [63:0], RO, reset 0: Dead letters of port p, saturating (R137, R149) -/
abbrev TRC_DEAD (i : Nat) : Fld := ⟨addr_TRC_DEAD i, 63, 0⟩

/-- TRC_CMP_BASE, die unit page 0x7 (Table 5-12): the key of the register. -/
abbrev addr_TRC_CMP_BASE (i : Nat) : Nat := 0x7200 + 8 * i
/-- TRC_CMP_BASE [63:0], PRIV, reset 0: Comparator k base address -/
abbrev TRC_CMP_BASE (i : Nat) : Fld := ⟨addr_TRC_CMP_BASE i, 63, 0⟩

/-- TRC_CMP_LIMIT, die unit page 0x7 (Table 5-12): the key of the register. -/
abbrev addr_TRC_CMP_LIMIT (i : Nat) : Nat := 0x7240 + 8 * i
/-- TRC_CMP_LIMIT [63:0], PRIV, reset 0: Comparator k limit address, inclusive -/
abbrev TRC_CMP_LIMIT (i : Nat) : Fld := ⟨addr_TRC_CMP_LIMIT i, 63, 0⟩

/-- TRC_CMP_CTRL, die unit page 0x7 (Table 5-13): the key of the register. -/
abbrev addr_TRC_CMP_CTRL (i : Nat) : Nat := 0x7280 + 8 * i
/-- TRC_CMP_CTRL.EN [63:63], PRIV, reset 0: 1: comparator enabled -/
abbrev TRC_CMP_CTRL_EN (i : Nat) : Fld := ⟨addr_TRC_CMP_CTRL i, 63, 63⟩
/-- TRC_CMP_CTRL.EXCL [62:62], PRIV, reset 0: 0 INCLUDE; 1 EXCLUDE (R135) -/
abbrev TRC_CMP_CTRL_EXCL (i : Nat) : Fld := ⟨addr_TRC_CMP_CTRL i, 62, 62⟩
/-- TRC_CMP_CTRL.RW [61:60], PRIV, reset 0b00: 0b00 reads and writes; 0b01 reads; 0b10 writes; 0b11: write ignored, CFG_INVALID set -/
abbrev TRC_CMP_CTRL_RW (i : Nat) : Fld := ⟨addr_TRC_CMP_CTRL i, 61, 60⟩
/-- TRC_CMP_CTRL.PORTS [15:0], PRIV, reset 0x0000: Bit p: the comparator applies to port p -/
abbrev TRC_CMP_CTRL_PORTS (i : Nat) : Fld := ⟨addr_TRC_CMP_CTRL i, 15, 0⟩

/-- TCK_STEP, die unit page 0x8 (Table 6-15): the key of the register. -/
abbrev addr_TCK_STEP : Nat := 0x8098
/-- TCK_STEP [63:0], RO, reset 0x0000_FFFF_FFFF_FFFF: [47:0] current step, all ones when none; [63:48] reserved -/
abbrev TCK_STEP : Fld := ⟨addr_TCK_STEP, 63, 0⟩

/-- TCK_CLASS, die unit page 0x8 (Table 6-15): the key of the register. -/
abbrev addr_TCK_CLASS : Nat := 0x80B0
/-- TCK_CLASS [63:0], PRIV, reset 0: [2i+1:2i]: operation class of tc_num i; [63:32] reserved -/
abbrev TCK_CLASS : Fld := ⟨addr_TCK_CLASS, 63, 0⟩

/-- TCK_OUTW, die unit page 0x8 (Table 6-15): the key of the register. -/
abbrev addr_TCK_OUTW : Nat := 0x80B8
/-- TCK_OUTW [63:0], PRIV, reset 0x0000_0000_FFFF_FFFF: [2i+1:2i]: output element width of tc_num i: 0b00 8 bits, 0b01 16 bits, 0b10 32 bits, 0b11 not given (R171)... -/
abbrev TCK_OUTW : Fld := ⟨addr_TCK_OUTW, 63, 0⟩

/-- TCK_THR, die unit page 0x8 (Table 6-15): the key of the register. -/
abbrev addr_TCK_THR (i : Nat) : Nat := 0x8200 + 8 * i
/-- TCK_THR [63:0], PRIV, reset 0: [63:32] THR of cell 2j + 1; [31:0] THR of cell 2j -/
abbrev TCK_THR (i : Nat) : Fld := ⟨addr_TCK_THR i, 63, 0⟩

/-- TCK_CTRL, die unit page 0x8 (Table 6-16): the key of the register. -/
abbrev addr_TCK_CTRL : Nat := 0x8080
/-- TCK_CTRL.CAP_DEADLINE [47:32], PRIV, reset 10: Capture deadline in units of 100 µs, 1 to 1,000; any other value is ignored and sets CFG_INVALID -/
abbrev TCK_CTRL_CAP_DEADLINE : Fld := ⟨addr_TCK_CTRL, 47, 32⟩
/-- TCK_CTRL.DUMP_DEADLINE [23:16], PRIV, reset 10: Dump acknowledge deadline in ms; 0 acts as 1 -/
abbrev TCK_CTRL_DUMP_DEADLINE : Fld := ⟨addr_TCK_CTRL, 23, 16⟩
/-- TCK_CTRL.LN_EN [2:2], PRIV, reset 0: 1: lineage accepted (R178) -/
abbrev TCK_CTRL_LN_EN : Fld := ⟨addr_TCK_CTRL, 2, 2⟩
/-- TCK_CTRL.SEL_EN [1:1], PRIV, reset 0: 1: tile selection on (R167) -/
abbrev TCK_CTRL_SEL_EN : Fld := ⟨addr_TCK_CTRL, 1, 1⟩
/-- TCK_CTRL.FP_EN [0:0], PRIV, reset 0: 1: fingerprinting on (R163) -/
abbrev TCK_CTRL_FP_EN : Fld := ⟨addr_TCK_CTRL, 0, 0⟩

/-- TCK_STATUS, die unit page 0x8 (Table 6-17): the key of the register. -/
abbrev addr_TCK_STATUS : Nat := 0x8088
/-- TCK_STATUS.DUMP_ACTIVE [55:55], RO, reset 0: A dump is requested or streaming -/
abbrev TCK_STATUS_DUMP_ACTIVE : Fld := ⟨addr_TCK_STATUS, 55, 55⟩
/-- TCK_STATUS.CAP_PENDING [54:48], RO, reset 0: Pending captures, 0 to 64 -/
abbrev TCK_STATUS_CAP_PENDING : Fld := ⟨addr_TCK_STATUS, 54, 48⟩
/-- TCK_STATUS.DUMP_QUEUED [47:44], RO, reset 0: Armed dumps, 0 to 8 -/
abbrev TCK_STATUS_DUMP_QUEUED : Fld := ⟨addr_TCK_STATUS, 47, 44⟩
/-- TCK_STATUS.COV_LOST [13:13], W1C-SEQ, reset 0: A coverage record was lost (R169) -/
abbrev TCK_STATUS_COV_LOST : Fld := ⟨addr_TCK_STATUS, 13, 13⟩
/-- TCK_STATUS.MISMATCH_LOST [12:12], W1C-SEQ, reset 0: A mismatch record was not queued (R161) -/
abbrev TCK_STATUS_MISMATCH_LOST : Fld := ⟨addr_TCK_STATUS, 12, 12⟩
/-- TCK_STATUS.CFG_INVALID [11:11], W1C-SEQ, reset 0: A configuration write was ignored -/
abbrev TCK_STATUS_CFG_INVALID : Fld := ⟨addr_TCK_STATUS, 11, 11⟩
/-- TCK_STATUS.LN_REFUSED [10:10], W1C-SEQ, reset 0: A lineage record was refused (R178) -/
abbrev TCK_STATUS_LN_REFUSED : Fld := ⟨addr_TCK_STATUS, 10, 10⟩
/-- TCK_STATUS.SEL_DROPPED [9:9], W1C-SEQ, reset 0: A selection was dropped (R93) -/
abbrev TCK_STATUS_SEL_DROPPED : Fld := ⟨addr_TCK_STATUS, 9, 9⟩
/-- TCK_STATUS.CAP_FAIL [8:8], W1C-SEQ, reset 0: A capture ended COMMIT-FAIL -/
abbrev TCK_STATUS_CAP_FAIL : Fld := ⟨addr_TCK_STATUS, 8, 8⟩
/-- TCK_STATUS.CAP_INCOMPLETE [7:7], W1C-SEQ, reset 0: A capture ended NOT-BEGUN, ABORTED, RETIRED or UNFINISHED -/
abbrev TCK_STATUS_CAP_INCOMPLETE : Fld := ⟨addr_TCK_STATUS, 7, 7⟩
/-- TCK_STATUS.CAP_MALFORMED [6:6], W1C-SEQ, reset 0: A capture ended MALFORMED -/
abbrev TCK_STATUS_CAP_MALFORMED : Fld := ⟨addr_TCK_STATUS, 6, 6⟩
/-- TCK_STATUS.DUMP_ABORTED [5:5], W1C-SEQ, reset 0: A dump was aborted (R175) -/
abbrev TCK_STATUS_DUMP_ABORTED : Fld := ⟨addr_TCK_STATUS, 5, 5⟩
/-- TCK_STATUS.DUMP_MISSED [4:4], W1C-SEQ, reset 0: A dump was missed (R173, R174) -/
abbrev TCK_STATUS_DUMP_MISSED : Fld := ⟨addr_TCK_STATUS, 4, 4⟩
/-- TCK_STATUS.STEP_REFUSED [3:3], W1C-SEQ, reset 0: An advance was refused (R89) -/
abbrev TCK_STATUS_STEP_REFUSED : Fld := ⟨addr_TCK_STATUS, 3, 3⟩
/-- TCK_STATUS.FP_GAP [2:2], W1C-SEQ, reset 0: Fingerprint entries were dropped (R164) -/
abbrev TCK_STATUS_FP_GAP : Fld := ⟨addr_TCK_STATUS, 2, 2⟩
/-- TCK_STATUS.PRODUCER_INCONS [1:1], W1C-SEQ, reset 0: A produced block's values differed (Table 6-2) -/
abbrev TCK_STATUS_PRODUCER_INCONS : Fld := ⟨addr_TCK_STATUS, 1, 1⟩
/-- TCK_STATUS.MISMATCH [0:0], W1C-SEQ, reset 0: A consumed block failed its check -/
abbrev TCK_STATUS_MISMATCH : Fld := ⟨addr_TCK_STATUS, 0, 0⟩

/-- TCK_JOB, die unit page 0x8 (Table 6-18): the key of the register. -/
abbrev addr_TCK_JOB : Nat := 0x8090
/-- TCK_JOB.ARMED [63:63], RO, reset 0: A job is armed -/
abbrev TCK_JOB_ARMED : Fld := ⟨addr_TCK_JOB, 63, 63⟩
/-- TCK_JOB.GEN [39:32], RO, reset 0: Job generation -/
abbrev TCK_JOB_GEN : Fld := ⟨addr_TCK_JOB, 39, 32⟩
/-- TCK_JOB.JOB_ID [31:0], RO, reset 0: Job ID; 0 when none -/
abbrev TCK_JOB_JOB_ID : Fld := ⟨addr_TCK_JOB, 31, 0⟩

/-- TCK_BAND_T, die unit page 0x8 (Table 6-18): the key of the register. -/
abbrev addr_TCK_BAND_T : Nat := 0x80A0
/-- TCK_BAND_T.TB2 [47:32], PRIV, reset 0x7FFF each: Temperature thresholds, signed, 1/16 °C; a write that breaks TB0 ≤ TB1 ≤ TB2 is ignored and sets CFG_INVALID -/
abbrev TCK_BAND_T_TB2 : Fld := ⟨addr_TCK_BAND_T, 47, 32⟩
/-- TCK_BAND_T.TB1 [31:16], PRIV, reset 0x7FFF each: Temperature thresholds, signed, 1/16 °C; a write that breaks TB0 ≤ TB1 ≤ TB2 is ignored and sets CFG_INVALID -/
abbrev TCK_BAND_T_TB1 : Fld := ⟨addr_TCK_BAND_T, 31, 16⟩
/-- TCK_BAND_T.TB0 [15:0], PRIV, reset 0x7FFF each: Temperature thresholds, signed, 1/16 °C; a write that breaks TB0 ≤ TB1 ≤ TB2 is ignored and sets CFG_INVALID -/
abbrev TCK_BAND_T_TB0 : Fld := ⟨addr_TCK_BAND_T, 15, 0⟩

/-- TCK_BAND_V, die unit page 0x8 (Table 6-18): the key of the register. -/
abbrev addr_TCK_BAND_V : Nat := 0x80A8
/-- TCK_BAND_V.VB2 [47:32], PRIV, reset 0xFFFF each: Voltage thresholds, mV; a write that breaks VB0 ≤ VB1 ≤ VB2 is ignored and sets CFG_INVALID -/
abbrev TCK_BAND_V_VB2 : Fld := ⟨addr_TCK_BAND_V, 47, 32⟩
/-- TCK_BAND_V.VB1 [31:16], PRIV, reset 0xFFFF each: Voltage thresholds, mV; a write that breaks VB0 ≤ VB1 ≤ VB2 is ignored and sets CFG_INVALID -/
abbrev TCK_BAND_V_VB1 : Fld := ⟨addr_TCK_BAND_V, 31, 16⟩
/-- TCK_BAND_V.VB0 [15:0], PRIV, reset 0xFFFF each: Voltage thresholds, mV; a write that breaks VB0 ≤ VB1 ≤ VB2 is ignored and sets CFG_INVALID -/
abbrev TCK_BAND_V_VB0 : Fld := ⟨addr_TCK_BAND_V, 15, 0⟩

/-- TCK_COUNTS0, die unit page 0x8 (Table 6-19): the key of the register. -/
abbrev addr_TCK_COUNTS0 : Nat := 0x80C0
/-- TCK_COUNTS0.MISMATCH_N [63:48], RO, reset 0: Consumed-block mismatches -/
abbrev TCK_COUNTS0_MISMATCH_N : Fld := ⟨addr_TCK_COUNTS0, 63, 48⟩
/-- TCK_COUNTS0.PROD_INCONS_N [47:32], RO, reset 0: Produced-block inconsistencies -/
abbrev TCK_COUNTS0_PROD_INCONS_N : Fld := ⟨addr_TCK_COUNTS0, 47, 32⟩
/-- TCK_COUNTS0.FP_DROPPED_N [31:16], RO, reset 0: Fingerprint entries dropped -/
abbrev TCK_COUNTS0_FP_DROPPED_N : Fld := ⟨addr_TCK_COUNTS0, 31, 16⟩
/-- TCK_COUNTS0.MISMATCH_LOST_N [15:0], RO, reset 0: Mismatch records not queued -/
abbrev TCK_COUNTS0_MISMATCH_LOST_N : Fld := ⟨addr_TCK_COUNTS0, 15, 0⟩

/-- TCK_COUNTS1, die unit page 0x8 (Table 6-19): the key of the register. -/
abbrev addr_TCK_COUNTS1 : Nat := 0x80C8
/-- TCK_COUNTS1.STEP_REFUSED_N [63:48], RO, reset 0: Advances refused (R89) -/
abbrev TCK_COUNTS1_STEP_REFUSED_N : Fld := ⟨addr_TCK_COUNTS1, 63, 48⟩
/-- TCK_COUNTS1.NOJOB_N [47:32], RO, reset 0: Advances ignored with no job armed (R89) -/
abbrev TCK_COUNTS1_NOJOB_N : Fld := ⟨addr_TCK_COUNTS1, 47, 32⟩
/-- TCK_COUNTS1.LN_REFUSED_N [31:16], RO, reset 0: Lineage records refused -/
abbrev TCK_COUNTS1_LN_REFUSED_N : Fld := ⟨addr_TCK_COUNTS1, 31, 16⟩
/-- TCK_COUNTS1.SEL_DROPPED_N [15:0], RO, reset 0: Selections dropped (R93) -/
abbrev TCK_COUNTS1_SEL_DROPPED_N : Fld := ⟨addr_TCK_COUNTS1, 15, 0⟩

/-- TCK_COUNTS2, die unit page 0x8 (Table 6-19): the key of the register. -/
abbrev addr_TCK_COUNTS2 : Nat := 0x80D0
/-- TCK_COUNTS2.CAP_INCOMPLETE_N [63:48], RO, reset 0: Captures ended NOT-BEGUN, ABORTED, RETIRED or UNFINISHED -/
abbrev TCK_COUNTS2_CAP_INCOMPLETE_N : Fld := ⟨addr_TCK_COUNTS2, 63, 48⟩
/-- TCK_COUNTS2.CAP_FAIL_N [47:32], RO, reset 0: Captures ended COMMIT-FAIL -/
abbrev TCK_COUNTS2_CAP_FAIL_N : Fld := ⟨addr_TCK_COUNTS2, 47, 32⟩
/-- TCK_COUNTS2.CAP_MALFORMED_N [31:16], RO, reset 0: Captures ended MALFORMED -/
abbrev TCK_COUNTS2_CAP_MALFORMED_N : Fld := ⟨addr_TCK_COUNTS2, 31, 16⟩
/-- TCK_COUNTS2.DUMP_FAILED_N [15:0], RO, reset 0: Dumps missed or aborted -/
abbrev TCK_COUNTS2_DUMP_FAILED_N : Fld := ⟨addr_TCK_COUNTS2, 15, 0⟩

/-- TCK_COUNTS3, die unit page 0x8 (Table 6-19): the key of the register. -/
abbrev addr_TCK_COUNTS3 : Nat := 0x80D8
/-- TCK_COUNTS3.COV_LOST_N [63:48], RO, reset 0: Coverage records lost (R169) -/
abbrev TCK_COUNTS3_COV_LOST_N : Fld := ⟨addr_TCK_COUNTS3, 63, 48⟩

/-- FB_CTRL, die unit page 0x9 (Table 7-17): the key of the register. -/
abbrev addr_FB_CTRL : Nat := 0x9080
/-- FB_CTRL.CLOSE [47:32], PRIV, reset 100: Record parcel close time, units of 10 µs; 0 acts as 1 -/
abbrev FB_CTRL_CLOSE : Fld := ⟨addr_FB_CTRL, 47, 32⟩
/-- FB_CTRL.MAX_PAYLOAD [31:16], PRIV, reset 9,000: Largest Ethernet payload, 1,500 to 9,000; other values ignored, CFG_INVALID set -/
abbrev FB_CTRL_MAX_PAYLOAD : Fld := ⟨addr_FB_CTRL, 31, 16⟩
/-- FB_CTRL.LAG_K [13:8], PRIV, reset 3: Encoder lag k − 1 (R195) -/
abbrev FB_CTRL_LAG_K : Fld := ⟨addr_FB_CTRL, 13, 8⟩
/-- FB_CTRL.CODEC_EN [1:1], PRIV, reset 1: 1: matrix parcels MATRIX-RESIDUAL; 0: MATRIX-RAW -/
abbrev FB_CTRL_CODEC_EN : Fld := ⟨addr_FB_CTRL, 1, 1⟩
/-- FB_CTRL.EN [0:0], PRIV, reset 0: 1: frame builder enabled -/
abbrev FB_CTRL_EN : Fld := ⟨addr_FB_CTRL, 0, 0⟩

/-- FB_STATUS, die unit page 0x9 (Table 7-18): the key of the register. -/
abbrev addr_FB_STATUS : Nat := 0x9088
/-- FB_STATUS.PARCELS_WAITING [47:32], RO, reset 0: Closed parcels in staging -/
abbrev FB_STATUS_PARCELS_WAITING : Fld := ⟨addr_FB_STATUS, 47, 32⟩
/-- FB_STATUS.CFG_INVALID [2:2], W1C-SEQ, reset 0: A configuration write was ignored -/
abbrev FB_STATUS_CFG_INVALID : Fld := ⟨addr_FB_STATUS, 2, 2⟩
/-- FB_STATUS.EG_DROP [1:1], W1C-SEQ, reset 0: The MAC dropped an accepted frame (R81) -/
abbrev FB_STATUS_EG_DROP : Fld := ⟨addr_FB_STATUS, 1, 1⟩
/-- FB_STATUS.STAGING_FULL [0:0], W1C-SEQ, reset 0: Staging filled and producers were held (R206) -/
abbrev FB_STATUS_STAGING_FULL : Fld := ⟨addr_FB_STATUS, 0, 0⟩

/-- FB_PMAP0, die unit page 0x9 (Table 7-19): the key of the register. -/
abbrev addr_FB_PMAP0 : Nat := 0x9090
/-- PMAP of PTYPE 0x01 + j: FB_PMAP0 [8j+5:8j] for j below 8, FB_PMAP1 [8(j-8)+5:8(j-8)] above, PRIV: Stream number of PEAL, LATCH, TRACE, MISMATCH, FINGERPRINT, COVERAGE, CAPTURE, CAP-DESC -/
abbrev FB_PMAP (j : Nat) : Fld := if j < 8 then ⟨0x9090, 8 * j + 5, 8 * j⟩ else ⟨0x9098, 8 * (j - 8) + 5, 8 * (j - 8)⟩

/-- FB_PMAP1, die unit page 0x9 (Table 7-19): the key of the register. -/
abbrev addr_FB_PMAP1 : Nat := 0x9098

/-- FB_COUNTS0, die unit page 0x9 (Table 7-19): the key of the register. -/
abbrev addr_FB_COUNTS0 : Nat := 0x90A0
/-- FB_COUNTS0.FRAMES_N [63:32], RO, reset 0: Frames sent, modulo 2^32 -/
abbrev FB_COUNTS0_FRAMES_N : Fld := ⟨addr_FB_COUNTS0, 63, 32⟩
/-- FB_COUNTS0.PARCELS_N [31:0], RO, reset 0: Parcels sent, modulo 2^32 -/
abbrev FB_COUNTS0_PARCELS_N : Fld := ⟨addr_FB_COUNTS0, 31, 0⟩

/-- FB_COUNTS1, die unit page 0x9 (Table 7-19): the key of the register. -/
abbrev addr_FB_COUNTS1 : Nat := 0x90A8
/-- FB_COUNTS1.EG_DROP_N [63:48], RO, reset 0: eg_drop pulses (R81), saturating -/
abbrev FB_COUNTS1_EG_DROP_N : Fld := ⟨addr_FB_COUNTS1, 63, 48⟩
/-- FB_COUNTS1.STAGING_FULL_N [47:32], RO, reset 0: Times staging filled, saturating -/
abbrev FB_COUNTS1_STAGING_FULL_N : Fld := ⟨addr_FB_COUNTS1, 47, 32⟩

/-- GATE_BASE, die unit page 0xA (Table 8-2): the key of the register. -/
abbrev addr_GATE_BASE : Nat := 0xA090
/-- GATE_BASE [63:0], PRIV, reset 0: Fleet Time ns of the start of cycle 0 (shadow) -/
abbrev GATE_BASE : Fld := ⟨addr_GATE_BASE, 63, 0⟩

/-- GATE_CYCLE, die unit page 0xA (Table 8-2): the key of the register. -/
abbrev addr_GATE_CYCLE : Nat := 0xA098
/-- GATE_CYCLE [63:0], PRIV, reset 0: Cycle length in ns, 1,000 to 2^32 − 1; bits [63:32] reserved (shadow) -/
abbrev GATE_CYCLE : Fld := ⟨addr_GATE_CYCLE, 63, 0⟩

/-- GATE_SWITCH_T, die unit page 0xA (Table 8-2): the key of the register. -/
abbrev addr_GATE_SWITCH_T : Nat := 0xA0A0
/-- GATE_SWITCH_T [63:0], PRIV, reset 0: Earliest switch time of a committed list (R218) -/
abbrev GATE_SWITCH_T : Fld := ⟨addr_GATE_SWITCH_T, 63, 0⟩

/-- SHP_VTIME, die unit page 0xA (Table 8-2): the key of the register. -/
abbrev addr_SHP_VTIME : Nat := 0xA0A8
/-- SHP_VTIME [63:0], RO, reset 0: Virtual time V (R215) -/
abbrev SHP_VTIME : Fld := ⟨addr_SHP_VTIME, 63, 0⟩

/-- GATE_MASK, die unit page 0xA (Table 8-2): the key of the register. -/
abbrev addr_GATE_MASK (i : Nat) : Nat := 0xA700 + 8 * i
/-- GATE_MASK [63:0], PRIV, reset 0: Bit s: entry e admits stream s (shadow) -/
abbrev GATE_MASK (i : Nat) : Fld := ⟨addr_GATE_MASK i, 63, 0⟩

/-- SHP_CTRL, die unit page 0xA (Table 8-3): the key of the register. -/
abbrev addr_SHP_CTRL : Nat := 0xA080
/-- SHP_CTRL.LINE_MBPS [55:32], PRIV, reset 100,000: MAC line rate in Mb/s, 1,000 to 800,000; other values ignored, CFG_INVALID set -/
abbrev SHP_CTRL_LINE_MBPS : Fld := ⟨addr_SHP_CTRL, 55, 32⟩
/-- SHP_CTRL.COMMIT [2:2], PRIV, reset 0: Write 1: validate and commit the shadow gate list (R218); reads 0 -/
abbrev SHP_CTRL_COMMIT : Fld := ⟨addr_SHP_CTRL, 2, 2⟩
/-- SHP_CTRL.GATE_EN [1:1], PRIV, reset 0: 1: gate list in force (R216) -/
abbrev SHP_CTRL_GATE_EN : Fld := ⟨addr_SHP_CTRL, 1, 1⟩
/-- SHP_CTRL.EN [0:0], PRIV, reset 0: 1: launches permitted; 0: no stream launches -/
abbrev SHP_CTRL_EN : Fld := ⟨addr_SHP_CTRL, 0, 0⟩

/-- SHP_STATUS, die unit page 0xA (Table 8-3): the key of the register. -/
abbrev addr_SHP_STATUS : Nat := 0xA088
/-- SHP_STATUS.GATE_PENDING [33:33], RO, reset 0: A committed list awaits its switch -/
abbrev SHP_STATUS_GATE_PENDING : Fld := ⟨addr_SHP_STATUS, 33, 33⟩
/-- SHP_STATUS.GATE_ACTIVE [32:32], RO, reset 0: An active gate list exists -/
abbrev SHP_STATUS_GATE_ACTIVE : Fld := ⟨addr_SHP_STATUS, 32, 32⟩
/-- SHP_STATUS.CFG_INVALID [2:2], W1C-SEQ, reset 0: A configuration write or commit was ignored -/
abbrev SHP_STATUS_CFG_INVALID : Fld := ⟨addr_SHP_STATUS, 2, 2⟩
/-- SHP_STATUS.GATE_SWITCHED [1:1], W1C-SEQ, reset 0: A committed list became active -/
abbrev SHP_STATUS_GATE_SWITCHED : Fld := ⟨addr_SHP_STATUS, 1, 1⟩
/-- SHP_STATUS.GATE_WAIT [0:0], W1C-SEQ, reset 0: A frame waited for the gate test (R217) -/
abbrev SHP_STATUS_GATE_WAIT : Fld := ⟨addr_SHP_STATUS, 0, 0⟩

/-- GATE_FLAGS, die unit page 0xA (Table 8-4): the key of the register. -/
abbrev addr_GATE_FLAGS : Nat := 0xA0B8
/-- GATE_FLAGS.EXCL [63:32], PRIV, reset 0: Bit e: entry e is exclusive (shadow) -/
abbrev GATE_FLAGS_EXCL : Fld := ⟨addr_GATE_FLAGS, 63, 32⟩
/-- GATE_FLAGS.ENTRY_EN [31:0], PRIV, reset 0: Bit e: entry e enabled (shadow) -/
abbrev GATE_FLAGS_ENTRY_EN : Fld := ⟨addr_GATE_FLAGS, 31, 0⟩

/-- SHP_COUNTS, die unit page 0xA (Table 8-4): the key of the register. -/
abbrev addr_SHP_COUNTS : Nat := 0xA0C0
/-- SHP_COUNTS.GATE_WAIT_N [63:32], RO, reset 0: Frames that waited, saturating -/
abbrev SHP_COUNTS_GATE_WAIT_N : Fld := ⟨addr_SHP_COUNTS, 63, 32⟩
/-- SHP_COUNTS.EXCESS_N [31:0], RO, reset 0: Excess launches, modulo 2^32 -/
abbrev SHP_COUNTS_EXCESS_N : Fld := ⟨addr_SHP_COUNTS, 31, 0⟩

/-- SHP_RATE, die unit page 0xA (Table 8-5): the key of the register. -/
abbrev addr_SHP_RATE (i : Nat) : Nat := 0xA100 + 8 * i
/-- SHP_RATE.PIR [55:32], PRIV, reset 0: Peak rate, Mb/s (bits per refill) -/
abbrev SHP_RATE_PIR (i : Nat) : Fld := ⟨addr_SHP_RATE i, 55, 32⟩
/-- SHP_RATE.CIR [23:0], PRIV, reset 0: Committed rate, Mb/s; a write with PIR < CIR or either above 400,000 is ignored, CFG_INVALID set -/
abbrev SHP_RATE_CIR (i : Nat) : Fld := ⟨addr_SHP_RATE i, 23, 0⟩

/-- SHP_BURST, die unit page 0xA (Table 8-5): the key of the register. -/
abbrev addr_SHP_BURST (i : Nat) : Nat := 0xA300 + 8 * i
/-- SHP_BURST.GATED [63:63], PRIV, reset 0: 1: stream launches only in windows that admit it (R216) -/
abbrev SHP_BURST_GATED (i : Nat) : Fld := ⟨addr_SHP_BURST i, 63, 63⟩
/-- SHP_BURST.WT [55:48], PRIV, reset 1: Excess weight; 0 acts as 1 -/
abbrev SHP_BURST_WT (i : Nat) : Fld := ⟨addr_SHP_BURST i, 55, 48⟩
/-- SHP_BURST.PBS [47:24], PRIV, reset 36: Peak depth, units of 256 bytes; below 36 acts as 36 -/
abbrev SHP_BURST_PBS (i : Nat) : Fld := ⟨addr_SHP_BURST i, 47, 24⟩
/-- SHP_BURST.CBS [23:0], PRIV, reset 36: Committed depth, units of 256 bytes; below 36 acts as 36 -/
abbrev SHP_BURST_CBS (i : Nat) : Fld := ⟨addr_SHP_BURST i, 23, 0⟩

/-- GATE_TIME, die unit page 0xA (Table 8-6): the key of the register. -/
abbrev addr_GATE_TIME (i : Nat) : Nat := 0xA600 + 8 * i
/-- GATE_TIME.OFFSET [63:32], PRIV, reset 0: Window open, ns after cycle start -/
abbrev GATE_TIME_OFFSET (i : Nat) : Fld := ⟨addr_GATE_TIME i, 63, 32⟩
/-- GATE_TIME.DURATION [31:0], PRIV, reset 0: Window length, ns -/
abbrev GATE_TIME_DURATION (i : Nat) : Fld := ⟨addr_GATE_TIME i, 31, 0⟩

/-- MTR_RATE, aggregator page 0x13 (Table 8-8): the key of the register. -/
abbrev addr_MTR_RATE (i : Nat) : Nat := indBase + 0x1300030000 + 4 * i
/-- MTR_RATE.PIR [55:32], PRIV, reset 0: Peak rate, Mb/s -/
abbrev MTR_RATE_PIR (i : Nat) : Fld := ⟨addr_MTR_RATE i, 55, 32⟩
/-- MTR_RATE.CIR [23:0], PRIV, reset 0: Committed rate, Mb/s -/
abbrev MTR_RATE_CIR (i : Nat) : Fld := ⟨addr_MTR_RATE i, 23, 0⟩

/-- MTR_BURST, aggregator page 0x13 (Table 8-8): the key of the register. -/
abbrev addr_MTR_BURST (i : Nat) : Nat := indBase + 0x1300030001 + 4 * i
/-- MTR_BURST.ACTION [63:62], PRIV, reset 0b00: 0b00 DROP; 0b01 PROTECT; other values: write ignored -/
abbrev MTR_BURST_ACTION (i : Nat) : Fld := ⟨addr_MTR_BURST i, 63, 62⟩
/-- MTR_BURST.EN [61:61], PRIV, reset 0: 1: metering on; 0: every frame accepted uncounted -/
abbrev MTR_BURST_EN (i : Nat) : Fld := ⟨addr_MTR_BURST i, 61, 61⟩
/-- MTR_BURST.PBS [47:24], PRIV, reset 0: Peak depth, units of 256 bytes -/
abbrev MTR_BURST_PBS (i : Nat) : Fld := ⟨addr_MTR_BURST i, 47, 24⟩
/-- MTR_BURST.CBS [23:0], PRIV, reset 0: Committed depth, units of 256 bytes -/
abbrev MTR_BURST_CBS (i : Nat) : Fld := ⟨addr_MTR_BURST i, 23, 0⟩

/-- MTR_CNT_GY, aggregator page 0x13 (Table 8-8): the key of the register. -/
abbrev addr_MTR_CNT_GY (i : Nat) : Nat := indBase + 0x1300030002 + 4 * i
/-- MTR_CNT_GY.GREEN_N [63:32], RO, reset 0: Green frames, modulo 2^32 -/
abbrev MTR_CNT_GY_GREEN_N (i : Nat) : Fld := ⟨addr_MTR_CNT_GY i, 63, 32⟩
/-- MTR_CNT_GY.YELLOW_N [31:0], RO, reset 0: Yellow frames, modulo 2^32 -/
abbrev MTR_CNT_GY_YELLOW_N (i : Nat) : Fld := ⟨addr_MTR_CNT_GY i, 31, 0⟩

/-- MTR_CNT_R, aggregator page 0x13 (Table 8-8): the key of the register. -/
abbrev addr_MTR_CNT_R (i : Nat) : Nat := indBase + 0x1300030003 + 4 * i
/-- MTR_CNT_R.RED_N [63:32], RO, reset 0: Red frames, modulo 2^32 -/
abbrev MTR_CNT_R_RED_N (i : Nat) : Fld := ⟨addr_MTR_CNT_R i, 63, 32⟩
/-- MTR_CNT_R.DROPPED_N [31:0], RO, reset 0: Frames dropped, yellow or red, modulo 2^32 -/
abbrev MTR_CNT_R_DROPPED_N (i : Nat) : Fld := ⟨addr_MTR_CNT_R i, 31, 0⟩

/-- TOC_CTRL, die unit page 0xB (Table 8-13): the key of the register. -/
abbrev addr_TOC_CTRL : Nat := 0xB080
/-- TOC_CTRL.RESEND [23:16], PRIV, reset 1: Alarm resend interval, ms; 0 acts as 1 -/
abbrev TOC_CTRL_RESEND : Fld := ⟨addr_TOC_CTRL, 23, 16⟩
/-- TOC_CTRL.NODE [12:8], PRIV, reset 31: Node address (R226) -/
abbrev TOC_CTRL_NODE : Fld := ⟨addr_TOC_CTRL, 12, 8⟩
/-- TOC_CTRL.SEND_CONT [1:1], PRIV, reset 0: 1: alarms for he_sev 0b01 -/
abbrev TOC_CTRL_SEND_CONT : Fld := ⟨addr_TOC_CTRL, 1, 1⟩
/-- TOC_CTRL.EN [0:0], PRIV, reset 1: 1: MAC active -/
abbrev TOC_CTRL_EN : Fld := ⟨addr_TOC_CTRL, 0, 0⟩

/-- TOC_STATUS, die unit page 0xB (Table 8-13): the key of the register. -/
abbrev addr_TOC_STATUS : Nat := 0xB088
/-- TOC_STATUS.BEACON_OK [32:32], RO, reset 0: A valid BEACON arrived within 50 ms -/
abbrev TOC_STATUS_BEACON_OK : Fld := ⟨addr_TOC_STATUS, 32, 32⟩
/-- TOC_STATUS.EXCESS_COLL [4:4], W1C-SEQ, reset 0: A frame was discarded after 16 attempts -/
abbrev TOC_STATUS_EXCESS_COLL : Fld := ⟨addr_TOC_STATUS, 4, 4⟩
/-- TOC_STATUS.ALARM_LOST [3:3], W1C-SEQ, reset 0: An alarm was dropped or replaced (R228) -/
abbrev TOC_STATUS_ALARM_LOST : Fld := ⟨addr_TOC_STATUS, 3, 3⟩
/-- TOC_STATUS.UNACKED [2:2], W1C-SEQ, reset 0: An alarm went unacknowledged -/
abbrev TOC_STATUS_UNACKED : Fld := ⟨addr_TOC_STATUS, 2, 2⟩
/-- TOC_STATUS.CRC_ERR [1:1], W1C-SEQ, reset 0: A frame failed CRC or LEN -/
abbrev TOC_STATUS_CRC_ERR : Fld := ⟨addr_TOC_STATUS, 1, 1⟩
/-- TOC_STATUS.BEACON_LOST [0:0], W1C-SEQ, reset 0: BEACON absent for 50 ms (R230) -/
abbrev TOC_STATUS_BEACON_LOST : Fld := ⟨addr_TOC_STATUS, 0, 0⟩

/-- TOC_COUNTS0, die unit page 0xB (Table 8-14): the key of the register. -/
abbrev addr_TOC_COUNTS0 : Nat := 0xB090
/-- TOC_COUNTS0.TX_N [63:48], RO, reset 0: Frames sent -/
abbrev TOC_COUNTS0_TX_N : Fld := ⟨addr_TOC_COUNTS0, 63, 48⟩
/-- TOC_COUNTS0.RX_N [47:32], RO, reset 0: Frames accepted -/
abbrev TOC_COUNTS0_RX_N : Fld := ⟨addr_TOC_COUNTS0, 47, 32⟩
/-- TOC_COUNTS0.COLL_N [31:16], RO, reset 0: Collisions -/
abbrev TOC_COUNTS0_COLL_N : Fld := ⟨addr_TOC_COUNTS0, 31, 16⟩
/-- TOC_COUNTS0.CRC_ERR_N [15:0], RO, reset 0: Frames failing CRC or LEN -/
abbrev TOC_COUNTS0_CRC_ERR_N : Fld := ⟨addr_TOC_COUNTS0, 15, 0⟩

/-- TOC_COUNTS1, die unit page 0xB (Table 8-14): the key of the register. -/
abbrev addr_TOC_COUNTS1 : Nat := 0xB098
/-- TOC_COUNTS1.UNKNOWN_N [63:48], RO, reset 0: Frames of reserved TYPE -/
abbrev TOC_COUNTS1_UNKNOWN_N : Fld := ⟨addr_TOC_COUNTS1, 63, 48⟩
/-- TOC_COUNTS1.EXCESS_COLL_N [47:32], RO, reset 0: Frames discarded after 16 attempts -/
abbrev TOC_COUNTS1_EXCESS_COLL_N : Fld := ⟨addr_TOC_COUNTS1, 47, 32⟩
/-- TOC_COUNTS1.ALARM_LOST_N [31:16], RO, reset 0: Alarms dropped or replaced -/
abbrev TOC_COUNTS1_ALARM_LOST_N : Fld := ⟨addr_TOC_COUNTS1, 31, 16⟩
/-- TOC_COUNTS1.UNACKED_N [15:0], RO, reset 0: Alarms unacknowledged after 8 sends -/
abbrev TOC_COUNTS1_UNACKED_N : Fld := ⟨addr_TOC_COUNTS1, 15, 0⟩

/-- PWR_CAP, aggregator page 0x10 (Table 9-12): the key of the register. -/
abbrev addr_PWR_CAP : Nat := 0x10080
/-- PWR_CAP.CAP_W [15:0], PRIV, reset 2,000: Budget cap in W (R253) -/
abbrev PWR_CAP_CAP_W : Fld := ⟨addr_PWR_CAP, 15, 0⟩

/-- PWR_EST, aggregator page 0x10 (Table 9-12): the key of the register. -/
abbrev addr_PWR_EST : Nat := 0x10088
/-- PWR_EST.EST_W [15:0], RO, reset 0: Sum of budgets of domains in WAKING or ON, W -/
abbrev PWR_EST_EST_W : Fld := ⟨addr_PWR_EST, 15, 0⟩

/-- PWR_STATUS, aggregator page 0x10 (Table 9-12): the key of the register. -/
abbrev addr_PWR_STATUS : Nat := 0x10090
/-- PWR_STATUS.DEFERRED_N [63:32], RO, reset 0: Wakes deferred, saturating -/
abbrev PWR_STATUS_DEFERRED_N : Fld := ⟨addr_PWR_STATUS, 63, 32⟩
/-- PWR_STATUS.WAKE_DEFERRED [0:0], W1C-SEQ, reset 0: A wake was deferred -/
abbrev PWR_STATUS_WAKE_DEFERRED : Fld := ⟨addr_PWR_STATUS, 0, 0⟩

/-- CHIP_CORE_PRESENT, aggregator page 0x10 (Table 9-12): the key of the register. -/
abbrev addr_CHIP_CORE_PRESENT : Nat := 0x10098
/-- CHIP_CORE_PRESENT.PRESENT [63:0], RO, reset from configuration: Bit c: logical core c present (R234) -/
abbrev CHIP_CORE_PRESENT_PRESENT : Fld := ⟨addr_CHIP_CORE_PRESENT, 63, 0⟩

/-- PD_STAT, aggregator page 0x10 (Table 9-13): the key of the register. -/
abbrev addr_PD_STAT (i : Nat) : Nat := 0x10100 + 8 * i
/-- PD_STAT.WAKE_N [63:32], RO, reset 0: Wakes since chip reset, saturating -/
abbrev PD_STAT_WAKE_N (i : Nat) : Fld := ⟨addr_PD_STAT i, 63, 32⟩
/-- PD_STAT.WAKE_FAIL [8:8], W1C-SEQ, reset 0: The domain failed to wake (R254) -/
abbrev PD_STAT_WAKE_FAIL (i : Nat) : Fld := ⟨addr_PD_STAT i, 8, 8⟩
/-- PD_STAT.STATE [2:0], RO, reset 0b010 for never-sleeping domains, otherwise 0b000: 0b000 OFF; 0b001 WAKING; 0b010 ON; 0b011 RETAIN or self-refresh; 0b100 entering low state; 0b101 DRAINED; 0... -/
abbrev PD_STAT_STATE (i : Nat) : Fld := ⟨addr_PD_STAT i, 2, 0⟩

/-- PD_CTRL, aggregator page 0x10 (Table 9-13): the key of the register. -/
abbrev addr_PD_CTRL (i : Nat) : Nat := 0x10400 + 8 * i
/-- PD_CTRL.DRAIN [3:3], PRIV, reset 0: Core domains: 1 drain (R255); ignored elsewhere -/
abbrev PD_CTRL_DRAIN (i : Nat) : Fld := ⟨addr_PD_CTRL i, 3, 3⟩
/-- PD_CTRL.MAP_OUT [2:2], PRIV, reset 0: Core domains: 1 map out once drained -/
abbrev PD_CTRL_MAP_OUT (i : Nat) : Fld := ⟨addr_PD_CTRL i, 2, 2⟩
/-- PD_CTRL.FORCE_ON [1:1], PRIV, reset 0: 1: the domain does not enter its low state -/
abbrev PD_CTRL_FORCE_ON (i : Nat) : Fld := ⟨addr_PD_CTRL i, 1, 1⟩
/-- PD_CTRL.LOW_OFF [0:0], PRIV, reset 0: Core domains: 1 low state is OFF, 0 RETAIN -/
abbrev PD_CTRL_LOW_OFF (i : Nat) : Fld := ⟨addr_PD_CTRL i, 0, 0⟩

/-- SYNC_STATUS, aggregator page 0x11 (Table 9-14): the key of the register. -/
abbrev addr_SYNC_STATUS : Nat := 0x11080
/-- SYNC_STATUS.SYNC_CFG_BUSY [0:0], W1C-SEQ, reset 0: A synchronisation configuration write was refused (R237, R239) -/
abbrev SYNC_STATUS_SYNC_CFG_BUSY : Fld := ⟨addr_SYNC_STATUS, 0, 0⟩

/-- BRG_REPLAY_N, aggregator page 0x11 (Table 9-14): the key of the register. -/
abbrev addr_BRG_REPLAY_N : Nat := 0x11088
/-- BRG_REPLAY_N.B01 [47:32], RO, reset 0: Replays per bridge, saturating -/
abbrev BRG_REPLAY_N_B01 : Fld := ⟨addr_BRG_REPLAY_N, 47, 32⟩
/-- BRG_REPLAY_N.BI0 [31:16], RO, reset 0: Replays per bridge, saturating -/
abbrev BRG_REPLAY_N_BI0 : Fld := ⟨addr_BRG_REPLAY_N, 31, 16⟩
/-- BRG_REPLAY_N.BI1 [15:0], RO, reset 0: Replays per bridge, saturating -/
abbrev BRG_REPLAY_N_BI1 : Fld := ⟨addr_BRG_REPLAY_N, 15, 0⟩

/-- HBM_CE_N, aggregator page 0x11 (Table 9-14): the key of the register. -/
abbrev addr_HBM_CE_N : Nat := 0x11090
/-- HBM_CE_N.STACK_k [8k+7:8k], RO, reset 0: Corrected HBM errors of stack k, saturating -/
abbrev HBM_CE_N_STACK (k : Nat) : Fld := ⟨0x11090, 8 * k + 7, 8 * k⟩

/-- HBM_ACCESS_FAULT_N, aggregator page 0x11 (Table 9-14): the key of the register. -/
abbrev addr_HBM_ACCESS_FAULT_N : Nat := 0x11098
/-- HBM_ACCESS_FAULT_N.COUNT [63:0], RO, reset 0: HBM access faults (R247), saturating -/
abbrev HBM_ACCESS_FAULT_N_COUNT : Fld := ⟨addr_HBM_ACCESS_FAULT_N, 63, 0⟩

/-- BAR_CFG, aggregator page 0x11 (Table 9-15): the key of the register. -/
abbrev addr_BAR_CFG (i : Nat) : Nat := indBase + 0x1100000000 + 4 * i
/-- BAR_CFG.SYS [63:63], PRIV, reset 0: 1: owned by the chip -/
abbrev BAR_CFG_SYS (i : Nat) : Fld := ⟨addr_BAR_CFG i, 63, 63⟩
/-- BAR_CFG.OWNER [57:48], PRIV, reset 0: Owning context ID -/
abbrev BAR_CFG_OWNER (i : Nat) : Fld := ⟨addr_BAR_CFG i, 57, 48⟩
/-- BAR_CFG.TIMEOUT [31:0], PRIV, reset 0: Timeout in µs; 0 none (R240) -/
abbrev BAR_CFG_TIMEOUT (i : Nat) : Fld := ⟨addr_BAR_CFG i, 31, 0⟩

/-- BAR_MASK, aggregator page 0x11 (Table 9-15): the key of the register. -/
abbrev addr_BAR_MASK (i : Nat) : Nat := indBase + 0x1100000001 + 4 * i
/-- BAR_MASK.MASK [63:0], PRIV, reset 0: Bit c: logical core c participates -/
abbrev BAR_MASK_MASK (i : Nat) : Fld := ⟨addr_BAR_MASK i, 63, 0⟩

/-- BAR_ARR, aggregator page 0x11 (Table 9-15): the key of the register. -/
abbrev addr_BAR_ARR (i : Nat) : Nat := indBase + 0x1100000002 + 4 * i
/-- BAR_ARR.ARRIVED [63:0], RO, reset 0: Arrivals of the current generation -/
abbrev BAR_ARR_ARRIVED (i : Nat) : Fld := ⟨addr_BAR_ARR i, 63, 0⟩

/-- BAR_STAT, aggregator page 0x11 (Table 9-15): the key of the register. -/
abbrev addr_BAR_STAT (i : Nat) : Nat := indBase + 0x1100000003 + 4 * i
/-- BAR_STAT.GEN [63:48], RO, reset 0: Generation -/
abbrev BAR_STAT_GEN (i : Nat) : Fld := ⟨addr_BAR_STAT i, 63, 48⟩
/-- BAR_STAT.BROKEN [1:1], RO, reset 0: Barrier is broken -/
abbrev BAR_STAT_BROKEN (i : Nat) : Fld := ⟨addr_BAR_STAT i, 1, 1⟩
/-- BAR_STAT.RESET [0:0], PRIV, reset 0: Write 1: reset (R240); reads 0 -/
abbrev BAR_STAT_RESET (i : Nat) : Fld := ⟨addr_BAR_STAT i, 0, 0⟩

/-- SEM_CFG, aggregator page 0x11 (Table 9-16): the key of the register. -/
abbrev addr_SEM_CFG (i : Nat) : Nat := indBase + 0x1100000400 + 2 * i
/-- SEM_CFG.SYS [63:63], PRIV, reset 0: 1: owned by the chip -/
abbrev SEM_CFG_SYS (i : Nat) : Fld := ⟨addr_SEM_CFG i, 63, 63⟩
/-- SEM_CFG.OWNER [57:48], PRIV, reset 0: Owning context ID -/
abbrev SEM_CFG_OWNER (i : Nat) : Fld := ⟨addr_SEM_CFG i, 57, 48⟩
/-- SEM_CFG.WAITERS [31:16], RO, reset 0: Queued waits -/
abbrev SEM_CFG_WAITERS (i : Nat) : Fld := ⟨addr_SEM_CFG i, 31, 16⟩
/-- SEM_CFG.SATURATED [1:1], W1C-SEQ, reset 0: A SIGNAL saturated (R241) -/
abbrev SEM_CFG_SATURATED (i : Nat) : Fld := ⟨addr_SEM_CFG i, 1, 1⟩
/-- SEM_CFG.RESET [0:0], PRIV, reset 0: Write 1: reset (R243); reads 0 -/
abbrev SEM_CFG_RESET (i : Nat) : Fld := ⟨addr_SEM_CFG i, 0, 0⟩

/-- SEM_VAL, aggregator page 0x11 (Table 9-16): the key of the register. -/
abbrev addr_SEM_VAL (i : Nat) : Nat := indBase + 0x1100000401 + 2 * i
/-- SEM_VAL.VALUE [31:0], PRIV, reset 0: Value; a privileged write sets it (R243) -/
abbrev SEM_VAL_VALUE (i : Nat) : Fld := ⟨addr_SEM_VAL i, 31, 0⟩

/-- HBM_RGN_BASE, aggregator page 0x12 (Table 9-17): the key of the register. -/
abbrev addr_HBM_RGN_BASE (i : Nat) : Nat := 0x12100 + 24 * i
/-- HBM_RGN_BASE.BASE [63:0], RO, reset from configuration: First byte; [11:0] zero -/
abbrev HBM_RGN_BASE_BASE (i : Nat) : Fld := ⟨addr_HBM_RGN_BASE i, 63, 0⟩

/-- HBM_RGN_LIM, aggregator page 0x12 (Table 9-17): the key of the register. -/
abbrev addr_HBM_RGN_LIM (i : Nat) : Nat := 0x12108 + 24 * i
/-- HBM_RGN_LIM.LIMIT [63:0], RO, reset from configuration: Last byte; [11:0] all ones -/
abbrev HBM_RGN_LIM_LIMIT (i : Nat) : Fld := ⟨addr_HBM_RGN_LIM i, 63, 0⟩

/-- HBM_RGN_ATTR, aggregator page 0x12 (Table 9-17): the key of the register. -/
abbrev addr_HBM_RGN_ATTR (i : Nat) : Nat := 0x12110 + 24 * i
/-- HBM_RGN_ATTR.EN [63:63], RO, reset from configuration: 1: region in use -/
abbrev HBM_RGN_ATTR_EN (i : Nat) : Fld := ⟨addr_HBM_RGN_ATTR i, 63, 63⟩
/-- HBM_RGN_ATTR.KIND [55:48], RO, reset from configuration: 0x01 ledger; 0x02 detector images and models; 0x03 pigeonholes; 0x04 audit staging; 0x05 epoch state; 0x06 ... -/
abbrev HBM_RGN_ATTR_KIND (i : Nat) : Fld := ⟨addr_HBM_RGN_ATTR i, 55, 48⟩
/-- HBM_RGN_ATTR.RD [15:8], RO, reset from configuration: Readers: [8] STE, [9] XDE, [10] CDE, [11] sequencer and mover, [12] ingest, [13] host DMA, [14] mirror, [15... -/
abbrev HBM_RGN_ATTR_RD (i : Nat) : Fld := ⟨addr_HBM_RGN_ATTR i, 15, 8⟩
/-- HBM_RGN_ATTR.WR [7:0], RO, reset from configuration: Writers, same order from bit 0 -/
abbrev HBM_RGN_ATTR_WR (i : Nat) : Fld := ⟨addr_HBM_RGN_ATTR i, 7, 0⟩

/-- ING_CTRL, aggregator page 0x13 (Table 10-18): the key of the register. -/
abbrev addr_ING_CTRL : Nat := 0x13080
/-- ING_CTRL.REASM_WAIT [47:32], PRIV, reset 200: Reassembly limit, units of 10 µs; 0 acts as 1 (R269) -/
abbrev ING_CTRL_REASM_WAIT : Fld := ⟨addr_ING_CTRL, 47, 32⟩
/-- ING_CTRL.RETIRE_DRAIN [31:16], PRIV, reset 10: Drain time, ms, 1 to 1,000 (R288) -/
abbrev ING_CTRL_RETIRE_DRAIN : Fld := ⟨addr_ING_CTRL, 31, 16⟩
/-- ING_CTRL.CTL_RETRY [15:8], PRIV, reset 10: Control resend interval, units of 10 µs; 0 acts as 1 -/
abbrev ING_CTRL_CTL_RETRY : Fld := ⟨addr_ING_CTRL, 15, 8⟩
/-- ING_CTRL.CTL_TRIES [7:4], PRIV, reset 8: Control sends in all, 1 to 15; 0 acts as 1 -/
abbrev ING_CTRL_CTL_TRIES : Fld := ⟨addr_ING_CTRL, 7, 4⟩
/-- ING_CTRL.EN [0:0], PRIV, reset 0: 1: ingest enabled -/
abbrev ING_CTRL_EN : Fld := ⟨addr_ING_CTRL, 0, 0⟩

/-- ING_STATUS, aggregator page 0x13 (Table 10-18): the key of the register. -/
abbrev addr_ING_STATUS : Nat := 0x13088
/-- ING_STATUS.REG_REFUSED [7:7], W1C-SEQ, reset 0: A registration was refused -/
abbrev ING_STATUS_REG_REFUSED : Fld := ⟨addr_ING_STATUS, 7, 7⟩
/-- ING_STATUS.STALE_GEN [6:6], W1C-SEQ, reset 0: A frame of a quarantined generation was discarded -/
abbrev ING_STATUS_STALE_GEN : Fld := ⟨addr_ING_STATUS, 6, 6⟩
/-- ING_STATUS.WRONG_JOB [5:5], W1C-SEQ, reset 0: A frame named no bound job -/
abbrev ING_STATUS_WRONG_JOB : Fld := ⟨addr_ING_STATUS, 5, 5⟩
/-- ING_STATUS.PH_FULL [4:4], W1C-SEQ, reset 0: A parcel found no pigeonhole buffer -/
abbrev ING_STATUS_PH_FULL : Fld := ⟨addr_ING_STATUS, 4, 4⟩
/-- ING_STATUS.PARCEL_FAULT [3:3], W1C-SEQ, reset 0: A parcel failed its checks -/
abbrev ING_STATUS_PARCEL_FAULT : Fld := ⟨addr_ING_STATUS, 3, 3⟩
/-- ING_STATUS.PARCEL_LOST [2:2], W1C-SEQ, reset 0: A PSEQ gap was counted -/
abbrev ING_STATUS_PARCEL_LOST : Fld := ⟨addr_ING_STATUS, 2, 2⟩
/-- ING_STATUS.MALFORMED [1:1], W1C-SEQ, reset 0: A malformed frame was discarded -/
abbrev ING_STATUS_MALFORMED : Fld := ⟨addr_ING_STATUS, 1, 1⟩
/-- ING_STATUS.UNKNOWN_VER [0:0], W1C-SEQ, reset 0: A frame of unknown version was discarded -/
abbrev ING_STATUS_UNKNOWN_VER : Fld := ⟨addr_ING_STATUS, 0, 0⟩

/-- ING_CNT0, aggregator page 0x13 (Table 10-19): the key of the register. -/
abbrev addr_ING_CNT0 : Nat := 0x13090
/-- ING_CNT0.UNKNOWN_VER_N [63:32], RO, reset 0: R267 checks 1 and 2 -/
abbrev ING_CNT0_UNKNOWN_VER_N : Fld := ⟨addr_ING_CNT0, 63, 32⟩
/-- ING_CNT0.BAD_FTYPE_N [31:0], RO, reset 0: R267 checks 1 and 2 -/
abbrev ING_CNT0_BAD_FTYPE_N : Fld := ⟨addr_ING_CNT0, 31, 0⟩

/-- ING_CNT1, aggregator page 0x13 (Table 10-19): the key of the register. -/
abbrev addr_ING_CNT1 : Nat := 0x13098
/-- ING_CNT1.MALFORMED_N [63:32], RO, reset 0: R267 checks 3 and 4 -/
abbrev ING_CNT1_MALFORMED_N : Fld := ⟨addr_ING_CNT1, 63, 32⟩
/-- ING_CNT1.UNREG_N [31:0], RO, reset 0: R267 checks 3 and 4 -/
abbrev ING_CNT1_UNREG_N : Fld := ⟨addr_ING_CNT1, 31, 0⟩

/-- ING_CNT2, aggregator page 0x13 (Table 10-19): the key of the register. -/
abbrev addr_ING_CNT2 : Nat := 0x130A0
/-- ING_CNT2.STALE_GEN_N [63:32], RO, reset 0: R268 -/
abbrev ING_CNT2_STALE_GEN_N : Fld := ⟨addr_ING_CNT2, 63, 32⟩
/-- ING_CNT2.WRONG_JOB_N [31:0], RO, reset 0: R268 -/
abbrev ING_CNT2_WRONG_JOB_N : Fld := ⟨addr_ING_CNT2, 31, 0⟩

/-- ING_CNT3, aggregator page 0x13 (Table 10-19): the key of the register. -/
abbrev addr_ING_CNT3 : Nat := 0x130A8
/-- ING_CNT3.REASM_TIMEOUT_N [63:32], RO, reset 0: R269 -/
abbrev ING_CNT3_REASM_TIMEOUT_N : Fld := ⟨addr_ING_CNT3, 63, 32⟩
/-- ING_CNT3.PARCEL_LOST_N [31:0], RO, reset 0: R269 -/
abbrev ING_CNT3_PARCEL_LOST_N : Fld := ⟨addr_ING_CNT3, 31, 0⟩

/-- ING_CNT4, aggregator page 0x13 (Table 10-19): the key of the register. -/
abbrev addr_ING_CNT4 : Nat := 0x130B0
/-- ING_CNT4.PARCEL_FAULT_N [63:32], RO, reset 0: R270 -/
abbrev ING_CNT4_PARCEL_FAULT_N : Fld := ⟨addr_ING_CNT4, 63, 32⟩
/-- ING_CNT4.PH_FULL_N [31:0], RO, reset 0: R270 -/
abbrev ING_CNT4_PH_FULL_N : Fld := ⟨addr_ING_CNT4, 31, 0⟩

/-- ING_CNT5, aggregator page 0x13 (Table 10-19): the key of the register. -/
abbrev addr_ING_CNT5 : Nat := 0x130B8
/-- ING_CNT5.REG_REFUSED_N [63:32], RO, reset 0: R259, R265 -/
abbrev ING_CNT5_REG_REFUSED_N : Fld := ⟨addr_ING_CNT5, 63, 32⟩
/-- ING_CNT5.CTL_UNACKED_N [31:0], RO, reset 0: R259, R265 -/
abbrev ING_CNT5_CTL_UNACKED_N : Fld := ⟨addr_ING_CNT5, 31, 0⟩

/-- EP_DEFAULTS, aggregator page 0x14 (Table 10-20): the key of the register. -/
abbrev addr_EP_DEFAULTS : Nat := 0x14080
/-- EP_DEFAULTS.EPOCH_WAIT [63:32], PRIV, reset 1,000: Default tray deadline, µs, 20 to 100,000; other values ignored, CFG_INVALID set -/
abbrev EP_DEFAULTS_EPOCH_WAIT : Fld := ⟨addr_EP_DEFAULTS, 63, 32⟩
/-- EP_DEFAULTS.HOP_WAIT [31:16], PRIV, reset 50: Default per-level allowance, µs, 10 to 10,000 -/
abbrev EP_DEFAULTS_HOP_WAIT : Fld := ⟨addr_EP_DEFAULTS, 31, 16⟩
/-- EP_DEFAULTS.BC_DONE_WAIT [15:0], PRIV, reset 10: Broadcast completion report, ms; 0 acts as 1 (R293) -/
abbrev EP_DEFAULTS_BC_DONE_WAIT : Fld := ⟨addr_EP_DEFAULTS, 15, 0⟩

/-- TREE_TIMING, aggregator page 0x14 (Table 10-20): the key of the register. -/
abbrev addr_TREE_TIMING : Nat := 0x14088
/-- TREE_TIMING.CONTRIB_RETRY [63:48], PRIV, reset 20: µs; 0 acts as 1 -/
abbrev TREE_TIMING_CONTRIB_RETRY : Fld := ⟨addr_TREE_TIMING, 63, 48⟩
/-- TREE_TIMING.CONTRIB_TRIES [47:44], PRIV, reset 3: 1 to 15; 0 acts as 1 -/
abbrev TREE_TIMING_CONTRIB_TRIES : Fld := ⟨addr_TREE_TIMING, 47, 44⟩
/-- TREE_TIMING.BC_TRIES [43:40], PRIV, reset 4: 1 to 15; 0 acts as 1 -/
abbrev TREE_TIMING_BC_TRIES : Fld := ⟨addr_TREE_TIMING, 43, 40⟩
/-- TREE_TIMING.BC_RETRY [31:16], PRIV, reset 200: µs; 0 acts as 1 -/
abbrev TREE_TIMING_BC_RETRY : Fld := ⟨addr_TREE_TIMING, 31, 16⟩
/-- TREE_TIMING.BC_GAP_WAIT [15:0], PRIV, reset 500: µs; 0 acts as 1 -/
abbrev TREE_TIMING_BC_GAP_WAIT : Fld := ⟨addr_TREE_TIMING, 15, 0⟩

/-- TREE_STATUS, aggregator page 0x14 (Table 10-21): the key of the register. -/
abbrev addr_TREE_STATUS : Nat := 0x14090
/-- TREE_STATUS.SCHED_REFUSED [6:6], W1C-SEQ, reset 0: A peal schedule below P_min was received; none of its peals was armed (R271) -/
abbrev TREE_STATUS_SCHED_REFUSED : Fld := ⟨addr_TREE_STATUS, 6, 6⟩
/-- TREE_STATUS.CFG_INVALID [5:5], W1C-SEQ, reset 0: A configuration write was ignored -/
abbrev TREE_STATUS_CFG_INVALID : Fld := ⟨addr_TREE_STATUS, 5, 5⟩
/-- TREE_STATUS.TREE_STALE [4:4], W1C-SEQ, reset 0: A tree frame of a released or unattached job was discarded -/
abbrev TREE_STATUS_TREE_STALE : Fld := ⟨addr_TREE_STATUS, 4, 4⟩
/-- TREE_STATUS.LATE [3:3], W1C-SEQ, reset 0: A contribution arrived after its epoch closed -/
abbrev TREE_STATUS_LATE : Fld := ⟨addr_TREE_STATUS, 3, 3⟩
/-- TREE_STATUS.EPOCH_PARTIAL [2:2], W1C-SEQ, reset 0: An epoch closed partial -/
abbrev TREE_STATUS_EPOCH_PARTIAL : Fld := ⟨addr_TREE_STATUS, 2, 2⟩
/-- TREE_STATUS.CHILD_LOST [1:1], W1C-SEQ, reset 0: A child's heartbeat was absent for 1 ms -/
abbrev TREE_STATUS_CHILD_LOST : Fld := ⟨addr_TREE_STATUS, 1, 1⟩
/-- TREE_STATUS.PARENT_LOST [0:0], W1C-SEQ, reset 0: A parent's heartbeat was absent for 1 ms -/
abbrev TREE_STATUS_PARENT_LOST : Fld := ⟨addr_TREE_STATUS, 0, 0⟩

/-- TREE_CNT0, aggregator page 0x14 (Table 10-21): the key of the register. -/
abbrev addr_TREE_CNT0 : Nat := 0x14098
/-- TREE_CNT0.LATE_N [63:32], RO, reset 0: Late contributions, saturating -/
abbrev TREE_CNT0_LATE_N : Fld := ⟨addr_TREE_CNT0, 63, 32⟩
/-- TREE_CNT0.TREE_STALE_N [31:0], RO, reset 0: Stale tree frames, saturating -/
abbrev TREE_CNT0_TREE_STALE_N : Fld := ⟨addr_TREE_CNT0, 31, 0⟩

/-- TREE_CNT1, aggregator page 0x14 (Table 10-21): the key of the register. -/
abbrev addr_TREE_CNT1 : Nat := 0x140A0
/-- TREE_CNT1.PARTIAL_N [63:32], RO, reset 0: Epochs closed partial, saturating -/
abbrev TREE_CNT1_PARTIAL_N : Fld := ⟨addr_TREE_CNT1, 63, 32⟩
/-- TREE_CNT1.NAK_N [31:0], RO, reset 0: NAKs sent, saturating -/
abbrev TREE_CNT1_NAK_N : Fld := ⟨addr_TREE_CNT1, 31, 0⟩

/-- REG_ENT, aggregator page 0x13 (Table 10-22): the key of the register. -/
abbrev addr_REG_ENT (i : Nat) : Nat := indBase + 0x1300000000 + 1 * i
/-- REG_ENT.VALID [63:63], RO, reset 0: A registration stands -/
abbrev REG_ENT_VALID (i : Nat) : Fld := ⟨addr_REG_ENT i, 63, 63⟩
/-- REG_ENT.STATE [62:60], RO, reset 0b000: 0b000 none; 0b001 served as home; 0b010 served in failover; 0b011 home die unit served by the partner; othe... -/
abbrev REG_ENT_STATE (i : Nat) : Fld := ⟨addr_REG_ENT i, 62, 60⟩
/-- REG_ENT.MAC [47:0], RO, reset 0: Registered MAC address -/
abbrev REG_ENT_MAC (i : Nat) : Fld := ⟨addr_REG_ENT i, 47, 0⟩

/-- STC_CFG, aggregator page 0x13 (Table 10-22): the key of the register. -/
abbrev addr_STC_CFG (i : Nat) : Nat := indBase + 0x1300010000 + 2 * i
/-- STC_CFG.EN [63:63], PRIV, reset 0: 1: context enabled -/
abbrev STC_CFG_EN (i : Nat) : Fld := ⟨addr_STC_CFG i, 63, 63⟩
/-- STC_CFG.PRIV [62:62], PRIV, reset 0: 1: privileged stream (R270) -/
abbrev STC_CFG_PRIV (i : Nat) : Fld := ⟨addr_STC_CFG i, 62, 62⟩
/-- STC_CFG.BOUND [61:61], PRIV, reset 0: 1: bound to JOBCTX; 0: bound to no job -/
abbrev STC_CFG_BOUND (i : Nat) : Fld := ⟨addr_STC_CFG i, 61, 61⟩
/-- STC_CFG.JOBCTX [57:48], PRIV, reset 0: Job context ID -/
abbrev STC_CFG_JOBCTX (i : Nat) : Fld := ⟨addr_STC_CFG i, 57, 48⟩
/-- STC_CFG.POOL [15:0], PRIV, reset 0: Pigeonhole of the stream -/
abbrev STC_CFG_POOL (i : Nat) : Fld := ⟨addr_STC_CFG i, 15, 0⟩

/-- STC_STAT, aggregator page 0x13 (Table 10-22): the key of the register. -/
abbrev addr_STC_STAT (i : Nat) : Nat := indBase + 0x1300010001 + 2 * i
/-- STC_STAT.EXP_PSEQ [63:32], RO, reset 0: Expected PSEQ (R269) -/
abbrev STC_STAT_EXP_PSEQ (i : Nat) : Fld := ⟨addr_STC_STAT i, 63, 32⟩
/-- STC_STAT.LOST_N [31:16], RO, reset 0: Parcels lost, saturating -/
abbrev STC_STAT_LOST_N (i : Nat) : Fld := ⟨addr_STC_STAT i, 31, 16⟩
/-- STC_STAT.FAULT_N [15:0], RO, reset 0: Parcels faulted, saturating -/
abbrev STC_STAT_FAULT_N (i : Nat) : Fld := ⟨addr_STC_STAT i, 15, 0⟩

/-- JC_ID, aggregator page 0x13 (Table 10-22): the key of the register. -/
abbrev addr_JC_ID (i : Nat) : Nat := indBase + 0x1300020000 + 4 * i
/-- JC_ID.STATE [63:61], RO, reset 0b000: 0b000 FREE; 0b001 ARMED; 0b010 RETIRING; 0b011 QUARANTINE; other values reserved -/
abbrev JC_ID_STATE (i : Nat) : Fld := ⟨addr_JC_ID i, 63, 61⟩
/-- JC_ID.GEN [39:32], RO, reset 0: Job generation -/
abbrev JC_ID_GEN (i : Nat) : Fld := ⟨addr_JC_ID i, 39, 32⟩
/-- JC_ID.JOB_ID [31:0], RO, reset 0: Job ID -/
abbrev JC_ID_JOB_ID (i : Nat) : Fld := ⟨addr_JC_ID i, 31, 0⟩

/-- JC_TREE, aggregator page 0x13 (Table 10-22): the key of the register. -/
abbrev addr_JC_TREE (i : Nat) : Nat := indBase + 0x1300020001 + 4 * i
/-- JC_TREE.LEVEL [63:61], RO, reset 0: Level, 0 to 4 -/
abbrev JC_TREE_LEVEL (i : Nat) : Fld := ⟨addr_JC_TREE i, 63, 61⟩
/-- JC_TREE.DEPTH [60:58], RO, reset 0: Tree depth D -/
abbrev JC_TREE_DEPTH (i : Nat) : Fld := ⟨addr_JC_TREE i, 60, 58⟩
/-- JC_TREE.PARENT [55:44], RO, reset 0: Primary parent's aggregator ID -/
abbrev JC_TREE_PARENT (i : Nat) : Fld := ⟨addr_JC_TREE i, 55, 44⟩
/-- JC_TREE.BACKUP [43:32], RO, reset 0: Backup parent's aggregator ID -/
abbrev JC_TREE_BACKUP (i : Nat) : Fld := ⟨addr_JC_TREE i, 43, 32⟩
/-- JC_TREE.ROOT [31:31], RO, reset 0: 1: this node is the root; PARENT and BACKUP are meaningless -/
abbrev JC_TREE_ROOT (i : Nat) : Fld := ⟨addr_JC_TREE i, 31, 31⟩
/-- JC_TREE.CHILDREN [13:8], RO, reset 0: Children, 0 to 32 -/
abbrev JC_TREE_CHILDREN (i : Nat) : Fld := ⟨addr_JC_TREE i, 13, 8⟩
/-- JC_TREE.BCHILDREN [5:0], RO, reset 0: Backup children, 0 to 32 -/
abbrev JC_TREE_BCHILDREN (i : Nat) : Fld := ⟨addr_JC_TREE i, 5, 0⟩

/-- JC_TIME, aggregator page 0x13 (Table 10-22): the key of the register. -/
abbrev addr_JC_TIME (i : Nat) : Nat := indBase + 0x1300020002 + 4 * i
/-- JC_TIME.QUAR_MS [63:48], RO, reset 0: Quarantine remaining, ms, 0 to 6,000 -/
abbrev JC_TIME_QUAR_MS (i : Nat) : Fld := ⟨addr_JC_TIME i, 63, 48⟩
/-- JC_TIME.EPOCH_WAIT [31:0], RO, reset 0: Tray deadline in force for the job, µs -/
abbrev JC_TIME_EPOCH_WAIT (i : Nat) : Fld := ⟨addr_JC_TIME i, 31, 0⟩

/-- NUM_W0, aggregator page 0x15 (Table 11-12): the key of the register. -/
abbrev addr_NUM_W0 (i : Nat) : Nat := indBase + 0x1500000000 + 4 * i
/-- NUM_W0.VALID [63:63], PRIV, reset from configuration: 1: descriptor valid -/
abbrev NUM_W0_VALID (i : Nat) : Fld := ⟨addr_NUM_W0 i, 63, 63⟩
/-- NUM_W0.OUT_FMT [55:50], PRIV, reset from configuration: Output format (Table 11-1) -/
abbrev NUM_W0_OUT_FMT (i : Nat) : Fld := ⟨addr_NUM_W0 i, 55, 50⟩
/-- NUM_W0.OUT_RND [49:48], PRIV, reset from configuration: 0b00 nearest; 0b01 toward zero; 0b10 other faithful; 0b11 reserved -/
abbrev NUM_W0_OUT_RND (i : Nat) : Fld := ⟨addr_NUM_W0 i, 49, 48⟩
/-- NUM_W0.OUT_OVF [47:46], PRIV, reset from configuration: 0b00 infinity; 0b01 saturate; 0b10 NaN; 0b11 reserved (R305) -/
abbrev NUM_W0_OUT_OVF (i : Nat) : Fld := ⟨addr_NUM_W0 i, 47, 46⟩
/-- NUM_W0.OUT_FTZ [45:45], PRIV, reset from configuration: 1: output subnormals flushed -/
abbrev NUM_W0_OUT_FTZ (i : Nat) : Fld := ⟨addr_NUM_W0 i, 45, 45⟩
/-- NUM_W0.IN_FTZ [44:44], PRIV, reset from configuration: 1: subnormal operands read as zero (R298) -/
abbrev NUM_W0_IN_FTZ (i : Nat) : Fld := ⟨addr_NUM_W0 i, 44, 44⟩
/-- NUM_W0.SLACK [15:0], PRIV, reset from configuration: Relative slack, units of 2^-16 (R303) -/
abbrev NUM_W0_SLACK (i : Nat) : Fld := ⟨addr_NUM_W0 i, 15, 0⟩

/-- NUM_W1, aggregator page 0x15 (Table 11-12): the key of the register. -/
abbrev addr_NUM_W1 (i : Nat) : Nat := indBase + 0x1500000001 + 4 * i
/-- NUM_W1.P_M [63:56], PRIV, reset from configuration: Product significand bits; 0: exact -/
abbrev NUM_W1_P_M (i : Nat) : Fld := ⟨addr_NUM_W1 i, 63, 56⟩
/-- NUM_W1.M_RND [55:54], PRIV, reset from configuration: as OUT_RND -/
abbrev NUM_W1_M_RND (i : Nat) : Fld := ⟨addr_NUM_W1 i, 55, 54⟩
/-- NUM_W1.M_FTZ [53:53], PRIV, reset from configuration: 1: product subnormals flushed -/
abbrev NUM_W1_M_FTZ (i : Nat) : Fld := ⟨addr_NUM_W1 i, 53, 53⟩
/-- NUM_W1.M_EMIN [47:32], PRIV, reset from configuration: Smallest normal exponent of products, signed -/
abbrev NUM_W1_M_EMIN (i : Nat) : Fld := ⟨addr_NUM_W1 i, 47, 32⟩

/-- NUM_W2, aggregator page 0x15 (Table 11-12): the key of the register. -/
abbrev addr_NUM_W2 (i : Nat) : Nat := indBase + 0x1500000002 + 4 * i
/-- NUM_W2.P_A [63:56], PRIV, reset from configuration: Inner accumulator significand bits -/
abbrev NUM_W2_P_A (i : Nat) : Fld := ⟨addr_NUM_W2 i, 63, 56⟩
/-- NUM_W2.A_RND [55:54], PRIV, reset from configuration: as OUT_RND -/
abbrev NUM_W2_A_RND (i : Nat) : Fld := ⟨addr_NUM_W2 i, 55, 54⟩
/-- NUM_W2.A_FTZ [53:53], PRIV, reset from configuration: 1: inner results flushed -/
abbrev NUM_W2_A_FTZ (i : Nat) : Fld := ⟨addr_NUM_W2 i, 53, 53⟩
/-- NUM_W2.A_ORDER [51:50], PRIV, reset from configuration: 0b00 ANY; 0b01 TREE; other values reserved -/
abbrev NUM_W2_A_ORDER (i : Nat) : Fld := ⟨addr_NUM_W2 i, 51, 50⟩
/-- NUM_W2.A_EMIN [47:32], PRIV, reset from configuration: Smallest normal exponent, signed -/
abbrev NUM_W2_A_EMIN (i : Nat) : Fld := ⟨addr_NUM_W2 i, 47, 32⟩
/-- NUM_W2.FUSE_W [31:24], PRIV, reset from configuration: Fused width W − 1 -/
abbrev NUM_W2_FUSE_W (i : Nat) : Fld := ⟨addr_NUM_W2 i, 31, 24⟩
/-- NUM_W2.CHUNK [23:0], PRIV, reset from configuration: Chunk length C − 1; all ones: unchunked -/
abbrev NUM_W2_CHUNK (i : Nat) : Fld := ⟨addr_NUM_W2 i, 23, 0⟩

/-- NUM_W3, aggregator page 0x15 (Table 11-12): the key of the register. -/
abbrev addr_NUM_W3 (i : Nat) : Nat := indBase + 0x1500000003 + 4 * i
/-- NUM_W3.P_C [63:56], PRIV, reset from configuration: Outer significand bits -/
abbrev NUM_W3_P_C (i : Nat) : Fld := ⟨addr_NUM_W3 i, 63, 56⟩
/-- NUM_W3.C_RND [55:54], PRIV, reset from configuration: as OUT_RND -/
abbrev NUM_W3_C_RND (i : Nat) : Fld := ⟨addr_NUM_W3 i, 55, 54⟩
/-- NUM_W3.C_FTZ [53:53], PRIV, reset from configuration: 1: outer results flushed -/
abbrev NUM_W3_C_FTZ (i : Nat) : Fld := ⟨addr_NUM_W3 i, 53, 53⟩
/-- NUM_W3.C_ORDER [51:50], PRIV, reset from configuration: as A_ORDER -/
abbrev NUM_W3_C_ORDER (i : Nat) : Fld := ⟨addr_NUM_W3 i, 51, 50⟩
/-- NUM_W3.C_EMIN [47:32], PRIV, reset from configuration: Smallest normal exponent, signed -/
abbrev NUM_W3_C_EMIN (i : Nat) : Fld := ⟨addr_NUM_W3 i, 47, 32⟩

/-- AUD_CTRL, aggregator page 0x15 (Table 11-13): the key of the register. -/
abbrev addr_AUD_CTRL : Nat := 0x15080
/-- AUD_CTRL.START_WAIT [55:40], PRIV, reset 300: First-audit start limit, ms, 10 to 600; other values ignored, CFG_INVALID set (R308) -/
abbrev AUD_CTRL_START_WAIT : Fld := ⟨addr_AUD_CTRL, 55, 40⟩
/-- AUD_CTRL.STAGE_WAIT [39:32], PRIV, reset 50: Staging limit, ms; 0 acts as 1 (R307) -/
abbrev AUD_CTRL_STAGE_WAIT : Fld := ⟨addr_AUD_CTRL, 39, 32⟩
/-- AUD_CTRL.FO_SCALE [31:24], PRIV, reset 128: Failover threshold scale, units of 1/256; 0 acts as 1 (R310) -/
abbrev AUD_CTRL_FO_SCALE : Fld := ⟨addr_AUD_CTRL, 31, 24⟩
/-- AUD_CTRL.SHADOW_LOG [23:20], PRIV, reset 6: Shadow audit of 1 PASS tile in 2^n; 0: none (R313) -/
abbrev AUD_CTRL_SHADOW_LOG : Fld := ⟨addr_AUD_CTRL, 23, 20⟩
/-- AUD_CTRL.TAINT_NC [3:3], PRIV, reset 0: 1: NONCONFORMING issues a taint notice -/
abbrev AUD_CTRL_TAINT_NC : Fld := ⟨addr_AUD_CTRL, 3, 3⟩
/-- AUD_CTRL.SPLIT_DIE [2:2], PRIV, reset 1: 1: later audits prefer the other analysis die -/
abbrev AUD_CTRL_SPLIT_DIE : Fld := ⟨addr_AUD_CTRL, 2, 2⟩
/-- AUD_CTRL.EN [0:0], PRIV, reset 0: 1: audit enabled -/
abbrev AUD_CTRL_EN : Fld := ⟨addr_AUD_CTRL, 0, 0⟩

/-- AUD_STATUS, aggregator page 0x15 (Table 11-13): the key of the register. -/
abbrev addr_AUD_STATUS : Nat := 0x15088
/-- AUD_STATUS.STAGED [47:32], RO, reset 0: Tiles staged or under audit, saturating -/
abbrev AUD_STATUS_STAGED : Fld := ⟨addr_AUD_STATUS, 47, 32⟩
/-- AUD_STATUS.CFG_INVALID [8:8], W1C-SEQ, reset 0: A configuration or descriptor write was ignored or invalid -/
abbrev AUD_STATUS_CFG_INVALID : Fld := ⟨addr_AUD_STATUS, 8, 8⟩
/-- AUD_STATUS.SEL_SHORTFALL [7:7], W1C-SEQ, reset 0: Selections fell short (R323) -/
abbrev AUD_STATUS_SEL_SHORTFALL : Fld := ⟨addr_AUD_STATUS, 7, 7⟩
/-- AUD_STATUS.NEAR_MISS [6:6], W1C-SEQ, reset 0: A PASS tile reached NEAR (R306) -/
abbrev AUD_STATUS_NEAR_MISS : Fld := ⟨addr_AUD_STATUS, 6, 6⟩
/-- AUD_STATUS.SHED [5:5], W1C-SEQ, reset 0: A first audit was shed -/
abbrev AUD_STATUS_SHED : Fld := ⟨addr_AUD_STATUS, 5, 5⟩
/-- AUD_STATUS.TAINT [4:4], W1C-SEQ, reset 0: A taint notice was issued -/
abbrev AUD_STATUS_TAINT : Fld := ⟨addr_AUD_STATUS, 4, 4⟩
/-- AUD_STATUS.NONCONFORMING [3:3], W1C-SEQ, reset 0: A NONCONFORMING verdict -/
abbrev AUD_STATUS_NONCONFORMING : Fld := ⟨addr_AUD_STATUS, 3, 3⟩
/-- AUD_STATUS.INCOMPLETE [2:2], W1C-SEQ, reset 0: An INCOMPLETE verdict -/
abbrev AUD_STATUS_INCOMPLETE : Fld := ⟨addr_AUD_STATUS, 2, 2⟩
/-- AUD_STATUS.AUDITOR_FAULT [1:1], W1C-SEQ, reset 0: An AUDITOR-FAULT verdict -/
abbrev AUD_STATUS_AUDITOR_FAULT : Fld := ⟨addr_AUD_STATUS, 1, 1⟩
/-- AUD_STATUS.DEVIATE [0:0], W1C-SEQ, reset 0: A DEVIATE verdict -/
abbrev AUD_STATUS_DEVIATE : Fld := ⟨addr_AUD_STATUS, 0, 0⟩

/-- AUD_XDE_MASK, aggregator page 0x15 (Table 11-14): the key of the register. -/
abbrev addr_AUD_XDE_MASK : Nat := 0x15090
/-- AUD_XDE_MASK [63:0], PRIV, reset from configuration: Bit c: XDE of logical core c serves the audit (R296) -/
abbrev AUD_XDE_MASK : Fld := ⟨addr_AUD_XDE_MASK, 63, 0⟩

/-- AUD_MARGIN, aggregator page 0x15 (Table 11-14): the key of the register. -/
abbrev addr_AUD_MARGIN : Nat := 0x15098
/-- AUD_MARGIN.SLACK_REL [31:16], PRIV, reset 0: Relative slack, units of 2^-16 (R303) -/
abbrev AUD_MARGIN_SLACK_REL : Fld := ⟨addr_AUD_MARGIN, 31, 16⟩
/-- AUD_MARGIN.NEAR [15:0], PRIV, reset 0x0080: Near-miss usage, units of 1/256 (R306) -/
abbrev AUD_MARGIN_NEAR : Fld := ⟨addr_AUD_MARGIN, 15, 0⟩

/-- AUD_VSEQ, aggregator page 0x15 (Table 11-14): the key of the register. -/
abbrev addr_AUD_VSEQ : Nat := 0x150A0
/-- AUD_VSEQ.VSEQ [31:0], RO, reset 0: Next verdict sequence number -/
abbrev AUD_VSEQ_VSEQ : Fld := ⟨addr_AUD_VSEQ, 31, 0⟩

/-- AUD_PRODUCTS, aggregator page 0x15 (Table 11-14): the key of the register. -/
abbrev addr_AUD_PRODUCTS : Nat := 0x150A8
/-- AUD_PRODUCTS [63:0], RO, reset 0: Product slots executed by audit XDEs, saturating -/
abbrev AUD_PRODUCTS : Fld := ⟨addr_AUD_PRODUCTS, 63, 0⟩

/-- AUD_CNT0, aggregator page 0x15 (Table 11-14): the key of the register. -/
abbrev addr_AUD_CNT0 : Nat := 0x150B0
/-- AUD_CNT0.PASS_N [63:32], RO, reset 0: Verdicts, saturating -/
abbrev AUD_CNT0_PASS_N : Fld := ⟨addr_AUD_CNT0, 63, 32⟩
/-- AUD_CNT0.DEVIATE_N [31:0], RO, reset 0: Verdicts, saturating -/
abbrev AUD_CNT0_DEVIATE_N : Fld := ⟨addr_AUD_CNT0, 31, 0⟩

/-- AUD_CNT1, aggregator page 0x15 (Table 11-14): the key of the register. -/
abbrev addr_AUD_CNT1 : Nat := 0x150B8
/-- AUD_CNT1.RETRY_AGREE_N [63:32], RO, reset 0: Verdicts, saturating -/
abbrev AUD_CNT1_RETRY_AGREE_N : Fld := ⟨addr_AUD_CNT1, 63, 32⟩
/-- AUD_CNT1.AUDITOR_FAULT_N [31:0], RO, reset 0: Verdicts, saturating -/
abbrev AUD_CNT1_AUDITOR_FAULT_N : Fld := ⟨addr_AUD_CNT1, 31, 0⟩

/-- AUD_CNT2, aggregator page 0x15 (Table 11-14): the key of the register. -/
abbrev addr_AUD_CNT2 : Nat := 0x150C0
/-- AUD_CNT2.INCOMPLETE_N [63:32], RO, reset 0: Verdicts, saturating -/
abbrev AUD_CNT2_INCOMPLETE_N : Fld := ⟨addr_AUD_CNT2, 63, 32⟩
/-- AUD_CNT2.NONCONF_N [31:0], RO, reset 0: Verdicts, saturating -/
abbrev AUD_CNT2_NONCONF_N : Fld := ⟨addr_AUD_CNT2, 31, 0⟩

/-- AUD_CNT3, aggregator page 0x15 (Table 11-14): the key of the register. -/
abbrev addr_AUD_CNT3 : Nat := 0x150C8
/-- AUD_CNT3.SHED_N [63:32], RO, reset 0: Shed tiles; near misses; saturating -/
abbrev AUD_CNT3_SHED_N : Fld := ⟨addr_AUD_CNT3, 63, 32⟩
/-- AUD_CNT3.NEAR_N [31:0], RO, reset 0: Shed tiles; near misses; saturating -/
abbrev AUD_CNT3_NEAR_N : Fld := ⟨addr_AUD_CNT3, 31, 0⟩

/-- AUD_CNT4, aggregator page 0x15 (Table 11-14): the key of the register. -/
abbrev addr_AUD_CNT4 : Nat := 0x150D0
/-- AUD_CNT4.SHADOW_N [63:32], RO, reset 0: Shadow audits; taint notices issued; saturating -/
abbrev AUD_CNT4_SHADOW_N : Fld := ⟨addr_AUD_CNT4, 63, 32⟩
/-- AUD_CNT4.TAINT_N [31:0], RO, reset 0: Shadow audits; taint notices issued; saturating -/
abbrev AUD_CNT4_TAINT_N : Fld := ⟨addr_AUD_CNT4, 31, 0⟩

/-- AUD_NUMSET, aggregator page 0x15 (Table 11-15): the key of the register. -/
abbrev addr_AUD_NUMSET (i : Nat) : Nat := indBase + 0x1500001000 + 1 * i
/-- AUD_NUMSET.SET [5:0], PRIV, reset from configuration: Numerics set of the local index (R301) -/
abbrev AUD_NUMSET_SET (i : Nat) : Fld := ⟨addr_AUD_NUMSET i, 5, 0⟩

/-- XDE_ERR, aggregator page 0x15 (Table 11-15): the key of the register. -/
abbrev addr_XDE_ERR (i : Nat) : Nat := indBase + 0x1500001200 + 1 * i
/-- XDE_ERR.DISAGREE_N [63:32], RO, reset 0: Times the core's XDE was charged (R314), saturating -/
abbrev XDE_ERR_DISAGREE_N (i : Nat) : Fld := ⟨addr_XDE_ERR i, 63, 32⟩
/-- XDE_ERR.FAULT_N [31:0], RO, reset 0: Audits interrupted on the core (R309), saturating -/
abbrev XDE_ERR_FAULT_N (i : Nat) : Fld := ⟨addr_XDE_ERR i, 31, 0⟩

/-- JA_TAINT, aggregator page 0x15 (Table 11-15): the key of the register. -/
abbrev addr_JA_TAINT (i : Nat) : Nat := indBase + 0x1500001300 + 1 * i
/-- JA_TAINT.TAINTED [63:63], RO, reset 0: A taint notice has been applied (R319) -/
abbrev JA_TAINT_TAINTED (i : Nat) : Fld := ⟨addr_JA_TAINT i, 63, 63⟩
/-- JA_TAINT.FIRST_TAINT [47:0], RO, reset 0xFFFF_FFFF_FFFF: Least FIRST_STEP applied; all ones when none -/
abbrev JA_TAINT_FIRST_TAINT (i : Nat) : Fld := ⟨addr_JA_TAINT i, 47, 0⟩

/-- JA_HORIZON, aggregator page 0x15 (Table 11-15): the key of the register. -/
abbrev addr_JA_HORIZON (i : Nat) : Nat := indBase + 0x1500001700 + 1 * i
/-- JA_HORIZON.HORIZON [47:0], RO, reset 0xFFFF_FFFF_FFFF: Audit horizon H (R320); all ones when none -/
abbrev JA_HORIZON_HORIZON (i : Nat) : Fld := ⟨addr_JA_HORIZON i, 47, 0⟩

/-- DET_CTRL, aggregator page 0x16 (Table 12-18): the key of the register. -/
abbrev addr_DET_CTRL : Nat := 0x16080
/-- DET_CTRL.SAMPLER_EN [2:2], PRIV, reset 1: 1: sampling controller writes thresholds (R356) -/
abbrev DET_CTRL_SAMPLER_EN : Fld := ⟨addr_DET_CTRL, 2, 2⟩
/-- DET_CTRL.BCAST_EN [1:1], PRIV, reset 0: 1: root BCAST honoured (R360) -/
abbrev DET_CTRL_BCAST_EN : Fld := ⟨addr_DET_CTRL, 1, 1⟩
/-- DET_CTRL.EN [0:0], PRIV, reset 0: 1: instances run -/
abbrev DET_CTRL_EN : Fld := ⟨addr_DET_CTRL, 0, 0⟩

/-- DET_STATUS, aggregator page 0x16 (Table 12-18): the key of the register. -/
abbrev addr_DET_STATUS : Nat := 0x16088
/-- DET_STATUS.SUSPENDED [8:8], W1C-SEQ, reset 0: An instance was suspended (R329) -/
abbrev DET_STATUS_SUSPENDED : Fld := ⟨addr_DET_STATUS, 8, 8⟩
/-- DET_STATUS.RAISE_CAPPED [7:7], W1C-SEQ, reset 0: Thin raises were scaled (R358) -/
abbrev DET_STATUS_RAISE_CAPPED : Fld := ⟨addr_DET_STATUS, 7, 7⟩
/-- DET_STATUS.PARAM_IGNORED [6:6], W1C-SEQ, reset 0: A DETECTOR-PARAMS was ignored (R359) -/
abbrev DET_STATUS_PARAM_IGNORED : Fld := ⟨addr_DET_STATUS, 6, 6⟩
/-- DET_STATUS.EVENT_LOST [5:5], W1C-SEQ, reset 0: An event was discarded (R349) -/
abbrev DET_STATUS_EVENT_LOST : Fld := ⟨addr_DET_STATUS, 5, 5⟩
/-- DET_STATUS.SKIPPED [4:4], W1C-SEQ, reset 0: An EPOCH run was skipped (R327) -/
abbrev DET_STATUS_SKIPPED : Fld := ⟨addr_DET_STATUS, 4, 4⟩
/-- DET_STATUS.FAULT [3:3], W1C-SEQ, reset 0: A run ended with a fault (R329) -/
abbrev DET_STATUS_FAULT : Fld := ⟨addr_DET_STATUS, 3, 3⟩
/-- DET_STATUS.OVERRUN [2:2], W1C-SEQ, reset 0: A run reached its budget (R328) -/
abbrev DET_STATUS_OVERRUN : Fld := ⟨addr_DET_STATUS, 2, 2⟩
/-- DET_STATUS.BIND_REFUSED [1:1], W1C-SEQ, reset 0: A binding was refused (R325) -/
abbrev DET_STATUS_BIND_REFUSED : Fld := ⟨addr_DET_STATUS, 1, 1⟩
/-- DET_STATUS.LOAD_FAIL [0:0], W1C-SEQ, reset 0: An image load failed (R346) -/
abbrev DET_STATUS_LOAD_FAIL : Fld := ⟨addr_DET_STATUS, 0, 0⟩

/-- DET_FAULT, aggregator page 0x16 (Table 12-18): the key of the register. -/
abbrev addr_DET_FAULT : Nat := 0x16090
/-- DET_FAULT.INSTANCE [63:56], RO, reset 0: Instance of the last fault -/
abbrev DET_FAULT_INSTANCE : Fld := ⟨addr_DET_FAULT, 63, 56⟩
/-- DET_FAULT.CODE [55:48], RO, reset 0: Fault code (Table 12-6) -/
abbrev DET_FAULT_CODE : Fld := ⟨addr_DET_FAULT, 55, 48⟩
/-- DET_FAULT.TRAP_CODE [47:32], RO, reset 0: TRAP user code -/
abbrev DET_FAULT_TRAP_CODE : Fld := ⟨addr_DET_FAULT, 47, 32⟩
/-- DET_FAULT.PC [31:0], RO, reset 0: Word address of the faulting instruction -/
abbrev DET_FAULT_PC : Fld := ⟨addr_DET_FAULT, 31, 0⟩

/-- DET_KEYS, aggregator page 0x16 (Table 12-19): the key of the register. -/
abbrev addr_DET_KEYS : Nat := 0x16098
/-- DET_KEYS.KEY_VALID [7:0], RO, reset from configuration: Bit k: detector key k present (R345) -/
abbrev DET_KEYS_KEY_VALID : Fld := ⟨addr_DET_KEYS, 7, 0⟩

/-- DET_CNT0, aggregator page 0x16 (Table 12-19): the key of the register. -/
abbrev addr_DET_CNT0 : Nat := 0x160A0
/-- DET_CNT0.RUNS_N [63:32], RO, reset 0: Runs; budget overruns -/
abbrev DET_CNT0_RUNS_N : Fld := ⟨addr_DET_CNT0, 63, 32⟩
/-- DET_CNT0.OVERRUN_N [31:0], RO, reset 0: Runs; budget overruns -/
abbrev DET_CNT0_OVERRUN_N : Fld := ⟨addr_DET_CNT0, 31, 0⟩

/-- DET_CNT1, aggregator page 0x16 (Table 12-19): the key of the register. -/
abbrev addr_DET_CNT1 : Nat := 0x160A8
/-- DET_CNT1.FAULT_N [63:32], RO, reset 0: Faulted runs; skipped runs -/
abbrev DET_CNT1_FAULT_N : Fld := ⟨addr_DET_CNT1, 63, 32⟩
/-- DET_CNT1.SKIPPED_N [31:0], RO, reset 0: Faulted runs; skipped runs -/
abbrev DET_CNT1_SKIPPED_N : Fld := ⟨addr_DET_CNT1, 31, 0⟩

/-- DET_CNT2, aggregator page 0x16 (Table 12-19): the key of the register. -/
abbrev addr_DET_CNT2 : Nat := 0x160B0
/-- DET_CNT2.EVENTS_N [63:32], RO, reset 0: Events accepted; discarded -/
abbrev DET_CNT2_EVENTS_N : Fld := ⟨addr_DET_CNT2, 63, 32⟩
/-- DET_CNT2.EVENT_LOST_N [31:0], RO, reset 0: Events accepted; discarded -/
abbrev DET_CNT2_EVENT_LOST_N : Fld := ⟨addr_DET_CNT2, 31, 0⟩

/-- DET_CNT3, aggregator page 0x16 (Table 12-19): the key of the register. -/
abbrev addr_DET_CNT3 : Nat := 0x160B8
/-- DET_CNT3.PARAM_IGNORED_N [63:32], RO, reset 0: R359; R358 -/
abbrev DET_CNT3_PARAM_IGNORED_N : Fld := ⟨addr_DET_CNT3, 63, 32⟩
/-- DET_CNT3.RAISE_CAPPED_N [31:0], RO, reset 0: R359; R358 -/
abbrev DET_CNT3_RAISE_CAPPED_N : Fld := ⟨addr_DET_CNT3, 31, 0⟩

/-- IMG_ID, aggregator page 0x16 (Table 12-20): the key of the register. -/
abbrev addr_IMG_ID (i : Nat) : Nat := indBase + 0x1600000000 + 4 * i
/-- IMG_ID.ID [63:0], RO, reset 0: IMAGE_ID of the slot -/
abbrev IMG_ID_ID (i : Nat) : Fld := ⟨addr_IMG_ID i, 63, 0⟩

/-- IMG_LOC, aggregator page 0x16 (Table 12-20): the key of the register. -/
abbrev addr_IMG_LOC (i : Nat) : Nat := indBase + 0x1600000001 + 4 * i
/-- IMG_LOC.ADDR [63:0], RO, reset 0: HBM address of the image -/
abbrev IMG_LOC_ADDR (i : Nat) : Fld := ⟨addr_IMG_LOC i, 63, 0⟩

/-- IMG_INFO, aggregator page 0x16 (Table 12-20): the key of the register. -/
abbrev addr_IMG_INFO (i : Nat) : Nat := indBase + 0x1600000002 + 4 * i
/-- IMG_INFO.KIND [63:56], RO, reset 0: As in the header -/
abbrev IMG_INFO_KIND (i : Nat) : Fld := ⟨addr_IMG_INFO i, 63, 56⟩
/-- IMG_INFO.KEY_IDX [55:48], RO, reset 0: Signing key -/
abbrev IMG_INFO_KEY_IDX (i : Nat) : Fld := ⟨addr_IMG_INFO i, 55, 48⟩
/-- IMG_INFO.CORES [47:40], RO, reset 0: Declared cores -/
abbrev IMG_INFO_CORES (i : Nat) : Fld := ⟨addr_IMG_INFO i, 47, 40⟩
/-- IMG_INFO.SIZE [33:0], RO, reset 0: Image bytes -/
abbrev IMG_INFO_SIZE (i : Nat) : Fld := ⟨addr_IMG_INFO i, 33, 0⟩

/-- IMG_STAT, aggregator page 0x16 (Table 12-20): the key of the register. -/
abbrev addr_IMG_STAT (i : Nat) : Nat := indBase + 0x1600000003 + 4 * i
/-- IMG_STAT.STATE [63:62], RO, reset 0b00: 0b00 free; 0b01 loaded; other values reserved -/
abbrev IMG_STAT_STATE (i : Nat) : Fld := ⟨addr_IMG_STAT i, 63, 62⟩
/-- IMG_STAT.BINDINGS [23:16], RO, reset 0: Instances binding the slot -/
abbrev IMG_STAT_BINDINGS (i : Nat) : Fld := ⟨addr_IMG_STAT i, 23, 16⟩
/-- IMG_STAT.LAST_LOAD [15:0], RO, reset 0: Status of the last load into the slot (Table 12-10) -/
abbrev IMG_STAT_LAST_LOAD (i : Nat) : Fld := ⟨addr_IMG_STAT i, 15, 0⟩

/-- INS_BIND, aggregator page 0x16 (Table 12-20): the key of the register. -/
abbrev addr_INS_BIND (i : Nat) : Nat := indBase + 0x1600000400 + 4 * i
/-- INS_BIND.STATE [63:62], RO, reset 0b00: 0b00 free; 0b01 running; 0b10 suspended; 0b11 reserved -/
abbrev INS_BIND_STATE (i : Nat) : Fld := ⟨addr_INS_BIND i, 63, 62⟩
/-- INS_BIND.BIND [25:24], RO, reset 0: Binding index -/
abbrev INS_BIND_BIND (i : Nat) : Fld := ⟨addr_INS_BIND i, 25, 24⟩
/-- INS_BIND.SLOT [23:16], RO, reset 0: Image slot -/
abbrev INS_BIND_SLOT (i : Nat) : Fld := ⟨addr_INS_BIND i, 23, 16⟩
/-- INS_BIND.JOBCTX [9:0], RO, reset 0: Job context ID -/
abbrev INS_BIND_JOBCTX (i : Nat) : Fld := ⟨addr_INS_BIND i, 9, 0⟩

/-- INS_CORES, aggregator page 0x16 (Table 12-20): the key of the register. -/
abbrev addr_INS_CORES (i : Nat) : Nat := indBase + 0x1600000401 + 4 * i
/-- INS_CORES.CORES [63:0], RO, reset 0: Bit c: logical core c in the core set -/
abbrev INS_CORES_CORES (i : Nat) : Fld := ⟨addr_INS_CORES i, 63, 0⟩

/-- INS_RES, aggregator page 0x16 (Table 12-20): the key of the register. -/
abbrev addr_INS_RES (i : Nat) : Nat := indBase + 0x1600000402 + 4 * i
/-- INS_RES.SRAM_KIB [63:32], RO, reset 0: SRAM per core -/
abbrev INS_RES_SRAM_KIB (i : Nat) : Fld := ⟨addr_INS_RES i, 63, 32⟩
/-- INS_RES.BUDGET [31:0], RO, reset 0: Cycle budget -/
abbrev INS_RES_BUDGET (i : Nat) : Fld := ⟨addr_INS_RES i, 31, 0⟩

/-- INS_STAT, aggregator page 0x16 (Table 12-20): the key of the register. -/
abbrev addr_INS_STAT (i : Nat) : Nat := indBase + 0x1600000403 + 4 * i
/-- INS_STAT.FAULT_CODE [63:56], RO, reset 0: Last fault code (Table 12-6) -/
abbrev INS_STAT_FAULT_CODE (i : Nat) : Fld := ⟨addr_INS_STAT i, 63, 56⟩
/-- INS_STAT.SUCC_FAULTS [55:48], RO, reset 0: Faults in succession (R329) -/
abbrev INS_STAT_SUCC_FAULTS (i : Nat) : Fld := ⟨addr_INS_STAT i, 55, 48⟩
/-- INS_STAT.RUNS_N [47:0], RO, reset 0: Runs, saturating -/
abbrev INS_STAT_RUNS_N (i : Nat) : Fld := ⟨addr_INS_STAT i, 47, 0⟩

/-- SMP_CFG0, aggregator page 0x16 (Table 12-20): the key of the register. -/
abbrev addr_SMP_CFG0 (i : Nat) : Nat := indBase + 0x1600000800 + 2 * i
/-- SMP_CFG0.FLAGS [63:56], RO, reset 0: SEL-RATES FLAGS in force -/
abbrev SMP_CFG0_FLAGS (i : Nat) : Fld := ⟨addr_SMP_CFG0 i, 63, 56⟩
/-- SMP_CFG0.WIN [47:32], RO, reset 0: Window, steps -/
abbrev SMP_CFG0_WIN (i : Nat) : Fld := ⟨addr_SMP_CFG0 i, 47, 32⟩
/-- SMP_CFG0.A_MIN [31:0], RO, reset 0: Audited tiles wanted -/
abbrev SMP_CFG0_A_MIN (i : Nat) : Fld := ⟨addr_SMP_CFG0 i, 31, 0⟩

/-- SMP_CFG1, aggregator page 0x16 (Table 12-20): the key of the register. -/
abbrev addr_SMP_CFG1 (i : Nat) : Nat := indBase + 0x1600000801 + 2 * i
/-- SMP_CFG1.THR_MAX [63:32], RO, reset 0: Highest threshold -/
abbrev SMP_CFG1_THR_MAX (i : Nat) : Fld := ⟨addr_SMP_CFG1 i, 63, 32⟩
/-- SMP_CFG1.RAISE_MAX [31:0], RO, reset 0: Raised selections per step -/
abbrev SMP_CFG1_RAISE_MAX (i : Nat) : Fld := ⟨addr_SMP_CFG1 i, 31, 0⟩

/-- LDG_CTRL, aggregator page 0x17 (Table 13-12): the key of the register. -/
abbrev addr_LDG_CTRL : Nat := 0x17080
/-- LDG_CTRL.RESIDENT [63:40], PRIV, reset 10,000: Resident steps per job (R373), 100 to 1,000,000; other values ignored, CFG_INVALID set -/
abbrev LDG_CTRL_RESIDENT : Fld := ⟨addr_LDG_CTRL, 63, 40⟩
/-- LDG_CTRL.SPILL_HI [39:32], PRIV, reset 85: Spill occupancy, percent -/
abbrev LDG_CTRL_SPILL_HI : Fld := ⟨addr_LDG_CTRL, 39, 32⟩
/-- LDG_CTRL.FULL_HI [31:24], PRIV, reset 97: Refusal occupancy, percent; a write with FULL_HI ≤ SPILL_HI or above 99 is ignored, CFG_INVALID set -/
abbrev LDG_CTRL_FULL_HI : Fld := ⟨addr_LDG_CTRL, 31, 24⟩
/-- LDG_CTRL.DIFF_MAX [23:4], PRIV, reset 65,536: DIFF entries per COMPARE -/
abbrev LDG_CTRL_DIFF_MAX : Fld := ⟨addr_LDG_CTRL, 23, 4⟩
/-- LDG_CTRL.EN [0:0], PRIV, reset 0: 1: ledger enabled -/
abbrev LDG_CTRL_EN : Fld := ⟨addr_LDG_CTRL, 0, 0⟩

/-- LDG_TIMING, aggregator page 0x17 (Table 13-12): the key of the register. -/
abbrev addr_LDG_TIMING : Nat := 0x17088
/-- LDG_TIMING.SEAL_WAIT [63:48], PRIV, reset 10: Forced seal, s (R369); 0 acts as 1 -/
abbrev LDG_TIMING_SEAL_WAIT : Fld := ⟨addr_LDG_TIMING, 63, 48⟩
/-- LDG_TIMING.SEAL_GRACE [47:32], PRIV, reset 20: Seal grace, ms (R368); 0 acts as 1 -/
abbrev LDG_TIMING_SEAL_GRACE : Fld := ⟨addr_LDG_TIMING, 47, 32⟩
/-- LDG_TIMING.SPILL_RETRY [31:16], PRIV, reset 100: ms; 0 acts as 1 -/
abbrev LDG_TIMING_SPILL_RETRY : Fld := ⟨addr_LDG_TIMING, 31, 16⟩
/-- LDG_TIMING.FETCH_WAIT [15:0], PRIV, reset 2,000: ms; 0 acts as 1 -/
abbrev LDG_TIMING_FETCH_WAIT : Fld := ⟨addr_LDG_TIMING, 15, 0⟩

/-- MIR_CTRL, aggregator page 0x17 (Table 13-12): the key of the register. -/
abbrev addr_MIR_CTRL : Nat := 0x17090
/-- MIR_CTRL.MIRROR_RETRY [15:1], PRIV, reset 100: µs; 0 acts as 1 -/
abbrev MIR_CTRL_MIRROR_RETRY : Fld := ⟨addr_MIR_CTRL, 15, 1⟩
/-- MIR_CTRL.EN [0:0], PRIV, reset 1: 1: mirroring runs when the partner check passes (R23) -/
abbrev MIR_CTRL_EN : Fld := ⟨addr_MIR_CTRL, 0, 0⟩

/-- LDG_STATUS, aggregator page 0x17 (Table 13-13): the key of the register. -/
abbrev addr_LDG_STATUS : Nat := 0x17098
/-- LDG_STATUS.CFG_INVALID [6:6], W1C-SEQ, reset 0: A configuration write was ignored -/
abbrev LDG_STATUS_CFG_INVALID : Fld := ⟨addr_LDG_STATUS, 6, 6⟩
/-- LDG_STATUS.REF_ABSENT [5:5], W1C-SEQ, reset 0: A replay step had no reference (R393) -/
abbrev LDG_STATUS_REF_ABSENT : Fld := ⟨addr_LDG_STATUS, 5, 5⟩
/-- LDG_STATUS.FORCED_SEAL [4:4], W1C-SEQ, reset 0: A step was force-sealed -/
abbrev LDG_STATUS_FORCED_SEAL : Fld := ⟨addr_LDG_STATUS, 4, 4⟩
/-- LDG_STATUS.STEP_DROPPED [3:3], W1C-SEQ, reset 0: Records of an unspilled step were discarded (R376) -/
abbrev LDG_STATUS_STEP_DROPPED : Fld := ⟨addr_LDG_STATUS, 3, 3⟩
/-- LDG_STATUS.REFUSED [2:2], W1C-SEQ, reset 0: Records were refused (R376) -/
abbrev LDG_STATUS_REFUSED : Fld := ⟨addr_LDG_STATUS, 2, 2⟩
/-- LDG_STATUS.SPILL_FAIL [1:1], W1C-SEQ, reset 0: A spill write failed -/
abbrev LDG_STATUS_SPILL_FAIL : Fld := ⟨addr_LDG_STATUS, 1, 1⟩
/-- LDG_STATUS.LATE [0:0], W1C-SEQ, reset 0: A late record was appended -/
abbrev LDG_STATUS_LATE : Fld := ⟨addr_LDG_STATUS, 0, 0⟩

/-- MIR_STATUS, aggregator page 0x17 (Table 13-13): the key of the register. -/
abbrev addr_MIR_STATUS : Nat := 0x170A0
/-- MIR_STATUS.SESSION [63:32], RO, reset 0: Current mirror session -/
abbrev MIR_STATUS_SESSION : Fld := ⟨addr_MIR_STATUS, 63, 32⟩
/-- MIR_STATUS.STATE [2:0], RO, reset 0b000: 0b000 down; 0b001 resync; 0b010 protected; 0b011 partner mismatch; other values reserved -/
abbrev MIR_STATUS_STATE : Fld := ⟨addr_MIR_STATUS, 2, 0⟩

/-- LDG_OCC, aggregator page 0x17 (Table 13-13): the key of the register. -/
abbrev addr_LDG_OCC : Nat := 0x170A8
/-- LDG_OCC.BYTES [63:0], RO, reset 0: Ledger region bytes in use -/
abbrev LDG_OCC_BYTES : Fld := ⟨addr_LDG_OCC, 63, 0⟩

/-- LDG_CNT0, aggregator page 0x17 (Table 13-13): the key of the register. -/
abbrev addr_LDG_CNT0 : Nat := 0x170B0
/-- LDG_CNT0.LATE_REC_N [63:32], RO, reset 0: R370; R376; saturating -/
abbrev LDG_CNT0_LATE_REC_N : Fld := ⟨addr_LDG_CNT0, 63, 32⟩
/-- LDG_CNT0.REFUSED_N [31:0], RO, reset 0: R370; R376; saturating -/
abbrev LDG_CNT0_REFUSED_N : Fld := ⟨addr_LDG_CNT0, 31, 0⟩

/-- LDG_CNT1, aggregator page 0x17 (Table 13-13): the key of the register. -/
abbrev addr_LDG_CNT1 : Nat := 0x170B8
/-- LDG_CNT1.SPILLED_N [63:32], RO, reset 0: Steps spilled; R393; saturating -/
abbrev LDG_CNT1_SPILLED_N : Fld := ⟨addr_LDG_CNT1, 63, 32⟩
/-- LDG_CNT1.REF_ABSENT_N [31:0], RO, reset 0: Steps spilled; R393; saturating -/
abbrev LDG_CNT1_REF_ABSENT_N : Fld := ⟨addr_LDG_CNT1, 31, 0⟩

/-- LJ_SEALED, aggregator page 0x17 (Table 13-14): the key of the register. -/
abbrev addr_LJ_SEALED (i : Nat) : Nat := indBase + 0x1700000000 + 4 * i
/-- LJ_SEALED.SEALED [47:0], RO, reset 0xFFFF_FFFF_FFFF: Newest sealed step; all ones when none -/
abbrev LJ_SEALED_SEALED (i : Nat) : Fld := ⟨addr_LJ_SEALED i, 47, 0⟩

/-- LJ_OLDEST, aggregator page 0x17 (Table 13-14): the key of the register. -/
abbrev addr_LJ_OLDEST (i : Nat) : Nat := indBase + 0x1700000001 + 4 * i
/-- LJ_OLDEST.OLDEST [47:0], RO, reset 0xFFFF_FFFF_FFFF: Oldest step resident in HBM; all ones when none -/
abbrev LJ_OLDEST_OLDEST (i : Nat) : Fld := ⟨addr_LJ_OLDEST i, 47, 0⟩

/-- LJ_REF0, aggregator page 0x17 (Table 13-14): the key of the register. -/
abbrev addr_LJ_REF0 (i : Nat) : Nat := indBase + 0x1700000002 + 4 * i
/-- LJ_REF0.EN [63:63], PRIV, reset 0: 1: reference bound (R392) -/
abbrev LJ_REF0_EN (i : Nat) : Fld := ⟨addr_LJ_REF0 i, 63, 63⟩
/-- LJ_REF0.MODE [53:52], PRIV, reset 0b00: 0b00 MULTISET; 0b01 ORDERED; other values: write ignored, CFG_INVALID set -/
abbrev LJ_REF0_MODE (i : Nat) : Fld := ⟨addr_LJ_REF0 i, 53, 52⟩
/-- LJ_REF0.REF_AGG [51:40], PRIV, reset 0: Reference aggregator ID -/
abbrev LJ_REF0_REF_AGG (i : Nat) : Fld := ⟨addr_LJ_REF0 i, 51, 40⟩
/-- LJ_REF0.REF_GEN [39:32], PRIV, reset 0: Reference generation -/
abbrev LJ_REF0_REF_GEN (i : Nat) : Fld := ⟨addr_LJ_REF0 i, 39, 32⟩
/-- LJ_REF0.REF_JOB [31:0], PRIV, reset 0: Reference job -/
abbrev LJ_REF0_REF_JOB (i : Nat) : Fld := ⟨addr_LJ_REF0 i, 31, 0⟩

/-- LJ_REF1, aggregator page 0x17 (Table 13-14): the key of the register. -/
abbrev addr_LJ_REF1 (i : Nat) : Nat := indBase + 0x1700000003 + 4 * i
/-- LJ_REF1.REF_BASE [47:0], PRIV, reset 0: Reference step of step 0 -/
abbrev LJ_REF1_REF_BASE (i : Nat) : Fld := ⟨addr_LJ_REF1 i, 47, 0⟩

/-- HE_CTRL, die unit page 0xC (Table 14-12): the key of the register. -/
abbrev addr_HE_CTRL : Nat := 0xC080
/-- HE_CTRL.COALESCE [47:32], PRIV, reset 100: Hold time, units of 10 µs; 0: no folding (R397) -/
abbrev HE_CTRL_COALESCE : Fld := ⟨addr_HE_CTRL, 47, 32⟩
/-- HE_CTRL.EN [0:0], PRIV, reset 1: 1: reports recorded -/
abbrev HE_CTRL_EN : Fld := ⟨addr_HE_CTRL, 0, 0⟩

/-- HE_STATUS, die unit page 0xC (Table 14-12): the key of the register. -/
abbrev addr_HE_STATUS : Nat := 0xC088
/-- HE_STATUS.FATAL [3:3], W1C-SEQ, reset 0: A report with he_sev 0b10 -/
abbrev HE_STATUS_FATAL : Fld := ⟨addr_HE_STATUS, 3, 3⟩
/-- HE_STATUS.BAD [2:2], W1C-SEQ, reset 0: A report was discarded (R94, R395) -/
abbrev HE_STATUS_BAD : Fld := ⟨addr_HE_STATUS, 2, 2⟩
/-- HE_STATUS.STALE [1:1], W1C-SEQ, reset 0: A report used a stale reading (R95) -/
abbrev HE_STATUS_STALE : Fld := ⟨addr_HE_STATUS, 1, 1⟩
/-- HE_STATUS.LOST [0:0], W1C-SEQ, reset 0: A report was lost (R397) -/
abbrev HE_STATUS_LOST : Fld := ⟨addr_HE_STATUS, 0, 0⟩

/-- HE_LAST, die unit page 0xC (Table 14-12): the key of the register. -/
abbrev addr_HE_LAST : Nat := 0xC090
/-- HE_LAST.UNIT [63:56], RO, reset 0: Last report's he_unit -/
abbrev HE_LAST_UNIT : Fld := ⟨addr_HE_LAST, 63, 56⟩
/-- HE_LAST.OP [55:48], RO, reset 0: Last report's he_op -/
abbrev HE_LAST_OP : Fld := ⟨addr_HE_LAST, 55, 48⟩
/-- HE_LAST.CODE [47:32], RO, reset 0: Last report's he_code -/
abbrev HE_LAST_CODE : Fld := ⟨addr_HE_LAST, 47, 32⟩
/-- HE_LAST.SEV [25:24], RO, reset 0: Last report's he_sev -/
abbrev HE_LAST_SEV : Fld := ⟨addr_HE_LAST, 25, 24⟩

/-- HE_COUNTS, die unit page 0xC (Table 14-12): the key of the register. -/
abbrev addr_HE_COUNTS : Nat := 0xC098
/-- HE_COUNTS.HSEQ_NEXT [63:32], RO, reset 0: Next HSEQ -/
abbrev HE_COUNTS_HSEQ_NEXT : Fld := ⟨addr_HE_COUNTS, 63, 32⟩
/-- HE_COUNTS.FOLDED_N [31:16], RO, reset 0: Reports folded, saturating -/
abbrev HE_COUNTS_FOLDED_N : Fld := ⟨addr_HE_COUNTS, 31, 16⟩
/-- HE_COUNTS.LOST_N [15:8], RO, reset 0: Reports lost, saturating -/
abbrev HE_COUNTS_LOST_N : Fld := ⟨addr_HE_COUNTS, 15, 8⟩
/-- HE_COUNTS.BAD_N [7:0], RO, reset 0: Reports discarded, saturating -/
abbrev HE_COUNTS_BAD_N : Fld := ⟨addr_HE_COUNTS, 7, 0⟩

/-- HE_SENSOR, die unit page 0xC (Table 14-12): the key of the register. -/
abbrev addr_HE_SENSOR : Nat := 0xC0A0
/-- HE_SENSOR.STALE_NOW [63:63], RO, reset 1: The latest reading is older than 4 ms -/
abbrev HE_SENSOR_STALE_NOW : Fld := ⟨addr_HE_SENSOR, 63, 63⟩
/-- HE_SENSOR.TEMP [47:32], RO, reset 0: Latest sn_temp, sign-extended, 1/16 °C -/
abbrev HE_SENSOR_TEMP : Fld := ⟨addr_HE_SENSOR, 47, 32⟩
/-- HE_SENSOR.MV [12:0], RO, reset 0: Latest sn_mv, mV -/
abbrev HE_SENSOR_MV : Fld := ⟨addr_HE_SENSOR, 12, 0⟩

/-- HLT_CTRL, aggregator page 0x18 (Table 14-13): the key of the register. -/
abbrev addr_HLT_CTRL : Nat := 0x18080
/-- HLT_CTRL.LASTING_WIN [39:32], PRIV, reset 24: Lasting-fault window, hours; 0 acts as 1 -/
abbrev HLT_CTRL_LASTING_WIN : Fld := ⟨addr_HLT_CTRL, 39, 32⟩
/-- HLT_CTRL.DECAY_SHIFT [31:27], PRIV, reset 11: Decay per 60 s (R401); 0: no decay -/
abbrev HLT_CTRL_DECAY_SHIFT : Fld := ⟨addr_HLT_CTRL, 31, 27⟩
/-- HLT_CTRL.RESOLVE_WAIT [19:8], PRIV, reset 1,000: Mismatch resolution wait, ms (R398) -/
abbrev HLT_CTRL_RESOLVE_WAIT : Fld := ⟨addr_HLT_CTRL, 19, 8⟩
/-- HLT_CTRL.SCAN_PAR [7:4], PRIV, reset 1: Concurrent scans, 1 to 8; 0 acts as 1 -/
abbrev HLT_CTRL_SCAN_PAR : Fld := ⟨addr_HLT_CTRL, 7, 4⟩
/-- HLT_CTRL.AUTO_MAPOUT [3:3], PRIV, reset 1: R412 -/
abbrev HLT_CTRL_AUTO_MAPOUT : Fld := ⟨addr_HLT_CTRL, 3, 3⟩
/-- HLT_CTRL.AUTO_SCAN [2:2], PRIV, reset 1: R412 -/
abbrev HLT_CTRL_AUTO_SCAN : Fld := ⟨addr_HLT_CTRL, 2, 2⟩
/-- HLT_CTRL.EN [0:0], PRIV, reset 1: 1: pipeline charges and notifies -/
abbrev HLT_CTRL_EN : Fld := ⟨addr_HLT_CTRL, 0, 0⟩

/-- HLT_THRESH, aggregator page 0x18 (Table 14-13): the key of the register. -/
abbrev addr_HLT_THRESH : Nat := 0x18088
/-- HLT_THRESH.WATCH_THR [63:48], PRIV, reset 800: R402 -/
abbrev HLT_THRESH_WATCH_THR : Fld := ⟨addr_HLT_THRESH, 63, 48⟩
/-- HLT_THRESH.SUSPECT_THR [47:32], PRIV, reset 500: R402 -/
abbrev HLT_THRESH_SUSPECT_THR : Fld := ⟨addr_HLT_THRESH, 47, 32⟩
/-- HLT_THRESH.SUSPECT_LEAVE [31:16], PRIV, reset 650: R402, R406 -/
abbrev HLT_THRESH_SUSPECT_LEAVE : Fld := ⟨addr_HLT_THRESH, 31, 16⟩
/-- HLT_THRESH.KNELL_THR [15:0], PRIV, reset 250: R402 -/
abbrev HLT_THRESH_KNELL_THR : Fld := ⟨addr_HLT_THRESH, 15, 0⟩

/-- HLT_BUDGET, aggregator page 0x18 (Table 14-13): the key of the register. -/
abbrev addr_HLT_BUDGET : Nat := 0x18090
/-- HLT_BUDGET.GRANT [63:48], PRIV, reset 0: Ordinary requests permitted (R405) -/
abbrev HLT_BUDGET_GRANT : Fld := ⟨addr_HLT_BUDGET, 63, 48⟩
/-- HLT_BUDGET.SPARES [31:0], PRIV, reset 0xFFFF_FFFF: Spare FRUs reported by the fleet controller -/
abbrev HLT_BUDGET_SPARES : Fld := ⟨addr_HLT_BUDGET, 31, 0⟩

/-- HLT_ADV, aggregator page 0x18 (Table 14-13): the key of the register. -/
abbrev addr_HLT_ADV : Nat := 0x18098
/-- HLT_ADV.ADV_ENTER [63:32], PRIV, reset 0: R406 -/
abbrev HLT_ADV_ADV_ENTER : Fld := ⟨addr_HLT_ADV, 63, 32⟩
/-- HLT_ADV.ADV_LEAVE [31:0], PRIV, reset 1: R406 -/
abbrev HLT_ADV_ADV_LEAVE : Fld := ⟨addr_HLT_ADV, 31, 0⟩

/-- HLT_MISC, aggregator page 0x18 (Table 14-13): the key of the register. -/
abbrev addr_HLT_MISC : Nat := 0x180A0
/-- HLT_MISC.MIN_CORES [63:56], PRIV, reset 56: R414 -/
abbrev HLT_MISC_MIN_CORES : Fld := ⟨addr_HLT_MISC, 63, 56⟩
/-- HLT_MISC.CMD_BUDGET [47:32], PRIV, reset 10: Default command budget, ms (R418); 0 acts as 1 -/
abbrev HLT_MISC_CMD_BUDGET : Fld := ⟨addr_HLT_MISC, 47, 32⟩
/-- HLT_MISC.SWAP_N [31:24], PRIV, reset 8: R408 -/
abbrev HLT_MISC_SWAP_N : Fld := ⟨addr_HLT_MISC, 31, 24⟩
/-- HLT_MISC.SWAP_WIN [23:16], PRIV, reset 16: R408; below SWAP_N acts as SWAP_N -/
abbrev HLT_MISC_SWAP_WIN : Fld := ⟨addr_HLT_MISC, 23, 16⟩
/-- HLT_MISC.CE_LASTING [15:0], PRIV, reset 64: Table 14-3 -/
abbrev HLT_MISC_CE_LASTING : Fld := ⟨addr_HLT_MISC, 15, 0⟩

/-- HLT_STATUS, aggregator page 0x18 (Table 14-14): the key of the register. -/
abbrev addr_HLT_STATUS : Nat := 0x180A8
/-- HLT_STATUS.ADVISORY [40:40], RO, reset 0: Budget mode ADVISORY -/
abbrev HLT_STATUS_ADVISORY : Fld := ⟨addr_HLT_STATUS, 40, 40⟩
/-- HLT_STATUS.PENDING [39:32], RO, reset 0: Units in the pending list, 0 to 16 -/
abbrev HLT_STATUS_PENDING : Fld := ⟨addr_HLT_STATUS, 39, 32⟩
/-- HLT_STATUS.CFG_INVALID [7:7], W1C-SEQ, reset 0: A configuration write was ignored -/
abbrev HLT_STATUS_CFG_INVALID : Fld := ⟨addr_HLT_STATUS, 7, 7⟩
/-- HLT_STATUS.RESET_LOOP [6:6], W1C-SEQ, reset 0: R411 -/
abbrev HLT_STATUS_RESET_LOOP : Fld := ⟨addr_HLT_STATUS, 6, 6⟩
/-- HLT_STATUS.PARTNER_LOST [5:5], W1C-SEQ, reset 0: R422 -/
abbrev HLT_STATUS_PARTNER_LOST : Fld := ⟨addr_HLT_STATUS, 5, 5⟩
/-- HLT_STATUS.SCAN_FAIL [4:4], W1C-SEQ, reset 0: A scan failed -/
abbrev HLT_STATUS_SCAN_FAIL : Fld := ⟨addr_HLT_STATUS, 4, 4⟩
/-- HLT_STATUS.CORE_MAPPED_OUT [3:3], W1C-SEQ, reset 0: A core was mapped out -/
abbrev HLT_STATUS_CORE_MAPPED_OUT : Fld := ⟨addr_HLT_STATUS, 3, 3⟩
/-- HLT_STATUS.KNELL_DEFERRED [2:2], W1C-SEQ, reset 0: A request waited for GRANT (R405) -/
abbrev HLT_STATUS_KNELL_DEFERRED : Fld := ⟨addr_HLT_STATUS, 2, 2⟩
/-- HLT_STATUS.KNELL_REQ [1:1], W1C-SEQ, reset 0: A knell request was sent -/
abbrev HLT_STATUS_KNELL_REQ : Fld := ⟨addr_HLT_STATUS, 1, 1⟩
/-- HLT_STATUS.NOTICE [0:0], W1C-SEQ, reset 0: A notice was sent -/
abbrev HLT_STATUS_NOTICE : Fld := ⟨addr_HLT_STATUS, 0, 0⟩

/-- HLT_CNT0, aggregator page 0x18 (Table 14-14): the key of the register. -/
abbrev addr_HLT_CNT0 : Nat := 0x180B0
/-- HLT_CNT0.NOTICES_N [63:32], RO, reset 0: Notices sent, modulo 2^32 -/
abbrev HLT_CNT0_NOTICES_N : Fld := ⟨addr_HLT_CNT0, 63, 32⟩
/-- HLT_CNT0.CHARGES_N [31:0], RO, reset 0: Charges made, modulo 2^32 -/
abbrev HLT_CNT0_CHARGES_N : Fld := ⟨addr_HLT_CNT0, 31, 0⟩

/-- HLT_CNT1, aggregator page 0x18 (Table 14-14): the key of the register. -/
abbrev addr_HLT_CNT1 : Nat := 0x180B8
/-- HLT_CNT1.KNELL_N [63:48], RO, reset 0: Ordinary requests sent, saturating -/
abbrev HLT_CNT1_KNELL_N : Fld := ⟨addr_HLT_CNT1, 63, 48⟩
/-- HLT_CNT1.MANDATORY_N [47:32], RO, reset 0: Mandatory requests sent, saturating -/
abbrev HLT_CNT1_MANDATORY_N : Fld := ⟨addr_HLT_CNT1, 47, 32⟩
/-- HLT_CNT1.SCANS_N [31:16], RO, reset 0: Scans run, saturating -/
abbrev HLT_CNT1_SCANS_N : Fld := ⟨addr_HLT_CNT1, 31, 16⟩
/-- HLT_CNT1.RESETS_1H [15:0], RO, reset 0: Chip resets in the last hour -/
abbrev HLT_CNT1_RESETS_1H : Fld := ⟨addr_HLT_CNT1, 15, 0⟩

/-- HU_STAT, aggregator page 0x18 (Table 14-14): the key of the register. -/
abbrev addr_HU_STAT (i : Nat) : Nat := indBase + 0x1800000000 + 2 * i
/-- HU_STAT.STATE [63:60], RO, reset 0x0: Unit state (Table 14-4) -/
abbrev HU_STAT_STATE (i : Nat) : Fld := ⟨addr_HU_STAT i, 63, 60⟩
/-- HU_STAT.SCORE [57:48], RO, reset 1,000: Score (R401) -/
abbrev HU_STAT_SCORE (i : Nat) : Fld := ⟨addr_HU_STAT i, 57, 48⟩
/-- HU_STAT.PENALTY [47:16], RO, reset 0: P, units of 1/256 point, bits [31:0] of P -/
abbrev HU_STAT_PENALTY (i : Nat) : Fld := ⟨addr_HU_STAT i, 47, 16⟩
/-- HU_STAT.LAST_CAUSE [15:0], RO, reset 0: Code of the last charge -/
abbrev HU_STAT_LAST_CAUSE (i : Nat) : Fld := ⟨addr_HU_STAT i, 15, 0⟩

/-- HU_COND, aggregator page 0x18 (Table 14-14): the key of the register. -/
abbrev addr_HU_COND (i : Nat) : Nat := indBase + 0x1800000001 + 2 * i
/-- HU_COND.COND [63:0], RO, reset 0: Bit c: cell c in conditional suspect (R403); zero for cores and the chip -/
abbrev HU_COND_COND (i : Nat) : Fld := ⟨addr_HU_COND i, 63, 0⟩

/-- HI_CTRL, aggregator page 0x19 (Table 15-14): the key of the register. -/
abbrev addr_HI_CTRL : Nat := 0x19080
/-- HI_CTRL.OOB_PORT [47:32], PRIV, reset 20,290: UDP port of the management queue (R429) -/
abbrev HI_CTRL_OOB_PORT : Fld := ⟨addr_HI_CTRL, 47, 32⟩
/-- HI_CTRL.MGMT_EN [1:1], PRIV, reset 1: 1: management queue served -/
abbrev HI_CTRL_MGMT_EN : Fld := ⟨addr_HI_CTRL, 1, 1⟩
/-- HI_CTRL.EN [0:0], PRIV, reset 0: 1: PCIe queues served -/
abbrev HI_CTRL_EN : Fld := ⟨addr_HI_CTRL, 0, 0⟩

/-- HI_STATUS, aggregator page 0x19 (Table 15-14): the key of the register. -/
abbrev addr_HI_STATUS : Nat := 0x19088
/-- HI_STATUS.FW_SLOT [41:41], RO, reset from configuration: Active firmware slot -/
abbrev HI_STATUS_FW_SLOT : Fld := ⟨addr_HI_STATUS, 41, 41⟩
/-- HI_STATUS.FW_HOLD [40:40], RO, reset 0: Activation hold in force (R442) -/
abbrev HI_STATUS_FW_HOLD : Fld := ⟨addr_HI_STATUS, 40, 40⟩
/-- HI_STATUS.RESET_LOST [4:4], W1C-SEQ, reset 0: Completions were not posted before a chip reset (R441) -/
abbrev HI_STATUS_RESET_LOST : Fld := ⟨addr_HI_STATUS, 4, 4⟩
/-- HI_STATUS.CAPSULE_ERR [3:3], W1C-SEQ, reset 0: A capsule was discarded (R429) -/
abbrev HI_STATUS_CAPSULE_ERR : Fld := ⟨addr_HI_STATUS, 3, 3⟩
/-- HI_STATUS.DB_ERR [2:2], W1C-SEQ, reset 0: A queue pair was disabled (R432) -/
abbrev HI_STATUS_DB_ERR : Fld := ⟨addr_HI_STATUS, 2, 2⟩
/-- HI_STATUS.DATA_ERR [1:1], W1C-SEQ, reset 0: A command ended DATA-ERROR -/
abbrev HI_STATUS_DATA_ERR : Fld := ⟨addr_HI_STATUS, 1, 1⟩
/-- HI_STATUS.EVENT_LOST [0:0], W1C-SEQ, reset 0: A management event was lost (R430) -/
abbrev HI_STATUS_EVENT_LOST : Fld := ⟨addr_HI_STATUS, 0, 0⟩

/-- HI_CNT, aggregator page 0x19 (Table 15-14): the key of the register. -/
abbrev addr_HI_CNT : Nat := 0x19090
/-- HI_CNT.CMDS_N [63:32], RO, reset 0: Commands completed, modulo 2^32 -/
abbrev HI_CNT_CMDS_N : Fld := ⟨addr_HI_CNT, 63, 32⟩
/-- HI_CNT.ABORTED_N [31:16], RO, reset 0: ABORTED-BY-RESET completions, saturating -/
abbrev HI_CNT_ABORTED_N : Fld := ⟨addr_HI_CNT, 31, 16⟩
/-- HI_CNT.DB_ERR_N [15:8], RO, reset 0: Doorbell errors, saturating -/
abbrev HI_CNT_DB_ERR_N : Fld := ⟨addr_HI_CNT, 15, 8⟩
/-- HI_CNT.EVENT_LOST_N [7:0], RO, reset 0: Events lost, saturating -/
abbrev HI_CNT_EVENT_LOST_N : Fld := ⟨addr_HI_CNT, 7, 0⟩

/-- HI_ADMIN, aggregator page 0x19 (Table 15-14): the key of the register. -/
abbrev addr_HI_ADMIN : Nat := 0x19098
/-- HI_ADMIN.ASQ_LOG [11:8], PRIV, reset 4: Admin SQ has 2^n entries, 4 to 12 -/
abbrev HI_ADMIN_ASQ_LOG : Fld := ⟨addr_HI_ADMIN, 11, 8⟩
/-- HI_ADMIN.ACQ_LOG [3:0], PRIV, reset 4: Admin CQ has 2^n entries, 4 to 12 -/
abbrev HI_ADMIN_ACQ_LOG : Fld := ⟨addr_HI_ADMIN, 3, 0⟩

/-- HI_ASQ_BASE, aggregator page 0x19 (Table 15-14): the key of the register. -/
abbrev addr_HI_ASQ_BASE : Nat := 0x190A0
/-- HI_ASQ_BASE.BASE [63:0], PRIV, reset 0: Admin SQ host address; [11:0] zero -/
abbrev HI_ASQ_BASE_BASE : Fld := ⟨addr_HI_ASQ_BASE, 63, 0⟩

/-- HI_ACQ_BASE, aggregator page 0x19 (Table 15-14): the key of the register. -/
abbrev addr_HI_ACQ_BASE : Nat := 0x190A8
/-- HI_ACQ_BASE.BASE [63:0], PRIV, reset 0: Admin CQ host address; [11:0] zero -/
abbrev HI_ACQ_BASE_BASE : Fld := ⟨addr_HI_ACQ_BASE, 63, 0⟩

/-- DMA_DESC, aggregator page 0x1A (Table 15-15): the key of the register. -/
abbrev addr_DMA_DESC (i : Nat) : Nat := 0x1A100 + 32 * i
/-- DMA_DESC.ADDR [63:5], PRIV, reset 0: First descriptor, 32-byte aligned -/
abbrev DMA_DESC_ADDR (i : Nat) : Fld := ⟨addr_DMA_DESC i, 63, 5⟩
/-- DMA_DESC.SPACE [0:0], PRIV, reset 0: 0 chip; 1 host -/
abbrev DMA_DESC_SPACE (i : Nat) : Fld := ⟨addr_DMA_DESC i, 0, 0⟩

/-- DMA_CTRL, aggregator page 0x1A (Table 15-15): the key of the register. -/
abbrev addr_DMA_CTRL (i : Nat) : Nat := 0x1A108 + 32 * i
/-- DMA_CTRL.CFG_INVALID [3:3], W1C-SEQ, reset 0: A control write was ignored (R444) -/
abbrev DMA_CTRL_CFG_INVALID (i : Nat) : Fld := ⟨addr_DMA_CTRL i, 3, 3⟩
/-- DMA_CTRL.IRQ_EN [2:2], PRIV, reset 0: 1: FLAGS[4] and faults signal MSI-X vector 64 -/
abbrev DMA_CTRL_IRQ_EN (i : Nat) : Fld := ⟨addr_DMA_CTRL i, 2, 2⟩
/-- DMA_CTRL.STOP [1:1], PRIV, reset 0: Write 1: stop at a descriptor boundary (R446); reads 0 -/
abbrev DMA_CTRL_STOP (i : Nat) : Fld := ⟨addr_DMA_CTRL i, 1, 1⟩
/-- DMA_CTRL.START [0:0], PRIV, reset 0: Write 1: start or resume; reads 0 -/
abbrev DMA_CTRL_START (i : Nat) : Fld := ⟨addr_DMA_CTRL i, 0, 0⟩

/-- DMA_STAT, aggregator page 0x1A (Table 15-15): the key of the register. -/
abbrev addr_DMA_STAT (i : Nat) : Nat := 0x1A110 + 32 * i
/-- DMA_STAT.STATE [63:61], RO, reset 0b000: 0b000 idle; 0b001 running; 0b010 stopping; 0b011 STOPPED; 0b100 done; 0b101 ERROR; other values reserved -/
abbrev DMA_STAT_STATE (i : Nat) : Fld := ⟨addr_DMA_STAT i, 63, 61⟩
/-- DMA_STAT.FAULT [60:56], RO, reset 0: 0x00 none; 0x01 host completion error; 0x02 chip access fault; 0x03 malformed descriptor; 0x04 descriptor f... -/
abbrev DMA_STAT_FAULT (i : Nat) : Fld := ⟨addr_DMA_STAT i, 60, 56⟩
/-- DMA_STAT.BYTES [55:32], RO, reset 0: Bytes moved in the current or faulted descriptor -/
abbrev DMA_STAT_BYTES (i : Nat) : Fld := ⟨addr_DMA_STAT i, 55, 32⟩
/-- DMA_STAT.DESC_DONE [31:0], RO, reset 0: Descriptors completed since START, modulo 2^32 -/
abbrev DMA_STAT_DESC_DONE (i : Nat) : Fld := ⟨addr_DMA_STAT i, 31, 0⟩

/-- DMA_CUR, aggregator page 0x1A (Table 15-15): the key of the register. -/
abbrev addr_DMA_CUR (i : Nat) : Nat := 0x1A118 + 32 * i
/-- DMA_CUR.ADDR [63:0], RO, reset 0: Descriptor in progress, or next after a stop -/
abbrev DMA_CUR_ADDR (i : Nat) : Fld := ⟨addr_DMA_CUR i, 63, 0⟩

/-- PH_CTRL, aggregator page 0x1B (Table 15-16): the key of the register. -/
abbrev addr_PH_CTRL : Nat := 0x1B078
/-- PH_CTRL.IRQ_EN [0:0], PRIV, reset 0: 1: warning entries signal MSI-X vector 0 (R450) -/
abbrev PH_CTRL_IRQ_EN : Fld := ⟨addr_PH_CTRL, 0, 0⟩

/-- PH_OP, aggregator page 0x1B (Table 15-16): the key of the register. -/
abbrev addr_PH_OP : Nat := 0x1B080
/-- PH_OP.OP [63:60], PRIV, reset 0x0: Write: 0x1 ALLOC; 0x2 GIVE; 0x3 FREE; other values ignored; reads 0 -/
abbrev PH_OP_OP : Fld := ⟨addr_PH_OP, 63, 60⟩
/-- PH_OP.POOL [55:44], PRIV, reset 0: Pool number -/
abbrev PH_OP_POOL : Fld := ⟨addr_PH_OP, 55, 44⟩
/-- PH_OP.NEW_OWNER [31:16], PRIV, reset 0: ALLOC: owner to receive the buffer; GIVE: next owner -/
abbrev PH_OP_NEW_OWNER : Fld := ⟨addr_PH_OP, 31, 16⟩
/-- PH_OP.OWNER [15:0], PRIV, reset 0: Acting owner, 0x2000 to 0x2FFF only; others refused OWNER -/
abbrev PH_OP_OWNER : Fld := ⟨addr_PH_OP, 15, 0⟩

/-- PH_ADDR, aggregator page 0x1B (Table 15-16): the key of the register. -/
abbrev addr_PH_ADDR : Nat := 0x1B088
/-- PH_ADDR.ADDR [63:0], PRIV, reset 0: Buffer address for GIVE and FREE -/
abbrev PH_ADDR_ADDR : Fld := ⟨addr_PH_ADDR, 63, 0⟩

/-- PH_RESULT, aggregator page 0x1B (Table 15-16): the key of the register. -/
abbrev addr_PH_RESULT : Nat := 0x1B090
/-- PH_RESULT.RESULT [63:60], RO, reset 0x0: 0x0 OK; 0x1 PTR; 0x2 OWNER; 0x3 EMPTY (no buffer granted); 0x4 BAD-POOL (not enabled) -/
abbrev PH_RESULT_RESULT : Fld := ⟨addr_PH_RESULT, 63, 60⟩
/-- PH_RESULT.ADDR [47:0], RO, reset 0: Buffer granted by ALLOC -/
abbrev PH_RESULT_ADDR : Fld := ⟨addr_PH_RESULT, 47, 0⟩

/-- PH_STATUS, aggregator page 0x1B (Table 15-16): the key of the register. -/
abbrev addr_PH_STATUS : Nat := 0x1B098
/-- PH_STATUS.CFG_INVALID [4:4], W1C-SEQ, reset 0: A pool configuration write was ignored (R448) -/
abbrev PH_STATUS_CFG_INVALID : Fld := ⟨addr_PH_STATUS, 4, 4⟩
/-- PH_STATUS.WARN2 [3:3], W1C-SEQ, reset 0: A pool entered level 2 -/
abbrev PH_STATUS_WARN2 : Fld := ⟨addr_PH_STATUS, 3, 3⟩
/-- PH_STATUS.WARN1 [2:2], W1C-SEQ, reset 0: A pool entered level 1 -/
abbrev PH_STATUS_WARN1 : Fld := ⟨addr_PH_STATUS, 2, 2⟩
/-- PH_STATUS.OWNER_ERR [1:1], W1C-SEQ, reset 0: An operation was refused OWNER -/
abbrev PH_STATUS_OWNER_ERR : Fld := ⟨addr_PH_STATUS, 1, 1⟩
/-- PH_STATUS.PTR_ERR [0:0], W1C-SEQ, reset 0: An operation was refused PTR -/
abbrev PH_STATUS_PTR_ERR : Fld := ⟨addr_PH_STATUS, 0, 0⟩

/-- PH_CNT, aggregator page 0x1B (Table 15-16): the key of the register. -/
abbrev addr_PH_CNT : Nat := 0x1B0A0
/-- PH_CNT.PTR_ERR_N [63:32], RO, reset 0: Refused PTR, saturating -/
abbrev PH_CNT_PTR_ERR_N : Fld := ⟨addr_PH_CNT, 63, 32⟩
/-- PH_CNT.OWNER_ERR_N [31:0], RO, reset 0: Refused OWNER, saturating -/
abbrev PH_CNT_OWNER_ERR_N : Fld := ⟨addr_PH_CNT, 31, 0⟩

/-- PH_BASE, aggregator page 0x1B (Table 15-17): the key of the register. -/
abbrev addr_PH_BASE (i : Nat) : Nat := indBase + 0x1B00000000 + 4 * i
/-- PH_BASE.BASE [63:0], PRIV, reset 0: First buffer address; [5:0] zero -/
abbrev PH_BASE_BASE (i : Nat) : Fld := ⟨addr_PH_BASE i, 63, 0⟩

/-- PH_CFG, aggregator page 0x1B (Table 15-17): the key of the register. -/
abbrev addr_PH_CFG (i : Nat) : Nat := indBase + 0x1B00000001 + 4 * i
/-- PH_CFG.EN [63:63], PRIV, reset 0: 1: pool in use -/
abbrev PH_CFG_EN (i : Nat) : Fld := ⟨addr_PH_CFG i, 63, 63⟩
/-- PH_CFG.SHIFT [62:56], PRIV, reset 16: Buffer size 2^SHIFT bytes, 6 to 20; other values ignored, CFG_INVALID set -/
abbrev PH_CFG_SHIFT (i : Nat) : Fld := ⟨addr_PH_CFG i, 62, 56⟩
/-- PH_CFG.HOST_Q [53:48], PRIV, reset 0: Host queue that reads the pool's parcels; 0: none (R449) -/
abbrev PH_CFG_HOST_Q (i : Nat) : Fld := ⟨addr_PH_CFG i, 53, 48⟩
/-- PH_CFG.COUNT [23:0], PRIV, reset 0: Buffers in the pool -/
abbrev PH_CFG_COUNT (i : Nat) : Fld := ⟨addr_PH_CFG i, 23, 0⟩

/-- PH_THR, aggregator page 0x1B (Table 15-17): the key of the register. -/
abbrev addr_PH_THR (i : Nat) : Nat := indBase + 0x1B00000002 + 4 * i
/-- PH_THR.WARN1 [63:40], PRIV, reset 0xFF_FFFF: Level 1 occupancy -/
abbrev PH_THR_WARN1 (i : Nat) : Fld := ⟨addr_PH_THR i, 63, 40⟩
/-- PH_THR.WARN2 [39:16], PRIV, reset 0xFF_FFFF: Level 2 occupancy; a write with WARN2 < WARN1 is ignored, CFG_INVALID set -/
abbrev PH_THR_WARN2 (i : Nat) : Fld := ⟨addr_PH_THR i, 39, 16⟩
/-- PH_THR.HYST [15:0], PRIV, reset 16: Hysteresis, buffers -/
abbrev PH_THR_HYST (i : Nat) : Fld := ⟨addr_PH_THR i, 15, 0⟩

/-- PH_STAT, aggregator page 0x1B (Table 15-17): the key of the register. -/
abbrev addr_PH_STAT (i : Nat) : Nat := indBase + 0x1B00000003 + 4 * i
/-- PH_STAT.IN_USE [63:40], RO, reset 0: Buffers in use -/
abbrev PH_STAT_IN_USE (i : Nat) : Fld := ⟨addr_PH_STAT i, 63, 40⟩
/-- PH_STAT.LEVEL [39:38], RO, reset 0b00: 0b00 none; 0b01 level 1; 0b10 level 2; 0b11 full -/
abbrev PH_STAT_LEVEL (i : Nat) : Fld := ⟨addr_PH_STAT i, 39, 38⟩
/-- PH_STAT.ALLOC_FAIL_N [31:0], RO, reset 0: ALLOCs refused, saturating -/
abbrev PH_STAT_ALLOC_FAIL_N (i : Nat) : Fld := ⟨addr_PH_STAT i, 31, 0⟩

/-- PG_ID, part-wide header page 0x0 (Table 16-1): the key of the register. -/
abbrev addr_PG_ID (page : Nat) : Nat := page * 4096 + 0x0
/-- PG_ID.PART [63:48], RO, reset 0x0020 die unit; 0x0040 aggregator: Part -/
abbrev PG_ID_PART (page : Nat) : Fld := ⟨addr_PG_ID page, 63, 48⟩
/-- PG_ID.PAGE [47:32], RO, reset page number: Page number -/
abbrev PG_ID_PAGE (page : Nat) : Fld := ⟨addr_PG_ID page, 47, 32⟩
/-- PG_ID.LAYOUT [31:24], RO, reset 0x01: Header layout version -/
abbrev PG_ID_LAYOUT (page : Nat) : Fld := ⟨addr_PG_ID page, 31, 24⟩
/-- PG_ID.DOMAIN [23:16], RO, reset per page: Die unit: 0x00 AO, 0x01 CNT, 0x02 TRC, 0x03 EGR, 0x04 TCP; aggregator: domain number of Table 9-10 -/
abbrev PG_ID_DOMAIN (page : Nat) : Fld := ⟨addr_PG_ID page, 23, 16⟩
/-- PG_ID.RESET [15:8], RO, reset per page: Reset that sets the page's Reset column: 0x01 por_n, 0x02 rst_n, 0x03 aggregator chip reset -/
abbrev PG_ID_RESET (page : Nat) : Fld := ⟨addr_PG_ID page, 15, 8⟩
/-- PG_ID.PRIV_PAGE [0:0], RO, reset per page: 1: privileged page (R455) -/
abbrev PG_ID_PRIV_PAGE (page : Nat) : Fld := ⟨addr_PG_ID page, 0, 0⟩

/-- PG_SEQ, part-wide header page 0x0 (Table 16-1): the key of the register. -/
abbrev addr_PG_SEQ (page : Nat) : Nat := page * 4096 + 0x8
/-- PG_SEQ.STALE_N [63:48], RO, reset 0: Clearing writes ignored under R462, saturating -/
abbrev PG_SEQ_STALE_N (page : Nat) : Fld := ⟨addr_PG_SEQ page, 63, 48⟩
/-- PG_SEQ.EVSEQ [31:0], RO, reset 0: Status event sequence number (R459) -/
abbrev PG_SEQ_EVSEQ (page : Nat) : Fld := ⟨addr_PG_SEQ page, 31, 0⟩

/-- PG_SEQ_RD, part-wide header page 0x0 (Table 16-1): the key of the register. -/
abbrev addr_PG_SEQ_RD (page : Nat) : Nat := page * 4096 + 0x10
/-- PG_SEQ_RD.SEQ_RD [31:0], RO, reset 0: EVSEQ latched by the last read of a W1C-SEQ register of the page (R460) -/
abbrev PG_SEQ_RD_SEQ_RD (page : Nat) : Fld := ⟨addr_PG_SEQ_RD page, 31, 0⟩

/-- PG_CLR_KEY, part-wide header page 0x0 (Table 16-1): the key of the register. -/
abbrev addr_PG_CLR_KEY (page : Nat) : Nat := page * 4096 + 0x18
/-- PG_CLR_KEY.SEQ [63:32], RW, reset 0: Sequence number of the clearing key -/
abbrev PG_CLR_KEY_SEQ (page : Nat) : Fld := ⟨addr_PG_CLR_KEY page, 63, 32⟩
/-- PG_CLR_KEY.OFFSET [11:3], RW, reset 0: Offset bits [11:3] of the register the key is for -/
abbrev PG_CLR_KEY_OFFSET (page : Nat) : Fld := ⟨addr_PG_CLR_KEY page, 11, 3⟩
/-- PG_CLR_KEY.RESULT [2:1], RO, reset 0b00: Outcome of the last key use: 0b00 none since the key was written; 0b01 CLEARED; 0b10 STALE; 0b11 NO-KEY -/
abbrev PG_CLR_KEY_RESULT (page : Nat) : Fld := ⟨addr_PG_CLR_KEY page, 2, 1⟩
/-- PG_CLR_KEY.ARMED [0:0], RO, reset 0: A key is armed -/
abbrev PG_CLR_KEY_ARMED (page : Nat) : Fld := ⟨addr_PG_CLR_KEY page, 0, 0⟩

/-- PG_IRQ, part-wide header page 0x0 (Table 16-1): the key of the register. -/
abbrev addr_PG_IRQ (page : Nat) : Nat := page * 4096 + 0x20
/-- PG_IRQ.PENDING [8:8], RO, reset 0: Some W1C-SEQ bit of the page is set -/
abbrev PG_IRQ_PENDING (page : Nat) : Fld := ⟨addr_PG_IRQ page, 8, 8⟩
/-- PG_IRQ.IRQ_EN [0:0], PRIV, reset 0: 1: PENDING signals the part's interrupt (R469) -/
abbrev PG_IRQ_IRQ_EN (page : Nat) : Fld := ⟨addr_PG_IRQ page, 0, 0⟩

/-- PG_VIOL, part-wide header page 0x0 (Table 16-1): the key of the register. -/
abbrev addr_PG_VIOL (page : Nat) : Nat := page * 4096 + 0x28
/-- PG_VIOL.VIOL_N [63:32], PRIV, reset 0: Privilege violations on the page (R458), saturating; a privileged write loads the value written -/
abbrev PG_VIOL_VIOL_N (page : Nat) : Fld := ⟨addr_PG_VIOL page, 63, 32⟩
/-- PG_VIOL.LAST_WRITE [12:12], PRIV, reset 0: 1: the last violation was a write -/
abbrev PG_VIOL_LAST_WRITE (page : Nat) : Fld := ⟨addr_PG_VIOL page, 12, 12⟩
/-- PG_VIOL.LAST_OFFSET [11:3], PRIV, reset 0: Offset bits [11:3] of the last violation -/
abbrev PG_VIOL_LAST_OFFSET (page : Nat) : Fld := ⟨addr_PG_VIOL page, 11, 3⟩

/-- IND_ADDR, part-wide header page 0x0 (Table 16-1): the key of the register. -/
abbrev addr_IND_ADDR (page : Nat) : Nat := page * 4096 + 0x30
/-- IND_ADDR.AUTO_INC [63:63], RW, reset 0: 1: INDEX advances after each IND_DATA access (R464) -/
abbrev IND_ADDR_AUTO_INC (page : Nat) : Fld := ⟨addr_IND_ADDR page, 63, 63⟩
/-- IND_ADDR.READY [62:62], RO, reset 0: The word at INDEX can be accessed -/
abbrev IND_ADDR_READY (page : Nat) : Fld := ⟨addr_IND_ADDR page, 62, 62⟩
/-- IND_ADDR.ERR [61:60], RO, reset 0b00: 0b00 none; 0b01 NOT-READY; 0b10 RANGE; 0b11 WAKE-FAILED; cleared by a write of IND_ADDR -/
abbrev IND_ADDR_ERR (page : Nat) : Fld := ⟨addr_IND_ADDR page, 61, 60⟩
/-- IND_ADDR.INDEX [31:0], RW, reset 0: Die unit: register address of R452 in [15:0], bits [31:16] and [2:0] zero; aggregator: entry number within ... -/
abbrev IND_ADDR_INDEX (page : Nat) : Fld := ⟨addr_IND_ADDR page, 31, 0⟩

/-- IND_DATA, part-wide header page 0x0 (Table 16-1): the key of the register. -/
abbrev addr_IND_DATA (page : Nat) : Nat := page * 4096 + 0x38
/-- IND_DATA.DATA [63:0], RW, reset 0: The word at INDEX (R463) -/
abbrev IND_DATA_DATA (page : Nat) : Fld := ⟨addr_IND_DATA page, 63, 0⟩

/-- DU_IDENT, die unit page 0x0 (Table 16-5): the key of the register. -/
abbrev addr_DU_IDENT : Nat := 0x80
/-- DU_IDENT.PART [63:48], RO, reset 0x0020: IFD-20 -/
abbrev DU_IDENT_PART : Fld := ⟨addr_DU_IDENT, 63, 48⟩
/-- DU_IDENT.REVISION [47:40], RO, reset block revision: Revision of the delivered block -/
abbrev DU_IDENT_REVISION : Fld := ⟨addr_DU_IDENT, 47, 40⟩
/-- DU_IDENT.PKG_POS [15:8], PRIV, reset 0: Position in the host package (R470) -/
abbrev DU_IDENT_PKG_POS : Fld := ⟨addr_DU_IDENT, 15, 8⟩

/-- DU_ASSIGN, die unit page 0x0 (Table 16-5): the key of the register. -/
abbrev addr_DU_ASSIGN : Nat := 0x88
/-- DU_ASSIGN.REGISTERED [63:63], RO, reset 0: An ACCEPT stands (R259) -/
abbrev DU_ASSIGN_REGISTERED : Fld := ⟨addr_DU_ASSIGN, 63, 63⟩
/-- DU_ASSIGN.SERVING [62:61], RO, reset 0b00: 0b00 none; 0b01 home aggregator; 0b10 partner (R25) -/
abbrev DU_ASSIGN_SERVING : Fld := ⟨addr_DU_ASSIGN, 62, 61⟩
/-- DU_ASSIGN.DUID [19:0], RO, reset 0: Assigned DUID -/
abbrev DU_ASSIGN_DUID : Fld := ⟨addr_DU_ASSIGN, 19, 0⟩

/-- DU_PEND, die unit page 0x0 (Table 16-5): the key of the register. -/
abbrev addr_DU_PEND : Nat := 0x90
/-- DU_PEND.PENDING [15:0], RO, reset 0: Bit p: PENDING of page p, held in AO while the page's domain sleeps -/
abbrev DU_PEND_PENDING : Fld := ⟨addr_DU_PEND, 15, 0⟩

/-- DU_VIOL, die unit page 0x0 (Table 16-5): the key of the register. -/
abbrev addr_DU_VIOL : Nat := 0x98
/-- DU_VIOL.VIOL_TOTAL [63:32], PRIV, reset 0: Violations on all pages, saturating -/
abbrev DU_VIOL_VIOL_TOTAL : Fld := ⟨addr_DU_VIOL, 63, 32⟩
/-- DU_VIOL.LAST_WRITE [16:16], PRIV, reset 0: 1: the last violation was a write -/
abbrev DU_VIOL_LAST_WRITE : Fld := ⟨addr_DU_VIOL, 16, 16⟩
/-- DU_VIOL.LAST_ADDR [15:3], PRIV, reset 0: Address of the last violation -/
abbrev DU_VIOL_LAST_ADDR : Fld := ⟨addr_DU_VIOL, 15, 3⟩

/-- DU_MAC, die unit page 0x0 (Table 16-5): the key of the register. -/
abbrev addr_DU_MAC : Nat := 0xA0
/-- DU_MAC.MAC [47:0], RO, reset mac_addr: The die unit's MAC address -/
abbrev DU_MAC_MAC : Fld := ⟨addr_DU_MAC, 47, 0⟩

/-- DU_FAILOVER, die unit page 0x0 (Table 16-5): the key of the register. -/
abbrev addr_DU_FAILOVER : Nat := 0xA8
/-- DU_FAILOVER.TIMEOUT [15:0], PRIV, reset 3: Failover timeout, ms (R25), loaded by the home aggregator at registration; values below 1 act as 1 and abov... -/
abbrev DU_FAILOVER_TIMEOUT : Fld := ⟨addr_DU_FAILOVER, 15, 0⟩

/-- DU_RXCNT, die unit page 0x0 (Table 16-5): the key of the register. -/
abbrev addr_DU_RXCNT : Nat := 0xB0
/-- DU_RXCNT.CTL_REJECT_N [63:48], RO, reset 0: Control frames discarded as not from the serving aggregator (R20), saturating -/
abbrev DU_RXCNT_CTL_REJECT_N : Fld := ⟨addr_DU_RXCNT, 63, 48⟩
/-- DU_RXCNT.RX_OVF_N [47:32], RO, reset 0: Received frames discarded for want of receive buffer space (R79), saturating -/
abbrev DU_RXCNT_RX_OVF_N : Fld := ⟨addr_DU_RXCNT, 47, 32⟩
/-- DU_RXCNT.RX_FCS_N [31:16], RO, reset 0: Received frames discarded with ig_fcs_err (R79), saturating -/
abbrev DU_RXCNT_RX_FCS_N : Fld := ⟨addr_DU_RXCNT, 31, 16⟩

/-- CHIP_IDENT, aggregator page 0x0 (Table 16-6): the key of the register. -/
abbrev addr_CHIP_IDENT : Nat := 0x80
/-- CHIP_IDENT.PART [63:48], RO, reset 0x0040: IFA-40 -/
abbrev CHIP_IDENT_PART : Fld := ⟨addr_CHIP_IDENT, 63, 48⟩
/-- CHIP_IDENT.REVISION [47:32], RO, reset silicon revision: As in Identify (Table 15-9) -/
abbrev CHIP_IDENT_REVISION : Fld := ⟨addr_CHIP_IDENT, 47, 32⟩
/-- CHIP_IDENT.AGG_ID [11:0], RO, reset from configuration: Aggregator ID -/
abbrev CHIP_IDENT_AGG_ID : Fld := ⟨addr_CHIP_IDENT, 11, 0⟩

/-- CHIP_PEND, aggregator page 0x0 (Table 16-6): the key of the register. -/
abbrev addr_CHIP_PEND : Nat := 0x88
/-- CHIP_PEND.PENDING [63:0], RO, reset 0: Bit p: PENDING of page p, for pages 0x000 to 0x03F -/
abbrev CHIP_PEND_PENDING : Fld := ⟨addr_CHIP_PEND, 63, 0⟩

/-- CHIP_VIOL, aggregator page 0x0 (Table 16-6): the key of the register. -/
abbrev addr_CHIP_VIOL : Nat := 0x90
/-- CHIP_VIOL.VIOL_TOTAL [63:32], PRIV, reset 0: Violations on all pages, saturating -/
abbrev CHIP_VIOL_VIOL_TOTAL : Fld := ⟨addr_CHIP_VIOL, 63, 32⟩
/-- CHIP_VIOL.LAST_WRITE [23:23], PRIV, reset 0: 1: the last violation was a write -/
abbrev CHIP_VIOL_LAST_WRITE : Fld := ⟨addr_CHIP_VIOL, 23, 23⟩
/-- CHIP_VIOL.LAST_PAGE [22:12], PRIV, reset 0: Page of the last violation -/
abbrev CHIP_VIOL_LAST_PAGE : Fld := ⟨addr_CHIP_VIOL, 22, 12⟩
/-- CHIP_VIOL.LAST_OFFSET [11:3], PRIV, reset 0: Offset bits [11:3] of the last violation -/
abbrev CHIP_VIOL_LAST_OFFSET : Fld := ⟨addr_CHIP_VIOL, 11, 3⟩

/-- CHIP_ACCESS, aggregator page 0x0 (Table 16-6): the key of the register. -/
abbrev addr_CHIP_ACCESS : Nat := 0x98
/-- CHIP_ACCESS.SLEPT [63:63], RO, reset 0: The last BAR0 read found its domain not ON (R468) -/
abbrev CHIP_ACCESS_SLEPT : Fld := ⟨addr_CHIP_ACCESS, 63, 63⟩
/-- CHIP_ACCESS.SLEPT_PAGE [58:48], RO, reset 0: Page of that read -/
abbrev CHIP_ACCESS_SLEPT_PAGE : Fld := ⟨addr_CHIP_ACCESS, 58, 48⟩
/-- CHIP_ACCESS.HOLD_DROP_N [47:32], RO, reset 0: Held writes dropped (R468), saturating -/
abbrev CHIP_ACCESS_HOLD_DROP_N : Fld := ⟨addr_CHIP_ACCESS, 47, 32⟩
/-- CHIP_ACCESS.PARTIAL_N [31:16], RO, reset 0: 4-byte writes ignored (R453), saturating -/
abbrev CHIP_ACCESS_PARTIAL_N : Fld := ⟨addr_CHIP_ACCESS, 31, 16⟩

/-- PS_CFG, aggregator page 0x2 (Table 16-7): the key of the register. -/
abbrev addr_PS_CFG (i : Nat) : Nat := indBase + 0x200000000 + 4 * i
/-- PS_CFG.ROLE [63:62], RO, reset from configuration: 0b00 disabled; 0b01 slave; 0b10 master; 0b11 reserved -/
abbrev PS_CFG_ROLE (i : Nat) : Fld := ⟨addr_PS_CFG i, 63, 62⟩
/-- PS_CFG.COMPAT [61:61], RO, reset from configuration: 1: compatibility mode (R47) -/
abbrev PS_CFG_COMPAT (i : Nat) : Fld := ⟨addr_PS_CFG i, 61, 61⟩

/-- PS_CNT0, aggregator page 0x2 (Table 16-7): the key of the register. -/
abbrev addr_PS_CNT0 (i : Nat) : Nat := indBase + 0x200000001 + 4 * i
/-- PS_CNT0.SYNC_TX_N [63:32], RO, reset 0: Sync messages sent, modulo 2^32 -/
abbrev PS_CNT0_SYNC_TX_N (i : Nat) : Fld := ⟨addr_PS_CNT0 i, 63, 32⟩
/-- PS_CNT0.DELAY_REQ_RX_N [31:0], RO, reset 0: Delay_Req received and answered, modulo 2^32 -/
abbrev PS_CNT0_DELAY_REQ_RX_N (i : Nat) : Fld := ⟨addr_PS_CNT0 i, 31, 0⟩

/-- PS_CNT1, aggregator page 0x2 (Table 16-7): the key of the register. -/
abbrev addr_PS_CNT1 (i : Nat) : Nat := indBase + 0x200000002 + 4 * i
/-- PS_CNT1.ANNOUNCE_TX_N [63:32], RO, reset 0: Announce messages sent, modulo 2^32 -/
abbrev PS_CNT1_ANNOUNCE_TX_N (i : Nat) : Fld := ⟨addr_PS_CNT1 i, 63, 32⟩
/-- PS_CNT1.DISCARDED_N [31:0], RO, reset 0: Stamps discarded (R45) and messages ignored (R41) on the port, saturating -/
abbrev PS_CNT1_DISCARDED_N (i : Nat) : Fld := ⟨addr_PS_CNT1 i, 31, 0⟩

/-- DU_PD, die unit page 0x1 (Table 17-11): the key of the register. -/
abbrev addr_DU_PD : Nat := 0x1080
/-- DU_PD.STATE_k [2k+1:2k], RO, reset 0b00: 0b00 OFF; 0b01 WAKING; 0b10 ON; 0b11 entering sleep -/
abbrev DU_PD_STATE (k : Nat) : Fld := ⟨0x1080, 2 * k + 1, 2 * k⟩

/-- DU_RST, die unit page 0x1 (Table 17-11): the key of the register. -/
abbrev addr_DU_RST : Nat := 0x1088
/-- DU_RST.SOFT [4:4], PRIV, reset 0: Write 1: functional reset (R472); reads 0 -/
abbrev DU_RST_SOFT : Fld := ⟨addr_DU_RST, 4, 4⟩
/-- DU_RST.DOM_RST [3:0], PRIV, reset 0: Write 1 to bit d: domain reset; reads 0 -/
abbrev DU_RST_DOM_RST : Fld := ⟨addr_DU_RST, 3, 0⟩

/-- DU_RST_STAT, die unit page 0x1 (Table 17-11): the key of the register. -/
abbrev addr_DU_RST_STAT : Nat := 0x1090
/-- DU_RST_STAT.LAST [63:61], RO, reset 0b001: 0b001 power-on; 0b010 rst_n; 0b011 SOFT -/
abbrev DU_RST_STAT_LAST : Fld := ⟨addr_DU_RST_STAT, 63, 61⟩
/-- DU_RST_STAT.RST_N [47:32], RO, reset 0: rst_n resets, saturating -/
abbrev DU_RST_STAT_RST_N : Fld := ⟨addr_DU_RST_STAT, 47, 32⟩
/-- DU_RST_STAT.SOFT_N [31:16], RO, reset 0: SOFT resets, saturating -/
abbrev DU_RST_STAT_SOFT_N : Fld := ⟨addr_DU_RST_STAT, 31, 16⟩
/-- DU_RST_STAT.WAKE_FAIL [3:0], W1C-SEQ, reset 0: Bit d: domain d failed to wake (R74) -/
abbrev DU_RST_STAT_WAKE_FAIL : Fld := ⟨addr_DU_RST_STAT, 3, 0⟩

/-- DU_SAG, die unit page 0x1 (Table 17-11): the key of the register. -/
abbrev addr_DU_SAG : Nat := 0x1098
/-- DU_SAG.WARN_NOW [63:63], RO, reset 0: sg_warn counts (R479) -/
abbrev DU_SAG_WARN_NOW : Fld := ⟨addr_DU_SAG, 63, 63⟩
/-- DU_SAG.CRIT_NOW [62:62], RO, reset 0: sg_crit counts -/
abbrev DU_SAG_CRIT_NOW : Fld := ⟨addr_DU_SAG, 62, 62⟩
/-- DU_SAG.WARN_N [31:16], RO, reset 0: Warnings, saturating -/
abbrev DU_SAG_WARN_N : Fld := ⟨addr_DU_SAG, 31, 16⟩
/-- DU_SAG.CRIT_N [15:0], RO, reset 0: Critical events, saturating -/
abbrev DU_SAG_CRIT_N : Fld := ⟨addr_DU_SAG, 15, 0⟩

/-- REC_CTRL, die unit page 0xD (Table 17-12): the key of the register. -/
abbrev addr_REC_CTRL : Nat := 0xD080
/-- REC_CTRL.PERIOD [31:16], PRIV, reset 100: Token interval, units of 100 µs; 0 acts as 1 (R485) -/
abbrev REC_CTRL_PERIOD : Fld := ⟨addr_REC_CTRL, 31, 16⟩
/-- REC_CTRL.BURST [15:8], PRIV, reset 8: Bucket depth; 0 acts as 1 -/
abbrev REC_CTRL_BURST : Fld := ⟨addr_REC_CTRL, 15, 8⟩
/-- REC_CTRL.SRC [4:3], RW, reset 0b00: 0b00 ring; 0b01 bank 0; 0b10 bank 1; 0b11: write ignored -/
abbrev REC_CTRL_SRC : Fld := ⟨addr_REC_CTRL, 4, 3⟩
/-- REC_CTRL.AUTO [2:2], RW, reset 0: 1: read of REC_WIN7 advances the cursor (R489) -/
abbrev REC_CTRL_AUTO : Fld := ⟨addr_REC_CTRL, 2, 2⟩
/-- REC_CTRL.FLUSH [1:1], PRIV, reset 0: Write 1: commanded fault flush (R487); reads 0 -/
abbrev REC_CTRL_FLUSH : Fld := ⟨addr_REC_CTRL, 1, 1⟩
/-- REC_CTRL.EN [0:0], PRIV, reset 1: 1: records written -/
abbrev REC_CTRL_EN : Fld := ⟨addr_REC_CTRL, 0, 0⟩

/-- REC_STATUS, die unit page 0xD (Table 17-12): the key of the register. -/
abbrev addr_REC_STATUS : Nat := 0xD088
/-- REC_STATUS.FLUSHING [63:63], RO, reset 0: A flush is running -/
abbrev REC_STATUS_FLUSHING : Fld := ⟨addr_REC_STATUS, 63, 63⟩
/-- REC_STATUS.BANK_READY [62:62], RO, reset 1 on an IFD-20: The next flush's bank is ready (R488) -/
abbrev REC_STATUS_BANK_READY : Fld := ⟨addr_REC_STATUS, 62, 62⟩
/-- REC_STATUS.READY [61:61], RO, reset 0: The window holds the record at the cursor -/
abbrev REC_STATUS_READY : Fld := ⟨addr_REC_STATUS, 61, 61⟩
/-- REC_STATUS.ERR [60:59], RO, reset 0b00: 0b00 none; 0b01 AHEAD; 0b10 OVERWRITTEN; 0b11 NV-ERROR -/
abbrev REC_STATUS_ERR : Fld := ⟨addr_REC_STATUS, 60, 59⟩
/-- REC_STATUS.QUEUE_DROP [5:5], W1C-SEQ, reset 0: A record was dropped (R484) -/
abbrev REC_STATUS_QUEUE_DROP : Fld := ⟨addr_REC_STATUS, 5, 5⟩
/-- REC_STATUS.SUPPRESSED [4:4], W1C-SEQ, reset 0: A record was suppressed (R485) -/
abbrev REC_STATUS_SUPPRESSED : Fld := ⟨addr_REC_STATUS, 4, 4⟩
/-- REC_STATUS.NOT_READY [3:3], W1C-SEQ, reset 0: A power flush could not start (R488) -/
abbrev REC_STATUS_NOT_READY : Fld := ⟨addr_REC_STATUS, 3, 3⟩
/-- REC_STATUS.ABANDONED [2:2], W1C-SEQ, reset 0: A flush was abandoned (R482, R483) -/
abbrev REC_STATUS_ABANDONED : Fld := ⟨addr_REC_STATUS, 2, 2⟩
/-- REC_STATUS.SUPERSEDED [1:1], W1C-SEQ, reset 0: A fault flush gave way to a power flush (R481) -/
abbrev REC_STATUS_SUPERSEDED : Fld := ⟨addr_REC_STATUS, 1, 1⟩
/-- REC_STATUS.FLUSH_DONE [0:0], W1C-SEQ, reset 0: A flush completed -/
abbrev REC_STATUS_FLUSH_DONE : Fld := ⟨addr_REC_STATUS, 0, 0⟩

/-- REC_HEAD, die unit page 0xD (Table 17-12): the key of the register. -/
abbrev addr_REC_HEAD : Nat := 0xD090
/-- REC_HEAD.HEAD [31:0], RO, reset 0: RSEQ of the next record -/
abbrev REC_HEAD_HEAD : Fld := ⟨addr_REC_HEAD, 31, 0⟩

/-- REC_CURSOR, die unit page 0xD (Table 17-12): the key of the register. -/
abbrev addr_REC_CURSOR : Nat := 0xD098
/-- REC_CURSOR.CURSOR [31:0], RW, reset 0: RSEQ (ring) or slot (bank) -/
abbrev REC_CURSOR_CURSOR : Fld := ⟨addr_REC_CURSOR, 31, 0⟩

/-- REC_FLUSH, die unit page 0xD (Table 17-13): the key of the register. -/
abbrev addr_REC_FLUSH : Nat := 0xD0A0
/-- REC_FLUSH.LAST_ID [63:32], RO, reset from the banks at power-on: FLUSH_ID of the last flush -/
abbrev REC_FLUSH_LAST_ID : Fld := ⟨addr_REC_FLUSH, 63, 32⟩
/-- REC_FLUSH.LAST_BANK [31:31], RO, reset from the banks: Its bank -/
abbrev REC_FLUSH_LAST_BANK : Fld := ⟨addr_REC_FLUSH, 31, 31⟩
/-- REC_FLUSH.CAUSE [30:28], RO, reset 0: 0x1 fault; 0x2 power; 0x3 commanded -/
abbrev REC_FLUSH_CAUSE : Fld := ⟨addr_REC_FLUSH, 30, 28⟩
/-- REC_FLUSH.COMMITTED [10:0], RO, reset 0: Records committed by the last flush of this power-on, 0 to 1,022 -/
abbrev REC_FLUSH_COMMITTED : Fld := ⟨addr_REC_FLUSH, 10, 0⟩

/-- REC_CNT, die unit page 0xD (Table 17-13): the key of the register. -/
abbrev addr_REC_CNT : Nat := 0xD0A8
/-- REC_CNT.SUPPRESSED_N [63:32], RO, reset 0: Records suppressed, saturating -/
abbrev REC_CNT_SUPPRESSED_N : Fld := ⟨addr_REC_CNT, 63, 32⟩
/-- REC_CNT.FLUSHES_N [31:16], RO, reset 0: Flushes begun, saturating -/
abbrev REC_CNT_FLUSHES_N : Fld := ⟨addr_REC_CNT, 31, 16⟩
/-- REC_CNT.ABANDONED_N [15:8], RO, reset 0: Flushes abandoned, saturating -/
abbrev REC_CNT_ABANDONED_N : Fld := ⟨addr_REC_CNT, 15, 8⟩
/-- REC_CNT.QUEUE_DROP_N [7:0], RO, reset 0: Records dropped, saturating -/
abbrev REC_CNT_QUEUE_DROP_N : Fld := ⟨addr_REC_CNT, 7, 0⟩

/-- REC_WIN, die unit page 0xD (Table 17-13): the key of the register. -/
abbrev addr_REC_WIN (i : Nat) : Nat := 0xD0C0 + 8 * i
/-- REC_WIN.WORD [63:0], RO, reset 0: Bytes 8k to 8k + 7 of the window's record -/
abbrev REC_WIN_WORD (i : Nat) : Fld := ⟨addr_REC_WIN i, 63, 0⟩

/-- BOOT_STATUS, aggregator page 0x4 (Table 17-14): the key of the register. -/
abbrev addr_BOOT_STATUS : Nat := 0x4080
/-- BOOT_STATUS.STAGE [63:60], RO, reset 0x0: Last stage reached (Table 17-6) -/
abbrev BOOT_STATUS_STAGE : Fld := ⟨addr_BOOT_STATUS, 63, 60⟩
/-- BOOT_STATUS.RESULT [59:52], RO, reset 0x00: Its outcome -/
abbrev BOOT_STATUS_RESULT : Fld := ⟨addr_BOOT_STATUS, 59, 52⟩
/-- BOOT_STATUS.FW_SLOT [51:51], RO, reset 0: Slot started -/
abbrev BOOT_STATUS_FW_SLOT : Fld := ⟨addr_BOOT_STATUS, 51, 51⟩
/-- BOOT_STATUS.FW_FALLBACK [50:50], RO, reset 0: ACTIVE_SLOT failed; the other slot started -/
abbrev BOOT_STATUS_FW_FALLBACK : Fld := ⟨addr_BOOT_STATUS, 50, 50⟩
/-- BOOT_STATUS.CFG_COPY [49:49], RO, reset 0: 0 copy A; 1 copy B -/
abbrev BOOT_STATUS_CFG_COPY : Fld := ⟨addr_BOOT_STATUS, 49, 49⟩
/-- BOOT_STATUS.CFG_VERSION [31:0], RO, reset 0: VERSION of the configuration in force -/
abbrev BOOT_STATUS_CFG_VERSION : Fld := ⟨addr_BOOT_STATUS, 31, 0⟩

/-- RST_LOG, aggregator page 0x4 (Table 17-14): the key of the register. -/
abbrev addr_RST_LOG : Nat := 0x4088
/-- RST_LOG.LAST_CAUSE [63:48], RO, reset 0x0000: Health code of the last chip reset; 0x0000 power-on or commanded; 0x0001 supply warning -/
abbrev RST_LOG_LAST_CAUSE : Fld := ⟨addr_RST_LOG, 63, 48⟩
/-- RST_LOG.RESETS_1H [47:40], RO, reset 0: Chip resets in the last hour (R411) -/
abbrev RST_LOG_RESETS_1H : Fld := ⟨addr_RST_LOG, 47, 40⟩
/-- RST_LOG.RESETS_N [31:0], RO, reset 0: Chip resets since power-on, saturating -/
abbrev RST_LOG_RESETS_N : Fld := ⟨addr_RST_LOG, 31, 0⟩

/-- PWR_SAG, aggregator page 0x4 (Table 17-14): the key of the register. -/
abbrev addr_PWR_SAG : Nat := 0x4090
/-- PWR_SAG.WARN_NOW [63:63], RO, reset 0: PWR_WARN_N counts -/
abbrev PWR_SAG_WARN_NOW : Fld := ⟨addr_PWR_SAG, 63, 63⟩
/-- PWR_SAG.CRIT_NOW [62:62], RO, reset 0: PWR_CRIT_N counts -/
abbrev PWR_SAG_CRIT_NOW : Fld := ⟨addr_PWR_SAG, 62, 62⟩
/-- PWR_SAG.WRITES_STOPPED [61:61], RO, reset 0: Flash writes other than the flush are stopped (R488) -/
abbrev PWR_SAG_WRITES_STOPPED : Fld := ⟨addr_PWR_SAG, 61, 61⟩
/-- PWR_SAG.WARN_N [31:16], RO, reset 0: Warnings, saturating -/
abbrev PWR_SAG_WARN_N : Fld := ⟨addr_PWR_SAG, 31, 16⟩
/-- PWR_SAG.CRIT_N [15:0], RO, reset 0: Critical events, saturating -/
abbrev PWR_SAG_CRIT_N : Fld := ⟨addr_PWR_SAG, 15, 0⟩

/-- The registers of die unit page 0x0, beside its header. -/
def duRows00 : List RegRow :=
  [⟨0x80, 8, 1, 0xFF00, 0x0, 0x0, 0x20000000000000, 0⟩,  -- DU_IDENT
   ⟨0x88, 8, 1, 0x0, 0x0, 0x0, 0x0, 0⟩,  -- DU_ASSIGN
   ⟨0x90, 8, 1, 0x0, 0x0, 0x0, 0x0, 0⟩,  -- DU_PEND
   ⟨0x98, 8, 1, 0xFFFFFFFF0001FFF8, 0x0, 0x0, 0x0, 0⟩,  -- DU_VIOL
   ⟨0xA0, 8, 1, 0x0, 0x0, 0x0, 0x0, 0⟩,  -- DU_MAC
   ⟨0xA8, 8, 1, 0xFFFF, 0x0, 0x0, 0x3, 0⟩,  -- DU_FAILOVER
   ⟨0xB0, 8, 1, 0x0, 0x0, 0x0, 0x0, 0⟩]  -- DU_RXCNT

/-- The registers of die unit page 0x1, beside its header. -/
def duRows01 : List RegRow :=
  [⟨0x1080, 8, 1, 0x0, 0x0, 0x0, 0x0, 0⟩,  -- DU_PD
   ⟨0x1088, 8, 1, 0x1F, 0x0, 0x0, 0x0, 0⟩,  -- DU_RST
   ⟨0x1090, 8, 1, 0x0, 0x0, 0xF, 0x2000000000000000, 0⟩,  -- DU_RST_STAT
   ⟨0x1098, 8, 1, 0x0, 0x0, 0x0, 0x0, 0⟩]  -- DU_SAG

/-- The registers of die unit page 0x2, beside its header. -/
def duRows02 : List RegRow :=
  [⟨0x2090, 8, 1, 0xFFFFFFFFFFFFFFFF, 0x0, 0x0, 0x64, 0⟩,  -- TC_JUMP_THRESH
   ⟨0x20A0, 8, 1, 0xFFFF, 0x0, 0x0, 0x0, 0⟩,  -- TC_STROBE_DELAY
   ⟨0x20A8, 8, 1, 0x0, 0x0, 0x0, 0x0, 0⟩,  -- TC_NOW_NS
   ⟨0x20B8, 8, 1, 0x0, 0x0, 0x0, 0x0, 0⟩,  -- TC_OFFSET_PRI
   ⟨0x20C0, 8, 1, 0x0, 0x0, 0x0, 0x0, 0⟩,  -- TC_OFFSET_RED
   ⟨0x20C8, 8, 1, 0x0, 0x0, 0x0, 0x0, 0⟩,  -- TC_DOMAIN_DELTA
   ⟨0x20D0, 8, 1, 0x0, 0x0, 0x0, 0x0, 0⟩,  -- TC_SWITCH_RESID
   ⟨0x20D8, 8, 1, 0xFFFFFFFFFFFFFFFF, 0x0, 0x0, 0x0, 0⟩,  -- TC_ASYM
   ⟨0x20E8, 8, 1, 0x0, 0x0, 0x0, 0xFFFFFFFFFFFFFFFF, 0⟩,  -- TC_PEAL_NEXT
   ⟨0x20F8, 8, 1, 0xFFFFFFFFFFFF, 0x0, 0x0, 0x0, 0⟩,  -- TC_MASTER
   ⟨0x2080, 8, 1, 0xFFFF0000FB, 0x0, 0x0, 0x1000000, 0⟩,  -- TC_CTRL
   ⟨0x2088, 8, 1, 0x0, 0x0, 0xFF, 0x0, 0⟩,  -- TC_STATUS
   ⟨0x2098, 8, 1, 0x0, 0x0, 0x0, 0x0, 0⟩,  -- TC_MAC_LAT
   ⟨0x20B0, 8, 1, 0x0, 0x0, 0x0, 0x30000, 0⟩,  -- TC_NOW_FRAC
   ⟨0x20E0, 8, 1, 0x0, 0xFFFFFFFFFFFFFFFF, 0x0, 0x300030003000300, 0⟩,  -- TC_CLKMON_NOM
   ⟨0x20F0, 8, 1, 0x0, 0x0, 0x0, 0x0, 0⟩]  -- TC_COUNTS

/-- The registers of die unit page 0x3, beside its header. -/
def duRows03 : List RegRow :=
  [⟨0x30B0, 8, 1, 0x0, 0x0, 0x0, 0x0, 0⟩,  -- CNT_LATCH_T_START
   ⟨0x30B8, 8, 1, 0x0, 0x0, 0x0, 0x0, 0⟩,  -- CNT_LATCH_T_END
   ⟨0x30C0, 8, 1, 0x0, 0x0, 0x0, 0x0, 0⟩,  -- CNT_SNAP_T
   ⟨0x30D8, 8, 1, 0x0, 0x0, 0x0, 0x0, 0⟩,  -- CNT_PEAL_T0
   ⟨0x30E0, 8, 1, 0x0, 0x0, 0x0, 0x0, 0⟩,  -- CNT_PEAL_T1
   ⟨0x30E8, 8, 1, 0x0, 0x0, 0x0, 0x0, 0⟩,  -- CNT_FROZEN_CYC
   ⟨0x3100, 8, 8, 0x0, 0x0, 0xFFFFFFFFFFFFFFFF, 0x0, 0⟩,  -- CNT_OVF
   ⟨0x3200, 8, 32, 0x0, 0x0, 0x0, 0x0, 0⟩,  -- CNT_L
   ⟨0x3080, 8, 1, 0xFFFF00000FFF, 0x0, 0x0, 0x6400000000, 0⟩,  -- CNT_CTRL
   ⟨0x3088, 8, 1, 0x0, 0x0, 0xFF, 0x0, 0⟩,  -- CNT_STATUS
   ⟨0x3090, 8, 1, 0x1FFFF, 0x0, 0x0, 0x0, 0⟩,  -- CNT_USER
   ⟨0x3098, 8, 1, 0x0, 0x7, 0x0, 0x0, 0⟩,  -- CNT_VIEW
   ⟨0x30A0, 8, 1, 0x0, 0x0, 0x0, 0x0, 0⟩,  -- CNT_RDINFO
   ⟨0x30A8, 8, 1, 0x0, 0x0, 0x0, 0x0, 0⟩,  -- CNT_LATCH_CMD
   ⟨0x30C8, 8, 2, 0x0, 0x0, 0x0, 0xC00000000000, 0⟩,  -- CNT_PEAL_B
   ⟨0x30F0, 8, 1, 0x0, 0x0, 0x0, 0x0, 0⟩]  -- CNT_COUNTS

/-- The registers of die unit page 0x4, beside its header. -/
def duRows04 : List RegRow :=
  [⟨0x4080, 8, 240, 0x0, 0x0, 0x0, 0x0, 0⟩,  -- CNT_VAL
   ⟨0x5080, 8, 240, 0x0, 0x0, 0x0, 0x0, 0⟩,  -- CNT_VAL
   ⟨0x4800, 8, 240, 0xF00000000000FFFF, 0x0, 0x0, 0x0, 0⟩,  -- CNT_SEL
   ⟨0x5800, 8, 240, 0xF00000000000FFFF, 0x0, 0x0, 0x0, 0⟩]  -- CNT_SEL

/-- The registers of die unit page 0x6, beside its header. -/
def duRows06 : List RegRow :=
  [⟨0x60A0, 8, 1, 0x0, 0x0, 0x0, 0x0, 0⟩,  -- TRC_SEG_SEQ
   ⟨0x60A8, 8, 1, 0xFFFFFFFFFFFFFFFF, 0x0, 0x0, 0x0, 0⟩,  -- TRC_EXCL_N
   ⟨0x60B8, 8, 1, 0x0, 0x0, 0x0, 0x0, 0⟩,  -- TRC_DEAD_TOTAL
   ⟨0x6080, 8, 1, 0xFFFF00F0FF2F, 0x0, 0x0, 0x6400000A08, 0⟩,  -- TRC_CTRL
   ⟨0x6088, 8, 1, 0x0, 0x0, 0xFF, 0x40000000000000, 0⟩,  -- TRC_STATUS
   ⟨0x6090, 8, 1, 0x3, 0x0, 0x0, 0x0, 0⟩,  -- TRC_AUTH
   ⟨0x6098, 8, 1, 0xFFFFFF00FFFFFF00, 0x0, 0x0, 0x8040100010080200, 0⟩,  -- TRC_DROP_THR
   ⟨0x60B0, 8, 1, 0x0, 0x0, 0x0, 0x0, 0⟩]  -- TRC_COUNTS

/-- The registers of die unit page 0x7, beside its header. -/
def duRows07 : List RegRow :=
  [⟨0x7080, 8, 16, 0xC000000000003F30, 0x0, 0x0, 0x0, 0x100⟩,  -- TRC_SRC
   ⟨0x7100, 8, 16, 0x0, 0x0, 0x0, 0x0, 0⟩,  -- TRC_DEAD
   ⟨0x7200, 8, 8, 0xFFFFFFFFFFFFFFFF, 0x0, 0x0, 0x0, 0⟩,  -- TRC_CMP_BASE
   ⟨0x7240, 8, 8, 0xFFFFFFFFFFFFFFFF, 0x0, 0x0, 0x0, 0⟩,  -- TRC_CMP_LIMIT
   ⟨0x7280, 8, 8, 0xF00000000000FFFF, 0x0, 0x0, 0x0, 0⟩]  -- TRC_CMP_CTRL

/-- The registers of die unit page 0x8, beside its header. -/
def duRows08 : List RegRow :=
  [⟨0x8098, 8, 1, 0x0, 0x0, 0x0, 0xFFFFFFFFFFFF, 0⟩,  -- TCK_STEP
   ⟨0x80B0, 8, 1, 0xFFFFFFFF, 0x0, 0x0, 0x0, 0⟩,  -- TCK_CLASS
   ⟨0x80B8, 8, 1, 0xFFFFFFFF, 0x0, 0x0, 0xFFFFFFFF, 0⟩,  -- TCK_OUTW
   ⟨0x8200, 8, 32, 0xFFFFFFFFFFFFFFFF, 0x0, 0x0, 0x0, 0⟩,  -- TCK_THR
   ⟨0x8080, 8, 1, 0xFFFF00FF0007, 0x0, 0x0, 0xA000A0000, 0⟩,  -- TCK_CTRL
   ⟨0x8088, 8, 1, 0x0, 0x0, 0x3FFF, 0x0, 0⟩,  -- TCK_STATUS
   ⟨0x8090, 8, 1, 0x0, 0x0, 0x0, 0x0, 0⟩,  -- TCK_JOB
   ⟨0x80A0, 8, 1, 0xFFFFFFFFFFFF, 0x0, 0x0, 0x7FFF7FFF7FFF, 0⟩,  -- TCK_BAND_T
   ⟨0x80A8, 8, 1, 0xFFFFFFFFFFFF, 0x0, 0x0, 0xFFFFFFFFFFFF, 0⟩,  -- TCK_BAND_V
   ⟨0x80C0, 8, 1, 0x0, 0x0, 0x0, 0x0, 0⟩,  -- TCK_COUNTS0
   ⟨0x80C8, 8, 1, 0x0, 0x0, 0x0, 0x0, 0⟩,  -- TCK_COUNTS1
   ⟨0x80D0, 8, 1, 0x0, 0x0, 0x0, 0x0, 0⟩,  -- TCK_COUNTS2
   ⟨0x80D8, 8, 1, 0x0, 0x0, 0x0, 0x0, 0⟩]  -- TCK_COUNTS3

/-- The registers of die unit page 0x9, beside its header. -/
def duRows09 : List RegRow :=
  [⟨0x9080, 8, 1, 0xFFFFFFFF3F03, 0x0, 0x0, 0x6423280302, 0⟩,  -- FB_CTRL
   ⟨0x9088, 8, 1, 0x0, 0x0, 0x7, 0x0, 0⟩,  -- FB_STATUS
   ⟨0x9090, 8, 1, 0x3F3F3F3F3F3F3F3F, 0x0, 0x0, 0x505040403020100, 0⟩,  -- FB_PMAP0
   ⟨0x9098, 8, 1, 0x3F3F3F, 0x0, 0x0, 0x30706, 0⟩,  -- FB_PMAP1
   ⟨0x90A0, 8, 1, 0x0, 0x0, 0x0, 0x0, 0⟩,  -- FB_COUNTS0
   ⟨0x90A8, 8, 1, 0x0, 0x0, 0x0, 0x0, 0⟩]  -- FB_COUNTS1

/-- The registers of die unit page 0xA, beside its header. -/
def duRows0A : List RegRow :=
  [⟨0xA090, 8, 1, 0xFFFFFFFFFFFFFFFF, 0x0, 0x0, 0x0, 0⟩,  -- GATE_BASE
   ⟨0xA098, 8, 1, 0xFFFFFFFF, 0x0, 0x0, 0x0, 0⟩,  -- GATE_CYCLE
   ⟨0xA0A0, 8, 1, 0xFFFFFFFFFFFFFFFF, 0x0, 0x0, 0x0, 0⟩,  -- GATE_SWITCH_T
   ⟨0xA0A8, 8, 1, 0x0, 0x0, 0x0, 0x0, 0⟩,  -- SHP_VTIME
   ⟨0xA700, 8, 32, 0xFFFFFFFFFFFFFFFF, 0x0, 0x0, 0x0, 0⟩,  -- GATE_MASK
   ⟨0xA080, 8, 1, 0xFFFFFF00000007, 0x0, 0x0, 0x186A000000000, 0⟩,  -- SHP_CTRL
   ⟨0xA088, 8, 1, 0x0, 0x0, 0x7, 0x0, 0⟩,  -- SHP_STATUS
   ⟨0xA0B8, 8, 1, 0xFFFFFFFFFFFFFFFF, 0x0, 0x0, 0x0, 0⟩,  -- GATE_FLAGS
   ⟨0xA0C0, 8, 1, 0x0, 0x0, 0x0, 0x0, 0⟩,  -- SHP_COUNTS
   ⟨0xA100, 8, 64, 0xFFFFFF00FFFFFF, 0x0, 0x0, 0x0, 0⟩,  -- SHP_RATE
   ⟨0xA300, 8, 64, 0x80FFFFFFFFFFFFFF, 0x0, 0x0, 0x1000024000024, 0⟩,  -- SHP_BURST
   ⟨0xA600, 8, 32, 0xFFFFFFFFFFFFFFFF, 0x0, 0x0, 0x0, 0⟩]  -- GATE_TIME

/-- The registers of die unit page 0xB, beside its header. -/
def duRows0B : List RegRow :=
  [⟨0xB080, 8, 1, 0xFF1F03, 0x0, 0x0, 0x11F01, 0⟩,  -- TOC_CTRL
   ⟨0xB088, 8, 1, 0x0, 0x0, 0x1F, 0x0, 0⟩,  -- TOC_STATUS
   ⟨0xB090, 8, 1, 0x0, 0x0, 0x0, 0x0, 0⟩,  -- TOC_COUNTS0
   ⟨0xB098, 8, 1, 0x0, 0x0, 0x0, 0x0, 0⟩]  -- TOC_COUNTS1

/-- The registers of die unit page 0xC, beside its header. -/
def duRows0C : List RegRow :=
  [⟨0xC080, 8, 1, 0xFFFF00000001, 0x0, 0x0, 0x6400000001, 0⟩,  -- HE_CTRL
   ⟨0xC088, 8, 1, 0x0, 0x0, 0xF, 0x0, 0⟩,  -- HE_STATUS
   ⟨0xC090, 8, 1, 0x0, 0x0, 0x0, 0x0, 0⟩,  -- HE_LAST
   ⟨0xC098, 8, 1, 0x0, 0x0, 0x0, 0x0, 0⟩,  -- HE_COUNTS
   ⟨0xC0A0, 8, 1, 0x0, 0x0, 0x0, 0x8000000000000000, 0⟩]  -- HE_SENSOR

/-- The registers of die unit page 0xD, beside its header. -/
def duRows0D : List RegRow :=
  [⟨0xD080, 8, 1, 0xFFFFFF03, 0x1C, 0x0, 0x640801, 0⟩,  -- REC_CTRL
   ⟨0xD088, 8, 1, 0x0, 0x0, 0x3F, 0x4000000000000000, 0⟩,  -- REC_STATUS
   ⟨0xD090, 8, 1, 0x0, 0x0, 0x0, 0x0, 0⟩,  -- REC_HEAD
   ⟨0xD098, 8, 1, 0x0, 0xFFFFFFFF, 0x0, 0x0, 0⟩,  -- REC_CURSOR
   ⟨0xD0A0, 8, 1, 0x0, 0x0, 0x0, 0x0, 0⟩,  -- REC_FLUSH
   ⟨0xD0A8, 8, 1, 0x0, 0x0, 0x0, 0x0, 0⟩,  -- REC_CNT
   ⟨0xD0C0, 8, 8, 0x0, 0x0, 0x0, 0x0, 0⟩]  -- REC_WIN

/-- The registers of aggregator page 0x0, beside its header. -/
def aggRows00 : List RegRow :=
  [⟨0x80, 8, 1, 0x0, 0x0, 0x0, 0x40000000000000, 0⟩,  -- CHIP_IDENT
   ⟨0x88, 8, 1, 0x0, 0x0, 0x0, 0x0, 0⟩,  -- CHIP_PEND
   ⟨0x90, 8, 1, 0xFFFFFFFF00FFFFF8, 0x0, 0x0, 0x0, 0⟩,  -- CHIP_VIOL
   ⟨0x98, 8, 1, 0x0, 0x0, 0x0, 0x0, 0⟩]  -- CHIP_ACCESS

/-- The registers of aggregator page 0x2, beside its header. -/
def aggRows02 : List RegRow :=
  [⟨indBase + 0x200000000, 4, 18, 0x0, 0x0, 0x0, 0x0, 0⟩,  -- PS_CFG
   ⟨indBase + 0x200000001, 4, 18, 0x0, 0x0, 0x0, 0x0, 0⟩,  -- PS_CNT0
   ⟨indBase + 0x200000002, 4, 18, 0x0, 0x0, 0x0, 0x0, 0⟩]  -- PS_CNT1

/-- The registers of aggregator page 0x4, beside its header. -/
def aggRows04 : List RegRow :=
  [⟨0x4080, 8, 1, 0x0, 0x0, 0x0, 0x0, 0⟩,  -- BOOT_STATUS
   ⟨0x4088, 8, 1, 0x0, 0x0, 0x0, 0x0, 0⟩,  -- RST_LOG
   ⟨0x4090, 8, 1, 0x0, 0x0, 0x0, 0x0, 0⟩]  -- PWR_SAG

/-- The registers of aggregator page 0x10, beside its header. -/
def aggRows10 : List RegRow :=
  [⟨0x10080, 8, 1, 0xFFFF, 0x0, 0x0, 0x7D0, 0⟩,  -- PWR_CAP
   ⟨0x10088, 8, 1, 0x0, 0x0, 0x0, 0x0, 0⟩,  -- PWR_EST
   ⟨0x10090, 8, 1, 0x0, 0x0, 0x1, 0x0, 0⟩,  -- PWR_STATUS
   ⟨0x10098, 8, 1, 0x0, 0x0, 0x0, 0x0, 0⟩,  -- CHIP_CORE_PRESENT
   ⟨0x10400, 8, 80, 0xF, 0x0, 0x0, 0x0, 0⟩,  -- PD_CTRL
   ⟨0x10100, 8, 64, 0x0, 0x0, 0x100, 0x0, 0⟩,  -- PD_STAT
   ⟨0x10300, 8, 1, 0x0, 0x0, 0x100, 0x2, 0⟩,  -- PD_STAT
   ⟨0x10308, 8, 3, 0x0, 0x0, 0x100, 0x0, 0⟩,  -- PD_STAT
   ⟨0x10320, 8, 1, 0x0, 0x0, 0x100, 0x2, 0⟩,  -- PD_STAT
   ⟨0x10328, 8, 3, 0x0, 0x0, 0x100, 0x0, 0⟩,  -- PD_STAT
   ⟨0x10340, 8, 1, 0x0, 0x0, 0x100, 0x2, 0⟩,  -- PD_STAT
   ⟨0x10348, 8, 3, 0x0, 0x0, 0x100, 0x0, 0⟩,  -- PD_STAT
   ⟨0x10360, 8, 2, 0x0, 0x0, 0x100, 0x2, 0⟩,  -- PD_STAT
   ⟨0x10370, 8, 1, 0x0, 0x0, 0x100, 0x0, 0⟩,  -- PD_STAT
   ⟨0x10378, 8, 1, 0x0, 0x0, 0x100, 0x2, 0⟩]  -- PD_STAT

/-- The registers of aggregator page 0x11, beside its header. -/
def aggRows11 : List RegRow :=
  [⟨0x11080, 8, 1, 0x0, 0x0, 0x1, 0x0, 0⟩,  -- SYNC_STATUS
   ⟨0x11088, 8, 1, 0x0, 0x0, 0x0, 0x0, 0⟩,  -- BRG_REPLAY_N
   ⟨0x11090, 8, 1, 0x0, 0x0, 0x0, 0x0, 0⟩,  -- HBM_CE_N
   ⟨0x11098, 8, 1, 0x0, 0x0, 0x0, 0x0, 0⟩,  -- HBM_ACCESS_FAULT_N
   ⟨indBase + 0x1100000000, 4, 256, 0x83FF0000FFFFFFFF, 0x0, 0x0, 0x0, 0⟩,  -- BAR_CFG
   ⟨indBase + 0x1100000001, 4, 256, 0xFFFFFFFFFFFFFFFF, 0x0, 0x0, 0x0, 0⟩,  -- BAR_MASK
   ⟨indBase + 0x1100000002, 4, 256, 0x0, 0x0, 0x0, 0x0, 0⟩,  -- BAR_ARR
   ⟨indBase + 0x1100000003, 4, 256, 0x1, 0x0, 0x0, 0x0, 0⟩,  -- BAR_STAT
   ⟨indBase + 0x1100000400, 2, 4096, 0x83FF000000000001, 0x0, 0x2, 0x0, 0⟩,  -- SEM_CFG
   ⟨indBase + 0x1100000401, 2, 4096, 0xFFFFFFFF, 0x0, 0x0, 0x0, 0⟩]  -- SEM_VAL

/-- The registers of aggregator page 0x12, beside its header. -/
def aggRows12 : List RegRow :=
  [⟨0x12100, 24, 16, 0x0, 0x0, 0x0, 0x0, 0⟩,  -- HBM_RGN_BASE
   ⟨0x12108, 24, 16, 0x0, 0x0, 0x0, 0x0, 0⟩,  -- HBM_RGN_LIM
   ⟨0x12110, 24, 16, 0x0, 0x0, 0x0, 0x0, 0⟩]  -- HBM_RGN_ATTR

/-- The registers of aggregator page 0x13, beside its header. -/
def aggRows13 : List RegRow :=
  [⟨indBase + 0x1300030000, 4, 32768, 0xFFFFFF00FFFFFF, 0x0, 0x0, 0x0, 0⟩,  -- MTR_RATE
   ⟨indBase + 0x1300030001, 4, 32768, 0xE000FFFFFFFFFFFF, 0x0, 0x0, 0x0, 0⟩,  -- MTR_BURST
   ⟨indBase + 0x1300030002, 4, 32768, 0x0, 0x0, 0x0, 0x0, 0⟩,  -- MTR_CNT_GY
   ⟨indBase + 0x1300030003, 4, 32768, 0x0, 0x0, 0x0, 0x0, 0⟩,  -- MTR_CNT_R
   ⟨0x13080, 8, 1, 0xFFFFFFFFFFF1, 0x0, 0x0, 0xC8000A0A80, 0⟩,  -- ING_CTRL
   ⟨0x13088, 8, 1, 0x0, 0x0, 0xFF, 0x0, 0⟩,  -- ING_STATUS
   ⟨0x13090, 8, 1, 0x0, 0x0, 0x0, 0x0, 0⟩,  -- ING_CNT0
   ⟨0x13098, 8, 1, 0x0, 0x0, 0x0, 0x0, 0⟩,  -- ING_CNT1
   ⟨0x130A0, 8, 1, 0x0, 0x0, 0x0, 0x0, 0⟩,  -- ING_CNT2
   ⟨0x130A8, 8, 1, 0x0, 0x0, 0x0, 0x0, 0⟩,  -- ING_CNT3
   ⟨0x130B0, 8, 1, 0x0, 0x0, 0x0, 0x0, 0⟩,  -- ING_CNT4
   ⟨0x130B8, 8, 1, 0x0, 0x0, 0x0, 0x0, 0⟩,  -- ING_CNT5
   ⟨indBase + 0x1300000000, 1, 512, 0x0, 0x0, 0x0, 0x0, 0⟩,  -- REG_ENT
   ⟨indBase + 0x1300010000, 2, 32768, 0xE3FF00000000FFFF, 0x0, 0x0, 0x0, 0⟩,  -- STC_CFG
   ⟨indBase + 0x1300010001, 2, 32768, 0x0, 0x0, 0x0, 0x0, 0⟩,  -- STC_STAT
   ⟨indBase + 0x1300020000, 4, 1024, 0x0, 0x0, 0x0, 0x0, 0⟩,  -- JC_ID
   ⟨indBase + 0x1300020001, 4, 1024, 0x0, 0x0, 0x0, 0x0, 0⟩,  -- JC_TREE
   ⟨indBase + 0x1300020002, 4, 1024, 0x0, 0x0, 0x0, 0x0, 0⟩]  -- JC_TIME

/-- The registers of aggregator page 0x14, beside its header. -/
def aggRows14 : List RegRow :=
  [⟨0x14080, 8, 1, 0xFFFFFFFFFFFFFFFF, 0x0, 0x0, 0x3E80032000A, 0⟩,  -- EP_DEFAULTS
   ⟨0x14088, 8, 1, 0xFFFFFF00FFFFFFFF, 0x0, 0x0, 0x14340000C801F4, 0⟩,  -- TREE_TIMING
   ⟨0x14090, 8, 1, 0x0, 0x0, 0x7F, 0x0, 0⟩,  -- TREE_STATUS
   ⟨0x14098, 8, 1, 0x0, 0x0, 0x0, 0x0, 0⟩,  -- TREE_CNT0
   ⟨0x140A0, 8, 1, 0x0, 0x0, 0x0, 0x0, 0⟩]  -- TREE_CNT1

/-- The registers of aggregator page 0x15, beside its header. -/
def aggRows15 : List RegRow :=
  [⟨indBase + 0x1500000000, 4, 1024, 0x80FFF0000000FFFF, 0x0, 0x0, 0x0, 0⟩,  -- NUM_W0
   ⟨indBase + 0x1500000001, 4, 1024, 0xFFE0FFFF00000000, 0x0, 0x0, 0x0, 0⟩,  -- NUM_W1
   ⟨indBase + 0x1500000002, 4, 1024, 0xFFECFFFFFFFFFFFF, 0x0, 0x0, 0x0, 0⟩,  -- NUM_W2
   ⟨indBase + 0x1500000003, 4, 1024, 0xFFECFFFF00000000, 0x0, 0x0, 0x0, 0⟩,  -- NUM_W3
   ⟨0x15080, 8, 1, 0xFFFFFFFFF0000D, 0x0, 0x0, 0x12C3280600004, 0⟩,  -- AUD_CTRL
   ⟨0x15088, 8, 1, 0x0, 0x0, 0x1FF, 0x0, 0⟩,  -- AUD_STATUS
   ⟨0x15090, 8, 1, 0xFFFFFFFFFFFFFFFF, 0x0, 0x0, 0x0, 0⟩,  -- AUD_XDE_MASK
   ⟨0x15098, 8, 1, 0xFFFFFFFF, 0x0, 0x0, 0x80, 0⟩,  -- AUD_MARGIN
   ⟨0x150A0, 8, 1, 0x0, 0x0, 0x0, 0x0, 0⟩,  -- AUD_VSEQ
   ⟨0x150A8, 8, 1, 0x0, 0x0, 0x0, 0x0, 0⟩,  -- AUD_PRODUCTS
   ⟨0x150B0, 8, 1, 0x0, 0x0, 0x0, 0x0, 0⟩,  -- AUD_CNT0
   ⟨0x150B8, 8, 1, 0x0, 0x0, 0x0, 0x0, 0⟩,  -- AUD_CNT1
   ⟨0x150C0, 8, 1, 0x0, 0x0, 0x0, 0x0, 0⟩,  -- AUD_CNT2
   ⟨0x150C8, 8, 1, 0x0, 0x0, 0x0, 0x0, 0⟩,  -- AUD_CNT3
   ⟨0x150D0, 8, 1, 0x0, 0x0, 0x0, 0x0, 0⟩,  -- AUD_CNT4
   ⟨indBase + 0x1500001000, 1, 512, 0x3F, 0x0, 0x0, 0x0, 0⟩,  -- AUD_NUMSET
   ⟨indBase + 0x1500001200, 1, 64, 0x0, 0x0, 0x0, 0x0, 0⟩,  -- XDE_ERR
   ⟨indBase + 0x1500001300, 1, 1024, 0x0, 0x0, 0x0, 0xFFFFFFFFFFFF, 0⟩,  -- JA_TAINT
   ⟨indBase + 0x1500001700, 1, 1024, 0x0, 0x0, 0x0, 0xFFFFFFFFFFFF, 0⟩]  -- JA_HORIZON

/-- The registers of aggregator page 0x16, beside its header. -/
def aggRows16 : List RegRow :=
  [⟨0x16080, 8, 1, 0x7, 0x0, 0x0, 0x4, 0⟩,  -- DET_CTRL
   ⟨0x16088, 8, 1, 0x0, 0x0, 0x1FF, 0x0, 0⟩,  -- DET_STATUS
   ⟨0x16090, 8, 1, 0x0, 0x0, 0x0, 0x0, 0⟩,  -- DET_FAULT
   ⟨0x16098, 8, 1, 0x0, 0x0, 0x0, 0x0, 0⟩,  -- DET_KEYS
   ⟨0x160A0, 8, 1, 0x0, 0x0, 0x0, 0x0, 0⟩,  -- DET_CNT0
   ⟨0x160A8, 8, 1, 0x0, 0x0, 0x0, 0x0, 0⟩,  -- DET_CNT1
   ⟨0x160B0, 8, 1, 0x0, 0x0, 0x0, 0x0, 0⟩,  -- DET_CNT2
   ⟨0x160B8, 8, 1, 0x0, 0x0, 0x0, 0x0, 0⟩,  -- DET_CNT3
   ⟨indBase + 0x1600000000, 4, 64, 0x0, 0x0, 0x0, 0x0, 0⟩,  -- IMG_ID
   ⟨indBase + 0x1600000001, 4, 64, 0x0, 0x0, 0x0, 0x0, 0⟩,  -- IMG_LOC
   ⟨indBase + 0x1600000002, 4, 64, 0x0, 0x0, 0x0, 0x0, 0⟩,  -- IMG_INFO
   ⟨indBase + 0x1600000003, 4, 64, 0x0, 0x0, 0x0, 0x0, 0⟩,  -- IMG_STAT
   ⟨indBase + 0x1600000400, 4, 256, 0x0, 0x0, 0x0, 0x0, 0⟩,  -- INS_BIND
   ⟨indBase + 0x1600000401, 4, 256, 0x0, 0x0, 0x0, 0x0, 0⟩,  -- INS_CORES
   ⟨indBase + 0x1600000402, 4, 256, 0x0, 0x0, 0x0, 0x0, 0⟩,  -- INS_RES
   ⟨indBase + 0x1600000403, 4, 256, 0x0, 0x0, 0x0, 0x0, 0⟩,  -- INS_STAT
   ⟨indBase + 0x1600000800, 2, 1024, 0x0, 0x0, 0x0, 0x0, 0⟩,  -- SMP_CFG0
   ⟨indBase + 0x1600000801, 2, 1024, 0x0, 0x0, 0x0, 0x0, 0⟩]  -- SMP_CFG1

/-- The registers of aggregator page 0x17, beside its header. -/
def aggRows17 : List RegRow :=
  [⟨0x17080, 8, 1, 0xFFFFFFFFFFFFFFF1, 0x0, 0x0, 0x27105561100000, 0⟩,  -- LDG_CTRL
   ⟨0x17088, 8, 1, 0xFFFFFFFFFFFFFFFF, 0x0, 0x0, 0xA0014006407D0, 0⟩,  -- LDG_TIMING
   ⟨0x17090, 8, 1, 0xFFFF, 0x0, 0x0, 0xC9, 0⟩,  -- MIR_CTRL
   ⟨0x17098, 8, 1, 0x0, 0x0, 0x7F, 0x0, 0⟩,  -- LDG_STATUS
   ⟨0x170A0, 8, 1, 0x0, 0x0, 0x0, 0x0, 0⟩,  -- MIR_STATUS
   ⟨0x170A8, 8, 1, 0x0, 0x0, 0x0, 0x0, 0⟩,  -- LDG_OCC
   ⟨0x170B0, 8, 1, 0x0, 0x0, 0x0, 0x0, 0⟩,  -- LDG_CNT0
   ⟨0x170B8, 8, 1, 0x0, 0x0, 0x0, 0x0, 0⟩,  -- LDG_CNT1
   ⟨indBase + 0x1700000000, 4, 1024, 0x0, 0x0, 0x0, 0xFFFFFFFFFFFF, 0⟩,  -- LJ_SEALED
   ⟨indBase + 0x1700000001, 4, 1024, 0x0, 0x0, 0x0, 0xFFFFFFFFFFFF, 0⟩,  -- LJ_OLDEST
   ⟨indBase + 0x1700000002, 4, 1024, 0x803FFFFFFFFFFFFF, 0x0, 0x0, 0x0, 0⟩,  -- LJ_REF0
   ⟨indBase + 0x1700000003, 4, 1024, 0xFFFFFFFFFFFF, 0x0, 0x0, 0x0, 0⟩]  -- LJ_REF1

/-- The registers of aggregator page 0x18, beside its header. -/
def aggRows18 : List RegRow :=
  [⟨0x18080, 8, 1, 0xFFF80FFFFD, 0x0, 0x0, 0x185803E81D, 0⟩,  -- HLT_CTRL
   ⟨0x18088, 8, 1, 0xFFFFFFFFFFFFFFFF, 0x0, 0x0, 0x32001F4028A00FA, 0⟩,  -- HLT_THRESH
   ⟨0x18090, 8, 1, 0xFFFF0000FFFFFFFF, 0x0, 0x0, 0xFFFFFFFF, 0⟩,  -- HLT_BUDGET
   ⟨0x18098, 8, 1, 0xFFFFFFFFFFFFFFFF, 0x0, 0x0, 0x1, 0⟩,  -- HLT_ADV
   ⟨0x180A0, 8, 1, 0xFF00FFFFFFFFFFFF, 0x0, 0x0, 0x3800000A08100040, 0⟩,  -- HLT_MISC
   ⟨0x180A8, 8, 1, 0x0, 0x0, 0xFF, 0x0, 0⟩,  -- HLT_STATUS
   ⟨0x180B0, 8, 1, 0x0, 0x0, 0x0, 0x0, 0⟩,  -- HLT_CNT0
   ⟨0x180B8, 8, 1, 0x0, 0x0, 0x0, 0x0, 0⟩,  -- HLT_CNT1
   ⟨indBase + 0x1800000000, 2, 577, 0x0, 0x0, 0x0, 0x3E8000000000000, 0⟩,  -- HU_STAT
   ⟨indBase + 0x1800000001, 2, 577, 0x0, 0x0, 0x0, 0x0, 0⟩]  -- HU_COND

/-- The registers of aggregator page 0x19, beside its header. -/
def aggRows19 : List RegRow :=
  [⟨0x19080, 8, 1, 0xFFFF00000003, 0x0, 0x0, 0x4F4200000002, 0⟩,  -- HI_CTRL
   ⟨0x19088, 8, 1, 0x0, 0x0, 0x1F, 0x0, 0⟩,  -- HI_STATUS
   ⟨0x19090, 8, 1, 0x0, 0x0, 0x0, 0x0, 0⟩,  -- HI_CNT
   ⟨0x19098, 8, 1, 0xF0F, 0x0, 0x0, 0x404, 0⟩,  -- HI_ADMIN
   ⟨0x190A0, 8, 1, 0xFFFFFFFFFFFFFFFF, 0x0, 0x0, 0x0, 0⟩,  -- HI_ASQ_BASE
   ⟨0x190A8, 8, 1, 0xFFFFFFFFFFFFFFFF, 0x0, 0x0, 0x0, 0⟩]  -- HI_ACQ_BASE

/-- The registers of aggregator page 0x1A, beside its header. -/
def aggRows1A : List RegRow :=
  [⟨0x1A100, 32, 8, 0xFFFFFFFFFFFFFFE1, 0x0, 0x0, 0x0, 0⟩,  -- DMA_DESC
   ⟨0x1A108, 32, 8, 0x7, 0x0, 0x8, 0x0, 0⟩,  -- DMA_CTRL
   ⟨0x1A110, 32, 8, 0x0, 0x0, 0x0, 0x0, 0⟩,  -- DMA_STAT
   ⟨0x1A118, 32, 8, 0x0, 0x0, 0x0, 0x0, 0⟩]  -- DMA_CUR

/-- The registers of aggregator page 0x1B, beside its header. -/
def aggRows1B : List RegRow :=
  [⟨0x1B078, 8, 1, 0x1, 0x0, 0x0, 0x0, 0⟩,  -- PH_CTRL
   ⟨0x1B080, 8, 1, 0xF0FFF000FFFFFFFF, 0x0, 0x0, 0x0, 0⟩,  -- PH_OP
   ⟨0x1B088, 8, 1, 0xFFFFFFFFFFFFFFFF, 0x0, 0x0, 0x0, 0⟩,  -- PH_ADDR
   ⟨0x1B090, 8, 1, 0x0, 0x0, 0x0, 0x0, 0⟩,  -- PH_RESULT
   ⟨0x1B098, 8, 1, 0x0, 0x0, 0x1F, 0x0, 0⟩,  -- PH_STATUS
   ⟨0x1B0A0, 8, 1, 0x0, 0x0, 0x0, 0x0, 0⟩,  -- PH_CNT
   ⟨indBase + 0x1B00000000, 4, 4096, 0xFFFFFFFFFFFFFFFF, 0x0, 0x0, 0x0, 0⟩,  -- PH_BASE
   ⟨indBase + 0x1B00000001, 4, 4096, 0xFF3F000000FFFFFF, 0x0, 0x0, 0x1000000000000000, 0⟩,  -- PH_CFG
   ⟨indBase + 0x1B00000002, 4, 4096, 0xFFFFFFFFFFFFFFFF, 0x0, 0x0, 0xFFFFFFFFFFFF0010, 0⟩,  -- PH_THR
   ⟨indBase + 0x1B00000003, 4, 4096, 0x0, 0x0, 0x0, 0x0, 0⟩]  -- PH_STAT

/-- The rows of a page moved to another page of the same layout. -/
def rowsOnPage (page : Nat) (l : List RegRow) : List RegRow :=
  l.map fun r => { r with base := page * 4096 + r.base % 4096 }

/-- The pages that hold an indirect pair: page 0x0 of a die unit, and the aggregator pages whose chapters name indirect
entries (R454). -/
def hasIndPair (part : Part) (page : Nat) : Bool :=
  match part with
  | .du => page == 0
  | .agg => [0x2, 0x11, 0x13, 0x15, 0x16, 0x17, 0x18, 0x1B].contains page

/-- The common header of a page (Table 16-1): the words a write can change. IND_ADDR stands only where the page has a
pair; elsewhere its offset is reserved (R454). -/
def headerRows (part : Part) (page : Nat) : List RegRow :=
  [⟨page * 4096 + 0x18, 8, 1, 0x0, 0xFFFFFFFF00000FF8, 0x0, 0x0, 0⟩,  -- PG_CLR_KEY
   ⟨page * 4096 + 0x20, 8, 1, 0x1, 0x0, 0x0, 0x0, 0⟩,  -- PG_IRQ
   ⟨page * 4096 + 0x28, 8, 1, 0xFFFFFFFF00001FF8, 0x0, 0x0, 0x0, 0⟩]  -- PG_VIOL
  ++ if hasIndPair part page then [⟨page * 4096 + 0x30, 8, 1, 0x0, 0x80000000FFFFFFFF, 0x0, 0x0, 0⟩] else []  -- IND_ADDR

/-- The registers of a die unit page, header aside (Table 16-2). -/
def duRowsOf (page : Nat) : List RegRow :=
  match page with
  | 0x00 => duRows00
  | 0x01 => duRows01
  | 0x02 => duRows02
  | 0x03 => duRows03
  | 0x04 => duRows04
  | 0x05 => duRows04
  | 0x06 => duRows06
  | 0x07 => duRows07
  | 0x08 => duRows08
  | 0x09 => duRows09
  | 0x0A => duRows0A
  | 0x0B => duRows0B
  | 0x0C => duRows0C
  | 0x0D => duRows0D
  | _ => []

/-- The registers of an aggregator page, header aside (Table 16-3): its own pages, the time unit with the layout of die
unit page 0x2, the recorder window with that of page 0xD (BANK_READY is 0 there after reset), and the sixteen tocsin
MACs with that of page 0xB. -/
def aggRowsOf (page : Nat) : List RegRow :=
  match page with
  | 0x01 => rowsOnPage 0x01 duRows02
  | 0x03 => (rowsOnPage 0x03 duRows0D).map fun r =>
      if r.base = 0x3088 then { r with reset := 0 } else r
  | 0x00 => aggRows00
  | 0x02 => aggRows02
  | 0x04 => aggRows04
  | 0x10 => aggRows10
  | 0x11 => aggRows11
  | 0x12 => aggRows12
  | 0x13 => aggRows13
  | 0x14 => aggRows14
  | 0x15 => aggRows15
  | 0x16 => aggRows16
  | 0x17 => aggRows17
  | 0x18 => aggRows18
  | 0x19 => aggRows19
  | 0x1A => aggRows1A
  | 0x1B => aggRows1B
  | p => if 0x20 ≤ p ∧ p < 0x30 then rowsOnPage p duRows0B else []

end Sys2Proof.Machine
end

