-- ==== Sys2Proof/Machine/Regs.lean ====
section
/-!
DEFINITION. The register file: what a register holds after reset, reading and writing a field, saturating counts, and
status events with their sequence number (R10, R459). Every register of both parts has its one home here.
-/
namespace Sys2Proof.Machine

/-- The page a key lies on. -/
def pageOf (key : Nat) : Nat := if indBase ≤ key then (key - indBase) / 0x100000000 else key / 4096

/-- The index of a key within a row of the map, where it lies in that row. -/
def RegRow.index (r : RegRow) (key : Nat) : Option Nat :=
  if r.base ≤ key ∧ (key - r.base) % r.stride = 0 ∧ (key - r.base) / r.stride < r.count
  then some ((key - r.base) / r.stride) else none

/-- The rows of the register map on the page of a key. -/
def rowsAt (part : Part) (page : Nat) : List RegRow :=
  (match part with | .du => duRowsOf page | .agg => aggRowsOf page) ++ headerRows part page

/-- The row of the map that names a key, with the index in it. -/
def rowOf (part : Part) (key : Nat) : Option (RegRow × Nat) :=
  (rowsAt part (pageOf key)).findSome? fun r => (r.index key).map fun i => (r, i)

/-- The reset value of a register: the Reset column of its field map, zero where no map names it (R6). -/
def resetWord (part : Part) (key : Nat) : W64 :=
  match rowOf part key with
  | some (r, i) => BitVec.ofNat 64 (r.reset + i * r.step)
  | none => 0

/-- The register file after the reset that sets every page to its Reset column. -/
def RegFile.reset (part : Part) : RegFile := ⟨part, []⟩

/-- The word a register holds. -/
def RegFile.word (r : RegFile) (key : Nat) : W64 := storeGet (resetWord r.part key) r.words key

/-- The register file with one register holding another word. -/
def RegFile.setWord (r : RegFile) (key : Nat) (w : W64) : RegFile :=
  { r with words := storeSet (resetWord r.part key) r.words key w }

/-- The value of a field. -/
def RegFile.get (r : RegFile) (f : Fld) : Nat := bits (r.word f.reg).toNat f.hi f.lo

/-- The register file with one field holding another value. -/
def RegFile.set (r : RegFile) (f : Fld) (v : Nat) : RegFile :=
  r.setWord f.reg (BitVec.ofNat 64 (setBits (r.word f.reg).toNat f.hi f.lo v))

/-- A one-bit field, or any field, read as a truth value. -/
def RegFile.on (r : RegFile) (f : Fld) : Bool := decide (r.get f ≠ 0)

/-- A signed field (R8). -/
def RegFile.getI (r : RegFile) (f : Fld) : Int := signed (f.hi + 1 - f.lo) (r.get f)

/-- The register file with a signed field holding another value. -/
def RegFile.setI (r : RegFile) (f : Fld) (v : Int) : RegFile := r.set f (unsigned (f.hi + 1 - f.lo) v)

/-- A saturating count advanced. -/
def RegFile.inc (r : RegFile) (f : Fld) (n : Nat := 1) : RegFile :=
  r.set f (satAdd (f.hi + 1 - f.lo) (r.get f) n)

/-- A count that wraps modulo its width, advanced. -/
def RegFile.incWrap (r : RegFile) (f : Fld) (n : Nat := 1) : RegFile := r.set f (r.get f + n)

/-- The field at the same offset of another page with the same layout. -/
def Fld.onPage (f : Fld) (page : Nat) : Fld := { f with reg := page * 4096 + f.reg % 4096 }

/-- A status event of a page: EVSEQ advances, modulo 2^32 (R459). -/
def RegFile.event (r : RegFile) (page : Nat) : RegFile := r.incWrap (PG_SEQ_EVSEQ page)

/-- A condition that sets one W1C-SEQ bit occurs: the bit is set and the page's EVSEQ advances (R459). -/
def RegFile.raise (r : RegFile) (f : Fld) : RegFile := (r.set f 1).event (pageOf f.reg)

/-- One occurrence that sets several W1C-SEQ bits of a page is one status event (R459). -/
def RegFile.raiseAll (r : RegFile) (page : Nat) (fs : List Fld) : RegFile :=
  (fs.foldl (fun r f => r.set f 1) r).event page

/-- The W1C-SEQ bits of a register. -/
def w1cMask (part : Part) (key : Nat) : Nat :=
  match rowOf part key with
  | some (r, _) => r.w1c
  | none => 0

/-- PENDING of a page: some W1C-SEQ bit of the page is set, its indirect words included (Table 16-1, R459). -/
def RegFile.pending (r : RegFile) (page : Nat) : Bool :=
  r.words.any fun e => decide (pageOf e.1 = page) && decide (e.2.toNat &&& w1cMask r.part e.1 ≠ 0)

/-- The registers of a page returned to their reset values, some keys excepted. -/
def RegFile.resetPage (r : RegFile) (page : Nat) (keep : Nat → Bool := fun _ => false) : RegFile :=
  { r with words := r.words.filter fun e => decide (pageOf e.1 ≠ page) || keep e.1 }

end Sys2Proof.Machine
end

