-- ==== Sys2Proof/Machine/Time.lean ====
section
/-!
DEFINITION. Fleet Time: ticking, stamps and their correction, the PTP exchange, the servo, losses, jumps and switchover
(chapter "Fleet Time, Postmarks and Timed Triggers", R33 to R57). Shared by the die unit's time client (page 0x2) and
the slave side of the aggregator's time unit (page 0x001).
-/
namespace Sys2Proof.Machine

/-- A part's register file together with its time client: what every operation of this file reads and writes. -/
structure TimeView where
  regs : RegFile
  tc : TimeClient
  deriving DecidableEq, Repr

/-- One nanosecond of Fleet Time in units of 2^-16 ns (R12). -/
abbrev nsU : Nat := 65536

/-- One quarter nanosecond, the interpolator's resolution (R33), in units of 2^-16 ns. -/
abbrev quarterU : Nat := 16384

/-- The page of the time client registers of a part (R68). -/
def tcPage : Part → Nat
  | .du => 0x2
  | .agg => 0x1

/-- A time client field on the page of the part. -/
def TimeView.fld (v : TimeView) (f : Fld) : Fld := f.onPage (tcPage v.regs.part)

def TimeView.get (v : TimeView) (f : Fld) : Nat := v.regs.get (v.fld f)
def TimeView.getI (v : TimeView) (f : Fld) : Int := v.regs.getI (v.fld f)
def TimeView.set (v : TimeView) (f : Fld) (n : Nat) : TimeView := { v with regs := v.regs.set (v.fld f) n }
def TimeView.setI (v : TimeView) (f : Fld) (n : Int) : TimeView := { v with regs := v.regs.setI (v.fld f) n }
def TimeView.inc (v : TimeView) (f : Fld) (n : Nat := 1) : TimeView := { v with regs := v.regs.inc (v.fld f) n }
def TimeView.raiseAll (v : TimeView) (fs : List Fld) : TimeView :=
  { v with regs := v.regs.raiseAll (tcPage v.regs.part) (fs.map v.fld) }

def Dom.other : Dom → Dom
  | .pri => .red
  | .red => .pri

def Dom.code : Dom → Nat
  | .pri => 0
  | .red => 1

def Dom.ofCode (n : Nat) : Dom := if n = 0 then .pri else .red

/-! ### Servo states (Table 2-3) -/

abbrev freerun : Nat := 0
abbrev acquire : Nat := 1
abbrev track : Nat := 2
abbrev lockedSt : Nat := 3
abbrev holdover : Nat := 4
abbrev invalidSt : Nat := 5

/-- The TC_STATUS field of a domain's servo state. -/
def stateFld : Dom → Fld
  | .pri => TC_STATUS_PRI_STATE
  | .red => TC_STATUS_RED_STATE

/-- The register of a domain's filtered offset. -/
def offsetFld : Dom → Fld
  | .pri => TC_OFFSET_PRI
  | .red => TC_OFFSET_RED

def TimeView.servo (v : TimeView) : Dom → Servo
  | .pri => v.tc.pri
  | .red => v.tc.red

def TimeView.modServo (v : TimeView) (d : Dom) (f : Servo → Servo) : TimeView :=
  match d with
  | .pri => { v with tc := { v.tc with pri := f v.tc.pri } }
  | .red => { v with tc := { v.tc with red := f v.tc.red } }

/-- Table 2-3 code of a domain's servo. -/
def TimeView.state (v : TimeView) (d : Dom) : Nat := v.get (stateFld d)

/-- The active domain (TC_STATUS.ACTIVE). -/
def TimeView.active (v : TimeView) : Dom := Dom.ofCode (v.get TC_STATUS_ACTIVE)

/-- Whether an instance runs (TC_CTRL.PRI_EN, RED_EN). -/
def TimeView.enabled (v : TimeView) : Dom → Bool
  | .pri => v.get TC_CTRL_PRI_EN = 1
  | .red => v.get TC_CTRL_RED_EN = 1

/-- A domain's servo enters a state; HOLDOVER keeps the last frequency and stops slewing the active domain. -/
def TimeView.enter (v : TimeView) (d : Dom) (st : Nat) : TimeView :=
  let v1 := v.set (stateFld d) st
  let v2 := v1.modServo d fun s =>
    { s with near := if st = track ∨ st = lockedSt then s.near else 0,
             everLocked := if st = freerun then false else s.everLocked || decide (st = lockedSt),
             holdSince := if st = holdover ∧ v.state d ≠ holdover then v.tc.mono else s.holdSince }
  if st = holdover ∧ d = v.active then { v2 with tc := { v2.tc with slew := 0 } } else v2

/-- Time quality of a servo state (Table 2-12): locked, tracking or acquiring, holdover, invalid. -/
def qualityOf (st : Nat) : Nat :=
  if st = lockedSt then 0 else if st = acquire ∨ st = track then 1 else if st = holdover then 2 else 3

/-- The quality a stamp carries now (Table 2-3, R36): that of the active domain, invalid while the reference is lost. -/
def TimeView.quality (v : TimeView) : Nat := if v.tc.refLost then 3 else qualityOf (v.state v.active)

/-! ### Ticks and stamps -/

/-- The bound of the frequency trim per 40 ns period, in 2^-16 ns: 20 ppm on a die unit, 100 ppm on an aggregator
(Table 2-4). -/
def freqBound : Part → Int
  | .du => 52
  | .agg => 262

/-- The bound of the phase slew per 40 ns period, in 2^-16 ns: 10 ns per ms (Table 2-4). -/
abbrev slewBound : Int := 26

/-- The switch residual falls toward zero at 1 ns per second: 65,536 units of 2^-16 ns in 25,000,000 periods (R55);
local time moves with it. -/
def TimeView.reduceResid (v : TimeView) : TimeView :=
  let res := v.getI TC_SWITCH_RESID
  if res = 0 then { v with tc := { v.tc with residAcc := 0 } }
  else
    let acc := v.tc.residAcc + 65536
    if acc < 25000000 then { v with tc := { v.tc with residAcc := acc } }
    else
      let d : Int := if 0 < res then 1 else -1
      let v1 := v.setI TC_SWITCH_RESID (res - d)
      { v1 with tc := { v1.tc with residAcc := acc - 25000000, now := ((v1.tc.now : Int) + d).toNat,
                                   pri := { v1.tc.pri with estimate := v1.tc.pri.estimate.map (· + d) },
                                   red := { v1.tc.red with estimate := v1.tc.red.estimate.map (· + d) } } }

/-- One reference period passes: local time gains 40 ns plus the trim (R33), unless the reference is lost, when it holds
(R36; the free-running count goes on, log 11). -/
def TimeView.tick (v : TimeView) : TimeView :=
  let t := { v.tc with mono := v.tc.mono + 40, winTicks := v.tc.winTicks + 1 }
  if v.tc.refLost then { v with tc := t }
  else
    TimeView.reduceResid { v with tc := { t with now := ((t.now : Int) + 40 * 65536 + t.freq + t.slew).toNat } }

/-- Local Fleet Time `q` quarter nanoseconds after the last reference edge, in 2^-16 ns; held while the reference is
lost (R33, R36). -/
def TimeView.at_ (v : TimeView) (q : Nat) : Nat := if v.tc.refLost then v.tc.now else v.tc.now + q * quarterU

/-- A stamp as a die unit produces it: fraction bits [13:0] are zero (R13, R33). -/
def TimeView.stamp (v : TimeView) (q : Nat) : Nat := v.at_ q / quarterU * quarterU

/-- Whole nanoseconds of a Fleet Time (R12). -/
def nsOf (t : Nat) : Nat := t / nsU

/-- A postmark: nanoseconds, then fraction, both in network byte order (R13). -/
def postmark (t : Nat) : List Byte := beBytes 8 (t / nsU) ++ beBytes 2 (t % nsU)

/-- A read of TC_NOW_NS latches the matching fraction and quality (Table 2-8); on a die unit fraction bits [13:0] read
zero (R13). -/
def TimeView.readNow (v : TimeView) (q : Nat) : TimeView :=
  let t := match v.regs.part with | .du => v.stamp q | .agg => v.at_ q
  ((v.set TC_NOW_NS (nsOf t)).set TC_NOW_FRAC_FRACTION (t % nsU)).set TC_NOW_FRAC_QUALITY v.quality

/-! ### Losses, jumps and switchover -/

/-- Every offset measured against local time moves with a step of it, and an exchange in progress is not used. -/
def Servo.shift (s : Servo) (d : Int) : Servo :=
  { s with estimate := s.estimate.map (· + d), refShift := s.refShift + d, t1 := none, t2 := none, t3 := none, reqOpen := none, syncSeq := none }

/-- Local time is moved by `d` at once: the phase step of ACQUIRE or ACCEPT_JUMP. The offset registers keep the last
filtered value (Table 2-8; log 116). -/
def TimeView.stepLocal (v : TimeView) (d : Int) : TimeView :=
  { v with tc := { v.tc with now := ((v.tc.now : Int) + d).toNat, pri := v.tc.pri.shift d, red := v.tc.red.shift d } }

/-- The last filtered offset of a domain as it stands against local time now (R50). -/
def TimeView.filtered (v : TimeView) (d : Dom) : Int := v.getI (offsetFld d) + (v.servo d).refShift

/-- A step that acts on peals, gates and trace, and sets STEPPED (R36, R54, R62, R65); `quality` is the one in force before
it. -/
def TimeView.stepMarked (v : TimeView) (d : Int) (quality : Nat) : TimeView :=
  let v1 := (v.stepLocal d).raiseAll [TC_STATUS_STEPPED]
  let old := v1.tc.stepReq.getD (0, quality)
  { v1 with tc := { v1.tc with stepReq := some (old.1 + d, old.2) } }

/-- No switch residual is held: a phase step puts local time on the estimate itself (R48, R54; log 123). -/
def TimeView.dropResid (v : TimeView) : TimeView :=
  let v1 := v.setI TC_SWITCH_RESID 0
  { v1 with tc := { v1.tc with residAcc := 0 } }

/-- The jump threshold in 2^-16 ns; values below 16 ns act as 16 (Table 2-8). -/
def TimeView.jumpThresh (v : TimeView) : Int := (max 16 (v.get TC_JUMP_THRESH) * nsU : Nat)

/-- The error the servo of a domain sees: against local time and its residual for the active domain, against its own
tracked estimate for the other (R46, R55; log 12). -/
def TimeView.error (v : TimeView) (d : Dom) (offset : Int) : Int :=
  if d = v.active then offset + v.getI TC_SWITCH_RESID
  else if (v.servo d).fDelay.isSome then offset - v.filtered d else 0

/-- A domain's measurements after a loss: nothing used since (R54), the filters start anew. -/
def Servo.forget (s : Servo) : Servo :=
  { s with estimate := none, fDelay := none, refShift := 0, far := 0, near := 0, t1 := none, t2 := none, t3 := none, reqOpen := none,
           syncSeq := none }

/-- The switch to the other domain without a step: the residual starts at the last filtered difference (R55). -/
def TimeView.switchTo (v : TimeView) (dom : Dom) : TimeView :=
  let delta := v.getI TC_DOMAIN_DELTA
  let res := (match dom with | .red => delta | .pri => -delta) + v.getI TC_SWITCH_RESID
  (v.set TC_STATUS_ACTIVE dom.code).setI TC_SWITCH_RESID res

/-- A loss or a jump of a domain under the configured policy (R53 to R57); `bit` is DOMAIN_LOST or JUMP_REFUSED. A
domain in FREERUN or INVALID has nothing to lose. -/
def TimeView.lose (v : TimeView) (d : Dom) (jump : Bool) : TimeView :=
  if v.state d = freerun ∨ v.state d = invalidSt then v
  else if d ≠ v.active then (if jump then v else (v.enter d holdover).raiseAll [TC_STATUS_DOMAIN_LOST])
  else
    let o := d.other
    if v.get TC_CTRL_POLICY = 1 ∧ v.state o = lockedSt then
      let v1 := (v.enter d holdover).switchTo o
      v1.raiseAll (if jump then [TC_STATUS_SWITCHED] else [TC_STATUS_DOMAIN_LOST, TC_STATUS_SWITCHED])
    else (v.enter d holdover).raiseAll [if jump then TC_STATUS_JUMP_REFUSED else TC_STATUS_DOMAIN_LOST]

/-- A loss forgets what was measured of the domain. -/
def TimeView.loseDomain (v : TimeView) (d : Dom) : TimeView :=
  if v.state d = freerun ∨ v.state d = invalidSt then v
  else (v.lose d false).modServo d Servo.forget

/-! ### The exchange (R46, R50) -/

/-- The servo's outcome of a used exchange, drawn once: its trim, within the bounds of Table 2-4 (R49; log 10). -/
def TimeView.retrim (v : TimeView) (ctr : Nat) (st : Nat) : TimeView :=
  let fb := freqBound v.regs.part
  let sl : Int := if st = track ∨ st = lockedSt then clampI (-slewBound) slewBound (Config.servoSlew ctr) else 0
  { v with tc := { v.tc with freq := clampI (-fb) fb (Config.servoFreq ctr), slew := sl } }

/-- The filters take in a used exchange; the first one after a loss starts them (R50). -/
def TimeView.filterIn (v : TimeView) (d : Dom) (delay offset : Int) (fresh : Bool) : TimeView :=
  match fresh, (v.servo d).fDelay with
  | false, some p =>
    let v1 := v.setI (offsetFld d) (Config.filterOffset (v.filtered d) offset)
    v1.modServo d fun s => { s with fDelay := some (Config.filterDelay p delay), estimate := some offset, refShift := 0, far := 0 }
  | _, _ => (v.setI (offsetFld d) offset).modServo d fun s =>
      { s with fDelay := some delay, estimate := some offset, refShift := 0, far := 0 }

/-- The inter-domain difference is published while both domains hold an estimate (R53). -/
def TimeView.publishDelta (v : TimeView) : TimeView :=
  match v.tc.pri.estimate, v.tc.red.estimate with
  | some p, some r => v.setI TC_DOMAIN_DELTA (Config.filterDelta (v.getI TC_DOMAIN_DELTA) (p - r))
  | _, _ => v

/-- The state the servo moves to at a used exchange with error `err` (Table 2-3, R54). -/
def TimeView.advance (v : TimeView) (d : Dom) (err : Int) : TimeView :=
  let near := if err.natAbs < 20 * nsU then (v.servo d).near + 1 else 0
  let v1 := v.modServo d fun s => { s with near := near }
  let st := v.state d
  if st = acquire then (if err.natAbs < 100 * nsU then v1.enter d track else v1)
  else if st = track then (if 16 ≤ near then v1.enter d lockedSt else v1)
  else if st = holdover then
    if (err.natAbs : Int) ≤ v.jumpThresh then v1.enter d track
    else if d = v.active then v1 else v1.enter d acquire
  else v1

/-- A complete exchange of a domain is judged, and used or rejected (R46, R48, R50, R53 to R55); `ctr` numbers the
servo's draw. -/
def TimeView.exchange (v : TimeView) (ctr : Nat) (d : Dom) (delay offset : Int) : TimeView :=
  let s := v.servo d
  if s.badClass ∨ v.tc.refLost then v
  else if v.state d = freerun ∨ v.state d = invalidSt then
    let v1 := (v.enter d acquire).filterIn d delay offset true
    let v2 :=
      if d = v.active then
        (if s.afterRefLoss then v1.stepMarked (-offset) v.quality else v1.stepLocal (-offset)).dropResid
      else v1
    let v3 := v2.modServo d fun s => { s with afterRefLoss := false }
    (if d = v.active then v3.retrim ctr acquire else v3).publishDelta
  else
    let late := match s.fDelay with | some p => decide (delay > p + 16 * 65536) | none => false
    let beyond := s.fDelay.isSome && decide ((offset - v.filtered d).natAbs > v.jumpThresh.toNat)
    if late then v.inc TC_COUNTS_OUTLIERS
    else if beyond ∧ s.far + 1 < 4 then
      (v.inc TC_COUNTS_OUTLIERS).modServo d fun s => { s with far := s.far + 1 }
    else if beyond then
      -- four in a row: a jump (R50), under the policy as a loss on the active domain (R53)
      let v1 := v.lose d true
      let v2 := v1.filterIn d delay offset true
      if d = v.active then v2.publishDelta else (v2.enter d acquire).publishDelta
    else
      let err := v.error d offset
      let v1 := (v.filterIn d delay offset false).advance d err
      let v2 := if d = v1.active ∧ v1.state d ≠ holdover then v1.retrim ctr (v1.state d) else v1
      v2.publishDelta

/-! ### PTP messages -/

/-- A received PTP message: the port it arrived on (aggregator), its source, domainNumber, sequenceId, correctionField in
2^-16 ns, timestamp, clockClass and grandmasterIdentity; a field its type does not carry is not read. -/
structure PtpMsg where
  port : Nat
  src : Nat
  domain : Nat
  seq : Nat
  correction : Int
  secs : Nat
  nanos : Nat
  clockClass : Nat
  gm : Nat
  deriving DecidableEq, Repr

/-- The instance a domainNumber names, where it is enabled (R41). -/
def TimeView.domOf (v : TimeView) (n : Nat) : Option Dom :=
  if v.enabled .pri ∧ v.get TC_CTRL_PRI_DOMAIN = n then some .pri
  else if v.enabled .red ∧ v.get TC_CTRL_RED_DOMAIN = n then some .red
  else none

/-- An ignored message is counted (R41). -/
def TimeView.ignoreMsg (v : TimeView) : TimeView := v.inc TC_COUNTS_IGNORED

/-- A PTP timestamp as a Fleet Time in 2^-16 ns; absent when nanosecondsField is 10^9 or more (R43). -/
def ptpTime (m : PtpMsg) : Option Int :=
  if 1000000000 ≤ m.nanos then none else some (((m.secs * 1000000000 + m.nanos) * nsU : Nat) : Int)

/-- A stamp is discarded: counted, and MAC_LAT_INVALID is set (R45). -/
def TimeView.discardStamp (v : TimeView) : TimeView :=
  (v.inc TC_COUNTS_STAMPS_DISCARDED).raiseAll [TC_STATUS_MAC_LAT_INVALID]

/-- Compatibility mode applies no latency and no strobe delay (R47). -/
def TimeView.compat (v : TimeView) : Bool := v.get TC_CTRL_COMPAT = 1

/-- D_s in 2^-16 ns (R44). -/
def TimeView.strobeDelay (v : TimeView) : Int := (v.get TC_STROBE_DELAY % 65536 * 256 : Nat)

/-- A receive strobe: the latencies are sampled, the stamp corrected, or discarded where they are not valid, in
compatibility mode too (R44, R45, R47). -/
def TimeView.rxStrobe (v : TimeView) (port : Nat) (compat : Bool) (q lIn : Nat) (valid : Bool) : TimeView :=
  let v1 := (v.set TC_MAC_LAT_VALID (b2n valid)).set TC_MAC_LAT_IN_LAT lIn
  let s : Int := (match v.regs.part with | .du => v.stamp q | .agg => v.at_ q : Nat)
  let t := if compat then s else s - (lIn % 2 ^ 24 * 256 : Nat) - v.strobeDelay
  let push (t : Option Int) (v : TimeView) : TimeView :=
    { v with tc := { v.tc with rxStamps := v.tc.rxStamps ++ [⟨port, t, v.tc.mono⟩] } }
  if valid then push (some t) v1 else push none v1.discardStamp

/-- The corrected transmit time of a strobe, absent where the latencies are not valid (R44, R45). -/
def TimeView.txTime (v : TimeView) (compat : Bool) (q lEg : Nat) (valid : Bool) : Option Int :=
  let s : Int := (match v.regs.part with | .du => v.stamp q | .agg => v.at_ q : Nat)
  if ¬ valid then none else if compat then some s else some (s - v.strobeDelay + (lEg % 2 ^ 24 * 256 : Nat))

/-- A list without its first entry that satisfies a test. -/
def dropFirst {α : Type} (p : α → Bool) : List α → List α
  | [] => []
  | a :: l => if p a then l else a :: dropFirst p l

/-- A transmit strobe: it belongs to the oldest event frame of its port whose strobe is owed (R80); a Delay_Req's time is
t3. -/
def TimeView.txStrobe (v : TimeView) (port : Nat) (compat : Bool) (q lEg : Nat) (valid : Bool) : TimeView :=
  let v1 := (v.set TC_MAC_LAT_VALID (b2n valid)).set TC_MAC_LAT_EG_LAT lEg
  let t := v.txTime compat q lEg valid
  let v2 := if t.isNone then v1.discardStamp else v1
  match v.tc.owed.find? fun o => o.port = port with
  | none => v2
  | some o =>
    let v3 := { v2 with tc := { v2.tc with owed := dropFirst (fun o => o.port = port) v.tc.owed } }
    match o.kind with
    | .delayReq => v3.modServo o.dom fun s =>
        if s.reqOpen = some o.seq then { s with t3 := t, reqOpen := if t.isSome then s.reqOpen else none } else s
    | .sync => v3

/-- A receive stamp whose frame has not come within 10 µs (R80). -/
def RxStamp.old (s : RxStamp) (mono : Nat) : Bool := decide (s.at_ + 10000 ≤ mono)

/-- Receive strobes that have had no matching frame for 10 µs yield discarded stamps (R80); one whose stamp was discarded at
its strobe is not counted again. -/
def TimeView.unmatched (v : TimeView) : TimeView :=
  let gone := v.tc.rxStamps.filter fun s => s.old v.tc.mono && s.t.isSome
  let v1 := { v with tc := { v.tc with rxStamps := v.tc.rxStamps.filter fun s => !s.old v.tc.mono } }
  gone.foldl (fun (v : TimeView) _ => v.discardStamp) v1

/-- The oldest receive stamp of a port that is not too old, paired with the frame that arrives there (R80). -/
def TimeView.takeStamp (v : TimeView) (port : Nat) : Option Int × TimeView :=
  let v1 := v.unmatched
  match v1.tc.rxStamps.find? fun s => s.port = port with
  | none => (none, v1)
  | some s => (s.t, { v1 with tc := { v1.tc with rxStamps := dropFirst (fun s => s.port = port) v1.tc.rxStamps } })

/-- The sync interval in ns: 2^-7 s, 2^-4 s in compatibility mode (Table 2-2, R47). -/
def syncInterval (compat : Bool) : Nat := if compat then 62500000 else 7812500

/-- How the slave port of a domain runs (R47): its compatibility mode, and its delay asymmetry in 2^-16 ns. On a die unit both
stand in the time client's page, on an aggregator in the port's configuration. -/
structure SlavePort where
  compat : Bool
  asym : Int
  deriving DecidableEq, Repr

/-- A of R46: zero except in compatibility mode. -/
def SlavePort.a (p : SlavePort) : Int := if p.compat then p.asym else 0

def SlavePort.interval (p : SlavePort) : Nat := syncInterval p.compat

/-- The die unit's one port. -/
def TimeView.ownPort (v : TimeView) : SlavePort := ⟨v.compat, v.getI TC_ASYM⟩

/-- The Sync of an exchange is received: its stamp is t2 (R46). `ok` is the source rule R40. -/
def TimeView.syncRx (v : TimeView) (m : PtpMsg) (ok : Bool) : TimeView :=
  let (t, v1) := v.takeStamp m.port
  match ok, v.domOf m.domain with
  | true, some d => v1.modServo d fun s =>
      { s with t1 := none, t2 := t, syncSeq := some m.seq, cSync := m.correction }
  | _, _ => v1.ignoreMsg

/-- Sync intervals without a valid pair since the last one are counted when the next pair comes (Table 2-13). -/
def TimeView.pairReceived (v : TimeView) (p : SlavePort) (d : Dom) : TimeView :=
  let s := v.servo d
  let n := (v.tc.mono - s.lastPair) / p.interval - 1 - s.missed
  let v1 := v.inc TC_COUNTS_SYNC_MISSED n
  v1.modServo d fun s => { s with lastPair := v.tc.mono, missed := 0 }

/-- A Follow_Up supplies t1 and its correction for the Sync before it (R43, R46). The pair is valid only where the Sync's
stamp stands and the domain's exchanges are used (R53). -/
def TimeView.followUpRx (v : TimeView) (p : SlavePort) (m : PtpMsg) (ok : Bool) : TimeView :=
  match ok, v.domOf m.domain, ptpTime m with
  | true, some d, some t1 =>
    let s := v.servo d
    if s.syncSeq = some m.seq then
      let v1 := v.modServo d fun s =>
        { s with t1 := some t1, cSync := s.cSync + m.correction, syncSeq := none }
      if s.t2.isSome ∧ ¬ s.badClass then v1.pairReceived p d else v1
    else v
  | _, _, _ => v.ignoreMsg

/-- A Delay_Resp completes the exchange: mean path delay and offset are computed and judged (R46). Half units are dropped
downward (log 13). -/
def TimeView.delayRespRx (v : TimeView) (p : SlavePort) (ctr : Nat) (m : PtpMsg) (ok : Bool) : TimeView :=
  match ok, v.domOf m.domain, ptpTime m with
  | true, some d, some t4 =>
    let s := v.servo d
    if s.reqOpen = some m.seq then
      match s.t1, s.t2, s.t3 with
      | some t1, some t2, some t3 =>
        let m2s := t2 - t1 - s.cSync
        let s2m := t4 - t3 - m.correction
        let v1 := v.modServo d fun s => { s with t1 := none, t2 := none, t3 := none, reqOpen := none }
        v1.exchange ctr d ((m2s + s2m) / 2) ((m2s - s2m) / 2 - p.a)
      | _, _, _ => v.modServo d fun s => { s with t3 := none, reqOpen := none }
    else v
  | _, _, _ => v.ignoreMsg

/-- An Announce is checked for clockClass and grandmaster identity (R53). -/
def TimeView.announceRx (v : TimeView) (m : PtpMsg) (ok : Bool) : TimeView :=
  match ok, v.domOf m.domain with
  | true, some d =>
    let s := v.servo d
    let bad := decide (14 ≤ m.clockClass)
    let changed := s.gm.isSome && decide (s.gm ≠ some m.gm)
    let v1 := v.modServo d fun s => { s with lastAnn := v.tc.mono, gm := some m.gm, badClass := bad }
    if (bad ∧ ¬ s.badClass) ∨ changed then v1.loseDomain d else v1
  | _, _ => v.ignoreMsg

/-- Four sync intervals without a valid pair are a Sync receipt loss (Table 2-2, R53). -/
def TimeView.syncLoss (v : TimeView) (p : SlavePort) (d : Dom) : TimeView :=
  let s := v.servo d
  if v.enabled d ∧ s.missed < 4 ∧ s.lastPair + 4 * p.interval ≤ v.tc.mono then
    let v1 := v.inc TC_COUNTS_SYNC_MISSED (4 - s.missed)
    (v1.modServo d fun s => { s with missed := 4 }).loseDomain d
  else v

/-- No Announce for 3 announce intervals of 1 s loses the domain (Table 2-2, R53). -/
def TimeView.announceTimeout (v : TimeView) (d : Dom) : TimeView :=
  let s := v.servo d
  if v.enabled d ∧ s.lastAnn + 3000000000 ≤ v.tc.mono then
    (v.modServo d fun s => { s with lastAnn := v.tc.mono }).loseDomain d
  else v

/-- The tray reference is lost: time holds, both running servos are INVALID, no domain holds an estimate (R36, R54). -/
def TimeView.refLost (v : TimeView) : TimeView :=
  if v.tc.refLost then v
  else
    let one (v : TimeView) (d : Dom) : TimeView :=
      if v.enabled d then (v.enter d invalidSt).modServo d fun s => { s.forget with afterRefLoss := true } else v
    let v1 := one (one v .pri) .red
    { v1 with tc := { v1.tc with refLost := true } }

/-- Reference edges return: counting resumes from the held value at the first of them (R36). -/
def TimeView.refReturn (v : TimeView) : TimeView := { v with tc := { v.tc with refLost := false, winTicks := 0 } }

/-- The delay lines exchange roles every 1 ms, at a reference edge (R34). -/
def TimeView.swapLines (v : TimeView) : TimeView :=
  if v.tc.lineAt + 1000000 ≤ v.tc.mono ∧ ¬ v.tc.refLost then
    { v with tc := { v.tc with line := !v.tc.line, lineAt := v.tc.mono } }
  else v

/-- ACCEPT_JUMP: local time steps to the active domain's estimate, and the domain recovers (to TRACK; log 124); ignored while
it holds none (R54). -/
def TimeView.acceptJump (v : TimeView) : TimeView :=
  let d := v.active
  if v.state d = freerun ∨ v.state d = invalidSt then v
  else match (v.servo d).estimate with
    | none => v
    | some off =>
      let v1 := (v.stepMarked (-off) v.quality).dropResid
      if v.state d = holdover then v1.enter d track else v1

/-- A privileged request for a domain: switch to it where it is LOCKED and not the active one (R56). -/
def TimeView.requestActive (v : TimeView) (d : Dom) : TimeView :=
  if d = v.active ∨ v.state d ≠ lockedSt then v else (v.switchTo d).raiseAll [TC_STATUS_SWITCHED]

/-- Disabling an instance returns its servo to FREERUN (Table 2-3); enabling one starts its loss timers. -/
def TimeView.applyEnables (v : TimeView) (wasPri wasRed : Bool) : TimeView :=
  let one (v : TimeView) (d : Dom) (was : Bool) : TimeView :=
    if v.enabled d = was then v
    else if was then (v.enter d freerun).modServo d fun _ => Servo.init
    else v.modServo d fun s => { s with lastPair := v.tc.mono, lastAnn := v.tc.mono, missed := 0 }
  one (one v .pri wasPri) .red wasRed

/-- The domainNumber of an instance. -/
def TimeView.domainNumber (v : TimeView) : Dom → Nat
  | .pri => v.get TC_CTRL_PRI_DOMAIN
  | .red => v.get TC_CTRL_RED_DOMAIN

/-- A message of the profile of Table 2-2. -/
def TimeView.message (v : TimeView) (port : Nat) (d : Dom) (kind seq secs nanos : Nat) (correction : Int)
    (logInterval : Option Int) : PtpOut :=
  { port := port, dom := d, domain := v.domainNumber d, kind := kind, seq := seq, secs := secs, nanos := nanos,
    correction := correction, clockClass := 0, gm := none, requester := 0, majorSdoId := 0x0, minorSdoId := 0x00,
    ptpTimescale := false, logInterval := logInterval }

/-- A Delay_Req leaves at each minimum delay request interval of 2^-5 s (Table 2-2). -/
def TimeView.delayReqTx (v : TimeView) (port : Nat) (d : Dom) : Option (PtpOut × TimeView) :=
  let s := v.servo d
  if v.enabled d ∧ (s.lastReq + 31250000 ≤ v.tc.mono ∨ s.lastReq = 0) then
    let v1 := v.modServo d fun s =>
      { s with reqOpen := some s.reqSeq, reqSeq := (s.reqSeq + 1) % 65536, t3 := none, lastReq := v.tc.mono }
    some (v.message port d ptpDelayReq s.reqSeq 0 0 0 none, v1)
  else none

/-- A transmitted event frame owes a strobe (R78, R80). -/
def TimeView.oweStrobe (v : TimeView) (o : PtpOwed) : TimeView := { v with tc := { v.tc with owed := v.tc.owed ++ [o] } }

/-- TC_CTRL: domain numbers above 127 are ignored; enables, a request for a domain and ACCEPT_JUMP act (R54, R56). -/
def TimeView.writeCtrl (v : TimeView) (m : Nat) : TimeView :=
  let keep (f : Fld) (x : Nat) : Nat := if bits m f.hi f.lo ≤ 127 then x else setBits x f.hi f.lo (v.get f)
  let m1 := keep TC_CTRL_RED_DOMAIN (keep TC_CTRL_PRI_DOMAIN m)
  let m2 := setBits (setBits m1 7 7 0) 3 3 0
  let v1 := ({ v with regs := v.regs.setWord (v.fld TC_CTRL_POLICY).reg (BitVec.ofNat 64 m2) }).applyEnables
    (v.enabled .pri) (v.enabled .red)
  let v2 := if bit m 3 then v1.requestActive (if bit m 6 then .red else .pri) else v1
  if bit m 7 then v2.acceptJump else v2

/-- The clockClass a boundary clock offers for a domain (Table 2-2, R52). -/
def TimeView.clockClass (v : TimeView) (d : Dom) : Nat :=
  let s := v.servo d
  let st := v.state d
  if st = lockedSt then 13
  else if ¬ s.everLocked then 248
  else if st = holdover ∧ 100000000000 < v.tc.mono - s.holdSince
      ∧ Config.holdoverBeyond (v.tc.mono - s.holdSince) then 58
  else 14

end Sys2Proof.Machine
end

