-- ==== Sys2Proof/Machine/DuBase.lean ====
section
/-!
DEFINITION. What every operation of the die unit uses: its registers and time, its fast domains, its sensor reading.
-/
namespace Sys2Proof.Machine

/-- The four fast domains (Table 3-1); the code is the bit of R73 and DU_PD. -/
inductive FastDom where
  | cnt
  | trc
  | egr
  | tcp
  deriving DecidableEq, Repr

def FastDom.code : FastDom → Nat
  | .cnt => 0
  | .trc => 1
  | .egr => 2
  | .tcp => 3

def allDoms : List FastDom := [.cnt, .trc, .egr, .tcp]

/-! ### Registers -/

def DieUnit.get (d : DieUnit) (f : Fld) : Nat := d.regs.get f
def DieUnit.on (d : DieUnit) (f : Fld) : Bool := d.regs.on f
def DieUnit.set (d : DieUnit) (f : Fld) (v : Nat) : DieUnit := { d with regs := d.regs.set f v }
def DieUnit.inc (d : DieUnit) (f : Fld) (n : Nat := 1) : DieUnit := { d with regs := d.regs.inc f n }
def DieUnit.incWrap (d : DieUnit) (f : Fld) (n : Nat := 1) : DieUnit := { d with regs := d.regs.incWrap f n }
def DieUnit.raise (d : DieUnit) (f : Fld) : DieUnit := { d with regs := d.regs.raise f }
def DieUnit.raiseAll (d : DieUnit) (page : Nat) (fs : List Fld) : DieUnit :=
  { d with regs := d.regs.raiseAll page fs }

/-! ### Time -/

def DieUnit.view (d : DieUnit) : TimeView := ⟨d.regs, d.tc⟩
def DieUnit.withView (d : DieUnit) (v : TimeView) : DieUnit := { d with regs := v.regs, tc := v.tc }

/-- A stamp `q` quarter nanoseconds after the last reference edge (R33). -/
def DieUnit.stamp (d : DieUnit) (q : Nat) : Nat := d.view.stamp q
def DieUnit.quality (d : DieUnit) : Nat := d.view.quality
/-- Nanoseconds of the free-running count. -/
def DieUnit.mono (d : DieUnit) : Nat := d.tc.mono

/-! ### Fast domains (R73 to R75, Table 17-11) -/

abbrev pdOff : Nat := 0
abbrev pdWaking : Nat := 1
abbrev pdOn : Nat := 2
abbrev pdEntering : Nat := 3

def DieUnit.pdState (d : DieUnit) (k : FastDom) : Nat := d.get (DU_PD_STATE k.code)
def DieUnit.isOn (d : DieUnit) (k : FastDom) : Bool := decide (d.pdState k = pdOn)

def DieUnit.pd (d : DieUnit) : FastDom → DomainPower
  | .cnt => d.pdCnt
  | .trc => d.pdTrc
  | .egr => d.pdEgr
  | .tcp => d.pdTcp

def DieUnit.setPd (d : DieUnit) (k : FastDom) (p : DomainPower) : DieUnit :=
  match k with
  | .cnt => { d with pdCnt := p }
  | .trc => { d with pdTrc := p }
  | .egr => { d with pdEgr := p }
  | .tcp => { d with pdTcp := p }

def DieUnit.setPdState (d : DieUnit) (k : FastDom) (st : Nat) : DieUnit := d.set (DU_PD_STATE k.code) st

/-- A wake cause of a domain: an OFF domain's clock is requested (R73), or the cause is held while the supply warning
counts (R480); for a domain that is waking or on it interrupts the sleep condition (R75); the trace domain past its SLEEP packet still powers
down, and wakes again (R148). -/
def DieUnit.wake (d : DieUnit) (k : FastDom) : DieUnit :=
  if d.pdState k ≠ pdOff then
    let d1 := d.setPd k { d.pd k with idle := 0 }
    if k = .trc ∧ d.trc.sleeping then { d1 with trc := { d1.trc with wakeAgain := true } } else d1
  else if d.on DU_SAG_WARN_NOW then
    if d.heldWake.contains k.code then d else { d with heldWake := d.heldWake ++ [k.code] }
  else (d.setPdState k pdWaking).setPd k ⟨some d.mono, false, 0⟩

/-! ### Sensors (R95) -/

/-- A reading older than 4 ms is stale, and so is one that has not come yet (R95). -/
def DieUnit.snStale (d : DieUnit) : Bool :=
  match d.sn.at_ with
  | none => true
  | some a => decide (4000000 < d.mono - a)

/-- The job armed on the die unit, with its generation (TCK_JOB). -/
def DieUnit.job (d : DieUnit) : Option (Nat × Nat) :=
  if d.on TCK_JOB_ARMED then some (d.get TCK_JOB_JOB_ID, d.get TCK_JOB_GEN) else none

/-- Job and generation as records carry them: zero when none is armed. -/
def DieUnit.jobId (d : DieUnit) : Nat := d.get TCK_JOB_JOB_ID
def DieUnit.jobGen (d : DieUnit) : Nat := d.get TCK_JOB_GEN

/-- The number of a free-value draw, and the die unit with the next one. -/
def DieUnit.draw (d : DieUnit) : Nat × DieUnit := (d.free, { d with free := d.free + 1 })

end Sys2Proof.Machine
end

