-- ==== Sys2Proof/Machine/Counters.lean ====
section
/-!
DEFINITION. The counter bank: counting, commands and latches, freeze, local snapshots, CLEAR, peals and counter reads
(R58 to R63, R101 to R130). Captures take the values that stand before the changes of an edge; changes wait in
`cnt.pend` and act when the cycle that begins at the edge is counted (R107).
-/
namespace Sys2Proof.Machine

def DieUnit.modCnt (d : DieUnit) (f : CounterBank → CounterBank) : DieUnit := { d with cnt := f d.cnt }

/-- A wrap of counter `n` sets its overflow bit and OVF: one status event (R103, R104, R459). -/
def DieUnit.wrapped (d : DieUnit) (n : Nat) : DieUnit :=
  d.raiseAll 0x3 [⟨addr_CNT_OVF (n / 64), n % 64, n % 64⟩, CNT_STATUS_OVF]

/-- A 64-bit count advanced; true where it wrapped. -/
def addWrap (w : W64) (n : Nat) : W64 × Bool := (w + BitVec.ofNat 64 n, decide (2 ^ 64 ≤ w.toNat + n))

/-- Light-set counter `n` counts (R102, R103). -/
def DieUnit.lightCount (d : DieUnit) (n amount : Nat) : DieUnit :=
  if amount = 0 then d
  else
    let (w, c) := addWrap (storeGet 0 d.light n) amount
    let d1 := { d with light := storeSet 0 d.light n w }
    if c then { d1 with lightOvf := true }.wrapped (480 + n) else d1

/-- Each busy counter whose line is high at the reference edge counts one (R102). -/
def DieUnit.lightBusy (d : DieUnit) (lines : Nat) : DieUnit :=
  (List.range 8).foldl (fun d n => d.lightCount n (b2n (bit lines n))) d

/-- Changes of level of the lt_err lines count one each (R102). -/
def DieUnit.lightErr (d : DieUnit) (levels : Nat) : DieUnit :=
  let d1 := (List.range 24).foldl
    (fun (d : DieUnit) n => d.lightCount (8 + n) (b2n (bit levels n != bit d.ltErr n))) d
  { d1 with ltErr := levels % 2 ^ 24 }

/-! ### Cycles -/

/-- The counter inputs of one cnt_clk cycle (Table 3-6); `q` places the edge at which it begins, in quarter ns after the last
reference edge. -/
structure CntInputs where
  evt : Nat
  inc : Nat
  slVld : Nat
  slCls : Nat
  q : Nat
  deriving DecidableEq, Repr

/-- Counted slots of a class (none: any class) among those below the slot width (R125). -/
def slotCount (i : CntInputs) (width : Nat) (want : Nat → Nat → Bool) : Nat :=
  ((List.range (min width 8)).filter fun j =>
    bit i.slVld j && want j (bits i.slCls (2 * j + 1) (2 * j))).length

/-- The amount a source gives for a cycle (Tables 4-2 and 4-3); internal event 2 is counted when its window is judged (R66). -/
def sourceAmount (c : CounterBank) (i : CntInputs) (kind index : Nat) : Nat :=
  match kind with
  | 0x0 => b2n (bit i.evt index)
  | 0x1 => bits i.inc (8 * index + 7) (8 * index)
  | 0x2 => slotCount i c.slotWidth fun j cls =>
      decide (cls = index % 4) && (!bit index 2 || decide (j = bits index 5 3))
  | 0x3 =>
    match index with
    | 0 => 1
    | 1 => b2n c.inCmd
    | 2 => 0
    | 3 => b2n c.edgeStart
    | 4 => b2n c.edgeEnd
    | 5 => b2n c.edgeImplicit
    | 6 => slotCount i c.slotWidth fun _ cls => decide (cls < 2)
    | 7 => slotCount i c.slotWidth fun _ _ => true
    | _ => 0
  | _ => 0

/-- A selector write is valid: no reserved source kind, index or gate (R105). -/
def selValid (w : W64) : Bool :=
  let kind := bits w.toNat 15 12
  let index := bits w.toNat 11 0
  let gate := bits w.toNat 61 60
  decide (gate ≠ 3) &&
    match kind with
    | 0x0 => decide (index < 256)
    | 0x1 => decide (index < 8)
    | 0x2 => decide (index < 64) && (bit index 2 || decide (bits index 5 3 = 0))
    | 0x3 => decide (index < 8)
    | _ => false

/-- The selectors that are not at their reset value: a main counter whose selector is at reset is disabled. -/
def DieUnit.selectors (d : DieUnit) : List (Nat × Nat) :=
  d.regs.words.filterMap fun e =>
    if 0x4800 ≤ e.1 ∧ e.1 < 0x4800 + 8 * 240 then some ((e.1 - 0x4800) / 8, e.2.toNat)
    else if 0x5800 ≤ e.1 ∧ e.1 < 0x5800 + 8 * 240 then some ((e.1 - 0x5800) / 8 + 240, e.2.toNat)
    else none

/-- The main counters that are enabled, in ascending order. -/
def DieUnit.enabledCounters (d : DieUnit) : List Nat :=
  (d.selectors.filter fun e => bit e.2 63).map (·.1)

/-- A change that was waiting acts at the edge, after its captures (R107). -/
def DieUnit.applyChange (d : DieUnit) : CntChange → DieUnit
  | .perCmd =>
    if d.on CNT_STATUS_FROZEN then d
    else
      let ns := (d.selectors.filter fun e => bit e.2 62).map (·.1)
      d.modCnt fun c => { c with main := c.main.filter fun e => !ns.contains e.1, tally := c.tally.filter fun e => !ns.contains e.1 }
  | .clear =>
    let d1 := d.modCnt fun c => { c with main := [], tally := [] }
    let d2 := (List.range 7).foldl (fun (d : DieUnit) k => d.set (CNT_OVF k) 0) d1
    d2.set ⟨addr_CNT_OVF 7, 31, 0⟩ 0
  | .freeze =>
    if d.on CNT_STATUS_FROZEN then d
    else ((d.set CNT_STATUS_FROZEN 1).set CNT_CTRL_FREEZE 1).modCnt fun c => { c with freezeAt := d.mono }
  | .release timedOut =>
    if d.on CNT_STATUS_FROZEN then
      let d1 := (d.set CNT_STATUS_FROZEN 0).set CNT_CTRL_FREEZE 0
      if timedOut then d1.raise CNT_STATUS_FREEZE_TIMEOUT else d1
    else d
  | .sel n w => { d with regs := d.regs.setWord (addr_CNT_SEL n) w }
  | .slotWidth n => d.modCnt fun c => { c with slotWidth := n }

/-- A change waits for the next counter-clock edge. -/
def DieUnit.pend (d : DieUnit) (x : CntChange) : DieUnit := d.modCnt fun c => { c with pend := c.pend ++ [x] }

/-- Each enabled counter that is open under its gate adds its source's amount (R104, R110). -/
def DieUnit.countAll (d : DieUnit) (i : CntInputs) : DieUnit :=
  d.selectors.foldl (fun (d : DieUnit) e =>
    let w := e.2
    let gate := bits w 61 60
    let open_ := decide (gate = 0) || (decide (gate = 1) && d.cnt.inCmd) || (decide (gate = 2) && !d.cnt.inCmd)
    if bit w 63 && open_ then
      let a := sourceAmount d.cnt i (bits w 15 12) (bits w 11 0)
      if bits w 15 12 = 3 ∧ bits w 11 0 = 2 then
        d.modCnt fun c => { c with tally := storeSet 0 c.tally e.1 (storeGet 0 c.tally e.1 + 1) }
      else if a = 0 then d
      else
        let (v, c) := addWrap (storeGet 0 d.cnt.main e.1) a
        let d1 := d.modCnt fun c => { c with main := storeSet 0 c.main e.1 v }
        if c then d1.wrapped e.1 else d1
    else d) d

/-- The window of the counter clock is judged: flagged stretched, its cycles count for internal event 2 (Table 4-3; log 126). -/
def DieUnit.judgeTally (d : DieUnit) (stretched : Bool) : DieUnit :=
  let d1 := if stretched then d.cnt.tally.foldl (fun (d : DieUnit) e =>
      let (v, c) := addWrap (storeGet 0 d.cnt.main e.1) e.2
      let d1 := d.modCnt fun c => { c with main := storeSet 0 c.main e.1 v }
      if c then d1.wrapped e.1 else d1) d else d
  d1.modCnt fun c => { c with tally := [], stretched := stretched }

/-! ### Commands and latches (R109 to R117) -/

/-- A latch parcel is queued, or counted as dropped while 4 wait (R117). -/
def DieUnit.emitLatch (d : DieUnit) : DieUnit :=
  if d.cnt.latchQueue.length < 4 then
    (d.modCnt fun c => { c with latchQueue := c.latchQueue ++
      [⟨c.startLatch, c.endLatch, d.enabledCounters, c.cmdScaled, c.cmdGap, d.jobId, d.jobGen, false⟩] }).wake .egr
  else (d.inc CNT_COUNTS_LATCH_DROPPED_N).raise CNT_STATUS_LATCH_DROPPED

/-- The command in progress ends at an edge whose Fleet Time is `t`: its end latch is captured where its start latch was,
unless latches are held; a command whose start fell while they were held counts as missed (R114, R116). -/
def DieUnit.endLatchAt (d : DieUnit) (t : Nat) : DieUnit :=
  if d.cnt.startTaken ∧ d.on CNT_CTRL_LATCH_EN ∧ ¬ d.on CNT_STATUS_LATCH_HELD then
    let d1 := d.modCnt fun c => { c with endLatch := ⟨c.cmId, c.startLatch.cmdSeq, t, d.on CNT_STATUS_FROZEN, c.main⟩ }
    let d2 := (d1.set CNT_LATCH_T_END (nsOf t)).raise CNT_STATUS_CMD_END
    let d3 := if d.on CNT_CTRL_LATCH_HOLD then d2.set CNT_STATUS_LATCH_HELD 1 else d2
    if d.on CNT_CTRL_LATCH_EMIT then d3.emitLatch else d3
  else if d.cnt.startBlocked then (d.inc CNT_COUNTS_LATCH_MISSED_N).raise CNT_STATUS_LATCH_MISSED
  else d

/-- cm_start: the command in progress ends implicitly unless cm_end came in the same cycle, CMD_SEQ advances, the start
latch is captured, and the PER_CMD counters wait to be reset (R85, R109, R111, R112, R114). -/
def DieUnit.commandStart (d : DieUnit) (cmId q : Nat) : DieUnit :=
  if d.isOn .cnt then
    let t := d.stamp q
    let implicit := d.cnt.inCmd && !d.cnt.edgeEnd
    let d1 := if implicit then d.endLatchAt t else d
    let seq := (d1.cnt.cmdSeq + 1) % 2 ^ 32
    let en := d1.on CNT_CTRL_LATCH_EN
    let held := d1.on CNT_STATUS_LATCH_HELD
    let take := en && !held
    let d2 := d1.modCnt fun c =>
      { c with cmdSeq := seq, inCmd := true, cmId := cmId % 2 ^ 32, startTaken := take, startBlocked := held, startAt := t,
               cmdScaled := false, cmdGap := false, edgeStart := true, edgeImplicit := implicit,
               startLatch := if take then ⟨cmId % 2 ^ 32, seq, t, d.on CNT_STATUS_FROZEN, c.main⟩ else c.startLatch }
    let d3 :=
      if take then
        ((d2.set CNT_LATCH_T_START (nsOf t)).set CNT_LATCH_CMD_CMD_SEQ seq).set CNT_LATCH_CMD_CM_ID (cmId % 2 ^ 32)
      else d2
    d3.pend .perCmd
  else d

/-- cm_end: the command in progress ends; with none in progress it ends nothing, and still counts as an explicit end
(R109, R111). In the cycle of a cm_start it ended the command before, explicitly, and the cycle belongs to the new one. -/
def DieUnit.commandEnd (d : DieUnit) (q : Nat) : DieUnit :=
  if d.isOn .cnt then
    if d.cnt.edgeStart ∧ d.cnt.startAt = d.stamp q then
      d.modCnt fun c => { c with edgeEnd := true, edgeImplicit := false }
    else
      let d1 := if d.cnt.inCmd then d.endLatchAt (d.stamp q) else d
      d1.modCnt fun c => { c with edgeEnd := true, edgeStart := false, startTaken := false, startBlocked := false }
  else d

/-! ### Selectors, CLEAR, SNAP, freeze (R105, R116, R118 to R121) -/

/-- A write of CNT_SEL_n: at the next counter edge, or ignored as a whole with SEL_INVALID (R105). -/
def DieUnit.writeSelector (d : DieUnit) (n : Nat) (w : W64) : DieUnit :=
  if d.isOn .cnt then
    if selValid w then d.pend (.sel n (w &&& 0xF00000000000FFFF)) else d.raise CNT_STATUS_SEL_INVALID
  else d

def DieUnit.clearCounters (d : DieUnit) : DieUnit := if d.isOn .cnt then d.pend .clear else d

/-- SNAP: a capture of the edge, the light set at the next reference edge (R120). -/
def DieUnit.snap (d : DieUnit) (q : Nat) : DieUnit :=
  if d.isOn .cnt then
    let d1 := d.modCnt fun c =>
      { c with snapMain := c.main, snapLight := [], snapSeq := c.cmdSeq, snapLightDue := true }
    (d1.set CNT_SNAP_T (nsOf (d.stamp q))).raise CNT_STATUS_SNAP_DONE
  else d

def DieUnit.freezeCounters (d : DieUnit) : DieUnit := if d.isOn .cnt then d.pend .freeze else d
def DieUnit.releaseFreeze (d : DieUnit) : DieUnit := if d.isOn .cnt then d.pend (.release false) else d

/-- A freeze that has lasted FREEZE_MAX × 100 µs is released (R119). -/
def DieUnit.freezeTimeout (d : DieUnit) : DieUnit :=
  let m := d.get CNT_CTRL_FREEZE_MAX
  if d.isOn .cnt ∧ d.on CNT_STATUS_FROZEN ∧ m ≠ 0 ∧ d.cnt.freezeAt + m * 100000 ≤ d.mono
      ∧ ¬ d.cnt.pend.contains (.release true)
  then d.pend (.release true) else d

/-- LATCH_REL releases held latches (R116). -/
def DieUnit.latchRelease (d : DieUnit) : DieUnit :=
  if d.isOn .cnt then d.set CNT_STATUS_LATCH_HELD 0 else d

/-! ### Peals (R58 to R63, R118, R122 to R124) -/

/-- TC_PEAL_NEXT shows the T_p of the earliest armed peal, all ones when none is armed (Table 2-8). -/
def DieUnit.showPealNext (d : DieUnit) : DieUnit :=
  d.set TC_PEAL_NEXT (match minOf (d.peals.map (·.tp)) with | some t => nsOf t | none => 2 ^ 64 - 1)

/-- The answer to a PEAL-ARM (R58, R59): Table 10-4 codes OK, FULL and MISSED. -/
abbrev ackOk : Nat := 0
abbrev ackFull : Nat := 1
abbrev ackMissed : Nat := 2

/-- Armed peals stand in Fleet Time order (R58). -/
def insertPeal (p : ArmedPeal) : List ArmedPeal → List ArmedPeal
  | [] => [p]
  | a :: l => if p.tp < a.tp then p :: a :: l else a :: insertPeal p l

/-- Arms a peal: MISSED where T_p is past, FULL where 8 are armed, else armed with a wake of the counter domain
(R58, R59). -/
def DieUnit.armPeal (d : DieUnit) (p : ArmedPeal) : Nat × DieUnit :=
  if p.tp < d.tc.now then (ackMissed, d.raise TC_STATUS_PEAL_MISSED)
  else if 8 ≤ d.peals.length then (ackFull, d)
  else (ackOk, ({ d with peals := insertPeal p d.peals }.showPealNext).wake .cnt)

def DieUnit.bank (d : DieUnit) (b : Nat) : PealBank := if b = 0 then d.cnt.bank0 else d.cnt.bank1
def DieUnit.setBank (d : DieUnit) (b : Nat) (k : PealBank) : DieUnit :=
  d.modCnt fun c => if b = 0 then { c with bank0 := k } else { c with bank1 := k }

/-- PEAL_PENDING shows which banks are pending (Table 4-9). -/
def DieUnit.showPending (d : DieUnit) : DieUnit :=
  d.set CNT_STATUS_PEAL_PENDING (b2n d.cnt.bank0.pending + 2 * b2n d.cnt.bank1.pending)

/-- The free bank a snapshot goes to: the one written longer ago where both are free (R123). -/
def DieUnit.freeBank (d : DieUnit) : Option Nat :=
  match d.cnt.bank0.pending, d.cnt.bank1.pending with
  | true, true => none
  | false, true => some 0
  | true, false => some 1
  | false, false => if d.cnt.bank1.order < d.cnt.bank0.order then some 1 else some 0

/-- A bank takes a snapshot, and its registers show it (R122, Table 4-12). -/
def DieUnit.fillBank (d : DieUnit) (b : Nat) (k : PealBank) : DieUnit :=
  let d1 := d.setBank b { k with pending := true, order := d.cnt.snaps + 1 }
  let d2 := d1.modCnt fun c => { c with snaps := c.snaps + 1 }
  let tf := if b = 0 then CNT_PEAL_T0 else CNT_PEAL_T1
  let d3 := d2.set tf (nsOf k.snapT)
  let d4 := d3.set (CNT_PEAL_B_PEAL_ID b) (k.ids.headD 0)
  let d5 := ((d4.set (CNT_PEAL_B_QUALITY b) k.quality).set (CNT_PEAL_B_STEPPED b) (b2n k.stepped))
  let d6 := ((d5.set (CNT_PEAL_B_GAP b) (b2n k.gap)).set (CNT_PEAL_B_FROZEN b) (b2n k.frozen))
  ((d6.set (CNT_PEAL_B_CSTOP b) (b2n k.cstop)).showPending).wake .egr

/-- A snapshot that finds both banks pending is not taken (R123). -/
def DieUnit.pealOverrun (d : DieUnit) (n : Nat) : DieUnit :=
  (d.inc CNT_COUNTS_PEAL_OVERRUN_N n).raise CNT_STATUS_PEAL_OVERRUN

/-- The armed peals of one T_p leave the list. -/
def DieUnit.dropPeals (d : DieUnit) (tp : Nat) : DieUnit :=
  { d with peals := d.peals.filter fun p => p.tp ≠ tp }.showPealNext

/-- The peals of `tp` fire together at the counter edge of Fleet Time `t`: one snapshot for all of them (R60, R61), with
the time quality and the gap flag as given; a freeze flag freezes at that edge even when the snapshot is not taken (R118). -/
def DieUnit.firePeals (d : DieUnit) (tp t quality : Nat) (gap : Bool) : DieUnit :=
  let ps := d.peals.filter fun p => p.tp = tp
  match ps with
  | [] => d
  | p0 :: _ =>
    let d0 := d.dropPeals tp
    let d1 :=
      match d0.freeBank with
      | none => d0.pealOverrun 1
      | some b =>
        d0.fillBank b
          { pending := true, ids := ps.map (·.id), tp := tp, snapT := t, quality := quality,
            stepped := ps.any (·.stepped), gap := gap, frozen := d.on CNT_STATUS_FROZEN, cstop := false,
            cmdSeq := d.cnt.cmdSeq, main := d.cnt.main, light := (p0.light.map (·.2.2)).getD [],
            lightDue := p0.light.isNone, order := 0 }
    if ps.any (·.freeze) then d1.pend .freeze else d1

/-- The counter-clock period in 2^-16 ns, from the nominal edges of a window of 640 ns (Table 2-13). -/
def DieUnit.cntPeriod (d : DieUnit) : Nat := 640 * nsU / max 1 (d.get TC_CLKMON_NOM_NOM_COUNTER)

/-- The first edge at or after T_p, on the edge that was stamped and the period (R60): edge n lies at φ + n × P. -/
def edgeAfter (base period tp : Nat) : Nat := if tp ≤ base then base else base + ceilDiv (tp - base) (max 1 period) * max 1 period

/-- The snapshot postmark of a peal at a counter edge that is stamped at `t`: the edge itself, or, where that lies later than one
unstretched period and 0.5 ns after T_p, the first edge at or after T_p as the stamped phase places it (R60; log 127). -/
def DieUnit.snapTime (d : DieUnit) (tp t : Nat) (gap : Bool) : Nat :=
  match d.cnt.edgeAt with
  | some e =>
    if gap ∨ d.cnt.stretched ∨ t ≤ tp + d.cntPeriod + nsU / 2 then t
    else min t (edgeAfter e d.cntPeriod tp / quarterU * quarterU)
  | none => t

/-- Every armed peal whose T_p a counter edge stamped at `t` has reached fires at it, earliest T_p first (R60). -/
def DieUnit.fireDue (d : DieUnit) (t : Nat) (gap : Bool) : Nat → DieUnit
  | 0 => d
  | n + 1 =>
    match minOf (d.peals.map (·.tp)) with
    | none => d
    | some tp =>
      if tp ≤ t then (d.firePeals tp (d.snapTime tp t gap) d.quality gap).fireDue t gap n else d

/-- PEAL_FIRE: a counter edge `q` quarter nanoseconds after the last reference edge; the peals that it has reached fire (R60), on
a running counter clock (R63). -/
def DieUnit.pealFire (d : DieUnit) (q : Nat) : DieUnit :=
  if d.isOn .cnt ∧ ¬ d.cnt.stopped then d.fireDue (d.stamp q) false 8 else d

/-- The counter clock resumes: every peal whose T_p fell in the stop is snapshotted at the first edge, with the gap flag
(R63); a command in progress carries the gap flag (R115). -/
def DieUnit.cntResume (d : DieUnit) (q : Nat) : DieUnit :=
  if d.isOn .cnt then
    (d.modCnt fun c => { c with stopped := false, cmdGap := c.cmdGap || c.inCmd, edgeAt := some (d.stamp q) }).fireDue
      (d.stamp q) true 8
  else d

/-- One cnt_clk cycle. Its edge is stamped, and takes the snapshot of every peal that it has reached, with the gap flag where it
is the first edge after a stop (R60, R63); the waiting changes act; then the cycle's events are counted under the state that
holds (R104, R107, R118). -/
def DieUnit.cntCycle (d : DieUnit) (i : CntInputs) : DieUnit :=
  if d.isOn .cnt then
    let t := d.stamp i.q
    let e := if d.cnt.stopped then d.cntResume i.q
      else (d.fireDue t false 8).modCnt fun c => { c with edgeAt := some t }
    let changes := e.cnt.pend
    let d0 := e.modCnt fun c => { c with pend := [], inCmd := c.inCmd && (!c.edgeEnd || c.edgeStart) }
    let d1 := changes.foldl DieUnit.applyChange d0
    let d2 := if d1.on CNT_STATUS_FROZEN then d1.inc CNT_FROZEN_CYC else d1.countAll i
    d2.modCnt fun c => { c with edgeStart := false, edgeEnd := false, edgeImplicit := false }
  else d

/-- The counter clock has not resumed by T_p + WAIT: the light set alone is sent, counter-domain-stopped, with the
snapshot postmark of the first reference edge at or after T_p, and the time quality at it (R62, R63). -/
def DieUnit.lightSetTimeout (d : DieUnit) : DieUnit :=
  let due (p : ArmedPeal) : Bool := decide (p.tp + max 1 p.wait * 1000 * nsU ≤ d.tc.now) && p.light.isSome
  match (d.peals.filter due).head? with
  | none => d
  | some p =>
    if d.cnt.stopped ∨ ¬ d.isOn .cnt then
      let ids := (d.peals.filter fun x => x.tp = p.tp).map (·.id)
      let d0 := d.dropPeals p.tp
      let (t, quality, l) := p.light.getD (d.stamp 0, d.quality, [])
      match d0.freeBank with
      | none => d0.pealOverrun 1
      | some b =>
        d0.fillBank b
          { pending := true, ids := ids, tp := p.tp, snapT := t, quality := quality, stepped := p.stepped, gap := false,
            frozen := d.on CNT_STATUS_FROZEN, cstop := true, cmdSeq := d.cnt.cmdSeq, main := [], light := l,
            lightDue := false, order := 0 }
    else d

/-- At a reference edge of Fleet Time `t` the light set is read for every armed peal whose T_p is at or before it, for a
bank that waits for it, and for a local snapshot, before the edge's own events count (R120, R122). -/
def DieUnit.captureLight (d : DieUnit) (t : Nat) : DieUnit :=
  let ps := d.peals.map fun p =>
    if p.light.isNone ∧ p.tp ≤ t then { p with light := some (t, d.quality, d.light) } else p
  let fill (k : PealBank) : PealBank := if k.lightDue then { k with light := d.light, lightDue := false } else k
  { d with peals := ps }.modCnt fun c =>
    { c with bank0 := fill c.bank0, bank1 := fill c.bank1,
             snapLight := if c.snapLightDue then d.light else c.snapLight, snapLightDue := false }

/-- Earliest armed T_p first, every peal that a forward step has passed fires at once with the stepped flag and the quality in
force before the step (R62). -/
def DieUnit.fireStepped (d : DieUnit) (quality : Nat) : Nat → DieUnit
  | 0 => d
  | n + 1 =>
    match minOf (d.peals.map (·.tp)) with
    | none => d
    | some tp =>
      if tp ≤ d.tc.now ∧ d.isOn .cnt ∧ ¬ d.cnt.stopped then
        (d.firePeals tp (d.stamp 0) quality false).fireStepped quality n
      else d

/-- The peals a forward step has passed are marked, and fire (R62). -/
def DieUnit.stepPeals (d : DieUnit) (quality : Nat) : DieUnit :=
  let ps := d.peals.map fun p => if p.tp ≤ d.tc.now then { p with stepped := true } else p
  { d with peals := ps }.fireStepped quality 8

/-! ### Counter reads (R108, R113, R127 to R130) -/

/-- The group of a counter: main counter n is in ⌊n / 30⌋, the light set in 16 (R127). -/
def counterGroup (n : Nat) : Nat := if n < 480 then n / 30 else 16

/-- The value of counter `n` in a view, zero where the image holds none (Table 4-13). -/
def DieUnit.viewValue (d : DieUnit) (view n : Nat) : W64 :=
  let ml (m l : Store W64) : W64 := if n < 480 then storeGet 0 m n else storeGet 0 l (n - 480)
  match view with
  | 0 => ml d.cnt.main d.light
  | 1 => ml d.cnt.startLatch.main []
  | 2 => ml d.cnt.endLatch.main []
  | 3 => ml d.cnt.snapMain d.cnt.snapLight
  | 4 => ml d.cnt.bank0.main d.cnt.bank0.light
  | 5 => ml d.cnt.bank1.main d.cnt.bank1.light
  | _ => 0

/-- CMD_SEQ of a view's image (Table 4-11). -/
def DieUnit.viewSeq (d : DieUnit) (view : Nat) : Nat :=
  match view with
  | 1 => d.cnt.startLatch.cmdSeq
  | 2 => d.cnt.endLatch.cmdSeq
  | 3 => d.cnt.snapSeq
  | 4 => d.cnt.bank0.cmdSeq
  | 5 => d.cnt.bank1.cmdSeq
  | _ => d.cnt.cmdSeq

/-- The overflow bit of a counter. -/
def DieUnit.overflowed (d : DieUnit) (n : Nat) : Bool := d.on ⟨addr_CNT_OVF (n / 64), n % 64, n % 64⟩

/-- A permitted read of counter `n` answers its value and describes itself in CNT_RDINFO (R113, R128). -/
def DieUnit.readCounter (d : DieUnit) (n : Nat) : W64 × DieUnit :=
  let view := d.get CNT_VIEW_VIEW
  let per := n < 480 ∧ bit (d.regs.word (addr_CNT_SEL n)).toNat 62
  let boundary := view = 0 ∧ per ∧ d.cnt.edgeStart
  let info := b2n (decide boundary) * 2 ^ 63 + b2n (d.on CNT_STATUS_FROZEN) * 2 ^ 62 + b2n (d.overflowed n) * 2 ^ 61
    + view * 2 ^ 58 + n * 2 ^ 32 + d.viewSeq view
  (d.viewValue view n, { d with regs := d.regs.setWord addr_CNT_RDINFO (BitVec.ofNat 64 info) })

end Sys2Proof.Machine
end

