-- ==== Sys2Proof/Machine/Recorder.lean ====
section
/-!
DEFINITION. The event recorder of either part: records, rate limits, flushes and the window (R481 to R490).
-/
namespace Sys2Proof.Machine

/-- What a recorder sees of its part: the stamp of the event, the readings, and the part's identity. -/
structure RecCtx where
  t : Nat
  quality : Nat
  temp : Int
  mv : Nat
  stale : Bool
  mono : Nat
  ident : Nat
  partCode : Nat
  deriving DecidableEq, Repr

/-- A recorder with the page of registers it shows itself on. -/
structure RecView where
  regs : RegFile
  page : Nat
  rc : Recorder
  ctx : RecCtx
  deriving DecidableEq, Repr

def RecView.get (v : RecView) (f : Fld) : Nat := v.regs.get (f.onPage v.page)
def RecView.on (v : RecView) (f : Fld) : Bool := v.regs.on (f.onPage v.page)
def RecView.set (v : RecView) (f : Fld) (n : Nat) : RecView := { v with regs := v.regs.set (f.onPage v.page) n }
def RecView.inc (v : RecView) (f : Fld) : RecView := { v with regs := v.regs.inc (f.onPage v.page) }
def RecView.raise (v : RecView) (f : Fld) : RecView := { v with regs := v.regs.raise (f.onPage v.page) }
def RecView.modR (v : RecView) (f : Recorder → Recorder) : RecView := { v with rc := f v.rc }

/-! ### Record codes (Table 17-9) -/

abbrev rcPor : Nat := 0x0001
abbrev rcReset : Nat := 0x0002
abbrev rcBoot : Nat := 0x0003
abbrev rcHealth : Nat := 0x0010
abbrev rcSupplyWarn : Nat := 0x0020
abbrev rcSupplyCrit : Nat := 0x0021
abbrev rcSupplyOk : Nat := 0x0022
abbrev rcWakeFail : Nat := 0x0030
abbrev rcTime : Nat := 0x0040
abbrev rcRefLost : Nat := 0x0041
abbrev rcSuppressed : Nat := 0x00F0
abbrev rcFlushHeader : Nat := 0x00FD
abbrev rcFlushEnd : Nat := 0x00FE

/-! ### Records (R484, R485) -/

/-- A record of the current moment, its data completed to 32 bytes. -/
def RecCtx.record (c : RecCtx) (code flags suppressed : Nat) (data : List Byte) : RecIn :=
  ⟨code, flags + 2 * b2n c.stale + 4 * c.quality, c.t, c.temp, c.mv, suppressed, padTo 32 (data.take 32)⟩

/-- Bytes 0 to 55 of a record (Table 17-8). -/
def RecIn.body (r : RecIn) (rseq : Nat) : List Byte :=
  leBytes 4 rseq ++ leBytes 2 r.code ++ leBytes 1 r.flags ++ zeros 1 ++ leBytes 8 (r.t / 65536)
    ++ leBytes 2 (r.t % 65536) ++ leBytes 2 (unsigned 16 r.temp) ++ leBytes 2 r.mv ++ leBytes 2 r.suppressed ++ r.data

/-- A whole record: the body and its SEAL, whose upper half is zero in the ring (Table 17-8). -/
def sealed (body : List Byte) (id : Nat) : List Byte := body ++ leBytes 4 (crc32c body) ++ leBytes 4 id

/-- A record joins the input queue of 16 entries, or is dropped (R484); nothing is recorded with EN = 0 (Table 17-12). -/
def RecView.produce (v : RecView) (r : RecIn) : RecView :=
  if ¬ v.on REC_CTRL_EN then v
  else if v.rc.queue.length < 16 then v.modR fun c => { c with queue := c.queue ++ [r] }
  else (v.inc REC_CNT_QUEUE_DROP_N).raise REC_STATUS_QUEUE_DROP

/-- Writes one record into its slot, and REC_HEAD advances with it (R484). -/
def RecView.write (v : RecView) (r : RecIn) : RecView :=
  let h := v.get REC_HEAD_HEAD
  (v.modR fun c => { c with ring := tabPut c.ring (h % 1024) (sealed (r.body h) 0) }).set REC_HEAD_HEAD (h + 1)

/-- One queued record is written (R484). -/
def RecView.writeNext (v : RecView) : RecView :=
  match v.rc.queue with
  | [] => v
  | r :: rest => (v.modR fun c => { c with queue := rest }).write r

/-- Everything queued is written, in order. -/
def RecView.writeAll (v : RecView) : RecView :=
  (v.rc.queue.foldl (fun v r => v.write r) v).modR fun c => { c with queue := [] }

/-- An unlimited record. -/
def RecView.record (v : RecView) (code : Nat) (data : List Byte) : RecView :=
  v.produce (v.ctx.record code 0 0 data)

/-- The bucket of a rate key (R485). -/
def bucketOf (key : Nat) : Nat := (bits key 5 0) ^^^ (bits key 11 6) ^^^ (bits key 15 12)

def RecView.burst (v : RecView) : Nat := max 1 (v.get REC_CTRL_BURST)
def RecView.period (v : RecView) : Nat := max 1 (v.get REC_CTRL_PERIOD) * 100000

/-- A bucket; one that has not been used is full (log 22). -/
def RecView.bucket (v : RecView) (i : Nat) : Bucket := (tabGet v.rc.buckets i).getD ⟨v.burst, 0, 0, v.ctx.mono⟩

/-- A rate-limited record is admitted with a token, or suppressed (R485). -/
def RecView.recordLimited (v : RecView) (code key : Nat) (data : List Byte) : RecView :=
  if ¬ v.on REC_CTRL_EN then v
  else
    let i := bucketOf key
    let b := v.bucket i
    if 0 < min b.tokens v.burst then
      let at_ := if v.burst ≤ b.tokens then v.ctx.mono else b.at_
      let b' : Bucket := { b with tokens := min b.tokens v.burst - 1, count := 0, at_ := at_ }
      let f := b2n (decide (b.count ≠ 0))
      (v.modR fun c => { c with buckets := tabPut c.buckets i b' }).produce (v.ctx.record code f b.count data)
    else
      let b' : Bucket := { b with count := satAdd 16 b.count 1, key := key }
      ((v.modR fun c => { c with buckets := tabPut c.buckets i b' }).inc REC_CNT_SUPPRESSED_N).raise
        REC_STATUS_SUPPRESSED

/-- A bucket gains a token once PERIOD × 100 µs have passed; when it is full again while it counts suppressions, a
SUPPRESSED record is written and the count restarts (R485). -/
def RecView.refill (v : RecView) (i : Nat) : RecView :=
  match tabGet v.rc.buckets i with
  | none => v
  | some b =>
    if v.burst ≤ b.tokens ∨ v.ctx.mono < b.at_ + v.period then v
    else
      let n := b.tokens + 1
      let report := decide (n = v.burst) && decide (b.count ≠ 0)
      let b' : Bucket := { b with tokens := n, at_ := b.at_ + v.period, count := if report then 0 else b.count }
      let v1 := v.modR fun c => { c with buckets := tabPut c.buckets i b' }
      if report then v1.record rcSuppressed (leBytes 2 b.key ++ zeros 2 ++ leBytes 4 b.count) else v1

/-- A record of a supply event with the ns since the one before (Table 17-9). -/
def RecView.recordSupply (v : RecView) (code : Nat) : RecView :=
  (v.record code (leBytes 8 (v.ctx.mono - v.rc.lastSupply))).modR fun c => { c with lastSupply := v.ctx.mono }

/-! ### Flush banks (R486, R487) -/

/-- Words of a bank: 8,192 each. -/
abbrev bankWords : Nat := 8192

/-- The 64 bytes of a slot of a bank. -/
def Recorder.slotBytes (c : Recorder) (bank slot : Nat) : List Byte :=
  (List.range 8).flatMap fun k => leBytes 8 (storeGet 0 c.area (bank * bankWords + slot * 8 + k)).toNat

/-- A word of a bank is written. -/
def Recorder.putWord (c : Recorder) (bank slot word : Nat) (image : List Byte) : Recorder :=
  { c with area := storeSet 0 c.area (bank * bankWords + slot * 8 + word) (BitVec.ofNat 64 (le image (8 * word) 8)) }

/-- The FLUSH_ID of a bank's header, where the header is valid (R486). -/
def Recorder.bankId (c : Recorder) (bank : Nat) : Option Nat :=
  let s := c.slotBytes bank 0
  if le s 4 2 = rcFlushHeader ∧ le s 56 4 = crc32c (s.take 56) ∧ le s 60 4 = le s 24 4 then some (le s 24 4) else none

/-- The bank of the next flush: the one whose header is invalid or has the lesser FLUSH_ID (R487). -/
def Recorder.targetBank (c : Recorder) : Nat :=
  match c.bankId 0, c.bankId 1 with
  | none, _ => 0
  | _, none => 1
  | some a, some b => if b < a then 1 else 0

/-- The greatest valid FLUSH_ID, with its bank. -/
def Recorder.lastBank (c : Recorder) : Option (Nat × Nat) :=
  match c.bankId 0, c.bankId 1 with
  | none, none => none
  | some a, none => some (a, 0)
  | none, some b => some (b, 1)
  | some a, some b => if a < b then some (b, 1) else some (a, 0)

/-- A record of a flush bank that no ring slot holds: FLUSH-HEADER or FLUSH-END. -/
def RecView.bankRecord (v : RecView) (id code : Nat) (data : List Byte) : List Byte :=
  sealed ((v.ctx.record code 0 0 data).body (Config.flushRseq id).toNat) id

/-- The ring record of an RSEQ, while its slot still holds it. -/
def Recorder.ringRec (c : Recorder) (rseq : Nat) : Option (List Byte) :=
  match tabGet c.ring (rseq % 1024) with
  | some b => if le b 0 4 = rseq % 2 ^ 32 then some b else none
  | none => none

/-- A flush begins in the target bank with its header (R486, R487). -/
def RecView.startFlush (v : RecView) (cause : Nat) : RecView :=
  let id := (v.get REC_FLUSH_LAST_ID + 1) % 2 ^ 32
  let bank := v.rc.targetBank
  let newest := v.get REC_HEAD_HEAD - 1
  let hdr := v.bankRecord id rcFlushHeader
    (leBytes 4 id ++ leBytes 1 cause ++ leBytes 1 bank ++ leBytes 2 v.ctx.partCode ++ leBytes 4 newest
      ++ leBytes 4 v.ctx.ident)
  let v1 := v.modR fun c =>
    { c with flush := some { id := id, cause := cause, bank := bank, newest := newest, slot := 0, word := 0, image := hdr,
                             ending := false, yield_ := false },
             trigger := none }
  let v2 := ((v1.set REC_FLUSH_LAST_ID id).set REC_FLUSH_LAST_BANK bank).set REC_FLUSH_CAUSE cause
  ((v2.set REC_FLUSH_COMMITTED 0).set REC_STATUS_FLUSHING 1).inc REC_CNT_FLUSHES_N

abbrev causeFault : Nat := 1
abbrev causePower : Nat := 2
abbrev causeCommanded : Nat := 3

/-- A trigger of a fault flush: none within 10 s of the last one, queued behind a running flush, else due (R487). -/
def RecView.triggerFlush (v : RecView) (cause : Nat) : RecView :=
  let recent := match v.rc.lastFault with
    | some t => decide (v.ctx.mono < t + 10000000000)
    | none => false
  if recent then v
  else if v.rc.flush.isSome then v.modR fun c => { c with queued := some (c.queued.getD cause) }
  else v.modR fun c => { c with trigger := some (c.trigger.getD cause) }

/-- A fault flush that is due begins, unless one runs (R487). -/
def RecView.beginFault (v : RecView) : RecView :=
  match v.rc.trigger, v.rc.flush with
  | some cause, none => (v.startFlush cause).modR fun c => { c with lastFault := some v.ctx.mono }
  | _, _ => v

/-- A queued fault flush begins once no flush runs (R487). -/
def RecView.beginQueued (v : RecView) : RecView :=
  match v.rc.queued, v.rc.flush with
  | some cause, none =>
    (v.startFlush cause).modR fun c => { c with lastFault := some v.ctx.mono, queued := none }
  | _, _ => v

/-- The running flush ends without FLUSH-END: abandoned (R482, R483). -/
def RecView.abandonFlush (v : RecView) : RecView :=
  match v.rc.flush with
  | none => v
  | some _ =>
    (((v.modR fun c => { c with flush := none }).set REC_STATUS_FLUSHING 0).inc REC_CNT_ABANDONED_N).raise
      REC_STATUS_ABANDONED

/-- The slot being written is committed, and the flush moves to the next: the next older ring record, then FLUSH-END
(R486); a fault flush that gives way ends here, and the power flush begins (R481). -/
def RecView.nextSlot (v : RecView) (f : Flush) : RecView :=
  let done := if f.slot = 0 ∨ f.ending then v.get REC_FLUSH_COMMITTED else f.slot
  let v1 := v.set REC_FLUSH_COMMITTED done
  if f.yield_ then
    (((v1.modR fun c => { c with flush := none }).raise REC_STATUS_SUPERSEDED).startFlush causePower)
  else if f.ending then
    let v2 := ((v1.modR fun c => { c with flush := none }).set REC_STATUS_FLUSHING 0).raise REC_STATUS_FLUSH_DONE
    if v2.rc.queued = some causePower then (v2.modR fun c => { c with queued := none }).startFlush causePower else v2
  else
    let slot := f.slot + 1
    let older := if slot ≤ 1022 ∧ slot ≤ f.newest + 1 then v.rc.ringRec (f.newest + 1 - slot) else none
    let f' : Flush := match older with
      | some b => { f with slot := slot, word := 0, image := sealed (b.take 56) f.id }
      | none =>
        { f with slot := slot, word := 0, ending := true, image := v.bankRecord f.id rcFlushEnd (leBytes 4 done) }
    v1.modR fun c => { c with flush := some f' }

/-- The word in progress is acknowledged (R486, R96). -/
def RecView.wordAck (v : RecView) : RecView :=
  match v.rc.flush with
  | none => v
  | some f =>
    let v1 := v.modR fun c => c.putWord f.bank f.slot f.word f.image
    if f.word < 7 then v1.modR fun c => { c with flush := some { f with word := f.word + 1 } } else v1.nextSlot f

/-- The slot in progress is programmed whole (IFA-40, R486). -/
def RecView.slotDone (v : RecView) : RecView :=
  match v.rc.flush with
  | none => v
  | some f =>
    ((List.range 8).foldl (fun (v : RecView) k => v.modR fun c => c.putWord f.bank f.slot k f.image) v).nextSlot f

/-- A flush word was not acknowledged in time (R483). -/
def RecView.wordTimeout (v : RecView) : RecView :=
  if v.rc.flush.isSome then (v.set REC_STATUS_ERR 3).abandonFlush else v

/-- The supply warning: SUPPLY-WARN is the newest record of the flush, a running fault flush gives way, and otherwise a
power flush begins where `ready`; a running power flush is followed by a new one (R481, R483, R488). -/
def RecView.supplyWarn (v : RecView) (ready : Bool) : RecView :=
  let v1 := (v.writeAll.recordSupply rcSupplyWarn).writeAll
  match v1.rc.flush with
  | some f =>
    if f.cause = causePower then v1.modR fun c => { c with queued := some causePower }
    else v1.modR fun c => { c with flush := some { f with yield_ := true } }
  | none => if ready then v1.startFlush causePower else v1.raise REC_STATUS_NOT_READY

/-- The headers of both banks are read after power-on, and the POR record is produced (R475, Table 17-9). -/
def RecView.powerOn (v : RecView) : RecView :=
  let last := v.rc.lastBank
  let id := (last.map (·.1)).getD 0
  let bank := (last.map (·.2)).getD 0
  let valid := b2n (v.rc.bankId 0).isSome + 2 * b2n (v.rc.bankId 1).isSome
  let v1 := (v.set REC_FLUSH_LAST_ID id).set REC_FLUSH_LAST_BANK bank
  v1.record rcPor (leBytes 4 id ++ leBytes 1 bank ++ leBytes 1 valid)

/-! ### The window (R489) -/

/-- The window shows 64 bytes, or zero. -/
def RecView.showWindow (v : RecView) (b : List Byte) : RecView :=
  (List.range 8).foldl (fun (v : RecView) k => v.set (REC_WIN_WORD k) (le b (8 * k) 8)) v

/-- A cursor is loaded: READY clears, the window is loaded from the source, and AHEAD or OVERWRITTEN is shown (R489).
A bank is not read while the supply warning holds (R481): the window then reads zero. -/
def RecView.loadWindow (v : RecView) (warn : Bool) : RecView :=
  let cur := v.get REC_CURSOR_CURSOR
  let v0 := (v.set REC_STATUS_READY 0).showWindow []
  match v.get REC_CTRL_SRC with
  | 0 =>
    if v.get REC_HEAD_HEAD ≤ cur then (v0.set REC_STATUS_ERR 1).modR fun c => { c with window := [] }
    else match v.rc.ringRec cur with
    | some b => (v0.set REC_STATUS_ERR 0).modR fun c => { c with window := b }
    | none => (v0.set REC_STATUS_ERR 2).modR fun c => { c with window := [] }
  | s =>
    (v0.set REC_STATUS_ERR 0).modR fun c =>
      { c with window := if warn then [] else c.slotBytes (s - 1) (cur % 1024) }

/-- The window holds the record at the cursor (R489). -/
def RecView.windowLoaded (v : RecView) : RecView := (v.showWindow v.rc.window).set REC_STATUS_READY 1

/-- A read of REC_WIN7 with AUTO advances the cursor and loads the next record (R489). -/
def RecView.autoAdvance (v : RecView) (warn : Bool) : RecView :=
  if v.on REC_CTRL_AUTO then (v.set REC_CURSOR_CURSOR (v.get REC_CURSOR_CURSOR + 1)).loadWindow warn else v

end Sys2Proof.Machine
end

