-- ==== Sys2Proof/Machine/Tocsin.lean ====
section
/-!
DEFINITION. The tocsin bus: the MAC of either part, and the die unit's alarms and beacon watch (R224 to R231).
-/
namespace Sys2Proof.Machine

/-! ### Frames (Tables 8-10, 8-11) -/

/-- CRC-16 of a tocsin frame (Table 8-10). -/
def crc16 (l : List Byte) : Nat := crcBytes 16 0x1021 0xFFFF l

abbrev tocAlarm : Nat := 0x01
abbrev tocAlarmAck : Nat := 0x02
abbrev tocChipReset : Nat := 0x03
abbrev tocBeacon : Nat := 0x04
abbrev tocBroadcast : Nat := 0xFF

/-- A frame after its delimiter (Table 8-10). -/
def tocBytes (dst src type : Nat) (payload : List Byte) : List Byte :=
  let body := beBytes 1 dst ++ beBytes 1 src ++ beBytes 1 type ++ beBytes 1 payload.length ++ payload
  body ++ beBytes 2 (crc16 body)

/-- The bits of a byte, most significant first (R225). -/
def tocBits (b : Byte) : List Bool := (List.range 8).map fun i => bit b.toNat (7 - i)

/-- The Manchester levels of bytes: low then high for 1, high then low for 0 (R225). -/
def manchester (l : List Byte) : List Bool := (l.flatMap tocBits).flatMap fun b => [!b, b]

/-- Preamble and delimiter (R225). -/
def tocPreamble : List Byte := [0x55, 0x55, 0x57]

/-- The line state of a whole frame: preamble, delimiter and the fields of Table 8-10 (R97, R225). -/
def tocLine (frame : List Byte) : List Bool := manchester (tocPreamble ++ frame)

/-- The bits that Manchester levels spell, to the first bit without its mid-bit transition, where the frame ends (R225). -/
def unmanchester : List Bool → List Bool
  | a :: b :: rest => if a = b then [] else b :: unmanchester rest
  | _ => []

/-- Whole bytes of a bit string, most significant bit first. -/
def tocBytesOf : Nat → List Bool → List Byte
  | 0, _ => []
  | n + 1, l => BitVec.ofNat 8 ((l.take 8).foldl (fun v b => 2 * v + b2n b) 0) :: tocBytesOf n (l.drop 8)

/-- The frame that a node recovers from the levels on ts_rxd, after its delimiter; none where no preamble and delimiter begin
it (R225). -/
def tocHeard (rxd : List Bool) : Option (List Byte) :=
  let bits := unmanchester rxd
  let l := tocBytesOf (bits.length / 8) bits
  if l.take 3 = tocPreamble then some (l.drop 3) else none

/-- The bus is idle once 2 bit times have passed without a transition: its idle time after `quiet` bit times (R225, R227; log
131). -/
def tocIdle (quiet : Nat) : Nat := quiet - 2

/-- The CRC and LEN of a received frame are good (R226). -/
def tocGood (l : List Byte) : Bool :=
  let n := be l 3 1
  decide (n ≤ 64) && decide (l.length = 6 + n) && decide (crc16 (l.take (4 + n)) = be l (4 + n) 2)

def tocDst (l : List Byte) : Nat := be l 0 1
def tocSrc (l : List Byte) : Nat := be l 1 1
def tocType (l : List Byte) : Nat := be l 2 1
def tocPayload (l : List Byte) : List Byte := slice l 4 (be l 3 1)

/-! ### The MAC (R226, R227) -/

/-- A tocsin MAC with its register page. -/
structure TocView where
  regs : RegFile
  page : Nat
  mac : TocMac
  deriving DecidableEq, Repr

def TocView.get (v : TocView) (f : Fld) : Nat := v.regs.get (f.onPage v.page)
def TocView.on (v : TocView) (f : Fld) : Bool := v.regs.on (f.onPage v.page)
def TocView.inc (v : TocView) (f : Fld) : TocView := { v with regs := v.regs.inc (f.onPage v.page) }
def TocView.raise (v : TocView) (f : Fld) : TocView := { v with regs := v.regs.raise (f.onPage v.page) }
def TocView.modM (v : TocView) (f : TocMac → TocMac) : TocView := { v with mac := f v.mac }

/-- A frame joins the queue of an active MAC. -/
def TocView.send (v : TocView) (f : TocFrame) : TocView :=
  if v.on TOC_CTRL_EN then v.modM fun m => { m with queue := m.queue ++ [f] } else v

/-- Idle bit times before a frame of a type may start: 12, and 2 slots of 16 more for all but ALARM and CHIP-RESET
(R227). -/
def tocDefer (type : Nat) : Nat := if type = tocAlarm ∨ type = tocChipReset then 12 else 44

/-- The frame as its fields stand on the bus, after the delimiter (Table 8-10). -/
def TocView.bytesOf (v : TocView) (f : TocFrame) : List Byte := tocBytes f.dst (v.get TOC_CTRL_NODE) f.type f.payload

/-- The next frame starts after its deferral and any backoff, and ts_txd carries its line state; `quiet` is how long the bus
has had no transition, in bit times. -/
def TocView.txStart (v : TocView) (mono quiet : Nat) : TocView :=
  match v.mac.queue with
  | [] => v
  | f :: _ =>
    if v.on TOC_CTRL_EN ∧ ¬ v.mac.sending ∧ v.mac.backoffUntil ≤ mono ∧ tocDefer f.type ≤ tocIdle quiet then
      v.modM fun m => { m with sending := true, line := tocLine (v.bytesOf f) }
    else v

/-- A slot is 16 bit times, 1,280 ns (R227). -/
abbrev tocSlotNs : Nat := 1280

/-- A sending node sees a collision: ts_cd is asserted, or what it has heard on ts_rxd since its frame began differs from
ts_txd (R97, R227). -/
def TocMac.collides (m : TocMac) (cd : Bool) (heard : List Bool) : Bool :=
  m.sending && (cd || decide (heard ≠ m.line.take heard.length))

/-- A collision: the jam is sent, the bus is released, and the frame is backed off r slots, r uniform below 2^min(n, 6) after its n-th, or discarded after the
16th attempt (R227). -/
def TocView.collision (v : TocView) (mono draw : Nat) : TocView :=
  match v.mac.queue with
  | [] => v
  | f :: rest =>
    if ¬ v.mac.sending then v
    else
      let n := f.attempts + 1
      let v1 := v.inc TOC_COUNTS0_COLL_N
      if 16 ≤ n then
        ((v1.modM fun m => { m with queue := rest, sending := false, line := [], backoffUntil := 0 }).inc
          TOC_COUNTS1_EXCESS_COLL_N).raise TOC_STATUS_EXCESS_COLL
      else
        let r := Config.tocsinDraw draw % 2 ^ min n 6
        v1.modM fun m =>
          { m with queue := { f with attempts := n } :: rest, sending := false, line := [],
                   backoffUntil := mono + r * tocSlotNs }

/-- The frame being sent is complete and the bus is released (R225). -/
def TocView.txEnd (v : TocView) : TocView :=
  match v.mac.queue with
  | [] => v
  | f :: rest =>
    if ¬ v.mac.sending then v
    else
      (v.modM fun m =>
        { m with queue := rest, sending := false, line := [], backoffUntil := 0, sent := m.sent ++ [v.bytesOf f] }).inc TOC_COUNTS0_TX_N

/-- What the MAC does with any frame it hears: bad frames are counted, frames for others ignored, accepted ones counted,
and those of a reserved type counted as unknown; true where the frame is accepted (R226, Table 8-11). -/
def TocView.receive (v : TocView) (l : List Byte) : Bool × TocView :=
  if ¬ v.on TOC_CTRL_EN then (false, v)
  else if ¬ tocGood l then (false, (v.inc TOC_COUNTS0_CRC_ERR_N).raise TOC_STATUS_CRC_ERR)
  else if tocDst l ≠ v.get TOC_CTRL_NODE ∧ tocDst l ≠ tocBroadcast then (false, v)
  else
    let v1 := v.inc TOC_COUNTS0_RX_N
    let t := tocType l
    if t = 0 ∨ (0x05 ≤ t ∧ t ≤ 0x7F) then (true, v1.inc TOC_COUNTS1_UNKNOWN_N) else (true, v1)

/-! ### The die unit (R228, R230) -/

def DieUnit.tocView (d : DieUnit) : TocView := ⟨d.regs, 0xB, d.toc.mac⟩
def DieUnit.withToc (d : DieUnit) (v : TocView) : DieUnit :=
  { d with regs := v.regs, toc := { d.toc with mac := v.mac } }
def DieUnit.modToc (d : DieUnit) (f : Tocsin → Tocsin) : DieUnit := { d with toc := f d.toc }

def DieUnit.registered (d : DieUnit) : Bool := d.on DU_ASSIGN_REGISTERED
def DieUnit.duid (d : DieUnit) : Nat := d.get DU_ASSIGN_DUID
/-- The home aggregator's ID: DUID[19:8] (R17). -/
def DieUnit.homeId (d : DieUnit) : Nat := d.duid / 256

/-- An ALARM payload (Table 8-12); an unregistered die unit names itself by its MAC address. -/
def DieUnit.alarmPayload (d : DieUnit) (cause sev code unit_ op t : Nat) (temp : Int) (mv : Nat) : List Byte :=
  let id := if d.registered then d.duid else d.get DU_MAC_MAC
  beBytes 1 (b2n !d.registered) ++ beBytes 1 d.toc.aseq ++ beBytes 6 id ++ beBytes 1 cause ++ beBytes 1 sev
    ++ beBytes 2 code ++ beBytes 1 unit_ ++ beBytes 1 op ++ postmark t ++ beBytes 2 (unsigned 16 temp) ++ beBytes 2 mv

/-- An alarm's own first bytes: ID_KIND, ASEQ and ID, which an ALARM-ACK repeats (Table 8-11). -/
def Alarm.name (a : Alarm) : List Byte := a.payload.take 8

/-- The frame of an alarm is offered to the MAC. -/
def DieUnit.sendAlarm (d : DieUnit) (a : Alarm) : DieUnit :=
  d.withToc (d.tocView.send ⟨0, tocAlarm, a.payload, 0, some a.aseq⟩)

/-- An alarm leaves the queue, and its frame too unless it is on the bus. -/
def DieUnit.dropAlarm (d : DieUnit) (aseq : Nat) : DieUnit :=
  d.modToc fun t =>
    let keep := if t.mac.sending then 1 else 0
    { t with alarms := t.alarms.filter fun a => a.aseq ≠ aseq,
             mac := { t.mac with queue := t.mac.queue.take keep
               ++ (t.mac.queue.drop keep).filter fun f => f.alarm ≠ some aseq } }

def DieUnit.alarmLost (d : DieUnit) : DieUnit := (d.inc TOC_COUNTS1_ALARM_LOST_N).raise TOC_STATUS_ALARM_LOST

/-- An alarm joins the queue of 8; a full queue gives up its oldest lesser entry to a grave alarm, and drops any other
(R228). -/
def DieUnit.queueAlarm (d : DieUnit) (payload : List Byte) (grave : Bool) : DieUnit :=
  if ¬ d.on TOC_CTRL_EN then d
  else
    let a : Alarm := ⟨d.toc.aseq, payload, grave, 0, d.mono⟩
    let add (d : DieUnit) : DieUnit :=
      (d.modToc fun t => { t with alarms := t.alarms ++ [a], aseq := (t.aseq + 1) % 256 }).sendAlarm a
    if d.toc.alarms.length < 8 then add d
    else if grave then
      match d.toc.alarms.find? fun x => !x.grave with
      | some x => add (d.dropAlarm x.aseq).alarmLost
      | none => d.alarmLost
    else d.alarmLost

/-- The alarm of a health report or of a supply edge (R228). -/
def DieUnit.raiseAlarm (d : DieUnit) (cause sev code unit_ op t : Nat) (temp : Int) (mv : Nat) (grave : Bool) : DieUnit :=
  d.queueAlarm (d.alarmPayload cause sev code unit_ op t temp mv) grave

/-- An unacknowledged alarm is sent again every RESEND ms, and given up after its 8th send (R228). -/
def DieUnit.alarmResend (d : DieUnit) (aseq : Nat) : DieUnit :=
  match d.toc.alarms.find? fun a => a.aseq = aseq with
  | none => d
  | some a =>
    if d.mono < a.lastSend + max 1 (d.get TOC_CTRL_RESEND) * 1000000
        ∨ d.toc.mac.queue.any (fun f => f.alarm = some aseq) then d
    else if 8 ≤ a.sends then ((d.dropAlarm aseq).inc TOC_COUNTS1_UNACKED_N).raise TOC_STATUS_UNACKED
    else d.sendAlarm a

/-- A frame of the die unit is sent to its end; an alarm's send is noted. -/
def DieUnit.tocTxEnd (d : DieUnit) : DieUnit :=
  let al := if d.toc.mac.sending then d.toc.mac.queue.head?.bind (·.alarm) else none
  (d.withToc d.tocView.txEnd).modToc fun t =>
    { t with alarms := t.alarms.map fun a =>
        if al = some a.aseq then { a with sends := a.sends + 1, lastSend := d.mono } else a }

/-- A collision at the die unit's node, with the number of a draw for its backoff. -/
def DieUnit.tocCollision (d : DieUnit) (cd : Bool) (heard : List Bool) : DieUnit :=
  if d.toc.mac.collides cd heard then
    let (n, d1) := d.draw
    d1.withToc (d1.tocView.collision d.mono n)
  else d

/-- A matching ALARM-ACK removes the alarm (R228). -/
def DieUnit.alarmAck (d : DieUnit) (payload : List Byte) : DieUnit :=
  match d.toc.alarms.find? fun a => a.name = payload.take 8 with
  | some a => d.dropAlarm a.aseq
  | none => d

/-- A CHIP-RESET or BEACON names the die unit's home aggregator (R230). -/
def DieUnit.fromHome (d : DieUnit) (l : List Byte) : Bool :=
  d.registered && decide (tocSrc l = 0) && decide (be (tocPayload l) 0 2 % 4096 = d.homeId)

/-- A valid BEACON of the home aggregator (R230). -/
def DieUnit.beaconRx (d : DieUnit) (l : List Byte) : DieUnit :=
  if d.fromHome l then (d.set TOC_STATUS_BEACON_OK 1).modToc fun t => { t with beaconAt := some d.mono } else d

/-- No valid BEACON for 50 ms (R230). -/
def DieUnit.beaconLost (d : DieUnit) : DieUnit :=
  match d.toc.beaconAt with
  | some t =>
    if t + 50000000 ≤ d.mono then
      ((d.set TOC_STATUS_BEACON_OK 0).raise TOC_STATUS_BEACON_LOST).modToc fun x => { x with beaconAt := none }
    else d
  | none => d

end Sys2Proof.Machine
end

