-- ==== Sys2Proof/Machine/Trace.lean ====
section
/-!
DEFINITION. The trace funnel: admission, staging, packet encoding, segments, sync points, dead letters and low-power
markers (R76, R131 to R157). The drain into the frame builder stands with the frame builder.
-/
namespace Sys2Proof.Machine

def DieUnit.modTrc (d : DieUnit) (f : TraceFunnel → TraceFunnel) : DieUnit := { d with trc := f d.trc }

/-! ### Filters (R135) -/

/-- Comparator `k` is enabled and lists port `p`. -/
def DieUnit.cmpLists (d : DieUnit) (k p : Nat) : Bool :=
  d.on (TRC_CMP_CTRL_EN k) && bit (d.get (TRC_CMP_CTRL_PORTS k)) p

/-- Comparator `k` covers a data access of port `p` (R135). -/
def DieUnit.cmpCovers (d : DieUnit) (k p : Nat) (x : TracePkt) : Bool :=
  d.cmpLists k p
    && (let rw := d.get (TRC_CMP_CTRL_RW k); decide (rw = 0) || (decide (rw = 1) && !x.rw) || (decide (rw = 2) && x.rw))
    && decide (d.get (TRC_CMP_BASE k) ≤ x.addr) && decide (x.addr ≤ d.get (TRC_CMP_LIMIT k))

/-- A data access passes the range comparators; other packets pass unfiltered (R135). -/
def DieUnit.passesFilter (d : DieUnit) (p : Nat) (x : TracePkt) : Bool :=
  if x.kind ≠ 1 then true
  else
    let ks := List.range 8
    let inc := ks.filter fun k => !d.on (TRC_CMP_CTRL_EXCL k)
    let exc := ks.filter fun k => d.on (TRC_CMP_CTRL_EXCL k)
    (!(inc.any fun k => d.cmpLists k p) || inc.any fun k => d.cmpCovers k p x)
      && !(exc.any fun k => d.cmpCovers k p x)

/-! ### Packet encoding (Tables 5-2 to 5-4) -/

/-- The class of a packet (R140): sync point, timed, or untimed. -/
def TraceBody.isSync : TraceBody → Bool
  | .sleep | .wake | .gap _ | .scale | .discont _ => true
  | _ => false

def TraceBody.isTimed : TraceBody → Bool
  | .event _ | .data .. | .host _ | .auth .. => true
  | _ => false

/-- TYPE of a packet (Table 5-3). -/
def TraceBody.type : TraceBody → Nat
  | .event _ => 0x1
  | .data .. => 0x2
  | .host _ => 0x3
  | .sleep => 0x5
  | .wake => 0x6
  | .gap _ => 0x7
  | .scale => 0x8
  | .discont _ => 0x9
  | .dead .. => 0xA
  | .auth .. => 0xB

/-- Bytes of an access: 1, 2, 4 or 8 for size codes 0 to 3. -/
def accessBytes (size : Nat) : Nat := 2 ^ (size % 4)

/-- The body of a packet: `base` is the cycle count from the base (SLEEP), `t` the postmark time (Table 5-3). -/
def TraceBody.bytes (b : TraceBody) (base t : Nat) : List Byte :=
  match b with
  | .event p => beBytes 8 p
  | .host p => beBytes 8 p
  | .data rw size addr v =>
    let acc := b2n rw * 128 + size % 4 * 32 + b2n v.isSome * 16
    beBytes 1 acc ++ beBytes 8 addr ++ (match v with | some x => beBytes (accessBytes size) x | none => [])
  | .sleep => beBytes 8 base ++ postmark t
  | .wake => postmark t
  | .gap n => beBytes 8 n ++ postmark t
  | .scale => postmark t
  | .discont n => beBytes 8 (unsigned 64 n) ++ postmark t
  | .dead c n => beBytes 1 c ++ beBytes 4 n
  | .auth s p => beBytes 1 (b2n s * 2 + b2n p)

/-- DLEN and the delta field: the shortest length that holds the delta (R145). -/
def deltaField (delta : Nat) : Nat × List Byte :=
  if delta = 0 then (0, []) else if delta < 256 then (1, beBytes 1 delta)
  else if delta < 65536 then (2, beBytes 2 delta) else (3, beBytes 4 delta)

/-- A whole packet (Table 5-2). -/
def packetBytes (type : Nat) (delta : Nat) (scaled : Bool) (src prio : Nat) (body : List Byte) : List Byte :=
  let (dlen, df) := deltaField delta
  beBytes 1 (type * 16 + dlen * 4 + b2n scaled * 2) ++ beBytes 1 (src % 64 * 4 + prio % 4) ++ df ++ body

/-- Source ID and priority of the funnel's own packets (Table 5-2). -/
abbrev funnelSrc : Nat := 0x3F
abbrev funnelPrio : Nat := 3

/-- The SYNC interval in cycles (R142). -/
def DieUnit.syncInterval (d : DieUnit) : Nat := 2 ^ (16 + d.get TRC_CTRL_SYNC_LOG)

/-- RING mode (Table 5-8). -/
def DieUnit.ringMode (d : DieUnit) : Bool := d.get TRC_CTRL_MODE = 1

/-! ### Segments (R150, R151, Table 5-5) -/

abbrev segBytes : Nat := 4096
abbrev segHdr : Nat := 24

def Segment.used (s : Segment) : Nat := segHdr + s.bytes.length

/-- A list filled up to a length. -/
def padList (n : Nat) (b : Byte) (l : List Byte) : List Byte := l ++ List.replicate (n - l.length) b

/-- PAD, a packet of the single byte 0x00 (Table 5-3). -/
abbrev padByte : Byte := 0x00

/-- A segment's 4 KiB of the buffer: header and packets, then PAD from USED to the end (R150). -/
def Segment.buffer (s : Segment) : List Byte :=
  padList segBytes padByte (beBytes 1 1 ++ beBytes 1 s.flags ++ beBytes 2 s.seq ++ beBytes 2 s.used ++ zeros 2 ++ postmark s.ref
    ++ beBytes 1 s.quality ++ zeros 1 ++ beBytes 2 s.nom ++ zeros 2 ++ s.bytes)

/-- A segment as it is drained: USED bytes of it (R152). -/
def Segment.image (s : Segment) : List Byte := s.buffer.take s.used

/-- Free segments: those that hold nothing and are not open. -/
def TraceFunnel.freeSegs (t : TraceFunnel) : Nat := 64 - t.segs.length

/-- The segments that wait to be drained, oldest first: in ring order from the oldest. -/
def TraceFunnel.oldest (t : TraceFunnel) (closedOnly : Bool) : Option Nat :=
  let order := (List.range 64).map fun i => (t.nextSeg + i) % 64
  order.find? fun i => match tabGet t.segs i with
    | some s => !closedOnly || s.closed
    | none => false

/-- FREE_SEGS, WR_SEG, RD_SEG and TRC_SEG_SEQ follow the funnel (Tables 5-7, 5-9). -/
def DieUnit.showSegs (d : DieUnit) : DieUnit :=
  let d1 := d.set TRC_STATUS_FREE_SEGS d.trc.freeSegs
  let d2 := d1.set TRC_STATUS_WR_SEG (d.trc.openSeg.getD (d.trc.nextSeg % 64))
  d2.set TRC_STATUS_RD_SEG ((d.trc.oldest true).getD (d.trc.openSeg.getD (d.trc.nextSeg % 64)))

/-- The open segment closes (R151). -/
def DieUnit.closeSegment (d : DieUnit) : DieUnit :=
  match d.trc.openSeg with
  | none => d
  | some i =>
    let d1 :=
      (d.modTrc fun t => { t with segs := tabMod t.segs i (fun s => { s with closed := true }), openSeg := none }).showSegs
    if d.ringMode then d1 else d1.wake .egr

/-- A new segment opens at an edge of time `t` in cycle `cyc`; in RING mode the oldest is reused where none is free
(R150, R151, R154). None: no segment is free. -/
def DieUnit.openSegment (d : DieUnit) (t cyc quality : Nat) (byWake : Bool) : Option DieUnit :=
  let seq := d.get TRC_SEG_SEQ % 65536
  let fresh (d : DieUnit) (ow : Bool) : DieUnit :=
    let i := d.trc.nextSeg % 64
    let seg : Segment :=
      { seq := seq, flags := b2n ow * 128 + b2n byWake * 32, ref := t, quality := quality,
        nom := d.get TC_CLKMON_NOM_NOM_TRACE, bytes := [], closed := false, at_ := d.mono }
    let d1 := d.modTrc fun f =>
      { f with segs := tabPut f.segs i seg, openSeg := some i, nextSeg := (i + 1) % 64, base := cyc, lastSync := cyc,
               span := f.span.filter fun x => x ≠ i }
    (d1.set TRC_SEG_SEQ ((seq + 1) % 65536)).showSegs
  match tabGet d.trc.segs (d.trc.nextSeg % 64) with
  | none => some (fresh d false)
  | some _ =>
    if d.ringMode then
      let d1 := (d.inc TRC_COUNTS_SEG_OVERWRITTEN_N).raise TRC_STATUS_SEG_OVERWRITTEN
      some (fresh d1 true)
    else none

/-- Bytes go to the open segment. -/
def DieUnit.append (d : DieUnit) (b : List Byte) (scaled : Bool) : DieUnit :=
  match d.trc.openSeg with
  | none => d
  | some i => d.modTrc fun t =>
      { t with segs := tabMod t.segs i fun s =>
          { s with bytes := s.bytes ++ b, flags := if scaled then s.flags ||| 64 else s.flags } }

/-- Bytes left in the open segment. -/
def TraceFunnel.room (t : TraceFunnel) : Nat :=
  match t.openSeg.bind (tabGet t.segs) with
  | none => 0
  | some s => segBytes - s.used

/-! ### Dead letters (R136, R137) -/

/-- Dead letters join those of their source. -/
def addDead (m : Store DeadPend) (src : Nat) (x : DeadPend) : Store DeadPend :=
  let old := (tabGet m src).getD ⟨0, 0, x.prio⟩
  tabPut m src ⟨satAdd 32 old.count x.count, old.causes ||| x.causes, x.prio⟩

/-- A dead letter of port `p` is counted (R137). -/
def DieUnit.countDead (d : DieUnit) (p : Nat) : DieUnit :=
  ((d.inc (TRC_DEAD p)).inc TRC_DEAD_TOTAL).raise TRC_STATUS_DEAD

/-- A dead letter of port `p`, whose source is `src` at priority `prio`, with its cause bit (R137). -/
def DieUnit.deadLetter (d : DieUnit) (p src prio cause : Nat) : DieUnit :=
  (d.modTrc fun t => { t with dead := addDead t.dead src ⟨1, 2 ^ cause, prio⟩ }).countDead p

/-- A marker of cycle `cyc` that cannot be admitted is lost; a SYNC precedes the next timed packet (R137). -/
def DieUnit.markerLost (d : DieUnit) (cyc : Nat) : DieUnit :=
  (d.inc TRC_COUNTS_MARKER_LOST_N).modTrc fun t => { t with needSync := some (max cyc (t.needSync.getD 0)) }

/-- A staged packet takes its place: by cycle, and within a cycle in the order of R139. -/
def insertStaged (p : Staged) : List Staged → List Staged
  | [] => [p]
  | a :: l =>
    if p.cyc < a.cyc ∨ (p.cyc = a.cyc ∧ (p.cls < a.cls ∨ (p.cls = a.cls ∧ p.key < a.key))) then p :: a :: l
    else a :: insertStaged p l

def DieUnit.stage (d : DieUnit) (p : Staged) : DieUnit :=
  d.modTrc fun t => { t with staging := insertStaged p t.staging }

/-- Where the deltas of the stream stand: the base, the last sync point or segment reference, and the cycle of a marker whose
loss asks for a SYNC (R140, R142, R137). -/
structure TraceCursor where
  base : Nat
  lastSync : Nat
  owed : Option Nat
  deriving DecidableEq, Repr

def TraceFunnel.cursor (t : TraceFunnel) : TraceCursor := ⟨t.base, t.lastSync, t.needSync⟩

/-- A lost marker lies at or before a cycle, and no sync point or segment reference has come at that cycle since. -/
def TraceCursor.owes (c : TraceCursor) (cyc : Nat) : Bool :=
  match c.owed with
  | some x => decide (x ≤ cyc) && decide (c.lastSync ≠ cyc)
  | none => false

/-- A SYNC precedes a timed packet (R142, R137). -/
def TraceCursor.sync (c : TraceCursor) (interval : Nat) (p : Staged) : Bool :=
  p.body.isTimed && (decide (interval ≤ p.cyc - c.lastSync) || decide (2 ^ 32 ≤ p.cyc - c.base) || c.owes p.cyc)

/-- The delta that a packet carries in the open segment (R140, R142). -/
def TraceCursor.delta (c : TraceCursor) (interval : Nat) (p : Staged) : Nat :=
  if p.body.isTimed ∧ ¬ c.sync interval p then p.cyc - c.base else 0

/-- The S flag: trc_stretch was asserted in a cycle of the delta's interval, its first cycle included (R143). -/
def TraceCursor.scaled (c : TraceCursor) (interval : Nat) (p : Staged) : Bool :=
  decide (0 < c.delta interval p) && (match p.lastStretch with | some x => decide (c.base ≤ x) | none => false)

/-- A packet's bytes in the open segment, without a SYNC before it. -/
def TraceCursor.bytes (c : TraceCursor) (interval : Nat) (p : Staged) : List Byte :=
  packetBytes p.body.type (c.delta interval p) (c.scaled interval p) p.src p.prio (p.body.bytes (p.cyc - c.base) p.t)

/-- The bytes of a SYNC at a packet's edge. -/
def syncBytes (p : Staged) : List Byte := packetBytes 0x4 0 false funnelSrc funnelPrio (postmark p.t)

/-- Bytes that a packet adds to the open segment, with its SYNC. -/
def TraceCursor.size (c : TraceCursor) (interval : Nat) (p : Staged) : Nat :=
  (if c.sync interval p then (syncBytes p).length else 0) + (c.bytes interval p).length

/-- The cursor after a packet (R140). -/
def TraceCursor.after (c : TraceCursor) (interval : Nat) (p : Staged) : TraceCursor :=
  let point := p.body.isSync || c.sync interval p
  { base := if p.body.isTimed ∨ p.body.isSync then p.cyc else c.base,
    lastSync := if point then p.cyc else c.lastSync,
    owed := match c.owed with
      | some x => if x ≤ p.cyc ∧ (p.body.isTimed ∨ p.body.isSync) then none else some x
      | none => none }

/-- Bytes that staged packets add to the open segment, in order. -/
def TraceCursor.sizes (interval : Nat) : TraceCursor → List Staged → Nat
  | _, [] => 0
  | c, p :: rest => c.size interval p + TraceCursor.sizes interval (c.after interval p) rest

/-- Where no segment is free, a packet must fit what the open segment will still hold after the packets staged before it
(R136). -/
def DieUnit.fitsOpen (d : DieUnit) (p : Staged) : Bool :=
  decide (d.trc.cursor.sizes d.syncInterval (insertStaged p d.trc.staging) ≤ d.trc.room)

/-- Segment condition of priority admission with reserve `r` (R136); in RING mode it is met (R154). -/
def DieUnit.segOk (d : DieUnit) (r : Nat) (p : Staged) : Bool :=
  d.ringMode || (decide (r ≤ d.trc.freeSegs) && (decide (0 < d.trc.freeSegs) || d.fitsOpen p))

/-- A funnel packet is admitted as priority 3 is, and may also use the funnel's 8 entries (R137). -/
def DieUnit.funnelOk (d : DieUnit) (p : Staged) : Bool :=
  decide (d.trc.staging.length < 256) && d.segOk 0 p && !d.on TRC_STATUS_RING_FROZEN

/-- The source a port is configured for, and its priority. -/
def DieUnit.srcOf (d : DieUnit) (p : Nat) : Nat := d.get (TRC_SRC_SRC_ID p)
def DieUnit.prioOf (d : DieUnit) (p : Nat) : Nat := d.get (TRC_SRC_PRIO p)

/-- A staged packet at the current cycle, with the stamp of its edge. -/
def DieUnit.staged (d : DieUnit) (b : TraceBody) (q src prio port cls key : Nat) : Staged :=
  { body := b, cyc := d.trc.cyc, t := d.stamp q, src := src, prio := prio, port := port, cls := cls, key := key,
    lastStretch := d.trc.lastStretch, quality := d.quality }

/-- What a source's report would carry: its dead letters, and those of packets that found no segment, once none of its packets is
staged any more (R138). -/
def TraceFunnel.unreported (t : TraceFunnel) (src : Nat) : Option DeadPend :=
  let own := fun (p : Staged) => decide (p.src = src) && decide (p.port < 16)
  match tabGet t.dead src, (if t.staging.any own then none else tabGet t.lost src) with
  | none, none => none
  | some x, none => some x
  | none, some y => some y
  | some x, some y => some ⟨satAdd 32 x.count y.count, x.causes ||| y.causes, x.prio⟩

/-- The report of a source's dead letters is staged, where a funnel packet can be admitted (R137); it carries the source's
configured priority (Table 5-2). -/
def DieUnit.stageDead (d : DieUnit) (src q : Nat) : DieUnit :=
  match d.trc.unreported src with
  | none => d
  | some x =>
    let p := d.staged (.dead x.causes x.count) q src x.prio 16 3 src
    if d.funnelOk p then
      let own := fun (p : Staged) => decide (p.src = src) && decide (p.port < 16)
      (d.stage p).modTrc fun t =>
        { t with dead := tabDel t.dead src, lost := if d.trc.staging.any own then t.lost else tabDel t.lost src }
    else d

/-- A funnel marker is staged, or lost (R137). -/
def DieUnit.stageMarker (d : DieUnit) (b : TraceBody) (q src prio cls key : Nat) : DieUnit :=
  let p := d.staged b q src prio 16 cls key
  if d.funnelOk p then d.stage p else d.markerLost d.trc.cyc

/-! ### Admission (Table 5-1) -/

/-- The staged form of an admitted packet (Table 5-3). -/
def DieUnit.bodyOf (d : DieUnit) (p : Nat) (x : TracePkt) : TraceBody :=
  match x.kind with
  | 0 => .event x.payload
  | 1 => .data x.rw x.size x.addr (if d.on (TRC_SRC_VALUE p) then some x.payload else none)
  | _ => .host x.payload

/-- The authorisations exclude a packet (Table 5-1, order 3; R133). -/
def excluded (secAuth privAuth : Bool) (x : TracePkt) : Bool := (x.sec && !secAuth) || (x.prv && !privAuth)

/-- The staging reserve and segment reserve of a priority; those of priority 3 are zero (R136). -/
def DieUnit.reserves (d : DieUnit) (prio : Nat) : Nat × Nat :=
  match prio with
  | 0 => (d.get TRC_DROP_THR_STG_R0, d.get TRC_DROP_THR_SEG_B0)
  | 1 => (d.get TRC_DROP_THR_STG_R1, d.get TRC_DROP_THR_SEG_B1)
  | 2 => (d.get TRC_DROP_THR_STG_R2, d.get TRC_DROP_THR_SEG_B2)
  | _ => (0, 0)

/-! ### The trace edge (R134, R142 to R144, R155) -/

/-- A change that was waiting acts at the edge; an AUTH packet carries new authorisations, and a change of MODE closes the open
segment (R134, R155). -/
def DieUnit.applyTrc (q : Nat) (d : DieUnit) : TrcChange → DieUnit
  | .auth sec prv =>
    if sec = d.on TRC_AUTH_SEC_AUTH ∧ prv = d.on TRC_AUTH_PRIV_AUTH then d
    else
      ((d.set TRC_AUTH_SEC_AUTH (b2n sec)).set TRC_AUTH_PRIV_AUTH (b2n prv)).stageMarker (.auth sec prv) q funnelSrc funnelPrio 1 3
  | .mode n => if n = d.get TRC_CTRL_MODE then d else (d.set TRC_CTRL_MODE n).closeSegment
  | .reg addr w => { d with regs := d.regs.setWord addr (BitVec.ofNat 64 w) }

def DieUnit.applyTrcPend (d : DieUnit) (q : Nat) : DieUnit :=
  d.trc.pend.foldl (DieUnit.applyTrc q) (d.modTrc fun t => { t with pend := [] })

/-- Ns of Fleet Time from the last edge before a stop to the first edge after it (R67). -/
def DieUnit.stopNs (d : DieUnit) (q : Nat) : Nat := (d.stamp q - d.trc.edgeT.getD (d.stamp q)) / nsU

/-- The sync point that falls due at a trace edge: a GAP after a stop, a DISCONT after a step, a SCALE after a stretched window.
One edge has one: another waits for the next edge (R142 to R144; log 25). -/
def DieUnit.dueMarker (d : DieUnit) (q : Nat) : DieUnit :=
  if d.trc.stopped then
    (d.stageMarker (.gap (d.stopNs q)) q funnelSrc funnelPrio 1 0).modTrc fun t => { t with stopped := false }
  else match d.trc.pendDiscont with
    | some n => (d.stageMarker (.discont n) q funnelSrc funnelPrio 1 2).modTrc fun t => { t with pendDiscont := none }
    | none =>
      if d.trc.pendScale then
        (d.stageMarker .scale q funnelSrc funnelPrio 1 1).modTrc fun t => { t with pendScale := false }
      else d

/-- The edge at which the present cycle begins, before anything of the cycle: sync points and waiting changes act (R134, R155). -/
def DieUnit.traceEdge (d : DieUnit) (q : Nat) : DieUnit :=
  if d.trc.begun then d
  else ((d.dueMarker q).applyTrcPend q).modTrc fun t => { t with begun := true, edgeT := some (d.stamp q) }

/-- A packet presented on port `p` is judged in the order of Table 5-1, under the state that holds from its edge on; the first
step that applies decides. Its source's dead letters are reported before it (R137, R138). -/
def DieUnit.presentTrace (d0 : DieUnit) (p : Nat) (x : TracePkt) (q : Nat) : DieUnit :=
  if ¬ d0.isOn .trc ∨ d0.trc.sleeping then d0
  else
    let d := (d0.traceEdge q).modTrc fun t => { t with lastPresent := d0.mono }
    if x.kind % 4 = 3 then d.inc TRC_COUNTS_BAD_KIND_N
    else if ¬ d.on TRC_CTRL_EN ∨ ¬ d.on (TRC_SRC_EN p) then d
    else if excluded (d.on TRC_AUTH_SEC_AUTH) (d.on TRC_AUTH_PRIV_AUTH) x then d.inc TRC_EXCL_N
    else if ¬ d.passesFilter p x then d.inc TRC_COUNTS_FILTERED_N
    else
      let src := d.srcOf p
      let prio := d.prioOf p
      let d1 := d.stageDead src q
      let k := d1.staged (d1.bodyOf p x) q src prio p 4 p
      let (stg, seg) := d1.reserves prio
      let free := 256 - d1.trc.staging.length
      if d1.on TRC_STATUS_RING_FROZEN then d1.deadLetter p src prio 3
      else if free ≤ 8 then d1.deadLetter p src prio 1
      else if free - 8 ≤ stg then d1.deadLetter p src prio 0
      else if ¬ d1.segOk seg k then d1.deadLetter p src prio (if 0 < d1.trc.freeSegs then 0 else 3)
      else d1.stage k

/-- A packet presented while the trace domain is off, waking, or past its domain SLEEP packet: the always-on domain judges
it as far as order 3 of Table 5-1; only a dead letter is a wake cause (R76, R148). -/
def DieUnit.presentAsleep (d : DieUnit) (p : Nat) (x : TracePkt) : DieUnit :=
  if d.isOn .trc ∧ ¬ d.trc.sleeping then d
  else if x.kind % 4 = 3 then d.modTrc fun t => { t with aoBad := t.aoBad + 1 }
  else if ¬ d.on TRC_CTRL_EN ∨ ¬ d.on (TRC_SRC_EN p) then d
  else if excluded (d.on TRC_AUTH_SEC_AUTH) (d.on TRC_AUTH_PRIV_AUTH) x then
    d.modTrc fun t => { t with aoExcl := t.aoExcl + 1 }
  else (d.modTrc fun t => { t with aoDead := storeSet 0 t.aoDead p (satAdd 32 (storeGet 0 t.aoDead p) 1) }).wake .trc

/-! ### Writing the stream (R138 to R144, R150) -/

/-- What is lost when a staged packet finds no segment: a source packet is a dead letter with cause [3], a report returns to the
dead letters it reports, another funnel packet is a lost marker (R136 to R138). -/
def DieUnit.noSpace (d : DieUnit) (p : Staged) : DieUnit :=
  match p.body with
  | .dead c n => d.modTrc fun t => { t with lost := addDead t.lost p.src ⟨n, c, p.prio⟩ }
  | _ =>
    if p.port < 16 ∧ p.body.isTimed then
      (d.modTrc fun t => { t with lost := addDead t.lost p.src ⟨1, 8, p.prio⟩ }).countDead p.port
    else d.markerLost p.cyc

/-- The domain's own WAKE packet opens a segment of its own (R149). -/
def Staged.isWake (p : Staged) : Bool := match p.body with | .wake => decide (p.src = funnelSrc) | _ => false

/-- The report that must stand before a source packet: that of losses at the buffer (R138). -/
def TraceFunnel.reportBefore (t : TraceFunnel) (p : Staged) : List Byte :=
  match (if p.port < 16 then tabGet t.lost p.src else none) with
  | some x => packetBytes (TraceBody.dead 0 0).type 0 false p.src x.prio ((TraceBody.dead x.causes x.count).bytes 0 0)
  | none => []

/-- A SCALE marks the deltas since the last sync point as clock-scaled: the segments that hold them show it (R143, Table 5-5). -/
def markScaled (segs : Store Segment) (span : List Nat) : Store Segment :=
  span.foldl (fun m i => tabMod m i fun s => { s with flags := s.flags ||| 64 }) segs

/-- A packet goes to the open segment, after a report and a SYNC where there is one; the cursor and the status bits follow
(R138, R140 to R144). -/
def DieUnit.putPacket (d : DieUnit) (p : Staged) : DieUnit :=
  let c := d.trc.cursor
  let iv := d.syncInterval
  let sc := c.scaled iv p
  let sync := c.sync iv p
  let isScale : Bool := match p.body with | .scale => true | _ => false
  let bytes := d.trc.reportBefore p ++ (if sync then syncBytes p else []) ++ c.bytes iv p
  let d0 := if isScale then d.modTrc fun t => { t with segs := markScaled t.segs t.span } else d
  let d1 := d0.append bytes sc
  let d2 := if sc ∨ isScale then d1.raise TRC_STATUS_SCALED else d1
  let d3 := match p.body with
    | .gap _ => d2.raise TRC_STATUS_GAP
    | .discont _ => d2.raise TRC_STATUS_DISCONT
    | _ => d2
  let c1 := c.after iv p
  d3.modTrc fun t =>
    { t with base := c1.base, lastSync := c1.lastSync, needSync := c1.owed, lost := if p.port < 16 then tabDel t.lost p.src else t.lost,
             span := if p.body.isSync ∨ sync then []
               else if 0 < c.delta iv p then (match t.openSeg with | some i => i :: t.span.filter (· ≠ i) | none => t.span)
               else t.span }

/-- A packet that starts a segment, whose reference edge is its own: its delta is 0 (R150, R151). -/
def DieUnit.putFirst (d : DieUnit) (p : Staged) : DieUnit :=
  match d.openSegment p.t p.cyc p.quality p.isWake with
  | none => d.noSpace p
  | some d1 => d1.putPacket p

/-- One staged packet is written: a SYNC first where R142 or R137 asks for one, a new segment where none is open or the
packet does not fit. -/
def DieUnit.writePacket (d : DieUnit) (p : Staged) : DieUnit :=
  if p.isWake then d.closeSegment.putFirst p
  else if d.trc.openSeg = none then d.putFirst p
  else if (d.trc.reportBefore p).length + d.trc.cursor.size d.syncInterval p ≤ d.trc.room then d.putPacket p
  else d.closeSegment.putFirst p

/-- One trc_clk cycle: what falls due at its edge acts, the oldest staged packet is written unless the ring is frozen, and the cycle
ends; the cycle's stretch input bears on the deltas that span it (R136, R143, R154). -/
def DieUnit.traceCycle (d : DieUnit) (q : Nat) (stretch : Bool) : DieUnit :=
  if ¬ d.isOn .trc ∨ d.trc.sleeping then d
  else
    let d1 := (d.traceEdge q).modTrc fun t => { t with lastStretch := if stretch then some t.cyc else t.lastStretch }
    let d2 := match d1.trc.staging with
      | [] => d1
      | p :: rest =>
        if d1.on TRC_STATUS_RING_FROZEN then d1 else (d1.modTrc fun t => { t with staging := rest }).writePacket p
    d2.modTrc fun t => { t with cyc := t.cyc + 1, begun := false }

/-- DEAD_REPORT_STAGE for a source (R137). -/
def DieUnit.deadReport (d : DieUnit) (src q : Nat) : DieUnit :=
  if d.isOn .trc ∧ ¬ d.trc.sleeping then (d.traceEdge q).stageDead src q else d

/-- tr_sleep of port `p` rises or falls: a SLEEP or WAKE marker of its source while the funnel and the port are enabled and
the domain is on; the level is followed in every case (R147). -/
def DieUnit.sourceLevel (d : DieUnit) (p : Nat) (rise : Bool) (q : Nat) : DieUnit :=
  let was := bit d.trc.sleepLevel p
  let d1 := d.modTrc fun t =>
    { t with sleepLevel := if rise then t.sleepLevel ||| 2 ^ p else t.sleepLevel &&& (2 ^ 16 - 1 - 2 ^ p) }
  if was = rise ∨ ¬ d.isOn .trc ∨ d.trc.sleeping then d1
  else
    let d2 := d1.traceEdge q
    if ¬ d2.on TRC_CTRL_EN ∨ ¬ d2.on (TRC_SRC_EN p) then d2
    else if rise then d2.stageMarker .sleep q (d2.srcOf p) (d2.prioOf p) 5 p
    else d2.stageMarker .wake q (d2.srcOf p) (d2.prioOf p) 2 p

/-- The trace clock runs again after a stop: its first edge, at which a GAP packet carries the stop's duration (R67, R144). -/
def DieUnit.traceResume (d : DieUnit) (q : Nat) : DieUnit :=
  if d.isOn .trc ∧ ¬ d.trc.sleeping ∧ d.trc.stopped then
    (d.modTrc fun t => { t with begun := false }).traceEdge q
  else d

/-- A change of a trace register waits for the next trace edge (R134, R155). -/
def DieUnit.pendTrc (d : DieUnit) (x : TrcChange) : DieUnit := d.modTrc fun t => { t with pend := t.pend ++ [x] }

/-- SEC_AUTH and PRIV_AUTH take a new state at the next trace edge, with an AUTH packet there; a write of the standing
state is no change (R134). -/
def DieUnit.writeAuth (d : DieUnit) (sec prv : Bool) : DieUnit :=
  if d.isOn .trc then d.pendTrc (.auth sec prv) else d

/-- The FLUSH time has passed since the open segment's first packet (R151). -/
def DieUnit.segFlush (d : DieUnit) : DieUnit :=
  match d.trc.openSeg.bind (tabGet d.trc.segs) with
  | none => d
  | some s =>
    let f := d.get TRC_CTRL_FLUSH
    if d.isOn .trc ∧ f ≠ 0 ∧ s.at_ + f * 100000 ≤ d.mono then d.closeSegment else d

/-- DRAIN_EN stops the drain at a segment boundary, or resumes it (R153); no segment is mid-copy between steps. -/
def DieUnit.writeDrainEn (d : DieUnit) (en : Bool) : DieUnit :=
  if d.isOn .trc then
    let d1 := (d.set TRC_CTRL_DRAIN_EN (b2n en)).modTrc fun t => { t with drainStopped := !en }
    d1.set TRC_STATUS_DRAIN_IDLE (b2n !en)
  else d

/-- A ring trigger: in RING mode the open segment closes and the ring is frozen for its drain; in STREAM mode the open
segment closes (R154). An empty ring is drained at once. -/
def DieUnit.ringTrigger (d : DieUnit) : DieUnit :=
  if ¬ d.isOn .trc then d
  else if d.ringMode then
    if d.on TRC_STATUS_RING_FROZEN then d
    else
      let d1 := d.closeSegment
      if d1.trc.segs = [] then d1.raise TRC_STATUS_RING_DONE else (d1.set TRC_STATUS_RING_FROZEN 1).wake .egr
  else d.closeSegment

/-- A MODE write: reserved values are ignored with CFG_INVALID; another takes effect at the next trace edge (R155). -/
def DieUnit.writeTraceMode (d : DieUnit) (mode : Nat) : DieUnit :=
  if ¬ d.isOn .trc then d
  else if 2 ≤ mode % 4 then d.raise TRC_STATUS_CFG_INVALID
  else d.pendTrc (.mode (mode % 4))

/-! ### Low power (R148, R149) -/

/-- The funnel's last acts before power-down: what is staged is written, then the domain SLEEP packet, and the open
segment closes (R148). -/
def DieUnit.traceSleepMarker (d : DieUnit) (q : Nat) : DieUnit :=
  let d1 := d.trc.staging.foldl (fun (d : DieUnit) p => d.writePacket p) d
  let d2 := d1.modTrc fun t => { t with staging := [] }
  let s := d2.staged .sleep q funnelSrc funnelPrio 16 6 0
  (d2.writePacket s).closeSegment.modTrc fun t => { t with sleeping := true }

/-- After a wake, or an abandoned power-down: a domain WAKE packet opens a new segment at the first edge, the dead letters of the
sleep follow with cause [2], the always-on counts are added, and changes that waited act (R76, R134, R148, R149). -/
def DieUnit.traceWake (d : DieUnit) (q : Nat) : DieUnit :=
  let d1 := d.modTrc fun t =>
    { t with sleeping := false, wakeAgain := false, stopped := false, begun := true, edgeT := some (d.stamp q) }
  let d2 := d1.writePacket (d1.staged .wake q funnelSrc funnelPrio 16 1 0)
  let d3 := d2.trc.aoDead.foldl (fun (d : DieUnit) e =>
    let d' := d.modTrc fun t => { t with dead := addDead t.dead (d.srcOf e.1) ⟨e.2, 4, d.prioOf e.1⟩ }
    (d'.inc (TRC_DEAD e.1) e.2).inc TRC_DEAD_TOTAL e.2) d2
  let d4 := if d2.trc.aoDead = [] then d3 else d3.raiseAll 0x6 [TRC_STATUS_ASLEEP_LOST, TRC_STATUS_DEAD]
  let d5 := (d4.inc TRC_COUNTS_BAD_KIND_N d.trc.aoBad).inc TRC_EXCL_N d.trc.aoExcl
  let d6 := d5.modTrc fun t => { t with aoDead := [], aoBad := 0, aoExcl := 0 }
  ((d6.trc.dead.map (·.1)).foldl (fun (d : DieUnit) src => d.stageDead src q) d6).applyTrcPend q

end Sys2Proof.Machine
end

