-- ==== Sys2Proof/Machine/Health.lean ====
section
/-!
DEFINITION. Health reports, sensor readings, supply warnings and the event recorder of the die unit (R94, R95,
R395 to R397, R479 to R489).
-/
namespace Sys2Proof.Machine

/-! ### The recorder of the die unit -/

/-- What the die unit's recorder sees, for an event `q` quarter ns after the last reference edge. -/
def DieUnit.recCtx (d : DieUnit) (q : Nat) : RecCtx :=
  ⟨d.stamp q, d.quality, d.sn.temp, d.sn.mv, d.snStale, d.mono, d.duid, 0x20⟩
def DieUnit.recView (d : DieUnit) (q : Nat) : RecView := ⟨d.regs, 0xD, d.recd, d.recCtx q⟩
def DieUnit.withRec (d : DieUnit) (v : RecView) : DieUnit := { d with regs := v.regs, recd := v.rc }

/-- An unlimited record. -/
def DieUnit.record (d : DieUnit) (code : Nat) (data : List Byte) : DieUnit :=
  d.withRec ((d.recView 0).record code data)
/-- A rate-limited record. -/
def DieUnit.recordLimited (d : DieUnit) (code key : Nat) (data : List Byte) : DieUnit :=
  d.withRec ((d.recView 0).recordLimited code key data)

/-- Servo states and status bits before and after an event of the time client: a TIME record of each domain whose state
changed, or of the active one where only status bits were set (Table 17-9). -/
def DieUnit.timeRecords (old d : DieUnit) : DieUnit :=
  let bits_ := (d.get ⟨addr_TC_STATUS, 7, 0⟩) &&& ((2 ^ 8 - 1) ^^^ old.get ⟨addr_TC_STATUS, 7, 0⟩)
  let st (x : DieUnit) (m : Dom) : Nat := x.view.state m
  let rec_ (d : DieUnit) (m : Dom) (code : Nat) : DieUnit :=
    d.recordLimited rcTime rcTime (leBytes 1 code ++ leBytes 1 (st old m) ++ leBytes 1 (st d m) ++ zeros 1
      ++ leBytes 1 bits_)
  let d1 := if st old .pri ≠ st d .pri then rec_ d .pri 0 else d
  let d2 := if st old .red ≠ st d .red then rec_ d1 .red 1 else d1
  if st old .pri = st d .pri ∧ st old .red = st d .red ∧ bits_ ≠ 0 then
    (match d.view.active with | .pri => rec_ d2 .pri 0 | .red => rec_ d2 .red 1)
  else d2

/-! ### Error reports (R94, R95, R395 to R397) -/

/-- A code that a report may carry (R395): an integrator code, or one that Table 14-1 lists below the aggregator's own. -/
def healthCodeOk (code : Nat) : Bool :=
  decide (0x1000 ≤ code) || decide (1 ≤ code ∧ code ≤ 9) || decide (0x40 ≤ code ∧ code ≤ 0x42)

/-- The 48-byte record of Table 14-2. -/
def HealthRec.bytes (r : HealthRec) (duid : Nat) : List Byte :=
  beBytes 4 duid ++ beBytes 4 r.hseq ++ beBytes 1 r.unit_ ++ beBytes 1 r.op ++ beBytes 2 r.code ++ beBytes 1 r.sev
    ++ beBytes 1 (b2n r.stale + 2 * r.quality + 8 * b2n (decide (r.repeat_ ≠ 0))) ++ beBytes 2 r.repeat_
    ++ postmark r.firstT ++ beBytes 2 (unsigned 16 r.temp) ++ beBytes 2 r.mv ++ zeros 2 ++ beBytes 4 r.job
    ++ beBytes 1 r.gen ++ zeros 1 ++ beBytes 6 r.step ++ beBytes 4 r.lastDt

def DieUnit.modHe (d : DieUnit) (f : Health → Health) : DieUnit := { d with he := f d.he }

/-- A new record is queued, with the next HSEQ. -/
def DieUnit.pushHealth (d : DieUnit) (r : HealthRec) : DieUnit :=
  (d.modHe fun h => { h with queue := h.queue ++ [r] }).set HE_COUNTS_HSEQ_NEXT (r.hseq + 1)

/-- A report is folded into a held record, queued, or lost (R397); true where a record was lost. -/
def DieUnit.queueHealth (d : DieUnit) (r : HealthRec) : Bool × DieUnit :=
  let same (x : HealthRec) : Bool :=
    !x.released && decide (x.unit_ = r.unit_ ∧ x.op = r.op ∧ x.code = r.code ∧ x.sev = r.sev)
  if r.sev ≠ 2 ∧ d.get HE_CTRL_COALESCE ≠ 0 ∧ d.he.queue.any same then
    let hseq := ((d.he.queue.find? same).map (·.hseq)).getD 0
    let fold (x : HealthRec) : HealthRec :=
      if x.hseq = hseq then
        { x with repeat_ := satAdd 16 x.repeat_ 1, lastDt := min (2 ^ 32 - 1) ((r.firstT - x.firstT) / nsU) }
      else x
    (false, (d.modHe fun h => { h with queue := h.queue.map fold }).inc HE_COUNTS_FOLDED_N)
  else if d.he.queue.length < 16 then (false, d.pushHealth r)
  else if r.sev = 2 then
    match d.he.queue.find? fun x => x.sev ≠ 2 with
    | some x =>
      (true, ((d.modHe fun h => { h with queue := h.queue.filter fun y => y.hseq ≠ x.hseq }).pushHealth r).inc
        HE_COUNTS_LOST_N)
    | none => (true, d.inc HE_COUNTS_LOST_N)
  else (true, d.inc HE_COUNTS_LOST_N)

/-- A report taken by the die unit: recorded, queued, and where its severity says so, an alarm, a ring trigger and a fault
flush (R95, R154, R228, R397, R487). -/
def DieUnit.takeReport (d : DieUnit) (unit_ op code sev : Nat) : DieUnit :=
  if ¬ d.on HE_CTRL_EN then d
  else
    let t := d.stamp 0
    let r : HealthRec :=
      { hseq := d.get HE_COUNTS_HSEQ_NEXT, unit_ := unit_, op := op, code := code, sev := sev, stale := d.snStale,
        quality := d.quality, repeat_ := 0, firstT := t, temp := d.sn.temp, mv := d.sn.mv, job := d.jobId,
        gen := d.jobGen, step := d.get TCK_STEP, lastDt := 0, at_ := d.mono,
        released := decide (sev = 2) }
    let d1 := (((d.set HE_LAST_UNIT unit_).set HE_LAST_OP op).set HE_LAST_CODE code).set HE_LAST_SEV sev
    let data := leBytes 1 unit_ ++ leBytes 1 op ++ leBytes 2 code ++ leBytes 1 sev
    let d2 := if sev = 2 then d1.record rcHealth data else d1.recordLimited rcHealth code data
    let (lost, d3) := d2.queueHealth r
    let fs := (if sev = 2 then [HE_STATUS_FATAL] else []) ++ (if d.snStale then [HE_STATUS_STALE] else [])
      ++ (if lost then [HE_STATUS_LOST] else [])
    let d4 := if fs = [] then d3 else d3.raiseAll 0xC fs
    let d5 := if sev = 2 ∨ (sev = 1 ∧ d.on TOC_CTRL_SEND_CONT) then
        d4.raiseAlarm 1 sev code unit_ op t d.sn.temp d.sn.mv (decide (sev = 2))
      else d4
    let d6 := if sev = 1 ∨ sev = 2 then d5.ringTrigger else d5
    if sev = 2 then (d6.withRec ((d6.recView 0).triggerFlush causeFault)).wake .egr else d6

/-- HE_REPORT: a report on the he interface; reserved severities and unlisted codes are counted and discarded (R94,
R395). -/
def DieUnit.heReport (d : DieUnit) (unit_ op code sev : Nat) : DieUnit :=
  if sev % 4 = 3 ∨ ¬ healthCodeOk (code % 65536) then (d.inc HE_COUNTS_BAD_N).raise HE_STATUS_BAD
  else d.takeReport (unit_ % 256) (op % 256) (code % 65536) (sev % 4)

/-- A report of the die unit itself (Table 14-1). -/
def DieUnit.selfReport (d : DieUnit) (code sev : Nat) : DieUnit :=
  d.takeReport 0xFF (Config.selfOp code).toNat code sev

/-- A held record is released COALESCE after its first report (R397). -/
def DieUnit.releaseHealth (d : DieUnit) (hseq : Nat) : DieUnit :=
  let due (x : HealthRec) : Bool :=
    decide (x.hseq = hseq) && !x.released && decide (x.at_ + d.get HE_CTRL_COALESCE * 10000 ≤ d.mono)
  if d.he.queue.any due then
    (d.modHe fun h => { h with queue := h.queue.map fun x => if due x then { x with released := true } else x }).wake .egr
  else d

/-- A toggle of sn_upd takes a reading (R94, R95). -/
def DieUnit.takeReading (d : DieUnit) (temp : Int) (mv : Nat) : DieUnit :=
  let d1 := { d with sn := ⟨temp, mv % 8192, some d.mono⟩ }
  { d1 with regs := ((d1.regs.setI HE_SENSOR_TEMP temp).set HE_SENSOR_MV mv).set HE_SENSOR_STALE_NOW 0 }

/-! ### Supply and flush (R480 to R483, R486, R487) -/

/-- sg_warn counts (R481). -/
def DieUnit.supplyWarn (d : DieUnit) : DieUnit :=
  if d.on DU_SAG_WARN_NOW then d
  else
    let d1 := (d.set DU_SAG_WARN_NOW 1).inc DU_SAG_WARN_N
    let d2 := d1.withRec ((d1.recView 0).supplyWarn (!d1.on DU_SAG_CRIT_NOW))
    d2.raiseAlarm 2 0 0 0 0 (d.stamp 0) d.sn.temp d.sn.mv true

/-- sg_crit counts: the flush is abandoned after the word in progress (R482). -/
def DieUnit.supplyCrit (d : DieUnit) : DieUnit :=
  if d.on DU_SAG_CRIT_NOW then d
  else
    let d1 := (d.set DU_SAG_CRIT_NOW 1).inc DU_SAG_CRIT_N
    let v := (d1.recView 0)
    let v1 := match v.rc.flush with
      | some f => (v.modR fun c => c.putWord f.bank f.slot f.word f.image).abandonFlush
      | none => v
    let d2 := d1.withRec (v1.recordSupply rcSupplyCrit)
    d2.raiseAlarm 3 0 0 0 0 (d.stamp 0) d.sn.temp d.sn.mv true

/-- A warning level has been gone for 1 ms: its end is recorded as SUPPLY-OK, and with sg_warn gone the held wake causes act
(R479, R480). `crit`: the level is sg_crit. -/
def DieUnit.supplyOk (d : DieUnit) (crit : Bool) : DieUnit :=
  let f := if crit then DU_SAG_CRIT_NOW else DU_SAG_WARN_NOW
  if ¬ d.on f then d
  else
    let d1 := d.set f 0
    let d2 := d1.withRec ((d1.recView 0).recordSupply rcSupplyOk)
    if crit then d2
    else
    let wakes := d2.heldWake
    allDoms.foldl (fun (d : DieUnit) k => if wakes.contains k.code then d.wake k else d) { d2 with heldWake := [] }

/-- An operation of the recorder that starts no nv handshake after sg_crit (R482). -/
def DieUnit.recOp (d : DieUnit) (f : RecView → RecView) : DieUnit := d.withRec (f (d.recView 0))
def DieUnit.flushOp (d : DieUnit) (f : RecView → RecView) : DieUnit :=
  if d.on DU_SAG_CRIT_NOW then d else d.recOp f

end Sys2Proof.Machine
end

