-- ==== Sys2Proof/Machine/Tile.lean ====
section
/-!
DEFINITION. The tile capture domain: step advances, check events and fingerprints, tile selection, captures, named dumps
and lineage (R89 to R93, R158 to R179).
-/
namespace Sys2Proof.Machine

def DieUnit.modTcp (d : DieUnit) (f : TileCapture → TileCapture) : DieUnit := { d with tcp := f d.tcp }


/-- The current step (TCK_STEP), none before the first accepted advance. -/
def DieUnit.step (d : DieUnit) : Option Nat := if d.get TCK_STEP = noStep then none else some (d.get TCK_STEP)

/-- CAP_PENDING, DUMP_ACTIVE and DUMP_QUEUED follow the state (Table 6-17). -/
def DieUnit.showTcp (d : DieUnit) : DieUnit :=
  ((d.set TCK_STATUS_CAP_PENDING d.tcp.caps.length).set TCK_STATUS_DUMP_ACTIVE (b2n d.tcp.run.isSome)).set
    TCK_STATUS_DUMP_QUEUED d.tcp.dumps.length

/-! ### Records -/

/-- The coverage record of the step that ends (Table 6-8). -/
def DieUnit.coverageRec (d : DieUnit) (step : Nat) : List Byte :=
  beBytes 4 d.jobId ++ beBytes 1 d.jobGen ++ zeros 1 ++ beBytes 6 step ++ beBytes 4 d.tcp.dropped
    ++ (List.range 64).flatMap fun c => beBytes 4 (storeGet 0 d.tcp.commits c)

/-- The coverage record of the step that has ended is queued, or lost where 16 wait (R169). -/
def DieUnit.queueCoverage (d : DieUnit) : DieUnit :=
  match d.step with
  | none => d
  | some s =>
    if d.tcp.covQueue.length < 16 then
      (d.modTcp fun t => { t with covQueue := t.covQueue ++ [⟨d.jobId, d.jobGen, d.coverageRec s⟩] }).wake .egr
    else (d.inc TCK_COUNTS3_COV_LOST_N).raise TCK_STATUS_COV_LOST

/-- A capture's descriptor (Table 6-11). -/
def captureDesc (com : Commit) (seq tag status : Nat) : List Byte :=
  beBytes 4 com.job ++ beBytes 1 com.gen ++ beBytes 1 status ++ beBytes 1 tag
    ++ beBytes 1 (com.cell + b2n com.stale * 64) ++ beBytes 6 com.step ++ beBytes 1 com.fmt ++ beBytes 1 com.num
    ++ beBytes 4 com.tensor ++ beBytes 4 com.tile ++ beBytes 1 com.m ++ beBytes 1 com.n ++ beBytes 3 com.k ++ zeros 3
    ++ beBytes 4 seq ++ zeros 4 ++ beBytes 8 com.outCheck ++ postmark com.t ++ beBytes 2 (unsigned 16 com.temp)
    ++ beBytes 2 com.mv ++ zeros 2

/-- A capture chunk: header and data (Table 6-10). -/
def captureChunk (com : Commit) (seq tag part off : Nat) (last : Bool) (data : List Byte) : List Byte :=
  beBytes 4 com.job ++ beBytes 1 com.gen ++ beBytes 1 part ++ beBytes 1 (b2n last) ++ beBytes 1 tag ++ beBytes 4 seq
    ++ beBytes 4 off ++ beBytes 4 data.length ++ zeros 4 ++ data

/-- A dump chunk: header and data (Table 6-12); `check` is the block's value where this chunk ends the block. -/
def dumpChunk (x : Dump) (flags block off : Nat) (check : Option Nat) (data : List Byte) : List Byte :=
  beBytes 4 x.job ++ beBytes 1 x.gen ++ beBytes 1 (flags + b2n check.isSome * 8) ++ beBytes 6 x.step
    ++ beBytes 4 x.tensor ++ beBytes 4 block ++ beBytes 4 off ++ beBytes 4 data.length ++ beBytes 8 (check.getD 0)
    ++ zeros 4 ++ data

def DieUnit.queueOut (d : DieUnit) (o : TileOut) : DieUnit :=
  (d.modTcp fun t => { t with out := t.out ++ [o] }).wake .egr

/-! ### Dumps (R173 to R176) -/

/-- A missed dump: DUMP_MISSED, the count, and an end chunk with FLAGS[2] (R173). -/
def DieUnit.dumpMissed (d : DieUnit) (x : Dump) : DieUnit :=
  ((d.inc TCK_COUNTS2_DUMP_FAILED_N).raise TCK_STATUS_DUMP_MISSED).queueOut
    (.dumpChunk x.job x.gen (dumpChunk x 4 0 0 none []))

/-- The dump that runs ends as aborted: an end chunk with FLAGS[1] (R175). -/
def DieUnit.dumpAborted (d : DieUnit) : DieUnit :=
  match d.tcp.run with
  | none => d
  | some r =>
    let d1 := ((d.inc TCK_COUNTS2_DUMP_FAILED_N).raise TCK_STATUS_DUMP_ABORTED).queueOut
      (.dumpChunk r.d.job r.d.gen (dumpChunk r.d 2 r.block 0 none []))
    (d1.modTcp fun t => { t with run := none, buffered := t.buffered - r.chunk.length }).showTcp

/-- Arms a dump: NOT-ARMED without a job, MISSED where its trigger has passed, FULL where 8 are armed (R173, R262). -/
def DieUnit.armDump (d : DieUnit) (tensor : Nat) (atEnd : Bool) (step : Nat) : Nat × DieUnit :=
  match d.job with
  | none => (3, d)
  | some (j, g) =>
    let x : Dump := ⟨tensor, atEnd, step, j, g⟩
    let passed := match d.step with
      | none => false
      | some s => if atEnd then decide (step < s) else decide (step ≤ s)
    if passed then (2, d.dumpMissed x)
    else if 8 ≤ d.tcp.dumps.length then (1, d)
    else (0, (d.modTcp fun t => { t with dumps := t.dumps ++ [x] }).showTcp)

/-- An advance to step `s` fires, or passes past, the armed dumps, in the order they were armed (R173). -/
def DieUnit.fireDumps (d : DieUnit) (s : Nat) : DieUnit :=
  (d.tcp.dumps.foldl (fun (d : DieUnit) x =>
    let fire := if x.atEnd then decide (x.step < s) else decide (x.step = s)
    let past := !x.atEnd && decide (x.step < s)
    if fire then d.modTcp fun t => { t with triggered := t.triggered ++ [x] }
    else if past then d.dumpMissed x
    else d.modTcp fun t => { t with dumps := t.dumps ++ [x] })
    (d.modTcp fun t => { t with dumps := [] })).showTcp

/-- The next triggered dump is requested on dm_req while none runs (R174). -/
def DieUnit.dumpRequest (d : DieUnit) : DieUnit :=
  match d.tcp.run, d.tcp.triggered with
  | none, x :: rest =>
    if d.isOn .tcp then
      (d.modTcp fun t =>
        { t with triggered := rest,
                 run := some { d := x, streaming := false, reqAt := d.mono, block := 0, got := 0, sent := 0, chunk := [],
                               crc := crc64Init } }).showTcp
    else d
  | _, _ => d

/-- dm_ack lowers dm_req and starts the stream (R174). -/
def DieUnit.dumpAck (d : DieUnit) : DieUnit :=
  d.modTcp fun t => { t with run := t.run.map fun r => { r with streaming := true } }

/-- A dump not acknowledged within DUMP_DEADLINE ms is missed (R174); 0 acts as 1 (Table 6-16). -/
def DieUnit.dumpAckTimeout (d : DieUnit) : DieUnit :=
  match d.tcp.run with
  | none => d
  | some r =>
    if ¬ r.streaming ∧ r.reqAt + max 1 (d.get TCK_CTRL_DUMP_DEADLINE) * 1000000 ≤ d.mono then
      ((d.modTcp fun t => { t with run := none }).dumpMissed r.d).showTcp
    else d

/-- The capture buffers hold 32 KiB; tc_d_ready stays low while a beat does not fit, and while staging is full (R172, R206). -/
abbrev bufferBytes : Nat := 32768

/-- A chunk holds at most 32 KiB of data (R172, R175). -/
abbrev chunkBytes : Nat := 32768

/-- A dump beat: data of the block being streamed, `last` at its end, `final` where that block ends the dump (log 16); a
beat outside a stream is discarded (R175). -/
def DieUnit.dumpBeat (d : DieUnit) (data : List Byte) (last final abort : Bool) : DieUnit :=
  match d.tcp.run with
  | none => d
  | some r =>
    if ¬ r.streaming ∨ ¬ d.isOn .tcp then d
    else if abort then d.dumpAborted
    else if d.fb.full then d
    else if bufferBytes < d.tcp.buffered + data.length then d
    else
      let chunk := r.chunk ++ data
      let crc := crc64Run r.crc data
      let d1 := d.modTcp fun t => { t with buffered := t.buffered + data.length }
      if last ∨ chunkBytes ≤ chunk.length then
        let check := if last then some (crc ^^^ crc64Init) else none
        let d2 := d1.queueOut (.dumpChunk r.d.job r.d.gen
          (dumpChunk r.d (b2n (last && final)) r.block r.sent check chunk))
        let r' : DumpRun :=
          if last then { r with block := r.block + 1, got := 0, sent := 0, chunk := [], crc := crc64Init }
          else { r with got := r.got + data.length, sent := r.sent + chunk.length, chunk := [], crc := crc }
        (d2.modTcp fun t => { t with run := if last && final then none else some r' }).showTcp
      else d1.modTcp fun t => { t with run := some { r with got := r.got + data.length, chunk := chunk, crc := crc } }

/-! ### Fingerprints (R160 to R164) -/

/-- The map index that names a check event at the current step, the lowest one (R163). -/
def DieUnit.fpIndex (d : DieUnit) (consumed : Bool) (tensor : Nat) : Option Nat :=
  match d.step with
  | none => none
  | some s =>
    if ¬ d.on TCK_CTRL_FP_EN then none
    else (d.tcp.fpMap.find? fun e =>
      let m := e.2
      decide (m.tensor = tensor) && bit m.roles (b2n consumed)
        && (decide (s = m.first) || (decide (m.period ≠ 0) && decide (m.first ≤ s)
          && decide ((s - m.first) % m.period = 0)))).map (·.1)

/-- A fingerprint entry of the current job and step. -/
def DieUnit.fpEntry (d : DieUnit) (check block flags map : Nat) : FpEntry :=
  ⟨check, block, flags, map, d.jobId, d.jobGen, d.get TCK_STEP⟩

/-- A gap entry counts the entries dropped since the one before it (Table 6-5). -/
def DieUnit.gapEntry (d : DieUnit) : FpEntry := d.fpEntry 0 (min d.tcp.fpDropped (2 ^ 32 - 1)) 0x80 0xFF

abbrev fpQueueMax : Nat := 1024

/-- An entry that finds the queue full is dropped (R164). -/
def DieUnit.dropFp (d : DieUnit) : DieUnit :=
  ((d.inc TCK_COUNTS0_FP_DROPPED_N).raise TCK_STATUS_FP_GAP).modTcp fun t => { t with fpDropped := t.fpDropped + 1 }

/-- An entry is queued, after a gap entry where some were dropped and places are free (R164). -/
def DieUnit.queueFp (d : DieUnit) (e : FpEntry) : DieUnit :=
  let free := fpQueueMax - d.tcp.fpQueue.length
  if d.tcp.fpDropped = 0 then
    if 1 ≤ free then (d.modTcp fun t => { t with fpQueue := t.fpQueue ++ [e] }).wake .egr else d.dropFp
  else if 2 ≤ free then
    (d.modTcp fun t => { t with fpQueue := t.fpQueue ++ [d.gapEntry, e], fpDropped := 0 }).wake .egr
  else if free = 1 then
    (d.modTcp fun t => { t with fpQueue := t.fpQueue ++ [d.gapEntry], fpDropped := 0 }).dropFp.wake .egr
  else d.dropFp

/-- A mismatch record (Table 6-3). -/
def DieUnit.mismatchRec (d : DieUnit) (fp : Bool) (tensor block carried computed t : Nat) : List Byte :=
  let flags := b2n fp + b2n d.snStale * 2 + d.quality * 4
  beBytes 4 d.jobId ++ beBytes 1 d.jobGen ++ beBytes 1 flags ++ beBytes 6 (d.get TCK_STEP) ++ beBytes 4 tensor
    ++ beBytes 4 block ++ zeros 4 ++ beBytes 8 carried ++ beBytes 8 computed ++ postmark t
    ++ beBytes 2 (unsigned 16 d.sn.temp) ++ beBytes 2 d.sn.mv ++ zeros 2

/-- A mismatch record is queued, or lost where 8 wait (R161). -/
def DieUnit.queueMismatch (d : DieUnit) (rec : List Byte) : DieUnit :=
  if d.tcp.mismatch.length < 8 then
    (d.modTcp fun t => { t with mismatch := t.mismatch ++ [⟨d.jobId, d.jobGen, rec⟩] }).wake .egr
  else (d.inc TCK_COUNTS0_MISMATCH_LOST_N).raise TCK_STATUS_MISMATCH_LOST

/-- A check event (Table 6-2): nothing while no job is armed or the domain is off (R89, R160). -/
def DieUnit.checkEvent (d : DieUnit) (consumed : Bool) (tensor block carried computed q : Nat) : DieUnit :=
  if ¬ d.isOn .tcp ∨ ¬ d.on TCK_JOB_ARMED then d
  else
    let differ := decide (carried ≠ computed)
    let ix := d.fpIndex consumed tensor
    let d1 := match ix with
      | none => d
      | some i => d.queueFp (d.fpEntry carried block (b2n consumed * 64 + b2n differ * 32) i)
    if differ then
      if consumed then
        ((d1.inc TCK_COUNTS0_MISMATCH_N).raise TCK_STATUS_MISMATCH).queueMismatch
          (d.mismatchRec ix.isSome tensor block carried computed (d.stamp q))
      else (d1.inc TCK_COUNTS0_PROD_INCONS_N).raise TCK_STATUS_PRODUCER_INCONS
    else d1

/-! ### Step advances (R89, R162, R168, R169, R173) -/

/-- The selection values in force become those loaded (R168). -/
def DieUnit.loadSel (d : DieUnit) : DieUnit :=
  d.modTcp fun t =>
    { t with sel := { key := match t.keyNext with | some k => some k | none => t.sel.key,
                      thr := (List.range 32).foldl (fun m j => storeSet 0 m j (d.regs.word (addr_TCK_THR j))) [],
                      bandT := d.regs.word addr_TCK_BAND_T, bandV := d.regs.word addr_TCK_BAND_V,
                      cls := d.regs.word addr_TCK_CLASS },
             keyNext := none,
             fpMap := t.fpNext.getD t.fpMap, fpNext := none }

/-- A step advance: unseen while the domain is off, counted without a job, refused unless it names a greater step that is
not the "no step" value; otherwise the step that ends is closed and the new one begins (R89). -/
def DieUnit.stepAdvance (d : DieUnit) (s : Nat) : DieUnit :=
  if ¬ d.isOn .tcp then d
  else if ¬ d.on TCK_JOB_ARMED then d.inc TCK_COUNTS1_NOJOB_N
  else
    let bad := decide (noStep ≤ s) || (match d.step with | some c => decide (s ≤ c) | none => false)
    if bad then (d.inc TCK_COUNTS1_STEP_REFUSED_N).raise TCK_STATUS_STEP_REFUSED
    else
      let d2 := d.queueCoverage.loadSel
      let d3 := (d2.set TCK_STEP s).modTcp fun t => { t with commits := [], dropped := 0 }
      d3.fireDumps s

/-! ### Tile selection (R91, R93, R165 to R168) -/

/-- How many of three signed thresholds a reading equals or exceeds. -/
def bandOf (w : Nat) (v : Int) (sgn : Bool) : Nat :=
  let th (lo : Nat) : Int := let x := bits w (lo + 15) lo; if sgn then signed 16 x else (x : Int)
  b2n (decide (th 0 ≤ v)) + b2n (decide (th 16 ≤ v)) + b2n (decide (th 32 ≤ v))

/-- The condition cell 16 t + 4 v + c of a commitment (R166). -/
def DieUnit.cellOf (d : DieUnit) (num : Nat) : Nat :=
  let c := d.tcp.sel
  16 * bandOf c.bandT.toNat d.sn.temp true + 4 * bandOf c.bandV.toNat d.sn.mv false
    + bits c.cls.toNat (2 * num + 1) (2 * num)

/-- The threshold of a cell (Table 6-15). -/
def SelCfg.thrOf (c : SelCfg) (cell : Nat) : Nat :=
  let w := (storeGet 0 c.thr (cell / 2)).toNat
  if cell % 2 = 1 then bits w 63 32 else bits w 31 0

/-- The selection message (Table 6-7). -/
def selMessage (job gen step tensor tile : Nat) : List Byte :=
  beBytes 4 job ++ beBytes 1 gen ++ zeros 1 ++ beBytes 6 step ++ beBytes 4 tensor ++ beBytes 4 tile ++ zeros 4

/-- The signals of a tile commitment (Table 3-8). -/
structure CommitIn where
  tensor : Nat
  tile : Nat
  m : Nat
  n : Nat
  k : Nat
  fmt : Nat
  num : Nat
  outCheck : Nat
  deriving DecidableEq, Repr

/-- A tile commitment: it is counted in its cell and hashed; its answer is owed 12 cycles later (R91, R166, R167, R169). -/
def DieUnit.tileCommit (d : DieUnit) (x : CommitIn) (q : Nat) : DieUnit :=
  if ¬ d.isOn .tcp then d
  else
    let cell := d.cellOf (x.num % 16)
    let step := d.get TCK_STEP
    let active := d.on TCK_JOB_ARMED && d.step.isSome
    let wanted := active && d.on TCK_CTRL_SEL_EN &&
      match d.tcp.sel.key with
      | none => false
      | some key =>
        decide ((sipHash key (selMessage d.jobId d.jobGen step x.tensor x.tile)).toNat / 2 ^ 32 < d.tcp.sel.thrOf cell)
    let com : Commit :=
      { job := d.jobId, gen := d.jobGen, step := step, tensor := x.tensor, tile := x.tile, m := x.m % 256, n := x.n % 256,
        k := x.k % 2 ^ 24, fmt := x.fmt % 64, num := x.num % 16, outCheck := x.outCheck, t := d.stamp q, cell := cell,
        temp := d.sn.temp, mv := d.sn.mv, stale := d.snStale, quality := d.quality, wanted := wanted }
    d.modTcp fun t =>
      { t with awaiting := t.awaiting ++ [com],
               commits := if active then storeSet 0 t.commits cell (satAdd 32 (storeGet 0 t.commits cell) 1)
                          else t.commits }

/-- The lowest free capture tag (R167). -/
def TileCapture.freeTag (t : TileCapture) : Option Nat := firstBelow 64 fun i => (tabGet t.caps i).isNone

/-- The 12th edge after a commitment answers it, in order (R91, R93, R167). A commitment whose job has retired since is
answered unselected (log 17). -/
def DieUnit.selectionAnswer (d : DieUnit) : DieUnit :=
  match d.tcp.awaiting with
  | [] => d
  | com :: rest =>
    if ¬ d.isOn .tcp then d
    else
      let answer (sel : Bool) (tag : Nat) (t : TileCapture) : TileCapture :=
        { t with awaiting := rest, answers := t.answers ++ [⟨com.tensor, com.tile, sel, tag⟩] }
      let live := com.wanted && decide (d.job = some (com.job, com.gen))
      match live, d.tcp.freeTag with
      | true, some tag =>
        let c0 : Capture :=
          { com := com, seq := d.tcp.capSeq, at_ := d.mono, begun := false, part := 0, got := 0, sent := 0, chunk := [],
            crc := crc64Init, malformed := false, commitFail := false }
        (d.modTcp fun t => answer true tag
          { t with caps := tabPut t.caps tag c0, capSeq := (t.capSeq + 1) % 2 ^ 32 }).showTcp
      | true, none =>
        ((d.inc TCK_COUNTS1_SEL_DROPPED_N).raise TCK_STATUS_SEL_DROPPED).modTcp fun t =>
          answer false 0 { t with dropped := satAdd 32 t.dropped 1 }
      | false, _ => d.modTcp (answer false 0)

/-! ### Captures (R170 to R172) -/

/-- Element bits of an operand format, and whether it is an MX format with a scale byte for every 32 elements
(Table 11-1); none for a reserved code. -/
def fmtBits (fmt : Nat) : Option (Nat × Bool) :=
  match fmt with
  | 0x01 => some (32, false)
  | 0x02 => some (16, false)
  | 0x03 => some (16, false)
  | 0x04 => some (8, false)
  | 0x05 => some (8, false)
  | 0x06 => some (6, false)
  | 0x07 => some (6, false)
  | 0x08 => some (4, false)
  | 0x10 => some (8, true)
  | 0x11 => some (8, true)
  | 0x12 => some (6, true)
  | 0x13 => some (6, true)
  | 0x14 => some (4, true)
  | 0x15 => some (8, true)
  | _ => none

/-- Bytes of a run of `n` elements: packed end to end, rounded up to whole bytes (R170, R298). -/
def runBytes (bits_ : Nat) (mx : Bool) (n : Nat) : Nat :=
  ceilDiv (n * bits_ + (if mx then ceilDiv n 32 * 8 else 0)) 8

/-- Bytes of an operand part of `rows` runs of `len` elements, where the format is defined. -/
def operandBytes (fmt rows len : Nat) : Option Nat := (fmtBits fmt).map fun f => rows * runBytes f.1 f.2 len

/-- The output element width that TCK_OUTW gives for a descriptor, none for 0b11 (Table 6-15). -/
def DieUnit.outWidth (d : DieUnit) (num : Nat) : Option Nat :=
  match bits (d.get TCK_OUTW) (2 * num + 1) (2 * num) with
  | 0 => some 8
  | 1 => some 16
  | 2 => some 32
  | _ => none

/-- The length of a part, where R171 makes it checkable. -/
def DieUnit.partLen (d : DieUnit) (com : Commit) (part : Nat) : Option Nat :=
  match part with
  | 0 => operandBytes com.fmt (com.m + 1) (com.k + 1)
  | 1 => operandBytes com.fmt (com.n + 1) (com.k + 1)
  | _ => (d.outWidth com.num).map fun w => (com.m + 1) * runBytes w false (com.n + 1)

/-- A capture ends with a status: its tag is free, its descriptor is queued, and the outcome is counted (R171, R172). -/
def DieUnit.endCapture (d : DieUnit) (tag status : Nat) : DieUnit :=
  match tabGet d.tcp.caps tag with
  | none => d
  | some c =>
    let d1 := d.modTcp fun t => { t with caps := tabDel t.caps tag, buffered := t.buffered - c.chunk.length }
    let d2 := d1.queueOut (.capDesc c.com.job c.com.gen (captureDesc c.com c.seq tag status))
    (match status with
      | 0 => d2
      | 3 => (d2.inc TCK_COUNTS2_CAP_MALFORMED_N).raise TCK_STATUS_CAP_MALFORMED
      | 4 => (d2.inc TCK_COUNTS2_CAP_FAIL_N).raise TCK_STATUS_CAP_FAIL
      | _ => (d2.inc TCK_COUNTS2_CAP_INCOMPLETE_N).raise TCK_STATUS_CAP_INCOMPLETE).showTcp

/-- A capture data beat of part A, B or output: taken while the buffers and the staging buffer have room, chunked, checked in
length and order, and at the end of the output part against tc_out_check (R171, R172, R206). A beat of part 0b11 is dump data
whatever its tag, and touches no capture (R175). -/
def DieUnit.captureBeat (d : DieUnit) (tag part : Nat) (data : List Byte) (last : Bool) : DieUnit :=
  if part = 3 then d.dumpBeat data last false false
  else if ¬ d.isOn .tcp ∨ d.fb.full then d
  else match tabGet d.tcp.caps tag with
  | none => d
  | some c =>
    if bufferBytes < d.tcp.buffered + data.length then d
    else if part ≠ c.part then d.endCapture tag 3
    else
      let len := d.partLen c.com part
      let room := match len with | some l => l - c.got | none => data.length
      let take := data.take room
      let got := c.got + take.length
      let bad := match len with
        | some l => (last && decide (got < l)) || (!last && decide (l ≤ got))
        | none => false
      if bad then d.endCapture tag 3
      else
        let crc := if part = 2 then crc64Run c.crc take else c.crc
        let chunk := c.chunk ++ take
        let full := last || decide (chunkBytes ≤ chunk.length)
        let c1 : Capture := { c with begun := true, got := got, crc := crc, chunk := chunk }
        let d1 := d.modTcp fun t => { t with buffered := t.buffered + take.length, caps := tabPut t.caps tag c1 }
        let d2 := if full ∧ chunk ≠ [] then
            (d1.queueOut (.capChunk c.com.job c.com.gen
              (captureChunk c.com c.seq tag part c.sent last chunk))).modTcp fun t =>
                { t with caps := tabPut t.caps tag { c1 with sent := c.sent + chunk.length, chunk := [] } }
          else d1
        if last then
          if part = 2 then
            let fail := (d.outWidth c.com.num).isSome && decide (crc ^^^ crc64Init ≠ c.com.outCheck)
            d2.endCapture tag (if fail then 4 else 0)
          else d2.modTcp fun t =>
            { t with caps := tabMod t.caps tag fun c => { c with part := part + 1, got := 0, sent := 0, chunk := [] } }
        else d2

/-- tc_d_abort ends the tagged capture ABORTED (R171). -/
def DieUnit.captureAbort (d : DieUnit) (tag : Nat) : DieUnit := if d.isOn .tcp then d.endCapture tag 2 else d

/-- The capture deadline in ns (Table 6-16). -/
def DieUnit.capDeadline (d : DieUnit) : Nat := d.get TCK_CTRL_CAP_DEADLINE * 100000

/-- A capture with no beat within the deadline ends NOT-BEGUN (Table 6-9). -/
def DieUnit.captureDeadline (d : DieUnit) (tag : Nat) : DieUnit :=
  match tabGet d.tcp.caps tag with
  | none => d
  | some c => if ¬ c.begun ∧ c.at_ + d.capDeadline ≤ d.mono then d.endCapture tag 1 else d

/-- A begun capture that is not complete within four deadlines ends UNFINISHED (Table 6-9). -/
def DieUnit.captureUnfinished (d : DieUnit) (tag : Nat) : DieUnit :=
  match tabGet d.tcp.caps tag with
  | none => d
  | some c => if c.begun ∧ c.at_ + 4 * d.capDeadline ≤ d.mono then d.endCapture tag 6 else d

/-! ### Lineage (R177, R178) -/

/-- The acceptance conditions of a lineage record, byte 0 first (R178). -/
def DieUnit.lineageOk (d : DieUnit) (rec : List Byte) : Bool :=
  d.on TCK_CTRL_LN_EN && d.on TCK_JOB_ARMED && decide (be rec 0 1 = 1) && decide (be rec 4 4 = d.jobId)
    && decide (be rec 2 1 = d.jobGen) && decide (be rec 1 1 < 4)
    && (decide (be rec 1 1 ≠ 0) || !bit (be rec 40 4) 31)

/-- A lineage record is transferred while the queue has room: accepted and queued unchanged, or refused (R178). -/
def DieUnit.lineageTransfer (d : DieUnit) (rec : List Byte) : DieUnit :=
  if ¬ d.isOn .tcp ∨ 256 ≤ d.tcp.lineage.length then d
  else if d.lineageOk rec then
    (d.modTcp fun t => { t with lineage := t.lineage ++ [⟨d.jobId, d.jobGen, rec⟩] }).wake .egr
  else (d.inc TCK_COUNTS1_LN_REFUSED_N).raise TCK_STATUS_LN_REFUSED

/-! ### Arming and retirement (R179) -/

/-- ARM loads the job and generation and leaves no step current; CAP_SEQ starts at 0 (R172, R179). -/
def DieUnit.armJob (d : DieUnit) (job gen : Nat) : DieUnit :=
  let d1 := ((d.set TCK_JOB_ARMED 1).set TCK_JOB_JOB_ID job).set TCK_JOB_GEN gen
  (d1.set TCK_STEP noStep).modTcp fun t => { t with commits := [], dropped := 0, capSeq := 0 }

/-- Retirement, in the order of R179. -/
def DieUnit.retireJob (d : DieUnit) : DieUnit :=
  let d1 := d.queueCoverage
  let d2 := (d1.tcp.caps.map (·.1)).foldl (fun (d : DieUnit) tag => d.endCapture tag 5) d1
  let d3 := d2.dumpAborted
  let d4 := d3.modTcp fun t =>
    { t with dumps := [], triggered := [], fpMap := [], fpNext := none, keyNext := none,
             sel := { t.sel with key := none }, commits := [], dropped := 0 }
  ((((d4.set TCK_STEP noStep).set TCK_JOB_ARMED 0).set TCK_JOB_JOB_ID 0).set TCK_JOB_GEN 0).showTcp

end Sys2Proof.Machine
end

