-- ==== Sys2Proof/Machine/Frame.lean ====
section
/-!
DEFINITION. The frame builder of the die unit: parcels, staging and the producers that feed it (R123, R152, R181 to R191,
R206 to R208).
-/
namespace Sys2Proof.Machine

def DieUnit.modFb (d : DieUnit) (f : FrameBuilder → FrameBuilder) : DieUnit := { d with fb := f d.fb }
def DieUnit.modShp (d : DieUnit) (f : Shaper → Shaper) : DieUnit := { d with shp := f d.shp }

/-! ### Staging (R206) -/

/-- The peal reserve and the rest of the staging buffer, in bytes. -/
abbrev reserveBytes : Nat := 16384
abbrev restBytes : Nat := 131072 - 16384

def OpenParcel.size (o : OpenParcel) : Nat := 40 + (o.records.map (·.length)).foldl (· + ·) 0

/-- Bytes in the peal reserve, and in the rest: closed parcels and the record parcels that are open (log 23). -/
def FrameBuilder.reserveUsed (f : FrameBuilder) : Nat :=
  ((f.staged.filter (·.reserve)).map (·.bytes.length)).foldl (· + ·) 0
def FrameBuilder.restUsed (f : FrameBuilder) : Nat :=
  ((f.staged.filter fun p => !p.reserve).map (·.bytes.length)).foldl (· + ·) 0
    + (f.opens.map OpenParcel.size).foldl (· + ·) 0

/-- Where `n` more bytes of a parcel type fit: true for the peal reserve; none where they do not fit. -/
def FrameBuilder.fits (f : FrameBuilder) (ptype n : Nat) : Option Bool :=
  if ptype = ptPeal ∧ f.reserveUsed + n ≤ reserveBytes then some true
  else if f.restUsed + n ≤ restBytes then some false
  else none

/-- Staging has no room: producers are held, and the occurrence is counted once until room returns (R206). -/
def DieUnit.stagingFull (d : DieUnit) : DieUnit :=
  if d.fb.full then d
  else ((d.modFb fun f => { f with full := true }).inc FB_COUNTS1_STAGING_FULL_N).raise FB_STATUS_STAGING_FULL

/-- The stream that FB_PMAP names for a parcel type. -/
def DieUnit.streamOf (d : DieUnit) (ptype : Nat) : Nat := d.get (FB_PMAP (ptype - 1))

/-- The die unit's SRC. -/
def DieUnit.src (d : DieUnit) : Nat := srcDu d.duid

/-- Bytes of a stream that wait to be sent. -/
def FrameBuilder.waiting (f : FrameBuilder) (s : Nat) : Bool := f.staged.any fun p => p.stream = s

/-- A closed parcel enters staging, last of its stream; a stream that was empty takes the start tag V (R206, R207, R215,
R509). -/
def DieUnit.stageParcel (d : DieUnit) (ptype coding stream job gen records : Nat) (ref body : List Byte) (reserve : Bool) :
    DieUnit :=
  let pseq := storeGet 0 d.fb.pseq stream
  let bytes := buildParcel ptype coding ⟨d.src, streamId d.duid stream, gen, job, pseq⟩ ref records body
  let p : Parcel := ⟨ptype, stream, job, gen, pseq, d.step, bytes, 0, none, reserve⟩
  let d1 := if d.fb.waiting stream then d
    else d.modShp fun x => { x with tags := tabPut x.tags stream (d.get SHP_VTIME) }
  let d2 := d1.modFb fun f =>
    { f with staged := f.staged ++ [p], pseq := storeSet 0 f.pseq stream ((pseq + 1) % 2 ^ 32) }
  d2.set FB_STATUS_PARCELS_WAITING d2.fb.staged.length

/-! ### Record parcels (R185, R188, R206) -/

/-- The open parcel of a type closes; its REF is the postmark of the decision (R186). -/
def DieUnit.closeParcel (d : DieUnit) (ptype : Nat) : DieUnit :=
  match d.fb.opens.find? fun o => o.ptype = ptype with
  | none => d
  | some o =>
    (d.modFb fun f => { f with opens := f.opens.filter fun x => x.ptype ≠ ptype }).stageParcel ptype 0 o.stream o.job o.gen
      o.records.length (postmark (d.stamp 0)) (o.records.flatMap id) false

def DieUnit.openOf (d : DieUnit) (ptype : Nat) : Option OpenParcel := d.fb.opens.find? fun o => o.ptype = ptype

/-- A record joins a step group that stands last in the parcel where job, generation and step agree (Table 6-6). -/
def mergeGroup (last rec : List Byte) : Option (List Byte) :=
  if slice last 4 12 = slice rec 4 12 then some (beBytes 4 (be last 0 4 + be rec 0 4) ++ last.drop 4 ++ rec.drop 16)
  else none

/-- The records of an open parcel with one more. -/
def addRecord (ptype : Nat) (records : List (List Byte)) (rec : List Byte) : List (List Byte) :=
  match records.reverse with
  | last :: front =>
    if ptype = ptFingerprint then
      match mergeGroup last rec with
      | some g => (g :: front).reverse
      | none => records ++ [rec]
    else records ++ [rec]
  | [] => [rec]

/-- The size of an open parcel with one more record. -/
def OpenParcel.sizeWith (o : OpenParcel) (rec : List Byte) : Nat :=
  OpenParcel.size { o with records := addRecord o.ptype o.records rec }

/-- A record of a job and generation enters the parcel of its type: a parcel of another job or generation closes first, and
so does one that would pass 65,536 bytes; true where it is taken, false while staging has no room (R185, R206, R208). -/
def DieUnit.putRecord (d : DieUnit) (ptype job gen : Nat) (rec : List Byte) : Bool × DieUnit :=
  let d1 := match d.openOf ptype with
    | some o => if o.job ≠ job ∨ o.gen ≠ gen ∨ parcelMax < o.sizeWith rec then d.closeParcel ptype else d
    | none => d
  match d1.openOf ptype with
  | some o =>
    match d1.fb.fits ptype (o.sizeWith rec - o.size) with
    | none => (false, d1.stagingFull)
    | some _ =>
      (true, d1.modFb fun f =>
        { f with opens := f.opens.map fun x =>
            if x.ptype = ptype then { x with records := addRecord ptype o.records rec } else x })
  | none =>
    match d1.fb.fits ptype (40 + rec.length) with
    | none => (false, d1.stagingFull)
    | some _ =>
      let o : OpenParcel := ⟨ptype, job, gen, d1.streamOf ptype, max 1 (d1.get FB_CTRL_CLOSE) * 10000, d1.mono, [rec]⟩
      (true, d1.modFb fun f => { f with opens := f.opens ++ [o] })

/-- A parcel that holds one segment or chunk (R206); true where it is taken. -/
def DieUnit.putWhole (d : DieUnit) (ptype job gen : Nat) (ref body : List Byte) : Bool × DieUnit :=
  match d.fb.fits ptype (40 + body.length) with
  | none => (false, d.stagingFull)
  | some r => (true, d.stageParcel ptype 0 (d.streamOf ptype) job gen 1 ref body r)

/-- A matrix parcel, residual or raw as CODEC_EN says (R189, R206); true where it is taken. -/
def DieUnit.putMatrix (d : DieUnit) (ptype w h job gen : Nat) (ref desc : List Byte) (samples : List W64) :
    Bool × DieUnit :=
  let res := d.on FB_CTRL_CODEC_EN
  let body := matrixBody w h (d.get FB_CTRL_LAG_K + 1) res desc samples
  match d.fb.fits ptype (40 + body.length) with
  | none => (false, d.stagingFull)
  | some r => (true, d.stageParcel ptype (matrixCoding res) (d.streamOf ptype) job gen h ref body r)

/-! ### Producers that wait in their own queues (R206) -/

/-- A fingerprint entry as a step group of one (Tables 6-5, 6-6). -/
def FpEntry.group (e : FpEntry) : List Byte :=
  beBytes 4 1 ++ beBytes 4 e.job ++ beBytes 1 e.gen ++ zeros 1 ++ beBytes 6 e.step ++ beBytes 8 e.check
    ++ beBytes 4 e.block ++ beBytes 1 e.flags ++ beBytes 1 e.map ++ zeros 2

/-- Capture and dump data leave the capture buffers with their chunk (R172, R175). -/
def TileOut.dataLen : TileOut → Nat
  | .capChunk _ _ b => b.length - 24
  | .dumpChunk _ _ b => b.length - 40
  | .capDesc _ _ _ => 0

def DieUnit.putTileOut (d : DieUnit) : TileOut → Bool × DieUnit
  | .capChunk j g b => d.putWhole ptCapture j g (postmark (d.stamp 0)) b
  | .dumpChunk j g b => d.putWhole ptDump j g (postmark (d.stamp 0)) b
  | .capDesc j g b => d.putRecord ptCapDesc j g b

/-- Records of one queue move while they are taken: what is left of the queue, and the die unit. -/
def DieUnit.moveAll {α : Type} (put : DieUnit → α → Bool × DieUnit) : List α → DieUnit → List α × DieUnit
  | [], d => ([], d)
  | x :: rest, d =>
    match put d x with
    | (true, d') => DieUnit.moveAll put rest d'
    | (false, d') => (x :: rest, d')

def DieUnit.putJobRec (ptype : Nat) (d : DieUnit) (r : JobRec) : Bool × DieUnit := d.putRecord ptype r.job r.gen r.bytes

/-- A MISMATCH or HEALTH parcel closes as soon as its record queue is empty (R206). -/
def DieUnit.closeIfEmpty (d : DieUnit) (ptype : Nat) (empty : Bool) : DieUnit := if empty then d.closeParcel ptype else d

def DieUnit.moveTile (d : DieUnit) : DieUnit :=
  let (out, d1) := DieUnit.moveAll (fun d (x : TileOut) =>
    match d.putTileOut x with
    | (true, d') => (true, d'.modTcp fun t => { t with buffered := t.buffered - x.dataLen })
    | (false, d') => (false, d')) d.tcp.out d
  d1.modTcp fun t => { t with out := out }

def DieUnit.moveMismatch (d : DieUnit) : DieUnit :=
  let (q, d1) := DieUnit.moveAll (DieUnit.putJobRec ptMismatch) d.tcp.mismatch d
  (d1.modTcp fun t => { t with mismatch := q }).closeIfEmpty ptMismatch q.isEmpty

def DieUnit.moveFp (d : DieUnit) : DieUnit :=
  let (q, d1) := DieUnit.moveAll (fun d (e : FpEntry) => d.putRecord ptFingerprint e.job e.gen e.group) d.tcp.fpQueue d
  d1.modTcp fun t => { t with fpQueue := q }

def DieUnit.moveCoverage (d : DieUnit) : DieUnit :=
  let (q, d1) := DieUnit.moveAll (DieUnit.putJobRec ptCoverage) d.tcp.covQueue d
  d1.modTcp fun t => { t with covQueue := q }

def DieUnit.moveLineage (d : DieUnit) : DieUnit :=
  let (q, d1) := DieUnit.moveAll (DieUnit.putJobRec ptLineage) d.tcp.lineage d
  d1.modTcp fun t => { t with lineage := q }

def DieUnit.moveHealth (d : DieUnit) : DieUnit :=
  let (q, d1) := DieUnit.moveAll (fun d (r : HealthRec) => d.putRecord ptHealth r.job r.gen (r.bytes d.duid))
    (d.he.queue.filter (·.released)) d
  (d1.modHe fun h => { h with queue := q ++ h.queue.filter fun r => !r.released }).closeIfEmpty ptHealth q.isEmpty

/-- Mismatch records go ahead of every other output of the tile capture domain, and coverage records ahead of every output but
those: what stands behind one that waits, waits too (R161, R169). -/
def DieUnit.moveTcp (d : DieUnit) : DieUnit :=
  let d1 := d.moveMismatch
  if d1.tcp.mismatch ≠ [] then d1
  else
    let d2 := d1.moveCoverage
    if d2.tcp.covQueue ≠ [] then d2 else d2.moveTile.moveFp.moveLineage

/-- The frame builder takes what its producers hold, while its domain is on and staging has room (R206). -/
def DieUnit.serve (d : DieUnit) : DieUnit := if d.isOn .egr then d.moveTcp.moveHealth else d

/-- MISMATCH and HEALTH parcels close only as their record queue empties (R206). -/
def closesEmpty (ptype : Nat) : Bool := decide (ptype = ptMismatch ∨ ptype = ptHealth)

/-- A record parcel open CLOSE × 10 µs after its first record closes (R206). -/
def DieUnit.closeTimeout (d : DieUnit) (ptype : Nat) : DieUnit :=
  match d.openOf ptype with
  | some o => if d.isOn .egr ∧ ¬ closesEmpty ptype ∧ o.at_ + o.closeNs ≤ d.mono then (d.closeParcel ptype).serve else d
  | none => d

/-- Every open record parcel, MISMATCH and HEALTH aside, closes when the job is retired (R206). -/
def DieUnit.closeAll (d : DieUnit) : DieUnit :=
  if d.isOn .egr then ((d.fb.opens.map (·.ptype)).filter fun t => !closesEmpty t).foldl (fun (d : DieUnit) t => d.closeParcel t) d else d

/-! ### Peal banks, latch parcels and trace segments -/

/-- The peal descriptor (Table 7-7). -/
def PealBank.desc (k : PealBank) (id : Nat) : List Byte :=
  let flags := k.quality + 4 * b2n k.stepped + 8 * b2n k.gap + 16 * b2n k.frozen + 32 * b2n k.cstop
  beBytes 2 id ++ beBytes 1 flags ++ zeros 1 ++ beBytes 4 k.cmdSeq ++ postmark k.tp ++ postmark k.snapT
    ++ zeros 4

/-- The samples of a snapshot: counters 0 to 511, or the light set alone (R190). -/
def PealBank.samples (k : PealBank) : List W64 :=
  let light := (List.range 32).map fun i => storeGet 0 k.light i
  if k.cstop then light else ((List.range 480).map fun i => storeGet 0 k.main i) ++ light

/-- A pending peal bank is copied into one PEAL parcel for each of its peal IDs as soon as they fit, and is free then
(R61, R123, R190). -/
def DieUnit.copyBank (d : DieUnit) (b : Nat) : DieUnit :=
  let k := d.bank b
  if ¬ d.isOn .egr ∨ ¬ k.pending ∨ k.lightDue then d
  else
    match k.ids with
    | [] => (d.setBank b { k with pending := false }).showPending
    | id :: rest =>
      match d.putMatrix ptPeal (if k.cstop then 32 else 512) 1 d.jobId d.jobGen (postmark k.snapT) (k.desc id)
          k.samples with
      | (false, d1) => d1
      | (true, d1) =>
        if rest = [] then (d1.setBank b { k with pending := false }).showPending
        else d1.setBank b { k with ids := rest }

/-- The latch descriptor (Table 7-8). -/
def LatchParcel.desc (x : LatchParcel) : List Byte :=
  let map := (List.range 64).map fun j =>
    BitVec.ofNat 8 (((List.range 8).map fun i => b2n (x.counters.contains (8 * j + i)) * 2 ^ (7 - i)).foldl (· + ·) 0)
  beBytes 4 x.start.cmId ++ beBytes 4 x.start.cmdSeq
    ++ beBytes 1 (b2n x.scaled + 2 * b2n x.gap + 4 * b2n (x.start.frozen || x.stop.frozen)) ++ zeros 7 ++ postmark x.start.t ++ postmark x.stop.t
    ++ zeros 4 ++ map

/-- A queued latch parcel is encoded into staging when it fits (R117, R191, R206). -/
def DieUnit.buildLatch (d : DieUnit) : DieUnit :=
  match d.cnt.latchQueue with
  | [] => d
  | x :: rest =>
    if ¬ d.isOn .egr then d
    else
      let row (m : Store W64) : List W64 := x.counters.map fun n => storeGet 0 m n
      match d.putMatrix ptLatch x.counters.length 2 x.job x.gen (postmark x.stop.t) x.desc
          (row x.start.main ++ row x.stop.main) with
      | (true, d1) => d1.modCnt fun c => { c with latchQueue := rest }
      | (false, d1) => d1

/-- The drain engine sends the oldest segment it may send and frees it once the parcel is accepted: closed ones in STREAM
mode, every one that holds packets while the ring is frozen or before power-down; none while DRAIN_EN stops it (R148, R152 to
R154). -/
def DieUnit.drainSegment (d : DieUnit) : DieUnit :=
  let whole := d.on TRC_STATUS_RING_FROZEN || d.trc.sleeping
  let may := d.on TRC_CTRL_DRAIN_EN && (whole || !d.ringMode)
  match (if may ∧ d.isOn .egr then d.trc.oldest true else none) with
  | none => d
  | some i =>
    match tabGet d.trc.segs i with
    | none => d
    | some s =>
      match d.putWhole ptTrace d.jobId d.jobGen (postmark (d.stamp 0)) s.image with
      | (false, d1) => d1
      | (true, d1) =>
        let d2 := (d1.modTrc fun t => { t with segs := tabDel t.segs i }).showSegs
        if d2.on TRC_STATUS_RING_FROZEN ∧ d2.trc.segs = [] then
          (d2.set TRC_STATUS_RING_FROZEN 0).raise TRC_STATUS_RING_DONE
        else d2

end Sys2Proof.Machine
end

