-- ==== Sys2Proof/Machine/Shaper.lean ====
section
/-!
DEFINITION. The shaper, the gate list and the launch decision of the die unit (R64, R65, R82, R181 to R185, R207,
R209 to R219, R509).
-/
namespace Sys2Proof.Machine

/-! ### Charged length and duration (R209) -/

def charged (payload : Nat) : Nat := payload + 38

/-- A frame's duration in ns. -/
def DieUnit.duration (d : DieUnit) (payload : Nat) : Nat :=
  ceilDiv (8 * charged payload * 1000) (max 1 (d.get SHP_CTRL_LINE_MBPS))

/-! ### Buckets (R211, R212, R214) -/

def DieUnit.cbs (d : DieUnit) (s : Nat) : Nat := max 36 (d.get (SHP_BURST_CBS s)) * 2048
def DieUnit.pbs (d : DieUnit) (s : Nat) : Nat := max 36 (d.get (SHP_BURST_PBS s)) * 2048
def DieUnit.tokC (d : DieUnit) (s : Nat) : Nat := storeGet resetDepth d.shp.tokC s
def DieUnit.tokP (d : DieUnit) (s : Nat) : Nat := storeGet resetDepth d.shp.tokP s
def DieUnit.setTok (d : DieUnit) (s c p : Nat) : DieUnit :=
  d.modShp fun x => { x with tokC := storeSet resetDepth x.tokC s c, tokP := storeSet resetDepth x.tokP s p }

/-- The stream a shaper register belongs to. -/
def shapeStream (key : Nat) : Nat := if key < addr_SHP_BURST 0 then (key - addr_SHP_RATE 0) / 8
  else (key - addr_SHP_BURST 0) / 8

/-- A write of SHP_RATE_s: refused where PIR < CIR or either is above 400,000, else held (Table 8-5, R214). A write of
SHP_BURST_s: GATED acts at once, the rest is held. -/
def DieUnit.writeShape (d : DieUnit) (key : Nat) (w : W64) (fill : Bool) : DieUnit :=
  if ¬ d.isOn .egr then d
  else
    let hold (d : DieUnit) : DieUnit :=
      d.modShp fun x => { x with held := (x.held.filter fun h => h.key ≠ key) ++ [⟨key, w, fill⟩] }
    if key < addr_SHP_BURST 0 then
      let pir := bits w.toNat 55 32
      let cir := bits w.toNat 23 0
      if pir < cir ∨ 400000 < pir ∨ 400000 < cir then d.raise SHP_STATUS_CFG_INVALID else hold d
    else hold (d.set (SHP_BURST_GATED (shapeStream key)) (bits w.toNat 63 63))

/-- Held writes take effect: token counts are clipped to the new depths, or the buckets fill where a control frame wrote
(R211, R214). -/
def DieUnit.applyHeld (d : DieUnit) : DieUnit :=
  let one (d : DieUnit) (h : HeldShape) : DieUnit :=
    let s := shapeStream h.key
    let g := d.get (SHP_BURST_GATED s)
    let d1 := { d with regs := d.regs.setWord h.key h.word }
    let d2 := if addr_SHP_BURST 0 ≤ h.key then d1.set (SHP_BURST_GATED s) g else d1
    d2.setTok s (min (d2.tokC s) (d2.cbs s)) (min (d2.tokP s) (d2.pbs s))
  let fill (d : DieUnit) (h : HeldShape) : DieUnit :=
    let s := shapeStream h.key
    if h.fill then d.setTok s (d.cbs s) (d.pbs s) else d
  let d1 := d.shp.held.foldl one d
  (d.shp.held.foldl fill d1).modShp fun x => { x with held := [] }

/-- The streams that have a rate. -/
def DieUnit.ratedStreams (d : DieUnit) : List Nat :=
  (List.range 64).filter fun s => d.regs.word (addr_SHP_RATE s) ≠ 0

/-- SHAPER_REFILL at the egress edge of Fleet Time `t`: pending writes apply, and the buckets gain the tokens of every whole
multiple of 1,000 ns of local Fleet Time passed since the last one taken (R211). -/
def DieUnit.refill (d : DieUnit) (t : Nat) : DieUnit :=
  let m := t / (1000 * nsU)
  if ¬ d.isOn .egr ∨ m ≤ d.shp.lastMult then d
  else
    let k := m - d.shp.lastMult
    let d1 := d.applyHeld
    let d2 := d1.ratedStreams.foldl (fun (d : DieUnit) s =>
      d.setTok s (min (d.cbs s) (d.tokC s + k * d.get (SHP_RATE_CIR s)))
        (min (d.pbs s) (d.tokP s + k * d.get (SHP_RATE_PIR s)))) d1
    d2.modShp fun x => { x with lastMult := m }

/-! ### Gate lists (R216 to R218) -/

/-- The shadow list, its enabled entries (Tables 8-2 to 8-6). -/
def DieUnit.shadowList (d : DieUnit) : GateList :=
  ⟨d.get GATE_BASE, d.get GATE_CYCLE % 2 ^ 32,
    ((List.range 32).filter fun e => bit (d.get GATE_FLAGS_ENTRY_EN) e).map fun e =>
      (e, ⟨d.get (GATE_MASK e), bit (d.get GATE_FLAGS_EXCL) e, d.get (GATE_TIME_OFFSET e), d.get (GATE_TIME_DURATION e)⟩)⟩

/-- The first cycle start at or after a time in ns (R218). -/
def GateList.startAt (g : GateList) (t : Nat) : Nat :=
  if t ≤ g.base then g.base else g.base + ceilDiv (t - g.base) (max 1 g.cycle) * max 1 g.cycle

/-- GATE_COMMIT: the shadow list becomes pending, or the commit is ignored with CFG_INVALID (R218). -/
def DieUnit.gateCommit (d : DieUnit) : DieUnit :=
  if ¬ d.isOn .egr then d
  else
    let g := d.shadowList
    let least := d.duration (d.get FB_CTRL_MAX_PAYLOAD)
    if g.cycle < 1000 ∨ g.wins.any (fun e => g.cycle < e.2.off + e.2.dur || e.2.dur < least) then
      d.raise SHP_STATUS_CFG_INVALID
    else
      (d.modShp fun x => { x with pending := some (g, g.startAt (d.get GATE_SWITCH_T)) }).set SHP_STATUS_GATE_PENDING 1

/-- When window `e` of a list that contains instant `t` (2^-16 ns) opened, where it is open: open time inclusive, close
time exclusive, and no earlier than where the list resumed after a step (R65, R216). -/
def GateList.openAt (g : GateList) (from_ : Nat) (w : GateWin) (t : Nat) : Bool :=
  let ns := t / nsU
  if ns < g.base then false
  else
    let c := max 1 g.cycle
    let start := g.base + (ns - g.base) / c * c
    let op := (start + w.off) * nsU
    decide (op ≤ t) && decide (t < op + w.dur * nsU) && decide (from_ ≤ op)

/-- The windows of a list that are open at an instant. -/
def GateList.openSet (g : GateList) (from_ t : Nat) : List Nat :=
  (g.wins.filter fun e => g.openAt from_ e.2 t).map (·.1)

/-- Instants between `t` and `t2` at which a window of a list opens or closes. -/
def GateList.edges (g : GateList) (t t2 : Nat) : List Nat :=
  let c := max 1 g.cycle
  let ns := t / nsU
  let m0 := (ns - g.base) / c
  let n := (t2 / nsU + 1 - ns) / c + 2
  (g.wins.flatMap fun e => (List.range n).flatMap fun i =>
    let op := (g.base + (m0 + i) * c + e.2.off) * nsU
    [op, op + e.2.dur * nsU]).filter fun x => decide (t < x) && decide (x < t2)

/-- The list in force at an instant: the pending one from its switch time on (R218). -/
def Shaper.listAt (x : Shaper) (t : Nat) : Option GateList :=
  match x.pending with
  | some (g, sw) => if sw * nsU ≤ t then some g else x.active
  | none => x.active

/-- Stream `s` is permitted while the windows `open_` of the list are open (R216). -/
def permits (g : GateList) (open_ : List Nat) (gated : Bool) (s : Nat) : Bool :=
  let ws := open_.filterMap fun e => tabGet g.wins e
  let exc := ws.filter (·.excl)
  if exc = [] then !gated || ws.any fun w => bit w.mask s else exc.any fun w => bit w.mask s

/-- Stream `s` is permitted at an instant. -/
def DieUnit.permitted (d : DieUnit) (s t : Nat) : Bool :=
  if ¬ d.on SHP_CTRL_GATE_EN then true
  else
    let gated := d.on (SHP_BURST_GATED s)
    match d.shp.listAt t with
    | none => !gated
    | some g => permits g (g.openSet d.shp.gateFrom t) gated s

/-- The gate test: permitted at every instant from `t` up to the end of the frame (R217). -/
def DieUnit.gateTest (d : DieUnit) (s t durNs : Nat) : Bool :=
  let t2 := t + durNs * nsU
  let own := match d.shp.active with | some g => g.edges t t2 | none => []
  let next := match d.shp.pending with
    | some (g, sw) => (sw * nsU) :: g.edges t t2
    | none => []
  d.permitted s t && ((own ++ next).filter fun x => decide (t < x) && decide (x < t2)).all fun x => d.permitted s x

/-- The set of open windows follows the list at an egress edge (R64). -/
def DieUnit.showWindows (d : DieUnit) (t : Nat) : DieUnit :=
  d.modShp fun x =>
    { x with openWins := match x.active with | some g => g.openSet x.gateFrom t | none => [] }

/-- GATE_WINDOW_OPEN: entry `e` opens at the egress edge `q`, at or after its open time (R64). -/
def DieUnit.windowOpen (d : DieUnit) (e q : Nat) : DieUnit :=
  match d.shp.active with
  | some g =>
    if d.isOn .egr ∧ (g.openSet d.shp.gateFrom (d.stamp q)).contains e ∧ ¬ d.shp.openWins.contains e then
      d.modShp fun x => { x with openWins := x.openWins ++ [e] }
    else d
  | none => d

/-- GATE_WINDOW_CLOSE: entry `e` closes at the egress edge `q`, at or after its close time (R64). -/
def DieUnit.windowClose (d : DieUnit) (e q : Nat) : DieUnit :=
  match d.shp.active with
  | some g =>
    if d.isOn .egr ∧ ¬ (g.openSet d.shp.gateFrom (d.stamp q)).contains e then
      d.modShp fun x => { x with openWins := x.openWins.filter fun y => y ≠ e }
    else d
  | none => d

/-- GATE_LIST_SWITCH: the pending list becomes active at its switch time; a window of the old list closes (R218). -/
def DieUnit.gateSwitch (d : DieUnit) (q : Nat) : DieUnit :=
  match d.shp.pending with
  | some (g, sw) =>
    if d.isOn .egr ∧ sw * nsU ≤ d.stamp q then
      let d1 := d.modShp fun x => { x with active := some g, pending := none, openWins := [] }
      ((d1.set SHP_STATUS_GATE_PENDING 0).set SHP_STATUS_GATE_ACTIVE 1).raise SHP_STATUS_GATE_SWITCHED
    else d
  | none => d

/-- A step closes the open windows, and the list resumes at the first window that opens at or after the new local time
(R65). -/
def DieUnit.stepGates (d : DieUnit) : DieUnit :=
  d.modShp fun x => { x with openWins := [], gateFrom := d.tc.now }

/-! ### Destinations (R25, R27, R509) -/

/-- A parcel of step `p` goes to the partner: during failover, and after READMIT names S, where its step is before S. -/
def DieUnit.toPartner (d : DieUnit) (p : Option Nat) : Bool :=
  match d.ctl.readmit with
  | some s => (match p with | some x => decide (x < s) | none => false)
  | none => decide (d.get DU_ASSIGN_SERVING = 2)

/-- The MAC address that telemetry of a step goes to. -/
def DieUnit.destOf (d : DieUnit) (p : Option Nat) : Nat := if d.toPartner p then d.ctl.partnerMac else d.ctl.aggMac

/-- A parcel that is partly sent goes on to the aggregator that its first fragment went to (R509). -/
def DieUnit.parcelToPartner (d : DieUnit) (p : Parcel) : Bool := p.split.getD (d.toPartner p.step)

/-- The MAC address that a parcel goes to. -/
def DieUnit.parcelDest (d : DieUnit) (p : Parcel) : Nat := if d.parcelToPartner p then d.ctl.partnerMac else d.ctl.aggMac

/-! ### Frames (R185, R207, R210, R215) -/

/-- One fragment of the frame being formed: the parcel's place in staging, its bytes from `off`. -/
structure FragPlan where
  ix : Nat
  off : Nat
  len : Nat
  deriving DecidableEq, Repr

/-- Fragments of a stream's parcels in order while they belong to one job, generation and destination and fit the payload:
`used` bytes are taken and `n` fragments may still follow (R185, R210, R509). -/
def planFrags (d : DieUnit) (s max_ : Nat) : Option Parcel → Nat → Nat → Nat → List Parcel → List FragPlan
  | _, _, _, _, [] => []
  | head, n, ix, used, p :: rest =>
    if p.stream ≠ s then planFrags d s max_ head n (ix + 1) used rest
    else
      let same := match head with
        | none => true
        | some h => decide (h.job = p.job) && decide (h.gen = p.gen) && (d.parcelToPartner h == d.parcelToPartner p)
      let room := max_ - (used + 12)
      if n = 0 ∨ same = false ∨ room = 0 then []
      else
        let len := min (min (p.bytes.length - p.sent) room) fragMax
        let f : FragPlan := ⟨ix, p.sent, len⟩
        if len < p.bytes.length - p.sent then [f]
        else f :: planFrags d s max_ (some (head.getD p)) (n - 1) (ix + 1) (used + 12 + len) rest

/-- The frame stream `s` would launch next (R210). -/
def DieUnit.formFrame (d : DieUnit) (s : Nat) : List FragPlan :=
  planFrags d s (d.get FB_CTRL_MAX_PAYLOAD) none 255 0 32 d.fb.staged

/-- Payload bytes of a formed frame, padding included (R181). -/
def planLen (fs : List FragPlan) : Nat := max 46 (32 + (fs.map fun f => 12 + f.len).foldl (· + ·) 0)

/-- The finish tag of a stream's next frame (R215). -/
def DieUnit.finishTag (d : DieUnit) (s payload : Nat) : Nat :=
  ((tabGet d.shp.tags s).getD 0) + ceilDiv (charged payload * 256) (max 1 (d.get (SHP_BURST_WT s)))

/-- A stream with a frame waiting, as a launch decision sees it. -/
structure Head where
  s : Nat
  payload : Nat
  committed : Bool
  excess : Bool
  gate : Bool
  finish : Nat
  /-- place in closing order of its oldest MISMATCH parcel -/
  mismatch : Option Nat
  deriving DecidableEq, Repr

def DieUnit.headOf (d : DieUnit) (t s : Nat) : Option Head :=
  match d.formFrame s with
  | [] => none
  | fs =>
    let n := planLen fs
    let need := 8 * charged n
    let rated := d.get (SHP_RATE_PIR s) ≠ 0
    let peak := rated && decide (need ≤ d.tokP s)
    let com := decide (need ≤ d.tokC s)
    some ⟨s, n, peak && com, peak && !com, d.gateTest s t (d.duration n), d.finishTag s n,
      d.fb.staged.findIdx? fun p => decide (p.stream = s) && decide (p.ptype = ptMismatch)⟩

/-- The streams that may launch (R213). -/
def launchSet (hs : List Head) : List Head :=
  let com := hs.filter fun h => h.committed && h.gate
  if com ≠ [] then com
  else
    let exc := hs.filter fun h => h.excess && h.gate
    match minOf (exc.map (·.finish)) with
    | none => []
    | some f =>
      let least := ((exc.filter fun h => h.finish = f).head?.map (·.s)).getD 0
      exc.filter fun h => decide (h.s = least) || h.mismatch.isSome

/-- The stream presented first: that of the oldest MISMATCH parcel, else the lowest number (R207). -/
def pickHead (hs : List Head) : Option Head :=
  match minOf (hs.filterMap (·.mismatch)) with
  | some i => hs.find? fun h => h.mismatch = some i
  | none => hs.head?

/-- Frames that wait for the gate alone are counted once each (R217). -/
def DieUnit.countWaits (d : DieUnit) (hs : List Head) : DieUnit :=
  (hs.filter fun h => (h.committed || h.excess) && !h.gate && !d.shp.waited.contains h.s).foldl
    (fun (d : DieUnit) h =>
      ((d.modShp fun x => { x with waited := x.waited ++ [h.s] }).inc SHP_COUNTS_GATE_WAIT_N).raise
        SHP_STATUS_GATE_WAIT) d

/-- The parcels of a launched frame advance, and whole ones leave staging (R206). -/
def DieUnit.consume (d : DieUnit) (fs : List FragPlan) : DieUnit :=
  let upd (ix : Nat) (p : Parcel) : Parcel :=
    match fs.find? fun f => f.ix = ix with
    | some f => { p with sent := f.off + f.len, split := some (d.parcelToPartner p) }
    | none => p
  let all := d.fb.staged.mapIdx upd
  let left := all.filter fun p => p.sent < p.bytes.length
  let gone := all.length - left.length
  let d1 := (d.modFb fun f => { f with staged := left, full := f.full && decide (gone = 0) }).incWrap
    FB_COUNTS0_PARCELS_N gone
  d1.set FB_STATUS_PARCELS_WAITING left.length

/-- Tags and buckets after a launch (R212, R215). -/
def DieUnit.charge (d : DieUnit) (h : Head) : DieUnit :=
  let need := 8 * charged h.payload
  let d1 := d.setTok h.s (if h.committed then d.tokC h.s - need else d.tokC h.s) (d.tokP h.s - need)
  let d2 :=
    if h.committed then d1
    else
      let v := max (d1.get SHP_VTIME) ((tabGet d1.shp.tags h.s).getD 0)
      ((d1.set SHP_VTIME v).incWrap SHP_COUNTS_EXCESS_N).modShp fun x =>
        { x with tags := tabPut x.tags h.s (max v h.finish) }
  let d3 := d2.modShp fun x => { x with waited := x.waited.filter fun s => s ≠ h.s }
  if d3.fb.waiting h.s then d3 else d3.modShp fun x => { x with tags := tabDel x.tags h.s }

/-- After the first frame of step S the die unit obeys home alone (R27). -/
def DieUnit.noteStep (d : DieUnit) (p : Option Nat) : DieUnit :=
  match d.ctl.readmit, p with
  | some s, some x =>
    if s ≤ x ∧ d.get DU_ASSIGN_SERVING = 2 then
      { d with ctl := { d.ctl with partner := none, lastHome := d.mono } }.set DU_ASSIGN_SERVING 1
    else d
  | _, _ => d

/-- An Ifenov frame of the die unit: its source address is mac_addr (R181). -/
def DieUnit.ifenovFrame (d : DieUnit) (dst : Nat) (payload : List Byte) : Frame :=
  ⟨dst, d.get DU_MAC_MAC, ifenovEthertype, false, padFrame payload⟩

/-- A TELEMETRY frame is launched (R182, R184, R185). -/
def DieUnit.launch (d : DieUnit) (h : Head) (t : Nat) : DieUnit :=
  let fs := d.formFrame h.s
  let ps : List (FragPlan × Parcel) := fs.filterMap fun f => (d.fb.staged[f.ix]?).map fun p => (f, p)
  match ps with
  | [] => d
  | (_, p0) :: _ =>
    let frags := ps.flatMap fun (f, p) =>
      fragment p.pseq f.off (f.off = 0) (f.off + f.len = p.bytes.length) (slice p.bytes f.off f.len)
    let last := ps.any fun (f, p) => f.off + f.len = p.bytes.length
    let fseq := storeGet 0 d.fb.fseq h.s
    let hdr := frameHeader ftTelemetry (b2n last) ps.length d.src (streamId d.duid h.s) p0.gen p0.job fseq (postmark t)
    let step := (ps.filterMap fun (_, p) => p.step).foldl (fun (a : Option Nat) x => some (max (a.getD 0) x)) none
    let frame := d.ifenovFrame (d.parcelDest p0) (hdr ++ frags)
    let d1 := { d with macTx := d.macTx ++ [frame] }
    let d2 := (d1.modFb fun f => { f with fseq := storeSet 0 f.fseq h.s ((fseq + 1) % 2 ^ 32) }).incWrap
      FB_COUNTS0_FRAMES_N
    (((d2.consume fs).charge h).noteStep step).serve

/-- A waiting short frame goes first (R82); frames of no stream carry zero STREAM, FSEQ, JOB_ID and GEN (R184), and a
request carries no SRC (R258). A Delay_Req leaves under the PTP profile, marked eg_ptp: its transmit strobe is then owed
(Table 2-2, R69, R78). -/
def DieUnit.launchShort (d : DieUnit) (t : Nat) : DieUnit :=
  match d.short with
  | [] => d
  | f :: rest =>
    match f.ptp with
    | some o =>
      { d with short := rest, tc := (d.view.oweStrobe o).tc,
               macTx := d.macTx ++ [⟨f.dst, d.get DU_MAC_MAC, ptpEthertype, true, padFrame f.body⟩] }
    | none =>
      let src := if f.ftype = ftRegister then 0 else d.src
      let hdr := frameHeader f.ftype 0 0 src 0 0 0 0 (postmark t)
      { d with short := rest, macTx := d.macTx ++ [d.ifenovFrame f.dst (hdr ++ f.body)] }

/-- LAUNCH_DECISION at a frame boundary, at the egress edge `q`: a short frame goes first; else, after a refill that falls at this
edge, one frame of the streams that may launch (R82, R207, R210, R211, R213). Telemetry needs a registration (R14). -/
def DieUnit.launchDecision (d : DieUnit) (q : Nat) : DieUnit :=
  let t := d.stamp q
  if d.short ≠ [] then d.launchShort t
  else if ¬ d.isOn .egr ∨ ¬ d.on FB_CTRL_EN ∨ ¬ d.on SHP_CTRL_EN ∨ ¬ d.registered then d
  else
    let d0 := (d.refill t).showWindows t
    let hs := (List.range 64).filterMap fun s => d0.headOf t s
    let d1 := d0.countWaits hs
    match pickHead (launchSet hs) with
    | none => d1
    | some h => d1.launch h t

end Sys2Proof.Machine
end

