-- ==== Sys2Proof/Machine/Power.lean ====
section
/-!
DEFINITION. Power control and resets of the die unit: sleep and wake of the fast domains (R73 to R76, Table 3-3), power-on,
functional and domain resets (R77, R472, R473, R475).
-/
namespace Sys2Proof.Machine

/-! ### Pages and domains (Table 16-2) -/

/-- The fast domain a page lies in, none for a page of the always-on domain. -/
def domOfPage (page : Nat) : Option FastDom :=
  match page with
  | 0x3 | 0x4 | 0x5 => some .cnt
  | 0x6 | 0x7 => some .trc
  | 0x8 => some .tcp
  | 0x9 | 0xA => some .egr
  | _ => none

/-- The light-set registers of page 0x3 are always-on (R103, R129): L0 to L31 and CNT_OVF7; and so is the page's clearing
handshake (PG_SEQ, PG_SEQ_RD, PG_CLR_KEY), without which CNT_OVF7 could not be cleared while the domain sleeps (R103, R461;
log 128). -/
def lightReg (addr : Nat) : Bool :=
  decide (0x3200 ≤ addr ∧ addr < 0x3300) || decide (addr = addr_CNT_OVF 7)
    || decide (addr = addr_PG_SEQ 3 ∨ addr = addr_PG_SEQ_RD 3 ∨ addr = addr_PG_CLR_KEY 3)

/-- The fast domain that holds a register; none: AO. -/
def domOfReg (addr : Nat) : Option FastDom := if lightReg addr then none else domOfPage (addr / 4096)

def pagesOf : FastDom → List Nat
  | .cnt => [0x3, 0x4, 0x5]
  | .trc => [0x6, 0x7]
  | .egr => [0x9, 0xA]
  | .tcp => [0x8]

/-- Domain number of PG_ID and of WAKE-FAIL records (Tables 16-1, 17-9). -/
def FastDom.number : FastDom → Nat
  | .cnt => 1
  | .trc => 2
  | .egr => 3
  | .tcp => 4

/-! ### Sleep conditions (Table 3-3) -/

def DieUnit.cntQuiet (d : DieUnit) : Bool :=
  d.enabledCounters.isEmpty && d.peals.isEmpty && !d.cnt.bank0.pending && !d.cnt.bank1.pending
    && d.cnt.latchQueue.isEmpty && !d.on CNT_CTRL_LATCH_EN && !d.on CNT_STATUS_FROZEN && d.cnt.pend.isEmpty

def DieUnit.sourcesOn (d : DieUnit) : Bool := (List.range 16).any fun p => d.on (TRC_SRC_EN p)

/-- The trace idle time in ns (Table 5-8). -/
def DieUnit.traceIdle (d : DieUnit) : Nat := max 1 (d.get TRC_CTRL_IDLE) * 10000

/-- No source enabled, or, in STREAM mode, none heard for the trace idle time; nothing staged and no closed segment waiting;
the drain not stopped (Table 3-3, R153, R154). -/
def DieUnit.trcQuiet (d : DieUnit) : Bool :=
  (!d.sourcesOn || (!d.ringMode && decide (d.trc.lastPresent + d.traceIdle ≤ d.mono))) && d.trc.staging.isEmpty
    && (d.ringMode || d.trc.segs.all fun e => !e.2.closed) && d.on TRC_CTRL_DRAIN_EN

/-- A window of the list opens at or after `from_` and no later than `upto`, in ns. -/
def GateList.opensBy (g : GateList) (from_ upto : Nat) : Bool :=
  g.wins.any fun e =>
    let c := max 1 g.cycle
    let base := g.base + e.2.off
    decide ((if from_ ≤ base then base else base + ceilDiv (from_ - base) c * c) ≤ upto)

/-- The next window of the active list, or of the committed list from its switch on, opens within `ns` (Table 3-3, R218). -/
def DieUnit.gateNear (d : DieUnit) (ns : Nat) : Bool :=
  let t := d.tc.now / nsU
  d.on SHP_CTRL_GATE_EN &&
    ((match d.shp.active with | some g => g.opensBy t (t + ns) | none => false)
      || match d.shp.pending with | some (g, sw) => g.opensBy (max t sw) (t + ns) | none => false)

/-- Something waits for the frame builder (Table 3-3). -/
def DieUnit.egressWork (d : DieUnit) : Bool :=
  !d.fb.staged.isEmpty || !d.fb.opens.isEmpty || (!d.ringMode && d.trc.segs.any fun e => e.2.closed)
    || (d.trc.sleeping && !d.trc.segs.isEmpty)
    || !d.tcp.out.isEmpty || !d.tcp.mismatch.isEmpty || !d.tcp.fpQueue.isEmpty || !d.tcp.covQueue.isEmpty
    || !d.tcp.lineage.isEmpty || decide (0 < d.tcp.buffered) || d.he.queue.any (·.released)
    || !d.cnt.latchQueue.isEmpty || d.cnt.bank0.pending || d.cnt.bank1.pending || d.on TRC_STATUS_RING_FROZEN

def DieUnit.egrQuiet (d : DieUnit) : Bool := !d.egressWork && !d.gateNear 50000

def DieUnit.tcpQuiet (d : DieUnit) : Bool :=
  !d.on TCK_JOB_ARMED && d.tcp.dumps.isEmpty && d.tcp.triggered.isEmpty && d.tcp.run.isNone && d.tcp.caps.isEmpty
    && d.tcp.mismatch.isEmpty && d.tcp.fpQueue.isEmpty && d.tcp.covQueue.isEmpty && d.tcp.lineage.isEmpty
    && d.tcp.out.isEmpty && decide (d.tcp.buffered = 0)

/-- IND_ADDR points into the domain, and IND_DATA was accessed within the last 1 ms (R465). -/
def DieUnit.indHolds (d : DieUnit) (k : FastDom) : Bool :=
  decide (domOfReg (d.get (IND_ADDR_INDEX 0)) = some k) &&
    match d.port.indAt with
    | some t => decide (d.mono < t + 1000000)
    | none => false

/-- The sleep condition of a domain holds (Table 3-3, R465). -/
def DieUnit.quiet (d : DieUnit) (k : FastDom) : Bool :=
  (match k with
    | .cnt => d.cntQuiet
    | .trc => d.trcQuiet
    | .egr => d.egrQuiet
    | .tcp => d.tcpQuiet) && !d.indHolds k

/-- Each reference edge at which a sleep condition holds adds 40 ns to the domain's idle count: the condition has held for
at least the count less 40 (R75). -/
def DieUnit.countIdle (d : DieUnit) : DieUnit :=
  allDoms.foldl (fun (d : DieUnit) k =>
    let p := d.pd k
    d.setPd k { p with idle := if d.isOn k ∧ d.quiet k then p.idle + 40 else 0 }) d

/-- 100 µs without interruption (R75). -/
abbrev sleepHold : Nat := 100000

/-! ### Sleep and wake -/

/-- The clearing keys of a domain's pages are disarmed when it sleeps (R461). -/
def DieUnit.disarmKeys (d : DieUnit) (k : FastDom) : DieUnit :=
  (pagesOf k).foldl (fun (d : DieUnit) p => d.set (PG_CLR_KEY_ARMED p) 0) d

def DieUnit.powerOff (d : DieUnit) (k : FastDom) : DieUnit :=
  ((d.setPdState k pdOff).setPd k DomainPower.init).disarmKeys k

/-- The trace domain's sleep is complete; a wake cause that came after its SLEEP packet wakes it again (R76, R148). -/
def DieUnit.traceOff (d : DieUnit) : DieUnit :=
  let d1 := (d.modTrc fun t => { t with sleeping := false, wakeAgain := false }).powerOff .trc
  if d.trc.wakeAgain then d1.wake .trc else d1

/-- DOMAIN_SLEEP: a domain whose condition has held powers down; the trace domain first writes its marker, and goes off once
its segments are drained (R75, R148). -/
def DieUnit.domainSleep (d : DieUnit) (k : FastDom) (q : Nat) : DieUnit :=
  if k = .trc then
    if d.trc.sleeping then
      if d.trc.segs = [] then d.traceOff else d
    else if d.isOn .trc ∧ sleepHold < d.pdTrc.idle ∧ d.trcQuiet ∧ ¬ d.indHolds .trc then
      (d.traceSleepMarker q).wake .egr
    else d
  else if d.isOn k ∧ sleepHold < (d.pd k).idle ∧ d.quiet k then d.powerOff k
  else d

/-- IND_ADDR points at a register of the domain. -/
def DieUnit.indPoints (d : DieUnit) (k : FastDom) : Bool :=
  decide (domOfReg (d.get (IND_ADDR_INDEX 0)) = some k)

/-- What a domain's state becomes when it is usable again (Table 3-3, R111, R149): of the counter domain the configuration is
retained, and the counters, the latches and every other image read zero, with the registers that describe them (R130; log
125). -/
def DieUnit.restore (d : DieUnit) (k : FastDom) (q : Nat) : DieUnit :=
  match k with
  | .cnt =>
    [CNT_LATCH_T_START, CNT_LATCH_T_END, CNT_SNAP_T, CNT_PEAL_T0, CNT_PEAL_T1].foldl (fun (d : DieUnit) f => d.set f 0)
      ({ d with regs := ((d.regs.setWord addr_CNT_LATCH_CMD 0).setWord (addr_CNT_PEAL_B 0) 0x0000C00000000000).setWord
                  (addr_CNT_PEAL_B 1) 0x0000C00000000000 }.modCnt fun c =>
        { CounterBank.init with slotWidth := c.slotWidth, snaps := c.snaps, latchQueue := c.latchQueue, pend := c.pend,
                                bank0 := { PealBank.init with order := c.bank0.order },
                                bank1 := { PealBank.init with order := c.bank1.order } })
  | .trc => d.traceWake q
  | .egr => d.serve
  | .tcp => d

/-- DOMAIN_WAKE_DONE: a domain whose clock runs is powered and usable (R73). -/
def DieUnit.wakeDone (d : DieUnit) (k : FastDom) (q : Nat) : DieUnit :=
  if d.pdState k = pdWaking ∧ (d.pd k).acked then
    let d1 := (d.setPdState k pdOn).setPd k DomainPower.init
    let d2 := d1.restore k q
    if d2.indPoints k then d2.set (IND_ADDR_READY 0) 1 else d2
  else d

/-- A register access of the operation lies in a domain. -/
def CtlOp.needs (o : CtlOp) (k : FastDom) : Bool := o.accesses.any fun r => decide (domOfReg (r.addr / 8 * 8) = some k)

/-- The wake of a domain is given up: WAKE_FAIL, a record and a report; the control frame that waited for it is lost (R74,
R465). -/
def DieUnit.wakeFail (d : DieUnit) (k : FastDom) : DieUnit :=
  match (d.pd k).reqAt with
  | none => d
  | some t =>
    if d.pdState k = pdWaking ∧ ¬ (d.pd k).acked ∧ t + 20000 ≤ d.mono then
      let d1 := (d.setPdState k pdOff).setPd k DomainPower.init
      let d2 := d1.raise ⟨addr_DU_RST_STAT, k.code, k.code⟩
      let d3 := (d2.record rcWakeFail (leBytes 1 k.number)).selfReport 0x40 1
      let d4 := if d3.indPoints k then d3.set (IND_ADDR_ERR 0) 3 else d3
      match d4.ctl.held with
      | [] => d4
      | x :: rest => if x.op.needs k then { d4 with ctl := { d4.ctl with held := rest } } else d4
    else d

/-- PD_CLK_ACK: the host die runs the clock (R73); an acknowledge that comes more than 20 µs after the request is too late, and
the domain stays off (R74). -/
def DieUnit.clkAck (d : DieUnit) (k : FastDom) : DieUnit :=
  if d.pdState k = pdWaking then
    match (d.pd k).reqAt with
    | some t => if t + 20000 < d.mono ∧ ¬ (d.pd k).acked then d.wakeFail k else d.setPd k { d.pd k with acked := true }
    | none => d.setPd k { d.pd k with acked := true }
  else d

/-! ### Resets (Table 17-1) -/

/-- Wake causes are judged again after a reset (R473, Table 3-3). -/
def DieUnit.judgeWakes (d : DieUnit) : DieUnit :=
  let d1 := if d.peals.isEmpty then d else d.wake .cnt
  let d2 := if d1.egressWork then d1.wake .egr else d1
  match d2.ctl.held with
  | [] => d2
  | x :: _ => (allDoms.filter x.op.needs).foldl DieUnit.wake d2

/-- A fast domain returns to its reset values, configuration included, and is OFF; the light set's wrap bits are always-on
(R103, R155, R184, R211, R472). -/
def DieUnit.resetDomain (d : DieUnit) (k : FastDom) : DieUnit :=
  let d0 := d.powerOff k
  match k with
  | .cnt =>
    let ovf := d.get ⟨addr_CNT_OVF 7, 63, 32⟩
    let regs := (pagesOf .cnt).foldl (fun (r : RegFile) p => r.resetPage p) d0.regs
    let d1 : DieUnit := { d0 with regs := regs, cnt := CounterBank.init }
    (d1.set ⟨addr_CNT_OVF 7, 63, 32⟩ ovf).set CNT_STATUS_OVF (b2n d.lightOvf)
  | .trc =>
    let regs := (pagesOf .trc).foldl (fun (r : RegFile) p => r.resetPage p) d0.regs
    { d0 with regs := regs, trc := { TraceFunnel.init with sleepLevel := d.trc.sleepLevel } }
  | .egr =>
    let regs := (pagesOf .egr).foldl (fun (r : RegFile) p => r.resetPage p) d0.regs
    { d0 with regs := regs, fb := FrameBuilder.init,
              shp := { Shaper.init with lastMult := d.tc.now / (1000 * nsU) } }
  | .tcp =>
    let regs := (pagesOf .tcp).foldl (fun (r : RegFile) p => r.resetPage p) d0.regs
    { d0 with regs := regs, tcp := { TileCapture.init with answers := d.tcp.answers } }

/-- A RESET record (Table 17-9). -/
def DieUnit.recordReset (d : DieUnit) (kind doms : Nat) : DieUnit :=
  d.record rcReset (leBytes 1 kind ++ leBytes 1 doms ++ leBytes 2 0)

/-- A functional reset: recorded first, then the fast domains, the register port, the armed peals and DU_ASSIGN; the ingress
receive buffer keeps its frames (R58, R473, Tables 3-4, 17-1). -/
def DieUnit.functionalReset (d : DieUnit) (kind : Nat) : DieUnit :=
  let d0 := d.recordReset kind 0xF
  let d1 := allDoms.foldl DieUnit.resetDomain d0
  let d2 := { d1 with port := ⟨0, false, none⟩, ctl := { Control.init with held := d.ctl.held, resets := d.ctl.resets }, heldWake := [], peals := [],
                      regs := d1.regs.setWord addr_DU_ASSIGN 0 }
  let d3 := d2.showPealNext
  let d4 := d3.set DU_RST_STAT_LAST kind.succ
  (if kind = 1 then d4.inc DU_RST_STAT_RST_N else d4.inc DU_RST_STAT_SOFT_N).judgeWakes

/-- A domain reset of every domain whose bit is set (R472, R473). -/
def DieUnit.domainReset (d : DieUnit) (doms : Nat) : DieUnit :=
  if doms % 16 = 0 then d
  else
    ((allDoms.filter fun k => bit doms k.code).foldl DieUnit.resetDomain (d.recordReset 3 (doms % 16))).judgeWakes

/-- The die unit after por_n, before the always-on domain has started; its MAC address and revision are inputs. -/
def DieUnit.blank (mac revision : Nat) : DieUnit :=
  let regs := ((RegFile.reset .du).set DU_MAC_MAC mac).set DU_IDENT_REVISION revision
  { regs := regs, tc := TimeClient.init, free := 0, port := ⟨0, false, none⟩, sn := ⟨0, 0, none⟩, pdCnt := DomainPower.init,
    pdTrc := DomainPower.init, pdEgr := DomainPower.init, pdTcp := DomainPower.init, light := [], ltErr := 0, lightOvf := false, peals := [],
    cnt := CounterBank.init, trc := TraceFunnel.init, tcp := TileCapture.init, fb := FrameBuilder.init,
    shp := Shaper.init, short := [], macTx := [], toc := Tocsin.init, he := Health.init, recd := Recorder.init,
    ctl := Control.init, heldWake := [] }

/-- POR_N: every domain is cleared, the flush area stays, the recorder reads the bank headers and writes POR (R475). -/
def DieUnit.powerOnReset (d : DieUnit) : DieUnit :=
  let b := DieUnit.blank (d.get DU_MAC_MAC) (d.get DU_IDENT_REVISION)
  let d1 := { b with free := d.free, macTx := d.macTx, recd := { b.recd with area := d.recd.area } }
  d1.withRec (d1.recView 0).powerOn

end Sys2Proof.Machine
end

