-- ==== Sys2Proof/Machine/DuTime.lean ====
section
/-!
DEFINITION. The die unit's time client in its die unit: what its events do to peals, gates, trace, the recorder and the
light set (R33, R36, R45, R54, R62, R65 to R67, R102, R144).
-/
namespace Sys2Proof.Machine

/-- A step of local time acts on peals, gates and trace (R62, R65, R144). -/
def DieUnit.applyStep (d : DieUnit) : DieUnit :=
  match d.tc.stepReq with
  | none => d
  | some (delta, quality) =>
    let d1 := { d with tc := { d.tc with stepReq := none } }
    let d2 := if 0 < delta then d1.stepPeals quality else d1
    let d3 := d2.stepGates
    d3.modTrc fun t => { t with pendDiscont := some (t.pendDiscont.getD 0 + delta.tdiv nsU) }

/-- An event of the time client, with the records and steps it causes. -/
def DieUnit.timeOp (d : DieUnit) (f : TimeView → TimeView) : DieUnit :=
  (DieUnit.timeRecords d (d.withView (f d.view))).applyStep

/-- The same, for an event that draws a servo value (log 10). -/
def DieUnit.timeDraw (d : DieUnit) (f : TimeView → Nat → TimeView) : DieUnit :=
  let (n, d1) := d.draw
  d1.timeOp fun v => f v n

/-- Resets asked for by a REG-WRITE that are due (R472). -/
def DieUnit.dueResets (d : DieUnit) : DieUnit :=
  let due := d.ctl.resets.filter fun r => r.at_ ≤ d.mono
  let d1 := { d with ctl := { d.ctl with resets := d.ctl.resets.filter fun r => d.mono < r.at_ } }
  due.foldl (fun (d : DieUnit) r => if r.soft then d.functionalReset 2 else d.domainReset r.doms) d1

/-- A tray reference edge: local time advances, the light set is read for what waits for it before the busy lines count,
sleep conditions are watched, a gate window 40 µs away wakes the egress domain (R33, R75, R102, R122, Table 3-3). -/
def DieUnit.tick (d : DieUnit) (busy : Nat) : DieUnit :=
  if d.tc.refLost then { d with tc := { d.tc with mono := d.tc.mono + 40 } }.countIdle.dueResets
  else
    let d1 := d.withView d.view.tick
    let d2 := (d1.captureLight (d1.stamp 0)).lightBusy busy
    let d3 := d2.countIdle
    (if d3.gateNear 40000 then d3.wake .egr else d3).dueResets

/-- A stamp whose latency is not valid is discarded and reported (R45, Table 14-1). -/
def DieUnit.latencyReport (d : DieUnit) (valid : Bool) : DieUnit := if valid then d else d.selfReport 0x42 0

def DieUnit.rxStrobe (d : DieUnit) (q lIn : Nat) (valid : Bool) : DieUnit :=
  (d.timeOp fun v => v.rxStrobe 0 v.compat q lIn valid).latencyReport valid

def DieUnit.txStrobe (d : DieUnit) (q lEg : Nat) (valid : Bool) : DieUnit :=
  (d.timeOp fun v => v.txStrobe 0 v.compat q lEg valid).latencyReport valid

/-- The tray reference is lost (R36): servos, a REF-LOST record and a report. -/
def DieUnit.refLost (d : DieUnit) : DieUnit :=
  if d.tc.refLost then d
  else ((d.timeOp TimeView.refLost).recordLimited rcRefLost rcRefLost []).selfReport 0x41 1

/-- The window of each domain that is on is judged after 16 reference periods: `counts` edges of the CNT, TRC, EGR and TCP
clocks, and the stretch inputs (R66, R67). -/
def DieUnit.clockWindow (d : DieUnit) (counts : FastDom → Nat) (stretch : Nat) : DieUnit :=
  if d.tc.winTicks < 16 then d
  else
    let nom (k : FastDom) : Nat := match k with
      | .cnt => d.get TC_CLKMON_NOM_NOM_COUNTER
      | .trc => d.get TC_CLKMON_NOM_NOM_TRACE
      | .egr => d.get TC_CLKMON_NOM_NOM_EGRESS
      | .tcp => d.get TC_CLKMON_NOM_NOM_TILE
    let stopped (k : FastDom) : Bool := d.isOn k && decide (counts k = 0)
    let off (k : FastDom) : Nat := max (counts k) (nom k) - min (counts k) (nom k)
    let stretched (k : FastDom) : Bool :=
      d.isOn k && (decide (nom k < 64 * off k) || bit stretch k.code)
    let fs := (if allDoms.any stretched then [TC_STATUS_CLK_STRETCHED] else [])
      ++ (if allDoms.any stopped then [TC_STATUS_CLK_STOPPED] else [])
    let d0 := { d with tc := { d.tc with winTicks := 0 } }
    let d1 := if fs = [] then d0 else d0.raiseAll 0x2 fs
    let d2 := (d1.judgeTally (stretched .cnt)).modCnt fun c =>
      { c with stopped := if d.isOn .cnt then stopped .cnt else c.stopped,
               cmdScaled := c.cmdScaled || (stretched .cnt && c.inCmd),
               cmdGap := c.cmdGap || (stopped .cnt && c.inCmd),
               latchQueue := c.latchQueue.map fun x =>
                 if x.judged then x else { x with scaled := x.scaled || stretched .cnt, gap := x.gap || stopped .cnt, judged := true } }
    let d3 := d2.modTrc fun t =>
      { t with pendScale := t.pendScale || stretched .trc, stopped := if d.isOn .trc then stopped .trc else t.stopped }
    DieUnit.timeRecords d d3

end Sys2Proof.Machine
end

