-- ==== Sys2Proof/Machine/RegsDu.lean ====
section
/-!
DEFINITION. Register access of the die unit: the port, the indirect pair, privilege, the status handshake, and what a write
of each register does (R10, R98, R127, R128, R263, R452 to R470).
-/
namespace Sys2Proof.Machine

/-- Who makes an access: with privilege or not, and over the control-frame path or the register port (R456). -/
structure Access where
  priv : Bool
  ctl : Bool
  deriving DecidableEq, Repr

/-- Bits of a register by access code (Table 0-3). -/
structure Masks where
  priv : Nat
  rw : Nat
  w1c : Nat
  deriving DecidableEq, Repr

def masksOf (part : Part) (key : Nat) : Masks :=
  match rowOf part key with
  | some (r, _) => ⟨r.priv, r.rw, r.w1c⟩
  | none => ⟨0, 0, 0⟩

/-- Privileged pages (Table 16-2). -/
def duPrivPage (page : Nat) : Bool := decide (page = 0x1 ∨ page = 0x8 ∨ page = 0xD)
def duPageExists (page : Nat) : Bool := decide (page ≤ 0xD)

/-- Reset code of a page (Table 16-1). -/
def duPageReset (page : Nat) : Nat := if (domOfPage page).isSome then 2 else 1

/-- PG_ID of a page (Table 16-1). -/
def duPgId (page : Nat) : Nat :=
  let dom := match domOfPage page with | some k => k.number | none => 0
  0x0020 * 2 ^ 48 + page * 2 ^ 32 + 1 * 2 ^ 24 + dom * 2 ^ 16 + duPageReset page * 2 ^ 8 + b2n (duPrivPage page)

/-- A privilege violation (R458). -/
def DieUnit.violation (d : DieUnit) (addr : Nat) (write : Bool) : DieUnit :=
  let page := addr / 4096
  let d1 := ((d.inc (PG_VIOL_VIOL_N page)).set (PG_VIOL_LAST_WRITE page) (b2n write)).set (PG_VIOL_LAST_OFFSET page)
    (addr % 4096 / 8)
  ((d1.inc DU_VIOL_VIOL_TOTAL).set DU_VIOL_LAST_WRITE (b2n write)).set DU_VIOL_LAST_ADDR (addr / 8)

/-- The domain of a register is asleep for a direct access. -/
def DieUnit.asleep (d : DieUnit) (addr : Nat) : Bool :=
  match domOfReg addr with
  | some k => !d.isOn k
  | none => false

/-! ### Reads (R460, R469) -/

/-- The counter a value register presents (R129). -/
def counterOf (addr : Nat) : Option Nat :=
  if 0x4080 ≤ addr ∧ addr < 0x4800 then some ((addr - 0x4080) / 8)
  else if 0x5080 ≤ addr ∧ addr < 0x5800 then some ((addr - 0x5080) / 8 + 240)
  else if 0x3200 ≤ addr ∧ addr < 0x3300 then some ((addr - 0x3200) / 8 + 480)
  else none

/-- A read of a counter value: refused for a group that is not permitted (R127, R128, R458 (c)). -/
def DieUnit.counterRead (d : DieUnit) (n : Nat) (addr : Nat) (a : Access) : W64 × DieUnit :=
  if a.priv ∨ bit (d.get CNT_USER_USER_READ) (counterGroup n) then
    if a.ctl then (d.viewValue (d.get CNT_VIEW_VIEW) n, d) else d.readCounter n
  else (0, d.violation addr false)

/-- Bit p: PENDING of page p (Table 16-5). -/
def DieUnit.pendingPages (d : DieUnit) : Nat :=
  ((List.range 14).map fun p => b2n (d.regs.pending p) * 2 ^ p).foldl (· + ·) 0

/-- irq: the OR of PENDING with IRQ_EN over the pages (R94, R469). -/
def DieUnit.irq (d : DieUnit) : Bool := (List.range 14).any fun p => d.regs.pending p && d.on (PG_IRQ_IRQ_EN p)

/-- What a read of a register returns before access codes are applied, and the side effects that reads have (R469). -/
def DieUnit.readRaw (d : DieUnit) (addr q : Nat) : W64 × DieUnit :=
  let page := addr / 4096
  let off := addr % 4096
  if off = 0 then (BitVec.ofNat 64 (duPgId page), d)
  else if off = 0x20 then (BitVec.ofNat 64 (d.get (PG_IRQ_IRQ_EN page) + b2n (d.regs.pending page) * 256), d)
  else if addr = addr_DU_PEND then (BitVec.ofNat 64 d.pendingPages, d)
  else if addr = addr_TC_NOW_NS then
    let d1 := d.withView (d.view.readNow q)
    (d1.regs.word addr_TC_NOW_NS, d1)
  else if addr = addr_HE_SENSOR then ((d.set HE_SENSOR_STALE_NOW (b2n d.snStale)).regs.word addr, d)
  else if addr = addr_REC_WIN 7 then
    (d.regs.word addr, d.withRec ((d.recView q).autoAdvance (d.on DU_SAG_WARN_NOW)))
  else (d.regs.word addr, d)

/-- A read that finds its domain on: privileged pages and PRIV fields read zero to an ordinary master (R10, R455, R458), and
a register with W1C-SEQ fields latches EVSEQ (R460). -/
def DieUnit.readReg (d : DieUnit) (addr : Nat) (a : Access) (q : Nat) : W64 × DieUnit :=
  let page := addr / 4096
  if ¬ duPageExists page then (0, d)
  else if duPrivPage page ∧ ¬ a.priv then (0, d.violation addr false)
  else match counterOf addr with
  | some n => d.counterRead n addr a
  | none =>
    let m := masksOf .du addr
    let (w, d1) := d.readRaw addr q
    let d2 := if m.w1c ≠ 0 then d1.set (PG_SEQ_RD_SEQ_RD page) (d1.get (PG_SEQ_EVSEQ page)) else d1
    (if a.priv then w else w &&& ~~~ BitVec.ofNat 64 m.priv, d2)

/-! ### Writes -/

/-- A clearing write clears the W1C-SEQ bits written as one under a matching key, and consumes the key (R461, R462). -/
def RegFile.clearing (r : RegFile) (page off key : Nat) (ones : Nat) : RegFile :=
  let fail (r : RegFile) (res : Nat) : RegFile := (r.set (PG_CLR_KEY_RESULT page) res).inc (PG_SEQ_STALE_N page)
  let r0 := r.set (PG_CLR_KEY_ARMED page) 0
  if ¬ r.on (PG_CLR_KEY_ARMED page) ∨ r.get (PG_CLR_KEY_OFFSET page) ≠ off / 8 then fail r0 3
  else if r.get (PG_CLR_KEY_SEQ page) ≠ r.get (PG_SEQ_EVSEQ page) then fail r0 2
  else (r0.set (PG_CLR_KEY_RESULT page) 1).setWord key (r0.word key &&& ~~~ BitVec.ofNat 64 ones)

/-- A clearing write that takes CNT_STATUS.OVF away takes its always-on copy away as well (R103). -/
def DieUnit.keepLightOvf (d : DieUnit) : DieUnit := { d with lightOvf := d.lightOvf && d.on CNT_STATUS_OVF }

/-- PG_CLR_KEY arms a key (R461). -/
def RegFile.armKey (r : RegFile) (page : Nat) (w : W64) : RegFile :=
  r.setWord (addr_PG_CLR_KEY page) ((w &&& 0xFFFFFFFF00000FF8) ||| 1)

/-- Three thresholds rise (Table 6-15). -/
def risingBands (w : Nat) (sgn : Bool) : Bool :=
  let th (lo : Nat) : Int := let x := bits w (lo + 15) lo; if sgn then signed 16 x else (x : Int)
  decide (th 0 ≤ th 16) && decide (th 16 ≤ th 32)

/-- The order of the drop thresholds (R157). -/
def dropThrOk (w : Nat) : Bool :=
  decide (bits w 55 48 ≤ bits w 63 56) && decide (bits w 47 40 ≤ bits w 55 48) && decide (bits w 23 16 ≤ bits w 31 24)
    && decide (bits w 15 8 ≤ bits w 23 16) && decide (bits w 31 24 ≤ 63)

/-- TC_CTRL (R54, R56). -/
def DieUnit.writeTcCtrl (d : DieUnit) (m : Nat) : DieUnit := d.timeOp fun v => v.writeCtrl m

/-- CNT_CTRL: its pulses act, FREEZE reads the freeze held, and a release in the same write ends the freeze (R116, R118 to
R121, R125). -/
def DieUnit.writeCntCtrl (d : DieUnit) (m q : Nat) : DieUnit :=
  let keep := setBits m 2 0 (d.get CNT_CTRL_FREEZE)
  let d1 := { d with regs := d.regs.setWord addr_CNT_CTRL (BitVec.ofNat 64 (setBits keep 7 6 0)) }
  let d2 := if bits m 11 8 ≠ d.get CNT_CTRL_SLOT_WIDTH then d1.pend (.slotWidth (bits m 11 8)) else d1
  let d3 := if bit m 2 then d2.snap q else d2
  let d4 := if bit m 7 then d3.clearCounters else d3
  let d5 := if bit m 6 then d4.latchRelease else d4
  let d6 := if bit m 0 then d5.freezeCounters else d5
  if bit m 1 then d6.releaseFreeze else d6

/-- TRC_CTRL: enable, mode, drain and ring trigger (R153 to R155). -/
def DieUnit.writeTrcCtrl (d : DieUnit) (m : Nat) : DieUnit :=
  let keep := setBits (setBits m 5 5 0) 3 1 (d.get ⟨addr_TRC_CTRL, 3, 1⟩)
  let d1 := { d with regs := d.regs.setWord addr_TRC_CTRL (BitVec.ofNat 64 keep) }
  let d2 := d1.writeTraceMode (bits m 2 1)
  let d3 := if bit m 3 = d.on TRC_CTRL_DRAIN_EN then d2 else d2.writeDrainEn (bit m 3)
  if bit m 5 then d3.ringTrigger else d3

/-- TRC_SRC_p, from the next trace edge on: source ID 0x3F is refused; a source enabled during a power-down ends it (R131, R148,
R155). -/
def DieUnit.writeTrcSrc (d : DieUnit) (addr m q : Nat) : DieUnit :=
  if bits m 13 8 = 0x3F then d.raise TRC_STATUS_CFG_INVALID
  else
    let was := bit (d.regs.word addr).toNat 63
    let d1 := d.pendTrc (.reg addr m)
    if d.trc.sleeping ∧ bit m 63 ∧ ¬ was then d1.traceWake q else d1

/-- A threshold or comparator register of the funnel, from the next trace edge on; ignored as a whole where it is not valid
(R155). -/
def DieUnit.writeTrcReg (d : DieUnit) (addr m : Nat) (ok : Bool) : DieUnit :=
  if ok then d.pendTrc (.reg addr m) else d.raise TRC_STATUS_CFG_INVALID

/-- A field whose value is out of range is ignored, with CFG_INVALID; the rest of the write stands. -/
def DieUnit.writeChecked (d : DieUnit) (addr m : Nat) (f bad : Fld) (ok : Nat → Bool) : DieUnit :=
  if ok (bits m f.hi f.lo) then { d with regs := d.regs.setWord addr (BitVec.ofNat 64 m) }
  else { d with regs := d.regs.setWord addr (BitVec.ofNat 64 (setBits m f.hi f.lo (d.get f))) }.raise bad

/-- A write ignored as a whole where it is not valid, with CFG_INVALID. -/
def DieUnit.writeWhole (d : DieUnit) (addr m : Nat) (bad : Fld) (ok : Bool) : DieUnit :=
  if ok then { d with regs := d.regs.setWord addr (BitVec.ofNat 64 m) } else d.raise bad

/-- DU_RST: resets act at once from the port, and 1 µs after the acknowledgement from a control frame (R472). -/
def DieUnit.writeRst (d : DieUnit) (m : Nat) (a : Access) : DieUnit :=
  let soft := bit m 4
  let doms := bits m 3 0
  if ¬ soft ∧ doms = 0 then d
  else if a.ctl then { d with ctl := { d.ctl with resets := d.ctl.resets ++ [⟨soft, doms, d.mono + 1000⟩] } }
  else if soft then d.functionalReset 2 else d.domainReset doms

/-- REC_CTRL: SRC 0b11 is ignored; FLUSH asks for a commanded flush (R487, Table 17-12). -/
def DieUnit.writeRecCtrl (d : DieUnit) (m : Nat) (priv : Bool) : DieUnit :=
  let m1 := if bits m 4 3 = 3 then setBits m 4 3 (d.get REC_CTRL_SRC) else m
  let d1 := { d with regs := d.regs.setWord addr_REC_CTRL (BitVec.ofNat 64 (setBits m1 1 1 0)) }
  if priv ∧ bit m 1 then d1.withRec ((d1.recView 0).triggerFlush causeCommanded) else d1

/-- SHP_CTRL: the line rate is checked, COMMIT validates the shadow list (R218). -/
def DieUnit.writeShpCtrl (d : DieUnit) (m : Nat) (priv : Bool) : DieUnit :=
  let d1 := d.writeChecked addr_SHP_CTRL (setBits m 2 2 0) SHP_CTRL_LINE_MBPS SHP_STATUS_CFG_INVALID
    fun x => decide (1000 ≤ x ∧ x ≤ 800000)
  if priv ∧ bit m 2 then d1.gateCommit else d1

/-- The selector of CNT_SEL_n at an address. -/
def selectorOf (addr : Nat) : Option Nat :=
  if 0x4800 ≤ addr ∧ addr < 0x4F80 then some ((addr - 0x4800) / 8)
  else if 0x5800 ≤ addr ∧ addr < 0x5F80 then some ((addr - 0x5800) / 8 + 240)
  else none

/-- What the merged word `m` of a write does, once its access codes have been applied; `w` is the word as written. -/
def DieUnit.writeEffect (d : DieUnit) (addr m : Nat) (w : W64) (a : Access) (q : Nat) : DieUnit :=
  if addr = addr_DU_IDENT then
    if d.on DU_ASSIGN_REGISTERED then d else { d with regs := d.regs.setWord addr (BitVec.ofNat 64 m) }
  else if addr = addr_DU_RST then if a.priv then d.writeRst w.toNat a else d
  else if addr = addr_TC_CTRL then d.writeTcCtrl m
  else if addr = addr_CNT_CTRL then d.writeCntCtrl m q
  else if addr = addr_TRC_CTRL then d.writeTrcCtrl m
  else if addr = addr_TRC_AUTH then
    if a.priv ∧ ¬ a.ctl then d.writeAuth (bit m 1) (bit m 0) else d
  else if addr = addr_TRC_DROP_THR then d.writeTrcReg addr m (dropThrOk m)
  else if 0x7080 ≤ addr ∧ addr < 0x7100 then d.writeTrcSrc addr m q
  else if 0x7200 ≤ addr ∧ addr < 0x7280 then d.writeTrcReg addr m true
  else if 0x7280 ≤ addr ∧ addr < 0x72C0 then d.writeTrcReg addr m (decide (bits m 61 60 ≠ 3))
  else if addr = addr_TCK_CTRL then
    d.writeChecked addr m TCK_CTRL_CAP_DEADLINE TCK_STATUS_CFG_INVALID fun x => decide (1 ≤ x ∧ x ≤ 1000)
  else if addr = addr_TCK_BAND_T then d.writeWhole addr m TCK_STATUS_CFG_INVALID (risingBands m true)
  else if addr = addr_TCK_BAND_V then d.writeWhole addr m TCK_STATUS_CFG_INVALID (risingBands m false)
  else if addr = addr_FB_CTRL then
    d.writeChecked addr m FB_CTRL_MAX_PAYLOAD FB_STATUS_CFG_INVALID fun x => decide (1500 ≤ x ∧ x ≤ 9000)
  else if addr = addr_SHP_CTRL then d.writeShpCtrl m a.priv
  else if 0xA100 ≤ addr ∧ addr < 0xA500 then
    if a.priv then d.writeShape addr (BitVec.ofNat 64 m) a.ctl else d
  else if addr = addr_REC_CTRL then d.writeRecCtrl m a.priv
  else if addr = addr_REC_CURSOR then
    let d1 := { d with regs := d.regs.setWord addr (BitVec.ofNat 64 m) }
    d1.withRec ((d1.recView q).loadWindow (d1.on DU_SAG_WARN_NOW))
  else { d with regs := d.regs.setWord addr (BitVec.ofNat 64 m) }

/-- A write that finds its domain on: an ordinary write of a PRIV field is a violation where it would change it, and the
other fields take effect under their own codes; clearing writes go through the key, at the offset `keyOff` (R10, R455, R458,
R461). -/
def DieUnit.writeReg (d : DieUnit) (addr : Nat) (w : W64) (a : Access) (q : Nat) (keyOff : Nat) : DieUnit :=
  let page := addr / 4096
  let off := addr % 4096
  if ¬ duPageExists page then d
  else if duPrivPage page ∧ ¬ a.priv then d.violation addr true
  else if off = 0x18 then { d with regs := d.regs.armKey page w }
  else
    let m := masksOf .du addr
    let cur := d.regs.word addr
    let d1 := if ¬ a.priv ∧ ((w ^^^ cur).toNat &&& m.priv) ≠ 0 then d.violation addr true else d
    let ones := w.toNat &&& m.w1c
    let d2 := if ones ≠ 0 then (({ d1 with regs := d1.regs.clearing page keyOff addr ones } : DieUnit)).keepLightOvf else d1
    let mask := m.rw ||| (if a.priv then m.priv else 0)
    if mask = 0 then d2
    else match selectorOf addr with
    | some n => if a.priv then d2.writeSelector n w else d2
    | none =>
      let base := (d2.regs.word addr).toNat
      let merged := (base &&& ((2 ^ 64 - 1) ^^^ mask)) ||| (w.toNat &&& mask)
      d2.writeEffect addr merged w a q

/-! ### The indirect pair (R463 to R465) -/

/-- IND_ADDR names a target: READY where its domain is on, else a wake cause (R465). -/
def DieUnit.indTarget (d : DieUnit) : DieUnit :=
  match domOfReg (d.get (IND_ADDR_INDEX 0)) with
  | some k => if d.isOn k then d.set (IND_ADDR_READY 0) 1 else (d.set (IND_ADDR_READY 0) 0).wake k
  | none => d.set (IND_ADDR_READY 0) 1

/-- A write of IND_ADDR (R463, R465). -/
def DieUnit.writeIndAddr (d : DieUnit) (w : W64) : DieUnit :=
  let d1 := { d with regs := d.regs.setWord (addr_IND_ADDR 0) (w &&& 0x800000000000FFF8) }
  d1.indTarget

/-- The target's domain is on and READY is shown. -/
def DieUnit.indReady (d : DieUnit) : Bool :=
  d.on (IND_ADDR_READY 0) &&
    match domOfReg (d.get (IND_ADDR_INDEX 0)) with
    | some k => d.isOn k
    | none => true

/-- INDEX advances by 8 after an access with AUTO_INC, wrapping from 0xFFF8 to 0 (R464). -/
def DieUnit.indAdvance (d : DieUnit) : DieUnit :=
  if d.on (IND_ADDR_AUTO_INC 0) then
    (d.set (IND_ADDR_INDEX 0) ((d.get (IND_ADDR_INDEX 0) + 8) % 65536)).indTarget
  else d

/-- An IND_DATA access: NOT-READY, or the target's own access, a clearing write of which counts at offset 0x038 (R461, R463 to
R465). A target that is the pair itself reads as the
register stands and is not written (log 24). -/
def DieUnit.indAccess (d : DieUnit) (write : Option W64) (a : Access) (q : Nat) : W64 × DieUnit :=
  let d0 := { d with port := { d.port with indAt := some d.mono } }
  if ¬ d.indReady then (0, d0.set (IND_ADDR_ERR 0) 1)
  else
    let t := d.get (IND_ADDR_INDEX 0)
    if t = 0x30 ∨ t = 0x38 then (d0.regs.word t, d0.indAdvance)
    else match write with
    | some w => (0, (d0.writeReg t w a q 0x38).indAdvance)
    | none => let (v, d1) := d0.readReg t a q; (v, d1.indAdvance)

/-- A direct access of either path: zero and no effect while the domain sleeps (R98). -/
def DieUnit.access (d : DieUnit) (addr : Nat) (write : Option W64) (a : Access) (q : Nat) : W64 × DieUnit :=
  let ad := addr % 65536 / 8 * 8
  if ad = 0x38 then d.indAccess write a q
  else match write with
  | some w => (0, if ad = 0x30 then d.writeIndAddr w else d.writeReg ad w a q (ad % 4096))
  | none => d.readReg ad a q

/-- An access through the register port: its answer stands on rg_rdata and rg_slept (R98). -/
def DieUnit.portAccess (d : DieUnit) (addr : Nat) (write : Option W64) (priv : Bool) (q : Nat) : DieUnit :=
  let ad := addr % 65536 / 8 * 8
  if duPageExists (ad / 4096) ∧ d.asleep ad then
    { d with port := { d.port with rdata := 0, slept := true } }
  else
    let (v, d1) := d.access ad write ⟨priv, false⟩ q
    { d1 with port := { d1.port with rdata := v, slept := false } }

end Sys2Proof.Machine
end

