-- ==== Sys2Proof/Machine/Control.lean ====
section
/-!
DEFINITION. Registration, failover, re-admission and control frames at the die unit (R20, R25, R27, R179, R258 to R264).
-/
namespace Sys2Proof.Machine

def DieUnit.modCtl (d : DieUnit) (f : Control → Control) : DieUnit := { d with ctl := f d.ctl }

/-- A short frame waits for a frame boundary (R82). -/
def DieUnit.sendShort (d : DieUnit) (f : ShortFrame) : DieUnit := { d with short := d.short ++ [f] }

/-- A Delay_Req as IEEE 1588-2019 lays it out, with the profile of Table 2-2 (log 121). -/
def delayReqBytes (o : PtpOut) (clock : Nat) : List Byte :=
  beBytes 1 (16 * o.majorSdoId + o.kind) ++ beBytes 1 0x12 ++ beBytes 2 44 ++ beBytes 1 o.domain ++ beBytes 1 o.minorSdoId
    ++ beBytes 2 (8 * b2n o.ptpTimescale) ++ zeros 8 ++ zeros 4 ++ beBytes 8 clock ++ beBytes 2 1 ++ beBytes 2 o.seq ++ beBytes 1 1
    ++ beBytes 1 0x7F ++ zeros 10

/-- DELAY_REQ_TX: a Delay_Req of a domain joins the short-frame path when its interval has passed (Table 2-2, R69). -/
def DieUnit.delayReqTx (d : DieUnit) (m : Dom) : DieUnit :=
  match d.view.delayReqTx 0 m with
  | none => d
  | some (o, v) =>
    (d.withView v).sendShort
      ⟨0, delayReqBytes o (Config.clockIdentity (d.get DU_MAC_MAC)).toNat, ptpAddress, some ⟨.delayReq, 0, m, o.seq⟩⟩

/-! ### Registration (R258 to R260) -/

/-- The group address that the tray switch delivers to its aggregator (R258). -/
abbrev groupAddress : Nat := 0x071F0A000001

abbrev regRequest : Nat := 0x01
abbrev regFailover : Nat := 0x02
abbrev regAccept : Nat := 0x03
abbrev regRefuse : Nat := 0x04

/-- What an ACCEPT assigns (Table 10-1). -/
structure RegAccept where
  duid : Nat
  node : Nat
  aggMac : Nat
  partnerId : Nat
  partnerMac : Nat
  deriving DecidableEq, Repr

/-- A REGISTER body (Table 10-1). -/
def registerBody (kind result part pos nonce mac port : Nat) (x : RegAccept) : List Byte :=
  beBytes 1 kind ++ beBytes 1 result ++ beBytes 1 part ++ beBytes 1 pos ++ beBytes 4 nonce ++ beBytes 6 mac
    ++ beBytes 2 port ++ beBytes 4 x.duid ++ beBytes 1 x.node ++ zeros 1 ++ beBytes 6 x.aggMac ++ beBytes 2 x.partnerId
    ++ beBytes 6 x.partnerMac ++ zeros 4

def DieUnit.requestBody (d : DieUnit) (kind : Nat) : List Byte :=
  registerBody kind 0 0x20 (d.get DU_IDENT_PKG_POS) d.ctl.nonce (d.get DU_MAC_MAC) 0 ⟨0, 0, 0, 0, 0⟩

/-- A new request series takes a new NONCE (Table 10-1). -/
def DieUnit.newNonce (d : DieUnit) : DieUnit :=
  let (n, d1) := d.draw
  d1.modCtl fun c => { c with nonce := (Config.nonce n).toNat }

/-- REGISTER_REQUEST_TX: every 10 ms, or 1 s after a refusal, while no aggregator serves; a FAILOVER-REQUEST that is not
accepted is repeated every 10 ms (R258 to R260). -/
def DieUnit.registerRequest (d : DieUnit) : DieUnit :=
  match d.ctl.failReq with
  | some t =>
    if t + 10000000 ≤ d.mono then
      (d.sendShort ⟨ftRegister, d.requestBody regFailover, d.ctl.partnerMac, none⟩).modCtl fun c =>
        { c with failReq := some d.mono }
    else d
  | none =>
    if d.registered then d
    else
      let wait := if d.ctl.refused then 1000000000 else 10000000
      let due := match d.ctl.lastReq with | none => true | some t => decide (t + wait ≤ d.mono)
      if due then
        let d1 := if d.ctl.lastReq.isNone ∨ d.ctl.refused then d.newNonce else d
        (d1.sendShort ⟨ftRegister, d1.requestBody regRequest, groupAddress, none⟩).modCtl fun c =>
          { c with lastReq := some d.mono, refused := false }
      else d

/-- An ACCEPT of the request in hand: of the partner's, after a failover, or of a registration (R259, R260, R264). -/
def DieUnit.registerAccept (d : DieUnit) (nonce : Nat) (x : RegAccept) : DieUnit :=
  if nonce ≠ d.ctl.nonce then d
  else if d.ctl.failReq.isSome then
    d.modCtl fun c => { c with failReq := none, partner := some SeqState.init }
  else if d.registered ∨ d.ctl.lastReq.isNone then d
  else
    let d1 := ((d.set DU_ASSIGN_REGISTERED 1).set DU_ASSIGN_SERVING 1).set DU_ASSIGN_DUID x.duid
    let d2 := (d1.set TOC_CTRL_NODE x.node).modCtl fun c =>
      { c with aggMac := x.aggMac, partnerId := x.partnerId, partnerMac := x.partnerMac, lastReq := none,
               refused := false, lastHome := d.mono, home := SeqState.init, partner := none, readmit := none }
    d2.modToc fun t => { t with beaconAt := some d.mono }

/-- A REFUSE delays the next request to 1 s (R259); one that refuses a failover leaves the 10 ms interval (R260). -/
def DieUnit.registerRefuse (d : DieUnit) (nonce : Nat) : DieUnit :=
  if nonce = d.ctl.nonce ∧ d.ctl.failReq.isNone ∧ ¬ d.registered then d.modCtl fun c => { c with refused := true } else d

/-! ### Failover (R24, R25) -/

/-- The failover timeout in ns (Table 16-5). -/
def DieUnit.failoverTimeout (d : DieUnit) : Nat := clampN 1 100 (d.get DU_FAILOVER_TIMEOUT) * 1000000

/-- The switch to the partner, with a FAILOVER-REQUEST; none without a partner, or away from home (R24, R25, R260). -/
def DieUnit.failover (d : DieUnit) : DieUnit :=
  if d.get DU_ASSIGN_SERVING ≠ 1 ∨ d.ctl.partnerId % 65536 = 0xFFFF then d
  else
    let d1 := (d.set DU_ASSIGN_SERVING 2).newNonce
    let d2 := (d1.sendShort ⟨ftRegister, d1.requestBody regFailover, d.ctl.partnerMac, none⟩).modCtl fun c =>
      { c with failReq := some d.mono, partner := some SeqState.init, readmit := none }
    d2.modFb fun f => { f with staged := f.staged.map fun p => { p with split := none } }

def DieUnit.homeSilent (d : DieUnit) : Bool :=
  decide (d.get DU_ASSIGN_SERVING = 1) && decide (d.ctl.lastHome + d.failoverTimeout ≤ d.mono)

/-- FAILOVER_TIMEOUT (R25 (b)). -/
def DieUnit.failoverTimer (d : DieUnit) : DieUnit := if d.homeSilent then d.failover else d

/-- Something of the home aggregator was heard: its timer restarts, unless it has run out already (R25). -/
def DieUnit.heardHome (d : DieUnit) : DieUnit :=
  let d1 := d.failoverTimer
  if d1.get DU_ASSIGN_SERVING = 1 then d1.modCtl fun c => { c with lastHome := d.mono } else d1

/-- KEEPALIVE_RX (R25, R266). -/
def DieUnit.keepaliveRx (d : DieUnit) (agg : Nat) : DieUnit :=
  if d.registered ∧ agg = d.homeId then d.heardHome else d

/-- CHIP_RESET_ANNOUNCE_RX (R25 (a), R230). -/
def DieUnit.chipResetRx (d : DieUnit) (l : List Byte) : DieUnit := if d.fromHome l then d.failover else d

/-! ### Control frames (R20, R261 to R264) -/

abbrev ackNotArmed : Nat := 0x03
abbrev ackWrongJob : Nat := 0x04
abbrev ackForbidden : Nat := 0x05
abbrev ackBadFrame : Nat := 0x06

/-- A CONTROL-ACK body (Table 10-4). -/
def ackBody (op status cseq : Nat) (values : List W64) : List Byte :=
  beBytes 1 op ++ beBytes 1 status ++ zeros 2 ++ beBytes 4 cseq ++ beBytes 2 (8 * values.length) ++ zeros 6
    ++ values.flatMap fun v => beBytes 8 v.toNat

/-- The frame comes from the partner, from home, or from neither. -/
inductive CtlFrom where
  | home
  | partner
  | stranger
  deriving DecidableEq, Repr

/-- Whose frame it is, among those obeyed: home's, the partner's in failover, both between READMIT and the first frame of
step S (R20, R27). -/
def DieUnit.ctlFrom (d : DieUnit) (h : CtlHead) : CtlFrom :=
  let serving := d.get DU_ASSIGN_SERVING
  if ¬ d.registered then .stranger
  else if h.agg = d.homeId then
    (if serving = 1 ∨ (serving = 2 ∧ d.ctl.readmit.isSome) then .home else .stranger)
  else if serving = 2 ∧ h.agg = d.ctl.partnerId then .partner
  else .stranger

def DieUnit.seqOf (d : DieUnit) (partner : Bool) : SeqState :=
  if partner then d.ctl.partner.getD SeqState.init else d.ctl.home

def DieUnit.setSeq (d : DieUnit) (partner : Bool) (s : SeqState) : DieUnit :=
  d.modCtl fun c => if partner then { c with partner := some s } else { c with home := s }

/-- The acknowledgement of an executed frame is kept among the last 8 and sent (R264). -/
def DieUnit.ackFrame (d : DieUnit) (partner : Bool) (cseq : Nat) (body : List Byte) : DieUnit :=
  let s := d.seqOf partner
  let d1 := d.setSeq partner ⟨cseq, ((cseq, body) :: s.acks).take 8⟩
  d1.sendShort ⟨ftControlAck, body, if partner then d.ctl.partnerMac else d.ctl.aggMac, none⟩


/-! ### The operations (Table 10-3) -/

/-- ARM: Job ID 0 names no job and is answered BAD-FRAME (R11, R179; log 129). -/
def DieUnit.ctlArm (d : DieUnit) (job gen : Nat) : Nat × DieUnit :=
  if job % 2 ^ 32 = 0 then (ackBadFrame, d)
  else if d.on TCK_JOB_ARMED then (ackWrongJob, d) else (ackOk, (d.armJob job gen).wake .tcp)

/-- RETIRE: R179, and every open record parcel closes (R206). -/
def DieUnit.ctlRetire (d : DieUnit) : Nat × DieUnit :=
  if d.on TCK_JOB_ARMED then (ackOk, d.retireJob.serve.closeAll) else (ackNotArmed, d)

def DieUnit.ctlPealArm (d : DieUnit) (p : ArmedPeal) : Nat × DieUnit := d.armPeal p
def DieUnit.ctlFreezeRelease (d : DieUnit) : Nat × DieUnit := (ackOk, d.releaseFreeze)

/-- FP-MAP replaces the whole map from the next advance (R162). -/
def DieUnit.ctlFpMap (d : DieUnit) (ents : List (Nat × FpMapEnt)) : Nat × DieUnit :=
  (ackOk, d.modTcp fun t => { t with fpNext := some (ents.foldl (fun m e => tabPut m e.1 e.2) []) })

/-- SEL-KEY loads the key from the next advance (R165, R168). -/
def DieUnit.ctlSelKey (d : DieUnit) (key : List Byte) : Nat × DieUnit :=
  (ackOk, d.modTcp fun t => { t with keyNext := some key })

def DieUnit.ctlDumpArm (d : DieUnit) (tensor : Nat) (atEnd : Bool) (step : Nat) : Nat × DieUnit :=
  let (s, d1) := d.armDump tensor atEnd step
  (s, (if s = ackOk then d1.wake .tcp else d1).serve)

def DieUnit.ctlRingTrigger (d : DieUnit) : Nat × DieUnit := (ackOk, d.ringTrigger)

/-- READMIT names S and starts home's sequence again, while the partner serves (R27, R264). -/
def DieUnit.ctlReadmit (d : DieUnit) (step : Nat) : Nat × DieUnit :=
  if d.get DU_ASSIGN_SERVING = 2 then
    (ackOk, d.modCtl fun c => { c with readmit := some step, home := SeqState.init, failReq := none })
  else (ackOk, d)

/-- The addresses of a REG-WRITE or REG-READ lie in pages, and a write does not name TRC_AUTH (R263). -/
def regOpsOk (write : Bool) (ops : List RegOp) : Bool :=
  ops.all fun o => duPageExists (o.addr / 4096) && !(write && decide (o.addr / 8 * 8 = addr_TRC_AUTH))

/-- Domains of the addresses that are not on (R263). -/
def DieUnit.sleepingFor (d : DieUnit) (ops : List RegOp) : List FastDom :=
  allDoms.filter fun k => !d.isOn k && ops.any fun o => decide (domOfReg (o.addr / 8 * 8) = some k)

/-- The accesses of a frame, in order, as a privileged master (R263, R466). -/
def DieUnit.runRegOps (d : DieUnit) (write : Bool) : List RegOp → List W64 × DieUnit
  | [] => ([], d)
  | o :: rest =>
    let (v, d1) := d.access o.addr (if write then some o.value else none) ⟨true, true⟩ 0
    let (vs, d2) := d1.runRegOps write rest
    (if write then [] else v :: vs, d2)

abbrev opArm : Nat := 0x01
abbrev opRetire : Nat := 0x02
abbrev opPealArm : Nat := 0x03
abbrev opFreezeRelease : Nat := 0x04
abbrev opFpMap : Nat := 0x05
abbrev opSelKey : Nat := 0x06
abbrev opDumpArm : Nat := 0x07
abbrev opRingTrigger : Nat := 0x08
abbrev opReadmit : Nat := 0x09
abbrev opRegWrite : Nat := 0x0A
abbrev opRegRead : Nat := 0x0B

/-- The opcode of an operation. -/
def CtlOp.code : CtlOp → Nat
  | .arm _ _ => opArm
  | .retire => opRetire
  | .pealArm _ => opPealArm
  | .freezeRelease => opFreezeRelease
  | .fpMap _ => opFpMap
  | .selKey _ => opSelKey
  | .dumpArm _ _ _ => opDumpArm
  | .ringTrigger => opRingTrigger
  | .readmit _ => opReadmit
  | .regs write _ => if write then opRegWrite else opRegRead
  | .bad op => op

/-- What an operation does beside its acknowledgement: a status, values, and the die unit after it; none while it waits for
a domain's wake. A REG-WRITE or REG-READ is FORBIDDEN as a whole, waits, or is carried out (R262, R263). -/
def CtlOp.act (o : CtlOp) (d : DieUnit) : Option (Nat × List W64 × DieUnit) :=
  let now (r : Nat × DieUnit) : Option (Nat × List W64 × DieUnit) := some (r.1, [], r.2)
  match o with
  | .arm job gen => now (d.ctlArm job gen)
  | .retire => now d.ctlRetire
  | .pealArm p => now (d.ctlPealArm p)
  | .freezeRelease => now d.ctlFreezeRelease
  | .fpMap ents => now (d.ctlFpMap ((List.range ents.length).zip ents))
  | .selKey key => now (d.ctlSelKey key)
  | .dumpArm tensor atEnd step => now (d.ctlDumpArm tensor atEnd step)
  | .ringTrigger => now d.ctlRingTrigger
  | .readmit step => now (d.ctlReadmit step)
  | .regs write ops =>
    if ¬ regOpsOk write ops then some (ackForbidden, [], d)
    else match d.sleepingFor ops with
      | [] => let (vs, d1) := d.runRegOps write ops; some (ackOk, vs, d1)
      | _ => none
  | .bad _ => some (ackBadFrame, [], d)

/-- A control frame in its sequence: rejected from a stranger, answered again as a duplicate, discarded out of order, or
executed and acknowledged; none while it must wait (R20, R264). -/
def DieUnit.runCtl (d : DieUnit) (x : HeldCtl) : Option DieUnit :=
  match d.ctlFrom x.head with
  | .stranger => some (d.inc DU_RXCNT_CTL_REJECT_N)
  | from_ =>
    let partner := decide (from_ = .partner)
    let s := d.seqOf partner
    let cseq := x.head.cseq % 2 ^ 32
    let gap := (x.head.cseq + 2 ^ 32 - s.last) % 2 ^ 32
    if gap = 1 then
      (x.op.act d).map fun r => r.2.2.ackFrame partner cseq (ackBody x.op.code r.1 cseq r.2.1)
    else if gap = 0 ∨ 2 ^ 31 ≤ gap then
      match s.acks.find? fun a => a.1 = cseq with
      | some a => some (d.sendShort ⟨ftControlAck, a.2, if partner then d.ctl.partnerMac else d.ctl.aggMac, none⟩)
      | none => some d
    else some d

/-- The waiting frames are taken in order of arrival until one must wait; it wakes what it waits for (R79, R263, R264). -/
def DieUnit.runQueue : List HeldCtl → DieUnit → DieUnit
  | [], d => d.modCtl fun c => { c with held := [] }
  | x :: rest, d =>
    match d.runCtl x with
    | some d1 => d1.runQueue rest
    | none => ((d.sleepingFor x.op.accesses).foldl DieUnit.wake d).modCtl fun c => { c with held := x :: rest }

def DieUnit.runHeld (d : DieUnit) : DieUnit := d.runQueue d.ctl.held

/-- PLEN of an operation (Tables 6-4, 10-3); a frame whose opcode or PLEN is wrong is taken as one without a payload (log
130). -/
def CtlOp.plen : CtlOp → Nat
  | .arm _ _ => 8
  | .pealArm _ => 24
  | .fpMap ents => 8 + 16 * ents.length
  | .selKey _ => 16
  | .dumpArm _ _ _ => 12
  | .readmit _ => 8
  | .regs write ops => 8 + (if write then 16 else 8) * ops.length
  | .retire | .freezeRelease | .ringTrigger | .bad _ => 0

/-- Bytes that a control frame takes in the receive buffer: its addresses and Ethertype, and its payload of a frame header, a
control header and PLEN bytes, padded (R181, R182, R261; log 130). -/
def HeldCtl.bytes (x : HeldCtl) : Nat := 14 + max 46 (32 + 16 + x.op.plen)

/-- The ingress receive buffer, 4 KiB (R79). -/
abbrev rxBufferBytes : Nat := 4096

/-- A control frame arrives: one that the receive buffer cannot hold is discarded and counted (R79); otherwise home has been
heard, and the frame waits its turn (R25, R264). -/
def DieUnit.control (d : DieUnit) (h : CtlHead) (op : CtlOp) : DieUnit :=
  if rxBufferBytes < (d.ctl.held.map HeldCtl.bytes).sum + (HeldCtl.mk h op).bytes then d.inc DU_RXCNT_RX_OVF_N
  else
  let d0 := if d.ctlFrom h = .home then d.heardHome else d
  let held := d0.ctl.held ++ [⟨h, op⟩]
  if d0.ctl.held = [] then d0.runQueue held else d0.modCtl fun c => { c with held := held }

end Sys2Proof.Machine
end

