-- ==== Sys2Proof/Machine/Insn.lean ====
section
/-!
DEFINITION. The words of detector programs: fields, register kinds of every opcode, what raises ILLEGAL-OP (R333, Tables 12-2 to
12-6).
-/
namespace Sys2Proof.Machine

/-- The fields of an instruction word beside its opcode (Table 12-2). -/
structure Insn where
  /-- STE1 in place of STE0 -/
  e : Bool
  /-- the reserved bit -/
  rsv : Bool
  d : Nat
  a : Nat
  b : Nat
  m : Nat
  ty : Nat
  imm : Int
  deriving DecidableEq, Repr

/-- Every field lies in its width. -/
def Insn.inRange (i : Insn) : Bool :=
  decide (i.d < 64 ∧ i.a < 64 ∧ i.b < 64 ∧ i.m < 8 ∧ i.ty < 8) && decide (-(2 ^ 29) ≤ i.imm ∧ i.imm < 2 ^ 29)

/-- Opcode and fields of a word. -/
def readInsn (w : Nat) : Nat × Insn :=
  (bits w 63 56, ⟨bit w 55, bit w 54, bits w 53 48, bits w 47 42, bits w 41 36, bits w 35 33, bits w 32 30,
    signed 30 (bits w 29 0)⟩)

/-- What a register field names. -/
inductive RegKind where
  | none
  | x
  | xpair
  | v
  | m
  | a
  deriving DecidableEq, Repr

def RegKind.ok (k : RegKind) (n : Nat) : Bool :=
  match k with
  | .none => true
  | .x => decide (n < 64)
  | .xpair => decide (n < 63)
  | .v => decide (n < 32)
  | .m => decide (n < 8)
  | .a => decide (n < 4)

/-- The kinds of D, A and B of an opcode; none of a reserved one. -/
def opKinds (op : Nat) : Option (RegKind × RegKind × RegKind) :=
  if op = 0x00 ∨ op = 0x01 ∨ op = 0x20 ∨ op = 0x23 ∨ op = 0x24 ∨ op = 0x31 ∨ op = 0x38 ∨ op = 0x3A ∨ op = 0xA0 then
    some (.none, .none, .none)
  else if op = 0x02 ∨ op = 0x28 ∨ op = 0x2C then some (.x, .none, .none)
  else if (0x03 ≤ op ∧ op ≤ 0x0C) ∨ (0x0E ≤ op ∧ op ≤ 0x12) ∨ op = 0x2A ∨ op = 0x30 ∨ op = 0x34 ∨ op = 0xA1 then
    some (.x, .x, .x)
  else if op = 0x0D ∨ op = 0x18 ∨ op = 0x1A ∨ op = 0x2B ∨ op = 0xA3 then some (.x, .x, .none)
  else if op = 0x19 ∨ op = 0x1B ∨ op = 0x71 then some (.none, .x, .x)
  else if op = 0x21 ∨ op = 0x22 ∨ op = 0x25 ∨ op = 0x29 ∨ op = 0x35 ∨ op = 0x36 ∨ op = 0x39 then some (.none, .x, .none)
  else if op = 0x40 ∨ op = 0x57 then some (.v, .x, .none)
  else if op = 0x41 ∨ op = 0x70 then some (.none, .x, .v)
  else if op = 0x42 then some (.v, .x, .x)
  else if op = 0x43 then some (.v, .x, .v)
  else if (0x48 ≤ op ∧ op ≤ 0x4C) ∨ op = 0x4E ∨ op = 0x4F ∨ op = 0x54 then some (.v, .v, .v)
  else if op = 0x4D ∨ op = 0x50 ∨ op = 0x51 ∨ op = 0x55 ∨ op = 0x56 ∨ op = 0x5A then some (.v, .v, .none)
  else if op = 0x52 ∨ op = 0x53 then some (.m, .v, .v)
  else if op = 0x58 then some (.x, .v, .none)
  else if op = 0x59 then some (.xpair, .v, .none)
  else if op = 0x60 ∨ op = 0x63 then some (.a, .none, .none)
  else if op = 0x61 then some (.a, .x, .x)
  else if op = 0x62 then some (.a, .x, .none)
  else if op = 0x72 then some (.x, .x, .x)
  else if op = 0x73 then some (.none, .v, .v)
  else if op = 0x74 then some (.v, .v, .none)
  else if op = 0xA2 then some (.none, .v, .none)
  else none

/-- The word raises no ILLEGAL-OP (Table 12-6). -/
def Insn.legal (op : Nat) (i : Insn) : Bool :=
  match opKinds op with
  | none => false
  | some (d, a, b) =>
    !i.rsv && d.ok i.d && a.ok i.a && b.ok i.b
      && (decide (op ≠ 0x61) || decide (0 ≤ i.imm ∧ i.imm ≤ 65536 ∧ i.imm % 32 = 0))

/-- It jumps by IMM words. -/
def opJumps (op : Nat) : Bool := decide (op = 0x20 ∨ op = 0x21 ∨ op = 0x22 ∨ op = 0x23 ∨ op = 0x25)

/-- Every word of a code section is legal, and every branch stays in it (R346). -/
def codeOk (code : List Byte) : Bool :=
  let n := code.length / 8
  (List.range n).all fun k =>
    let (op, i) := readInsn (le code (8 * k) 8)
    i.legal op && (!opJumps op || decide (0 ≤ (k : Int) + i.imm ∧ (k : Int) + i.imm < n))

end Sys2Proof.Machine
end

