-- ==== Sys2Proof/Machine/StateChip.lean ====
section
/-!
DEFINITION. The state of the IFA-40 chip around its programs: the signed configuration in force, the memories, the
synchronisation network, the power manager and the thermal control (R232 to R256, R476 to R478, R504 to R506).
-/
namespace Sys2Proof.Machine

/-- One entry of the tray map: switch port and package position to local index and FRU index (R17, R404). -/
structure TrayEnt where
  port : Nat
  pos : Nat
  loc : Nat
  fru : Nat
  deriving DecidableEq, Repr

/-- A region of the HBM (Table 9-17), as the configuration gives it. -/
structure RegionCfg where
  base : Nat
  limit : Nat
  attr : Nat
  deriving DecidableEq, Repr

/-- The sections of a configuration copy (Table 17-5). -/
structure FlashConfig where
  version : Nat
  aggId : Nat
  /-- power, coolant and network row (R21) -/
  domains : List Nat
  /-- partner's aggregator ID; 0xFFFF none (R22) -/
  partner : Nat
  /-- MAC addresses of this aggregator and of its partner, which ACCEPT names (Table 10-1) -/
  mac : Nat
  partnerMac : Nat
  tray : List TrayEnt
  /-- PS_CFG of port p and domain d at 2p + d (Table 16-7) -/
  ports : Store Nat
  /-- domainNumber of the primary and the redundant instance (Table 2-2), and the signed delay asymmetry of each port in
  2^-16 ns (R47) -/
  priDomain : Nat
  redDomain : Nat
  asym : Store Int
  /-- PRIV registers of die units, which a registration loads (R68, R219, R475; log 136) -/
  duRegs : List (Nat × W64)
  /-- bit c: logical core c is present; bit c: it lies on AD1 (R234) -/
  cores : Nat
  coreDie : Nat
  xdeMask : Nat
  regions : List RegionCfg
  /-- descriptor words NUM_W0 to NUM_W3 by entry, and AUD_NUMSET by entry from 0x1000 (R324) -/
  numerics : Store W64
  /-- detector public keys by index (R345) -/
  detKeys : Store (List Byte)
  /-- storage controllers, at most 4 (R375) -/
  storage : List Nat
  /-- OOB addresses of the aggregator and of its tray controller (R429) -/
  oobSelf : Nat
  oobCtl : Nat
  capW : Nat
  deriving DecidableEq, Repr

/-- No configuration is in force. -/
def FlashConfig.empty : FlashConfig :=
  { version := 0, aggId := 0, domains := [], partner := 0xFFFF, mac := 0, partnerMac := 0, tray := [], ports := [],
    priDomain := 0, redDomain := 1, asym := [], duRegs := [],
    cores := 0, coreDie := 0, xdeMask := 0, regions := [], numerics := [], detKeys := [], storage := [], oobSelf := 0,
    oobCtl := 0, capW := 2000 }

/-- What boot finds in the serial NOR flash, beside the firmware slots and the flush banks (R476, R477): whether the device
is supported; the revision and serial number of a manufacturing record that verifies; the configuration copies that verify;
the copy that the boot state names; the outcome of the memory tests and of the core map. -/
structure FlashImage where
  sfdpOk : Bool
  mfg : Option (Nat × List Byte)
  copyA : Option FlashConfig
  copyB : Option FlashConfig
  wantB : Bool
  memoryOk : Bool
  coreMapOk : Bool
  ingestOk : Bool
  deriving DecidableEq, Repr

/-- Where the aggregator's boot stands (R478): owed, after power-on or after a chip reset; waiting for a resync since a time
(stage 7); ready; stopped at a stage. -/
inductive Boot where
  | owed (chip : Bool)
  | resync (since : Nat)
  | ready
  | stopped
  deriving DecidableEq, Repr

/-- A wait in a semaphore's queue (R241, R242): engine, amount, the cycle in which it entered, the cycle at which it
expires. -/
structure SemWait where
  engine : Nat
  n : Nat
  since : Nat
  due : Option Nat
  deriving DecidableEq, Repr

/-- An engine that is owed a release, at a cycle (R239, R242). -/
structure Release where
  obj : Nat
  engine : Nat
  due : Nat
  deriving DecidableEq, Repr

/-- A WAIT or TRYWAIT that a semaphore judged in the cycle it is in (R242): engine, status register, word address of the
instruction after it, amount, and of a WAIT the cycle at which it expires. -/
structure SemOp where
  engine : Nat
  rd : Nat
  pc : Nat
  n : Nat
  wait : Bool
  due : Option Nat
  deriving DecidableEq, Repr

/-- The cycle in which a semaphore last had an operation (R242): value and queue before it, what its SIGNALs add, waiters that
it served, and the operations that it judged, in ascending engine number. -/
structure SemCycle where
  cycle : Nat
  value : Nat
  queue : List SemWait
  added : Nat
  served : List Nat
  ops : List SemOp
  deriving DecidableEq, Repr

/-- The synchronisation network beside its object words (R237 to R243). -/
structure SyncNet where
  /-- engines blocked at each barrier, in order of arrival -/
  barWait : Store (List Nat)
  /-- cycle of the first arrival of the generation, and cycle at which the release is due -/
  barFirst : Store Nat
  barRelease : Store Nat
  semQ : Store (List SemWait)
  /-- served waiters whose release is owed -/
  served : List Release
  /-- the last cycle of each semaphore -/
  semCyc : Store SemCycle
  deriving DecidableEq, Repr

def SyncNet.init : SyncNet := ⟨[], [], [], [], [], []⟩

/-- The power manager beside its registers (R250 to R255), and the thermal control (R505, R506). -/
structure PowerMgr where
  /-- when each waking domain began to wake, in ns of the free-running count -/
  wakeAt : Store Nat
  /-- domains that were in OFF when they began to wake -/
  fromOff : List Nat
  /-- deferred wakes, in order of request (R253) -/
  deferred : List Nat
  /-- wakes that wait for a parent (R250) -/
  held : List Nat
  /-- wake failures of each core in succession (Table 14-3) -/
  fails : Store Nat
  /-- drains asked for by Set Feature SCAN or by a privileged write, which stay until cleared; the other drains are
  automatic (R416) -/
  manual : List Nat
  /-- issue duty of each analysis die, in sixteenths, and gated cycles of each core (R256, R505) -/
  duty : List Nat
  gated : Store Nat
  /-- parts whose last sample was at its trip temperature: dies 0 and 1, I/O die 2, stacks 3 to 10 (R506) -/
  hot : List Nat
  thermtrip : Bool
  /-- load is shed (R488 step 5) -/
  shed : Bool
  /-- peals that each core and INGEST received together last, with the gap flag, and those a sleeping one is owed, in order
  (R249) -/
  pealSeen : Store (List (Nat × Bool))
  pealOwed : Store (List Nat)
  /-- words whose error could not be corrected, as address and length (R235) -/
  poison : List (Nat × Nat)
  /-- when each HBM controller group last had an access (Table 9-10) -/
  lastHbm : Store Nat
  /-- SRAM errors corrected, by core (R235) -/
  sramCe : Store Nat
  /-- when the fan-out, bridges, sensor trim and HBM were last calibrated, and the last patrol scrub (R244, R249, R417) -/
  calFanout : Nat
  calBridge : Nat
  calSensor : Nat
  calHbm : Nat
  scrub : Store Nat
  /-- lanes that failed training (R500) -/
  lanesDown : List Nat
  deriving DecidableEq, Repr

def PowerMgr.init : PowerMgr :=
  { wakeAt := [], fromOff := [], deferred := [], held := [], fails := [], manual := [], duty := [16, 16], gated := [],
    hot := [], thermtrip := false, shed := false, pealSeen := [], pealOwed := [], poison := [], lastHbm := [], sramCe := [], calFanout := 0,
    calBridge := 0, calSensor := 0, calHbm := 0, scrub := [], lanesDown := [] }

/-- BAR0 and the indirect pairs (R453, R465, R468). -/
structure BarState where
  /-- the word the last BAR0 read returned -/
  rdata : W64
  /-- writes held for domains that are not on: domain, address, value, with privilege -/
  held : List (Nat × Nat × W64 × Bool)
  /-- when the indirect pair of a page started its last fetch, and was last accessed -/
  fetchAt : Store Nat
  accessAt : Store Nat
  deriving DecidableEq, Repr

def BarState.init : BarState := ⟨0, [], [], []⟩

end Sys2Proof.Machine
end

