-- ==== Sys2Proof/Machine/StateDet.lean ====
section
/-!
DEFINITION. The state of detector images, instances and the Analysis Cores that run them (R325 to R362).
-/
namespace Sys2Proof.Machine

/-- One Statistics Engine: 32 vector registers of 64 lanes, 8 masks, 4 accumulator tiles of 32 × 32 FP32; what is not listed
is zero. -/
structure Ste where
  v : Store (List W64)
  m : Store W64
  a : Store (List Nat)
  deriving DecidableEq, Repr

def Ste.init : Ste := ⟨[], [], []⟩

/-- What a core waits for: nothing, a barrier or semaphore with the register that takes its status, or its mover copies. -/
inductive Blocked where
  | no
  | sync (rd : Nat)
  | moves
  deriving DecidableEq, Repr

/-- A mover copy that is not complete (R334). -/
structure Move where
  dst : Nat
  src : Nat
  len : Nat
  deriving DecidableEq, Repr

/-- A run on a core, or one that waits for it (R326 to R332). -/
structure Run where
  inst : Nat
  ctx : Nat
  tp : Nat
  pealId : Nat
  /-- die unit of a TRAY run -/
  duid : Option Nat
  /-- Table 12-1 STATE -/
  state : Nat
  /-- the core cycle in which it started (R328) -/
  began : Nat
  /-- address ranges that it may read, and read and write: base, length (R338) -/
  rd : List (Nat × Nat)
  rw : List (Nat × Nat)
  outputs : Store W64
  events : Nat
  bcastDone : Bool
  moves : List Move
  deriving DecidableEq, Repr

/-- An Analysis Core (Table 9-4). -/
structure Core where
  x : Store W64
  pc : Nat
  ste0 : Ste
  ste1 : Ste
  /-- sixteen XDE accumulators as eight pairs S, T (R299) -/
  xde : Store (Int × Int)
  blocked : Blocked
  run : Option Run
  /-- runs that wait, in order of arrival -/
  waiting : List Run
  deriving DecidableEq, Repr

def Core.init : Core :=
  { x := [], pc := 0, ste0 := Ste.init, ste1 := Ste.init, xde := [], blocked := .no, run := none, waiting := [] }

/-- A parameter block that holds from an epoch on (R330, R359). -/
structure ParamFrom where
  tp : Nat
  bytes : List Byte
  deriving DecidableEq, Repr

/-- What a shipped image keeps of one die unit and series, or die unit and cell (R351 to R354), as FP64 patterns. -/
structure LibState where
  /-- values taken in: count, mean and sum of squares of the baseline (drift) -/
  n : Nat
  mean : Nat
  m2 : Nat
  /-- WARM under which the baseline was learnt (drift) -/
  warm : Nat
  /-- S+, S-, e (drift) -/
  sPlus : Nat
  sMinus : Nat
  ewma : Nat
  /-- the window, oldest first (spike) -/
  win : List Nat
  /-- the score has been raised and has not fallen below half since (condition: audit, health) -/
  raisedA : Bool
  raisedH : Bool
  deriving DecidableEq, Repr

def LibState.init : LibState := ⟨0, 0, 0, 0, 0, 0, 0, [], false, false⟩

/-- An instance (R325 to R331). -/
structure Instance where
  ctx : Nat
  bind : Nat
  slot : Nat
  cores : Nat
  suspended : Bool
  /-- it stops at its next run boundary (DET-UNBIND) -/
  stopping : Bool
  succFaults : Nat
  faultCode : Nat
  runs : Nat
  /-- parameter blocks, the first in force now -/
  params : List ParamFrom
  /-- base addresses: SRAM in each core, HBM allocation, die state, instance state -/
  sram : Nat
  hbm : Nat
  dstate : Nat
  istate : Nat
  barriers : List Nat
  sems : List Nat
  /-- scalar table: 256 × local index + channel to the entry; reports that no run has taken in: packet time, entry, value
  (R343) -/
  scalars : Store W64
  reports : List (Nat × Nat × Nat)
  /-- die units whose previous snapshot has been in a run, for the state of drift, spike and condition of the library -/
  lib : Store LibState
  deriving DecidableEq, Repr

/-- A loaded image (R344 to R348). -/
structure DetImage where
  addr : Nat
  bytes : List Byte
  deriving DecidableEq, Repr

structure Detectors where
  images : Store DetImage
  instances : Store Instance
  cores : Store Core
  lastLoad : Store Nat
  /-- ESEQ of the next event -/
  eseq : Nat
  deriving DecidableEq, Repr

def Detectors.init : Detectors := ⟨[], [], [], [], 0⟩

end Sys2Proof.Machine
end

