-- ==== Sys2Proof/Machine/StateLedger.lean ====
section
/-!
DEFINITION. The state of the step ledger, of the mirror link and of the storage fabric's requests (R363 to R394).
-/
namespace Sys2Proof.Machine

/-- A ledger record (Tables 13-1, 13-2). -/
structure LRec where
  kind : Nat
  flags : Nat
  step : Nat
  /-- 0xFFFFFFFF: none -/
  duid : Nat
  author : Nat
  seq : Nat
  body : List Byte
  deriving DecidableEq, Repr

/-- What a ledger knows of a step beside its records. -/
structure StepState where
  /-- arrival of the first coverage record, and when the horizon reached the step, in ns of the free-running count -/
  firstCov : Option Nat
  reached : Option Nat
  /-- SEALED_NS -/
  sealedNs : Option Nat
  forced : Bool
  split : Bool
  /-- records refused: FP-RUN, LINEAGE-RUN (R376); mirror gap at a takeover (R379) -/
  fpRefused : Bool
  linRefused : Bool
  mirrorGap : Bool
  /-- fingerprints, lineage and parcels were discarded (R376) -/
  dropped : Bool
  /-- the main records are in storage; parts written so far; a write in progress, with the controller tried and when -/
  spilled : Bool
  parts : Nat
  writing : Option (Nat × Nat)
  /-- LSEQ of the records that the write in progress holds, or that are to be freed -/
  wrote : List Nat
  /-- a free is due, which a query may still delay (R385); true: the partner is told -/
  freeing : Option Bool
  deriving DecidableEq, Repr

def StepState.init : StepState :=
  { firstCov := none, reached := none, sealedNs := none, forced := false, split := false, fpRefused := false,
    linRefused := false, mirrorGap := false, dropped := false, spilled := false, parts := 0, writing := none,
    wrote := [], freeing := none }

/-- The ledger of one job generation (R363). -/
structure Ledger where
  job : Nat
  gen : Nat
  /-- the aggregator whose job it is: LEDGER home (R374) -/
  home : Nat
  /-- resident records, in order of arrival -/
  recs : List LRec
  /-- records each author has appended (R364) -/
  counts : Store Nat
  steps : Store StepState
  /-- MAP_VER of the last FP-MAP record appended here -/
  mapVer : Nat
  /-- the FP-MAP records, kept while the ledger stands (R367) -/
  maps : List LRec
  deriving DecidableEq, Repr

/-- A reference step that was imported (R391). -/
structure RefStep where
  agg : Nat
  job : Nat
  gen : Nat
  step : Nat
  recs : List LRec
  deriving DecidableEq, Repr

/-- A detector binding of a mirrored job context: bind index, IMAGE_ID, cores, parameter blocks (R331). -/
structure MirrorBind where
  bind : Nat
  image : Nat
  cores : Nat
  params : List ParamFrom
  deriving DecidableEq, Repr

/-- A mirror message that is kept until it is acknowledged (R378). -/
structure MirrorMsg where
  mseq : Nat
  kind : Nat
  payload : List Byte
  lastSent : Nat
  deriving DecidableEq, Repr

structure Mirror where
  /-- MSEQ of the last message numbered here, and of the last applied in order from the other side -/
  txSeq : Nat
  rxSeq : Nat
  /-- messages that are not acknowledged, oldest first -/
  log : List MirrorMsg
  /-- the other side's acknowledgement in this session -/
  acked : Nat
  up : Bool
  /-- full resync (R380): RESYNC-BEGIN is sent; MSEQ of the RESYNC-END sent; the other side's RESYNC-END is applied; the
  append counts of the other side's RESYNC-BEGIN, by job, generation, home and author -/
  beginSent : Bool
  endSent : Option Nat
  endRecv : Bool
  their : List (Nat × Nat × Nat × List (Nat × Nat))
  lastHealthRx : Nat
  lastHealthTx : Nat
  lostSent : Bool
  /-- the partner's last HEALTH payload (Table 14-9) -/
  partnerHealth : List Byte
  /-- some failure domain is shared with the far end; the far end is not the partner (R23) -/
  coLocated : Bool
  mismatch : Bool
  /-- versions of the objects of CONTEXT messages: kind × 2^32 + index here -/
  versions : Store Nat
  /-- bindings that arrived with each job context (R331) -/
  binds : Store (List MirrorBind)
  /-- LJ_REF0 and LJ_REF1 of mirrored job contexts, by context here (R393) -/
  refs : Store (W64 × W64)
  /-- image and model segments received: IMAGE_ID, offset, bytes -/
  images : List (Nat × Nat × List Byte)
  /-- messages of reserved kinds -/
  reserved : Nat
  deriving DecidableEq, Repr

def Mirror.init : Mirror :=
  { txSeq := 0, rxSeq := 0, log := [], acked := 0, up := false, beginSent := false, endSent := none, endRecv := false,
    their := [], lastHealthRx := 0, lastHealthTx := 0, lostSent := false, partnerHealth := [], coLocated := false,
    mismatch := false, versions := [], binds := [], refs := [], images := [], reserved := 0 }

/-- A request to a storage controller: a spill object written (name, part, bytes) or asked for. -/
structure StorageReq where
  write : Bool
  ctl : Nat
  agg : Nat
  job : Nat
  gen : Nat
  step : Nat
  part : Nat
  bytes : List Byte
  deriving DecidableEq, Repr

structure LedgerUnit where
  ledgers : List Ledger
  refs : List RefStep
  mir : Mirror
  /-- requests sent to storage controllers, oldest first -/
  storage : List StorageReq
  deriving DecidableEq, Repr

def LedgerUnit.init : LedgerUnit := ⟨[], [], Mirror.init, []⟩

end Sys2Proof.Machine
end

