-- ==== Sys2Proof/Machine/StateHost.lean ====
section
/-!
DEFINITION. The state of the health pipeline's notices, and of the host interface: queues, commands, capsules, DMA and
firmware (R395 to R425, R426 to R451).
-/
namespace Sys2Proof.Machine

/-- A fault that Table 14-3 may have to see repeated: unit, part of the unit, code, severity, time in ns. -/
structure FaultSeen where
  unit_ : Nat
  part_ : Nat
  code : Nat
  sev : Nat
  at_ : Nat
  deriving DecidableEq, Repr

/-- A mismatch that waits for its resolution (R398). -/
structure OpenMismatch where
  duid : Nat
  rec_ : List Byte
  at_ : Nat
  deriving DecidableEq, Repr

/-- A unit that waits for GRANT (R405): unit key, when it entered, the cause of its knell. -/
structure KnellWait where
  unit_ : Nat
  at_ : Nat
  cause : Nat
  deriving DecidableEq, Repr

/-- STRAGGLER history of a die unit in a job (R408): the last epochs, newest first; advice stands. -/
structure Straggles where
  ctx : Nat
  duid : Nat
  win : List Bool
  advised : Bool
  deriving DecidableEq, Repr

/-- When a conditional suspect bit was last confirmed: the step, and the job (R403). -/
structure CondMark where
  step : Nat
  ctx : Nat
  deriving DecidableEq, Repr

/-- A scan (R415, R416): core, attempt, asked for by Set Feature. -/
structure Scan where
  core : Nat
  attempt : Nat
  commanded : Bool
  running : Bool
  deriving DecidableEq, Repr

structure AggHealth where
  faults : List FaultSeen
  /-- reports taken: DUID, CODE, UNIT, OP, FIRST_T, by which a second arrival is known (R400) -/
  reports : List (List Nat)
  /-- the last alarm delivered of each ID_KIND, ASEQ and ID (R229; log 86) -/
  alarms : List (List Byte)
  mismatches : List OpenMismatch
  pending : List KnellWait
  /-- units whose knell is mandatory -/
  mandatory : List Nat
  /-- the newest 4,096 notices, oldest first -/
  notices : List (List Byte)
  straggles : List Straggles
  /-- step at which a conditional suspect bit was last confirmed: 64 × unit + cell; job context of it -/
  condStep : Store CondMark
  decayAt : Nat
  scans : List Scan
  /-- cores whose drain is followed by a map-out, by a scan, or by nothing -/
  afterDrain : Store Nat
  /-- chip resets: times in Fleet Time ns (AO reset log) -/
  resets : List Nat
  /-- RESET-LOOP is in force (R411) -/
  loop : Bool
  /-- a chip reset that is announced: health code, reason, when the cause came -/
  resetPending : Option (Nat × Nat × Nat)
  /-- when the last BEACON went out on each tocsin segment -/
  lastBeacon : Store Nat
  deriving DecidableEq, Repr

def AggHealth.init : AggHealth :=
  { faults := [], reports := [], alarms := [], mismatches := [], pending := [], mandatory := [], notices := [],
    straggles := [], condStep := [], decayAt := 0, scans := [], afterDrain := [], resets := [], loop := false,
    resetPending := none, lastBeacon := [] }

/-- A management event (R430). -/
inductive MgmtEvent where
  | notice (b : List Byte)
  | taint (b : List Byte)
  | detector (b : List Byte)
  /-- a report of an earlier chapter that has no layout of its own: its name and numbers -/
  | report (name : String) (args : List Nat)
  deriving DecidableEq, Repr

/-- A capsule sent (Table 15-3), with its attempts. -/
structure CapsuleOut where
  mseq : Nat
  kind : Nat
  tag : Nat
  off : Nat
  flags : Nat
  payload : List Byte
  tries : Nat
  lastSent : Nat
  deriving DecidableEq, Repr

/-- A management command whose SUBMIT or data is not complete, by its CID (R430). -/
structure CapsuleIn where
  tag : Nat
  entry : Option (List Byte)
  segs : List (Nat × List Byte)
  deriving DecidableEq, Repr

/-- An MCTP message, as far as R428 names its content. -/
inductive MctpMsg where
  | setEid (eid : Nat)
  | getEid
  | getVersion
  | getTypes
  | getVendor
  /-- PLDM of a type: 0 base, 2 monitoring and control, 4 FRU data -/
  | pldm (type : Nat)
  | identify
  | getLog (log off len : Nat)
  | other (type : Nat)
  deriving DecidableEq, Repr

/-- An MCTP answer. -/
inductive MctpAns where
  | eid (eid : Nat)
  | version
  | types
  | vendor
  | pldm (type : Nat)
  | data (b : List Byte)
  | error
  deriving DecidableEq, Repr

/-- The name of a spill object (R374). -/
structure ObjName where
  agg : Nat
  job : Nat
  gen : Nat
  step : Nat
  part : Nat
  deriving DecidableEq, Repr

/-- What a command waits for; `queued`: it is accepted and has not started. A fetch: objects that have not arrived, records
read so far, the cut (R384), since when. -/
inductive CmdWait where
  | queued
  | arm (ctx : Nat) (left failed : Nat)
  | retire (ctx : Nat) (left : Nat)
  | drain (ctx : Nat)
  | roll (ctx bseq : Nat)
  | fetch (need : List ObjName) (got : List LRec) (cut : Store Nat) (since : Nat)
  | flush (all : Bool)
  | activate (slot : Nat)
  /-- its queue pair is disabled: it ends at a Reset (R432) -/
  | dead
  deriving DecidableEq, Repr

/-- A command that has been accepted and has no posted completion (R436 to R440). Its serial number is even on the PCIe entry,
odd on the management entry; `head`: the SQ head after its fetch; `started`: when it was accepted. -/
structure Command where
  serial : Nat
  qid : Nat
  head : Nat
  entry : List Byte
  mdata : List Byte
  started : Nat
  wait : CmdWait
  deriving DecidableEq, Repr

/-- A queue pair's ring state (R431 to R433); qid 64 stands for the management queue. -/
structure QueuePair where
  sqLog : Nat
  cqLog : Nat
  cqid : Nat
  priv : Bool
  vector : Nat
  sqBase : Nat
  cqBase : Nat
  sqHead : Nat
  sqTail : Nat
  disabled : Bool
  deriving DecidableEq, Repr

/-- A completion queue's ring state. -/
structure CqState where
  log : Nat
  base : Nat
  head : Nat
  tail : Nat
  phase : Bool
  deriving DecidableEq, Repr

/-- A DMA descriptor in progress (R444 to R446). -/
structure DmaDesc where
  src : Nat
  dst : Nat
  len : Nat
  flags : Nat
  next : Nat
  deriving DecidableEq, Repr

/-- A firmware slot (R442): image and version, and whether it verifies. -/
structure FwSlot where
  image : List Byte
  version : Nat
  deriving DecidableEq, Repr

structure HostIf where
  queues : Store QueuePair
  cqs : Store CqState
  /-- in order of acceptance -/
  commands : List Command
  serial : Nat
  /-- queue served last by the round robin; 64 the management queue (R433) -/
  last : Nat
  /-- management submissions that are whole, in order -/
  mgmtQueue : List (List Byte × List Byte)
  capsIn : List CapsuleIn
  /-- MSEQ values of the last 1,024 capsules received -/
  capsSeen : List Nat
  capsOut : List CapsuleOut
  mseq : Nat
  /-- capsules and ACKs sent, oldest first -/
  oob : List (List Byte)
  events : List MgmtEvent
  dma : Store DmaDesc
  /-- MSI-X vectors signalled, oldest first -/
  msix : List Nat
  fwStaging : List Byte
  fw0 : Option FwSlot
  fw1 : Option FwSlot
  fwActive : Nat
  /-- activation in progress: slot, when firmware was started -/
  fwStart : Option (Nat × Nat)
  /-- the MCTP endpoint ID, and MCTP answers sent (R428) -/
  eid : Nat
  mctp : List MctpAns
  deriving DecidableEq, Repr

def HostIf.init : HostIf :=
  { queues := [], cqs := [], commands := [], serial := 0, last := 0, mgmtQueue := [], capsIn := [],
    capsSeen := [], capsOut := [], mseq := 0, oob := [], events := [], dma := [], msix := [],
    fwStaging := [], fw0 := none, fw1 := none, fwActive := 0, fwStart := none, eid := 0, mctp := [] }

end Sys2Proof.Machine
end

