-- ==== Sys2Proof/Machine/StateIngest.lean ====
section
/-!
DEFINITION. The state of ingest: meters, reassembly, registrations, control frames in flight, CDE channels and the
pigeonholes (R200 to R205, R220 to R223, R258 to R270, R447 to R450).
-/
namespace Sys2Proof.Machine

/-- The buckets of a meter (R220): tokens in thousandths of a bit, and when they last accrued, in ns of the free-running
count. -/
structure Meter where
  tokC : Nat
  tokP : Nat
  at_ : Nat
  deriving DecidableEq, Repr

/-- A parcel that a stream context reassembles (R269). -/
structure Reasm where
  pseq : Nat
  bytes : List Byte
  since : Nat
  deriving DecidableEq, Repr

/-- A stream context beside its words: the parcel in progress, the FSEQ expected next. -/
structure StreamState where
  open_ : Option Reasm
  nextFseq : Option Nat
  /-- parcels that are complete and not yet checked, oldest first -/
  ready : List (List Byte)
  deriving DecidableEq, Repr

def StreamState.init : StreamState := ⟨none, none, []⟩

/-- A control frame in flight to a die unit (R265). -/
structure CtlOutFrame where
  cseq : Nat
  op : Nat
  gtag : Nat
  payload : List Byte
  tries : Nat
  lastSent : Nat
  /-- serial number of the command it serves -/
  cmd : Option Nat
  deriving DecidableEq, Repr

/-- A control frame that waits for a place among the 4. -/
structure CtlWait where
  op : Nat
  gtag : Nat
  payload : List Byte
  cmd : Option Nat
  deriving DecidableEq, Repr

/-- The control path to one die unit (R264, R265). -/
structure CtlPath where
  /-- CSEQ of the last frame numbered -/
  cseq : Nat
  out : List CtlOutFrame
  waiting : List CtlWait
  /-- an unacknowledged frame stopped it; the CSEQ of the REG-READ that tests it -/
  stopped : Bool
  probe : Option Nat
  lastKeep : Nat
  /-- READMIT was sent, with this step: the die unit is the home aggregator's again from there (R27) -/
  readmit : Option Nat
  /-- the job and generation whose ARM the die unit acknowledged, until it acknowledges RETIRE (R261, R288) -/
  armed : Option (Nat × Nat)
  deriving DecidableEq, Repr

def CtlPath.init : CtlPath := ⟨0, [], [], false, none, 0, none, none⟩

/-- A CDE channel (R200 to R205): the parcel copied at opening, what it will write, how far it is. -/
structure Channel where
  privileged : Bool
  encode : Bool
  lagK : Nat
  fwdMax : Nat
  pool : Nat
  fwdWait : Nat
  cplAddr : Nat
  input : List Byte
  produced : Nat
  /-- current output buffer, its length, output bytes in it; buffers linked so far -/
  buf : Nat
  bufLen : Nat
  used : Nat
  links : Nat
  /-- waiting for a pool buffer since, in ns of the free-running count (R203) -/
  waitSince : Option Nat
  stopped : Bool
  lastBuf : Nat
  deriving DecidableEq, Repr

/-- A parcel held in a pigeonhole (R449). -/
structure HeldParcel where
  addr : Nat
  stream : Nat
  pseq : Nat
  len : Nat
  deriving DecidableEq, Repr

/-- A pool beside its words: the owner of each buffer in use, by buffer number; parcels held, oldest first. -/
structure Pool where
  owners : Store Nat
  parcels : List HeldParcel
  deriving DecidableEq, Repr

def Pool.init : Pool := ⟨[], []⟩

/-- What a register pool operation refers to between PH_ADDR and PH_OP is in the registers. -/
structure Ingest where
  meters : Store Meter
  streams : Store StreamState
  /-- control path by registration entry: own l, mirror 256 + l -/
  ctl : Store CtlPath
  /-- FSEQ of the next tree frame by (256 × job + generation) × 4096 + receiver (R281) -/
  fseqOut : Store Nat
  channels : Store Channel
  /-- resumes and cancels ignored (R204) -/
  chanIgnored : Nat
  /-- parcels that ended FORWARD-FAILED (R203) -/
  forwardFailed : Nat
  pools : Store Pool
  deriving DecidableEq, Repr

def Ingest.init : Ingest :=
  { meters := [], streams := [], ctl := [], fseqOut := [], channels := [], chanIgnored := 0, forwardFailed := 0, pools := [] }

end Sys2Proof.Machine
end

