-- ==== Sys2Proof/Machine/StateJob.lean ====
section
/-!
DEFINITION. The state of job contexts: tree part, schema, epochs, broadcasts and sampling settings (R271 to R294, R322,
R355 to R358).
-/
namespace Sys2Proof.Machine

/-- A slot of a reduction schema (R276, Table 15-11). -/
structure SchemaSlot where
  slot : Nat
  op : Nat
  fmt : Nat
  source : Nat
  index : Nat
  baseJ : Int
  deriving DecidableEq, Repr

/-- An aggregator's part of a job's tree (R286). -/
structure TreePart where
  level : Nat
  depth : Nat
  parent : Nat
  backup : Nat
  children : List Nat
  bchildren : List Nat
  /-- for each child in order: the aggregators of its subtree, with the die units each expects -/
  subtree : List (List (Nat × Nat))
  members : List Nat
  deriving DecidableEq, Repr

def TreePart.empty : TreePart := ⟨0, 0, 0, 0, [], [], [], []⟩

/-- The state of a die unit's contribution (Table 10-6). -/
inductive DieSt where
  | present
  | degraded
  | lightOnly
  | missing (reason : Nat)
  deriving DecidableEq, Repr

/-- The snapshot of a die unit at a peal: counters 0 to 511, light-set only or not; the one before it in the job, with the
same mark; and the last before it that held the main counters. -/
structure Snap where
  samples : List W64
  light : Bool
  prev : Option (List W64 × Bool)
  main : Option (List W64)
  deriving DecidableEq, Repr

/-- An open epoch (R271 to R273). -/
structure Epoch where
  tp : Nat
  pealId : Nat
  /-- its peal was sent or refused here, so that the expected die units stand; the level deadline has passed -/
  armed : Bool
  due : Bool
  expected : List Nat
  states : Store DieSt
  snaps : Store Snap
  /-- die units whose TRAY run has not ended, and the outputs of those that have: 16 places each (R326) -/
  running : List Nat
  outputs : Store (List (Option W64))
  /-- contributions of the children, by aggregator ID -/
  childIn : Store (List Byte)
  trayClosed : Option Nat
  tray : Option (List Byte)
  /-- die units with a STRAGGLER event in it (R408) -/
  straggled : List Nat
  deriving DecidableEq, Repr

/-- An entry of the epoch ring (R294). -/
structure RingEntry where
  version : Nat
  tp : Nat
  contrib : List Byte
  deriving DecidableEq, Repr

/-- A peal that a schedule arms (R271). -/
structure SchedPeal where
  pealId : Nat
  tp : Nat
  freeze : Bool
  /-- PEAL-ARM was sent -/
  sent : Bool
  /-- a period below P_min: none of its peals is armed -/
  refused : Bool
  deriving DecidableEq, Repr

/-- A contribution that was sent up and is not acknowledged (R282). -/
structure ContribOut where
  tp : Nat
  pealId : Nat
  bytes : List Byte
  tries : Nat
  lastSent : Nat
  to_ : Nat
  deriving DecidableEq, Repr

/-- A broadcast that is kept (R289 to R291): the acknowledgement sets and whole-subtree flags of children, and the copies
sent to each: child, attempts, time. -/
structure Bcast where
  bseq : Nat
  bkind : Nat
  issueT : List Byte
  payload : List Byte
  acked : Store (List Nat)
  whole : List Nat
  sends : List (Nat × Nat × Nat)
  applied : Bool
  /-- acknowledgement sets of the node itself -/
  own : List Nat
  issued : Nat
  reported : Bool
  deriving DecidableEq, Repr

/-- SEL-RATES of a job (Table 12-15). -/
structure SelRates where
  flags : Nat
  win : Nat
  aMin : Nat
  thrMax : Nat
  raiseMax : Nat
  suspectHold : Nat
  effect : Nat
  bands : List Nat
  thrBase : List Nat
  classes : List Nat
  deriving DecidableEq, Repr

/-- Counts of a die unit, step and cell (R322). -/
structure CellCount where
  selected : Nat
  audited : Nat
  deviates : Nat
  near : Nat
  health : Nat
  deriving DecidableEq, Repr

def CellCount.zero : CellCount := ⟨0, 0, 0, 0, 0⟩

/-- A coverage record that arrived: step, commits by cell, dropped selections. -/
structure Coverage where
  step : Nat
  bytes : List Byte
  deriving DecidableEq, Repr

/-- What a job context keeps of one die unit. -/
structure DieJob where
  /-- one above the greatest step of its coverage records (R365) -/
  dieStep : Nat
  cover : List Coverage
  /-- counts by 64 × step + cell -/
  counts : Store CellCount
  /-- the last snapshot in the job, light-set only or not, and the last that held the main counters -/
  prev : Option (List W64 × Bool)
  main : Option (List W64)
  /-- thresholds last written, cells raised by COND-SUSPECT: cell to the step at which the raise ends -/
  thr : Store Nat
  suspect : Store Nat
  /-- thresholds written, each with the first step at which it is in force, oldest first (R168) -/
  thrFrom : List (Nat × Store Nat)
  /-- the last window that was evaluated, by cell with commits: commits, and the thin raise times the commits, in units of
  2^-32 (R356, R358) -/
  thin : Store (Nat × Nat)
  ratesSent : Bool
  /-- expected selections and counts of the window of R323, by cell: Σ C p and Σ C p (1 − p) in units of 2^-64, Σ σ, dropped in
  units of 2^-64 -/
  z : Store (Nat × Nat × Nat × Nat)
  /-- captures: next CAP_SEQ expected, and missing numbers seen: number, since when -/
  capSeq : Nat
  capGaps : List (Nat × Nat)
  /-- the dump in progress: tensor, step, blocks seen with their check values -/
  dump : Option (Nat × Nat × List (Nat × Nat))
  deriving DecidableEq, Repr

def DieJob.init : DieJob :=
  { dieStep := 0, cover := [], counts := [], prev := none, main := none, thr := [], suspect := [], thrFrom := [], thin := [], ratesSent := false, z := [],
    capSeq := 0, capGaps := [], dump := none }

/-- Table 10-13. `arming`: bound by an Arm Job that has not completed; it shows FREE. -/
inductive JobState where
  | arming
  | armed
  | retiring
  | quarantine
  deriving DecidableEq, Repr

def JobState.code : JobState → Nat
  | .arming => 0
  | .armed => 1
  | .retiring => 2
  | .quarantine => 3

/-- A swap that is in force: outgoing, incoming, T_s, RETIRE sent (R409). -/
structure Swap where
  out : Nat
  inn : Nat
  ts : Nat
  retired : Bool
  deriving DecidableEq, Repr

/-- A broadcast of which segments have come: BSEQ, kind, issue time (8 octets), number of segments, the segments by number. -/
structure BcastPart where
  seq : Nat
  kind : Nat
  at_ : List Byte
  total : Nat
  segs : List (Nat × List Byte)
  deriving DecidableEq, Repr

/-- A job context that is not FREE. -/
structure JobCtx where
  job : Nat
  gen : Nat
  state : JobState
  version : Nat
  tree : TreePart
  /-- the tree part stands (R288 step 4) -/
  treeHeld : Bool
  /-- tree parts by the first T_p from which they hold; the one in force now stands in `tree` (R283) -/
  reparent : List (Nat × TreePart)
  /-- mirrored context in failover: the first T_p from which a REPARENT lets this aggregator take the position (R283) -/
  standIn : Option Nat
  schemaId : Nat
  schema : List SchemaSlot
  epochWait : Nat
  hopWait : Nat
  dieUnits : List Nat
  /-- die units of the job that failed their ARM: listed missing with reason 0x1 (R437) -/
  failed : List Nat
  fpMap : List (List Byte)
  fpDeclared : Nat
  truncated : Bool
  selKey : List Byte
  tainted : Bool
  firstTaint : Nat
  horizon : Option Nat
  /-- steps that the horizon has reached at some time, as the step after them -/
  reachedTo : Nat
  dies : Store DieJob
  peals : List SchedPeal
  epochs : List Epoch
  ring : List RingEntry
  /-- T_p of closed epochs that have left the ring (R274) -/
  gone : List Nat
  /-- children whose contribution was taken, merged or late, by T_p (R282) -/
  taken : Store (List Nat)
  /-- segments of a child's contribution that is still incomplete, by T_p × 4096 + child: total length, bytes by offset -/
  parts : Store (Nat × List (Nat × List Byte))
  ups : List ContribOut
  /-- broadcasts kept, newest last, at most 256; BSEQ last applied; segments of broadcasts not complete: BSEQ, kind, issue
  time, length, segments -/
  bcasts : List Bcast
  applied : Nat
  bparts : List BcastPart
  /-- since when an earlier BSEQ is missing -/
  gapSince : Option Nat
  reservedBc : Nat
  oldNak : Nat
  /-- last heartbeat heard from each peer, and peers reported lost; when heartbeats were last sent -/
  heard : Store Nat
  lost : List Nat
  hbSent : Nat
  /-- SEL-RATES last applied, and the one before, which governs die units that have not been sent the new one (R355) -/
  rates : Option SelRates
  oldRates : Option SelRates
  swaps : List Swap
  /-- RETIRE was acknowledged or failed by every die unit at, and when the quarantine ends -/
  drainAt : Option Nat
  quarEnd : Nat
  deriving DecidableEq, Repr

/-- What the image of a job context says (R377): the context, none where it is FREE, its detector bindings, and LJ_REF0 and
LJ_REF1 (after Table 13-14). -/
structure JobImage where
  job : Option JobCtx
  binds : List MirrorBind
  ref0 : W64
  ref1 : W64
  deriving DecidableEq, Repr

end Sys2Proof.Machine
end

