-- ==== Sys2Proof/Syntax.lean ====
section
/-!
DEFINITION. The commands of the block: one constructor per row of the opcode table, named after it. Operands are what the row's event
carries: the part it happens at, the fields or bytes of what arrives, the levels of lines. `q`: quarter ns since the last reference
edge; `cyc`: core cycles since it.
-/
namespace Sys2Proof

open Sys2Proof.Machine

inductive Instr where
  /-- FLEET_TIME_TICK (R33): a tray reference edge, 40 ns after the last; `busy`: the lt_busy lines -/
  | fleetTimeTick (p : Part) (busy : Nat)
  /-- INTERP_LINE_SWAP (R34) -/
  | interpLineSwap
  /-- REF_LOST (R36) -/
  | refLost
  /-- REF_RETURN (R36): nothing returns that was not lost -/
  | refReturn
  /-- TS_RX_STROBE (R44): `q` quarter ns after the last reference edge, with the ingress latency and its valid line -/
  | tsRxStrobe (p : Part) (port q lat : Nat) (valid : Bool)
  /-- TS_TX_STROBE (R44) -/
  | tsTxStrobe (p : Part) (port q lat : Nat) (valid : Bool)
  /-- STROBE_UNMATCHED (R80) -/
  | strobeUnmatched (p : Part)
  /-- SYNC_RX (R46) -/
  | syncRx (p : Part) (m : PtpMsg)
  /-- FOLLOW_UP_RX (R46) -/
  | followUpRx (p : Part) (m : PtpMsg)
  /-- DELAY_REQ_TX (R46) -/
  | delayReqTx (p : Part) (m : Dom)
  /-- DELAY_REQ_RX (R46): the die unit has no master port, and ignores it (Table 2-1) -/
  | delayReqRx (p : Part) (m : PtpMsg)
  /-- DELAY_RESP_RX (R46): the exchange is complete; its servo value is drawn (log 10) -/
  | delayRespRx (p : Part) (m : PtpMsg)
  /-- ANNOUNCE_RX (R53) -/
  | announceRx (p : Part) (m : PtpMsg)
  /-- PTP_UNIMPLEMENTED_RX (R41) -/
  | ptpUnimplementedRx (p : Part) (m : PtpMsg)
  /-- SYNC_TX (R42): a master port of the aggregator -/
  | syncTx (port : Nat) (m : Dom)
  /-- ANNOUNCE_TX (R42) -/
  | announceTx (port : Nat) (m : Dom)
  /-- SYNC_RECEIPT_LOSS (R53) -/
  | syncReceiptLoss (p : Part) (m : Dom)
  /-- ANNOUNCE_TIMEOUT (R53) -/
  | announceTimeout (p : Part) (m : Dom)
  /-- ACCEPT_JUMP (R54): a privileged write of TC_CTRL -/
  | acceptJump (p : Part) (q : Nat)
  /-- ACTIVE_SET (R56): a privileged write of TC_CTRL names the domain -/
  | activeSet (p : Part) (m : Dom) (q : Nat)
  /-- TC_NOW_READ (R68) -/
  | tcNowRead (p : Part) (priv : Bool) (q : Nat)
  /-- CLKMON_WINDOW (R66): edges of each fast clock counted over 640 ns, and the stretch inputs -/
  | clkmonWindow (cnt trc egr tcp stretch : Nat)
  /-- PEAL_ARM (R58): a control frame that arms a peal -/
  | pealArm (h : CtlHead) (id tp : Nat) (frozen : Bool) (waitUs : Nat)
  /-- PEAL_FIRE (R60): the counter edge, at the die unit; the fan-out of a peal over the cores, at the aggregator (R249) -/
  | pealFire (p : Part) (id q : Nat)
  /-- COUNTER_CLOCK_RESUME (R63) -/
  | counterClockResume (q : Nat)
  /-- PEAL_LIGHT_SET_TIMEOUT (R63) -/
  | pealLightSetTimeout
  /-- GATE_WINDOW_OPEN (R64): window `e` of the active gate list -/
  | gateWindowOpen (e q : Nat)
  /-- GATE_WINDOW_CLOSE (R64) -/
  | gateWindowClose (e q : Nat)
  /-- PD_CLK_ACK (R73): an acknowledge that comes too late fails the wake (R74) -/
  | pdClkAck (k : FastDom)
  /-- DOMAIN_WAKE_DONE (R73); control frames that waited for the domain are carried out (R263) -/
  | domainWakeDone (k : FastDom) (q : Nat)
  /-- DOMAIN_WAKE_FAIL (R74) -/
  | domainWakeFail (k : FastDom)
  /-- DOMAIN_SLEEP (R75) -/
  | domainSleep (k : FastDom) (q : Nat)
  /-- TRACE_PACKET_ASLEEP (R76) -/
  | tracePacketAsleep (port : Nat) (x : TracePkt)
  /-- POR_N (R475) -/
  | porN
  /-- RST_N (R77) -/
  | rstN
  /-- SOFT_RESET (R472): a privileged write of DU_RST.SOFT -/
  | softReset (q : Nat)
  /-- DOMAIN_RESET (R472): a privileged write of DU_RST.DOM_RST -/
  | domainReset (doms q : Nat)
  /-- MAC_RX_DISCARD (R79): a frame lost by a receive buffer overflow, or by its FCS -/
  | macRxDiscard (overflow : Bool)
  /-- EG_DROP (R81) -/
  | egDrop
  /-- CNT_CYCLE (R104) -/
  | cntCycle (i : CntInputs)
  /-- LT_ERR_TOGGLE (R102): the new levels of the lt_err lines -/
  | ltErrToggle (levels : Nat)
  /-- COMMAND_START (R109) -/
  | commandStart (cmId q : Nat)
  /-- COMMAND_END (R109) -/
  | commandEnd (q : Nat)
  /-- SELECTOR_WRITE (R105) -/
  | selectorWrite (n w : Nat) (priv : Bool) (q : Nat)
  /-- CLEAR (R121) -/
  | clear (q : Nat)
  /-- SNAP (R120) -/
  | snap (q : Nat)
  /-- FREEZE (R118) -/
  | freeze (q : Nat)
  /-- FREEZE_REL (R119) -/
  | freezeRel (q : Nat)
  /-- FREEZE_TIMEOUT (R119) -/
  | freezeTimeout
  /-- LATCH_REL (R116) -/
  | latchRel (q : Nat)
  /-- COUNTER_READ (R128): a read of a counter value over the register port -/
  | counterRead (n : Nat) (priv : Bool) (q : Nat)
  /-- PEAL_BANK_COPY (R123) -/
  | pealBankCopy (b : Nat)
  /-- LATCH_PARCEL_BUILD (R206) -/
  | latchParcelBuild
  /-- TRACE_PACKET_PRESENT (R132): `x` on trace port `port` -/
  | tracePacketPresent (port : Nat) (x : TracePkt) (q : Nat)
  /-- TRACE_STAGE_WRITE (R136): a trace cycle; `stretch`: the clock is stretched -/
  | traceStageWrite (q : Nat) (stretch : Bool)
  /-- DEAD_REPORT_STAGE (R137) -/
  | deadReportStage (src q : Nat)
  /-- SOURCE_SLEEP (R147): tr_sleep of a port rises -/
  | sourceSleep (port q : Nat)
  /-- SOURCE_WAKE (R147) -/
  | sourceWake (port q : Nat)
  /-- TRACE_CLOCK_RESUME (R144): the first edge of the trace clock after a stop -/
  | traceClockResume (q : Nat)
  /-- AUTH_WRITE (R134): a privileged write of TRC_AUTH over the register port -/
  | authWrite (sec prv : Bool) (q : Nat)
  /-- SEGMENT_FLUSH_TIMEOUT (R151) -/
  | segmentFlushTimeout
  /-- SEGMENT_DRAIN (R152) -/
  | segmentDrain
  /-- DRAIN_EN_WRITE (R153) -/
  | drainEnWrite (en : Bool) (q : Nat)
  /-- RING_TRIG (R154): a privileged write of TRC_CTRL -/
  | ringTrig (q : Nat)
  /-- TRACE_MODE_WRITE (R155) -/
  | traceModeWrite (mode q : Nat)
  /-- STEP_ADVANCE (R89) -/
  | stepAdvance (step : Nat)
  /-- CHECK_EVENT (R160): of a produced block, or (`consumed`) of a consumed one -/
  | checkEvent (consumed : Bool) (tensor block carried computed q : Nat)
  /-- LINEAGE_TRANSFER (R178): a record of 48 bytes -/
  | lineageTransfer (rec_ : List Byte)
  /-- TILE_COMMIT (R91) -/
  | tileCommit (x : CommitIn) (q : Nat)
  /-- SELECTION_ANSWER (R167) -/
  | selectionAnswer
  /-- CAPTURE_BEAT (R171): data of a part of the capture with a tag; `last`: of that part -/
  | captureBeat (tag part : Nat) (data : List Byte) (last : Bool)
  /-- CAPTURE_ABORT (R171) -/
  | captureAbort (tag : Nat)
  /-- CAPTURE_DEADLINE (R171) -/
  | captureDeadline (tag : Nat)
  /-- CAPTURE_UNFINISHED (R171) -/
  | captureUnfinished (tag : Nat)
  /-- DUMP_REQUEST (R174) -/
  | dumpRequest
  /-- DUMP_ACK (R174) -/
  | dumpAck
  /-- DUMP_ACK_TIMEOUT (R174) -/
  | dumpAckTimeout
  /-- DUMP_BEAT (R175): data of a block, `last` of it, `final` of the dump (log 16), or an abort -/
  | dumpBeat (data : List Byte) (last final abort : Bool)
  /-- HE_REPORT (R95) -/
  | heReport (unit_ op code sev : Nat)
  /-- SN_UPD (R95) -/
  | snUpd (temp : Int) (mv : Nat)
  /-- HEALTH_RECORD_RELEASE (R397) -/
  | healthRecordRelease (hseq : Nat)
  /-- SUPPLY_WARN (R481) -/
  | supplyWarn
  /-- SUPPLY_CRIT (R482) -/
  | supplyCrit
  /-- SUPPLY_OK (R479): of the critical level, where `crit`, or of the warning -/
  | supplyOk (p : Part) (crit : Bool)
  /-- FLUSH_WORD_ACK (R486) -/
  | flushWordAck
  /-- FLUSH_WORD_TIMEOUT (R483) -/
  | flushWordTimeout
  /-- FAULT_FLUSH_START (R487) -/
  | faultFlushStart (p : Part)
  /-- QUEUED_FLUSH_START (R487) -/
  | queuedFlushStart (p : Part)
  /-- RECORDER_FLUSH (R487): a privileged write of REC_CTRL.FLUSH -/
  | recorderFlush (p : Part) (q : Nat)
  /-- RECORDER_WRITE (R484) -/
  | recorderWrite (p : Part)
  /-- RATE_BUCKET_REFILL (R485) -/
  | rateBucketRefill (p : Part) (i : Nat)
  /-- RECORDER_CURSOR_WRITE (R489) -/
  | recorderCursorWrite (p : Part) (cursor q : Nat)
  /-- REC_WIN_AUTO_READ (R489): a read of REC_WIN7 -/
  | recWinAutoRead (p : Part) (q : Nat)
  /-- BANK_ERASE_DONE (R488) -/
  | bankEraseDone
  /-- AGG_SUPPLY_WARN (R488) -/
  | aggSupplyWarn
  /-- AGG_SUPPLY_CRIT (R488) -/
  | aggSupplyCrit
  /-- AGG_FLUSH_PAGE_DONE (R486) -/
  | aggFlushPageDone
  /-- TOCSIN_TX_START (R227): the bus has had no transition for `quiet` bit times -/
  | tocsinTxStart (seg : Option Nat) (quiet : Nat)
  /-- TOCSIN_COLLISION (R97, R227): ts_cd, and the levels heard on ts_rxd since the frame began; the backoff is drawn
    (log 20) -/
  | tocsinCollision (seg : Option Nat) (cd : Bool) (heard : List Bool)
  /-- TOCSIN_TX_END (R225) -/
  | tocsinTxEnd (seg : Option Nat)
  /-- ALARM_RX (R229): the levels on ts_rxd -/
  | alarmRx (seg : Nat) (rxd : List Bool)
  /-- ALARM_ACK_RX (R228) -/
  | alarmAckRx (rxd : List Bool)
  /-- ALARM_RESEND (R228) -/
  | alarmResend (aseq : Nat)
  /-- CHIP_RESET_ANNOUNCE_RX (R230) -/
  | chipResetAnnounceRx (rxd : List Bool)
  /-- BEACON_RX (R230) -/
  | beaconRx (rxd : List Bool)
  /-- BEACON_TX (R229) -/
  | beaconTx (seg : Nat)
  /-- BEACON_LOST (R230) -/
  | beaconLost
  /-- GUEST_FRAME_RX (R229) -/
  | guestFrameRx (seg : Nat) (rxd : List Bool)
  /-- TOCSIN_UNKNOWN_RX (R226) -/
  | tocsinUnknownRx (seg : Option Nat) (rxd : List Bool)
  /-- FAILOVER_TIMEOUT (R25) -/
  | failoverTimeout
  /-- KEEPALIVE_TX (R266): to the die unit of a registration entry -/
  | keepaliveTx (entry : Nat)
  /-- KEEPALIVE_RX (R25): of the aggregator with that ID -/
  | keepaliveRx (aggId : Nat)
  /-- REGISTER_REQUEST_TX (R258) -/
  | registerRequestTx
  /-- REGISTER_REQUEST_RX (R259): a REGISTER frame from a MAC address -/
  | registerRequestRx (mac : Nat) (l : List Byte)
  /-- REGISTER_ACCEPT_RX (R259) -/
  | registerAcceptRx (nonce : Nat) (x : RegAccept)
  /-- REGISTER_REFUSE_RX (R259) -/
  | registerRefuseRx (nonce : Nat)
  /-- FAILOVER_REQUEST_RX (R260) -/
  | failoverRequestRx (mac : Nat) (l : List Byte)
  /-- ARM (R179) -/
  | arm (h : CtlHead) (job gen : Nat)
  /-- RETIRE (R179) -/
  | retire (h : CtlHead)
  /-- FREEZE_RELEASE (R119) -/
  | freezeRelease (h : CtlHead)
  /-- FP_MAP (R162): an entry's index is its place in the frame -/
  | fpMap (h : CtlHead) (ents : List FpMapEnt)
  /-- SEL_KEY (R165) -/
  | selKey (h : CtlHead) (key : List Byte)
  /-- DUMP_ARM (R173): of a tensor, at the end of a step or at its first advance to one -/
  | dumpArm (h : CtlHead) (tensor : Nat) (atEnd : Bool) (step : Nat)
  /-- RING_TRIGGER (R154) -/
  | ringTrigger (h : CtlHead)
  /-- READMIT (R27) -/
  | readmit (h : CtlHead) (step : Nat)
  /-- REG_WRITE (R263) -/
  | regWrite (h : CtlHead) (ops : List RegOp)
  /-- REG_READ (R263) -/
  | regRead (h : CtlHead) (addrs : List Nat)
  /-- CTL_BAD_FRAME (R262): a reserved opcode, or a wrong PLEN -/
  | ctlBadFrame (h : CtlHead) (op : Nat)
  /-- CONTROL_ACK_RX (R265) -/
  | controlAckRx (l : List Byte)
  /-- CTL_RETRY (R265): a control frame of a registration entry's path -/
  | ctlRetry (entry cseq : Nat)
  /-- LAUNCH_DECISION (R213): a frame boundary, or a change of eligibility -/
  | launchDecision (q : Nat)
  /-- SHAPER_REFILL (R211) -/
  | shaperRefill (q : Nat)
  /-- SHAPER_CONFIG_WRITE (R214): SHP_RATE or (`burst`) SHP_BURST of a stream -/
  | shaperConfigWrite (stream : Nat) (burst : Bool) (w q : Nat)
  /-- GATE_COMMIT (R218): a privileged write of SHP_CTRL -/
  | gateCommit (q : Nat)
  /-- GATE_LIST_SWITCH (R218) -/
  | gateListSwitch (q : Nat)
  /-- PARCEL_CLOSE_TIMEOUT (R206): of a parcel type -/
  | parcelCloseTimeout (ptype : Nat)
  /-- TELEMETRY_FRAME_RX (R267): the payload of a frame on an ingest lane -/
  | telemetryFrameRx (l : List Byte)
  /-- REASM_TIMEOUT (R269): of a stream context -/
  | reasmTimeout (stream : Nat)
  /-- PARCEL_CHECK (R270): the oldest complete parcel of a stream context -/
  | parcelCheck (stream : Nat)
  /-- CHANNEL_OPEN (R200): channel `chan` of a core, with the descriptor at an address -/
  | channelOpen (core chan desc : Nat) (priv : Bool)
  /-- FORWARD_BUFFER_GRANT (R202): the channel is 32 × core + channel -/
  | forwardBufferGrant (chan : Nat)
  /-- FORWARD_WAIT_TIMEOUT (R203) -/
  | forwardWaitTimeout (chan : Nat)
  /-- POSTE_RESTANTE_RESUME (R204): with a buffer -/
  | posteRestanteResume (chan addr len : Nat) (priv : Bool)
  /-- CHANNEL_CANCEL (R204) -/
  | channelCancel (chan : Nat) (priv : Bool)
  /-- PEAL_ARM_SEND (R271): for the peal of a T_p -/
  | pealArmSend (ctx tp : Nat)
  /-- TRAY_EPOCH_DEADLINE (R273) -/
  | trayEpochDeadline (ctx tp : Nat)
  /-- SUBTREE_EPOCH_DEADLINE (R273) -/
  | subtreeEpochDeadline (ctx tp : Nat)
  /-- TREE_CONTRIB_RX (R282): the payload of a frame on a tree lane -/
  | treeContribRx (l : List Byte)
  /-- CONTRIB_ACK_RX (R282) -/
  | contribAckRx (l : List Byte)
  /-- CONTRIB_RETRY (R282) -/
  | contribRetry (ctx tp : Nat)
  /-- TREE_HEARTBEAT_TX (R284) -/
  | treeHeartbeatTx (ctx : Nat)
  /-- TREE_HEARTBEAT_RX (R284) -/
  | treeHeartbeatRx (l : List Byte)
  /-- TREE_HEARTBEAT_LOST (R284) -/
  | treeHeartbeatLost (ctx peer : Nat)
  /-- REPARENT_EFFECT (R283) -/
  | reparentEffect (ctx : Nat)
  /-- BC_ARMED_CHECK (R289): the payload of a BROADCAST frame -/
  | bcArmedCheck (l : List Byte)
  /-- BC_PEAL_SCHEDULE (R271) -/
  | bcPealSchedule (l : List Byte)
  /-- BC_SEL_RATES (R355) -/
  | bcSelRates (l : List Byte)
  /-- BC_DETECTOR_PARAMS (R359) -/
  | bcDetectorParams (l : List Byte)
  /-- BC_TAINT (R319) -/
  | bcTaint (l : List Byte)
  /-- BC_REPARENT (R283) -/
  | bcReparent (l : List Byte)
  /-- BC_RESERVED (R289) -/
  | bcReserved (l : List Byte)
  /-- BC_RETRY (R290) -/
  | bcRetry (ctx bseq child : Nat)
  /-- BC_GAP_WAIT_EXPIRY (R290) -/
  | bcGapWaitExpiry (ctx : Nat)
  /-- BC_ACK_RX (R291) -/
  | bcAckRx (l : List Byte)
  /-- NAK_RX (R290) -/
  | nakRx (l : List Byte)
  /-- BC_DONE_WAIT_EXPIRY (R293) -/
  | bcDoneWaitExpiry (ctx bseq : Nat)
  /-- RETIRE_DRAIN_EXPIRY (R288) -/
  | retireDrainExpiry (ctx : Nat)
  /-- QUARANTINE_END (R287) -/
  | quarantineEnd (ctx : Nat)
  /-- MIRROR_LINK_UP (R23): with what the far end tells of itself -/
  | mirrorLinkUp (farId : Nat) (farDomains : List Nat) (farSession farAck : Nat)
  /-- MIRROR_LINK_DOWN (R24) -/
  | mirrorLinkDown
  /-- MIRROR_LEDGER_RX (R378) -/
  | mirrorLedgerRx (l : List Byte)
  /-- MIRROR_CONTEXT_RX (R378): `img` is the job context that a JOB image stands for (log 42) -/
  | mirrorContextRx (l : List Byte) (img : JobImage)
  /-- MIRROR_IMAGE_RX (R378) -/
  | mirrorImageRx (l : List Byte)
  /-- MIRROR_ACK_RX (R378) -/
  | mirrorAckRx (l : List Byte)
  /-- MIRROR_SPILLED_RX (R382) -/
  | mirrorSpilledRx (l : List Byte)
  /-- RESYNC_REQ_RX (R378) -/
  | resyncReqRx (l : List Byte)
  /-- RESYNC_BEGIN_RX (R380) -/
  | resyncBeginRx (l : List Byte)
  /-- RESYNC_END_RX (R380) -/
  | resyncEndRx (l : List Byte)
  /-- PARTNER_HEALTH_RX (R422) -/
  | partnerHealthRx (l : List Byte)
  /-- MIRROR_RESERVED_RX (R378) -/
  | mirrorReservedRx (l : List Byte)
  /-- MIRROR_RETRY (R378) -/
  | mirrorRetry (mseq : Nat)
  /-- PARTNER_HEALTH_TX (R422) -/
  | partnerHealthTx
  /-- PARTNER_LOST (R422) -/
  | partnerLost
  /-- STAGE_WAIT_EXPIRY (R307) -/
  | stageWaitExpiry (duid job gen seq : Nat)
  /-- TILE_DISPATCH (R308): to the XDE of a core -/
  | tileDispatch (core : Nat)
  /-- START_WAIT_EXPIRY (R308) -/
  | startWaitExpiry (duid job gen seq : Nat)
  /-- AUDIT_COMPLETE (R312): on a core; `errs`: wrong computations of the engine, none where it computes exactly -/
  | auditComplete (core : Nat) (errs : List (Nat × Int × Int))
  /-- ENGINE_FAULT (R309) -/
  | engineFault (core : Nat)
  /-- NUMERICS_DESCRIPTOR_WRITE (R324): word `w` of entry `e` -/
  | numericsDescriptorWrite (e w value : Nat)
  /-- DETECTOR_TRAY_RUN (R326): the next waiting run of a core -/
  | detectorTrayRun (core : Nat)
  /-- DETECTOR_EPOCH_RUN (R327) -/
  | detectorEpochRun (core : Nat)
  /-- RUN_BUDGET (R328): `elapsed` cycles of the run -/
  | runBudget (core cyc : Nat)
  /-- NOP (R334) -/
  | nop (c : Nat) (i : Insn)
  /-- HALT (R334) -/
  | halt (c : Nat) (i : Insn)
  /-- LI (R334) -/
  | li (c : Nat) (i : Insn)
  /-- ADD (R334) -/
  | add (c : Nat) (i : Insn)
  /-- SUB (R334) -/
  | sub (c : Nat) (i : Insn)
  /-- MUL (R334) -/
  | mul (c : Nat) (i : Insn)
  /-- MULHU (R334) -/
  | mulhu (c : Nat) (i : Insn)
  /-- AND (R334) -/
  | and (c : Nat) (i : Insn)
  /-- OR (R334) -/
  | or (c : Nat) (i : Insn)
  /-- XOR (R334) -/
  | xor (c : Nat) (i : Insn)
  /-- SHL (R334) -/
  | shl (c : Nat) (i : Insn)
  /-- SHR (R334) -/
  | shr (c : Nat) (i : Insn)
  /-- SRA (R334) -/
  | sra (c : Nat) (i : Insn)
  /-- ADDI (R334) -/
  | addi (c : Nat) (i : Insn)
  /-- CMPLT (R334) -/
  | cmplt (c : Nat) (i : Insn)
  /-- CMPLTU (R334) -/
  | cmpltu (c : Nat) (i : Insn)
  /-- CMPEQ (R334) -/
  | cmpeq (c : Nat) (i : Insn)
  /-- DIVU (R334) -/
  | divu (c : Nat) (i : Insn)
  /-- REMU (R334) -/
  | remu (c : Nat) (i : Insn)
  /-- LD (R334) -/
  | ld (c : Nat) (i : Insn)
  /-- ST (R334) -/
  | st (c : Nat) (i : Insn)
  /-- LDW (R334) -/
  | ldw (c : Nat) (i : Insn)
  /-- STW (R334) -/
  | stw (c : Nat) (i : Insn)
  /-- BR (R334) -/
  | br (c : Nat) (i : Insn)
  /-- BZ (R334) -/
  | bz (c : Nat) (i : Insn)
  /-- BNZ (R334) -/
  | bnz (c : Nat) (i : Insn)
  /-- CALL (R334) -/
  | call (c : Nat) (i : Insn)
  /-- RET (R334) -/
  | ret (c : Nat) (i : Insn)
  /-- LOOP (R334) -/
  | loop (c : Nat) (i : Insn)
  /-- ARRIVE (R239) -/
  | arrive (c : Nat) (i : Insn) (cyc : Nat)
  /-- BARRIER_RELEASE (R239) -/
  | barrierRelease (b cyc : Nat)
  /-- BARRIER_TIMEOUT (R240) -/
  | barrierTimeout (b cyc : Nat)
  /-- SIGNAL (R241) -/
  | signal (c : Nat) (i : Insn) (cyc : Nat)
  /-- WAIT (R242) -/
  | wait (c : Nat) (i : Insn) (cyc : Nat)
  /-- TRYWAIT (R241) -/
  | trywait (c : Nat) (i : Insn) (cyc : Nat)
  /-- SEMREAD (R241) -/
  | semread (c : Nat) (i : Insn)
  /-- SEM_WAITER_RELEASE (R242): of a served waiter, by its engine -/
  | semWaiterRelease (engine cyc : Nat)
  /-- SEM_WAIT_TIMEOUT (R242): of an engine that waits at a semaphore -/
  | semWaitTimeout (sem engine cyc : Nat)
  /-- MOVE (R334) -/
  | move (c : Nat) (i : Insn)
  /-- MOVE_DONE (R236): the oldest copy of the run on a core -/
  | moveDone (c : Nat)
  /-- MWAIT (R334) -/
  | mwait (c : Nat) (i : Insn)
  /-- EPOCH (R294) -/
  | epoch (c : Nat) (i : Insn)
  /-- EVENT (R349) -/
  | event (c : Nat) (i : Insn)
  /-- OUT (R334) -/
  | out (c : Nat) (i : Insn)
  /-- FENCE (R335) -/
  | fence (c : Nat) (i : Insn)
  /-- BCAST (R360) -/
  | bcast (c : Nat) (i : Insn)
  /-- TRAP (R334) -/
  | trap (c : Nat) (i : Insn)
  /-- VLD (R335) -/
  | vld (c : Nat) (i : Insn)
  /-- VST (R335) -/
  | vst (c : Nat) (i : Insn)
  /-- VLDS (R335) -/
  | vlds (c : Nat) (i : Insn)
  /-- VGATHER (R335) -/
  | vgather (c : Nat) (i : Insn)
  /-- VADD (R336) -/
  | vadd (c : Nat) (i : Insn)
  /-- VSUB (R336) -/
  | vsub (c : Nat) (i : Insn)
  /-- VMUL (R336) -/
  | vmul (c : Nat) (i : Insn)
  /-- VFMA (R336) -/
  | vfma (c : Nat) (i : Insn)
  /-- VDIV (R336) -/
  | vdiv (c : Nat) (i : Insn)
  /-- VSQRT (R336) -/
  | vsqrt (c : Nat) (i : Insn)
  /-- VMIN (R336) -/
  | vmin (c : Nat) (i : Insn)
  /-- VMAX (R336) -/
  | vmax (c : Nat) (i : Insn)
  /-- VABS (R336) -/
  | vabs (c : Nat) (i : Insn)
  /-- VCVT (R336) -/
  | vcvt (c : Nat) (i : Insn)
  /-- VCMPLT (R335) -/
  | vcmplt (c : Nat) (i : Insn)
  /-- VCMPEQ (R335) -/
  | vcmpeq (c : Nat) (i : Insn)
  /-- VSEL (R335) -/
  | vsel (c : Nat) (i : Insn)
  /-- VEXP2 (R336) -/
  | vexp2 (c : Nat) (i : Insn)
  /-- VLOG2 (R336) -/
  | vlog2 (c : Nat) (i : Insn)
  /-- VBCAST (R335) -/
  | vbcast (c : Nat) (i : Insn)
  /-- VRSUM (R336) -/
  | vrsum (c : Nat) (i : Insn)
  /-- VRMAX (R335) -/
  | vrmax (c : Nat) (i : Insn)
  /-- VBKT (R278) -/
  | vbkt (c : Nat) (i : Insn)
  /-- MZERO (R335) -/
  | mzero (c : Nat) (i : Insn)
  /-- MMA (R336) -/
  | mma (c : Nat) (i : Insn)
  /-- MST (R335) -/
  | mst (c : Nat) (i : Insn)
  /-- MACT (R336) -/
  | mact (c : Nat) (i : Insn)
  /-- HINS (R341) -/
  | hins (c : Nat) (i : Insn)
  /-- HMRG (R341) -/
  | hmrg (c : Nat) (i : Insn)
  /-- HQNT (R341) -/
  | hqnt (c : Nat) (i : Insn)
  /-- CMSADD (R342) -/
  | cmsadd (c : Nat) (i : Insn)
  /-- CMSQ (R342) -/
  | cmsq (c : Nat) (i : Insn)
  /-- XCLR (R337) -/
  | xclr (c : Nat) (i : Insn)
  /-- XDOT (R337) -/
  | xdot (c : Nat) (i : Insn)
  /-- XADDV (R337) -/
  | xaddv (c : Nat) (i : Insn)
  /-- XRD (R337) -/
  | xrd (c : Nat) (i : Insn)
  /-- SEL_RATES_SEND (R355): to a die unit of a job context -/
  | selRatesSend (ctx duid : Nat)
  /-- SYNC_OWNER_WRITE (R237): the configuration word of a barrier, or (`sem`) of a semaphore -/
  | syncOwnerWrite (sem : Bool) (n w cyc : Nat)
  /-- BARRIER_MASK_WRITE (R239) -/
  | barrierMaskWrite (b mask cyc : Nat)
  /-- BARRIER_RESET (R240) -/
  | barrierReset (b cyc : Nat)
  /-- SEM_VALUE_WRITE (R243) -/
  | semValueWrite (n value cyc : Nat)
  /-- SEM_RESET (R243): the owner is written as it stands -/
  | semReset (n cyc : Nat)
  /-- MEMORY_UNCORRECTABLE (R235)in the word at an address of SRAM or HBM -/
  | memoryUncorrectable (addr : Nat)
  /-- BRIDGE_FATAL (R232) -/
  | bridgeFatal
  /-- AGG_WATCHDOG (R410) -/
  | aggWatchdog
  /-- HBM_PATROL_SCRUB (R244) -/
  | hbmPatrolScrub (stack : Nat)
  /-- AGG_DOMAIN_SLEEP (R250): entry of domain `k`, whose condition has held for `idle` ns; `final`: its last step -/
  | aggDomainSleep (k idle : Nat) (final : Bool)
  /-- AGG_DOMAIN_WAKE (R252): a wake cause, or (`usable`) the end of the wake (R251) -/
  | aggDomainWake (k : Nat) (usable : Bool)
  /-- DEFERRED_WAKE_START (R253) -/
  | deferredWakeStart
  /-- AGG_WAKE_FAIL (R254) -/
  | aggWakeFail (k : Nat)
  /-- CORE_DRAIN (R255): a privileged write of PD_CTRL.DRAIN -/
  | coreDrain (core : Nat) (drain : Bool)
  /-- CORE_DRAINED (R255) -/
  | coreDrained (core : Nat)
  /-- CORE_MAP_OUT (R255): a privileged write of PD_CTRL.MAP_OUT -/
  | coreMapOut (core : Nat) (mapped : Bool)
  /-- THERMAL_SAMPLE (R505): the three dies and the eight stackTemps in 1/16 °C, and the core supply in mV -/
  | thermalSample (dies : Int × Int × Int) (stackTemps : List Int) (mv : Nat)
  /-- STEP_SEAL (R368) -/
  | stepSeal (ctx step : Nat)
  /-- FORCED_SEAL (R369) -/
  | forcedSeal (ctx step : Nat)
  /-- STEP_SPILL (R373)of a step of the ledger of a home aggregator -/
  | stepSpill (job gen home step : Nat)
  /-- SPILL_WRITE_DONE (R375) -/
  | spillWriteDone (job gen home step : Nat)
  /-- SPILL_RETRY (R375) -/
  | spillRetry (job gen home step : Nat)
  /-- LEDGER_FETCH_DONE (R385): an object comes for a command -/
  | ledgerFetchDone (serial : Nat) (name : ObjName) (object : List Byte)
  /-- FETCH_WAIT_EXPIRY (R385) -/
  | fetchWaitExpiry (serial : Nat)
  /-- MISMATCH_RESOLVE_TIMEOUT (R398): of a die unit -/
  | mismatchResolveTimeout (duid : Nat)
  /-- SCORE_DECAY (R401) -/
  | scoreDecay
  /-- COND_SUSPECT_EXPIRY (R403): of a unit and a cell -/
  | condSuspectExpiry (unit_ cell : Nat)
  /-- CHIP_RESET (R410): for a fatal cause -/
  | chipReset (code : Nat)
  /-- CHIP_RESET_BEGIN (R410) -/
  | chipResetBegin
  /-- AGG_POWER_ON (R474): POR_N deasserts; `slots`: see log 87 -/
  | aggPowerOn (slots : Option (Option FwSlot × Option FwSlot × Nat))
  /-- AGG_BOOT (R478): with what the flash and the memories answer -/
  | aggBoot (img : FlashImage)
  /-- BOOT_RESYNC_TIMEOUT (R478) -/
  | bootResyncTimeout
  /-- SCAN_START (R415) -/
  | scanStart
  /-- SCAN_COMPLETE (R416): `fails` patterns failed -/
  | scanComplete (core fails : Nat)
  /-- FANOUT_CALIBRATION (R249) -/
  | fanoutCalibration (ok : Bool)
  /-- BRIDGE_CALIBRATION (R417) -/
  | bridgeCalibration (ok : Bool)
  /-- SENSOR_TRIM_CALIBRATION (R417) -/
  | sensorTrimCalibration (ok : Bool)
  /-- SQ_DOORBELL (R432) -/
  | sqDoorbell (q tail : Nat)
  /-- CQ_DOORBELL (R432) -/
  | cqDoorbell (cq head : Nat)
  /-- COMMAND_FETCH (R433) -/
  | commandFetch
  /-- COMMAND_BUDGET_EXPIRY (R436) -/
  | commandBudgetExpiry (serial : Nat)
  /-- IDENTIFY (R435) -/
  | identify (serial : Nat) (ok : Bool)
  /-- GET_LOG_RECORDER (R489) -/
  | getLogRecorder (serial : Nat) (ok : Bool)
  /-- GET_LOG_NOTICES (R423) -/
  | getLogNotices (serial : Nat) (ok : Bool)
  /-- GET_LOG_SAMPLING (R362) -/
  | getLogSampling (serial : Nat) (ok : Bool)
  /-- GET_LOG_FW_SLOTS (R442) -/
  | getLogFwSlots (serial : Nat) (ok : Bool)
  /-- GET_LOG_POOLS (R450) -/
  | getLogPools (serial : Nat) (ok : Bool)
  /-- GET_LOG_QUEUES (R431) -/
  | getLogQueues (serial : Nat) (ok : Bool)
  /-- GET_FEATURE (R436) -/
  | getFeature (serial : Nat) (ok : Bool)
  /-- QUEUE_CREATE (R431) -/
  | queueCreate (serial : Nat) (ok : Bool)
  /-- QUEUE_DELETE (R431) -/
  | queueDelete (serial : Nat) (ok : Bool)
  /-- CANCEL (R419) -/
  | cancel (serial : Nat) (ok : Bool)
  /-- DET_IMAGE_LOAD (R346): ADDR 8 -/
  | detImageLoad (serial : Nat) (ok : Bool)
  /-- DET_IMAGE_FREE (R347): SLOT 1 -/
  | detImageFree (serial : Nat) (ok : Bool)
  /-- DET_BIND (R325): SLOT 1; BIND 1; reserved 6; CORES 8 -/
  | detBind (serial : Nat) (ok : Bool)
  /-- DET_UNBIND (R325): BIND 1 -/
  | detUnbind (serial : Nat) (ok : Bool)
  /-- BROADCAST_ISSUE (R289) -/
  | broadcastIssue (serial : Nat) (ok : Bool)
  /-- LEDGER_SPILL_NOW (R373) -/
  | ledgerSpillNow (serial : Nat) (ok : Bool)
  /-- LEDGER_IMPORT (R391) -/
  | ledgerImport (serial : Nat) (ok : Bool)
  /-- LEDGER_REFERENCE (R392) -/
  | ledgerReference (serial : Nat) (ok : Bool)
  /-- HEALTH_BUDGET (R405): GRANT 2; reserved 2; SPARES 4 -/
  | healthBudget (serial : Nat) (ok : Bool)
  /-- KNELL_CONFIRM (R407): FRU 2 -/
  | knellConfirm (serial : Nat) (ok : Bool)
  /-- KNELL_RELEASE (R407): FRU 2 -/
  | knellRelease (serial : Nat) (ok : Bool)
  /-- SWAP (R409) -/
  | swap (serial : Nat) (ok : Bool)
  /-- SCAN (R412) -/
  | scan (serial : Nat) (ok : Bool)
  /-- RESET_LOOP_CLEAR (R411) -/
  | resetLoopClear (serial : Nat) (ok : Bool)
  /-- FIRMWARE_DOWNLOAD (R442) -/
  | firmwareDownload (serial : Nat) (ok : Bool)
  /-- FW_COMMIT (R442) -/
  | fwCommit (serial : Nat) (ok : Bool)
  /-- FW_COMMIT_ACTIVATE (R442) -/
  | fwCommitActivate (serial : Nat) (ok : Bool)
  /-- FW_ACTIVATE (R442) -/
  | fwActivate (serial : Nat) (ok : Bool)
  /-- FW_ACTIVATION_PROCEED (R442) -/
  | fwActivationProceed
  /-- FW_READY (R442) -/
  | fwReady
  /-- FW_READY_TIMEOUT (R442) -/
  | fwReadyTimeout
  /-- FLUSH (R439) -/
  | flush (serial : Nat) (ok : Bool)
  /-- FLUSH_COMPLETE (R439) -/
  | flushComplete (serial : Nat)
  /-- RESET_INTERFACE (R440) -/
  | resetInterface (serial : Nat)
  /-- RESET_CHIP (R440) -/
  | resetChip (serial : Nat)
  /-- QUERY (R294) -/
  | query (serial : Nat) (ok : Bool)
  /-- READ_LEDGER_RECORDS (R384) -/
  | readLedgerRecords (serial : Nat) (ok : Bool)
  /-- READ_LEDGER_SUMMARY (R383) -/
  | readLedgerSummary (serial : Nat) (ok : Bool)
  /-- READ_LEDGER_EPOCHS (R383) -/
  | readLedgerEpochs (serial : Nat) (ok : Bool)
  /-- READ_LEDGER_VERDICTS (R383) -/
  | readLedgerVerdicts (serial : Nat) (ok : Bool)
  /-- READ_LEDGER_COMPARE (R387) -/
  | readLedgerCompare (serial : Nat) (ok : Bool)
  /-- READ_LEDGER_LAST_CLEAN (R386) -/
  | readLedgerLastClean (serial : Nat) (ok : Bool)
  /-- READ_LEDGER_MANIFEST (R390) -/
  | readLedgerManifest (serial : Nat) (ok : Bool)
  /-- READ_TRACE (R449) -/
  | readTrace (serial : Nat) (ok : Bool)
  /-- ARM_JOB (R437) -/
  | armJob (serial : Nat) (ok : Bool)
  /-- RETIRE_JOB (R288) -/
  | retireJob (serial : Nat) (ok : Bool)
  /-- CAPSULE_SUBMIT_RX (R430): a capsule from the controller with that address -/
  | capsuleSubmitRx (src : Nat) (l : List Byte)
  /-- CAPSULE_DATA_RX (R430) -/
  | capsuleDataRx (src : Nat) (l : List Byte)
  /-- CAPSULE_ACK_RX (R430) -/
  | capsuleAckRx (src : Nat) (l : List Byte)
  /-- CAPSULE_RESEND (R430) -/
  | capsuleResend (mseq : Nat)
  /-- MCTP_MESSAGE_RX (R428) -/
  | mctpMessageRx (m : MctpMsg)
  /-- PCIE_CONVENTIONAL_RESET (R474) -/
  | pcieConventionalReset
  /-- FLR (R474) -/
  | flr
  /-- DMA_START (R444) -/
  | dmaStart (n : Nat)
  /-- DMA_STOP (R446) -/
  | dmaStop (n : Nat)
  /-- DMA_DESCRIPTOR_DONE (R445) -/
  | dmaDescriptorDone (n : Nat)
  /-- DMA_FAULT (R446): the host refuses an access, of the descriptor (`fetch`) or after `moved` bytes of the data -/
  | dmaFault (n : Nat) (fetch : Bool) (moved : Nat)
  /-- PH_ALLOC (R447): of a pool, for the owner `next`, by the actor -/
  | phAlloc (pool next actor : Nat)
  /-- PH_GIVE (R447): a buffer to a new owner -/
  | phGive (pool buf next actor : Nat)
  /-- PH_FREE (R447) -/
  | phFree (pool buf actor : Nat)
  /-- REGISTER_WRITE (R466) -/
  | registerWrite (p : Part) (addr : Nat) (w : W64) (priv : Bool) (q cyc : Nat)
  /-- PKG_POS_WRITE (R470): a privileged write of DU_IDENT -/
  | pkgPosWrite (pos q : Nat)
  /-- W1C_STATUS_READ (R460): a read of a register; one with W1C-SEQ fields latches EVSEQ. A read of 4 bytes (`half`)
    is the aggregator's (R453) -/
  | w1cStatusRead (p : Part) (addr : Nat) (half priv : Bool) (q cyc : Nat)
  /-- CLEAR_KEY_WRITE (R461): PG_CLR_KEY of a page -/
  | clearKeyWrite (p : Part) (page : Nat) (key : W64) (priv : Bool) (q cyc : Nat)
  /-- CLEARING_WRITE (R461): of a register with W1C-SEQ fields -/
  | clearingWrite (p : Part) (addr : Nat) (ones : W64) (priv : Bool) (q cyc : Nat)
  /-- IND_ADDR_WRITE (R465): of a page -/
  | indAddrWrite (p : Part) (page : Nat) (w : W64) (priv : Bool) (q cyc : Nat)
  /-- IND_DATA_ACCESS (R463): a write or a read -/
  | indDataAccess (p : Part) (page : Nat) (write : Option W64) (priv : Bool) (q cyc : Nat)
  /-- HELD_WRITES_APPLY (R468): of a domain -/
  | heldWritesApply (k cyc : Nat)
  /-- RE_ADMISSION (R27): at a step, as the home aggregator (`home`) or as its partner; of every die unit, or of one
    (R421) -/
  | reAdmission (step : Nat) (home : Bool) (only : Option Nat)
  /-- BRIDGE_REPLAY (R232): on B01 (0), BI0 (1) or BI1 (2) -/
  | bridgeReplay (bridge : Nat)
  /-- MEMORY_CORRECTED (R235): in the SRAM of core `n`, or (`hbm`) in stack `n` -/
  | memoryCorrected (hbm : Bool) (n : Nat)
  /-- IND_FETCH_DONE (R465): for a page of the aggregator -/
  | indFetchDone (page : Nat)
  /-- REC_WINDOW_LOADED (R489) -/
  | recWindowLoaded (p : Part)
  /-- HBM_TRAINING_CALIBRATION (R417) -/
  | hbmTrainingCalibration (ok : Bool)
  /-- LANE_TRAINING_FAILURE (R500) -/
  | laneTrainingFailure (lane : Nat)
  deriving DecidableEq, Repr

end Sys2Proof
end

