-- ==== Sys2Proof/Decode.lean ====
section
/-!
DEFINITION. The block has no instruction words: no row of the opcode table gives bits, so that no word spells a command.
-/
namespace Sys2Proof

/-- The command that a word spells by the table's bits: none (log 2). -/
def decodeTableWord (_nbits _w : Nat) : Option Instr := none

end Sys2Proof
end

