-- ==== Sys2Proof/Machine/Crypto.lean ====
section
/-!
DEFINITION. SHA-256, SHA-512 and Ed25519 verification (FIPS 180-4, RFC 8032), as R344, R345 and R477 use them.
-/
namespace Sys2Proof.Machine

/-! ### The two hash functions -/

/-- The parameters in which SHA-256 and SHA-512 differ: word width, rounds, rotation amounts. -/
structure ShaKind where
  w : Nat
  rounds : Nat
  bigS0 : Nat × Nat × Nat
  bigS1 : Nat × Nat × Nat
  /-- two rotations and a shift -/
  smallS0 : Nat × Nat × Nat
  smallS1 : Nat × Nat × Nat
  deriving DecidableEq, Repr

abbrev sha256Kind : ShaKind := ⟨32, 64, (2, 13, 22), (6, 11, 25), (7, 18, 3), (17, 19, 10)⟩
abbrev sha512Kind : ShaKind := ⟨64, 80, (28, 34, 39), (14, 18, 41), (1, 8, 7), (19, 61, 6)⟩

/-- The first `n` primes, found among the numbers below `bound`. -/
def primesBelow (bound : Nat) : List Nat :=
  (List.range bound).filter fun p => decide (2 ≤ p) && (List.range p).all fun d => decide (d < 2) || decide (p % d ≠ 0)

/-- Integer cube root, by bits from the top. -/
def cbrt (n : Nat) : Nat → Nat → Nat
  | 0, acc => acc
  | k + 1, acc => let c := acc + 2 ^ k; if c * c * c ≤ n then cbrt n k c else cbrt n k acc

/-- The first w fractional bits of a cube root: the round constants of FIPS 180-4. -/
def shaK (k : ShaKind) : List Nat :=
  ((primesBelow 410).take k.rounds).map fun p => cbrt (p * 2 ^ (3 * k.w)) (k.w + 4) 0 % 2 ^ k.w

/-- The first w fractional bits of a square root: the initial hash value. -/
def shaInit (k : ShaKind) : List Nat :=
  ((primesBelow 20).take 8).map fun p => Nat.sqrt (p * 2 ^ (2 * k.w)) % 2 ^ k.w

def ShaKind.rotr (k : ShaKind) (x n : Nat) : Nat := x / 2 ^ n + (x % 2 ^ n) * 2 ^ (k.w - n)
def ShaKind.big (k : ShaKind) (r : Nat × Nat × Nat) (x : Nat) : Nat :=
  k.rotr x r.1 ^^^ k.rotr x r.2.1 ^^^ k.rotr x r.2.2
def ShaKind.small (k : ShaKind) (r : Nat × Nat × Nat) (x : Nat) : Nat :=
  k.rotr x r.1 ^^^ k.rotr x r.2.1 ^^^ (x / 2 ^ r.2.2)

/-- The message schedule, the newest word first. -/
def ShaKind.schedule (k : ShaKind) : Nat → List Nat → List Nat
  | 0, w => w
  | n + 1, w =>
    let x := (k.small k.smallS1 (w.getD 1 0) + w.getD 6 0 + k.small k.smallS0 (w.getD 14 0) + w.getD 15 0) % 2 ^ k.w
    k.schedule n (x :: w)

/-- One round on the eight working variables. -/
def ShaKind.round (k : ShaKind) (v : List Nat) (kw : Nat × Nat) : List Nat :=
  match v with
  | [a, b, c, d, e, f, g, h] =>
    let m := 2 ^ k.w
    let ch := (e &&& f) ^^^ ((m - 1 - e) &&& g)
    let maj := (a &&& b) ^^^ (a &&& c) ^^^ (b &&& c)
    let t1 := (h + k.big k.bigS1 e + ch + kw.1 + kw.2) % m
    let t2 := (k.big k.bigS0 a + maj) % m
    [(t1 + t2) % m, a, b, c, (d + t1) % m, e, f, g]
  | x => x

def ShaKind.block (k : ShaKind) (h : List Nat) (b : List Byte) : List Nat :=
  let n := k.w / 8
  let w := (List.range 16).map fun i => be b (n * i) n
  let ws := (k.schedule (k.rounds - 16) w.reverse).reverse
  let v := ((shaK k).zip ws).foldl k.round h
  (h.zip v).map fun x => (x.1 + x.2) % 2 ^ k.w

def ShaKind.blocks (k : ShaKind) : Nat → List Nat → List Byte → List Nat
  | 0, h, _ => h
  | n + 1, h, l => k.blocks n (k.block h (l.take (2 * k.w))) (l.drop (2 * k.w))

/-- The digest of a message. -/
def ShaKind.digest (k : ShaKind) (msg : List Byte) : List Byte :=
  let blk := 2 * k.w
  let lenBytes := k.w / 4
  let zeroN := (blk - (msg.length + 1 + lenBytes) % blk) % blk
  let padded := msg ++ [0x80] ++ zeros zeroN ++ beBytes lenBytes (8 * msg.length)
  (k.blocks (padded.length / blk) (shaInit k) padded).flatMap fun x => beBytes (k.w / 8) x

def sha256 (msg : List Byte) : List Byte := sha256Kind.digest msg
def sha512 (msg : List Byte) : List Byte := sha512Kind.digest msg

/-! ### Ed25519 (RFC 8032, 5.1) -/

abbrev edP : Nat := 2 ^ 255 - 19
abbrev edL : Nat := 2 ^ 252 + 27742317777372353535851937790883648493

/-- x^e modulo the field prime, `n` bits of the exponent. -/
def edPow : Nat → Nat → Nat → Nat
  | 0, _, _ => 1
  | n + 1, x, e =>
    let h := edPow n (x * x % edP) (e / 2)
    if e % 2 = 1 then h * x % edP else h

def edInv (x : Nat) : Nat := edPow 256 x (edP - 2)
def edSub (a b : Nat) : Nat := (a + edP - b % edP) % edP
def edD : Nat := edSub 0 (121665 * edInv 121666)
def edSqrtM1 : Nat := edPow 256 2 ((edP - 1) / 4)

/-- A point in extended homogeneous coordinates. -/
structure EdPoint where
  x : Nat
  y : Nat
  z : Nat
  t : Nat
  deriving DecidableEq, Repr

def EdPoint.zero : EdPoint := ⟨0, 1, 1, 0⟩

def EdPoint.add (p q : EdPoint) : EdPoint :=
  let a := edSub p.y p.x * edSub q.y q.x % edP
  let b := (p.y + p.x) * (q.y + q.x) % edP
  let c := p.t * (2 * edD) % edP * q.t % edP
  let d := p.z * (2 * q.z) % edP
  let e := edSub b a
  let f := edSub d c
  let g := (d + c) % edP
  let h := (b + a) % edP
  ⟨e * f % edP, g * h % edP, f * g % edP, e * h % edP⟩

def EdPoint.mul : Nat → EdPoint → Nat → EdPoint
  | 0, _, _ => EdPoint.zero
  | n + 1, p, k =>
    let h := EdPoint.mul n (p.add p) (k / 2)
    if k % 2 = 1 then h.add p else h

def EdPoint.same (p q : EdPoint) : Bool :=
  decide (p.x * q.z % edP = q.x * p.z % edP) && decide (p.y * q.z % edP = q.y * p.z % edP)

/-- Decodes a point, none where it is not on the curve. -/
def edDecode (b : List Byte) : Option EdPoint :=
  let v := leNat b
  let y := v % 2 ^ 255
  let sign := v / 2 ^ 255
  if b.length ≠ 32 ∨ edP ≤ y then none
  else
    let u := edSub (y * y) 1
    let w := (edD * (y * y % edP) + 1) % edP
    let x2 := u * edInv w % edP
    let c := edPow 256 x2 ((edP + 3) / 8)
    let x := if c * c % edP = x2 then some c
             else if c * edSqrtM1 % edP * (c * edSqrtM1 % edP) % edP = x2 then some (c * edSqrtM1 % edP) else none
    match x with
    | none => none
    | some x =>
      if x = 0 ∧ sign = 1 then none
      else
        let x1 := if x % 2 = sign then x else edP - x
        some ⟨x1, y, 1, x1 * y % edP⟩

/-- The base point: y = 4/5 with even x. -/
def edBase : EdPoint := (edDecode (leBytes 32 (4 * edInv 5 % edP))).getD EdPoint.zero

/-- A signature of a message under a public key holds. -/
def ed25519Verify (key msg sig : List Byte) : Bool :=
  match edDecode key, edDecode (sig.take 32) with
  | some a, some r =>
    let s := leNat (slice sig 32 32)
    let k := leNat (sha512 (sig.take 32 ++ key ++ msg)) % edL
    decide (sig.length = 64) && decide (s < edL)
      && ((edBase.mul 256 s).mul 4 8).same ((r.mul 4 8).add ((a.mul 256 k).mul 4 8))
  | _, _ => false

end Sys2Proof.Machine
end

