-- ==== Sys2Proof/Machine/StateAudit.lean ====
section
/-!
DEFINITION. The state of audit staging and of the tile dispatcher (R296 to R324).
-/
namespace Sys2Proof.Machine

/-- A declared-numerics descriptor as it was read when the tile was staged (Table 11-12). -/
structure Numerics where
  w0 : Nat
  w1 : Nat
  w2 : Nat
  w3 : Nat
  deriving DecidableEq, Repr

/-- The result of one audit: the exact S and T of every element, in units of 2^-320 modulo 2^640, and what the bound says. -/
structure AuditResult where
  sums : List (Int × Int)
  /-- elements outside their bound; an element was judged by class -/
  devN : Nat
  byClass : Bool
  worstRow : Nat
  worstCol : Nat
  usage : Nat
  deriving DecidableEq, Repr

/-- Table 11-7. -/
inductive TileState where
  | collecting
  | staged
  | audit1
  | want2
  | audit2
  | wantShadow
  | shadow
  | want3
  | audit3
  deriving DecidableEq, Repr

/-- A capture in staging, then a tile under audit (R307, R312). -/
structure Tile where
  duid : Nat
  job : Nat
  gen : Nat
  capSeq : Nat
  /-- when its first chunk or descriptor arrived, in ns of the free-running count -/
  since : Nat
  desc : Option (List Byte)
  /-- bytes of parts A, B and output by offset, and the length of each where its last chunk is in -/
  chunks : List (Nat × Nat × List Byte)
  lens : Store Nat
  tooLarge : Bool
  state : TileState
  /-- its first audit has begun (R309); the core whose audit of it was interrupted -/
  begun : Bool
  avoid : Option Nat
  numerics : Numerics
  failover : Bool
  /-- results so far with the cores that gave them, first audit first -/
  results : List (Nat × AuditResult)
  /-- core of the audit in progress -/
  core : Option Nat
  shadowRun : Bool
  third : Bool
  /-- the margins in force at dispatch: SLACK_REL, NEAR -/
  margin : Nat × Nat
  deriving DecidableEq, Repr

structure Audit where
  tiles : List Tile
  /-- the last first audit of each precedence class went to the partner's tray (R310) -/
  alternate : Store Nat
  deriving DecidableEq, Repr

def Audit.init : Audit := ⟨[], []⟩

end Sys2Proof.Machine
end

