-- ==== Sys2Proof/Machine/StateAgg.lean ====
section
/-!
DEFINITION. The IFA-40 tray aggregator: its registers and everything they do not hold.
-/
namespace Sys2Proof.Machine

/-- A frame that the aggregator has sent: to a MAC address over the ingest lanes, or to an aggregator over tree or mirror
lanes; with its own MAC address and the Ethertype of R181. -/
structure AggOut where
  lane : Nat
  dst : Nat
  src : Nat
  ethertype : Nat
  payload : List Byte
  deriving DecidableEq, Repr

structure Aggregator where
  regs : RegFile
  tc : TimeClient
  /-- number of the next free-value draw (the model's own) -/
  free : Nat
  cfg : FlashConfig
  /-- serial number and revision of the manufacturing record -/
  serial : List Byte
  /-- chip memory (Table 9-7) and host memory, byte by byte -/
  mem : Store Byte
  host : Store Byte
  sync : SyncNet
  pwr : PowerMgr
  bar : BarState
  recd : Recorder
  /-- sensor readings: hottest die, core supply -/
  temp : Int
  mv : Nat
  /-- the 16 tocsin MACs -/
  toc : Store TocMac
  ing : Ingest
  /-- job contexts that are not FREE: own c at c, mirrored ones of the partner at 1,024 + c -/
  jobs : Store JobCtx
  led : LedgerUnit
  aud : Audit
  det : Detectors
  hlt : AggHealth
  hif : HostIf
  /-- frames sent on ingest lanes (0), tree lanes (1) and mirror lanes (2), oldest first -/
  out : List AggOut
  /-- PTP messages sent, oldest first -/
  ptpOut : List PtpOut
  /-- when each port and domain last sent a Sync; and an Announce, with its clockClass (2 × port + domain) -/
  syncAt : Store Nat
  annAt : Store (Nat × Nat)
  /-- Fleet Time in ns of the last rising edge of the 25 MHz reference output (R35) -/
  refOut : Nat
  /-- the bank of the next flush is being erased (R488) -/
  erasing : Bool
  boot : Boot
  deriving DecidableEq, Repr

end Sys2Proof.Machine
end

