-- ==== Sys2Proof/Machine/AggBase.lean ====
section
/-!
DEFINITION. What every operation of the aggregator uses: its registers, time, recorder and tocsin MACs, its memories with
their access checks (R235, R236, R245 to R247), the frames it sends and the management events it queues (R430).
-/
namespace Sys2Proof.Machine

/-- An aggregator in reset: every register at its Reset column, nothing configured. -/
def Aggregator.blank : Aggregator :=
  { regs := RegFile.reset .agg, tc := TimeClient.init, free := 0, cfg := FlashConfig.empty, serial := [], mem := [],
    host := [], sync := SyncNet.init, pwr := PowerMgr.init, bar := BarState.init, recd := Recorder.init, temp := 0, mv := 0,
    toc := [], ing := Ingest.init, jobs := [], led := LedgerUnit.init, aud := Audit.init, det := Detectors.init,
    hlt := AggHealth.init, hif := HostIf.init, out := [], ptpOut := [], syncAt := [], annAt := [],
    refOut := 0, erasing := false, boot := .owed false }

/-! ### Registers and parts of the state -/

def Aggregator.get (a : Aggregator) (f : Fld) : Nat := a.regs.get f
def Aggregator.on (a : Aggregator) (f : Fld) : Bool := a.regs.on f
def Aggregator.set (a : Aggregator) (f : Fld) (v : Nat) : Aggregator := { a with regs := a.regs.set f v }
def Aggregator.inc (a : Aggregator) (f : Fld) (n : Nat := 1) : Aggregator := { a with regs := a.regs.inc f n }
def Aggregator.incWrap (a : Aggregator) (f : Fld) (n : Nat := 1) : Aggregator := { a with regs := a.regs.incWrap f n }
def Aggregator.raise (a : Aggregator) (f : Fld) : Aggregator := { a with regs := a.regs.raise f }
def Aggregator.raiseAll (a : Aggregator) (page : Nat) (fs : List Fld) : Aggregator :=
  { a with regs := a.regs.raiseAll page fs }
def Aggregator.setWord (a : Aggregator) (key : Nat) (w : W64) : Aggregator := { a with regs := a.regs.setWord key w }
def Aggregator.word (a : Aggregator) (key : Nat) : W64 := a.regs.word key

def Aggregator.modPwr (a : Aggregator) (f : PowerMgr → PowerMgr) : Aggregator := { a with pwr := f a.pwr }
def Aggregator.modSync (a : Aggregator) (f : SyncNet → SyncNet) : Aggregator := { a with sync := f a.sync }
def Aggregator.modBar (a : Aggregator) (f : BarState → BarState) : Aggregator := { a with bar := f a.bar }
def Aggregator.modIng (a : Aggregator) (f : Ingest → Ingest) : Aggregator := { a with ing := f a.ing }
def Aggregator.modLed (a : Aggregator) (f : LedgerUnit → LedgerUnit) : Aggregator := { a with led := f a.led }
def Aggregator.modMir (a : Aggregator) (f : Mirror → Mirror) : Aggregator :=
  a.modLed fun l => { l with mir := f l.mir }
def Aggregator.modAud (a : Aggregator) (f : Audit → Audit) : Aggregator := { a with aud := f a.aud }
def Aggregator.modDet (a : Aggregator) (f : Detectors → Detectors) : Aggregator := { a with det := f a.det }
def Aggregator.modHlt (a : Aggregator) (f : AggHealth → AggHealth) : Aggregator := { a with hlt := f a.hlt }
def Aggregator.modHif (a : Aggregator) (f : HostIf → HostIf) : Aggregator := { a with hif := f a.hif }
def Aggregator.modRec (a : Aggregator) (f : Recorder → Recorder) : Aggregator := { a with recd := f a.recd }

/-- The number of a free-value draw, and the aggregator with the next one. -/
def Aggregator.draw (a : Aggregator) : Nat × Aggregator := (a.free, { a with free := a.free + 1 })

/-- The aggregator's own ID (Table 16-6). -/
def Aggregator.id (a : Aggregator) : Nat := a.get CHIP_IDENT_AGG_ID

/-- No partner is configured (R22). -/
abbrev noPartner : Nat := 0xFFFF
def Aggregator.partner (a : Aggregator) : Nat := a.cfg.partner
def Aggregator.hasPartner (a : Aggregator) : Bool := decide (a.cfg.partner ≠ noPartner)

/-! ### Time -/

def Aggregator.view (a : Aggregator) : TimeView := ⟨a.regs, a.tc⟩
def Aggregator.withView (a : Aggregator) (v : TimeView) : Aggregator := { a with regs := v.regs, tc := v.tc }
def Aggregator.mono (a : Aggregator) : Nat := a.tc.mono
/-- Fleet Time in whole ns at the last reference edge. -/
def Aggregator.nowNs (a : Aggregator) : Nat := a.tc.now / nsU
def Aggregator.quality (a : Aggregator) : Nat := a.view.quality

/-- The postmark of the present moment, `q` quarter ns after the last reference edge. -/
def Aggregator.mark (a : Aggregator) (q : Nat := 0) : List Byte := postmark (a.view.at_ q)

/-! ### The event recorder (page 0x003) and the tocsin MACs (pages 0x020 to 0x02F) -/

def Aggregator.recCtx (a : Aggregator) : RecCtx :=
  ⟨a.view.at_ 0, a.quality, a.temp, a.mv, false, a.mono, a.id, 0x40⟩
def Aggregator.recView (a : Aggregator) : RecView := ⟨a.regs, 0x3, a.recd, a.recCtx⟩
def Aggregator.withRec (a : Aggregator) (v : RecView) : Aggregator := { a with regs := v.regs, recd := v.rc }

/-- An unlimited record, and a rate-limited one. -/
def Aggregator.record (a : Aggregator) (code : Nat) (data : List Byte) : Aggregator :=
  a.withRec (a.recView.record code data)
def Aggregator.recordLimited (a : Aggregator) (code key : Nat) (data : List Byte) : Aggregator :=
  a.withRec (a.recView.recordLimited code key data)

def Aggregator.tocView (a : Aggregator) (k : Nat) : TocView := ⟨a.regs, 0x20 + k, (tabGet a.toc k).getD TocMac.init⟩
def Aggregator.withToc (a : Aggregator) (k : Nat) (v : TocView) : Aggregator :=
  { a with regs := v.regs, toc := tabPut a.toc k v.mac }

/-- The recorder's TIME records of an event of the time unit (Table 17-9): each domain whose state changed, or the active
one where only status bits were set. -/
def Aggregator.timeRecords (old a : Aggregator) : Aggregator :=
  let stat (x : Aggregator) : Nat := x.get ((⟨addr_TC_STATUS, 7, 0⟩ : Fld).onPage 0x1)
  let bits_ := stat a &&& ((2 ^ 8 - 1) ^^^ stat old)
  let st (x : Aggregator) (m : Dom) : Nat := x.view.state m
  let rec_ (a : Aggregator) (m : Dom) : Aggregator :=
    a.recordLimited rcTime rcTime (leBytes 1 m.code ++ leBytes 1 (st old m) ++ leBytes 1 (st a m) ++ zeros 1
      ++ leBytes 1 bits_)
  let a1 := if st old .pri ≠ st a .pri then rec_ a .pri else a
  let a2 := if st old .red ≠ st a .red then rec_ a1 .red else a1
  if st old .pri = st a .pri ∧ st old .red = st a .red ∧ bits_ ≠ 0 then rec_ a2 a.view.active else a2

/-- An event of the time unit; a step of its time acts on nothing but its own registers (R62 names die units). -/
def Aggregator.timeOp (a : Aggregator) (f : TimeView → TimeView) : Aggregator :=
  let a1 := Aggregator.timeRecords a (a.withView (f a.view))
  { a1 with tc := { a1.tc with stepReq := none } }

/-- The same, for an event that draws a servo value (log 10). -/
def Aggregator.timeDraw (a : Aggregator) (f : TimeView → Nat → TimeView) : Aggregator :=
  let (n, a1) := a.draw
  a1.timeOp fun v => f v n

/-! ### Memory (Table 9-7, R235, R236, R245, R247) -/

/-- Requesters, by their bit in a region's masks (Table 9-17). -/
inductive Req where
  | ste
  | xde
  | cde
  | seq
  | ingest
  | hostDma
  | mirror
  | query
  deriving DecidableEq, Repr

def Req.bit : Req → Nat
  | .ste => 0
  | .xde => 1
  | .cde => 2
  | .seq => 3
  | .ingest => 4
  | .hostDma => 5
  | .mirror => 6
  | .query => 7

abbrev sramEnd : Nat := 0x10000000
abbrev hbmBase : Nat := 0x10000000000
abbrev hbmEnd : Nat := 0x10000000000 + 384000000000
abbrev sramOf (core : Nat) : Nat := core * 0x400000

/-- Every page of 4 KiB from one byte to another lies in an enabled region that admits the requester. -/
def Aggregator.regionsOk (a : Aggregator) (write : Bool) (r : Req) (addr len : Nat) : Bool :=
  let ok (p : Nat) : Bool := (List.range 16).any fun i =>
    a.on (HBM_RGN_ATTR_EN i) && decide (a.get (HBM_RGN_BASE_BASE i) ≤ p) && decide (p ≤ a.get (HBM_RGN_LIM_LIMIT i))
      && bit (a.get (if write then HBM_RGN_ATTR_WR i else HBM_RGN_ATTR_RD i)) r.bit
  let p0 := addr / 4096
  (List.range ((addr + len - 1) / 4096 + 1 - p0)).all fun k => ok ((p0 + k) * 4096)

/-- An access of `len` bytes may be made: in SRAM, or in HBM regions that admit the requester. -/
def Aggregator.memOk (a : Aggregator) (write : Bool) (r : Req) (addr len : Nat) : Bool :=
  if len = 0 then true
  else if addr + len ≤ sramEnd then true
  else decide (hbmBase ≤ addr ∧ addr + len ≤ hbmEnd) && a.regionsOk write r addr len

/-- Bytes of chip memory as they stand; what nothing has written reads zero. -/
def memBytes (m : Store Byte) (addr len : Nat) : List Byte := (List.range len).map fun i => storeGet 0 m (addr + i)

/-- The memory with bytes written. -/
def memPut (m : Store Byte) (addr : Nat) : List Byte → Store Byte
  | [] => m
  | b :: l => memPut (storeSet 0 m addr b) (addr + 1) l

/-- A refused access is counted where it lies in the HBM (R247). -/
def Aggregator.accessFault (a : Aggregator) (addr len : Nat) : Aggregator :=
  if addr < hbmEnd ∧ hbmBase < addr + len then a.inc HBM_ACCESS_FAULT_N_COUNT else a

/-- The first enabled region of a kind (Table 9-17). -/
def Aggregator.regionOf (a : Aggregator) (kind : Nat) : Option Nat :=
  firstBelow 16 fun i => a.on (HBM_RGN_ATTR_EN i) && decide (a.get (HBM_RGN_ATTR_KIND i) = kind)

/-- Bytes of all regions of a kind. -/
def Aggregator.regionSize (a : Aggregator) (kind : Nat) : Nat :=
  (List.range 16).foldl (fun n i =>
    if a.on (HBM_RGN_ATTR_EN i) ∧ a.get (HBM_RGN_ATTR_KIND i) = kind then
      n + (a.get (HBM_RGN_LIM_LIMIT i) + 1 - a.get (HBM_RGN_BASE_BASE i)) else n) 0

/-- The stack of an HBM address, and its page in the stack (R246). -/
def stackOf (addr : Nat) : Nat :=
  let p := (addr - hbmBase) / 4096
  (p % 8) ^^^ (p / 8 % 8) ^^^ (p / 64 % 8)
def stackPage (addr : Nat) : Nat := (addr - hbmBase) / 4096 / 8

/-- The power domain of the controller group that serves a stack (R244, Table 9-10). -/
def hbmGroup (stack : Nat) : Nat := 65 + 4 * (stack / 4) + stack / 2 % 2

/-- The controller groups that an access reaches; 15 pages hold an aligned run of 8, which lies in every stack (R246). -/
def groupsOf (addr len : Nat) : List Nat :=
  let lo := max addr hbmBase
  if len = 0 ∨ addr + len ≤ hbmBase ∨ hbmEnd ≤ addr then []
  else [65, 66, 69, 70].filter fun g =>
    (List.range (min 16 ((addr + len - 1) / 4096 + 1 - lo / 4096))).any fun k => decide (hbmGroup (stackOf (lo + 4096 * k)) = g)

/-- The word that SECDED protects at an address: 8 bytes of SRAM, a burst half of 32 bytes of HBM (R235, R244). -/
def eccWord (addr : Nat) : Nat × Nat := if addr < hbmBase then (addr / 8 * 8, 8) else (addr / 32 * 32, 32)

/-- An access meets a word whose error could not be corrected. -/
def Aggregator.poisoned (a : Aggregator) (addr len : Nat) : Bool :=
  a.pwr.poison.any fun w => decide (addr < w.1 + w.2 ∧ w.1 < addr + len)

/-! ### Frames and events -/

abbrev laneIngest : Nat := 0
abbrev laneTree : Nat := 1
abbrev laneMirror : Nat := 2

/-- A frame leaves: on an ingest lane to a MAC address, on a tree or mirror lane to an aggregator. -/
def Aggregator.sendFrame (a : Aggregator) (lane dst : Nat) (payload : List Byte) : Aggregator :=
  { a with out := a.out ++ [⟨lane, dst, a.cfg.mac, ifenovEthertype, padFrame payload⟩] }

/-- EVENT capsules that are not acknowledged, and events that are not sent yet: the queue of R430. -/
def HostIf.eventsHeld (h : HostIf) : Nat := h.events.length + (h.capsOut.filter fun c => c.kind = 5).length

/-- A management event joins the queue of 4,096, or is counted and lost (R430). -/
def Aggregator.event (a : Aggregator) (e : MgmtEvent) : Aggregator :=
  if a.hif.eventsHeld < 4096 then a.modHif fun h => { h with events := h.events ++ [e] }
  else (a.inc HI_CNT_EVENT_LOST_N).raise HI_STATUS_EVENT_LOST

/-- A report of the manual that has no layout of its own. -/
def Aggregator.report (a : Aggregator) (name : String) (args : List Nat) : Aggregator := a.event (.report name args)

/-! ### Fields of a host command (Table 15-5) -/

def Command.field (c : Command) (off n : Nat) : Nat := le c.entry off n
def Command.op (c : Command) : Nat := c.field 0 1
def Command.flags (c : Command) : Nat := c.field 1 1
def Command.cid (c : Command) : Nat := c.field 2 2
def Command.gtag (c : Command) : Nat := c.field 4 2
def Command.budget (c : Command) : Nat := c.field 6 2
def Command.job (c : Command) : Nat := c.field 8 4
def Command.gen (c : Command) : Nat := c.field 12 1
def Command.subop (c : Command) : Nat := c.field 13 1
def Command.dptr (c : Command) : Nat := c.field 16 8
def Command.dlen (c : Command) : Nat := c.field 24 4
def Command.args (c : Command) : List Byte := slice c.entry 32 32

/-! ### Job contexts -/

def Aggregator.job (a : Aggregator) (c : Nat) : Option JobCtx := tabGet a.jobs c
def Aggregator.modJob (a : Aggregator) (c : Nat) (f : JobCtx → JobCtx) : Aggregator := { a with jobs := tabMod a.jobs c f }

/-- The context, own or mirrored, that holds a job and generation. -/
def Aggregator.findJob (a : Aggregator) (job gen : Nat) : Option (Nat × JobCtx) :=
  a.jobs.find? fun e => decide (e.2.job = job ∧ e.2.gen = gen)

/-- The aggregator whose job a context is, and the one whose die unit a die unit is: this one or its partner. -/
def Aggregator.homeOfCtx (a : Aggregator) (ctx : Nat) : Nat := if ctx < 1024 then a.id else a.partner
def Aggregator.homeOfDie (a : Aggregator) (duid : Nat) : Nat := if duid / 256 = a.partner ∧ a.partner ≠ a.id then a.partner else a.id

/-- The context of a job and generation at a home aggregator: a job of both trays has an own and a mirrored context. -/
def Aggregator.jobAt (a : Aggregator) (job gen home : Nat) : Option (Nat × JobCtx) :=
  a.jobs.find? fun e => decide (e.2.job = job ∧ e.2.gen = gen ∧ a.homeOfCtx e.1 = home)

/-- The context that holds a job and generation for a die unit. -/
def Aggregator.jobOf (a : Aggregator) (job gen duid : Nat) : Option (Nat × JobCtx) := a.jobAt job gen (a.homeOfDie duid)

/-- Every context that holds a job and generation. -/
def Aggregator.jobCtxs (a : Aggregator) (job gen : Nat) : List (Nat × JobCtx) :=
  a.jobs.filter fun e => decide (e.2.job = job ∧ e.2.gen = gen)

/-- The own context that holds a job and generation. -/
def Aggregator.ownJob (a : Aggregator) (job gen : Nat) : Option (Nat × JobCtx) :=
  a.jobs.find? fun e => decide (e.1 < 1024 ∧ e.2.job = job ∧ e.2.gen = gen)

/-- Contexts taken: own ones only (R247, Table 10-13). -/
def Aggregator.freeCtx (a : Aggregator) : Option Nat := firstBelow 1024 fun c => (tabGet a.jobs c).isNone

end Sys2Proof.Machine
end

