-- ==== Sys2Proof/Machine/AggPower.lean ====
section
/-!
DEFINITION. The power manager: domains, their sleep and wake, the budget, draining and mapping out (R248 to R255,
Table 9-10), the accesses that keep the HBM awake (R244, R252), and the fan-out of peals (R249).
-/
namespace Sys2Proof.Machine

/-! ### Domains (Table 9-10) -/

abbrev adOff : Nat := 0
abbrev adWaking : Nat := 1
abbrev adOn : Nat := 2
abbrev adRetain : Nat := 3
abbrev adEntering : Nat := 4
abbrev adDrained : Nat := 5
abbrev adMapped : Nat := 6
abbrev adDeferred : Nat := 7

/-- The kinds of domain. -/
inductive DomKind where
  | core
  | fabric
  | hbm
  | audit
  | ao
  | serdesA
  | serdesB
  | pcie
  | mgmt
  | time
  | ingest
  | recorder
  | none
  deriving DecidableEq, Repr

def domKind (k : Nat) : DomKind :=
  if k < 64 then .core
  else if k < 72 then (match k % 4 with | 0 => .fabric | 1 => .hbm | 2 => .hbm | _ => .audit)
  else match k with
    | 72 => .ao
    | 73 => .serdesA
    | 74 => .serdesB
    | 75 => .pcie
    | 76 => .mgmt
    | 77 => .time
    | 78 => .ingest
    | 79 => .recorder
    | _ => .none

/-- Budget in W of a domain that is on. -/
def domBudget (k : Nat) : Nat :=
  match domKind k with
  | .core => 18
  | .fabric => 60
  | .hbm => 70
  | .audit => 40
  | .ao => 15
  | .serdesA => 56
  | .serdesB => 56
  | .pcie => 30
  | .mgmt => 8
  | .time => 4
  | .ingest => 45
  | .recorder => 2
  | .none => 0

/-- Hold time in ns; none for a domain that never sleeps. -/
def domHold (k : Nat) : Option Nat :=
  match domKind k with
  | .core => some 200000
  | .hbm => some 20000
  | .audit => some 1000000
  | .serdesA => some 10000000
  | .serdesB => some 10000000
  | .pcie => some 0
  | .ingest => some 10000000
  | _ => none

/-- Greatest time of a wake in ns, from OFF or from the low state. -/
def domWake (k : Nat) (fromOff : Bool) : Nat :=
  match domKind k with
  | .core => if fromOff then 30000 else 4000
  | .hbm => 1000
  | .audit => 20000
  | .serdesA => 2000000
  | .serdesB => 2000000
  | .ingest => 50000
  | _ => 0

/-- The FABRIC domain that a domain's wake needs (Table 9-10, R234); a parent AO is always on. -/
def Aggregator.domParent (a : Aggregator) (k : Nat) : Option Nat :=
  match domKind k with
  | .core => some (64 + 4 * b2n (bit a.cfg.coreDie k))
  | .hbm => some (k / 4 * 4)
  | .audit => some (k / 4 * 4)
  | _ => none

def Aggregator.adState (a : Aggregator) (k : Nat) : Nat := a.get (PD_STAT_STATE k)
def Aggregator.coreOn (a : Aggregator) (c : Nat) : Bool := decide (a.adState c = adOn)
def Aggregator.corePresent (a : Aggregator) (c : Nat) : Bool := bit (a.get CHIP_CORE_PRESENT_PRESENT) c

/-- Sum of the budgets of the domains that are waking or powered (R253), and of 30 W for each scan that runs (R415). -/
def Aggregator.powerSum (a : Aggregator) : Nat :=
  (List.range 80).foldl (fun n k =>
    let s := a.adState k
    if s = adWaking ∨ s = adOn ∨ s = adEntering ∨ s = adDrained then n + domBudget k else n)
    (30 * (a.hlt.scans.filter (·.running)).length)

def Aggregator.showPower (a : Aggregator) : Aggregator := a.set PWR_EST_EST_W a.powerSum

/-- A domain's state changes, and PWR_EST with it. -/
def Aggregator.setAd (a : Aggregator) (k st : Nat) : Aggregator := (a.set (PD_STAT_STATE k) st).showPower

/-! ### Wake (R250 to R253) -/

/-- Bytes of an address range lose their values. -/
def memClear (m : Store Byte) (addr len : Nat) : Store Byte := m.filter fun e => e.1 < addr || addr + len ≤ e.1

/-- The wake of a domain begins. -/
def Aggregator.beginWake (a : Aggregator) (k : Nat) (off : Bool) : Aggregator :=
  let a1 := a.modPwr fun p =>
    { p with wakeAt := tabPut p.wakeAt k a.mono, deferred := p.deferred.filter (· ≠ k), held := p.held.filter (· ≠ k),
             fromOff := if off then (if p.fromOff.contains k then p.fromOff else p.fromOff ++ [k]) else p.fromOff }
  (a1.inc (PD_STAT_WAKE_N k)).setAd k adWaking

/-- A wake cause of a domain, whose parent is on: the wake begins, or is deferred where it would exceed the cap (R253); none
once load has been shed (R488). -/
def Aggregator.wakeOne (a : Aggregator) (k : Nat) : Aggregator :=
  let st := a.adState k
  if (st ≠ adOff ∧ st ≠ adRetain) ∨ a.pwr.shed then a
  else if a.powerSum + domBudget k ≤ a.get PWR_CAP_CAP_W then a.beginWake k (decide (st = adOff))
  else
    let a1 := a.modPwr fun p =>
      { p with deferred := p.deferred ++ [k], fromOff := if st = adOff then p.fromOff ++ [k] else p.fromOff }
    ((a1.inc PWR_STATUS_DEFERRED_N).raise PWR_STATUS_WAKE_DEFERRED).setAd k adDeferred

/-- A wake cause (R250, R252): an entry in progress is aborted, a domain in its low state wakes after its parent; one that is
on, waking, deferred or mapped out needs nothing. -/
def Aggregator.wakeDomain (a : Aggregator) (k : Nat) : Aggregator :=
  if a.adState k = adEntering then a.setAd k adOn
  else match a.domParent k with
    | some p =>
      if a.adState p = adOn ∨ (a.adState k ≠ adOff ∧ a.adState k ≠ adRetain) then a.wakeOne k
      else
        (a.wakeOne p).modPwr fun w => if w.held.contains k then w else { w with held := w.held ++ [k] }
    | none => a.wakeOne k

/-- A domain is usable (R251): a core that comes from OFF has its SRAM zeroed, and takes the peal it missed with the gap
flag (R249); wakes that waited for it begin. -/
def Aggregator.domainUsable (a : Aggregator) (k : Nat) : Aggregator :=
  if a.adState k ≠ adWaking then a
  else
    let off := a.pwr.fromOff.contains k
    let a1 := (a.setAd k adOn).modPwr fun p =>
      { p with wakeAt := tabDel p.wakeAt k, fromOff := p.fromOff.filter (· ≠ k),
               fails := if k < 64 then tabDel p.fails k else p.fails }
    let fresh : Core := { Core.init with waiting := ((tabGet a1.det.cores k).getD Core.init).waiting }
    let a2 := if k < 64 ∧ off then
        ({ a1 with mem := memClear a1.mem (sramOf k) 0x400000 }).modDet fun d =>
          { d with cores := tabPut d.cores k fresh }
      else a1
    let a3 := match tabGet a2.pwr.pealOwed k with
      | some ids => a2.modPwr fun p =>
        { p with pealSeen := tabPut p.pealSeen k (ids.map fun id => (id, true)), pealOwed := tabDel p.pealOwed k }
      | none => a2
    (a3.pwr.held.filter fun c => decide (a3.domParent c = some k)).foldl (fun (a : Aggregator) c =>
      (a.modPwr fun p => { p with held := p.held.filter (· ≠ c) }).wakeOne c) a3

/-- Work for audit staging wakes AUDIT of both dies: the spec does not say on which die a tile stands (log 138). -/
def Aggregator.wakeAudit (a : Aggregator) : Aggregator := (a.wakeDomain 67).wakeDomain 71

/-! ### Accesses to memory (R235, R236, R244, R247, R252) -/

/-- The HBM controller groups that an access reaches are in use: it aborts their entry, or wakes them. The access itself takes
effect at once: the wait in the controller's queue is time (log 138). -/
def Aggregator.hbmTouch (a : Aggregator) (addr len : Nat) : Aggregator :=
  (groupsOf addr len).foldl (fun (a : Aggregator) g =>
    (a.modPwr fun p => { p with lastHbm := tabPut p.lastHbm g a.mono }).wakeDomain g) a

/-- Bytes are written, by a requester that may. -/
def Aggregator.poke (a : Aggregator) (addr : Nat) (l : List Byte) : Aggregator :=
  ({ a with mem := memPut a.mem addr l }).hbmTouch addr l.length

/-- A read: its bytes, or none and a fault (R236, R247); poisoned data are not taken (R235). -/
def Aggregator.memRead (a : Aggregator) (r : Req) (addr len : Nat) : Option (List Byte) × Aggregator :=
  if a.memOk false r addr len then
    (if a.poisoned addr len then none else some (memBytes a.mem addr len), a.hbmTouch addr len)
  else (none, a.accessFault addr len)

/-- A write; false where it faults and writes nothing. -/
def Aggregator.memWrite (a : Aggregator) (r : Req) (addr : Nat) (l : List Byte) : Bool × Aggregator :=
  if a.memOk true r addr l.length then (true, a.poke addr l) else (false, a.accessFault addr l.length)

/-- A refused access of a run is counted where the HBM regions refuse it (R247). -/
def Aggregator.deny (a : Aggregator) (write : Bool) (r : Req) (addr len : Nat) : Aggregator :=
  if a.memOk write r addr len then a else a.accessFault addr len

/-- The class of a deferred wake: FABRIC and HBM, AUDIT, INGEST, cores (R253); the other domains come last. -/
def deferClass (k : Nat) : Nat :=
  match domKind k with
  | .fabric => 0
  | .hbm => 0
  | .audit => 1
  | .ingest => 2
  | .core => 3
  | _ => 4

/-- The deferred wake that proceeds next. -/
def nextDeferred (l : List Nat) : Option Nat :=
  (List.range 5).findSome? fun c => l.find? fun k => decide (deferClass k = c)

/-- DEFERRED_WAKE_START: the next deferred wake begins once it fits (R253). -/
def Aggregator.deferredStart (a : Aggregator) : Aggregator :=
  match nextDeferred a.pwr.deferred with
  | some k =>
    if a.powerSum + domBudget k ≤ a.get PWR_CAP_CAP_W then a.beginWake k (a.pwr.fromOff.contains k) else a
  | none => a

/-! ### Sleep (R250 to R252) -/

/-- A core has nothing to do (Table 9-10, R255). -/
def Aggregator.coreIdle (a : Aggregator) (c : Nat) : Bool :=
  let k := (tabGet a.det.cores c).getD Core.init
  k.run.isNone && k.waiting.isEmpty && decide (k.blocked = .no) && !(a.aud.tiles.any fun t => decide (t.core = some c))
    && !(a.ing.channels.any fun e => decide (e.1 / 32 = c))

/-- Some stream context is enabled. -/
def Aggregator.anyStream (a : Aggregator) : Bool :=
  a.regs.words.any fun e =>
    decide (addr_STC_CFG 0 ≤ e.1 ∧ e.1 < addr_STC_CFG 16384 ∧ (e.1 - addr_STC_CFG 0) % 2 = 0) && bit e.2.toNat 63

/-- A stack's patrol scrub is due (R244). -/
def Aggregator.scrubDue (a : Aggregator) (stack : Nat) : Bool :=
  decide (storeGet 0 a.pwr.scrub stack + 86400000000000 ≤ a.mono)

/-- A carillon port of a tree lane, 0 to 7, has a role (R471). -/
def Aggregator.carillonOnTree (a : Aggregator) : Bool :=
  (List.range 16).any fun i => decide (bits (a.get ⟨addr_PS_CFG i, 63, 0⟩) 63 62 = 1 ∨ bits (a.get ⟨addr_PS_CFG i, 63, 0⟩) 63 62 = 2)

/-- What the state says of a domain's sleep condition (Table 9-10): a lane is configured where the tray map, a tree that is
held or the mirror uses it (log 138); the PCIe link is the commander's. A core that drains stays on (R255). -/
def Aggregator.domQuiet (a : Aggregator) (k : Nat) : Bool :=
  match domKind k with
  | .core => a.coreIdle k && !a.on (PD_CTRL_FORCE_ON k) && !a.on (PD_CTRL_DRAIN k)
  | .audit => a.aud.tiles.isEmpty && !(a.jobs.any fun e => e.2.rates.isSome)
  | .ingest => !a.anyStream
  | .hbm => decide ((tabGet a.pwr.lastHbm k).getD 0 + 20000 ≤ a.mono)
      && !((List.range 8).any fun s => decide (hbmGroup s = k) && a.scrubDue s)
  | .serdesA => a.cfg.tray.isEmpty
  | .serdesB => !(a.jobs.any fun e => e.2.treeHeld) && !(a.hasPartner && a.on MIR_CTRL_EN) && !a.carillonOnTree
  | .pcie => true
  | _ => false

/-- AGG_DOMAIN_SLEEP: entry begins once the condition has held for the hold time; the final step ends it in OFF or RETAIN
(R250 to R252). `idle`: how long the condition has held, in ns. -/
def Aggregator.domainSleep (a : Aggregator) (k idle : Nat) (final : Bool) : Aggregator :=
  match domHold k with
  | none => a
  | some hold =>
    if final then
      if a.adState k = adEntering then
        let off := decide (k < 64 ∧ a.on (PD_CTRL_LOW_OFF k)) || decide (domKind k ≠ .core ∧ domKind k ≠ .hbm)
        a.setAd k (if off then adOff else adRetain)
      else a
    else if a.adState k = adOn ∧ hold ≤ idle ∧ a.domQuiet k ∧ ¬ a.on (PD_CTRL_FORCE_ON k) then a.setAd k adEntering
    else a

/-! ### Draining and mapping out (R255) -/

/-- A core takes new work. -/
def Aggregator.dispatchable (a : Aggregator) (c : Nat) : Bool :=
  decide (c < 64) && a.corePresent c && !a.on (PD_CTRL_DRAIN c) && decide (a.adState c ≠ adDrained)
    && decide (a.adState c ≠ adMapped)

/-- MAP_OUT acts on a drained core: it is absent and off. -/
def Aggregator.mapOut (a : Aggregator) (c : Nat) : Aggregator :=
  if c < 64 ∧ a.adState c = adDrained ∧ a.on (PD_CTRL_MAP_OUT c) then
    (a.setAd c adMapped).set CHIP_CORE_PRESENT_PRESENT (setBits (a.get CHIP_CORE_PRESENT_PRESENT) c c 0)
  else a

/-- A draining core whose work is complete is DRAINED, and stays on (R255). -/
def Aggregator.coreDrained (a : Aggregator) (c : Nat) : Aggregator :=
  if c < 64 ∧ a.on (PD_CTRL_DRAIN c) ∧ a.adState c = adOn ∧ a.coreIdle c then (a.setAd c adDrained).mapOut c else a

/-- The merged word of a write of PD_CTRL: a drain begins or ends, a map-out is asked for or cleared (R255). -/
def Aggregator.writePdCtrl (a : Aggregator) (k m : Nat) : Aggregator :=
  let a1 := a.setWord (addr_PD_CTRL k) (BitVec.ofNat 64 m)
  if 64 ≤ k then a1.setWord (addr_PD_CTRL k) (BitVec.ofNat 64 (setBits (setBits m 3 2 0) 0 0 0))
  else if a1.adState k = adMapped then
    if bit m 2 then a1
    else (a1.setAd k adOff).set CHIP_CORE_PRESENT_PRESENT (setBits (a1.get CHIP_CORE_PRESENT_PRESENT) k k 1)
  else if bit m 3 then
    -- a core in its low state has no work: it wakes to drain; an entry in progress is aborted
    (if a1.adState k = adRetain ∨ a1.adState k = adOff ∨ a1.adState k = adEntering then a1.wakeDomain k else a1).mapOut k
  else if a1.adState k = adDrained then a1.setAd k adOn
  else a1

/-! ### Peals (R249) -/

/-- The peal trigger reaches every core domain, and INGEST, that is on at once, and the others on their wake, with the gap
flag. -/
def Aggregator.fanOut (a : Aggregator) (pealId : Nat) : Aggregator :=
  (List.range 64 ++ [78]).foldl (fun (a : Aggregator) c =>
    if c < 64 ∧ ¬ a.corePresent c then a
    else if a.adState c = adOn ∨ a.adState c = adDrained ∨ a.adState c = adEntering then
      a.modPwr fun p => { p with pealSeen := tabPut p.pealSeen c [(pealId, false)] }
    else a.modPwr fun p => { p with pealOwed := tabPut p.pealOwed c ((tabGet p.pealOwed c).getD [] ++ [pealId]) }) a

end Sys2Proof.Machine
end

