-- ==== Sys2Proof/Machine/Pools.lean ====
section
/-!
DEFINITION. Pigeonholes: pools of buffers with owners, warning levels and pool operations (R447, R448, R450, R451).
-/
namespace Sys2Proof.Machine

/-! ### Owners (Table 15-13) and outcomes (Table 15-16) -/

abbrev ownerIngest : Nat := 0x0001
abbrev ownerLedger : Nat := 0x0002
abbrev ownerChannel (e k : Nat) : Nat := 0x0100 + 32 * e + k
abbrev ownerQueue (q : Nat) : Nat := 0x1000 + q

abbrev phOk : Nat := 0
abbrev phPtr : Nat := 1
abbrev phOwner : Nat := 2
abbrev phEmpty : Nat := 3
abbrev phBadPool : Nat := 4

def Aggregator.pool (a : Aggregator) (p : Nat) : Pool := (tabGet a.ing.pools p).getD Pool.init
def Aggregator.poolOn (a : Aggregator) (p : Nat) : Bool := decide (p < 4096) && a.on (PH_CFG_EN p)
def Aggregator.poolUse (a : Aggregator) (p : Nat) : Nat := (a.pool p).owners.length
def Aggregator.bufBytes (a : Aggregator) (p : Nat) : Nat := 2 ^ a.get (PH_CFG_SHIFT p)

/-- Level 1 holds (R450); a full pool is at each level that its size reaches. -/
def Aggregator.atLevel1 (a : Aggregator) (p : Nat) : Bool :=
  let l := a.get (PH_STAT_LEVEL p)
  decide (l = 1 ∨ l = 2) || (decide (l = 3) && decide (a.get (PH_THR_WARN1 p) ≤ a.get (PH_CFG_COUNT p)))

/-- Level 2 holds. -/
def Aggregator.atLevel2 (a : Aggregator) (p : Nat) : Bool :=
  let l := a.get (PH_STAT_LEVEL p)
  decide (l = 2) || (decide (l = 3) && decide (a.get (PH_THR_WARN2 p) ≤ a.get (PH_CFG_COUNT p)))

/-- A level holds from its threshold until the occupancy falls below the threshold less HYST. -/
def holdsLevel (was : Bool) (use warn hyst : Nat) : Bool := decide (warn ≤ use) || (was && decide (warn - hyst ≤ use))

/-- A level is entered: its status bit, and an interrupt where enabled. -/
def Aggregator.enterLevel (a : Aggregator) (f : Fld) : Aggregator :=
  let a1 := a.raise f
  if a1.on PH_CTRL_IRQ_EN then a1.modHif fun h => { h with msix := h.msix ++ [0] } else a1

/-- IN_USE and LEVEL follow the owners. -/
def Aggregator.poolShow (a : Aggregator) (p : Nat) : Aggregator :=
  let use := a.poolUse p
  let hyst := a.get (PH_THR_HYST p)
  let l1 := holdsLevel (a.atLevel1 p) use (a.get (PH_THR_WARN1 p)) hyst
  let l2 := holdsLevel (a.atLevel2 p) use (a.get (PH_THR_WARN2 p)) hyst
  let a1 := if l1 && !a.atLevel1 p then a.enterLevel PH_STATUS_WARN1 else a
  let a2 := if l2 && !a.atLevel2 p then a1.enterLevel PH_STATUS_WARN2 else a1
  let lvl := if use = a.get (PH_CFG_COUNT p) ∧ 0 < use then 3 else if l2 then 2 else if l1 then 1 else 0
  (a2.set (PH_STAT_IN_USE p) use).set (PH_STAT_LEVEL p) lvl

def Aggregator.setOwner (a : Aggregator) (p n owner : Nat) : Aggregator :=
  (a.modIng fun i =>
    let x := (tabGet i.pools p).getD Pool.init
    { i with pools := tabPut i.pools p { x with owners := storeSet 0 x.owners n owner } }).poolShow p

/-- The least number that a rising table does not list. -/
def lowestFree : Store Nat → Nat → Nat
  | [], i => i
  | (k, _) :: m, i => if k = i then lowestFree m (i + 1) else i

def Aggregator.bufAddr (a : Aggregator) (p n : Nat) : Nat := a.get (PH_BASE_BASE p) + n * a.bufBytes p

/-- The number of the buffer at an address, none where the address is not valid in the pool (R448). -/
def Aggregator.bufNumber (a : Aggregator) (p addr : Nat) : Option Nat :=
  let base := a.get (PH_BASE_BASE p)
  let n := (addr - base) / a.bufBytes p
  if base ≤ addr ∧ (addr - base) % a.bufBytes p = 0 ∧ n < a.get (PH_CFG_COUNT p) then some n else none

/-- ALLOC: the lowest-addressed free buffer, or none (R447, R450). -/
def Aggregator.poolAlloc (a : Aggregator) (p owner : Nat) (essential : Bool) : Option Nat × Aggregator :=
  let n := lowestFree (a.pool p).owners 0
  if ¬ a.poolOn p then (none, a)
  else if a.get (PH_CFG_COUNT p) ≤ n ∨ (a.atLevel2 p ∧ ¬ essential) then (none, a.inc (PH_STAT_ALLOC_FAIL_N p))
  else (some (a.bufAddr p n), a.setOwner p n owner)

def Aggregator.ptrErr (a : Aggregator) : Aggregator := (a.inc PH_CNT_PTR_ERR_N).raise PH_STATUS_PTR_ERR
def Aggregator.ownerErr (a : Aggregator) : Aggregator := (a.inc PH_CNT_OWNER_ERR_N).raise PH_STATUS_OWNER_ERR

/-- GIVE to the next owner, or FREE where that is 0: only by the present owner (R447, R448). -/
def Aggregator.poolGive (a : Aggregator) (p addr actor next : Nat) : Nat × Aggregator :=
  if ¬ a.poolOn p then (phBadPool, a)
  else match a.bufNumber p addr with
    | none => (phPtr, a.ptrErr)
    | some n =>
      let o := storeGet 0 (a.pool p).owners n
      if o = 0 ∨ o ≠ actor then (phOwner, a.ownerErr) else (phOk, a.setOwner p n next)

def Aggregator.poolFree (a : Aggregator) (p addr actor : Nat) : Nat × Aggregator := a.poolGive p addr actor 0

def Aggregator.phResult (a : Aggregator) (code addr : Nat) : Aggregator :=
  (a.set PH_RESULT_RESULT code).set PH_RESULT_ADDR addr

/-- A write of PH_OP (Table 15-16): the acting owner is host software. -/
def Aggregator.writePhOp (a : Aggregator) (m : Nat) : Aggregator :=
  let op := bits m 63 60
  let p := bits m 55 44
  let next := bits m 31 16
  let actor := bits m 15 0
  let a1 := ((a.set PH_OP_POOL p).set PH_OP_NEW_OWNER next).set PH_OP_OWNER actor
  let host := decide (0x2000 ≤ actor ∧ actor ≤ 0x2FFF)
  let addr := a.get PH_ADDR_ADDR
  if op = 0 ∨ 3 < op then a1
  else if ¬ a.poolOn p then a1.phResult phBadPool 0
  else if op ≠ 1 ∧ (a.bufNumber p addr).isNone then a1.ptrErr.phResult phPtr 0
  else if ¬ host then a1.ownerErr.phResult phOwner 0
  else if op = 1 then
    match a1.poolAlloc p next false with
    | (some x, a2) => a2.phResult phOk x
    | (none, a2) => a2.phResult phEmpty 0
  else
    let (code, a2) := a1.poolGive p addr actor (if op = 2 then next else 0)
    a2.phResult code 0

def Aggregator.poolBad (a : Aggregator) : Aggregator := a.raise PH_STATUS_CFG_INVALID

/-- A write of a pool's base, configuration or threshold word (R448, Table 15-17); `w`: which of its words. -/
def Aggregator.writePoolWord (a : Aggregator) (p w m : Nat) : Aggregator :=
  let used := decide (0 < a.poolUse p)
  match w with
  | 0 => if used then a.poolBad else a.set (PH_BASE_BASE p) (m / 64 * 64)
  | 1 =>
    let shift := bits m 62 56
    let badShift := decide (shift < 6 ∨ 20 < shift)
    let changes := used && (decide (shift ≠ a.get (PH_CFG_SHIFT p)) || decide (bits m 23 0 ≠ a.get (PH_CFG_COUNT p)))
    let a1 := (a.set (PH_CFG_EN p) (bits m 63 63)).set (PH_CFG_HOST_Q p) (bits m 53 48)
    let a2 := if badShift || used then a1 else a1.set (PH_CFG_SHIFT p) shift
    let a3 := if used then a2 else a2.set (PH_CFG_COUNT p) (bits m 23 0)
    if badShift || changes then a3.poolBad else a3
  | 2 =>
    if bits m 39 16 < bits m 63 40 then a.poolBad
    else (a.setWord (PH_THR_HYST p).reg (BitVec.ofNat 64 m)).poolShow p
  | _ => a

end Sys2Proof.Machine
end

