-- ==== Sys2Proof/Machine/CdeChannel.lean ====
section
/-!
DEFINITION. CDE channels: opening, decoding and encoding into buffers, forwarding slips, poste restante and completion
records (R199 to R205).
-/
namespace Sys2Proof.Machine

/-! ### What a channel writes (R199) -/

/-- The output up to the first fault, the length of the whole output, and the fault. -/
structure ChanPlan where
  out : List Byte
  total : Nat
  fault : Option StreamFault
  deriving DecidableEq, Repr

def planFaultBit (f : Option StreamFault) : Nat :=
  match f with
  | some x => x.bit
  | none => noFaultBit

/-- A decode: headers, descriptor and samples, or a copy of a RECORDS parcel. -/
def decodePlan (l : List Byte) : ChanPlan :=
  let fault := parcelFault l
  if ¬ headerOk l then ⟨[], 0, fault⟩
  else
    let head (plen : Nat) : List Byte :=
      beBytes 1 1 ++ slice l 1 1 ++ beBytes 1 (if isMatrix (be l 1 1) then 1 else 0) ++ beBytes 1 (be l 3 1 ||| 1)
        ++ beBytes 4 plen ++ slice l 8 28 ++ zeros 4
    if isMatrix (be l 1 1) then
      let n := 8 * (be l 40 2 * be l 42 2)
      let desc := parcelDesc l
      let total := 56 + desc.length + n
      ⟨head total ++ slice l 40 8 ++ beBytes 4 n ++ slice l 52 4 ++ desc
          ++ (decodeMatrix l).samples.flatMap fun s => beBytes 8 s.toNat, total, fault⟩
    else
      let plen := be l 4 4
      let body := slice l 40 (plen - 40)
      let good := match fault with
        | some f => if f.code = faultOverrun then body.take (f.bit / 8) else body
        | none => body
      ⟨head plen ++ good, plen, fault⟩

/-- An encode: the MATRIX-RESIDUAL parcel of the same samples, with its CRC; a RECORDS parcel with its CRC. -/
def encodePlan (lagK : Nat) (l : List Byte) : ChanPlan :=
  let fault := parcelFault l
  let bad : Bool := match fault with | some f => decide (f.code ≠ faultCrc) | none => false
  if bad then ⟨[], 0, fault⟩
  else
    let matrix := isMatrix (be l 1 1)
    let body := if matrix then matrixBody (be l 40 2) (be l 42 2) (lagK + 1) true (parcelDesc l) (parcelSamples l)
      else slice l 40 (be l 4 4 - 40)
    let head (crc : Nat) : List Byte :=
      beBytes 1 1 ++ slice l 1 1 ++ beBytes 1 (if matrix then 2 else 0) ++ beBytes 1 (be l 3 1 / 2 * 2)
        ++ beBytes 4 (40 + body.length) ++ slice l 8 28 ++ beBytes 4 crc
    let out := head (crc32c (head 0 ++ body)) ++ body
    ⟨out, out.length, fault⟩

/-- The channel in which ingest checks a parcel (R200, R270): PRIVILEGED for a stream with PRIV = 1. -/
def ingestChannel (priv : Bool) (l : List Byte) : Channel :=
  { privileged := priv, encode := false, lagK := 0, fwdMax := 0, pool := 0, fwdWait := 0, cplAddr := 0, input := l,
    produced := 0, buf := 0, bufLen := 0, used := 0, links := 0, waitSince := none, stopped := false, lastBuf := 0 }

def Channel.plan (c : Channel) : ChanPlan := if c.encode then encodePlan c.lagK c.input else decodePlan c.input

/-- Input bits consumed when a decode has produced so many bytes, and ends or not. -/
def decodeConsumed (l : List Byte) (produced : Nat) (ended : Bool) (fault : Option StreamFault) : Nat :=
  let matrix := isMatrix (be l 1 1)
  let base := if matrix then 56 + be l 46 2 else 40
  let plen := be l 4 4
  if ended then
    match fault with
    | some f => if f.bit = noFaultBit then 8 * plen else 8 * base + f.bit
    | none => 8 * plen
  else if produced ≤ base ∨ ¬ matrix then 8 * produced
  else 8 * base + (decodeMatrix l).ends.getD ((produced - base + 7) / 8 - 1) 0

/-! ### Slips and completion records (Tables 7-12, 7-13) -/

abbrev chDone : Nat := 0x00
abbrev chPoste : Nat := 0x01
abbrev chForwardFailed : Nat := 0x02
abbrev chCancelled : Nat := 0x03

def Aggregator.chan (a : Aggregator) (k : Nat) : Option Channel := tabGet a.ing.channels k
def Aggregator.putChan (a : Aggregator) (k : Nat) (c : Channel) : Aggregator :=
  a.modIng fun i => { i with channels := tabPut i.channels k c }
def Aggregator.endChan (a : Aggregator) (k : Nat) : Aggregator :=
  a.modIng fun i => { i with channels := tabDel i.channels k }

/-- A write of a CDE: one that faults writes nothing, and the channel goes on (R247). -/
def Aggregator.cdeWrite (a : Aggregator) (addr : Nat) (l : List Byte) : Aggregator := (a.memWrite .cde addr l).2

/-- The slip at the end of an ordinary channel's buffer. -/
def Aggregator.writeSlip (a : Aggregator) (c : Channel) (next flags : Nat) : Aggregator :=
  if c.privileged then a
  else a.cdeWrite (c.buf + c.bufLen - 16)
    (leBytes 8 next ++ leBytes 4 c.used ++ leBytes 2 c.links ++ leBytes 1 flags ++ zeros 1)

/-- The completion record of a channel. -/
def Aggregator.writeCompletion (a : Aggregator) (c : Channel) (status : Nat) (faultBit : Nat) : Aggregator :=
  let ended := decide (status ≠ chPoste ∧ status ≠ chForwardFailed ∧ status ≠ chCancelled)
  let (n, a1) := a.draw
  let known := !c.encode && decide (status ≠ faultBadHeader)
  let bits_ := if known then decodeConsumed c.input c.produced ended c.plan.fault
    else if c.encode ∧ (status = chDone ∨ status = faultCrc) then 8 * be c.input 4 4
    else (Config.chanConsumed n).toNat
  let last := if c.produced = 0 then (Config.chanLastBuf n).toNat else c.lastBuf
  a1.cdeWrite c.cplAddr
    (leBytes 1 status ++ leBytes 1 (bits_ % 8) ++ leBytes 2 c.links ++ leBytes 4 (be c.input 20 4) ++ leBytes 4 (bits_ / 8)
      ++ leBytes 4 c.produced ++ leBytes 4 faultBit ++ zeros 4 ++ leBytes 8 last)

/-! ### Running (R201 to R205) -/

/-- Bytes of output that the current buffer holds. -/
def Channel.cap (c : Channel) : Nat := if c.privileged then c.bufLen / 8 * 8 else c.bufLen / 8 * 8 - 16

/-- The parcel ends: slip, completion record, and the channel is free. -/
def Aggregator.chanFinish (a : Aggregator) (k : Nat) (c : Channel) (status faultBit : Nat) : Aggregator :=
  let bad := decide (status ≠ chDone)
  let a0 := if status = chForwardFailed then a.modIng fun i => { i with forwardFailed := i.forwardFailed + 1 } else a
  ((a0.writeSlip c 0 (if bad then 3 else 1)).writeCompletion c status faultBit).endChan k

/-- A forwarding buffer is linked. -/
def Channel.link (c : Channel) (addr len : Nat) : Channel :=
  { c with buf := addr, bufLen := len, used := 0, links := c.links + 1, waitSince := none }

/-- The channel writes until its parcel ends, it stops, or it waits; at most `fuel` buffers. -/
def Aggregator.chanRun (a : Aggregator) (k : Nat) (c : Channel) : Nat → Aggregator
  | 0 => a.putChan k c
  | fuel + 1 =>
    let plan := c.plan
    let piece := (plan.out.drop c.produced).take (c.cap - c.used)
    let a1 := a.cdeWrite (c.buf + c.used) piece
    let c1 : Channel := { c with produced := c.produced + piece.length, used := c.used + piece.length,
                                 lastBuf := if piece = [] then c.lastBuf else c.buf }
    if c1.cap ≤ c1.used ∧ c1.produced < plan.total then
      if c1.privileged then ((a1.writeCompletion c1 chPoste noFaultBit).putChan k { c1 with stopped := true })
      else if c1.fwdMax ≤ c1.links then a1.chanFinish k c1 chForwardFailed noFaultBit
      else match a1.poolAlloc c1.pool (ownerChannel (k / 32) (k % 32)) false with
        | (some addr, a2) => (a2.writeSlip c1 addr 0).chanRun k (c1.link addr (a2.bufBytes c1.pool)) fuel
        | (none, a2) => a2.putChan k { c1 with waitSince := some a.mono }
    else match plan.fault with
      | some f => a1.chanFinish k c1 f.code f.bit
      | none => a1.chanFinish k c1 chDone noFaultBit

/-- CHANNEL_OPEN of channel k of the CDE of a core, with the descriptor at an address of its SRAM; `priv`: the master. -/
def Aggregator.channelOpen (a : Aggregator) (core k desc : Nat) (priv : Bool) : Aggregator :=
  let key := 32 * core + k
  if 32 ≤ k ∨ ¬ a.dispatchable core ∨ (a.chan key).isSome then a
  else if ¬ a.coreOn core then a.wakeDomain core
  else
    let d := memBytes a.mem desc 64
    let cls := le d 12 1
    if a.poisoned desc 64 ∨ (bit cls 0 ∧ ¬ priv) then a
    else
      let (input, a1) := a.memRead .cde (le d 0 8) (le d 8 4)
      let c : Channel :=
        { privileged := bit cls 0, encode := bit cls 1, lagK := le d 13 1, fwdMax := le d 14 2, pool := le d 28 2,
          fwdWait := le d 30 2, cplAddr := le d 32 8, input := input.getD (zeros (le d 8 4)), produced := 0, buf := le d 16 8,
          bufLen := le d 24 4, used := 0, links := 0, waitSince := none, stopped := false, lastBuf := 0 }
      a1.chanRun key c (c.fwdMax + 2)

/-- FORWARD_BUFFER_GRANT: a waiting channel gets a buffer of its pool (R202). -/
def Aggregator.forwardGrant (a : Aggregator) (key : Nat) : Aggregator :=
  match a.chan key with
  | none => a
  | some c =>
    if c.waitSince.isNone then a
    else match a.poolAlloc c.pool (ownerChannel (key / 32) (key % 32)) false with
      | (some addr, a1) => (a1.writeSlip c addr 0).chanRun key (c.link addr (a1.bufBytes c.pool)) (c.fwdMax + 2)
      | (none, a1) => a1

/-- FORWARD_WAIT_TIMEOUT: no buffer within FWD_WAIT (R203). -/
def Aggregator.forwardTimeout (a : Aggregator) (key : Nat) : Aggregator :=
  match a.chan key with
  | none => a
  | some c =>
    match c.waitSince with
    | some t => if t + c.fwdWait * 1000 ≤ a.mono then a.chanFinish key c chForwardFailed noFaultBit else a
    | none => a

/-- A resume or cancel of a channel that is not stopped is ignored and counted (R204). -/
def Aggregator.chanIgnore (a : Aggregator) : Aggregator := a.modIng fun i => { i with chanIgnored := i.chanIgnored + 1 }

/-- POSTE_RESTANTE_RESUME by a privileged master: a new output buffer (R204). -/
def Aggregator.posteResume (a : Aggregator) (key addr len : Nat) (priv : Bool) : Aggregator :=
  if ¬ priv then a
  else match a.chan key with
    | none => a.chanIgnore
    | some c =>
      if c.stopped then a.chanRun key { c with buf := addr, bufLen := len, used := 0, stopped := false } 2
      else a.chanIgnore

/-- CHANNEL_CANCEL by a privileged master (R204). -/
def Aggregator.chanCancel (a : Aggregator) (key : Nat) (priv : Bool) : Aggregator :=
  if ¬ priv then a
  else match a.chan key with
    | none => a.chanIgnore
    | some c => if c.stopped then (a.writeCompletion c chCancelled noFaultBit).endChan key else a.chanIgnore

end Sys2Proof.Machine
end

