-- ==== Sys2Proof/Machine/SoftFloat.lean ====
section
/-!
DEFINITION. Number formats and exact arithmetic: decoding of every format of Table 11-1, and the FP32 and FP64 operations of
IEEE 754-2019 with round to nearest, ties to even (R298, R336).
-/
namespace Sys2Proof.Machine

/-- A value of a floating format: (−1)^neg × m × 2^q where finite (R298). -/
inductive FpVal where
  | nan
  | inf (neg : Bool)
  | fin (neg : Bool) (m : Nat) (q : Int)
  deriving DecidableEq, Repr

/-- What a format's greatest exponent field holds (Table 11-1). -/
inductive FpSpecial where
  | ieee
  | nanOnly
  | none
  deriving DecidableEq, Repr

/-- A format: widths of its exponent and fraction fields, its bias, its special values, and whether blocks share a scale. -/
structure FpFmt where
  ebits : Nat
  fbits : Nat
  bias : Int
  special : FpSpecial
  mx : Bool
  /-- two's complement k, value k × 2^-6 (MXINT8) -/
  int8 : Bool
  deriving DecidableEq, Repr

def FpFmt.bits (f : FpFmt) : Nat := 1 + f.ebits + f.fbits

abbrev fmtFp32 : FpFmt := ⟨8, 23, 127, .ieee, false, false⟩
abbrev fmtFp16 : FpFmt := ⟨5, 10, 15, .ieee, false, false⟩
abbrev fmtBf16 : FpFmt := ⟨8, 7, 127, .ieee, false, false⟩
abbrev fmtE4m3 : FpFmt := ⟨4, 3, 7, .nanOnly, false, false⟩
abbrev fmtE5m2 : FpFmt := ⟨5, 2, 15, .ieee, false, false⟩
abbrev fmtFp64 : FpFmt := ⟨11, 52, 1023, .ieee, false, false⟩

/-- The formats of Table 11-1 by code. -/
def fmtOf (code : Nat) : Option FpFmt :=
  match code with
  | 0x01 => some fmtFp32
  | 0x02 => some fmtFp16
  | 0x03 => some fmtBf16
  | 0x04 => some fmtE4m3
  | 0x05 => some fmtE5m2
  | 0x06 => some ⟨2, 3, 1, .none, false, false⟩
  | 0x07 => some ⟨3, 2, 3, .none, false, false⟩
  | 0x08 => some ⟨2, 1, 1, .none, false, false⟩
  | 0x10 => some ⟨4, 3, 7, .nanOnly, true, false⟩
  | 0x11 => some ⟨5, 2, 15, .ieee, true, false⟩
  | 0x12 => some ⟨2, 3, 1, .none, true, false⟩
  | 0x13 => some ⟨3, 2, 3, .none, true, false⟩
  | 0x14 => some ⟨2, 1, 1, .none, true, false⟩
  | 0x15 => some ⟨0, 7, 0, .none, true, true⟩
  | _ => none

/-- The formats marked for output in Table 11-1. -/
def fmtIsOutput (code : Nat) : Bool := decide (1 ≤ code ∧ code ≤ 5)

/-- An element decoded; `ftz`: subnormals read as zero of the same sign (R298). -/
def FpFmt.decode (f : FpFmt) (ftz : Bool) (v : Nat) : FpVal :=
  if f.int8 then
    let k := signed 8 v
    .fin (decide (k < 0)) k.natAbs (-6)
  else
    let frac := v % 2 ^ f.fbits
    let e := v / 2 ^ f.fbits % 2 ^ f.ebits
    let neg := v.testBit (f.ebits + f.fbits)
    let top := 2 ^ f.ebits - 1
    if e = top ∧ f.special = .ieee then (if frac = 0 then .inf neg else .nan)
    else if e = top ∧ f.special = .nanOnly ∧ frac = 2 ^ f.fbits - 1 then .nan
    else if e = 0 then .fin neg (if ftz then 0 else frac) (1 - f.bias - f.fbits)
    else .fin neg (2 ^ f.fbits + frac) (e - f.bias - f.fbits)

/-- A value times a block's E8M0 scale; a scale of 0xFF makes it NaN (R298, R305). -/
def FpVal.scale (v : FpVal) (s : Nat) : FpVal :=
  if s = 255 then .nan
  else match v with
  | .fin n m q => .fin n m (q + s - 127)
  | x => x

/-! ### Rounding -/

/-- The quiet NaN of a format: 0x7FC0_0000 in FP32 and 0x7FF8_0000_0000_0000 in FP64 (R336). -/
def FpFmt.qnan (f : FpFmt) : Nat := (2 ^ f.ebits - 1) * 2 ^ f.fbits + 2 ^ (f.fbits - 1)

def FpFmt.infBits (f : FpFmt) (neg : Bool) : Nat :=
  b2n neg * 2 ^ (f.ebits + f.fbits) + (2 ^ f.ebits - 1) * 2 ^ f.fbits

/-- m / 2^k rounded to nearest, ties to even. -/
def shiftRne (m k : Nat) : Nat :=
  if k = 0 then m
  else
    let n := m / 2 ^ k
    let r := m % 2 ^ k
    if 2 ^ (k - 1) < r ∨ (r = 2 ^ (k - 1) ∧ n % 2 = 1) then n + 1 else n

/-- The nearest value of a format with IEEE specials, as bits. -/
def FpFmt.round (f : FpFmt) (neg : Bool) (m : Nat) (q : Int) : Nat :=
  let s := b2n neg * 2 ^ (f.ebits + f.fbits)
  if m = 0 then s
  else
    let e : Int := Nat.log2 m + q
    let qe := max e (1 - f.bias) - f.fbits
    let n := if qe ≤ q then m * 2 ^ (q - qe).toNat else shiftRne m (qe - q).toNat
    let ef := (qe + f.fbits + f.bias).toNat
    let body := if n < 2 ^ f.fbits then n else ef * 2 ^ f.fbits + (n - 2 ^ f.fbits)
    s + min body ((2 ^ f.ebits - 1) * 2 ^ f.fbits)

def FpFmt.encode (f : FpFmt) : FpVal → Nat
  | .nan => f.qnan
  | .inf n => f.infBits n
  | .fin n m q => f.round n m q

/-! ### Exact values -/

/-- A finite value as an integer multiple of 2^w, where its own weight allows. -/
def exactAt (w : Int) (neg : Bool) (m : Nat) (q : Int) : Int :=
  let n : Int := m * 2 ^ (q - w).toNat
  if neg then -n else n

/-- The sign of an exact sum that may be zero: zero is positive unless both addends are negative zeros or negative. -/
def FpVal.add : FpVal → FpVal → FpVal
  | .nan, _ => .nan
  | _, .nan => .nan
  | .inf a, .inf b => if a = b then .inf a else .nan
  | .inf a, _ => .inf a
  | _, .inf b => .inf b
  | .fin n1 m1 q1, .fin n2 m2 q2 =>
    let w := min q1 q2
    let s := exactAt w n1 m1 q1 + exactAt w n2 m2 q2
    if s = 0 then .fin (n1 && n2) 0 w else .fin (decide (s < 0)) s.natAbs w

def FpVal.neg : FpVal → FpVal
  | .nan => .nan
  | .inf n => .inf (!n)
  | .fin n m q => .fin (!n) m q

def FpVal.mul : FpVal → FpVal → FpVal
  | .nan, _ => .nan
  | _, .nan => .nan
  | .inf a, .inf b => .inf (a != b)
  | .inf a, .fin b m _ => if m = 0 then .nan else .inf (a != b)
  | .fin b m _, .inf a => if m = 0 then .nan else .inf (a != b)
  | .fin n1 m1 q1, .fin n2 m2 q2 => .fin (n1 != n2) (m1 * m2) (q1 + q2)

/-- A quotient with enough bits and a sticky bit, so that one rounding of it is exact. -/
def FpVal.div : FpVal → FpVal → FpVal
  | .nan, _ => .nan
  | _, .nan => .nan
  | .inf _, .inf _ => .nan
  | .inf a, .fin b _ _ => .inf (a != b)
  | .fin a _ _, .inf b => .fin (a != b) 0 0
  | .fin n1 m1 q1, .fin n2 m2 q2 =>
    if m2 = 0 then (if m1 = 0 then .nan else .inf (n1 != n2))
    else
      let k := Nat.log2 m2 + 130
      let num := m1 * 2 ^ k
      let d := num / m2
      .fin (n1 != n2) (2 * d + b2n (decide (num % m2 ≠ 0))) (q1 - q2 - k - 1)

/-- A square root with enough bits and a sticky bit. -/
def FpVal.sqrt : FpVal → FpVal
  | .nan => .nan
  | .inf n => if n then .nan else .inf false
  | .fin n m q =>
    if m = 0 then .fin n 0 0
    else if n then .nan
    else
      let k : Nat := if q % 2 = 0 then 260 else 261
      let x := m * 2 ^ k
      let r := Nat.sqrt x
      .fin false (2 * r + b2n (decide (r * r ≠ x))) ((q - k) / 2 - 1)

/-- Numeric order of two values that are not NaN; zeros of either sign are equal. -/
def FpVal.lt : FpVal → FpVal → Bool
  | .nan, _ => false
  | _, .nan => false
  | .inf a, .inf b => a && !b
  | .inf a, _ => a
  | _, .inf b => !b
  | .fin n1 m1 q1, .fin n2 m2 q2 =>
    let w := min q1 q2
    decide (exactAt w n1 m1 q1 < exactAt w n2 m2 q2)

def FpVal.isNeg : FpVal → Bool
  | .nan => false
  | .inf n => n
  | .fin n _ _ => n

def FpVal.isZero : FpVal → Bool
  | .fin _ m _ => decide (m = 0)
  | _ => false

def FpVal.eq (a b : FpVal) : Bool :=
  match a, b with
  | .nan, _ => false
  | _, .nan => false
  | a, b => !a.lt b && !b.lt a

/-- The lesser value, with −0 below +0; NaN where either is (IEEE 754-2019 minimum). -/
def FpVal.min_ (a b : FpVal) : FpVal :=
  if a = .nan ∨ b = .nan then .nan
  else if a.lt b then a
  else if b.lt a then b
  else if a.isNeg then a else b

def FpVal.max_ (a b : FpVal) : FpVal := (FpVal.min_ a.neg b.neg).neg

def FpVal.abs : FpVal → FpVal
  | .nan => .nan
  | .inf _ => .inf false
  | .fin _ m q => .fin false m q

/-- An integer as a value. -/
def FpVal.ofInt (i : Int) : FpVal := .fin (decide (i < 0)) i.natAbs 0

/-- The value rounded toward zero, none for NaN and the infinities. -/
def FpVal.trunc : FpVal → Option Int
  | .fin n m q =>
    let a : Nat := if 0 ≤ q then m * 2 ^ Int.toNat q else m / 2 ^ Int.toNat (-q)
    some (if n then -(a : Int) else a)
  | _ => none

/-! ### FP64 operations on bit patterns (R336, R350 to R354) -/

abbrev F64 := Nat

def f64 (v : Nat) : FpVal := fmtFp64.decode false v
def f32 (v : Nat) : FpVal := fmtFp32.decode false v
def f64add (a b : F64) : F64 := fmtFp64.encode ((f64 a).add (f64 b))
def f64sub (a b : F64) : F64 := fmtFp64.encode ((f64 a).add (f64 b).neg)
def f64mul (a b : F64) : F64 := fmtFp64.encode ((f64 a).mul (f64 b))
def f64div (a b : F64) : F64 := fmtFp64.encode ((f64 a).div (f64 b))
def f64sqrt (a : F64) : F64 := fmtFp64.encode (f64 a).sqrt
def f64ofInt (i : Int) : F64 := fmtFp64.encode (FpVal.ofInt i)
def f64lt (a b : F64) : Bool := (f64 a).lt (f64 b)
def f64le (a b : F64) : Bool := (f64 a).lt (f64 b) || (f64 a).eq (f64 b)
def f64max (a b : F64) : F64 := if f64lt a b then b else a
def f64abs (a : F64) : F64 := fmtFp64.encode (f64 a).abs
def f64finite (a : F64) : Bool := match f64 a with | .fin _ _ _ => true | _ => false
/-- FP64 rounded to FP32. -/
def f64to32 (a : F64) : Nat := fmtFp32.encode (f64 a)
/-- FP32 widened to FP64. -/
def f32to64 (a : Nat) : F64 := fmtFp64.encode (f32 a)
/-- p / 2^k as FP64. -/
def f64frac (p k : Nat) : F64 := fmtFp64.round false p (-(k : Int))

/-! ### The logarithmic bucket index (R278) -/

/-- ⌊64 × log2 x⌋ of a positive value m × 2^q, exactly: s = m × 2^(63 − e) is compared with the thresholds through its
64th power. -/
def bucketIndex (m : Nat) (q : Int) : Int :=
  let e := Nat.log2 m
  let s := if e ≤ 63 then m * 2 ^ (63 - e) else m
  let base : Int := if e ≤ 63 then 4032 else 64 * e
  (Nat.log2 (s ^ 64) : Int) - base + 64 * (e + q)

end Sys2Proof.Machine
end

