-- ==== Sys2Proof/Machine/AuditMath.lean ====
section
/-!
DEFINITION. The arithmetic of the exact audit: operand runs, exact sums, the declared bound, and the judgement of an element
(R297 to R306, Tables 11-1 to 11-3).
-/
namespace Sys2Proof.Machine

/-! ### Runs of elements (R170, R298) -/

/-- Bits of a run of n elements. -/
def FpFmt.runBits (f : FpFmt) (n : Nat) : Nat := n * f.bits + if f.mx then 8 * ((n + 31) / 32) else 0

/-- Bytes of a run of n elements. -/
def FpFmt.runBytes (f : FpFmt) (n : Nat) : Nat := (f.runBits n + 7) / 8

/-- Element i of a run of bytes read as one number of `total` bits. -/
def FpFmt.element (f : FpFmt) (ftz : Bool) (v total i : Nat) : FpVal :=
  let take (off w : Nat) : Nat := v / 2 ^ (total - off - w) % 2 ^ w
  if f.mx then
    let block := i / 32 * (8 + 32 * f.bits)
    (f.decode ftz (take (block + 8 + i % 32 * f.bits) f.bits)).scale (take block 8)
  else f.decode ftz (take (i * f.bits) f.bits)

/-- The n elements of run r of a part. -/
def FpFmt.run (f : FpFmt) (ftz : Bool) (part : List Byte) (n r : Nat) : List FpVal :=
  let len := f.runBytes n
  let v := be part (r * len) len
  (List.range n).map (f.element ftz v (8 * len))

/-! ### Exact sums (R299) -/

/-- Weight of the least significant bit of an accumulator. -/
abbrev accLsb : Int := -320

/-- What the terms of an output element come to: S and T of the finite ones, whether some term is NaN, and whether infinities
of either sign occur. -/
structure DotSum where
  s : Int
  t : Int
  nan : Bool
  pinf : Bool
  ninf : Bool
  deriving DecidableEq, Repr

def DotSum.zero : DotSum := ⟨0, 0, false, false, false⟩

/-- One product is added. -/
def DotSum.add (d : DotSum) (a b : FpVal) : DotSum :=
  match a.mul b with
  | .nan => { d with nan := true }
  | .inf neg => if neg then { d with ninf := true } else { d with pinf := true }
  | .fin neg m q => { d with s := d.s + exactAt accLsb neg m q, t := d.t + exactAt accLsb false m q }

def dotSum (as bs : List FpVal) : DotSum := (as.zip bs).foldl (fun d p => d.add p.1 p.2) DotSum.zero

/-- The content of a 640-bit accumulator, as a signed number. -/
def acc640 (v : Int) : Int := signed 640 (unsigned 640 v)

/-! ### Binary floating point, rounded up (R304)

Φ, A, B₀ and B each have a 64-bit significand. What leads to one of them is exact, or has 192 bits where it is a power, so that
the bound stays within 2^-60 of its formula (log 54). -/

/-- m × 2^q, never below what it stands for. -/
structure Up where
  m : Nat
  q : Int
  deriving DecidableEq, Repr

/-- A significand of at most w bits, rounded up. -/
def Up.round (w : Nat) (a : Up) : Up :=
  if a.m < 2 ^ w then a
  else
    let k := Nat.log2 a.m + 1 - w
    ⟨ceilDiv a.m (2 ^ k), a.q + k⟩

def Up.pow2 (e : Int) : Up := ⟨1, e⟩
def Up.ofNat (n : Nat) : Up := ⟨n, 0⟩
def Up.zero : Up := ⟨0, 0⟩
def Up.mul (a b : Up) : Up := ⟨a.m * b.m, a.q + b.q⟩
def Up.add (a b : Up) : Up :=
  let w := min a.q b.q
  ⟨a.m * 2 ^ (a.q - w).toNat + b.m * 2 ^ (b.q - w).toNat, w⟩

/-- a − 1, for a of at least 1. -/
def Up.less1 (a : Up) : Up :=
  let w := min a.q 0
  ⟨a.m * 2 ^ (a.q - w).toNat - 2 ^ (-w).toNat, w⟩

/-- a^n by squaring; `bits` bounds the bits of n. -/
def Up.pow (a : Up) : Nat → Nat → Up
  | 0, _ => ⟨1, 0⟩
  | k + 1, n =>
    let h := ((a.mul a).round 192).pow k (n / 2)
    if n % 2 = 1 then (a.mul h).round 192 else h

/-- The least integer multiple of 2^w that is not below a. -/
def Up.ceilAt (a : Up) (w : Int) : Nat :=
  if w ≤ a.q then a.m * 2 ^ (a.q - w).toNat else ceilDiv a.m (2 ^ (w - a.q).toNat)

/-! ### Declared numerics (R301, R302, Table 11-12) -/

def Numerics.valid (d : Numerics) : Bool := bit d.w0 63
def Numerics.outFmt (d : Numerics) : Nat := bits d.w0 55 50
def Numerics.outRnd (d : Numerics) : Nat := bits d.w0 49 48
def Numerics.outOvf (d : Numerics) : Nat := bits d.w0 47 46
def Numerics.outFtz (d : Numerics) : Bool := bit d.w0 45
def Numerics.inFtz (d : Numerics) : Bool := bit d.w0 44
def Numerics.slack (d : Numerics) : Nat := bits d.w0 15 0

/-- A rounding stage: precision, rounding mode, flush, least normal exponent. -/
structure Stage where
  p : Nat
  rnd : Nat
  ftz : Bool
  order : Nat
  emin : Int
  deriving DecidableEq, Repr

def stageOf (w : Nat) : Stage := ⟨bits w 63 56, bits w 55 54, bit w 53, bits w 51 50, signed 16 (bits w 47 32)⟩
def Numerics.mul (d : Numerics) : Stage := stageOf d.w1
def Numerics.acc (d : Numerics) : Stage := stageOf d.w2
def Numerics.outer (d : Numerics) : Stage := stageOf d.w3
def Numerics.chunk (d : Numerics) : Nat := bits d.w2 23 0 + 1
def Numerics.fuse (d : Numerics) : Nat := bits d.w2 31 24 + 1

/-- A descriptor that a write may leave VALID (R324). -/
def Numerics.wellFormed (d : Numerics) : Bool :=
  let pOk (s : Stage) : Bool := decide (8 ≤ s.p ∧ s.p ≤ 64)
  decide (d.outRnd < 3) && decide (d.mul.rnd < 3) && decide (d.acc.rnd < 3) && decide (d.outer.rnd < 3)
    && decide (d.acc.order < 2) && decide (d.outer.order < 2) && pOk d.acc && pOk d.outer
    && (decide (d.mul.p = 0) || pOk d.mul) && fmtIsOutput d.outFmt

/-- The unit of a precision and rounding mode. -/
def unitOf (p rnd : Nat) : Up := Up.pow2 (if rnd = 0 then -(p : Int) else 1 - p)

def ceilLog2 (n : Nat) : Nat := if n ≤ 1 then 0 else Nat.log2 (n - 1) + 1

/-- The depths h₁ and h₂ of Table 11-2, and q. -/
def Numerics.depths (d : Numerics) (k : Nat) : Nat × Nat × Nat :=
  let g := ceilDiv (min d.chunk k) d.fuse
  let q := ceilDiv k d.chunk
  let tree (s : Stage) : Bool := decide (s.order = 1)
  let h1 := if d.fuse = 1 then (if tree d.acc then ceilLog2 g else g - 1) else if tree d.acc then ceilLog2 g + 1 else g
  let h2 := if q = 1 then 0
    else (if tree d.outer then ceilLog2 q else q - 1) + b2n (decide (d.outer.p < d.acc.p))
  (h1, h2, q)

/-- The quantities of the bound that no element changes: Φ, A, u_o, η_o. -/
structure BoundBase where
  phi : Up
  a : Up
  uo : Up
  eta : Up
  deriving DecidableEq, Repr

def Up.one : Up := ⟨1, 0⟩

/-- Largest finite value of an output format, in units of 2^-320. -/
def FpFmt.largest (f : FpFmt) : Int :=
  let top := if f.special = .ieee then 2 ^ f.ebits - 2 else 2 ^ f.ebits - 1
  let frac := if f.special = .nanOnly then 2 ^ f.fbits - 2 else 2 ^ f.fbits - 1
  exactAt accLsb false (2 ^ f.fbits + frac) ((top : Int) - f.bias - f.fbits)

/-- The output format holds every result of the final stage: its largest finite value is compared with that of a format of
the stage's precision whose exponents are symmetric as in IEEE 754 (log 53). -/
def FpFmt.holds (f : FpFmt) (s : Stage) : Bool :=
  let w : Int := min accLsb (2 - s.p - s.emin)
  let stageMax : Int := (2 ^ s.p - 1 : Nat) * 2 ^ ((2 - s.p - s.emin : Int) - w).toNat
  decide (s.p ≤ f.fbits + 1) && decide ((1 - f.bias : Int) ≤ s.emin)
    && decide (stageMax ≤ f.largest * 2 ^ (accLsb - w).toNat)

/-- R303, up to A (R304; log 54). -/
def Numerics.base (d : Numerics) (out : FpFmt) (k : Nat) : BoundBase :=
  let (h1, h2, q) := d.depths k
  let um := if d.mul.p = 0 then Up.zero else unitOf d.mul.p d.mul.rnd
  let ua := unitOf d.acc.p d.acc.rnd
  let uc := unitOf d.outer.p d.outer.rnd
  let phi1 := ((Up.one.add um).mul ((Up.one.add ua).pow 32 h1)).mul ((Up.one.add uc).pow 32 h2)
  let mu := if d.mul.p = 0 then Up.zero
    else if d.mul.ftz then Up.pow2 d.mul.emin else Up.pow2 (d.mul.emin - d.mul.p + 1)
  let lam (s : Stage) : Up := if s.ftz then Up.pow2 s.emin else Up.zero
  let sum := (((Up.ofNat k).mul mu).add ((Up.ofNat (k - q)).mul (lam d.acc))).add ((Up.ofNat (q - 1)).mul (lam d.outer))
  let fin := if 2 ≤ q then d.outer else d.acc
  let exact := out.holds fin
  let smallest : Int := if d.outFtz then 1 - out.bias else 1 - out.bias - out.fbits
  let phi := phi1.less1.round 64
  ⟨phi, ((Up.one.add phi).mul sum).round 64, if exact then Up.zero else unitOf (out.fbits + 1) d.outRnd,
    if exact then Up.zero else Up.pow2 smallest⟩

/-- The bound in force for an element, in units of 2^-320: B₀ widened by the slack (R303, R304). -/
def BoundBase.bound (b : BoundBase) (slack : Nat) (s t : Int) : Nat :=
  let b0 := ((((Up.one.add b.uo).mul ((b.phi.mul ⟨t.natAbs, accLsb⟩).add b.a)).add (b.uo.mul ⟨s.natAbs, accLsb⟩)).add b.eta).round 64
  ((b0.mul (Up.one.add ⟨slack, -16⟩)).round 64).ceilAt accLsb

/-! ### Judging an element (R304 to R306, Table 11-3) -/

/-- What is said of one element: it conforms, it was judged by class, and its usage, none where no rule gives one. -/
structure Judged where
  ok : Bool
  byClass : Bool
  usage : Option Nat
  deriving DecidableEq, Repr

/-- |y − S| / B rounded up to 1/256, at most 0xFFFF; nothing is used where y is S. -/
def usageOf (diff bound : Nat) : Nat :=
  if diff = 0 then 0 else if bound = 0 then 0xFFFF else min 0xFFFF (ceilDiv (256 * diff) bound)

def judge (d : Numerics) (out : FpFmt) (bound : Nat) (x : DotSum) (y : FpVal) : Judged :=
  let l := out.largest
  let hasInf := decide (out.special = .ieee)
  let isMax (neg : Bool) : Bool := match y with
    | .fin n m q => decide (n = neg) && decide (exactAt accLsb false m q = l)
    | _ => false
  if x.nan ∨ (x.pinf ∧ x.ninf) then ⟨decide (y = .nan), true, none⟩
  else if x.pinf ∨ x.ninf then
    let ok := if hasInf then decide (y = .inf x.ninf)
      else if d.outOvf = 2 then decide (y = .nan)
      else if d.outOvf = 1 then isMax x.ninf
      else false
    ⟨ok, true, none⟩
  else
    let overflow := decide (l < (x.s.natAbs : Int) + bound)
    let neg := decide (x.s < 0)
    match y with
    | .fin n m q =>
      let diff := (exactAt accLsb n m q - x.s).natAbs
      ⟨decide (diff ≤ bound) || (overflow && decide (d.outOvf = 1) && isMax neg), false, some (usageOf diff bound)⟩
    | y => ⟨overflow && (if d.outOvf = 0 then decide (y = .inf neg) else decide (d.outOvf = 2) && decide (y = .nan)), true, none⟩

/-! ### A tile (R170, R299, R312, R316) -/

/-- Geometry and parts of a tile. -/
structure TileWork where
  fmt : FpFmt
  out : FpFmt
  m : Nat
  n : Nat
  k : Nat
  partA : List Byte
  partB : List Byte
  partY : List Byte
  deriving DecidableEq, Repr

/-- The sums of every element, row by row. -/
def TileWork.sums (w : TileWork) (d : Numerics) : List DotSum :=
  let as := (List.range w.m).map fun r => w.fmt.run d.inFtz w.partA w.k r
  let bs := (List.range w.n).map fun c => w.fmt.run d.inFtz w.partB w.k c
  as.flatMap fun a => bs.map fun b => dotSum a b

/-- The committed outputs, row by row. -/
def TileWork.outputs (w : TileWork) : List FpVal := (List.range w.m).flatMap fun r => w.out.run false w.partY w.n r

/-- The worst element so far: usage, position. -/
def worse (best : Option (Nat × Nat)) (u i : Nat) : Option (Nat × Nat) :=
  match best with
  | none => some (u, i)
  | some (v, j) => if v < u then some (u, i) else some (v, j)

/-- The result of an audit. `errs`: elements at which the engine's S and T differ from the exact sums; `free`: the usage that
an element judged by class counts with. -/
def TileWork.audit (w : TileWork) (d : Numerics) (slackRel : Nat) (errs : List (Nat × Int × Int)) (free : Nat) :
    AuditResult :=
  let base := d.base w.out w.k
  let xs := w.sums d
  let xs := (List.range xs.length).map fun i =>
    let x := xs.getD i DotSum.zero
    match errs.find? fun e => e.1 = i with
    | some (_, s, t) => { x with s := acc640 s, t := acc640 t }
    | none => x
  let ys := w.outputs
  let js := (List.range xs.length).map fun i =>
    let x := xs.getD i DotSum.zero
    judge d w.out (base.bound (slackRel + d.slack) x.s x.t) x (ys.getD i .nan)
  let worst := (List.range js.length).foldl (fun b i =>
    match js[i]? with
    | some j => worse b (j.usage.getD free) i
    | none => b) none
  let (u, i) := worst.getD (0, 0)
  { sums := xs.map fun x => (x.s, x.t), devN := (js.filter fun j => !j.ok).length, byClass := js.any (·.byClass),
    worstRow := i / w.n, worstCol := i % w.n, usage := u }

/-- Product slots of an audit (R300): nine for each FP32 product. -/
def TileWork.slots (w : TileWork) : Nat := w.m * w.n * w.k * if w.fmt = fmtFp32 then 9 else 1

end Sys2Proof.Machine
end

