-- ==== Sys2Proof/Machine/Ledger.lean ====
section
/-!
DEFINITION. Ledger records and their append, occupancy, and the mirror messages that carry them (R363 to R367, R370, R372,
R376 to R378).
-/
namespace Sys2Proof.Machine

/-! ### Records (Tables 13-1, 13-2) -/

abbrev lkFpRun : Nat := 0x01
abbrev lkFpMap : Nat := 0x02
abbrev lkLineage : Nat := 0x03
abbrev lkVerdict : Nat := 0x04
abbrev lkCapDesc : Nat := 0x05
abbrev lkCoverage : Nat := 0x06
abbrev lkMismatch : Nat := 0x07
abbrev lkEpoch : Nat := 0x08
abbrev lkParcel : Nat := 0x09
abbrev lkTaint : Nat := 0x0A
abbrev lkEvent : Nat := 0x0B
abbrev lkDump : Nat := 0x0C
abbrev lkDigest : Nat := 0x0D
abbrev lkSummary : Nat := 0x0E
abbrev lkDivergence : Nat := 0x0F

abbrev noDuid : Nat := 0xFFFFFFFF

/-- A body padded with zero bytes to a multiple of 8 (R363). -/
def pad8 (l : List Byte) : List Byte := padTo ((l.length + 7) / 8 * 8) l

def LRec.len (r : LRec) : Nat := 24 + (r.body.length + 7) / 8 * 8

/-- LSEQ of a record (Table 13-1). -/
def LRec.lseq (r : LRec) : Nat := r.author * 2 ^ 52 + r.seq

/-- A whole record, little-endian. -/
def LRec.bytes (r : LRec) : List Byte :=
  leBytes 4 r.len ++ leBytes 1 r.kind ++ leBytes 1 r.flags ++ leBytes 6 r.step ++ leBytes 4 r.duid ++ leBytes 8 r.lseq
    ++ pad8 r.body

/-- It is a late record (R370). -/
def LRec.late (r : LRec) : Bool := bit r.flags 0

/-- A record read from its bytes: the record, and the bytes after it. -/
def readLRec (l : List Byte) : Option (LRec × List Byte) :=
  let n := le l 0 4
  if n < 24 ∨ l.length < n then none
  else some (⟨le l 4 1, le l 5 1, le l 6 6, le l 12 4, le l 16 8 / 2 ^ 52, le l 16 8 % 2 ^ 52, slice l 24 (n - 24)⟩, l.drop n)

/-- The records of a byte string, at most `n` of them. -/
def readLRecs : Nat → List Byte → List LRec
  | 0, _ => []
  | n + 1, l =>
    match readLRec l with
    | some (r, rest) => r :: readLRecs n rest
    | none => []

/-! ### Bodies of earlier records, little-endian (R366) -/

/-- Each field of a record in network byte order turned around; `sizes` are the fields in order, a postmark being 8 and 2. -/
def toLe : List Nat → List Byte → List Byte
  | [], _ => []
  | n :: ns, l => (l.take n).reverse ++ toLe ns (l.drop n)

abbrev fpEntrySizes : List Nat := [8, 4, 1, 1, 2]
abbrev mapEntrySizes : List Nat := [4, 1, 1, 6, 4]
abbrev lineageSizes : List Nat := [1, 1, 1, 1, 4, 6, 2, 8, 4, 4, 2, 6, 4, 2, 2]
abbrev mismatchSizes : List Nat := [4, 1, 1, 6, 4, 4, 4, 8, 8, 8, 2, 2, 2, 2]
abbrev capDescSizes : List Nat := [4, 1, 1, 1, 1, 6, 1, 1, 4, 4, 1, 1, 3, 3, 4, 4, 8, 8, 2, 2, 2, 2]
def coverageSizes : List Nat := [4, 1, 1, 6, 4] ++ List.replicate 64 4

/-! ### Occupancy (R372) -/

abbrev extentBytes : Nat := 262144

/-- Extents that hold records of given lengths in order, none spanning two: extents so far, and bytes used in the last. -/
def packExtents (lens : List Nat) : Nat :=
  (lens.foldl (fun (c : Nat × Nat) n => if c.1 = 0 ∨ extentBytes < c.2 + n then (c.1 + 1, n) else (c.1, c.2 + n)) (0, 0)).1

/-- The groups of a ledger's records: a step's main records, or its late ones. -/
def Ledger.extents (l : Ledger) : Nat :=
  let keys := (l.recs.map fun r => 2 * r.step + b2n r.late).eraseDups
  (keys.map fun k => packExtents ((l.recs.filter fun r => 2 * r.step + b2n r.late = k).map (·.len))).foldl (· + ·) 0

def LedgerUnit.bytes (u : LedgerUnit) : Nat := (u.ledgers.map fun l => l.extents * extentBytes).foldl (· + ·) 0

/-- LDG_OCC shows the bytes in use. -/
def Aggregator.showOcc (a : Aggregator) : Aggregator := a.set LDG_OCC_BYTES a.led.bytes

/-- Size of the ledger region. -/
def Aggregator.ledgerSize (a : Aggregator) : Nat := a.regionSize 0x01

/-- Occupancy exceeds a percentage of the region. -/
def Aggregator.occAbove (a : Aggregator) (pct : Nat) : Bool := decide (pct * a.ledgerSize < a.led.bytes * 100)

/-! ### Ledgers -/

/-- The ledger of a job context: there is one for each job context, so that a job of both trays has two (R363). -/
def Aggregator.ledger (a : Aggregator) (job gen home : Nat) : Option Ledger :=
  a.led.ledgers.find? fun l => decide (l.job = job ∧ l.gen = gen ∧ l.home = home)

def Aggregator.modLedger (a : Aggregator) (job gen home : Nat) (f : Ledger → Ledger) : Aggregator :=
  a.modLed fun u => { u with ledgers := u.ledgers.map fun l => if l.job = job ∧ l.gen = gen ∧ l.home = home then f l else l }

/-- The home of the ledger that a command or a message means by a job alone: the own one where there is one. -/
def Aggregator.ledgerHome (a : Aggregator) (job gen : Nat) : Nat :=
  if (a.ledger job gen a.id).isSome then a.id else a.partner

/-- The home of the ledger that a record of a die unit goes to. -/
def Aggregator.homeFor (a : Aggregator) (job gen duid : Nat) : Nat :=
  if duid ≠ noDuid ∧ (a.ledger job gen (a.homeOfDie duid)).isSome then a.homeOfDie duid else a.ledgerHome job gen

/-- A ledger is opened for a job (R363). -/
def Aggregator.openLedger (a : Aggregator) (job gen home : Nat) : Aggregator :=
  if (a.ledger job gen home).isSome then a
  else a.modLed fun u => { u with ledgers := u.ledgers ++ [⟨job, gen, home, [], [], [], 0, []⟩] }

def Ledger.stepState (l : Ledger) (s : Nat) : StepState := (tabGet l.steps s).getD StepState.init
def Ledger.modStep (l : Ledger) (s : Nat) (f : StepState → StepState) : Ledger :=
  { l with steps := tabPut l.steps s (f (l.stepState s)) }
def Ledger.isSealed (l : Ledger) (s : Nat) : Bool := (l.stepState s).sealedNs.isSome

/-- Sealed steps whose records have not gone to storage: step and SEALED_NS. -/
def Ledger.unspilled (l : Ledger) : List (Nat × Nat) :=
  l.steps.filterMap fun e => match e.2.sealedNs with
    | some t => if e.2.spilled then none else some (e.1, t)
    | none => none

/-- The unspilled sealed step with the least SEALED_NS of every ledger that satisfies a test: job, generation, home, step. -/
def LedgerUnit.oldest (u : LedgerUnit) (p : Ledger → Nat → Bool) : Option (Nat × Nat × Nat × Nat) :=
  let all := u.ledgers.flatMap fun l => (l.unspilled.filter fun e => p l e.1).map fun e => (e.2, l.job, l.gen, l.home, e.1)
  (all.foldl (fun (b : Option (Nat × Nat × Nat × Nat × Nat)) x =>
    match b with
    | none => some x
    | some y => if x.1 < y.1 then some x else some y) none).map (·.2)

/-- Fingerprints, lineage and parcels, which a full ledger refuses or discards (R376). -/
def droppable (kind : Nat) : Bool := decide (kind = lkFpRun) || decide (kind = lkLineage) || decide (kind = lkParcel)

/-- The droppable records of the oldest unspilled sealed step that has any are discarded (R376). -/
def Aggregator.dropOldest (a : Aggregator) : Aggregator :=
  match a.led.oldest fun l s => l.recs.any fun r => decide (r.step = s) && droppable r.kind with
  | none => a
  | some (job, gen, home, s) =>
    (a.modLedger job gen home fun l =>
      { l with recs := l.recs.filter fun r => !(decide (r.step = s) && droppable r.kind) }.modStep s fun x =>
        { x with dropped := true }).raise LDG_STATUS_STEP_DROPPED

/-- Room is made for a record: at most `n` steps are dropped. -/
def Aggregator.makeRoom (a : Aggregator) (job gen home : Nat) (r : LRec) : Nat → Aggregator
  | 0 => a
  | n + 1 =>
    let after := (a.modLedger job gen home fun l => { l with recs := l.recs ++ [r] }).led.bytes
    if after ≤ a.ledgerSize then a else a.dropOldest.makeRoom job gen home r n

/-! ### The mirror (R377, R378, Tables 13-6, 13-7) -/

abbrev mkLedger : Nat := 0x01
abbrev mkContext : Nat := 0x02
abbrev mkImage : Nat := 0x03
abbrev mkAck : Nat := 0x04
abbrev mkSpilled : Nat := 0x05
abbrev mkResyncReq : Nat := 0x06
abbrev mkResyncBegin : Nat := 0x07
abbrev mkResyncEnd : Nat := 0x08
abbrev mkHealth : Nat := 0x09

/-- A frame header of this aggregator (Table 7-1). -/
def Aggregator.header (a : Aggregator) (ftype job gen fseq : Nat) : List Byte :=
  frameHeader ftype 0 0 (srcAgg a.id) 0 gen job fseq a.mark

/-- A MIRROR frame to the partner. -/
def Aggregator.mirrorFrame (a : Aggregator) (kind mseq : Nat) (resend : Bool) (payload : List Byte) : Aggregator :=
  a.sendFrame laneMirror a.partner
    (a.header ftMirror 0 0 0 ++ beBytes 1 kind ++ beBytes 1 (b2n resend) ++ zeros 2 ++ beBytes 4 (a.get MIR_STATUS_SESSION)
      ++ beBytes 8 mseq ++ beBytes 8 a.led.mir.rxSeq ++ beBytes 4 payload.length ++ zeros 4 ++ payload)

/-- The mirror log of 4 GiB: a message that finds no room displaces the oldest ones (R378). -/
def trimLog (l : List MirrorMsg) : List MirrorMsg :=
  let total := (l.map fun m => m.payload.length).foldl (· + ·) 0
  (l.foldl (fun (c : Nat × List MirrorMsg) m =>
    if 2 ^ 32 < c.1 then (c.1 - m.payload.length, c.2) else (c.1, c.2 ++ [m])) (total, [])).2

/-- Mirroring runs: a partner is configured, the check of R23 did not fail, and it is enabled; once a session has been. -/
def Aggregator.mirroringRuns (a : Aggregator) : Bool :=
  a.hasPartner && a.on MIR_CTRL_EN && !a.led.mir.mismatch && decide (0 < a.get MIR_STATUS_SESSION)

/-- A message is numbered and kept until it is acknowledged; it is sent while the link is up. -/
def Aggregator.mirrorSend (a : Aggregator) (kind : Nat) (payload : List Byte) : Aggregator :=
  if ¬ a.mirroringRuns then a
  else
    let n := a.led.mir.txSeq + 1
    let a1 := a.modMir fun m => { m with txSeq := n, log := trimLog (m.log ++ [⟨n, kind, payload, a.mono⟩]) }
    if a.led.mir.up then a1.mirrorFrame kind n false payload else a1

/-- A LEDGER message of whole records. -/
def ledgerPayload (job gen : Nat) (rs : List LRec) : List Byte :=
  beBytes 4 job ++ beBytes 1 gen ++ zeros 3 ++ rs.flatMap LRec.bytes

/-! ### Append (R364, R365, R370, R376) -/

/-- The record of the next append of this aggregator. -/
def Aggregator.newRec (a : Aggregator) (l : Ledger) (kind flags step duid : Nat) (body : List Byte) : LRec :=
  let trunc := match a.jobAt l.job l.gen l.home with | some (_, j) => j.truncated | none => false
  let fl := flags ||| (if l.home ≠ a.id then 2 else 0) ||| (if trunc then 8 else 0)
  ⟨kind, fl, step, duid, a.id, storeGet 0 l.counts a.id, body⟩

/-- A record goes into the ledger as it is, its author's count advances, and it is mirrored. -/
def Aggregator.putRec (a : Aggregator) (job gen home : Nat) (r : LRec) : Aggregator :=
  let a1 := a.modLedger job gen home fun l =>
    { l with recs := l.recs ++ [r], counts := storeSet 0 l.counts r.author (max (storeGet 0 l.counts r.author) (r.seq + 1)),
             maps := if r.kind = lkFpMap then l.maps ++ [r] else l.maps }
  a1.showOcc.mirrorSend mkLedger (ledgerPayload job gen [r])

/-- A record is refused and counted, and its step is marked (R376). -/
def Aggregator.refuseRec (a : Aggregator) (job gen home kind step : Nat) : Aggregator :=
  ((a.modLedger job gen home fun l => l.modStep step fun s =>
    { s with fpRefused := s.fpRefused || decide (kind = lkFpRun), linRefused := s.linRefused || decide (kind = lkLineage) }).inc
      LDG_CNT0_REFUSED_N).raise LDG_STATUS_REFUSED

/-- A record is appended to a job's ledger: refused where the region is too full, late where its step is sealed. `main` is
an append of the seal itself. Nothing is appended while the ledger is not enabled, or for a job that has none. -/
def Aggregator.appendRec (a : Aggregator) (job gen kind flags step duid : Nat) (body : List Byte) (main : Bool := false)
    (home : Nat := a.homeFor job gen duid) : Aggregator :=
  match a.ledger job gen home with
  | none => a
  | some l =>
    if ¬ a.on LDG_CTRL_EN then a
    else if droppable kind ∧ a.occAbove (a.get LDG_CTRL_FULL_HI) then a.refuseRec job gen home kind step
    else
      let late := l.isSealed step && !main
      let r := a.newRec l kind (flags ||| b2n late) step duid body
      let a1 := if late then (a.inc LDG_CNT0_LATE_REC_N).raise LDG_STATUS_LATE else a
      (a1.makeRoom job gen home r (l.steps.length + 1)).putRec job gen home r

/-- One above the greatest step of a die unit's coverage records, 0 before the first (R365). -/
def JobCtx.dieStep (j : JobCtx) (duid : Nat) : Nat := match tabGet j.dies duid with | some d => d.dieStep | none => 0

/-- A record without a step of its own: its filing step is its die unit's die step (R365). -/
def Aggregator.appendFiled (a : Aggregator) (j : JobCtx) (kind flags duid : Nat) (body : List Byte) : Aggregator :=
  a.appendRec j.job j.gen kind (flags ||| 4) (j.dieStep duid) duid body

end Sys2Proof.Machine
end

