-- ==== Sys2Proof/Machine/CtlTx.lean ====
section
/-!
DEFINITION. Frame checks of the aggregator (R267), registration at the aggregator, keepalives, and control frames to die
units with their resends (R258 to R266), and the CONTEXT messages to the mirror partner (R377).
-/
namespace Sys2Proof.Machine

/-! ### CONTEXT messages (R377, Table 13-7) -/

abbrev ckJob : Nat := 1
abbrev ckReg : Nat := 2
abbrev ckStream : Nat := 3
abbrev ckMeter : Nat := 4
abbrev ckNumerics : Nat := 5

/-- An object is sent to the partner whole, with its next version. -/
def Aggregator.mirrorContext (a : Aggregator) (kind index : Nat) (image : List Byte) : Aggregator :=
  let k := kind * 2 ^ 32 + index
  let v := storeGet 0 a.led.mir.versions k + 1
  (a.modMir fun m => { m with versions := storeSet 0 m.versions k v }).mirrorSend mkContext
    (beBytes 1 kind ++ zeros 3 ++ beBytes 4 index ++ beBytes 4 v ++ zeros 4 ++ image)

def Aggregator.wordsAt (a : Aggregator) (keys : List Nat) : List Byte := keys.flatMap fun k => beBytes 8 (a.word k).toNat

/-- A registration entry takes the penalty of its die unit with it (R425). -/
def Aggregator.mirrorReg (a : Aggregator) (l : Nat) : Aggregator :=
  a.mirrorContext ckReg l (a.wordsAt [addr_REG_ENT l, addr_HU_STAT l])

/-- A job context is sent at every change (log 42). -/
def Aggregator.mirrorJob (a : Aggregator) (c : Nat) : Aggregator :=
  let (n, a1) := a.draw
  a1.mirrorContext ckJob c (Config.jobImage n)

/-! ### Registrations -/

/-- Registration entry of a DUID: own l, mirror 256 + l; none for a third tray. -/
def Aggregator.regKey (a : Aggregator) (duid : Nat) : Option Nat :=
  if duid / 256 = a.id then some (duid % 256)
  else if a.hasPartner ∧ duid / 256 = a.partner then some (256 + duid % 256)
  else none

/-- DUID of a registration entry. -/
def Aggregator.duidOf (a : Aggregator) (k : Nat) : Nat := if k < 256 then a.id * 256 + k else a.partner * 256 + (k - 256)

/-- The die unit of an entry is served here: as home, or in failover (Table 10-22). -/
def Aggregator.servesKey (a : Aggregator) (k : Nat) : Bool :=
  decide (k < 512) && a.on (REG_ENT_VALID k) && decide (a.get (REG_ENT_STATE k) = if k < 256 then 1 else 2)

def Aggregator.serves (a : Aggregator) (duid : Nat) : Bool :=
  match a.regKey duid with
  | some k => a.servesKey k
  | none => false

/-- Some of the partner's die units are served here. -/
def Aggregator.inFailover (a : Aggregator) : Bool := (List.range 256).any fun l => a.servesKey (256 + l)

/-- Die units that it serves, by registration entry. -/
def Aggregator.servedKeys (a : Aggregator) : List Nat := (List.range 512).filter a.servesKey

/-- The pair is protected: a partner, a link, and both RESYNC-ENDs applied (R24, R380). -/
def Aggregator.isProtected (a : Aggregator) : Bool := decide (a.get MIR_STATUS_STATE = 2)

/-- Some core is mapped out (R414). -/
def Aggregator.degraded (a : Aggregator) : Bool := (List.range 64).any fun c => decide (a.adState c = adMapped)

/-- STATE of BEACON and KEEPALIVE (Table 8-11, R411, R414). -/
def Aggregator.beaconState (a : Aggregator) : Nat :=
  let m := b2n a.degraded + 2 * b2n (!a.isProtected) + 4 * b2n a.inFailover
  if a.hlt.loop then 2
  else if m ≤ 2 then m
  else if m = 4 then 3
  else (Config.beaconState m).toNat

/-! ### Frame checks (R267) -/

/-- The body is complete and well formed (R184, Tables 7-3, 10-1, 10-4, 10-11, 10-14, 10-16, 13-6). -/
def bodyOk (l : List Byte) : Bool :=
  let b := l.drop 32
  match be l 1 1 with
  | 0x01 => decide (1 ≤ be l 3 1) && (readFrags (be l 3 1) b).isSome
  | 0x03 => decide (16 + be b 8 2 ≤ b.length) && decide (16 ≤ b.length)
  | 0x04 => decide (40 ≤ b.length)
  | 0x10 => decide (32 + be b 24 2 ≤ b.length) && decide (32 ≤ b.length)
  | 0x11 => decide (32 + be b 16 2 ≤ b.length) && decide (32 ≤ b.length)
  | 0x12 => decide ((if be b 0 1 = 1 then 544 else 32) ≤ b.length)
  | 0x20 => decide (32 + be b 24 4 ≤ b.length) && decide (32 ≤ b.length)
  | _ => false

/-- Frame types that an aggregator receives on a lane of each kind. -/
def ftypeOn (lane ftype : Nat) : Bool :=
  if lane = laneIngest then decide (ftype = 1 ∨ ftype = 3 ∨ ftype = 4)
  else if lane = laneTree then decide (0x10 ≤ ftype ∧ ftype ≤ 0x12)
  else decide (ftype = ftMirror)

/-- The neighbours that a tree part names. -/
def TreePart.peers (t : TreePart) : List Nat :=
  (if t.level = 0 then [] else [t.parent, t.backup]) ++ t.children ++ t.bchildren

/-- The aggregators with which a job's tree is shared: its members, and the neighbours of every tree part held, a released one
too, whose frames are stale and not unknown (R282, R288). -/
def JobCtx.peers (j : JobCtx) : List Nat :=
  j.tree.members ++ j.tree.peers ++ j.reparent.flatMap fun e => e.2.members ++ e.2.peers

/-- SRC is one of check 4. -/
def Aggregator.knownSource (a : Aggregator) (src : Nat) : Bool :=
  if src < 2 ^ 31 then a.serves (duidOfSrc src)
  else
    let g := src % 4096
    (a.hasPartner && decide (g = a.partner)) || a.jobs.any fun e => e.2.peers.contains g

/-- The four checks in order; the first that fails discards the frame and counts it. -/
def Aggregator.frameCheck (a : Aggregator) (lane : Nat) (l : List Byte) : Bool × Aggregator :=
  if be l 0 1 ≠ 0x20 then (false, (a.inc ING_CNT0_UNKNOWN_VER_N).raise ING_STATUS_UNKNOWN_VER)
  else if ¬ ftypeOn lane (be l 1 1) then (false, a.inc ING_CNT0_BAD_FTYPE_N)
  else if ¬ bodyOk l then (false, (a.inc ING_CNT1_MALFORMED_N).raise ING_STATUS_MALFORMED)
  else if be l 1 1 = ftRegister then (true, a)
  else if ¬ a.knownSource (be l 4 4) then (false, a.inc ING_CNT1_UNREG_N)
  else (true, a)

/-! ### Control frames (R261, R265) -/

def Aggregator.path (a : Aggregator) (k : Nat) : CtlPath := (tabGet a.ing.ctl k).getD CtlPath.init
def Aggregator.setPath (a : Aggregator) (k : Nat) (p : CtlPath) : Aggregator :=
  a.modIng fun i => { i with ctl := tabPut i.ctl k p }

/-- The job and generation that the job contexts hold as armed on a die unit: what a path to it starts from where the die unit
was another aggregator's so far. -/
def Aggregator.armedOn (a : Aggregator) (duid : Nat) : Option (Nat × Nat) :=
  (a.jobs.find? fun e => decide (e.2.state = .armed ∨ e.2.state = .retiring) && e.2.dieUnits.contains duid
    && !e.2.failed.contains duid).map fun e => (e.2.job, e.2.gen)

/-- One control frame goes out, under the job armed on the die unit, or zero (R261). -/
def Aggregator.sendCtl (a : Aggregator) (k : Nat) (f : CtlOutFrame) (resend : Bool) : Aggregator :=
  let (job, gen) := (a.path k).armed.getD (0, 0)
  a.sendFrame laneIngest (a.get (REG_ENT_MAC k))
    (a.header ftControl job gen 0 ++ beBytes 1 f.op ++ beBytes 1 (b2n resend) ++ beBytes 2 f.gtag ++ beBytes 4 f.cseq
      ++ beBytes 2 f.payload.length ++ zeros 6 ++ f.payload)

/-- Waiting frames are numbered and sent while fewer than 4 are unacknowledged; none to a path that is stopped. -/
def Aggregator.pumpCtl (a : Aggregator) (k : Nat) : Nat → Aggregator
  | 0 => a
  | n + 1 =>
    let p := a.path k
    match p.waiting with
    | [] => a
    | w :: ws =>
      -- a die unit is armed only after it has acknowledged RETIRE (R288)
      if p.stopped ∨ 4 ≤ p.out.length ∨ ¬ a.on (REG_ENT_VALID k) ∨ (w.op = opArm ∧ p.out.any fun f => f.op = opRetire) then a
      else
        let cseq := (p.cseq + 1) % 2 ^ 32
        let f : CtlOutFrame := ⟨cseq, w.op, w.gtag, w.payload, 1, a.mono, w.cmd⟩
        ((a.setPath k { p with cseq := cseq, out := p.out ++ [f], waiting := ws }).sendCtl k f false).pumpCtl k n

/-- A control frame for a die unit. -/
def Aggregator.control (a : Aggregator) (k op : Nat) (payload : List Byte) (gtag : Nat := 0) (cmd : Option Nat := none) :
    Aggregator :=
  let p := a.path k
  (a.setPath k { p with waiting := p.waiting ++ [⟨op, gtag, payload, cmd⟩] }).pumpCtl k (p.waiting.length + 1)

/-- A REG-WRITE of die-unit registers, at most 32 in a frame (Table 10-3). -/
def Aggregator.regWrite (a : Aggregator) (k : Nat) (ws : List (Nat × W64)) (gtag : Nat := 0) (cmd : Option Nat := none) :
    Aggregator :=
  (List.range ((ws.length + 31) / 32)).foldl (fun (a : Aggregator) i =>
    let c := slice ws (32 * i) 32
    a.control k 0x0A (beBytes 1 c.length ++ zeros 7 ++ c.flatMap fun w => beBytes 2 w.1 ++ zeros 6 ++ beBytes 8 w.2.toNat) gtag
      cmd) a

/-- CTL_RETRY in ns. -/
def Aggregator.ctlRetryNs (a : Aggregator) : Nat := max 1 (a.get ING_CTRL_CTL_RETRY) * 10000

/-- A die unit can be armed: nothing is armed on it, or its RETIRE is under way (R288). -/
def Aggregator.canArm (a : Aggregator) (k : Nat) : Bool :=
  let p := a.path k
  p.armed.isNone || p.out.any (fun f => f.op = opRetire) || p.waiting.any fun w => w.op = opRetire

/-- Control frames of a command, told by its serial number and its tag, are sent no more, for the first time or again (R419,
R418, R440). -/
def Aggregator.dropFrames (a : Aggregator) (hit : Nat → Nat → Bool) : Aggregator :=
  let out (c : Option Nat) (g : Nat) : Bool := match c with | some n => hit n g | none => false
  a.ing.ctl.foldl (fun (a : Aggregator) e =>
    let p := a.path e.1
    (a.setPath e.1 { p with out := p.out.filter (fun f => !out f.cmd f.gtag),
                            waiting := p.waiting.filter fun w => !out w.cmd w.gtag }).pumpCtl e.1 4) a

/-- What a resend of a control frame does. -/
inductive CtlTry where
  /-- not due, or no such frame -/
  | none
  | resent
  /-- every attempt is spent -/
  | unacked (f : CtlOutFrame)
  deriving DecidableEq, Repr

/-- CTL_RETRY of one frame (R265): the path's part of it. -/
def Aggregator.retryCtl (a : Aggregator) (k cseq : Nat) : CtlTry × Aggregator :=
  let p := a.path k
  match p.out.find? fun f => f.cseq = cseq with
  | none => (.none, a)
  | some f =>
    if a.mono < f.lastSent + a.ctlRetryNs ∨ (p.stopped ∧ p.probe ≠ some cseq) then (.none, a)
    else
      let rest := p.out.filter fun x => x.cseq ≠ cseq
      if max 1 (a.get ING_CTRL_CTL_TRIES) ≤ f.tries then
        (.unacked f, (a.setPath k { p with out := rest, stopped := true, probe := Option.none }).inc ING_CNT5_CTL_UNACKED_N)
      else
        let f1 : CtlOutFrame := { f with tries := f.tries + 1, lastSent := a.mono }
        (.resent, (a.setPath k { p with out := p.out.map fun x => if x.cseq = cseq then f1 else x }).sendCtl k f1 true)

/-- The job armed on a die unit after it has acknowledged a frame (Tables 10-3, 10-4). -/
def CtlOutFrame.armedAfter (f : CtlOutFrame) (status : Nat) (was : Option (Nat × Nat)) : Option (Nat × Nat) :=
  if f.op = opArm ∧ status = ackOk then some (be f.payload 0 4, be f.payload 4 1)
  else if f.op = opRetire ∧ (status = ackOk ∨ status = ackNotArmed) then none
  else was

/-- An acknowledgement removes its frame from the path; the one of the probe lets the path go on (R265). -/
def Aggregator.ackCtl (a : Aggregator) (k cseq status : Nat) : Option CtlOutFrame × Aggregator :=
  let p := a.path k
  match p.out.find? fun f => f.cseq = cseq with
  | none => (none, a)
  | some f =>
    let probed := decide (p.probe = some cseq)
    let p1 : CtlPath := { p with out := p.out.filter fun x => x.cseq ≠ cseq, stopped := p.stopped && !probed,
                                 probe := if probed then none else p.probe, armed := f.armedAfter status p.armed }
    (some f, (a.setPath k p1).pumpCtl k 4)

/-- Arm Job has completed, early or not: the context is ARMED, without the die units that did not acknowledge ARM (R287, R437;
log 134). -/
def Aggregator.armComplete (a : Aggregator) (ctx : Nat) : Aggregator :=
  match a.job ctx with
  | none => a
  | some j =>
    if j.state ≠ .arming then a
    else
      let good (d : Nat) : Bool := match a.regKey d with
        | some k => decide ((a.path k).armed = some (j.job, j.gen))
        | none => false
      let near := j.tree.peers ++ if j.tree.level = 0 ∧ a.hasPartner then [a.partner] else []
      -- the tree lanes are configured: SERDES_B wakes
      ((a.wakeDomain 74).modJob ctx fun j =>
        { j with state := .armed, treeHeld := true, hbSent := a.mono,
                 heard := near.foldl (fun m p => tabPut m p a.mono) [],
                 failed := j.failed ++ j.dieUnits.filter fun d => !j.failed.contains d && !good d }).mirrorJob ctx

/-! ### Keepalives (R266) -/

/-- KEEPALIVE_TX: every 1 ms to a die unit served; a stopped path is tested by a REG-READ of TC_STATUS (R265). -/
def Aggregator.keepalive (a : Aggregator) (k : Nat) : Aggregator :=
  let p := a.path k
  if ¬ a.servesKey k ∨ a.mono < p.lastKeep + 1000000 ∨ a.hlt.loop then a
  else
    let a1 := a.sendFrame laneIngest (a.get (REG_ENT_MAC k))
      (a.header ftKeepalive 0 0 0 ++ beBytes 2 a.id ++ beBytes 1 a.beaconState ++ zeros 1 ++ a.mark ++ zeros 2)
    let p1 : CtlPath := { p with lastKeep := a.mono }
    if p.stopped ∧ p.probe.isNone then
      let cseq := (p.cseq + 1) % 2 ^ 32
      let f : CtlOutFrame := ⟨cseq, 0x0B, 0, beBytes 1 1 ++ zeros 7 ++ beBytes 2 addr_TC_STATUS ++ zeros 6, 1, a.mono, none⟩
      (a1.setPath k { p1 with cseq := cseq, out := p1.out ++ [f], probe := some cseq }).sendCtl k f false
    else a1.setPath k p1

/-! ### Registration at the aggregator (R259, R260, Table 10-1) -/

abbrev refPosition : Nat := 1
abbrev refInUse : Nat := 2
abbrev refNotPartner : Nat := 3

/-- An answer to a REGISTER frame; `body` is the request's. -/
def Aggregator.regAnswer (a : Aggregator) (mac : Nat) (body : List Byte) (kind result : Nat) (x : RegAccept) : Aggregator :=
  a.sendFrame laneIngest mac
    (a.header ftRegister 0 0 0 ++ registerBody kind result (be body 2 1) (be body 3 1) (be body 4 4) (be body 8 6)
      (be body 14 2) x)

def Aggregator.refuseReg (a : Aggregator) (mac : Nat) (body : List Byte) (result : Nat) : Aggregator :=
  ((a.inc ING_CNT5_REG_REFUSED_N).raise ING_STATUS_REG_REFUSED).regAnswer mac body regRefuse result ⟨0, 0, 0, 0, 0⟩

def Aggregator.acceptReg (a : Aggregator) (mac : Nat) (body : List Byte) (duid : Nat) : Aggregator :=
  let prot := a.isProtected
  a.regAnswer mac body regAccept 0 ⟨duid, (Config.tocsinNode (duid % 256)).toNat, a.cfg.mac, if prot then a.partner else 0xFFFF,
    if prot then a.cfg.partnerMac else 0⟩

/-- The stream contexts of a die unit start anew: no parcel in progress, every count and expected number 0. -/
def Aggregator.freshStreams (a : Aggregator) (l : Nat) : Aggregator :=
  (List.range 64).foldl (fun (a : Aggregator) s =>
    (a.modIng fun i => { i with streams := tabDel i.streams (64 * l + s) }).setWord (addr_STC_STAT (64 * l + s)) 0) a

/-- A registration entry holds a die unit, whose control sequence starts anew. -/
def Aggregator.setReg (a : Aggregator) (k state mac : Nat) : Aggregator :=
  let a1 := ((a.set (REG_ENT_VALID k) 1).set (REG_ENT_STATE k) state).set (REG_ENT_MAC k) mac
  (a1.setPath k { CtlPath.init with armed := if state = 2 then a.armedOn (a.duidOf k) else none }).mirrorReg k

/-- The aggregator answers REGISTER frames. -/
def Aggregator.answers (a : Aggregator) : Bool := a.on ING_CTRL_EN && !a.hlt.loop

/-- REGISTER_REQUEST_RX: a frame with the MAC address it came from (R259). ACCEPT goes out, then the PRIV fields of the
configuration (R68, R219, R475). -/
def Aggregator.registerRequestRx (a : Aggregator) (mac : Nat) (l : List Byte) : Aggregator :=
  if ¬ a.answers then a
  else
    let (ok, a1) := a.frameCheck laneIngest l
    let b := l.drop 32
    if ¬ ok ∨ be l 1 1 ≠ ftRegister ∨ be b 0 1 ≠ regRequest then a1
    else match a1.cfg.tray.find? fun t => decide (t.port = be b 14 2 ∧ t.pos = be b 3 1) with
      | none => a1.refuseReg mac b refPosition
      | some t =>
        if a1.on (REG_ENT_VALID t.loc) ∧ a1.get (REG_ENT_MAC t.loc) ≠ mac then a1.refuseReg mac b refInUse
        else (((a1.setReg t.loc 1 mac).freshStreams t.loc).acceptReg mac b (a1.id * 256 + t.loc)).regWrite t.loc a1.cfg.duRegs

/-- Steps of a ledger that are not sealed: those of its records, and those that the die units of its job are in. -/
def Aggregator.openSteps (a : Aggregator) (l : Ledger) : List Nat :=
  let running : List Nat := match a.jobAt l.job l.gen l.home with
    | some (_, j) => j.dies.map fun e => e.2.dieStep
    | none => []
  ((l.steps.map (·.1) ++ l.recs.map (·.step) ++ running).eraseDups).filter fun s => !l.isSealed s

/-- The home aggregator is lost while its die units are served here: its steps not sealed in this copy have a mirror gap
(R379). -/
def Aggregator.takeover (a : Aggregator) : Aggregator :=
  if a.led.mir.up then a
  else a.modLed fun u =>
    { u with ledgers := u.ledgers.map fun l =>
        if l.home ≠ a.partner then l
        else (a.openSteps l).foldl (fun (l : Ledger) s => l.modStep s fun x => { x with mirrorGap := true }) l }

/-- FAILOVER_REQUEST_RX (R260): accepted from the mirror entry that holds the sender's MAC address. -/
def Aggregator.failoverRequestRx (a : Aggregator) (mac : Nat) (l : List Byte) : Aggregator :=
  if ¬ a.answers then a
  else
    let (ok, a1) := a.frameCheck laneIngest l
    let b := l.drop 32
    if ¬ ok ∨ be l 1 1 ≠ ftRegister ∨ be b 0 1 ≠ regFailover then a1
    else match firstBelow 256 fun i => a1.on (REG_ENT_VALID (256 + i)) && decide (a1.get (REG_ENT_MAC (256 + i)) = mac) with
      | none => a1.refuseReg mac b refNotPartner
      | some i =>
        if ¬ a1.mirroringRuns then a1.refuseReg mac b refNotPartner
        else
          let a2 := if a1.inFailover then a1 else a1.takeover
          -- a request repeated before its answer arrived changes nothing
          let a3 := if a2.servesKey (256 + i) then a2 else a2.setReg (256 + i) 2 mac
          a3.acceptReg mac b (a3.partner * 256 + i)

end Sys2Proof.Machine
end

