-- ==== Sys2Proof/Machine/AggHealth.lean ====
section
/-!
DEFINITION. The health pipeline of the aggregator: notices, charges, states, knells and the replacement budget, conditional
suspects, mismatches and advice (R395, R398 to R408, R423).
-/
namespace Sys2Proof.Machine

/-! ### Units (R425) -/

/-- Own die unit l is unit l, mirror die unit l is 256 + l, core c is 512 + c, the chip is 576: the index of HU_STAT. -/
abbrev coreUnit (c : Nat) : Nat := 512 + c
abbrev chipUnit : Nat := 576

/-- The unit of a die unit that this aggregator serves. -/
def Aggregator.dieUnitOf (a : Aggregator) (duid : Nat) : Nat := if duid / 256 = a.id then duid % 256 else 256 + duid % 256

/-- SUBJECT of a notice (Table 14-10). -/
def Aggregator.subject (a : Aggregator) (u : Nat) : Nat :=
  if u < 256 then a.id * 256 + u
  else if u < 512 then a.partner * 256 + (u - 256)
  else if u < 576 then 2 ^ 30 + (u - 512)
  else 2 ^ 31

/-- FRU index of a unit (R404); none for cores, the chip, and die units whose tray map is not held. -/
def Aggregator.fru (a : Aggregator) (u : Nat) : Nat :=
  if u < 256 then ((a.cfg.tray.find? fun t => t.loc = u).map (·.fru)).getD 0xFFFF else 0xFFFF

/-- The units of a unit's FRU. -/
def Aggregator.fruUnits (a : Aggregator) (u : Nat) : List Nat :=
  if a.fru u = 0xFFFF then [u] else (a.cfg.tray.filter fun t => t.fru = a.fru u).map (·.loc)

/-! ### Health codes raised by the aggregator (Table 14-1) -/

abbrev hcSramCorrected : Nat := 0x0080
abbrev hcMemUe : Nat := 0x0081
abbrev hcBridgeFatal : Nat := 0x0082
abbrev hcHbmCorrected : Nat := 0x0083
abbrev hcCoreWakeFail : Nat := 0x0084
abbrev hcEngineFault : Nat := 0x0085
abbrev hcXdeCharged : Nat := 0x0086
abbrev hcScanFail : Nat := 0x0087
abbrev hcAggWatchdog : Nat := 0x0088
abbrev hcResetLoop : Nat := 0x0089
abbrev hcDeviate : Nat := 0x00A0
abbrev hcNonconforming : Nat := 0x00A1
abbrev hcCapIncomplete : Nat := 0x00A2
abbrev hcSelShortfall : Nat := 0x00A3
abbrev hcStraggler : Nat := 0x00A4
abbrev hcCondSuspect : Nat := 0x00A5
abbrev hcDrift : Nat := 0x00A6
abbrev hcSpike : Nat := 0x00A7

/-! ### Unit states (Table 14-4) -/

abbrev huHealthy : Nat := 0
abbrev huWatch : Nat := 1
abbrev huSuspect : Nat := 2
abbrev huPending : Nat := 3
abbrev huRequested : Nat := 4
abbrev huAdvised : Nat := 5
abbrev huKnelled : Nat := 6
abbrev huDraining : Nat := 8
abbrev huScan : Nat := 9
abbrev huMapped : Nat := 0xA

/-! ### Notices (R423, Tables 14-10, 14-11) -/

/-- What a notice says beside its number and sender. -/
structure Notice where
  kind : Nat
  mandatory : Bool
  state : Nat
  cell : Nat
  subject : Nat
  fru : Nat
  score : Nat
  cause : Nat
  count : Nat
  t : Nat
  job : Nat
  gen : Nat
  step : Nat
  data : List Byte
  deriving DecidableEq, Repr

def Notice.bytes (n : Notice) (advisory failover : Bool) (nseq agg : Nat) : List Byte :=
  leBytes 1 n.kind ++ leBytes 1 (b2n advisory + 2 * b2n n.mandatory + 4 * b2n failover) ++ leBytes 1 n.state
    ++ leBytes 1 n.cell ++ leBytes 4 nseq ++ leBytes 4 n.subject ++ leBytes 2 agg ++ leBytes 2 n.fru ++ leBytes 2 n.score
    ++ leBytes 2 n.cause ++ leBytes 4 n.count ++ leBytes 8 n.t ++ leBytes 4 n.job ++ leBytes 1 n.gen ++ zeros 1
    ++ leBytes 6 n.step ++ leBytes 2 n.data.length ++ zeros 2 ++ n.data

/-- The subject is a die unit of the partner's tray. -/
def Aggregator.ofPartner (a : Aggregator) (subject : Nat) : Bool :=
  decide (subject < 2 ^ 20) && decide (subject / 256 ≠ a.id)

/-- A notice is numbered, kept among the newest 4,096, and sent as a management event; none while the pipeline is off. -/
def Aggregator.notice (a : Aggregator) (n : Notice) : Aggregator :=
  if ¬ a.on HLT_CTRL_EN then a
  else
    let b := n.bytes (a.on HLT_STATUS_ADVISORY) (a.ofPartner n.subject) (a.get HLT_CNT0_NOTICES_N) a.id
    let a1 := a.modHlt fun h => { h with notices := (h.notices ++ [b]).drop (h.notices.length + 1 - 4096) }
    let a2 := ((a1.incWrap HLT_CNT0_NOTICES_N).raise HLT_STATUS_NOTICE).event (.notice b)
    -- a co-located pair says so on every health report (Table 1-6)
    if a.led.mir.coLocated then a2.report "CO-LOCATED" [a.partner] else a2

def Aggregator.unitState (a : Aggregator) (u : Nat) : Nat := a.get (HU_STAT_STATE u)
def Aggregator.unitScore (a : Aggregator) (u : Nat) : Nat := a.get (HU_STAT_SCORE u)

/-- A notice about a unit, of the present moment and no job. -/
def Aggregator.unitNotice (a : Aggregator) (kind u cause count : Nat) (mandatory : Bool := false) : Aggregator :=
  a.notice ⟨kind, mandatory, a.unitState u, 0xFF, a.subject u, a.fru u, a.unitScore u, cause, count, a.nowNs, 0, 0, noStep, []⟩

/-! ### Scores and states (R401, R402) -/

/-- The score of a penalty. -/
def scoreOf (p : Nat) : Nat := 1000 - min 1000 (ceilDiv p 256)

/-- A unit's state changes, with a SCORE notice (R402). -/
def Aggregator.setState (a : Aggregator) (u st cause : Nat) : Aggregator :=
  let old := a.unitState u
  if old = st then a else (a.set (HU_STAT_STATE u) st).unitNotice 0x01 u cause old

/-- Every unit of a FRU takes a state. -/
def Aggregator.setFru (a : Aggregator) (u st cause : Nat) : Aggregator :=
  (a.fruUnits u).foldl (fun (a : Aggregator) x => a.setState x st cause) a

/-- The state a score gives, below the knell states; SUSPECT is left at SUSPECT_LEAVE. -/
def Aggregator.scoreState (a : Aggregator) (cur score : Nat) : Nat :=
  if score < a.get HLT_THRESH_SUSPECT_THR ∨ (cur = huSuspect ∧ score < a.get HLT_THRESH_SUSPECT_LEAVE) then huSuspect
  else if score < a.get HLT_THRESH_WATCH_THR then huWatch
  else huHealthy

/-! ### Knells (R404 to R406) -/

def Aggregator.showPending (a : Aggregator) : Aggregator := a.set HLT_STATUS_PENDING a.hlt.pending.length

/-- A FRU leaves the pending list. -/
def Aggregator.unpend (a : Aggregator) (u : Nat) : Aggregator :=
  let us := a.fruUnits u
  (a.modHlt fun h => { h with pending := h.pending.filter fun w => !us.contains w.unit_ }).showPending

/-- A KNELL-REQUEST is sent for a unit's FRU. -/
def Aggregator.knellRequest (a : Aggregator) (u cause : Nat) (mandatory : Bool) : Aggregator :=
  let a1 := a.unpend u
  let a2 := if mandatory then a1.inc HLT_CNT1_MANDATORY_N
    else (a1.inc HLT_CNT1_KNELL_N).set HLT_BUDGET_GRANT (a1.get HLT_BUDGET_GRANT - 1)
  let a3 := a2.setFru u huRequested cause
  (a3.unitNotice 0x03 u cause (a3.get HLT_BUDGET_GRANT) mandatory).raise HLT_STATUS_KNELL_REQ

/-- A FRU joins the pending list where it has a place. -/
def Aggregator.joinPending (a : Aggregator) (u cause : Nat) : Aggregator :=
  let us := a.fruUnits u
  let a1 := a.raise HLT_STATUS_KNELL_DEFERRED
  if 16 ≤ a.hlt.pending.length ∨ a.hlt.pending.any (fun w => us.contains w.unit_) then a1
  else (a1.modHlt fun h => { h with pending := h.pending ++ [⟨u, a.mono, cause⟩] }).showPending

/-- A FRU is KNELL-PENDING: its request goes out, it is advised, or it waits (R405, R406). -/
def Aggregator.tryKnell (a : Aggregator) (u cause : Nat) : Aggregator :=
  if a.on HLT_STATUS_ADVISORY then
    (a.unitNotice 0x04 u cause (a.get HLT_BUDGET_SPARES)).setFru u huAdvised cause
  else if 0 < a.get HLT_BUDGET_GRANT then a.knellRequest u cause false
  else a.joinPending u cause

/-- A knell, ordinary or mandatory (R404, R405): none for cores, nor for a FRU already requested or knelled. -/
def Aggregator.knell (a : Aggregator) (u cause : Nat) (mandatory : Bool) : Aggregator :=
  let st := a.unitState u
  if (512 ≤ u ∧ u < 576) ∨ st = huRequested ∨ st = huKnelled then a
  else if mandatory then
    ((a.modHlt fun h => { h with mandatory := h.mandatory ++ [u] }).setFru u huPending cause).knellRequest u cause true
  else if st = huPending ∨ st = huAdvised then a
  else (a.setFru u huPending cause).tryKnell u cause

/-- The next of the pending list: least score, then first entered. -/
def Aggregator.pendingHead (a : Aggregator) : Option KnellWait :=
  a.hlt.pending.foldl (fun (b : Option KnellWait) w =>
    match b with
    | none => some w
    | some x => if a.unitScore w.unit_ < a.unitScore x.unit_ then some w else some x) none

/-- A unit that stayed KNELL-PENDING outside the list joins it when it has a place (R405). -/
def Aggregator.fillPending (a : Aggregator) : Aggregator :=
  ((List.range 512) ++ [chipUnit]).foldl (fun (a : Aggregator) u =>
    if ¬ a.on HLT_STATUS_ADVISORY ∧ a.unitState u = huPending ∧ a.hlt.pending.length < 16
        ∧ ¬ a.hlt.pending.any (fun w => (a.fruUnits u).contains w.unit_) then
      a.joinPending u (a.get (HU_STAT_LAST_CAUSE u))
    else a) a

/-- Pending requests go out from the head while GRANT stands. -/
def Aggregator.sendPending (a : Aggregator) : Nat → Aggregator
  | 0 => a
  | n + 1 =>
    if a.on HLT_STATUS_ADVISORY ∨ a.get HLT_BUDGET_GRANT = 0 then a
    else match a.pendingHead with
      | some w => ((a.knellRequest w.unit_ w.cause false).fillPending).sendPending n
      | none => a

/-- A FRU that waits for its knell is withdrawn: each of its units takes the state of its score, and its place in the list is
another's (R406). -/
def Aggregator.withdrawKnell (a : Aggregator) (u cause : Nat) : Aggregator :=
  let a1 := (a.unitNotice 0x05 u cause 0).unpend u
  ((a.fruUnits u).foldl (fun (a : Aggregator) x => a.setState x (a.scoreState huHealthy (a.unitScore x)) cause) a1).fillPending

/-- The state of a unit is evaluated after a charge, a decay or a threshold write (R402, R406). -/
def Aggregator.evaluate (a : Aggregator) (u cause : Nat) : Aggregator :=
  let score := scoreOf (a.get (HU_STAT_PENALTY u))
  let a1 := a.set (HU_STAT_SCORE u) score
  let st := a1.unitState u
  if st = huRequested ∨ st = huKnelled ∨ huDraining ≤ st then a1
  else if st = huPending ∨ st = huAdvised then
    if (a1.fruUnits u).all fun x => decide (a1.get HLT_THRESH_SUSPECT_LEAVE ≤ a1.unitScore x) && !a1.hlt.mandatory.contains x then
      a1.withdrawKnell u cause
    else a1
  else if score < a1.get HLT_THRESH_KNELL_THR ∧ (u < 512 ∨ u = chipUnit) then a1.knell u cause false
  else a1.setState u (a1.scoreState st score) cause

/-- Every unit is evaluated. -/
def Aggregator.evaluateAll (a : Aggregator) : Aggregator :=
  (List.range 577).foldl (fun (a : Aggregator) u => a.evaluate u (a.get (HU_STAT_LAST_CAUSE u))) a

/-! ### Charges (R399 to R401, Table 14-3) -/

/-- What a charge is about: when it happened, and the job it names. -/
structure Cause where
  t : Nat
  job : Nat
  gen : Nat
  step : Nat
  deriving DecidableEq, Repr

/-- An event of the aggregator's own that names no job. -/
def Aggregator.here (a : Aggregator) : Cause := ⟨a.nowNs, 0, 0, noStep⟩

/-- The EVENT body of a charge (R400, Table 12-11). -/
def Aggregator.chargeEvent (a : Aggregator) (u code : Nat) (c : Cause) : List Byte :=
  leBytes 4 c.job ++ leBytes 1 c.gen ++ leBytes 1 (Config.chargeKind code).toNat ++ leBytes 1 0xFF ++ zeros 1 ++ leBytes 8 c.t
    ++ leBytes 4 (if u < 512 then a.subject u else noDuid) ++ leBytes 1 0xFF ++ leBytes 1 0xFF ++ zeros 42

/-- A record of a job's ledger whose body names no step, filed by its die unit's die step (R365; log 33). -/
def Aggregator.appendEvent (a : Aggregator) (job gen duid : Nat) (body : List Byte) : Aggregator :=
  match a.jobAt job gen (a.homeFor job gen duid) with
  | some (_, j) => a.appendFiled j lkEvent 0 duid body
  | none => a.appendRec job gen lkEvent 4 0 duid body

/-- A charge of `points` to a unit: the penalty grows, the recorder and the job's ledger note it, the state follows. -/
def Aggregator.charge (a : Aggregator) (u code points : Nat) (c : Cause) : Aggregator :=
  if ¬ a.on HLT_CTRL_EN then a
  else
    let a1 := ((a.inc (HU_STAT_PENALTY u) (256 * points)).set (HU_STAT_LAST_CAUSE u) code).incWrap HLT_CNT0_CHARGES_N
    let a2 := a1.recordLimited rcHealth code (leBytes 2 code ++ leBytes 4 (a1.subject u))
    let a3 := if c.job ≠ 0 then a2.appendEvent c.job c.gen (if u < 512 then a2.subject u else noDuid)
        (a2.chargeEvent u code c) else a2
    let a4 := a3.evaluate u code
    if u < 512 ∧ a4.on (REG_ENT_VALID u) then a4.mirrorReg u else a4

/-- LASTING_WIN in ns. -/
def Aggregator.lastingWin (a : Aggregator) : Nat := max 1 (a.get HLT_CTRL_LASTING_WIN) * 3600000000000

/-- Faults of a unit, part and code of at least a severity within the lasting window. -/
def Aggregator.faultsIn (a : Aggregator) (u part code sev : Nat) : Nat :=
  (a.hlt.faults.filter fun f => decide (f.unit_ = u ∧ f.part_ = part ∧ f.code = code ∧ sev ≤ f.sev)
    && decide (a.mono < f.at_ + a.lastingWin)).length

/-- A fault is remembered for as long as the window can see it. -/
def Aggregator.noteFault (a : Aggregator) (u part code sev : Nat) : Aggregator :=
  a.modHlt fun h =>
    { h with faults := (h.faults.filter fun f => decide (a.mono < f.at_ + a.lastingWin)) ++ [⟨u, part, code, sev, a.mono⟩] }

/-- Penalty of a host-die or die-unit code (Table 14-1). -/
def hostPenalty (code sev : Nat) : Nat :=
  match code with
  | 0x0001 => 30
  | 0x0002 => 5
  | 0x0003 => 0
  | 0x0004 => 1
  | 0x0006 => 1
  | 0x0009 => 250
  | 0x0040 => 20
  | 0x0041 => 20
  | 0x0042 => 1
  | _ => if sev = 0 then 1 else if sev = 1 then 20 else 250

/-- One host-die report is charged, with what Table 14-3 says of repeats. -/
def Aggregator.chargeReport (a : Aggregator) (u part code sev : Nat) (c : Cause) : Aggregator :=
  let base := hostPenalty code sev
  let prior := a.faultsIn u part code sev
  let a1 := a.noteFault u part code sev
  if code = 0x0001 ∨ code = 0x0003 then (if base = 0 then a1 else a1.charge u code base c)
  else if sev = 0 then a1.charge u code (if a.get HLT_MISC_CE_LASTING < prior + 1 then 20 else base) c
  else if sev = 1 then a1.charge u code (min 250 (base * 2 ^ min prior 16)) c
  else
    let a2 := a1.charge u code base c
    if 1 ≤ prior then a2.knell u code true else a2

/-- Further reports folded into a record are charged one by one (R397). -/
def Aggregator.chargeReports (a : Aggregator) (u part code sev : Nat) (c : Cause) : Nat → Aggregator
  | 0 => a
  | n + 1 => (a.chargeReport u part code sev c).chargeReports u part code sev c n

/-! ### Cores (Table 14-3, R412) -/

/-- What follows a core's drain. -/
abbrev afterMapOut : Nat := 1
abbrev afterScan : Nat := 2
abbrev afterNothing : Nat := 3

/-- A core is drained, for what follows it; a scan is asked for at once (R412, R415). -/
def Aggregator.drainCore (a : Aggregator) (c next cause : Nat) : Aggregator :=
  let a1 := a.modHlt fun h =>
    { h with afterDrain := tabPut h.afterDrain c next,
             scans := if next = afterScan ∧ ¬ h.scans.any (fun s => s.core = c) then h.scans ++ [⟨c, 1, false, false⟩] else h.scans }
  (a1.writePdCtrl c (setBits (a1.get ⟨addr_PD_CTRL c, 63, 0⟩) 3 3 1)).setState (coreUnit c) huDraining cause

/-- A core fault that drains the core when it is repeated within LASTING_WIN. -/
def Aggregator.coreFault (a : Aggregator) (c code points : Nat) (cause : Cause) : Aggregator :=
  let u := coreUnit c
  let prior := a.faultsIn u 0 code 0
  let a1 := (a.noteFault u 0 code 0).charge u code points cause
  if 1 ≤ prior then a1.drainCore c (if a1.on HLT_CTRL_AUTO_SCAN then afterScan else afterNothing) code else a1

/-- A core fails to wake (R254): its failures in succession, and the charge. -/
def Aggregator.coreWakeFault (a : Aggregator) (c : Nat) : Nat × Aggregator :=
  let n := storeGet 0 a.pwr.fails c + 1
  (n, (a.modPwr fun p => { p with fails := storeSet 0 p.fails c n }).charge (coreUnit c) hcCoreWakeFail 100 a.here)

/-! ### Decay (R401) -/

/-- SCORE_DECAY: every 60 s of Fleet Time. -/
def Aggregator.scoreDecay (a : Aggregator) : Aggregator :=
  if a.nowNs < a.hlt.decayAt + 60000000000 then a
  else
    let k := a.get HLT_CTRL_DECAY_SHIFT
    let a1 := a.modHlt fun h => { h with decayAt := a.nowNs / 60000000000 * 60000000000 }
    let a2 := if k = 0 then a1
      else (List.range 577).foldl (fun (a : Aggregator) u =>
        let p := a.get (HU_STAT_PENALTY u)
        if p = 0 then a else a.set (HU_STAT_PENALTY u) (p - p / 2 ^ k)) a1
    a2.evaluateAll

/-! ### The budget (R405, R406) -/

/-- One unit of each FRU whose units are in a state: the one with the least score. -/
def Aggregator.fruHeads (a : Aggregator) (st : Nat) : List Nat :=
  let us := ((List.range 512) ++ [chipUnit]).filter fun u => decide (a.unitState u = st)
  us.filter fun u => (a.fruUnits u).all fun x =>
    decide (x = u) || decide (a.unitScore u < a.unitScore x) || (decide (a.unitScore u = a.unitScore x) && decide (u < x))

/-- SPARES at or below ADV_ENTER begins ADVISORY mode, at or above ADV_LEAVE ends it (R406). -/
def Aggregator.budgetMode (a : Aggregator) : Aggregator :=
  let sp := a.get HLT_BUDGET_SPARES
  if ¬ a.on HLT_STATUS_ADVISORY ∧ sp ≤ a.get HLT_ADV_ADV_ENTER then
    let a1 := (a.set HLT_STATUS_ADVISORY 1).unitNotice 0x0F chipUnit 0 1
    let a2 := (a1.modHlt fun h => { h with pending := [] }).showPending
    (a2.fruHeads huPending).foldl (fun (a : Aggregator) u => a.tryKnell u (a.get (HU_STAT_LAST_CAUSE u))) a2
  else if a.on HLT_STATUS_ADVISORY ∧ a.get HLT_ADV_ADV_LEAVE ≤ sp then
    let a1 := (a.set HLT_STATUS_ADVISORY 0).unitNotice 0x0F chipUnit 0 0
    (a1.fruHeads huAdvised).foldl (fun (a : Aggregator) u =>
      let c := a.get (HU_STAT_LAST_CAUSE u)
      (a.setFru u huPending c).joinPending u c) a1
  else a

/-- GRANT and SPARES are written (R405). -/
def Aggregator.writeBudget (a : Aggregator) (grant spares : Nat) : Aggregator :=
  let a1 := ((a.set HLT_BUDGET_GRANT grant).set HLT_BUDGET_SPARES spares).budgetMode
  a1.sendPending 577

/-! ### Knell confirm and release (R407) -/

/-- The units of a FRU: its die units; of 0xFFFF, which notices about the chip carry, the chip (log 145). -/
def Aggregator.unitsOfFru (a : Aggregator) (fru : Nat) : List Nat :=
  if fru = 0xFFFF then [chipUnit] else (a.cfg.tray.filter fun t => t.fru = fru).map (·.loc)

def Aggregator.knellConfirm (a : Aggregator) (fru : Nat) : Aggregator :=
  ((a.unitsOfFru fru).foldl (fun (a : Aggregator) u =>
    (a.unpend u).setState u huKnelled (a.get (HU_STAT_LAST_CAUSE u))) a).fillPending

/-- A released FRU's registrations, penalties and conditional bits are cleared; its units are HEALTHY. -/
def Aggregator.knellRelease (a : Aggregator) (fru : Nat) : Aggregator :=
  ((a.unitsOfFru fru).foldl (fun (a : Aggregator) u =>
    let a0 := a.unpend u
    let a1 := if u < 256 then (a0.setWord (addr_REG_ENT u) 0).mirrorReg u else a0
    let a2 := ((a1.set (HU_STAT_PENALTY u) 0).set (HU_STAT_SCORE u) 1000).set (HU_COND_COND u) 0
    (a2.modHlt fun h => { h with mandatory := h.mandatory.filter (· ≠ u),
                                 condStep := h.condStep.filter fun e => decide (e.1 / 64 ≠ u) }).setState u huHealthy
      (a2.get (HU_STAT_LAST_CAUSE u))) a).fillPending

/-! ### Conditional suspects (R403) -/

/-- A COND-SUSPECT event of a die unit and cell in a job context. -/
def Aggregator.condSuspect (a : Aggregator) (u cell ctx : Nat) (c : Cause) : Aggregator :=
  let was := bit (a.get (HU_COND_COND u)) cell
  let step := match a.job ctx with | some j => j.dieStep (a.subject u) | none => 0
  let a1 := (a.set (HU_COND_COND u) (setBits (a.get (HU_COND_COND u)) cell cell 1)).modHlt fun h =>
    { h with condStep := tabPut h.condStep (64 * u + cell) ⟨step, ctx⟩ }
  let a2 := a1.charge u hcCondSuspect 0 c
  if was then a2
  else a2.notice ⟨0x02, false, a2.unitState u, cell, a2.subject u, a2.fru u, a2.unitScore u, hcCondSuspect, 1, c.t, c.job,
    c.gen, c.step, []⟩

/-- COND_SUSPECT_EXPIRY: SUSPECT_HOLD steps of the job without a further event or DEVIATE. -/
def Aggregator.condExpiry (a : Aggregator) (u cell : Nat) : Aggregator :=
  match tabGet a.hlt.condStep (64 * u + cell) with
  | none => a
  | some m =>
    match a.job m.ctx with
    | none => a
    | some j =>
      let hold := match j.rates with | some r => r.suspectHold | none => 0
      if m.step + hold ≤ j.dieStep (a.subject u) ∧ j.rates.isSome then
        let a1 := (a.set (HU_COND_COND u) (setBits (a.get (HU_COND_COND u)) cell cell 0)).modHlt fun h =>
          { h with condStep := tabDel h.condStep (64 * u + cell) }
        a1.notice ⟨0x02, false, a1.unitState u, cell, a1.subject u, a1.fru u, a1.unitScore u, hcCondSuspect, 0, a1.nowNs,
          j.job, j.gen, j.dieStep (a.subject u), []⟩
      else a

/-- A DEVIATE of a die unit: 400 points; a second one within LASTING_WIN, or one in a suspect cell, is a lasting fault
(Table 14-3, R403). -/
def Aggregator.chargeDeviate (a : Aggregator) (u cell : Nat) (c : Cause) : Aggregator :=
  let prior := a.faultsIn u 0 hcDeviate 0
  let suspect := bit (a.get (HU_COND_COND u)) cell
  let a1 := (a.noteFault u 0 hcDeviate 0).charge u hcDeviate 400 c
  let a2 := if suspect then a1.modHlt fun h =>
      { h with condStep := tabMod h.condStep (64 * u + cell) fun m => { m with step := max m.step c.step } } else a1
  if 1 ≤ prior ∨ suspect then a2.knell u hcDeviate true else a2

/-! ### Mismatches (R398) -/

/-- The oldest unresolved mismatch of a die unit is resolved: 0b10 sends MISMATCH-USED. -/
def Aggregator.resolveMismatch (a : Aggregator) (duid sev : Nat) : Aggregator :=
  match a.hlt.mismatches.find? fun m => m.duid = duid with
  | none => a
  | some m =>
    let a1 := a.modHlt fun h => { h with mismatches := dropFirst (fun x => x.duid = duid) h.mismatches }
    if sev ≠ 2 then a1
    else
      let u := a1.dieUnitOf duid
      a1.notice ⟨0x07, false, a1.unitState u, 0xFF, a1.subject u, a1.fru u, a1.unitScore u, 0x0003, 0,
        be m.rec_ 40 8, be m.rec_ 0 4, be m.rec_ 4 1, be m.rec_ 6 6, toLe mismatchSizes m.rec_⟩

/-- MISMATCH_RESOLVE_TIMEOUT: RESOLVE_WAIT without a resolution counts as 0b10. -/
def Aggregator.resolveTimeout (a : Aggregator) (duid : Nat) : Aggregator :=
  match a.hlt.mismatches.find? fun m => m.duid = duid with
  | none => a
  | some m => if m.at_ + a.get HLT_CTRL_RESOLVE_WAIT * 1000000 ≤ a.mono then a.resolveMismatch duid 2 else a

/-- A report of a die unit, from a HEALTH record or an alarm: charged once, whichever comes first (R400). `name`: DUID, CODE,
UNIT, OP, FIRST_T. -/
def Aggregator.takeReport (a : Aggregator) (duid unit_ op code sev first : Nat) (repeats : Nat) (c : Cause) : Aggregator :=
  let name := [duid, code, unit_, op, first]
  if a.hlt.reports.contains name then a
  else
    let u := a.dieUnitOf duid
    let a1 := a.modHlt fun h => { h with reports := h.reports ++ [name] }
    if code = 0x0003 then a1.resolveMismatch duid sev else a1.chargeReports u unit_ code sev c (repeats + 1)

/-! ### Stragglers (R408) -/

/-- A STRAGGLER event of a die unit in an epoch of a job context, or none in an epoch: the window moves, advice is sent. -/
def Aggregator.straggle (a : Aggregator) (ctx duid : Nat) (hit : Bool) (score256 : Nat) : Aggregator :=
  let n := a.get HLT_MISC_SWAP_N
  let w := max n (a.get HLT_MISC_SWAP_WIN)
  let cur := (a.hlt.straggles.find? fun s => decide (s.ctx = ctx ∧ s.duid = duid)).getD ⟨ctx, duid, [], false⟩
  let win := (hit :: cur.win).take w
  let k := (win.filter fun b => b).length
  -- advice stands until SWAP_WIN epochs in a row have had fewer than SWAP_N / 2 events
  let stands := cur.advised && !decide (win.length = w ∧ 2 * k < n)
  let send := decide (n ≤ k) && hit && !stands
  let a1 := a.modHlt fun h =>
    { h with straggles := (h.straggles.filter fun s => !decide (s.ctx = ctx ∧ s.duid = duid))
        ++ [⟨ctx, duid, win, stands || send⟩] }
  if ¬ send then a1
  else
    let u := a1.dieUnitOf duid
    let (job, gen) := match a1.job ctx with | some j => (j.job, j.gen) | none => (0, 0)
    a1.notice ⟨0x06, false, a1.unitState u, 0xFF, a1.subject u, a1.fru u, a1.unitScore u, hcStraggler, score256, a1.nowNs, job,
      gen, noStep, []⟩

/-! ### Guests (R423) -/

/-- A guest frame becomes a GUEST notice. -/
def Aggregator.guestNotice (a : Aggregator) (segment addr type : Nat) (payload : List Byte) : Aggregator :=
  a.notice ⟨0x0D, false, 0, 0xFF, 3 * 2 ^ 30 + segment * 256 + addr, 0xFFFF, 0xFFFF, 0, type, a.nowNs, 0, 0, noStep, payload⟩

end Sys2Proof.Machine
end

