-- ==== Sys2Proof/Machine/Contrib.lean ====
section
/-!
DEFINITION. Reduction arithmetic: slot values, their inputs and merges, contributions and their missing lists (R275 to R280).
-/
namespace Sys2Proof.Machine

/-! ### Operators (Tables 10-8, 10-10) -/

abbrev opSumI : Nat := 0x01
abbrev opSumF : Nat := 0x02
abbrev opMin : Nat := 0x03
abbrev opMax : Nat := 0x04
abbrev opCount : Nat := 0x05
abbrev opHist : Nat := 0x06
abbrev opBitOr : Nat := 0x07

abbrev emptyDuid : Nat := 0xFFFFFFFF

/-- Widths in bytes of the fields of an operator's data, in order (Table 10-8). -/
def slotFields (op : Nat) : List Nat :=
  if op = opSumI then [16]
  else if op = opSumF then [40, 8, 8, 8]
  else if op = opMin ∨ op = opMax then [8, 4, 4]
  else if op = opCount then [8]
  else if op = opHist then List.replicate 1028 8
  else if op = opBitOr then [64]
  else []

/-- Data bytes of an operator. -/
def slotLen (op : Nat) : Nat := (slotFields op).foldl (· + ·) 0

/-- An input format that an operator takes. -/
def slotFmtOk (op fmt : Nat) : Bool :=
  if op = opSumI then decide (fmt ≤ 1)
  else if op = opSumF then decide (3 ≤ fmt ∧ fmt ≤ 5)
  else if op = opMin ∨ op = opMax then decide (fmt ≤ 2)
  else if op = opHist then decide (fmt = 0 ∨ fmt = 2 ∨ fmt = 3)
  else decide (fmt ≤ 5)

/-- A slot's value: its fields as unsigned numbers. -/
structure SlotVal where
  slot : Nat
  op : Nat
  fmt : Nat
  n : Nat
  fields : List Nat
  deriving DecidableEq, Repr

/-- A slot with no input. -/
def SchemaSlot.empty (s : SchemaSlot) : SlotVal :=
  ⟨s.slot, s.op, s.fmt, 0, if s.op = opMin ∨ s.op = opMax then [0, emptyDuid, 0] else List.replicate (slotFields s.op).length 0⟩

/-- The format of FMT codes 2 to 5 (Table 10-10). -/
def slotFmt (fmt : Nat) : FpFmt :=
  match fmt with
  | 2 => fmtFp64
  | 3 => fmtFp32
  | 4 => fmtFp16
  | _ => fmtBf16

/-! ### Order of MIN and MAX (R277) -/

/-- One value lies below another in the order of a format: −0 below +0. -/
def slotLess (fmt x y : Nat) : Bool :=
  match fmt with
  | 0 => decide (x < y)
  | 1 => decide (signed 64 x < signed 64 y)
  | _ => (f64 x).lt (f64 y) || ((f64 x).isZero && (f64 y).isZero && bit x 63 && !bit y 63)

/-- The better of two (value, DUID) pairs; on equal values the lower DUID; an empty one gives way. -/
def bestOf (op fmt : Nat) (x y : Nat × Nat) : Nat × Nat :=
  if x.2 = emptyDuid then y
  else if y.2 = emptyDuid then x
  else
    let less := if op = opMin then slotLess fmt x.1 y.1 else slotLess fmt y.1 x.1
    let more := if op = opMin then slotLess fmt y.1 x.1 else slotLess fmt x.1 y.1
    if less then x else if more then y else if x.2 ≤ y.2 then x else y

/-! ### Inputs (R277, R278) -/

abbrev histZero : Nat := 1024
abbrev histUnder : Nat := 1025
abbrev histOver : Nat := 1026
abbrev histInvalid : Nat := 1027

/-- The position in a HIST slot, or in a log histogram, at which a value counts. -/
def histIndex (baseJ : Int) (v : FpVal) : Nat :=
  let place (j : Int) : Nat :=
    if j < baseJ then histUnder else if baseJ + 1023 < j then histOver else (j - baseJ).toNat
  match v with
  | .nan => histInvalid
  | .inf neg => if neg then histInvalid else histOver
  | .fin neg m q => if m = 0 then histZero else if neg then histInvalid else place (bucketIndex m q)

/-- A raw 64-bit input read as a value: an unsigned integer, FP64 or FP32. -/
def histInput (fmt raw : Nat) : FpVal :=
  match fmt with
  | 0 => .fin false raw 0
  | 2 => f64 raw
  | _ => f32 (raw % 2 ^ 32)

/-- A slot takes one input of a die unit (R277). -/
def SlotVal.input (v : SlotVal) (s : SchemaSlot) (duid raw : Nat) : SlotVal :=
  let v1 : SlotVal := { v with n := (v.n + 1) % 2 ^ 32 }
  if s.op = opSumI then
    let x : Int := if s.fmt = 1 then signed 64 raw else raw
    { v1 with fields := [unsigned 128 (v.fields.headD 0 + x)] }
  else if s.op = opSumF then
    let f := slotFmt s.fmt
    match f.decode false (raw % 2 ^ f.bits) with
    | .nan => { v1 with fields := modAt v.fields 1 (· + 1) }
    | .inf neg => { v1 with fields := modAt v.fields (if neg then 3 else 2) (· + 1) }
    | .fin neg m q => { v1 with fields := modAt v.fields 0 fun a => unsigned 320 (a + exactAt (-160) neg m q) }
  else if s.op = opMin ∨ s.op = opMax then
    if s.fmt = 2 ∧ f64 raw = .nan then v
    else
      let b := bestOf s.op s.fmt (v.fields.getD 0 0, v.fields.getD 1 emptyDuid) (raw, duid)
      { v1 with fields := [b.1, b.2, 0] }
  else if s.op = opCount then { v1 with fields := [v.fields.headD 0 + 1] }
  else if s.op = opHist then { v1 with fields := modAt v.fields (histIndex s.baseJ (histInput s.fmt raw)) (· + 1) }
  else { v1 with fields := [v.fields.headD 0 ||| raw] }

/-- Two values of one slot are merged (R277, R280). -/
def SlotVal.merge (x y : SlotVal) : SlotVal :=
  let n := (x.n + y.n) % 2 ^ 32
  if x.op = opMin ∨ x.op = opMax then
    let b := bestOf x.op x.fmt (x.fields.getD 0 0, x.fields.getD 1 emptyDuid) (y.fields.getD 0 0, y.fields.getD 1 emptyDuid)
    { x with n := n, fields := [b.1, b.2, 0] }
  else if x.op = opBitOr then { x with n := n, fields := [x.fields.headD 0 ||| y.fields.headD 0] }
  else
    { x with n := n,
             fields := (List.range x.fields.length).map fun i =>
               (x.fields.getD i 0 + y.fields.getD i 0) % 2 ^ (8 * (slotFields x.op).getD i 0) }

/-- A slot entry (Table 10-10). -/
def SlotVal.bytes (v : SlotVal) : List Byte :=
  let ws := slotFields v.op
  beBytes 2 v.slot ++ beBytes 1 v.op ++ beBytes 1 v.fmt ++ beBytes 4 v.n ++ beBytes 4 (slotLen v.op)
    ++ (List.range ws.length).flatMap fun i => beBytes (ws.getD i 0) (v.fields.getD i 0)

/-- The fields of a slot's data. -/
def readFields : List Nat → List Byte → List Nat
  | [], _ => []
  | w :: ws, l => beNat (l.take w) :: readFields ws (l.drop w)

/-- The slot entries of a contribution, `n` of them; none where one is malformed. -/
def readSlots : Nat → List Byte → Option (List SlotVal)
  | 0, _ => some []
  | n + 1, l =>
    let op := be l 2 1
    let len := be l 8 4
    if l.length < 12 + len ∨ slotFields op = [] ∨ len ≠ slotLen op then none
    else (readSlots n (l.drop (12 + len))).map fun rest =>
      ⟨be l 0 2, op, be l 3 1, be l 4 4, readFields (slotFields op) (slice l 12 len)⟩ :: rest

/-! ### Missing lists (R275) -/

/-- One die unit, with its reason. -/
def missDie (duid reason : Nat) : Nat := reason * 2 ^ 24 + duid % 2 ^ 20

/-- Every expected die unit of an aggregator. -/
def missAgg (agg : Nat) : Nat := 2 ^ 30 + agg % 4096

/-- `n` die units of an aggregator. -/
def missSome (agg n : Nat) : Nat := 2 * 2 ^ 30 + min n 256 * 2 ^ 20 + agg % 4096

/-- Every die unit of the subtree headed by an aggregator. -/
def missTree (agg : Nat) : Nat := 3 * 2 ^ 30 + agg % 4096

def missKind (e : Nat) : Nat := e / 2 ^ 30

/-- The aggregator that an entry concerns. -/
def missAggOf (e : Nat) : Nat := if missKind e = 0 then e / 256 % 4096 else e % 4096

/-- Entries in ascending order, repeats removed. -/
def missSort (l : List Nat) : List Nat := (l.foldl (fun m e => tabPut m e ()) ([] : Store Unit)).map (·.1)

/-- The aggregators of a child's subtree, itself among them. -/
def TreePart.subtreeOf (t : TreePart) (child : Nat) : List Nat :=
  match t.children.findIdx? fun c => decide (c = child) with
  | some i => child :: (t.subtree.getD i []).map (·.1)
  | none => [child]

/-- Entries that a 0b11 entry covers are removed (R280). -/
def missCover (t : TreePart) (l : List Nat) : List Nat :=
  let heads := l.filter fun e => missKind e = 3
  l.filter fun e => !(heads.any fun h => decide (h ≠ e) && (t.subtreeOf (h % 4096)).contains (missAggOf e))

/-- The key of a list of (key, count) with the greatest count, the least key on ties. -/
def argMax (l : List (Nat × Nat)) : Option (Nat × Nat) :=
  l.foldl (fun (b : Option (Nat × Nat)) x =>
    match b with
    | none => some x
    | some y => if y.2 < x.2 ∨ (y.2 = x.2 ∧ x.1 < y.1) then some x else some y) none

/-- First stage: the die units of the aggregator with the most of them become one entry. -/
def condense1 : Nat → List Nat → List Nat × Bool
  | 0, l => (l, false)
  | n + 1, l =>
    if l.length ≤ 1024 then (l, false)
    else
      let dies := l.filter fun e => missKind e = 0
      let counts := (dies.foldl (fun m e => tabPut m (missAggOf e) ((tabGet m (missAggOf e)).getD 0 + 1)) ([] : Store Nat))
      match argMax counts with
      | none => (l, false)
      | some (g, k) =>
        let l1 := missSort (missSome g k :: l.filter fun e => !(decide (missKind e = 0) && decide (missAggOf e = g)))
        ((condense1 n l1).1, true)

/-- Second stage: the entries of a child's subtree become one entry. -/
def condense2 (t : TreePart) : Nat → List Nat → List Nat × Bool
  | 0, l => (l, false)
  | n + 1, l =>
    if l.length ≤ 1024 then (l, false)
    else
      let mine (c : Nat) : List Nat := l.filter fun e => (t.subtreeOf c).contains (missAggOf e)
      let counts := (t.children.map fun c => (c, (mine c).length)).filter fun x =>
        decide (0 < x.2) && decide (mine x.1 ≠ [missTree x.1])
      match argMax counts with
      | none => (l, false)
      | some (c, _) =>
        let l1 := missSort (missTree c :: l.filter fun e => !(t.subtreeOf c).contains (missAggOf e))
        ((condense2 t n l1).1, true)

/-- A list of at most 1,024 entries, and whether it was condensed. -/
def condense (t : TreePart) (l : List Nat) : List Nat × Bool :=
  let (l1, c1) := condense1 4097 l
  let (l2, c2) := condense2 t 33 l1
  (l2, c1 || c2)

/-! ### Contributions (Table 10-9, R280) -/

structure Contrib where
  schema : Nat
  partial_ : Bool
  condensed : Bool
  expected : Nat
  present : Nat
  degraded : Nat
  light : Nat
  tp : Nat
  pealId : Nat
  missing : List Nat
  slots : List SlotVal
  deriving DecidableEq, Repr

def Contrib.bytes (c : Contrib) : List Byte :=
  beBytes 4 c.schema ++ beBytes 2 c.slots.length ++ beBytes 2 (b2n c.partial_ + 2 * b2n c.condensed) ++ beBytes 4 c.expected
    ++ beBytes 4 c.present ++ beBytes 4 c.degraded ++ beBytes 4 c.light ++ beBytes 2 c.missing.length ++ zeros 6
    ++ beBytes 10 c.tp ++ beBytes 2 c.pealId ++ zeros 4 ++ c.missing.flatMap (beBytes 4) ++ c.slots.flatMap SlotVal.bytes

def readContrib (l : List Byte) : Option Contrib :=
  let mn := be l 24 2
  if l.length < 48 + 4 * mn then none
  else (readSlots (be l 4 2) (l.drop (48 + 4 * mn))).map fun s =>
    { schema := be l 0 4, partial_ := bit (be l 6 2) 0, condensed := bit (be l 6 2) 1, expected := be l 8 4,
      present := be l 12 4, degraded := be l 16 4, light := be l 20 4, tp := be l 32 10, pealId := be l 42 2,
      missing := (List.range mn).map fun i => be l (48 + 4 * i) 4, slots := s }

/-- Two contributions are merged: counts add, flags combine by OR, lists are united, slots merge (R280). -/
def Contrib.merge (x y : Contrib) : Contrib :=
  { x with
    partial_ := x.partial_ || y.partial_, condensed := x.condensed || y.condensed,
    expected := (x.expected + y.expected) % 2 ^ 32, present := (x.present + y.present) % 2 ^ 32,
    degraded := (x.degraded + y.degraded) % 2 ^ 32, light := (x.light + y.light) % 2 ^ 32,
    missing := missSort (x.missing ++ y.missing),
    slots := x.slots.map fun s =>
      match y.slots.find? fun z => decide (z.slot = s.slot ∧ z.op = s.op) with
      | some z => s.merge z
      | none => s }

/-- A child whose subtree is missing: one entry for each aggregator in it, from the subtree table (R273, R275). -/
def Contrib.absent (c : Contrib) (t : TreePart) (child : Nat) : Contrib :=
  let tab := match t.children.findIdx? fun x => decide (x = child) with
    | some i => t.subtree.getD i []
    | none => []
  let tab := if tab = [] then [(child, 0)] else tab
  { c with partial_ := true, expected := (c.expected + (tab.map (·.2)).foldl (· + ·) 0) % 2 ^ 32,
           missing := missSort (c.missing ++ tab.map fun e => missAgg e.1) }

/-- The list of a closed contribution: what a subtree entry covers leaves it, and it fits 1,024 entries. -/
def Contrib.fit (c : Contrib) (t : TreePart) : Contrib :=
  let (l, k) := condense t (missSort (missCover t c.missing))
  { c with missing := l, condensed := c.condensed || k, partial_ := c.partial_ || decide (l ≠ []) }

/-! ### Schemas (R276) -/

abbrev srcDelta : Nat := 0
abbrev srcAbs : Nat := 1
abbrev srcPresent : Nat := 2
abbrev srcProgram : Nat := 3

def SchemaSlot.ok (s : SchemaSlot) : Bool :=
  decide (s.slot ≤ 255) && decide (slotFields s.op ≠ []) && slotFmtOk s.op s.fmt && decide (s.source ≤ 3)
    && (decide (s.source = srcPresent) || decide (s.index < if s.source = srcProgram then 16 else 512))

/-- Slot numbers ascend. -/
def slotsAscend : List SchemaSlot → Bool
  | a :: b :: l => decide (a.slot < b.slot) && slotsAscend (b :: l)
  | _ => true

/-- An encoded contribution with a full missing list fits one parcel. -/
def schemaOk (l : List SchemaSlot) : Bool :=
  decide (1 ≤ l.length ∧ l.length ≤ 256) && l.all SchemaSlot.ok && slotsAscend l
    && decide (48 + 4 * 1024 + (l.map fun s => 12 + slotLen s.op).foldl (· + ·) 0 ≤ 65496)

/-! ### Inputs of a die unit (Table 10-7, Table 10-6) -/

/-- The raw input of a slot, none where the die unit gives it none (log 43). -/
def Snap.source (s : Snap) (outs : List (Option W64)) (x : SchemaSlot) : Option Nat :=
  let now (n : Nat) : Option Nat := if s.light ∧ n < 480 then none else (s.samples[n]?).map (·.toNat)
  match x.source with
  | 0 =>
    let before := (if x.index < 480 then s.main else s.prev.map (·.1)).bind fun p => (p[x.index]?).map (·.toNat)
    match now x.index, before with
    | some v, some p => some ((v + 2 ^ 64 - p) % 2 ^ 64)
    | _, _ => none
  | 1 => now x.index
  | 2 => some 1
  | _ => if s.light then none else (outs.getD x.index none).map (·.toNat)

/-- The slots with a die unit's inputs taken in. -/
def Snap.feed (s : Snap) (duid : Nat) (outs : List (Option W64)) (schema : List SchemaSlot) (slots : List SlotVal) :
    List SlotVal :=
  (schema.zip slots).map fun e =>
    match s.source outs e.1 with
    | some raw => e.2.input e.1 duid raw
    | none => e.2

end Sys2Proof.Machine
end

