-- ==== Sys2Proof/Machine/DetQueue.lean ====
section
/-!
DEFINITION. Images, instances and the runs that wait on the cores (R325 to R327, R344, R413).
-/
namespace Sys2Proof.Machine

/-! ### Image headers (Table 12-9) -/

def DetImage.field (i : DetImage) (off n : Nat) : Nat := le i.bytes off n
def DetImage.id (i : DetImage) : Nat := i.field 8 8
def DetImage.kind (i : DetImage) : Nat := i.field 16 1
def DetImage.role (i : DetImage) : Nat := i.field 17 1
def DetImage.keyIdx (i : DetImage) : Nat := i.field 18 1
def DetImage.mayBcast (i : DetImage) : Bool := bit (i.field 19 1) 0
def DetImage.sramKib (i : DetImage) : Nat := i.field 28 4
def DetImage.dstateBytes (i : DetImage) : Nat := i.field 40 4
def DetImage.istateBytes (i : DetImage) : Nat := i.field 44 4
def DetImage.budget (i : DetImage) : Nat := i.field 48 4
def DetImage.outputs (i : DetImage) : Nat := i.field 52 2
def DetImage.entry (i : DetImage) : Nat := i.field 56 4
def DetImage.code (i : DetImage) : List Byte := slice i.bytes (i.field 60 4) (i.field 64 4)
def DetImage.data (i : DetImage) : List Byte := slice i.bytes (i.field 68 4) (i.field 72 4)
def DetImage.params (i : DetImage) : List Byte := slice i.bytes (i.field 76 4) (i.field 80 4)
def DetImage.name (i : DetImage) : List Byte := slice i.bytes 128 32

abbrev kindTray : Nat := 1
abbrev kindEpoch : Nat := 2

def Aggregator.image (a : Aggregator) (slot : Nat) : Option DetImage := tabGet a.det.images slot
def Aggregator.inst (a : Aggregator) (n : Nat) : Option Instance := tabGet a.det.instances n
def Aggregator.modInst (a : Aggregator) (n : Nat) (f : Instance → Instance) : Aggregator :=
  a.modDet fun d => { d with instances := tabMod d.instances n f }
def Aggregator.core (a : Aggregator) (c : Nat) : Core := (tabGet a.det.cores c).getD Core.init
def Aggregator.setCore (a : Aggregator) (c : Nat) (k : Core) : Aggregator :=
  a.modDet fun d => { d with cores := tabPut d.cores c k }

/-- Instances of a job context with their numbers, of a kind. -/
def Aggregator.instancesOf (a : Aggregator) (ctx kind : Nat) : List (Nat × Instance × DetImage) :=
  a.det.instances.filterMap fun e =>
    match a.image e.2.slot with
    | some i => if e.2.ctx = ctx ∧ i.kind = kind then some (e.1, e.2, i) else none
    | none => none

/-- Cores of a core set that take runs, ascending (R413). -/
def Aggregator.liveCores (a : Aggregator) (cores : Nat) : List Nat :=
  (List.range 64).filter fun c => bit cores c && a.dispatchable c

/-- An instance starts runs (R329; the caution after Table 12-20). -/
def Aggregator.instRuns (a : Aggregator) (i : Instance) : Bool := a.on DET_CTRL_EN && !i.suspended && !i.stopping

def Run.start (inst ctx tp pealId : Nat) (duid : Option Nat) (state : Nat) : Run :=
  { inst := inst, ctx := ctx, tp := tp, pealId := pealId, duid := duid, state := state, began := 0, rd := [], rw := [], outputs := [],
    events := 0, bcastDone := false, moves := [] }

/-- A run joins its core's queue, which wakes a core that sleeps (R250, R326). -/
def Aggregator.queueRun (a : Aggregator) (c : Nat) (r : Run) : Aggregator :=
  let k := a.core c
  (a.setCore c { k with waiting := k.waiting ++ [r] }).wakeDomain c

/-- A TRAY run is queued for a die unit whose state is decided; false where none runs (R326). -/
def Aggregator.queueTray (a : Aggregator) (ctx tp pealId duid state : Nat) : Bool × Aggregator :=
  match (a.instancesOf ctx kindTray).head? with
  | none => (false, a)
  | some (n, i, _) =>
    let cs := a.liveCores i.cores
    match cs[duid % 256 % max 1 cs.length]? with
    | some c => if a.instRuns i then (true, a.queueRun c (Run.start n ctx tp pealId (some duid) state)) else (false, a)
    | none => (false, a)

/-- Runs of an instance that wait. -/
def Aggregator.waitingOf (a : Aggregator) (n : Nat) : Nat :=
  (a.det.cores.map fun e => (e.2.waiting.filter fun r => r.inst = n).length).foldl (· + ·) 0

def Aggregator.runningOf (a : Aggregator) (n : Nat) : Bool :=
  a.det.cores.any fun e => match e.2.run with | some r => decide (r.inst = n) | none => false

/-- EPOCH runs for a closed epoch: a third one in the queue is skipped (R327). The run goes to the first core of the set
(log 44). -/
def Aggregator.queueEpoch (a : Aggregator) (ctx tp pealId : Nat) (root partial_ : Bool) : Aggregator :=
  (a.instancesOf ctx kindEpoch).foldl (fun (a : Aggregator) e =>
    let (n, i, img) := e
    if ¬ a.instRuns i ∨ (img.role = 1 ∧ ¬ root) then a
    else if (if a.runningOf n then 2 else 3) ≤ a.waitingOf n then (a.inc DET_CNT1_SKIPPED_N).raise DET_STATUS_SKIPPED
    else match (a.liveCores i.cores).head? with
      | some c => a.queueRun c (Run.start n ctx tp pealId none (if partial_ then 2 else 1))
      | none => a) a

end Sys2Proof.Machine
end

