-- ==== Sys2Proof/Machine/IngestRx.lean ====
section
/-!
DEFINITION. TELEMETRY frames at the aggregator: metering, binding to stream and job, reassembly (R220 to R223, R267 to R269).
-/
namespace Sys2Proof.Machine

/-! ### Stream contexts -/

/-- Stream context of a frame: own i, mirror 16,384 + i; none where SRC and STREAM name none (R268, Table 7-1). -/
def Aggregator.streamOf (a : Aggregator) (src stream : Nat) : Option Nat :=
  let duid := duidOfSrc src
  let s := stream % 16384
  if 2 ^ 31 ≤ src ∨ s / 64 ≠ duid % 256 then none
  else if duid / 256 = a.id then some s
  else if a.hasPartner ∧ duid / 256 = a.partner then some (16384 + s)
  else none

def Aggregator.stream (a : Aggregator) (i : Nat) : StreamState := (tabGet a.ing.streams i).getD StreamState.init
def Aggregator.setStream (a : Aggregator) (i : Nat) (s : StreamState) : Aggregator :=
  a.modIng fun g => { g with streams := tabPut g.streams i s }

/-- The die unit whose stream it is. -/
def Aggregator.streamDuid (a : Aggregator) (i : Nat) : Nat :=
  if i < 16384 then a.id * 256 + i / 64 else a.partner * 256 + (i - 16384) / 64

/-- The job context, own or mirrored, that a stream is bound to. -/
def Aggregator.streamCtx (a : Aggregator) (i : Nat) : Nat :=
  a.get (STC_CFG_JOBCTX i) + if i < 16384 then 0 else 1024

/-! ### Meters (R220 to R223), tokens in thousandths of a bit -/

abbrev meterUnit : Nat := 1000

/-- Depth of a bucket of units of 256 bytes. -/
def meterDepth (n : Nat) : Nat := n * 256 * 8 * meterUnit

/-- The buckets of a meter at the present moment: Mb/s are thousandths of a bit per ns. -/
def Aggregator.meterNow (a : Aggregator) (i : Nat) : Meter :=
  let m := (tabGet a.ing.meters i).getD ⟨0, 0, 0⟩
  let dt := a.mono - m.at_
  ⟨min (meterDepth (a.get (MTR_BURST_CBS i))) (m.tokC + dt * a.get (MTR_RATE_CIR i)),
   min (meterDepth (a.get (MTR_BURST_PBS i))) (m.tokP + dt * a.get (MTR_RATE_PIR i)), a.mono⟩

def Aggregator.setMeter (a : Aggregator) (i : Nat) (m : Meter) : Aggregator :=
  a.modIng fun g => { g with meters := tabPut g.meters i m }

/-- The four words of a meter entry (Table 8-8), which the partner's mirror entry is kept equal to (R223). -/
def Aggregator.meterImage (a : Aggregator) (i : Nat) : List Byte :=
  a.wordsAt [addr_MTR_RATE i, (MTR_BURST_EN i).reg, addr_MTR_CNT_GY i, addr_MTR_CNT_R i]

/-- The color that a metered frame gets, and whether it is accepted (R220, R221, Table 8-7). -/
def Aggregator.meterColor (a : Aggregator) (i len : Nat) : Bool × Aggregator :=
  let m := a.meterNow i
  let cost := (len + 38) * 8 * meterUnit
  let protect := decide (a.get (MTR_BURST_ACTION i) = 1)
  if m.tokP < cost then
    let a1 := (a.setMeter i m).incWrap (MTR_CNT_R_RED_N i)
    if protect then (true, a1) else (false, a1.incWrap (MTR_CNT_R_DROPPED_N i))
  else if m.tokC < cost then
    let a1 := (a.setMeter i { m with tokP := m.tokP - cost }).incWrap (MTR_CNT_GY_YELLOW_N i)
    if protect || !a.atLevel1 (a.get (STC_CFG_POOL i)) then (true, a1) else (false, a1.incWrap (MTR_CNT_R_DROPPED_N i))
  else
    (true, (a.setMeter i { m with tokC := m.tokC - cost, tokP := m.tokP - cost }).incWrap (MTR_CNT_GY_GREEN_N i))

/-- A frame of so many payload bytes meets its meter: whether it is accepted. The entry that it changed goes to the partner. -/
def Aggregator.meter (a : Aggregator) (i len : Nat) : Bool × Aggregator :=
  if ¬ a.on (MTR_BURST_EN i) then (true, a)
  else
    let (ok, a1) := a.meterColor i len
    (ok, a1.mirrorContext ckMeter i (a1.meterImage i))

/-- A write of a meter word (R222, R223): rate and burst take effect at the next frame; enabling fills both buckets. -/
def Aggregator.writeMeter (a : Aggregator) (i w m : Nat) : Aggregator :=
  match w with
  | 0 => ((a.setMeter i (a.meterNow i)).set (MTR_RATE_PIR i) (bits m 55 32)).set (MTR_RATE_CIR i) (bits m 23 0)
  | 1 =>
    if 2 ≤ bits m 63 62 then a
    else
      let was := a.on (MTR_BURST_EN i)
      let a1 := (a.setMeter i (a.meterNow i)).setWord (MTR_BURST_EN i).reg (BitVec.ofNat 64 m)
      if bit m 61 ∧ ¬ was then a1.setMeter i ⟨meterDepth (bits m 23 0), meterDepth (bits m 47 24), a.mono⟩ else a1
  | _ => a

/-! ### Binding (R268) -/

/-- What stage 3 says of a frame. -/
inductive Binding where
  | pass
  | stale
  | wrong
  deriving DecidableEq, Repr

def Aggregator.bind (a : Aggregator) (i : Option Nat) (job gen : Nat) : Binding :=
  let stale := a.jobs.any fun e => decide (e.2.job = job ∧ e.2.gen = gen ∧ e.2.state = .quarantine)
  let refused : Binding := if stale then .stale else .wrong
  match i with
  | none => refused
  | some i =>
    if ¬ a.on (STC_CFG_EN i) then refused
    else if ¬ a.on (STC_CFG_BOUND i) then (if job = 0 then .pass else refused)
    else match a.job (a.streamCtx i) with
      | some j => if j.job = job ∧ j.gen = gen ∧ j.state ≠ .quarantine then .pass else refused
      | none => refused

/-! ### Reassembly (R269) -/

/-- The fragments cover [0, P_LEN) exactly (R185); P_LEN is the parcel header's. -/
def Reasm.covers (r : Reasm) : Bool := decide (8 ≤ r.bytes.length ∧ r.bytes.length = be r.bytes 4 4)

/-- One fragment of a stream: it opens, extends or abandons. A last fragment that does not complete the cover leaves the
parcel open (log 132). -/
def StreamState.take (s : StreamState) (f : Frag) (now : Nat) : StreamState × List (List Byte) :=
  let grow (r : Reasm) : StreamState × List (List Byte) :=
    if f.last ∧ r.covers then ({ s with open_ := none, ready := s.ready ++ [r.bytes] }, []) else ({ s with open_ := some r }, [])
  if f.first ∧ f.off = 0 then
    let (s1, _) := grow ⟨f.pseq, f.data, now⟩
    (s1, match s.open_ with | some r => [r.bytes] | none => [])
  else match s.open_ with
    | some r =>
      if ¬ f.first ∧ f.pseq = r.pseq ∧ f.off = r.bytes.length then grow { r with bytes := r.bytes ++ f.data }
      else ({ s with open_ := none }, [r.bytes])
    | none => (s, [])

/-- A stream context is sent to the partner: at a write of its words, and at each complete parcel (R377; log 84). -/
def Aggregator.mirrorStream (a : Aggregator) (i : Nat) : Aggregator :=
  a.mirrorContext ckStream i (a.wordsAt [addr_STC_CFG i, addr_STC_STAT i])

/-- A parcel with sequence number p is complete: the numbers passed over are lost (R269). -/
def Aggregator.countLost (a : Aggregator) (i p : Nat) : Aggregator :=
  let lost := (p + 2 ^ 32 - a.get (STC_STAT_EXP_PSEQ i)) % 2 ^ 32
  let a1 := a.set (STC_STAT_EXP_PSEQ i) (p + 1)
  let a2 := if lost = 0 then a1
    else ((a1.inc ING_CNT3_PARCEL_LOST_N lost).inc (STC_STAT_LOST_N i) lost).raise ING_STATUS_PARCEL_LOST
  a2.mirrorStream i

/-- A PEAL parcel that is abandoned or faulted leaves its die unit missing with reason 0x2 in the epoch it names (Table 10-6):
the epochs' part of it. -/
def Aggregator.pealBad (a : Aggregator) (duid : Nat) (bytes : List Byte) : Aggregator :=
  if be bytes 1 1 = ptPeal ∧ 74 ≤ bytes.length then
    let tp := be bytes 64 10
    { a with jobs := a.jobs.map fun e =>
        if e.2.job = be bytes 16 4 ∧ e.2.gen = be bytes 14 1 then
          (e.1, { e.2 with epochs := e.2.epochs.map fun x =>
            if x.tp = tp ∧ x.expected.contains duid ∧ (tabGet x.states duid).isNone ∧ x.trayClosed.isNone then
              { x with states := tabPut x.states duid (.missing 2) } else x })
        else e }
  else a

/-- The fragments of a frame, in order. -/
def Aggregator.takeFrags (a : Aggregator) (i : Nat) (l : List Frag) : Aggregator :=
  l.foldl (fun (a : Aggregator) f =>
    let s := a.stream i
    let (s1, lost) := s.take f a.mono
    let a1 := lost.foldl (fun (a : Aggregator) b => a.pealBad (a.streamDuid i) b) (a.setStream i s1)
    if s.ready.length < s1.ready.length then a1.countLost i f.pseq else a1) a

/-- TELEMETRY_FRAME_RX: a frame on an ingest lane is metered, checked, bound and reassembled. -/
def Aggregator.telemetryRx (a : Aggregator) (l : List Byte) : Aggregator :=
  if ¬ a.on ING_CTRL_EN then a
  else
    let i := a.streamOf (be l 4 4) (be l 8 2)
    let (accepted, a1) := match i with
      | some i => if be l 0 1 = 0x20 ∧ be l 1 1 = ftTelemetry then a.meter i l.length else (true, a)
      | none => (true, a)
    if ¬ accepted then a1
    else
      let (ok, a2) := a1.frameCheck laneIngest l
      if ¬ ok ∨ be l 1 1 ≠ ftTelemetry then a2
      else match a2.bind i (be l 12 4) (be l 10 1), i, readFrags (be l 3 1) (l.drop 32) with
        | .pass, some i, some frags =>
          let s := a2.stream i
          let fseq := be l 16 4
          let gap := match s.nextFseq with | some n => decide (n ≠ fseq) | none => false
          let lost := if gap then s.open_ else none
          let a3 := a2.setStream i { s with nextFseq := some ((fseq + 1) % 2 ^ 32), open_ := if gap then none else s.open_ }
          let a4 := match lost with | some r => a3.pealBad (a.streamDuid i) r.bytes | none => a3
          a4.takeFrags i frags
        | .stale, _, _ => (a2.inc ING_CNT2_STALE_GEN_N).raise ING_STATUS_STALE_GEN
        | _, _, _ => (a2.inc ING_CNT2_WRONG_JOB_N).raise ING_STATUS_WRONG_JOB

/-- REASM_TIMEOUT: a parcel still open REASM_WAIT after its first fragment (R269). -/
def Aggregator.reasmTimeout (a : Aggregator) (i : Nat) : Aggregator :=
  match (a.stream i).open_ with
  | some r =>
    if r.since + max 1 (a.get ING_CTRL_REASM_WAIT) * 10000 ≤ a.mono then
      ((a.setStream i { a.stream i with open_ := none }).inc ING_CNT3_REASM_TIMEOUT_N).pealBad (a.streamDuid i) r.bytes
    else a
  | none => a

end Sys2Proof.Machine
end

