-- ==== Sys2Proof/Machine/LedgerSeal.lean ====
section
/-!
DEFINITION. Digests, comparison of steps, sealing, and spilling to storage (R368, R369, R371, R373 to R375, R382, R387 to
R389, R392, R393).
-/
namespace Sys2Proof.Machine

/-! ### Fingerprint entries of a step (R164, R366, R367) -/

/-- A fingerprint entry with its tensor resolved. -/
structure FpItem where
  duid : Nat
  tensor : Nat
  block : Nat
  /-- 0 produced, 1 consumed -/
  role : Nat
  check : Nat
  gap : Bool
  deriving DecidableEq, Repr

/-- The FP-MAP record in force for a die unit at a step: the greatest STEP not above it, the die unit's own at equal STEP
(R367). -/
def mapInForce (maps : List LRec) (duid step : Nat) : Option LRec :=
  (maps.filter fun r => decide (r.step ≤ step) && (decide (r.duid = duid) || decide (r.duid = noDuid))).foldl
    (fun (b : Option LRec) r =>
      match b with
      | none => some r
      | some x => if x.step < r.step ∨ (x.step = r.step ∧ (r.duid = duid ∨ x.duid ≠ duid)) then some r else some x) none

/-- The tensor that a map index names, 0 where no map names it. -/
def mapTensor (m : Option LRec) (ix : Nat) : Nat :=
  match m with
  | some r => if ix < le r.body 4 4 then le r.body (8 + 16 * ix) 4 else 0
  | none => 0

/-- The entries of one FP-RUN record, in order. -/
def runItems (maps : List LRec) (r : LRec) : List FpItem :=
  let m := mapInForce maps r.duid r.step
  (List.range (le r.body 4 4)).map fun i =>
    let o := 8 + 16 * i
    let fl := le r.body (o + 12) 1
    ⟨r.duid, mapTensor m (le r.body (o + 13) 1), le r.body (o + 8) 4, fl / 64 % 2, le r.body o 8, decide (2 ≤ fl / 64)⟩

/-- The fingerprint entries of the main records of a step, in order. -/
def stepItems (maps recs : List LRec) (step : Nat) : List FpItem :=
  (recs.filter fun r => decide (r.kind = lkFpRun ∧ r.step = step) && !r.late).flatMap (runItems maps)

/-- The lineage records of a step, little-endian, 48 bytes each. -/
def stepLineage (recs : List LRec) (step : Nat) : List (List Byte) :=
  (recs.filter fun r => decide (r.kind = lkLineage ∧ r.step = step) && !r.late).flatMap fun r =>
    (List.range (le r.body 0 4)).map fun i => slice r.body (8 + 48 * i) 48

/-! ### Digests (R371) -/

/-- The fixed key of bytes 0x00 to 0x0F. -/
def digestKey : List Byte := (List.range 16).map fun i => BitVec.ofNat 8 i

def FpItem.digest (x : FpItem) : Nat :=
  (sipHash digestKey (leBytes 4 x.tensor ++ leBytes 4 x.block ++ leBytes 1 x.role ++ leBytes 8 x.check)).toNat

/-- The lineage message: its fields stand at the offsets of Table 6-13. -/
def lineageDigest (l : List Byte) : Nat :=
  (sipHash digestKey (slice l 16 8 ++ slice l 24 4 ++ slice l 28 4 ++ slice l 32 2 ++ slice l 34 6 ++ slice l 8 6
    ++ slice l 14 2 ++ slice l 44 2 ++ slice l 1 1)).toNat

def sum64 (l : List Nat) : Nat := l.foldl (fun a b => (a + b) % 2 ^ 64) 0

/-- Number and digest sum of the entries of a role. -/
def roleSum (items : List FpItem) (role : Nat) : Nat × Nat :=
  let xs := items.filter fun x => !x.gap && decide (x.role = role)
  (xs.length, sum64 (xs.map FpItem.digest))

/-- The TENSOR-DIGEST body: one entry for each (TENSOR, ROLE), ascending (Table 13-5). -/
def digestBody (items : List FpItem) : List Byte :=
  let add (m : Store (Nat × Nat)) (x : FpItem) : Store (Nat × Nat) :=
    let k := 2 * x.tensor + x.role
    let (n, s) := (tabGet m k).getD (0, 0)
    tabPut m k (n + 1, (s + x.digest) % 2 ^ 64)
  let m := (items.filter fun x => !x.gap).foldl add []
  leBytes 4 m.length ++ zeros 4
    ++ m.flatMap fun e => leBytes 4 (e.1 / 2) ++ leBytes 1 (e.1 % 2) ++ zeros 3 ++ leBytes 8 e.2.1 ++ leBytes 8 e.2.2

/-! ### Comparison (R387 to R389, Table 13-11) -/

structure Diff where
  tensor : Nat
  block : Nat
  role : Nat
  cls : Nat
  nA : Nat
  nB : Nat
  loc : Nat
  checkA : Nat
  checkB : Nat
  deriving DecidableEq, Repr

def Diff.bytes (d : Diff) : List Byte :=
  leBytes 4 d.tensor ++ leBytes 4 d.block ++ leBytes 1 d.role ++ leBytes 1 d.cls ++ leBytes 2 (min d.nA 65535)
    ++ leBytes 2 (min d.nB 65535) ++ leBytes 2 d.loc ++ leBytes 8 d.checkA ++ leBytes 8 d.checkB

def FpItem.key (x : FpItem) : Nat := x.tensor * 2 ^ 33 + x.block * 2 + x.role

def insertNat (n : Nat) : List Nat → List Nat
  | [] => [n]
  | a :: l => if n ≤ a then n :: a :: l else a :: insertNat n l

/-- Numbers in ascending order, repeats kept. -/
def sortNat (l : List Nat) : List Nat := l.foldl (fun s n => insertNat n s) []

/-- The checks of each key, in ascending order. -/
def checkTable (items : List FpItem) : Store (List Nat) :=
  (items.filter fun x => !x.gap).foldl (fun m x =>
    tabPut m x.key (insertNat x.check ((tabGet m x.key).getD []))) []

/-- The least number of one list that the other lacks, 0 where there is none (log 31). -/
def leastNotIn (a b : List Nat) : Nat := (a.find? fun x => !b.contains x).getD 0

/-- Mode MULTISET: one entry for each key whose checks differ, in ascending key order (R387, R388). -/
def diffMultiset (as bs : List FpItem) : List Diff :=
  let ta := checkTable as
  let tb := checkTable bs
  let keys := (tb.foldl (fun m e => tabPut m e.1 ()) (ta.map fun e => (e.1, ()))).map (·.1)
  keys.filterMap fun k =>
    let ca := (tabGet ta k).getD []
    let cb := (tabGet tb k).getD []
    if ca = cb then none
    else
      let la := leastNotIn ca cb
      let lb := leastNotIn cb ca
      let same := ca.all (fun x => cb.contains x) && cb.all fun x => ca.contains x
      let cls := if ca = [] then 3 else if cb = [] then 2 else if same then 4 else 1
      some ⟨k / 2 ^ 33, k / 2 % 2 ^ 32, k % 2, cls, ca.length, cb.length, 0xFFFF, la, lb⟩

/-- The first position at which two lists of entries differ, with what stands there on each side. -/
def firstDiff : Nat → List FpItem → List FpItem → Option (Nat × Option FpItem × Option FpItem)
  | _, [], [] => none
  | i, a :: _, [] => some (i, some a, none)
  | i, [], b :: _ => some (i, none, some b)
  | i, a :: as, b :: bs => if a.key = b.key ∧ a.check = b.check then firstDiff (i + 1) as bs else some (i, some a, some b)

/-- Entries of one die unit in event order, gaps left out. -/
def itemsOf (items : List FpItem) (duid : Nat) : List FpItem := items.filter fun x => decide (x.duid = duid) && !x.gap

/-- The die units of entries, ascending. -/
def duidsOf (items : List FpItem) : List Nat := (items.foldl (fun m x => tabPut m x.duid ()) []).map (·.1)

/-- Mode ORDERED: the first difference of each die unit of B against its pair under A's aggregator (R389). -/
def diffOrdered (as bs : List FpItem) (aggA aggB : Nat) : List Diff :=
  let locals := ((duidsOf bs).map (· % 256) ++ (duidsOf as).map (· % 256)).foldl (fun m l => tabPut m l ()) []
  locals.filterMap fun e =>
    match firstDiff 0 (itemsOf as (aggA * 256 + e.1)) (itemsOf bs (aggB * 256 + e.1)) with
    | none => none
    | some (_, x, y) =>
      let z := y.getD (x.getD ⟨0, 0, 0, 0, 0, false⟩)
      some ⟨z.tensor, z.block, z.role, 5, b2n x.isSome, b2n y.isSome, e.1, (x.map (·.check)).getD 0, (y.map (·.check)).getD 0⟩

/-- Mode 0x02: lineage, keyed by (SAMPLE_ID, SHARD, DATA_PASS) (after R389). -/
def diffLineage (as bs : List (List Byte)) : List Diff :=
  let key (l : List Byte) : Nat := le l 16 8 * 2 ^ 48 + le l 24 4 * 2 ^ 16 + le l 32 2
  let tab (l : List (List Byte)) : Store (List Nat) :=
    l.foldl (fun m x => tabPut m (key x) (insertNat (lineageDigest x) ((tabGet m (key x)).getD []))) []
  let ta := tab as
  let tb := tab bs
  let keys := (tb.foldl (fun m e => tabPut m e.1 ()) (ta.map fun e => (e.1, ()))).map (·.1)
  keys.filterMap fun k =>
    let ca := (tabGet ta k).getD []
    let cb := (tabGet tb k).getD []
    if ca = cb then none
    else
      let fate := (((bs ++ as).find? fun l => key l = k).map fun l => le l 1 1).getD 0
      some ⟨k / 2 ^ 48 % 2 ^ 32, k / 2 ^ 16 % 2 ^ 32, fate, 1, ca.length, cb.length, 0xFFFF, 0, 0⟩

/-! ### References (R391 to R393) -/

/-- The records of an imported step, and the FP-MAP records of every imported step of the same job. -/
def LedgerUnit.refStep (u : LedgerUnit) (agg job gen step : Nat) : Option (List LRec × List LRec) :=
  let same (r : RefStep) : Bool := decide (r.agg = agg ∧ r.job = job ∧ r.gen = gen)
  (u.refs.find? fun r => same r && decide (r.step = step)).map fun r =>
    (r.recs, (u.refs.filter same).flatMap fun x => x.recs.filter fun y => y.kind = lkFpMap)

/-- A DIVERGENCE body (Table 13-10). -/
def divergenceBody (job gen mode refStep refDuid index tensor block role cRef cRep keys : Nat) : List Byte :=
  leBytes 4 job ++ leBytes 1 gen ++ leBytes 1 mode ++ leBytes 6 refStep ++ leBytes 4 refDuid ++ leBytes 4 index
    ++ leBytes 4 tensor ++ leBytes 4 block ++ leBytes 1 role ++ zeros 3 ++ leBytes 8 cRef ++ leBytes 8 cRep ++ leBytes 8 keys
    ++ zeros 8

/-- The DIVERGENCE bodies of a replay step: each die unit whose entries differ, with its body (R393). In mode ORDERED one that
has none where its pair has some differs too. -/
def divergences (job gen agg mode refStep_ ownAgg : Nat) (as bs : List FpItem) : List (Nat × List Byte) :=
  let paired : List Nat :=
    if mode = 1 then ((duidsOf as).filter fun d => decide (d / 256 = agg)).map fun d => ownAgg * 256 + d % 256 else []
  let dies := (paired.foldl (fun m d => tabPut m d ()) ((duidsOf bs).map fun d => (d, ()))).map (·.1)
  dies.filterMap fun d =>
    let mine := itemsOf bs d
    if mode = 1 then
      let pair := agg * 256 + d % 256
      let theirs := itemsOf as pair
      match firstDiff 0 theirs mine with
      | none => none
      | some (i, x, y) =>
        let z := y.getD (x.getD ⟨0, 0, 0, 0, 0, false⟩)
        some (d, divergenceBody job gen mode refStep_ pair i z.tensor z.block z.role ((x.map (·.check)).getD 0)
          ((y.map (·.check)).getD 0) (diffMultiset theirs mine).length)
    else
      let ds := (diffMultiset as bs).filter fun x => mine.any fun m =>
        decide (m.tensor = x.tensor ∧ m.block = x.block ∧ m.role = x.role)
      match ds with
      | [] => none
      | x :: _ =>
        some (d, divergenceBody job gen mode refStep_ noDuid 0xFFFFFFFF x.tensor x.block x.role x.checkA x.checkB ds.length)

/-- LJ_REF0 and LJ_REF1 of a job context, own or mirrored. -/
def Aggregator.refWords (a : Aggregator) (ctx : Nat) : Nat × Nat :=
  if ctx < 1024 then ((a.word (addr_LJ_REF0 ctx)).toNat, (a.word (addr_LJ_REF1 ctx)).toNat)
  else match tabGet a.led.mir.refs ctx with
    | some (w0, w1) => (w0.toNat, w1.toNat)
    | none => (0, 0)

/-- The comparison of a replay step against its reference (R393). -/
def Aggregator.diverge (a : Aggregator) (ctx : Nat) (l : Ledger) (step : Nat) : Aggregator :=
  let (w0, w1) := a.refWords ctx
  if ¬ bit w0 63 then a
  else
    let agg := bits w0 51 40
    let job := bits w0 31 0
    let gen := bits w0 39 32
    let rstep := bits w1 47 0 + step
    let mode := bits w0 53 52
    match a.led.refStep agg job gen rstep with
    | none => (a.inc LDG_CNT1_REF_ABSENT_N).raise LDG_STATUS_REF_ABSENT
    | some (recs, maps) =>
      (divergences job gen agg mode rstep l.home (stepItems maps recs rstep) (stepItems l.maps l.recs step)).foldl
        (fun (a : Aggregator) d => a.appendRec l.job l.gen lkDivergence 0 step d.1 d.2 (home := l.home)) a

/-! ### Sealing (R368, R369, Table 13-4) -/

/-- A COVERAGE body: the record, then SEL and AUD of each cell (R322). -/
def coverageBody (d : DieJob) (c : Coverage) : List Byte :=
  let cnt (i : Nat) : CellCount := storeGet CellCount.zero d.counts (64 * c.step + i)
  toLe coverageSizes c.bytes ++ (List.range 64).flatMap (fun i => leBytes 4 (cnt i).selected)
    ++ (List.range 64).flatMap fun i => leBytes 4 (cnt i).audited

/-- The body of a STEP-SUMMARY (Table 13-4); `served`: the die units served for the job. -/
def summaryBody (j : JobCtx) (served : List Nat) (l : Ledger) (step now : Nat) (forced split : Bool) : List Byte :=
  let items := stepItems l.maps l.recs step
  let lin := stepLineage l.recs step
  let (pn, ps) := roleSum items 0
  let (cn, cs) := roleSum items 1
  let main := l.recs.filter fun r => decide (r.step = step) && !r.late
  let verdicts (code : Nat) : Nat := (main.filter fun r => decide (r.kind = lkVerdict) && decide (le r.body 5 1 = code)).length
  let st := l.stepState step
  let covered := (j.dies.filter fun e => served.contains e.1 && e.2.cover.any fun c => decide (c.step = step)).length
  let flags := b2n forced + 2 * b2n (st.fpRefused || items.any (·.gap)) + 4 * b2n st.linRefused + 8 * b2n st.mirrorGap
    + 16 * b2n j.truncated + 32 * b2n (j.tainted && decide (j.firstTaint ≤ step)) + 64 * b2n (main.any fun r => bit r.flags 1)
    + 128 * b2n split
  leBytes 8 now ++ leBytes 8 pn ++ leBytes 8 ps ++ leBytes 8 cn ++ leBytes 8 cs ++ leBytes 8 lin.length
    ++ leBytes 8 (sum64 (lin.map lineageDigest)) ++ leBytes 4 served.length ++ leBytes 4 covered
    ++ (List.range 6).flatMap (fun i => leBytes 4 (verdicts (i + 1))) ++ leBytes 4 flags ++ zeros 4

/-- The die units served for a job: none that failed its ARM. -/
def Aggregator.sealDies (a : Aggregator) (j : JobCtx) : List Nat :=
  j.dieUnits.filter fun d => !j.failed.contains d && match a.regKey d with
    | some k => a.servesKey k
    | none => false

/-- Step `step` of the job of a context is sealed (R368). -/
def Aggregator.sealStep (a : Aggregator) (ctx step : Nat) (forced : Bool) : Aggregator :=
  match a.job ctx with
  | none => a
  | some j =>
    let home := a.homeOfCtx ctx
    match a.ledger j.job j.gen home with
    | none => a
    | some l =>
      if l.isSealed step ∨ ¬ a.on LDG_CTRL_EN then a
      else
        let cov := j.dies.flatMap fun e => (e.2.cover.filter fun c => decide (c.step = step)).map fun c =>
          (e.1, coverageBody e.2 c)
        let a1 := cov.foldl (fun (a : Aggregator) c => a.appendRec j.job j.gen lkCoverage 0 step c.1 c.2 (home := home)) a
        let a2 := a1.appendRec j.job j.gen lkDigest 0 step noDuid (digestBody (stepItems l.maps l.recs step)) (home := home)
        let a3 := a2.diverge ctx l step
        let l3 := (a3.ledger j.job j.gen home).getD l
        let a4 := a3.appendRec j.job j.gen lkSummary 0 step noDuid (summaryBody j (a.sealDies j) l3 step a.nowNs forced
          false) (home := home)
        let a5 := a4.modLedger j.job j.gen home fun l => l.modStep step fun s =>
          { s with sealedNs := some a.nowNs, forced := forced }
        if forced then a5.raise LDG_STATUS_FORCED_SEAL else a5

/-- A time field in units that act as 1 when zero. -/
def atLeast1 (n : Nat) : Nat := max 1 n

/-- STEP_SEAL: SEAL_GRACE after the horizon reached the step (R368). -/
def Aggregator.stepSeal (a : Aggregator) (ctx step : Nat) : Aggregator :=
  match a.job ctx with
  | none => a
  | some j =>
    match (a.ledger j.job j.gen (a.homeOfCtx ctx)).bind fun l => (l.stepState step).reached with
    | some t =>
      if t + atLeast1 (a.get LDG_TIMING_SEAL_GRACE) * 1000000 ≤ a.mono then a.sealStep ctx step false else a
    | none => a

/-- FORCED_SEAL: SEAL_WAIT after the step's first coverage record (R369). -/
def Aggregator.forcedSeal (a : Aggregator) (ctx step : Nat) : Aggregator :=
  match a.job ctx with
  | none => a
  | some j =>
    match (a.ledger j.job j.gen (a.homeOfCtx ctx)).bind fun l => (l.stepState step).firstCov with
    | some t =>
      if t + atLeast1 (a.get LDG_TIMING_SEAL_WAIT) * 1000000000 ≤ a.mono then a.sealStep ctx step true else a
    | none => a

/-- Steps of a ledger that have a record or a coverage record, and no seal. -/
def Ledger.openSteps (l : Ledger) : List Nat :=
  ((l.recs.foldl (fun m r => tabPut m r.step ()) (l.steps.map fun e => (e.1, ()))).map (·.1)).filter fun s => !l.isSealed s

/-- Every open step of a job is force-sealed (R369). -/
def Aggregator.sealAll (a : Aggregator) (ctx : Nat) : Aggregator :=
  match (a.job ctx).bind fun j => a.ledger j.job j.gen (a.homeOfCtx ctx) with
  | some l => l.openSteps.foldl (fun (a : Aggregator) s => a.sealStep ctx s true) a
  | none => a

/-! ### Registers of the ledger (Table 13-14) -/

def Ledger.newestSealed (l : Ledger) : Option Nat :=
  (l.steps.filter fun e => e.2.sealedNs.isSome).foldl (fun (m : Option Nat) e => some (max (m.getD 0) e.1)) none

def Ledger.oldestResident (l : Ledger) : Option Nat := minOf (l.recs.map (·.step))

/-! ### Spill (R373 to R375) -/

/-- Records in ascending LSEQ. -/
def sortRecs (rs : List LRec) : List LRec :=
  let ins (r : LRec) : List LRec → List LRec := fun l => (l.takeWhile fun x => x.lseq < r.lseq) ++ [r]
    ++ l.dropWhile fun x => x.lseq < r.lseq
  rs.foldl (fun l r => ins r l) []

/-- Records packed into parcel bodies of at most `max_` bytes. -/
def packBodies (max_ : Nat) (rs : List LRec) : List (List LRec) :=
  (rs.foldl (fun (acc : List (List LRec)) r =>
    match acc with
    | [] => [[r]]
    | b :: rest => if (b.map (·.len)).foldl (· + ·) 0 + r.len ≤ max_ then (b ++ [r]) :: rest else [r] :: b :: rest) []).reverse

/-- The bytes of a spill object (R374). -/
def spillObject (l : Ledger) (sealedNs : Nat) (rs : List LRec) : List Byte :=
  let bodies := packBodies (parcelMax - 40) (sortRecs rs)
  (List.range bodies.length).flatMap fun i =>
    let b := bodies.getD i []
    buildParcel ptSpill 0 ⟨srcAgg l.home, 0, l.gen, l.job, i⟩ (beBytes 8 sealedNs ++ zeros 2) b.length (b.flatMap LRec.bytes)

/-- The records of a step that the next part holds: the main records first, late ones after. -/
def Ledger.partRecs (l : Ledger) (step : Nat) : List LRec :=
  l.recs.filter fun r => decide (r.step = step) && (r.late == (l.stepState step).spilled)

/-- A write of a step's next part is asked of a storage controller. -/
def Aggregator.spillTo (a : Aggregator) (job gen home step k : Nat) : Aggregator :=
  match a.ledger job gen home with
  | none => a
  | some l =>
    let st := l.stepState step
    match st.sealedNs, a.cfg.storage[k]? with
    | some t, some ctl =>
      let rs := l.partRecs step
      let req : StorageReq := ⟨true, ctl, l.home, job, gen, step, st.parts, spillObject l t rs⟩
      (a.modLed fun u => { u with storage := u.storage ++ [req] }).modLedger job gen home fun l =>
        l.modStep step fun s => { s with writing := some (k, a.mono), wrote := rs.map LRec.lseq }
    | _, _ => a

/-- The aggregator that serves the die units of a ledger's job spills it: its home, or the partner during failover (R373). -/
def Aggregator.spillsFor (a : Aggregator) (l : Ledger) : Bool :=
  if l.home = a.id then
    !(match a.jobAt l.job l.gen l.home with
      | some (_, j) => j.dieUnits.any fun d => match a.regKey d with
          | some k => decide (k < 256) && a.on (REG_ENT_VALID k) && decide (a.get (REG_ENT_STATE k) = 3)
          | none => false
      | none => false)
  else a.inFailover

/-- A sealed step is spilled at once, where none of its parts is being written or freed and it has records to write. -/
def Aggregator.spillNow (a : Aggregator) (job gen home step : Nat) : Aggregator :=
  match a.ledger job gen home with
  | none => a
  | some l =>
    if l.isSealed step ∧ a.spillsFor l ∧ (l.stepState step).writing.isNone ∧ (l.stepState step).freeing.isNone
        ∧ l.partRecs step ≠ [] then a.spillTo job gen home step 0 else a

/-- STEP_SPILL: a sealed step RESIDENT below the newest sealed one, the oldest one while occupancy exceeds SPILL_HI, or the
late records of a spilled step (R373, R374). -/
def Aggregator.stepSpill (a : Aggregator) (job gen home step : Nat) : Aggregator :=
  match a.ledger job gen home with
  | none => a
  | some l =>
    let old : Bool := match l.newestSealed with
      | some n => decide (step + a.get LDG_CTRL_RESIDENT ≤ n)
      | none => false
    let full := a.occAbove (a.get LDG_CTRL_SPILL_HI) && decide (a.led.oldest (fun _ _ => true) = some (job, gen, home, step))
    if (l.stepState step).spilled ∨ old ∨ full then a.spillNow job gen home step else a

/-- Read Ledger (Table 15-6). -/
abbrev opReadLedger : Nat := 0x11

/-- A query in progress reads the ledger of a job (R385). -/
def Aggregator.reading (a : Aggregator) (job gen : Nat) : Bool :=
  a.hif.commands.any fun c =>
    match c.wait with
    | .fetch _ _ _ _ =>
      decide (c.op = opReadLedger) && (decide (c.job = job ∧ c.gen = gen)
        || (decide (c.subop = 5) && (decide (le c.args 0 4 = job ∧ le c.args 4 1 = gen)
          || decide (le c.args 11 4 = job ∧ le c.args 15 1 = gen))))
    | _ => false

/-- The extents of a part that has gone to storage are freed, and the partner is told where this side wrote it: at once, or once
the queries that read them have ended (R375, R385). -/
def Aggregator.freeStep (a : Aggregator) (job gen home step : Nat) : Aggregator :=
  match a.ledger job gen home with
  | none => a
  | some l =>
    let st := l.stepState step
    match st.freeing with
    | none => a
    | some tell =>
      if a.reading job gen then a
      else
        let a1 := (a.modLedger job gen home fun l =>
          { l with recs := l.recs.filter fun r => !(decide (r.step = step) && st.wrote.contains r.lseq) }.modStep step fun s =>
            { s with wrote := [], freeing := none }).showOcc
        if tell then a1.mirrorSend mkSpilled
            (beBytes 4 job ++ beBytes 1 gen ++ zeros 1 ++ beBytes 6 step ++ beBytes 2 (st.parts - 1) ++ zeros 2)
        else a1

/-- SPILL_WRITE_DONE: the controller holds the part durably; its extents are freed and the partner is told (R375). -/
def Aggregator.spillDone (a : Aggregator) (job gen home step : Nat) : Aggregator :=
  match a.ledger job gen home with
  | none => a
  | some l =>
    let st := l.stepState step
    if st.writing.isNone then a
    else
      let a1 := a.modLedger job gen home fun l => l.modStep step fun s =>
        { s with spilled := true, parts := s.parts + 1, writing := none, freeing := some true }
      (if st.parts = 0 then a1.inc LDG_CNT1_SPILLED_N else a1).freeStep job gen home step

/-- SPILL_RETRY: a write that has failed is tried at the next controller (R375). -/
def Aggregator.spillRetry (a : Aggregator) (job gen home step : Nat) : Aggregator :=
  match (a.ledger job gen home).bind fun l => (l.stepState step).writing with
  | some (k, t) =>
    if t + atLeast1 (a.get LDG_TIMING_SPILL_RETRY) * 1000000 ≤ a.mono then
      (a.spillTo job gen home step ((k + 1) % max 1 a.cfg.storage.length)).raise LDG_STATUS_SPILL_FAIL
    else a
  | none => a

end Sys2Proof.Machine
end

