-- ==== Sys2Proof/Machine/EpochClose.lean ====
section
/-!
DEFINITION. Epochs at a node: arming, peal parcels, tray and subtree closes, contributions sent up (R271 to R275, R281, R282,
R294, R326, R409).
-/
namespace Sys2Proof.Machine

/-! ### Waits and trees in force -/

/-- The tree part that holds for an epoch (R283). -/
def JobCtx.treeAt (j : JobCtx) (tp : Nat) : TreePart :=
  match j.reparent.foldl (fun (b : Option (Nat × TreePart)) e =>
    if e.1 ≤ tp then (match b with | some x => if x.1 ≤ e.1 then some e else some x | none => some e) else b) none with
  | some e => e.2
  | none => j.tree

/-- EPOCH_WAIT of the job, in 2^-16 ns. -/
def JobCtx.epochWaitU (j : JobCtx) : Nat := j.epochWait * 1000 * nsU
def JobCtx.hopWaitU (j : JobCtx) : Nat := j.hopWait * 1000 * nsU

/-- P_min in ns (R271). -/
def JobCtx.pMin (j : JobCtx) : Nat := max 50000 (ceilDiv ((j.epochWait + j.tree.depth * j.hopWait) * 1000) 32)

/-- The deadline of a tray epoch, and of a subtree epoch at this node (R273). -/
def JobCtx.trayDeadline (j : JobCtx) (tp : Nat) : Nat := tp + j.epochWaitU
def JobCtx.subtreeDeadline (j : JobCtx) (tp : Nat) : Nat :=
  let t := j.treeAt tp
  tp + j.epochWaitU + (t.depth - t.level) * j.hopWaitU

/-- Firmware services pause during an activation (R443). -/
def Aggregator.paused (a : Aggregator) : Bool := a.hif.fwStart.isSome

/-! ### Epochs of a job -/

def JobCtx.epoch (j : JobCtx) (tp : Nat) : Option Epoch := j.epochs.find? fun e => e.tp = tp
def JobCtx.modEpoch (j : JobCtx) (tp : Nat) (f : Epoch → Epoch) : JobCtx :=
  { j with epochs := j.epochs.map fun e => if e.tp = tp then f e else e }
def Aggregator.modEpoch (a : Aggregator) (ctx tp : Nat) (f : Epoch → Epoch) : Aggregator :=
  a.modJob ctx fun j => j.modEpoch tp f

def Epoch.new (tp pealId : Nat) : Epoch :=
  { tp := tp, pealId := pealId, armed := false, due := false, expected := [], states := [], snaps := [], running := [],
    outputs := [], childIn := [], trayClosed := none, tray := none, straggled := [] }

/-- An epoch that has closed, in the ring still or not. -/
def JobCtx.wasClosed (j : JobCtx) (tp : Nat) : Bool := (j.ring.any fun e => e.tp = tp) || j.gone.contains tp

/-- The epoch of a peal time is opened where it is not open or closed. -/
def JobCtx.openEpoch (j : JobCtx) (tp pealId : Nat) : JobCtx :=
  if (j.epoch tp).isSome ∨ j.wasClosed tp then j else { j with epochs := j.epochs ++ [Epoch.new tp pealId] }

/-- The die units expected in an epoch: a swap puts one in the place of another (R409). -/
def JobCtx.expectedAt (j : JobCtx) (tp : Nat) : List Nat :=
  j.dieUnits.filter fun d => !(j.swaps.any fun s => decide (s.out = d ∧ s.ts ≤ tp) || decide (s.inn = d ∧ tp < s.ts))

/-! ### Contributions of the tray (R272, R275, R277) -/

def DieSt.code : DieSt → Nat
  | .present => 0
  | .degraded => 1
  | .lightOnly => 2
  | .missing _ => 3

/-- A die unit counts in PRESENT. -/
def DieSt.counts : DieSt → Bool
  | .missing _ => false
  | _ => true

/-- The tray contribution of a closed epoch. -/
def Epoch.contrib (e : Epoch) (schemaId : Nat) (schema : List SchemaSlot) : Contrib :=
  let st (d : Nat) : DieSt := (tabGet e.states d).getD (.missing 0)
  let missing := e.expected.filterMap fun d => match st d with | .missing r => some (missDie d r) | _ => none
  let slots := e.expected.foldl (fun (v : List SlotVal) d =>
    if (st d).counts then
      match tabGet e.snaps d with
      | some s => s.feed d ((tabGet e.outputs d).getD []) schema v
      | none => v
    else v) (schema.map SchemaSlot.empty)
  { schema := schemaId, partial_ := decide (missing ≠ []), condensed := false, expected := e.expected.length,
    present := (e.expected.filter fun d => (st d).counts).length,
    degraded := (e.expected.filter fun d => decide (st d = .degraded)).length,
    light := (e.expected.filter fun d => decide (st d = .lightOnly)).length, tp := e.tp, pealId := e.pealId,
    missing := missSort missing, slots := slots }

/-- An EPOCH body (Table 13-3). -/
def epochBody (scope pealId tp closeNs : Nat) (contrib : List Byte) : List Byte :=
  leBytes 1 scope ++ zeros 1 ++ leBytes 2 pealId ++ zeros 4 ++ leBytes 8 (tp / nsU) ++ leBytes 2 (tp % nsU) ++ zeros 6
    ++ leBytes 8 closeNs ++ contrib

/-- The least die step among die units (R365). -/
def JobCtx.leastStep (j : JobCtx) (ds : List Nat) : Nat := (minOf (ds.map j.dieStep)).getD 0

/-- An EPOCH record is appended (R274, R363, R365). -/
def Aggregator.appendEpoch (a : Aggregator) (ctx : Nat) (j : JobCtx) (flags scope pealId tp : Nat) (expected : List Nat)
    (contrib : List Byte) : Aggregator :=
  a.appendRec j.job j.gen lkEpoch (flags ||| 4) (j.leastStep expected) noDuid
    (epochBody scope pealId tp a.nowNs contrib) (home := a.homeOfCtx ctx)

/-- A late contribution or peal parcel is counted (R274). -/
def Aggregator.countLate (a : Aggregator) : Aggregator := (a.inc TREE_CNT0_LATE_N).raise TREE_STATUS_LATE

/-! ### Tree frames (R281, Table 10-11) -/

/-- FSEQ of the next tree frame of a job to an aggregator, and the count after it. -/
def Aggregator.nextFseq (a : Aggregator) (job gen dst : Nat) : Nat × Aggregator :=
  let k := (job * 256 + gen) * 4096 + dst
  let n := storeGet 0 a.ing.fseqOut k
  (n, a.modIng fun i => { i with fseqOut := storeSet 0 i.fseqOut k ((n + 1) % 2 ^ 32) })

/-- A tree frame of a job. -/
def Aggregator.treeFrame (a : Aggregator) (ctx ftype dst : Nat) (body : List Byte) : Aggregator :=
  match a.job ctx with
  | none => a
  | some j =>
    let (n, a1) := a.nextFseq j.job j.gen dst
    a1.sendFrame laneTree dst (a1.header ftype j.job j.gen n ++ body)

/-- Greatest segment of a tree frame: MAX_PAYLOAD − 64. -/
abbrev segMax : Nat := 9000 - 64

def treeUpHeader (kind : Nat) (resend : Bool) (level pealId tp total off len : Nat) : List Byte :=
  beBytes 1 kind ++ beBytes 1 (b2n resend) ++ beBytes 1 level ++ zeros 1 ++ beBytes 2 pealId ++ beBytes 10 tp
    ++ beBytes 4 total ++ beBytes 4 off ++ beBytes 2 len ++ zeros 6

/-- A contribution is sent to a parent in segments that cover it. -/
def Aggregator.sendContrib (a : Aggregator) (ctx dst level : Nat) (u : ContribOut) (resend : Bool) : Aggregator :=
  (List.range ((u.bytes.length + segMax - 1) / segMax)).foldl (fun (a : Aggregator) i =>
    let seg := slice u.bytes (i * segMax) segMax
    a.treeFrame ctx ftTreeUp dst
      (treeUpHeader 1 resend level u.pealId u.tp u.bytes.length (i * segMax) seg.length ++ seg)) a

/-! ### Closing (R273, R294) -/

/-- The ring takes a closed epoch: 1,024 entries, each with an even version that grew by 2 (R294). -/
def ringPut (r : List RingEntry) (tp : Nat) (contrib : List Byte) : List RingEntry :=
  match r with
  | x :: l => if 1024 ≤ r.length then l ++ [⟨x.version + 2, tp, contrib⟩] else r ++ [⟨2, tp, contrib⟩]
  | [] => [⟨2, tp, contrib⟩]

/-- The ring entry that gives way to the next one leaves its T_p behind. -/
def ringGone (r : List RingEntry) (gone : List Nat) : List Nat :=
  match r with
  | x :: _ => if 1024 ≤ r.length then x.tp :: gone else gone
  | [] => gone

/-- A mirrored context's position in the tree is taken here at a time: in failover, from the T_p on that a REPARENT named
(R283). -/
def Aggregator.standsIn (a : Aggregator) (j : JobCtx) (tp : Nat) : Bool :=
  a.inFailover && (match j.standIn with | some t => decide (t ≤ tp) | none => false)

/-- The subtree epoch of a job closes: children in or missing, the list fitted, the record, the ring, the parent, the
detectors. -/
def Aggregator.closeSubtree (a : Aggregator) (ctx : Nat) (j : JobCtx) (e : Epoch) (tray : List Byte) : Aggregator :=
  let t := j.treeAt e.tp
  let own := (readContrib tray).getD (e.contrib j.schemaId j.schema)
  let all := t.children.foldl (fun (c : Contrib) ch =>
    match (tabGet e.childIn ch).bind readContrib with
    | some d => c.merge d
    | none => c.absent t ch) own
  let c := all.fit t
  let b := c.bytes
  let a1 := a.modJob ctx fun j => 
    { j with epochs := j.epochs.filter fun x => x.tp ≠ e.tp, ring := ringPut j.ring e.tp b, gone := ringGone j.ring j.gone }
  let a2 := a1.appendEpoch ctx j 0 2 e.pealId e.tp e.expected b
  let a3 := if c.partial_ then (a2.inc TREE_CNT1_PARTIAL_N).raise TREE_STATUS_EPOCH_PARTIAL else a2
  let a4 := if t.level = 0 ∨ (1024 ≤ ctx ∧ ¬ a.standsIn j e.tp) then a3
    else
      let u : ContribOut := ⟨e.tp, e.pealId, b, 1, a.mono, t.parent⟩
      (a3.modJob ctx fun j => { j with ups := j.ups ++ [u] }).sendContrib ctx t.parent t.level u false
  a4.queueEpoch ctx e.tp e.pealId (decide (t.level = 0)) c.partial_

/-- The outgoing die unit of a swap is retired after the first epoch from its time on has closed (R409). -/
def Aggregator.retireSwapped (a : Aggregator) (ctx tp : Nat) : Aggregator :=
  match a.job ctx with
  | none => a
  | some j =>
    let due := j.swaps.filter fun s => !s.retired && decide (s.ts ≤ tp)
    due.foldl (fun (a : Aggregator) s =>
      let a1 := a.modJob ctx fun j =>
        { j with swaps := j.swaps.map fun x => if x = s then { x with retired := true } else x }
      match a1.regKey s.out with
      | some k => if a1.servesKey k then a1.control k 0x02 [] else a1
      | none => a1) a

/-- The tray epoch is closed: who has no state is missing with reason 0x0. -/
def Aggregator.closeTray (a : Aggregator) (ctx tp : Nat) : Aggregator :=
  (a.modEpoch ctx tp fun e =>
    { e with trayClosed := some a.nowNs,
             states := e.expected.foldl (fun m d => if (tabGet m d).isSome then m else tabPut m d (.missing 0)) e.states }
    ).retireSwapped ctx tp

/-- The tray contribution is encoded once the tray epoch is closed and its runs have ended (R326). -/
def Aggregator.encodeTray (a : Aggregator) (ctx : Nat) (j : JobCtx) (e : Epoch) : Aggregator :=
  let b := (e.contrib j.schemaId j.schema).bytes
  let a1 := (a.modEpoch ctx e.tp fun x => { x with tray := some b }).appendEpoch ctx j 0 1 e.pealId e.tp e.expected b
  e.expected.foldl (fun (a : Aggregator) d => if e.straggled.contains d then a else a.straggle ctx d false 0) a1

/-- Every close that an epoch is ready for. -/
def Aggregator.settleEpoch (a : Aggregator) (ctx tp : Nat) : Aggregator :=
  let look (a : Aggregator) : Option (JobCtx × Epoch) :=
    match a.job ctx with
    | some j => (j.epoch tp).map fun e => (j, e)
    | none => none
  let a1 := match look a with
    | some (_, e) =>
      if e.armed ∧ e.trayClosed.isNone ∧ e.expected.all (fun d => (tabGet e.states d).isSome) then a.closeTray ctx tp else a
    | none => a
  let a2 := match look a1 with
    | some (j, e) => if e.trayClosed.isSome ∧ e.tray.isNone ∧ e.running.isEmpty then a1.encodeTray ctx j e else a1
    | none => a1
  match look a2 with
  | some (j, e) =>
    match e.tray with
    | some b =>
      let inn := (j.treeAt tp).children.all fun c => (tabGet e.childIn c).isSome
      if inn ∨ e.due then a2.closeSubtree ctx j e b else a2
    | none => a2
  | none => a2

/-- Every open epoch of every job context. -/
def Aggregator.settleEpochs (a : Aggregator) : Aggregator :=
  if a.paused then a
  else (a.jobs.flatMap fun e => e.2.epochs.map fun x => (e.1, x.tp)).foldl (fun (a : Aggregator) x => a.settleEpoch x.1 x.2) a

/-- TRAY_EPOCH_DEADLINE (R273). -/
def Aggregator.trayDeadline (a : Aggregator) (ctx tp : Nat) : Aggregator :=
  match (a.job ctx).bind fun j => (j.epoch tp).map fun e => (j, e) with
  | some (j, e) =>
    if a.paused ∨ ¬ e.armed ∨ e.trayClosed.isSome ∨ a.tc.now < j.trayDeadline tp then a
    else (a.closeTray ctx tp).settleEpoch ctx tp
  | none => a

/-- SUBTREE_EPOCH_DEADLINE (R273): the tray epoch closed no later. -/
def Aggregator.subtreeDeadline (a : Aggregator) (ctx tp : Nat) : Aggregator :=
  match (a.job ctx).bind fun j => (j.epoch tp).map fun e => (j, e) with
  | some (j, e) =>
    if a.paused ∨ a.tc.now < j.subtreeDeadline tp then a
    else
      let a1 := a.modEpoch ctx tp fun x => { x with due := true }
      (if e.trayClosed.isSome then a1 else a1.closeTray ctx tp).settleEpoch ctx tp
  | none => a

/-! ### Arming (R58, R63, R271) -/

/-- A PEAL-ARM payload (Table 10-3): WAIT is half of EPOCH_WAIT. -/
def pealArmPayload (p : SchedPeal) (epochWait : Nat) : List Byte :=
  beBytes 2 p.pealId ++ beBytes 1 (b2n p.freeze) ++ zeros 5 ++ beBytes 10 p.tp ++ beBytes 4 (epochWait / 2) ++ zeros 2

/-- Peals sent whose time has not come. -/
def Aggregator.armedAhead (a : Aggregator) (j : JobCtx) : Nat :=
  (j.peals.filter fun p => p.sent && !p.refused && decide (a.tc.now < p.tp)).length

/-- The time before T_p by which PEAL-ARM is sent (R271). -/
abbrev pealAheadU : Nat := 200000 * nsU

/-- PEAL_ARM_SEND: a scheduled peal is armed at every die unit served for the job, and its epoch opens; one of a refused
schedule opens its epoch with every die unit missing, and closes at its T_p (R271). Less than 200 µs before T_p no PEAL-ARM is
sent, and the die units are missing with reason 0x1 (log 135). -/
def Aggregator.pealArmSend (a : Aggregator) (ctx tp : Nat) : Aggregator :=
  match a.job ctx with
  | none => a
  | some j =>
    match j.peals.find? fun p => decide (p.tp = tp) && !p.sent with
    | none => a
    | some p =>
      if j.state ≠ .armed ∨ (1024 ≤ ctx ∧ ¬ a.inFailover) ∨ (p.refused ∧ a.tc.now < tp) ∨ (¬ p.refused ∧ 8 ≤ a.armedAhead j) then a
      else
        let exp := j.expectedAt tp
        let bad (d : Nat) : Option DieSt :=
          if j.failed.contains d then some (.missing 1)
          else if ¬ a.serves d then some (.missing 3)
          else if p.refused ∨ tp < a.tc.now + pealAheadU then some (.missing 1)
          else none
        let states := exp.foldl (fun m d => match bad d with | some s => tabPut m d s | none => m) ([] : Store DieSt)
        let a1 := a.modJob ctx fun j =>
          let j0 : JobCtx := { j with peals := j.peals.map fun q => if q.tp = tp then { q with sent := true } else q }
          let j1 := j0.openEpoch tp p.pealId
          j1.modEpoch tp fun e => { e with armed := true, pealId := p.pealId, expected := exp, states := states }
        let a2 := exp.foldl (fun (a : Aggregator) d =>
          match bad d, a.regKey d with
          | none, some k => a.control k 0x03 (pealArmPayload p j.epochWait)
          | _, _ => a) a1
        if a.paused then a2 else a2.settleEpoch ctx tp

/-- A PEAL-ARM ended MISSED, FULL or unacknowledged at a die unit (R271). -/
def Aggregator.pealFailed (a : Aggregator) (ctx tp duid : Nat) : Aggregator :=
  (a.modEpoch ctx tp fun e =>
    if e.expected.contains duid ∧ (tabGet e.states duid).isNone ∧ e.trayClosed.isNone then
      { e with states := tabPut e.states duid (.missing 1) } else e).settleEpochs

/-! ### Peal parcels (R272, R274) -/

/-- The snapshot that a PEAL parcel carries, at positions 0 to 511. -/
def pealSamples (l : List Byte) : List W64 × Bool :=
  let s := parcelSamples l
  if be l 40 2 = 32 then (List.replicate 480 0 ++ s, true) else (s, false)

/-- A clean PEAL parcel of a die unit's job: its state, its snapshot, and its TRAY run. True where it is late. -/
def Aggregator.takePeal (a : Aggregator) (ctx duid : Nat) (l : List Byte) : Bool × Aggregator :=
  match a.job ctx with
  | none => (false, a)
  | some j =>
    let desc := parcelDesc l
    let tp := be desc 8 10
    let flags := be desc 2 1
    let (s, light) := pealSamples l
    let d := (tabGet j.dies duid).getD DieJob.init
    let snap : Snap := ⟨s, light, d.prev, d.main⟩
    let a1 := a.modJob ctx fun j =>
      { j with dies := tabPut j.dies duid { d with prev := some (s, light), main := if light then d.main else some s } }
    -- a parcel past the deadline meets a closed epoch, though the close may still be due
    let passed := decide (j.trayDeadline tp ≤ a.tc.now)
    let a2 := if passed then a1.trayDeadline ctx tp else a1
    match (a2.job ctx).bind fun j => j.epoch tp with
    | none => if j.wasClosed tp ∨ passed then (true, a2.countLate) else (false, a2)
    | some e =>
      if e.trayClosed.isSome ∨ passed then (true, a2.countLate)
      else if ¬ e.expected.contains duid ∨ (tabGet e.states duid).isSome then (false, a2)
      else
        let st : DieSt := if light then .lightOnly else if flags % 16 ≠ 0 then .degraded else .present
        let (ran, a3) := a2.queueTray ctx tp e.pealId duid st.code
        let a4 := a3.modEpoch ctx tp fun e =>
          { e with states := tabPut e.states duid st, snaps := tabPut e.snaps duid snap,
                   running := if ran then e.running ++ [duid] else e.running }
        (false, if a.paused then a4 else a4.settleEpoch ctx tp)

/-! ### Children (R282, Table 10-16) -/

def ackTree (kind flags bseq tp : Nat) (acked : List Byte) : List Byte :=
  beBytes 1 kind ++ beBytes 1 flags ++ zeros 2 ++ beBytes 4 bseq ++ beBytes 10 tp ++ zeros 14 ++ acked

def Aggregator.treeStale (a : Aggregator) : Aggregator := (a.inc TREE_CNT0_TREE_STALE_N).raise TREE_STATUS_TREE_STALE

/-- Segments of a contribution that cover it: the bytes in order, none while some are out. -/
def joinSegs (total : Nat) (segs : List (Nat × List Byte)) : Option (List Byte) :=
  let m := segs.foldl (fun m s => tabPut m s.1 s.2) ([] : Store (List Byte))
  let r := m.foldl (fun (b : Option (List Byte)) s =>
    b.bind fun l => if s.1 = l.length then some (l ++ s.2) else none) (some [])
  r.bind fun l => if l.length = total then some l else none

/-- A child's contribution for an epoch has been taken: a copy is acknowledged again and discarded (R282). -/
def JobCtx.hasTaken (j : JobCtx) (tp child : Nat) : Bool := (storeGet [] j.taken tp).contains child

/-- A whole contribution of a child for an epoch, the first: acknowledged, and merged or late (R274, R282). -/
def Aggregator.takeChild (a : Aggregator) (ctx child tp pealId : Nat) (b : List Byte) : Aggregator :=
  let a1 := a.treeFrame ctx ftTreeAck child (ackTree 2 0 0 tp [])
  match a1.job ctx with
  | none => a1
  | some j =>
    let a1 := a1.modJob ctx fun j =>
      { j with taken := storeSet [] j.taken tp (storeGet [] j.taken tp ++ [child]), parts := tabDel j.parts (tp * 4096 + child) }
    if j.wasClosed tp then
      (a1.countLate).appendEpoch ctx j 1 2 pealId tp (j.expectedAt tp) b
    else
      let a2 := a1.modJob ctx fun j => (j.openEpoch tp pealId).modEpoch tp fun e => { e with childIn := tabPut e.childIn child b }
      if a.paused then a2 else a2.settleEpoch ctx tp

/-- The context in whose tree an aggregator is attached as a child for an epoch: an own one, or a mirrored one whose position is
taken here (R282, R283). -/
def Aggregator.parentCtx (a : Aggregator) (job gen child tp : Nat) : Option (Nat × JobCtx) :=
  a.jobs.find? fun e => decide (e.2.job = job ∧ e.2.gen = gen) && e.2.treeHeld && (decide (e.1 < 1024) || a.standsIn e.2 tp)
    && (e.2.treeAt tp).children.contains child

/-- TREE_CONTRIB_RX: a TREE-UP frame of kind CONTRIB (R281, R282). -/
def Aggregator.treeContribRx (a : Aggregator) (l : List Byte) : Aggregator :=
  if ¬ a.on ING_CTRL_EN then a
  else
    let (ok, a1) := a.frameCheck laneTree l
    let b := l.drop 32
    let child := be l 4 4 % 4096
    let tp := be b 6 10
    let pid := be b 4 2
    if ¬ ok ∨ be l 1 1 ≠ ftTreeUp ∨ be b 0 1 ≠ 1 then a1
    else match a1.parentCtx (be l 12 4) (be l 10 1) child tp with
      | none => a1.treeStale
      | some (ctx, j) =>
        if j.hasTaken tp child then a1.treeFrame ctx ftTreeAck child (ackTree 2 0 0 tp [])
        else
          let seg := slice b 32 (be b 24 2)
          let segs := ((tabGet j.parts (tp * 4096 + child)).getD (0, [])).2 ++ [(be b 20 4, seg)]
          match joinSegs (be b 16 4) segs with
          | some whole => a1.takeChild ctx child tp pid whole
          | none => a1.modJob ctx fun j =>
              { j.openEpoch tp pid with parts := tabPut j.parts (tp * 4096 + child) (be b 16 4, segs) }

/-- CONTRIB_ACK_RX (R282). -/
def Aggregator.contribAckRx (a : Aggregator) (l : List Byte) : Aggregator :=
  let (ok, a1) := a.frameCheck laneTree l
  let b := l.drop 32
  if ¬ ok ∨ be l 1 1 ≠ ftTreeAck ∨ be b 0 1 ≠ 2 then a1
  else if (a1.findJob (be l 12 4) (be l 10 1)).isNone then a1.treeStale
  else { a1 with jobs := a1.jobs.map fun e =>
    if e.2.job = be l 12 4 ∧ e.2.gen = be l 10 1 then
      (e.1, { e.2 with ups := e.2.ups.filter fun u => !(decide (u.tp = be b 8 10) && decide (u.to_ = be l 4 4 % 4096)) })
    else e }

/-- CONTRIB_RETRY: while attempts are left, and not past the half of the parent's deadline (R282, R418). -/
def Aggregator.contribRetry (a : Aggregator) (ctx tp : Nat) : Aggregator :=
  match (a.job ctx).bind fun j => (j.ups.find? fun u => u.tp = tp).map fun u => (j, u) with
  | none => a
  | some (j, u) =>
    let wait := max 1 (a.get TREE_TIMING_CONTRIB_RETRY) * 1000
    let t := j.treeAt tp
    if a.mono < u.lastSent + wait then a
    else if max 1 (a.get TREE_TIMING_CONTRIB_TRIES) ≤ u.tries
        ∨ tp + j.epochWaitU + (t.depth - (t.level - 1)) * j.hopWaitU ≤ a.tc.now then
      a.modJob ctx fun j => { j with ups := j.ups.filter fun x => x.tp ≠ tp }
    else
      let u1 : ContribOut := { u with tries := u.tries + 1, lastSent := a.mono }
      (a.modJob ctx fun j => { j with ups := j.ups.map fun x => if x.tp = tp then u1 else x }).sendContrib ctx u.to_ t.level u1
        true

/-! ### Reading an epoch (R294) -/

abbrev epComplete : Nat := 0
abbrev epPartial : Nat := 1
abbrev epOpen : Nat := 2
abbrev epNotFound : Nat := 3

/-- The status and the contribution of an epoch. -/
def JobCtx.readEpoch (j : JobCtx) (tp : Nat) : Nat × List Byte :=
  match j.ring.find? fun e => e.tp = tp with
  | some e => (if bit (be e.contrib 6 2) 0 then epPartial else epComplete, e.contrib)
  | none => (if (j.epoch tp).isSome then epOpen else epNotFound, [])

end Sys2Proof.Machine
end

