-- ==== Sys2Proof/Machine/AuditStage.lean ====
section
/-!
DEFINITION. Taint notices, final verdicts, the audit horizon and the selection windows, and the staging of captures (R301, R307,
R311, R314 to R316, R318 to R320, R322, R323, Tables 11-4 to 11-9).
-/
namespace Sys2Proof.Machine

/-! ### Verdicts and reasons (Tables 11-5, 11-6) -/

abbrev vdPass : Nat := 1
abbrev vdDeviate : Nat := 2
abbrev vdRetry : Nat := 3
abbrev vdAuditor : Nat := 4
abbrev vdIncomplete : Nat := 5
abbrev vdNonconf : Nat := 6

abbrev rsNotBegun : Nat := 0x01
abbrev rsAborted : Nat := 0x02
abbrev rsRetired : Nat := 0x03
abbrev rsUnfinished : Nat := 0x04
abbrev rsLost : Nat := 0x05
abbrev rsShed : Nat := 0x06
abbrev rsTooLarge : Nat := 0x07
abbrev rsAggReset : Nat := 0x08
abbrev rsUnconfirmed : Nat := 0x09
abbrev rsMalformed : Nat := 0x21
abbrev rsCommitFail : Nat := 0x22
abbrev rsBadFormat : Nat := 0x23
abbrev rsBadDescriptor : Nat := 0x24
abbrev rsNoMajority : Nat := 0x41
abbrev rsNoThird : Nat := 0x42

/-! ### Tiles -/

def Tile.new (duid job gen capSeq since : Nat) : Tile :=
  { duid := duid, job := job, gen := gen, capSeq := capSeq, since := since, desc := none, chunks := [], lens := [],
    tooLarge := false, state := .collecting, begun := false, avoid := none, numerics := ⟨0, 0, 0, 0⟩, failover := false,
    results := [], core := none, shadowRun := false, third := false, margin := (0, 0) }

def Tile.is (t : Tile) (duid job gen seq : Nat) : Bool :=
  decide (t.duid = duid ∧ t.job = job ∧ t.gen = gen ∧ t.capSeq = seq)
def Tile.same (t u : Tile) : Bool := t.is u.duid u.job u.gen u.capSeq

/-- A field of the capture descriptor; it is in. -/
def Tile.field (t : Tile) (off n : Nat) : Nat := be (t.desc.getD []) off n
def Tile.step (t : Tile) : Nat := t.field 8 6
def Tile.cell (t : Tile) : Nat := t.field 7 1 % 64
def Tile.commitNs (t : Tile) : Nat := t.field 48 8
def Tile.commitU (t : Tile) : Nat := t.field 48 10
def Tile.used (t : Tile) : List Nat := t.results.map (·.1)

def Aggregator.tile (a : Aggregator) (duid job gen seq : Nat) : Option Tile := a.aud.tiles.find? fun t => t.is duid job gen seq

/-- AUD_STATUS shows the tiles staged or under audit. -/
def Aggregator.showStaged (a : Aggregator) : Aggregator :=
  a.set AUD_STATUS_STAGED (min 65535 (a.aud.tiles.filter fun t => decide (t.state ≠ .collecting)).length)

/-- A tile is replaced, or joins. -/
def Aggregator.putTile (a : Aggregator) (t : Tile) : Aggregator :=
  (a.modAud fun u =>
    { u with tiles := if u.tiles.any (·.same t) then u.tiles.map fun x => if x.same t then t else x else u.tiles ++ [t] }
    ).showStaged

def Aggregator.dropTile (a : Aggregator) (t : Tile) : Aggregator :=
  (a.modAud fun u => { u with tiles := u.tiles.filter fun x => !x.same t }).showStaged

/-- The words of the declared-numerics descriptor of a die unit (R301). -/
def Aggregator.numericsWords (a : Aggregator) (e : Nat) : Numerics :=
  ⟨(a.word (addr_NUM_W0 e)).toNat, (a.word (addr_NUM_W1 e)).toNat, (a.word (addr_NUM_W2 e)).toNat, (a.word (addr_NUM_W3 e)).toNat⟩

def Aggregator.numericsOf (a : Aggregator) (duid num : Nat) : Numerics :=
  match a.regKey duid with
  | some k => a.numericsWords (16 * a.get (AUD_NUMSET_SET k) + num % 16)
  | none => ⟨0, 0, 0, 0⟩

/-! ### Taint (R318, R319, Table 11-9) -/

abbrev taintSizes : List Nat := [4, 1, 1, 6, 4, 4, 4, 2, 2, 4, 8, 2, 8, 2, 4]

def taintNotice (job gen cause step duid tensor tile agg vseq commit : Nat) (confirm : List Byte) : List Byte :=
  beBytes 4 job ++ beBytes 1 gen ++ beBytes 1 cause ++ beBytes 6 step ++ beBytes 4 duid ++ beBytes 4 tensor ++ beBytes 4 tile
    ++ beBytes 2 agg ++ zeros 2 ++ beBytes 4 vseq ++ beBytes 10 commit ++ confirm ++ zeros 4

/-- A notice is applied to the matching job context and stored in the ledger (R319). -/
def Aggregator.applyTaint (a : Aggregator) (n : List Byte) : Aggregator :=
  let job := be n 0 4
  let gen := be n 4 1
  let first := be n 6 6
  let mark (j : JobCtx) : JobCtx :=
    if j.job = job ∧ j.gen = gen then { j with tainted := true, firstTaint := min j.firstTaint first } else j
  let a1 : Aggregator := { a with jobs := a.jobs.map fun e => (e.1, mark e.2) }
  let a2 := match a1.ownJob job gen with
    | some (c, _) => a1.mirrorJob c
    | none => a1
  a2.appendRec job gen lkTaint 0 first (be n 12 4) (toLe taintSizes n)

/-! ### Selection windows (R322, R323) -/

/-- Counts of a step and cell changed. -/
def DieJob.modCount (d : DieJob) (step cell : Nat) (f : CellCount → CellCount) : DieJob :=
  { d with counts := storeSet CellCount.zero d.counts (64 * step + cell) (f (storeGet CellCount.zero d.counts (64 * step + cell))) }

/-- Thresholds in force at a step: those last written for it (R168). -/
def DieJob.thrAt (d : DieJob) (step : Nat) : Store Nat :=
  ((d.thrFrom.filter fun e => decide (e.1 ≤ step)).getLast?.map (·.2)).getD []

/-- Units of expected selections: 2^-64. -/
abbrev selUnit : Nat := 2 ^ 64

/-- The windows of a die unit's cells after one step of coverage; the cells that fell short. -/
def DieJob.window (d : DieJob) (c : Coverage) : List Nat × DieJob :=
  let thr := d.thrAt c.step
  let commits (i : Nat) : Nat := be c.bytes (16 + 4 * i) 4
  let p (i : Nat) : Nat := storeGet 0 thr i
  let total := (List.range 64).foldl (fun n i => n + commits i * p i) 0
  let dropped := be c.bytes 12 4
  (List.range 64).foldl (fun (r : List Nat × DieJob) i =>
    let ex := commits i * p i
    if ex = 0 then r
    else
      let (e0, v0, s0, x0) := storeGet (0, 0, 0, 0) r.2.z i
      let e := e0 + ex * 2 ^ 32
      let v := v0 + ex * (2 ^ 32 - p i)
      let s := s0 + (storeGet CellCount.zero d.counts (64 * c.step + i)).selected
      let x := x0 + dropped * ex * selUnit / total
      if e < 1000 * selUnit then (r.1, { r.2 with z := storeSet (0, 0, 0, 0) r.2.z i (e, v, s, x) })
      else
        let got := s * selUnit + x
        -- z below −6: the shortfall is positive and its square exceeds 36 times the variance
        let short := decide (got < e) && decide (36 * v * selUnit < (e - got) * (e - got))
        (if short then r.1 ++ [i] else r.1, { r.2 with z := storeSet (0, 0, 0, 0) r.2.z i (0, 0, 0, 0) })) ([], d)

def Aggregator.modDie (a : Aggregator) (ctx duid : Nat) (f : DieJob → DieJob) : Aggregator :=
  a.modJob ctx fun j => { j with dies := tabPut j.dies duid (f ((tabGet j.dies duid).getD DieJob.init)) }

/-- The windows of every die unit take in a step that the horizon has reached. -/
def Aggregator.windows (a : Aggregator) (ctx step : Nat) (ds : List Nat) : Aggregator :=
  ds.foldl (fun (a : Aggregator) d =>
    match (a.job ctx).bind fun j => (tabGet j.dies d).bind fun x => (x.cover.find? fun c => c.step = step).map fun c => (j, x, c) with
    | none => a
    | some (j, x, c) =>
      let (short, x1) := x.window c
      let a1 := a.modDie ctx d fun _ => x1
      short.foldl (fun (a : Aggregator) _ =>
        (a.raise AUD_STATUS_SEL_SHORTFALL).charge (a.dieUnitOf d) hcSelShortfall 200 ⟨a.nowNs, j.job, j.gen, step⟩) a1) a

/-! ### The audit horizon (R320) -/

/-- Die units of a job that are served here. -/
def Aggregator.jobDies (a : Aggregator) (j : JobCtx) : List Nat := j.dieUnits.filter a.serves

/-- Those of which coverage is due now: none that failed its ARM, that a swap has taken out, or has not yet brought in. -/
def Aggregator.horizonDies (a : Aggregator) (j : JobCtx) : List Nat :=
  (j.expectedAt a.tc.now).filter fun d => a.serves d && !j.failed.contains d

/-- The greatest step that the coverage records and the verdicts of a job allow, over every context that is served here. While
the step of a capture is unknown (no descriptor, or a missing number), it does not move on (log 143). -/
def Aggregator.horizonOf (a : Aggregator) (j : JobCtx) : Option Nat :=
  let cs := a.jobCtxs j.job j.gen
  let dies := cs.flatMap fun e => (a.horizonDies e.2).map e.2.dieStep
  let tiles := a.aud.tiles.filter fun t => decide (t.job = j.job ∧ t.gen = j.gen)
  let unknown := tiles.any (·.desc.isNone) || cs.any fun e => e.2.dies.any fun d => !d.2.capGaps.isEmpty
  match minOf (dies ++ (tiles.filter (·.desc.isSome)).map (·.step)) with
  | none => j.horizon
  | some 0 => none
  | some (n + 1) => if dies = [] then j.horizon.map (min n) else if unknown then j.horizon.map (min n) else some n

/-- One context of a job takes its horizon: the steps that it reaches for the first time are noted for the seal (R368) and
enter the windows. -/
def Aggregator.reach (a : Aggregator) (h : Option Nat) (ctx : Nat) (j : JobCtx) : Aggregator :=
  let n := match h with | some h => h + 1 | none => 0
  let steps := (List.range (n - j.reachedTo)).map (j.reachedTo + ·)
  let a1 := a.modJob ctx fun j => { j with horizon := h, reachedTo := max j.reachedTo n }
  let a2 := a1.modLedger j.job j.gen (a.homeOfCtx ctx) fun l => steps.foldl (fun (l : Ledger) s => l.modStep s fun x =>
    { x with reached := if x.reached.isNone then some a.mono else x.reached }) l
  let a3 := steps.foldl (fun (a : Aggregator) s => a.windows ctx s (a.jobDies j)) a2
  if j.horizon = h ∨ 1024 ≤ ctx then a3 else a3.mirrorJob ctx

/-- The horizon of a job is found anew, one for all its contexts. -/
def Aggregator.updateHorizon (a : Aggregator) (ctx : Nat) : Aggregator :=
  match a.job ctx with
  | none => a
  | some j =>
    let h := a.horizonOf j
    (a.jobCtxs j.job j.gen).foldl (fun (a : Aggregator) e => a.reach h e.1 e.2) a

/-! ### Final verdicts (R311, R315, R316) -/

/-- What a verdict says of its audits: elements outside, row, column, usage, and by class. -/
structure Decided where
  devN : Nat
  row : Nat
  col : Nat
  usage : Nat
  byClass : Bool
  deriving DecidableEq, Repr

def AuditResult.decided (r : AuditResult) : Decided := ⟨r.devN, r.worstRow, r.worstCol, r.usage, r.byClass⟩

/-- The step, cell, number and commitment time that the verdict of a capture carries: its descriptor's, or free ones (log 52). -/
def Aggregator.tilePlace (a : Aggregator) (t : Tile) : Nat × Nat × Nat × Nat :=
  if t.desc.isSome then (t.step, t.cell, t.field 15 1 % 16, t.commitNs)
  else ((Config.lostStep a.free).toNat, (Config.lostCell a.free).toNat, (Config.lostNum a.free).toNat,
    (Config.lostCommit a.free).toNat)

def verdictField (v : Nat) : Fld :=
  match v with
  | 1 => AUD_CNT0_PASS_N
  | 2 => AUD_CNT0_DEVIATE_N
  | 3 => AUD_CNT1_RETRY_AGREE_N
  | 4 => AUD_CNT1_AUDITOR_FAULT_N
  | 5 => AUD_CNT2_INCOMPLETE_N
  | _ => AUD_CNT2_NONCONF_N

def verdictStatus (v : Nat) : Option Fld :=
  match v with
  | 2 => some AUD_STATUS_DEVIATE
  | 4 => some AUD_STATUS_AUDITOR_FAULT
  | 5 => some AUD_STATUS_INCOMPLETE
  | 6 => some AUD_STATUS_NONCONFORMING
  | _ => none

/-- Points of a die unit's charge for a verdict (Table 14-1), with its code. -/
def verdictCharge (v reason : Nat) : Option (Nat × Nat) :=
  if v = vdNonconf ∧ (reason = rsMalformed ∨ reason = rsCommitFail) then some (hcNonconforming, 300)
  else if v = vdIncomplete ∧ (reason = rsNotBegun ∨ reason = rsAborted ∨ reason = rsUnfinished) then some (hcCapIncomplete, 5)
  else none

/-- A capture ends with its one final verdict: the record, the counts, the notice, the charge, the horizon. -/
def Aggregator.verdict (a : Aggregator) (t : Tile) (v reason : Nat) (d : Option Decided) : Aggregator :=
  let (step, cell, num, commit) := a.tilePlace t
  let a0 := if t.desc.isSome then a else a.draw.2
  let near := decide (v = vdPass) && (match d with | some d => decide (t.margin.2 ≤ d.usage) | none => false)
  let taints := decide (v = vdDeviate) || (decide (v = vdNonconf) && a.on AUD_CTRL_TAINT_NC)
  let slack := d.isSome && decide (t.margin.1 + t.numerics.slack ≠ 0)
  let flags := b2n t.third + 2 * b2n t.shadowRun + 4 * b2n a.inFailover + 8 * b2n (bit (t.field 7 1) 6)
    + 16 * b2n ((d.map (·.byClass)).getD false) + 32 * b2n near + 64 * b2n taints + 128 * b2n slack
  let vseq := a.get AUD_VSEQ_VSEQ
  let core (i : Nat) : Nat := t.used.getD i 0xFF
  let x := d.getD ⟨0, 0, 0, 0, false⟩
  let body := leBytes 4 t.job ++ leBytes 1 t.gen ++ leBytes 1 v ++ leBytes 1 reason ++ leBytes 1 flags ++ leBytes 6 step
    ++ leBytes 1 cell ++ leBytes 1 num ++ leBytes 4 t.duid ++ leBytes 4 (t.field 16 4) ++ leBytes 4 (t.field 20 4)
    ++ leBytes 4 t.capSeq ++ leBytes 8 commit ++ leBytes 8 a.nowNs ++ leBytes 4 x.devN ++ leBytes 1 x.row ++ leBytes 1 x.col
    ++ leBytes 2 x.usage ++ leBytes 1 (core 0) ++ leBytes 1 (core 1) ++ leBytes 1 (core 2) ++ zeros 1 ++ leBytes 4 vseq
  let a1 := ((a0.dropTile t).incWrap AUD_VSEQ_VSEQ).inc (verdictField v)
  let a2 := match verdictStatus v with | some f => a1.raise f | none => a1
  let a3 := if near then (a2.inc AUD_CNT3_NEAR_N).raise AUD_STATUS_NEAR_MISS else a2
  let a4 := if reason = rsShed ∧ v = vdIncomplete then (a3.inc AUD_CNT3_SHED_N).raise AUD_STATUS_SHED else a3
  let a5 := if t.desc.isSome then a4.appendRec t.job t.gen lkVerdict 0 step t.duid body
    else match a4.jobOf t.job t.gen t.duid with
      | some (_, j) => a4.appendFiled j lkVerdict 0 t.duid body
      | none => a4
  let a6 := match a5.jobOf t.job t.gen t.duid with
    | none => a5
    | some (ctx, _) => a5.modDie ctx t.duid fun dj => dj.modCount step cell fun c =>
        { c with audited := c.audited + b2n (decide (v ≤ 3)), deviates := c.deviates + b2n (decide (v = vdDeviate)),
                 near := c.near + b2n near, selected := c.selected + b2n (decide (t.desc.isNone)) }
  let a7 := if taints then
      let n := taintNotice t.job t.gen (if v = vdDeviate then 1 else 2) step t.duid (t.field 16 4) (t.field 20 4) a.id vseq
        t.commitU a.mark
      (((a6.applyTaint n).inc AUD_CNT4_TAINT_N).raise AUD_STATUS_TAINT).event (.taint n)
    else a6
  let cause : Cause := ⟨commit, t.job, t.gen, step⟩
  let a8 := if v = vdDeviate then a7.chargeDeviate (a7.dieUnitOf t.duid) cell cause
    else match verdictCharge v reason with
      | some (code, points) => a7.charge (a7.dieUnitOf t.duid) code points cause
      | none => a7
  match a8.jobOf t.job t.gen t.duid with
  | some (ctx, _) => a8.updateHorizon ctx
  | none => a8

/-! ### Staging (R307, Table 11-4) -/

abbrev captureMax : Nat := 67108864

/-- The bytes of a part whose last chunk is in, none while some are out. -/
def Tile.part (t : Tile) (p : Nat) : Option (List Byte) :=
  match tabGet t.lens p with
  | none => none
  | some n => joinSegs n ((t.chunks.filter fun c => c.1 = p).map (·.2))

/-- The tile's work under a descriptor, none where its format is reserved or a part is missing. -/
def Tile.work (t : Tile) (d : Numerics) : Option TileWork :=
  match fmtOf (t.field 14 1 % 64), fmtOf d.outFmt, t.part 0, t.part 1, t.part 2 with
  | some f, some o, some pa, some pb, some py =>
    some ⟨f, o, t.field 24 1 + 1, t.field 25 1 + 1, t.field 26 3 + 1, pa, pb, py⟩
  | _, _, _, _, _ => none

/-- Bytes of the three parts by M, N, K, FMT and the output format; of those whose format is reserved none (R170). -/
def Tile.declared (t : Tile) (outFmt : Nat) : Nat :=
  let m := t.field 24 1 + 1
  let n := t.field 25 1 + 1
  (match fmtOf (t.field 14 1 % 64) with | some f => (m + n) * f.runBytes (t.field 26 3 + 1) | none => 0)
    + match fmtOf outFmt with | some o => m * o.runBytes n | none => 0

/-- The extent of the chunks of the three parts. -/
def Tile.extent (t : Tile) : Nat :=
  ((List.range 3).map fun p => t.chunks.foldl (fun n c => if c.1 = p then max n (c.2.1 + c.2.2.length) else n) 0).foldl (· + ·) 0

/-- The parts of a capture exceed 64 MiB, by its chunks or by its descriptor. -/
def Aggregator.oversize (a : Aggregator) (t : Tile) : Bool :=
  t.tooLarge || decide (captureMax < t.extent)
    || (t.desc.isSome && decide (captureMax < t.declared (a.numericsOf t.duid (t.field 15 1)).outFmt))

/-- The parts have the lengths of R170, and the output its check value. -/
def TileWork.partsOk (w : TileWork) (outCheck : Nat) : Bool :=
  decide (w.partA.length = w.m * w.fmt.runBytes w.k) && decide (w.partB.length = w.n * w.fmt.runBytes w.k)
    && decide (w.partY.length = w.m * w.out.runBytes w.n) && decide (crc64 w.partY = outCheck)

/-- What Table 11-4 says of a capture. -/
inductive StageFate where
  | wait
  | ends (verdict reason : Nat)
  | staged (d : Numerics)
  deriving DecidableEq, Repr

def Aggregator.stageFate (a : Aggregator) (t : Tile) (expired : Bool) : StageFate :=
  let st := if t.desc.isSome then t.field 5 1 else 0xFF
  match st with
  | 0x01 => .ends vdIncomplete rsNotBegun
  | 0x02 => .ends vdIncomplete rsAborted
  | 0x05 => .ends vdIncomplete rsRetired
  | 0x06 => .ends vdIncomplete rsUnfinished
  | 0x03 => .ends vdNonconf rsMalformed
  | 0x04 => .ends vdNonconf rsCommitFail
  | _ =>
    if a.oversize t ∧ (t.desc.isSome ∨ expired) then .ends vdIncomplete rsTooLarge
    else if st ≠ 0 ∨ (t.part 0).isNone ∨ (t.part 1).isNone ∨ (t.part 2).isNone then
      (if expired then .ends vdIncomplete rsLost else .wait)
    else if (fmtOf (t.field 14 1 % 64)).isNone then .ends vdNonconf rsBadFormat
    else
      let d := a.numericsOf t.duid (t.field 15 1)
      if ¬ d.valid then .ends vdNonconf rsBadDescriptor
      else match t.work d with
        | some w => if w.partsOk (t.field 40 8) then .staged d else .ends vdIncomplete rsLost
        | none => .ends vdIncomplete rsLost

/-- A capture's fate is looked at anew. -/
def Aggregator.stage (a : Aggregator) (t : Tile) (expired : Bool) : Aggregator :=
  let a1 := a.putTile t
  if t.state ≠ .collecting then a1
  else match a1.stageFate t expired with
    | .wait => a1
    | .ends v r => a1.verdict t v r none
    | .staged d => a1.putTile { t with state := .staged, numerics := d }

/-- Capture numbers of a die unit that the ledger of its context knows: with a verdict, or with a descriptor. -/
def Aggregator.knownCaptures (a : Aggregator) (duid job gen ctx : Nat) : List Nat :=
  match a.ledger job gen (a.homeOfCtx ctx) with
  | none => []
  | some l => (l.recs.filter fun r => decide (r.duid = duid)).filterMap fun r =>
      if r.kind = lkVerdict then some (le r.body 28 4) else if r.kind = lkCapDesc then some (le r.body 32 4) else none

/-- A number of 32 bits is before another, in serial order. -/
def seqBefore (x y : Nat) : Bool := decide (0 < (y + 2 ^ 32 - x) % 2 ^ 32 ∧ (y + 2 ^ 32 - x) % 2 ^ 32 < 2 ^ 31)

/-- The next CAP_SEQ of a die unit: of a mirrored context, the home aggregator's records are taken into account (log 142). -/
def Aggregator.nextCapSeq (a : Aggregator) (duid ctx : Nat) (j : JobCtx) : Nat :=
  let own := ((tabGet j.dies duid).getD DieJob.init).capSeq
  if ctx < 1024 then own
  else (a.knownCaptures duid j.job j.gen ctx).foldl (fun n x => if seqBefore x n then n else (x + 1) % 2 ^ 32) own

/-- The capture of a number, new or in staging; none where its verdict is final. A number passed over is missing from now on
(R307). -/
def Aggregator.takeCapture (a : Aggregator) (duid job gen seq : Nat) : Option Tile × Aggregator :=
  match a.tile duid job gen seq with
  | some t => (some t, a)
  | none =>
    match a.jobOf job gen duid with
    | none => (none, a)
    | some (ctx, j) =>
      let d := { (tabGet j.dies duid).getD DieJob.init with capSeq := a.nextCapSeq duid ctx j }
      let ahead := (seq + 2 ^ 32 - d.capSeq) % 2 ^ 32
      let t := Tile.new duid job gen seq a.mono
      if d.capGaps.any fun g => g.1 = seq then
        (some t, a.wakeAudit.modDie ctx duid fun d => { d with capGaps := d.capGaps.filter fun g => g.1 ≠ seq })
      else if ahead < 2 ^ 31 then
        let gaps := (List.range ahead).map fun i => ((d.capSeq + i) % 2 ^ 32, a.mono)
        (some t, a.wakeAudit.modDie ctx duid fun d => { d with capSeq := (seq + 1) % 2 ^ 32, capGaps := d.capGaps ++ gaps })
      else if 1024 ≤ ctx ∧ ¬ (a.knownCaptures duid job gen ctx).contains seq then (some t, a.wakeAudit)
      else (none, a)

/-- A CAPTURE parcel's record, a chunk (Table 6-10). -/
def Aggregator.takeChunk (a : Aggregator) (duid : Nat) (r : List Byte) : Aggregator :=
  match a.takeCapture duid (be r 0 4) (be r 4 1) (be r 8 4) with
  | (none, a1) => a1
  | (some t, a1) =>
    let part := be r 5 1
    let off := be r 12 4
    let data := slice r 24 (be r 16 4)
    let t1 : Tile := { t with chunks := t.chunks ++ [(part, off, data)],
                              lens := if bit (be r 6 1) 0 then tabPut t.lens part (off + data.length) else t.lens }
    if 2 < part ∨ t.state ≠ .collecting then a1.putTile t
    else if a1.oversize t1 then a1.stage { t with tooLarge := true, chunks := [], lens := [] } false
    else a1.stage t1 false

/-- A CAP-DESC parcel's record, a descriptor (Table 6-11): its selection counts in its cell (R322). -/
def Aggregator.takeDesc (a : Aggregator) (duid : Nat) (r : List Byte) : Aggregator :=
  match a.takeCapture duid (be r 0 4) (be r 4 1) (be r 32 4) with
  | (none, a1) => a1
  | (some t, a1) =>
    if t.desc.isSome then a1.putTile t
    else
      let t1 : Tile := { t with desc := some r }
      let a2 := match a1.jobOf t.job t.gen t.duid with
        | some (ctx, _) => a1.modDie ctx t.duid fun d => d.modCount t1.step t1.cell fun c => { c with selected := c.selected + 1 }
        | none => a1
      a2.stage t1 false

/-- STAGE_WAIT in ns. -/
def Aggregator.stageWait (a : Aggregator) : Nat := max 1 (a.get AUD_CTRL_STAGE_WAIT) * 1000000

/-- STAGE_WAIT_EXPIRY of a capture in staging, or of a missing number (R307). -/
def Aggregator.stageExpiry (a : Aggregator) (duid job gen seq : Nat) : Aggregator :=
  match a.tile duid job gen seq with
  | some t => if t.state = .collecting ∧ t.since + a.stageWait ≤ a.mono then a.stage t true else a
  | none =>
    match a.jobOf job gen duid with
    | none => a
    | some (ctx, j) =>
      match ((tabGet j.dies duid).getD DieJob.init).capGaps.find? fun g => g.1 = seq with
      | none => a
      | some g =>
        if g.2 + a.stageWait ≤ a.mono then
          (a.modDie ctx duid fun d => { d with capGaps := d.capGaps.filter fun x => x.1 ≠ seq }).verdict
            (Tile.new duid job gen seq a.mono) vdIncomplete rsLost none
        else a

end Sys2Proof.Machine
end

