-- ==== Sys2Proof/Machine/AuditRun.lean ====
section
/-!
DEFINITION. The tile dispatcher and the verdict state flow (R296, R308 to R314, R317, R324, Table 11-7).
-/
namespace Sys2Proof.Machine

/-! ### Who may audit (R296, R308, R312) -/

def Aggregator.inMask (a : Aggregator) (c : Nat) : Bool := bit (a.get AUD_XDE_MASK) c

/-- An XDE that may take a tile: in the mask, its core takes work, and it audits nothing. -/
def Aggregator.xdeFree (a : Aggregator) (c : Nat) : Bool :=
  decide (c < 64) && a.inMask c && a.dispatchable c && !a.aud.tiles.any fun t => decide (t.core = some c)

def Aggregator.dieOf (a : Aggregator) (c : Nat) : Bool := bit a.cfg.coreDie c

/-- Some XDE of the mask has taken no part in a tile's audits. -/
def Aggregator.anotherXde (a : Aggregator) (used : List Nat) : Bool :=
  (List.range 64).any fun c => a.inMask c && !used.contains c

/-- The precedence class of a tile that waits for an audit (R308); a shadow audit is a second audit (log 56). -/
def Aggregator.tileClass (a : Aggregator) (t : Tile) : Option Nat :=
  match t.state with
  | .want2 => some 0
  | .wantShadow => some 0
  | .want3 => some 0
  | .staged =>
    let thr := match a.jobOf t.job t.gen t.duid with
      | some (_, j) => ((tabGet j.dies t.duid).getD DieJob.init).thr
      | none => []
    let low := (minOf ((List.range 64).map fun c => storeGet 0 thr c)).getD 0
    if low < storeGet 0 thr t.cell then some 1 else some 2
  | _ => none

/-- A core may take a tile: it took no part in it; after an interruption another does (R309); a later audit goes to the other
analysis die where one of its XDEs is free (R308). -/
def Aggregator.mayTake (a : Aggregator) (t : Tile) (c : Nat) : Bool :=
  let others := (List.range 64).filter fun x => a.xdeFree x && decide (x ≠ c) && !t.used.contains x
  let split := a.on AUD_CTRL_SPLIT_DIE && !t.used.isEmpty && t.used.any (fun u => a.dieOf u == a.dieOf c)
    && others.any fun x => t.used.all fun u => a.dieOf u != a.dieOf x
  let avoid := decide (t.avoid = some c) && (List.range 64).any fun x => a.inMask x && decide (x ≠ c) && !t.used.contains x
  !t.used.contains c && !split && !avoid

/-- The oldest of some tiles by COMMIT_T. -/
def oldestTile (l : List Tile) : Option Tile :=
  l.foldl (fun (b : Option Tile) t =>
    match b with
    | none => some t
    | some x => if t.commitU < x.commitU then some t else some x) none

/-- The tile of the highest precedence that a core may take; in failover, first audits alternate between the trays (R310). -/
def Aggregator.nextTile (a : Aggregator) (c : Nat) : Option (Nat × Tile) :=
  (List.range 3).findSome? fun cls =>
    let l := a.aud.tiles.filter fun t => decide (a.tileClass t = some cls) && a.mayTake t c
    let last := storeGet 0 a.aud.alternate cls
    let other := l.filter fun t => decide (b2n (a.ofPartner t.duid) ≠ last)
    (if cls ≠ 0 ∧ a.inFailover then (oldestTile other).orElse fun _ => oldestTile l else oldestTile l).map fun t => (cls, t)

/-- TILE_DISPATCH to the XDE of a core; a core that is not on wakes for it (R252). -/
def Aggregator.dispatch (a : Aggregator) (c : Nat) : Aggregator :=
  if ¬ a.on AUD_CTRL_EN ∨ ¬ a.xdeFree c then a
  else match a.nextTile c with
    | none => a
    | some (cls, t) =>
      if ¬ a.coreOn c then a.wakeDomain c
      else
        let st : TileState := match t.state with
          | .want2 => .audit2
          | .wantShadow => .shadow
          | .want3 => .audit3
          | _ => .audit1
        let a1 := a.putTile { t with state := st, core := some c, begun := true, avoid := none,
                                     margin := (a.get AUD_MARGIN_SLACK_REL, a.get AUD_MARGIN_NEAR) }
        if cls = 0 then a1
        else a1.modAud fun u => { u with alternate := storeSet 0 u.alternate cls (b2n (a.ofPartner t.duid)) }

/-- START_WAIT_EXPIRY (R308). -/
def Aggregator.startExpiry (a : Aggregator) (duid job gen seq : Nat) : Aggregator :=
  match a.tile duid job gen seq with
  | none => a
  | some t =>
    if t.state = .staged ∧ ¬ t.begun ∧ t.commitNs + a.get AUD_CTRL_START_WAIT * 1000000 ≤ a.nowNs then
      a.verdict t vdIncomplete rsShed none
    else a

/-! ### The end of an audit (R312 to R314) -/

/-- An XDE is charged (R314, Table 14-1): the event names the core, the tile and the verdict. -/
def Aggregator.chargeXde (a : Aggregator) (t : Tile) (v points c : Nat) : Aggregator :=
  ((a.inc (XDE_ERR_DISAGREE_N c)).report "AUDITOR-DISAGREE" [c, t.duid, t.field 16 4, t.field 20 4, v]).coreFault c hcXdeCharged
    points ⟨a.nowNs, t.job, t.gen, t.step⟩

def Aggregator.chargeXdes (a : Aggregator) (t : Tile) (v points : Nat) (cs : List Nat) : Aggregator :=
  cs.foldl (fun (a : Aggregator) c => a.chargeXde t v points c) a

/-- What an AUDITOR-FAULT verdict says of its audits: whether an element was judged by class is known, the rest no rule gives
(log 55). -/
def undecidedOf (t : Tile) (n : Nat) : Decided :=
  let v := (Config.undecided n).toNat
  ⟨bits v 31 0, bits v 39 32, bits v 47 40, bits v 63 48, t.results.any (·.2.byClass)⟩

def Aggregator.auditorFault (a : Aggregator) (t : Tile) (reason : Nat) : Aggregator :=
  let (n, a1) := a.draw
  (a1.verdict t vdAuditor reason (some (undecidedOf t n))).chargeXdes t vdAuditor 150 t.used

/-- A tile that wants an audit which no XDE of the mask can give takes the end that Table 11-7 names. -/
def Aggregator.unservable (a : Aggregator) (t : Tile) : Aggregator :=
  if a.anotherXde t.used then a
  else match t.state, t.results with
    | .want2, _ => a.verdict t vdIncomplete rsUnconfirmed ((t.results.head?).map fun r => r.2.decided)
    | .wantShadow, r :: _ => a.verdict { t with shadowRun := false } vdPass 0 (some r.2.decided)
    | .want3, _ => a.auditorFault t rsNoThird
    | _, _ => a

/-- A tile waits for a further audit, or ends where there can be none. -/
def Aggregator.wantMore (a : Aggregator) (t : Tile) (st : TileState) : Aggregator :=
  let t1 : Tile := { t with state := st }
  (a.putTile t1).unservable t1

/-- A first audit of the tile is chosen for a shadow audit (R313). -/
def Aggregator.shadowChosen (a : Aggregator) (t : Tile) : Bool × Aggregator :=
  let n := a.get AUD_CTRL_SHADOW_LOG
  let (d, a1) := a.draw
  (decide (n ≠ 0) && decide (Config.shadowDraw d % 2 ^ n = 0) && a.anotherXde t.used, a1)

/-- The tile moves on with a further result of a core. -/
def Aggregator.resultIn (a : Aggregator) (t : Tile) (c : Nat) (r : AuditResult) : Aggregator :=
  let t1 : Tile := { t with core := none, results := t.results ++ [(c, r)], third := t.third || decide (t.state = .audit3),
                            shadowRun := t.shadowRun || decide (t.state = .shadow) }
  match t.state, t.results with
  | .audit1, _ =>
    if 0 < r.devN then a.wantMore t1 .want2
    else
      let (shadow, a1) := a.shadowChosen t1
      if shadow then a1.wantMore t1 .wantShadow else a1.verdict t1 vdPass 0 (some r.decided)
  | .audit2, [x] =>
    if x.2.sums = r.sums then a.verdict t1 vdDeviate 0 (some x.2.decided) else a.wantMore t1 .want3
  | .shadow, [x] =>
    let a1 := a.inc AUD_CNT4_SHADOW_N
    if x.2.sums = r.sums then a1.verdict t1 vdPass 0 (some x.2.decided) else a1.wantMore t1 .want3
  | .audit3, [x, y] =>
    let agree (z odd : Nat × AuditResult) : Aggregator :=
      let v := if 0 < z.2.devN then vdDeviate else vdRetry
      (a.verdict t1 v 0 (some z.2.decided)).chargeXde t1 v 100 odd.1
    if x.2.sums = r.sums then agree x y
    else if y.2.sums = r.sums then agree y x
    else a.auditorFault t1 rsNoMajority
  | _, _ => a

/-- AUDIT_COMPLETE: the XDE of a core finishes its audit. `errs`: elements at which its S and T differ from the exact sums. -/
def Aggregator.auditComplete (a : Aggregator) (c : Nat) (errs : List (Nat × Int × Int)) : Aggregator :=
  match a.aud.tiles.find? fun t => t.core = some c with
  | none => a
  | some t =>
    match t.work t.numerics with
    | none => a
    | some w =>
      let (n, a1) := a.draw
      (a1.inc AUD_PRODUCTS w.slots).resultIn t c
        (w.audit t.numerics t.margin.1 errs (Config.classUsage n).toNat)

/-- The state a tile returns to when its audit is interrupted (R309). -/
def TileState.back : TileState → TileState
  | .audit2 => .want2
  | .shadow => .wantShadow
  | .audit3 => .want3
  | .audit1 => .staged
  | s => s

/-- The audit of a core is interrupted: its partial result is discarded, and another XDE audits (R309). -/
def Aggregator.interruptAudit (a : Aggregator) (c : Nat) : Aggregator :=
  match a.aud.tiles.find? fun t => t.core = some c with
  | none => a
  | some t =>
    let t1 : Tile := { t with core := none, state := t.state.back, avoid := some c }
    ((a.putTile t1).inc (XDE_ERR_FAULT_N c)).unservable t1

/-- ENGINE_FAULT of a core. -/
def Aggregator.engineFault (a : Aggregator) (c : Nat) : Aggregator :=
  if 64 ≤ c then a else (a.interruptAudit c).coreFault c hcEngineFault 20 a.here

/-- AUD_XDE_MASK holds another set: tiles that no XDE can serve any more end (R317). -/
def Aggregator.setMask (a : Aggregator) (m : Nat) : Aggregator :=
  let a1 := a.set AUD_XDE_MASK m
  a1.aud.tiles.foldl (fun (a : Aggregator) t => a.unservable t) a1

/-! ### Other events (R317) -/

/-- The quarantine of a job ends: what has not begun is RETIRED. -/
def Aggregator.retireTiles (a : Aggregator) (job gen home : Nat) : Aggregator :=
  (a.aud.tiles.filter fun t => decide (t.job = job ∧ t.gen = gen ∧ a.homeOfDie t.duid = home) && !t.begun).foldl (fun (a : Aggregator) t =>
    a.verdict t vdIncomplete rsRetired none) a

/-- A takeover after a chip reset of the home aggregator: every mirrored capture descriptor without a mirrored verdict is
INCOMPLETE with AGG-RESET. A capture that is in staging here has its own end. -/
def Aggregator.resetCaptures (a : Aggregator) : Aggregator :=
  a.led.ledgers.foldl (fun (a : Aggregator) l =>
    if l.home ≠ a.partner then a
    else
      let done := (l.recs.filter fun r => r.kind = lkVerdict).map fun r => (le r.body 16 4, le r.body 28 4)
      (l.recs.filter fun r => decide (r.kind = lkCapDesc ∧ r.author = l.home) && !done.contains (r.duid, le r.body 32 4)
          && (a.tile r.duid l.job l.gen (le r.body 32 4)).isNone).foldl
        (fun (a : Aggregator) r =>
          a.verdict { Tile.new r.duid l.job l.gen (le r.body 32 4) a.mono with desc := some (toLe capDescSizes r.body) }
            vdIncomplete rsAggReset none) a) a

/-! ### Registers of page 0x15 (R324) -/

def Aggregator.audBad (a : Aggregator) : Aggregator := a.raise AUD_STATUS_CFG_INVALID

/-- NUMERICS_DESCRIPTOR_WRITE: word w of descriptor e, the merged word; the whole descriptor is validated. -/
def Aggregator.writeNumerics (a : Aggregator) (e w m : Nat) : Aggregator :=
  let key := match w with
    | 0 => addr_NUM_W0 e
    | 1 => addr_NUM_W1 e
    | 2 => addr_NUM_W2 e
    | _ => addr_NUM_W3 e
  let a1 := a.setWord key (BitVec.ofNat 64 m)
  let a2 := if (a1.numericsWords e).wellFormed then a1 else (a1.set (NUM_W0_VALID e) 0).audBad
  a2.mirrorContext ckNumerics e (a2.wordsAt [addr_NUM_W0 e, addr_NUM_W1 e, addr_NUM_W2 e, addr_NUM_W3 e])

/-- A write of AUD_CTRL: a START_WAIT outside 10 to 600 is ignored. -/
def Aggregator.writeAudCtrl (a : Aggregator) (m : Nat) : Aggregator :=
  let old := a.get AUD_CTRL_START_WAIT
  let sw := bits m 55 40
  if 10 ≤ sw ∧ sw ≤ 600 then a.setWord addr_AUD_CTRL (BitVec.ofNat 64 m)
  else (a.setWord addr_AUD_CTRL (BitVec.ofNat 64 (setBits m 55 40 old))).audBad

end Sys2Proof.Machine
end

