-- ==== Sys2Proof/Machine/Sampler.lean ====
section
/-!
DEFINITION. The sampling controller: SEL-RATES, thin and suspect raises, the cap, and the scaling of failover (R310, R355 to R358).
-/
namespace Sys2Proof.Machine

/-- A SEL-RATES payload (Table 12-15). -/
def readRates (l : List Byte) : SelRates :=
  { flags := be l 0 1, win := be l 2 2, aMin := be l 4 4, thrMax := be l 8 4, raiseMax := be l 12 4, suspectHold := be l 16 4,
    effect := be l 24 6, bands := (List.range 6).map fun i => be l (32 + 2 * i) 2,
    thrBase := (List.range 64).map fun i => be l (48 + 4 * i) 4, classes := (List.range 64).map fun i => be l (304 + 4 * i) 4 }

/-- The settings that govern a die unit (R355). -/
def JobCtx.ratesOf (j : JobCtx) (d : DieJob) : Option SelRates := if d.ratesSent then j.rates else j.oldRates

/-- A cell is raised by a suspicion (R357). -/
def DieJob.suspectAt (d : DieJob) (r : SelRates) (cell : Nat) : Bool :=
  bit r.flags 1 && (match tabGet d.suspect cell with | some e => decide (d.dieStep ≤ e) | none => false)

/-- The thin raise of a cell with commits: the raise times the commits, in units of 2^-32 (R356). -/
def SelRates.thinRaise (r : SelRates) (cell commits : Nat) : Nat :=
  if bit r.flags 0 then min (r.thrMax * commits) (r.aMin * 2 ^ 32) - r.thrBase.getD cell 0 * commits else 0

/-- Sums over the die units of a job that the aggregator serves: thin raises and suspect raises, each times its commits. -/
def raiseSums (r : SelRates) (ds : List DieJob) : Nat × Nat :=
  ds.foldl (fun (n : Nat × Nat) d => d.thin.foldl (fun n e =>
    if d.suspectAt r e.1 then (n.1, n.2 + (r.thrMax - r.thrBase.getD e.1 0) * e.2.1) else (n.1 + e.2.2, n.2)) n) (0, 0)

/-- What RAISE_MAX leaves for thin raises, in the same units. -/
def SelRates.remainder (r : SelRates) (suspect : Nat) : Nat := r.raiseMax * 2 ^ 32 * r.win - suspect

/-- The thresholds of a die unit: base, thin raise scaled by rem / sum where the sum exceeds it, suspect raise (R356 to
R358). -/
def DieJob.thresholds (d : DieJob) (r : SelRates) (sum rem : Nat) : Store Nat :=
  (List.range 64).foldl (fun m c =>
    let base := r.thrBase.getD c 0
    let t := if d.suspectAt r c then max base r.thrMax
      else match tabGet d.thin c with
        | some (n, rc) => if rem < sum then base + rc * rem / (n * sum) else base + rc / n
        | none => base
    storeSet 0 m c t) []

/-- A threshold scaled in failover (R310). -/
def scaleThr (fo t : Nat) : Nat := if t = 0 then 0 else max 1 (t * fo / 256)

/-- The thresholds as they are written: scaled while the partner's die units are served. -/
def Aggregator.inForce (a : Aggregator) (m : Store Nat) : Store Nat :=
  if a.inFailover then m.map fun e => (e.1, scaleThr (max 1 (a.get AUD_CTRL_FO_SCALE)) e.2) else m

def thrWords (m : Store Nat) : List (Nat × W64) :=
  (List.range 32).map fun i =>
    (addr_TCK_THR i, BitVec.ofNat 64 (storeGet 0 m (2 * i + 1) * 2 ^ 32 + storeGet 0 m (2 * i)))

/-- Thresholds are written to a die unit, in force from its next advance (R168). -/
def Aggregator.writeThr (a : Aggregator) (ctx duid : Nat) (m : Store Nat) (before : List (Nat × W64)) : Aggregator :=
  match a.regKey duid with
  | none => a
  | some k =>
    let f := a.inForce m
    (a.modDie ctx duid fun d => { d with thr := m, thrFrom := d.thrFrom ++ [(d.dieStep + 1, f)] }).regWrite k (before ++ thrWords f)

/-- The die units of a job that are served here, in its own and its mirrored context: context, DUID, settings, state. -/
def Aggregator.jobDieJobs (a : Aggregator) (job gen : Nat) : List (Nat × Nat × Option SelRates × DieJob) :=
  (a.jobCtxs job gen).flatMap fun c => (a.jobDies c.2).filterMap fun d =>
    (tabGet c.2.dies d).map fun x => (c.1, d, c.2.ratesOf x, x)

/-- The thresholds of every die unit of a job are worked out anew, and those that changed are written; `evaluated`: a window
was looked at, so that a cap is counted (R358). -/
def Aggregator.rethreshold (a : Aggregator) (ctx : Nat) (evaluated : Bool) : Aggregator :=
  match a.job ctx with
  | none => a
  | some j =>
    if ¬ a.on DET_CTRL_SAMPLER_EN then a
    else
      let ds := a.jobDieJobs j.job j.gen
      ([j.rates, j.oldRates].filterMap fun x => x).foldl (fun (a : Aggregator) r =>
        let mine := ds.filter fun e => decide (e.2.2.1 = some r)
        let (sum, suspect) := raiseSums r (mine.map (·.2.2.2))
        let rem := r.remainder suspect
        let a1 := if rem < sum ∧ evaluated then (a.inc DET_CNT3_RAISE_CAPPED_N).raise DET_STATUS_RAISE_CAPPED else a
        mine.foldl (fun (a : Aggregator) e =>
          let m := e.2.2.2.thresholds r sum rem
          if m = e.2.2.2.thr then a else a.writeThr e.1 e.2.1 m []) a1) a

/-- SEL_RATES_SEND: the settings last applied are written to a die unit that has reported coverage for EFFECT_STEP − 2, or is
past it (R355). -/
def Aggregator.ratesSend (a : Aggregator) (ctx duid : Nat) : Aggregator :=
  match a.job ctx with
  | none => a
  | some j =>
    match j.rates with
    | none => a
    | some r =>
      let d := (tabGet j.dies duid).getD DieJob.init
      if d.ratesSent ∨ ¬ a.serves duid ∨ ¬ j.dieUnits.contains duid ∨ d.dieStep + 1 < r.effect then a
      else
        let a1 := a.modDie ctx duid fun d => { d with ratesSent := true, thin := [] }
        let set := match a.regKey duid with | some k => a.get (AUD_NUMSET_SET k) | none => 0
        let band (i : Nat) : W64 := BitVec.ofNat 64
          (r.bands.getD (i + 2) 0 * 2 ^ 32 + r.bands.getD (i + 1) 0 * 2 ^ 16 + r.bands.getD i 0)
        a1.writeThr ctx duid ({ d with thin := [] }.thresholds r 0 0)
          [(addr_TCK_BAND_T, band 0), (addr_TCK_BAND_V, band 3), (addr_TCK_CLASS, BitVec.ofNat 64 (r.classes.getD set 0))]

/-- A SEL-RATES broadcast is applied. -/
def Aggregator.applyRates (a : Aggregator) (ctx : Nat) (payload : List Byte) : Aggregator :=
  let a1 := a.modJob ctx fun j =>
    { j with oldRates := j.rates, rates := some (readRates payload),
             dies := j.dies.map fun e => (e.1, { e.2 with ratesSent := false }) }
  match a1.job ctx with
  | none => a1
  | some j => (a1.jobDies j).foldl (fun (a : Aggregator) d => a.ratesSend ctx d) a1.wakeAudit

/-- A die unit advanced to a step: the window before it is looked at where the step ends one (R356), and raises whose hold is
over end (R357). -/
def Aggregator.sampleAdvance (a : Aggregator) (ctx duid : Nat) : Aggregator :=
  match a.job ctx with
  | none => a
  | some j =>
    let d := (tabGet j.dies duid).getD DieJob.init
    match j.ratesOf d with
    | none => a
    | some r =>
      let s := d.dieStep
      let a0 := a.modDie ctx duid fun d => { d with suspect := d.suspect.filter fun e => decide (d.dieStep ≤ e.2) }
      if r.win = 0 ∨ s % r.win ≠ 0 ∨ s < r.win then a0.rethreshold ctx false
      else
        let win := (List.range r.win).map fun i => d.cover.find? fun c => c.step = s - r.win + i
        if win.any (·.isNone) then a0.rethreshold ctx false
        else
          let commits (c : Nat) : Nat := win.foldl (fun n x => match x with | some v => n + be v.bytes (16 + 4 * c) 4 | none => n) 0
          let thin := (List.range 64).filterMap fun c =>
            let n := commits c
            if n = 0 then none else some (c, (n, r.thinRaise c n))
          (a0.modDie ctx duid fun d => { d with thin := thin }).rethreshold ctx true

/-- A COND-SUSPECT raises a cell from the die unit's next advance, for SUSPECT_HOLD steps from there (R357). -/
def Aggregator.sampleSuspect (a : Aggregator) (ctx duid cell : Nat) : Aggregator :=
  match (a.job ctx).bind fun j => j.rates with
  | none => a
  | some r =>
    (a.modDie ctx duid fun d => { d with suspect := tabPut d.suspect cell (d.dieStep + 1 + r.suspectHold) }).rethreshold ctx false

/-- The thresholds of a die unit are written anew, in every job that has set them (R310). -/
def Aggregator.rewriteDie (a : Aggregator) (duid : Nat) : Aggregator :=
  a.jobs.foldl (fun (a : Aggregator) e =>
    match tabGet e.2.dies duid with
    | some x => if x.ratesSent ∧ (a.jobDies e.2).contains duid then a.writeThr e.1 duid x.thr [] else a
    | none => a) a

/-- Every threshold is written anew: failover began, or the home aggregator is back (R310). -/
def Aggregator.rewriteThr (a : Aggregator) : Aggregator :=
  a.servedKeys.foldl (fun (a : Aggregator) k => a.rewriteDie (a.duidOf k)) a

/-! ### The end of failover for a die unit (R27; log 82) -/

/-- A die unit is the home aggregator's alone: its mirror entry is served no more; with the last one the own thresholds return. -/
def Aggregator.releaseKey (a : Aggregator) (k : Nat) : Aggregator :=
  let a1 := (a.set (REG_ENT_STATE k) 1).setPath k CtlPath.init
  if a1.inFailover then a1 else a1.rewriteThr

/-- The steps below S of a re-admitted die unit are covered. -/
def Aggregator.releaseAt (a : Aggregator) (duid : Nat) : Aggregator :=
  match a.regKey duid with
  | none => a
  | some k =>
    match (a.path k).readmit with
    | none => a
    | some s =>
      let busy := a.jobs.any fun e => e.2.dieUnits.contains duid && decide (e.2.dieStep duid < s)
      if k < 256 ∨ ¬ a.servesKey k ∨ busy then a else a.releaseKey k

/-- The partner's part of a re-admission at step S: READMIT, and the configured thresholds (R27, R310). -/
def Aggregator.readmitKey (a : Aggregator) (step k : Nat) : Aggregator :=
  let a1 := (a.control k 0x09 (beBytes 6 step ++ zeros 2))
  let a2 := a1.setPath k { a1.path k with readmit := some step }
  let duid := a2.duidOf k
  a2.jobs.foldl (fun (a : Aggregator) e =>
    match tabGet e.2.dies duid with
    | some x =>
      if e.2.dieUnits.contains duid ∧ x.ratesSent then
        (a.modDie e.1 duid fun d => { d with thrFrom := d.thrFrom ++ [(d.dieStep + 1, d.thr)] }).regWrite k (thrWords x.thr)
      else a
    | none => a) a2

end Sys2Proof.Machine
end

