-- ==== Sys2Proof/Machine/Parcels.lean ====
section
/-!
DEFINITION. What becomes of a complete parcel: the check, the pigeonhole, and delivery by PTYPE (R270, R343, R364, R365, R398,
R449).
-/
namespace Sys2Proof.Machine

/-! ### Scalar reports in trace (R141, R343, Tables 5-2, 5-3) -/

/-- The packets of a segment after its header, as far as they can be read: time base in 2^-16 ns, cycles since, and the scalar
reports found: packet time, channel, value. -/
def scanTrace (nom : Nat) : Nat → Nat → Nat → List Byte → List (Nat × Nat × Nat)
  | 0, _, _, _ => []
  | fuel + 1, base, cyc, l =>
    let b := be l 0 1
    let type := b / 16
    let dlen := match b / 4 % 4 with
      | 1 => 1
      | 2 => 2
      | 3 => 4
      | _ => 0
    let body := l.drop (2 + dlen)
    let cyc1 := cyc + be l 2 dlen
    let time := base + cyc1 * 640 * nsU / max 1 nom
    let next (n : Nat) : List (Nat × Nat × Nat) := scanTrace nom fuel base cyc1 (body.drop n)
    let sync (off : Nat) : List (Nat × Nat × Nat) := scanTrace nom fuel (be body off 10) 0 (body.drop (off + 10))
    if l.length < 2 then []
    else match type with
      | 0x1 => next 8
      | 0x2 =>
        let acc := be body 0 1
        next (9 + if bit acc 4 then 2 ^ (acc / 32 % 4) else 0)
      | 0x3 =>
        if be body 0 1 = 0xA5 then (time, be body 1 1, be body 4 4) :: next 8 else next 8
      | 0x4 => sync 0
      | 0x5 => sync 8
      | 0x6 => sync 0
      | 0x7 => sync 8
      | 0x8 => sync 0
      | 0x9 => sync 8
      | 0xA => next 5
      | 0xB => next 1
      | _ => []

/-- The scalar reports of a trace parcel's segment. -/
def scalarReports (seg : List Byte) : List (Nat × Nat × Nat) :=
  scanTrace (be seg 20 2) seg.length (be seg 8 10) 0 ((seg.take (be seg 4 2)).drop 24)

/-- The reports of a clean TRACE parcel wait for the runs of the job's TRAY instance. -/
def Aggregator.takeTrace (a : Aggregator) (ctx duid : Nat) (seg : List Byte) : Aggregator :=
  match (a.instancesOf ctx kindTray).head? with
  | none => a
  | some (n, _, _) => a.modInst n fun i =>
      { i with reports := i.reports ++ (scalarReports seg).map fun r => (r.1, 256 * (duid % 256) + r.2.1, r.2.2) }

/-! ### Records for the ledger -/

/-- A step group becomes FP-RUN records of at most 4,064 entries, under the map in force (R367). -/
def Aggregator.takeGroup (a : Aggregator) (duid : Nat) (g : List Byte) : Aggregator :=
  let job := be g 4 4
  let gen := be g 8 1
  let step := be g 10 6
  let ver := match a.ledger job gen (a.homeFor job gen duid) with
    | some l => (match mapInForce l.maps duid step with | some r => le r.body 0 4 | none => 0)
    | none => 0
  let n := be g 0 4
  (List.range ((n + 4063) / 4064)).foldl (fun (a : Aggregator) i =>
    let c := min 4064 (n - 4064 * i)
    let entries := (List.range c).flatMap fun k => toLe fpEntrySizes (slice g (16 + 16 * (4064 * i + k)) 16)
    a.appendRec job gen lkFpRun 0 step duid (leBytes 4 ver ++ leBytes 4 c ++ entries)) a

/-- Lineage records of a parcel, in runs of one step and at most 1,356 records. -/
def lineageRuns : List (List Byte) → List (List (List Byte))
  | [] => []
  | r :: rs =>
    match lineageRuns rs with
    | (x :: xs) :: t => if be r 8 6 = be x 8 6 ∧ xs.length < 1355 then (r :: x :: xs) :: t else [r] :: (x :: xs) :: t
    | t => [r] :: t

def Aggregator.takeLineage (a : Aggregator) (duid : Nat) (rs : List (List Byte)) : Aggregator :=
  (lineageRuns rs).foldl (fun (a : Aggregator) g =>
    match g with
    | [] => a
    | r :: _ => a.appendRec (be r 4 4) (be r 2 1) lkLineage 0 (be r 8 6) duid
        (leBytes 4 g.length ++ zeros 4 ++ g.flatMap (toLe lineageSizes))) a

/-- A coverage record: the die step, the seal's clock, the settings that waited, the window, the horizon (R320, R355, R356,
R365, R369); a record of a sealed step is late. -/
def Aggregator.takeCoverage (a : Aggregator) (duid : Nat) (r : List Byte) : Aggregator :=
  let step := be r 6 6
  match a.jobOf (be r 0 4) (be r 4 1) duid with
  | none => a
  | some (ctx, j) =>
    let home := a.homeOfCtx ctx
    let a1 := a.modDie ctx duid fun d =>
      { d with cover := d.cover ++ [⟨step, r⟩], dieStep := if d.dieStep ≤ step then step + 1 else d.dieStep }
    let isSealed : Bool := match a1.ledger j.job j.gen home with | some l => l.isSealed step | none => false
    let a2 := if isSealed then
        (match (a1.job ctx).bind fun j => tabGet j.dies duid with
        | some d => a1.appendRec j.job j.gen lkCoverage 0 step duid (coverageBody d ⟨step, r⟩) (home := home)
        | none => a1)
      else a1.modLedger j.job j.gen home fun l => l.modStep step fun s =>
        { s with firstCov := if s.firstCov.isNone then some a.mono else s.firstCov }
    (((a2.ratesSend ctx duid).sampleAdvance ctx duid).updateHorizon ctx).releaseAt duid

/-- A mismatch record waits for its resolution (R398). -/
def Aggregator.takeMismatch (a : Aggregator) (duid : Nat) (r : List Byte) : Aggregator :=
  (a.appendRec (be r 0 4) (be r 4 1) lkMismatch 0 (be r 6 6) duid (toLe mismatchSizes r)).modHlt fun h =>
    { h with mismatches := h.mismatches ++ [⟨duid, r, a.mono⟩] }

/-- A report counts in its health cell, under the bands in force (R354); then it is charged once (R400). -/
def Aggregator.takeHealth (a : Aggregator) (duid : Nat) (r : List Byte) : Aggregator :=
  let job := be r 32 4
  let gen := be r 36 1
  let step := be r 38 6
  let a1 := match a.jobOf job gen duid with
    | some (ctx, j) =>
      let d := (tabGet j.dies duid).getD DieJob.init
      match j.ratesOf d with
      | some rt =>
        let w (i : Nat) : Nat := rt.bands.getD (i + 2) 0 * 2 ^ 32 + rt.bands.getD (i + 1) 0 * 2 ^ 16 + rt.bands.getD i 0
        let cell := 16 * bandOf (w 0) (signed 16 (be r 26 2)) true + 4 * bandOf (w 3) (be r 28 2) false
        if step = noStep then a
        else a.modDie ctx duid fun d => d.modCount step cell fun c => { c with health := c.health + 1 }
      | none => a
    | none => a
  a1.takeReport duid (be r 8 1) (be r 9 1) (be r 10 2) (be r 12 1 % 4) (be r 16 10) (be r 14 2)
    ⟨be r 16 8, job, gen, step⟩

/-- The DUMP-INDEX records of a dump that ended: at most 8,180 blocks in each; a block counts as MATCHED or MISMATCHED against
the produced fingerprint of its step (R367). -/
def Aggregator.dumpIndex (a : Aggregator) (job gen duid tensor step status : Nat) (blocks : List (Nat × Nat)) : Aggregator :=
  let items : List FpItem := match a.ledger job gen (a.homeFor job gen duid) with
    | some l => (stepItems l.maps l.recs step).filter fun x => !x.gap && decide (x.role = 0 ∧ x.tensor = tensor)
    | none => []
  let (n, a0) := a.draw
  (List.range (max 1 ((blocks.length + 8179) / 8180))).foldl (fun (a : Aggregator) i =>
    let bs := slice blocks (8180 * i) 8180
    let has (b : Nat × Nat) : Option Bool := (items.find? fun x => x.block = b.1).map fun _ =>
      items.any fun x => decide (x.block = b.1 ∧ x.check = b.2)
    a.appendRec job gen lkDump 0 step duid
      (leBytes 4 tensor ++ leBytes 4 ((bs.head?.map (·.1)).getD 0) ++ leBytes 4 bs.length
        ++ leBytes 1 (Config.dumpAt n).toNat ++ leBytes 1 status ++ zeros 2
        ++ leBytes 4 (bs.filter fun b => has b = some true).length ++ leBytes 4 (bs.filter fun b => has b = some false).length
        ++ zeros 8 ++ bs.flatMap fun b => leBytes 8 b.2)) a0

/-- A dump chunk (Table 6-12). -/
def Aggregator.takeDump (a : Aggregator) (duid : Nat) (r : List Byte) : Aggregator :=
  let job := be r 0 4
  let gen := be r 4 1
  let fl := be r 5 1
  let step := be r 6 6
  let tensor := be r 12 4
  match a.jobOf job gen duid with
  | none => a
  | some (ctx, j) =>
    let d := (tabGet j.dies duid).getD DieJob.init
    let sofar := match d.dump with
      | some (t, s, bs) => if t = tensor ∧ s = step then bs else []
      | none => []
    let bs := if bit fl 3 then sofar ++ [(be r 16 4, be r 28 8)] else sofar
    if fl % 8 = 0 then a.modDie ctx duid fun d => { d with dump := some (tensor, step, bs) }
    else
      (a.modDie ctx duid fun d => { d with dump := none }).dumpIndex job gen duid tensor step
        (if bit fl 2 then 2 else if bit fl 1 then 1 else 0) bs

/-! ### Delivery (R270) -/

/-- A clean parcel of a die unit reaches its consumers. -/
def Aggregator.deliver (a : Aggregator) (ctx duid : Nat) (l : List Byte) : Aggregator :=
  let pt := be l 1 1
  let rs := parcelRecords l
  let each (f : Aggregator → List Byte → Aggregator) : Aggregator := rs.foldl f a
  let parcelRec (a : Aggregator) (late : Bool) : Aggregator :=
    match a.job ctx with
    | some j => a.appendFiled j lkParcel (b2n late) duid l
    | none => a
  match pt with
  | 0x01 =>
    let (late, a1) := a.takePeal ctx duid l
    parcelRec a1 late
  | 0x02 => parcelRec a false
  | 0x03 => each fun a s => a.takeTrace ctx duid s
  | 0x04 => each fun a r => a.takeMismatch duid r
  | 0x05 => each fun a g => a.takeGroup duid g
  | 0x06 => each fun a r => a.takeCoverage duid r
  | 0x07 => each fun a r => a.takeChunk duid r
  | 0x08 => each fun a r =>
      (a.appendRec (be r 0 4) (be r 4 1) lkCapDesc 0 (be r 8 6) duid (toLe capDescSizes r)).takeDesc duid r
  | 0x09 => each fun a r => a.takeDump duid r
  | 0x0A => a.takeLineage duid rs
  | 0x0B => each fun a r => a.takeHealth duid r
  | _ => a

/-- Parcel types whose ingest allocations are essential (R450). -/
def essentialType (pt : Nat) : Bool :=
  [ptPeal, ptLatch, ptMismatch, ptHealth, ptCapDesc, ptCoverage].contains pt

/-- The parcel goes into its stream's pigeonhole; false where there is no buffer for it (log 37). -/
def Aggregator.pigeonhole (a : Aggregator) (i : Nat) (l : List Byte) : Bool × Aggregator :=
  let p := a.get (STC_CFG_POOL i)
  if a.bufBytes p < l.length then (false, a)
  else match a.poolAlloc p ownerIngest (essentialType (be l 1 1)) with
    | (none, a1) => (false, a1)
    | (some addr, a1) =>
      let a2 := (a1.memWrite .ingest addr l).2
      let q := a2.get (PH_CFG_HOST_Q p)
      if q = 0 then (true, (a2.poolFree p addr ownerIngest).2)
      else
        let a3 := (a2.poolGive p addr ownerIngest (ownerQueue q)).2
        (true, a3.modIng fun g =>
          let x := (tabGet g.pools p).getD Pool.init
          { g with pools := tabPut g.pools p { x with parcels := x.parcels ++ [⟨addr, i, be l 20 4, l.length⟩] } })

/-- PARCEL_CHECK: the oldest complete parcel of a stream context, in a channel of the stream's class (R270). -/
def Aggregator.parcelCheck (a : Aggregator) (i : Nat) : Aggregator :=
  match (a.stream i).ready with
  | [] => a
  | l :: rest =>
    let a1 := a.setStream i { a.stream i with ready := rest }
    let duid := a.streamDuid i
    match (ingestChannel (a.on (STC_CFG_PRIV i)) l).plan.fault with
    | some _ =>
      let a2 := ((a1.inc ING_CNT4_PARCEL_FAULT_N).inc (STC_STAT_FAULT_N i)).raise ING_STATUS_PARCEL_FAULT
      (a2.pealBad duid l).settleEpochs
    | none =>
      match a1.pigeonhole i l with
      | (false, a2) => (a2.inc ING_CNT4_PH_FULL_N).raise ING_STATUS_PH_FULL
      -- a stream that is not bound carries no job's parcels (R268): no context is 2,048
      | (true, a2) => a2.deliver (if a2.on (STC_CFG_BOUND i) then a2.streamCtx i else 2048) duid l

end Sys2Proof.Machine
end

