-- ==== Sys2Proof/Machine/Broadcast.lean ====
section
/-!
DEFINITION. The job tree's broadcasts and heartbeats: issue, forwarding, order, acknowledgement, resends, completion (R283, R284,
R289 to R293, R319, R355, R359).
-/
namespace Sys2Proof.Machine

/-! ### Tree parts as Arm Job gives them (Table 15-11) -/

/-- Words of 2 bytes. -/
def le16s (l : List Byte) (off n : Nat) : List Nat := (List.range n).map fun i => le l (off + 2 * i) 2

/-- The subtree tables: for each child COUNT, then COUNT pairs of aggregator and die units. -/
def readSubtrees : Nat → List Byte → List (List (Nat × Nat))
  | 0, _ => []
  | n + 1, l =>
    let c := le l 0 2
    ((List.range c).map fun i => (le l (2 + 4 * i) 2, le l (4 + 4 * i) 2)) :: readSubtrees n (l.drop (2 + 4 * c))

def round8 (n : Nat) : Nat := (n + 7) / 8 * 8

/-- Offset of the children section. -/
def armChildrenAt (l : List Byte) : Nat := 64 + round8 (4 * le l 30 2)
def armSubtreesAt (l : List Byte) : Nat := armChildrenAt l + round8 (2 * (le l 2 1 + le l 3 1))
def armMembersAt (l : List Byte) : Nat := armSubtreesAt l + round8 (le l 44 4)

def readTree (l : List Byte) : TreePart :=
  { level := le l 0 1, depth := le l 1 1, parent := le l 4 2, backup := le l 6 2,
    children := le16s l (armChildrenAt l) (le l 2 1),
    bchildren := le16s l (armChildrenAt l + 2 * le l 2 1) (le l 3 1),
    subtree := readSubtrees (le l 2 1) (slice l (armSubtreesAt l) (le l 44 4)),
    members := (List.range 4096).filter fun g => bit (le l (armMembersAt l + g / 8) 1) (g % 8) }

/-! ### Roles in a tree (R26, R289, R292) -/

/-- A context takes part in its tree: an own one; a mirrored one as standby root, or in the position that it has taken. -/
def Aggregator.inTree (a : Aggregator) (ctx : Nat) (j : JobCtx) : Bool :=
  j.treeHeld && (decide (ctx < 1024) || decide (j.tree.level = 0) || a.standsIn j a.tc.now)

/-- A context takes what comes down the tree: in failover a mirrored one, too, whose die units are served here (R291). -/
def Aggregator.hears (a : Aggregator) (ctx : Nat) (j : JobCtx) : Bool := a.inTree ctx j || (j.treeHeld && a.inFailover)

/-- It is the standby root's view of the partner's job. -/
def Aggregator.standby (a : Aggregator) (ctx : Nat) (j : JobCtx) : Bool :=
  decide (1024 ≤ ctx) && decide (j.tree.level = 0) && !a.standsIn j a.tc.now

/-- Nodes below, each with whether it is reached as backup parent. -/
def Aggregator.below (a : Aggregator) (ctx : Nat) (j : JobCtx) : List (Nat × Bool) :=
  if a.standby ctx j then j.tree.children.map fun c => (c, true)
  else
    j.tree.children.map (fun c => (c, false)) ++ j.tree.bchildren.map (fun c => (c, true))
      ++ if j.tree.level = 0 ∧ ctx < 1024 ∧ a.hasPartner then [(a.partner, false)] else []

/-- Nodes above. -/
def Aggregator.above (a : Aggregator) (ctx : Nat) (j : JobCtx) : List Nat :=
  if a.standby ctx j then [a.partner]
  else if j.tree.level = 0 then [] else [j.tree.parent, j.tree.backup]

/-- The contexts of a job, own and mirrored, that take a frame from a node above. The standby root takes the copy with FLAGS[0]
clear, which the root sends it as to a child (R292). -/
def Aggregator.ctxsBelow (a : Aggregator) (job gen src : Nat) (asBackup : Bool) : List Nat :=
  (a.jobs.filter fun e => decide (e.2.job = job ∧ e.2.gen = gen) && a.hears e.1 e.2 && (a.above e.1 e.2).contains src
    && !(asBackup && a.standby e.1 e.2)).map (·.1)

/-- The contexts of a job that take a frame from a node below. -/
def Aggregator.ctxsAbove (a : Aggregator) (job gen src : Nat) : List Nat :=
  (a.jobs.filter fun e => decide (e.2.job = job ∧ e.2.gen = gen) && a.inTree e.1 e.2
    && (a.below e.1 e.2).any fun x => decide (x.1 = src)).map (·.1)

/-- A frame acts on every context that takes it; with none it is stale. -/
def Aggregator.onCtxs (a : Aggregator) (cs : List Nat) (f : Nat → JobCtx → Aggregator → Aggregator) : Aggregator :=
  if cs = [] then a.treeStale
  else cs.foldl (fun (a : Aggregator) c => match a.job c with | some j => f c j a | none => a) a

/-! ### Heartbeats (R284) -/

def downHeader (kind : Nat) (backup resend : Bool) (bkind bseq total off len : Nat) (issue : List Byte) : List Byte :=
  beBytes 1 kind ++ beBytes 1 (b2n backup + 2 * b2n resend) ++ beBytes 1 bkind ++ zeros 1 ++ beBytes 4 bseq
    ++ beBytes 4 total ++ beBytes 4 off ++ beBytes 2 len ++ issue ++ zeros 4

/-- TREE_HEARTBEAT_TX of a job context: every 100 µs. -/
def Aggregator.heartbeatTx (a : Aggregator) (ctx : Nat) : Aggregator :=
  match a.job ctx with
  | none => a
  | some j =>
    if ¬ a.inTree ctx j ∨ a.mono < j.hbSent + 100000 then a
    else
      let a1 := a.modJob ctx fun j => { j with hbSent := a.mono }
      let a2 := (a.above ctx j).foldl (fun (a : Aggregator) p =>
        a.treeFrame ctx ftTreeUp p (treeUpHeader 2 false j.tree.level 0 0 0 0 0)) a1
      (a.below ctx j).foldl (fun (a : Aggregator) c =>
        a.treeFrame ctx ftTreeDown c.1 (downHeader 2 c.2 false 0 0 0 0 0 (zeros 10))) a2

/-- TREE_HEARTBEAT_RX. -/
def Aggregator.heartbeatRx (a : Aggregator) (l : List Byte) : Aggregator :=
  let (ok, a1) := a.frameCheck laneTree l
  let ft := be l 1 1
  if ¬ ok ∨ (ft ≠ ftTreeUp ∧ ft ≠ ftTreeDown) ∨ be l 32 1 ≠ 2 then a1
  else
    let src := be l 4 4 % 4096
    let cs := if ft = ftTreeDown then a1.ctxsBelow (be l 12 4) (be l 10 1) src (bit (be l 33 1) 0)
      else a1.ctxsAbove (be l 12 4) (be l 10 1) src
    a1.onCtxs cs fun ctx _ a => a.modJob ctx fun j =>
      { j with heard := tabPut j.heard src a.mono, lost := j.lost.filter (· ≠ src) }

/-- TREE_HEARTBEAT_LOST of a peer: absent for 1 ms. -/
def Aggregator.heartbeatLost (a : Aggregator) (ctx peer : Nat) : Aggregator :=
  match a.job ctx with
  | none => a
  | some j =>
    let up := (a.above ctx j).contains peer
    let down := (a.below ctx j).any fun c => decide (c.1 = peer)
    if ¬ a.inTree ctx j ∨ (¬ up ∧ ¬ down) ∨ j.lost.contains peer ∨ a.mono < storeGet 0 j.heard peer + 1000000 then a
    else
      let a1 := a.modJob ctx fun j => { j with lost := j.lost ++ [peer] }
      let a2 := a1.raise (if up then TREE_STATUS_PARENT_LOST else TREE_STATUS_CHILD_LOST)
      a2.report (if up then "PARENT-LOST" else "CHILD-LOST") [j.job, j.gen, peer]

/-- REPARENT_EFFECT: from the T_p that a REPARENT names (R283). -/
def Aggregator.reparentEffect (a : Aggregator) (ctx : Nat) : Aggregator :=
  a.modJob ctx fun j =>
    let t := j.treeAt a.tc.now
    if t = j.tree then j
    else
      { j with tree := t, reparent := if j.reparent.any fun e => e.1 = 0 then j.reparent else (0, j.tree) :: j.reparent,
               heard := t.peers.foldl (fun m p => if (tabGet m p).isSome then m else tabPut m p a.mono) j.heard }

/-! ### Sending (R289, R290) -/

abbrev bcArmedCheck : Nat := 1
abbrev bcPealSchedule : Nat := 2
abbrev bcSelRates : Nat := 3
abbrev bcDetParams : Nat := 4
abbrev bcTaint : Nat := 5
abbrev bcReparent : Nat := 6
abbrev bcMax : Nat := 262144

/-- The segments of a broadcast go to one node below. -/
def Aggregator.sendBcast (a : Aggregator) (ctx child : Nat) (backup resend : Bool) (b : Bcast) : Aggregator :=
  (List.range (max 1 ((b.payload.length + segMax - 1) / segMax))).foldl (fun (a : Aggregator) i =>
    let seg := slice b.payload (i * segMax) segMax
    a.treeFrame ctx ftTreeDown child
      (downHeader 1 backup resend b.bkind b.bseq b.payload.length (i * segMax) seg.length b.issueT ++ seg)) a

def JobCtx.bcast (j : JobCtx) (bseq : Nat) : Option Bcast := j.bcasts.find? fun b => b.bseq = bseq
def Aggregator.modBcast (a : Aggregator) (ctx bseq : Nat) (f : Bcast → Bcast) : Aggregator :=
  a.modJob ctx fun j => { j with bcasts := j.bcasts.map fun b => if b.bseq = bseq then f b else b }

/-- A complete broadcast is kept, the newest 256, and forwarded to every node below. -/
def Aggregator.keepBcast (a : Aggregator) (ctx : Nat) (b : Bcast) : Aggregator :=
  match a.job ctx with
  | none => a
  | some j =>
    let down := a.below ctx j
    let b1 : Bcast := { b with sends := down.map fun c => (c.1, 1, a.mono) }
    let a1 := a.modJob ctx fun j =>
      { j with bcasts := (j.bcasts ++ [b1]).drop (j.bcasts.length + 1 - 256),
               bparts := j.bparts.filter fun p => p.seq ≠ b.bseq }
    down.foldl (fun (a : Aggregator) c => a.sendBcast ctx c.1 c.2 false b1) a1

/-! ### Acknowledgement (R291, R293) -/

/-- The acknowledgement set of a broadcast: its own bits and every set received. -/
def Bcast.ackSet (b : Bcast) : List Nat :=
  missSort (b.own ++ b.acked.flatMap (·.2))

def setBytes (s : List Nat) : List Byte :=
  (List.range 512).map fun i => BitVec.ofNat 8 ((List.range 8).foldl (fun n k => 2 * n + b2n (s.contains (8 * i + k))) 0)

def readSet (l : List Byte) : List Nat := (List.range 4096).filter fun g => bit (be l (g / 8) 1) (7 - g % 8)

/-- Every child and backup child has acknowledged with its whole subtree. -/
def JobCtx.wholeAcked (j : JobCtx) (b : Bcast) : Bool :=
  (j.tree.children ++ j.tree.bchildren).all fun c => b.whole.contains c

/-- A BC-ACK goes to every node above. -/
def Aggregator.ackUp (a : Aggregator) (ctx bseq : Nat) : Aggregator :=
  match (a.job ctx).bind fun j => (j.bcast bseq).map fun b => (j, b) with
  | none => a
  | some (j, b) =>
    (a.above ctx j).foldl (fun (a : Aggregator) p =>
      a.treeFrame ctx ftTreeAck p (ackTree 1 (b2n (j.wholeAcked b)) bseq 0 (setBytes b.ackSet))) a

/-- The root's set contains the member set. -/
def JobCtx.complete (j : JobCtx) (b : Bcast) : Bool := j.tree.members.all fun m => b.ackSet.contains m

/-- The root reports a broadcast that is complete, once (R293). -/
def Aggregator.checkComplete (a : Aggregator) (ctx bseq : Nat) : Aggregator :=
  match (a.job ctx).bind fun j => (j.bcast bseq).map fun b => (j, b) with
  | none => a
  | some (j, b) =>
    if j.tree.level ≠ 0 ∨ 1024 ≤ ctx ∨ b.reported ∨ ¬ j.complete b then a
    else (a.modBcast ctx bseq fun b => { b with reported := true }).report "BROADCAST-COMPLETE" [j.job, j.gen, bseq]

/-! ### Effects (Table 10-15) -/

/-- A PEAL-SCHEDULE: its peals are armed from now on, or, below P_min, none (R271). -/
def Aggregator.applySchedule (a : Aggregator) (ctx bseq : Nat) (l : List Byte) : Aggregator :=
  match a.job ctx with
  | none => a
  | some j =>
    let period := be l 10 8
    let refused := decide (period < j.pMin)
    let ps : List SchedPeal := (List.range (be l 18 4)).map fun i =>
      ⟨(be l 22 2 + i) % 65536, be l 0 10 + i * period * nsU, bit (be l 24 1) 0, false, refused⟩
    let a1 := a.modJob ctx fun j => { j with peals := j.peals ++ ps }
    if refused then (a1.raise TREE_STATUS_SCHED_REFUSED).report "SCHEDULE-REFUSED" [j.job, j.gen, bseq] else a1

/-- The parameter block in force for a T_p (R330). -/
def Instance.paramsAt (i : Instance) (tp : Nat) : List Byte :=
  ((i.params.filter fun p => decide (p.tp ≤ tp)).getLast?.map (·.bytes)).getD []

/-- Parameter blocks, by the T_p from which each holds, after a write that holds from `tp` on. -/
def Instance.writeParams (i : Instance) (tp off : Nat) (data : List Byte) : Instance :=
  let before := i.params.filter fun p => decide (p.tp < tp)
  let here : ParamFrom := ⟨tp, patch (i.paramsAt tp) off data⟩
  let after := (i.params.filter fun p => decide (tp < p.tp)).map fun p => { p with bytes := patch p.bytes off data }
  { i with params := before ++ here :: after }

/-- A DETECTOR-PARAMS: the binding's block changes for epochs from EFFECT_T on, or it is ignored (R359). -/
def Aggregator.applyParams (a : Aggregator) (ctx : Nat) (l : List Byte) : Aggregator :=
  let off := be l 4 4
  let len := be l 8 4
  let hit := a.det.instances.find? fun e => decide (e.2.ctx = ctx ∧ e.2.bind = be l 0 1)
  match hit.bind fun e => (a.image e.2.slot).map fun m => (e.1, m) with
  | some (n, m) =>
    if m.id = be l 16 8 ∧ off + len ≤ m.params.length then
      a.modInst n fun i => i.writeParams (be l 24 10) off (slice l 40 len)
    else (a.inc DET_CNT3_PARAM_IGNORED_N).raise DET_STATUS_PARAM_IGNORED
  | none => (a.inc DET_CNT3_PARAM_IGNORED_N).raise DET_STATUS_PARAM_IGNORED

/-- A REPARENT: the part it names for this aggregator, or for the one it stands in for, holds from its first T_p on (R283;
log 65). -/
def Aggregator.applyReparent (a : Aggregator) (ctx : Nat) (l : List Byte) : Aggregator :=
  match Config.reparentPart l (if ctx < 1024 then a.id else a.partner) with
  | some p => a.modJob ctx fun j =>
      { j with reparent := j.reparent ++ [(be l 0 10, readTree p)],
               standIn := if 1024 ≤ ctx ∧ a.inFailover ∧ j.standIn.isNone then some (be l 0 10) else j.standIn }
  | none => a

/-- The effect of a broadcast on a job context. -/
def Aggregator.bcastEffect (a : Aggregator) (ctx : Nat) (b : Bcast) : Aggregator :=
  match b.bkind with
  | 0x02 => a.applySchedule ctx b.bseq b.payload
  | 0x03 => a.applyRates ctx b.payload
  | 0x04 => a.applyParams ctx b.payload
  | 0x05 => a.applyTaint b.payload
  | 0x06 => a.applyReparent ctx b.payload
  | 0x01 => a
  | _ => a.modJob ctx fun j => { j with reservedBc := j.reservedBc + 1 }

/-- Own bits of an acknowledgement: this aggregator's, as a member where it is the standby root, and its partner's while it
stands in for it (R291, R292). -/
def Aggregator.ownBits (a : Aggregator) (ctx : Nat) (j : JobCtx) : List Nat :=
  if a.standby ctx j then (if j.tree.members.contains a.id then [a.id] else [])
  else if ctx < 1024 then
    a.id :: (if a.inFailover ∧ a.jobs.any fun e => decide (1024 ≤ e.1 ∧ e.2.job = j.job ∧ e.2.gen = j.gen) then [a.partner]
      else [])
  else [a.partner]

/-- Broadcasts are applied in BSEQ order, each after the one before; an ARMED-CHECK only while the context is ARMED. While
the partner's die units are served, the mirrored context of the job takes the effect too. -/
def Aggregator.applyReady (a : Aggregator) (ctx : Nat) : Nat → Aggregator
  | 0 => a
  | fuel + 1 =>
    match (a.job ctx).bind fun j => (j.bcast (j.applied + 1)).map fun b => (j, b) with
    | none =>
      a.modJob ctx fun j =>
        { j with gapSince := if j.bcasts.any fun b => decide (j.applied + 1 < b.bseq) then some (j.gapSince.getD a.mono)
                             else none }
    | some (j, b) =>
      if b.bkind = bcArmedCheck ∧ j.state ≠ .armed then a
      else
        let a1 := (a.modJob ctx fun j => { j with applied := b.bseq, gapSince := none }).modBcast ctx b.bseq fun x =>
          { x with applied := true, own := a.ownBits ctx j }
        let a2 := a1.bcastEffect ctx b
        let twin := a2.jobs.find? fun e => decide (1024 ≤ e.1 ∧ e.2.job = j.job ∧ e.2.gen = j.gen) && a2.inFailover
        let a3 := match twin with
          | some (m, x) =>
            if ctx < 1024 ∧ x.applied < b.bseq then
              (a2.modJob m fun x => { x with applied := b.bseq }).bcastEffect m b
            else a2
          | none => a2
        ((a3.ackUp ctx b.bseq).checkComplete ctx b.bseq).applyReady ctx fuel

/-! ### Receiving (R289) -/

/-- A TREE-DOWN frame of kind BROADCAST; `want` says of which BKIND the command is. -/
def Aggregator.bcastRx (a : Aggregator) (want : Nat → Bool) (l : List Byte) : Aggregator :=
  let b := l.drop 32
  if be l 1 1 ≠ ftTreeDown ∨ be b 0 1 ≠ 1 ∨ ¬ want (be b 2 1) ∨ ¬ a.on ING_CTRL_EN then a
  else
    let (ok, a1) := a.frameCheck laneTree l
    let src := be l 4 4 % 4096
    let seq := be b 4 4
    let total := be b 8 4
    if ¬ ok then a1
    else a1.onCtxs (a1.ctxsBelow (be l 12 4) (be l 10 1) src (bit (be b 1 1) 0)) fun ctx j a =>
      if seq ≤ j.applied ∨ (j.bcast seq).isSome ∨ bcMax < total then a
      else
        let cur := (j.bparts.find? fun p => p.seq = seq).getD ⟨seq, be b 2 1, slice b 18 10, total, []⟩
        let p : BcastPart := { cur with segs := cur.segs ++ [(be b 12 4, slice b 32 (be b 16 2))] }
        match joinSegs total p.segs with
        | none => a.modJob ctx fun j => { j with bparts := (j.bparts.filter fun x => x.seq ≠ seq) ++ [p] }
        | some payload =>
          (a.keepBcast ctx ⟨seq, p.kind, p.at_, payload, [], [], [], false, [], a.mono, false⟩).applyReady ctx 257

def bcReservedKind (k : Nat) : Bool := decide (k = 0 ∨ 6 < k)

/-- The root issues a broadcast, numbered from 1 (R289). -/
def Aggregator.issueBcast (a : Aggregator) (ctx bkind : Nat) (payload : List Byte) : Nat × Aggregator :=
  match a.job ctx with
  | none => (0, a)
  | some j =>
    let seq := j.applied + 1
    (seq, (a.keepBcast ctx ⟨seq, bkind, a.mark, payload, [], [], [], false, [], a.mono, false⟩).applyReady ctx 1)

/-! ### Resends and gaps (R290) -/

/-- BC_RETRY of a broadcast to a node below. -/
def Aggregator.bcRetry (a : Aggregator) (ctx bseq child : Nat) : Aggregator :=
  match (a.job ctx).bind fun j => (j.bcast bseq).map fun b => (j, b) with
  | none => a
  | some (j, b) =>
    match b.sends.find? fun s => s.1 = child, (a.below ctx j).find? fun c => c.1 = child with
    | some (_, tries, at_), some (_, backup) =>
      if (tabGet b.acked child).isSome ∨ max 1 (a.get TREE_TIMING_BC_TRIES) ≤ tries
          ∨ a.mono < at_ + max 1 (a.get TREE_TIMING_BC_RETRY) * 1000 then a
      else
        (a.modBcast ctx bseq fun b =>
          { b with sends := b.sends.map fun s => if s.1 = child then (child, tries + 1, a.mono) else s }).sendBcast ctx child backup
            true b
    | _, _ => a

/-- BC_GAP_WAIT_EXPIRY: a NAK that names the first missing BSEQ goes to both parents. -/
def Aggregator.gapExpiry (a : Aggregator) (ctx : Nat) : Aggregator :=
  match a.job ctx with
  | none => a
  | some j =>
    match j.gapSince with
    | none => a
    | some t =>
      if a.mono < t + max 1 (a.get TREE_TIMING_BC_GAP_WAIT) * 1000 then a
      else
        (a.above ctx j).foldl (fun (a : Aggregator) p =>
          (a.inc TREE_CNT1_NAK_N).treeFrame ctx ftTreeAck p (ackTree 3 0 (j.applied + 1) 0 []))
          (a.modJob ctx fun j => { j with gapSince := some a.mono })

/-- NAK_RX: every broadcast from the named BSEQ is sent again; one that is no longer kept is counted. -/
def Aggregator.nakRx (a : Aggregator) (l : List Byte) : Aggregator :=
  let (ok, a1) := a.frameCheck laneTree l
  let b := l.drop 32
  if ¬ ok ∨ be l 1 1 ≠ ftTreeAck ∨ be b 0 1 ≠ 3 then a1
  else
    let src := be l 4 4 % 4096
    a1.onCtxs (a1.ctxsAbove (be l 12 4) (be l 10 1) src) fun ctx j a =>
      let backup := ((a.below ctx j).find? fun c => c.1 = src).any (·.2)
      let from_ := be b 4 4
      let oldest := (minOf (j.bcasts.map (·.bseq))).getD (j.applied + 1)
      if from_ < oldest then a.modJob ctx fun j => { j with oldNak := j.oldNak + 1 }
      else (j.bcasts.filter fun x => decide (from_ ≤ x.bseq)).foldl (fun (a : Aggregator) x =>
        a.sendBcast ctx src backup true x) a

/-- BC_ACK_RX: the set joins; a set that grew is acknowledged upward (R291). -/
def Aggregator.bcAckRx (a : Aggregator) (l : List Byte) : Aggregator :=
  let (ok, a1) := a.frameCheck laneTree l
  let b := l.drop 32
  if ¬ ok ∨ be l 1 1 ≠ ftTreeAck ∨ be b 0 1 ≠ 1 then a1
  else
    let src := be l 4 4 % 4096
    let seq := be b 4 4
    a1.onCtxs (a1.ctxsAbove (be l 12 4) (be l 10 1) src) fun ctx j a =>
      match j.bcast seq with
      | none => a
      | some x =>
        let s := readSet (slice b 32 512)
        let x1 : Bcast := { x with acked := tabPut x.acked src (missSort ((tabGet x.acked src).getD [] ++ s)),
                                   whole := if bit (be b 1 1) 0 ∧ ¬ x.whole.contains src then x.whole ++ [src] else x.whole }
        let a2 := a.modBcast ctx seq fun _ => x1
        let a3 := if x1.ackSet ≠ x.ackSet ∧ x.applied then a2.ackUp ctx seq else a2
        a3.checkComplete ctx seq

/-- BC_DONE_WAIT in ns. -/
def Aggregator.doneWait (a : Aggregator) : Nat := max 1 (a.get EP_DEFAULTS_BC_DONE_WAIT) * 1000000

/-- Members that have not acknowledged a broadcast. -/
def JobCtx.missingOf (j : JobCtx) (b : Bcast) : List Nat := j.tree.members.filter fun m => !b.ackSet.contains m

/-- BC_DONE_WAIT_EXPIRY: the root reports the members still missing (R293). -/
def Aggregator.doneExpiry (a : Aggregator) (ctx bseq : Nat) : Aggregator :=
  match (a.job ctx).bind fun j => (j.bcast bseq).map fun b => (j, b) with
  | none => a
  | some (j, b) =>
    if j.tree.level ≠ 0 ∨ 1024 ≤ ctx ∨ b.reported ∨ a.mono < b.issued + a.doneWait then a
    else (a.modBcast ctx bseq fun b => { b with reported := true }).report "BROADCAST-MISSING"
      (j.job :: j.gen :: bseq :: j.missingOf b)

end Sys2Proof.Machine
end

