-- ==== Sys2Proof/Machine/Sync.lean ====
section
/-!
DEFINITION. The synchronisation network: barriers and semaphores (R237 to R243, Tables 9-5, 9-15, 9-16).
-/
namespace Sys2Proof.Machine

/-! ### Status codes (Table 9-5) and cycles -/

abbrev syncOk : Nat := 0
abbrev syncTimeout : Nat := 1
abbrev syncOwner : Nat := 2
abbrev syncNotMember : Nat := 3
abbrev syncDouble : Nat := 4
abbrev syncBroken : Nat := 5
abbrev syncReset : Nat := 6

/-- Core cycles from the last arrival, or from service, to the release (R239, R242). -/
abbrev releaseCycles : Nat := 48

/-- The core cycle `cyc` cycles after the last reference edge: 64 of 1.6 GHz in each 40 ns (R256). -/
def Aggregator.cycle (a : Aggregator) (cyc : Nat) : Nat := a.mono / 40 * 64 + cyc

/-- The core sequencer is released from its blocking operation: its status register takes the status (R238). -/
def Core.release (c : Core) (status : Nat) : Core :=
  match c.blocked with
  | .sync rd => { c with blocked := .no, x := if rd = 0 then c.x else storeSet 0 c.x rd (BitVec.ofNat 64 status) }
  | _ => c

def Aggregator.resume (a : Aggregator) (engine status : Nat) : Aggregator :=
  a.modDet fun d => { d with cores := tabMod d.cores (engine / 4) fun c => c.release status }

def Aggregator.resumeAll (a : Aggregator) (engines : List Nat) (status : Nat) : Aggregator :=
  engines.foldl (fun (a : Aggregator) e => a.resume e status) a

def Aggregator.syncBusy (a : Aggregator) : Aggregator := a.raise SYNC_STATUS_SYNC_CFG_BUSY

/-! ### Barriers (R239, R240) -/

def Aggregator.barWaiters (a : Aggregator) (b : Nat) : List Nat := storeGet [] a.sync.barWait b

/-- Whether an object that a context names is its own (R237). -/
def ownedBy (sys owner ctx : Nat) : Bool := decide (sys = 0) && decide (owner = ctx % 1024)

/-- The waiters of a barrier leave, and nothing is timed. -/
def Aggregator.barLeave (a : Aggregator) (b : Nat) : Aggregator :=
  a.modSync fun s =>
    { s with barWait := storeSet [] s.barWait b [], barFirst := tabDel s.barFirst b, barRelease := tabDel s.barRelease b }

/-- A generation ends: its waiters leave, the arrivals clear, and the generation increments. -/
def Aggregator.barEnd (a : Aggregator) (b : Nat) : Aggregator :=
  ((a.barLeave b).set (BAR_ARR_ARRIVED b) 0).incWrap (BAR_STAT_GEN b)

/-- The timer of a barrier has expired before a cycle, with no last arrival (R240). In its own cycle the last arrival wins. -/
def Aggregator.barOverdue (a : Aggregator) (b cyc : Nat) : Bool :=
  let t := a.get (BAR_CFG_TIMEOUT b)
  match tabGet a.sync.barFirst b, tabGet a.sync.barRelease b with
  | some first, none => decide (t ≠ 0 ∧ first + t * 1600 < cyc)
  | _, _ => false

/-- BARRIER_TIMEOUT: TIMEOUT µs after the first arrival, with no last arrival yet: every arrived core is released, and the
barrier is broken; its arrivals stand until RESET (R240). -/
def Aggregator.barrierTimeout (a : Aggregator) (b cyc : Nat) : Aggregator :=
  if a.barOverdue b cyc then ((a.barLeave b).set (BAR_STAT_BROKEN b) 1).resumeAll (a.barWaiters b) syncTimeout else a

/-- ARRIVE of a core for a context at a cycle: a status at once, or none while it blocks (R237, R239, R240). A timer that
expired in an earlier cycle acts first. -/
def Aggregator.arrive (a0 : Aggregator) (b core ctx cyc : Nat) : Option Nat × Aggregator :=
  let a := a0.barrierTimeout b cyc
  let arr := a.get (BAR_ARR_ARRIVED b)
  let mask := a.get (BAR_MASK_MASK b)
  if ¬ ownedBy (a.get (BAR_CFG_SYS b)) (a.get (BAR_CFG_OWNER b)) ctx then (some syncOwner, a)
  else if a.on (BAR_STAT_BROKEN b) then (some syncBroken, a)
  else if ¬ bit mask core then (some syncNotMember, a)
  else if bit arr core then (some syncDouble, a)
  else
    let arr' := arr ||| 2 ^ core
    let first := (tabGet a.sync.barFirst b).getD cyc
    let a1 := (a.set (BAR_ARR_ARRIVED b) arr').modSync fun s =>
      { s with barWait := storeSet [] s.barWait b (storeGet [] s.barWait b ++ [4 * core]),
               barFirst := tabPut s.barFirst b first }
    if arr' = mask then
      (none, a1.modSync fun s => { s with barRelease := tabPut s.barRelease b (cyc + releaseCycles) })
    else (none, a1)

/-- BARRIER_RELEASE: 48 cycles after the last arrival (R239). -/
def Aggregator.barrierRelease (a : Aggregator) (b cyc : Nat) : Aggregator :=
  match tabGet a.sync.barRelease b with
  | some due => if due ≤ cyc then (a.barEnd b).resumeAll (a.barWaiters b) syncOk else a
  | none => a

/-- A privileged RESET of a barrier (R240). -/
def Aggregator.barrierReset (a : Aggregator) (b : Nat) : Aggregator :=
  ((a.barEnd b).set (BAR_STAT_BROKEN b) 0).resumeAll (a.barWaiters b) syncReset

/-- A barrier has no arrival and no waiter (R237). -/
def Aggregator.barIdle (a : Aggregator) (b : Nat) : Bool :=
  decide (a.get (BAR_ARR_ARRIVED b) = 0) && (a.barWaiters b).isEmpty

/-- A write of BAR_CFG: owner and timeout (R237). -/
def Aggregator.writeBarCfg (a : Aggregator) (b m : Nat) : Aggregator :=
  if a.barIdle b then a.setWord (addr_BAR_CFG b) (BitVec.ofNat 64 m) else a.syncBusy

/-- A write of the participant mask (R237, R239). -/
def Aggregator.writeBarMask (a : Aggregator) (b mask : Nat) : Aggregator :=
  if mask = 0 ∨ mask &&& a.get CHIP_CORE_PRESENT_PRESENT ≠ mask ∨ ¬ a.barIdle b then a.syncBusy
  else a.set (BAR_MASK_MASK b) mask

/-! ### Semaphores (R241 to R243) -/

def Aggregator.semQueue (a : Aggregator) (s : Nat) : List SemWait := storeGet [] a.sync.semQ s

/-- The queue of a semaphore changes, and WAITERS shows its length. -/
def Aggregator.setSemQ (a : Aggregator) (s : Nat) (q : List SemWait) : Aggregator :=
  (a.modSync fun n => { n with semQ := storeSet [] n.semQ s q }).set (SEM_CFG_WAITERS s) q.length

/-- The head is served for as long as it is satisfied: value left, served engines, queue left. -/
def serveHeads : Nat → List SemWait → Nat × List Nat × List SemWait
  | v, [] => (v, [], [])
  | v, w :: q =>
    if w.n ≤ v then
      let (v', es, q') := serveHeads (v - w.n) q
      (v', w.engine :: es, q')
    else (v, [], w :: q)

/-- The queue is served at a cycle (R242). -/
def Aggregator.semServe (a : Aggregator) (s cyc : Nat) : Aggregator :=
  let (v, es, q) := serveHeads (a.get (SEM_VAL_VALUE s)) (a.semQueue s)
  if es.isEmpty then a
  else ((a.set (SEM_VAL_VALUE s) v).setSemQ s q).modSync fun n =>
    { n with served := n.served ++ es.map fun e => ⟨s, e, cyc + releaseCycles⟩ }

/-- Whether a context owns a semaphore. -/
def Aggregator.ownsSem (a : Aggregator) (s ctx : Nat) : Bool := ownedBy (a.get (SEM_CFG_SYS s)) (a.get (SEM_CFG_OWNER s)) ctx

/-- Waits that expired in an earlier cycle leave with TIMEOUT, oldest first, and the new head is tested in the cycle after
(R242). -/
def Aggregator.semLapse (a : Aggregator) (s cyc : Nat) : Nat → Aggregator
  | 0 => a
  | fuel + 1 =>
    let q := a.semQueue s
    match minOf (q.filterMap fun w => w.due.bind fun t => if t < cyc then some t else none) with
    | none => a
    | some t =>
      let gone := (q.filter fun w => decide (w.due = some t)).map (·.engine)
      (((a.setSemQ s (q.filter fun w => decide (w.due ≠ some t))).resumeAll gone syncTimeout).semServe s (t + 1)).semLapse s cyc fuel

def Aggregator.semLapsed (a : Aggregator) (s cyc : Nat) : Aggregator := a.semLapse s cyc (a.semQueue s).length

/-! ### One cycle of a semaphore (R242)

The operations of one cycle may be commanded in any order: each one has the cycle judged again, SIGNALs first, then the queue,
then the new TRYWAITs and WAITs in ascending engine number (log 139). Once a core whose operation was judged has gone on, that
cycle is over, and a further operation takes the next one. -/

/-- The cycle's core has issued nothing since its operation. -/
def Aggregator.opStands (a : Aggregator) (o : SemOp) : Bool :=
  match tabGet a.det.cores (o.engine / 4) with
  | some k => k.run.isSome && decide (k.pc = o.pc)
  | none => false

/-- The cycle that an operation of an engine falls in. -/
def Aggregator.semCycle (a : Aggregator) (s engine cyc : Nat) : SemCycle :=
  let fresh (c : Nat) : SemCycle :=
    { cycle := c, value := a.get (SEM_VAL_VALUE s), queue := a.semQueue s, added := 0, served := [], ops := [] }
  match tabGet a.sync.semCyc s with
  | some y => if y.cycle < cyc then fresh cyc else if y.ops.all (fun o => a.opStands o && decide (o.engine ≠ engine)) then y else fresh (y.cycle + 1)
  | none => fresh cyc

/-- The new operations are judged in order: value and queue left, and each one's status, none where it waits. -/
def judgeOps (cycle v : Nat) (q : List SemWait) : List SemOp → Nat × List SemWait × List (SemOp × Option Nat)
  | [] => (v, q, [])
  | o :: l =>
    if o.n ≤ v ∧ (o.wait → q = []) then
      let (v', q', r) := judgeOps cycle (v - o.n) q l
      (v', q', (o, some syncOk) :: r)
    else if o.wait then
      let (v', q', r) := judgeOps cycle v (q ++ [⟨o.engine, o.n, cycle, o.due⟩]) l
      (v', q', (o, none) :: r)
    else
      let (v', q', r) := judgeOps cycle v q l
      (v', q', (o, some syncTimeout) :: r)

/-- The value after the SIGNALs of a cycle. -/
def SemCycle.signalled (y : SemCycle) : Nat := min (y.value + y.added) (2 ^ 32 - 1)

/-- What a cycle comes to: value, engines served, queue, and the status of each operation. -/
def SemCycle.outcome (y : SemCycle) : Nat × List Nat × List SemWait × List (SemOp × Option Nat) :=
  let (v, es, q) := serveHeads y.signalled y.queue
  let (v', q', r) := judgeOps y.cycle v q y.ops
  (v', es, q', r)

/-- A core's operation has its status, or waits. -/
def Core.judged (k : Core) (o : SemOp) (st : Option Nat) : Core :=
  match st with
  | none => { k with blocked := .sync o.rd }
  | some n => { k with blocked := .no, x := if o.rd = 0 then k.x else storeSet 0 k.x o.rd (BitVec.ofNat 64 n) }

/-- A cycle is judged (again). -/
def Aggregator.judge (a : Aggregator) (s : Nat) (y : SemCycle) : Aggregator :=
  let (v, es, q, r) := y.outcome
  let a1 := ((a.set (SEM_VAL_VALUE s) v).setSemQ s q).modSync fun n =>
    { n with served := n.served ++ (es.filter fun e => !y.served.contains e).map (fun e => ⟨s, e, y.cycle + releaseCycles⟩),
             semCyc := tabPut n.semCyc s { y with served := es } }
  let a2 := r.foldl (fun (a : Aggregator) o =>
    a.modDet fun d => { d with cores := tabMod d.cores (o.1.engine / 4) fun k => k.judged o.1 o.2 }) a1
  if 2 ^ 32 ≤ y.value + y.added then a2.raise (SEM_CFG_SATURATED s) else a2

/-- Operations stand in ascending engine number. -/
def insertOp (o : SemOp) : List SemOp → List SemOp
  | [] => [o]
  | x :: l => if o.engine < x.engine then o :: x :: l else x :: insertOp o l

/-- The status that an engine's operation has in a cycle. -/
def SemCycle.statusOf (y : SemCycle) (engine : Nat) : Option Nat :=
  (y.outcome.2.2.2.find? fun o => decide (o.1.engine = engine)).bind (·.2)

/-- SIGNAL(n): n outside 1 to 65,535 adds an amount the spec leaves open (log 30). -/
def Aggregator.semSignal (a0 : Aggregator) (s n engine ctx cyc : Nat) : Nat × Aggregator :=
  if ¬ a0.ownsSem s ctx then (syncOwner, a0)
  else
    let a := a0.semLapsed s cyc
    let n := if 1 ≤ n ∧ n ≤ 65535 then n else Config.semAmount n
    let y := a.semCycle s engine cyc
    (syncOk, a.judge s { y with added := y.added + n })

/-- A WAIT or TRYWAIT of an owner joins the cycle's operations: its status, none where it waits. -/
def Aggregator.semOp (a0 : Aggregator) (s ctx cyc : Nat) (o : SemOp) : Option Nat × Aggregator :=
  if ¬ a0.ownsSem s ctx then (some syncOwner, a0)
  else
    let a := a0.semLapsed s cyc
    let y := a.semCycle s o.engine cyc
    let due := o.due.map fun t => y.cycle + t
    let y1 := { y with ops := insertOp { o with due := due } y.ops }
    (y1.statusOf o.engine, a.judge s y1)

/-- WAIT(n, t) of an engine, its status register and the address after it: OK at once, or it joins the queue; t of 2^24 or more is
left open (log 30). -/
def Aggregator.semWait (a : Aggregator) (s n t engine rd pc ctx cyc : Nat) : Option Nat × Aggregator :=
  let t := if t < 2 ^ 24 then t else Config.semTimeout t
  a.semOp s ctx cyc ⟨engine, rd, pc, n, true, if t = 0 then none else some t⟩

/-- TRYWAIT(n) never blocks (R241). -/
def Aggregator.semTry (a : Aggregator) (s n engine rd pc ctx cyc : Nat) : Option Nat × Aggregator :=
  a.semOp s ctx cyc ⟨engine, rd, pc, n, false, none⟩

/-- SEM_WAITER_RELEASE: 48 cycles after service (R242). -/
def Aggregator.semRelease (a : Aggregator) (engine cyc : Nat) : Aggregator :=
  if a.sync.served.any fun r => decide (r.engine = engine ∧ r.due ≤ cyc) then
    (a.modSync fun n => { n with served := n.served.filter fun r => decide (r.engine ≠ engine) }).resume engine syncOk
  else a

/-- SEM_WAIT_TIMEOUT: a wait that expired in an earlier cycle leaves the queue; in its own cycle service wins (R242). -/
def Aggregator.semExpire (a : Aggregator) (s engine cyc : Nat) : Aggregator :=
  if (a.semQueue s).any fun w => decide (w.engine = engine) && (match w.due with | some t => decide (t < cyc) | none => false) then
    a.semLapsed s cyc
  else a

/-- The queue changes beside the operations of a cycle, which is then over. -/
def Aggregator.semApart (a : Aggregator) (s : Nat) : Aggregator := a.modSync fun n => { n with semCyc := tabDel n.semCyc s }

/-- A privileged write of SEM_VAL (R243). -/
def Aggregator.writeSemVal (a : Aggregator) (s v cyc : Nat) : Aggregator :=
  (((a.semLapsed s cyc).semApart s).set (SEM_VAL_VALUE s) v).semServe s cyc

/-- A privileged RESET of a semaphore (R243). -/
def Aggregator.semReset (a : Aggregator) (s : Nat) : Aggregator :=
  let es := (a.semQueue s).map (·.engine)
  (((a.semApart s).set (SEM_VAL_VALUE s) 0).setSemQ s []).resumeAll es syncReset

/-- A write of SEM_CFG: RESET acts first, then the owner, of an idle object only (R237, R243). -/
def Aggregator.writeSemCfg (a : Aggregator) (s m : Nat) : Aggregator :=
  let a1 := if bit m 0 then a.semReset s else a
  if (a1.semQueue s).isEmpty then (a1.set (SEM_CFG_SYS s) (bits m 63 63)).set (SEM_CFG_OWNER s) (bits m 57 48) else a1.syncBusy

/-! ### A run that ends while it waits (R238) -/

/-- The operation of a core that waits is withdrawn: it holds no place in a queue and is owed no release; an arrival stands
(log 140). -/
def Aggregator.withdraw (a : Aggregator) (core : Nat) : Aggregator :=
  let mine (e : Nat) : Bool := decide (e / 4 = core)
  let a1 := a.modSync fun n =>
    { n with barWait := (n.barWait.map fun e => (e.1, e.2.filter fun x => !mine x)).filter fun e => decide (e.2 ≠ []),
             served := n.served.filter fun r => !mine r.engine }
  a1.sync.semQ.foldl (fun (a : Aggregator) e =>
    if e.2.any fun w => mine w.engine then
      (((a.semApart e.1).setSemQ e.1 (e.2.filter fun w => !mine w.engine))).semServe e.1 (a.cycle 0)
    else a) a1

end Sys2Proof.Machine
end

