-- ==== Sys2Proof/Machine/DetEvents.lean ====
section
/-!
DEFINITION. The events of detector runs and what follows from them; the end of a run (R326, R328, R329, R339, R349, R403, R408).
-/
namespace Sys2Proof.Machine

/-! ### Event kinds (Table 12-11) -/

abbrev evStraggler : Nat := 0x01
abbrev evDriftUp : Nat := 0x02
abbrev evDriftDown : Nat := 0x03
abbrev evSpike : Nat := 0x04
abbrev evCondSuspect : Nat := 0x05

/-- What a program fills of an event record: kind, FLAGS[3:0], subject, series, cell, and FP64 value, reference, score. -/
structure DetEvent where
  kind : Nat
  flags : Nat
  duid : Nat
  series : Nat
  cell : Nat
  value : Nat
  ref_ : Nat
  score : Nat
  deriving DecidableEq, Repr

/-- The fields that a program fills, read from its record. -/
def readEvent (l : List Byte) : DetEvent :=
  ⟨le l 5 1, le l 7 1 % 16, le l 16 4, le l 20 1, le l 21 1, le l 24 8, le l 32 8, le l 40 8⟩

/-- The whole record: the firmware fills the rest. -/
def DetEvent.bytes (e : DetEvent) (job gen bind tp pealId imageId eseq : Nat) : List Byte :=
  leBytes 4 job ++ leBytes 1 gen ++ leBytes 1 e.kind ++ leBytes 1 bind ++ leBytes 1 e.flags ++ leBytes 8 (tp / nsU)
    ++ leBytes 4 e.duid ++ leBytes 1 e.series ++ leBytes 1 e.cell ++ leBytes 2 pealId ++ leBytes 8 e.value
    ++ leBytes 8 e.ref_ ++ leBytes 8 e.score ++ leBytes 8 imageId ++ leBytes 4 eseq ++ zeros 4

def Aggregator.modRun (a : Aggregator) (c : Nat) (f : Run → Run) : Aggregator :=
  let k := a.core c
  match k.run with
  | some r => a.setCore c { k with run := some (f r) }
  | none => a

/-! ### The health pipeline's response (R403, R408, Table 14-3) -/

/-- The newest entry of a straggler window becomes one with an event. -/
def Aggregator.restraggle (a : Aggregator) (ctx duid score256 : Nat) : Aggregator :=
  (a.modHlt fun h =>
    { h with straggles := h.straggles.map fun s => if s.ctx = ctx ∧ s.duid = duid then { s with win := s.win.drop 1 } else s }
    ).straggle ctx duid true score256

/-- SCORE × 256, rounded to nearest, within the 4 bytes of COUNT (Table 14-10; log 146). -/
def score256 (v : F64) : Nat :=
  match f64 v with
  | .fin false m q => if 0 ≤ q + 8 then min (2 ^ 32 - 1) (m * 2 ^ (q + 8).toNat) else min (2 ^ 32 - 1) (shiftRne m (-(q + 8)).toNat)
  | .inf false => 2 ^ 32 - 1
  | _ => 0

/-- A STRAGGLER of a run for the epoch of a T_p: a TRAY run's counts when the tray contribution is encoded (R408). -/
def Aggregator.stragglerEvent (a : Aggregator) (r : Run) (duid : Nat) (score : F64) : Aggregator :=
  let counted : Bool := match (a.job r.ctx).bind fun j => j.epoch r.tp with
    | some e => e.tray.isSome
    | none => true
  let a1 := a.modEpoch r.ctx r.tp fun e =>
    if e.straggled.contains duid then e else { e with straggled := e.straggled ++ [duid] }
  if counted then a1.restraggle r.ctx duid (score256 score) else a1.straggle r.ctx duid true (score256 score)

/-- What health and sampling make of an accepted event. -/
def Aggregator.healthEvent (a : Aggregator) (r : Run) (j : JobCtx) (e : DetEvent) : Aggregator :=
  match a.regKey e.duid with
  | none => a
  | some u =>
    let c : Cause := ⟨r.tp / nsU, j.job, j.gen, noStep⟩
    if e.kind = evStraggler then
      (a.charge u hcStraggler 2 c).stragglerEvent r e.duid e.score
    else if e.kind = evDriftUp ∨ e.kind = evDriftDown then a.charge u hcDrift 0 c
    else if e.kind = evSpike then a.charge u hcSpike 0 c
    else if e.kind = evCondSuspect ∧ e.cell < 64 then
      (a.condSuspect u e.cell r.ctx c).sampleSuspect r.ctx e.duid e.cell
    else a

/-! ### Queuing an event (R349) -/

def Aggregator.eventLost (a : Aggregator) : Aggregator := (a.inc DET_CNT2_EVENT_LOST_N).raise DET_STATUS_EVENT_LOST

/-- The chip event queue of 4,096 records is full: events that have not gone to the tray controller stand in it (log 144). -/
def Aggregator.chipQueueFull (a : Aggregator) : Bool :=
  decide (4096 ≤ (a.hif.events.filter fun e => match e with | .detector _ => true | _ => false).length)

/-- EVENT of the run on a core: accepted from an image that may raise its kind, at most 16 in a run. -/
def Aggregator.putEvent (a : Aggregator) (c : Nat) (e : DetEvent) : Aggregator :=
  match (a.core c).run with
  | none => a
  | some r =>
    match a.job r.ctx, (a.inst r.inst).bind fun i => (a.image i.slot).map fun m => (i, m) with
    | some j, some (i, m) =>
      if e.kind = 0 ∨ (e.kind < 0x40 ∧ m.keyIdx ≠ 0) ∨ 16 ≤ r.events ∨ a.chipQueueFull then a.eventLost
      else
        let b := e.bytes j.job j.gen i.bind r.tp r.pealId m.id a.det.eseq
        let a1 := (a.modDet fun d => { d with eseq := (d.eseq + 1) % 2 ^ 32 }).modRun c fun r => { r with events := r.events + 1 }
        let a2 := (a1.inc DET_CNT2_EVENTS_N).appendEvent j.job j.gen e.duid b
        let a3 := a2.healthEvent r j e
        if e.kind < 0x40 then a3.event (.detector b) else a3
    | _, _ => a.eventLost

/-! ### The end of a run -/

/-- Outputs of a run: those that its image declares (log 58). -/
def Run.outputList (r : Run) (declared : Nat) : List (Option W64) :=
  (List.range 16).map fun k => if bit declared k then tabGet r.outputs k else none

/-- A TRAY run of a die unit has ended, with its outputs: its epoch may now encode (R326). -/
def Aggregator.trayEnded (a : Aggregator) (r : Run) (outs : List (Option W64)) : Aggregator :=
  match r.duid with
  | none => a
  | some d =>
    let a1 := a.modEpoch r.ctx r.tp fun e =>
      { e with running := e.running.filter (· ≠ d), outputs := tabPut e.outputs d outs }
    if a1.paused then a1 else a1.settleEpoch r.ctx r.tp

/-- Runs that wait, of an instance, go with no outputs. -/
def Aggregator.dropRuns (a : Aggregator) (n : Nat) : Aggregator :=
  let gone := a.det.cores.flatMap fun e => e.2.waiting.filter fun r => r.inst = n
  let a1 := a.modDet fun d =>
    { d with cores := d.cores.map fun e => (e.1, { e.2 with waiting := e.2.waiting.filter fun r => r.inst ≠ n }) }
  gone.foldl (fun (a : Aggregator) r => a.trayEnded r []) a1

/-- The barriers and semaphores of an instance return to the firmware, which resets each one first: an owner changes only of
an idle object (R237). -/
def Aggregator.freeSync (a : Aggregator) (i : Instance) : Aggregator :=
  let a1 := i.barriers.foldl (fun (a : Aggregator) b =>
    ((a.barrierReset b).set (BAR_CFG_SYS b) 1).set (BAR_MASK_MASK b) 0) a
  i.sems.foldl (fun (a : Aggregator) s => (a.semReset s).set (SEM_CFG_SYS s) 1) a1

/-- An instance leaves: its waiting runs go too. -/
def Aggregator.removeInst (a : Aggregator) (n : Nat) : Aggregator :=
  match a.inst n with
  | none => a
  | some i => ((a.dropRuns n).freeSync i).modDet fun d => { d with instances := tabDel d.instances n }

/-- The run on a core ends, by HALT (no fault) or by a fault with its code and user code. -/
def Aggregator.endRun (a : Aggregator) (c : Nat) (fault : Option (Nat × Nat)) : Aggregator :=
  let k := a.core c
  match k.run with
  | none => a
  | some r =>
    let a0 := match k.blocked with | .sync _ => a.withdraw c | _ => a
    let a1 := a0.setCore c { k with run := none, blocked := .no }
    let a2 := (a1.inc DET_CNT0_RUNS_N).modInst r.inst fun i =>
      { i with runs := satAdd 48 i.runs 1, succFaults := if fault.isSome then satAdd 8 i.succFaults 1 else 0,
               faultCode := match fault with | some f => f.1 | none => i.faultCode }
    let a3 := match fault with
      | none => a2
      | some (code, user) =>
        let b := ((((a2.set DET_FAULT_INSTANCE r.inst).set DET_FAULT_CODE code).set DET_FAULT_TRAP_CODE user).set DET_FAULT_PC
          k.pc).inc DET_CNT1_FAULT_N
        let b1 := if code = 0x04 then b.inc DET_CNT0_OVERRUN_N else b
        let succ := match b1.inst r.inst with | some i => i.succFaults | none => 0
        let b2 := b1.raiseAll 0x16 ((if code = 0x04 then [DET_STATUS_OVERRUN] else []) ++ [DET_STATUS_FAULT]
          ++ if 4 ≤ succ then [DET_STATUS_SUSPENDED] else [])
        if 4 ≤ succ then b2.modInst r.inst fun i => { i with suspended := true } else b2
    let declared := match (a3.inst r.inst).bind fun i => a3.image i.slot with | some m => m.outputs | none => 0
    let a4 := a3.trayEnded r (r.outputList declared)
    match a4.inst r.inst with
    | some i => if i.stopping ∧ ¬ a4.runningOf r.inst then a4.removeInst r.inst else if i.suspended then a4.dropRuns r.inst else a4
    | none => a4

end Sys2Proof.Machine
end

