-- ==== Sys2Proof/Machine/Library.lean ====
section
/-!
DEFINITION. The five shipped detectors, each run as a whole (R350 to R354, Tables 12-12, 12-13; log 57).
-/
namespace Sys2Proof.Machine

/-! ### Names -/

inductive LibKind where
  | stragglerTray
  | stragglerRoot
  | drift
  | spike
  | condition
  deriving DecidableEq, Repr

def asciiBytes (s : String) : List Byte := s.toList.map fun c => BitVec.ofNat 8 c.toNat

/-- A shipped image: signed with key 0 and named as one. -/
def DetImage.library (m : DetImage) : Option LibKind :=
  if m.keyIdx ≠ 0 then none
  else
    let is (s : String) : Bool := decide (m.name = padTo 32 (asciiBytes s))
    if is "straggler-tray" then some .stragglerTray
    else if is "straggler-root" then some .stragglerRoot
    else if is "drift" then some .drift
    else if is "spike" then some .spike
    else if is "condition" then some .condition
    else none

/-! ### Series (R350) -/

/-- The value of series s of a TRAY run: the snapshot, its state, and the scalar entry of a channel. -/
def seriesValue (params : List Byte) (snap : Snap) (scalar : Nat → W64) (s : Nat) : Option F64 :=
  let o := 16 * s
  let index := le params (o + 4) 4
  let scale := le params (o + 8) 8
  let main := decide (index < 480)
  let now : Option Nat := if 512 ≤ index ∨ (snap.light ∧ main) then none else (snap.samples[index]?).map (·.toNat)
  match le params o 1 with
  | 0x01 =>
    match now, snap.prev.bind fun p => (p.1[index]?).map (·.toNat) with
    | some v, some p => some (f64mul (f64ofInt ((v + 2 ^ 64 - p) % 2 ^ 64 : Nat)) scale)
    | _, _ => none
  | 0x02 => now.map fun v => f64mul (f64ofInt v) scale
  | 0x03 =>
    if 256 ≤ index then none
    else
      let e := (scalar index).toNat
      if bit e 33 then some (f64mul (f32to64 (e % 2 ^ 32)) scale) else none
  | _ => none

/-- A value rounded to an unsigned 64-bit integer, to nearest, ties to even; none where none holds it. -/
def roundU64 (v : F64) : Option Nat :=
  match f64 v with
  | .fin neg m q =>
    let n := if 0 ≤ q then m * 2 ^ q.toNat else shiftRne m (-q).toNat
    if (neg ∧ n ≠ 0) ∨ 2 ^ 64 ≤ n then none else some n
  | _ => none

/-! ### Stragglers (R351) -/

/-- v > m × (1 + RATIO/256) and v − m > ABS_NS, exactly. -/
def straggles (params : List Byte) (v m : FpVal) : Bool :=
  let ratio := le params 128 2
  let abs := le params 136 8
  (m.mul (.fin false (256 + ratio) (-8))).lt v && (FpVal.ofInt abs).lt (v.add m.neg)

def Aggregator.runStragglerTray (a : Aggregator) (c : Nat) (r : Run) (params : List Byte) (value : Nat → Option F64) : Aggregator :=
  match value 0 with
  | none => a
  | some v =>
    let out : W64 := match roundU64 v with | some n => BitVec.ofNat 64 n | none => Config.stragglerOutput (BitVec.ofNat 64 v)
    let a1 := a.modRun c fun r => { r with outputs := tabPut r.outputs 0 out }
    let median := le params 144 8
    if median ≠ 0 ∧ straggles params (f64 v) (FpVal.ofInt median) then
      a1.putEvent c ⟨evStraggler, 0, r.duid.getD noDuid, 0, 0xFF, v, f64ofInt median, f64div v (f64ofInt median)⟩
    else a1

/-- The position of a histogram's quantile: its counts in the order ZERO, UNDER, buckets, OVER (R279); none where N is 0. -/
def rankWalk : Nat → List Nat → Nat → Nat
  | i, [], _ => i
  | i, n :: l, r => if r ≤ n then i else rankWalk (i + 1) l (r - n)

/-- ZERO is 0, UNDER 1, bucket i is 2 + i, OVER 1,026; q = num / 2^32. -/
def quantile (fields : List Nat) (num : Nat) : Option Nat :=
  let counts := fields.getD histZero 0 :: fields.getD histUnder 0 :: fields.take 1024 ++ [fields.getD histOver 0]
  let n := counts.foldl (· + ·) 0
  if n = 0 then none else some (rankWalk 0 counts (max 1 (ceilDiv (num * n) (2 ^ 32))))

/-- 2^(j/64), correctly rounded (log 59): the 64th root is taken as six square roots of a number with bits to spare. -/
def bucketFloor (j : Int) : F64 :=
  let r := (j % 64).toNat
  let k := (j - r) / 64
  let x := 2 ^ (r + 64 * 60)
  let s := Nat.sqrt (Nat.sqrt (Nat.sqrt (Nat.sqrt (Nat.sqrt (Nat.sqrt x)))))
  fmtFp64.round false (2 * s + b2n (decide (r ≠ 0))) (k - 61)

/-- The MAX slot's value. -/
def slotValue (fmt raw : Nat) : FpVal :=
  match fmt with
  | 0 => FpVal.ofInt raw
  | 1 => FpVal.ofInt (signed 64 raw)
  | _ => f64 raw

/-- The T_p of the next epoch of a job after one: of its next scheduled peal, or the next instant. -/
def JobCtx.nextTp (j : JobCtx) (tp : Nat) : Nat := (minOf ((j.peals.map (·.tp)).filter (tp < ·))).getD (tp + 1)

/-- A BCAST request (R360): what it holds is issued once in a run, or the run faults NOT-ROOT. True where it was honoured. -/
def Aggregator.runBcast (a : Aggregator) (c : Nat) (payload : List Byte) : Bool × Aggregator :=
  match (a.core c).run with
  | none => (false, a)
  | some r =>
    match a.job r.ctx, (a.inst r.inst).bind fun i => a.image i.slot with
    | some j, some m =>
      if j.tree.level = 0 ∧ r.ctx < 1024 ∧ m.mayBcast ∧ a.on DET_CTRL_BCAST_EN ∧ ¬ r.bcastDone then
        let (seq, a1) := (a.modRun c fun r => { r with bcastDone := true }).issueBcast r.ctx bcDetParams payload
        (true, a1.report "DETECTOR-PARAMS" [j.job, j.gen, seq])
      else (false, a)
    | _, _ => (false, a)

/-- A DETECTOR-PARAMS payload (Table 12-16). -/
def paramsPayload (bind off imageId tp : Nat) (data : List Byte) : List Byte :=
  beBytes 1 bind ++ zeros 3 ++ beBytes 4 off ++ beBytes 4 data.length ++ zeros 4 ++ beBytes 8 imageId ++ beBytes 10 tp ++ zeros 6
    ++ data

/-- The fault of a run that the library ended, none where it ended well. -/
abbrev LibEnd := Option (Nat × Nat)

def Aggregator.runStragglerRoot (a : Aggregator) (c : Nat) (r : Run) (params contrib : List Byte) : LibEnd × Aggregator :=
  match readContrib contrib with
  | none => (none, a)
  | some k =>
    let slot (n op : Nat) : Option SlotVal := k.slots.find? fun s => decide (s.slot = n ∧ s.op = op)
    let baseJ : Int := match (a.job r.ctx).bind fun j => j.schema.find? fun s => decide (s.slot = le params 160 2) with
      | some s => s.baseJ
      | none => 0
    match slot (le params 160 2) opHist, slot (le params 162 2) opMax with
    | some h, some x =>
      match quantile h.fields (2 ^ 31) with
      | none => (none, a)
      | some p =>
        if p < 2 ∨ 1025 < p then (none, a)
        else
          let m := bucketFloor (baseJ + (p - 2 : Nat))
          let v := slotValue x.fmt (x.fields.getD 0 0)
          let duid := x.fields.getD 1 emptyDuid
          let vb := fmtFp64.encode v
          let a1 := if duid ≠ emptyDuid ∧ straggles params v (f64 m) then
              a.putEvent c ⟨evStraggler, 1 + 2 * b2n (decide (r.state = 2)), duid, 0, 0xFF, vb, m, f64div vb m⟩
            else a
          if le params 164 1 ≠ 1 then (none, a1)
          else
            let tray := (a1.instancesOf r.ctx kindTray).find? fun e => decide (e.2.2.library = some .stragglerTray)
            match tray, a1.job r.ctx, roundU64 m with
            | some (_, i, img), some j, some n =>
              match a1.runBcast c (paramsPayload i.bind 144 img.id (j.nextTp r.tp) (leBytes 8 n ++ leBytes 8 (r.tp / nsU))) with
              | (true, a2) => (none, a2)
              | (false, a2) => (some (0x07, 0), a2)
            | _, _, _ => (none, a1)
    | _, _ => (none, a)

/-! ### What the library keeps of die units -/

def Instance.libOf (i : Instance) (k : Nat) : LibState := (tabGet i.lib k).getD LibState.init
def Aggregator.setLib (a : Aggregator) (n k : Nat) (s : LibState) : Aggregator :=
  a.modInst n fun i => { i with lib := tabPut i.lib k s }

def one64 : F64 := f64ofInt 1

/-- A value of an event that no rule gives. -/
def Aggregator.drawRefScore (a : Aggregator) : (Nat × Nat) × Aggregator :=
  let (n, a1) := a.draw
  (((Config.eventRef n).toNat, (Config.eventScore n).toNat), a1)

/-! ### Drift (R352) -/

/-- Welford's update with one value. -/
def LibState.learn (s : LibState) (x : F64) : LibState :=
  let n := s.n + 1
  let d := f64sub x s.mean
  let mean := f64add s.mean (f64div d (f64ofInt n))
  { s with n := n, mean := mean, m2 := f64add s.m2 (f64mul d (f64sub x mean)) }

/-- One series of a die unit. -/
def Aggregator.driftSeries (a : Aggregator) (c : Nat) (r : Run) (key s : Nat) (params : List Byte) (x : F64) : Aggregator :=
  let warm := max 2 (le params 130 2)
  let method := le params 129 1
  let kk := 8 * key + s
  let s0 := match a.inst r.inst with | some i => i.libOf kk | none => LibState.init
  let s1 : LibState := if s0.warm = warm then s0 else { LibState.init with warm := warm }
  if s1.n < warm then a.setLib r.inst kk (s1.learn x)
  else
    let p (o : Nat) : F64 := le params o 8
    let sd := f64max (Config.driftSd (BitVec.ofNat 64 s1.m2) s1.n).toNat (p 168)
    let z := f64div (f64sub x s1.mean) sd
    let up := f64max 0 (f64sub (f64add s1.sPlus z) (p 136))
    let dn := f64max 0 (f64sub (f64sub s1.sMinus z) (p 136))
    let cusum := bit method 0
    let upFires := cusum && f64lt (p 144) up
    let dnFires := cusum && f64lt (p 144) dn
    let e := f64add (f64mul (p 152) z) (f64mul (f64sub one64 (p 152)) s1.ewma)
    let lim := f64mul (p 160) (f64sqrt (f64div (p 152) (f64sub (f64ofInt 2) (p 152))))
    let eFires := bit method 1 && f64lt lim (f64abs e)
    let s2 : LibState := { s1 with sPlus := if ¬ cusum then s1.sPlus else if upFires then 0 else up,
                                   sMinus := if ¬ cusum then s1.sMinus else if dnFires then 0 else dn,
                                   ewma := if ¬ bit method 1 then s1.ewma else if eFires then 0 else e }
    let fire (a : Aggregator) (hit : Bool) (kind : Nat) : Aggregator :=
      if ¬ hit then a
      else
        let ((ref_, score), a1) := a.drawRefScore
        a1.putEvent c ⟨kind, 0, r.duid.getD noDuid, s, 0xFF, x, ref_, score⟩
    let a1 := (a.setLib r.inst kk s2).modRun c fun r => { r with outputs := tabPut r.outputs s (BitVec.ofNat 64 (f64to32 z)) }
    fire (fire (fire a1 upFires evDriftUp) dnFires evDriftDown) eFires (if (f64 e).isNeg then evDriftDown else evDriftUp)

/-- The watched series of a die unit, in order. -/
def Aggregator.watched (a : Aggregator) (params : List Byte) (value : Nat → Option F64)
    (f : Aggregator → Nat → F64 → Aggregator) : Aggregator :=
  (List.range 8).foldl (fun (a : Aggregator) s =>
    match (if bit (le params 128 1) s then value s else none) with
    | some x => f a s x
    | none => a) a

/-! ### Spike (R353) -/

def insertF64 (v : F64) : List F64 → List F64
  | [] => [v]
  | x :: l => if f64lt v x then v :: x :: l else x :: insertF64 v l

/-- The median of values (log 62). -/
def medianF64 (l : List F64) : F64 :=
  let s := l.foldl (fun s v => insertF64 v s) []
  let h := s.length / 2
  if s.length % 2 = 1 then s.getD h 0
  else (Config.evenMedian (BitVec.ofNat 64 (s.getD (h - 1) 0)) (BitVec.ofNat 64 (s.getD h 0))).toNat

/-- 1.4826, to the nearest FP64. -/
def madScale : F64 := f64div (f64ofInt 14826) (f64ofInt 10000)

def nan64 : F64 := fmtFp64.qnan

/-- One series of a die unit. -/
def Aggregator.spikeSeries (a : Aggregator) (c : Nat) (r : Run) (key s : Nat) (params : List Byte) (x : F64) : Aggregator :=
  let win := clampN 8 255 (le params 130 2)
  let kk := 8 * key + s
  let s0 := match a.inst r.inst with | some i => i.libOf kk | none => LibState.init
  let raise_ (a : Aggregator) (score : Option Nat) : Aggregator :=
    let ((ref_, free), a1) := a.drawRefScore
    a1.putEvent c ⟨evSpike, 0, r.duid.getD noDuid, s, 0xFF, x, ref_, score.getD free⟩
  if ¬ f64finite x then raise_ a (some nan64)
  else
    let w := s0.win.drop (s0.win.length - win)
    let next : LibState := { s0 with win := (w ++ [x]).drop (w.length + 1 - win) }
    if w.length < win then a.setLib r.inst kk next
    else
      let m := medianF64 w
      let d := medianF64 (w.map fun v => f64abs (f64sub v m))
      let sd := f64mul madScale d
      let zero := (f64 d).isZero
      let first := zero || f64lt (f64add m (f64mul (f64mul (le params 136 8) madScale) d)) x
      let second := f64lt (f64add m (f64mul (le params 144 8) (f64abs m))) x
      let a1 := a.setLib r.inst kk next
      let a2 := if zero then a1 else a1.modRun c fun r =>
        { r with outputs := tabPut r.outputs s (BitVec.ofNat 64 (f64to32 (f64div (f64sub x m) sd))) }
      if first && second then raise_ a2 none else a2

/-! ### Condition (R354, Table 12-13) -/

/-- Sums of a die unit's cell over its window. -/
structure CellRow where
  commits : Nat
  audited : Nat
  deviates : Nat
  near : Nat
  health : Nat
  deriving DecidableEq, Repr

def CellRow.zero : CellRow := ⟨0, 0, 0, 0, 0⟩

/-- The row of a die unit: the WIN steps that end at its last coverage record; empty where there is none (log 63). -/
def DieJob.cellRow (d : DieJob) (win : Option Nat) : List CellRow :=
  match win with
  | none => List.replicate 64 CellRow.zero
  | some w =>
    if d.dieStep = 0 then List.replicate 64 CellRow.zero
    else
      let lo := d.dieStep - w
      let inWin (s : Nat) : Bool := decide (lo ≤ s ∧ s < d.dieStep)
      (List.range 64).map fun c =>
        let cs := d.cover.filter fun x => inWin x.step
        let commits := (cs.map fun x => be x.bytes (16 + 4 * c) 4).foldl (· + ·) 0
        let counts := (d.counts.filter fun e => inWin (e.1 / 64) && decide (e.1 % 64 = c)).map (·.2)
        let sum (f : CellCount → Nat) : Nat := (counts.map f).foldl (· + ·) 0
        ⟨commits, sum (·.audited), sum (·.deviates), sum (·.near), sum (·.health)⟩

def CellRow.bytes (c : CellRow) : List Byte :=
  leBytes 8 c.commits ++ leBytes 4 c.audited ++ leBytes 4 c.deviates ++ leBytes 4 c.near ++ leBytes 4 c.health ++ zeros 8

/-- Die units of a job context that this node serves, with their registration entries. -/
def Aggregator.jobServed (a : Aggregator) (j : JobCtx) : List (Nat × Nat) :=
  j.dieUnits.filterMap fun d => match a.regKey d with
    | some k => if a.servesKey k then some (d, k) else none
    | none => none

/-- The cell rows of the die units that a node serves for a job, by registration entry. -/
def Aggregator.cellTable (a : Aggregator) (ctx : Nat) : List (Nat × Nat × List CellRow) :=
  match a.job ctx with
  | none => []
  | some j => (a.jobServed j).map fun e =>
      (e.1, e.2, ((tabGet j.dies e.1).getD DieJob.init).cellRow ((((tabGet j.dies e.1).getD DieJob.init) |> j.ratesOf).map (·.win)))

/-- The score G of a cell: n of sum N events against x of sum X exposure. -/
def condScore (rateFloor : F64) (n sumN x sumX : Nat) : F64 :=
  let q := f64div (f64ofInt (sumN - n : Nat)) (f64ofInt (sumX - x : Nat))
  let r := if f64lt rateFloor q then q else rateFloor
  let e := f64mul r (f64ofInt x)
  let nf := f64ofInt n
  if f64lt e nf then
    f64mul (f64ofInt 2)
      (f64sub (f64mul nf (Config.ln (BitVec.ofNat 64 (f64div nf e))).toNat) (f64sub nf e))
  else 0

/-- One cell of a die unit: the audit score, then the health score. -/
def Aggregator.condCell (a : Aggregator) (c : Nat) (r : Run) (key duid cell : Nat) (params : List Byte) (row : List CellRow) :
    Aggregator :=
  let x := row.getD cell CellRow.zero
  let sum (f : CellRow → Nat) : Nat := (row.map f).foldl (· + ·) 0
  let eMin := le params 128 4
  let thr : F64 := le params 136 8
  let half := f64div thr (f64ofInt 2)
  let floor_ : F64 := le params 144 8
  let ev (y : CellRow) : Nat := y.deviates + y.near
  let kk := 64 * key + cell
  let gA := condScore floor_ (ev x) (sum ev) x.audited (sum (·.audited))
  let gH := condScore floor_ x.health (sum (·.health)) x.commits (sum (·.commits))
  let s := match a.inst r.inst with | some i => i.libOf kk | none => LibState.init
  let hit (n : Nat) (g : F64) : Bool := decide (eMin ≤ n) && f64le thr g
  let fireA := hit (ev x) gA && !s.raisedA
  let fireH := hit x.health gH && !s.raisedH
  let s1 : LibState := { s with raisedA := fireA || (s.raisedA && !f64lt gA half),
                                raisedH := fireH || (s.raisedH && !f64lt gH half) }
  let fire (a : Aggregator) (on : Bool) (g : F64) : Aggregator :=
    if ¬ on then a
    else
      let (n, a1) := a.draw
      a1.putEvent c ⟨evCondSuspect, 1 + 2 * b2n (decide (r.state = 2)), duid, 0xFF, cell, (Config.eventValue n).toNat,
        (Config.eventRef n).toNat, g⟩
  let a1 := if s1 = s then a else a.setLib r.inst kk s1
  fire (fire a1 fireA gA) fireH gH

def Aggregator.runCondition (a : Aggregator) (c : Nat) (r : Run) (params : List Byte) : Aggregator :=
  (a.cellTable r.ctx).foldl (fun (a : Aggregator) e =>
    (List.range 64).foldl (fun (a : Aggregator) cell => a.condCell c r e.2.1 e.1 cell params e.2.2) a) a

end Sys2Proof.Machine
end

