-- ==== Sys2Proof/Machine/DetRun.lean ====
section
/-!
DEFINITION. The start of detector runs on the cores, and their budget (R326 to R332, R343, Table 12-1).
-/
namespace Sys2Proof.Machine

/-! ### Where the areas of a run lie (log 44) -/

abbrev snapAt (c : Nat) : Nat := sramOf c + 0x3C0000
abbrev prevAt (c : Nat) : Nat := sramOf c + 0x3C1000
abbrev scalarsAt (c : Nat) : Nat := sramOf c + 0x3C2000

/-- The epoch-state region (Table 9-8). -/
abbrev rgnEpoch : Nat := 0x05
/-- The detector-image region. -/
abbrev rgnImage : Nat := 0x02

def Aggregator.detArea (a : Aggregator) : Nat :=
  match a.regionOf rgnEpoch with
  | some i => a.get (HBM_RGN_BASE_BASE i)
  | none => hbmBase

/-- Parameter copy, epoch and cell table of the run on a core. -/
def Aggregator.paramsPtr (a : Aggregator) (c : Nat) : Nat := a.detArea + c * 0x400000
def Aggregator.epochPtr (a : Aggregator) (c : Nat) : Nat := a.paramsPtr c + 0x80000
def Aggregator.cellsPtr (a : Aggregator) (c : Nat) : Nat := a.paramsPtr c + 0x100000
abbrev cellsLen : Nat := 512 * 2048

/-- What a run finds: its snapshot, the die unit's scalar entries, the parameter block, the contribution. -/
structure RunInput where
  snap : Option Snap
  scalars : List W64
  params : List Byte
  contrib : List Byte
  deriving DecidableEq, Repr

/-! ### Scalars (R343) -/

/-- The scalar table of a die unit's run: reports before T_p come in, and bit 33 tells what came since the previous run. -/
def Instance.takeScalars (i : Instance) (l tp : Nat) : Instance :=
  let mine (r : Nat × Nat × Nat) : Bool := decide (r.2.1 / 256 = l ∧ r.1 < tp)
  let old := i.scalars.map fun e => if e.1 / 256 = l then (e.1, e.2 &&& ~~~(1 <<< 33 : W64)) else e
  { i with scalars := (i.reports.filter mine).foldl (fun m r =>
             storeSet 0 m r.2.1 (BitVec.ofNat 64 (r.2.2 % 2 ^ 32 + 3 * 2 ^ 32))) old,
           reports := i.reports.filter fun r => !mine r }

def Instance.scalarsOf (i : Instance) (l : Nat) : List W64 := (List.range 256).map fun ch => storeGet 0 i.scalars (256 * l + ch)

def Aggregator.runInput (a : Aggregator) (r : Run) (i : Instance) : RunInput :=
  let snap := match r.duid with
    | some d => (a.job r.ctx).bind fun j => (j.epoch r.tp).bind fun e => tabGet e.snaps d
    | none => none
  { snap := snap, scalars := match r.duid with | some d => i.scalarsOf (d % 256) | none => [],
    params := i.paramsAt r.tp,
    contrib := match r.duid with | some _ => [] | none => match a.job r.ctx with | some j => (j.readEpoch r.tp).2 | none => [] }

/-! ### The context block (R332) -/

def leWords (l : List W64) : List Byte := l.flatMap fun w => leBytes 8 w.toNat

/-- The number of a die unit among those that keep state: its registration entry. -/
def Aggregator.runKey (a : Aggregator) (r : Run) : Nat := match r.duid with | some d => (a.regKey d).getD 0 | none => 0

def Aggregator.contextBlock (a : Aggregator) (c : Nat) (r : Run) (i : Instance) (m : DetImage) (x : RunInput) : List Byte :=
  let (job, gen) := match a.job r.ctx with | some j => (j.job, j.gen) | none => (0, 0)
  let tray := r.duid.isSome
  let ptr (on : Bool) (p : Nat) : List Byte := leBytes 8 (if on then p else 0)
  leBytes 1 m.kind ++ leBytes 1 r.state ++ leBytes 1 i.bind ++ zeros 1 ++ leBytes 4 (r.duid.getD noDuid) ++ leBytes 4 job
    ++ leBytes 1 gen ++ zeros 1 ++ leBytes 2 r.pealId ++ leBytes 8 (r.tp / nsU) ++ ptr tray (snapAt c)
    ++ ptr (tray && (x.snap.bind (·.prev)).isSome) (prevAt c) ++ ptr tray (scalarsAt c) ++ leBytes 8 (a.paramsPtr c)
    ++ ptr tray (i.dstate + a.runKey r * m.dstateBytes) ++ leBytes 8 i.istate ++ ptr (!tray) (a.epochPtr c)
    ++ leBytes 8 (a.cellsPtr c) ++ leBytes 8 i.hbm
    ++ ptr (decide (m.field 88 8 ≠ 0)) (m.addr + m.field 88 8) ++ leBytes 8 m.budget

/-- The areas that a run may only read, and those that it may also write (R338). -/
def Aggregator.runAreas (a : Aggregator) (c : Nat) (r : Run) (i : Instance) (m : DetImage) (x : RunInput) :
    List (Nat × Nat) × List (Nat × Nat) :=
  let tray := r.duid.isSome
  let rd := [(sramOf c + i.sram, 112), (a.paramsPtr c, x.params.length), (a.cellsPtr c, cellsLen)]
    ++ (if tray then [(snapAt c, 4096), (scalarsAt c, 2048)] else [(a.epochPtr c, x.contrib.length)])
    ++ (if (x.snap.bind (·.prev)).isSome then [(prevAt c, 4096)] else [])
    ++ (if m.field 88 8 ≠ 0 then [(m.addr + m.field 88 8, m.field 96 8)] else [])
  let rw := (((List.range 64).filter fun k => bit i.cores k).map fun k => (sramOf k + i.sram + 112, m.sramKib * 1024 - 112))
    ++ [(i.hbm, m.field 32 8), (i.istate, m.istateBytes)]
    ++ (if tray then [(i.dstate + a.runKey r * m.dstateBytes, m.dstateBytes)] else [])
  (rd, rw)

/-- The areas are filled. -/
def Aggregator.fillAreas (a : Aggregator) (c : Nat) (r : Run) (i : Instance) (m : DetImage) (x : RunInput) : Aggregator :=
  let put (a : Aggregator) (addr : Nat) (l : List Byte) : Aggregator := a.poke addr l
  let a1 := put a (sramOf c + i.sram) (a.contextBlock c r i m x)
  let a2 := put a1 (a.paramsPtr c) x.params
  let a3 := match x.snap with
    | some s =>
      let b := put (put a2 (snapAt c) (leWords s.samples)) (scalarsAt c) (leWords x.scalars)
      (match s.prev with
      | some p => put b (prevAt c) (leWords p.1)
      | none => b)
    | none => put a2 (a.epochPtr c) x.contrib
  let a4 : Aggregator := { a3 with mem := memClear a3.mem (a.cellsPtr c) cellsLen }
  (a.cellTable r.ctx).foldl (fun (a : Aggregator) e => put a (a.cellsPtr c + 2048 * e.2.1) (e.2.2.flatMap CellRow.bytes)) a4

/-! ### Start -/

/-- A shipped image runs as a whole. -/
def Aggregator.runLibrary (a : Aggregator) (c : Nat) (r : Run) (k : LibKind) (x : RunInput) : Aggregator :=
  let value (s : Nat) : Option F64 := x.snap.bind fun p => seriesValue x.params p (fun ch => x.scalars.getD ch 0) s
  let key := a.runKey r
  match k with
  | .stragglerTray => (a.runStragglerTray c r x.params value).endRun c none
  | .drift => (a.watched x.params value fun a s v => a.driftSeries c r key s x.params v).endRun c none
  | .spike => (a.watched x.params value fun a s v => a.spikeSeries c r key s x.params v).endRun c none
  | .condition => (a.runCondition c r x.params).endRun c none
  | .stragglerRoot =>
    let (fault, a1) := a.runStragglerRoot c r x.params x.contrib
    a1.endRun c fault

/-- The next run that waits on a core starts, where it is of the kind asked for; one whose instance runs no more is dropped
with its outputs absent. -/
def Aggregator.startRun (a : Aggregator) (c : Nat) (tray : Bool) : Aggregator :=
  let k := a.core c
  match k.run, k.waiting with
  | none, r :: rest =>
    if r.duid.isSome ≠ tray ∨ a.paused ∨ ¬ a.coreOn c then a
    else match (a.inst r.inst).bind fun i => (a.image i.slot).map fun m => (i, m) with
      | none => (a.setCore c { k with waiting := rest }).trayEnded r []
      | some (i, m) =>
        if ¬ a.instRuns i then
          let a1 := (a.setCore c { k with waiting := rest }).trayEnded r []
          if i.stopping ∧ ¬ a1.runningOf r.inst then a1.removeInst r.inst else a1
        else
          let i1 := match r.duid with | some d => i.takeScalars (d % 256) r.tp | none => i
          let a1 := a.modInst r.inst fun _ => i1
          let x := a1.runInput r i1
          let (rd, rw) := a1.runAreas c r i1 m x
          let r1 : Run := { r with rd := rd, rw := rw, began := a1.cycle 0 }
          let who : Nat := match r.duid with | some d => d % 256 | none => 0x1FF
          let x0 : Store W64 := storeSet 0 (storeSet 0 (storeSet 0 [] 1 (BitVec.ofNat 64 (sramOf c + i.sram))) 2 (BitVec.ofNat 64 who)) 3
            (BitVec.ofNat 64 (r.tp / nsU))
          let k1 : Core := { x := x0, pc := (sramOf c + i.sram + 128) / 8 + m.entry, ste0 := Ste.init, ste1 := Ste.init, xde := [],
                             blocked := .no, run := some r1, waiting := rest }
          let a2 := (a1.setCore c k1).fillAreas c r1 i1 m x
          match m.library with
          | some l => a2.runLibrary c r1 l x
          | none => a2
  | _, _ => a

/-- RUN_BUDGET: a run that has used its cycles is stopped (R328). -/
def Aggregator.runBudget (a : Aggregator) (c cyc : Nat) : Aggregator :=
  match (a.core c).run.bind fun r => ((a.inst r.inst).bind fun i => a.image i.slot).map fun m => (r, m) with
  | some (r, m) => if r.began + m.budget ≤ a.cycle cyc then a.endRun c (some (0x04, 0)) else a
  | none => a

end Sys2Proof.Machine
end

