-- ==== Sys2Proof/Machine/Jobs.lean ====
section
/-!
DEFINITION. Jobs at an aggregator: Arm Job and Retire Job, the drain and the quarantine (R31, R32, R286 to R288, R363, R437).
-/
namespace Sys2Proof.Machine

/-! ### Command status (Table 15-7) -/

abbrev csSuccess : Nat := 0x00
abbrev csInvalidOpcode : Nat := 0x01
abbrev csInvalidField : Nat := 0x02
abbrev csPrivilege : Nat := 0x03
abbrev csDataError : Nat := 0x04
abbrev csTooSmall : Nat := 0x05
abbrev csBusy : Nat := 0x06
abbrev csBudget : Nat := 0x07
abbrev csCancelled : Nat := 0x08
abbrev csAborted : Nat := 0x09
abbrev csRefused : Nat := 0x0A
abbrev csNoContext : Nat := 0x10
abbrev csTreeInvalid : Nat := 0x11
abbrev csCoverage : Nat := 0x12
abbrev csGenInUse : Nat := 0x13
abbrev csSchema : Nat := 0x14
abbrev csNotArmed : Nat := 0x15
abbrev csDieFailed : Nat := 0x16
abbrev csByPartner : Nat := 0x17
abbrev csAbsentCore : Nat := 0x18
abbrev csFwInvalid : Nat := 0x30
abbrev csFwEmpty : Nat := 0x31
abbrev csFwReverted : Nat := 0x32

/-- What starting a command gives: its end, with status, RESULT and the data for the submitter, or a wait. -/
inductive CmdRes where
  | done (status result : Nat) (data : List Byte)
  | wait (w : CmdWait)
  deriving DecidableEq, Repr

def CmdRes.fail (status : Nat) : CmdRes := .done status 0 []
def CmdRes.ok : CmdRes := .done csSuccess 0 []

/-! ### Arm Job data (Table 15-11) -/

def armSchemaAt (l : List Byte) : Nat := armMembersAt l + 512
def armMapAt (l : List Byte) : Nat := armSchemaAt l + 16 * le l 40 2
def armTotal (l : List Byte) : Nat := armMapAt l + 16 * le l 42 1

def armDies (l : List Byte) : List Nat := (List.range (le l 30 2)).map fun i => le l (64 + 4 * i) 4

def armSchema (l : List Byte) : List SchemaSlot :=
  (List.range (le l 40 2)).map fun i =>
    let o := armSchemaAt l + 16 * i
    ⟨le l o 2, le l (o + 2) 1, le l (o + 3) 1, le l (o + 4) 1, le l (o + 6) 2, signed 16 (le l (o + 8) 2)⟩

/-- Fingerprint map entries, in the network byte order of Table 6-4. -/
def armMap (l : List Byte) : List (List Byte) := (List.range (le l 42 1)).map fun i => slice l (armMapAt l + 16 * i) 16

/-- The subtree tables fill SUBTREE_LEN. -/
def armSubtreesOk (l : List Byte) : Bool :=
  decide (((readTree l).subtree.map fun s => 2 + 4 * s.length).foldl (· + ·) 0 = le l 44 4)

/-- Every field is in range and every reserved field zero. -/
def Aggregator.armFieldsOk (a : Aggregator) (l : List Byte) : Bool :=
  let dies := armDies l
  decide (64 ≤ l.length ∧ l.length = armTotal l) && decide (1 ≤ le l 30 2 ∧ le l 30 2 ≤ 256)
    && decide (1 ≤ le l 40 2 ∧ le l 40 2 ≤ 256) && decide (le l 42 1 ≤ 64) && decide (le l 43 1 = 0)
    && decide (le l 48 16 = 0) && armSubtreesOk l
    && dies.all (fun d => decide (d / 256 = a.id)) && decide (dies.eraseDups.length = dies.length)

/-- The conditions of R29 and R30 that an aggregator can see (R31). -/
def Aggregator.armTreeOk (a : Aggregator) (l : List Byte) : Bool :=
  let level := le l 0 1
  let parent := le l 4 2
  let backup := le l 6 2
  let dom (o i : Nat) : Nat := le l (o + 2 * i) 2
  decide (le l 2 1 ≤ 32 ∧ le l 3 1 ≤ 32 ∧ level ≤ le l 1 1 ∧ le l 1 1 ≤ 4)
    && (decide (level = 0)
      || (decide (parent ≠ backup ∧ parent ≠ a.id ∧ backup ≠ a.id)
        && (List.range 3).all fun i => decide (dom 8 i ≠ dom 14 i)))

/-- Fingerprint elements that a job may declare (Table 1-7). -/
abbrev coverageMax : Nat := 2 ^ 44

/-- The status with which Arm Job is refused; none where it is accepted. The order of the checks is log 68. -/
def Aggregator.armRefusal (a : Aggregator) (job gen : Nat) (l : List Byte) : Option Nat :=
  if job = 0 ∨ ¬ a.armFieldsOk l then some csInvalidField
  else if (a.ownJob job gen).isSome then some csGenInUse
  else if ¬ a.armTreeOk l then some csTreeInvalid
  else if coverageMax < le l 32 8 then some csCoverage
  else if ¬ schemaOk (armSchema l) then some csSchema
  else if a.freeCtx.isNone then some csNoContext
  else none

/-- The job context that Arm Job binds. -/
def Aggregator.armContext (a : Aggregator) (job gen : Nat) (l : List Byte) (key : List Byte) : JobCtx :=
  { job := job, gen := gen, state := .arming, version := 1, tree := readTree l, treeHeld := false, reparent := [], standIn := none,
    schemaId := le l 20 4,
    schema := armSchema l, epochWait := if le l 24 4 = 0 then a.get EP_DEFAULTS_EPOCH_WAIT else le l 24 4,
    hopWait := if le l 28 2 = 0 then a.get EP_DEFAULTS_HOP_WAIT else le l 28 2, dieUnits := armDies l, failed := [],
    fpMap := armMap l, fpDeclared := le l 32 8, truncated := false, selKey := key, tainted := false, firstTaint := noStep,
    horizon := none, reachedTo := 0, dies := [], peals := [], epochs := [], ring := [], gone := [], taken := [], parts := [], ups := [], bcasts := [], applied := 0, bparts := [],
    gapSince := none, reservedBc := 0, oldNak := 0, heard := [], lost := [],
    hbSent := a.mono, rates := none, oldRates := none, swaps := [], drainAt := none, quarEnd := 0 }

/-- The FP-MAP record of a map that went to every die unit: version 1, in force from step 0. -/
def mapBody (ver : Nat) (entries : List (List Byte)) : List Byte :=
  leBytes 4 ver ++ leBytes 4 entries.length ++ entries.flatMap (toLe mapEntrySizes)

/-- A die unit of this tray that the partner serves (R421). -/
def Aggregator.byPartner (a : Aggregator) (duid : Nat) : Bool :=
  match a.regKey duid with
  | some k => decide (k < 256) && a.on (REG_ENT_VALID k) && decide (a.get (REG_ENT_STATE k) = 3)
  | none => false

/-- The status of a command on die units of which some failed: SERVED-BY-PARTNER where it is all that failed (R421). -/
def Aggregator.diesStatus (a : Aggregator) (failed : List Nat) : Nat :=
  if failed = [] then csSuccess else if failed.all a.byPartner then csByPartner else csDieFailed

/-- TCK_OUTW of a die unit: two bits for each tc_num, the width of OUT_FMT of its VALID descriptor (R171, Table 6-15). -/
def Aggregator.outWidths (a : Aggregator) (duid : Nat) : Nat :=
  (List.range 16).foldl (fun w i =>
    let d := a.numericsOf duid i
    let code : Nat := if ¬ d.valid then 3
      else match (fmtOf d.outFmt).map (·.bits) with
        | some 8 => 0
        | some 16 => 1
        | some 32 => 2
        | _ => 3
    w + code * 4 ^ i) 0

/-- The PRIV fields that arming loads: pages 0x8 and 0xA as configured, and TCK_OUTW (R171, R180, R219). -/
def Aggregator.armRegs (a : Aggregator) (duid : Nat) : List (Nat × W64) :=
  (a.cfg.duRegs.filter fun e => decide ((e.1 / 4096 = 0x8 ∨ e.1 / 4096 = 0xA) ∧ e.1 ≠ addr_TCK_OUTW))
    ++ [(addr_TCK_OUTW, BitVec.ofNat 64 (a.outWidths duid))]

/-- The control frames that arm one die unit: ARM, FP-MAP, SEL-KEY, and the PRIV fields that arming loads. -/
def Aggregator.armDie (a : Aggregator) (j : JobCtx) (k gtag serial : Nat) : Aggregator :=
  (((a.control k 0x01 (beBytes 4 j.job ++ beBytes 1 j.gen ++ zeros 3) gtag (some serial)).control k 0x05
    (beBytes 1 j.fpMap.length ++ zeros 7 ++ j.fpMap.flatten) gtag (some serial)).control k 0x06 j.selKey gtag (some serial)).regWrite
      k (a.armRegs (a.duidOf k)) gtag (some serial)

/-- A die unit of a job is armed here: it is served, and no other job is armed on it beyond its RETIRE (R288). -/
def Aggregator.armable (a : Aggregator) (duid : Nat) : Bool :=
  match a.regKey duid with
  | some k => a.servesKey k && a.canArm k
  | none => false

/-- ARM_JOB: a free context is bound, its ledger opened, and every die unit sent ARM. One that cannot be armed has failed at
once. -/
def Aggregator.armJob (a : Aggregator) (serial gtag job gen : Nat) (l : List Byte) : CmdRes × Aggregator :=
  match a.armRefusal job gen l, a.freeCtx with
  | none, some c =>
    let (n, a1) := a.draw
    let j := a1.armContext job gen l (beBytes 16 (Config.selKey n).toNat)
    let served := j.dieUnits.filter a1.armable
    let failed := j.dieUnits.filter fun d => !a1.armable d
    let a2 := ({ a1 with jobs := tabPut a1.jobs c { j with failed := failed } }).openLedger job gen a1.id
    let a3 := (a2.modLedger job gen a2.id fun l => { l with mapVer := 1 }).appendRec job gen lkFpMap 0 0 noDuid (mapBody 1 j.fpMap)
      (home := a2.id)
    let a4 := served.foldl (fun (a : Aggregator) d =>
      match a.regKey d with
      | some k => a.armDie j k gtag serial
      | none => a) a3
    let a5 := a4.mirrorJob c
    if served = [] then (.done (a5.diesStatus failed) failed.length [], a5.armComplete c)
    else (.wait (.arm c served.length failed.length), a5)
  | some st, _ => (.fail st, a)
  | none, none => (.fail csNoContext, a)

/-- An ARM control frame of a context failed: the context goes on without the die unit (R437). -/
def Aggregator.armFailed (a : Aggregator) (ctx duid : Nat) : Aggregator :=
  a.modJob ctx fun j => if j.failed.contains duid then j else { j with failed := j.failed ++ [duid] }

/-! ### Retire Job (R288) -/

/-- Step 1 is over: the drain begins. -/
def Aggregator.beginDrain (a : Aggregator) (ctx : Nat) : Aggregator :=
  a.modJob ctx fun j => { j with drainAt := some a.mono }

/-- RETIRE_JOB: RETIRE goes to every die unit of the job that is served here. -/
def Aggregator.retireJob (a : Aggregator) (serial gtag job gen : Nat) : CmdRes × Aggregator :=
  match a.ownJob job gen with
  | none => (.fail csNotArmed, a)
  | some (c, j) =>
    if j.state = .quarantine ∨ j.state = .arming then (.fail csNotArmed, a)
    else
      let dies := j.dieUnits.filter a.serves
      let a1 := (a.modJob c fun j => { j with state := .retiring, drainAt := none }).mirrorJob c
      let a2 := dies.foldl (fun (a : Aggregator) d =>
        match a.regKey d with
        | some k => a.control k 0x02 [] gtag (some serial)
        | none => a) a1
      if dies = [] then (.wait (.drain c), a2.beginDrain c) else (.wait (.retire c dies.length), a2)

/-- An open epoch is closed at once, with what is in (step 3). -/
def Aggregator.forceClose (a : Aggregator) (ctx tp : Nat) : Aggregator :=
  match a.job ctx with
  | none => a
  | some j =>
    let a1 := a.modEpoch ctx tp fun e =>
      { e with armed := true, due := true, expected := if e.armed then e.expected else j.expectedAt tp, running := [] }
    match (a1.job ctx).bind fun j => j.epoch tp with
    | some e => (if e.trayClosed.isSome then a1 else a1.closeTray ctx tp).settleEpoch ctx tp
    | none => a1

abbrev quarantineNs : Nat := 6000000000

/-- RETIRE_DRAIN_EXPIRY, for the context of a Retire Job that waits for it: steps 3 to 5. True where the command ends. -/
def Aggregator.retireDrain (a : Aggregator) (ctx : Nat) : Bool × Aggregator :=
  match a.job ctx with
  | none => (false, a)
  | some j =>
    match j.drainAt with
    | none => (false, a)
    | some t =>
      if j.state ≠ .retiring ∨ a.mono < t + max 1 (a.get ING_CTRL_RETIRE_DRAIN) * 1000000 then (false, a)
      else
        let a1 := j.epochs.foldl (fun (a : Aggregator) e => a.forceClose ctx e.tp) a
        (true, (a1.modJob ctx fun j =>
          { j with state := .quarantine, treeHeld := false, peals := [], drainAt := none,
                   quarEnd := a.mono + quarantineNs }).mirrorJob ctx)

/-- The frame counts to other aggregators of a job that no context holds any more leave (R281). -/
def Aggregator.dropFseq (a : Aggregator) (job gen : Nat) : Aggregator :=
  if (a.findJob job gen).isSome then a
  else a.modIng fun i => { i with fseqOut := i.fseqOut.filter fun e => decide (e.1 / 4096 ≠ job * 256 + gen) }

/-- A ledger that no job context holds any more leaves once its last record is in storage (R363). -/
def Aggregator.dropLedger (a : Aggregator) (job gen home : Nat) : Aggregator :=
  if (a.jobAt job gen home).isSome then a
  else (a.modLed fun u =>
    { u with ledgers := u.ledgers.filter fun l => !(decide (l.job = job ∧ l.gen = gen ∧ l.home = home) && l.recs.isEmpty) }).showOcc

/-- QUARANTINE_END: staged tiles that have not begun are RETIRED, open steps are sealed and go to storage, the context is FREE
(R287, R317, R363, R369). -/
def Aggregator.quarantineEnd (a : Aggregator) (ctx : Nat) : Aggregator :=
  match a.job ctx with
  | none => a
  | some j =>
    if j.state ≠ .quarantine ∨ a.mono < j.quarEnd then a
    else
      let home := a.homeOfCtx ctx
      let a1 := (a.retireTiles j.job j.gen home).sealAll ctx
      let steps : List Nat := match a1.ledger j.job j.gen home with | some l => l.steps.map (·.1) | none => []
      let a2 := steps.foldl (fun (a : Aggregator) s => a.spillNow j.job j.gen home s) a1
      let a3 := { a2 with jobs := tabDel a2.jobs ctx }
      (((a3.modDet fun d => { d with instances := d.instances.filter fun e => e.2.ctx ≠ ctx }).mirrorJob ctx).dropLedger j.job
        j.gen home).dropFseq j.job j.gen

/-- Frees that waited for a query are made (R385). -/
def Aggregator.settleFrees (a : Aggregator) : Aggregator :=
  a.led.ledgers.foldl (fun (a : Aggregator) l =>
    (l.steps.filter fun e => e.2.freeing.isSome).foldl (fun (a : Aggregator) e =>
      (a.freeStep l.job l.gen l.home e.1).dropLedger l.job l.gen l.home) a) a

/-- SPILL_WRITE_DONE with the end of a ledger of the past. -/
def Aggregator.spillWriteDone (a : Aggregator) (job gen home step : Nat) : Aggregator :=
  (a.spillDone job gen home step).dropLedger job gen home

end Sys2Proof.Machine
end

