-- ==== Sys2Proof/Machine/DetLoad.lean ====
section
/-!
DEFINITION. Loading and freeing detector images, binding and unbinding instances (R325, R344 to R347, R361).
-/
namespace Sys2Proof.Machine

/-! ### Image checks (Tables 12-9, 12-10, 12-14) -/

abbrev ilLoaded : Nat := 0
abbrev ilBadMagic : Nat := 1
abbrev ilWrongPart : Nat := 2
abbrev ilBadLayout : Nat := 3
abbrev ilUnknownKey : Nat := 4
abbrev ilBadSig : Nat := 5
abbrev ilBadCode : Nat := 6
abbrev ilOverLimit : Nat := 7
abbrev ilNoSlot : Nat := 8
abbrev ilDuplicate : Nat := 9

def DetImage.sigOff (i : DetImage) : Nat := i.field 120 8
def DetImage.declaredCores (i : DetImage) : Nat := i.field 24 1
def DetImage.barriers (i : DetImage) : Nat := i.field 25 1
def DetImage.sems (i : DetImage) : Nat := i.field 26 2
def DetImage.hbmBytes (i : DetImage) : Nat := i.field 32 8

/-- Sections that the header names, with length 0 left out. -/
def DetImage.sections (i : DetImage) : List (Nat × Nat) :=
  [(i.field 60 4, i.field 64 4), (i.field 68 4, i.field 72 4), (i.field 76 4, i.field 80 4), (i.field 88 8, i.field 96 8)].filter
    fun s => decide (s.2 ≠ 0)

/-- No two sections share a byte. -/
def sectionsApart : List (Nat × Nat) → Bool
  | [] => true
  | s :: l => l.all (fun t => decide (s.1 + s.2 ≤ t.1 ∨ t.1 + t.2 ≤ s.1)) && sectionsApart l

/-- Sections lie in range, aligned and apart; reserved fields are zero. -/
def DetImage.layoutOk (i : DetImage) : Bool :=
  i.sections.all (fun s => decide (256 ≤ s.1 ∧ s.1 + s.2 ≤ i.sigOff ∧ s.1 % 64 = 0)) && sectionsApart i.sections
    && decide (i.field 64 4 % 8 = 0) && decide (i.field 19 1 < 2) && decide (i.field 54 2 = 0) && decide (i.field 84 4 = 0)
    && decide (i.field 113 7 = 0) && decide (i.field 160 96 = 0) && decide (i.kind = kindTray ∨ i.kind = kindEpoch)
    && decide (i.role ≤ 1) && decide (i.sigOff + 64 = i.bytes.length)

/-- Every declaration is within Table 12-14. -/
def DetImage.withinLimits (i : DetImage) : Bool :=
  decide (i.bytes.length ≤ 2 ^ 33) && decide (i.field 64 4 ≤ 2 ^ 20) && decide (1 ≤ i.declaredCores ∧ i.declaredCores ≤ 64)
    && decide (i.barriers ≤ 8 ∧ i.sems ≤ 64) && decide (i.sramKib ≤ 3840)
    && decide (i.hbmBytes ≤ 2 ^ 30 ∧ i.hbmBytes % 4096 = 0) && decide (i.dstateBytes ≤ 4096 ∧ i.dstateBytes % 8 = 0)
    && decide (i.istateBytes ≤ 64 * 2 ^ 20 ∧ i.istateBytes % 8 = 0)
    && decide (i.budget ≤ if i.kind = kindTray then 16000 else 160000000) && decide (i.field 104 8 ≤ 2 ^ 31)

/-- The digest and the signature (R344, R345). -/
def DetImage.signed (i : DetImage) (key : List Byte) : Bool :=
  decide (leNat ((sha256 (slice i.bytes 16 (i.sigOff - 16))).take 8) = i.id)
    && ed25519Verify key (i.bytes.take i.sigOff) (slice i.bytes i.sigOff 64)

/-- The image at an HBM address: as many bytes as its header says, where they lie in the detector-image region. -/
def Aggregator.imageAt (a : Aggregator) (addr : Nat) : Option DetImage :=
  let inRegion (len : Nat) : Bool := match a.regionOf rgnImage with
    | some r => decide (a.get (HBM_RGN_BASE_BASE r) ≤ addr ∧ addr + len ≤ a.get (HBM_RGN_LIM_LIMIT r) + 1)
    | none => false
  if ¬ inRegion 256 then none
  else
    let n := leNat (memBytes a.mem (addr + 120) 8) + 64
    if inRegion n ∧ ¬ a.poisoned addr n then some ⟨addr, memBytes a.mem addr n⟩ else none

/-- The first failing check of an image, and the slot that it occupies or duplicates. -/
def Aggregator.imageStatus (a : Aggregator) (i : DetImage) : Nat × Nat :=
  if i.field 0 4 ≠ 0x50444649 ∨ i.field 4 2 ≠ 1 then (ilBadMagic, 0)
  else if i.field 6 2 ≠ 0x0040 then (ilWrongPart, 0)
  else if ¬ i.layoutOk then (ilBadLayout, 0)
  else match tabGet a.cfg.detKeys i.keyIdx with
    | none => (ilUnknownKey, 0)
    | some key =>
      if 8 ≤ i.keyIdx then (ilUnknownKey, 0)
      else if ¬ i.signed key then (ilBadSig, 0)
      else if ¬ codeOk i.code ∨ i.code.length / 8 ≤ i.entry then (ilBadCode, 0)
      else if ¬ i.withinLimits then (ilOverLimit, 0)
      else match a.det.images.find? fun e => e.2.id = i.id with
        | some (s, _) => (ilDuplicate, s)
        | none => match firstBelow 64 fun s => (a.image s).isNone with
          | some s => (ilLoaded, s)
          | none => (ilNoSlot, 0)

/-- Images are mirrored into the partner's detector-image region, in segments (R331, Table 13-7). -/
def Aggregator.mirrorImage (a : Aggregator) (i : DetImage) : Aggregator :=
  (List.range ((i.bytes.length + 8959) / 8960)).foldl (fun (a : Aggregator) k =>
    a.mirrorSend mkImage (beBytes 8 i.id ++ beBytes 8 (8960 * k) ++ slice i.bytes (8960 * k) 8960)) a

/-- DET_IMAGE_LOAD. RESULT: load status in [15:0] and slot in [23:16]. -/
def Aggregator.detImageLoad (a : Aggregator) (addr : Nat) : CmdRes × Aggregator :=
  match a.imageAt addr with
  | none => (.fail csInvalidField, a)
  | some i =>
    let (st, slot) := a.imageStatus i
    let result := st + slot * 65536
    if st = ilLoaded then
      let a1 := a.modDet fun d => { d with images := tabPut d.images slot i, lastLoad := tabPut d.lastLoad slot ilLoaded }
      (.done csSuccess result [], a1.mirrorImage i)
    else (.done csRefused result [], a.raise DET_STATUS_LOAD_FAIL)

/-- DET_IMAGE_FREE: only while no instance binds it (R347). -/
def Aggregator.detImageFree (a : Aggregator) (slot : Nat) : CmdRes × Aggregator :=
  if 64 ≤ slot ∨ (a.image slot).isNone then (.fail csInvalidField, a)
  else if a.det.instances.any fun e => e.2.slot = slot then (.fail csRefused, a)
  else (.ok, a.modDet fun d => { d with images := tabDel d.images slot })

/-! ### Binding (R325, R361) -/

/-- Ranges taken on a core's SRAM, and in the epoch-state region. -/
def Aggregator.sramTaken (a : Aggregator) (cores : Nat) : List (Nat × Nat) :=
  a.det.instances.filterMap fun e =>
    match a.image e.2.slot with
    | some m => if e.2.cores &&& cores ≠ 0 then some (e.2.sram, m.sramKib * 1024) else none
    | none => none

def Aggregator.hbmTaken (a : Aggregator) : List (Nat × Nat) :=
  a.det.instances.flatMap fun e =>
    match a.image e.2.slot with
    | some m => [(e.2.hbm, m.hbmBytes), (e.2.dstate, 512 * m.dstateBytes), (e.2.istate, m.istateBytes)]
    | none => []

/-- The lowest place of a length, aligned to 4,096, that meets none of the ranges taken. -/
def firstFit (taken : List (Nat × Nat)) (lo hi len : Nat) : Option Nat :=
  let free (x : Nat) : Bool := decide (lo ≤ x ∧ x + len ≤ hi) && taken.all fun t => decide (x + len ≤ t.1 ∨ t.1 + t.2 ≤ x)
  minOf (((lo :: taken.map fun t => (t.1 + t.2 + 4095) / 4096 * 4096)).filter free)

/-- Job contexts with instances on a core. -/
def Aggregator.contextsOn (a : Aggregator) (c ctx : Nat) : Nat :=
  ((ctx :: (a.det.instances.filter fun e => bit e.2.cores c).map fun e => e.2.ctx).eraseDups).length

/-- The lowest numbers of a table that no instance holds. -/
def freeNumbers (bound want : Nat) (taken : List Nat) : Option (List Nat) :=
  let l := ((List.range bound).filter fun n => !taken.contains n).take want
  if l.length = want then some l else none

/-- Barriers and semaphores that are not idle: they have no new owner (R237). -/
def Aggregator.busyBars (a : Aggregator) : List Nat := (List.range 256).filter fun b => !a.barIdle b
def Aggregator.busySems (a : Aggregator) : List Nat := (a.sync.semQ.filter fun e => decide (e.2 ≠ [])).map (·.1)

/-- The instance that a binding makes; none where a limit refuses it. -/
def Aggregator.bindPlan (a : Aggregator) (ctx slot bind cores : Nat) (m : DetImage) : Option (Nat × Instance) :=
  let mine := a.det.instances.filter fun e => e.2.ctx = ctx
  let trays := mine.filter fun e => match a.image e.2.slot with | some x => decide (x.kind = kindTray) | none => false
  let set := (List.range 64).filter fun c => bit cores c
  let sramTop : Nat := 3840 * 1024
  let (lo, hi) : Nat × Nat := match a.regionOf rgnEpoch with
    | some i => (a.get (HBM_RGN_BASE_BASE i) + 0x10000000, a.get (HBM_RGN_LIM_LIMIT i) + 1)
    | none => (0, 0)
  if 3 < bind ∨ mine.any (fun e => e.2.bind = bind) ∨ 4 ≤ mine.length ∨ (m.kind = kindTray ∧ trays ≠ [])
      ∨ set.length ≠ m.declaredCores ∨ set.any (fun c => 8 < a.contextsOn c ctx) then none
  else
    let hbm := firstFit a.hbmTaken lo hi m.hbmBytes
    let t1 := a.hbmTaken ++ [(hbm.getD 0, m.hbmBytes)]
    let ds := firstFit t1 lo hi (512 * m.dstateBytes)
    let t2 := t1 ++ [(ds.getD 0, 512 * m.dstateBytes)]
    match firstBelow 256 fun n => (a.inst n).isNone, firstFit (a.sramTaken cores) 0 sramTop (m.sramKib * 1024), hbm, ds,
        firstFit t2 lo hi m.istateBytes,
        freeNumbers 256 m.barriers (a.busyBars ++ a.det.instances.flatMap fun e => e.2.barriers),
        freeNumbers 1024 m.sems (a.busySems ++ a.det.instances.flatMap fun e => e.2.sems) with
    | some n, some sram, some hbm, some ds, some is_, some bars, some sems =>
      some (n, { ctx := ctx, bind := bind, slot := slot, cores := cores, suspended := false, stopping := false, succFaults := 0,
                 faultCode := 0, runs := 0, params := [⟨0, m.params⟩], sram := sram, hbm := hbm, dstate := ds, istate := is_,
                 barriers := bars, sems := sems, scalars := [], reports := [], lib := [] })
    | _, _, _, _, _, _, _ => none

/-- The state of an instance is empty, its code and data stand in its SRAM, its objects belong to its job (R237, R331). -/
def Aggregator.installInst (a : Aggregator) (n : Nat) (i : Instance) (m : DetImage) : Aggregator :=
  let dataAt := 128 + (m.code.length + 63) / 64 * 64
  let set := (List.range 64).filter fun c => bit i.cores c
  let mem1 := set.foldl (fun s c =>
    let b := sramOf c + i.sram
    memPut (memPut (memClear s b (m.sramKib * 1024)) (b + 128) m.code) (b + dataAt) m.data) a.mem
  let mem2 := memClear (memClear (memClear mem1 i.hbm m.hbmBytes) i.dstate (512 * m.dstateBytes)) i.istate m.istateBytes
  let a1 := (({ a with mem := mem2 } : Aggregator).hbmTouch i.hbm m.hbmBytes).hbmTouch i.dstate (512 * m.dstateBytes)
  let a2 := i.barriers.foldl (fun (a : Aggregator) b =>
    ((a.set (BAR_CFG_OWNER b) (i.ctx % 1024)).set (BAR_CFG_SYS b) 0).set (BAR_MASK_MASK b) i.cores) a1
  let a3 := i.sems.foldl (fun (a : Aggregator) s => (a.set (SEM_CFG_OWNER s) (i.ctx % 1024)).set (SEM_CFG_SYS s) 0) a2
  a3.modDet fun d => { d with instances := tabPut d.instances n i }

/-- DET_BIND, for the job context of (JOB_ID, GEN). -/
def Aggregator.detBind (a : Aggregator) (job gen slot bind cores : Nat) : CmdRes × Aggregator :=
  match a.ownJob job gen with
  | none => (.fail csNotArmed, a)
  | some (ctx, j) =>
    if j.state = .quarantine then (.fail csNotArmed, a)
    else match a.image slot with
      | none => (.fail csInvalidField, a)
      | some m =>
        if cores = 0 ∨ 3 < bind then (.fail csInvalidField, a)
        else if (List.range 64).any fun c => bit cores c && !a.corePresent c then (.fail csAbsentCore, a)
        else
          -- binding again ends the suspension of an instance (R329)
          let old := a.det.instances.find? fun e => decide (e.2.ctx = ctx ∧ e.2.bind = bind) && e.2.suspended
          let a0 := match old with | some (n, _) => a.removeInst n | none => a
          match a0.bindPlan ctx slot bind cores m with
          | some (n, i) => (.ok, (a0.installInst n i m).mirrorJob ctx)
          | none => (.fail csRefused, a.raise DET_STATUS_BIND_REFUSED)

/-- DET_UNBIND: the instance stops at its next run boundary. -/
def Aggregator.detUnbind (a : Aggregator) (job gen bind : Nat) : CmdRes × Aggregator :=
  match a.ownJob job gen with
  | none => (.fail csNotArmed, a)
  | some (ctx, _) =>
    match a.det.instances.find? fun e => decide (e.2.ctx = ctx ∧ e.2.bind = bind) with
    | none => (.fail csInvalidField, a)
    | some (n, _) =>
      let a1 := a.modInst n fun i => { i with stopping := true }
      (.ok, (if a1.runningOf n then a1 else a1.removeInst n).mirrorJob ctx)

end Sys2Proof.Machine
end

