-- ==== Sys2Proof/Machine/AggCores.lean ====
section
/-!
DEFINITION. Fatal faults of the aggregator and the announcement of a chip reset; memory errors and bridges; failed wakes;
cores that drain, are mapped out or are scanned; calibrations and the thermal control (R232, R235, R244, R254, R255, R410 to
R417, R504 to R506).
-/
namespace Sys2Proof.Machine

/-! ### Chip reset: the announcement (R410 steps 1 and 2) -/

abbrev reasonMemUe : Nat := 0x01
abbrev reasonCommanded : Nat := 0x02
abbrev reasonOther : Nat := 0x03

/-- LAST_CAUSE of a reset by supply warning (Table 17-14). -/
abbrev causeSupply : Nat := 0x0001

def Aggregator.chipResetPayload (a : Aggregator) (reason : Nat) : List Byte :=
  beBytes 2 a.id ++ beBytes 1 reason ++ zeros 1 ++ beBytes 2 a.partner ++ zeros 2 ++ a.mark

/-- A frame joins the queue of a tocsin segment. -/
def Aggregator.tocSend (a : Aggregator) (seg dst type : Nat) (payload : List Byte) : Aggregator :=
  a.withToc seg ((a.tocView seg).send ⟨dst, type, payload, 0, none⟩)

/-- CHIP-RESET is queued twice on every tocsin segment, and the reset is pending. -/
def Aggregator.announceReset (a : Aggregator) (code reason : Nat) : Aggregator :=
  if a.hlt.resetPending.isSome then a
  else
    let p := a.chipResetPayload reason
    let a1 := (List.range 16).foldl (fun (a : Aggregator) k =>
      (a.tocSend k tocBroadcast tocChipReset p).tocSend k tocBroadcast tocChipReset p) a
    a1.modHlt fun h => { h with resetPending := some (code, reason, a.mono) }

/-- A fatal cause: it is recorded, charged to the chip where Table 14-1 charges it, and the reset is announced. -/
def Aggregator.fatal (a : Aggregator) (code points reason : Nat) : Aggregator :=
  if a.hlt.resetPending.isSome then a
  else
    let a1 := if a.on HLT_CTRL_EN ∧ 0 < points then a.charge chipUnit code points a.here
      else a.recordLimited rcHealth code (leBytes 2 code ++ leBytes 4 (a.subject chipUnit))
    a1.announceReset code reason

/-- MEMORY_UNCORRECTABLE, BRIDGE_FATAL and AGG_WATCHDOG. -/
def Aggregator.memoryError (a : Aggregator) : Aggregator := a.fatal hcMemUe 250 reasonMemUe

/-- The word at an address gives poisoned data until the reset (R235). -/
def Aggregator.memoryUe (a : Aggregator) (addr : Nat) : Aggregator :=
  if addr < sramEnd ∨ (hbmBase ≤ addr ∧ addr < hbmEnd) then
    (a.modPwr fun p => { p with poison := p.poison ++ [eccWord addr] }).memoryError
  else a
def Aggregator.bridgeFatal (a : Aggregator) : Aggregator := a.fatal hcBridgeFatal 250 reasonOther
def Aggregator.watchdog (a : Aggregator) : Aggregator := a.fatal hcAggWatchdog 250 reasonOther

/-- CHIP_RESET: one of the fatal causes, by its health code. -/
def Aggregator.chipResetCause (a : Aggregator) (code : Nat) : Aggregator :=
  if code = hcMemUe then a.memoryError
  else if code = hcBridgeFatal then a.bridgeFatal
  else if code = hcAggWatchdog then a.watchdog
  else if code = hcCoreWakeFail then a.fatal hcCoreWakeFail 0 reasonOther
  else a

/-! ### Corrected errors and replays (R232, R235, Table 9-14) -/

/-- MEMORY_CORRECTED in the SRAM of a core or in an HBM stack. -/
def Aggregator.memoryCorrected (a : Aggregator) (hbm : Bool) (n : Nat) : Aggregator :=
  if hbm then
    if n < 8 then (a.inc (HBM_CE_N_STACK n)).charge chipUnit hcHbmCorrected 1 a.here else a
  else if n < 64 then
    (a.modPwr fun p => { p with sramCe := storeSet 0 p.sramCe n (storeGet 0 p.sramCe n + 1) }).charge (coreUnit n) hcSramCorrected
      1 a.here
  else a

/-- BRIDGE_REPLAY on B01 (0), BI0 (1) or BI1 (2). -/
def Aggregator.bridgeReplay (a : Aggregator) (bridge : Nat) : Aggregator :=
  match bridge with
  | 0 => a.inc BRG_REPLAY_N_B01
  | 1 => a.inc BRG_REPLAY_N_BI0
  | 2 => a.inc BRG_REPLAY_N_BI1
  | _ => a

/-- HBM_PATROL_SCRUB of a stack, once in 24 hours (R244). -/
def Aggregator.patrolScrub (a : Aggregator) (stack : Nat) : Aggregator :=
  if stack < 8 ∧ a.scrubDue stack then
    (a.modPwr fun p => { p with scrub := tabPut p.scrub stack a.mono, lastHbm := tabPut p.lastHbm (hbmGroup stack) a.mono }).wakeDomain
      (hbmGroup stack)
  else a

/-! ### Map-out and what follows a drain (R412 to R414) -/

/-- A unit's state follows its score again. -/
def Aggregator.rescore (a : Aggregator) (u cause : Nat) : Aggregator :=
  a.setState u (a.scoreState huHealthy (a.unitScore u)) cause

/-- A core leaves the mask of a barrier (R413). -/
def Aggregator.leaveBarrier (a : Aggregator) (b c : Nat) : Aggregator :=
  let mask := a.get (BAR_MASK_MASK b)
  if ¬ bit mask c then a
  else
    let rest := setBits mask c c 0
    let a1 := a.set (BAR_MASK_MASK b) rest
    let arr := a1.get (BAR_ARR_ARRIVED b)
    if rest = 0 then a1.set (BAR_STAT_BROKEN b) 1
    else if arr &&& rest = rest ∧ ¬ a1.on (BAR_STAT_BROKEN b) ∧ (tabGet a1.sync.barRelease b).isNone then
      a1.modSync fun s => { s with barRelease := tabPut s.barRelease b (a1.cycle 0 + releaseCycles) }
    else a1

/-- Queued semaphore waits of a core end with SYNC-RESET, and the new heads are tested (R413). -/
def Aggregator.leaveSemaphores (a : Aggregator) (c : Nat) : Aggregator :=
  a.sync.semQ.foldl (fun (a : Aggregator) e =>
    let mine := e.2.filter fun w => decide (w.engine / 4 = c)
    if mine.isEmpty then a
    else (((a.semApart e.1).setSemQ e.1 (e.2.filter fun w => decide (w.engine / 4 ≠ c))).resumeAll (mine.map (·.engine)) syncReset).semServe e.1
      (a.cycle 0)) a

def Aggregator.coresPresent (a : Aggregator) : Nat := popcount 64 (a.get CHIP_CORE_PRESENT_PRESENT)
def Aggregator.xdesInMask (a : Aggregator) : Nat := popcount 64 (a.get AUD_XDE_MASK)

/-- The effects of mapping a core out (R413, R414). -/
def Aggregator.mappedOut (a : Aggregator) (c : Nat) : Aggregator :=
  let u := coreUnit c
  let cause := a.get (HU_STAT_LAST_CAUSE u)
  let a1 := if a.inMask c then a.setMask (setBits (a.get AUD_XDE_MASK) c c 0) else a
  let a2 := (List.range 256).foldl (fun (a : Aggregator) b => a.leaveBarrier b c) a1
  let a3 := (a2.leaveSemaphores c).raise HLT_STATUS_CORE_MAPPED_OUT
  let a4 := ((a3.setState u huMapped cause).unitNotice 0x08 u cause 1).unitNotice 0x09 chipUnit cause a3.coresPresent
  if a4.coresPresent < a4.get HLT_MISC_MIN_CORES ∨ a4.xdesInMask < 3 then a4.knell chipUnit cause true else a4

/-- An instance whose cores are all drained or mapped out is SUSPENDED (R329, R413). -/
def Aggregator.suspendBare (a : Aggregator) : Aggregator :=
  a.det.instances.foldl (fun (a : Aggregator) e =>
    if e.2.suspended ∨ ¬ (a.liveCores e.2.cores).isEmpty then a
    else ((a.modInst e.1 fun i => { i with suspended := true }).raise DET_STATUS_SUSPENDED).dropRuns e.1) a

/-- A core is to be mapped out: at once, or the decision is asked for (R412). -/
def Aggregator.wantMapOut (a : Aggregator) (c : Nat) : Aggregator :=
  if a.on HLT_CTRL_AUTO_MAPOUT then
    let a1 := (a.set (PD_CTRL_MAP_OUT c) 1).mapOut c
    if a1.adState c = adMapped then a1.mappedOut c else a1
  else a.unitNotice 0x08 (coreUnit c) (a.get (HU_STAT_LAST_CAUSE (coreUnit c))) 0

/-- A core has reached DRAINED: what its drain was for follows (R412). -/
def Aggregator.afterDrained (a : Aggregator) (c : Nat) : Aggregator :=
  let u := coreUnit c
  let a1 := a.suspendBare.modHlt fun h => { h with afterDrain := tabDel h.afterDrain c }
  if a1.adState c = adMapped then a1.mappedOut c
  else if tabGet a.hlt.afterDrain c = some afterMapOut then a1.wantMapOut c
  else if a1.hlt.scans.any (fun s => s.core = c) ∨ a1.unitState u ≠ huDraining then a1
  else a1.rescore u (a1.get (HU_STAT_LAST_CAUSE u))

/-- CORE_DRAINED. -/
def Aggregator.drainDone (a : Aggregator) (c : Nat) : Aggregator :=
  let a1 := a.coreDrained c
  if a1.adState c = a.adState c then a else a1.afterDrained c

/-- A privileged write of PD_CTRL, the merged word: a drain that software asked for stays until software clears it (R255,
R416); the map-out effects follow. -/
def Aggregator.writePd (a : Aggregator) (k m : Nat) : Aggregator :=
  let a1 := (a.writePdCtrl k m).modPwr fun p =>
    { p with manual := if 64 ≤ k then p.manual
                       else if bit m 3 then (if p.manual.contains k then p.manual else p.manual ++ [k])
                       else p.manual.filter (· ≠ k) }
  if k < 64 ∧ a.adState k ≠ adMapped ∧ a1.adState k = adMapped then a1.mappedOut k
  else if k < 64 ∧ a.adState k = adMapped ∧ a1.adState k ≠ adMapped then
    a1.rescore (coreUnit k) (a1.get (HU_STAT_LAST_CAUSE (coreUnit k)))
  else a1

/-! ### Failed wakes (R254) -/

/-- AGG_WAKE_FAIL: a domain that is not ON within four wake times returns to its low state. -/
def Aggregator.wakeFail (a : Aggregator) (k : Nat) : Aggregator :=
  match tabGet a.pwr.wakeAt k with
  | none => a
  | some t =>
    let off := a.pwr.fromOff.contains k
    if a.adState k ≠ adWaking ∨ a.mono < t + 4 * domWake k off then a
    else
      let a1 := (a.setAd k (if off then adOff else adRetain)).modPwr fun p =>
        { p with wakeAt := tabDel p.wakeAt k, fromOff := p.fromOff.filter (· ≠ k) }
      let a2 := (a1.raise (PD_STAT_WAKE_FAIL k)).record rcWakeFail (leBytes 1 k)
      match domKind k with
      | .core =>
        let (n, a3) := a2.coreWakeFault k
        if n < 2 then a3
        else
          -- it has no work that could run: it counts as drained
          (((a3.set (PD_CTRL_DRAIN k) 1).setAd k adDrained).modHlt fun h =>
            { h with afterDrain := tabPut h.afterDrain k afterMapOut }).afterDrained k
      | .hbm => a2.fatal hcCoreWakeFail 0 reasonOther
      | .fabric => a2.fatal hcCoreWakeFail 0 reasonOther
      | _ => a2.report "WAKE-FAIL" [k]

/-! ### Scans (R415, R416) -/

/-- Set Feature SCAN of a present core: it is drained, and its scan waits for its turn. -/
def Aggregator.requestScan (a : Aggregator) (c : Nat) : Aggregator :=
  let a1 := (a.modPwr fun p => { p with manual := if p.manual.contains c then p.manual else p.manual ++ [c] }).modHlt fun h =>
    { h with scans := if h.scans.any (fun s => s.core = c) then h.scans.map fun s => if s.core = c then { s with commanded := true } else s
                      else h.scans ++ [⟨c, 1, true, false⟩] }
  if a1.adState c = adDrained then a1 else a1.drainCore c afterScan 0

def Aggregator.modScan (a : Aggregator) (c : Nat) (f : Scan → Scan) : Aggregator :=
  a.modHlt fun h => { h with scans := h.scans.map fun s => if s.core = c then f s else s }

/-- SCAN_START: the first request whose core is DRAINED starts, while fewer than SCAN_PAR run and its 30 W fit the cap. -/
def Aggregator.scanStart (a : Aggregator) : Aggregator :=
  let running := (a.hlt.scans.filter (·.running)).length
  match a.hlt.scans.find? fun s => !s.running && decide (a.adState s.core = adDrained) with
  | none => a
  | some s =>
    if max 1 (a.get HLT_CTRL_SCAN_PAR) ≤ running ∨ a.get PWR_CAP_CAP_W < a.powerSum + 30 then a
    else
      let u := coreUnit s.core
      (((a.modScan s.core fun s => { s with running := true }).showPower).inc HLT_CNT1_SCANS_N).setState u huScan
        (a.get (HU_STAT_LAST_CAUSE u))

/-- The scan of a core destroys its state; its SRAM is zeroed. -/
def Aggregator.wipeCore (a : Aggregator) (c : Nat) : Aggregator :=
  ({ a with mem := memClear a.mem (sramOf c) 0x400000 }).modDet fun d =>
    { d with cores := tabMod d.cores c fun k => { Core.init with waiting := k.waiting } }

/-- SCAN_COMPLETE of a core, with its failing chains; none is PASS. -/
def Aggregator.scanComplete (a : Aggregator) (c fails : Nat) : Aggregator :=
  match a.hlt.scans.find? fun s => decide (s.core = c) && s.running with
  | none => a
  | some s =>
    let u := coreUnit c
    let drop (a : Aggregator) : Aggregator :=
      (a.modHlt fun h => { h with scans := h.scans.filter fun x => decide (x.core ≠ c) }).showPower
    let a1 := (a.wipeCore c).unitNotice 0x0C u (if fails = 0 then 0 else hcScanFail) fails
    if fails = 0 then
      let a2 := drop a1
      if s.commanded ∨ a2.pwr.manual.contains c then a2.rescore u (a2.get (HU_STAT_LAST_CAUSE u))
      else
        (a2.writePdCtrl c (setBits (a2.get ⟨addr_PD_CTRL c, 63, 0⟩) 3 3 0)).rescore u (a2.get (HU_STAT_LAST_CAUSE u))
    else
      let a2 := (a1.charge u hcScanFail 250 a1.here).raise HLT_STATUS_SCAN_FAIL
      if s.attempt < 2 then (a2.modScan c fun s => { s with attempt := 2, running := false }).showPower
      else (drop a2).wantMapOut c

/-! ### Calibrations (R417, Table 14-7) -/

/-- A calibration that does not converge charges the chip one point. -/
def Aggregator.calCharge (a : Aggregator) (ok : Bool) (code : Nat) : Aggregator :=
  if ok then a else a.charge chipUnit code 1 a.here

def Aggregator.calFanout (a : Aggregator) (ok : Bool) : Aggregator :=
  if a.mono < a.pwr.calFanout + 100000000 then a
  else (a.modPwr fun p => { p with calFanout := a.mono }).calCharge ok hcSramCorrected
def Aggregator.calBridge (a : Aggregator) (ok : Bool) : Aggregator :=
  if a.mono < a.pwr.calBridge + 10000000 then a
  else (a.modPwr fun p => { p with calBridge := a.mono }).calCharge ok hcSramCorrected
def Aggregator.calSensor (a : Aggregator) (ok : Bool) : Aggregator :=
  if a.mono < a.pwr.calSensor + 1000000000 then a
  else (a.modPwr fun p => { p with calSensor := a.mono }).calCharge ok hcSramCorrected
def Aggregator.calHbm (a : Aggregator) (ok : Bool) : Aggregator :=
  (a.modPwr fun p => { p with calHbm := a.mono }).calCharge ok hcHbmCorrected

/-! ### Load shedding and the thermal control (R488, R504 to R506) -/

/-- Every domain except AO, MGMT, TIME and RECORDER enters its low state; none wakes until the reset. -/
def Aggregator.shedLoad (a : Aggregator) : Aggregator :=
  let a1 := (List.range 80).foldl (fun (a : Aggregator) k =>
    let st := a.adState k
    if k = 72 ∨ k = 76 ∨ k = 77 ∨ k = 79 ∨ st = adMapped ∨ st = adOff ∨ st = adRetain then a
    else
      let keep := decide (domKind k = .hbm ∨ domKind k = .fabric) || (decide (k < 64) && !a.on (PD_CTRL_LOW_OFF k))
      a.set (PD_STAT_STATE k) (if keep then adRetain else adOff)) a
  (a1.modPwr fun p => { p with shed := true, wakeAt := [], fromOff := [], deferred := [], held := [] }).showPower

/-- The throttle of an analysis die: readings in 1/16 °C of the die and its stackTemps. -/
def duty (d : Nat) (die : Int) (stackTemps : List Int) : Nat :=
  if 1600 < die ∨ stackTemps.any (fun t => 1520 < t) then max 4 (d - 1)
  else if die < 1552 ∧ stackTemps.all (fun t => t < 1472) then min 16 (d + 1)
  else d

/-- Cores of an analysis die. -/
def Aggregator.coresOf (a : Aggregator) (die : Nat) : List Nat := (List.range 64).filter fun c => decide (b2n (a.dieOf c) = die)

/-- One sample interval of 100 µs gates the issue of each core of a die by its duty (R256). -/
def Aggregator.countGated (a : Aggregator) (die d : Nat) : Aggregator :=
  if 16 ≤ d then a
  else a.modPwr fun p =>
    { p with gated := (a.coresOf die).foldl (fun m c => storeSet 0 m c (storeGet 0 m c + 160000 * (16 - d) / 16)) p.gated }

/-- THERMAL_SAMPLE: readings of AD0, AD1, the I/O die and stackTemps 0 to 7, in 1/16 °C, and of the core supply in mV. -/
def Aggregator.thermalSample (a : Aggregator) (dies : Int × Int × Int) (stackTemps : List Int) (mv : Nat) : Aggregator :=
  let (t0, t1, t2) := dies
  let d0 := a.pwr.duty.getD 0 16
  let d1 := a.pwr.duty.getD 1 16
  let a1 := (a.countGated 0 d0).countGated 1 d1
  let all := [t0, t1, t2] ++ slice stackTemps 0 8
  let hot := (List.range all.length).filter fun i => decide ((if i < 3 then 1840 else 1680) ≤ all.getD i 0)
  let trip := hot.any fun i => a.pwr.hot.contains i
  let a2 := ({ a1 with temp := max t0 (max t1 t2), mv := mv }).modPwr fun p =>
    { p with duty := [duty d0 t0 (slice stackTemps 0 4), duty d1 t1 (slice stackTemps 4 4)], hot := hot,
             thermtrip := p.thermtrip || trip }
  if trip ∧ ¬ a.pwr.thermtrip ∧ ¬ a.pwr.shed then a2.shedLoad else a2

/-- LANE_TRAINING_FAILURE: the lane is down and is reported (R500). -/
def Aggregator.laneDown (a : Aggregator) (lane : Nat) : Aggregator :=
  if 32 ≤ lane ∨ a.pwr.lanesDown.contains lane then a
  else (a.modPwr fun p => { p with lanesDown := p.lanesDown ++ [lane] }).report "LANE-TRAINING-FAILED" [lane]

end Sys2Proof.Machine
end

