-- ==== Sys2Proof/Machine/LedgerQuery.lean ====
section
/-!
DEFINITION. Reading the ledger: the query kinds, the cut, records fetched from storage, and imported reference steps (R383 to
R391). Sizes of arguments that Table 13-8 leaves open are log 76.
-/
namespace Sys2Proof.Machine

/-! ### Results (Table 13-9) -/

abbrev qsSealed : Nat := 0x00
abbrev qsOpen : Nat := 0x01
abbrev qsNotFound : Nat := 0x02
abbrev qsGone : Nat := 0x03
abbrev qsFetchFailed : Nat := 0x04
abbrev qsRefAbsent : Nat := 0x05
abbrev qsBusy : Nat := 0x06

/-- What a query gives: STATUS, FLAGS, its items in order, items left out by DIFF_MAX. -/
structure QRes where
  status : Nat
  flags : Nat
  items : List (List Byte)
  omitted : Nat
  deriving DecidableEq, Repr

def QRes.none (status : Nat) : QRes := ⟨status, 0, [], 0⟩

/-- Items that fit into a number of bytes, in order. -/
def fitItems : Nat → List (List Byte) → List (List Byte)
  | _, [] => []
  | room, x :: l => if x.length ≤ room then x :: fitItems (room - x.length) l else []

/-- The data of a query for a buffer of `dlen` bytes; BUFFER-TOO-SMALL where the header and the first item do not fit. -/
def QRes.data (q : QRes) (qkind dlen cutHome cutPartner : Nat) : CmdRes :=
  let first := match q.items with | [] => 0 | x :: _ => x.length
  if dlen < 48 + first then .done csTooSmall (48 + first) []
  else
    let items := fitItems (dlen - 48) q.items
    let left := q.omitted + (q.items.length - items.length)
    let body := items.flatten
    .done csSuccess 0 (leBytes 1 qkind ++ leBytes 1 q.status ++ leBytes 2 (q.flags ||| (if 0 < left then 2 else 0))
      ++ leBytes 4 items.length ++ leBytes 8 body.length ++ leBytes 8 cutHome ++ leBytes 8 cutPartner ++ leBytes 8 left
      ++ zeros 8 ++ body)

/-! ### What a query reads (R384, R385) -/

/-- A job's records at the cut: resident ones and those fetched, below each author's count, in ascending LSEQ. -/
def atCut (cut : Store Nat) (recs got : List LRec) : List LRec :=
  sortRecs ((recs ++ got.filter fun r => !recs.any fun x => x.lseq = r.lseq).filter fun r => decide (r.seq < storeGet 0 cut r.author))

/-- Objects that a query on steps has to fetch: each part of each step that is in storage. -/
def Ledger.objects (l : Ledger) (p : Nat → Bool) : List ObjName :=
  l.steps.flatMap fun e => if p e.1 then (List.range e.2.parts).map fun k => ⟨l.home, l.job, l.gen, e.1, k⟩ else []

/-- The ledger records that an object's parcels hold. -/
def objectRecs : Nat → List Byte → List LRec
  | 0, _ => []
  | fuel + 1, l =>
    if l.length < 40 then []
    else
      let n := 40 + be l 36 4
      readLRecs 65536 (slice l 40 (n - 40)) ++ objectRecs fuel (l.drop n)

/-- Steps read: whether they are sealed and split, with incomplete fingerprints, and from storage. -/
def Ledger.readFlags (l : Ledger) (steps : List Nat) (rs : List LRec) (fetched : Bool) : Nat :=
  let st := steps.map l.stepState
  b2n (st.any (·.split)) + 4 * b2n fetched + 8 * b2n (st.any fun s => s.fpRefused || s.dropped)
    + 16 * b2n (rs.any fun r => bit r.flags 1)

/-- STATUS of the steps read, in the order found wanting: not found, open, kinds discarded, sealed. -/
def Ledger.readStatus (l : Ledger) (steps : List Nat) (wantsDropped : Bool) : Nat :=
  if steps.any fun s => (tabGet l.steps s).isNone && !l.recs.any (fun r => r.step = s) then qsNotFound
  else if steps.any fun s => !l.isSealed s then qsOpen
  else if wantsDropped ∧ steps.any fun s => (l.stepState s).dropped then qsGone
  else qsSealed

/-- Main records in ascending LSEQ, then the late ones. -/
def lateLast (rs : List LRec) : List LRec := rs.filter (fun r => !r.late) ++ rs.filter (·.late)

/-- Steps from one to another that the ledger knows. -/
def Ledger.stepsIn (l : Ledger) (lo hi : Nat) : List Nat := (l.steps.map (·.1)).filter fun s => decide (lo ≤ s ∧ s ≤ hi)

/-- Entries in ascending order of a key. -/
def sortBy (key : LRec → Nat) (rs : List LRec) : List LRec :=
  rs.foldl (fun l r => (l.takeWhile fun x => key x ≤ key r) ++ [r] ++ (l.dropWhile fun x => key x ≤ key r)) []

/-! ### Query kinds (Table 13-8); `g`: the 32 bytes of ARGS -/

/-- RECORDS: step 6, kind mask 4, DUID 4. -/
def Ledger.queryRecords (l : Ledger) (rs : List LRec) (g : List Byte) (fetched : Bool) : QRes :=
  let step := le g 0 6
  let mask := le g 6 4
  let duid := le g 10 4
  let hit := rs.filter fun r => decide (r.step = step) && bit mask r.kind && (decide (duid = noDuid) || decide (r.duid = duid))
  let drops := bit mask lkFpRun || bit mask lkLineage || bit mask lkParcel
  ⟨l.readStatus [step] drops, l.readFlags [step] hit fetched, (lateLast hit).map LRec.bytes, 0⟩

/-- SUMMARY: first step 6, count 2. -/
def Ledger.querySummary (l : Ledger) (rs : List LRec) (g : List Byte) (fetched : Bool) : QRes :=
  let lo := le g 0 6
  let steps := (List.range (le g 6 2)).map (lo + ·)
  let hit := steps.flatMap fun s =>
    lateLast (rs.filter fun r => decide (r.step = s) && (decide (r.kind = lkSummary) || decide (r.kind = lkDigest)))
  ⟨l.readStatus steps false, l.readFlags steps hit fetched, hit.map LRec.bytes, 0⟩

/-- EPOCHS: first and last T_p, ns 8 and fraction 2 each. -/
def Ledger.queryEpochs (l : Ledger) (rs : List LRec) (g : List Byte) (fetched : Bool) : QRes :=
  let t (o : Nat) : Nat := le g o 8 * nsU + le g (o + 8) 2
  let tp (r : LRec) : Nat := le r.body 8 8 * nsU + le r.body 16 2
  let hit := sortBy (fun r => 256 * tp r + le r.body 0 1) (rs.filter fun r =>
    decide (r.kind = lkEpoch) && decide (t 0 ≤ tp r ∧ tp r ≤ t 10))
  ⟨if hit = [] then qsNotFound else qsSealed, l.readFlags [] hit fetched, hit.map LRec.bytes, 0⟩

/-- VERDICTS: first step 6, last step 6, verdict mask 1 (bit v: verdict v). -/
def Ledger.queryVerdicts (l : Ledger) (rs : List LRec) (g : List Byte) (fetched : Bool) : QRes :=
  let steps := l.stepsIn (le g 0 6) (le g 6 6)
  let hit := sortBy (fun r => le r.body 60 4) (rs.filter fun r =>
    decide (r.kind = lkVerdict) && steps.contains r.step && bit (le g 12 1) (le r.body 5 1))
  ⟨l.readStatus steps false, l.readFlags steps hit fetched, hit.map LRec.bytes, 0⟩

/-- MANIFEST: step 6 (R390). -/
def Ledger.queryManifest (l : Ledger) (rs : List LRec) (g : List Byte) (fetched : Bool) : QRes :=
  let s := le g 0 6
  let here := rs.filter fun r => decide (r.step = s)
  let dies := (here.map (·.duid)).eraseDups
  let maps := l.maps.filter fun m => (noDuid :: dies).any fun d => decide (mapInForce l.maps d s = some m)
  -- MICRO_BATCH 2, SLOT 2, DEST 4
  let key (x : List Byte) : Nat := le x 14 2 * 2 ^ 48 + le x 44 2 * 2 ^ 32 + le x 40 4
  let sorted (r : LRec) : LRec :=
    let es := (List.range (le r.body 0 4)).map fun i => slice r.body (8 + 48 * i) 48
    { r with body := slice r.body 0 8 ++ (es.foldl (fun (l : List (List Byte)) x =>
        (l.takeWhile fun y => key y ≤ key x) ++ [x] ++ l.dropWhile fun y => key y ≤ key x) []).flatten }
  let lin := (here.filter fun r => r.kind = lkLineage).map sorted
  let dumps := here.filter fun r => r.kind = lkDump
  let before := rs.filter fun r => decide (r.step + 1 = s ∧ r.kind = lkDump ∧ le r.body 12 1 = 1)
  let sums := here.filter fun r => decide (r.kind = lkDigest ∨ r.kind = lkSummary)
  let out := maps ++ lin ++ dumps ++ before ++ sums
  ⟨l.readStatus [s] true, l.readFlags [s] out fetched, out.map LRec.bytes, 0⟩

/-- LAST-CLEAN (R386, R320): the last clean step, H and FIRST_TAINT, all ones where there is none. -/
def JobCtx.queryLastClean (j : JobCtx) : QRes :=
  let h := j.horizon.getD noStep
  let t := if j.tainted then j.firstTaint else noStep
  let clean := if h = noStep ∨ t = 0 then noStep else if t = noStep then h else min (t - 1) h
  ⟨qsSealed, 0, [leBytes 8 clean ++ leBytes 8 h ++ leBytes 8 t], 0⟩

/-! ### COMPARE (R387 to R389) -/

/-- An imported step: its records, the maps of its job, its aggregator. -/
def LedgerUnit.imported (u : LedgerUnit) (job gen step : Nat) : Option (List LRec × List LRec × Nat) :=
  (u.refs.find? fun r => decide (r.job = job ∧ r.gen = gen ∧ r.step = step)).bind fun r =>
    (u.refStep r.agg job gen step).map fun x => (x.1, x.2, r.agg)

/-- One side of a comparison: its records and maps, its aggregator; of the own ledger, sealed or resident, or imported. -/
def Aggregator.side (a : Aggregator) (job gen step : Nat) (got : List LRec) : Option (List LRec × List LRec × Nat) :=
  match a.ledger job gen (a.ledgerHome job gen) with
  | some l =>
    let rs := l.recs ++ got.filter fun r => !l.recs.any fun x => x.lseq = r.lseq
    if rs.any fun r => r.step = step then some (rs, l.maps, l.home) else a.led.imported job gen step
  | none => a.led.imported job gen step

/-- A's tensor IDs are translated through the pairs. -/
def translate (pairs : List (Nat × Nat)) (items : List FpItem) : List FpItem :=
  items.map fun x => match pairs.find? fun p => p.1 = x.tensor with
    | some p => { x with tensor := p.2 }
    | none => x

/-- COMPARE: A and B, each JOB_ID 4, GEN 1, step 6; mode 1; number of pairs 2, the pairs in the data. -/
def Aggregator.queryCompare (a : Aggregator) (g data : List Byte) (got : List LRec) : QRes :=
  let sa := le g 5 6
  let sb := le g 16 6
  let mode := le g 22 1
  let pairs := (List.range (le g 23 2)).map fun i => (le data (8 * i) 4, le data (8 * i + 4) 4)
  match a.side (le g 0 4) (le g 4 1) sa got, a.side (le g 11 4) (le g 15 1) sb got with
  | some (ra, ma, ga), some (rb, mb, gb) =>
    let ia := translate pairs (stepItems ma ra sa)
    let ib := stepItems mb rb sb
    let ds := if mode = 0 then diffMultiset ia ib
      else if mode = 1 then diffOrdered ia ib ga gb
      else diffLineage (stepLineage ra sa) (stepLineage rb sb)
    let max_ := a.get LDG_CTRL_DIFF_MAX
    ⟨qsSealed, 4 * b2n (!got.isEmpty), (ds.take max_).map Diff.bytes, ds.length - max_⟩
  | _, _ => QRes.none qsRefAbsent

/-! ### Read Ledger -/

abbrev qkRecords : Nat := 1
abbrev qkSummary : Nat := 2
abbrev qkEpochs : Nat := 3
abbrev qkVerdicts : Nat := 4
abbrev qkCompare : Nat := 5
abbrev qkLastClean : Nat := 6
abbrev qkManifest : Nat := 7

/-- Arguments in range. -/
def queryArgsOk (qkind : Nat) (g : List Byte) : Bool :=
  if qkind = qkSummary then decide (1 ≤ le g 6 2 ∧ le g 6 2 ≤ 4096)
  else if qkind = qkCompare then decide (le g 22 1 ≤ 2 ∧ le g 23 2 ≤ 4096)
  else true

/-- Objects in storage that a query needs. -/
def Aggregator.queryNeeds (a : Aggregator) (qkind job gen : Nat) (g : List Byte) : List ObjName :=
  let of_ (job gen : Nat) (p : Nat → Bool) : List ObjName := match a.ledger job gen (a.ledgerHome job gen) with | some l => l.objects p | none => []
  match qkind with
  | 1 => of_ job gen fun s => s = le g 0 6
  | 2 => of_ job gen fun s => decide (le g 0 6 ≤ s ∧ s < le g 0 6 + le g 6 2)
  | 3 => of_ job gen fun _ => true
  | 4 => of_ job gen fun s => decide (le g 0 6 ≤ s ∧ s ≤ le g 6 6)
  | 5 => of_ (le g 0 4) (le g 4 1) (fun s => s = le g 5 6) ++ of_ (le g 11 4) (le g 15 1) fun s => s = le g 16 6
  | 7 => of_ job gen fun s => decide (s = le g 0 6 ∨ s + 1 = le g 0 6)
  | _ => []

/-- The append counts that a result reports (Table 13-9). -/
def Aggregator.cuts (a : Aggregator) (l : Ledger) (cut : Store Nat) : Nat × Nat :=
  let other := if l.home = a.id then a.partner else a.id
  (storeGet 0 cut l.home, if a.hasPartner then storeGet 0 cut other else 0)

/-- A query is answered from the records at its cut; `got` were fetched. -/
def Aggregator.answerQuery (a : Aggregator) (qkind job gen dlen : Nat) (g data : List Byte) (got : List LRec) (cut : Store Nat)
    (failed : Bool) : CmdRes :=
  match a.ledger job gen (a.ledgerHome job gen) with
  | none => if qkind = qkCompare then (a.queryCompare g data got).data qkind dlen 0 0
            else if failed then (QRes.none qsFetchFailed).data qkind dlen 0 0
            else (QRes.none qsNotFound).data qkind dlen 0 0
  | some l =>
    let rs := atCut cut l.recs got
    let f := !got.isEmpty
    let q := if failed then QRes.none qsFetchFailed
      else match qkind with
        | 1 => l.queryRecords rs g f
        | 2 => l.querySummary rs g f
        | 3 => l.queryEpochs rs g f
        | 4 => l.queryVerdicts rs g f
        | 5 => a.queryCompare g data got
        | 7 => l.queryManifest rs g f
        | _ => match a.findJob job gen with
          | some (_, j) => j.queryLastClean
          | none => QRes.none qsNotFound
    let (h, p) := a.cuts l cut
    q.data qkind dlen h p

/-- Requests for objects go to every configured controller. -/
def Aggregator.askObjects (a : Aggregator) (ns : List ObjName) : Aggregator :=
  let reqs : List StorageReq := ns.flatMap fun n =>
    a.cfg.storage.map fun c => ⟨false, c, n.agg, n.job, n.gen, n.step, n.part, []⟩
  a.modLed fun u => { u with storage := u.storage ++ reqs }

/-- Queries in progress that wait for storage. -/
def Aggregator.fetching (a : Aggregator) : Nat :=
  (a.hif.commands.filter fun c => match c.wait with | .fetch _ _ _ _ => true | _ => false).length

/-- Read Ledger starts: the cut is taken; what is in storage is fetched (R384, R385). -/
def Aggregator.readLedger (a : Aggregator) (qkind job gen dlen : Nat) (g data : List Byte) : CmdRes × Aggregator :=
  if ¬ queryArgsOk qkind g then (.fail csInvalidField, a)
  else if 16 < a.fetching then
    (match (QRes.none qsBusy).data qkind dlen 0 0 with
     | .done st n d => .done (if st = csSuccess then csBusy else st) n d
     | w => w, a)
  else
    let cut := match a.ledger job gen (a.ledgerHome job gen) with | some l => l.counts | none => []
    let held : List LRec := match a.ledger job gen (a.ledgerHome job gen) with | some l => l.recs | none => []
    match a.queryNeeds qkind job gen g with
    | [] => (a.answerQuery qkind job gen dlen g data [] cut false, a)
    | ns => (.wait (.fetch ns held cut a.mono), a.askObjects ns)

/-- LEDGER-IMPORT starts: AGG 2, STEP 6, PART 2, reserved 6, REF_JOB 4, REF_GEN 1 (R391). -/
def Aggregator.ledgerImport (a : Aggregator) (g : List Byte) : CmdRes × Aggregator :=
  let n : ObjName := ⟨le g 0 2, le g 16 4, le g 20 1, le g 2 6, le g 8 2⟩
  if le g 10 6 ≠ 0 ∨ 4096 ≤ n.agg then (.fail csInvalidField, a)
  else (.wait (.fetch [n] [] [] a.mono), a.askObjects [n])

/-- The records of an imported object join the reference steps: at most 64, the oldest leaves; a further part of a step joins
it. -/
def Aggregator.holdRef (a : Aggregator) (n : ObjName) (rs : List LRec) : Aggregator :=
  a.modLed fun u =>
    let same (r : RefStep) : Bool := decide (r.agg = n.agg ∧ r.job = n.job ∧ r.gen = n.gen ∧ r.step = n.step)
    if u.refs.any same then
      { u with refs := u.refs.map fun r =>
          if same r then { r with recs := sortRecs (r.recs ++ rs.filter fun x => !r.recs.any fun y => y.lseq = x.lseq) } else r }
    else
      let r : RefStep := ⟨n.agg, n.job, n.gen, n.step, rs⟩
      { u with refs := (u.refs ++ [r]).drop (u.refs.length + 1 - 64) }

/-- LEDGER-REFERENCE of an own job context: LJ_REF0 8, LJ_REF1 8 (R392). -/
def Aggregator.ledgerReference (a : Aggregator) (ctx : Nat) (g : List Byte) : CmdRes × Aggregator :=
  let w0 := le g 0 8
  let w1 := le g 8 8
  if 2 ≤ bits w0 53 52 ∨ bits w0 62 54 ≠ 0 ∨ bits w1 63 48 ≠ 0 then (.fail csInvalidField, a)
  else (.ok, ((a.setWord (addr_LJ_REF0 ctx) (BitVec.ofNat 64 w0)).setWord (addr_LJ_REF1 ctx) (BitVec.ofNat 64 w1)).mirrorJob ctx)

end Sys2Proof.Machine
end

