-- ==== Sys2Proof/Machine/HostQueue.lean ====
section
/-!
DEFINITION. The host interface: rings and doorbells, capsules, accepting commands, their data buffers and completions (R427,
R429 to R436, R438, R440, Tables 15-3 to 15-7).
-/
namespace Sys2Proof.Machine

/-! ### Rings (R431, R432) -/

abbrev mgmtQid : Nat := 64

/-- A queue pair; the admin pair's ring stands in the registers. -/
def Aggregator.queuePair (a : Aggregator) (q : Nat) : Option QueuePair :=
  if q = 0 then
    let h := (tabGet a.hif.queues 0).getD ⟨0, 0, 0, true, 0, 0, 0, 0, 0, false⟩
    some { h with sqLog := a.get HI_ADMIN_ASQ_LOG, cqLog := a.get HI_ADMIN_ACQ_LOG, sqBase := a.get HI_ASQ_BASE_BASE,
                  cqBase := a.get HI_ACQ_BASE_BASE }
  else tabGet a.hif.queues q

/-- A completion queue; the admin queue's ring stands in the registers. -/
def Aggregator.cq (a : Aggregator) (c : Nat) : Option CqState :=
  if c = 0 then
    let h := (tabGet a.hif.cqs 0).getD ⟨0, 0, 0, 0, true⟩
    some { h with log := a.get HI_ADMIN_ACQ_LOG, base := a.get HI_ACQ_BASE_BASE }
  else tabGet a.hif.cqs c

def Aggregator.setQueue (a : Aggregator) (q : Nat) (x : QueuePair) : Aggregator :=
  a.modHif fun h => { h with queues := tabPut h.queues q x }
def Aggregator.setCq (a : Aggregator) (c : Nat) (x : CqState) : Aggregator := a.modHif fun h => { h with cqs := tabPut h.cqs c x }

/-- Places from one ring index to another. -/
def ringDist (size from_ to_ : Nat) : Nat := (to_ + size - from_ % size) % size

/-- A command that stops: an Arm Job leaves its context ARMED with the die units armed so far (log 134). -/
def Aggregator.stopCmd (a : Aggregator) (c : Command) : Aggregator :=
  match c.wait with
  | .arm ctx _ _ => a.armComplete ctx
  | _ => a

/-- The pair is disabled: its outstanding commands end only at a Reset (R432). -/
def Aggregator.disableQueue (a : Aggregator) (q : Nat) (x : QueuePair) : Aggregator :=
  let gone := a.hif.commands.filter fun c => c.qid = q
  let a1 := gone.foldl Aggregator.stopCmd
    ((a.setQueue q { x with disabled := true }).dropFrames fun n _ => (gone.map (·.serial)).contains n)
  (a1.modHif fun h => { h with commands := h.commands.map fun c => if c.qid = q then { c with wait := .dead } else c })

def Aggregator.doorbellError (a : Aggregator) : Aggregator := (a.inc HI_CNT_DB_ERR_N).raise HI_STATUS_DB_ERR

/-- SQ_DOORBELL: a new tail, inside the ring and not past the head. -/
def Aggregator.sqDoorbell (a : Aggregator) (q v : Nat) : Aggregator :=
  match a.queuePair q with
  | none => a
  | some x =>
    let size := 2 ^ x.sqLog
    if x.disabled then a
    else if size ≤ v ∨ size ≤ ringDist size x.sqHead x.sqTail + ringDist size x.sqTail v then
      (a.disableQueue q x).doorbellError
    else a.setQueue q { x with sqTail := v }

/-- CQ_DOORBELL: a new head, inside the ring and not past the tail; a bad value disables every pair of the CQ. -/
def Aggregator.cqDoorbell (a : Aggregator) (c v : Nat) : Aggregator :=
  match a.cq c with
  | none => a
  | some x =>
    let size := 2 ^ x.log
    if size ≤ v ∨ ringDist size x.head x.tail < ringDist size x.head v then
      let qs := (List.range 64).filter fun q => match a.queuePair q with | some p => decide (p.cqid = c) && !p.disabled | none => false
      if qs = [] then a
      else (qs.foldl (fun (a : Aggregator) q =>
        match a.queuePair q with | some p => a.disableQueue q p | none => a) a).doorbellError
    else a.setCq c { x with head := v }

/-! ### Commands and their fields (Table 15-5) -/

def Command.mgmt (c : Command) : Bool := decide (c.qid = mgmtQid)
/-- 0 the PCIe entry, 1 the management entry. -/
def Command.side (c : Command) : Nat := b2n c.mgmt

abbrev opIdentify : Nat := 0x01
abbrev opGetLog : Nat := 0x02
abbrev opGetFeature : Nat := 0x03
abbrev opSetFeature : Nat := 0x04
abbrev opFwDownload : Nat := 0x05
abbrev opFwCommit : Nat := 0x06
abbrev opFlush : Nat := 0x07
abbrev opReset : Nat := 0x08
abbrev opQuery : Nat := 0x10
abbrev opReadTrace : Nat := 0x12
abbrev opArmJob : Nat := 0x13
abbrev opRetireJob : Nat := 0x14

/-- Table 15-6. -/
def opcodes : List Nat :=
  [opIdentify, opGetLog, opGetFeature, opSetFeature, opFwDownload, opFwCommit, opFlush, opReset, opQuery, opReadLedger,
   opReadTrace, opArmJob, opRetireJob]

/-- Commands marked P. -/
def opPrivileged (op : Nat) : Bool := [opSetFeature, opFwDownload, opFwCommit, opReset, opArmJob, opRetireJob].contains op

/-- Features (Table 15-10). -/
def features : List Nat :=
  [0x01, 0x02, 0x03, 0x10, 0x11, 0x12, 0x13, 0x18, 0x20, 0x21, 0x22, 0x30, 0x31, 0x32, 0x33, 0x34, 0x35]

/-- SUBOP is in range for the opcode. -/
def subopOk (op sub : Nat) : Bool :=
  match op with
  | 0x02 => decide (1 ≤ sub ∧ sub ≤ 6)
  | 0x03 => [0x01, 0x22, 0x30].contains sub
  | 0x04 => features.contains sub
  | 0x06 => decide (sub ≤ 2)
  | 0x08 => decide (sub ≤ 1)
  | 0x11 => decide (1 ≤ sub ∧ sub ≤ 7)
  | _ => true

/-- A command takes data from its submitter. -/
def Command.dataIn (c : Command) : Bool :=
  decide (c.op = opFwDownload ∨ c.op = opArmJob) || (decide (c.op = opSetFeature) && decide (c.subop = 0x18))
    || (decide (c.op = opReadLedger) && decide (c.subop = qkCompare))

/-- Reserved fields of the entry are zero. -/
def Command.reservedOk (c : Command) : Bool := decide (c.flags / 4 = 0 ∧ c.field 14 2 = 0 ∧ c.field 28 4 = 0)

/-- A command names a job context (R19). -/
def Command.namesJob (c : Command) : Bool :=
  [opQuery, opReadLedger, opArmJob, opRetireJob].contains c.op
    || (decide (c.op = opSetFeature) && [0x12, 0x13, 0x18, 0x20, 0x22, 0x33].contains c.subop)
    || (decide (c.op = opGetFeature) && decide (c.subop = 0x22)) || (decide (c.op = opGetLog) && decide (c.subop = 3))

def Command.sameJob (c d : Command) : Bool := c.namesJob && d.namesJob && decide (c.job = d.job ∧ c.gen = d.gen)

/-- Budget in ns (R418, R436); none for Flush. -/
def Aggregator.budgetNs (a : Aggregator) (c : Command) : Nat :=
  (if c.budget = 0 then max 1 (a.get HLT_MISC_CMD_BUDGET) else c.budget) * 1000000

def Aggregator.command (a : Aggregator) (serial : Nat) : Option Command := a.hif.commands.find? fun c => c.serial = serial
def Aggregator.setWait (a : Aggregator) (serial : Nat) (w : CmdWait) : Aggregator :=
  a.modHif fun h => { h with commands := h.commands.map fun c => if c.serial = serial then { c with wait := w } else c }

/-! ### Capsules (R429, R430, Table 15-3) -/

abbrev capSubmit : Nat := 1
abbrev capData : Nat := 2
abbrev capComplete : Nat := 3
abbrev capResult : Nat := 4
abbrev capEvent : Nat := 5
abbrev capAck : Nat := 6

def capsuleBytes (kind mseq tag off flags acked : Nat) (payload : List Byte) : List Byte :=
  beBytes 1 1 ++ beBytes 1 kind ++ zeros 2 ++ beBytes 4 mseq ++ beBytes 4 tag ++ beBytes 4 off ++ beBytes 2 payload.length
    ++ beBytes 2 flags ++ beBytes 4 acked ++ payload

/-- A capsule is numbered, sent, and kept until it is acknowledged. -/
def Aggregator.sendCapsule (a : Aggregator) (kind tag off flags : Nat) (payload : List Byte) : Aggregator :=
  a.modHif fun h =>
    { h with mseq := (h.mseq + 1) % 2 ^ 32, capsOut := h.capsOut ++ [⟨h.mseq, kind, tag, off, flags, payload, 1, a.mono⟩],
             oob := h.oob ++ [capsuleBytes kind h.mseq tag off flags 0 payload] }

/-- An ACK, which is numbered and not kept. -/
def Aggregator.ackCapsule (a : Aggregator) (mseq : Nat) : Aggregator :=
  a.modHif fun h => { h with mseq := (h.mseq + 1) % 2 ^ 32, oob := h.oob ++ [capsuleBytes capAck h.mseq 0 0 0 mseq []] }

abbrev capMax : Nat := 1400

/-- Results go out in RESULT segments. -/
def Aggregator.sendResult (a : Aggregator) (tag : Nat) (data : List Byte) : Aggregator :=
  let n := (data.length + capMax - 1) / capMax
  (List.range n).foldl (fun (a : Aggregator) i =>
    a.sendCapsule capResult tag (i * capMax) (b2n (decide (i + 1 = n))) (slice data (i * capMax) capMax)) a

/-- The payload of an EVENT capsule. -/
def MgmtEvent.bytes : MgmtEvent → List Byte
  | .notice b => b
  | .taint b => b
  | .detector b => b
  | .report name args => Config.reportBytes name args

/-- Management events are sent, save in a pause of the firmware services (R430, R443). -/
def Aggregator.pumpEvents (a : Aggregator) : Aggregator :=
  if a.paused then a
  else a.hif.events.foldl (fun (a : Aggregator) e => a.sendCapsule capEvent 0 0 1 (e.bytes.take capMax))
    (a.modHif fun h => { h with events := [] })

/-! ### Completions (Table 15-4) -/

def completionBytes (cid sqid phase head status bytes result : Nat) : List Byte :=
  leBytes 2 cid ++ leBytes 1 sqid ++ leBytes 1 phase ++ leBytes 2 head ++ leBytes 1 status ++ zeros 1 ++ leBytes 8 bytes
    ++ leBytes 8 result ++ zeros 8

/-- A completion of a PCIe queue: the entry is written to its CQ with the phase bit, and its vector signals. -/
def Aggregator.postPcie (a : Aggregator) (c : Command) (status bytes result : Nat) : Aggregator :=
  match a.queuePair c.qid with
  | none => a
  | some q =>
    match a.cq q.cqid with
    | none => a
    | some x =>
      let e := completionBytes c.cid c.qid (b2n x.phase) c.head status bytes result
      let last := decide (x.tail + 1 = 2 ^ x.log)
      let a1 := { a with host := memPut a.host (x.base + 32 * x.tail) e }
      (a1.setCq q.cqid { x with tail := if last then 0 else x.tail + 1, phase := x.phase ^^ last }).modHif fun h =>
        { h with msix := h.msix ++ [q.vector] }

/-- A completion is posted, and the command is no more. -/
def Aggregator.post (a : Aggregator) (c : Command) (status bytes result : Nat) : Aggregator :=
  let a1 := (a.modHif fun h => { h with commands := h.commands.filter fun x => x.serial ≠ c.serial }).incWrap HI_CNT_CMDS_N
  if c.mgmt then a1.sendCapsule capComplete c.cid 0 1 (completionBytes c.cid 0xFF 0 0 status bytes result)
  else a1.postPcie c status bytes result

/-! ### Data buffers (R435) -/

/-- A segment list: addresses and lengths up to the last segment; none where it has more than 256. -/
def segList (host : Store Byte) (ptr : Nat) : Nat → Option (List (Nat × Nat))
  | 0 => none
  | n + 1 =>
    let e := memBytes host ptr 16
    let s := (le e 0 8, le e 8 4)
    if bit (le e 12 4) 0 then some [s] else (segList host (ptr + 16) n).map fun l => s :: l

/-- Every length but the last is a multiple of 8; addresses are 8-byte aligned. -/
def segsOk : List (Nat × Nat) → Bool
  | [] => true
  | [s] => decide (s.1 % 8 = 0)
  | s :: l => decide (s.1 % 8 = 0 ∧ s.2 % 8 = 0) && segsOk l

/-- The buffer of a PCIe command; none where its list is not as R435 says. -/
def Aggregator.buffer (a : Aggregator) (c : Command) : Option (List (Nat × Nat)) :=
  if c.mgmt ∨ c.dlen = 0 then some []
  else if bit c.flags 1 ∧ c.op ≠ opFlush then some [(c.dptr, c.dlen)]
  else match segList a.host c.dptr 256 with
    | none => none
    | some l => if segsOk l ∧ (l.map (·.2)).foldl (· + ·) 0 = c.dlen then some l else none

def readSegs (host : Store Byte) (l : List (Nat × Nat)) : List Byte := l.flatMap fun s => memBytes host s.1 s.2

def writeSegs (host : Store Byte) : List (Nat × Nat) → List Byte → Store Byte
  | [], _ => host
  | s :: l, d => writeSegs (memPut host s.1 (d.take s.2)) l (d.drop s.2)

/-- The end of a command: its data goes to the submitter, then its completion (R427). -/
def Aggregator.finish (a : Aggregator) (c : Command) (status result : Nat) (data : List Byte) : Aggregator :=
  let d := data.take c.dlen
  if c.mgmt then (a.sendResult c.cid d).post c status d.length result
  else match a.buffer c with
    | some segs => ({ a with host := writeSegs a.host segs d }).post c status d.length result
    | none => a.post c status 0 result

/-! ### Accepting commands (R433, R438) -/

/-- Free slots of a CQ, beside those that outstanding commands will need. -/
def Aggregator.cqRoom (a : Aggregator) (cqid : Nat) : Bool :=
  match a.cq cqid with
  | none => false
  | some x =>
    let owed := (a.hif.commands.filter fun c =>
      !c.mgmt && (match a.queuePair c.qid with | some q => decide (q.cqid = cqid) | none => false)).length
    decide (ringDist (2 ^ x.log) x.head x.tail + owed + 1 < 2 ^ x.log)

/-- A PCIe queue has a command to fetch. -/
def Aggregator.fetchable (a : Aggregator) (q : Nat) : Bool :=
  match a.queuePair q with
  | none => false
  | some x => a.on HI_CTRL_EN && !x.disabled && decide (x.sqHead ≠ x.sqTail) && a.cqRoom x.cqid

def Aggregator.mgmtFetchable (a : Aggregator) : Bool := a.on HI_CTRL_MGMT_EN && !a.hif.mgmtQueue.isEmpty

/-- The queue served next: admin first, then the others in round robin from the one served last (R433). -/
def Aggregator.nextQueue (a : Aggregator) : Option Nat :=
  if a.fetchable 0 then some 0
  else (List.range 64).findSome? fun i =>
    let q := (a.hif.last + i) % 64 + 1
    if (if q = mgmtQid then a.mgmtFetchable else a.fetchable q) then some q else none

/-- Boot has stopped at a stage: the OOB port alone is served (R478). -/
def Aggregator.recovery (a : Aggregator) : Bool :=
  decide (a.get BOOT_STATUS_RESULT ≠ 0 ∧ a.get BOOT_STATUS_RESULT ≠ 9)

/-- Commands that are cancelled by the tag of a later one of the same opcode on the same job context (R419). -/
def Command.outrun (d c : Command) : Bool :=
  decide (d.op = c.op ∧ d.gtag ≠ 0) && d.sameJob c && decide (1 ≤ (c.gtag + 65536 - d.gtag) % 65536)
    && decide ((c.gtag + 65536 - d.gtag) % 65536 ≤ 32767)

/-- A command ends with a status, and its control frames are sent no more. -/
def Aggregator.endEarly (a : Aggregator) (status : Nat) (c : Command) : Aggregator :=
  ((a.dropFrames fun n _ => decide (n = c.serial)).stopCmd c).post c status 0 0

/-- A command is accepted: it cancels what its tag outruns, and ends at once where its opcode, privilege or SUBOP is wrong. -/
def Aggregator.accept (a : Aggregator) (qid head : Nat) (priv : Bool) (entry mdata : List Byte) : Aggregator :=
  let serial := 2 * a.hif.serial + b2n (decide (qid = mgmtQid))
  let c : Command := ⟨serial, qid, head, entry, mdata, a.mono, .queued⟩
  let a1 := (a.modHif fun h => { h with serial := h.serial + 1 })
  let old := a1.hif.commands.filter fun d => d.outrun c && decide (d.wait ≠ .dead)
  let a2 := old.foldl (fun (a : Aggregator) d => a.endEarly csCancelled d) a1
  if ¬ opcodes.contains c.op then a2.post c csInvalidOpcode 0 0
  else if opPrivileged c.op ∧ ¬ priv then a2.post c csPrivilege 0 0
  else if ¬ subopOk c.op c.subop ∨ ¬ c.reservedOk then a2.post c csInvalidField 0 0
  else if a2.recovery ∧ ¬ [opIdentify, opGetLog, opFwDownload, opFwCommit].contains c.op then a2.post c csRefused 0 0
  else a2.modHif fun h => { h with commands := h.commands ++ [c] }

/-- A Reset that was accepted and has not been carried out: it takes effect at the instant it is accepted, so nothing is fetched
or started before it (R440). -/
def Aggregator.resetOwed (a : Aggregator) : Bool := a.hif.commands.any fun c => decide (c.op = opReset)

/-- COMMAND_FETCH: one command per turn; none while a firmware activation holds fetching (R442) or a Reset is owed (R440). -/
def Aggregator.commandFetch (a : Aggregator) : Aggregator :=
  if a.on HI_STATUS_FW_HOLD ∨ a.resetOwed then a
  else
    let next := if a.recovery then (if a.mgmtFetchable then some mgmtQid else none) else a.nextQueue
    match next with
    | none => a
    | some q =>
      if q = mgmtQid then
        match a.hif.mgmtQueue with
        | [] => a
        | (e, d) :: rest => (a.modHif fun h => { h with mgmtQueue := rest, last := mgmtQid }).accept mgmtQid 0 true e d
      else match a.queuePair q with
        | none => a
        | some x =>
          let head := (x.sqHead + 1) % 2 ^ x.sqLog
          let e := memBytes a.host (x.sqBase + 64 * x.sqHead) 64
          let a1 := a.setQueue q { x with sqHead := head }
          (if q = 0 then a1 else a1.modHif fun h => { h with last := q }).accept q head (decide (q = 0) || x.priv) e []

/-! ### Starting commands (R19, R439, R442) -/

/-- An accepted command may start: none of its job context, no Flush of its queue, and no firmware command or activation
stands before it where they order it. -/
def Aggregator.mayStart (a : Aggregator) (c : Command) : Bool :=
  let before := a.hif.commands.takeWhile fun d => decide (d.serial ≠ c.serial)
  let fw (d : Command) : Bool := decide (d.op = opFwDownload ∨ d.op = opFwCommit)
  decide (c.wait = .queued) && !a.resetOwed && before.all fun d =>
    decide (d.wait = .dead) || (!d.sameJob c && !(decide (d.op = opFlush) && decide (d.qid = c.qid)) && !(fw d && fw c)
      && !(match d.wait with | .activate _ => true | _ => false))

/-- A command of a kind starts: its list and data are taken, then it runs. `hostOk`: the host answers its reads and writes. -/
def Aggregator.startCmd (a : Aggregator) (serial : Nat) (hostOk : Bool) (want : Command → Bool)
    (f : Aggregator → Command → List Byte → CmdRes × Aggregator) : Aggregator :=
  match a.command serial with
  | none => a
  | some c =>
    if ¬ want c ∨ ¬ a.mayStart c then a
    else match a.buffer c with
      | none => a.post c csInvalidField 0 0
      | some segs =>
        if ¬ c.mgmt ∧ c.dlen ≠ 0 ∧ ¬ hostOk then (a.raise HI_STATUS_DATA_ERR).post c csDataError 0 0
        else
          let data := if ¬ c.dataIn then [] else if c.mgmt then c.mdata else readSegs a.host segs
          match f a c data with
          | (.done st r out, a1) => a1.finish c st r out
          | (.wait w, a1) => a1.setWait serial w

def isOp (op : Nat) (c : Command) : Bool := decide (c.op = op)
def isSub (op sub : Nat) (c : Command) : Bool := decide (c.op = op ∧ c.subop = sub)

/-- COMMAND_BUDGET_EXPIRY: the command stops at its next step, and its control frames with it (R418, R436); Flush has no budget,
and an activation that has quiesced runs to its end (R442). -/
def Aggregator.budgetExpiry (a : Aggregator) (serial : Nat) : Aggregator :=
  match a.command serial with
  | none => a
  | some c =>
    let held := decide (c.op = opFlush ∨ c.wait = .dead) || (a.paused && (match c.wait with | .activate _ => true | _ => false))
    if held ∨ a.mono < c.started + a.budgetNs c then a
    else
      let a1 := match c.wait with | .activate _ => a.set HI_STATUS_FW_HOLD 0 | _ => a
      a1.endEarly csBudget c

/-! ### Resets of an entry (R440) -/

/-- The commands of the affected entries are stopped and, where `posted`, complete ABORTED-BY-RESET in fetch order. -/
def Aggregator.abortCommands (a : Aggregator) (hit : Command → Bool) (posted : Bool) : Aggregator :=
  let cs := a.hif.commands.filter hit
  let serials := cs.map (·.serial)
  let a1 := cs.foldl Aggregator.stopCmd (a.dropFrames fun n _ => serials.contains n)
  if posted then cs.foldl (fun (a : Aggregator) c => (a.inc HI_CNT_ABORTED_N).post c csAborted 0 0) a1
  else a1.modHif fun h => { h with commands := h.commands.filter fun c => !hit c }

/-- The I/O queue pairs are deleted; the admin pair and the management queue remain, the admin pair enabled again. -/
def Aggregator.deleteQueues (a : Aggregator) : Aggregator :=
  a.modHif fun h => { h with queues := (h.queues.filter fun e => e.1 = 0).map (fun e => (e.1, { e.2 with disabled := false })),
                             cqs := h.cqs.filter fun e => e.1 = 0, last := 0 }

/-- Reset INTERFACE (RESET_INTERFACE): the PCIe entry; its own completion is the last. -/
def Aggregator.resetInterface (a : Aggregator) (serial : Nat) : Aggregator :=
  match a.command serial with
  | none => a
  | some c =>
    if c.op ≠ opReset ∨ c.subop ≠ 0 then a
    else
      let a1 := a.abortCommands (fun d => !d.mgmt && decide (d.serial ≠ serial)) true
      if c.mgmt ∨ c.qid = 0 then (a1.deleteQueues).post c csSuccess 0 0 else (a1.post c csSuccess 0 0).deleteQueues

/-- Reset CHIP (RESET_CHIP): both entries, then the chip under R410 with REASON 0x02. -/
def Aggregator.resetChip (a : Aggregator) (serial : Nat) : Aggregator :=
  match a.command serial with
  | none => a
  | some c =>
    if c.op ≠ opReset ∨ c.subop ≠ 1 then a
    else
      let a1 := a.abortCommands (fun d => decide (d.serial ≠ serial)) true
      (((a1.post c csSuccess 0 0).deleteQueues).recordLimited rcHealth 0 (leBytes 2 0 ++ leBytes 4 (a1.subject chipUnit))).announceReset
        0 reasonCommanded

/-- PCIE_CONVENTIONAL_RESET: steps 1 to 3 of R440 for the PCIe entry with no completion, the admin registers and the DMA channels
reset, RESET_LOST set (Table 17-2; log 81). -/
def Aggregator.pcieReset (a : Aggregator) : Aggregator :=
  let a1 := (a.abortCommands (fun d => !d.mgmt) false).deleteQueues
  let a2 := a1.modHif fun h => { h with queues := [], cqs := [], dma := [] }
  let a3 := ((a2.setWord addr_HI_ADMIN (resetWord .agg addr_HI_ADMIN)).setWord addr_HI_ASQ_BASE 0).setWord addr_HI_ACQ_BASE 0
  let a4 := { a3 with regs := a3.regs.resetPage 0x1A }
  (a4.raise HI_STATUS_RESET_LOST).record rcReset (leBytes 1 0x05 ++ zeros 1 ++ leBytes 2 0)

/-- FLR: the PCIe entry as by Reset INTERFACE, no command of its own. -/
def Aggregator.flr (a : Aggregator) : Aggregator := (a.abortCommands (fun d => !d.mgmt) true).deleteQueues

end Sys2Proof.Machine
end

