-- ==== Sys2Proof/Machine/HostCmd.lean ====
section
/-!
DEFINITION. The commands of the host interface (Tables 15-6 to 15-10): Identify, logs, features, firmware, Flush, Query, Read
Ledger, Read Trace, Arm Job and Retire Job (R409, R437, R439, R442, R449).
-/
namespace Sys2Proof.Machine

/-- Output data whose first item does not fit ends BUFFER-TOO-SMALL (Table 15-7). -/
def outData (dlen : Nat) (data : List Byte) : CmdRes :=
  if dlen < data.length then .done csTooSmall data.length [] else .done csSuccess 0 data

/-! ### Identify (Table 15-9) -/

def fwVersionOf (s : Option FwSlot) : Nat := match s with | some x => x.version | none => 0

def Aggregator.identifyData (a : Aggregator) : List Byte :=
  let (act, oth) := if a.hif.fwActive = 0 then (a.hif.fw0, a.hif.fw1) else (a.hif.fw1, a.hif.fw0)
  padTo 4096 (leBytes 2 0x0040 ++ leBytes 2 (a.get CHIP_IDENT_REVISION) ++ leBytes 2 a.id ++ leBytes 2 a.partner
    ++ ((List.range 3).flatMap fun i => leBytes 2 (a.cfg.domains.getD i 0)) ++ leBytes 1 a.coresPresent ++ leBytes 1 a.xdesInMask
    ++ leBytes 8 (a.get CHIP_CORE_PRESENT_PRESENT) ++ leBytes 8 (fwVersionOf act) ++ leBytes 8 (fwVersionOf oth)
    ++ leBytes 1 a.hif.fwActive ++ leBytes 1 63 ++ leBytes 1 12 ++ leBytes 1 8 ++ leBytes 2 4096 ++ leBytes 2 1024
    ++ padTo 16 (a.serial.take 16) ++ leBytes 1 (a.get DET_KEYS_KEY_VALID))

/-- IDENTIFY. -/
def Aggregator.cmdIdentify (a : Aggregator) (serial : Nat) (ok : Bool) : Aggregator :=
  a.startCmd serial ok (isOp opIdentify) fun a c _ => (outData c.dlen a.identifyData, a)

/-! ### Logs (R362, R423, R489; layouts that no rule gives are log 78) -/

/-- The ring as the snapshot procedure returns it, then both flush banks. -/
def Aggregator.recorderLog (a : Aggregator) : List Byte :=
  let head := a.get (REC_HEAD_HEAD.onPage 0x3)
  let from_ := head - 1024
  ((List.range (head - from_)).flatMap fun i => (a.recd.ringRec (from_ + i)).getD [])
    ++ (List.range 2).flatMap fun b => (List.range 1024).flatMap fun s => a.recd.slotBytes b s

/-- The newest 4,096 notices, oldest first. -/
def Aggregator.noticeLog (a : Aggregator) : List Byte := a.hlt.notices.flatten

def Aggregator.samplingLog (a : Aggregator) (job gen : Nat) : Option (List Byte) :=
  (a.findJob job gen).map fun e => match e.2.rates with
    | some r => Config.logLayout 3 (r.thrBase ++ r.classes)
    | none => Config.logLayout 3 []

def Aggregator.fwLog (a : Aggregator) : List Byte :=
  Config.logLayout 4 [b2n a.hif.fw0.isSome, fwVersionOf a.hif.fw0, b2n a.hif.fw1.isSome, fwVersionOf a.hif.fw1, a.hif.fwActive]

def Aggregator.poolLog (a : Aggregator) : List Byte :=
  Config.logLayout 5 (a.ing.pools.flatMap fun e =>
    [e.1, a.get (PH_STAT_IN_USE e.1), a.get (PH_STAT_LEVEL e.1), a.get (PH_STAT_ALLOC_FAIL_N e.1)])

def Aggregator.queueLog (a : Aggregator) : List Byte :=
  Config.logLayout 6 ((List.range 64).flatMap fun q => match a.queuePair q with
    | some x => [q, x.sqLog, x.cqid, b2n x.priv, x.vector, x.sqHead, x.sqTail, b2n x.disabled]
    | none => [])

/-- A Get Log of a SUBOP: bytes from OFFSET, as many as the buffer holds. -/
def Aggregator.cmdLog (a : Aggregator) (serial : Nat) (ok : Bool) (sub : Nat) (log : Aggregator → Command → Option (List Byte)) :
    Aggregator :=
  a.startCmd serial ok (isSub opGetLog sub) fun a c _ =>
    match log a c with
    | some l => (.done csSuccess 0 ((l.drop (le c.args 0 8)).take c.dlen), a)
    | none => (.fail csNotArmed, a)

/-! ### Features that read (Table 15-10) -/

/-- GET_FEATURE: the values in force of QUEUE-CREATE, LEDGER-REFERENCE and HEALTH-BUDGET. -/
def Aggregator.cmdGetFeature (a : Aggregator) (serial : Nat) (ok : Bool) : Aggregator :=
  a.startCmd serial ok (isOp opGetFeature) fun a c _ =>
    match c.subop with
    | 0x01 =>
      match a.queuePair (le c.args 0 1) with
      | some q => (outData c.dlen (leBytes 1 (le c.args 0 1) ++ leBytes 1 q.sqLog ++ leBytes 1 q.cqLog ++ leBytes 1 q.cqid
          ++ leBytes 1 (b2n q.priv) ++ leBytes 1 q.vector ++ zeros 2 ++ leBytes 8 q.sqBase ++ leBytes 8 q.cqBase), a)
      | none => (.fail csInvalidField, a)
    | 0x22 =>
      match a.ownJob c.job c.gen with
      | some (ctx, _) => (outData c.dlen (leBytes 8 (a.word (addr_LJ_REF0 ctx)).toNat ++ leBytes 8 (a.word (addr_LJ_REF1 ctx)).toNat), a)
      | none => (.fail csNotArmed, a)
    | _ => (outData c.dlen (leBytes 2 (a.get HLT_BUDGET_GRANT) ++ zeros 2 ++ leBytes 4 (a.get HLT_BUDGET_SPARES)), a)

/-! ### Features that act -/

/-- A Set Feature of an ID. -/
def Aggregator.cmdFeature (a : Aggregator) (serial : Nat) (ok : Bool) (sub : Nat)
    (f : Aggregator → Command → List Byte → CmdRes × Aggregator) : Aggregator :=
  a.startCmd serial ok (isSub opSetFeature sub) f

/-- The same, for an own job context. -/
def Aggregator.cmdJobFeature (a : Aggregator) (serial : Nat) (ok : Bool) (sub : Nat)
    (f : Aggregator → Command → Nat → JobCtx → List Byte → CmdRes × Aggregator) : Aggregator :=
  a.cmdFeature serial ok sub fun a c data =>
    match a.ownJob c.job c.gen with
    | some (ctx, j) => f a c ctx j data
    | none => (.fail csNotArmed, a)

/-- The MSI-X vector of a completion queue that stands: 0 of the admin queue, else that of the pairs bound to it (Table 15-1). -/
def Aggregator.cqVector (a : Aggregator) (c : Nat) : Nat :=
  if c = 0 then 0 else (a.hif.queues.findSome? fun e => if e.2.cqid = c then some e.2.vector else none).getD 0

/-- QUEUE_CREATE (R431); a QID that stands is refused. An SQ bound to a CQ that stands takes its ring and vector. -/
def Aggregator.queueCreate (a : Aggregator) (g : List Byte) : CmdRes × Aggregator :=
  let qid := le g 0 1
  let q : QueuePair := ⟨le g 1 1, le g 2 1, le g 3 1, decide (le g 4 1 = 1), le g 5 1, le g 8 8, le g 16 8, 0, 0, false⟩
  let logOk (n : Nat) : Bool := decide (4 ≤ n ∧ n ≤ 12)
  let newOk := logOk q.cqLog && decide (q.cqBase % 4096 = 0 ∧ q.vector ≠ 0 ∧ q.vector < 64)
  if qid = 0 ∨ 64 ≤ qid ∨ 64 ≤ q.cqid ∨ ¬ logOk q.sqLog ∨ ((a.cq q.cqid).isNone ∧ ¬ newOk) ∨ 1 < le g 4 1 ∨ le g 6 2 ≠ 0
      ∨ q.sqBase % 4096 ≠ 0 then (.fail csInvalidField, a)
  else if (a.queuePair qid).isSome then (.fail csRefused, a)
  else
    (.ok, match a.cq q.cqid with
      | some x => a.setQueue qid { q with cqLog := x.log, cqBase := x.base, vector := a.cqVector q.cqid }
      | none => (a.setCq q.cqid ⟨q.cqLog, q.cqBase, 0, 0, true⟩).setQueue qid q)

/-- QUEUE_DELETE: refused while commands of the SQ are outstanding; a CQ without an SQ goes with it. -/
def Aggregator.queueDelete (a : Aggregator) (g : List Byte) : CmdRes × Aggregator :=
  let qid := le g 0 1
  if qid = 0 ∨ 64 ≤ qid then (.fail csInvalidField, a)
  else match a.queuePair qid with
    | none => (.fail csInvalidField, a)
    | some q =>
      if a.hif.commands.any fun c => c.qid = qid then (.fail csRefused, a)
      else
        let a1 := a.modHif fun h => { h with queues := tabDel h.queues qid }
        let used := (List.range 64).any fun k => match a1.queuePair k with | some x => decide (x.cqid = q.cqid) | none => false
        (.ok, if used ∨ q.cqid = 0 then a1 else a1.modHif fun h => { h with cqs := tabDel h.cqs q.cqid })

/-- CANCEL of a tag of an entry (R419): commands that hold it complete CANCELLED, Flush excepted; none of its control frames is
sent any more. -/
def Aggregator.cancelTag (a : Aggregator) (self : Nat) (g : List Byte) : CmdRes × Aggregator :=
  let side := le g 0 1
  let tag := le g 2 2
  if 1 < side ∨ le g 1 1 ≠ 0 then (.fail csInvalidField, a)
  else if tag = 0 then (.ok, a)
  else
    let hit := a.hif.commands.filter fun c =>
      decide (c.side = side ∧ c.gtag = tag ∧ c.serial ≠ self ∧ c.op ≠ opFlush ∧ c.wait ≠ .dead)
    let a1 := a.dropFrames fun n t => decide (n % 2 = side ∧ t = tag)
    (.ok, hit.foldl (fun (a : Aggregator) c =>
      (match c.wait with | .activate _ => a.set HI_STATUS_FW_HOLD 0 | _ => a).endEarly csCancelled c) a1)

/-- BROADCAST_ISSUE at the root (R289); a peal schedule below its P_min is refused (R271). -/
def Aggregator.broadcastIssue (a : Aggregator) (ctx : Nat) (j : JobCtx) (g payload : List Byte) : CmdRes × Aggregator :=
  let kind := le g 0 1
  if kind = 0 ∨ 6 < kind ∨ bcMax < payload.length then (.fail csInvalidField, a)
  else if j.tree.level ≠ 0 ∨ j.state ≠ .armed then (.fail csRefused, a)
  else if kind = bcPealSchedule ∧ be payload 10 8 < j.pMin then (.done csRefused 1 [], a)
  else
    let (seq, a1) := a.issueBcast ctx kind payload
    (.wait (.roll ctx seq), a1)

/-- A swap is in force for peals that were armed before it: their epochs expect the incoming die unit, which is armed for
them (R409). -/
def Aggregator.swapArmed (a : Aggregator) (ctx inn : Nat) : Aggregator :=
  match a.job ctx with
  | none => a
  | some j =>
    (j.peals.filter fun p => p.sent && !p.refused && decide (a.tc.now < p.tp)).foldl (fun (a : Aggregator) p =>
      let exp := j.expectedAt p.tp
      let was : Bool := match j.epoch p.tp with | some e => e.expected.contains inn | none => true
      let a1 := a.modEpoch ctx p.tp fun e => { e with expected := exp }
      match a1.regKey inn with
      | some k => if (exp.contains inn && !was && a1.serves inn) = true then a1.control k 0x03 (pealArmPayload p j.epochWait) else a1
      | none => a1) a

/-- SWAP: OUT 4; IN 4; T_S ns 8, fraction 2 (R409). A die unit of another aggregator is the other half's concern. -/
def Aggregator.swap (a : Aggregator) (serial gtag ctx : Nat) (j : JobCtx) (g : List Byte) : CmdRes × Aggregator :=
  let out := le g 0 4
  let inn := le g 4 4
  let ts := le g 8 8 * nsU + le g 16 2
  let mine (d : Nat) : Bool := decide (d / 256 = a.id)
  if ¬ mine out ∧ ¬ mine inn then (.fail csInvalidField, a)
  else if (mine out ∧ ¬ j.dieUnits.contains out) ∨ ts < a.tc.now + 1000000 * nsU
      ∨ a.jobs.any (fun e => e.2.dieUnits.contains inn) then (.fail csRefused, a)
  else if (mine inn && a.byPartner inn) || (mine out && a.byPartner out) then (.fail csByPartner, a)
  else
    let a1 := a.modJob ctx fun j =>
      { j with swaps := j.swaps ++ [⟨out, inn, ts, false⟩], dieUnits := if mine inn then j.dieUnits ++ [inn] else j.dieUnits,
               failed := if mine inn ∧ ¬ a.armable inn then j.failed ++ [inn] else j.failed }
    let a2 := match (if mine inn ∧ a.armable inn then a1.regKey inn else none), a1.job ctx with
      | some k, some j1 => a1.armDie j1 k gtag serial
      | _, _ => a1
    (.ok, (a2.swapArmed ctx inn).mirrorJob ctx)

/-- SCAN of a core (R412, R415); an absent core is refused (R234). -/
def Aggregator.scanFeature (a : Aggregator) (g : List Byte) : CmdRes × Aggregator :=
  let c := le g 0 1
  if 64 ≤ c then (.fail csInvalidField, a)
  else if ¬ a.corePresent c then (.fail csAbsentCore, a)
  else (.ok, a.requestScan c)

/-- RESET_LOOP_CLEAR (R411). -/
def Aggregator.resetLoopClear (a : Aggregator) : Aggregator := a.modHlt fun h => { h with loop := false }

/-- LEDGER_SPILL_NOW: STEP 6; refused where the step is not sealed here (R373). -/
def Aggregator.spillFeature (a : Aggregator) (c : Command) : CmdRes × Aggregator :=
  let step := le c.args 0 6
  match a.ledger c.job c.gen (a.ledgerHome c.job c.gen) with
  | none => (.fail csNotArmed, a)
  | some l => if l.isSealed step then (.ok, a.spillNow c.job c.gen l.home step) else (.fail csRefused, a)

/-! ### Firmware (R442, R443) -/

abbrev fwImageMax : Nat := 67108864

/-- FIRMWARE_DOWNLOAD: OFFSET 4; a segment at offset 0 begins a new image (log 80). -/
def Aggregator.cmdFwDownload (a : Aggregator) (serial : Nat) (ok : Bool) : Aggregator :=
  a.startCmd serial ok (isOp opFwDownload) fun a c data =>
    let off := le c.args 0 4
    if off % 4096 ≠ 0 ∨ 1048576 < c.dlen ∨ c.dlen = 0 ∨ data.length ≠ c.dlen ∨ fwImageMax < off + c.dlen then
      (.fail csInvalidField, a)
    else
      let base := if off = 0 then [] else padTo off a.hif.fwStaging
      (.ok, a.modHif fun h => { h with fwStaging := patch base off data })

def HostIf.fwSlot (h : HostIf) (k : Nat) : Option FwSlot := if k = 0 then h.fw0 else h.fw1
def HostIf.setFwSlot (h : HostIf) (k : Nat) (s : Option FwSlot) : HostIf :=
  if k = 0 then { h with fw0 := s } else { h with fw1 := s }

/-- The slot holds an image that verifies. -/
def HostIf.fwValid (h : HostIf) (k : Nat) : Bool := match h.fwSlot k with | some s => Config.fwImageOk s.image | none => false

/-- A commit: the staged image is checked, then written; a failed check leaves both slots as they are. -/
def Aggregator.fwCommit (a : Aggregator) (slot : Nat) : Bool × Aggregator :=
  let img := a.hif.fwStaging
  if Config.fwImageOk img then
    (true, a.modHif fun h => h.setFwSlot slot (some ⟨img, (Config.fwVersion img).toNat⟩))
  else (false, a)

/-- A firmware command of a SUBOP; none starts while flash writes are stopped (R488). -/
def Aggregator.cmdFw (a : Aggregator) (serial : Nat) (ok : Bool) (sub : Nat) (f : Aggregator → Nat → CmdRes × Aggregator) :
    Aggregator :=
  if a.on PWR_SAG_WRITES_STOPPED then a
  else a.startCmd serial ok (isSub opFwCommit sub) fun a c _ =>
    let slot := le c.args 0 1
    if 1 < slot then (.fail csInvalidField, a) else f a slot

/-- An activation is accepted: fetching stops. -/
def Aggregator.fwHold (a : Aggregator) (slot : Nat) : CmdRes × Aggregator :=
  (.wait (.activate slot), a.set HI_STATUS_FW_HOLD 1)

def Aggregator.cmdFwCommit (a : Aggregator) (serial : Nat) (ok : Bool) : Aggregator :=
  a.cmdFw serial ok 0 fun a slot => match a.fwCommit slot with
    | (true, a1) => (.ok, a1)
    | (false, a1) => (.fail csFwInvalid, a1)
def Aggregator.cmdFwCommitActivate (a : Aggregator) (serial : Nat) (ok : Bool) : Aggregator :=
  a.cmdFw serial ok 1 fun a slot => match a.fwCommit slot with
    | (true, a1) => a1.fwHold slot
    | (false, a1) => (.fail csFwInvalid, a1)
def Aggregator.cmdFwActivate (a : Aggregator) (serial : Nat) (ok : Bool) : Aggregator :=
  a.cmdFw serial ok 2 fun a slot => a.fwHold slot

/-- The activation in progress. -/
def Aggregator.activation (a : Aggregator) : Option (Command × Nat) :=
  a.hif.commands.findSome? fun c => match c.wait with | .activate s => some (c, s) | _ => none

/-- An activation ends: services resume, the completion is posted, fetching resumes. -/
def Aggregator.fwResume (a : Aggregator) (c : Command) (status : Nat) : Aggregator :=
  (((a.modHif fun h => { h with fwStart := none }).set HI_STATUS_FW_HOLD 0).settleEpochs).finish c status 0 []

/-- FW_ACTIVATION_PROCEED: every command accepted before is complete; the slot's firmware starts. -/
def Aggregator.fwProceed (a : Aggregator) : Aggregator :=
  match a.activation with
  | none => a
  | some (c, slot) =>
    let before := a.hif.commands.takeWhile fun d => decide (d.serial ≠ c.serial)
    if a.paused ∨ ¬ before.all (fun d => decide (d.wait = .dead)) then a
    else if ¬ a.hif.fwValid slot then a.fwResume c csFwEmpty
    else a.modHif fun h => { h with fwStart := some (slot, a.mono) }

/-- FW_READY within 400 ms: the slot is active. -/
def Aggregator.fwReady (a : Aggregator) : Aggregator :=
  match a.activation, a.hif.fwStart with
  | some (c, slot), some (_, t) =>
    if t + 400000000 ≤ a.mono then a
    else (((a.modHif fun h => { h with fwActive := slot }).set HI_STATUS_FW_SLOT slot).set BOOT_STATUS_FW_SLOT slot).fwResume c
      csSuccess
  | _, _ => a

/-- FW_READY_TIMEOUT: the previous firmware runs. -/
def Aggregator.fwTimeout (a : Aggregator) : Aggregator :=
  match a.activation, a.hif.fwStart with
  | some (c, _), some (_, t) => if t + 400000000 ≤ a.mono then a.fwResume c csFwReverted else a
  | _, _ => a

/-! ### Flush (R439) -/

def Aggregator.cmdFlush (a : Aggregator) (serial : Nat) (ok : Bool) : Aggregator :=
  a.startCmd serial ok (isOp opFlush) fun a c _ => (.wait (.flush (bit c.flags 0)), a)

/-- FLUSH_COMPLETE: every command accepted before it, of its SQ or of its entry, has its completion. -/
def Aggregator.flushComplete (a : Aggregator) (serial : Nat) : Aggregator :=
  match a.command serial with
  | none => a
  | some c =>
    match c.wait with
    | .flush all =>
      let before := a.hif.commands.takeWhile fun d => decide (d.serial ≠ serial)
      if before.all fun d => if all then decide (d.side ≠ c.side) else decide (d.qid ≠ c.qid) then a.finish c csSuccess 0 [] else a
    | _ => a

/-! ### Query (R294) -/

/-- The status of a Query (Table 15-7). -/
def queryStatus (s : Nat) : Nat := 0x20 + s

def Aggregator.cmdQuery (a : Aggregator) (serial : Nat) (ok : Bool) : Aggregator :=
  a.startCmd serial ok (isOp opQuery) fun a c _ =>
    match a.findJob c.job c.gen with
    | none => (.fail csNotArmed, a)
    | some (_, j) =>
      let (s, data) := j.readEpoch (le c.args 0 8 * nsU + le c.args 8 2)
      (if c.dlen < data.length then .done csTooSmall data.length [] else .done (queryStatus s) 0 data, a)

/-! ### Read Ledger (R383 to R391) -/

/-- READ_LEDGER_*: a query of a kind. -/
def Aggregator.cmdReadLedger (a : Aggregator) (serial : Nat) (ok : Bool) (qkind : Nat) : Aggregator :=
  a.startCmd serial ok (isSub opReadLedger qkind) fun a c data => a.readLedger qkind c.job c.gen c.dlen c.args data

/-- The data that a COMPARE brought, read again when its fetches are in. -/
def Aggregator.cmdData (a : Aggregator) (c : Command) : List Byte :=
  if ¬ c.dataIn then [] else if c.mgmt then c.mdata
  else match a.buffer c with | some segs => readSegs a.host segs | none => []

/-- The fetches of a command are over. -/
def Aggregator.fetched (a : Aggregator) (c : Command) (got : List LRec) (cut : Store Nat) (failed : Bool) : Aggregator :=
  match a.answerQuery c.subop c.job c.gen c.dlen c.args (a.cmdData c) got cut failed with
  | .done st r out => a.finish c st r out
  | .wait w => a.setWait c.serial w

/-- LEDGER_FETCH_DONE: an object arrives for a command (R385, R391). -/
def Aggregator.fetchDone (a : Aggregator) (serial : Nat) (n : ObjName) (object : List Byte) : Aggregator :=
  match a.command serial with
  | none => a
  | some c =>
    match c.wait with
    | .fetch need got cut since =>
      if ¬ need.contains n then a
      else
        let rs := objectRecs object.length object
        if c.op = opSetFeature then (a.holdRef n rs).finish c csSuccess 0 []
        else
          let need1 := need.filter (· ≠ n)
          if need1 = [] then a.fetched c (got ++ rs) cut false else a.setWait serial (.fetch need1 (got ++ rs) cut since)
    | _ => a

/-- FETCH_WAIT_EXPIRY: no controller delivers; a query ends FETCH-FAILED, an import is refused. -/
def Aggregator.fetchExpiry (a : Aggregator) (serial : Nat) : Aggregator :=
  match a.command serial with
  | none => a
  | some c =>
    match c.wait with
    | .fetch _ _ cut since =>
      if a.mono < since + atLeast1 (a.get LDG_TIMING_FETCH_WAIT) * 1000000 then a
      else if c.op = opSetFeature then a.finish c csRefused 0 []
      else a.fetched c [] cut true
    | _ => a

/-! ### Read Trace (R449) -/

/-- A held parcel takes its place by PSEQ, modulo 2^32, after those of the same number. -/
def insertPseq (x : Nat × HeldParcel) : List (Nat × HeldParcel) → List (Nat × HeldParcel)
  | [] => [x]
  | y :: l =>
    let ahead := (y.2.pseq + 2 ^ 32 - x.2.pseq % 2 ^ 32) % 2 ^ 32
    if 0 < ahead ∧ ahead < 2 ^ 31 then x :: y :: l else y :: insertPseq x l

/-- Parcels held for a queue and stream, oldest PSEQ first, with their pools. -/
def Aggregator.heldFor (a : Aggregator) (qid i : Nat) : List (Nat × HeldParcel) :=
  (a.ing.pools.flatMap fun e =>
    if qid ≠ 0 ∧ a.get (PH_CFG_HOST_Q e.1) = qid then (e.2.parcels.filter fun p => p.stream = i).map fun p => (e.1, p) else []).foldl
    (fun l x => insertPseq x l) []

/-- The parcels that fit, at most `n`. -/
def takeHeld : Nat → Nat → List (Nat × HeldParcel) → List (Nat × HeldParcel)
  | 0, _, _ => []
  | _, _, [] => []
  | n + 1, room, x :: l => if x.2.len ≤ room then x :: takeHeld n (room - x.2.len) l else []

/-- A parcel that was copied is freed. -/
def Aggregator.freeHeld (a : Aggregator) (qid : Nat) (x : Nat × HeldParcel) : Aggregator :=
  ((a.poolFree x.1 x.2.addr (ownerQueue qid)).2).modIng fun g =>
    { g with pools := tabMod g.pools x.1 fun p => { p with parcels := p.parcels.filter (· ≠ x.2) } }

def Aggregator.cmdReadTrace (a : Aggregator) (serial : Nat) (ok : Bool) : Aggregator :=
  a.startCmd serial ok (isOp opReadTrace) fun a c _ =>
    let w := le c.args 0 2
    let n := le c.args 2 2
    if 16384 ≤ w % 32768 then (.fail csInvalidField, a)
    else
      let held := a.heldFor c.qid (w % 32768 + if bit w 15 then 16384 else 0)
      let taken := takeHeld (if n = 0 then held.length else n) c.dlen held
      match held, taken with
      | x :: _, [] => (.done csTooSmall x.2.len [], a)
      | _, _ =>
        let (d, a1) := a.draw
        let next := match held.drop taken.length with
          | x :: _ => x.2.pseq
          | [] => (Config.nextPseq d).toNat
        let data := taken.flatMap fun x => if a1.poisoned x.2.addr x.2.len then [] else memBytes a1.mem x.2.addr x.2.len
        (.done csSuccess (taken.length + 2 ^ 32 * next) data,
          taken.foldl (fun (a : Aggregator) x => a.freeHeld c.qid x) a1)

/-! ### Arm Job and Retire Job (R437, R288) -/

def Aggregator.cmdArmJob (a : Aggregator) (serial : Nat) (ok : Bool) : Aggregator :=
  a.startCmd serial ok (isOp opArmJob) fun a c data =>
    if data.length ≠ c.dlen then (.fail csInvalidField, a) else a.armJob serial c.gtag c.job c.gen data

def Aggregator.cmdRetireJob (a : Aggregator) (serial : Nat) (ok : Bool) : Aggregator :=
  a.startCmd serial ok (isOp opRetireJob) fun a c _ => a.retireJob serial c.gtag c.job c.gen

/-! ### Commands that wait -/

/-- One die unit has answered an Arm Job (R437). -/
def Aggregator.armAnswer (a : Aggregator) (serial duid : Nat) (good : Bool) : Aggregator :=
  match a.command serial with
  | none => a
  | some c =>
    match c.wait with
    | .arm ctx left failed =>
      let a1 := if good then a else a.armFailed ctx duid
      let f := if good then failed else failed + 1
      if left ≤ 1 then
        let a1 := a1.armComplete ctx
        let st := match a1.job ctx with | some j => a1.diesStatus j.failed | none => csDieFailed
        a1.finish c (if f = 0 then csSuccess else st) f []
      else a1.setWait serial (.arm ctx (left - 1) f)
    | _ => a

/-- One die unit has answered a Retire Job, or its frame has failed: with the last one the drain begins (R288). -/
def Aggregator.retireAnswer (a : Aggregator) (serial : Nat) : Aggregator :=
  match a.command serial with
  | none => a
  | some c =>
    match c.wait with
    | .retire ctx left =>
      if left ≤ 1 then (a.setWait serial (.drain ctx)).beginDrain ctx else a.setWait serial (.retire ctx (left - 1))
    | _ => a

/-- RETIRE_DRAIN_EXPIRY of a context whose Retire Job waits for it; the command completes (R288 step 5). -/
def Aggregator.retireDrainExpiry (a : Aggregator) (ctx : Nat) : Aggregator :=
  match a.hif.commands.find? fun c => decide (c.wait = .drain ctx) with
  | none => a
  | some c =>
    let away : Bool := match a.job ctx with | some j => j.dieUnits.any a.byPartner | none => false
    match a.retireDrain ctx with
    | (true, a1) => a1.finish c (if away then csByPartner else csSuccess) 0 []
    | (false, a1) => a1

/-- A BROADCAST-ISSUE completes at the roll-up or at BC_DONE_WAIT, with the members that are missing (Table 15-10). -/
def Aggregator.settleRoll (a : Aggregator) (c : Command) : Aggregator :=
  match c.wait with
  | .roll ctx seq =>
    match (a.job ctx).bind fun j => (j.bcast seq).map fun b => (j, b) with
    | some (j, b) => if b.reported then a.finish c csSuccess (j.missingOf b).length [] else a
    | none => a
  | _ => a

/-- An ARMED-CHECK that waited for the end of an Arm Job is applied (Table 10-15). -/
def Aggregator.settleCheck (a : Aggregator) (ctx : Nat) (j : JobCtx) : Aggregator :=
  match j.bcast (j.applied + 1) with
  | some b => if b.bkind = bcArmedCheck ∧ j.state = .armed then a.applyReady ctx 257 else a
  | none => a

/-- What follows every event of the aggregator: a broadcast that has ended completes its command, a check that waited is made,
and management events go out. -/
def Aggregator.settle (a : Aggregator) : Aggregator :=
  let a1 := a.jobs.foldl (fun (a : Aggregator) e => a.settleCheck e.1 e.2) a
  (a1.hif.commands.foldl (fun (a : Aggregator) c => a.settleRoll c) a1).pumpEvents

end Sys2Proof.Machine
end

