-- ==== Sys2Proof/Machine/CtlEffects.lean ====
section
/-!
DEFINITION. What acknowledgements and failures of control frames bring about at the aggregator, and re-admission (R27, R265,
R271, R288, R409, R437).
-/
namespace Sys2Proof.Machine

/-- The job context, with the T_p, that a PEAL-ARM of a die unit serves. -/
def Aggregator.pealArmFailed (a : Aggregator) (duid tp : Nat) : Aggregator :=
  match a.jobs.find? fun e => match e.2.epoch tp with | some x => x.expected.contains duid | none => false with
  | some (ctx, _) => a.pealFailed ctx tp duid
  | none => a

/-- ARM has ended at a die unit: for the command that waits, or for a swap (R409). -/
def Aggregator.armEnded (a : Aggregator) (cmd : Option Nat) (duid : Nat) (good : Bool) : Aggregator :=
  match cmd.bind a.command with
  | some c => a.armAnswer c.serial duid good
  | none =>
    if good then a
    else match a.jobs.find? fun e => e.2.dieUnits.contains duid && e.2.swaps.any fun s => decide (s.inn = duid) with
      | some (ctx, _) => a.armFailed ctx duid
      | none => a

/-- RETIRE was not acknowledged: what waited to arm the die unit is not sent, and has failed (R288). -/
def Aggregator.armDropped (a : Aggregator) (k : Nat) : Aggregator :=
  let p := a.path k
  let arms := p.waiting.filter fun w => w.op = opArm
  arms.foldl (fun (a : Aggregator) w => a.armEnded w.cmd (a.duidOf k) false)
    (a.setPath k { p with waiting := p.waiting.filter fun w => decide (w.op ≠ opArm ∧ w.op ≠ opFpMap ∧ w.op ≠ opSelKey) })

/-- RETIRE has ended at a die unit: a die unit that a swap has put out leaves the job. -/
def Aggregator.retireEnded (a : Aggregator) (cmd : Option Nat) (duid : Nat) : Aggregator :=
  match cmd with
  | some serial => a.retireAnswer serial
  | none =>
    match a.jobs.find? fun e => e.2.swaps.any fun s => s.retired && decide (s.out = duid) with
    | some (ctx, _) => (a.modJob ctx fun j => { j with dieUnits := j.dieUnits.filter (· ≠ duid) }).mirrorJob ctx
    | none => a

/-- What follows the end of a control frame: a status, or none where every attempt is spent. -/
def Aggregator.ctlEnded (a : Aggregator) (k : Nat) (f : CtlOutFrame) (status : Option Nat) : Aggregator :=
  let duid := a.duidOf k
  match f.op with
  | 0x01 => a.armEnded f.cmd duid (decide (status = some ackOk))
  | 0x02 => (if status.isNone then a.armDropped k else a).retireEnded f.cmd duid
  | 0x03 => if status = some ackOk then a else a.pealArmFailed duid (be f.payload 8 10)
  | 0x09 => if status = some ackOk then a.releaseAt duid else a
  | _ => a

/-- CONTROL_ACK_RX. -/
def Aggregator.controlAckRx (a : Aggregator) (l : List Byte) : Aggregator :=
  if ¬ a.on ING_CTRL_EN then a
  else
    let (ok, a1) := a.frameCheck laneIngest l
    let b := l.drop 32
    if ¬ ok ∨ be l 1 1 ≠ ftControlAck then a1
    else match a1.regKey (duidOfSrc (be l 4 4)) with
      | none => a1
      | some k =>
        match a1.ackCtl k (be b 4 4) (be b 1 1) with
        | (some f, a2) => a2.ctlEnded k f (some (be b 1 1))
        | (none, a2) => a2

/-- CTL_RETRY of a frame to a die unit; the resends pause with the firmware services (R443). -/
def Aggregator.ctlRetry (a : Aggregator) (k cseq : Nat) : Aggregator :=
  if a.paused then a
  else match a.retryCtl k cseq with
    | (.unacked f, a1) => a1.ctlEnded k f none
    | (_, a1) => a1

/-- RE_ADMISSION at step S, of the home aggregator or of one die unit: as home, its die units are its own again; as partner,
READMIT goes to each that it serves (R27, R421). -/
def Aggregator.reAdmission (a : Aggregator) (step : Nat) (home : Bool) (only : Option Nat) : Aggregator :=
  let hit (l : Nat) : Bool := match only with | some d => decide (d % 256 = l) | none => true
  (List.range 256).foldl (fun (a : Aggregator) l =>
    if ¬ hit l then a
    else if home then
      -- in RESET-LOOP it stays out of service (R411)
      if ¬ a.hlt.loop ∧ a.on (REG_ENT_VALID l) ∧ a.get (REG_ENT_STATE l) = 3 then
        ((a.set (REG_ENT_STATE l) 1).setPath l { CtlPath.init with armed := a.armedOn (a.duidOf l) }).mirrorReg l
      else a
    else if a.servesKey (256 + l) then a.readmitKey step (256 + l) else a) a

end Sys2Proof.Machine
end

