-- ==== Sys2Proof/Machine/Mirror.lean ====
section
/-!
DEFINITION. The mirror link: sessions and full resync, the messages of Table 13-7 at the receiver, the resends, and the health
exchange of the partners (R23, R24, R331, R377 to R382, R421, R422).
-/
namespace Sys2Proof.Machine

abbrev mirDown : Nat := 0
abbrev mirResync : Nat := 1
abbrev mirProtected : Nat := 2
abbrev mirMismatch : Nat := 3

/-! ### What is sent in a full resync (R380; logs 84, 85) -/

/-- The two authors of a ledger: its home aggregator and the other of the pair. -/
def Aggregator.authors (a : Aggregator) (l : Ledger) : List Nat := [l.home, if l.home = a.id then a.partner else a.id]

/-- Payload of RESYNC-BEGIN: for each ledger the append counts of its two authors. -/
def Aggregator.beginPayload (a : Aggregator) : List Byte :=
  a.led.ledgers.flatMap fun l =>
    beBytes 4 l.job ++ beBytes 1 l.gen ++ zeros 3
      ++ (a.authors l).flatMap fun x => beBytes 2 x ++ zeros 6 ++ beBytes 8 (storeGet 0 l.counts x)

/-- The counts that a RESYNC-BEGIN names, for at most `n` ledgers; the first author is the ledger's home (log 85). -/
def readBegin : Nat → List Byte → List (Nat × Nat × Nat × List (Nat × Nat))
  | 0, _ => []
  | n + 1, l =>
    if l.length < 40 then []
    else (be l 0 4, be l 4 1, be l 8 2 % 4096, [(be l 8 2 % 4096, be l 16 8), (be l 24 2 % 4096, be l 32 8)]) :: readBegin n (l.drop 40)

/-- The image of an object that CONTEXT messages carry. -/
def Aggregator.contextImage (a : Aggregator) (kind i : Nat) : List Byte :=
  if kind = ckReg then a.wordsAt [addr_REG_ENT i, addr_HU_STAT i]
  else if kind = ckStream then a.wordsAt [addr_STC_CFG i, addr_STC_STAT i]
  else if kind = ckMeter then a.meterImage i
  else if i < 4096 then a.wordsAt [addr_NUM_W0 i, addr_NUM_W1 i, addr_NUM_W2 i, addr_NUM_W3 i]
  else a.wordsAt [addr_AUD_NUMSET (i - 4096)]

/-- A CONTEXT message of the present version of an object. -/
def Aggregator.resendContext (a : Aggregator) (kind i ver : Nat) : Aggregator :=
  let (n, a1) := a.draw
  let image := if kind = ckJob then Config.jobImage n else a.contextImage kind i
  a1.mirrorSend mkContext (beBytes 1 kind ++ zeros 3 ++ beBytes 4 i ++ beBytes 4 ver ++ zeros 4 ++ image)

/-- Every object with a version, job contexts first, so that a ledger finds its context. -/
def Aggregator.sendContexts (a : Aggregator) : Aggregator :=
  a.led.mir.versions.foldl (fun (a : Aggregator) e => a.resendContext (e.1 / 2 ^ 32) (e.1 % 2 ^ 32) e.2) a

/-- The append count of an author that the other side has named. -/
def Mirror.theirCount (m : Mirror) (l : Ledger) (author : Nat) : Nat :=
  match m.their.find? fun t => decide (t.1 = l.job ∧ t.2.1 = l.gen ∧ t.2.2.1 = l.home) with
  | some t => storeGet 0 t.2.2.2 author
  | none => 0

/-- The records that the other side lacks, by LSEQ. -/
def Aggregator.sendLacking (a : Aggregator) : Aggregator :=
  a.led.ledgers.foldl (fun (a : Aggregator) (l : Ledger) =>
    let rs : List LRec := l.recs.filter fun r => decide (a.led.mir.theirCount l r.author ≤ r.seq)
    (sortRecs rs).foldl (fun (a : Aggregator) r => a.mirrorSend mkLedger (ledgerPayload l.job l.gen [r])) a) a

def Aggregator.sendBegin (a : Aggregator) : Aggregator :=
  (a.modMir fun m => { m with beginSent := true }).mirrorSend mkResyncBegin a.beginPayload

/-- RESYNC-BEGIN has come: what the other side lacks goes out, then RESYNC-END. -/
def Aggregator.sendResync (a : Aggregator) : Aggregator :=
  let a1 := (a.sendContexts).sendLacking
  let a2 := a1.det.images.foldl (fun (a : Aggregator) e => a.mirrorImage e.2) a1
  let a3 := a2.mirrorSend mkResyncEnd []
  a3.modMir fun m => { m with endSent := some m.txSeq }

/-- A full resync begins at this side. -/
def Aggregator.beginResync (a : Aggregator) : Aggregator :=
  ((a.modMir fun m => { m with endSent := none, endRecv := false }).set MIR_STATUS_STATE mirResync).sendBegin

/-- Both RESYNC-ENDs are applied: the pair is protected (R24, R380). -/
def Aggregator.settleProtected (a : Aggregator) : Aggregator :=
  let ended : Bool := match a.led.mir.endSent with | some n => decide (n ≤ a.led.mir.acked) | none => false
  if ended ∧ a.led.mir.endRecv ∧ a.led.mir.up ∧ a.get MIR_STATUS_STATE = mirResync then
    (a.modMir fun m => { m with beginSent := false }).set MIR_STATUS_STATE mirProtected
  else a

/-! ### The link (R23, R24, R380) -/

/-- It is reported that this aggregator is unprotected (R24). -/
def Aggregator.reportUnprotected (a : Aggregator) : Aggregator := a.report "UNPROTECTED" [a.id]

/-- The kept messages are numbered from 1 in the new session, after the far end's last acknowledgement (log 83). -/
def Mirror.renumber (m : Mirror) (farAck mono : Nat) : Mirror :=
  let rest := m.log.filter fun x => decide (farAck < x.mseq)
  { m with log := rest.map fun x => { x with mseq := x.mseq - farAck, lastSent := mono }, txSeq := m.txSeq - farAck, rxSeq := 0,
           acked := 0, endSent := m.endSent.map fun n => n - farAck }

/-- The log holds every message since the far end's acknowledgement, of the same last session. -/
def Aggregator.canResume (a : Aggregator) (farSession farAck : Nat) : Bool :=
  let m := a.led.mir
  decide (0 < farSession ∧ farSession = a.get MIR_STATUS_SESSION ∧ farAck ≤ m.txSeq)
    && decide ((m.log.filter fun x => decide (farAck < x.mseq)).length = m.txSeq - farAck)

/-- MIRROR_LINK_UP: the far end's aggregator ID and failure-domain IDs, its last session, and what it had applied in it. -/
def Aggregator.mirrorLinkUp (a : Aggregator) (farId : Nat) (farDomains : List Nat) (farSession farAck : Nat) : Aggregator :=
  if ¬ a.hasPartner ∨ ¬ a.on MIR_CTRL_EN ∨ a.led.mir.up then a
  else if farId ≠ a.partner then
    (((a.modMir fun m => { m with mismatch := true }).set MIR_STATUS_STATE mirMismatch).report "PARTNER-MISMATCH"
      [a.partner, farId]).reportUnprotected
  else
    let shared := (List.range 3).any fun i => decide (a.cfg.domains.getD i 0 = farDomains.getD i 0)
    let resume := a.canResume farSession farAck
    let session := max (a.get MIR_STATUS_SESSION) farSession + 1
    let a1 := (a.modMir fun m =>
      { m with mismatch := false, coLocated := shared, up := true, lastHealthRx := a.mono, lostSent := false }).set
        MIR_STATUS_SESSION session
    let a2 := if shared then a1.report "CO-LOCATED" [a.partner] else a1
    if resume then
      let a3 := (a2.modMir fun m => m.renumber farAck a.mono).set MIR_STATUS_STATE mirResync
      (a3.led.mir.log.foldl (fun (a : Aggregator) x => a.mirrorFrame x.kind x.mseq true x.payload) a3).settleProtected
    else
      (a2.modMir fun m => { m with log := [], txSeq := 0, rxSeq := 0, acked := 0 }).beginResync

/-- MIRROR_LINK_DOWN. -/
def Aggregator.mirrorLinkDown (a : Aggregator) : Aggregator :=
  if ¬ a.led.mir.up then a
  else
    let a1 := ((a.modMir fun m => { m with up := false }).set MIR_STATUS_STATE mirDown).reportUnprotected
    if a1.inFailover then a1.takeover.resetCaptures else a1

/-! ### Receiving (R378) -/

/-- Messages up to a number are acknowledged. -/
def Aggregator.mirrorAcked (a : Aggregator) (n : Nat) : Aggregator :=
  (a.modMir fun m => { m with log := m.log.filter fun x => decide (n < x.mseq), acked := max m.acked n }).settleProtected

/-- A MIRROR frame of a row's kinds: checked, its acknowledgement taken, and its message applied where it is the next one. A
gap asks for what is missing; a message seen before is acknowledged again. -/
def Aggregator.mirrorRx (a : Aggregator) (l : List Byte) (kinds : Nat → Bool) (apply : Aggregator → List Byte → Aggregator) :
    Aggregator :=
  let b := l.drop 32
  if ¬ a.led.mir.up ∨ ¬ kinds (be b 0 1) then a
  else
    let (ok, a1) := a.frameCheck laneMirror l
    if ¬ ok ∨ be b 4 4 ≠ a.get MIR_STATUS_SESSION then a1
    else
      let a2 := a1.mirrorAcked (be b 16 8)
      let n := be b 8 8
      let next := a2.led.mir.rxSeq + 1
      if be b 0 1 = mkAck then a2
      else if n < next then a2.mirrorFrame mkAck 0 false []
      else if n = next then
        (apply (a2.modMir fun m => { m with rxSeq := n }) (slice b 32 (be b 24 4))).mirrorFrame mkAck 0 false []
      else a2.mirrorSend mkResyncReq (beBytes 8 next)

/-! ### LEDGER messages (R364, R377, R382) -/

/-- The aggregator whose job a record is of: its author, or the author's partner where it was appended in failover. -/
def Aggregator.homeOf (a : Aggregator) (r : LRec) : Nat :=
  if bit r.flags 1 then (if r.author = a.id then a.partner else a.id) else r.author

/-- FLAGS[7], split seal, in the body of a summary. -/
def markSplit (r : LRec) : LRec := { r with body := patch r.body 88 (leBytes 4 (setBits (le r.body 88 4) 7 7 1)) }

/-- A summary that arrives: the step is sealed here too, or its seal is split. -/
def Ledger.takeSummary (l : Ledger) (r : LRec) : Ledger :=
  if l.isSealed r.step then
    let recs := l.recs.map fun (x : LRec) => if x.kind = lkSummary ∧ x.step = r.step then markSplit x else x
    Ledger.modStep { l with recs := recs } r.step fun s => { s with split := true }
  else l.modStep r.step fun s => { s with sealedNs := some (le r.body 0 8), forced := bit (le r.body 88 4) 0 }

/-- A record joins the copy, unless it is held or has gone to storage. -/
def Aggregator.takeRec (a : Aggregator) (job gen : Nat) (r : LRec) : Aggregator :=
  let home := a.homeOf r
  let a1 := a.openLedger job gen home
  match a1.ledger job gen home with
  | none => a1
  | some l =>
    if l.recs.any (fun x => x.lseq = r.lseq) ∨ ((l.stepState r.step).spilled ∧ r.seq < storeGet 0 l.counts r.author) then a1
    else
      let a2 := a1.makeRoom job gen home r (l.steps.length + 1)
      (a2.modLedger job gen home fun l =>
        let l1 : Ledger := if r.kind = lkSummary then l.takeSummary r else l
        { l1 with recs := l1.recs ++ [if r.kind = lkSummary ∧ l.isSealed r.step then markSplit r else r],
                  counts := storeSet 0 l1.counts r.author (max (storeGet 0 l1.counts r.author) (r.seq + 1)),
                  mapVer := if r.kind = lkFpMap ∧ r.author = a.id then max l1.mapVer (le r.body 0 4) else l1.mapVer,
                  maps := if r.kind = lkFpMap then l1.maps ++ [r] else l1.maps }).showOcc

def Aggregator.takeLedger (a : Aggregator) (p : List Byte) : Aggregator :=
  (readLRecs p.length (p.drop 8)).foldl (fun (a : Aggregator) r => a.takeRec (be p 0 4) (be p 4 1) r) a

/-! ### CONTEXT and IMAGE messages (R223, R331, R377, R421) -/

/-- The index here of an object that the partner names: own and mirror parts change places (log 84). -/
def contextHere (kind i : Nat) : Nat :=
  let swap (n : Nat) : Nat := if i < n then n + i else i - n
  if kind = ckJob then swap 1024
  else if kind = ckReg then swap 256
  else if kind = ckStream ∨ kind = ckMeter then swap 16384
  else if i < 4096 then i
  else if i < 4096 + 256 then i + 256 else i - 256

/-- A registration entry from the partner: a home die unit that the partner serves is shown as such, with a notice where it
was served here (R421). -/
def Aggregator.takeReg (a : Aggregator) (k : Nat) (w hu : W64) : Aggregator :=
  let valid := bit w.toNat 63
  let st := bits w.toNat 62 60
  let old := a.get (REG_ENT_STATE k)
  let new := if ¬ valid then 0 else if k < 256 then (if st = 2 then 3 else 1) else if old = 2 then 2 else 1
  let a1 := ((a.setWord (addr_REG_ENT k) w).set (REG_ENT_STATE k) new).setWord (addr_HU_STAT k) hu
  if k < 256 ∧ new = 3 ∧ old = 1 then a1.unitNotice 0x0E k 0 a.partner else a1

/-- A job context from the partner. While this aggregator serves the job, what has happened in it here stays. -/
def Aggregator.takeJob (a : Aggregator) (c : Nat) (img : JobImage) : Aggregator :=
  let serving := decide (c < 1024) || a.inFailover
  let old := (a.job c).bind fun o => match img.job with
    | some j => if serving ∧ o.job = j.job ∧ o.gen = j.gen then some o else none
    | none => none
  let a1 : Aggregator := match img.job, old with
    | none, _ => { a with jobs := tabDel a.jobs c }
    | some j, none => { a with jobs := tabPut a.jobs c j }
    | some j, some o =>
      { a with jobs := tabPut a.jobs c { j with dies := o.dies, epochs := o.epochs, ring := o.ring, gone := o.gone, taken := o.taken, parts := o.parts,
                                                standIn := o.standIn, ups := o.ups, horizon := o.horizon, reachedTo := o.reachedTo,
                                                tainted := o.tainted || j.tainted, firstTaint := min o.firstTaint j.firstTaint,
                                                bcasts := o.bcasts, applied := o.applied, bparts := o.bparts,
                                                gapSince := o.gapSince, reservedBc := o.reservedBc, oldNak := o.oldNak,
                                                heard := o.heard, lost := o.lost, hbSent := o.hbSent } }
  let a2 := a1.modMir fun m => { m with binds := if img.job.isSome then tabPut m.binds c img.binds else tabDel m.binds c }
  if c < 1024 then (a2.setWord (addr_LJ_REF0 c) img.ref0).setWord (addr_LJ_REF1 c) img.ref1
  else a2.modMir fun m => { m with refs := if img.job.isSome then tabPut m.refs c (img.ref0, img.ref1) else tabDel m.refs c }

/-- Instances of a context that bindings name start, empty, where their image is held and R325 admits them. -/
def Aggregator.startBinds (a : Aggregator) (c : Nat) (binds : List MirrorBind) : Aggregator :=
  binds.foldl (fun (a : Aggregator) b =>
    if a.det.instances.any fun e => decide (e.2.ctx = c ∧ e.2.bind = b.bind) then a
    else match a.det.images.find? fun e => e.2.id = b.image with
      | none => a
      | some (slot, m) =>
        if (List.range 64).any fun k => bit b.cores k && !a.corePresent k then a
        else match a.bindPlan c slot b.bind b.cores m with
          | some (n, i) => a.installInst n { i with params := if b.params = [] then i.params else b.params } m
          | none => a) a

/-- Instances of the contexts that are served here start: own ones after a reload, mirrored ones in failover (R331). -/
def Aggregator.startMirrored (a : Aggregator) : Aggregator :=
  a.led.mir.binds.foldl (fun (a : Aggregator) e =>
    if e.1 < 1024 ∨ a.inFailover then a.startBinds e.1 e.2 else a) a

/-- Failover is over: the mirrored instances end, and no position of the partner's is taken any more. -/
def Aggregator.stopMirrored (a : Aggregator) : Aggregator :=
  (a.det.instances.filter fun e => decide (1024 ≤ e.2.ctx)).foldl (fun (a : Aggregator) e => a.removeInst e.1)
    { a with jobs := a.jobs.map fun e => (e.1, { e.2 with standIn := none }) }

/-- Words that a CONTEXT message carries. -/
def ctxWord (p : List Byte) (i : Nat) : W64 := BitVec.ofNat 64 (be p (16 + 8 * i) 8)

/-- A CONTEXT message: an object that is newer than the one here takes its place. -/
def Aggregator.takeContext (a : Aggregator) (img : JobImage) (p : List Byte) : Aggregator :=
  let kind := be p 0 1
  let i := be p 4 4
  let k := contextHere kind i
  let key := kind * 2 ^ 32 + k
  let bound := if kind = ckJob then 2048 else if kind = ckReg then 512 else if kind = ckNumerics then 4096 + 512 else 32768
  if kind < ckJob ∨ ckNumerics < kind ∨ bound ≤ i ∨ be p 8 4 ≤ storeGet 0 a.led.mir.versions key then a
  else
    let a1 := a.modMir fun m => { m with versions := storeSet 0 m.versions key (be p 8 4) }
    if kind = ckJob then (a1.takeJob k img).startMirrored
    else if kind = ckReg then a1.takeReg k (ctxWord p 0) (ctxWord p 1)
    else if kind = ckStream then (a1.setWord (addr_STC_CFG k) (ctxWord p 0)).setWord (addr_STC_STAT k) (ctxWord p 1)
    else if kind = ckMeter then
      (((a1.writeMeter k 0 (ctxWord p 0).toNat).writeMeter k 1 (ctxWord p 1).toNat).setWord (addr_MTR_CNT_GY k)
        (ctxWord p 2)).setWord (addr_MTR_CNT_R k) (ctxWord p 3)
    else if k < 4096 then
      (((a1.setWord (addr_NUM_W0 k) (ctxWord p 0)).setWord (addr_NUM_W1 k) (ctxWord p 1)).setWord (addr_NUM_W2 k)
        (ctxWord p 2)).setWord (addr_NUM_W3 k) (ctxWord p 3)
    else a1.setWord (addr_AUD_NUMSET (k - 4096)) (ctxWord p 0)

/-- The bytes of an image, where every segment of it is in: its length stands in its header. -/
def imageWhole (segs : List (Nat × Nat × List Byte)) (id : Nat) : Option (List Byte) :=
  let mine := segs.filter fun s => s.1 = id
  let at_ (n : Nat) : Option (List Byte) := (mine.find? fun s => decide (s.2.1 ≤ n ∧ n < s.2.1 + s.2.2.length)).map fun s =>
    s.2.2.drop (n - s.2.1)
  let bytes := (List.range mine.length).foldl (fun (l : List Byte) _ =>
    match at_ l.length with | some s => l ++ s | none => l) []
  let len := le bytes 120 8 + 64
  if 256 ≤ bytes.length ∧ len ≤ bytes.length then some (bytes.take len) else none

/-- An IMAGE message: a segment is kept; a whole image goes into the detector-image region and a slot. -/
def Aggregator.takeImage (a : Aggregator) (p : List Byte) : Aggregator :=
  let id := be p 0 8
  let seg := (id, be p 8 8, p.drop 16)
  let segs := (a.led.mir.images.filter fun s => !decide (s.1 = id ∧ s.2.1 = seg.2.1)) ++ [seg]
  let keep := a.modMir fun m => { m with images := segs }
  if a.det.images.any fun e => e.2.id = id then a
  else match imageWhole segs id, a.regionOf rgnImage, firstBelow 64 fun s => (a.image s).isNone with
    | some bytes, some r, some slot =>
      match firstFit (a.det.images.map fun e => (e.2.addr, e.2.bytes.length)) (a.get (HBM_RGN_BASE_BASE r))
          (a.get (HBM_RGN_LIM_LIMIT r) + 1) bytes.length with
      | some addr =>
        let a1 := a.modMir fun m => { m with images := segs.filter fun s => decide (s.1 ≠ id) }
        ((a1.poke addr bytes).modDet fun d =>
          { d with images := tabPut d.images slot ⟨addr, bytes⟩ }).startMirrored
      | none => keep
    | _, _, _ => keep

/-! ### The other messages -/

/-- SPILLED: the copy of the part is freed (R382, R385). The message names no home: it means the ledger of the partner's own job where
one is held here (log 85). -/
def Aggregator.takeSpilled (a : Aggregator) (p : List Byte) : Aggregator :=
  let job := be p 0 4
  let gen := be p 4 1
  let step := be p 6 6
  let part := be p 12 2
  let home := if (a.ledger job gen a.partner).isSome then a.partner else a.id
  ((a.modLedger job gen home fun l => l.modStep step fun s =>
    { s with spilled := true, parts := max s.parts (part + 1), writing := none, freeing := some false,
             wrote := (l.recs.filter fun r => decide (r.step = step) && (r.late == decide (0 < part))).map LRec.lseq }).freeStep job
      gen home step).dropLedger job gen home

/-- RESYNC-REQ: the messages from a number on are sent again, or a full resync begins. -/
def Aggregator.takeResyncReq (a : Aggregator) (p : List Byte) : Aggregator :=
  let n := be p 0 8
  let rest := a.led.mir.log.filter fun x => decide (n ≤ x.mseq)
  if n = 0 ∨ rest.length ≠ a.led.mir.txSeq + 1 - n then a.beginResync
  else
    let a1 := a.modMir fun m => { m with log := m.log.map fun x => if n ≤ x.mseq then { x with lastSent := a.mono } else x }
    rest.foldl (fun (a : Aggregator) x => a.mirrorFrame x.kind x.mseq true x.payload) a1

/-- RESYNC-BEGIN: it is answered in kind, then by everything that the other side lacks. -/
def Aggregator.takeBegin (a : Aggregator) (p : List Byte) : Aggregator :=
  let a1 := if a.led.mir.beginSent then a else a.beginResync
  (a1.modMir fun m => { m with their := readBegin (p.length / 40) p, endRecv := false }).sendResync

/-- RESYNC-END: append counts that the other side holds are never used again here (R364). -/
def Aggregator.takeEnd (a : Aggregator) : Aggregator :=
  let a1 := a.led.mir.their.foldl (fun (a : Aggregator) t =>
    a.modLedger t.1 t.2.1 t.2.2.1 fun l =>
      { l with counts := t.2.2.2.foldl (fun c p => storeSet 0 c p.1 (max (storeGet 0 c p.1) p.2)) l.counts }) a
  (a1.modMir fun m => { m with endRecv := true, their := [] }).settleProtected

/-- The 24-byte HEALTH payload (Table 14-9). -/
def Aggregator.healthPayload (a : Aggregator) : List Byte :=
  beBytes 2 a.id ++ beBytes 1 a.beaconState
    ++ beBytes 1 (b2n (a.on HLT_STATUS_ADVISORY) + 2 * b2n a.hlt.resetPending.isSome + 4 * b2n a.hlt.loop)
    ++ beBytes 2 (a.unitScore chipUnit) ++ beBytes 1 a.coresPresent ++ beBytes 1 a.xdesInMask
    ++ beBytes 2 (a.get HLT_BUDGET_GRANT) ++ zeros 2 ++ a.mark ++ zeros 2

/-! ### The rows -/

def Aggregator.mirrorLedgerRx (a : Aggregator) (l : List Byte) : Aggregator :=
  a.mirrorRx l (fun k => decide (k = mkLedger)) Aggregator.takeLedger
def Aggregator.mirrorContextRx (a : Aggregator) (l : List Byte) (img : JobImage) : Aggregator :=
  a.mirrorRx l (fun k => decide (k = mkContext)) fun a p => a.takeContext img p
def Aggregator.mirrorImageRx (a : Aggregator) (l : List Byte) : Aggregator :=
  a.mirrorRx l (fun k => decide (k = mkImage)) Aggregator.takeImage
def Aggregator.mirrorAckRx (a : Aggregator) (l : List Byte) : Aggregator :=
  a.mirrorRx l (fun k => decide (k = mkAck)) fun a _ => a
def Aggregator.mirrorSpilledRx (a : Aggregator) (l : List Byte) : Aggregator :=
  a.mirrorRx l (fun k => decide (k = mkSpilled)) Aggregator.takeSpilled
def Aggregator.resyncReqRx (a : Aggregator) (l : List Byte) : Aggregator :=
  a.mirrorRx l (fun k => decide (k = mkResyncReq)) Aggregator.takeResyncReq
def Aggregator.resyncBeginRx (a : Aggregator) (l : List Byte) : Aggregator :=
  a.mirrorRx l (fun k => decide (k = mkResyncBegin)) Aggregator.takeBegin
def Aggregator.resyncEndRx (a : Aggregator) (l : List Byte) : Aggregator :=
  a.mirrorRx l (fun k => decide (k = mkResyncEnd)) fun a _ => a.takeEnd
def Aggregator.partnerHealthRx (a : Aggregator) (l : List Byte) : Aggregator :=
  a.mirrorRx l (fun k => decide (k = mkHealth)) fun a p =>
    a.modMir fun m => { m with partnerHealth := p, lastHealthRx := a.mono, lostSent := false }
def Aggregator.mirrorReservedRx (a : Aggregator) (l : List Byte) : Aggregator :=
  a.mirrorRx l (fun k => decide (k = 0 ∨ mkHealth < k)) fun a _ => a.modMir fun m => { m with reserved := m.reserved + 1 }

/-- MIRROR_RETRY of a message that is not acknowledged. -/
def Aggregator.mirrorRetry (a : Aggregator) (mseq : Nat) : Aggregator :=
  match a.led.mir.log.find? fun x => x.mseq = mseq with
  | none => a
  | some x =>
    if ¬ a.led.mir.up ∨ a.mono < x.lastSent + atLeast1 (a.get MIR_CTRL_MIRROR_RETRY) * 1000 then a
    else
      (a.modMir fun m =>
        { m with log := m.log.map fun y => if y.mseq = mseq then { y with lastSent := a.mono } else y }).mirrorFrame x.kind mseq
          true x.payload

/-- PARTNER_HEALTH_TX: every 1 ms. -/
def Aggregator.partnerHealthTx (a : Aggregator) : Aggregator :=
  if ¬ a.led.mir.up ∨ a.mono < a.led.mir.lastHealthTx + 1000000 then a
  else (a.modMir fun m => { m with lastHealthTx := a.mono }).mirrorSend mkHealth a.healthPayload

/-- PARTNER_LOST: 5 ms without a HEALTH message while the lanes are up. -/
def Aggregator.partnerLost (a : Aggregator) : Aggregator :=
  let m := a.led.mir
  if ¬ m.up ∨ m.lostSent ∨ a.mono < m.lastHealthRx + 5000000 then a
  else ((a.modMir fun m => { m with lostSent := true }).raise HLT_STATUS_PARTNER_LOST).unitNotice 0x0B chipUnit 0 a.partner

/-- FAILOVER_REQUEST_RX with what a failover that begins brings: captures lost with the home aggregator, thresholds, instances
(R310, R317, R331). -/
def Aggregator.failoverRx (a : Aggregator) (mac : Nat) (l : List Byte) : Aggregator :=
  let a1 := a.failoverRequestRx mac l
  if ¬ a1.inFailover then a1
  else if a.inFailover then
    (a1.servedKeys.filter fun k => !a.servesKey k).foldl (fun (a : Aggregator) k => a.rewriteDie (a.duidOf k)) a1
  else ((if a.led.mir.up then a1 else a1.resetCaptures).rewriteThr).startMirrored

end Sys2Proof.Machine
end

