-- ==== Sys2Proof/Machine/AggReset.lean ====
section
/-!
DEFINITION. The resets and the start-up of the aggregator, its supply warnings, and the flushes of its recorder (R410, R411,
R441, R474, R476 to R479, R482 to R488).
-/
namespace Sys2Proof.Machine

/-! ### Flushes (R486 to R488) -/

/-- A flush starts, where none runs and its bank is ready; the bank is then in use. -/
def Aggregator.flushWith (a : Aggregator) (f : RecView → RecView) : Aggregator :=
  if a.recd.flush.isSome ∨ ¬ a.on (REC_STATUS_BANK_READY.onPage 0x3) then a
  else
    let a1 := a.withRec (f a.recView)
    if a1.recd.flush.isSome then a1.set (REC_STATUS_BANK_READY.onPage 0x3) 0 else a1

/-- FAULT_FLUSH_START and QUEUED_FLUSH_START on the aggregator. -/
def Aggregator.faultFlush (a : Aggregator) : Aggregator := a.flushWith RecView.beginFault
def Aggregator.queuedFlush (a : Aggregator) : Aggregator := a.flushWith RecView.beginQueued

/-- No flush runs any more: the bank of the next one is erased. -/
def Aggregator.settleFlush (old a : Aggregator) : Aggregator :=
  if old.recd.flush.isSome ∧ a.recd.flush.isNone then { a with erasing := true } else a

/-- A page of 256 bytes holds four slots. -/
def RecView.pageDone (v : RecView) : RecView := (List.range 4).foldl (fun (v : RecView) _ => v.slotDone) v

/-- AGG_FLUSH_PAGE_DONE. -/
def Aggregator.flushPageDone (a : Aggregator) : Aggregator :=
  if a.recd.flush.isNone then a else Aggregator.settleFlush a (a.withRec a.recView.pageDone)

/-- The words of the bank read as erased flash. -/
def Recorder.eraseBank (c : Recorder) (bank : Nat) : Recorder :=
  let ones : List (Nat × W64) := (List.range bankWords).map fun i => (bank * bankWords + i, 0xFFFFFFFFFFFFFFFF)
  let rest : List (Nat × W64) := c.area.filter fun e => decide (e.1 / bankWords ≠ bank)
  { c with area := if bank = 0 then ones ++ rest else rest ++ ones }

/-- BANK_ERASE_DONE; an erase is suspended while flash writes are stopped. -/
def Aggregator.bankErased (a : Aggregator) : Aggregator :=
  if ¬ a.erasing ∨ a.recd.flush.isSome ∨ a.on PWR_SAG_WRITES_STOPPED then a
  else { a.modRec (fun c => c.eraseBank c.targetBank) with erasing := false }.set (REC_STATUS_BANK_READY.onPage 0x3) 1

/-! ### Supply (R479, R482, R488) -/

/-- AGG_SUPPLY_WARN: PWR_WARN_N counts. -/
def Aggregator.supplyWarn (a : Aggregator) : Aggregator :=
  if a.on PWR_SAG_WARN_NOW then a
  else
    let a1 := (a.set PWR_SAG_WARN_NOW 1).inc PWR_SAG_WARN_N
    let a2 := (a1.withRec (a1.recView.writeAll.recordSupply rcSupplyWarn).writeAll).set PWR_SAG_WRITES_STOPPED 1
    let a3 := if a2.on (REC_STATUS_BANK_READY.onPage 0x3) then a2.flushWith fun v => v.startFlush causePower
      else a2.withRec (a2.recView.raise REC_STATUS_NOT_READY)
    (a3.announceReset causeSupply reasonOther).shedLoad

/-- AGG_SUPPLY_CRIT: the page in progress is the last of the flush. -/
def Aggregator.supplyCrit (a : Aggregator) : Aggregator :=
  if a.on PWR_SAG_CRIT_NOW then a
  else
    let a1 := (a.set PWR_SAG_CRIT_NOW 1).inc PWR_SAG_CRIT_N
    let a2 := if a1.recd.flush.isNone then a1
      else Aggregator.settleFlush a1 (a1.withRec a1.recView.pageDone.abandonFlush)
    a2.withRec (a2.recView.writeAll.recordSupply rcSupplyCrit).writeAll

/-- SUPPLY_OK: a warning level, PWR_CRIT_N where `crit`, has been deasserted for 1 ms. -/
def Aggregator.supplyOk (a : Aggregator) (crit : Bool) : Aggregator :=
  let f := if crit then PWR_SAG_CRIT_NOW else PWR_SAG_WARN_NOW
  if ¬ a.on f then a
  else
    let a1 := a.set f 0
    a1.withRec (a1.recView.recordSupply rcSupplyOk)

/-! ### Power-on and chip reset (R410, R474, Table 17-2) -/

/-- AGG_POWER_ON: POR_N deasserts. Only the flash keeps its contents: the firmware slots, and the banks of the recorder. `slots`:
what the firmware slots hold, and ACTIVE_SLOT, where the flash was programmed outside this model (log 87). -/
def Aggregator.powerOn (a : Aggregator) (slots : Option (Option FwSlot × Option FwSlot × Nat)) : Aggregator :=
  let (s0, s1, act) := slots.getD (a.hif.fw0, a.hif.fw1, a.hif.fwActive)
  let h : HostIf := { HostIf.init with fw0 := s0, fw1 := s1, fwActive := act }
  let a1 : Aggregator := { Aggregator.blank with free := a.free, host := a.host, out := a.out, ptpOut := a.ptpOut, hif := h,
                                                 recd := { Recorder.init with area := a.recd.area } }
  a1.withRec a1.recView.powerOn

/-- Chip resets within the last hour. -/
def Aggregator.resetsInHour (a : Aggregator) : Nat :=
  (a.hlt.resets.filter fun t => decide (a.nowNs < t + 3600000000000)).length

/-- Registers that a chip reset keeps: the time unit, the recorder, the reset log and the port roles (Table 17-2, R471). -/
def keptByReset (key : Nat) : Bool :=
  let p := pageOf key
  decide (p = 0x1 ∨ p = 0x3 ∨ p = 0x4) || (decide (p = 0x2) && (List.range 18).any fun i => decide (key = addr_PS_CFG i))

/-- Every domain but TIME, RECORDER and the reset log is reset. What has been sent stays sent. -/
def Aggregator.resetChipNow (a : Aggregator) (code : Nat) : Aggregator :=
  let h : HostIf := { HostIf.init with fw0 := a.hif.fw0, fw1 := a.hif.fw1, fwActive := a.hif.fwActive, serial := a.hif.serial,
                                       oob := a.hif.oob, msix := a.hif.msix, mctp := a.hif.mctp }
  let toc : Store TocMac := (a.toc.filter fun e => !e.2.sent.isEmpty).map fun e => (e.1, { TocMac.init with sent := e.2.sent })
  let resets := (a.hlt.resets.filter fun t => decide (a.nowNs < t + 3600000000000)) ++ [a.nowNs]
  let b : Aggregator :=
    { Aggregator.blank with regs := ⟨.agg, a.regs.words.filter fun e => keptByReset e.1⟩, tc := a.tc, free := a.free,
                            host := a.host, recd := a.recd, temp := a.temp, mv := a.mv, toc := toc, out := a.out, ptpOut := a.ptpOut,
                            syncAt := a.syncAt, annAt := a.annAt, refOut := a.refOut, erasing := a.erasing, boot := .owed true, hif := h }
  let b1 := (b.modHlt fun x => { x with resets := resets, loop := decide (3 ≤ resets.length) }).modPwr fun p =>
    { p with thermtrip := a.pwr.thermtrip, hot := a.pwr.hot }
  let b2 := b1.modLed fun u => { u with storage := a.led.storage }
  (((b2.set RST_LOG_LAST_CAUSE code).set RST_LOG_RESETS_1H (min 255 resets.length)).inc RST_LOG_RESETS_N).set PWR_SAG_WRITES_STOPPED 0

/-- Both copies of CHIP-RESET have left every segment. -/
def Aggregator.announced (a : Aggregator) : Bool :=
  a.toc.all fun e => e.2.queue.all fun f => decide (f.type ≠ tocChipReset)

/-- CHIP_RESET_BEGIN: after both copies have left, or 200 µs after the cause; by a supply warning once the warning is gone and
the flush has ended. Outstanding commands are aborted, the reset is recorded (R410, R441, R473, R488). -/
def Aggregator.resetBegin (a : Aggregator) : Aggregator :=
  match a.hlt.resetPending with
  | none => a
  | some (code, _, t) =>
    let supply := decide (code = causeSupply) && (a.on PWR_SAG_WARN_NOW || a.recd.flush.isSome)
    if (¬ a.announced ∧ a.mono < t + 200000) ∨ supply then a
    else
      let a1 := a.abortCommands (fun _ => true) true
      let a2 := a1.record rcReset (leBytes 1 0x04 ++ zeros 1 ++ leBytes 2 code)
      a2.resetChipNow code

/-! ### Boot (R476 to R478, Tables 17-5, 17-6) -/

/-- A region of the configuration stands in the HBM window, aligned to 4 KiB (R247). -/
def RegionCfg.ok (r : RegionCfg) : Bool :=
  decide (hbmBase ≤ r.base ∧ r.base ≤ r.limit ∧ r.limit < hbmEnd) && decide (r.base % 4096 = 0 ∧ (r.limit + 1) % 4096 = 0)

def regionsApart : List RegionCfg → Bool
  | [] => true
  | r :: l => l.all (fun x => decide (r.limit < x.base ∨ x.limit < r.base)) && regionsApart l

/-- The configuration copy that stage 3 takes, with its number. -/
def FlashImage.chosen (i : FlashImage) : Option (Nat × FlashConfig) :=
  match (if i.wantB then i.copyB else i.copyA), i.copyA, i.copyB with
  | some c, _, _ => some (b2n i.wantB, c)
  | none, some c, none => some (0, c)
  | none, none, some c => some (1, c)
  | none, some x, some y => if x.version < y.version then some (1, y) else some (0, x)
  | none, none, none => none

/-- The slot that stage 4 starts, and whether it is the fallback. -/
def HostIf.startSlot (h : HostIf) : Option (Nat × Bool) :=
  if h.fwValid h.fwActive then some (h.fwActive, false)
  else if h.fwValid (1 - h.fwActive) then some (1 - h.fwActive, true) else none

/-- The outcome of a stage stands in BOOT_STATUS. -/
def Aggregator.bootStage (a : Aggregator) (n result : Nat) : Aggregator := (a.set BOOT_STATUS_STAGE n).set BOOT_STATUS_RESULT result

/-- A BOOT record of the present stage (Table 17-9; log 87). -/
def Aggregator.bootRecord (a : Aggregator) : Aggregator :=
  a.record rcBoot (leBytes 1 (a.get BOOT_STATUS_STAGE) ++ leBytes 1 (a.get BOOT_STATUS_RESULT) ++ zeros 2
    ++ leBytes 4 (a.get BOOT_STATUS_CFG_VERSION) ++ leBytes 8 (fwVersionOf (a.hif.fwSlot a.hif.fwActive)))

/-- Boot stops: the OOB port alone is served. -/
def Aggregator.bootStop (a : Aggregator) (n result : Nat) : Aggregator :=
  { (a.bootStage n result).bootRecord with boot := .stopped }

/-- The configuration's registers (Table 17-5). -/
def Aggregator.applyConfig (a : Aggregator) (copy : Nat) (c : FlashConfig) : Aggregator :=
  let a1 := ((((a.set BOOT_STATUS_CFG_COPY copy).set BOOT_STATUS_CFG_VERSION c.version).set CHIP_IDENT_AGG_ID c.aggId).set
    PWR_CAP_CAP_W c.capW).set CHIP_CORE_PRESENT_PRESENT c.cores
  let a2 := (List.range 16).foldl (fun (a : Aggregator) i =>
    match c.regions[i]? with
    | some r => ((a.setWord (addr_HBM_RGN_BASE i) (BitVec.ofNat 64 r.base)).setWord (addr_HBM_RGN_LIM i)
        (BitVec.ofNat 64 r.limit)).setWord (addr_HBM_RGN_ATTR i) (BitVec.ofNat 64 r.attr)
    | none => a) (a1.set AUD_XDE_MASK c.xdeMask)
  let a3 := c.numerics.foldl (fun (a : Aggregator) e =>
    if e.1 < 4096 then
      a.setWord (match e.1 % 4 with
        | 0 => addr_NUM_W0 (e.1 / 4)
        | 1 => addr_NUM_W1 (e.1 / 4)
        | 2 => addr_NUM_W2 (e.1 / 4)
        | _ => addr_NUM_W3 (e.1 / 4)) e.2
    else a.setWord (addr_AUD_NUMSET (e.1 - 4096)) e.2) a2
  -- the time unit is started after power-on, and left running through a chip reset (Table 17-6)
  let domain (f : Fld) (n : Nat) (a : Aggregator) : Aggregator :=
    if a.boot = .owed false ∧ n ≤ 127 then a.set (f.onPage 0x1) n else a
  let a3b := domain TC_CTRL_RED_DOMAIN c.redDomain (domain TC_CTRL_PRI_DOMAIN c.priDomain a3)
  let a4 := c.ports.foldl (fun (a : Aggregator) e => a.setWord (addr_PS_CFG e.1) (BitVec.ofNat 64 e.2)) a3b
  -- the aggregator's node of every tocsin segment has address 0 (R226)
  let a5 := (List.range 16).foldl (fun (a : Aggregator) k => a.set (TOC_CTRL_NODE.onPage (0x20 + k)) 0) a4
  { a5.set DET_KEYS_KEY_VALID (c.detKeys.foldl (fun n e => if e.1 < 8 then n ||| 2 ^ e.1 else n) 0) with cfg := c }

/-- Stage 8: ready. With no partner or no mirror link it is unprotected, and reports so (R24). After a chip reset the ready notice goes out, lost completions are shown, and a third reset within the hour
keeps the aggregator out of service (R411, R441, R487). -/
def Aggregator.bootReady (a : Aggregator) (chip : Bool) : Aggregator :=
  let a0 := { (a.bootStage 8 0).bootRecord with boot := .ready }
  let a1 := if a0.hasPartner ∧ a0.led.mir.up then a0 else a0.reportUnprotected
  if ¬ chip then a1
  else
    let cause := a1.get RST_LOG_LAST_CAUSE
    let n := a1.resetsInHour
    let a2 := (a1.set HLT_CNT1_RESETS_1H n).unitNotice 0x0A chipUnit cause n
    let a3 := if cause = 0 then a2 else a2.raise HI_STATUS_RESET_LOST
    if a3.hlt.loop then
      let a4 := (a3.raise HLT_STATUS_RESET_LOOP).knell chipUnit hcResetLoop true
      a4.withRec (a4.recView.triggerFlush causeFault)
    else a3

/-- Stages 5 and 6: memory, core map, and what is brought up. -/
def Aggregator.bootMemory (a : Aggregator) (img : FlashImage) (chip : Bool) (copy : Nat) (c : FlashConfig) (slot : Nat) (fallback : Bool) :
    Aggregator :=
  let a0 := { ((a.set BOOT_STATUS_CFG_COPY copy).set BOOT_STATUS_CFG_VERSION c.version) with
    hif := { a.hif with fwActive := slot } }
  let a1 := ((a0.set BOOT_STATUS_FW_SLOT slot).set BOOT_STATUS_FW_FALLBACK (b2n fallback)).set HI_STATUS_FW_SLOT slot
  if 16 < c.regions.length ∨ ¬ c.regions.all RegionCfg.ok ∨ ¬ regionsApart c.regions then a1.bootStop 5 0x05
  else if ¬ img.memoryOk then a1.bootStop 5 0x06
  else if ¬ img.coreMapOk then a1.bootStop 5 0x07
  else
    let a2 := { a1.applyConfig copy c with mem := [] }
    if ¬ img.ingestOk then a2.bootStop 6 0x06
    else
      let a3 := ([65, 66, 69, 70, 73, 74, 75, 78]).foldl (fun (a : Aggregator) k => a.setAd k adOn) (a2.bootStage 6 0)
      let a4 := { a3 with erasing := !a3.on (REC_STATUS_BANK_READY.onPage 0x3) }
      if chip then { a4.bootStage 7 0 with boot := .resync a4.mono } else (a4.bootStage 7 0).bootReady false

/-- AGG_BOOT: the stages in order, as far as stage 7. -/
def Aggregator.bootRun (a : Aggregator) (img : FlashImage) : Aggregator :=
  match a.boot with
  | .owed chip =>
    if ¬ img.sfdpOk then a.bootStop 1 0x01
    else match img.mfg with
      | none => a.bootStop 2 0x02
      | some (rev, serial) =>
        let a1 := { a.set CHIP_IDENT_REVISION rev with serial := serial }
        match img.chosen, a1.hif.startSlot with
        | none, _ => a1.bootStop 3 0x03
        | some (copy, c), none =>
          ((a1.set BOOT_STATUS_CFG_COPY copy).set BOOT_STATUS_CFG_VERSION c.version).bootStop 4 0x04
        | some (copy, c), some (slot, fallback) => a1.bootMemory img chip copy c slot fallback
  | _ => a

/-- A resync that boot waited for has completed. -/
def Aggregator.settleBoot (a : Aggregator) : Aggregator :=
  match a.boot with
  | .resync _ => if a.led.mir.endRecv then a.bootReady true else a
  | _ => a

/-- BOOT_RESYNC_TIMEOUT: 10 s without a resync; boot goes on with no job contexts. -/
def Aggregator.bootTimeout (a : Aggregator) : Aggregator :=
  match a.boot with
  | .resync t =>
    if a.mono < t + 10000000000 then a
    else { ((a.bootStage 7 0x09).bootRecord) with jobs := [] }.bootReady true
  | _ => a

end Sys2Proof.Machine
end

