-- ==== Sys2Proof/Machine/Dma.lean ====
section
/-!
DEFINITION. The DMA channels (R444 to R446, Tables 15-12, 15-15).
-/
namespace Sys2Proof.Machine

abbrev dmaIdle : Nat := 0
abbrev dmaRunning : Nat := 1
abbrev dmaStopping : Nat := 2
abbrev dmaStopped : Nat := 3
abbrev dmaDone : Nat := 4
abbrev dmaError : Nat := 5

abbrev dmaHostFault : Nat := 1
abbrev dmaChipFault : Nat := 2
abbrev dmaMalformed : Nat := 3
abbrev dmaFetchFault : Nat := 4

def Aggregator.dmaState (a : Aggregator) (n : Nat) : Nat := a.get (DMA_STAT_STATE n)

/-- A signal of a channel, where IRQ_EN is set. -/
def Aggregator.dmaIrq (a : Aggregator) (n : Nat) : Aggregator :=
  if a.on (DMA_CTRL_IRQ_EN n) then a.modHif fun h => { h with msix := h.msix ++ [64] } else a

/-- A fault stops a channel at once, with bytes of its descriptor moved (R446). -/
def Aggregator.dmaStopFault (a : Aggregator) (n code moved : Nat) : Aggregator :=
  (((a.set (DMA_STAT_STATE n) dmaError).set (DMA_STAT_FAULT n) code).set (DMA_STAT_BYTES n) moved).dmaIrq n

def readDesc (l : List Byte) : DmaDesc := ⟨le l 0 8, le l 8 8, le l 16 4, le l 20 4, le l 24 8⟩

def DmaDesc.srcHost (d : DmaDesc) : Bool := bit d.flags 0
def DmaDesc.dstHost (d : DmaDesc) : Bool := bit d.flags 1
def DmaDesc.srcFixed (d : DmaDesc) : Bool := bit d.flags 2
def DmaDesc.dstFixed (d : DmaDesc) : Bool := bit d.flags 3

/-- Well formed: LEN in range, reserved bits zero, a FIXED side 64-byte aligned with LEN a multiple of 64 (R445, R446). -/
def DmaDesc.ok (d : DmaDesc) : Bool :=
  decide (1 ≤ d.len ∧ d.len ≤ 16777216) && decide (d.flags < 64)
    && (!d.srcFixed || decide (d.src % 64 = 0 ∧ d.len % 64 = 0)) && (!d.dstFixed || decide (d.dst % 64 = 0 ∧ d.len % 64 = 0))

/-- A channel reaches a descriptor, reads it, and runs it or faults. -/
def Aggregator.dmaLoad (a : Aggregator) (n addr : Nat) : Aggregator :=
  let a1 := (a.set (DMA_CUR_ADDR n) addr).set (DMA_STAT_BYTES n) 0
  let (l, a2) := if a1.on (DMA_DESC_SPACE n) then (some (memBytes a1.host addr 32), a1) else a1.memRead .hostDma addr 32
  match l with
  | none => a2.dmaStopFault n dmaFetchFault 0
  | some l =>
    let d := readDesc l
    let a3 := a2.modHif fun h => { h with dma := tabPut h.dma n d }
    if d.ok then a3 else a3.dmaStopFault n dmaMalformed 0

/-- A write of DMA_CTRL, the merged word: START, STOP, or both, which is ignored as a whole (R444, R446). -/
def Aggregator.writeDmaCtrl (a : Aggregator) (n m : Nat) : Aggregator :=
  let start := bit m 0
  let stop := bit m 1
  let st := a.dmaState n
  if start ∧ stop then a.raise (DMA_CTRL_CFG_INVALID n)
  else
    let a1 := a.set (DMA_CTRL_IRQ_EN n) (bits m 2 2)
    if start then
      if st = dmaRunning ∨ st = dmaStopping then a1
      else
        let from_ := if st = dmaStopped then a1.get (DMA_CUR_ADDR n) else a1.get (DMA_DESC_ADDR n) * 32
        ((((a1.set (DMA_STAT_STATE n) dmaRunning).set (DMA_STAT_FAULT n) 0).set (DMA_STAT_DESC_DONE n) 0)).dmaLoad n from_
    else if stop ∧ st = dmaRunning then a1.set (DMA_STAT_STATE n) dmaStopping
    else a1

/-- Bytes of a chip side that may be moved before an access fault: region checks go by pages of 4 KiB. -/
def Aggregator.dmaReach (a : Aggregator) (write : Bool) (addr len : Nat) : Nat :=
  let p0 := addr / 4096
  let n := (addr + len - 1) / 4096 + 1 - p0
  match (List.range n).find? fun k => !a.memOk write .hostDma ((p0 + k) * 4096) 4096 with
  | none => len
  | some k => (p0 + k) * 4096 - addr

/-- The bytes that a descriptor's source gives. -/
def Aggregator.dmaSource (a : Aggregator) (d : DmaDesc) (len : Nat) : List Byte :=
  let m := if d.srcHost then a.host else a.mem
  if d.srcFixed then (List.range ((len + 63) / 64)).flatMap (fun _ => memBytes m d.src 64) |>.take len
  else memBytes m d.src len

/-- A number of bytes of a descriptor are moved; a FIXED destination keeps the last 64. -/
def Aggregator.dmaMove (a : Aggregator) (d : DmaDesc) (len : Nat) : Aggregator :=
  let data := a.dmaSource d len
  let out := if d.dstFixed then data.drop (data.length - 64) else data
  let a1 := if d.srcHost then a else a.hbmTouch d.src len
  -- poisoned data are not committed (R235)
  if ¬ d.srcHost ∧ a.poisoned d.src (if d.srcFixed then 64 else len) then a1
  else if d.dstHost then { a1 with host := memPut a.host d.dst out } else a1.poke d.dst out

/-- Bytes of a descriptor that the check of one side lets through. -/
def Aggregator.dmaSide (a : Aggregator) (host fixed write : Bool) (addr len : Nat) : Nat :=
  if host then len
  else if fixed then (if a.memOk write .hostDma addr 64 then len else 0)
  else a.dmaReach write addr len

def Aggregator.dmaSrcLimit (a : Aggregator) (d : DmaDesc) : Nat := a.dmaSide d.srcHost d.srcFixed false d.src d.len
def Aggregator.dmaDstLimit (a : Aggregator) (d : DmaDesc) : Nat := a.dmaSide d.dstHost d.dstFixed true d.dst d.len
def Aggregator.dmaLimit (a : Aggregator) (d : DmaDesc) : Nat := min (a.dmaSrcLimit d) (a.dmaDstLimit d)

/-- DMA_DESCRIPTOR_DONE: the transfer of the descriptor in progress, then the next one, the stop or the end. -/
def Aggregator.dmaDescDone (a : Aggregator) (n : Nat) : Aggregator :=
  let st := a.dmaState n
  match tabGet a.hif.dma n with
  | none => a
  | some d =>
    if st ≠ dmaRunning ∧ st ≠ dmaStopping then a
    else
      let lim := a.dmaLimit d
      let a1 := a.dmaMove d lim
      if lim < d.len then
        (a1.accessFault (if a.dmaSrcLimit d = lim then d.src + lim else d.dst + lim) 1).dmaStopFault n dmaChipFault lim
      else
        let a2 := (a1.set (DMA_STAT_BYTES n) d.len).incWrap (DMA_STAT_DESC_DONE n)
        let a3 := if bit d.flags 4 then a2.dmaIrq n else a2
        if bit d.flags 5 then a3.set (DMA_STAT_STATE n) dmaDone
        else if st = dmaStopping then (a3.set (DMA_STAT_STATE n) dmaStopped).set (DMA_CUR_ADDR n) d.next
        else a3.dmaLoad n d.next

/-- DMA_FAULT: the host fails a transfer after some bytes, or a descriptor's fetch. -/
def Aggregator.dmaHostError (a : Aggregator) (n : Nat) (fetch : Bool) (moved : Nat) : Aggregator :=
  let st := a.dmaState n
  match tabGet a.hif.dma n with
  | none => a
  | some d =>
    if st ≠ dmaRunning ∧ st ≠ dmaStopping then a
    else if fetch then a.dmaStopFault n dmaFetchFault 0
    else
      let k := min moved (min (d.len - 1) (a.dmaLimit d))
      (a.dmaMove d k).dmaStopFault n dmaHostFault k

end Sys2Proof.Machine
end

