-- ==== Sys2Proof/Machine/RegsAgg.lean ====
section
/-!
DEFINITION. Register access of the aggregator: BAR0, held writes, the indirect pairs, privilege, the status handshake, and what
a write of each register does (R453 to R465, R468, R469, R471, Tables 16-3, 16-6).
-/
namespace Sys2Proof.Machine

/-! ### Pages (Table 16-3) -/

def aggPageExists (page : Nat) : Bool :=
  decide (page ≤ 0x4) || decide (0x10 ≤ page ∧ page ≤ 0x1B) || decide (0x20 ≤ page ∧ page < 0x30)

def aggPrivPage (page : Nat) : Bool :=
  [0x3, 0x4, 0x10, 0x12, 0x15, 0x16, 0x17, 0x18, 0x1A, 0x1B].contains page

/-- Domain number of a page. -/
def aggPageDomain (page : Nat) : Nat :=
  if page = 0x1 ∨ page = 0x2 then 77
  else if page = 0x3 then 79
  else if [0x11, 0x12, 0x15, 0x16, 0x17].contains page then 64
  else if [0x13, 0x14, 0x1B].contains page then 78
  else if page = 0x19 ∨ page = 0x1A then 75
  else if page = 0x18 ∨ 0x20 ≤ page then 76
  else 72

/-- The reset that sets a page's Reset column: power-on for the time unit, the recorder and the reset log, else the chip reset
(Table 17-2). -/
def aggPageReset (page : Nat) : Nat := if page = 0x1 ∨ page = 0x3 ∨ page = 0x4 then 1 else 3

def aggPgId (page : Nat) : Nat :=
  0x0040 * 2 ^ 48 + page * 2 ^ 32 + 1 * 2 ^ 24 + aggPageDomain page * 2 ^ 16 + aggPageReset page * 2 ^ 8
    + b2n (aggPrivPage page)

/-- The last entry of a page's indirect pair; none where the page has none (R454). -/
def lastEntry (page : Nat) : Option Nat :=
  match page with
  | 0x2 => some 71
  | 0x11 => some 0x23FF
  | 0x13 => some 0x4FFFF
  | 0x15 => some 0x1AFF
  | 0x16 => some 0xFFF
  | 0x17 => some 0xFFF
  | 0x18 => some 0x481
  | 0x1B => some 0x3FFF
  | _ => none

abbrev entryKey (page e : Nat) : Nat := indBase + page * 0x100000000 + e

def Aggregator.pageOn (a : Aggregator) (page : Nat) : Bool := decide (a.adState (aggPageDomain page) = adOn)

/-! ### Violations, interrupt (R458, R469) -/

/-- A privilege violation at an offset of a page. -/
def Aggregator.violation (a : Aggregator) (page off : Nat) (write : Bool) : Aggregator :=
  let a1 := ((a.inc (PG_VIOL_VIOL_N page)).set (PG_VIOL_LAST_WRITE page) (b2n write)).set (PG_VIOL_LAST_OFFSET page) (off / 8)
  (((a1.inc CHIP_VIOL_VIOL_TOTAL).set CHIP_VIOL_LAST_WRITE (b2n write)).set CHIP_VIOL_LAST_PAGE page).set CHIP_VIOL_LAST_OFFSET
    (off / 8)

def Aggregator.pendingPages (a : Aggregator) : Nat :=
  (List.range 64).foldl (fun n p => if a.regs.pending p then n + 2 ^ p else n) 0

/-- The interrupt of the part. -/
def Aggregator.irq (a : Aggregator) : Bool := (List.range 64).any fun p => a.on (PG_IRQ_IRQ_EN p) && a.regs.pending p

/-- A rise of the interrupt signals MSI-X vector 0. -/
def Aggregator.signalIrq (old a : Aggregator) : Aggregator :=
  if a.irq ∧ ¬ old.irq then a.modHif fun h => { h with msix := h.msix ++ [0] } else a

/-! ### Words that show other state (Tables 10-22, 11-15, 12-20, 13-14) -/

def Aggregator.jobWord (a : Aggregator) (c w : Nat) : Nat :=
  match a.job c with
  | none => 0
  | some j =>
    match w with
    | 0 => j.state.code * 2 ^ 61 + j.gen * 2 ^ 32 + j.job
    | 1 => j.tree.level * 2 ^ 61 + j.tree.depth * 2 ^ 58 + j.tree.parent * 2 ^ 44 + j.tree.backup * 2 ^ 32
        + b2n (decide (j.tree.level = 0)) * 2 ^ 31 + j.tree.children.length * 2 ^ 8 + j.tree.bchildren.length
    | 2 => (if j.state = .quarantine then ceilDiv (j.quarEnd - a.mono) 1000000 else 0) * 2 ^ 48 + j.epochWait
    | _ => 0

def Aggregator.taintWord (a : Aggregator) (c : Nat) : Nat :=
  match a.job c with
  | some j => if j.tainted then 2 ^ 63 + j.firstTaint else noStep
  | none => noStep

def Aggregator.horizonWord (a : Aggregator) (c : Nat) : Nat := ((a.job c).bind (·.horizon)).getD noStep

def Aggregator.imageWord (a : Aggregator) (slot w : Nat) : Nat :=
  let img := a.image slot
  match w with
  | 0 => (img.map (·.id)).getD 0
  | 1 => (img.map (·.addr)).getD 0
  | 2 =>
    match img with
    | some i => i.kind * 2 ^ 56 + i.keyIdx * 2 ^ 48 + i.declaredCores * 2 ^ 40 + i.bytes.length
    | none => 0
  | _ =>
    b2n img.isSome * 2 ^ 62 + (a.det.instances.filter fun e => e.2.slot = slot).length * 2 ^ 16
      + (tabGet a.det.lastLoad slot).getD 0

def Aggregator.instWord (a : Aggregator) (n w : Nat) : Nat :=
  match a.inst n with
  | none => 0
  | some i =>
    match w with
    | 0 => (if i.suspended then 2 else 1) * 2 ^ 62 + i.bind * 2 ^ 24 + i.slot * 2 ^ 16 + i.ctx % 1024
    | 1 => i.cores
    | 2 =>
      match a.image i.slot with
      | some m => m.sramKib * 2 ^ 32 + m.budget
      | none => 0
    | _ => i.faultCode * 2 ^ 56 + min 255 i.succFaults * 2 ^ 48 + min (2 ^ 48 - 1) i.runs

def Aggregator.samplerWord (a : Aggregator) (c w : Nat) : Nat :=
  match (a.job c).bind (·.rates) with
  | none => 0
  | some r => if w = 0 then r.flags * 2 ^ 56 + r.win * 2 ^ 32 + r.aMin else r.thrMax * 2 ^ 32 + r.raiseMax

/-- The ledger of an own job context. -/
def Aggregator.ctxLedger (a : Aggregator) (c : Nat) : Option Ledger := (a.job c).bind fun j => a.ledger j.job j.gen (a.homeOfCtx c)

def Aggregator.sealedWord (a : Aggregator) (c : Nat) : Nat :=
  match a.ctxLedger c with
  | some l =>
    let ss := (l.steps.filter fun e => e.2.sealedNs.isSome).map (·.1)
    if ss.isEmpty then noStep else ss.foldl max 0
  | none => noStep

def Aggregator.oldestWord (a : Aggregator) (c : Nat) : Nat :=
  match a.ctxLedger c with
  | some l => (minOf (l.recs.map (·.step))).getD noStep
  | none => noStep

/-- A word that shows state held elsewhere. -/
def Aggregator.shownWord (a : Aggregator) (key : Nat) : Option Nat :=
  if key = addr_CHIP_PEND then some a.pendingPages
  else if key < indBase then none
  else
    let e := (key - indBase) % 0x100000000
    match pageOf key with
    | 0x13 => if 0x20000 ≤ e ∧ e < 0x21000 then some (a.jobWord ((e - 0x20000) / 4) (e % 4)) else none
    | 0x15 =>
      if 0x1300 ≤ e ∧ e < 0x1700 then some (a.taintWord (e - 0x1300))
      else if 0x1700 ≤ e ∧ e < 0x1B00 then some (a.horizonWord (e - 0x1700))
      else none
    | 0x16 =>
      if e < 0x100 then some (a.imageWord (e / 4) (e % 4))
      else if 0x400 ≤ e ∧ e < 0x800 then some (a.instWord ((e - 0x400) / 4) (e % 4))
      else if 0x800 ≤ e ∧ e < 0x1000 then some (a.samplerWord ((e - 0x800) / 2) (e % 2))
      else none
    | 0x17 => if e % 4 = 0 then some (a.sealedWord (e / 4)) else if e % 4 = 1 then some (a.oldestWord (e / 4)) else none
    | _ => none

/-! ### Reads (R460, R469) -/

/-- The word of a register as a privileged master reads it, with what a read does. -/
def Aggregator.readRaw (a : Aggregator) (key q : Nat) : W64 × Aggregator :=
  let page := pageOf key
  if key < indBase ∧ key % 4096 = 0 then (BitVec.ofNat 64 (aggPgId page), a)
  else if key < indBase ∧ key % 4096 = 0x20 then
    (BitVec.ofNat 64 (a.get (PG_IRQ_IRQ_EN page) + b2n (a.regs.pending page) * 256), a)
  else if key = 0x10A8 then
    -- TC_NOW_NS
    let a1 := a.withView (a.view.readNow q)
    (a1.word key, a1)
  else if key = 0x3000 + addr_REC_WIN 7 % 4096 then
    (a.word key, a.withRec (a.recView.autoAdvance (a.on PWR_SAG_WARN_NOW)))
  else if key = addr_HLT_CNT1 then ((a.set HLT_CNT1_RESETS_1H a.resetsInHour).word key, a)
  else if key = addr_RST_LOG then ((a.set RST_LOG_RESETS_1H (min 255 a.resetsInHour)).word key, a)
  else match a.shownWord key with
  | some w => (BitVec.ofNat 64 w, a)
  | none => (a.word key, a)

/-- A read that finds its domain on: PRIV fields read zero to an ordinary master; a register with W1C-SEQ fields latches EVSEQ
(R10, R460). -/
def Aggregator.readKey (a : Aggregator) (key : Nat) (priv : Bool) (q : Nat) : W64 × Aggregator :=
  let page := pageOf key
  let m := masksOf .agg key
  let (w, a1) := a.readRaw key q
  let a2 := if m.w1c ≠ 0 then a1.set (PG_SEQ_RD_SEQ_RD page) (a1.get (PG_SEQ_EVSEQ page)) else a1
  (if priv then w else w &&& ~~~ BitVec.ofNat 64 m.priv, a2)

/-! ### Writes -/

/-- A write ignored as a whole where it is not valid, with CFG_INVALID. -/
def Aggregator.writeWhole (a : Aggregator) (key m : Nat) (bad : Fld) (ok : Bool) : Aggregator :=
  if ok then a.setWord key (BitVec.ofNat 64 m) else a.raise bad

/-- A field whose value is out of range is ignored, with CFG_INVALID; the rest of the write stands. -/
def Aggregator.writeChecked (a : Aggregator) (m : Nat) (f bad : Fld) (ok : Nat → Bool) : Aggregator :=
  if ok (bits m f.hi f.lo) then a.setWord f.reg (BitVec.ofNat 64 m)
  else (a.setWord f.reg (BitVec.ofNat 64 (setBits m f.hi f.lo (a.get f)))).raise bad

/-- LDG_CTRL (Table 13-12). -/
def Aggregator.writeLdgCtrl (a : Aggregator) (m : Nat) : Aggregator :=
  if bits m 31 24 ≤ bits m 39 32 ∨ 99 < bits m 31 24 then a.raise LDG_STATUS_CFG_INVALID
  else a.writeChecked m LDG_CTRL_RESIDENT LDG_STATUS_CFG_INVALID fun x => decide (100 ≤ x ∧ x ≤ 1000000)

/-- LJ_REF0 and LJ_REF1 of a job context, which its image carries to the partner (Table 13-14). -/
def Aggregator.writeRef (a : Aggregator) (c key m : Nat) : Aggregator :=
  if key = addr_LJ_REF0 c ∧ 2 ≤ bits m 53 52 then a.raise LDG_STATUS_CFG_INVALID
  else (a.setWord key (BitVec.ofNat 64 m)).mirrorJob c

/-- HLT_THRESH (R425). -/
def Aggregator.writeThresh (a : Aggregator) (m : Nat) : Aggregator :=
  if bits m 15 0 < bits m 47 32 ∧ bits m 47 32 < bits m 31 16 ∧ bits m 31 16 ≤ 1000 ∧ bits m 63 48 ≤ 1000 then
    (a.setWord addr_HLT_THRESH (BitVec.ofNat 64 m)).evaluateAll
  else a.raise HLT_STATUS_CFG_INVALID

/-- HLT_ADV (R425). -/
def Aggregator.writeAdv (a : Aggregator) (m : Nat) : Aggregator :=
  if bits m 63 32 < bits m 31 0 then (a.setWord addr_HLT_ADV (BitVec.ofNat 64 m)).budgetMode
  else a.raise HLT_STATUS_CFG_INVALID

/-- REC_CTRL of page 0x003: SRC 0b11 is ignored; FLUSH asks for a commanded flush (R487, Table 17-12). -/
def Aggregator.writeRecCtrl (a : Aggregator) (m : Nat) : Aggregator :=
  let m1 := if bits m 4 3 = 3 then setBits m 4 3 (a.get (REC_CTRL_SRC.onPage 0x3)) else m
  let a1 := a.setWord (0x3000 + addr_REC_CTRL % 4096) (BitVec.ofNat 64 (setBits m1 1 1 0))
  if bit m 1 then a1.withRec (a1.recView.triggerFlush causeCommanded) else a1

/-- A write of an entry word of a page, the merged word. -/
def Aggregator.writeEntry (a : Aggregator) (page e m cyc : Nat) : Aggregator :=
  let key := entryKey page e
  let plain := a.setWord key (BitVec.ofNat 64 m)
  match page with
  | 0x11 =>
    if e < 0x400 then
      match e % 4 with
      | 0 => a.writeBarCfg (e / 4) m
      | 1 => a.writeBarMask (e / 4) m
      | 3 => if bit m 0 then a.barrierReset (e / 4) else a
      | _ => a
    else if (e - 0x400) % 2 = 0 then a.writeSemCfg ((e - 0x400) / 2) m
    else a.writeSemVal ((e - 0x400) / 2) (bits m 31 0) (a.cycle cyc)
  | 0x13 =>
    if 0x30000 ≤ e then
      let i := (e - 0x30000) / 4
      let a1 := a.writeMeter i (e % 4) m
      a1.mirrorContext ckMeter i (a1.contextImage ckMeter i)
    else plain.mirrorStream ((e - 0x10000) / 2)
  | 0x15 =>
    if e < 0x1000 then a.writeNumerics (e / 4) (e % 4) m
    else plain.mirrorContext ckNumerics (4096 + (e - 0x1000)) (plain.wordsAt [key])
  | 0x17 => a.writeRef (e / 4) key m
  | 0x1B => a.writePoolWord (e / 4) (e % 4) m
  | _ => plain

/-- What the merged word of a privileged write does, once its access codes have been applied. -/
def Aggregator.writeEffect (a : Aggregator) (key m cyc : Nat) : Aggregator :=
  let plain := a.setWord key (BitVec.ofNat 64 m)
  if indBase ≤ key then a.writeEntry (pageOf key) ((key - indBase) % 0x100000000) m cyc
  else if key = 0x1080 then a.timeOp fun v => v.writeCtrl m
  else if key = 0x3000 + addr_REC_CTRL % 4096 then a.writeRecCtrl m
  else if key = 0x3000 + addr_REC_CURSOR % 4096 then
    plain.withRec (plain.recView.loadWindow (a.on PWR_SAG_WARN_NOW))
  else if addr_PD_CTRL 0 ≤ key ∧ key < addr_PD_CTRL 80 then a.writePd ((key - addr_PD_CTRL 0) / 8) m
  else if key = addr_EP_DEFAULTS then
    a.writeChecked m EP_DEFAULTS_EPOCH_WAIT TREE_STATUS_CFG_INVALID fun x => decide (20 ≤ x ∧ x ≤ 100000)
  else if key = addr_AUD_CTRL then a.writeAudCtrl m
  else if key = addr_AUD_XDE_MASK then a.setMask m
  else if key = addr_LDG_CTRL then a.writeLdgCtrl m
  else if key = addr_HLT_THRESH then a.writeThresh m
  else if key = addr_HLT_BUDGET then a.writeBudget (bits m 63 48) (bits m 31 0)
  else if key = addr_HLT_ADV then a.writeAdv m
  else if key = addr_HI_ASQ_BASE ∨ key = addr_HI_ACQ_BASE then a.setWord key (BitVec.ofNat 64 (m / 4096 * 4096))
  else if addr_DMA_DESC 0 ≤ key ∧ key < addr_DMA_DESC 8 ∧ (key - addr_DMA_DESC 0) % 32 = 8 then
    a.writeDmaCtrl ((key - addr_DMA_DESC 0) / 32) m
  else if key = addr_PH_OP then a.writePhOp m
  else if key = addr_MIR_CTRL then (if bit m 0 then plain.wakeDomain 74 else plain)
  else plain

/-- A write that finds its domain on. An ordinary write of a PRIV field that would change it is a violation; fields of other
codes take effect under their own; a clearing write goes through the key (R10, R458, R461). `off`: the offset that the write
counts at. -/
def Aggregator.writeKey (a : Aggregator) (key off : Nat) (w : W64) (priv : Bool) (cyc : Nat) : Aggregator :=
  let page := pageOf key
  if key < indBase ∧ off = 0x18 then { a with regs := a.regs.armKey page w }
  else
    let m := masksOf .agg key
    let cur := a.word key
    let a1 := if ¬ priv ∧ ((w ^^^ cur).toNat &&& m.priv) ≠ 0 then a.violation page off true else a
    let ones := w.toNat &&& m.w1c
    let a2 := if ones ≠ 0 then { a1 with regs := a1.regs.clearing page off key ones } else a1
    let mask := m.rw ||| (if priv then m.priv else 0)
    if mask = 0 then a2
    else
      let base := (a2.word key).toNat
      a2.writeEffect key ((base &&& ((2 ^ 64 - 1) ^^^ mask)) ||| (w.toNat &&& mask)) cyc

/-! ### The indirect pairs (R463 to R465) -/

/-- INDEX names a word: its fetch starts, or it lies beyond the last entry. -/
def Aggregator.indTarget (a : Aggregator) (page : Nat) : Aggregator :=
  let a1 := a.set (IND_ADDR_READY page) 0
  match lastEntry page with
  | none => a
  | some n =>
    if n < a.get (IND_ADDR_INDEX page) then
      (a1.set (IND_ADDR_ERR page) 2).modBar fun b => { b with fetchAt := tabDel b.fetchAt page }
    else a1.modBar fun b => { b with fetchAt := tabPut b.fetchAt page a.mono }

def Aggregator.writeIndAddr (a : Aggregator) (page : Nat) (w : W64) : Aggregator :=
  if (lastEntry page).isNone then a else (a.setWord (addr_IND_ADDR page) (w &&& 0x80000000FFFFFFFF)).indTarget page

/-- IND_FETCH_DONE: the word has come. -/
def Aggregator.indFetched (a : Aggregator) (page : Nat) : Aggregator :=
  if (tabGet a.bar.fetchAt page).isSome ∧ a.pageOn page then
    (a.set (IND_ADDR_READY page) 1).modBar fun b => { b with fetchAt := tabDel b.fetchAt page }
  else a

def Aggregator.indAdvance (a : Aggregator) (page : Nat) : Aggregator :=
  if a.on (IND_ADDR_AUTO_INC page) then (a.set (IND_ADDR_INDEX page) (a.get (IND_ADDR_INDEX page) + 1)).indTarget page else a

/-- An IND_DATA access: beyond the last entry, NOT-READY, or the access of the word. -/
def Aggregator.indAccess (a : Aggregator) (page : Nat) (write : Option W64) (priv : Bool) (q cyc : Nat) : W64 × Aggregator :=
  match lastEntry page with
  | none => (0, a)
  | some n =>
    let a0 := a.modBar fun b => { b with accessAt := tabPut b.accessAt page a.mono }
    let e := a.get (IND_ADDR_INDEX page)
    if n < e then (0, a0.set (IND_ADDR_ERR page) 2)
    else if ¬ a.on (IND_ADDR_READY page) then (0, a0.set (IND_ADDR_ERR page) 1)
    else match write with
    | some w => (0, (a0.writeKey (entryKey page e) 0x38 w priv cyc).indAdvance page)
    | none => let (v, a1) := a0.readKey (entryKey page e) priv q; (v, a1.indAdvance page)

/-- An access of a page whose domain is on, at an offset. -/
def Aggregator.pageAccess (a : Aggregator) (page off : Nat) (write : Option W64) (priv : Bool) (q cyc : Nat) : W64 × Aggregator :=
  if off = 0x38 then a.indAccess page write priv q cyc
  else match write with
  | some w =>
    (0, if off = 0x30 then a.writeIndAddr page w else a.writeKey (page * 4096 + off) off w priv cyc)
  | none => a.readKey (page * 4096 + off) priv q

/-! ### BAR0 (R453, R455, R468) -/

/-- The held writes of a domain are applied in order, once it is on. -/
def Aggregator.applyHeld (a : Aggregator) (k cyc : Nat) : Aggregator :=
  if a.adState k ≠ adOn then a
  else
    let mine := a.bar.held.filter fun h => h.1 = k
    mine.foldl (fun (a : Aggregator) h => (a.pageAccess (h.2.1 / 4096) (h.2.1 % 4096) (some h.2.2.1) h.2.2.2 0 cyc).2)
      (a.modBar fun b => { b with held := b.held.filter fun h => h.1 ≠ k })

/-- A write that finds its domain asleep is held, or dropped beyond 64, and wakes it. -/
def Aggregator.holdWrite (a : Aggregator) (k addr : Nat) (w : W64) (priv : Bool) : Aggregator :=
  let n := (a.bar.held.filter fun h => h.1 = k).length
  (if 64 ≤ n then a.inc CHIP_ACCESS_HOLD_DROP_N
   else a.modBar fun b => { b with held := b.held ++ [(k, addr, w, priv)] }).wakeDomain k

/-- A BAR0 access at an offset of the 16 MiB window, of 8 bytes or (`half`) of 4; its lower half is the privileged alias. -/
def Aggregator.barAccess (a : Aggregator) (off : Nat) (half : Bool) (write : Option W64) (q cyc : Nat) : Aggregator :=
  let priv := decide (off % 0x1000000 < 0x800000)
  let page := off / 4096 % 2048
  let reg := off % 4096 / 8 * 8
  let k := aggPageDomain page
  let answer (a : Aggregator) (v : W64) : Aggregator := a.modBar fun b => { b with rdata := v }
  if ¬ aggPageExists page then (if write.isSome then a else answer a 0)
  else if write.isSome ∧ half then a.inc CHIP_ACCESS_PARTIAL_N
  else if aggPrivPage page ∧ ¬ priv then
    let a1 := a.violation page reg write.isSome
    if write.isSome then a1 else answer a1 0
  else if a.adState k ≠ adOn then
    match write with
    | some w => a.holdWrite k (page * 4096 + reg) w priv
    | none => answer (((a.set CHIP_ACCESS_SLEPT 1).set CHIP_ACCESS_SLEPT_PAGE page).wakeDomain k) 0
  else
    let a1 := a.applyHeld k cyc
    match write with
    | some w => (a1.pageAccess page reg (some w) priv q cyc).2
    | none =>
      let (v, a2) := (a1.set CHIP_ACCESS_SLEPT 0).pageAccess page reg none priv q cyc
      answer a2 (if half then (if off / 4 % 2 = 0 then v &&& 0xFFFFFFFF else v >>> 32) else v)

/-! ### Sleep and failed wakes (R461, R465, R468) -/

/-- Pages of a domain. -/
def pagesOfDomain (k : Nat) : List Nat := (List.range 0x30).filter fun p => aggPageExists p && decide (aggPageDomain p = k)

/-- An IND_DATA access of a page of the domain was made within the last 1 ms (R465). -/
def Aggregator.indHolds (a : Aggregator) (k : Nat) : Bool :=
  (pagesOfDomain k).any fun p => match tabGet a.bar.accessAt p with
    | some t => decide (a.mono < t + 1000000)
    | none => false

/-- AGG_DOMAIN_SLEEP, with what the register pages of the domain do. -/
def Aggregator.sleepDomain (a : Aggregator) (k idle : Nat) (final : Bool) : Aggregator :=
  if ¬ final ∧ a.indHolds k then a
  else
    let a1 := a.domainSleep k idle final
    if final ∧ a1.adState k ≠ a.adState k then
      (pagesOfDomain k).foldl (fun (a : Aggregator) p => (a.set (PG_CLR_KEY_ARMED p) 0).set (IND_ADDR_READY p) 0) a1
    else a1

/-- AGG_WAKE_FAIL, with the held writes of the domain and the pairs that point into it. -/
def Aggregator.wakeGivenUp (a : Aggregator) (k : Nat) : Aggregator :=
  let a1 := a.wakeFail k
  if a1.adState k = a.adState k then a1
  else
    let a2 := a1.modBar fun b => { b with held := b.held.filter fun h => h.1 ≠ k }
    ((pagesOfDomain k).filter fun p => (lastEntry p).isSome).foldl (fun (a : Aggregator) p => a.set (IND_ADDR_ERR p) 3) a2

end Sys2Proof.Machine
end

