-- ==== Sys2Proof/Machine/State.lean ====
section
/-!
DEFINITION. The state of the block: one die unit and one aggregator, and the queue of the commands that are waiting, first in,
first out; the reasons a step can stop; the state after reset.
-/
namespace Sys2Proof.Machine

structure State where
  /-- the IFD-20 die unit (chapter 3) -/
  du : DieUnit
  /-- the IFA-40 tray aggregator (chapter 9) -/
  agg : Aggregator
  /-- the commands that wait -/
  pending : List Instr
  deriving DecidableEq, Repr

/-- Why a step stops with a fault: the spec gives every command an effect in every state, so that no meaning raises one. -/
inductive Fault where
  /-- raised by no command (safe) -/
  | none
  deriving DecidableEq, Repr

/-- Why a command is refused. -/
inductive Refusal where
  /-- a command whose meaning is not written; every command of the table has one, so that no arm raises it (safe) -/
  | notModelled (mnemonic : String)
  deriving DecidableEq, Repr

/-- Both parts in power-on reset: every register at its Reset column, queues empty (R475, R476). A die unit's MAC address and
revision are inputs of the package, zero here (log 1). -/
def State.reset : State := { du := DieUnit.blank 0 0, agg := Aggregator.blank, pending := [] }

end Sys2Proof.Machine
end

