-- ==== Sys2Proof/Machine/ExecBase.lean ====
section
/-!
DEFINITION. What every command of the table is built from: it acts on the die unit, on the aggregator, or on the part that it
names, and always answers a next state. What follows every event of the aggregator stands here too.
-/
namespace Sys2Proof.Machine

abbrev Out : Type := Host.Outcome State Fault Refusal

/-- What follows every event of the aggregator: commands that can now complete, frees that waited for a query, a boot that waited for a resync, the end of a
failover, the interrupt (Tables 15-10, 17-5, R25, R454). -/
def Aggregator.after (old a : Aggregator) : Aggregator :=
  let a1 := a.settle.settleBoot.settleFrees
  let a2 := if old.inFailover ∧ ¬ a1.inFailover then a1.stopMirrored else a1
  Aggregator.signalIrq old a2

/-- The die unit alone changes. -/
def State.onDu (s : State) (f : DieUnit → DieUnit) : Out := .next { s with du := f s.du }

/-- The aggregator alone changes. -/
def State.onAgg (s : State) (f : Aggregator → Aggregator) : Out :=
  .next { s with agg := Aggregator.after s.agg (f s.agg) }

/-- The part that the command names changes. -/
def State.onPart (s : State) (p : Part) (fd : DieUnit → DieUnit) (fa : Aggregator → Aggregator) : Out :=
  match p with
  | .du => s.onDu fd
  | .agg => s.onAgg fa

/-- Lanes, links and queues are served from the resync stage of the boot on (Table 17-5). -/
def Aggregator.served (a : Aggregator) : Bool :=
  match a.boot with
  | .resync _ => true
  | .ready => true
  | _ => false

/-- The aggregator's OOB port is served where a boot has stopped, too (R478). -/
def Aggregator.oobServed (a : Aggregator) : Bool := a.served || decide (a.boot = .stopped)

/-- An event of a lane, a link or a queue: without effect before it is served. -/
def State.onUp (s : State) (f : Aggregator → Aggregator) : Out := s.onAgg fun a => if a.served then f a else a
def State.onOob (s : State) (f : Aggregator → Aggregator) : Out := s.onAgg fun a => if a.oobServed then f a else a

/-- A write over the die unit's register port, and one of a single field that leaves the others as they stand. -/
def DieUnit.portWrite (d : DieUnit) (addr w : Nat) (priv : Bool) (q : Nat) : DieUnit :=
  d.portAccess addr (some (BitVec.ofNat 64 w)) priv q
def DieUnit.portSet (d : DieUnit) (f : Fld) (v : Nat) (q : Nat) : DieUnit :=
  d.portWrite f.reg (setBits (d.regs.word f.reg).toNat f.hi f.lo v) true q

/-- A privileged write of a register of the aggregator's pages through BAR0, and one of a single field. -/
def Aggregator.barWrite (a : Aggregator) (key w : Nat) (cyc : Nat) : Aggregator :=
  a.barAccess key false (some (BitVec.ofNat 64 w)) 0 cyc
def Aggregator.barSet (a : Aggregator) (f : Fld) (v : Nat) (cyc : Nat) : Aggregator :=
  a.barWrite f.reg (setBits (a.word f.reg).toNat f.hi f.lo v) cyc

/-- A privileged write of an entry word of a page, as IND_DATA makes it. -/
def Aggregator.entryWrite (a : Aggregator) (page e w cyc : Nat) : Aggregator :=
  a.writeKey (entryKey page e) 0x38 (BitVec.ofNat 64 w) true cyc

end Sys2Proof.Machine
end

