-- ==== Sys2Proof/Machine/ExecChip.lean ====
section
/-!
DEFINITION. The commands of sampling, synchronisation registers, memory, power, ledger upkeep, health, resets, start-up, scans and
calibrations of the aggregator (R232 to R255, R355, R368 to R385, R398 to R417, R474 to R478, R505).
-/
namespace Sys2Proof.Machine

/-- SEL_RATES_SEND (R355): to a die unit of a job context. -/
def execSelRatesSend (ctx duid : Nat) (s : State) : Out := s.onUp (·.ratesSend ctx duid)

/-! ### Synchronisation registers: privileged writes of page 0x011 -/

/-- SYNC_OWNER_WRITE (R237): the configuration word of a barrier, or (`sem`) of a semaphore. -/
def execSyncOwnerWrite (sem : Bool) (n w cyc : Nat) (s : State) : Out :=
  s.onAgg (·.entryWrite 0x11 (if sem then 0x400 + 2 * n else 4 * n) w cyc)

/-- BARRIER_MASK_WRITE (R239). -/
def execBarrierMaskWrite (b mask cyc : Nat) (s : State) : Out := s.onAgg (·.entryWrite 0x11 (4 * b + 1) mask cyc)

/-- BARRIER_RESET (R240). -/
def execBarrierReset (b cyc : Nat) (s : State) : Out := s.onAgg (·.entryWrite 0x11 (4 * b + 3) 1 cyc)

/-- SEM_VALUE_WRITE (R243). -/
def execSemValueWrite (n value cyc : Nat) (s : State) : Out := s.onAgg (·.entryWrite 0x11 (0x400 + 2 * n + 1) value cyc)

/-- SEM_RESET (R243): the owner is written as it stands. -/
def execSemReset (n cyc : Nat) (s : State) : Out :=
  s.onAgg fun a => a.entryWrite 0x11 (0x400 + 2 * n) (setBits (a.word (addr_SEM_CFG n)).toNat 1 0 1) cyc

/-! ### Memory, bridges, watchdog -/

/-- MEMORY_UNCORRECTABLE (R235) in the word at an address of SRAM or HBM. -/
def execMemoryUncorrectable (addr : Nat) (s : State) : Out := s.onAgg (·.memoryUe addr)

/-- BRIDGE_FATAL (R232). -/
def execBridgeFatal (s : State) : Out := s.onAgg (·.bridgeFatal)

/-- AGG_WATCHDOG (R410). -/
def execAggWatchdog (s : State) : Out := s.onAgg (·.watchdog)

/-- HBM_PATROL_SCRUB (R244). -/
def execHbmPatrolScrub (stack : Nat) (s : State) : Out := s.onAgg (·.patrolScrub stack)

/-! ### Power -/

/-- AGG_DOMAIN_SLEEP (R250): entry of domain `k`, whose condition has held for `idle` ns; `final`: its last step. -/
def execAggDomainSleep (k idle : Nat) (final : Bool) (s : State) : Out := s.onAgg (·.sleepDomain k idle final)

/-- AGG_DOMAIN_WAKE (R252): a wake cause, or (`usable`) the end of the wake (R251). -/
def execAggDomainWake (k : Nat) (usable : Bool) (s : State) : Out :=
  s.onAgg fun a => if usable then a.domainUsable k else a.wakeDomain k

/-- DEFERRED_WAKE_START (R253). -/
def execDeferredWakeStart (s : State) : Out := s.onAgg (·.deferredStart)

/-- AGG_WAKE_FAIL (R254). -/
def execAggWakeFail (k : Nat) (s : State) : Out := s.onAgg (·.wakeGivenUp k)

/-- CORE_DRAIN (R255): a privileged write of PD_CTRL.DRAIN. -/
def execCoreDrain (core : Nat) (drain : Bool) (s : State) : Out := s.onAgg (·.barSet (PD_CTRL_DRAIN core) (b2n drain) 0)

/-- CORE_DRAINED (R255). -/
def execCoreDrained (core : Nat) (s : State) : Out := s.onAgg (·.drainDone core)

/-- CORE_MAP_OUT (R255): a privileged write of PD_CTRL.MAP_OUT. -/
def execCoreMapOut (core : Nat) (mapped : Bool) (s : State) : Out := s.onAgg (·.barSet (PD_CTRL_MAP_OUT core) (b2n mapped) 0)

/-- THERMAL_SAMPLE (R505): the three dies and the eight stackTemps in 1/16 °C, and the core supply in mV. -/
def execThermalSample (dies : Int × Int × Int) (stackTemps : List Int) (mv : Nat) (s : State) : Out :=
  s.onAgg (·.thermalSample dies stackTemps mv)

/-! ### Ledger -/

/-- STEP_SEAL (R368). -/
def execStepSeal (ctx step : Nat) (s : State) : Out := s.onUp (·.stepSeal ctx step)

/-- FORCED_SEAL (R369). -/
def execForcedSeal (ctx step : Nat) (s : State) : Out := s.onUp (·.forcedSeal ctx step)

/-- STEP_SPILL (R373) of a step of the ledger of a home aggregator. -/
def execStepSpill (job gen home step : Nat) (s : State) : Out := s.onUp (·.stepSpill job gen home step)

/-- SPILL_WRITE_DONE (R375). -/
def execSpillWriteDone (job gen home step : Nat) (s : State) : Out := s.onUp (·.spillWriteDone job gen home step)

/-- SPILL_RETRY (R375). -/
def execSpillRetry (job gen home step : Nat) (s : State) : Out := s.onUp (·.spillRetry job gen home step)

/-- LEDGER_FETCH_DONE (R385): an object comes for a command. -/
def execLedgerFetchDone (serial : Nat) (name : ObjName) (object : List Byte) (s : State) : Out :=
  s.onUp (·.fetchDone serial name object)

/-- FETCH_WAIT_EXPIRY (R385). -/
def execFetchWaitExpiry (serial : Nat) (s : State) : Out := s.onUp (·.fetchExpiry serial)

/-! ### Health -/

/-- MISMATCH_RESOLVE_TIMEOUT (R398): of a die unit. -/
def execMismatchResolveTimeout (duid : Nat) (s : State) : Out := s.onUp (·.resolveTimeout duid)

/-- SCORE_DECAY (R401). -/
def execScoreDecay (s : State) : Out := s.onUp (·.scoreDecay)

/-- COND_SUSPECT_EXPIRY (R403): of a unit and a cell. -/
def execCondSuspectExpiry (unit_ cell : Nat) (s : State) : Out := s.onUp (·.condExpiry unit_ cell)

/-! ### Resets and start-up -/

/-- CHIP_RESET (R410): for a fatal cause. -/
def execChipReset (code : Nat) (s : State) : Out := s.onAgg (·.chipResetCause code)

/-- CHIP_RESET_BEGIN (R410). -/
def execChipResetBegin (s : State) : Out := s.onAgg (·.resetBegin)

/-- AGG_POWER_ON (R474): POR_N deasserts; `slots`: see log 87. -/
def execAggPowerOn (slots : Option (Option FwSlot × Option FwSlot × Nat)) (s : State) : Out := s.onAgg (·.powerOn slots)

/-- AGG_BOOT (R478): with what the flash and the memories answer. -/
def execAggBoot (img : FlashImage) (s : State) : Out := s.onAgg (·.bootRun img)

/-- BOOT_RESYNC_TIMEOUT (R478). -/
def execBootResyncTimeout (s : State) : Out := s.onAgg (·.bootTimeout)

/-! ### Scans and calibrations: `ok`: it converged -/

/-- SCAN_START (R415). -/
def execScanStart (s : State) : Out := s.onUp (·.scanStart)

/-- SCAN_COMPLETE (R416): `fails` patterns failed. -/
def execScanComplete (core fails : Nat) (s : State) : Out := s.onUp (·.scanComplete core fails)

/-- FANOUT_CALIBRATION (R249). -/
def execFanoutCalibration (ok : Bool) (s : State) : Out := s.onUp (·.calFanout ok)

/-- BRIDGE_CALIBRATION (R417). -/
def execBridgeCalibration (ok : Bool) (s : State) : Out := s.onUp (·.calBridge ok)

/-- SENSOR_TRIM_CALIBRATION (R417). -/
def execSensorTrimCalibration (ok : Bool) (s : State) : Out := s.onUp (·.calSensor ok)

end Sys2Proof.Machine
end

