-- ==== Sys2Proof/Machine/AggTocsin.lean ====
section
/-!
DEFINITION. The 16 tocsin segments of the aggregator: alarms, beacons and guest frames (R226, R227, R229, R400, R423).
-/
namespace Sys2Proof.Machine

/-- The MAC of a segment hears a frame; true where it accepts it. -/
def Aggregator.tocReceive (a : Aggregator) (seg : Nat) (l : List Byte) : Bool × Aggregator :=
  let (ok, v) := (a.tocView seg).receive l
  (ok, a.withToc seg v)

/-- An alarm is delivered: to the tray controller, and to the health pipeline where it is a health report of a die unit of
this pair (R229, R400). -/
def Aggregator.deliverAlarm (a : Aggregator) (p : List Byte) : Aggregator :=
  let a1 := a.report "ALARM" (p.map BitVec.toNat)
  let duid := be p 2 6
  if be p 0 1 = 0 ∧ be p 8 1 = 1 ∧ (a.regKey duid).isSome then
    a1.takeReport duid (be p 12 1) (be p 13 1) (be p 10 2) (be p 9 1 % 4) (be p 14 10) 0 ⟨be p 14 8, 0, 0, noStep⟩
  else a1

/-- ALARM_RX: every accepted ALARM is acknowledged; each (ID_KIND, ASEQ, ID) is delivered once (R229; log 86). -/
def Aggregator.alarmRx (a : Aggregator) (seg : Nat) (l : List Byte) : Aggregator :=
  if 16 ≤ seg then a
  else
    let (ok, a1) := a.tocReceive seg l
    let p := tocPayload l
    if ¬ ok ∨ tocType l ≠ tocAlarm ∨ p.length < 28 then a1
    else
      let a2 := a1.tocSend seg (tocSrc l) tocAlarmAck (p.take 8)
      if a2.hlt.alarms.any fun x => x.take 8 = p.take 8 then a2
      else (a2.modHlt fun h => { h with alarms := h.alarms ++ [p] }).deliverAlarm p

/-- BEACON_TX on a segment, every 10 ms (R229, Table 8-11). -/
def Aggregator.beaconTx (a : Aggregator) (seg : Nat) : Aggregator :=
  let due : Bool := match tabGet a.hlt.lastBeacon seg with
    | some t => decide (t + 10000000 ≤ a.mono)
    | none => true
  if 16 ≤ seg ∨ ¬ due then a
  else
    (a.modHlt fun h => { h with lastBeacon := tabPut h.lastBeacon seg a.mono }).tocSend seg tocBroadcast tocBeacon
      (beBytes 2 a.id ++ beBytes 1 a.beaconState ++ beBytes 1 seg ++ a.mark)

/-- GUEST_FRAME_RX: an accepted guest frame becomes a GUEST notice (R423). -/
def Aggregator.guestRx (a : Aggregator) (seg : Nat) (l : List Byte) : Aggregator :=
  if 16 ≤ seg then a
  else
    let (ok, a1) := a.tocReceive seg l
    if ¬ ok ∨ tocType l < 0x80 then a1 else a1.guestNotice seg (tocSrc l) (tocType l) (tocPayload l)

/-- TOCSIN_UNKNOWN_RX at a segment. -/
def Aggregator.tocUnknown (a : Aggregator) (seg : Nat) (l : List Byte) : Aggregator :=
  if 16 ≤ seg then a else (a.tocReceive seg l).2

/-- TOCSIN_TX_START, TOCSIN_COLLISION and TOCSIN_TX_END at a segment. -/
def Aggregator.tocTxStart (a : Aggregator) (seg quiet : Nat) : Aggregator :=
  if 16 ≤ seg then a else a.withToc seg ((a.tocView seg).txStart a.mono quiet)
def Aggregator.tocCollision (a : Aggregator) (seg : Nat) (cd : Bool) (heard : List Bool) : Aggregator :=
  if 16 ≤ seg ∨ ¬ (a.tocView seg).mac.collides cd heard then a
  else
    let (n, a1) := a.draw
    a1.withToc seg ((a1.tocView seg).collision a.mono n)
def Aggregator.tocTxEnd (a : Aggregator) (seg : Nat) : Aggregator :=
  if 16 ≤ seg then a else a.withToc seg (a.tocView seg).txEnd

end Sys2Proof.Machine
end

