-- ==== Sys2Proof/Machine/ExecControl.lean ====
section
/-!
DEFINITION. The commands of the tocsin, of registration and failover, of control frames, and of frames, shaping and gates
(R20, R25, R27, R179, R206 to R218, R225 to R230, R258 to R266).
-/
namespace Sys2Proof.Machine

/-! ### Tocsin: `seg` is an aggregator's segment, none the die unit's node -/

/-- An operation of the tocsin node of the die unit, or of a segment. -/
def State.onNode (s : State) (seg : Option Nat) (fd : DieUnit → DieUnit) (fa : Nat → Aggregator → Aggregator) : Out :=
  match seg with
  | none => s.onDu fd
  | some k => s.onAgg (fa k)

/-- TOCSIN_TX_START (R227): the bus has had no transition for `quiet` bit times. -/
def execTocsinTxStart (seg : Option Nat) (quiet : Nat) (s : State) : Out :=
  s.onNode seg (fun d => d.withToc (d.tocView.txStart d.mono quiet)) fun k a => a.tocTxStart k quiet

/-- TOCSIN_COLLISION (R97, R227): ts_cd, and the levels heard on ts_rxd since the frame began; the backoff is drawn (log
20). -/
def execTocsinCollision (seg : Option Nat) (cd : Bool) (heard : List Bool) (s : State) : Out :=
  s.onNode seg (fun d => d.tocCollision cd heard) fun k a => a.tocCollision k cd heard

/-- TOCSIN_TX_END (R225). -/
def execTocsinTxEnd (seg : Option Nat) (s : State) : Out := s.onNode seg (·.tocTxEnd) fun k a => a.tocTxEnd k

/-- What the die unit's node does with the levels of a frame on ts_rxd, with what an accepted one of the type does; levels
that no preamble and delimiter begin are no frame. -/
def DieUnit.tocRx (d : DieUnit) (type : Nat) (rxd : List Bool) (f : List Byte → DieUnit → DieUnit) : DieUnit :=
  match tocHeard rxd with
  | none => d
  | some l =>
    let (ok, v) := d.tocView.receive l
    if ok ∧ tocType l = type then f l (d.withToc v) else d.withToc v

/-- The same at a segment of the aggregator, for an operation on the frame heard. -/
def State.onHeard (s : State) (rxd : List Bool) (f : List Byte → Aggregator → Aggregator) : Out :=
  s.onAgg fun a => match tocHeard rxd with | none => a | some l => f l a

/-- ALARM_RX (R229): the levels on ts_rxd. -/
def execAlarmRx (seg : Nat) (rxd : List Bool) (s : State) : Out := s.onHeard rxd fun l a => a.alarmRx seg l

/-- ALARM_ACK_RX (R228). -/
def execAlarmAckRx (rxd : List Bool) (s : State) : Out := s.onDu (·.tocRx tocAlarmAck rxd fun l d => d.alarmAck (tocPayload l))

/-- ALARM_RESEND (R228). -/
def execAlarmResend (aseq : Nat) (s : State) : Out := s.onDu (·.alarmResend aseq)

/-- CHIP_RESET_ANNOUNCE_RX (R230). -/
def execChipResetAnnounceRx (rxd : List Bool) (s : State) : Out := s.onDu (·.tocRx tocChipReset rxd fun l d => d.chipResetRx l)

/-- BEACON_RX (R230). -/
def execBeaconRx (rxd : List Bool) (s : State) : Out := s.onDu (·.tocRx tocBeacon rxd fun l d => d.beaconRx l)

/-- BEACON_TX (R229). -/
def execBeaconTx (seg : Nat) (s : State) : Out := s.onAgg (·.beaconTx seg)

/-- BEACON_LOST (R230). -/
def execBeaconLost (s : State) : Out := s.onDu (·.beaconLost)

/-- GUEST_FRAME_RX (R229). -/
def execGuestFrameRx (seg : Nat) (rxd : List Bool) (s : State) : Out := s.onHeard rxd fun l a => a.guestRx seg l

/-- TOCSIN_UNKNOWN_RX (R226). -/
def execTocsinUnknownRx (seg : Option Nat) (rxd : List Bool) (s : State) : Out :=
  s.onNode seg (fun d => d.tocRx 0 rxd fun _ d => d) fun k a => match tocHeard rxd with | none => a | some l => a.tocUnknown k l

/-! ### Registration, failover and keepalives -/

/-- FAILOVER_TIMEOUT (R25). -/
def execFailoverTimeout (s : State) : Out := s.onDu (·.failoverTimer)

/-- KEEPALIVE_TX (R266): to the die unit of a registration entry. -/
def execKeepaliveTx (entry : Nat) (s : State) : Out := s.onUp (·.keepalive entry)

/-- KEEPALIVE_RX (R25): of the aggregator with that ID. -/
def execKeepaliveRx (aggId : Nat) (s : State) : Out := s.onDu (·.keepaliveRx aggId)

/-- REGISTER_REQUEST_TX (R258). -/
def execRegisterRequestTx (s : State) : Out := s.onDu (·.registerRequest)

/-- REGISTER_REQUEST_RX (R259): a REGISTER frame from a MAC address. -/
def execRegisterRequestRx (mac : Nat) (l : List Byte) (s : State) : Out := s.onUp (·.registerRequestRx mac l)

/-- REGISTER_ACCEPT_RX (R259). -/
def execRegisterAcceptRx (nonce : Nat) (x : RegAccept) (s : State) : Out := s.onDu (·.registerAccept nonce x)

/-- REGISTER_REFUSE_RX (R259). -/
def execRegisterRefuseRx (nonce : Nat) (s : State) : Out := s.onDu (·.registerRefuse nonce)

/-- FAILOVER_REQUEST_RX (R260). -/
def execFailoverRequestRx (mac : Nat) (l : List Byte) (s : State) : Out := s.onUp (·.failoverRx mac l)

/-! ### Control frames at the die unit -/

/-- ARM (R179). -/
def execArm (h : CtlHead) (job gen : Nat) (s : State) : Out := s.onDu (·.control h (.arm job gen))

/-- RETIRE (R179). -/
def execRetire (h : CtlHead) (s : State) : Out := s.onDu (·.control h .retire)

/-- FREEZE_RELEASE (R119). -/
def execFreezeRelease (h : CtlHead) (s : State) : Out := s.onDu (·.control h .freezeRelease)

/-- FP_MAP (R162): an entry's index is its place in the frame. -/
def execFpMap (h : CtlHead) (ents : List FpMapEnt) (s : State) : Out := s.onDu (·.control h (.fpMap ents))

/-- SEL_KEY (R165). -/
def execSelKey (h : CtlHead) (key : List Byte) (s : State) : Out := s.onDu (·.control h (.selKey key))

/-- DUMP_ARM (R173): of a tensor, at the end of a step or at its first advance to one. -/
def execDumpArm (h : CtlHead) (tensor : Nat) (atEnd : Bool) (step : Nat) (s : State) : Out :=
  s.onDu (·.control h (.dumpArm tensor atEnd step))

/-- RING_TRIGGER (R154). -/
def execRingTrigger (h : CtlHead) (s : State) : Out := s.onDu (·.control h .ringTrigger)

/-- READMIT (R27). -/
def execReadmit (h : CtlHead) (step : Nat) (s : State) : Out := s.onDu (·.control h (.readmit step))

/-- REG_WRITE (R263). -/
def execRegWrite (h : CtlHead) (ops : List RegOp) (s : State) : Out := s.onDu (·.control h (.regs true ops))

/-- REG_READ (R263). -/
def execRegRead (h : CtlHead) (addrs : List Nat) (s : State) : Out :=
  s.onDu (·.control h (.regs false (addrs.map fun x => ⟨x, 0⟩)))

/-- CTL_BAD_FRAME (R262): a reserved opcode, or a wrong PLEN. -/
def execCtlBadFrame (h : CtlHead) (op : Nat) (s : State) : Out :=
  s.onDu (·.control h (.bad op))

/-- CONTROL_ACK_RX (R265). -/
def execControlAckRx (l : List Byte) (s : State) : Out := s.onUp (·.controlAckRx l)

/-- CTL_RETRY (R265): a control frame of a registration entry's path. -/
def execCtlRetry (entry cseq : Nat) (s : State) : Out := s.onUp (·.ctlRetry entry cseq)

/-! ### Frames, shaping and gates -/

/-- LAUNCH_DECISION (R213): a frame boundary, or a change of eligibility. -/
def execLaunchDecision (q : Nat) (s : State) : Out := s.onDu (·.launchDecision q)

/-- SHAPER_REFILL (R211). -/
def execShaperRefill (q : Nat) (s : State) : Out := s.onDu fun d => d.refill (d.stamp q)

/-- SHAPER_CONFIG_WRITE (R214): SHP_RATE or (`burst`) SHP_BURST of a stream. -/
def execShaperConfigWrite (stream : Nat) (burst : Bool) (w q : Nat) (s : State) : Out :=
  s.onDu (·.portWrite (if burst then addr_SHP_BURST stream else addr_SHP_RATE stream) w true q)

/-- GATE_COMMIT (R218): a privileged write of SHP_CTRL. -/
def execGateCommit (q : Nat) (s : State) : Out := s.onDu (·.portSet SHP_CTRL_COMMIT 1 q)

/-- GATE_LIST_SWITCH (R218). -/
def execGateListSwitch (q : Nat) (s : State) : Out := s.onDu (·.gateSwitch q)

/-- PARCEL_CLOSE_TIMEOUT (R206): of a parcel type. -/
def execParcelCloseTimeout (ptype : Nat) (s : State) : Out := s.onDu (·.closeTimeout ptype)

end Sys2Proof.Machine
end

