-- ==== Sys2Proof/Machine/ExecCount.lean ====
section
/-!
DEFINITION. The commands of the die unit's resets, MAC counts and counters (R77, R79, R81, R102 to R129, R472 to R475).
-/
namespace Sys2Proof.Machine

/-- POR_N (R475). -/
def execPorN (s : State) : Out := s.onDu (·.powerOnReset)

/-- RST_N (R77). -/
def execRstN (s : State) : Out := s.onDu (·.functionalReset 1)

/-- SOFT_RESET (R472): a privileged write of DU_RST.SOFT. -/
def execSoftReset (q : Nat) (s : State) : Out := s.onDu (·.portWrite addr_DU_RST 0x10 true q)

/-- DOMAIN_RESET (R472): a privileged write of DU_RST.DOM_RST. -/
def execDomainReset (doms q : Nat) (s : State) : Out := s.onDu (·.portWrite addr_DU_RST (doms % 16) true q)

/-- MAC_RX_DISCARD (R79): a frame lost by a receive buffer overflow, or by its FCS. -/
def execMacRxDiscard (overflow : Bool) (s : State) : Out :=
  s.onDu (·.inc (if overflow then DU_RXCNT_RX_OVF_N else DU_RXCNT_RX_FCS_N))

/-- EG_DROP (R81). -/
def execEgDrop (s : State) : Out := s.onDu fun d => (d.inc FB_COUNTS1_EG_DROP_N).raise FB_STATUS_EG_DROP

/-- CNT_CYCLE (R104). -/
def execCntCycle (i : CntInputs) (s : State) : Out := s.onDu (·.cntCycle i)

/-- LT_ERR_TOGGLE (R102): the new levels of the lt_err lines. -/
def execLtErrToggle (levels : Nat) (s : State) : Out := s.onDu (·.lightErr levels)

/-- COMMAND_START (R109). -/
def execCommandStart (cmId q : Nat) (s : State) : Out := s.onDu (·.commandStart cmId q)

/-- COMMAND_END (R109). -/
def execCommandEnd (q : Nat) (s : State) : Out := s.onDu (·.commandEnd q)

/-- Where CNT_SEL_n stands. -/
def selectorAddr (n : Nat) : Nat := if n < 240 then 0x4800 + 8 * n else 0x5800 + 8 * (n - 240)

/-- Where the value of counter n stands. -/
def counterAddr (n : Nat) : Nat :=
  if n < 240 then 0x4080 + 8 * n else if n < 480 then 0x5080 + 8 * (n - 240) else 0x3200 + 8 * (n - 480)

/-- SELECTOR_WRITE (R105). -/
def execSelectorWrite (n w : Nat) (priv : Bool) (q : Nat) (s : State) : Out :=
  s.onDu (·.portWrite (selectorAddr n) w priv q)

/-- A privileged write of CNT_CTRL that sets one of its pulses; FREEZE is written 0, and every other field as it stands. -/
def DieUnit.cntPulse (d : DieUnit) (f : Fld) (q : Nat) : DieUnit :=
  d.portWrite addr_CNT_CTRL (setBits (setBits (d.regs.word addr_CNT_CTRL).toNat 0 0 0) f.hi f.lo 1) true q

/-- CLEAR (R121). -/
def execClear (q : Nat) (s : State) : Out := s.onDu (·.cntPulse CNT_CTRL_CLEAR q)

/-- SNAP (R120). -/
def execSnap (q : Nat) (s : State) : Out := s.onDu (·.cntPulse CNT_CTRL_SNAP q)

/-- FREEZE (R118). -/
def execFreeze (q : Nat) (s : State) : Out := s.onDu (·.cntPulse CNT_CTRL_FREEZE q)

/-- FREEZE_REL (R119). -/
def execFreezeRel (q : Nat) (s : State) : Out :=
  s.onDu (·.cntPulse CNT_CTRL_FREEZE_REL q)

/-- FREEZE_TIMEOUT (R119). -/
def execFreezeTimeout (s : State) : Out := s.onDu (·.freezeTimeout)

/-- LATCH_REL (R116). -/
def execLatchRel (q : Nat) (s : State) : Out := s.onDu (·.cntPulse CNT_CTRL_LATCH_REL q)

/-- COUNTER_READ (R128): a read of a counter value over the register port. -/
def execCounterRead (n : Nat) (priv : Bool) (q : Nat) (s : State) : Out :=
  s.onDu (·.portAccess (counterAddr n) none priv q)

/-- PEAL_BANK_COPY (R123). -/
def execPealBankCopy (b : Nat) (s : State) : Out := s.onDu (·.copyBank b)

/-- LATCH_PARCEL_BUILD (R206). -/
def execLatchParcelBuild (s : State) : Out := s.onDu (·.buildLatch)

end Sys2Proof.Machine
end

