-- ==== Sys2Proof/Machine/HostMgmt.lean ====
section
/-!
DEFINITION. The management paths: capsules from the tray controller, and the MCTP endpoint (R428 to R430, Tables 15-2, 15-3).
-/
namespace Sys2Proof.Machine

/-! ### Capsules received -/

def Aggregator.capsuleBad (a : Aggregator) : Aggregator := a.raise HI_STATUS_CAPSULE_ERR

/-- A capsule of a kind from an OOB address: it is acknowledged and, where it is new, taken. -/
def Aggregator.capsuleRx (a : Aggregator) (src kind : Nat) (l : List Byte) (f : Aggregator → Aggregator) : Aggregator :=
  let mseq := be l 4 4
  if src ≠ a.cfg.oobCtl ∨ l.length < 24 ∨ be l 0 1 ≠ 1 ∨ be l 1 1 ≠ kind ∨ be l 16 2 ≠ l.length - 24 ∨ capMax < be l 16 2 then
    a.capsuleBad
  else
    let a1 := a.ackCapsule mseq
    if a.hif.capsSeen.contains mseq then a1
    else f (a1.modHif fun h => { h with capsSeen := (h.capsSeen ++ [mseq]).drop (h.capsSeen.length + 1 - 1024) })

/-- A management command that is whole, with its data; none while segments are missing. -/
def CapsuleIn.whole (x : CapsuleIn) : Option (List Byte × List Byte) :=
  x.entry.bind fun e =>
    let c : Command := ⟨0, mgmtQid, 0, e, [], 0, .queued⟩
    if ¬ c.dataIn ∨ c.dlen = 0 then some (e, []) else (joinSegs c.dlen x.segs).map fun d => (e, d)

/-- Commands that are whole join the management queue. -/
def Aggregator.pumpMgmt (a : Aggregator) : Aggregator :=
  a.modHif fun h => { h with mgmtQueue := h.mgmtQueue ++ h.capsIn.filterMap CapsuleIn.whole,
                             capsIn := h.capsIn.filter fun x => x.whole.isNone }

/-- What is known of a command's capsules, by its CID. -/
def HostIf.capsuleIn (h : HostIf) (tag : Nat) : CapsuleIn := (h.capsIn.find? fun x => x.tag = tag).getD ⟨tag, none, []⟩
def HostIf.setCapsuleIn (h : HostIf) (x : CapsuleIn) : HostIf :=
  { h with capsIn := (h.capsIn.filter fun y => y.tag ≠ x.tag) ++ [x] }

/-- CAPSULE_SUBMIT_RX. -/
def Aggregator.submitRx (a : Aggregator) (src : Nat) (l : List Byte) : Aggregator :=
  if l.length ≠ 88 then a.capsuleBad
  else a.capsuleRx src capSubmit l fun a =>
    (a.modHif fun h => h.setCapsuleIn { h.capsuleIn (be l 8 4) with entry := some (l.drop 24) }).pumpMgmt

/-- Management data held. -/
def HostIf.mgmtBytes (h : HostIf) : Nat :=
  ((h.capsIn.flatMap fun x => x.segs.map fun s => s.2.length) ++ h.mgmtQueue.map fun q => q.2.length).foldl (· + ·) 0

abbrev mgmtMax : Nat := 16777216

/-- CAPSULE_DATA_RX; a segment that 16 MiB do not hold is discarded without an acknowledgement. -/
def Aggregator.dataRx (a : Aggregator) (src : Nat) (l : List Byte) : Aggregator :=
  if mgmtMax < a.hif.mgmtBytes + (l.length - 24) then a.capsuleBad
  else a.capsuleRx src capData l fun a =>
    (a.modHif fun h =>
      let x := h.capsuleIn (be l 8 4)
      h.setCapsuleIn { x with segs := x.segs ++ [(be l 12 4, l.drop 24)] }).pumpMgmt

/-- CAPSULE_ACK_RX: the capsule acknowledged is not sent again. -/
def Aggregator.ackRx (a : Aggregator) (src : Nat) (l : List Byte) : Aggregator :=
  if src ≠ a.cfg.oobCtl ∨ l.length ≠ 24 ∨ be l 0 1 ≠ 1 ∨ be l 1 1 ≠ capAck then a.capsuleBad
  else a.modHif fun h => { h with capsOut := h.capsOut.filter fun c => c.mseq ≠ be l 20 4 }

/-- CAPSULE_RESEND: every 10 ms, at most 8 times in all; an EVENT until it is acknowledged. -/
def Aggregator.capsuleResend (a : Aggregator) (mseq : Nat) : Aggregator :=
  match a.hif.capsOut.find? fun c => c.mseq = mseq with
  | none => a
  | some c =>
    if a.mono < c.lastSent + 10000000 then a
    else if 8 ≤ c.tries ∧ c.kind ≠ capEvent then
      a.modHif fun h => { h with capsOut := h.capsOut.filter fun x => x.mseq ≠ mseq }
    else
      let c1 : CapsuleOut := { c with tries := c.tries + 1, lastSent := a.mono }
      a.modHif fun h => { h with capsOut := h.capsOut.map fun x => if x.mseq = mseq then c1 else x,
                                 oob := h.oob ++ [capsuleBytes c.kind mseq c.tag c.off (c.flags ||| 2) 0 c.payload] }

/-! ### MCTP (R428) -/

/-- The log that a vendor-defined Get Log reads. -/
def Aggregator.mctpLog (a : Aggregator) (log : Nat) : Option (List Byte) :=
  match log with
  | 1 => some a.recorderLog
  | 2 => some a.noticeLog
  | 4 => some a.fwLog
  | 5 => some a.poolLog
  | 6 => some a.queueLog
  | _ => none

/-- MCTP_MESSAGE_RX: an answer, and no change of state but the endpoint ID. -/
def Aggregator.mctpAnswer (a : Aggregator) (m : MctpMsg) : MctpAns :=
  match m with
  | .setEid e => .eid e
  | .getEid => .eid a.hif.eid
  | .getVersion => .version
  | .getTypes => .types
  | .getVendor => .vendor
  | .pldm t => if t = 0 ∨ t = 2 ∨ t = 4 then .pldm t else .error
  | .identify => .data a.identifyData
  | .getLog log off len => match a.mctpLog log with | some l => .data (slice l off len) | none => .error
  | .other _ => .error

def Aggregator.mctpRx (a : Aggregator) (m : MctpMsg) : Aggregator :=
  a.modHif fun h => { h with eid := (match m with | .setEid e => e | _ => h.eid), mctp := h.mctp ++ [a.mctpAnswer m] }

end Sys2Proof.Machine
end

