-- ==== Sys2Proof/Machine/ExecHost.lean ====
section
/-!
DEFINITION. The commands of the host queues, host commands, management messages, DMA channels and buffer pools (R418 to R450). A
host command names the accepted command by its serial number; `ok`: the host answers the reads and writes of its data.
-/
namespace Sys2Proof.Machine

/-! ### Queues -/

/-- SQ_DOORBELL (R432). -/
def execSqDoorbell (q tail : Nat) (s : State) : Out := s.onUp (·.sqDoorbell q tail)

/-- CQ_DOORBELL (R432). -/
def execCqDoorbell (cq head : Nat) (s : State) : Out := s.onUp (·.cqDoorbell cq head)

/-- COMMAND_FETCH (R433). -/
def execCommandFetch (s : State) : Out := s.onOob (·.commandFetch)

/-- COMMAND_BUDGET_EXPIRY (R436). -/
def execCommandBudgetExpiry (serial : Nat) (s : State) : Out := s.onOob (·.budgetExpiry serial)

/-! ### Reading commands -/

/-- IDENTIFY (R435). -/
def execIdentify (serial : Nat) (ok : Bool) (s : State) : Out := s.onOob (·.cmdIdentify serial ok)

/-- GET_LOG_RECORDER (R489). -/
def execGetLogRecorder (serial : Nat) (ok : Bool) (s : State) : Out :=
  s.onOob (·.cmdLog serial ok 1 fun a _ => some a.recorderLog)

/-- GET_LOG_NOTICES (R423). -/
def execGetLogNotices (serial : Nat) (ok : Bool) (s : State) : Out :=
  s.onOob (·.cmdLog serial ok 2 fun a _ => some a.noticeLog)

/-- GET_LOG_SAMPLING (R362). -/
def execGetLogSampling (serial : Nat) (ok : Bool) (s : State) : Out :=
  s.onOob (·.cmdLog serial ok 3 fun a c => a.samplingLog c.job c.gen)

/-- GET_LOG_FW_SLOTS (R442). -/
def execGetLogFwSlots (serial : Nat) (ok : Bool) (s : State) : Out :=
  s.onOob (·.cmdLog serial ok 4 fun a _ => some a.fwLog)

/-- GET_LOG_POOLS (R450). -/
def execGetLogPools (serial : Nat) (ok : Bool) (s : State) : Out :=
  s.onOob (·.cmdLog serial ok 5 fun a _ => some a.poolLog)

/-- GET_LOG_QUEUES (R431). -/
def execGetLogQueues (serial : Nat) (ok : Bool) (s : State) : Out :=
  s.onOob (·.cmdLog serial ok 6 fun a _ => some a.queueLog)

/-- GET_FEATURE (R436). -/
def execGetFeature (serial : Nat) (ok : Bool) (s : State) : Out := s.onOob (·.cmdGetFeature serial ok)

/-! ### Features (Table 15-10) -/

/-- QUEUE_CREATE (R431). -/
def execQueueCreate (serial : Nat) (ok : Bool) (s : State) : Out :=
  s.onUp (·.cmdFeature serial ok 0x01 fun a c _ => a.queueCreate c.args)

/-- QUEUE_DELETE (R431). -/
def execQueueDelete (serial : Nat) (ok : Bool) (s : State) : Out :=
  s.onUp (·.cmdFeature serial ok 0x02 fun a c _ => a.queueDelete c.args)

/-- CANCEL (R419). -/
def execCancel (serial : Nat) (ok : Bool) (s : State) : Out :=
  s.onUp (·.cmdFeature serial ok 0x03 fun a c _ => a.cancelTag serial c.args)

/-- DET_IMAGE_LOAD (R346): ADDR 8. -/
def execDetImageLoad (serial : Nat) (ok : Bool) (s : State) : Out :=
  s.onUp (·.cmdFeature serial ok 0x10 fun a c _ => a.detImageLoad (le c.args 0 8))

/-- DET_IMAGE_FREE (R347): SLOT 1. -/
def execDetImageFree (serial : Nat) (ok : Bool) (s : State) : Out :=
  s.onUp (·.cmdFeature serial ok 0x11 fun a c _ => a.detImageFree (le c.args 0 1))

/-- DET_BIND (R325): SLOT 1; BIND 1; reserved 6; CORES 8. -/
def execDetBind (serial : Nat) (ok : Bool) (s : State) : Out :=
  s.onUp (·.cmdFeature serial ok 0x12 fun a c _ =>
    if le c.args 2 6 ≠ 0 then (.fail csInvalidField, a)
    else a.detBind c.job c.gen (le c.args 0 1) (le c.args 1 1) (le c.args 8 8))

/-- DET_UNBIND (R325): BIND 1. -/
def execDetUnbind (serial : Nat) (ok : Bool) (s : State) : Out :=
  s.onUp (·.cmdFeature serial ok 0x13 fun a c _ => a.detUnbind c.job c.gen (le c.args 0 1))

/-- BROADCAST_ISSUE (R289). -/
def execBroadcastIssue (serial : Nat) (ok : Bool) (s : State) : Out :=
  s.onUp (·.cmdJobFeature serial ok 0x18 fun a c ctx j data => a.broadcastIssue ctx j c.args data)

/-- LEDGER_SPILL_NOW (R373). -/
def execLedgerSpillNow (serial : Nat) (ok : Bool) (s : State) : Out :=
  s.onUp (·.cmdFeature serial ok 0x20 fun a c _ => a.spillFeature c)

/-- LEDGER_IMPORT (R391). -/
def execLedgerImport (serial : Nat) (ok : Bool) (s : State) : Out :=
  s.onUp (·.cmdFeature serial ok 0x21 fun a c _ => a.ledgerImport c.args)

/-- LEDGER_REFERENCE (R392). -/
def execLedgerReference (serial : Nat) (ok : Bool) (s : State) : Out :=
  s.onUp (·.cmdJobFeature serial ok 0x22 fun a c ctx _ _ => a.ledgerReference ctx c.args)

/-- HEALTH_BUDGET (R405): GRANT 2; reserved 2; SPARES 4. -/
def execHealthBudget (serial : Nat) (ok : Bool) (s : State) : Out :=
  s.onUp (·.cmdFeature serial ok 0x30 fun a c _ =>
    if le c.args 2 2 ≠ 0 then (.fail csInvalidField, a) else (.ok, a.writeBudget (le c.args 0 2) (le c.args 4 4)))

/-- KNELL_CONFIRM (R407): FRU 2. -/
def execKnellConfirm (serial : Nat) (ok : Bool) (s : State) : Out :=
  s.onUp (·.cmdFeature serial ok 0x31 fun a c _ => (.ok, a.knellConfirm (le c.args 0 2)))

/-- KNELL_RELEASE (R407): FRU 2. -/
def execKnellRelease (serial : Nat) (ok : Bool) (s : State) : Out :=
  s.onUp (·.cmdFeature serial ok 0x32 fun a c _ => (.ok, a.knellRelease (le c.args 0 2)))

/-- SWAP (R409). -/
def execSwap (serial : Nat) (ok : Bool) (s : State) : Out :=
  s.onUp (·.cmdJobFeature serial ok 0x33 fun a c ctx j _ => a.swap serial c.gtag ctx j c.args)

/-- SCAN (R412). -/
def execScan (serial : Nat) (ok : Bool) (s : State) : Out :=
  s.onUp (·.cmdFeature serial ok 0x34 fun a c _ => a.scanFeature c.args)

/-- RESET_LOOP_CLEAR (R411). -/
def execResetLoopClear (serial : Nat) (ok : Bool) (s : State) : Out :=
  s.onUp (·.cmdFeature serial ok 0x35 fun a _ _ => (.ok, a.resetLoopClear))

/-! ### Firmware, Flush, Reset -/

/-- FIRMWARE_DOWNLOAD (R442). -/
def execFirmwareDownload (serial : Nat) (ok : Bool) (s : State) : Out := s.onOob (·.cmdFwDownload serial ok)

/-- FW_COMMIT (R442). -/
def execFwCommit (serial : Nat) (ok : Bool) (s : State) : Out := s.onOob (·.cmdFwCommit serial ok)

/-- FW_COMMIT_ACTIVATE (R442). -/
def execFwCommitActivate (serial : Nat) (ok : Bool) (s : State) : Out := s.onOob (·.cmdFwCommitActivate serial ok)

/-- FW_ACTIVATE (R442). -/
def execFwActivate (serial : Nat) (ok : Bool) (s : State) : Out := s.onOob (·.cmdFwActivate serial ok)

/-- FW_ACTIVATION_PROCEED (R442). -/
def execFwActivationProceed (s : State) : Out := s.onOob (·.fwProceed)

/-- FW_READY (R442). -/
def execFwReady (s : State) : Out := s.onOob (·.fwReady)

/-- FW_READY_TIMEOUT (R442). -/
def execFwReadyTimeout (s : State) : Out := s.onOob (·.fwTimeout)

/-- FLUSH (R439). -/
def execFlush (serial : Nat) (ok : Bool) (s : State) : Out := s.onUp (·.cmdFlush serial ok)

/-- FLUSH_COMPLETE (R439). -/
def execFlushComplete (serial : Nat) (s : State) : Out := s.onUp (·.flushComplete serial)

/-- RESET_INTERFACE (R440). -/
def execResetInterface (serial : Nat) (s : State) : Out := s.onUp (·.resetInterface serial)

/-- RESET_CHIP (R440). -/
def execResetChip (serial : Nat) (s : State) : Out := s.onUp (·.resetChip serial)

/-! ### Queries, ledger, trace, jobs -/

/-- QUERY (R294). -/
def execQuery (serial : Nat) (ok : Bool) (s : State) : Out := s.onUp (·.cmdQuery serial ok)

/-- READ_LEDGER_RECORDS (R384). -/
def execReadLedgerRecords (serial : Nat) (ok : Bool) (s : State) : Out := s.onUp (·.cmdReadLedger serial ok qkRecords)

/-- READ_LEDGER_SUMMARY (R383). -/
def execReadLedgerSummary (serial : Nat) (ok : Bool) (s : State) : Out := s.onUp (·.cmdReadLedger serial ok qkSummary)

/-- READ_LEDGER_EPOCHS (R383). -/
def execReadLedgerEpochs (serial : Nat) (ok : Bool) (s : State) : Out := s.onUp (·.cmdReadLedger serial ok qkEpochs)

/-- READ_LEDGER_VERDICTS (R383). -/
def execReadLedgerVerdicts (serial : Nat) (ok : Bool) (s : State) : Out := s.onUp (·.cmdReadLedger serial ok qkVerdicts)

/-- READ_LEDGER_COMPARE (R387). -/
def execReadLedgerCompare (serial : Nat) (ok : Bool) (s : State) : Out := s.onUp (·.cmdReadLedger serial ok qkCompare)

/-- READ_LEDGER_LAST_CLEAN (R386). -/
def execReadLedgerLastClean (serial : Nat) (ok : Bool) (s : State) : Out := s.onUp (·.cmdReadLedger serial ok qkLastClean)

/-- READ_LEDGER_MANIFEST (R390). -/
def execReadLedgerManifest (serial : Nat) (ok : Bool) (s : State) : Out := s.onUp (·.cmdReadLedger serial ok qkManifest)

/-- READ_TRACE (R449). -/
def execReadTrace (serial : Nat) (ok : Bool) (s : State) : Out := s.onUp (·.cmdReadTrace serial ok)

/-- ARM_JOB (R437). -/
def execArmJob (serial : Nat) (ok : Bool) (s : State) : Out := s.onUp (·.cmdArmJob serial ok)

/-- RETIRE_JOB (R288). -/
def execRetireJob (serial : Nat) (ok : Bool) (s : State) : Out := s.onUp (·.cmdRetireJob serial ok)

/-! ### Capsules of the OOB port, MCTP, PCIe resets -/

/-- CAPSULE_SUBMIT_RX (R430): a capsule from the controller with that address. -/
def execCapsuleSubmitRx (src : Nat) (l : List Byte) (s : State) : Out := s.onOob (·.submitRx src l)

/-- CAPSULE_DATA_RX (R430). -/
def execCapsuleDataRx (src : Nat) (l : List Byte) (s : State) : Out := s.onOob (·.dataRx src l)

/-- CAPSULE_ACK_RX (R430). -/
def execCapsuleAckRx (src : Nat) (l : List Byte) (s : State) : Out := s.onOob (·.ackRx src l)

/-- CAPSULE_RESEND (R430). -/
def execCapsuleResend (mseq : Nat) (s : State) : Out := s.onOob (·.capsuleResend mseq)

/-- MCTP_MESSAGE_RX (R428). -/
def execMctpMessageRx (m : MctpMsg) (s : State) : Out := s.onOob (·.mctpRx m)

/-- PCIE_CONVENTIONAL_RESET (R474). -/
def execPcieConventionalReset (s : State) : Out := s.onAgg (·.pcieReset)

/-- FLR (R474). -/
def execFlr (s : State) : Out := s.onAgg (·.flr)

/-! ### DMA channels: `n` is the channel -/

/-- A privileged write of DMA_CTRL with one of its pulses. -/
def Aggregator.dmaPulse (a : Aggregator) (n bit_ : Nat) : Aggregator :=
  a.barWrite (addr_DMA_CTRL n) (setBits (setBits (a.word (addr_DMA_CTRL n)).toNat 3 0 (4 * b2n (a.on (DMA_CTRL_IRQ_EN n)))) bit_ bit_ 1) 0

/-- DMA_START (R444). -/
def execDmaStart (n : Nat) (s : State) : Out := s.onAgg (·.dmaPulse n 0)

/-- DMA_STOP (R446). -/
def execDmaStop (n : Nat) (s : State) : Out := s.onAgg (·.dmaPulse n 1)

/-- DMA_DESCRIPTOR_DONE (R445). -/
def execDmaDescriptorDone (n : Nat) (s : State) : Out := s.onAgg (·.dmaDescDone n)

/-- DMA_FAULT (R446): the host refuses an access, of the descriptor (`fetch`) or after `moved` bytes of the data. -/
def execDmaFault (n : Nat) (fetch : Bool) (moved : Nat) (s : State) : Out := s.onAgg (·.dmaHostError n fetch moved)

/-! ### Buffer pools: privileged writes of PH_ADDR and PH_OP -/

/-- A write of PH_OP, after one of PH_ADDR where the operation takes a buffer. -/
def Aggregator.phOp (a : Aggregator) (op pool next actor : Nat) (buf : Option Nat) : Aggregator :=
  let a1 := match buf with | some x => a.barWrite addr_PH_ADDR x 0 | none => a
  a1.barWrite addr_PH_OP (op * 2 ^ 60 + pool % 4096 * 2 ^ 44 + next % 65536 * 2 ^ 16 + actor % 65536) 0

/-- PH_ALLOC (R447): of a pool, for the owner `next`, by the actor. -/
def execPhAlloc (pool next actor : Nat) (s : State) : Out := s.onAgg (·.phOp 1 pool next actor none)

/-- PH_GIVE (R447): a buffer to a new owner. -/
def execPhGive (pool buf next actor : Nat) (s : State) : Out := s.onAgg (·.phOp 2 pool next actor (some buf))

/-- PH_FREE (R447). -/
def execPhFree (pool buf actor : Nat) (s : State) : Out := s.onAgg (·.phOp 3 pool 0 actor (some buf))

end Sys2Proof.Machine
end

