-- ==== Sys2Proof/Machine/Isa.lean ====
section
/-!
DEFINITION. The sequencer instructions of detector programs (R333, R334, R338, R339, Table 12-3).
-/
namespace Sys2Proof.Machine

/-! ### Faults (Table 12-6) -/

abbrev rfIllegal : Nat := 0x01
abbrev rfAccess : Nat := 0x02
abbrev rfAlign : Nat := 0x03
abbrev rfBudget : Nat := 0x04
abbrev rfXdeBusy : Nat := 0x05
abbrev rfSketch : Nat := 0x06
abbrev rfNotRoot : Nat := 0x07
abbrev rfTrap : Nat := 0x08

/-! ### Registers -/

def Core.xr (k : Core) (n : Nat) : W64 := if n = 0 then 0 else storeGet 0 k.x n
def Core.setX (k : Core) (n : Nat) (v : W64) : Core := if n = 0 then k else { k with x := storeSet 0 k.x n v }
def Core.next (k : Core) : Core := { k with pc := k.pc + 1 }
def Core.jump (k : Core) (imm : Int) : Core := { k with pc := ((k.pc : Int) + imm).toNat }
def bool64 (b : Bool) : W64 := BitVec.ofNat 64 (b2n b)
def imm64 (i : Insn) : W64 := BitVec.ofInt 64 i.imm

/-- What an instruction does: the aggregator after it; the fault that ends the run; or a refused access, with the aggregator that
has counted it, which ends the run with ACCESS. -/
inductive IsaRes where
  | go (a : Aggregator)
  | stop (code user : Nat)
  | refuse (a : Aggregator)

/-- An instruction of the run on a core. Nothing issues on a core without a run, or while it is blocked. -/
def Aggregator.isa (a : Aggregator) (c op : Nat) (i : Insn) (f : Core → Run → IsaRes) : Aggregator :=
  let k := a.core c
  match k.run with
  | none => a
  | some r =>
    if k.blocked ≠ .no then a
    else if ¬ i.legal op then a.endRun c (some (rfIllegal, 0))
    else match f k r with
      | .go a1 => a1
      | .stop code user => a.endRun c (some (code, user))
      | .refuse a1 => a1.endRun c (some (rfAccess, 0))

/-- An instruction that changes nothing but its core. -/
def Aggregator.isaCore (a : Aggregator) (c op : Nat) (i : Insn) (f : Core → Core) : Aggregator :=
  a.isa c op i fun k _ => .go (a.setCore c (f k))

/-- xD ← xA op xB. -/
def Aggregator.alu (a : Aggregator) (c op : Nat) (i : Insn) (f : W64 → W64 → W64) : Aggregator :=
  a.isaCore c op i fun k => (k.setX i.d (f (k.xr i.a) (k.xr i.b))).next

def mulHigh (x y : W64) : W64 := BitVec.ofNat 64 (x.toNat * y.toNat / 2 ^ 64)
def shl64 (x y : W64) : W64 := x <<< (y.toNat % 64)
def shr64 (x y : W64) : W64 := x >>> (y.toNat % 64)
def sra64 (x y : W64) : W64 := x.sshiftRight (y.toNat % 64)
def divu64 (x y : W64) : W64 := if y = 0 then BitVec.allOnes 64 else x / y
def remu64 (x y : W64) : W64 := if y = 0 then x else x % y

def Aggregator.isaLi (a : Aggregator) (c : Nat) (i : Insn) : Aggregator :=
  a.isaCore c 0x02 i fun k => (k.setX i.d (imm64 i)).next
def Aggregator.isaAddi (a : Aggregator) (c : Nat) (i : Insn) : Aggregator :=
  a.isaCore c 0x0D i fun k => (k.setX i.d (k.xr i.a + imm64 i)).next

/-! ### Control flow -/

def Aggregator.isaHalt (a : Aggregator) (c : Nat) (i : Insn) : Aggregator := a.isa c 0x01 i fun _ _ => .go (a.endRun c none)

/-- A branch that is taken where `p` holds. -/
def Aggregator.isaBranch (a : Aggregator) (c op : Nat) (i : Insn) (p : W64 → Bool) : Aggregator :=
  a.isaCore c op i fun k => if p (k.xr i.a) then k.jump i.imm else k.next

def Aggregator.isaCall (a : Aggregator) (c : Nat) (i : Insn) : Aggregator :=
  a.isaCore c 0x23 i fun k => (k.setX 63 (BitVec.ofNat 64 (k.pc + 1))).jump i.imm
def Aggregator.isaRet (a : Aggregator) (c : Nat) (i : Insn) : Aggregator :=
  a.isaCore c 0x24 i fun k => { k with pc := (k.xr 63).toNat }
def Aggregator.isaLoop (a : Aggregator) (c : Nat) (i : Insn) : Aggregator :=
  a.isaCore c 0x25 i fun k =>
    let v := k.xr i.a - 1
    let k1 := k.setX i.a v
    if v ≠ 0 then k1.jump i.imm else k1.next
def Aggregator.isaTrap (a : Aggregator) (c : Nat) (i : Insn) : Aggregator :=
  a.isa c 0x3A i fun _ _ => .stop rfTrap (unsigned 16 i.imm)

/-! ### Memory (R338) -/

def inAreas (l : List (Nat × Nat)) (addr len : Nat) : Bool := l.any fun r => decide (r.1 ≤ addr ∧ addr + len ≤ r.1 + r.2)

/-- The run may make an access: within its areas, and where the HBM regions admit the requester. -/
def Aggregator.runOk (a : Aggregator) (r : Run) (write : Bool) (q : Req) (addr len : Nat) : Bool :=
  decide (len = 0) || ((inAreas r.rw addr len || (!write && inAreas r.rd addr len)) && a.memOk write q addr len)

/-- An access of a run: write or read, address, length. -/
abbrev MemAccess := Bool × Nat × Nat
def rdAt (addr len : Nat) : MemAccess := (false, addr, len)
def wrAt (addr len : Nat) : MemAccess := (true, addr, len)

/-- The accesses of an instruction are made: the first one that is refused ends the run (R247, R338); of poisoned data nothing is
committed, so that the instruction does not complete before the reset (R235, log 141). -/
def Aggregator.access (a : Aggregator) (r : Run) (q : Req) (l : List MemAccess) (f : Aggregator → IsaRes) : IsaRes :=
  match l.find? fun x => !a.runOk r x.1 q x.2.1 x.2.2 with
  | some x => .refuse (a.deny x.1 q x.2.1 x.2.2)
  | none =>
    let a1 := l.foldl (fun (a : Aggregator) x => a.hbmTouch x.2.1 x.2.2) a
    if l.any fun x => !x.1 && a.poisoned x.2.1 x.2.2 then .go a1 else f a1

/-- A load of n bytes, zero-extended. -/
def Aggregator.isaLoad (a : Aggregator) (c op n : Nat) (i : Insn) : Aggregator :=
  a.isa c op i fun k r =>
    let addr := (k.xr i.a + imm64 i).toNat
    if addr % n ≠ 0 then .stop rfAlign 0
    else a.access r .seq [rdAt addr n] fun a =>
      .go (a.setCore c (k.setX i.d (BitVec.ofNat 64 (leNat (memBytes a.mem addr n)))).next)

/-- A store of n bytes. -/
def Aggregator.isaStore (a : Aggregator) (c op n : Nat) (i : Insn) : Aggregator :=
  a.isa c op i fun k r =>
    let addr := (k.xr i.a + imm64 i).toNat
    if addr % n ≠ 0 then .stop rfAlign 0
    else a.access r .seq [wrAt addr n] fun a =>
      .go { a.setCore c k.next with mem := memPut a.mem addr (leBytes n (k.xr i.b).toNat) }

/-- MOVE: the ranges are checked at issue, and the copy waits for the mover. -/
def Aggregator.isaMove (a : Aggregator) (c : Nat) (i : Insn) : Aggregator :=
  a.isa c 0x30 i fun k r =>
    let m : Move := ⟨(k.xr i.d).toNat, (k.xr i.a).toNat, (k.xr i.b).toNat⟩
    a.access r .seq [wrAt m.dst m.len, rdAt m.src m.len] fun a =>
      .go (a.setCore c { k.next with run := some { r with moves := r.moves ++ [m] } })

/-- MOVE_DONE: the oldest copy of the run on a core completes. -/
def Aggregator.moveDone (a : Aggregator) (c : Nat) : Aggregator :=
  let k := a.core c
  match k.run with
  | none => a
  | some r =>
    match r.moves with
    | [] => a
    | m :: ms =>
      if a.poisoned m.src m.len then a
      else
      let k1 : Core := { k with run := some { r with moves := ms }, blocked := if k.blocked = .moves ∧ ms = [] then .no else k.blocked }
      ((a.hbmTouch m.src m.len).setCore c k1).poke m.dst (memBytes a.mem m.src m.len)

def Aggregator.isaMwait (a : Aggregator) (c : Nat) (i : Insn) : Aggregator :=
  a.isa c 0x31 i fun k r => .go (a.setCore c { k.next with blocked := if r.moves = [] then .no else .moves })

/-! ### Synchronisation -/

/-- An operation that answers a status at once, or blocks the core until its release. -/
def Aggregator.syncRes (a1 : Aggregator) (c : Nat) (k : Core) (rd : Nat) (st : Option Nat) : IsaRes :=
  match st with
  | some s => .go (a1.setCore c (k.setX rd (BitVec.ofNat 64 s)).next)
  | none => .go (a1.setCore c { k.next with blocked := .sync rd })

/-- The object of a number of the instance's allocation. -/
def objOf (l : List Nat) (imm : Int) : Option Nat := if 0 ≤ imm then l[imm.toNat]? else none

def Aggregator.instOf (a : Aggregator) (r : Run) (f : Instance → List Nat) : List Nat := ((a.inst r.inst).map f).getD []

/-- ARRIVE and SIGNAL are releases: while a copy of the core's mover is not complete they do not issue (R236, log 137). -/
def Aggregator.isaArrive (a : Aggregator) (c cyc : Nat) (i : Insn) : Aggregator :=
  a.isa c 0x28 i fun k r =>
    if r.moves ≠ [] then .go a
    else match objOf (a.instOf r (·.barriers)) i.imm with
    | none => a.syncRes c k i.d (some syncOwner)
    | some b =>
      let (st, a1) := a.arrive b c r.ctx (a.cycle cyc)
      a1.syncRes c k i.d st

def Aggregator.isaSignal (a : Aggregator) (c cyc : Nat) (i : Insn) : Aggregator :=
  a.isa c 0x29 i fun k r =>
    if r.moves ≠ [] then .go a
    else match objOf (a.instOf r (·.sems)) i.imm with
    | none => .go (a.setCore c k.next)
    | some s =>
      let (_, a1) := a.semSignal s (k.xr i.a).toNat (4 * c) r.ctx (a.cycle cyc)
      .go (a1.setCore c k.next)

def Aggregator.isaWait (a : Aggregator) (c cyc : Nat) (i : Insn) : Aggregator :=
  a.isa c 0x2A i fun k r =>
    match objOf (a.instOf r (·.sems)) i.imm with
    | none => a.syncRes c k i.d (some syncOwner)
    | some s =>
      let (st, a1) := a.semWait s (k.xr i.a).toNat (k.xr i.b).toNat (4 * c) i.d (k.pc + 1) r.ctx (a.cycle cyc)
      a1.syncRes c k i.d st

def Aggregator.isaTrywait (a : Aggregator) (c cyc : Nat) (i : Insn) : Aggregator :=
  a.isa c 0x2B i fun k r =>
    match objOf (a.instOf r (·.sems)) i.imm with
    | none => a.syncRes c k i.d (some syncOwner)
    | some s =>
      let (st, a1) := a.semTry s (k.xr i.a).toNat (4 * c) i.d (k.pc + 1) r.ctx (a.cycle cyc)
      a1.syncRes c k i.d st

/-- SEMREAD gives the value; of an object that is not the run's, the status OWNER. -/
def Aggregator.isaSemread (a : Aggregator) (c : Nat) (i : Insn) : Aggregator :=
  a.isa c 0x2C i fun k r =>
    match objOf (a.instOf r (·.sems)) i.imm with
    | some s => if a.ownsSem s r.ctx then a.syncRes c k i.d (some (a.get (SEM_VAL_VALUE s))) else a.syncRes c k i.d (some syncOwner)
    | none => a.syncRes c k i.d (some syncOwner)

/-! ### Epochs, events, outputs, broadcasts -/

/-- EPOCH: the key is little-endian, its T_P ns 8 and fraction 2 (log 73). -/
def Aggregator.isaEpoch (a : Aggregator) (c : Nat) (i : Insn) : Aggregator :=
  a.isa c 0x34 i fun k r =>
    let addr := (k.xr i.a).toNat
    let dst := (k.xr i.b).toNat
    if addr % 8 ≠ 0 then .stop rfAlign 0
    else a.access r .seq [rdAt addr 24] fun a =>
      let key := memBytes a.mem addr 24
      let (st, b) : Nat × List Byte := match a.findJob (le key 0 4) (le key 4 1) with
        | some (_, j) => j.readEpoch (le key 8 8 * nsU + le key 16 2)
        | none => (epNotFound, [])
      if b ≠ [] ∧ sramEnd < dst + b.length then .stop rfAccess 0
      else a.access r .seq [wrAt dst b.length] fun a => .go { a.setCore c (k.setX i.d (BitVec.ofNat 64 st)).next with mem := memPut a.mem dst b }

def Aggregator.isaEvent (a : Aggregator) (c : Nat) (i : Insn) : Aggregator :=
  a.isa c 0x35 i fun k r =>
    let addr := (k.xr i.a).toNat
    if addr % 8 ≠ 0 then .stop rfAlign 0
    else a.access r .seq [rdAt addr 64] fun a => .go ((a.setCore c k.next).putEvent c (readEvent (memBytes a.mem addr 64)))

def Aggregator.isaOut (a : Aggregator) (c : Nat) (i : Insn) : Aggregator :=
  a.isa c 0x36 i fun k r =>
    if r.duid.isNone then .go (a.setCore c k.next)
    else
      .go (a.setCore c { k.next with run := some { r with outputs := tabPut r.outputs (unsigned 4 i.imm) (k.xr i.a) } })

/-- FENCE: STE and XDE instructions complete as they issue. -/
def Aggregator.isaFence (a : Aggregator) (c : Nat) (i : Insn) : Aggregator := a.isaCore c 0x38 i Core.next

def Aggregator.isaBcast (a : Aggregator) (c : Nat) (i : Insn) : Aggregator :=
  a.isa c 0x39 i fun k r =>
    let addr := (k.xr i.a).toNat
    let len := 40 + beNat (memBytes a.mem (addr + 8) 4)
    a.access r .seq [rdAt addr 40, rdAt addr len] fun a => match (a.setCore c k.next).runBcast c (memBytes a.mem addr len) with
      | (true, a1) => .go a1
      | (false, _) => .stop rfNotRoot 0

end Sys2Proof.Machine
end

