-- ==== Sys2Proof/Machine/ExecIsa.lean ====
section
/-!
DEFINITION. The sequencer instructions of detector programs, and the releases of what they wait for (R236, R239 to R242, R294, R334,
Table 12-3). An instruction issues on core `c`; `cyc`: core cycles since the last reference edge.
-/
namespace Sys2Proof.Machine

/-- NOP (R334). -/
def execNop (c : Nat) (i : Insn) (s : State) : Out := s.onAgg fun a => a.isaCore c 0x00 i Core.next

/-- HALT (R334). -/
def execHalt (c : Nat) (i : Insn) (s : State) : Out := s.onAgg fun a => a.isaHalt c i

/-- LI (R334). -/
def execLi (c : Nat) (i : Insn) (s : State) : Out := s.onAgg fun a => a.isaLi c i

/-- ADD (R334). -/
def execAdd (c : Nat) (i : Insn) (s : State) : Out := s.onAgg fun a => a.alu c 0x03 i (· + ·)

/-- SUB (R334). -/
def execSub (c : Nat) (i : Insn) (s : State) : Out := s.onAgg fun a => a.alu c 0x04 i (· - ·)

/-- MUL (R334). -/
def execMul (c : Nat) (i : Insn) (s : State) : Out := s.onAgg fun a => a.alu c 0x05 i (· * ·)

/-- MULHU (R334). -/
def execMulhu (c : Nat) (i : Insn) (s : State) : Out := s.onAgg fun a => a.alu c 0x06 i mulHigh

/-- AND (R334). -/
def execAnd (c : Nat) (i : Insn) (s : State) : Out := s.onAgg fun a => a.alu c 0x07 i (· &&& ·)

/-- OR (R334). -/
def execOr (c : Nat) (i : Insn) (s : State) : Out := s.onAgg fun a => a.alu c 0x08 i (· ||| ·)

/-- XOR (R334). -/
def execXor (c : Nat) (i : Insn) (s : State) : Out := s.onAgg fun a => a.alu c 0x09 i (· ^^^ ·)

/-- SHL (R334). -/
def execShl (c : Nat) (i : Insn) (s : State) : Out := s.onAgg fun a => a.alu c 0x0A i shl64

/-- SHR (R334). -/
def execShr (c : Nat) (i : Insn) (s : State) : Out := s.onAgg fun a => a.alu c 0x0B i shr64

/-- SRA (R334). -/
def execSra (c : Nat) (i : Insn) (s : State) : Out := s.onAgg fun a => a.alu c 0x0C i sra64

/-- ADDI (R334). -/
def execAddi (c : Nat) (i : Insn) (s : State) : Out := s.onAgg fun a => a.isaAddi c i

/-- CMPLT (R334). -/
def execCmplt (c : Nat) (i : Insn) (s : State) : Out := s.onAgg fun a => a.alu c 0x0E i fun x y => bool64 (x.slt y)

/-- CMPLTU (R334). -/
def execCmpltu (c : Nat) (i : Insn) (s : State) : Out := s.onAgg fun a => a.alu c 0x0F i fun x y => bool64 (x.ult y)

/-- CMPEQ (R334). -/
def execCmpeq (c : Nat) (i : Insn) (s : State) : Out := s.onAgg fun a => a.alu c 0x10 i fun x y => bool64 (x == y)

/-- DIVU (R334). -/
def execDivu (c : Nat) (i : Insn) (s : State) : Out := s.onAgg fun a => a.alu c 0x11 i divu64

/-- REMU (R334). -/
def execRemu (c : Nat) (i : Insn) (s : State) : Out := s.onAgg fun a => a.alu c 0x12 i remu64

/-- LD (R334). -/
def execLd (c : Nat) (i : Insn) (s : State) : Out := s.onAgg fun a => a.isaLoad c 0x18 8 i

/-- ST (R334). -/
def execSt (c : Nat) (i : Insn) (s : State) : Out := s.onAgg fun a => a.isaStore c 0x19 8 i

/-- LDW (R334). -/
def execLdw (c : Nat) (i : Insn) (s : State) : Out := s.onAgg fun a => a.isaLoad c 0x1A 4 i

/-- STW (R334). -/
def execStw (c : Nat) (i : Insn) (s : State) : Out := s.onAgg fun a => a.isaStore c 0x1B 4 i

/-- BR (R334). -/
def execBr (c : Nat) (i : Insn) (s : State) : Out := s.onAgg fun a => a.isaBranch c 0x20 i fun _ => true

/-- BZ (R334). -/
def execBz (c : Nat) (i : Insn) (s : State) : Out := s.onAgg fun a => a.isaBranch c 0x21 i fun x => x == 0

/-- BNZ (R334). -/
def execBnz (c : Nat) (i : Insn) (s : State) : Out := s.onAgg fun a => a.isaBranch c 0x22 i fun x => x != 0

/-- CALL (R334). -/
def execCall (c : Nat) (i : Insn) (s : State) : Out := s.onAgg fun a => a.isaCall c i

/-- RET (R334). -/
def execRet (c : Nat) (i : Insn) (s : State) : Out := s.onAgg fun a => a.isaRet c i

/-- LOOP (R334). -/
def execLoop (c : Nat) (i : Insn) (s : State) : Out := s.onAgg fun a => a.isaLoop c i

/-- ARRIVE (R239). -/
def execArrive (c : Nat) (i : Insn) (cyc : Nat) (s : State) : Out := s.onAgg fun a => a.isaArrive c cyc i

/-- SIGNAL (R241). -/
def execSignal (c : Nat) (i : Insn) (cyc : Nat) (s : State) : Out := s.onAgg fun a => a.isaSignal c cyc i

/-- WAIT (R242). -/
def execWait (c : Nat) (i : Insn) (cyc : Nat) (s : State) : Out := s.onAgg fun a => a.isaWait c cyc i

/-- TRYWAIT (R241). -/
def execTrywait (c : Nat) (i : Insn) (cyc : Nat) (s : State) : Out := s.onAgg fun a => a.isaTrywait c cyc i

/-- SEMREAD (R241). -/
def execSemread (c : Nat) (i : Insn) (s : State) : Out := s.onAgg fun a => a.isaSemread c i

/-- MOVE (R334). -/
def execMove (c : Nat) (i : Insn) (s : State) : Out := s.onAgg fun a => a.isaMove c i

/-- MWAIT (R334). -/
def execMwait (c : Nat) (i : Insn) (s : State) : Out := s.onAgg fun a => a.isaMwait c i

/-- EPOCH (R294). -/
def execEpoch (c : Nat) (i : Insn) (s : State) : Out := s.onAgg fun a => a.isaEpoch c i

/-- EVENT (R349). -/
def execEvent (c : Nat) (i : Insn) (s : State) : Out := s.onAgg fun a => a.isaEvent c i

/-- OUT (R334). -/
def execOut (c : Nat) (i : Insn) (s : State) : Out := s.onAgg fun a => a.isaOut c i

/-- FENCE (R335). -/
def execFence (c : Nat) (i : Insn) (s : State) : Out := s.onAgg fun a => a.isaFence c i

/-- BCAST (R360). -/
def execBcast (c : Nat) (i : Insn) (s : State) : Out := s.onAgg fun a => a.isaBcast c i

/-- TRAP (R334). -/
def execTrap (c : Nat) (i : Insn) (s : State) : Out := s.onAgg fun a => a.isaTrap c i

/-! ### Releases and timeouts -/

/-- BARRIER_RELEASE (R239). -/
def execBarrierRelease (b cyc : Nat) (s : State) : Out := s.onAgg fun a => a.barrierRelease b (a.cycle cyc)

/-- BARRIER_TIMEOUT (R240). -/
def execBarrierTimeout (b cyc : Nat) (s : State) : Out := s.onAgg fun a => a.barrierTimeout b (a.cycle cyc)

/-- SEM_WAITER_RELEASE (R242): of a served waiter, by its engine. -/
def execSemWaiterRelease (engine cyc : Nat) (s : State) : Out := s.onAgg fun a => a.semRelease engine (a.cycle cyc)

/-- SEM_WAIT_TIMEOUT (R242): of an engine that waits at a semaphore. -/
def execSemWaitTimeout (sem engine cyc : Nat) (s : State) : Out := s.onAgg fun a => a.semExpire sem engine (a.cycle cyc)

/-- MOVE_DONE (R236): the oldest copy of the run on a core. -/
def execMoveDone (c : Nat) (s : State) : Out := s.onAgg (·.moveDone c)

end Sys2Proof.Machine
end

