-- ==== Sys2Proof/Machine/ExecMirror.lean ====
section
/-!
DEFINITION. The commands of the mirror link, of the exact audit and of detector runs (R23, R24, R305 to R328, R378 to R382, R422).
-/
namespace Sys2Proof.Machine

/-! ### The mirror link: `l` is the payload of a MIRROR frame -/

/-- MIRROR_LINK_UP (R23): with what the far end tells of itself. -/
def execMirrorLinkUp (farId : Nat) (farDomains : List Nat) (farSession farAck : Nat) (s : State) : Out :=
  s.onUp (·.mirrorLinkUp farId farDomains farSession farAck)

/-- MIRROR_LINK_DOWN (R24). -/
def execMirrorLinkDown (s : State) : Out := s.onUp (·.mirrorLinkDown)

/-- MIRROR_LEDGER_RX (R378). -/
def execMirrorLedgerRx (l : List Byte) (s : State) : Out := s.onUp (·.mirrorLedgerRx l)

/-- MIRROR_CONTEXT_RX (R378): `img` is the job context that a JOB image stands for (log 42). -/
def execMirrorContextRx (l : List Byte) (img : JobImage) (s : State) : Out := s.onUp (·.mirrorContextRx l img)

/-- MIRROR_IMAGE_RX (R378). -/
def execMirrorImageRx (l : List Byte) (s : State) : Out := s.onUp (·.mirrorImageRx l)

/-- MIRROR_ACK_RX (R378). -/
def execMirrorAckRx (l : List Byte) (s : State) : Out := s.onUp (·.mirrorAckRx l)

/-- MIRROR_SPILLED_RX (R382). -/
def execMirrorSpilledRx (l : List Byte) (s : State) : Out := s.onUp (·.mirrorSpilledRx l)

/-- RESYNC_REQ_RX (R378). -/
def execResyncReqRx (l : List Byte) (s : State) : Out := s.onUp (·.resyncReqRx l)

/-- RESYNC_BEGIN_RX (R380). -/
def execResyncBeginRx (l : List Byte) (s : State) : Out := s.onUp (·.resyncBeginRx l)

/-- RESYNC_END_RX (R380). -/
def execResyncEndRx (l : List Byte) (s : State) : Out := s.onUp (·.resyncEndRx l)

/-- PARTNER_HEALTH_RX (R422). -/
def execPartnerHealthRx (l : List Byte) (s : State) : Out := s.onUp (·.partnerHealthRx l)

/-- MIRROR_RESERVED_RX (R378). -/
def execMirrorReservedRx (l : List Byte) (s : State) : Out := s.onUp (·.mirrorReservedRx l)

/-- MIRROR_RETRY (R378). -/
def execMirrorRetry (mseq : Nat) (s : State) : Out := s.onUp (·.mirrorRetry mseq)

/-- PARTNER_HEALTH_TX (R422). -/
def execPartnerHealthTx (s : State) : Out := s.onUp (·.partnerHealthTx)

/-- PARTNER_LOST (R422). -/
def execPartnerLost (s : State) : Out := s.onUp (·.partnerLost)

/-! ### Audits: a tile is named by DUID, job, generation and CAP_SEQ -/

/-- STAGE_WAIT_EXPIRY (R307). -/
def execStageWaitExpiry (duid job gen seq : Nat) (s : State) : Out := s.onAgg (·.stageExpiry duid job gen seq)

/-- TILE_DISPATCH (R308): to the XDE of a core. -/
def execTileDispatch (core : Nat) (s : State) : Out := s.onAgg (·.dispatch core)

/-- START_WAIT_EXPIRY (R308). -/
def execStartWaitExpiry (duid job gen seq : Nat) (s : State) : Out := s.onAgg (·.startExpiry duid job gen seq)

/-- AUDIT_COMPLETE (R312): on a core; `errs`: wrong computations of the engine, none where it computes exactly. -/
def execAuditComplete (core : Nat) (errs : List (Nat × Int × Int)) (s : State) : Out := s.onAgg (·.auditComplete core errs)

/-- ENGINE_FAULT (R309). -/
def execEngineFault (core : Nat) (s : State) : Out := s.onAgg (·.engineFault core)

/-- NUMERICS_DESCRIPTOR_WRITE (R324): word `w` of entry `e`. -/
def execNumericsDescriptorWrite (e w value : Nat) (s : State) : Out := s.onAgg (·.entryWrite 0x15 (4 * e + w) value 0)

/-! ### Detector runs -/

/-- DETECTOR_TRAY_RUN (R326): the next waiting run of a core. -/
def execDetectorTrayRun (core : Nat) (s : State) : Out := s.onAgg (·.startRun core true)

/-- DETECTOR_EPOCH_RUN (R327). -/
def execDetectorEpochRun (core : Nat) (s : State) : Out := s.onAgg (·.startRun core false)

/-- RUN_BUDGET (R328): `elapsed` cycles of the run. -/
def execRunBudget (core cyc : Nat) (s : State) : Out := s.onAgg (·.runBudget core cyc)

end Sys2Proof.Machine
end

