-- ==== Sys2Proof/Machine/AggTime.lean ====
section
/-!
DEFINITION. The aggregator's time unit: its slave side and its master ports (R35, R37, R41 to R47, R52, R471).
-/
namespace Sys2Proof.Machine

/-! ### Port roles (R37, Table 16-7) -/

abbrev roleSlave : Nat := 1
abbrev roleMaster : Nat := 2

/-- The entry of a port and domain on page 0x002 (R471). -/
def portEnt (port : Nat) (d : Dom) : Nat := 2 * port + d.code

def Aggregator.role (a : Aggregator) (port : Nat) (d : Dom) : Nat := if port < 9 then a.get (PS_CFG_ROLE (portEnt port d)) else 0

/-- Compatibility mode is selected per port (R47). -/
def Aggregator.portCompat (a : Aggregator) (port : Nat) : Bool :=
  a.on (PS_CFG_COMPAT (portEnt port .pri)) || a.on (PS_CFG_COMPAT (portEnt port .red))

/-- A discarded stamp or an ignored message is counted on the port too (Table 16-7). -/
def Aggregator.portDiscard (a : Aggregator) (port : Nat) (d : Dom) : Aggregator :=
  if port < 9 then a.inc (PS_CNT1_DISCARDED_N (portEnt port d)) else a

/-- A message of no use is ignored and counted (R41). -/
def Aggregator.ptpIgnore (a : Aggregator) (m : PtpMsg) : Aggregator :=
  (a.timeOp TimeView.ignoreMsg).portDiscard m.port ((a.view.domOf m.domain).getD .pri)

/-- A message for the slave side is accepted on the slave port of its domain (R37, R41). -/
def Aggregator.fromMaster (a : Aggregator) (m : PtpMsg) : Bool :=
  match a.view.domOf m.domain with
  | some d => decide (a.role m.port d = roleSlave)
  | none => false

/-- Receive stamps whose frames have not come are discarded, and counted on their ports too (R80, Table 16-7). -/
def Aggregator.unmatched (a : Aggregator) : Aggregator :=
  let gone := a.tc.rxStamps.filter fun s => s.old a.mono && s.t.isSome
  gone.foldl (fun (a : Aggregator) s => a.portDiscard s.port .pri) (a.timeOp TimeView.unmatched)

/-- A message of the slave side takes its course, or is ignored; a receive stamp paired with it is taken either way. -/
def Aggregator.slaveRx (a : Aggregator) (m : PtpMsg) (event : Bool) (f : TimeView → TimeView) : Aggregator :=
  let a1 := if event then a.unmatched else a
  if a1.fromMaster m then a1.timeOp f
  else (if event then a1.withView (a1.view.takeStamp m.port).2 else a1).ptpIgnore m

/-- The slave port of a domain, as the configuration describes it (R37, R47). -/
def Aggregator.slavePort (a : Aggregator) (d : Dom) : SlavePort :=
  match firstBelow 9 fun p => decide (a.role p d = roleSlave) with
  | some p => ⟨a.portCompat p, storeGet 0 a.cfg.asym p⟩
  | none => ⟨false, 0⟩

/-- The port on which a message for the slave side arrived (R47). -/
def Aggregator.arrivalPort (a : Aggregator) (m : PtpMsg) : SlavePort := ⟨a.portCompat m.port, storeGet 0 a.cfg.asym m.port⟩

/-! ### Stamps (R44, R45, R80) -/

def Aggregator.rxStrobe (a : Aggregator) (port q lIn : Nat) (valid : Bool) : Aggregator :=
  let a1 := a.timeOp fun v => v.rxStrobe port (a.portCompat port) q lIn valid
  if valid then a1 else a1.portDiscard port .pri

/-- A Fleet Time as a PTP timestamp and the fraction that goes into the correctionField (R43). -/
def ptpStamp (t : Int) : Nat × Nat × Int :=
  let u := t.toNat
  (u / nsU / 1000000000, u / nsU % 1000000000, ((u % nsU : Nat) : Int))

/-- logSyncInterval (Table 2-2, R47). -/
def syncLog (compat : Bool) : Int := if compat then -4 else -7

/-- A transmit strobe: a Sync's time leaves in its Follow_Up; one without a valid stamp has none (R45). -/
def Aggregator.txStrobe (a : Aggregator) (port q lEg : Nat) (valid : Bool) : Aggregator :=
  let c := a.portCompat port
  let t := a.view.txTime c q lEg valid
  let a1 := a.timeOp fun v => v.txStrobe port c q lEg valid
  let a2 := if t.isNone then a1.portDiscard port .pri else a1
  match a.tc.owed.find? fun o => o.port = port, t with
  | some ⟨.sync, _, d, seq⟩, some t =>
    let (secs, nanos, frac) := ptpStamp t
    { a2 with ptpOut := a2.ptpOut ++ [a.view.message port d ptpFollowUp seq secs nanos frac (some (syncLog c))] }
  | _, _ => a2

/-! ### Master ports (Table 2-2, R42, R46) -/

/-- The sync interval of a port in ns. -/
def Aggregator.portInterval (a : Aggregator) (port : Nat) : Nat := syncInterval (a.portCompat port)

/-- A Sync leaves each master port of a domain at its interval; its transmit strobe is owed. -/
def Aggregator.syncTx (a : Aggregator) (port : Nat) (d : Dom) : Aggregator :=
  let e := portEnt port d
  let due : Bool := match tabGet a.syncAt e with
    | some t => decide (t + a.portInterval port ≤ a.mono)
    | none => true
  if a.role port d = roleMaster ∧ a.view.enabled d ∧ due then
    let seq := a.get (PS_CNT0_SYNC_TX_N e) % 65536
    let a1 := a.incWrap (PS_CNT0_SYNC_TX_N e)
    { a1 with syncAt := tabPut a1.syncAt e a.mono, tc := { a1.tc with owed := a1.tc.owed ++ [⟨.sync, port, d, seq⟩] },
              ptpOut := a1.ptpOut ++ [a.view.message port d ptpSync seq 0 0 0 (some (syncLog (a.portCompat port)))] }
  else a

/-- An Announce leaves each master port every second, and at once when the clockClass changes (Table 2-2). It names the
grandmaster that the slave side last heard of, if any (Table 2-1). -/
def Aggregator.announceTx (a : Aggregator) (port : Nat) (d : Dom) : Aggregator :=
  let e := portEnt port d
  let cls := a.view.clockClass d
  let due : Bool := match tabGet a.annAt e with
    | some (t, c) => decide (t + 1000000000 ≤ a.mono) || decide (c ≠ cls)
    | none => true
  if a.role port d = roleMaster ∧ a.view.enabled d ∧ due then
    let seq := a.get (PS_CNT1_ANNOUNCE_TX_N e) % 65536
    let a1 := a.incWrap (PS_CNT1_ANNOUNCE_TX_N e)
    { a1 with annAt := tabPut a1.annAt e (a.mono, cls),
              ptpOut := a1.ptpOut ++ [{ a.view.message port d ptpAnnounce seq 0 0 0 (some 0) with
                                          clockClass := cls, gm := (a.view.servo d).gm }] }
  else a

/-- A Delay_Req on a master port is answered with its receive time; one whose stamp was discarded is not (R45, R46). -/
def Aggregator.delayReqRx (a0 : Aggregator) (m : PtpMsg) : Aggregator :=
  let a := a0.unmatched
  match a.view.domOf m.domain with
  | none => (a.withView (a.view.takeStamp m.port).2).ptpIgnore m
  | some d =>
    let (t, v) := a.view.takeStamp m.port
    let a1 := a.withView v
    if a.role m.port d ≠ roleMaster then a1.ptpIgnore m
    else match t with
    | none => a1
    | some t =>
      let (secs, nanos, frac) := ptpStamp t
      let a2 := a1.incWrap (PS_CNT0_DELAY_REQ_RX_N (portEnt m.port d))
      { a2 with ptpOut := a2.ptpOut ++ [{ a.view.message m.port d ptpDelayResp m.seq secs nanos (m.correction - frac) (some (-5)) with
                                            requester := m.src }] }

/-- A Delay_Req leaves the slave port at its interval (Table 2-2). -/
def Aggregator.delayReqTx (a : Aggregator) (d : Dom) : Aggregator :=
  match firstBelow 9 fun p => decide (a.role p d = roleSlave) with
  | none => a
  | some port =>
    match a.view.delayReqTx port d with
    | none => a
    | some (o, v) =>
      let a1 := a.withView (v.oweStrobe ⟨.delayReq, port, d, o.seq⟩)
      { a1 with ptpOut := a1.ptpOut ++ [o] }

/-- The 25 MHz reference output, which is phase-locked to Fleet Time: its last rising edge is at the last multiple of 40 ns
(R35; log 122). -/
def Aggregator.driveRef (a : Aggregator) : Aggregator := { a with refOut := a.nowNs / 40 * 40 }

/-- The tray reference ticks: the time unit's own count advances, and the reference output follows (R33, R35). -/
def Aggregator.tick (a : Aggregator) : Aggregator := (a.withView a.view.tick).driveRef

end Sys2Proof.Machine
end

