-- ==== Sys2Proof/Machine/ExecTime.lean ====
section
/-!
DEFINITION. The commands of Fleet Time, peals and gates, and of the fast domains' power (R33 to R76).
-/
namespace Sys2Proof.Machine

/-- FLEET_TIME_TICK (R33): a tray reference edge, 40 ns after the last; `busy`: the lt_busy lines. -/
def execFleetTimeTick (p : Part) (busy : Nat) (s : State) : Out := s.onPart p (·.tick busy) (·.tick)

/-- INTERP_LINE_SWAP (R34). -/
def execInterpLineSwap (s : State) : Out := s.onDu (·.timeOp TimeView.swapLines)

/-- REF_LOST (R36). -/
def execRefLost (s : State) : Out := s.onDu (·.refLost)

/-- REF_RETURN (R36): nothing returns that was not lost. -/
def execRefReturn (s : State) : Out := s.onDu fun d => if d.tc.refLost then d.timeOp TimeView.refReturn else d

/-- TS_RX_STROBE (R44): `q` quarter ns after the last reference edge, with the ingress latency and its valid line. -/
def execTsRxStrobe (p : Part) (port q lat : Nat) (valid : Bool) (s : State) : Out :=
  s.onPart p (·.rxStrobe q lat valid) (·.rxStrobe port q lat valid)

/-- TS_TX_STROBE (R44). -/
def execTsTxStrobe (p : Part) (port q lat : Nat) (valid : Bool) (s : State) : Out :=
  s.onPart p (·.txStrobe q lat valid) (·.txStrobe port q lat valid)

/-- STROBE_UNMATCHED (R80). -/
def execStrobeUnmatched (p : Part) (s : State) : Out :=
  s.onPart p (·.timeOp TimeView.unmatched) (·.unmatched)

/-- The source rule of the die unit (R40): its home aggregator once registered, TC_MASTER before. -/
def DieUnit.ptpSource (d : DieUnit) (m : PtpMsg) : Bool :=
  if d.registered then decide (m.src = d.ctl.aggMac)
  else
    let master := d.get ⟨addr_TC_MASTER, 47, 0⟩
    decide (master ≠ 0) && decide (m.src = master)

/-- A PTP message at the die unit, which has one port. -/
def DieUnit.ptp (d : DieUnit) (m : PtpMsg) (f : TimeView → PtpMsg → Bool → TimeView) : DieUnit :=
  d.timeOp fun v => f v { m with port := 0 } (d.ptpSource m)

/-- SYNC_RX (R46). -/
def execSyncRx (p : Part) (m : PtpMsg) (s : State) : Out :=
  s.onPart p (·.ptp m TimeView.syncRx) fun a => a.slaveRx m true fun v => v.syncRx m true

/-- FOLLOW_UP_RX (R46). -/
def execFollowUpRx (p : Part) (m : PtpMsg) (s : State) : Out :=
  s.onPart p (·.ptp m fun v => v.followUpRx v.ownPort) fun a => a.slaveRx m false fun v => v.followUpRx (a.arrivalPort m) m true

/-- DELAY_REQ_TX (R46). -/
def execDelayReqTx (p : Part) (m : Dom) (s : State) : Out := s.onPart p (·.delayReqTx m) (·.delayReqTx m)

/-- DELAY_REQ_RX (R46): the die unit has no master port, and ignores it (Table 2-1). -/
def execDelayReqRx (p : Part) (m : PtpMsg) (s : State) : Out :=
  s.onPart p (fun d => d.timeOp fun v => (v.takeStamp 0).2.ignoreMsg) (·.delayReqRx m)

/-- DELAY_RESP_RX (R46): the exchange is complete; its servo value is drawn (log 10). -/
def execDelayRespRx (p : Part) (m : PtpMsg) (s : State) : Out :=
  s.onPart p (fun d => d.timeDraw fun v n => v.delayRespRx v.ownPort n { m with port := 0 } (d.ptpSource m)) fun a =>
    let (n, a1) := a.draw
    a1.slaveRx m false fun v => v.delayRespRx (a.arrivalPort m) n m true

/-- ANNOUNCE_RX (R53). -/
def execAnnounceRx (p : Part) (m : PtpMsg) (s : State) : Out :=
  s.onPart p (·.ptp m TimeView.announceRx) fun a => a.slaveRx m false fun v => v.announceRx m true

/-- PTP_UNIMPLEMENTED_RX (R41). -/
def execPtpUnimplementedRx (p : Part) (m : PtpMsg) (s : State) : Out :=
  s.onPart p (·.timeOp TimeView.ignoreMsg) (·.ptpIgnore m)

/-- SYNC_TX (R42): a master port of the aggregator. -/
def execSyncTx (port : Nat) (m : Dom) (s : State) : Out := s.onAgg (·.syncTx port m)

/-- ANNOUNCE_TX (R42). -/
def execAnnounceTx (port : Nat) (m : Dom) (s : State) : Out := s.onAgg (·.announceTx port m)

/-- SYNC_RECEIPT_LOSS (R53). -/
def execSyncReceiptLoss (p : Part) (m : Dom) (s : State) : Out :=
  s.onPart p (·.timeOp fun v => v.syncLoss v.ownPort m) fun a => a.timeOp fun v => v.syncLoss (a.slavePort m) m

/-- ANNOUNCE_TIMEOUT (R53). -/
def execAnnounceTimeout (p : Part) (m : Dom) (s : State) : Out :=
  s.onPart p (·.timeOp fun v => v.announceTimeout m) (·.timeOp fun v => v.announceTimeout m)

/-- ACCEPT_JUMP (R54): a privileged write of TC_CTRL. -/
def execAcceptJump (p : Part) (q : Nat) (s : State) : Out :=
  s.onPart p (·.portSet TC_CTRL_ACCEPT_JUMP 1 q) (·.barSet (TC_CTRL_ACCEPT_JUMP.onPage 0x1) 1 0)

/-- ACTIVE_SET (R56): a privileged write of TC_CTRL names the domain. -/
def execActiveSet (p : Part) (m : Dom) (q : Nat) (s : State) : Out :=
  let word (w : Nat) : Nat := setBits (setBits w 3 3 1) 6 6 m.code
  s.onPart p (fun d => d.portWrite addr_TC_CTRL (word (d.regs.word addr_TC_CTRL).toNat) true q)
    fun a => a.barWrite 0x1080 (word (a.word 0x1080).toNat) 0

/-- TC_NOW_READ (R68). -/
def execTcNowRead (p : Part) (priv : Bool) (q : Nat) (s : State) : Out :=
  s.onPart p (·.portAccess addr_TC_NOW_NS none priv q) fun a =>
    a.barAccess ((if priv then 0 else 0x800000) + 0x10A8) false none q 0

/-- CLKMON_WINDOW (R66): edges of each fast clock counted over 640 ns, and the stretch inputs. -/
def execClkmonWindow (cnt trc egr tcp stretch : Nat) (s : State) : Out :=
  s.onDu (·.clockWindow (fun k => match k with | .cnt => cnt | .trc => trc | .egr => egr | .tcp => tcp) stretch)

/-- PEAL_ARM (R58): a control frame that arms a peal. -/
def execPealArm (h : CtlHead) (id tp : Nat) (frozen : Bool) (waitUs : Nat) (s : State) : Out :=
  s.onDu (·.control h (.pealArm ⟨id, tp, frozen, waitUs, none, false⟩))

/-- PEAL_FIRE (R60): the counter edge, at the die unit; the fan-out of a peal over the cores, at the aggregator (R249). -/
def execPealFire (p : Part) (id q : Nat) (s : State) : Out := s.onPart p (·.pealFire q) (·.fanOut id)

/-- COUNTER_CLOCK_RESUME (R63). -/
def execCounterClockResume (q : Nat) (s : State) : Out := s.onDu (·.cntResume q)

/-- PEAL_LIGHT_SET_TIMEOUT (R63). -/
def execPealLightSetTimeout (s : State) : Out := s.onDu (·.lightSetTimeout)

/-- GATE_WINDOW_OPEN (R64): window `e` of the active gate list. -/
def execGateWindowOpen (e q : Nat) (s : State) : Out := s.onDu (·.windowOpen e q)

/-- GATE_WINDOW_CLOSE (R64). -/
def execGateWindowClose (e q : Nat) (s : State) : Out := s.onDu (·.windowClose e q)

/-- PD_CLK_ACK (R73): an acknowledge that comes too late fails the wake (R74). -/
def execPdClkAck (k : FastDom) (s : State) : Out := s.onDu fun d => (d.clkAck k).runHeld

/-- DOMAIN_WAKE_DONE (R73); control frames that waited for the domain are carried out (R263). -/
def execDomainWakeDone (k : FastDom) (q : Nat) (s : State) : Out := s.onDu fun d => (d.wakeDone k q).runHeld

/-- DOMAIN_WAKE_FAIL (R74). -/
def execDomainWakeFail (k : FastDom) (s : State) : Out := s.onDu fun d => (d.wakeFail k).runHeld

/-- DOMAIN_SLEEP (R75). -/
def execDomainSleep (k : FastDom) (q : Nat) (s : State) : Out := s.onDu (·.domainSleep k q)

/-- TRACE_PACKET_ASLEEP (R76). -/
def execTracePacketAsleep (port : Nat) (x : TracePkt) (s : State) : Out := s.onDu (·.presentAsleep port x)

end Sys2Proof.Machine
end

