-- ==== Sys2Proof/Machine/ExecRegs.lean ====
section
/-!
DEFINITION. The commands of register access and the remaining events of the chip (R27, R232, R235, R417, R452 to R470, R489, R500).
An access of the die unit goes over its register port, one of the aggregator over BAR0: in its lower half where it is privileged.
-/
namespace Sys2Proof.Machine

/-- An access of a part, at a register address of the die unit or at an offset of the aggregator's pages. -/
def State.regAccess (s : State) (p : Part) (addr : Nat) (write : Option W64) (priv : Bool) (q cyc : Nat) : Out :=
  s.onPart p (·.portAccess addr write priv q) (·.barAccess ((if priv then 0 else 0x800000) + addr % 0x800000) false write q cyc)

/-- REGISTER_WRITE (R466). -/
def execRegisterWrite (p : Part) (addr : Nat) (w : W64) (priv : Bool) (q cyc : Nat) (s : State) : Out :=
  s.regAccess p addr (some w) priv q cyc

/-- PKG_POS_WRITE (R470): a privileged write of DU_IDENT. -/
def execPkgPosWrite (pos q : Nat) (s : State) : Out := s.onDu (·.portSet DU_IDENT_PKG_POS pos q)

/-- W1C_STATUS_READ (R460): a read of a register; one with W1C-SEQ fields latches EVSEQ. A read of 4 bytes (`half`) is the
aggregator's (R453). -/
def execW1cStatusRead (p : Part) (addr : Nat) (half priv : Bool) (q cyc : Nat) (s : State) : Out :=
  s.onPart p (·.portAccess addr none priv q) (·.barAccess ((if priv then 0 else 0x800000) + addr % 0x800000) half none q cyc)

/-- CLEAR_KEY_WRITE (R461): PG_CLR_KEY of a page. -/
def execClearKeyWrite (p : Part) (page : Nat) (key : W64) (priv : Bool) (q cyc : Nat) (s : State) : Out :=
  s.regAccess p (page * 4096 + 0x18) (some key) priv q cyc

/-- CLEARING_WRITE (R461): of a register with W1C-SEQ fields. -/
def execClearingWrite (p : Part) (addr : Nat) (ones : W64) (priv : Bool) (q cyc : Nat) (s : State) : Out :=
  s.regAccess p addr (some ones) priv q cyc

/-- IND_ADDR_WRITE (R465): of a page. -/
def execIndAddrWrite (p : Part) (page : Nat) (w : W64) (priv : Bool) (q cyc : Nat) (s : State) : Out :=
  s.regAccess p (page * 4096 + 0x30) (some w) priv q cyc

/-- IND_DATA_ACCESS (R463): a write or a read. -/
def execIndDataAccess (p : Part) (page : Nat) (write : Option W64) (priv : Bool) (q cyc : Nat) (s : State) : Out :=
  s.regAccess p (page * 4096 + 0x38) write priv q cyc

/-- HELD_WRITES_APPLY (R468): of a domain. -/
def execHeldWritesApply (k cyc : Nat) (s : State) : Out := s.onAgg (·.applyHeld k cyc)

/-- RE_ADMISSION (R27): at a step, as the home aggregator (`home`) or as its partner; of every die unit, or of one (R421). -/
def execReAdmission (step : Nat) (home : Bool) (only : Option Nat) (s : State) : Out :=
  s.onUp (·.reAdmission step home only)

/-- BRIDGE_REPLAY (R232): on B01 (0), BI0 (1) or BI1 (2). -/
def execBridgeReplay (bridge : Nat) (s : State) : Out := s.onAgg (·.bridgeReplay bridge)

/-- MEMORY_CORRECTED (R235): in the SRAM of core `n`, or (`hbm`) in stack `n`. -/
def execMemoryCorrected (hbm : Bool) (n : Nat) (s : State) : Out := s.onAgg (·.memoryCorrected hbm n)

/-- IND_FETCH_DONE (R465): for a page of the aggregator. -/
def execIndFetchDone (page : Nat) (s : State) : Out := s.onAgg (·.indFetched page)

/-- REC_WINDOW_LOADED (R489). -/
def execRecWindowLoaded (p : Part) (s : State) : Out :=
  s.onPart p (·.recOp RecView.windowLoaded) fun a => a.withRec a.recView.windowLoaded

/-- HBM_TRAINING_CALIBRATION (R417). -/
def execHbmTrainingCalibration (ok : Bool) (s : State) : Out := s.onUp (·.calHbm ok)

/-- LANE_TRAINING_FAILURE (R500). -/
def execLaneTrainingFailure (lane : Nat) (s : State) : Out := s.onAgg (·.laneDown lane)

end Sys2Proof.Machine
end

