-- ==== Sys2Proof/Machine/ExecTile.lean ====
section
/-!
DEFINITION. The commands of tensor checks, captures, dumps and lineage, and of health reports and supplies (R89 to R95, R158 to
R179, R395 to R397, R479 to R489).
-/
namespace Sys2Proof.Machine

/-- The frame builder takes at once what the command has queued (R206). -/
def State.onDuServe (s : State) (f : DieUnit → DieUnit) : Out := s.onDu fun d => (f d).serve

/-- STEP_ADVANCE (R89). -/
def execStepAdvance (step : Nat) (s : State) : Out := s.onDuServe (·.stepAdvance step)

/-- CHECK_EVENT (R160): of a produced block, or (`consumed`) of a consumed one. -/
def execCheckEvent (consumed : Bool) (tensor block carried computed q : Nat) (s : State) : Out :=
  s.onDuServe (·.checkEvent consumed tensor block carried computed q)

/-- LINEAGE_TRANSFER (R178): a record of 48 bytes. -/
def execLineageTransfer (rec_ : List Byte) (s : State) : Out := s.onDuServe (·.lineageTransfer rec_)

/-- TILE_COMMIT (R91). -/
def execTileCommit (x : CommitIn) (q : Nat) (s : State) : Out := s.onDu (·.tileCommit x q)

/-- SELECTION_ANSWER (R167). -/
def execSelectionAnswer (s : State) : Out := s.onDu (·.selectionAnswer)

/-- CAPTURE_BEAT (R171): data of a part of the capture with a tag; `last`: of that part. -/
def execCaptureBeat (tag part : Nat) (data : List Byte) (last : Bool) (s : State) : Out :=
  s.onDuServe (·.captureBeat tag part data last)

/-- CAPTURE_ABORT (R171). -/
def execCaptureAbort (tag : Nat) (s : State) : Out := s.onDuServe (·.captureAbort tag)

/-- CAPTURE_DEADLINE (R171). -/
def execCaptureDeadline (tag : Nat) (s : State) : Out := s.onDuServe (·.captureDeadline tag)

/-- CAPTURE_UNFINISHED (R171). -/
def execCaptureUnfinished (tag : Nat) (s : State) : Out := s.onDuServe (·.captureUnfinished tag)

/-- DUMP_REQUEST (R174). -/
def execDumpRequest (s : State) : Out := s.onDu (·.dumpRequest)

/-- DUMP_ACK (R174). -/
def execDumpAck (s : State) : Out := s.onDu (·.dumpAck)

/-- DUMP_ACK_TIMEOUT (R174). -/
def execDumpAckTimeout (s : State) : Out := s.onDuServe (·.dumpAckTimeout)

/-- DUMP_BEAT (R175): data of a block, `last` of it, `final` of the dump (log 16), or an abort. -/
def execDumpBeat (data : List Byte) (last final abort : Bool) (s : State) : Out :=
  s.onDuServe (·.dumpBeat data last final abort)

/-- HE_REPORT (R95). -/
def execHeReport (unit_ op code sev : Nat) (s : State) : Out := s.onDuServe (·.heReport unit_ op code sev)

/-- SN_UPD (R95). -/
def execSnUpd (temp : Int) (mv : Nat) (s : State) : Out := s.onDu (·.takeReading temp mv)

/-- HEALTH_RECORD_RELEASE (R397). -/
def execHealthRecordRelease (hseq : Nat) (s : State) : Out := s.onDuServe (·.releaseHealth hseq)

/-! ### Supplies and the recorder -/

/-- SUPPLY_WARN (R481). -/
def execSupplyWarn (s : State) : Out := s.onDu (·.supplyWarn)

/-- SUPPLY_CRIT (R482). -/
def execSupplyCrit (s : State) : Out := s.onDu (·.supplyCrit)

/-- SUPPLY_OK (R479): of the critical level, where `crit`, or of the warning. -/
def execSupplyOk (p : Part) (crit : Bool) (s : State) : Out := s.onPart p (·.supplyOk crit) (·.supplyOk crit)

/-- FLUSH_WORD_ACK (R486). -/
def execFlushWordAck (s : State) : Out := s.onDu (·.flushOp RecView.wordAck)

/-- FLUSH_WORD_TIMEOUT (R483). -/
def execFlushWordTimeout (s : State) : Out := s.onDu (·.flushOp RecView.wordTimeout)

/-- FAULT_FLUSH_START (R487). -/
def execFaultFlushStart (p : Part) (s : State) : Out := s.onPart p (·.flushOp RecView.beginFault) (·.faultFlush)

/-- QUEUED_FLUSH_START (R487). -/
def execQueuedFlushStart (p : Part) (s : State) : Out := s.onPart p (·.flushOp RecView.beginQueued) (·.queuedFlush)

/-- RECORDER_FLUSH (R487): a privileged write of REC_CTRL.FLUSH. -/
def execRecorderFlush (p : Part) (q : Nat) (s : State) : Out :=
  s.onPart p (·.portSet REC_CTRL_FLUSH 1 q) (·.barSet (REC_CTRL_FLUSH.onPage 0x3) 1 0)

/-- RECORDER_WRITE (R484). -/
def execRecorderWrite (p : Part) (s : State) : Out :=
  s.onPart p (·.recOp RecView.writeNext) fun a => a.withRec a.recView.writeNext

/-- RATE_BUCKET_REFILL (R485). -/
def execRateBucketRefill (p : Part) (i : Nat) (s : State) : Out :=
  s.onPart p (·.recOp fun v => v.refill i) fun a => a.withRec (a.recView.refill i)

/-- RECORDER_CURSOR_WRITE (R489). -/
def execRecorderCursorWrite (p : Part) (cursor q : Nat) (s : State) : Out :=
  s.onPart p (·.portWrite addr_REC_CURSOR cursor true q) (·.barWrite (0x3000 + addr_REC_CURSOR % 4096) cursor 0)

/-- REC_WIN_AUTO_READ (R489): a read of REC_WIN7. -/
def execRecWinAutoRead (p : Part) (q : Nat) (s : State) : Out :=
  s.onPart p (·.portAccess (addr_REC_WIN 7) none true q) (·.barAccess (0x3000 + addr_REC_WIN 7 % 4096) false none q 0)

/-- BANK_ERASE_DONE (R488). -/
def execBankEraseDone (s : State) : Out := s.onAgg (·.bankErased)

/-- AGG_SUPPLY_WARN (R488). -/
def execAggSupplyWarn (s : State) : Out := s.onAgg (·.supplyWarn)

/-- AGG_SUPPLY_CRIT (R488). -/
def execAggSupplyCrit (s : State) : Out := s.onAgg (·.supplyCrit)

/-- AGG_FLUSH_PAGE_DONE (R486). -/
def execAggFlushPageDone (s : State) : Out := s.onAgg (·.flushPageDone)

end Sys2Proof.Machine
end

