-- ==== Sys2Proof/Machine/ExecTrace.lean ====
section
/-!
DEFINITION. The commands of the trace funnel (R131 to R157).
-/
namespace Sys2Proof.Machine

/-- TRACE_PACKET_PRESENT (R132): `x` on trace port `port`. -/
def execTracePacketPresent (port : Nat) (x : TracePkt) (q : Nat) (s : State) : Out := s.onDu (·.presentTrace port x q)

/-- TRACE_STAGE_WRITE (R136): a trace cycle; `stretch`: the clock is stretched. -/
def execTraceStageWrite (q : Nat) (stretch : Bool) (s : State) : Out := s.onDu (·.traceCycle q stretch)

/-- DEAD_REPORT_STAGE (R137). -/
def execDeadReportStage (src q : Nat) (s : State) : Out := s.onDu (·.deadReport src q)

/-- SOURCE_SLEEP (R147): tr_sleep of a port rises. -/
def execSourceSleep (port q : Nat) (s : State) : Out := s.onDu (·.sourceLevel port true q)

/-- SOURCE_WAKE (R147). -/
def execSourceWake (port q : Nat) (s : State) : Out := s.onDu (·.sourceLevel port false q)

/-- TRACE_CLOCK_RESUME (R144): the first edge of the trace clock after a stop. -/
def execTraceClockResume (q : Nat) (s : State) : Out := s.onDu (·.traceResume q)

/-- AUTH_WRITE (R134): a privileged write of TRC_AUTH over the register port. -/
def execAuthWrite (sec prv : Bool) (q : Nat) (s : State) : Out :=
  s.onDu (·.portWrite addr_TRC_AUTH (2 * b2n sec + b2n prv) true q)

/-- SEGMENT_FLUSH_TIMEOUT (R151). -/
def execSegmentFlushTimeout (s : State) : Out := s.onDu (·.segFlush)

/-- SEGMENT_DRAIN (R152). -/
def execSegmentDrain (s : State) : Out := s.onDu (·.drainSegment)

/-- TRC_CTRL as a write of one of its fields leaves it: no pulse but that of the field. -/
def DieUnit.trcWrite (d : DieUnit) (f : Fld) (v q : Nat) : DieUnit :=
  d.portWrite addr_TRC_CTRL (setBits (setBits (d.regs.word addr_TRC_CTRL).toNat 5 5 0) f.hi f.lo v) true q

/-- DRAIN_EN_WRITE (R153). -/
def execDrainEnWrite (en : Bool) (q : Nat) (s : State) : Out := s.onDu (·.trcWrite TRC_CTRL_DRAIN_EN (b2n en) q)

/-- RING_TRIG (R154): a privileged write of TRC_CTRL. -/
def execRingTrig (q : Nat) (s : State) : Out := s.onDu (·.trcWrite TRC_CTRL_RING_TRIG 1 q)

/-- TRACE_MODE_WRITE (R155). -/
def execTraceModeWrite (mode q : Nat) (s : State) : Out := s.onDu (·.trcWrite TRC_CTRL_MODE (mode % 4) q)

end Sys2Proof.Machine
end

