-- ==== Sys2Proof/Machine/ExecTree.lean ====
section
/-!
DEFINITION. The commands of telemetry ingest, codec channels, epochs, trees and broadcasts (R200 to R204, R267 to R294). `ctx` is
a job context.
-/
namespace Sys2Proof.Machine

/-! ### Ingest and channels -/

/-- TELEMETRY_FRAME_RX (R267): the payload of a frame on an ingest lane. -/
def execTelemetryFrameRx (l : List Byte) (s : State) : Out := s.onUp fun a => (a.telemetryRx l).settleEpochs

/-- REASM_TIMEOUT (R269): of a stream context. -/
def execReasmTimeout (stream : Nat) (s : State) : Out := s.onUp fun a => (a.reasmTimeout stream).settleEpochs

/-- PARCEL_CHECK (R270): the oldest complete parcel of a stream context. -/
def execParcelCheck (stream : Nat) (s : State) : Out := s.onUp (·.parcelCheck stream)

/-- CHANNEL_OPEN (R200): channel `chan` of a core, with the descriptor at an address. -/
def execChannelOpen (core chan desc : Nat) (priv : Bool) (s : State) : Out := s.onAgg (·.channelOpen core chan desc priv)

/-- FORWARD_BUFFER_GRANT (R202): the channel is 32 × core + channel. -/
def execForwardBufferGrant (chan : Nat) (s : State) : Out := s.onAgg (·.forwardGrant chan)

/-- FORWARD_WAIT_TIMEOUT (R203). -/
def execForwardWaitTimeout (chan : Nat) (s : State) : Out := s.onAgg (·.forwardTimeout chan)

/-- POSTE_RESTANTE_RESUME (R204): with a buffer. -/
def execPosteRestanteResume (chan addr len : Nat) (priv : Bool) (s : State) : Out :=
  s.onAgg (·.posteResume chan addr len priv)

/-- CHANNEL_CANCEL (R204). -/
def execChannelCancel (chan : Nat) (priv : Bool) (s : State) : Out := s.onAgg (·.chanCancel chan priv)

/-! ### Epochs and trees -/

/-- PEAL_ARM_SEND (R271): for the peal of a T_p. -/
def execPealArmSend (ctx tp : Nat) (s : State) : Out := s.onUp (·.pealArmSend ctx tp)

/-- TRAY_EPOCH_DEADLINE (R273). -/
def execTrayEpochDeadline (ctx tp : Nat) (s : State) : Out := s.onUp (·.trayDeadline ctx tp)

/-- SUBTREE_EPOCH_DEADLINE (R273). -/
def execSubtreeEpochDeadline (ctx tp : Nat) (s : State) : Out := s.onUp (·.subtreeDeadline ctx tp)

/-- TREE_CONTRIB_RX (R282): the payload of a frame on a tree lane. -/
def execTreeContribRx (l : List Byte) (s : State) : Out := s.onUp (·.treeContribRx l)

/-- CONTRIB_ACK_RX (R282). -/
def execContribAckRx (l : List Byte) (s : State) : Out := s.onUp (·.contribAckRx l)

/-- CONTRIB_RETRY (R282). -/
def execContribRetry (ctx tp : Nat) (s : State) : Out := s.onUp (·.contribRetry ctx tp)

/-- TREE_HEARTBEAT_TX (R284). -/
def execTreeHeartbeatTx (ctx : Nat) (s : State) : Out := s.onUp (·.heartbeatTx ctx)

/-- TREE_HEARTBEAT_RX (R284). -/
def execTreeHeartbeatRx (l : List Byte) (s : State) : Out := s.onUp (·.heartbeatRx l)

/-- TREE_HEARTBEAT_LOST (R284). -/
def execTreeHeartbeatLost (ctx peer : Nat) (s : State) : Out := s.onUp (·.heartbeatLost ctx peer)

/-- REPARENT_EFFECT (R283). -/
def execReparentEffect (ctx : Nat) (s : State) : Out := s.onUp (·.reparentEffect ctx)

/-! ### Broadcasts -/

/-- BC_ARMED_CHECK (R289): the payload of a BROADCAST frame. -/
def execBcArmedCheck (l : List Byte) (s : State) : Out := s.onUp (·.bcastRx (fun k => decide (k = bcArmedCheck)) l)

/-- BC_PEAL_SCHEDULE (R271). -/
def execBcPealSchedule (l : List Byte) (s : State) : Out := s.onUp (·.bcastRx (fun k => decide (k = bcPealSchedule)) l)

/-- BC_SEL_RATES (R355). -/
def execBcSelRates (l : List Byte) (s : State) : Out := s.onUp (·.bcastRx (fun k => decide (k = bcSelRates)) l)

/-- BC_DETECTOR_PARAMS (R359). -/
def execBcDetectorParams (l : List Byte) (s : State) : Out := s.onUp (·.bcastRx (fun k => decide (k = bcDetParams)) l)

/-- BC_TAINT (R319). -/
def execBcTaint (l : List Byte) (s : State) : Out := s.onUp (·.bcastRx (fun k => decide (k = bcTaint)) l)

/-- BC_REPARENT (R283). -/
def execBcReparent (l : List Byte) (s : State) : Out := s.onUp (·.bcastRx (fun k => decide (k = bcReparent)) l)

/-- BC_RESERVED (R289). -/
def execBcReserved (l : List Byte) (s : State) : Out := s.onUp (·.bcastRx bcReservedKind l)

/-- BC_RETRY (R290). -/
def execBcRetry (ctx bseq child : Nat) (s : State) : Out := s.onUp (·.bcRetry ctx bseq child)

/-- BC_GAP_WAIT_EXPIRY (R290). -/
def execBcGapWaitExpiry (ctx : Nat) (s : State) : Out := s.onUp (·.gapExpiry ctx)

/-- BC_ACK_RX (R291). -/
def execBcAckRx (l : List Byte) (s : State) : Out := s.onUp (·.bcAckRx l)

/-- NAK_RX (R290). -/
def execNakRx (l : List Byte) (s : State) : Out := s.onUp (·.nakRx l)

/-- BC_DONE_WAIT_EXPIRY (R293). -/
def execBcDoneWaitExpiry (ctx bseq : Nat) (s : State) : Out := s.onUp (·.doneExpiry ctx bseq)

/-- RETIRE_DRAIN_EXPIRY (R288). -/
def execRetireDrainExpiry (ctx : Nat) (s : State) : Out := s.onUp (·.retireDrainExpiry ctx)

/-- QUARANTINE_END (R287). -/
def execQuarantineEnd (ctx : Nat) (s : State) : Out := s.onUp (·.quarantineEnd ctx)

end Sys2Proof.Machine
end

