-- ==== Sys2Proof/Machine/IsaSte.lean ====
section
/-!
DEFINITION. The Statistics Engine instructions of detector programs, and the sketches (R335, R336, R340 to R342, Table 12-4).
-/
namespace Sys2Proof.Machine

/-! ### Registers of an STE -/

def Ste.vr (s : Ste) (n : Nat) : List W64 := (tabGet s.v n).getD (List.replicate 64 0)
def Ste.setV (s : Ste) (n : Nat) (l : List W64) : Ste := { s with v := tabPut s.v n l }
/-- m0 reads all ones. -/
def Ste.mr (s : Ste) (n : Nat) : W64 := if n = 0 then BitVec.allOnes 64 else storeGet 0 s.m n
def Ste.setM (s : Ste) (n : Nat) (w : W64) : Ste := if n = 0 then s else { s with m := storeSet 0 s.m n w }
def Ste.ar (s : Ste) (n : Nat) : List Nat := (tabGet s.a n).getD (List.replicate 1024 0)
def Ste.setA (s : Ste) (n : Nat) (l : List Nat) : Ste := { s with a := tabPut s.a n l }

def Core.ste (k : Core) (e : Bool) : Ste := if e then k.ste1 else k.ste0
def Core.setSte (k : Core) (e : Bool) (s : Ste) : Core := if e then { k with ste1 := s } else { k with ste0 := s }

/-- The active lanes of an instruction. -/
def Insn.active (i : Insn) (s : Ste) (n : Nat) : Bool := (s.mr i.m).getLsbD n

/-- Lane by lane, under the mask. -/
def Insn.lanes (i : Insn) (s : Ste) (f : Nat → W64) : List W64 :=
  (List.range 64).map fun n => if i.active s n then f n else (s.vr i.d).getD n 0

/-- A vector instruction that changes one vector register. -/
def Aggregator.isaLanes (a : Aggregator) (c op : Nat) (i : Insn) (f : Core → Ste → Nat → W64) : Aggregator :=
  a.isaCore c op i fun k => let s := k.ste i.e; (k.setSte i.e (s.setV i.d (i.lanes s (f k s)))).next

/-! ### Element types (Table 12-2) -/

abbrev tyFp32 : Nat := 0
abbrev tyI64 : Nat := 1
abbrev tyU64 : Nat := 2
abbrev tyFp64 : Nat := 3
abbrev tyBf16 : Nat := 4
abbrev tyE4m3 : Nat := 5
abbrev tyE5m2 : Nat := 6
abbrev tyI32 : Nat := 7

def tySize (ty : Nat) : Nat :=
  match ty with
  | 0 => 4
  | 1 => 8
  | 2 => 8
  | 3 => 8
  | 4 => 2
  | 5 => 1
  | 6 => 1
  | _ => 4

/-- The format of a floating type. -/
def tyFmt (ty : Nat) : Option FpFmt :=
  match ty with
  | 0 => some fmtFp32
  | 3 => some fmtFp64
  | 4 => some fmtBf16
  | 5 => some fmtE4m3
  | 6 => some fmtE5m2
  | _ => none

/-- FP32 and FP64, whose arithmetic R336 gives. -/
def tyIeee (ty : Nat) : Option FpFmt := if ty = tyFp32 then some fmtFp32 else if ty = tyFp64 then some fmtFp64 else none

def signExt32 (v : Nat) : W64 := BitVec.ofInt 64 (signed 32 v)

/-- A lane from an element's bits: integers of 32 bits are sign-extended. -/
def tyLane (ty v : Nat) : W64 := if ty = tyI32 then signExt32 v else BitVec.ofNat 64 v

/-- A lane as a value. -/
def tyVal (ty : Nat) (w : W64) : FpVal :=
  match tyFmt ty with
  | some f => f.decode false (w.toNat % 2 ^ f.bits)
  | none => if ty = tyU64 then FpVal.ofInt w.toNat else FpVal.ofInt w.toInt

/-! ### Loads and stores -/

/-- A lane-wise load from an address for each lane. -/
def Aggregator.isaVload (a : Aggregator) (c op : Nat) (i : Insn) (at_ : Core → Ste → Nat → W64) : Aggregator :=
  a.isa c op i fun k r =>
    let s := k.ste i.e
    let n := tySize i.ty
    let addr (l : Nat) : Nat := (at_ k s l).toNat
    let on := (List.range 64).filter (i.active s)
    if on.any fun l => decide (addr l % n ≠ 0) then .stop rfAlign 0
    else a.access r .ste (on.map fun l => rdAt (addr l) n) fun a => .go (a.setCore c (k.setSte i.e (s.setV i.d (i.lanes s fun l => tyLane i.ty (leNat (memBytes a.mem (addr l) n))))).next)

def Aggregator.isaVld (a : Aggregator) (c : Nat) (i : Insn) : Aggregator :=
  a.isaVload c 0x40 i fun k _ l => k.xr i.a + imm64 i + BitVec.ofNat 64 (l * tySize i.ty)
def Aggregator.isaVlds (a : Aggregator) (c : Nat) (i : Insn) : Aggregator :=
  a.isaVload c 0x42 i fun k _ l => k.xr i.a + k.xr i.b * BitVec.ofNat 64 l
def Aggregator.isaVgather (a : Aggregator) (c : Nat) (i : Insn) : Aggregator :=
  a.isaVload c 0x43 i fun k s l => k.xr i.a + (s.vr i.b).getD l 0

def Aggregator.isaVst (a : Aggregator) (c : Nat) (i : Insn) : Aggregator :=
  a.isa c 0x41 i fun k r =>
    let s := k.ste i.e
    let n := tySize i.ty
    let addr (l : Nat) : Nat := (k.xr i.a + imm64 i + BitVec.ofNat 64 (l * n)).toNat
    let on := (List.range 64).filter (i.active s)
    if on.any fun l => decide (addr l % n ≠ 0) then .stop rfAlign 0
    else a.access r .ste (on.map fun l => wrAt (addr l) n) fun a => .go { a.setCore c k.next with
      mem := on.foldl (fun m l => memPut m (addr l) (leBytes n ((s.vr i.b).getD l 0).toNat)) a.mem }

/-! ### Lane arithmetic (R336) -/

/-- A result wraps in the width of its integer type. -/
def tyWrap (ty : Nat) (v : Int) : W64 := if ty = tyI32 then signExt32 (unsigned 32 v) else BitVec.ofInt 64 v

/-- An integer type's lane as a number. -/
def tyInt (ty : Nat) (w : W64) : Int := if ty = tyU64 then (w.toNat : Int) else w.toInt

def tyIsInt (ty : Nat) : Bool := decide (ty = tyI64 ∨ ty = tyU64 ∨ ty = tyI32)

/-- A two-operand operation in a lane. -/
def lane2 (op ty : Nat) (fp : FpVal → FpVal → FpVal) (int : Option (Int → Int → Int)) (d x y : W64) : W64 :=
  match tyIeee ty with
  | some f => BitVec.ofNat 64 (f.encode (fp (tyVal ty x) (tyVal ty y)))
  | none =>
    match tyIsInt ty, int with
    | true, some g => tyWrap ty (g (tyInt ty x) (tyInt ty y))
    | _, _ => Config.lane op ty d x y

def Aggregator.isaV2 (a : Aggregator) (c op : Nat) (i : Insn) (fp : FpVal → FpVal → FpVal) (int : Option (Int → Int → Int)) :
    Aggregator :=
  a.isaLanes c op i fun _ s n => lane2 op i.ty fp int ((s.vr i.d).getD n 0) ((s.vr i.a).getD n 0) ((s.vr i.b).getD n 0)

/-- VFMA: vD + vA × vB with one rounding. -/
def Aggregator.isaVfma (a : Aggregator) (c : Nat) (i : Insn) : Aggregator :=
  a.isaLanes c 0x4B i fun _ s n =>
    let d := (s.vr i.d).getD n 0
    lane2 0x4B i.ty (fun x y => (tyVal i.ty d).add (x.mul y)) (some fun x y => tyInt i.ty d + x * y) d ((s.vr i.a).getD n 0)
      ((s.vr i.b).getD n 0)

def Aggregator.isaV1 (a : Aggregator) (c op : Nat) (i : Insn) (fp : FpVal → FpVal) (int : Option (Int → Int)) : Aggregator :=
  a.isaLanes c op i fun _ s n =>
    lane2 op i.ty (fun x _ => fp x) (int.map fun g x _ => g x) ((s.vr i.d).getD n 0) ((s.vr i.a).getD n 0) 0

/-- VEXP2, VLOG2. -/
def Aggregator.isaElem (a : Aggregator) (c op : Nat) (i : Insn) : Aggregator :=
  a.isaLanes c op i fun _ s n => Config.elementary op i.ty ((s.vr i.a).getD n 0)

/-- A value rounded to the nearest of a format; none where an E4M3 result exceeds its largest value. -/
def FpFmt.nearest (f : FpFmt) (v : FpVal) : Option Nat :=
  if f.special = .nanOnly then
    let wide : FpFmt := { f with ebits := f.ebits + 1, special := .ieee }
    match v with
    | .nan => some (2 ^ (f.ebits + f.fbits) - 1)
    | .inf _ => none
    | .fin neg m q =>
      let b := wide.round false m q
      if b ≤ 2 ^ (f.ebits + f.fbits) - 2 then some (b2n neg * 2 ^ (f.ebits + f.fbits) + b) else none
  else some (f.encode v)

/-- VCVT from one type to another. -/
def convert (from_ to_ : Nat) (d w : W64) : W64 :=
  let v := tyVal from_ w
  match tyFmt to_ with
  | some f => (match f.nearest v with
    | some b => BitVec.ofNat 64 b
    | none => Config.lane 0x51 to_ d w 0)
  | none =>
    if tyIsInt from_ then tyWrap to_ (tyInt from_ w)
    else
      let lo : Int := if to_ = tyU64 then 0 else if to_ = tyI64 then -(2 ^ 63) else -(2 ^ 31)
      let hi : Int := if to_ = tyU64 then 2 ^ 64 - 1 else if to_ = tyI64 then 2 ^ 63 - 1 else 2 ^ 31 - 1
      BitVec.ofInt 64 (match v with
        | .nan => 0
        | .inf neg => if neg then lo else hi
        | x => clampI lo hi (x.trunc.getD 0))

def Aggregator.isaVcvt (a : Aggregator) (c : Nat) (i : Insn) : Aggregator :=
  a.isaLanes c 0x51 i fun _ s n => convert (unsigned 3 i.imm) i.ty ((s.vr i.d).getD n 0) ((s.vr i.a).getD n 0)

/-- VCMPLT, VCMPEQ: bits of inactive lanes stand. -/
def Aggregator.isaVcmp (a : Aggregator) (c op : Nat) (i : Insn) (p : FpVal → FpVal → Bool) : Aggregator :=
  a.isaCore c op i fun k =>
    let s := k.ste i.e
    let old := s.mr i.d
    let w := (List.range 64).foldl (fun (w : W64) n =>
      let on := if i.active s n then p (tyVal i.ty ((s.vr i.a).getD n 0)) (tyVal i.ty ((s.vr i.b).getD n 0)) else old.getLsbD n
      if on then w ||| ((1 : W64) <<< n) else w) 0
    (k.setSte i.e (s.setM i.d w)).next

def Aggregator.isaVsel (a : Aggregator) (c : Nat) (i : Insn) : Aggregator :=
  a.isaCore c 0x54 i fun k =>
    let s := k.ste i.e
    (k.setSte i.e (s.setV i.d ((List.range 64).map fun n => if i.active s n then (s.vr i.a).getD n 0 else (s.vr i.b).getD n 0))).next

def Aggregator.isaVbcast (a : Aggregator) (c : Nat) (i : Insn) : Aggregator := a.isaLanes c 0x57 i fun k _ _ => k.xr i.a

/-- The fixed tree of VRSUM. -/
def sumLanes (add : W64 → W64 → W64) : Nat → List W64 → W64
  | 0, l => l.getD 0 0
  | k + 1, l => sumLanes add k ((List.range (2 ^ k)).map fun n => add (l.getD n 0) (l.getD (n + 2 ^ k) 0))

def Aggregator.isaVrsum (a : Aggregator) (c : Nat) (i : Insn) : Aggregator :=
  a.isaCore c 0x58 i fun k =>
    let s := k.ste i.e
    let l := (List.range 64).map fun n => if i.active s n then (s.vr i.a).getD n 0 else 0
    (k.setX i.d (sumLanes (lane2 0x58 i.ty FpVal.add (some (· + ·)) 0) 6 l)).next

/-- VRMAX: the largest active lane and its first index; free where no lane is active or one is NaN. -/
def Aggregator.isaVrmax (a : Aggregator) (c : Nat) (i : Insn) : Aggregator :=
  a.isaCore c 0x59 i fun k =>
    let s := k.ste i.e
    let v := s.vr i.a
    let on := (List.range 64).filter (i.active s)
    let val (n : Nat) : FpVal := tyVal i.ty (v.getD n 0)
    let best := on.foldl (fun (b : Option Nat) n =>
      match b with
      | none => some n
      | some m => if (val m).lt (val n) then some n else some m) none
    match (if on.any fun n => decide (val n = .nan) then none else best) with
    | some n => ((k.setX i.d (v.getD n 0)).setX (i.d + 1) (BitVec.ofNat 64 n)).next
    | none =>
      ((k.setX i.d (Config.reduce 0x59 i.ty (s.mr i.m) v 0)).setX (i.d + 1) (Config.reduce 0x59 i.ty (s.mr i.m) v 1)).next

abbrev bktNone : Nat := 0x7FFFFFFFFFFFFFFC
abbrev bktZero : Nat := 0x7FFFFFFFFFFFFFFD
abbrev bktUnder : Nat := 0x7FFFFFFFFFFFFFFE
abbrev bktOver : Nat := 0x7FFFFFFFFFFFFFFF

/-- VBKT of one lane; an infinity and a type that it does not take are free. -/
def bucketLane (ty : Nat) (d w : W64) : W64 :=
  if ty = tyU64 ∨ ty = tyFp32 ∨ ty = tyFp64 then
    match tyVal ty w with
    | .nan => BitVec.ofNat 64 bktNone
    | .inf neg => if neg then BitVec.ofNat 64 bktNone else Config.lane 0x5A ty d w 0
    | .fin neg m q =>
      if m = 0 then BitVec.ofNat 64 bktZero else if neg then BitVec.ofNat 64 bktNone else BitVec.ofInt 64 (bucketIndex m q)
  else Config.lane 0x5A ty d w 0

def Aggregator.isaVbkt (a : Aggregator) (c : Nat) (i : Insn) : Aggregator :=
  a.isaLanes c 0x5A i fun _ s n => bucketLane i.ty ((s.vr i.d).getD n 0) ((s.vr i.a).getD n 0)

/-! ### Tiles -/

def Aggregator.isaMzero (a : Aggregator) (c : Nat) (i : Insn) : Aggregator :=
  a.isaCore c 0x60 i fun k => let s := k.ste i.e; (k.setSte i.e (s.setA i.d (List.replicate 1024 0))).next

/-- One element of MMA: groups of 32 products, each summed exactly and rounded once to FP32. -/
def mmaElement (acc : Nat) : List (FpVal × FpVal) → Nat → Nat
  | _, 0 => acc
  | l, n + 1 =>
    let g := (l.take 32).foldl (fun (s : FpVal) p => s.add (p.1.mul p.2)) (.fin false 0 0)
    mmaElement (fmtFp32.encode ((f32 acc).add (f32 (fmtFp32.encode g)))) (l.drop 32) n

def Aggregator.isaMma (a : Aggregator) (c : Nat) (i : Insn) : Aggregator :=
  a.isa c 0x61 i fun k r =>
    let s := k.ste i.e
    let n := i.imm.toNat
    let w := tySize i.ty
    let pa := (k.xr i.a).toNat
    let pb := (k.xr i.b).toNat
    if pa % w ≠ 0 ∨ pb % w ≠ 0 then .stop rfAlign 0
    else a.access r .ste [rdAt pa (32 * n * w), rdAt pb (32 * n * w)] fun a =>
      let el (p j : Nat) : FpVal := tyVal i.ty (tyLane i.ty (leNat (memBytes a.mem (p + j * w) w)))
      let old := s.ar i.d
      let known := decide (i.ty = tyBf16 ∨ i.ty = tyE4m3 ∨ i.ty = tyE5m2)
      let (d, a1) := a.draw
      let new := (List.range 1024).map fun x =>
        let row := x / 32
        let col := x % 32
        if known then
          mmaElement (old.getD x 0) ((List.range n).map fun t => (el pa (row * n + t), el pb (col * n + t))) (n / 32)
        else (Config.tile (1024 * d + x)).toNat
      .go ((if known then a else a1).setCore c (k.setSte i.e (s.setA i.d new)).next)

def Aggregator.isaMst (a : Aggregator) (c : Nat) (i : Insn) : Aggregator :=
  a.isa c 0x62 i fun k r =>
    let s := k.ste i.e
    let w := tySize i.ty
    let p := (k.xr i.a).toNat
    if p % w ≠ 0 then .stop rfAlign 0
    else a.access r .ste [wrAt p (1024 * w)] fun a =>
      let (d, a1) := a.draw
      let known := decide (i.ty = tyFp32 ∨ i.ty = tyBf16)
      let bytes := (List.range 1024).flatMap fun x =>
        let v := (s.ar i.d).getD x 0
        leBytes w (if i.ty = tyFp32 then v else if i.ty = tyBf16 then fmtBf16.encode (f32 v)
          else (Config.tile (1024 * d + x)).toNat)
      .go { (if known then a else a1).setCore c k.next with mem := memPut a.mem p bytes }

/-- MACT: identity and ReLU exactly. -/
def actElement (fn v : Nat) : Nat :=
  match fn with
  | 0 => v
  | 1 => (match f32 v with
    | .nan => fmtFp32.qnan
    | x => if x.isNeg then 0 else v)
  | _ => (Config.elementary 0x63 fn (BitVec.ofNat 64 v)).toNat % 2 ^ 32

def Aggregator.isaMact (a : Aggregator) (c : Nat) (i : Insn) : Aggregator :=
  a.isaCore c 0x63 i fun k =>
    let s := k.ste i.e
    (k.setSte i.e (s.setA i.d ((s.ar i.d).map (actElement (unsigned 2 i.imm))))).next

/-! ### Log histograms (R341, Table 12-7) -/

abbrev histLen : Nat := 8232

/-- Counters of a log histogram: buckets, ZERO, UNDER, OVER, INVALID. -/
def readHist (l : List Byte) : List Nat := (List.range 1028).map fun n => le l (8 + 8 * n) 8
def histBase (l : List Byte) : Int := signed 16 (le l 0 2)
def histBytes (head : List Byte) (c : List Nat) : List Byte := head ++ c.flatMap (leBytes 8)

def Aggregator.isaHins (a : Aggregator) (c : Nat) (i : Insn) : Aggregator :=
  a.isa c 0x70 i fun k r =>
    let s := k.ste i.e
    let p := (k.xr i.a).toNat
    if p % 8 ≠ 0 then .stop rfAlign 0
    else a.access r .ste [rdAt p histLen, wrAt p histLen] fun a =>
      let l := memBytes a.mem p histLen
      let new := ((List.range 64).filter (i.active s)).foldl (fun h n =>
        modAt h (histIndex (histBase l) (tyVal i.ty ((s.vr i.b).getD n 0))) fun v => satAdd 64 v 1) (readHist l)
      .go { a.setCore c k.next with mem := memPut a.mem p (histBytes (l.take 8) new) }

def Aggregator.isaHmrg (a : Aggregator) (c : Nat) (i : Insn) : Aggregator :=
  a.isa c 0x71 i fun k r =>
    let p := (k.xr i.a).toNat
    let q := (k.xr i.b).toNat
    if p % 8 ≠ 0 ∨ q % 8 ≠ 0 then .stop rfAlign 0
    else a.access r .ste [rdAt p histLen, wrAt p histLen, rdAt q histLen] fun a =>
      let l := memBytes a.mem p histLen
      let m := memBytes a.mem q histLen
      if histBase l ≠ histBase m then .stop rfSketch 0
      else .go { a.setCore c k.next with
        mem := memPut a.mem p (histBytes (l.take 8) (((readHist l).zip (readHist m)).map fun e => satAdd 64 e.1 e.2)) }

/-- HQNT: q = xB / 2^32 (R279). -/
def Aggregator.isaHqnt (a : Aggregator) (c : Nat) (i : Insn) : Aggregator :=
  a.isa c 0x72 i fun k r =>
    let p := (k.xr i.a).toNat
    if p % 8 ≠ 0 then .stop rfAlign 0
    else a.access r .ste [rdAt p histLen] fun a =>
      let l := memBytes a.mem p histLen
      let v : W64 := match quantile (readHist l) (k.xr i.b).toNat with
        | none => BitVec.ofNat 64 bktNone
        | some 0 => BitVec.ofNat 64 bktZero
        | some 1 => BitVec.ofNat 64 bktUnder
        | some n => if 1026 ≤ n then BitVec.ofNat 64 bktOver else BitVec.ofInt 64 (histBase l + (n - 2 : Nat))
      .go (a.setCore c (k.setX i.d v).next)

/-! ### Count-min sketches (R342, Table 12-8) -/

/-- Rows, columns' logarithm, and the header's multipliers and addends; none where the header is broken. -/
def readSketch (l : List Byte) : Option (Nat × Nat × List (Nat × Nat)) :=
  let d := le l 0 1
  let w := le l 1 1
  let rows := (List.range d).map fun n => (le l (8 + 8 * n) 8, le l (72 + 8 * n) 8)
  if 1 ≤ d ∧ d ≤ 8 ∧ 4 ≤ w ∧ w ≤ 12 ∧ rows.all (fun r => decide (r.1 % 2 = 1)) then some (d, w, rows) else none

def sketchLen (d w : Nat) : Nat := 144 + d * 2 ^ w * 8

/-- Addresses, from the sketch, of a key's counters. -/
def sketchAt (w : Nat) (rows : List (Nat × Nat)) (x : Nat) : List Nat :=
  (List.range rows.length).map fun n =>
    let r := rows.getD n (1, 0)
    144 + 8 * (n * 2 ^ w + (r.1 * x + r.2) % 2 ^ 64 / 2 ^ (64 - w))

/-- The sketch at an address: its fault, or what is done with its columns' logarithm and its rows. -/
def Aggregator.sketch (a : Aggregator) (r : Run) (write : Bool) (p : Nat)
    (f : Aggregator → Nat → List (Nat × Nat) → IsaRes) : IsaRes :=
  let whole (n : Nat) : List MemAccess := rdAt p n :: if write then [wrAt p n] else []
  if p % 8 ≠ 0 then .stop rfAlign 0
  else a.access r .ste (whole 144) fun a => match readSketch (memBytes a.mem p 144) with
    | none => .stop rfSketch 0
    | some (d, w, rows) => a.access r .ste (whole (sketchLen d w)) fun a => f a w rows

def Aggregator.isaCmsadd (a : Aggregator) (c : Nat) (i : Insn) : Aggregator :=
  a.isa c 0x73 i fun k r =>
    let s := k.ste i.e
    let p := (k.xr i.a).toNat
    a.sketch r true p fun a w rows =>
      let mem := ((List.range 64).filter (i.active s)).foldl (fun m n =>
        (sketchAt w rows ((s.vr i.a).getD n 0).toNat).foldl (fun m o =>
          memPut m (p + o) (leBytes 8 (satAdd 64 (leNat (memBytes m (p + o) 8)) ((s.vr i.b).getD n 0).toNat))) m) a.mem
      .go { a.setCore c k.next with mem := mem }

def Aggregator.isaCmsq (a : Aggregator) (c : Nat) (i : Insn) : Aggregator :=
  a.isa c 0x74 i fun k r =>
    let s := k.ste i.e
    let p := (k.xr i.a).toNat
    a.sketch r false p fun a w rows =>
      let q (n : Nat) : W64 := BitVec.ofNat 64 ((minOf ((sketchAt w rows ((s.vr i.a).getD n 0).toNat).map fun o =>
        leNat (memBytes a.mem (p + o) 8))).getD 0)
      .go (a.setCore c (k.setSte i.e (s.setV i.d (i.lanes s q))).next)

end Sys2Proof.Machine
end

