-- ==== Sys2Proof/Machine/IsaXde.lean ====
section
/-!
DEFINITION. The XDE instructions of detector programs (R299, R337, Table 12-5).
-/
namespace Sys2Proof.Machine

/-- An XDE instruction: XDE-BUSY while the core's bit of AUD_XDE_MASK is set. -/
def Aggregator.isaXde (a : Aggregator) (c op : Nat) (i : Insn) (f : Core → Run → IsaRes) : Aggregator :=
  a.isa c op i fun k r => if a.inMask c then .stop rfXdeBusy 0 else f k r

def Core.pair (k : Core) (n : Nat) : Int × Int := (tabGet k.xde n).getD (0, 0)
def Core.setPair (k : Core) (n : Nat) (s t : Int) : Core := { k with xde := tabPut k.xde n (acc640 s, acc640 t) }

def Aggregator.isaXclr (a : Aggregator) (c : Nat) (i : Insn) : Aggregator :=
  a.isaXde c 0xA0 i fun k _ => .go (a.setCore c (k.setPair (unsigned 3 i.imm) 0 0).next)

/-- XDOT: a reserved format code, and products that are not finite, add what no rule gives (log 72). -/
def Aggregator.isaXdot (a : Aggregator) (c : Nat) (i : Insn) : Aggregator :=
  a.isaXde c 0xA1 i fun k r =>
    let code := unsigned 6 i.imm
    let pr := unsigned 9 i.imm / 64
    let n := (k.xr i.d).toNat
    let pa := (k.xr i.a).toNat
    let pb := (k.xr i.b).toNat
    let (d, a1) := a.draw
    let (s, t) := k.pair pr
    match fmtOf code with
    | none => .go (a1.setCore c (k.setPair pr (s + Config.xdeAdd (2 * d)) (t + Config.xdeAdd (2 * d + 1))).next)
    | some f =>
      let len := f.runBytes n
      a.access r .xde [rdAt pa len, rdAt pb len] fun a =>
        let (d, a1) := a.draw
        let x := dotSum (f.run false (memBytes a.mem pa len) n 0) (f.run false (memBytes a.mem pb len) n 0)
        if x.nan ∨ x.pinf ∨ x.ninf then
          .go (a1.setCore c (k.setPair pr (s + Config.xdeAdd (2 * d)) (t + Config.xdeAdd (2 * d + 1))).next)
        else .go (a.setCore c (k.setPair pr (s + x.s) (t + x.t)).next)

/-- What a lane adds in units of 2^-320; none where it is no multiple of one. -/
def laneUnits (v : FpVal) : Option Int :=
  match v with
  | .fin neg m q =>
    if accLsb ≤ q then some (exactAt accLsb neg m q)
    else if m % 2 ^ (accLsb - q).toNat = 0 then
      let n : Int := (m / 2 ^ (accLsb - q).toNat : Nat)
      some (if neg then -n else n)
    else none
  | _ => none

def Aggregator.isaXaddv (a : Aggregator) (c : Nat) (i : Insn) : Aggregator :=
  a.isaXde c 0xA2 i fun k _ =>
    let st := k.ste i.e
    let pr := unsigned 3 i.imm
    let (d, a1) := a.draw
    let named := decide (i.ty = tyFp32 ∨ i.ty = tyFp64 ∨ i.ty = tyI64)
    let parts := ((List.range 64).filter (i.active st)).map fun n =>
      if named then laneUnits (tyVal i.ty ((st.vr i.a).getD n 0)) else none
    let (s, t) := k.pair pr
    if parts.any fun p => p.isNone then
      .go (a1.setCore c (k.setPair pr (s + Config.xdeAdd (2 * d)) (t + Config.xdeAdd (2 * d + 1))).next)
    else
      let vs := parts.map fun p => p.getD 0
      .go (a.setCore c (k.setPair pr (s + vs.foldl (· + ·) 0) (t + vs.foldl (fun (u v : Int) => u + (v.natAbs : Int)) 0)).next)

/-- XRD: S and T go to memory, S rounded to FP64 to the register. -/
def Aggregator.isaXrd (a : Aggregator) (c : Nat) (i : Insn) : Aggregator :=
  a.isaXde c 0xA3 i fun k r =>
    let p := (k.xr i.a).toNat
    let (s, t) := k.pair (unsigned 3 i.imm)
    if p % 8 ≠ 0 then .stop rfAlign 0
    else a.access r .xde [wrAt p 160] fun a =>
      let v : W64 := BitVec.ofNat 64 (fmtFp64.round (decide (s < 0)) s.natAbs accLsb)
      .go { a.setCore c (k.setX i.d v).next with mem := memPut a.mem p (leBytes 80 (unsigned 640 s) ++ leBytes 80 (unsigned 640 t)) }

end Sys2Proof.Machine
end

