-- ==== Sys2Proof/Machine/ExecVector.lean ====
section
/-!
DEFINITION. The instructions of the spectral-tensor and exact-dot engines (R278, R335 to R337, R341, R342, Tables 12-4, 12-5).
-/
namespace Sys2Proof.Machine

/-- VLD (R335). -/
def execVld (c : Nat) (i : Insn) (s : State) : Out := s.onAgg fun a => a.isaVld c i

/-- VST (R335). -/
def execVst (c : Nat) (i : Insn) (s : State) : Out := s.onAgg fun a => a.isaVst c i

/-- VLDS (R335). -/
def execVlds (c : Nat) (i : Insn) (s : State) : Out := s.onAgg fun a => a.isaVlds c i

/-- VGATHER (R335). -/
def execVgather (c : Nat) (i : Insn) (s : State) : Out := s.onAgg fun a => a.isaVgather c i

/-- VADD (R336). -/
def execVadd (c : Nat) (i : Insn) (s : State) : Out := s.onAgg fun a => a.isaV2 c 0x48 i FpVal.add (some (· + ·))

/-- VSUB (R336). -/
def execVsub (c : Nat) (i : Insn) (s : State) : Out :=
  s.onAgg fun a => a.isaV2 c 0x49 i (fun x y => x.add y.neg) (some (· - ·))

/-- VMUL (R336). -/
def execVmul (c : Nat) (i : Insn) (s : State) : Out := s.onAgg fun a => a.isaV2 c 0x4A i FpVal.mul (some (· * ·))

/-- VFMA (R336). -/
def execVfma (c : Nat) (i : Insn) (s : State) : Out := s.onAgg fun a => a.isaVfma c i

/-- VDIV (R336). -/
def execVdiv (c : Nat) (i : Insn) (s : State) : Out := s.onAgg fun a => a.isaV2 c 0x4C i FpVal.div none

/-- VSQRT (R336). -/
def execVsqrt (c : Nat) (i : Insn) (s : State) : Out := s.onAgg fun a => a.isaV1 c 0x4D i FpVal.sqrt none

/-- VMIN (R336). -/
def execVmin (c : Nat) (i : Insn) (s : State) : Out := s.onAgg fun a => a.isaV2 c 0x4E i FpVal.min_ (some min)

/-- VMAX (R336). -/
def execVmax (c : Nat) (i : Insn) (s : State) : Out := s.onAgg fun a => a.isaV2 c 0x4F i FpVal.max_ (some max)

/-- VABS (R336). -/
def execVabs (c : Nat) (i : Insn) (s : State) : Out :=
  s.onAgg fun a => a.isaV1 c 0x50 i FpVal.abs (some fun x => x.natAbs)

/-- VCVT (R336). -/
def execVcvt (c : Nat) (i : Insn) (s : State) : Out := s.onAgg fun a => a.isaVcvt c i

/-- VCMPLT (R335). -/
def execVcmplt (c : Nat) (i : Insn) (s : State) : Out := s.onAgg fun a => a.isaVcmp c 0x52 i FpVal.lt

/-- VCMPEQ (R335). -/
def execVcmpeq (c : Nat) (i : Insn) (s : State) : Out := s.onAgg fun a => a.isaVcmp c 0x53 i FpVal.eq

/-- VSEL (R335). -/
def execVsel (c : Nat) (i : Insn) (s : State) : Out := s.onAgg fun a => a.isaVsel c i

/-- VEXP2 (R336). -/
def execVexp2 (c : Nat) (i : Insn) (s : State) : Out := s.onAgg fun a => a.isaElem c 0x55 i

/-- VLOG2 (R336). -/
def execVlog2 (c : Nat) (i : Insn) (s : State) : Out := s.onAgg fun a => a.isaElem c 0x56 i

/-- VBCAST (R335). -/
def execVbcast (c : Nat) (i : Insn) (s : State) : Out := s.onAgg fun a => a.isaVbcast c i

/-- VRSUM (R336). -/
def execVrsum (c : Nat) (i : Insn) (s : State) : Out := s.onAgg fun a => a.isaVrsum c i

/-- VRMAX (R335). -/
def execVrmax (c : Nat) (i : Insn) (s : State) : Out := s.onAgg fun a => a.isaVrmax c i

/-- VBKT (R278). -/
def execVbkt (c : Nat) (i : Insn) (s : State) : Out := s.onAgg fun a => a.isaVbkt c i

/-- MZERO (R335). -/
def execMzero (c : Nat) (i : Insn) (s : State) : Out := s.onAgg fun a => a.isaMzero c i

/-- MMA (R336). -/
def execMma (c : Nat) (i : Insn) (s : State) : Out := s.onAgg fun a => a.isaMma c i

/-- MST (R335). -/
def execMst (c : Nat) (i : Insn) (s : State) : Out := s.onAgg fun a => a.isaMst c i

/-- MACT (R336). -/
def execMact (c : Nat) (i : Insn) (s : State) : Out := s.onAgg fun a => a.isaMact c i

/-- HINS (R341). -/
def execHins (c : Nat) (i : Insn) (s : State) : Out := s.onAgg fun a => a.isaHins c i

/-- HMRG (R341). -/
def execHmrg (c : Nat) (i : Insn) (s : State) : Out := s.onAgg fun a => a.isaHmrg c i

/-- HQNT (R341). -/
def execHqnt (c : Nat) (i : Insn) (s : State) : Out := s.onAgg fun a => a.isaHqnt c i

/-- CMSADD (R342). -/
def execCmsadd (c : Nat) (i : Insn) (s : State) : Out := s.onAgg fun a => a.isaCmsadd c i

/-- CMSQ (R342). -/
def execCmsq (c : Nat) (i : Insn) (s : State) : Out := s.onAgg fun a => a.isaCmsq c i

/-- XCLR (R337). -/
def execXclr (c : Nat) (i : Insn) (s : State) : Out := s.onAgg fun a => a.isaXclr c i

/-- XDOT (R337). -/
def execXdot (c : Nat) (i : Insn) (s : State) : Out := s.onAgg fun a => a.isaXdot c i

/-- XADDV (R337). -/
def execXaddv (c : Nat) (i : Insn) (s : State) : Out := s.onAgg fun a => a.isaXaddv c i

/-- XRD (R337). -/
def execXrd (c : Nat) (i : Insn) (s : State) : Out := s.onAgg fun a => a.isaXrd c i

end Sys2Proof.Machine
end

