-- ==== Sys2Proof/Machine/Dispatch.lean ====
section
/-!
DEFINITION. The effect of every command on everything but the queue: one arm for each, which calls its meaning.
-/
namespace Sys2Proof.Machine

def exec (i : Instr) (s : State) : Host.Outcome State Fault Refusal :=
  match i with
  | .fleetTimeTick p busy => Sys2Proof.Machine.execFleetTimeTick p busy s
  | .interpLineSwap => Sys2Proof.Machine.execInterpLineSwap s
  | .refLost => Sys2Proof.Machine.execRefLost s
  | .refReturn => Sys2Proof.Machine.execRefReturn s
  | .tsRxStrobe p port q lat valid => Sys2Proof.Machine.execTsRxStrobe p port q lat valid s
  | .tsTxStrobe p port q lat valid => Sys2Proof.Machine.execTsTxStrobe p port q lat valid s
  | .strobeUnmatched p => Sys2Proof.Machine.execStrobeUnmatched p s
  | .syncRx p m => Sys2Proof.Machine.execSyncRx p m s
  | .followUpRx p m => Sys2Proof.Machine.execFollowUpRx p m s
  | .delayReqTx p m => Sys2Proof.Machine.execDelayReqTx p m s
  | .delayReqRx p m => Sys2Proof.Machine.execDelayReqRx p m s
  | .delayRespRx p m => Sys2Proof.Machine.execDelayRespRx p m s
  | .announceRx p m => Sys2Proof.Machine.execAnnounceRx p m s
  | .ptpUnimplementedRx p m => Sys2Proof.Machine.execPtpUnimplementedRx p m s
  | .syncTx port m => Sys2Proof.Machine.execSyncTx port m s
  | .announceTx port m => Sys2Proof.Machine.execAnnounceTx port m s
  | .syncReceiptLoss p m => Sys2Proof.Machine.execSyncReceiptLoss p m s
  | .announceTimeout p m => Sys2Proof.Machine.execAnnounceTimeout p m s
  | .acceptJump p q => Sys2Proof.Machine.execAcceptJump p q s
  | .activeSet p m q => Sys2Proof.Machine.execActiveSet p m q s
  | .tcNowRead p priv q => Sys2Proof.Machine.execTcNowRead p priv q s
  | .clkmonWindow cnt trc egr tcp stretch => Sys2Proof.Machine.execClkmonWindow cnt trc egr tcp stretch s
  | .pealArm h id tp frozen waitUs => Sys2Proof.Machine.execPealArm h id tp frozen waitUs s
  | .pealFire p id q => Sys2Proof.Machine.execPealFire p id q s
  | .counterClockResume q => Sys2Proof.Machine.execCounterClockResume q s
  | .pealLightSetTimeout => Sys2Proof.Machine.execPealLightSetTimeout s
  | .gateWindowOpen e q => Sys2Proof.Machine.execGateWindowOpen e q s
  | .gateWindowClose e q => Sys2Proof.Machine.execGateWindowClose e q s
  | .pdClkAck k => Sys2Proof.Machine.execPdClkAck k s
  | .domainWakeDone k q => Sys2Proof.Machine.execDomainWakeDone k q s
  | .domainWakeFail k => Sys2Proof.Machine.execDomainWakeFail k s
  | .domainSleep k q => Sys2Proof.Machine.execDomainSleep k q s
  | .tracePacketAsleep port x => Sys2Proof.Machine.execTracePacketAsleep port x s
  | .porN => Sys2Proof.Machine.execPorN s
  | .rstN => Sys2Proof.Machine.execRstN s
  | .softReset q => Sys2Proof.Machine.execSoftReset q s
  | .domainReset doms q => Sys2Proof.Machine.execDomainReset doms q s
  | .macRxDiscard overflow => Sys2Proof.Machine.execMacRxDiscard overflow s
  | .egDrop => Sys2Proof.Machine.execEgDrop s
  | .cntCycle j => Sys2Proof.Machine.execCntCycle j s
  | .ltErrToggle levels => Sys2Proof.Machine.execLtErrToggle levels s
  | .commandStart cmId q => Sys2Proof.Machine.execCommandStart cmId q s
  | .commandEnd q => Sys2Proof.Machine.execCommandEnd q s
  | .selectorWrite n w priv q => Sys2Proof.Machine.execSelectorWrite n w priv q s
  | .clear q => Sys2Proof.Machine.execClear q s
  | .snap q => Sys2Proof.Machine.execSnap q s
  | .freeze q => Sys2Proof.Machine.execFreeze q s
  | .freezeRel q => Sys2Proof.Machine.execFreezeRel q s
  | .freezeTimeout => Sys2Proof.Machine.execFreezeTimeout s
  | .latchRel q => Sys2Proof.Machine.execLatchRel q s
  | .counterRead n priv q => Sys2Proof.Machine.execCounterRead n priv q s
  | .pealBankCopy b => Sys2Proof.Machine.execPealBankCopy b s
  | .latchParcelBuild => Sys2Proof.Machine.execLatchParcelBuild s
  | .tracePacketPresent port x q => Sys2Proof.Machine.execTracePacketPresent port x q s
  | .traceStageWrite q stretch => Sys2Proof.Machine.execTraceStageWrite q stretch s
  | .deadReportStage src q => Sys2Proof.Machine.execDeadReportStage src q s
  | .sourceSleep port q => Sys2Proof.Machine.execSourceSleep port q s
  | .sourceWake port q => Sys2Proof.Machine.execSourceWake port q s
  | .traceClockResume q => Sys2Proof.Machine.execTraceClockResume q s
  | .authWrite sec prv q => Sys2Proof.Machine.execAuthWrite sec prv q s
  | .segmentFlushTimeout => Sys2Proof.Machine.execSegmentFlushTimeout s
  | .segmentDrain => Sys2Proof.Machine.execSegmentDrain s
  | .drainEnWrite en q => Sys2Proof.Machine.execDrainEnWrite en q s
  | .ringTrig q => Sys2Proof.Machine.execRingTrig q s
  | .traceModeWrite mode q => Sys2Proof.Machine.execTraceModeWrite mode q s
  | .stepAdvance step => Sys2Proof.Machine.execStepAdvance step s
  | .checkEvent consumed tensor block carried computed q => Sys2Proof.Machine.execCheckEvent consumed tensor block carried computed q s
  | .lineageTransfer rec_ => Sys2Proof.Machine.execLineageTransfer rec_ s
  | .tileCommit x q => Sys2Proof.Machine.execTileCommit x q s
  | .selectionAnswer => Sys2Proof.Machine.execSelectionAnswer s
  | .captureBeat tag part data last => Sys2Proof.Machine.execCaptureBeat tag part data last s
  | .captureAbort tag => Sys2Proof.Machine.execCaptureAbort tag s
  | .captureDeadline tag => Sys2Proof.Machine.execCaptureDeadline tag s
  | .captureUnfinished tag => Sys2Proof.Machine.execCaptureUnfinished tag s
  | .dumpRequest => Sys2Proof.Machine.execDumpRequest s
  | .dumpAck => Sys2Proof.Machine.execDumpAck s
  | .dumpAckTimeout => Sys2Proof.Machine.execDumpAckTimeout s
  | .dumpBeat data last final abort => Sys2Proof.Machine.execDumpBeat data last final abort s
  | .heReport unit_ op code sev => Sys2Proof.Machine.execHeReport unit_ op code sev s
  | .snUpd temp mv => Sys2Proof.Machine.execSnUpd temp mv s
  | .healthRecordRelease hseq => Sys2Proof.Machine.execHealthRecordRelease hseq s
  | .supplyWarn => Sys2Proof.Machine.execSupplyWarn s
  | .supplyCrit => Sys2Proof.Machine.execSupplyCrit s
  | .supplyOk p crit => Sys2Proof.Machine.execSupplyOk p crit s
  | .flushWordAck => Sys2Proof.Machine.execFlushWordAck s
  | .flushWordTimeout => Sys2Proof.Machine.execFlushWordTimeout s
  | .faultFlushStart p => Sys2Proof.Machine.execFaultFlushStart p s
  | .queuedFlushStart p => Sys2Proof.Machine.execQueuedFlushStart p s
  | .recorderFlush p q => Sys2Proof.Machine.execRecorderFlush p q s
  | .recorderWrite p => Sys2Proof.Machine.execRecorderWrite p s
  | .rateBucketRefill p j => Sys2Proof.Machine.execRateBucketRefill p j s
  | .recorderCursorWrite p cursor q => Sys2Proof.Machine.execRecorderCursorWrite p cursor q s
  | .recWinAutoRead p q => Sys2Proof.Machine.execRecWinAutoRead p q s
  | .bankEraseDone => Sys2Proof.Machine.execBankEraseDone s
  | .aggSupplyWarn => Sys2Proof.Machine.execAggSupplyWarn s
  | .aggSupplyCrit => Sys2Proof.Machine.execAggSupplyCrit s
  | .aggFlushPageDone => Sys2Proof.Machine.execAggFlushPageDone s
  | .tocsinTxStart seg quiet => Sys2Proof.Machine.execTocsinTxStart seg quiet s
  | .tocsinCollision seg cd heard => Sys2Proof.Machine.execTocsinCollision seg cd heard s
  | .tocsinTxEnd seg => Sys2Proof.Machine.execTocsinTxEnd seg s
  | .alarmRx seg rxd => Sys2Proof.Machine.execAlarmRx seg rxd s
  | .alarmAckRx rxd => Sys2Proof.Machine.execAlarmAckRx rxd s
  | .alarmResend aseq => Sys2Proof.Machine.execAlarmResend aseq s
  | .chipResetAnnounceRx rxd => Sys2Proof.Machine.execChipResetAnnounceRx rxd s
  | .beaconRx rxd => Sys2Proof.Machine.execBeaconRx rxd s
  | .beaconTx seg => Sys2Proof.Machine.execBeaconTx seg s
  | .beaconLost => Sys2Proof.Machine.execBeaconLost s
  | .guestFrameRx seg rxd => Sys2Proof.Machine.execGuestFrameRx seg rxd s
  | .tocsinUnknownRx seg rxd => Sys2Proof.Machine.execTocsinUnknownRx seg rxd s
  | .failoverTimeout => Sys2Proof.Machine.execFailoverTimeout s
  | .keepaliveTx entry => Sys2Proof.Machine.execKeepaliveTx entry s
  | .keepaliveRx aggId => Sys2Proof.Machine.execKeepaliveRx aggId s
  | .registerRequestTx => Sys2Proof.Machine.execRegisterRequestTx s
  | .registerRequestRx mac l => Sys2Proof.Machine.execRegisterRequestRx mac l s
  | .registerAcceptRx nonce x => Sys2Proof.Machine.execRegisterAcceptRx nonce x s
  | .registerRefuseRx nonce => Sys2Proof.Machine.execRegisterRefuseRx nonce s
  | .failoverRequestRx mac l => Sys2Proof.Machine.execFailoverRequestRx mac l s
  | .arm h job gen => Sys2Proof.Machine.execArm h job gen s
  | .retire h => Sys2Proof.Machine.execRetire h s
  | .freezeRelease h => Sys2Proof.Machine.execFreezeRelease h s
  | .fpMap h ents => Sys2Proof.Machine.execFpMap h ents s
  | .selKey h key => Sys2Proof.Machine.execSelKey h key s
  | .dumpArm h tensor atEnd step => Sys2Proof.Machine.execDumpArm h tensor atEnd step s
  | .ringTrigger h => Sys2Proof.Machine.execRingTrigger h s
  | .readmit h step => Sys2Proof.Machine.execReadmit h step s
  | .regWrite h ops => Sys2Proof.Machine.execRegWrite h ops s
  | .regRead h addrs => Sys2Proof.Machine.execRegRead h addrs s
  | .ctlBadFrame h op => Sys2Proof.Machine.execCtlBadFrame h op s
  | .controlAckRx l => Sys2Proof.Machine.execControlAckRx l s
  | .ctlRetry entry cseq => Sys2Proof.Machine.execCtlRetry entry cseq s
  | .launchDecision q => Sys2Proof.Machine.execLaunchDecision q s
  | .shaperRefill q => Sys2Proof.Machine.execShaperRefill q s
  | .shaperConfigWrite stream burst w q => Sys2Proof.Machine.execShaperConfigWrite stream burst w q s
  | .gateCommit q => Sys2Proof.Machine.execGateCommit q s
  | .gateListSwitch q => Sys2Proof.Machine.execGateListSwitch q s
  | .parcelCloseTimeout ptype => Sys2Proof.Machine.execParcelCloseTimeout ptype s
  | .telemetryFrameRx l => Sys2Proof.Machine.execTelemetryFrameRx l s
  | .reasmTimeout stream => Sys2Proof.Machine.execReasmTimeout stream s
  | .parcelCheck stream => Sys2Proof.Machine.execParcelCheck stream s
  | .channelOpen core chan desc priv => Sys2Proof.Machine.execChannelOpen core chan desc priv s
  | .forwardBufferGrant chan => Sys2Proof.Machine.execForwardBufferGrant chan s
  | .forwardWaitTimeout chan => Sys2Proof.Machine.execForwardWaitTimeout chan s
  | .posteRestanteResume chan addr len priv => Sys2Proof.Machine.execPosteRestanteResume chan addr len priv s
  | .channelCancel chan priv => Sys2Proof.Machine.execChannelCancel chan priv s
  | .pealArmSend ctx tp => Sys2Proof.Machine.execPealArmSend ctx tp s
  | .trayEpochDeadline ctx tp => Sys2Proof.Machine.execTrayEpochDeadline ctx tp s
  | .subtreeEpochDeadline ctx tp => Sys2Proof.Machine.execSubtreeEpochDeadline ctx tp s
  | .treeContribRx l => Sys2Proof.Machine.execTreeContribRx l s
  | .contribAckRx l => Sys2Proof.Machine.execContribAckRx l s
  | .contribRetry ctx tp => Sys2Proof.Machine.execContribRetry ctx tp s
  | .treeHeartbeatTx ctx => Sys2Proof.Machine.execTreeHeartbeatTx ctx s
  | .treeHeartbeatRx l => Sys2Proof.Machine.execTreeHeartbeatRx l s
  | .treeHeartbeatLost ctx peer => Sys2Proof.Machine.execTreeHeartbeatLost ctx peer s
  | .reparentEffect ctx => Sys2Proof.Machine.execReparentEffect ctx s
  | .bcArmedCheck l => Sys2Proof.Machine.execBcArmedCheck l s
  | .bcPealSchedule l => Sys2Proof.Machine.execBcPealSchedule l s
  | .bcSelRates l => Sys2Proof.Machine.execBcSelRates l s
  | .bcDetectorParams l => Sys2Proof.Machine.execBcDetectorParams l s
  | .bcTaint l => Sys2Proof.Machine.execBcTaint l s
  | .bcReparent l => Sys2Proof.Machine.execBcReparent l s
  | .bcReserved l => Sys2Proof.Machine.execBcReserved l s
  | .bcRetry ctx bseq child => Sys2Proof.Machine.execBcRetry ctx bseq child s
  | .bcGapWaitExpiry ctx => Sys2Proof.Machine.execBcGapWaitExpiry ctx s
  | .bcAckRx l => Sys2Proof.Machine.execBcAckRx l s
  | .nakRx l => Sys2Proof.Machine.execNakRx l s
  | .bcDoneWaitExpiry ctx bseq => Sys2Proof.Machine.execBcDoneWaitExpiry ctx bseq s
  | .retireDrainExpiry ctx => Sys2Proof.Machine.execRetireDrainExpiry ctx s
  | .quarantineEnd ctx => Sys2Proof.Machine.execQuarantineEnd ctx s
  | .mirrorLinkUp farId farDomains farSession farAck => Sys2Proof.Machine.execMirrorLinkUp farId farDomains farSession farAck s
  | .mirrorLinkDown => Sys2Proof.Machine.execMirrorLinkDown s
  | .mirrorLedgerRx l => Sys2Proof.Machine.execMirrorLedgerRx l s
  | .mirrorContextRx l img => Sys2Proof.Machine.execMirrorContextRx l img s
  | .mirrorImageRx l => Sys2Proof.Machine.execMirrorImageRx l s
  | .mirrorAckRx l => Sys2Proof.Machine.execMirrorAckRx l s
  | .mirrorSpilledRx l => Sys2Proof.Machine.execMirrorSpilledRx l s
  | .resyncReqRx l => Sys2Proof.Machine.execResyncReqRx l s
  | .resyncBeginRx l => Sys2Proof.Machine.execResyncBeginRx l s
  | .resyncEndRx l => Sys2Proof.Machine.execResyncEndRx l s
  | .partnerHealthRx l => Sys2Proof.Machine.execPartnerHealthRx l s
  | .mirrorReservedRx l => Sys2Proof.Machine.execMirrorReservedRx l s
  | .mirrorRetry mseq => Sys2Proof.Machine.execMirrorRetry mseq s
  | .partnerHealthTx => Sys2Proof.Machine.execPartnerHealthTx s
  | .partnerLost => Sys2Proof.Machine.execPartnerLost s
  | .stageWaitExpiry duid job gen seq => Sys2Proof.Machine.execStageWaitExpiry duid job gen seq s
  | .tileDispatch core => Sys2Proof.Machine.execTileDispatch core s
  | .startWaitExpiry duid job gen seq => Sys2Proof.Machine.execStartWaitExpiry duid job gen seq s
  | .auditComplete core errs => Sys2Proof.Machine.execAuditComplete core errs s
  | .engineFault core => Sys2Proof.Machine.execEngineFault core s
  | .numericsDescriptorWrite e w value => Sys2Proof.Machine.execNumericsDescriptorWrite e w value s
  | .detectorTrayRun core => Sys2Proof.Machine.execDetectorTrayRun core s
  | .detectorEpochRun core => Sys2Proof.Machine.execDetectorEpochRun core s
  | .runBudget core cyc => Sys2Proof.Machine.execRunBudget core cyc s
  | .nop c j => Sys2Proof.Machine.execNop c j s
  | .halt c j => Sys2Proof.Machine.execHalt c j s
  | .li c j => Sys2Proof.Machine.execLi c j s
  | .add c j => Sys2Proof.Machine.execAdd c j s
  | .sub c j => Sys2Proof.Machine.execSub c j s
  | .mul c j => Sys2Proof.Machine.execMul c j s
  | .mulhu c j => Sys2Proof.Machine.execMulhu c j s
  | .and c j => Sys2Proof.Machine.execAnd c j s
  | .or c j => Sys2Proof.Machine.execOr c j s
  | .xor c j => Sys2Proof.Machine.execXor c j s
  | .shl c j => Sys2Proof.Machine.execShl c j s
  | .shr c j => Sys2Proof.Machine.execShr c j s
  | .sra c j => Sys2Proof.Machine.execSra c j s
  | .addi c j => Sys2Proof.Machine.execAddi c j s
  | .cmplt c j => Sys2Proof.Machine.execCmplt c j s
  | .cmpltu c j => Sys2Proof.Machine.execCmpltu c j s
  | .cmpeq c j => Sys2Proof.Machine.execCmpeq c j s
  | .divu c j => Sys2Proof.Machine.execDivu c j s
  | .remu c j => Sys2Proof.Machine.execRemu c j s
  | .ld c j => Sys2Proof.Machine.execLd c j s
  | .st c j => Sys2Proof.Machine.execSt c j s
  | .ldw c j => Sys2Proof.Machine.execLdw c j s
  | .stw c j => Sys2Proof.Machine.execStw c j s
  | .br c j => Sys2Proof.Machine.execBr c j s
  | .bz c j => Sys2Proof.Machine.execBz c j s
  | .bnz c j => Sys2Proof.Machine.execBnz c j s
  | .call c j => Sys2Proof.Machine.execCall c j s
  | .ret c j => Sys2Proof.Machine.execRet c j s
  | .loop c j => Sys2Proof.Machine.execLoop c j s
  | .arrive c j cyc => Sys2Proof.Machine.execArrive c j cyc s
  | .barrierRelease b cyc => Sys2Proof.Machine.execBarrierRelease b cyc s
  | .barrierTimeout b cyc => Sys2Proof.Machine.execBarrierTimeout b cyc s
  | .signal c j cyc => Sys2Proof.Machine.execSignal c j cyc s
  | .wait c j cyc => Sys2Proof.Machine.execWait c j cyc s
  | .trywait c j cyc => Sys2Proof.Machine.execTrywait c j cyc s
  | .semread c j => Sys2Proof.Machine.execSemread c j s
  | .semWaiterRelease engine cyc => Sys2Proof.Machine.execSemWaiterRelease engine cyc s
  | .semWaitTimeout sem engine cyc => Sys2Proof.Machine.execSemWaitTimeout sem engine cyc s
  | .move c j => Sys2Proof.Machine.execMove c j s
  | .moveDone c => Sys2Proof.Machine.execMoveDone c s
  | .mwait c j => Sys2Proof.Machine.execMwait c j s
  | .epoch c j => Sys2Proof.Machine.execEpoch c j s
  | .event c j => Sys2Proof.Machine.execEvent c j s
  | .out c j => Sys2Proof.Machine.execOut c j s
  | .fence c j => Sys2Proof.Machine.execFence c j s
  | .bcast c j => Sys2Proof.Machine.execBcast c j s
  | .trap c j => Sys2Proof.Machine.execTrap c j s
  | .vld c j => Sys2Proof.Machine.execVld c j s
  | .vst c j => Sys2Proof.Machine.execVst c j s
  | .vlds c j => Sys2Proof.Machine.execVlds c j s
  | .vgather c j => Sys2Proof.Machine.execVgather c j s
  | .vadd c j => Sys2Proof.Machine.execVadd c j s
  | .vsub c j => Sys2Proof.Machine.execVsub c j s
  | .vmul c j => Sys2Proof.Machine.execVmul c j s
  | .vfma c j => Sys2Proof.Machine.execVfma c j s
  | .vdiv c j => Sys2Proof.Machine.execVdiv c j s
  | .vsqrt c j => Sys2Proof.Machine.execVsqrt c j s
  | .vmin c j => Sys2Proof.Machine.execVmin c j s
  | .vmax c j => Sys2Proof.Machine.execVmax c j s
  | .vabs c j => Sys2Proof.Machine.execVabs c j s
  | .vcvt c j => Sys2Proof.Machine.execVcvt c j s
  | .vcmplt c j => Sys2Proof.Machine.execVcmplt c j s
  | .vcmpeq c j => Sys2Proof.Machine.execVcmpeq c j s
  | .vsel c j => Sys2Proof.Machine.execVsel c j s
  | .vexp2 c j => Sys2Proof.Machine.execVexp2 c j s
  | .vlog2 c j => Sys2Proof.Machine.execVlog2 c j s
  | .vbcast c j => Sys2Proof.Machine.execVbcast c j s
  | .vrsum c j => Sys2Proof.Machine.execVrsum c j s
  | .vrmax c j => Sys2Proof.Machine.execVrmax c j s
  | .vbkt c j => Sys2Proof.Machine.execVbkt c j s
  | .mzero c j => Sys2Proof.Machine.execMzero c j s
  | .mma c j => Sys2Proof.Machine.execMma c j s
  | .mst c j => Sys2Proof.Machine.execMst c j s
  | .mact c j => Sys2Proof.Machine.execMact c j s
  | .hins c j => Sys2Proof.Machine.execHins c j s
  | .hmrg c j => Sys2Proof.Machine.execHmrg c j s
  | .hqnt c j => Sys2Proof.Machine.execHqnt c j s
  | .cmsadd c j => Sys2Proof.Machine.execCmsadd c j s
  | .cmsq c j => Sys2Proof.Machine.execCmsq c j s
  | .xclr c j => Sys2Proof.Machine.execXclr c j s
  | .xdot c j => Sys2Proof.Machine.execXdot c j s
  | .xaddv c j => Sys2Proof.Machine.execXaddv c j s
  | .xrd c j => Sys2Proof.Machine.execXrd c j s
  | .selRatesSend ctx duid => Sys2Proof.Machine.execSelRatesSend ctx duid s
  | .syncOwnerWrite sem n w cyc => Sys2Proof.Machine.execSyncOwnerWrite sem n w cyc s
  | .barrierMaskWrite b mask cyc => Sys2Proof.Machine.execBarrierMaskWrite b mask cyc s
  | .barrierReset b cyc => Sys2Proof.Machine.execBarrierReset b cyc s
  | .semValueWrite n value cyc => Sys2Proof.Machine.execSemValueWrite n value cyc s
  | .semReset n cyc => Sys2Proof.Machine.execSemReset n cyc s
  | .memoryUncorrectable addr => Sys2Proof.Machine.execMemoryUncorrectable addr s
  | .bridgeFatal => Sys2Proof.Machine.execBridgeFatal s
  | .aggWatchdog => Sys2Proof.Machine.execAggWatchdog s
  | .hbmPatrolScrub stack => Sys2Proof.Machine.execHbmPatrolScrub stack s
  | .aggDomainSleep k idle final => Sys2Proof.Machine.execAggDomainSleep k idle final s
  | .aggDomainWake k usable => Sys2Proof.Machine.execAggDomainWake k usable s
  | .deferredWakeStart => Sys2Proof.Machine.execDeferredWakeStart s
  | .aggWakeFail k => Sys2Proof.Machine.execAggWakeFail k s
  | .coreDrain core drain => Sys2Proof.Machine.execCoreDrain core drain s
  | .coreDrained core => Sys2Proof.Machine.execCoreDrained core s
  | .coreMapOut core mapped => Sys2Proof.Machine.execCoreMapOut core mapped s
  | .thermalSample dies stackTemps mv => Sys2Proof.Machine.execThermalSample dies stackTemps mv s
  | .stepSeal ctx step => Sys2Proof.Machine.execStepSeal ctx step s
  | .forcedSeal ctx step => Sys2Proof.Machine.execForcedSeal ctx step s
  | .stepSpill job gen home step => Sys2Proof.Machine.execStepSpill job gen home step s
  | .spillWriteDone job gen home step => Sys2Proof.Machine.execSpillWriteDone job gen home step s
  | .spillRetry job gen home step => Sys2Proof.Machine.execSpillRetry job gen home step s
  | .ledgerFetchDone serial name object => Sys2Proof.Machine.execLedgerFetchDone serial name object s
  | .fetchWaitExpiry serial => Sys2Proof.Machine.execFetchWaitExpiry serial s
  | .mismatchResolveTimeout duid => Sys2Proof.Machine.execMismatchResolveTimeout duid s
  | .scoreDecay => Sys2Proof.Machine.execScoreDecay s
  | .condSuspectExpiry unit_ cell => Sys2Proof.Machine.execCondSuspectExpiry unit_ cell s
  | .chipReset code => Sys2Proof.Machine.execChipReset code s
  | .chipResetBegin => Sys2Proof.Machine.execChipResetBegin s
  | .aggPowerOn slots => Sys2Proof.Machine.execAggPowerOn slots s
  | .aggBoot img => Sys2Proof.Machine.execAggBoot img s
  | .bootResyncTimeout => Sys2Proof.Machine.execBootResyncTimeout s
  | .scanStart => Sys2Proof.Machine.execScanStart s
  | .scanComplete core fails => Sys2Proof.Machine.execScanComplete core fails s
  | .fanoutCalibration ok => Sys2Proof.Machine.execFanoutCalibration ok s
  | .bridgeCalibration ok => Sys2Proof.Machine.execBridgeCalibration ok s
  | .sensorTrimCalibration ok => Sys2Proof.Machine.execSensorTrimCalibration ok s
  | .sqDoorbell q tail => Sys2Proof.Machine.execSqDoorbell q tail s
  | .cqDoorbell cq head => Sys2Proof.Machine.execCqDoorbell cq head s
  | .commandFetch => Sys2Proof.Machine.execCommandFetch s
  | .commandBudgetExpiry serial => Sys2Proof.Machine.execCommandBudgetExpiry serial s
  | .identify serial ok => Sys2Proof.Machine.execIdentify serial ok s
  | .getLogRecorder serial ok => Sys2Proof.Machine.execGetLogRecorder serial ok s
  | .getLogNotices serial ok => Sys2Proof.Machine.execGetLogNotices serial ok s
  | .getLogSampling serial ok => Sys2Proof.Machine.execGetLogSampling serial ok s
  | .getLogFwSlots serial ok => Sys2Proof.Machine.execGetLogFwSlots serial ok s
  | .getLogPools serial ok => Sys2Proof.Machine.execGetLogPools serial ok s
  | .getLogQueues serial ok => Sys2Proof.Machine.execGetLogQueues serial ok s
  | .getFeature serial ok => Sys2Proof.Machine.execGetFeature serial ok s
  | .queueCreate serial ok => Sys2Proof.Machine.execQueueCreate serial ok s
  | .queueDelete serial ok => Sys2Proof.Machine.execQueueDelete serial ok s
  | .cancel serial ok => Sys2Proof.Machine.execCancel serial ok s
  | .detImageLoad serial ok => Sys2Proof.Machine.execDetImageLoad serial ok s
  | .detImageFree serial ok => Sys2Proof.Machine.execDetImageFree serial ok s
  | .detBind serial ok => Sys2Proof.Machine.execDetBind serial ok s
  | .detUnbind serial ok => Sys2Proof.Machine.execDetUnbind serial ok s
  | .broadcastIssue serial ok => Sys2Proof.Machine.execBroadcastIssue serial ok s
  | .ledgerSpillNow serial ok => Sys2Proof.Machine.execLedgerSpillNow serial ok s
  | .ledgerImport serial ok => Sys2Proof.Machine.execLedgerImport serial ok s
  | .ledgerReference serial ok => Sys2Proof.Machine.execLedgerReference serial ok s
  | .healthBudget serial ok => Sys2Proof.Machine.execHealthBudget serial ok s
  | .knellConfirm serial ok => Sys2Proof.Machine.execKnellConfirm serial ok s
  | .knellRelease serial ok => Sys2Proof.Machine.execKnellRelease serial ok s
  | .swap serial ok => Sys2Proof.Machine.execSwap serial ok s
  | .scan serial ok => Sys2Proof.Machine.execScan serial ok s
  | .resetLoopClear serial ok => Sys2Proof.Machine.execResetLoopClear serial ok s
  | .firmwareDownload serial ok => Sys2Proof.Machine.execFirmwareDownload serial ok s
  | .fwCommit serial ok => Sys2Proof.Machine.execFwCommit serial ok s
  | .fwCommitActivate serial ok => Sys2Proof.Machine.execFwCommitActivate serial ok s
  | .fwActivate serial ok => Sys2Proof.Machine.execFwActivate serial ok s
  | .fwActivationProceed => Sys2Proof.Machine.execFwActivationProceed s
  | .fwReady => Sys2Proof.Machine.execFwReady s
  | .fwReadyTimeout => Sys2Proof.Machine.execFwReadyTimeout s
  | .flush serial ok => Sys2Proof.Machine.execFlush serial ok s
  | .flushComplete serial => Sys2Proof.Machine.execFlushComplete serial s
  | .resetInterface serial => Sys2Proof.Machine.execResetInterface serial s
  | .resetChip serial => Sys2Proof.Machine.execResetChip serial s
  | .query serial ok => Sys2Proof.Machine.execQuery serial ok s
  | .readLedgerRecords serial ok => Sys2Proof.Machine.execReadLedgerRecords serial ok s
  | .readLedgerSummary serial ok => Sys2Proof.Machine.execReadLedgerSummary serial ok s
  | .readLedgerEpochs serial ok => Sys2Proof.Machine.execReadLedgerEpochs serial ok s
  | .readLedgerVerdicts serial ok => Sys2Proof.Machine.execReadLedgerVerdicts serial ok s
  | .readLedgerCompare serial ok => Sys2Proof.Machine.execReadLedgerCompare serial ok s
  | .readLedgerLastClean serial ok => Sys2Proof.Machine.execReadLedgerLastClean serial ok s
  | .readLedgerManifest serial ok => Sys2Proof.Machine.execReadLedgerManifest serial ok s
  | .readTrace serial ok => Sys2Proof.Machine.execReadTrace serial ok s
  | .armJob serial ok => Sys2Proof.Machine.execArmJob serial ok s
  | .retireJob serial ok => Sys2Proof.Machine.execRetireJob serial ok s
  | .capsuleSubmitRx src l => Sys2Proof.Machine.execCapsuleSubmitRx src l s
  | .capsuleDataRx src l => Sys2Proof.Machine.execCapsuleDataRx src l s
  | .capsuleAckRx src l => Sys2Proof.Machine.execCapsuleAckRx src l s
  | .capsuleResend mseq => Sys2Proof.Machine.execCapsuleResend mseq s
  | .mctpMessageRx m => Sys2Proof.Machine.execMctpMessageRx m s
  | .pcieConventionalReset => Sys2Proof.Machine.execPcieConventionalReset s
  | .flr => Sys2Proof.Machine.execFlr s
  | .dmaStart n => Sys2Proof.Machine.execDmaStart n s
  | .dmaStop n => Sys2Proof.Machine.execDmaStop n s
  | .dmaDescriptorDone n => Sys2Proof.Machine.execDmaDescriptorDone n s
  | .dmaFault n fetch moved => Sys2Proof.Machine.execDmaFault n fetch moved s
  | .phAlloc pool next actor => Sys2Proof.Machine.execPhAlloc pool next actor s
  | .phGive pool buf next actor => Sys2Proof.Machine.execPhGive pool buf next actor s
  | .phFree pool buf actor => Sys2Proof.Machine.execPhFree pool buf actor s
  | .registerWrite p addr w priv q cyc => Sys2Proof.Machine.execRegisterWrite p addr w priv q cyc s
  | .pkgPosWrite pos q => Sys2Proof.Machine.execPkgPosWrite pos q s
  | .w1cStatusRead p addr half priv q cyc => Sys2Proof.Machine.execW1cStatusRead p addr half priv q cyc s
  | .clearKeyWrite p page key priv q cyc => Sys2Proof.Machine.execClearKeyWrite p page key priv q cyc s
  | .clearingWrite p addr ones priv q cyc => Sys2Proof.Machine.execClearingWrite p addr ones priv q cyc s
  | .indAddrWrite p page w priv q cyc => Sys2Proof.Machine.execIndAddrWrite p page w priv q cyc s
  | .indDataAccess p page write priv q cyc => Sys2Proof.Machine.execIndDataAccess p page write priv q cyc s
  | .heldWritesApply k cyc => Sys2Proof.Machine.execHeldWritesApply k cyc s
  | .reAdmission step home only => Sys2Proof.Machine.execReAdmission step home only s
  | .bridgeReplay bridge => Sys2Proof.Machine.execBridgeReplay bridge s
  | .memoryCorrected hbm n => Sys2Proof.Machine.execMemoryCorrected hbm n s
  | .indFetchDone page => Sys2Proof.Machine.execIndFetchDone page s
  | .recWindowLoaded p => Sys2Proof.Machine.execRecWindowLoaded p s
  | .hbmTrainingCalibration ok => Sys2Proof.Machine.execHbmTrainingCalibration ok s
  | .laneTrainingFailure lane => Sys2Proof.Machine.execLaneTrainingFailure lane s

end Sys2Proof.Machine
end

