-- ==== Sys2Proof/Safety.lean ====
section
/-!
DEFINITION. What counts as a safe run, and the words that statements use: how a command's next state is written, when an
instruction of a detector program issues.
-/
namespace Sys2Proof.Machine

/-- A step stops. -/
def stops (s : State) : Bool :=
  match step s with
  | .next _ => false
  | _ => true

/-- The next state in which the aggregator is `a`, with what follows every event of it; the die unit and the queue stand. -/
def nextAgg (s : State) (a : Aggregator) : Out := .next { s with agg := Aggregator.after s.agg a }

/-- The next state in which the die unit is `d`; the aggregator and the queue stand. -/
def nextDu (s : State) (d : DieUnit) : Out := .next { s with du := d }

/-- A run is on a core and waits for nothing: its next instruction issues (R333, R334). -/
def ready (a : Aggregator) (c : Nat) (r : Run) : Prop := (a.core c).run = some r ∧ (a.core c).blocked = .no

/-- A word whose reserved bit is zero and whose register fields lie below bounds (R333). -/
def fieldsBelow (i : Insn) (d a b : Nat) : Prop := i.rsv = false ∧ i.d < d ∧ i.a < a ∧ i.b < b

/-- The aggregator after accesses, each an address and a length: the controller groups of the HBM that they reach are in use, and
wake (R244, R252). -/
def Aggregator.touched (a : Aggregator) (l : List (Nat × Nat)) : Aggregator := l.foldl (fun (a : Aggregator) x => a.hbmTouch x.1 x.2) a

/-- The memories of the aggregator, its own and the host's as it sees it, are in canonical form. -/
def Aggregator.memoriesOk (a : Aggregator) : Prop := Memory.wf a.mem = true ∧ Memory.wf a.host = true

/-- The die unit's queues hold no more than the spec gives them: 8 armed peals (R58), 8 alarms (R228), 16 health records (R397), 1,024
fingerprint entries (R164), 256 lineage records (R178), 8 armed dumps (R173), 256 staged packets (R136), and each of the 64 trace segments
once (R150). -/
def DieUnit.queuesOk (d : DieUnit) : Prop :=
  d.peals.length ≤ 8 ∧ d.toc.alarms.length ≤ 8 ∧ d.he.queue.length ≤ 16 ∧ d.tcp.fpQueue.length ≤ 1024 ∧ d.tcp.lineage.length ≤ 256
    ∧ d.tcp.dumps.length ≤ 8 ∧ d.trc.staging.length ≤ 256 ∧ (∀ e ∈ d.trc.segs, e.1 < 64) ∧ (d.trc.segs.map (·.1)).Nodup

end Sys2Proof.Machine
end

