-- ==== Sys2Proof/Certificates/Slice0/Obligations.lean ====
section
/-!
DEFINITION. The statements about the block, for the provers. Each names the rules of the specification that it formalises.
-/
open Sys2Proof Sys2Proof.Machine

/-! ### Detector programs: the sequencer (chapter 12) -/

/-- R333, Table 12-3: register x0 reads zero and keeps nothing written to it; a write of any other register changes that one.
R334, R336, Table 12-3: every register-to-register instruction writes xD with its result of xA and xB and goes on to the next word;
nothing but the core changes. -/
def Obligations.AluInstructionsWriteTheirResult : Prop :=
  (∀ (k : Core) (d n : Nat) (v : W64),
      (k.setX d v).xr n = (if n = d ∧ d ≠ 0 then v else k.xr n) ∧ k.xr 0 = 0 ∧ (k.setX d v).pc = k.pc
        ∧ (k.setX d v).ste0 = k.ste0 ∧ (k.setX d v).ste1 = k.ste1 ∧ (k.setX d v).xde = k.xde
        ∧ (k.setX d v).run = k.run ∧ (k.setX d v).blocked = k.blocked ∧ (k.setX d v).waiting = k.waiting)
  ∧ (∀ (s : State) (c : Nat) (i : Insn) (r : Run), ready s.agg c r → fieldsBelow i 64 64 64 →
      let k := s.agg.core c
      let x := k.xr i.a
      let y := k.xr i.b
      let done (v : W64) : Out := nextAgg s (s.agg.setCore c { k.setX i.d v with pc := k.pc + 1 })
      exec (.add c i) s = done (x + y) ∧ exec (.sub c i) s = done (x - y) ∧ exec (.mul c i) s = done (x * y)
        ∧ exec (.mulhu c i) s = done (BitVec.ofNat 64 (x.toNat * y.toNat / 2 ^ 64))
        ∧ exec (.and c i) s = done (x &&& y) ∧ exec (.or c i) s = done (x ||| y) ∧ exec (.xor c i) s = done (x ^^^ y)
        ∧ exec (.shl c i) s = done (x <<< (y.toNat % 64)) ∧ exec (.shr c i) s = done (x >>> (y.toNat % 64))
        ∧ exec (.sra c i) s = done (x.sshiftRight (y.toNat % 64))
        ∧ exec (.cmplt c i) s = done (if x.toInt < y.toInt then 1 else 0)
        ∧ exec (.cmpltu c i) s = done (if x.toNat < y.toNat then 1 else 0)
        ∧ exec (.cmpeq c i) s = done (if x = y then 1 else 0)
        ∧ exec (.divu c i) s = done (if y = 0 then BitVec.allOnes 64 else BitVec.ofNat 64 (x.toNat / y.toNat))
        ∧ exec (.remu c i) s = done (if y = 0 then x else BitVec.ofNat 64 (x.toNat % y.toNat))
        ∧ exec (.li c i) s = done (BitVec.ofInt 64 i.imm) ∧ exec (.addi c i) s = done (x + BitVec.ofInt 64 i.imm))

/-- Table 12-3: NOP and FENCE only advance the program counter; the branches, CALL, RET and LOOP set it. -/
def Obligations.ControlInstructionsSetThePc : Prop :=
  ∀ (s : State) (c : Nat) (i : Insn) (r : Run), ready s.agg c r → fieldsBelow i 64 64 64 →
    let k := s.agg.core c
    let onTo (k' : Core) (pc : Nat) : Out := nextAgg s (s.agg.setCore c { k' with pc := pc })
    let there := ((k.pc : Int) + i.imm).toNat
    exec (.nop c i) s = onTo k (k.pc + 1) ∧ exec (.fence c i) s = onTo k (k.pc + 1) ∧ exec (.br c i) s = onTo k there
      ∧ exec (.bz c i) s = onTo k (if k.xr i.a = 0 then there else k.pc + 1)
      ∧ exec (.bnz c i) s = onTo k (if k.xr i.a = 0 then k.pc + 1 else there)
      ∧ exec (.call c i) s = onTo (k.setX 63 (BitVec.ofNat 64 (k.pc + 1))) there
      ∧ exec (.ret c i) s = onTo k (k.xr 63).toNat
      ∧ exec (.loop c i) s = onTo (k.setX i.a (k.xr i.a - 1)) (if k.xr i.a - 1 = 0 then k.pc + 1 else there)


/-- A store of bytes changes exactly the bytes at its addresses (the memory of the aggregator, read byte by byte).
R334, R338, Table 12-3: an aligned access within the areas of the run and the regions that admit the sequencer: the load gives the
bytes, little-endian and zero-extended, and writes no memory; the store writes the bytes of xB at its address and no others.
R252: beside its own effect an access of the HBM wakes the controller groups that it reaches (`touched`); one of an SRAM changes nothing more. -/
def Obligations.ScalarLoadsAndStoresAccessTheirBytes : Prop :=
  (∀ (m : Store Byte) (addr : Nat) (l : List Byte) (x : Nat),
      storeGet 0 (memPut m addr l) x = if addr ≤ x ∧ x < addr + l.length then l.getD (x - addr) 0 else storeGet 0 m x)
  ∧ (∀ (s : State) (c : Nat) (i : Insn) (r : Run), ready s.agg c r → fieldsBelow i 64 64 64 →
      let k := s.agg.core c
      let addr := (k.xr i.a + BitVec.ofInt 64 i.imm).toNat
      let at_ (n : Nat) : Aggregator := s.agg.touched [(addr, n)]
      let loads (n : Nat) : Out := nextAgg s ((at_ n).setCore c { k.setX i.d (BitVec.ofNat 64 (leNat (memBytes s.agg.mem addr n))) with pc := k.pc + 1 })
      let stores (n : Nat) : Out := nextAgg s { (at_ n).setCore c { k with pc := k.pc + 1 } with mem := memPut s.agg.mem addr (leBytes n (k.xr i.b).toNat) }
      (addr % 8 = 0 → s.agg.runOk r false .seq addr 8 = true → s.agg.poisoned addr 8 = false → exec (.ld c i) s = loads 8)
        ∧ (addr % 4 = 0 → s.agg.runOk r false .seq addr 4 = true → s.agg.poisoned addr 4 = false → exec (.ldw c i) s = loads 4)
        ∧ (addr % 8 = 0 → s.agg.runOk r true .seq addr 8 = true → exec (.st c i) s = stores 8)
        ∧ (addr % 4 = 0 → s.agg.runOk r true .seq addr 4 = true → exec (.stw c i) s = stores 4))
  ∧ (∀ (a : Aggregator) (addr len : Nat), let a1 := a.touched [(addr, len)]
      (len = 0 ∨ addr + len ≤ hbmBase → a1 = a) ∧ a1.mem = a.mem ∧ a1.det = a.det ∧ a1.jobs = a.jobs ∧ a1.sync = a.sync)

/-- R339, Tables 12-3 and 12-6: an instruction whose reserved bit is set ends the run with ILLEGAL-OP; a misaligned load or store ends it
with ALIGN, one outside the areas of the run with ACCESS and no byte is written; TRAP ends it with TRAP and its user code; HALT ends it
without a fault.
R339, R329: a fault ends the run of an EPOCH instance at once: its core has no run and waits for nothing, no byte of memory changes,
DET_FAULT shows the instance, the fault code, the user code and the word address, and the instance has one more run, one more successive
fault and the code. -/
def Obligations.RunsEndAsTheTableOfFaultsSays : Prop :=
  (∀ (s : State) (c : Nat) (i : Insn) (r : Run), ready s.agg c r → i.d < 64 → i.a < 64 → i.b < 64 →
      let k := s.agg.core c
      let addr := (k.xr i.a + BitVec.ofInt 64 i.imm).toNat
      let ends (f : Option (Nat × Nat)) : Out := nextAgg s (s.agg.endRun c f)
      (i.rsv = true → exec (.add c i) s = ends (some (0x01, 0)) ∧ exec (.halt c i) s = ends (some (0x01, 0)))
        ∧ (i.rsv = false → exec (.halt c i) s = ends none ∧ exec (.trap c i) s = ends (some (0x08, unsigned 16 i.imm)))
        ∧ (i.rsv = false → addr % 8 ≠ 0 → exec (.ld c i) s = ends (some (0x03, 0)) ∧ exec (.st c i) s = ends (some (0x03, 0)))
        ∧ (i.rsv = false → addr % 8 = 0 → s.agg.runOk r true .seq addr 8 = false →
            exec (.st c i) s = nextAgg s ((s.agg.deny true .seq addr 8).endRun c (some (0x02, 0)))
              ∧ (s.agg.deny true .seq addr 8).mem = s.agg.mem))
  ∧ (∀ (a : Aggregator) (c code user : Nat) (r : Run) (n : Instance), (a.core c).run = some r → r.duid = none →
      a.inst r.inst = some n → n.succFaults < 3 → n.suspended = false → n.stopping = false → r.inst < 256 → code < 256 →
      user < 2 ^ 16 → (a.core c).pc < 2 ^ 32 →
      let a1 := a.endRun c (some (code, user))
      a1.core c = { a.core c with run := none, blocked := .no } ∧ a1.mem = a.mem
        ∧ a1.inst r.inst = some { n with runs := min (2 ^ 48 - 1) (n.runs + 1), succFaults := n.succFaults + 1, faultCode := code }
        ∧ a1.get DET_FAULT_INSTANCE = r.inst ∧ a1.get DET_FAULT_CODE = code ∧ a1.get DET_FAULT_TRAP_CODE = user
        ∧ a1.get DET_FAULT_PC = (a.core c).pc ∧ a1.get DET_STATUS_FAULT = 1)

/-- Table 12-3, R236: MOVE within the areas of the run queues its copy, MOVE_DONE carries the oldest copy out, and MWAIT holds the core
while copies of the run are not complete.
R360, R334, R294, R349: EVENT hands the 64 bytes at xA to the event record, OUT keeps output IMM of a TRAY run and changes nothing of
an EPOCH run, EPOCH answers the status of the epoch that its key names and stores what R294 gives, BCAST ends the run with NOT-ROOT where
the run may not broadcast. -/
def Obligations.MoverEventOutputAndBroadcastInstructions : Prop :=
  (∀ (s : State) (c : Nat) (i : Insn) (r : Run), ready s.agg c r → fieldsBelow i 64 64 64 →
      let k := s.agg.core c
      let m : Move := ⟨(k.xr i.d).toNat, (k.xr i.a).toNat, (k.xr i.b).toNat⟩
      (s.agg.runOk r true .seq m.dst m.len = true → s.agg.runOk r false .seq m.src m.len = true →
        s.agg.poisoned m.src m.len = false →
        exec (.move c i) s = nextAgg s ((s.agg.touched [(m.dst, m.len), (m.src, m.len)]).setCore c { k with pc := k.pc + 1, run := some { r with moves := r.moves ++ [m] } }))
        ∧ (r.moves = [] → exec (.mwait c i) s = nextAgg s (s.agg.setCore c { k with pc := k.pc + 1 }))
        ∧ (∀ x xs, r.moves = x :: xs →
            exec (.mwait c i) s = nextAgg s (s.agg.setCore c { k with pc := k.pc + 1, blocked := .moves })
            ∧ (s.agg.poisoned x.src x.len = false → exec (.moveDone c) s = nextAgg s
                ({ (s.agg.touched [(x.src, x.len)]).setCore c { k with run := some { r with moves := xs } } with
                  mem := memPut s.agg.mem x.dst (memBytes s.agg.mem x.src x.len) }.touched [(x.dst, x.len)]))))
  ∧ (∀ (s : State) (c : Nat) (i : Insn) (r : Run), ready s.agg c r → fieldsBelow i 64 64 64 →
      let k := s.agg.core c
      let addr := (k.xr i.a).toNat
      let k1 : Core := { k with pc := k.pc + 1 }
      (addr % 8 = 0 → s.agg.runOk r false .seq addr 64 = true → s.agg.poisoned addr 64 = false →
        exec (.event c i) s = nextAgg s (((s.agg.touched [(addr, 64)]).setCore c k1).putEvent c (readEvent (memBytes s.agg.mem addr 64))))
        ∧ (r.duid = none → exec (.out c i) s = nextAgg s (s.agg.setCore c k1))
        ∧ (∀ u, r.duid = some u → exec (.out c i) s = nextAgg s (s.agg.setCore c
            { k1 with run := some { r with outputs := tabPut r.outputs (unsigned 4 i.imm) (k.xr i.a) } }))
        ∧ (addr % 8 = 0 → s.agg.runOk r false .seq addr 24 = true → s.agg.poisoned addr 24 = false →
            s.agg.findJob (le (memBytes s.agg.mem addr 24) 0 4) (le (memBytes s.agg.mem addr 24) 4 1) = none →
            exec (.epoch c i) s = nextAgg s ((s.agg.touched [(addr, 24)]).setCore c { k.setX i.d (BitVec.ofNat 64 epNotFound) with pc := k.pc + 1 }))
        ∧ (let l := memBytes s.agg.mem addr (40 + beNat (memBytes s.agg.mem (addr + 8) 4))
           let a0 := (s.agg.touched [(addr, 40), (addr, l.length)]).setCore c k1
           s.agg.runOk r false .seq addr 40 = true → s.agg.runOk r false .seq addr l.length = true → s.agg.poisoned addr l.length = false →
            (∀ a1, a0.runBcast c l = (true, a1) → exec (.bcast c i) s = nextAgg s a1)
            ∧ (∀ a1, a0.runBcast c l = (false, a1) → exec (.bcast c i) s = nextAgg s (s.agg.endRun c (some (0x07, 0))))))

/-! ### Detector programs: synchronisation, Statistics Engines, Exact-Dot Engine -/

/-- R237, R239, R241, R242, Table 9-5: an ARRIVE, SIGNAL, WAIT, TRYWAIT or SEMREAD acts on the object of its number in the allocation
of the instance. A status comes into xD at once, or the core is blocked, which TRYWAIT never is; SIGNAL answers nothing. ARRIVE and SIGNAL
are releases (R236): while a copy of the core's mover is not complete they do not issue (the model's choice of how they wait, log 137). -/
def Obligations.SynchronisationInstructionsAct : Prop :=
  ∀ (s : State) (c : Nat) (i : Insn) (r : Run) (n : Instance) (b m cyc : Nat), ready s.agg c r → fieldsBelow i 64 64 64 →
    s.agg.inst r.inst = some n → 0 ≤ i.imm → n.barriers[i.imm.toNat]? = some b → n.sems[i.imm.toNat]? = some m →
    let k := s.agg.core c
    let now := s.agg.mono / 40 * 64 + cyc
    let x := (k.xr i.a).toNat
    let status (a : Aggregator) (v : Nat) : Out := nextAgg s (a.setCore c { k.setX i.d (BitVec.ofNat 64 v) with pc := k.pc + 1 })
    let blocks (a : Aggregator) : Out := nextAgg s (a.setCore c { k with pc := k.pc + 1, blocked := .sync i.d })
    (∀ v a, r.moves = [] → s.agg.arrive b c r.ctx now = (some v, a) → exec (.arrive c i cyc) s = status a v)
      ∧ (∀ a, r.moves = [] → s.agg.arrive b c r.ctx now = (none, a) → exec (.arrive c i cyc) s = blocks a)
      ∧ (r.moves = [] → exec (.signal c i cyc) s
          = nextAgg s ((s.agg.semSignal m x (4 * c) r.ctx now).2.setCore c { k with pc := k.pc + 1 }))
      ∧ (r.moves ≠ [] → exec (.arrive c i cyc) s = nextAgg s s.agg ∧ exec (.signal c i cyc) s = nextAgg s s.agg)
      ∧ (∀ v a, s.agg.semWait m x (k.xr i.b).toNat (4 * c) i.d (k.pc + 1) r.ctx now = (some v, a) → exec (.wait c i cyc) s = status a v)
      ∧ (∀ a, s.agg.semWait m x (k.xr i.b).toNat (4 * c) i.d (k.pc + 1) r.ctx now = (none, a) → exec (.wait c i cyc) s = blocks a)
      ∧ (∃ v a, s.agg.semTry m x (4 * c) i.d (k.pc + 1) r.ctx now = (some v, a) ∧ exec (.trywait c i cyc) s = status a v)
      ∧ (s.agg.ownsSem m r.ctx = true → exec (.semread c i) s = status s.agg (s.agg.get (SEM_VAL_VALUE m)))

/-- R239, R240: an arrival that completes the mask of a barrier fixes the release 48 cycles later; BARRIER_RELEASE then clears the
arrivals, advances the generation and releases every waiter with OK; BARRIER_TIMEOUT, without a last arrival, breaks the barrier and
releases every waiter with TIMEOUT.
R242: a served waiter is released with OK 48 cycles after its service, and an expired wait leaves its queue at once with TIMEOUT, after
which the new head is tested. -/
def Obligations.BarriersAndSemaphoresRelease : Prop :=
  (∀ (s : State) (b cyc due first : Nat), let now := s.agg.mono / 40 * 64 + cyc
      let w := s.agg.barWaiters b
      (tabGet s.agg.sync.barRelease b = some due → due ≤ now →
        exec (.barrierRelease b cyc) s = nextAgg s ((s.agg.barEnd b).resumeAll w 0))
        ∧ (tabGet s.agg.sync.barRelease b = some due → now < due → exec (.barrierRelease b cyc) s = nextAgg s s.agg)
        ∧ (tabGet s.agg.sync.barRelease b = none → tabGet s.agg.sync.barFirst b = some first → s.agg.get (BAR_CFG_TIMEOUT b) ≠ 0 →
            first + s.agg.get (BAR_CFG_TIMEOUT b) * 1600 < now →
            exec (.barrierTimeout b cyc) s = nextAgg s (((s.agg.barLeave b).set (BAR_STAT_BROKEN b) 1).resumeAll w 1))
        ∧ ((s.agg.barEnd b).get (BAR_ARR_ARRIVED b) = 0
            ∧ (s.agg.barEnd b).get (BAR_STAT_GEN b) = (s.agg.get (BAR_STAT_GEN b) + 1) % 2 ^ 16
            ∧ (s.agg.barEnd b).barWaiters b = [] ∧ (s.agg.barLeave b).barWaiters b = [] ∧ (s.agg.barLeave b).regs = s.agg.regs))
  ∧ (∀ (s : State) (m engine cyc : Nat) (r : Release) (w : SemWait) (due : Nat), let now := s.agg.mono / 40 * 64 + cyc
      (r ∈ s.agg.sync.served → r.engine = engine → r.due ≤ now →
        exec (.semWaiterRelease engine cyc) s = nextAgg s ((s.agg.modSync fun n =>
          { n with served := n.served.filter fun x => decide (x.engine ≠ engine) }).resume engine 0))
        ∧ (s.agg.semQueue m = [w] → w.engine = engine → w.due = some due → due < now →
            exec (.semWaitTimeout m engine cyc) s = nextAgg s ((s.agg.setSemQ m []).resume engine 1)))

/-- R335, R338, Table 12-4: a vector load of active lanes that are aligned and permitted gives every active lane the element at its
address and leaves the other lanes; VST writes the active lanes' elements and no other byte. -/
def Obligations.VectorLoadsAndStoresAccessActiveLanes : Prop :=
  ∀ (s : State) (c : Nat) (i : Insn) (r : Run), ready s.agg c r → fieldsBelow i 32 64 32 →
    let k := s.agg.core c
    let st := k.ste i.e
    let w := tySize i.ty
    let on := (List.range 64).filter fun l => (st.mr i.m).getLsbD l
    let unit_ (l : Nat) : Nat := (k.xr i.a + BitVec.ofInt 64 i.imm + BitVec.ofNat 64 (l * w)).toNat
    let strided (l : Nat) : Nat := (k.xr i.a + k.xr i.b * BitVec.ofNat 64 l).toNat
    let gathered (l : Nat) : Nat := (k.xr i.a + (st.vr i.b).getD l 0).toNat
    let permitted (write : Bool) (at_ : Nat → Nat) : Prop :=
      ∀ l ∈ on, at_ l % w = 0 ∧ s.agg.runOk r write .ste (at_ l) w = true ∧ (write = false → s.agg.poisoned (at_ l) w = false)
    let touched (at_ : Nat → Nat) : Aggregator := s.agg.touched (on.map fun l => (at_ l, w))
    let loads (at_ : Nat → Nat) : Out := nextAgg s ((touched at_).setCore c { k.setSte i.e (st.setV i.d ((List.range 64).map fun l =>
      if (st.mr i.m).getLsbD l then tyLane i.ty (leNat (memBytes s.agg.mem (at_ l) w)) else (st.vr i.d).getD l 0)) with pc := k.pc + 1 })
    (permitted false unit_ → exec (.vld c i) s = loads unit_) ∧ (permitted false strided → exec (.vlds c i) s = loads strided)
      ∧ (permitted false gathered → exec (.vgather c i) s = loads gathered)
      ∧ (permitted true unit_ → exec (.vst c i) s = nextAgg s { (touched unit_).setCore c { k with pc := k.pc + 1 } with
          mem := on.foldl (fun m l => memPut m (unit_ l) (leBytes w ((st.vr i.b).getD l 0).toNat)) s.agg.mem })

/-- R335, R336, Table 12-4: a lane-wise instruction gives every active lane its result of the lanes of vA and vB (FP32 and FP64 in
IEEE 754 arithmetic, integers modulo their width; where no rule gives a result, a free value) and leaves the other lanes, the
other registers, the other engine and the memory as they stand. -/
def Obligations.LaneInstructionsChangeActiveLanesOnly : Prop :=
  ∀ (s : State) (c : Nat) (i : Insn) (r : Run), ready s.agg c r → fieldsBelow i 32 32 32 →
    let k := s.agg.core c
    let st := k.ste i.e
    let d (l : Nat) : W64 := (st.vr i.d).getD l 0
    let x (l : Nat) : W64 := (st.vr i.a).getD l 0
    let y (l : Nat) : W64 := (st.vr i.b).getD l 0
    let gives (f : Nat → W64) : Out := nextAgg s (s.agg.setCore c { k.setSte i.e (st.setV i.d ((List.range 64).map fun l =>
      if (st.mr i.m).getLsbD l then f l else d l)) with pc := k.pc + 1 })
    let two (op : Nat) (fp : FpVal → FpVal → FpVal) (int : Option (Int → Int → Int)) : Out :=
      gives fun l => lane2 op i.ty fp int (d l) (x l) (y l)
    exec (.vadd c i) s = two 0x48 FpVal.add (some (· + ·))
      ∧ exec (.vsub c i) s = two 0x49 (fun u v => u.add v.neg) (some (· - ·)) ∧ exec (.vmul c i) s = two 0x4A FpVal.mul (some (· * ·))
      ∧ exec (.vfma c i) s = (gives fun l => lane2 0x4B i.ty (fun u v => (tyVal i.ty (d l)).add (u.mul v))
          (some fun u v => tyInt i.ty (d l) + u * v) (d l) (x l) (y l))
      ∧ exec (.vdiv c i) s = two 0x4C FpVal.div none ∧ exec (.vmin c i) s = two 0x4E FpVal.min_ (some min)
      ∧ exec (.vmax c i) s = two 0x4F FpVal.max_ (some max)
      ∧ exec (.vsqrt c i) s = (gives fun l => lane2 0x4D i.ty (fun u _ => u.sqrt) none (d l) (x l) 0)
      ∧ exec (.vabs c i) s = (gives fun l => lane2 0x50 i.ty (fun u _ => u.abs) (some fun u _ => (u.natAbs : Int)) (d l) (x l) 0)
      ∧ exec (.vcvt c i) s = (gives fun l => convert (unsigned 3 i.imm) i.ty (d l) (x l))
      ∧ exec (.vexp2 c i) s = (gives fun l => Config.elementary 0x55 i.ty (x l))
      ∧ exec (.vlog2 c i) s = (gives fun l => Config.elementary 0x56 i.ty (x l))
      ∧ exec (.vbcast c i) s = (gives fun _ => k.xr i.a) ∧ exec (.vbkt c i) s = (gives fun l => bucketLane i.ty (d l) (x l))

/-- Table 12-4: VCMPLT and VCMPEQ set the bits of active lanes of mD for which the relation holds, VSEL takes vA where the mask is 1
and vB elsewhere, VRSUM writes xD with the sum of the active lanes in the fixed tree of R336, the others being zero. -/
def Obligations.ComparisonsSelectionsAndSums : Prop :=
  ∀ (s : State) (c : Nat) (i : Insn) (r : Run), ready s.agg c r →
    let k := s.agg.core c
    let st := k.ste i.e
    let on (l : Nat) : Bool := (st.mr i.m).getLsbD l
    let x (l : Nat) : W64 := (st.vr i.a).getD l 0
    let y (l : Nat) : W64 := (st.vr i.b).getD l 0
    let mask (p : FpVal → FpVal → Bool) (w : W64) : Prop := ∀ l < 64,
      w.getLsbD l = if on l then p (tyVal i.ty (x l)) (tyVal i.ty (y l)) else (st.mr i.d).getLsbD l
    let marks (w : W64) : Out := nextAgg s (s.agg.setCore c { k.setSte i.e (st.setM i.d w) with pc := k.pc + 1 })
    (fieldsBelow i 8 32 32 → (∃ w, mask FpVal.lt w ∧ exec (.vcmplt c i) s = marks w) ∧ ∃ w, mask FpVal.eq w ∧ exec (.vcmpeq c i) s = marks w)
      ∧ (fieldsBelow i 32 32 32 → exec (.vsel c i) s = nextAgg s (s.agg.setCore c
          { k.setSte i.e (st.setV i.d ((List.range 64).map fun l => if on l then x l else y l)) with pc := k.pc + 1 }))
      ∧ (fieldsBelow i 64 32 64 → exec (.vrsum c i) s = nextAgg s (s.agg.setCore c
          { k.setX i.d (sumLanes (lane2 0x58 i.ty FpVal.add (some (· + ·)) 0) 6 ((List.range 64).map fun l => if on l then x l else 0))
            with pc := k.pc + 1 }))
      ∧ (fieldsBelow i 63 32 64 → (∀ l < 64, on l = false) → exec (.vrmax c i) s = nextAgg s (s.agg.setCore c
          { (k.setX i.d (Config.reduce 0x59 i.ty (st.mr i.m) (st.vr i.a) 0)).setX (i.d + 1)
              (Config.reduce 0x59 i.ty (st.mr i.m) (st.vr i.a) 1) with pc := k.pc + 1 }))
      ∧ (fieldsBelow i 63 32 64 → ∀ l < 64, on l = true → (∀ n < 64, n ≠ l → on n = false) → tyVal i.ty (x l) ≠ .nan →
          exec (.vrmax c i) s = nextAgg s (s.agg.setCore c
            { (k.setX i.d (x l)).setX (i.d + 1) (BitVec.ofNat 64 l) with pc := k.pc + 1 }))

/-- Table 12-4, R336: MZERO clears a tile, MACT applies its function to every element of it, MMA adds to every element its groups
of 32 products, and MST stores the tile row by row in the type named.
R341, R342, Tables 12-7 and 12-8: the sketch instructions on aligned sketches within the areas of the run: HINS counts the active
lanes, HMRG adds one histogram into another of the same BASE_J and faults with SKETCH otherwise, HQNT and CMSQ write no memory, CMSADD adds
to one counter of each row. -/
def Obligations.TileAndSketchInstructions : Prop :=
  (∀ (s : State) (c : Nat) (i : Insn) (r : Run), ready s.agg c r → fieldsBelow i 4 64 64 →
      let k := s.agg.core c
      let st := k.ste i.e
      let w := tySize i.ty
      let pa := (k.xr i.a).toNat
      let pb := (k.xr i.b).toNat
      let n := i.imm.toNat
      let tileOf (a : Aggregator) (l : List Nat) : Out := nextAgg s (a.setCore c { k.setSte i.e (st.setA i.d l) with pc := k.pc + 1 })
      let tile (l : List Nat) : Out := tileOf s.agg l
      let el (p j : Nat) : FpVal := tyVal i.ty (tyLane i.ty (leNat (memBytes s.agg.mem (p + j * w) w)))
      exec (.mzero c i) s = tile (List.replicate 1024 0)
        ∧ (exec (.mact c i) s = tile ((st.ar i.d).map (actElement (unsigned 2 i.imm))))
        ∧ (i.ty = tyBf16 ∨ i.ty = tyE4m3 ∨ i.ty = tyE5m2 → 0 ≤ i.imm → i.imm ≤ 65536 → i.imm % 32 = 0 → pa % w = 0 → pb % w = 0 →
            s.agg.runOk r false .ste pa (32 * n * w) = true → s.agg.runOk r false .ste pb (32 * n * w) = true →
            s.agg.poisoned pa (32 * n * w) = false → s.agg.poisoned pb (32 * n * w) = false →
            exec (.mma c i) s = tileOf (s.agg.touched [(pa, 32 * n * w), (pb, 32 * n * w)]) ((List.range 1024).map fun x => mmaElement ((st.ar i.d).getD x 0)
              ((List.range n).map fun t => (el pa (x / 32 * n + t), el pb (x % 32 * n + t))) (n / 32)))
        ∧ (i.ty = tyFp32 → pa % 4 = 0 → s.agg.runOk r true .ste pa 4096 = true →
            exec (.mst c i) s = nextAgg s { (s.agg.touched [(pa, 4096)]).setCore c { k with pc := k.pc + 1 } with
              mem := memPut s.agg.mem pa ((List.range 1024).flatMap fun x => leBytes 4 ((st.ar i.d).getD x 0)) }))
  ∧ (∀ (s : State) (c : Nat) (i : Insn) (r : Run), ready s.agg c r → fieldsBelow i 32 32 32 →
      let k := s.agg.core c
      let st := k.ste i.e
      let p := (k.xr i.a).toNat
      let q := (k.xr i.b).toNat
      let hist (x : Nat) : List Byte := memBytes s.agg.mem x 8232
      let on := (List.range 64).filter fun l => (st.mr i.m).getLsbD l
      let k1 : Core := { k with pc := k.pc + 1 }
      let stores (l : List (Nat × Nat)) (h : List Byte) : Out := nextAgg s { (s.agg.touched l).setCore c k1 with mem := memPut s.agg.mem p h }
      let clean (x n : Nat) : Prop := s.agg.runOk r false .ste x n = true ∧ s.agg.poisoned x n = false
      let sketched (d w : Nat) (rows : List (Nat × Nat)) : Prop := p % 8 = 0 ∧ clean p 144 ∧ readSketch (memBytes s.agg.mem p 144) = some (d, w, rows)
        ∧ clean p (sketchLen d w)
      (p % 8 = 0 → clean p 8232 → s.agg.runOk r true .ste p 8232 = true →
        exec (.hins c i) s = stores [(p, 8232), (p, 8232)] (histBytes ((hist p).take 8) (on.foldl (fun h l =>
          modAt h (histIndex (histBase (hist p)) (tyVal i.ty ((st.vr i.b).getD l 0))) fun v => min (2 ^ 64 - 1) (v + 1)) (readHist (hist p))))
        ∧ (q % 8 = 0 → clean q 8232 →
            (histBase (hist p) = histBase (hist q) → exec (.hmrg c i) s = stores [(p, 8232), (p, 8232), (q, 8232)] (histBytes ((hist p).take 8)
              (((readHist (hist p)).zip (readHist (hist q))).map fun e => min (2 ^ 64 - 1) (e.1 + e.2))))
            ∧ (histBase (hist p) ≠ histBase (hist q) → exec (.hmrg c i) s = nextAgg s (s.agg.endRun c (some (0x06, 0))))))
        ∧ (p % 8 = 0 → clean p 8232 → (readHist (hist p)).all (· == 0) = true →
            exec (.hqnt c i) s = nextAgg s ((s.agg.touched [(p, 8232)]).setCore c { k.setX i.d 0x7FFFFFFFFFFFFFFC with pc := k.pc + 1 }))
        ∧ (∀ d w rows, sketched d w rows → s.agg.runOk r true .ste p 144 = true → s.agg.runOk r true .ste p (sketchLen d w) = true →
            exec (.cmsadd c i) s = nextAgg s
              { (s.agg.touched [(p, 144), (p, 144), (p, sketchLen d w), (p, sketchLen d w)]).setCore c k1 with
                mem := on.foldl (fun m l => (sketchAt w rows ((st.vr i.a).getD l 0).toNat).foldl (fun m o => memPut m (p + o) (leBytes 8
                  (min (2 ^ 64 - 1) (leNat (memBytes m (p + o) 8) + ((st.vr i.b).getD l 0).toNat)))) m) s.agg.mem })
        ∧ (∀ d w rows, sketched d w rows → exec (.cmsq c i) s = nextAgg s ((s.agg.touched [(p, 144), (p, sketchLen d w)]).setCore c
            { k.setSte i.e (st.setV i.d ((List.range 64).map fun l => if (st.mr i.m).getLsbD l then BitVec.ofNat 64 ((minOf
              ((sketchAt w rows ((st.vr i.a).getD l 0).toNat).map fun o => leNat (memBytes s.agg.mem (p + o) 8))).getD 0)
              else (st.vr i.d).getD l 0)) with pc := k.pc + 1 }))
        ∧ (p % 8 = 0 → clean p 144 → readSketch (memBytes s.agg.mem p 144) = none → exec (.cmsq c i) s = nextAgg s (s.agg.endRun c (some (0x06, 0))))
        ∧ (p % 8 ≠ 0 → exec (.cmsadd c i) s = nextAgg s (s.agg.endRun c (some (0x03, 0)))))

/-- R337, R299, Table 12-5: an XDE instruction raises XDE-BUSY while the bit of its core in AUD_XDE_MASK is set; otherwise XCLR clears its
pair, XADDV adds the exact values of the active lanes into S and their magnitudes into T, XDOT adds the exact dot product of two
runs of a format, and XRD stores S and T as two 80-byte integers. -/
def Obligations.ExactDotInstructions : Prop :=
  ∀ (s : State) (c : Nat) (i : Insn) (r : Run), ready s.agg c r → fieldsBelow i 64 32 64 →
    let k := s.agg.core c
    let st := k.ste i.e
    let pair := k.pair (unsigned 3 i.imm)
    let p := (k.xr i.a).toNat
    let busy : Out := nextAgg s (s.agg.endRun c (some (0x05, 0)))
    (s.agg.inMask c = true → exec (.xclr c i) s = busy ∧ exec (.xdot c i) s = busy ∧ exec (.xaddv c i) s = busy ∧ exec (.xrd c i) s = busy)
      ∧ (s.agg.inMask c = false →
          exec (.xclr c i) s = nextAgg s (s.agg.setCore c { k.setPair (unsigned 3 i.imm) 0 0 with pc := k.pc + 1 })
          ∧ (∀ v : Nat → Int, i.ty = tyFp32 ∨ i.ty = tyFp64 ∨ i.ty = tyI64 →
              (∀ l < 64, (st.mr i.m).getLsbD l = true → laneUnits (tyVal i.ty ((st.vr i.a).getD l 0)) = some (v l)) →
              let on := (List.range 64).filter fun l => (st.mr i.m).getLsbD l
              exec (.xaddv c i) s = nextAgg s (s.agg.setCore c { k.setPair (unsigned 3 i.imm)
                (pair.1 + (on.map v).foldl (· + ·) 0) (pair.2 + (on.map fun l => ((v l).natAbs : Int)).foldl (· + ·) 0) with pc := k.pc + 1 }))
          ∧ (∀ f : FpFmt, fmtOf (unsigned 6 i.imm) = some f →
              let n := (k.xr i.d).toNat
              let q := (k.xr i.b).toNat
              let x := dotSum (f.run false (memBytes s.agg.mem p (f.runBytes n)) n 0) (f.run false (memBytes s.agg.mem q (f.runBytes n)) n 0)
              let pr := unsigned 9 i.imm / 64
              s.agg.runOk r false .xde p (f.runBytes n) = true → s.agg.runOk r false .xde q (f.runBytes n) = true →
              s.agg.poisoned p (f.runBytes n) = false → s.agg.poisoned q (f.runBytes n) = false →
              x.nan = false → x.pinf = false → x.ninf = false →
              exec (.xdot c i) s = nextAgg s ((s.agg.touched [(p, f.runBytes n), (q, f.runBytes n)]).setCore c
                { k.setPair pr ((k.pair pr).1 + x.s) ((k.pair pr).2 + x.t) with pc := k.pc + 1 }))
          ∧ (p % 8 = 0 → s.agg.runOk r true .xde p 160 = true →
              exec (.xrd c i) s = nextAgg s { (s.agg.touched [(p, 160)]).setCore c
                { k.setX i.d (BitVec.ofNat 64 (fmtFp64.round (decide (pair.1 < 0)) pair.1.natAbs (-320))) with pc := k.pc + 1 } with
                mem := memPut s.agg.mem p (leBytes 80 (unsigned 640 pair.1) ++ leBytes 80 (unsigned 640 pair.2)) }))

/-! ### Fleet Time (chapter 2) -/

/-- R33, R36: at a reference edge local time gains 40 ns and the trim, and holds while the reference is lost; no servo changes. On the
aggregator the edge is FLEET_TIME_TICK alone, and its 25 MHz reference output rises on every multiple of 40 ns of Fleet Time (R35; that the
edges are the multiples of 40 ns is the model's choice, log 122). REF_LOST stops local time and REF_RETURN starts it from the held value;
INTERP_LINE_SWAP exchanges the delay lines 1 ms after the last exchange (R34). -/
def Obligations.LocalTimeAdvancesWithTheReference : Prop :=
  ∀ (s : State) (busy : Nat) (v : TimeView),
    (v.tc.refLost = true → v.tick.tc.now = v.tc.now ∧ v.tick.regs = v.regs)
      ∧ (v.tc.refLost = false → v.getI TC_SWITCH_RESID = 0 →
          v.tick.tc.now = ((v.tc.now : Int) + 40 * 65536 + v.tc.freq + v.tc.slew).toNat ∧ v.tick.regs = v.regs
            ∧ v.tick.tc.pri = v.tc.pri ∧ v.tick.tc.red = v.tc.red)
      ∧ v.tick.tc.mono = v.tc.mono + 40
      ∧ exec (.fleetTimeTick .agg busy) s
          = nextAgg s { s.agg.withView s.agg.view.tick with refOut := s.agg.view.tick.tc.now / 65536 / 40 * 40 }
      ∧ (s.du.tc.refLost = true → s.du.ctl.resets = [] → ∃ d, exec (.fleetTimeTick .du busy) s = nextDu s d
          ∧ d.tc = { s.du.tc with mono := s.du.tc.mono + 40 } ∧ d.regs = s.du.regs ∧ d.cnt = s.du.cnt ∧ d.light = s.du.light
          ∧ d.trc = s.du.trc ∧ d.tcp = s.du.tcp ∧ d.peals = s.du.peals)
      ∧ (s.du.tc.refLost = true → exec .refLost s = nextDu s s.du)
      ∧ (s.du.tc.refLost = false → ∃ d, exec .refLost s = nextDu s d ∧ d.tc.refLost = true ∧ d.tc.now = s.du.tc.now)
      ∧ (s.du.tc.refLost = false → exec .refReturn s = nextDu s s.du)
      ∧ (s.du.tc.refLost = true → s.du.tc.stepReq = none → exec .refReturn s
          = nextDu s { s.du with tc := { s.du.tc with refLost := false, winTicks := 0 } })
      ∧ (s.du.tc.lineAt + 1000000 ≤ s.du.tc.mono → s.du.tc.refLost = false → s.du.tc.stepReq = none → exec .interpLineSwap s
          = nextDu s { s.du with tc := { s.du.tc with line := !s.du.tc.line, lineAt := s.du.tc.mono } })

/-- R44, R45, R80: a receive strobe with valid latencies leaves the corrected stamp s − L_in − D_s waiting for its frame; one with
invalid latencies leaves a discarded stamp, which is counted, and on the die unit reported (the strobe fields of TC_MAC_LAT show both inputs).
Stamps that no frame has matched for 10 µs are removed. The transmit time is s − D_s + L_eg, and belongs to the oldest event frame of its
port; that of a Sync leaves in its Follow_Up (R43, R46). Compatibility mode applies neither latency nor delay (R47), and discards alike. -/
def Obligations.StrobesAreCorrectedOrDiscarded : Prop :=
  ∀ (s : State) (port q lat seq : Nat) (compat : Bool) (dom : Dom) (v : TimeView) (owed : List PtpOwed),
    let raw : Int := (match v.regs.part with | .du => v.stamp q | .agg => v.at_ q : Nat)
    let ds : Int := (v.get TC_STROBE_DELAY % 65536 * 256 : Nat)
    let l : Int := (lat % 2 ^ 24 * 256 : Nat)
    (v.rxStrobe port false q lat true).tc.rxStamps = v.tc.rxStamps ++ [⟨port, some (raw - l - ds), v.tc.mono⟩]
      ∧ (v.rxStrobe port true q lat true).tc.rxStamps = v.tc.rxStamps ++ [⟨port, some raw, v.tc.mono⟩]
      ∧ (v.rxStrobe port compat q lat false).tc.rxStamps = v.tc.rxStamps ++ [⟨port, none, v.tc.mono⟩]
      ∧ (v.rxStrobe port compat q lat false).get TC_STATUS_MAC_LAT_INVALID = 1
      ∧ v.txTime false q lat true = some (raw - ds + l) ∧ v.txTime true q lat true = some raw ∧ v.txTime compat q lat false = none
      ∧ v.unmatched.tc.rxStamps = v.tc.rxStamps.filter (fun x => decide (v.tc.mono < x.at_ + 10000))
      ∧ ((∀ x ∈ v.tc.rxStamps, v.tc.mono < x.at_ + 10000) → v.unmatched = v)
      ∧ exec (.tsRxStrobe .agg port q lat true) s
          = nextAgg s (s.agg.timeOp fun v => v.rxStrobe port (s.agg.portCompat port) q lat true)
      ∧ exec (.tsRxStrobe .du port q lat true) s = nextDu s (s.du.timeOp fun v => v.rxStrobe 0 v.compat q lat true)
      ∧ exec (.tsRxStrobe .du port q lat false) s
          = nextDu s ((s.du.timeOp fun v => v.rxStrobe 0 v.compat q lat false).selfReport 0x42 0)
      ∧ exec (.tsTxStrobe .du port q lat true) s = nextDu s (s.du.timeOp fun v => v.txStrobe 0 v.compat q lat true)
      ∧ (s.agg.tc.owed = [] → exec (.tsTxStrobe .agg port q lat true) s
          = nextAgg s (s.agg.timeOp fun v => v.txStrobe port (s.agg.portCompat port) q lat true))
      ∧ (∀ t, s.agg.tc.owed = ⟨.sync, port, dom, seq⟩ :: owed → s.agg.view.txTime (s.agg.portCompat port) q lat true = some t → ∃ a o,
          exec (.tsTxStrobe .agg port q lat true) s = nextAgg s a ∧ a.tc.owed = owed ∧ a.ptpOut = s.agg.ptpOut ++ [o]
            ∧ o.kind = 0x8 ∧ o.port = port ∧ o.dom = dom ∧ o.seq = seq ∧ o.secs = t.toNat / 65536 / 1000000000
            ∧ o.nanos = t.toNat / 65536 % 1000000000 ∧ o.correction = ((t.toNat % 65536 : Nat) : Int))
      ∧ exec (.strobeUnmatched .du) s = nextDu s (s.du.timeOp TimeView.unmatched)
      ∧ (∃ a, exec (.strobeUnmatched .agg) s = nextAgg s a
          ∧ a.tc.rxStamps = s.agg.tc.rxStamps.filter (fun x => decide (s.agg.tc.mono < x.at_ + 10000)))
      ∧ (port < 9 → exec (.tsRxStrobe .agg port q lat false) s = nextAgg s
          ((s.agg.timeOp fun v => v.rxStrobe port (s.agg.portCompat port) q lat false).inc (PS_CNT1_DISCARDED_N (2 * port))))

/-- R46, R43: an accepted Sync opens an exchange with its receive stamp t2, its Follow_Up gives t1 and adds its correction, a Delay_Req
opens the return path, and the Delay_Resp completes it: the mean path delay is ((t2 − t1 − c) + (t4 − t3 − c')) / 2 and the offset
((t2 − t1 − c) − (t4 − t3 − c')) / 2 less the asymmetry in compatibility mode. A message that the source rule refuses is counted; the die unit, which has no master port, ignores
a Delay_Req (Table 2-1). A master port of the aggregator answers one with a Delay_Resp that gives its receive time. -/
def Obligations.TheDelayExchange : Prop :=
  ∀ (s : State) (v : TimeView) (m : PtpMsg) (d : Dom) (st : RxStamp) (rest : List RxStamp) (t1 t2 t3 t4 : Int) (n : Nat) (p : SlavePort),
    v.domOf m.domain = some d →
    (v.tc.rxStamps = st :: rest → (∀ x ∈ v.tc.rxStamps, v.tc.mono < x.at_ + 10000) → st.port = m.port → (v.syncRx m true).tc.rxStamps = rest
        ∧ ((v.syncRx m true).servo d).t2 = st.t ∧ ((v.syncRx m true).servo d).syncSeq = some m.seq
        ∧ ((v.syncRx m true).servo d).cSync = m.correction)
      ∧ ((v.servo d).syncSeq = some m.seq → ptpTime m = some t1 →
          ((v.followUpRx p m true).servo d).t1 = some t1 ∧ ((v.followUpRx p m true).servo d).cSync = (v.servo d).cSync + m.correction)
      ∧ (v.enabled d = true → (v.servo d).lastReq + 31250000 ≤ v.tc.mono → ∃ o w, v.delayReqTx m.port d = some (o, w)
          ∧ (w.servo d).reqOpen = some (v.servo d).reqSeq ∧ o.kind = 0x1 ∧ o.seq = (v.servo d).reqSeq ∧ o.port = m.port
          ∧ o.domain = v.domainNumber d ∧ o.majorSdoId = 0 ∧ o.minorSdoId = 0 ∧ o.ptpTimescale = false)
      ∧ ((v.servo d).reqOpen = some m.seq → (v.servo d).t1 = some t1 → (v.servo d).t2 = some t2 → (v.servo d).t3 = some t3 →
          ptpTime m = some t4 →
          v.delayRespRx p n m true = (v.modServo d fun s => { s with t1 := none, t2 := none, t3 := none, reqOpen := none }).exchange n d
            (((t2 - t1 - (v.servo d).cSync) + (t4 - t3 - m.correction)) / 2)
            (((t2 - t1 - (v.servo d).cSync) - (t4 - t3 - m.correction)) / 2 - (if p.compat then p.asym else 0)))
      ∧ v.followUpRx p m false = v.inc TC_COUNTS_IGNORED ∧ v.delayRespRx p n m false = v.inc TC_COUNTS_IGNORED
      ∧ exec (.syncRx .du m) s = nextDu s (s.du.timeOp fun v => v.syncRx { m with port := 0 } (s.du.ptpSource m))
      ∧ exec (.followUpRx .du m) s = nextDu s (s.du.timeOp fun v => v.followUpRx v.ownPort { m with port := 0 } (s.du.ptpSource m))
      ∧ exec (.delayRespRx .du m) s
          = nextDu s (s.du.timeDraw fun v k => v.delayRespRx v.ownPort k { m with port := 0 } (s.du.ptpSource m))
      ∧ exec (.delayReqRx .du m) s = nextDu s (s.du.timeOp fun v => (v.takeStamp 0).2.inc TC_COUNTS_IGNORED)
      ∧ (let a := s.agg.unmatched
         a.view.domOf m.domain = some d → a.role m.port d = 2 → a.tc.rxStamps = st :: rest → st.port = m.port → st.t = some t4 →
          (∀ x ∈ a.tc.rxStamps, a.tc.mono < x.at_ + 10000) → ∃ b o, exec (.delayReqRx .agg m) s = nextAgg s b ∧ b.tc.rxStamps = rest
            ∧ b.ptpOut = a.ptpOut ++ [o] ∧ o.kind = 0x9 ∧ o.port = m.port ∧ o.dom = d ∧ o.seq = m.seq ∧ o.requester = m.src
            ∧ o.secs = t4.toNat / 65536 / 1000000000 ∧ o.nanos = t4.toNat / 65536 % 1000000000
            ∧ o.correction = m.correction - ((t4.toNat % 65536 : Nat) : Int))
      ∧ (∀ o w, s.du.view.delayReqTx 0 d = some (o, w) → ∃ body, exec (.delayReqTx .du d) s = nextDu s { s.du.withView w with
          short := s.du.short ++ [⟨0, body, 0x011B19000000, some ⟨.delayReq, 0, d, o.seq⟩⟩] })
      ∧ (∀ port o w, firstBelow 9 (fun x => decide (s.agg.role x d = 1)) = some port → s.agg.view.delayReqTx port d = some (o, w) →
          ∃ b, exec (.delayReqTx .agg d) s = nextAgg s b ∧ b.ptpOut = s.agg.ptpOut ++ [o]
            ∧ b.tc.owed = w.tc.owed ++ [⟨.delayReq, port, d, o.seq⟩])
      ∧ (s.agg.unmatched.fromMaster m = true →
          exec (.syncRx .agg m) s = nextAgg s (s.agg.unmatched.timeOp fun v => v.syncRx m true))
      ∧ (s.agg.fromMaster m = true →
          exec (.followUpRx .agg m) s = nextAgg s (s.agg.timeOp fun v => v.followUpRx (s.agg.arrivalPort m) m true)
          ∧ exec (.announceRx .agg m) s = nextAgg s (s.agg.timeOp fun v => v.announceRx m true)
          ∧ ∃ b, s.agg.draw.2 = b ∧ exec (.delayRespRx .agg m) s
              = nextAgg s (b.timeOp fun v => v.delayRespRx (s.agg.arrivalPort m) s.agg.draw.1 m true))

/-- R53, R54, R56, Table 2-2: an Announce of clockClass 14 or worse loses its domain, four sync intervals without a valid pair lose it,
three seconds without an Announce lose it; a message of no use is counted; a request for the other domain while it is LOCKED switches
to it, with the filtered difference as the residual (R55), and is without effect otherwise.
R42, R52, Table 2-2: a master port of an enabled domain sends a Sync at its interval, whose transmit strobe is owed, and an Announce
with the domain's clockClass each second; each is counted. Reading TC_NOW_NS shows local time (R68). -/
def Obligations.DomainsAreLostSwitchedAndServed : Prop :=
  (∀ (s : State) (v : TimeView) (m : PtpMsg) (d : Dom) (q : Nat) (p : SlavePort),
      (v.domOf m.domain = some d → 14 ≤ m.clockClass → (v.servo d).badClass = false →
          v.announceRx m true = (v.modServo d fun x => { x with lastAnn := v.tc.mono, gm := some m.gm, badClass := true }).loseDomain d)
        ∧ (v.enabled d = true → (v.servo d).missed = 0 → (v.servo d).lastPair + 4 * p.interval ≤ v.tc.mono →
            v.syncLoss p d = ((v.inc TC_COUNTS_SYNC_MISSED 4).modServo d fun x => { x with missed := 4 }).loseDomain d)
        ∧ (v.enabled d = true → (v.servo d).lastAnn + 3000000000 ≤ v.tc.mono →
            v.announceTimeout d = (v.modServo d fun x => { x with lastAnn := v.tc.mono }).loseDomain d)
        ∧ (d = v.active ∨ v.state d ≠ lockedSt → v.requestActive d = v)
        ∧ (d ≠ v.active → v.state d = lockedSt → v.requestActive d = (v.switchTo d).raiseAll [TC_STATUS_SWITCHED])
        ∧ (v.state v.active = freerun → v.acceptJump = v)
        ∧ exec (.announceRx .du m) s = nextDu s (s.du.timeOp fun v => v.announceRx { m with port := 0 } (s.du.ptpSource m))
        ∧ exec (.ptpUnimplementedRx .du m) s = nextDu s (s.du.timeOp fun v => v.inc TC_COUNTS_IGNORED)
        ∧ exec (.syncReceiptLoss .du d) s = nextDu s (s.du.timeOp fun v => v.syncLoss v.ownPort d)
        ∧ exec (.syncReceiptLoss .agg d) s = nextAgg s (s.agg.timeOp fun v => v.syncLoss (s.agg.slavePort d) d)
        ∧ exec (.announceTimeout .du d) s = nextDu s (s.du.timeOp fun v => v.announceTimeout d)
        ∧ exec (.announceTimeout .agg d) s = nextAgg s (s.agg.timeOp fun v => v.announceTimeout d)
        ∧ (∃ e, exec (.acceptJump .du q) s = nextDu s e ∧ e.port = { s.du.port with rdata := 0, slept := false }
            ∧ e = { s.du.writeTcCtrl (setBits (setBits (s.du.regs.word addr_TC_CTRL).toNat 7 7 0) 7 7 1) with port := e.port })
        ∧ (∃ e, exec (.activeSet .du d q) s = nextDu s e ∧ e.port = { s.du.port with rdata := 0, slept := false }))
  ∧ (∀ (s : State) (port q : Nat) (d : Dom), let a := s.agg
      let e := 2 * port + d.code
      a.role port d = 2 → a.view.enabled d = true →
      (tabGet a.syncAt e = none → ∃ b, exec (.syncTx port d) s = nextAgg s b
          ∧ b.tc.owed = a.tc.owed ++ [⟨.sync, port, d, a.get (PS_CNT0_SYNC_TX_N e) % 65536⟩]
          ∧ b.ptpOut = a.ptpOut ++ [a.view.message port d 0x0 (a.get (PS_CNT0_SYNC_TX_N e) % 65536) 0 0 0
              (some (if a.portCompat port then -4 else -7))]
          ∧ tabGet b.syncAt e = some a.mono ∧ b.mem = a.mem ∧ b.det = a.det)
        ∧ (∀ t, tabGet a.syncAt e = some t → a.mono < t + a.portInterval port → exec (.syncTx port d) s = nextAgg s a)
        ∧ (tabGet a.annAt e = none → ∃ b, exec (.announceTx port d) s = nextAgg s b
            ∧ b.ptpOut = a.ptpOut ++ [{ a.view.message port d 0xB (a.get (PS_CNT1_ANNOUNCE_TX_N e) % 65536) 0 0 0 (some 0) with
                clockClass := a.view.clockClass d, gm := (a.view.servo d).gm }])
        ∧ (s.du.regs.part = .du → ∃ f, exec (.tcNowRead .du true q) s = nextDu s f
            ∧ f.port = { s.du.port with rdata := BitVec.ofNat 64 (s.du.view.stamp q / 65536 % 2 ^ 64), slept := false }))

/-! ### Control frames at the die unit, registration and failover (chapters 1 and 10) -/

/-- R20, R58, R119, R154, R162, R165, R173, R179, R262 to R264, Tables 10-3 and 10-4: a control frame of an aggregator that the die unit obeys,
next in its sequence, is carried out and acknowledged, with the status of the operation; no frame waits. T_p is a Fleet Time in 2^-16 ns.
(That an ARM of Job ID 0, which names no job, is answered BAD-FRAME is the model's choice, log 129.) A frame of a stranger is counted in
CTL_REJECT_N and does nothing else. -/
def Obligations.ControlFramesAreExecutedAndAcknowledged : Prop :=
  ∀ (s : State) (h : CtlHead) (job gen id tp waitUs tensor step op : Nat) (frozen atEnd : Bool) (ents : List FpMapEnt) (key : List Byte)
    (ops : List RegOp) (addrs : List Nat),
    let d := if s.du.ctlFrom h = .home then s.du.heardHome else s.du
    let fromPartner := decide (d.ctlFrom h = .partner)
    let cseq := h.cseq % 2 ^ 32
    let done (code status : Nat) (vs : List W64) (e : DieUnit) : Out :=
      nextDu s ((e.ackFrame fromPartner cseq (ackBody code status cseq vs)).modCtl fun c => { c with held := [] })
    d.ctl.held = [] → ents.length ≤ 64 → ops.length ≤ 32 → addrs.length ≤ 32 →
    (d.ctlFrom h ≠ .stranger → (h.cseq + 2 ^ 32 - (d.seqOf fromPartner).last) % 2 ^ 32 = 1 →
      exec (.arm h job gen) s = (if job % 2 ^ 32 = 0 then done 0x01 0x06 [] d else if d.on TCK_JOB_ARMED then done 0x01 0x04 [] d else done 0x01 0x00 [] ((d.armJob job gen).wake .tcp))
      ∧ exec (.retire h) s = (if d.on TCK_JOB_ARMED then done 0x02 0x00 [] d.retireJob.serve.closeAll else done 0x02 0x03 [] d)
      ∧ exec (.pealArm h id tp frozen waitUs) s = (if tp < d.tc.now then done 0x03 0x02 [] (d.raise TC_STATUS_PEAL_MISSED)
          else if 8 ≤ d.peals.length then done 0x03 0x01 [] d
          else done 0x03 0x00 [] (({ d with peals := insertPeal ⟨id, tp, frozen, waitUs, none, false⟩ d.peals }.showPealNext).wake .cnt))
      ∧ exec (.freezeRelease h) s = done 0x04 0x00 [] d.releaseFreeze
      ∧ exec (.fpMap h ents) s = done 0x05 0x00 [] (d.modTcp fun t =>
          { t with fpNext := some (((List.range ents.length).zip ents).foldl (fun m e => tabPut m e.1 e.2) []) })
      ∧ exec (.selKey h key) s = done 0x06 0x00 [] (d.modTcp fun t => { t with keyNext := some key })
      ∧ ((d.armDump tensor atEnd step).1 = 0x00 →
          exec (.dumpArm h tensor atEnd step) s = done 0x07 0x00 [] ((d.armDump tensor atEnd step).2.wake .tcp).serve)
      ∧ exec (.ringTrigger h) s = done 0x08 0x00 [] d.ringTrigger
      ∧ (d.get DU_ASSIGN_SERVING = 2 → exec (.readmit h step) s = done 0x09 0x00 [] (d.modCtl fun c =>
          { c with readmit := some step, home := SeqState.init, failReq := none }))
      ∧ (d.get DU_ASSIGN_SERVING ≠ 2 → exec (.readmit h step) s = done 0x09 0x00 [] d)
      ∧ (regOpsOk true ops = true → d.sleepingFor ops = [] → exec (.regWrite h ops) s = done 0x0A 0x00 (d.runRegOps true ops).1
          (d.runRegOps true ops).2)
      ∧ (regOpsOk true ops = false → exec (.regWrite h ops) s = done 0x0A 0x05 [] d)
      ∧ (let rd := addrs.map fun x => (⟨x, 0⟩ : RegOp)
         regOpsOk false rd = true → d.sleepingFor rd = [] → exec (.regRead h addrs) s = done 0x0B 0x00 (d.runRegOps false rd).1
          (d.runRegOps false rd).2)
      ∧ exec (.ctlBadFrame h op) s = done op 0x06 [] d)
    ∧ (d.ctlFrom h = .stranger → exec (.arm h job gen) s
        = nextDu s ((d.inc DU_RXCNT_CTL_REJECT_N).modCtl fun c => { c with held := [] }))

/-- R25, R258, R259, R260: while no aggregator serves, a request leaves at its interval; the ACCEPT of it registers the die unit with its
DUID, node and aggregators; a REFUSE lengthens the interval. Home's silence for the failover timeout turns the die unit to its partner with
a FAILOVER-REQUEST; a keepalive of home within it restarts the timer. -/
def Obligations.RegistrationAndFailoverOfTheDieUnit : Prop :=
  ∀ (s : State) (x : RegAccept) (nonce agg : Nat), let d := s.du
    (d.ctl.failReq = none → d.registered = false → d.ctl.lastReq = some 0 → d.ctl.refused = false → 10000000 ≤ d.mono →
        exec .registerRequestTx s = nextDu s ((d.sendShort ⟨ftRegister, d.requestBody 0x01, 0x071F0A000001, none⟩).modCtl fun c =>
          { c with lastReq := some d.mono, refused := false }))
      ∧ (nonce = d.ctl.nonce → d.ctl.failReq = none → d.registered = false → d.ctl.lastReq.isSome = true →
          ∃ e, exec (.registerAcceptRx nonce x) s = nextDu s e ∧ e.get DU_ASSIGN_REGISTERED = 1 ∧ e.get DU_ASSIGN_SERVING = 1
            ∧ e.ctl.aggMac = x.aggMac ∧ e.ctl.partnerId = x.partnerId ∧ e.ctl.partnerMac = x.partnerMac ∧ e.ctl.lastHome = d.mono
            ∧ e.cnt = d.cnt ∧ e.trc = d.trc ∧ e.tcp = d.tcp ∧ e.fb = d.fb ∧ e.peals = d.peals)
      ∧ (nonce ≠ d.ctl.nonce → exec (.registerAcceptRx nonce x) s = nextDu s d ∧ exec (.registerRefuseRx nonce) s = nextDu s d)
      ∧ (nonce = d.ctl.nonce → d.ctl.failReq = none → d.registered = false →
          exec (.registerRefuseRx nonce) s = nextDu s (d.modCtl fun c => { c with refused := true }))
      ∧ (d.homeSilent = false → exec .failoverTimeout s = nextDu s d)
      ∧ (d.homeSilent = true → d.ctl.partnerId < 0xFFFF → ∃ e, exec .failoverTimeout s = nextDu s e ∧ e.get DU_ASSIGN_SERVING = 2
          ∧ e.ctl.failReq = some d.mono ∧ e.ctl.partner = some SeqState.init ∧ e.short.length = d.short.length + 1 ∧ e.macTx = d.macTx)
      ∧ (d.registered = true → agg = d.homeId → d.homeSilent = false → d.get DU_ASSIGN_SERVING = 1 →
          exec (.keepaliveRx agg) s = nextDu s (d.modCtl fun c => { c with lastHome := d.mono }))
      ∧ (agg ≠ d.homeId → exec (.keepaliveRx agg) s = nextDu s d)

/-! ### Peals and power of the die unit (chapters 2, 3 and 4) -/

/-- R60, R61, R118, R122, R123: the peals of the earliest T_p fire together at a counter edge at or after it: they leave the list and a
free bank takes one snapshot with all their IDs; with both banks pending the snapshot is not taken and PEAL_OVERRUN_N counts it. Before T_p
nothing fires; one whose T_p fell in a stop of the counter clock fires at the edge of the resume, with the gap flag. The snapshot postmark
of an unstretched clock is at most one period and 0.5 ns after T_p (how the model keeps the phase: log 127). A pending bank is copied once for its IDs, and is free after the last.
R63, R123, R190, R206: a peal whose counter clock has not resumed WAIT after its T_p is sent with the light set alone; a bank is copied
once for each of its IDs while staging has room, and stays pending while it has none; the oldest queued latch parcel is built. -/
def Obligations.PealsFireTogetherAndBecomeParcels : Prop :=
  (∀ (s : State) (id q tp b : Nat), let d := s.du
      let ps := d.peals.filter fun p => p.tp = tp
      let rest := d.peals.filter fun p => p.tp ≠ tp
      let fired (e : DieUnit) (t : Nat) (gap : Bool) : Prop := e.peals = rest ∧ (e.bank b).ids = ps.map (·.id) ∧ (e.bank b).tp = tp
        ∧ (e.bank b).main = d.cnt.main ∧ (e.bank b).pending = true ∧ (e.bank b).snapT = t ∧ (e.bank b).gap = gap
        ∧ (e.bank b).quality = d.quality ∧ e.cnt.main = d.cnt.main ∧ e.trc = d.trc ∧ e.tcp = d.tcp ∧ e.fb = d.fb
      minOf (d.peals.map (·.tp)) = some tp → d.isOn .cnt = true → (∀ p ∈ rest, d.stamp q < p.tp) →
      (d.stamp q < tp → exec (.pealFire .du id q) s = nextDu s d)
        ∧ (d.cnt.stopped = true → exec (.pealFire .du id q) s = nextDu s d)
        ∧ (d.cnt.stopped = false → tp ≤ d.stamp q → d.freeBank = some b →
            ∃ e, exec (.pealFire .du id q) s = nextDu s e ∧ fired e (d.snapTime tp (d.stamp q) false) false)
        ∧ (d.stamp q ≤ tp + d.cntPeriod + 32768 → d.snapTime tp (d.stamp q) false = d.stamp q)
        ∧ (∀ e, d.cnt.edgeAt = some e → e < tp → 0 < d.cntPeriod → d.cnt.stretched = false →
            d.snapTime tp (d.stamp q) false ≤ tp + d.cntPeriod + 32768)
        ∧ (d.cnt.stopped = false → tp ≤ d.stamp q → d.freeBank = none → (ps.any (·.freeze)) = false → exec (.pealFire .du id q) s
            = nextDu s (({ d with peals := rest }.showPealNext.inc CNT_COUNTS_PEAL_OVERRUN_N).raise CNT_STATUS_PEAL_OVERRUN))
        ∧ (tp ≤ d.stamp q → d.freeBank = some b →
            ∃ e, exec (.counterClockResume q) s = nextDu s e ∧ fired e (d.stamp q) true ∧ e.cnt.stopped = false)
        ∧ (d.stamp q < tp → exec (.counterClockResume q) s = nextDu s (d.modCnt fun c =>
            { c with stopped := false, cmdGap := c.cmdGap || c.inCmd, edgeAt := some (d.stamp q) })))
  ∧ (∀ (s : State) (b : Nat) (p : ArmedPeal) (t quality : Nat) (l : Store W64), let d := s.du
      d.peals = [p] → p.light = some (t, quality, l) →
      (d.tc.now < p.tp + max 1 p.wait * 65536000 → exec .pealLightSetTimeout s = nextDu s d)
        ∧ (p.tp + max 1 p.wait * 65536000 ≤ d.tc.now → d.cnt.stopped = true → d.freeBank = some b →
            ∃ e, exec .pealLightSetTimeout s = nextDu s e ∧ e.peals = [] ∧ (e.bank b).ids = [p.id] ∧ (e.bank b).cstop = true
              ∧ (e.bank b).snapT = t ∧ (e.bank b).quality = quality ∧ (e.bank b).light = l ∧ (e.bank b).pending = true))
  ∧ (∀ (s : State) (b : Nat) (x : LatchParcel) (rest : List LatchParcel) (id : Nat) (e : DieUnit), let d := s.du
      let k := d.bank b
      (d.isOn .egr = false ∨ k.pending = false ∨ k.lightDue = true → exec (.pealBankCopy b) s = nextDu s d)
        ∧ (d.isOn .egr = true → k.pending = true → k.lightDue = false → k.ids = [id] →
            d.putMatrix ptPeal (if k.cstop then 32 else 512) 1 d.jobId d.jobGen (postmark k.snapT) (k.desc id) k.samples = (true, e) →
            exec (.pealBankCopy b) s = nextDu s (e.setBank b { k with pending := false }).showPending)
        ∧ (d.cnt.latchQueue = [] → exec .latchParcelBuild s = nextDu s d)
        ∧ (d.cnt.latchQueue = x :: rest → d.isOn .egr = true →
            d.putMatrix ptLatch x.counters.length 2 x.job x.gen (postmark x.stop.t) x.desc
              (x.counters.map (fun n => storeGet 0 x.start.main n) ++ x.counters.map (fun n => storeGet 0 x.stop.main n)) = (true, e) →
            exec .latchParcelBuild s = nextDu s (e.modCnt fun c => { c with latchQueue := rest })))

/-- R73, R74, R75: the acknowledgement of the clock request of a waking domain is noted, and the domain is ON when its wake is done; a wake
that is not acknowledged 20 µs after its request, or later than that, is given up, with the domain OFF and WAKE_FAIL of that domain set; a domain whose sleep
condition has held for more than 100 µs goes OFF, and stays on while it has not.
R66: a window of a domain that is on is judged stopped where it has no edge, and stretched where the clock's stretch input was asserted.
R77, R472, R473, R475, Table 17-1: rst_n and SOFT clear the armed peals, the fast domains and the registration and leave local time, the
light set, the health queue and the frames of the receive buffer; a domain reset acts on the named domains alone; por_n clears everything but the flush area. -/
def Obligations.FastDomainsWakeSleepAndReset : Prop :=
  (∀ (s : State) (k : FastDom) (q t : Nat), let d := s.du
      (d.pdState k = 1 → d.ctl.held = [] → (∀ u, (d.pd k).reqAt = some u → d.mono ≤ u + 20000) → exec (.pdClkAck k) s
          = nextDu s ((d.setPd k { d.pd k with acked := true }).modCtl fun c => { c with held := [] }))
        ∧ (d.pdState k ≠ 1 → d.ctl.held = [] → exec (.pdClkAck k) s = nextDu s (d.modCtl fun c => { c with held := [] }))
        ∧ (d.pdState k = 1 → (d.pd k).acked = false → (d.pd k).reqAt = some t → t + 20000 < d.mono →
            exec (.pdClkAck k) s = exec (.domainWakeFail k) s)
        ∧ (k = .tcp → d.pdState k = 1 → (d.pd k).acked = true → d.indPoints k = false → d.ctl.held = [] →
            exec (.domainWakeDone k q) s = nextDu s (((d.setPdState k 2).setPd k DomainPower.init).modCtl fun c => { c with held := [] }))
        ∧ ((d.pd k).reqAt = none → d.ctl.held = [] → exec (.domainWakeFail k) s = nextDu s (d.modCtl fun c => { c with held := [] }))
        ∧ ((d.pd k).reqAt = some t → d.pdState k = 1 → (d.pd k).acked = false → t + 20000 ≤ d.mono → d.ctl.held = [] → d.indPoints k = false →
            exec (.domainWakeFail k) s = nextDu s (((((((d.setPdState k 0).setPd k DomainPower.init).raise ⟨addr_DU_RST_STAT, k.code, k.code⟩).record
              rcWakeFail (leBytes 1 k.number)).selfReport 0x40 1).modCtl fun c => { c with held := [] })))
        ∧ (k ≠ .trc → d.isOn k = true → 100000 < (d.pd k).idle → d.quiet k = true → exec (.domainSleep k q) s
            = nextDu s (((d.setPdState k 0).setPd k DomainPower.init).disarmKeys k))
        ∧ (k ≠ .trc → (d.pd k).idle ≤ 100000 → exec (.domainSleep k q) s = nextDu s d)
        ∧ (d.tc.winTicks < 16 → exec (.clkmonWindow t t t t q) s = nextDu s d)
        ∧ (16 ≤ d.tc.winTicks → ∃ e, exec (.clkmonWindow t t t t q) s = nextDu s e ∧ e.tc.winTicks = 0 ∧ e.peals = d.peals ∧ e.tcp = d.tcp
            ∧ (d.isOn .cnt = true → t = 0 → e.cnt.stopped = true ∧ e.on TC_STATUS_CLK_STOPPED = true)
            ∧ (d.isOn .cnt = true → 0 < t → e.cnt.stopped = false) ∧ (bit q 0 = true → d.isOn .cnt = true → e.on TC_STATUS_CLK_STRETCHED = true)))
  ∧ (∀ (s : State) (q doms : Nat), let d := s.du
      let cleared (e : DieUnit) : Prop := e.peals = []
        ∧ e.ctl = { Control.init with held := d.ctl.held, resets := d.ctl.resets } ∧ e.fb = FrameBuilder.init ∧ e.tc = d.tc ∧ e.light = d.light
        ∧ e.he = d.he ∧ e.macTx = d.macTx ∧ e.cnt = CounterBank.init ∧ e.registered = false
      (∃ e, exec .rstN s = nextDu s e ∧ cleared e) ∧ (∃ e, exec (.softReset q) s = nextDu s e ∧ cleared e)
        ∧ (doms % 16 = 0 → ∃ e, exec (.domainReset doms q) s = nextDu s e ∧ e = { d with port := e.port })
        ∧ (doms % 16 = 1 → ∃ e, exec (.domainReset doms q) s = nextDu s e ∧ e.cnt = CounterBank.init ∧ e.peals = d.peals ∧ e.trc = d.trc
            ∧ e.tcp = d.tcp ∧ e.tc = d.tc ∧ e.light = d.light)
        ∧ (∃ e, exec .porN s = nextDu s e ∧ e.peals = [] ∧ e.tc = TimeClient.init ∧ e.light = [] ∧ e.he = Health.init ∧ e.short = []
            ∧ e.recd.area = d.recd.area))

/-! ### Counters and resets (chapters 4 and 17) -/

/-- R104, R107, R118: while the bank is frozen a cycle advances CNT_FROZEN_CYC and no counter; otherwise every enabled counter that is
open under its gate gains its source's amount; the changes that waited act first. A cycle of a bank that is off counts nothing.
R79, R81, R102: a frame that the receive buffer cannot hold, one with a wrong FCS and a telemetry frame that the MAC drops are counted;
each change of level of an lt_err line advances its light-set counter by one. -/
def Obligations.CountersCountWhileNotFrozen : Prop :=
  (∀ (s : State) (i : CntInputs) (n w : Nat), let d := s.du
      let c := { d.cnt with inCmd := d.cnt.inCmd && (!d.cnt.edgeEnd || d.cnt.edgeStart) }
      (d.isOn .cnt = false → exec (.cntCycle i) s = nextDu s d)
        ∧ (d.isOn .cnt = true → d.peals = [] → d.cnt.stopped = false → d.cnt.pend = [] → d.on CNT_STATUS_FROZEN = true → ∃ e, exec (.cntCycle i) s = nextDu s e
            ∧ e.cnt.main = d.cnt.main ∧ e.get CNT_FROZEN_CYC = min (2 ^ 64 - 1) (d.get CNT_FROZEN_CYC + 1) ∧ e.light = d.light
            ∧ e.peals = d.peals)
        ∧ (d.isOn .cnt = true → d.peals = [] → d.cnt.stopped = false → d.cnt.pend = [] → d.on CNT_STATUS_FROZEN = false →
            d.selectors = [(n, w)] → bits w 63 60 = 8 →
            ∃ e, exec (.cntCycle i) s = nextDu s e
              ∧ storeGet 0 e.cnt.main n = storeGet 0 d.cnt.main n + BitVec.ofNat 64 (sourceAmount c i (bits w 15 12) (bits w 11 0))
              ∧ (∀ m, m ≠ n → storeGet 0 e.cnt.main m = storeGet 0 d.cnt.main m) ∧ e.light = d.light ∧ e.trc = d.trc ∧ e.tcp = d.tcp))
  ∧ (∀ (s : State) (levels n : Nat), let d := s.du
      exec (.macRxDiscard true) s = nextDu s (d.inc DU_RXCNT_RX_OVF_N) ∧ exec (.macRxDiscard false) s = nextDu s (d.inc DU_RXCNT_RX_FCS_N)
        ∧ exec .egDrop s = nextDu s ((d.inc FB_COUNTS1_EG_DROP_N).raise FB_STATUS_EG_DROP)
        ∧ (∃ e, exec (.ltErrToggle levels) s = nextDu s e ∧ e.ltErr = levels % 2 ^ 24 ∧ (n < 24 →
            storeGet 0 e.light (8 + n) = storeGet 0 d.light (8 + n) + (if bit levels n = bit d.ltErr n then 0 else 1))
            ∧ (n < 8 → storeGet 0 e.light n = storeGet 0 d.light n) ∧ e.cnt = d.cnt ∧ e.peals = d.peals)
        ∧ (d.inc DU_RXCNT_RX_OVF_N).get DU_RXCNT_RX_OVF_N = min 65535 (d.get DU_RXCNT_RX_OVF_N + 1))

/-- R85, R109, R111, R112, R114: a command's start advances CMD_SEQ modulo 2^32 and, with latches enabled and not held, captures the
start latch; the end captures the end latch of a command whose start was captured; the counters themselves do not change at the edge. Where
both come in one cycle the end is the explicit one of the command before, and the new command stands.
R105, R116, R118 to R121, R128: over the register port, with the counter domain on, SNAP captures every counter at once, CLEAR, FREEZE, a
release and a valid selector wait for the next counter edge, at which the selector changes and no counter's value does; a write that names
a reserved source kind, index or gate is ignored as a whole with SEL_INVALID; LATCH_REL releases held latches; a freeze that has lasted its limit is
released; a permitted counter read answers the counter's value in the view selected. While the domain sleeps the port answers zero, marked
asleep, and nothing changes. -/
def Obligations.CounterControlAndLatches : Prop :=
  (∀ (s : State) (cmId q : Nat), let d := s.du
      (d.isOn .cnt = false → exec (.commandStart cmId q) s = nextDu s d ∧ exec (.commandEnd q) s = nextDu s d)
        ∧ (d.isOn .cnt = true → d.cnt.inCmd = false → d.on CNT_CTRL_LATCH_EN = true → d.on CNT_STATUS_LATCH_HELD = false →
            ∃ e, exec (.commandStart cmId q) s = nextDu s e ∧ e.cnt.cmdSeq = (d.cnt.cmdSeq + 1) % 2 ^ 32 ∧ e.cnt.inCmd = true
              ∧ e.cnt.startLatch.main = d.cnt.main ∧ e.cnt.startLatch.t = d.stamp q ∧ e.cnt.main = d.cnt.main ∧ e.light = d.light
              ∧ e.cnt.pend = d.cnt.pend ++ [.perCmd])
        ∧ (d.isOn .cnt = true → d.cnt.inCmd = false → ¬ (d.cnt.edgeStart = true ∧ d.cnt.startAt = d.stamp q) → exec (.commandEnd q) s
            = nextDu s (d.modCnt fun c => { c with edgeEnd := true, edgeStart := false, startTaken := false, startBlocked := false }))
        ∧ (d.isOn .cnt = true → d.cnt.edgeStart = true → d.cnt.startAt = d.stamp q → exec (.commandEnd q) s
            = nextDu s (d.modCnt fun c => { c with edgeEnd := true, edgeImplicit := false }))
        ∧ (d.isOn .cnt = true → d.cnt.inCmd = true → d.cnt.edgeStart = false → d.cnt.startTaken = true → d.on CNT_CTRL_LATCH_EN = true →
            d.on CNT_STATUS_LATCH_HELD = false → ∃ e, exec (.commandEnd q) s = nextDu s e ∧ e.cnt.endLatch.main = d.cnt.main
              ∧ e.cnt.endLatch.t = d.stamp q ∧ e.cnt.main = d.cnt.main))
  ∧ (∀ (s : State) (n w q : Nat), let d := s.du
      let slept : Out := nextDu s { d with port := { d.port with rdata := 0, slept := true } }
      let valid := bits w 61 60 ≠ 3 ∧ ((bits w 15 12 = 0 ∧ bits w 11 0 < 256) ∨ (bits w 15 12 = 1 ∧ bits w 11 0 < 8)
        ∨ (bits w 15 12 = 2 ∧ bits w 11 6 = 0 ∧ (bit w 2 = true ∨ bits w 5 3 = 0)) ∨ (bits w 15 12 = 3 ∧ bits w 11 0 < 8))
      (d.isOn .cnt = false → exec (.snap q) s = slept ∧ exec (.clear q) s = slept ∧ exec (.freeze q) s = slept
          ∧ exec (.freezeRel q) s = slept ∧ exec (.latchRel q) s = slept ∧ (n < 480 → exec (.selectorWrite n w true q) s = slept))
        ∧ (d.isOn .cnt = true →
            (∃ e, exec (.snap q) s = nextDu s e ∧ e.cnt.snapMain = d.cnt.main ∧ e.cnt.main = d.cnt.main ∧ e.port.slept = false)
            ∧ (∃ e, exec (.clear q) s = nextDu s e ∧ .clear ∈ e.cnt.pend ∧ e.cnt.main = d.cnt.main)
            ∧ (∃ e, exec (.freeze q) s = nextDu s e ∧ .freeze ∈ e.cnt.pend ∧ e.cnt.main = d.cnt.main)
            ∧ (∃ e, exec (.freezeRel q) s = nextDu s e ∧ .release false ∈ e.cnt.pend ∧ e.cnt.main = d.cnt.main)
            ∧ (∃ e, exec (.latchRel q) s = nextDu s e ∧ e.on CNT_STATUS_LATCH_HELD = false ∧ e.cnt.main = d.cnt.main)
            ∧ (n < 480 → w < 2 ^ 64 → valid → exec (.selectorWrite n w true q) s = nextDu s
                { d.pend (.sel n (BitVec.ofNat 64 w &&& 0xF00000000000FFFF)) with port := { d.port with rdata := 0, slept := false } })
            ∧ (n < 480 → w < 2 ^ 64 → ¬ valid → ∃ e, exec (.selectorWrite n w true q) s = nextDu s e ∧ e.cnt = d.cnt
                ∧ e.on CNT_STATUS_SEL_INVALID = true ∧ e.regs.word (addr_CNT_SEL n) = d.regs.word (addr_CNT_SEL n))
            ∧ (∀ x i, n < 480 → d.peals = [] → d.cnt.stopped = false → d.cnt.pend = [.sel n x] → d.on CNT_STATUS_FROZEN = true → ∃ e, exec (.cntCycle i) s = nextDu s e
                ∧ e.regs.word (addr_CNT_SEL n) = x ∧ e.cnt.main = d.cnt.main ∧ e.cnt.pend = [])
            ∧ (n < 480 → ∃ e, exec (.counterRead n true q) s = nextDu s e ∧ e.port.rdata = d.viewValue (d.get CNT_VIEW_VIEW) n
                ∧ e.port.slept = false ∧ e.cnt = d.cnt))
        ∧ (d.isOn .cnt = true → d.on CNT_STATUS_FROZEN = true → d.get CNT_CTRL_FREEZE_MAX ≠ 0 →
            d.cnt.freezeAt + d.get CNT_CTRL_FREEZE_MAX * 100000 ≤ d.mono → d.cnt.pend = [] →
            exec .freezeTimeout s = nextDu s (d.modCnt fun c => { c with pend := [.release true] })))

/-! ### Frames, shaping, gates and the trace funnel of the die unit (chapters 2, 5, 7 and 8) -/

/-- R64, R82, R206, R211, R213, R214, R218: the buckets of a rated stream gain the tokens of every whole microsecond that has passed, up to
their depths; a valid rate is held and an invalid one is refused; a valid shadow list becomes pending for its switch time, at which it
becomes active; a window opens and closes at the egress edge; a waiting short frame goes first; an open record parcel closes after its time. -/
def Obligations.ShapingAndGates : Prop :=
  ∀ (s : State) (e q st w k ptype sw : Nat) (f : ShortFrame) (short : List ShortFrame) (g : GateList) (o : OpenParcel), let d := s.du
    (d.isOn .egr = false ∨ d.stamp q / 65536000 ≤ d.shp.lastMult → exec (.shaperRefill q) s = nextDu s d)
      ∧ (d.isOn .egr = true → d.shp.held = [] → d.ratedStreams = [st] → d.stamp q / 65536000 = d.shp.lastMult + k → 0 < k →
          ∃ x, exec (.shaperRefill q) s = nextDu s x ∧ x.tokC st = min (d.cbs st) (d.tokC st + k * d.get (SHP_RATE_CIR st))
            ∧ x.tokP st = min (d.pbs st) (d.tokP st + k * d.get (SHP_RATE_PIR st)) ∧ x.shp.lastMult = d.shp.lastMult + k
            ∧ (∀ t, t ≠ st → x.tokC t = d.tokC t ∧ x.tokP t = d.tokP t) ∧ x.regs = d.regs ∧ x.fb = d.fb)
      ∧ (d.isOn .egr = true → st < 64 → w < 2 ^ 64 → bits w 23 0 ≤ bits w 55 32 → bits w 55 32 ≤ 400000 →
          ∃ x h, exec (.shaperConfigWrite st false w q) s = nextDu s x ∧ h.key = addr_SHP_RATE st ∧ h.fill = false
            ∧ x.shp.held = (d.shp.held.filter fun y => y.key ≠ addr_SHP_RATE st) ++ [h] ∧ x.regs = d.regs ∧ x.shp.tokC = d.shp.tokC)
      ∧ (d.isOn .egr = true → st < 64 → w < 2 ^ 64 → bits w 55 32 < bits w 23 0 ∨ 400000 < bits w 55 32 →
          ∃ x, exec (.shaperConfigWrite st false w q) s = nextDu s x ∧ x.shp = d.shp ∧ x.on SHP_STATUS_CFG_INVALID = true)
      ∧ (d.isOn .egr = true → 1000 ≤ d.shadowList.cycle →
          (∀ p ∈ d.shadowList.wins, p.2.off + p.2.dur ≤ d.shadowList.cycle ∧ d.duration (d.get FB_CTRL_MAX_PAYLOAD) ≤ p.2.dur) →
          ∃ x, exec (.gateCommit q) s = nextDu s x ∧ x.shp.pending = some (d.shadowList, d.shadowList.startAt (d.get GATE_SWITCH_T))
            ∧ x.shp.active = d.shp.active ∧ x.get SHP_STATUS_GATE_PENDING = 1 ∧ x.fb = d.fb)
      ∧ (d.isOn .egr = true → d.shadowList.cycle < 1000 → ∃ x, exec (.gateCommit q) s = nextDu s x ∧ x.shp = d.shp
          ∧ x.on SHP_STATUS_CFG_INVALID = true)
      ∧ (d.shp.pending = none → exec (.gateListSwitch q) s = nextDu s d)
      ∧ (d.isOn .egr = true → d.shp.pending = some (g, sw) → sw * 65536 ≤ d.stamp q → exec (.gateListSwitch q) s = nextDu s
          ((({ d with shp := { d.shp with active := some g, pending := none, openWins := [] } }.set SHP_STATUS_GATE_PENDING 0).set
            SHP_STATUS_GATE_ACTIVE 1).raise SHP_STATUS_GATE_SWITCHED))
      ∧ (d.isOn .egr = true → d.shp.active = some g → e ∈ g.openSet d.shp.gateFrom (d.stamp q) → e ∉ d.shp.openWins →
          exec (.gateWindowOpen e q) s = nextDu s { d with shp := { d.shp with openWins := d.shp.openWins ++ [e] } })
      ∧ (d.isOn .egr = true → d.shp.active = some g → e ∉ g.openSet d.shp.gateFrom (d.stamp q) →
          exec (.gateWindowClose e q) s = nextDu s { d with shp := { d.shp with openWins := d.shp.openWins.filter fun y => y ≠ e } })
      ∧ (d.short = f :: short → ∃ x, exec (.launchDecision q) s = nextDu s x ∧ x.short = short ∧ x.fb = d.fb ∧ x.shp = d.shp
          ∧ (f.ptp = none → x.tc = d.tc ∧ x.macTx = d.macTx ++ [⟨f.dst, d.get DU_MAC_MAC, 0x88B5, false, padFrame
            (frameHeader f.ftype 0 0 (if f.ftype = ftRegister then 0 else d.src) 0 0 0 0 (postmark (d.stamp q)) ++ f.body)⟩])
          ∧ (∀ o, f.ptp = some o → x.tc = { d.tc with owed := d.tc.owed ++ [o] }
            ∧ x.macTx = d.macTx ++ [⟨f.dst, d.get DU_MAC_MAC, 0x88F7, true, padFrame f.body⟩]))
      ∧ (d.short = [] → d.isOn .egr = false ∨ d.registered = false → exec (.launchDecision q) s = nextDu s d)
      ∧ (d.openOf ptype = some o → ptype = ptMismatch ∨ ptype = ptHealth → exec (.parcelCloseTimeout ptype) s = nextDu s d)
      ∧ (d.openOf ptype = some o → ptype ≠ ptMismatch → ptype ≠ ptHealth → d.isOn .egr = true → o.at_ + o.closeNs ≤ d.mono → exec (.parcelCloseTimeout ptype) s
          = nextDu s (d.closeParcel ptype).serve ∧ (d.closeParcel ptype).fb.opens = d.fb.opens.filter (fun x => x.ptype ≠ ptype)
            ∧ (d.closeParcel ptype).fb.staged.length = d.fb.staged.length + 1)
      ∧ (d.openOf ptype = some o → d.mono < o.at_ + o.closeNs → exec (.parcelCloseTimeout ptype) s = nextDu s d)

/-- R76, R133, R135, R136, R137, R148, Table 5-1: a packet on a trace port is judged in the table's order, and the first step that applies
decides: a bad kind, a port or funnel that is off, the authorisations, the filters, then the conditions of a dead letter, last the staging
buffer. While the trace domain is off or past its SLEEP packet, the always-on domain counts it, and a dead letter wakes the domain. -/
def Obligations.TraceAdmissionInTheOrderOfTheTable : Prop :=
  ∀ (s : State) (p q : Nat) (x : TracePkt), let d := s.du.traceEdge q
    let d0 := { d with trc := { d.trc with lastPresent := s.du.mono } }
    let onOf (d : DieUnit) : Prop := d.on TRC_CTRL_EN = true ∧ d.on (TRC_SRC_EN p) = true
    let exclOf (d : DieUnit) : Bool := (x.sec && !d.on TRC_AUTH_SEC_AUTH) || (x.prv && !d.on TRC_AUTH_PRIV_AUTH)
    let on := onOf d
    let excl := exclOf d
    let judged := s.du.isOn .trc = true ∧ s.du.trc.sleeping = false
    let free := 256 - d.trc.staging.length
    let src := d.srcOf p
    let prio := d.prioOf p
    let k := d.staged (d.bodyOf p x) q src prio p 4 p
    (judged → x.kind % 4 = 3 → exec (.tracePacketPresent p x q) s = nextDu s (d0.inc TRC_COUNTS_BAD_KIND_N))
      ∧ (judged → x.kind % 4 ≠ 3 → ¬ on → exec (.tracePacketPresent p x q) s = nextDu s d0)
      ∧ (judged → x.kind % 4 ≠ 3 → on → excl = true → exec (.tracePacketPresent p x q) s = nextDu s (d0.inc TRC_EXCL_N))
      ∧ (judged → x.kind % 4 ≠ 3 → on → excl = false → d.passesFilter p x = false →
          exec (.tracePacketPresent p x q) s = nextDu s (d0.inc TRC_COUNTS_FILTERED_N))
      ∧ (judged → x.kind % 4 ≠ 3 → on → excl = false → d.passesFilter p x = true → d.on TRC_STATUS_RING_FROZEN = true →
          exec (.tracePacketPresent p x q) s = nextDu s (d0.deadLetter p src prio 3))
      ∧ (judged → x.kind % 4 ≠ 3 → on → excl = false → d.passesFilter p x = true → d.on TRC_STATUS_RING_FROZEN = false →
          d.trc.unreported src = none →
          (free ≤ 8 → exec (.tracePacketPresent p x q) s = nextDu s (d0.deadLetter p src prio 1))
          ∧ (8 < free → free ≤ 8 + (d.reserves prio).1 → exec (.tracePacketPresent p x q) s = nextDu s (d0.deadLetter p src prio 0))
          ∧ (8 + (d.reserves prio).1 < free → d.segOk (d.reserves prio).2 k = false →
              exec (.tracePacketPresent p x q) s = nextDu s (d0.deadLetter p src prio (if 0 < d.trc.freeSegs then 0 else 3)))
          ∧ (8 + (d.reserves prio).1 < free → d.segOk (d.reserves prio).2 k = true →
              exec (.tracePacketPresent p x q) s = nextDu s (d0.stage k)
                ∧ (insertStaged k d.trc.staging).length = d.trc.staging.length + 1))
      ∧ (¬ judged → exec (.tracePacketPresent p x q) s = nextDu s s.du)
      ∧ (judged → exec (.tracePacketAsleep p x) s = nextDu s s.du)
      ∧ (¬ judged → x.kind % 4 ≠ 3 → onOf s.du → exclOf s.du = true →
          exec (.tracePacketAsleep p x) s = nextDu s { s.du with trc := { s.du.trc with aoExcl := s.du.trc.aoExcl + 1 } })
      ∧ (¬ judged → x.kind % 4 ≠ 3 → onOf s.du → exclOf s.du = false → ∃ e : DieUnit,
          exec (.tracePacketAsleep p x) s = nextDu s (e.wake .trc)
          ∧ storeGet 0 e.trc.aoDead p = min (2 ^ 32 - 1) (storeGet 0 s.du.trc.aoDead p + 1) ∧ e.trc.segs = s.du.trc.segs ∧ e.regs = s.du.regs)

/-- R134, R136 to R138, R143, R144, R147, R150, R154, R155: at a trace cycle the oldest staged packet is written unless the ring is frozen, the
cycle ends, and where no segment is open a packet starts one, with delta 0; a source's dead letters are reported in one packet, at its
priority, where it can be admitted; a source's sleep level is followed, a marker of its change is staged while its port is enabled.
Authorisations and MODE change at the next trace edge, over the register port alone; the first edge after a stop takes a GAP packet that names
the Fleet Time between the two edges. (That one edge takes one sync point, another waiting for the next, is the model's reading, log 25.) -/
def Obligations.TraceFunnelWritesAndMarks : Prop :=
  ∀ (s : State) (q p src mode : Nat) (stretch sec prv : Bool) (x : Staged) (rest : List Staged) (c : DeadPend), let d := s.du
    let g := d.traceEdge q
    let g0 := { g with trc := { g.trc with lastStretch := if stretch then some g.trc.cyc else g.trc.lastStretch } }
    let ends (e : DieUnit) : Out := nextDu s (e.modTrc fun t => { t with cyc := t.cyc + 1, begun := false })
    let judged := d.isOn .trc = true ∧ d.trc.sleeping = false
    let calm := d.trc.begun = false ∧ d.trc.stopped = false ∧ d.trc.pendDiscont = none ∧ d.trc.pendScale = false
    let i := d.trc.nextSeg % 64
    let gap := d.staged (.gap ((d.stamp q - d.trc.edgeT.getD (d.stamp q)) / 65536)) q 0x3F 3 16 1 0
    let report := g.staged (.dead c.causes c.count) q src c.prio 16 3 src
    (¬ judged → exec (.traceStageWrite q stretch) s = nextDu s d)
      ∧ (judged → g.trc.staging = [] → exec (.traceStageWrite q stretch) s = ends g0)
      ∧ (judged → g.trc.staging = x :: rest → g.on TRC_STATUS_RING_FROZEN = true → exec (.traceStageWrite q stretch) s = ends g0)
      ∧ (judged → g.trc.staging = x :: rest → g.on TRC_STATUS_RING_FROZEN = false → exec (.traceStageWrite q stretch) s
          = ends ({ g0 with trc := { g0.trc with staging := rest } }.writePacket x))
      ∧ (d.trc.openSeg = none → tabGet d.trc.segs i = none → x.isWake = false → (x.port < 16 → tabGet d.trc.lost x.src = none) →
          ∃ e seg, d.writePacket x = e ∧ e.trc.openSeg = some i ∧ tabGet e.trc.segs i = some seg ∧ seg.ref = x.t ∧ seg.closed = false
            ∧ seg.bytes = packetBytes x.body.type 0 false x.src x.prio (x.body.bytes 0 x.t)
            ∧ seg.seq = d.get TRC_SEG_SEQ % 65536 ∧ e.trc.nextSeg = (i + 1) % 64)
      ∧ (d.trc.begun = true → g = d)
      ∧ (calm → d.trc.pend = [] → g = { d with trc := { d.trc with begun := true, edgeT := some (d.stamp q) } })
      ∧ (calm → d.trc.pend = [.auth sec prv] → g.on TRC_AUTH_SEC_AUTH = sec ∧ g.on TRC_AUTH_PRIV_AUTH = prv ∧ g.trc.pend = []
          ∧ (sec = d.on TRC_AUTH_SEC_AUTH → prv = d.on TRC_AUTH_PRIV_AUTH → g.trc.staging = d.trc.staging))
      ∧ (calm → d.trc.pend = [.mode mode] → mode < 2 → mode ≠ d.get TRC_CTRL_MODE → g.get TRC_CTRL_MODE = mode ∧ g.trc.openSeg = none)
      ∧ (d.trc.begun = false → d.trc.stopped = true → d.trc.pend = [] → d.funnelOk gap = true →
          g.trc.staging = insertStaged gap d.trc.staging ∧ g.trc.stopped = false ∧ g.regs = d.regs)
      ∧ (judged → g.trc.unreported src = none → exec (.deadReportStage src q) s = nextDu s g)
      ∧ (judged → g.trc.unreported src = some c → g.funnelOk report = true → ∃ e, exec (.deadReportStage src q) s = nextDu s e
          ∧ e.trc.staging = insertStaged report g.trc.staging ∧ tabGet e.trc.dead src = none ∧ e.regs = g.regs ∧ e.trc.segs = g.trc.segs)
      ∧ (judged → p < 16 → bit d.trc.sleepLevel p = false →
          let h := { d with trc := { d.trc with sleepLevel := d.trc.sleepLevel ||| 2 ^ p } }.traceEdge q
          h.on TRC_CTRL_EN = true → h.on (TRC_SRC_EN p) = true → h.funnelOk (h.staged .sleep q (h.srcOf p) (h.prioOf p) 16 5 p) = true →
          ∃ e, exec (.sourceSleep p q) s = nextDu s e ∧ bit e.trc.sleepLevel p = true
            ∧ e.trc.staging.length = h.trc.staging.length + 1 ∧ e.regs = h.regs)
      ∧ (p < 16 → d.trc.sleepLevel < 2 ^ 16 → bit d.trc.sleepLevel p = true → ∃ e, exec (.sourceWake p q) s = nextDu s e
          ∧ bit e.trc.sleepLevel p = false)
      ∧ (judged → d.trc.stopped = true →
          exec (.traceClockResume q) s = nextDu s ({ d with trc := { d.trc with begun := false } }.traceEdge q))
      ∧ (judged → d.trc.stopped = false → exec (.traceClockResume q) s = nextDu s d)
      ∧ (d.isOn .trc = false → exec (.authWrite sec prv q) s = nextDu s { d with port := { d.port with rdata := 0, slept := true } })
      ∧ (d.isOn .trc = true → ∃ e, exec (.authWrite sec prv q) s = nextDu s e ∧ e.regs = d.regs
          ∧ e.trc = { d.trc with pend := d.trc.pend ++ [.auth sec prv] })

/-- R151 to R155: an open segment closes FLUSH × 100 µs after it opened, at a ring trigger, and at a change of MODE, which waits for the next
trace edge; a reserved MODE is ignored with CFG_INVALID; in RING mode a trigger freezes the ring; DRAIN_EN stops and resumes the drain; a segment whose parcel is taken is
free again. -/
def Obligations.SegmentsCloseAndDrain : Prop :=
  ∀ (s : State) (q mode i : Nat) (en : Bool) (seg : Segment) (e1 : DieUnit), let d := s.du
    (d.trc.openSeg = none → exec .segmentFlushTimeout s = nextDu s d)
      ∧ (d.trc.openSeg = some i → tabGet d.trc.segs i = some seg → d.isOn .trc = true → d.get TRC_CTRL_FLUSH ≠ 0 →
          seg.at_ + d.get TRC_CTRL_FLUSH * 100000 ≤ d.mono → ∃ e, exec .segmentFlushTimeout s = nextDu s e ∧ e.trc.openSeg = none
            ∧ tabGet e.trc.segs i = some { seg with closed := true } ∧ e.trc.staging = d.trc.staging)
      ∧ (d.trc.openSeg = some i → tabGet d.trc.segs i = some seg → d.mono < seg.at_ + d.get TRC_CTRL_FLUSH * 100000 →
          exec .segmentFlushTimeout s = nextDu s d)
      ∧ (d.on TRC_CTRL_DRAIN_EN = false → exec .segmentDrain s = nextDu s d)
      ∧ (d.on TRC_STATUS_RING_FROZEN = false → d.trc.sleeping = false → d.ringMode = true → exec .segmentDrain s = nextDu s d)
      ∧ (d.on TRC_STATUS_RING_FROZEN = false → d.trc.sleeping = false → d.ringMode = false → d.on TRC_CTRL_DRAIN_EN = true →
          d.isOn .egr = true → d.trc.oldest true = some i → tabGet d.trc.segs i = some seg →
          d.putWhole ptTrace d.jobId d.jobGen (postmark (d.stamp 0)) seg.image = (true, e1) → e1.on TRC_STATUS_RING_FROZEN = false →
          exec .segmentDrain s = nextDu s (e1.modTrc fun t => { t with segs := tabDel t.segs i }).showSegs)
      ∧ (d.isOn .trc = true → en ≠ d.on TRC_CTRL_DRAIN_EN → ∃ e, exec (.drainEnWrite en q) s = nextDu s e
          ∧ e.on TRC_CTRL_DRAIN_EN = en ∧ e.on TRC_STATUS_DRAIN_IDLE = !en ∧ e.trc.segs = d.trc.segs)
      ∧ (d.isOn .trc = true → d.ringMode = true → d.on TRC_STATUS_RING_FROZEN = false → d.trc.segs ≠ [] → ∃ e,
          exec (.ringTrig q) s = nextDu s e ∧ e.on TRC_STATUS_RING_FROZEN = true ∧ e.trc.openSeg = none)
      ∧ (d.isOn .trc = true → d.ringMode = false → ∃ e, exec (.ringTrig q) s = nextDu s e ∧ e.trc.openSeg = none
          ∧ e.trc.staging = d.trc.staging)
      ∧ (d.isOn .trc = true → mode % 4 < 2 → ∃ e, exec (.traceModeWrite mode q) s = nextDu s e
          ∧ e.get TRC_CTRL_MODE = d.get TRC_CTRL_MODE ∧ e.trc = { d.trc with pend := d.trc.pend ++ [.mode (mode % 4)] })
      ∧ (d.isOn .trc = true → 2 ≤ mode % 4 → ∃ e, exec (.traceModeWrite mode q) s = nextDu s e
          ∧ e.get TRC_CTRL_MODE = d.get TRC_CTRL_MODE ∧ e.on TRC_STATUS_CFG_INVALID = true ∧ e.trc = d.trc)
      ∧ (d.isOn .trc = false → exec (.ringTrig q) s = nextDu s { d with port := { d.port with rdata := 0, slept := true } })

/-! ### Tile capture, dumps, lineage and health of the die unit (chapters 3, 6 and 14) -/

/-- R89, R160, R161, R162, R168, R169, R173: a step advance is unseen while the domain is off, counted without a job, refused unless it names
a greater step; an accepted one makes its step current, starts the coverage counts anew, puts the loaded key and map in force and fires or
keeps the armed dumps. A check event that differs is a mismatch of a consumer or an inconsistency of a producer. -/
def Obligations.StepsAndCheckEvents : Prop :=
  ∀ (s : State) (step tensor block carried computed q : Nat) (consumed : Bool), let d := s.du
    let fires (x : Dump) : Bool := if x.atEnd then decide (x.step < step) else decide (x.step = step)
    let waits (x : Dump) : Bool := if x.atEnd then decide (step ≤ x.step) else decide (step < x.step)
    (d.isOn .tcp = false → exec (.stepAdvance step) s = nextDu s d.serve
        ∧ exec (.checkEvent consumed tensor block carried computed q) s = nextDu s d.serve)
      ∧ (d.isOn .tcp = true → d.on TCK_JOB_ARMED = false → exec (.stepAdvance step) s = nextDu s (d.inc TCK_COUNTS1_NOJOB_N).serve
        ∧ exec (.checkEvent consumed tensor block carried computed q) s = nextDu s d.serve)
      ∧ (d.isOn .tcp = true → d.on TCK_JOB_ARMED = true → (noStep ≤ step ∨ ∃ c, d.step = some c ∧ step ≤ c) →
          exec (.stepAdvance step) s = nextDu s ((d.inc TCK_COUNTS1_STEP_REFUSED_N).raise TCK_STATUS_STEP_REFUSED).serve)
      ∧ (d.isOn .tcp = true → d.on TCK_JOB_ARMED = true → step < noStep → (∀ c, d.step = some c → c < step) →
          ∃ e : DieUnit, exec (.stepAdvance step) s = nextDu s e.serve ∧ e.get TCK_STEP = step ∧ e.tcp.commits = [] ∧ e.tcp.dropped = 0
            ∧ e.tcp.dumps = d.tcp.dumps.filter waits ∧ e.tcp.triggered = d.tcp.triggered ++ d.tcp.dumps.filter fires
            ∧ e.tcp.fpMap = d.tcp.fpNext.getD d.tcp.fpMap ∧ (∀ k, d.tcp.keyNext = some k → e.tcp.sel.key = some k)
            ∧ e.tcp.sel.bandT = d.regs.word addr_TCK_BAND_T ∧ e.tcp.caps = d.tcp.caps ∧ e.cnt = d.cnt ∧ e.trc = d.trc)
      ∧ (d.isOn .tcp = true → d.on TCK_JOB_ARMED = true → carried = computed → d.fpIndex consumed tensor = none →
          exec (.checkEvent consumed tensor block carried computed q) s = nextDu s d.serve)
      ∧ (d.isOn .tcp = true → d.on TCK_JOB_ARMED = true → carried ≠ computed → d.fpIndex false tensor = none →
          exec (.checkEvent false tensor block carried computed q) s
            = nextDu s ((d.inc TCK_COUNTS0_PROD_INCONS_N).raise TCK_STATUS_PRODUCER_INCONS).serve)
      ∧ (d.isOn .tcp = true → d.on TCK_JOB_ARMED = true → carried ≠ computed → d.fpIndex true tensor = none → d.tcp.mismatch.length < 8 →
          ∃ e : DieUnit, exec (.checkEvent true tensor block carried computed q) s = nextDu s e.serve ∧ e.tcp.mismatch = d.tcp.mismatch
            ++ [⟨d.jobId, d.jobGen, d.mismatchRec false tensor block carried computed (d.stamp q)⟩] ∧ e.tcp.fpQueue = d.tcp.fpQueue
            ∧ e.get TCK_COUNTS0_MISMATCH_N = satAdd 16 (d.get TCK_COUNTS0_MISMATCH_N) 1)

/-- R91, R93, R166, R167, R169: a tile commitment is counted in its condition cell and awaits its answer, selected where the upper half of
SipHash over its name is below the threshold of its cell; the answer takes the lowest free tag, and a selection that finds none is dropped. -/
def Obligations.TileSelection : Prop :=
  ∀ (s : State) (x : CommitIn) (q tag : Nat) (com : Commit) (rest : List Commit), let d := s.du
    let cell := d.cellOf (x.num % 16)
    (d.isOn .tcp = false → exec (.tileCommit x q) s = nextDu s d ∧ exec .selectionAnswer s = nextDu s d)
      ∧ (d.isOn .tcp = true → ∃ e c, exec (.tileCommit x q) s = nextDu s e ∧ e.tcp.awaiting = d.tcp.awaiting ++ [c] ∧ e.regs = d.regs
          ∧ c.tensor = x.tensor ∧ c.tile = x.tile ∧ c.cell = cell ∧ c.t = d.stamp q ∧ c.job = d.jobId ∧ c.outCheck = x.outCheck
          ∧ (c.wanted = true ↔ d.on TCK_JOB_ARMED = true ∧ d.step.isSome = true ∧ d.on TCK_CTRL_SEL_EN = true
              ∧ ∃ key, d.tcp.sel.key = some key ∧ (sipHash key (selMessage d.jobId d.jobGen (d.get TCK_STEP) x.tensor x.tile)).toNat / 2 ^ 32
                < d.tcp.sel.thrOf cell)
          ∧ (d.on TCK_JOB_ARMED = true → d.step.isSome = true →
              storeGet 0 e.tcp.commits cell = min (2 ^ 32 - 1) (storeGet 0 d.tcp.commits cell + 1))
          ∧ (∀ k, k ≠ cell → storeGet 0 e.tcp.commits k = storeGet 0 d.tcp.commits k))
      ∧ (d.isOn .tcp = true → d.tcp.awaiting = com :: rest → com.wanted = true → d.job = some (com.job, com.gen) → d.tcp.freeTag = some tag →
          ∃ e c, exec .selectionAnswer s = nextDu s e ∧ e.tcp.awaiting = rest
            ∧ e.tcp.answers = d.tcp.answers ++ [⟨com.tensor, com.tile, true, tag⟩] ∧ tabGet e.tcp.caps tag = some c ∧ c.com = com
            ∧ c.seq = d.tcp.capSeq ∧ c.begun = false ∧ e.tcp.capSeq = (d.tcp.capSeq + 1) % 2 ^ 32)
      ∧ (d.isOn .tcp = true → d.tcp.awaiting = com :: rest → com.wanted = true → d.job = some (com.job, com.gen) → d.tcp.freeTag = none →
          ∃ e, exec .selectionAnswer s = nextDu s e ∧ e.tcp.awaiting = rest ∧ e.tcp.caps = d.tcp.caps
            ∧ e.tcp.answers = d.tcp.answers ++ [⟨com.tensor, com.tile, false, 0⟩] ∧ e.on TCK_STATUS_SEL_DROPPED = true)
      ∧ (d.isOn .tcp = true → d.tcp.awaiting = com :: rest → com.wanted = false → exec .selectionAnswer s = nextDu s
          { d with tcp := { d.tcp with awaiting := rest, answers := d.tcp.answers ++ [⟨com.tensor, com.tile, false, 0⟩] } })

/-- R170, R171, R172, R175, Table 6-9: a CAPTURE_BEAT of a pending capture completes with its data held while the buffers and staging have room,
in the order of its parts and up to their lengths; a part out of order or of the wrong length ends the capture MALFORMED; the end of the
output part ends it OK, or FAIL where the CRC-64 of the output differs; a CAPTURE_ABORT, its CAPTURE_DEADLINE and four deadlines
(CAPTURE_UNFINISHED) end it too. An ended capture's tag is free and its descriptor is queued. A beat of part 0b11 is dump data whatever its tag. -/
def Obligations.CapturesAreCheckedAgainstTheirLength : Prop :=
  ∀ (s : State) (tag part l : Nat) (data : List Byte) (last : Bool) (c : Capture), let d := s.du
    let crc := if c.part = 2 then crc64Run c.crc data else c.crc
    let fits := d.fb.full = false ∧ d.tcp.buffered + data.length ≤ 32768
    let desc (status : Nat) : TileOut := .capDesc c.com.job c.com.gen (captureDesc c.com c.seq tag status)
    let ended (o : Out) (status : Nat) : Prop := ∃ e : DieUnit, o = nextDu s e.serve ∧ tabGet e.tcp.caps tag = none
      ∧ e.tcp.out = d.tcp.out ++ [desc status] ∧ e.tcp.run = d.tcp.run ∧ e.cnt = d.cnt ∧ e.trc = d.trc
    d.isOn .tcp = true →
    exec (.captureBeat tag 3 data last) s = exec (.dumpBeat data last false false) s
      ∧ (tabGet d.tcp.caps tag = none → (part ≠ 3 → exec (.captureBeat tag part data last) s = nextDu s d.serve)
          ∧ exec (.captureAbort tag) s = nextDu s d.serve ∧ exec (.captureDeadline tag) s = nextDu s d.serve
          ∧ exec (.captureUnfinished tag) s = nextDu s d.serve)
      ∧ (tabGet d.tcp.caps tag = some c → c.part < 3 →
          (part ≠ 3 → ¬ fits → exec (.captureBeat tag part data last) s = nextDu s d.serve)
          ∧ (part ≠ 3 → fits → part ≠ c.part → ended (exec (.captureBeat tag part data last) s) 3)
          ∧ (fits → d.partLen c.com c.part = some l → c.got + data.length < l → ended (exec (.captureBeat tag c.part data true) s) 3)
          ∧ (fits → d.partLen c.com c.part = some l → c.got + data.length < l → c.chunk.length + data.length < 32768 →
              ∃ e : DieUnit, exec (.captureBeat tag c.part data false) s = nextDu s e.serve
                ∧ tabGet e.tcp.caps tag = some { c with begun := true, got := c.got + data.length, chunk := c.chunk ++ data, crc := crc }
                ∧ e.tcp.buffered = d.tcp.buffered + data.length ∧ e.tcp.out = d.tcp.out)
          ∧ (fits → c.part = 2 → d.partLen c.com 2 = some l → c.got + data.length = l → ∃ e : DieUnit,
              exec (.captureBeat tag 2 data true) s = nextDu s e.serve ∧ tabGet e.tcp.caps tag = none
                ∧ e.tcp.out.getLast? = some (desc (if crc64Run c.crc data ^^^ crc64Init = c.com.outCheck then 0 else 4)))
          ∧ ended (exec (.captureAbort tag) s) 2
          ∧ (c.begun = false → c.at_ + d.capDeadline ≤ d.mono → ended (exec (.captureDeadline tag) s) 1)
          ∧ (c.begun = true → c.at_ + 4 * d.capDeadline ≤ d.mono → ended (exec (.captureUnfinished tag) s) 6)
          ∧ (d.mono < c.at_ + d.capDeadline → exec (.captureDeadline tag) s = nextDu s d.serve
              ∧ exec (.captureUnfinished tag) s = nextDu s d.serve))

/-- R173, R174, R175: the oldest triggered dump is requested while none runs; the acknowledgement starts its stream; without one it is missed
after DUMP_DEADLINE; its data is cut at the end of each block into chunks, the last of which ends the dump; an abort ends it too. -/
def Obligations.NamedDumpsStreamInBlocks : Prop :=
  ∀ (s : State) (x : Dump) (rest : List Dump) (r : DumpRun) (data : List Byte) (final : Bool), let d := s.du
    (d.tcp.run = none → d.tcp.triggered = [] → exec .dumpRequest s = nextDu s d)
      ∧ (d.tcp.run = none → exec .dumpAck s = nextDu s d ∧ exec .dumpAckTimeout s = nextDu s d.serve
          ∧ exec (.dumpBeat data true final false) s = nextDu s d.serve)
      ∧ (d.isOn .tcp = true → d.tcp.run = none → d.tcp.triggered = x :: rest → ∃ e, exec .dumpRequest s = nextDu s e
          ∧ e.tcp.triggered = rest ∧ e.tcp.run = some ⟨x, false, d.mono, 0, 0, 0, [], crc64Init⟩ ∧ e.get TCK_STATUS_DUMP_ACTIVE = 1)
      ∧ (d.tcp.run = some r → exec .dumpAck s = nextDu s { d with tcp := { d.tcp with run := some { r with streaming := true } } })
      ∧ (d.tcp.run = some r → r.streaming = false → r.reqAt + max 1 (d.get TCK_CTRL_DUMP_DEADLINE) * 1000000 ≤ d.mono →
          ∃ e : DieUnit, exec .dumpAckTimeout s = nextDu s e.serve ∧ e.tcp.run = none ∧ e.on TCK_STATUS_DUMP_MISSED = true
            ∧ e.tcp.out = d.tcp.out ++ [.dumpChunk r.d.job r.d.gen (dumpChunk r.d 4 0 0 none [])])
      ∧ (d.tcp.run = some r → r.streaming = true → exec .dumpAckTimeout s = nextDu s d.serve)
      ∧ (d.isOn .tcp = true → d.tcp.run = some r → r.streaming = true →
          exec (.dumpBeat data true final true) s = nextDu s d.dumpAborted.serve ∧ d.dumpAborted.tcp.run = none)
      ∧ (d.isOn .tcp = true → d.tcp.run = some r → r.streaming = true → d.fb.full = true → exec (.dumpBeat data true final false) s = nextDu s d.serve)
      ∧ (d.isOn .tcp = true → d.tcp.run = some r → r.streaming = true → d.fb.full = false → d.tcp.buffered + data.length ≤ 32768 →
          ∃ e : DieUnit, exec (.dumpBeat data true final false) s = nextDu s e.serve
            ∧ e.tcp.out = d.tcp.out ++ [.dumpChunk r.d.job r.d.gen (dumpChunk r.d (if final then 1 else 0) r.block r.sent
                (some (crc64Run r.crc data ^^^ crc64Init)) (r.chunk ++ data))]
            ∧ (final = true → e.tcp.run = none) ∧ (final = false → e.tcp.run.map (·.block) = some (r.block + 1)))

/-- R94, R95, R177, R178, R395, R397: a lineage record that meets the conditions is queued unchanged, another is refused; a report of a
reserved severity or an unlisted code is counted and discarded, another is latched and queued with the next HSEQ and the last reading; a
toggle of sn_upd takes a reading; a held record is released after COALESCE. -/
def Obligations.ReportsReadingsAndLineage : Prop :=
  ∀ (s : State) (rec_ : List Byte) (unit_ op code mv hseq : Nat) (temp : Int), let d := s.du
    (d.isOn .tcp = true → d.tcp.lineage.length < 256 → d.lineageOk rec_ = true → ∃ e : DieUnit, exec (.lineageTransfer rec_) s = nextDu s e.serve
        ∧ e.tcp.lineage = d.tcp.lineage ++ [⟨d.jobId, d.jobGen, rec_⟩] 
        ∧ (d.pdState .egr = 0 → d.on DU_SAG_WARN_NOW = false → e.pdState .egr = 1))
      ∧ (d.isOn .tcp = true → d.tcp.lineage.length < 256 → d.lineageOk rec_ = false → exec (.lineageTransfer rec_) s
          = nextDu s ((d.inc TCK_COUNTS1_LN_REFUSED_N).raise TCK_STATUS_LN_REFUSED).serve)
      ∧ (d.isOn .tcp = false ∨ 256 ≤ d.tcp.lineage.length → exec (.lineageTransfer rec_) s = nextDu s d.serve)
      ∧ exec (.heReport unit_ op code 3) s = nextDu s ((d.inc HE_COUNTS_BAD_N).raise HE_STATUS_BAD).serve
      ∧ exec (.heReport unit_ op 0 0) s = nextDu s ((d.inc HE_COUNTS_BAD_N).raise HE_STATUS_BAD).serve
      ∧ (d.on HE_CTRL_EN = false → 0x1000 ≤ code → code < 0x10000 → exec (.heReport unit_ op code 0) s = nextDu s d.serve)
      ∧ (d.on HE_CTRL_EN = true → d.get HE_CTRL_COALESCE = 0 → d.he.queue.length < 16 → 0x1000 ≤ code → code < 0x10000 →
          ∃ (e : DieUnit) (r : HealthRec), exec (.heReport unit_ op code 0) s = nextDu s e.serve ∧ e.he.queue = d.he.queue ++ [r]
            ∧ r.unit_ = unit_ % 256 ∧ r.op = op % 256 ∧ r.code = code ∧ r.sev = 0 ∧ r.hseq = d.get HE_COUNTS_HSEQ_NEXT
            ∧ r.temp = d.sn.temp ∧ r.mv = d.sn.mv ∧ r.firstT = d.stamp 0 ∧ r.released = false ∧ e.get HE_LAST_CODE = code
            ∧ e.toc = d.toc ∧ e.trc = d.trc ∧ e.cnt = d.cnt)
      ∧ (∃ e, exec (.snUpd temp mv) s = nextDu s e ∧ e.sn = ⟨temp, mv % 8192, some d.mono⟩ ∧ e.snStale = false ∧ e.he = d.he
          ∧ e.tcp = d.tcp ∧ e.get HE_SENSOR_MV = mv % 8192)
      ∧ ((∀ r ∈ d.he.queue, r.hseq = hseq → r.released = true ∨ d.mono < r.at_ + d.get HE_CTRL_COALESCE * 10000) →
          exec (.healthRecordRelease hseq) s = nextDu s d.serve)
      ∧ (∀ r ∈ d.he.queue, r.hseq = hseq → r.released = false → r.at_ + d.get HE_CTRL_COALESCE * 10000 ≤ d.mono →
          ∃ e : DieUnit, exec (.healthRecordRelease hseq) s = nextDu s e.serve ∧ { r with released := true } ∈ e.he.queue
            ∧ e.he.queue.length = d.he.queue.length)

/-! ### Supplies, flushes, the event recorder and the tocsin (chapters 8 and 17) -/

/-- R479 to R483, R486, R488: the supply warning is counted once and starts a power flush, or makes a running fault flush give way; a critical
supply abandons the flush and stops the die unit's flush words; the end of either level clears it alone. A word that is acknowledged is in the
bank, and the flush goes on to the next; one that is not acknowledged in time abandons the flush. -/
def Obligations.SuppliesAndFlushWords : Prop :=
  ∀ (s : State) (f : Flush), let d := s.du
    (d.on DU_SAG_WARN_NOW = true → exec .supplyWarn s = nextDu s d)
      ∧ (d.on DU_SAG_WARN_NOW = false → ∃ e, exec .supplyWarn s = nextDu s e ∧ e.on DU_SAG_WARN_NOW = true
          ∧ e.get DU_SAG_WARN_N = satAdd 16 (d.get DU_SAG_WARN_N) 1 ∧ e.recd.queue = []
          ∧ (d.recd.flush = none → d.on DU_SAG_CRIT_NOW = false → e.recd.flush.map (·.cause) = some 2)
          ∧ (d.recd.flush = some f → f.cause ≠ 2 → e.recd.flush = some { f with yield_ := true })
          ∧ (d.recd.flush = some f → f.cause = 2 → e.recd.flush = some f ∧ e.recd.queued = some 2) ∧ e.cnt = d.cnt ∧ e.tcp = d.tcp)
      ∧ (d.on DU_SAG_CRIT_NOW = true → exec .supplyCrit s = nextDu s d ∧ exec .flushWordAck s = nextDu s d
          ∧ exec .flushWordTimeout s = nextDu s d)
      ∧ (d.on DU_SAG_CRIT_NOW = false → ∃ e, exec .supplyCrit s = nextDu s e ∧ e.on DU_SAG_CRIT_NOW = true ∧ e.recd.flush = none)
      ∧ (d.on DU_SAG_WARN_NOW = false → exec (.supplyOk .du false) s = nextDu s d)
      ∧ (d.on DU_SAG_CRIT_NOW = false → exec (.supplyOk .du true) s = nextDu s d)
      ∧ (d.on DU_SAG_WARN_NOW = true → ∃ e, exec (.supplyOk .du false) s = nextDu s e ∧ e.on DU_SAG_WARN_NOW = false
          ∧ e.on DU_SAG_CRIT_NOW = d.on DU_SAG_CRIT_NOW ∧ e.heldWake = [])
      ∧ (d.on DU_SAG_CRIT_NOW = true → ∃ e, exec (.supplyOk .du true) s = nextDu s e ∧ e.on DU_SAG_CRIT_NOW = false
          ∧ e.on DU_SAG_WARN_NOW = d.on DU_SAG_WARN_NOW ∧ e.heldWake = d.heldWake)
      ∧ (s.agg.on PWR_SAG_WARN_NOW = false → exec (.supplyOk .agg false) s = nextAgg s s.agg)
      ∧ (s.agg.on PWR_SAG_WARN_NOW = true → ∃ a, exec (.supplyOk .agg false) s = nextAgg s a ∧ a.on PWR_SAG_WARN_NOW = false
          ∧ a.on PWR_SAG_CRIT_NOW = s.agg.on PWR_SAG_CRIT_NOW ∧ a.jobs = s.agg.jobs ∧ a.led = s.agg.led ∧ a.mem = s.agg.mem)
      ∧ (s.agg.on PWR_SAG_CRIT_NOW = true → ∃ a, exec (.supplyOk .agg true) s = nextAgg s a ∧ a.on PWR_SAG_CRIT_NOW = false
          ∧ a.on PWR_SAG_WARN_NOW = s.agg.on PWR_SAG_WARN_NOW ∧ a.jobs = s.agg.jobs ∧ a.led = s.agg.led ∧ a.mem = s.agg.mem)
      ∧ (d.on DU_SAG_CRIT_NOW = false → d.recd.flush = none → exec .flushWordAck s = nextDu s d ∧ exec .flushWordTimeout s = nextDu s d)
      ∧ (d.on DU_SAG_CRIT_NOW = false → d.recd.flush = some f → f.word < 7 → ∃ e, exec .flushWordAck s = nextDu s e
          ∧ e.recd.flush = some { f with word := f.word + 1 } ∧ e.regs = d.regs ∧ e.recd.ring = d.recd.ring
          ∧ storeGet 0 e.recd.area (f.bank * 8192 + f.slot * 8 + f.word) = BitVec.ofNat 64 (le f.image (8 * f.word) 8)
          ∧ (∀ k, k ≠ f.bank * 8192 + f.slot * 8 + f.word → storeGet 0 e.recd.area k = storeGet 0 d.recd.area k))
      ∧ (d.on DU_SAG_CRIT_NOW = false → d.recd.flush = some f → ∃ e, exec .flushWordTimeout s = nextDu s e ∧ e.recd.flush = none
          ∧ e.get REC_STATUS_ERR = 3 ∧ e.get REC_STATUS_FLUSHING = 0 ∧ e.recd.area = d.recd.area)
      ∧ (s.agg.on PWR_SAG_WARN_NOW = true → exec .aggSupplyWarn s = nextAgg s s.agg)
      ∧ (s.agg.on PWR_SAG_WARN_NOW = false → ∃ a, exec .aggSupplyWarn s = nextAgg s a ∧ a.on PWR_SAG_WARN_NOW = true
          ∧ a.on PWR_SAG_WRITES_STOPPED = true ∧ a.pwr.shed = true ∧ a.recd.queue = [])
      ∧ (s.agg.on PWR_SAG_CRIT_NOW = true → exec .aggSupplyCrit s = nextAgg s s.agg)
      ∧ (s.agg.on PWR_SAG_CRIT_NOW = false → ∃ a, exec .aggSupplyCrit s = nextAgg s a ∧ a.on PWR_SAG_CRIT_NOW = true
          ∧ a.recd.queue = [] ∧ a.mem = s.agg.mem ∧ a.jobs = s.agg.jobs)
      ∧ (s.agg.recd.flush = none → exec .aggFlushPageDone s = nextAgg s s.agg)
      ∧ (s.agg.recd.flush = some f → f.slot < 1000 → f.ending = false → f.yield_ = false →
          (∀ k, k ≤ 4 → f.slot + k ≤ f.newest + 1 → s.agg.recd.ringRec (f.newest + 1 - (f.slot + k)) ≠ none) → f.slot + 4 ≤ f.newest + 1 →
          ∃ a, exec .aggFlushPageDone s = nextAgg s a ∧ a.recd.flush.map (·.slot) = some (f.slot + 4)
            ∧ a.recd.ring = s.agg.recd.ring ∧ a.recd.queue = s.agg.recd.queue)

/-- R484, R485, R487, R488: a queued record takes the next RSEQ and its ring slot; a rate bucket gains a token each period; a fault flush that is
due begins with the next FLUSH_ID in the bank of the lesser one, a queued one once no flush runs; a bank is erased and then ready. -/
def Obligations.TheRecorderWritesItsRing : Prop :=
  ∀ (s : State) (r : RecIn) (rest : List RecIn) (i cause : Nat) (b : Bucket), let d := s.du
    let a := s.agg
    (d.recd.queue = [] → exec (.recorderWrite .du) s = nextDu s d) ∧ (a.recd.queue = [] → exec (.recorderWrite .agg) s = nextAgg s a)
      ∧ (d.recd.queue = r :: rest → ∃ e, exec (.recorderWrite .du) s = nextDu s e ∧ e.recd.queue = rest
          ∧ tabGet e.recd.ring (d.get REC_HEAD_HEAD % 1024) = some (sealed (r.body (d.get REC_HEAD_HEAD)) 0)
          ∧ (∀ k, k ≠ d.get REC_HEAD_HEAD % 1024 → tabGet e.recd.ring k = tabGet d.recd.ring k)
          ∧ e.get REC_HEAD_HEAD = (d.get REC_HEAD_HEAD + 1) % 2 ^ 32 ∧ e.recd.area = d.recd.area)
      ∧ (a.recd.queue = r :: rest → ∃ e, exec (.recorderWrite .agg) s = nextAgg s e ∧ e.recd.queue = rest
          ∧ tabGet e.recd.ring (a.get (REC_HEAD_HEAD.onPage 3) % 1024) = some (sealed (r.body (a.get (REC_HEAD_HEAD.onPage 3))) 0))
      ∧ (tabGet d.recd.buckets i = none → exec (.rateBucketRefill .du i) s = nextDu s d)
      ∧ (tabGet d.recd.buckets i = some b → b.tokens < max 1 (d.get REC_CTRL_BURST) → b.count = 0 →
          b.at_ + max 1 (d.get REC_CTRL_PERIOD) * 100000 ≤ d.mono → ∃ e, exec (.rateBucketRefill .du i) s = nextDu s e
            ∧ tabGet e.recd.buckets i = some { b with tokens := b.tokens + 1, at_ := b.at_ + max 1 (d.get REC_CTRL_PERIOD) * 100000 }
            ∧ e.recd.queue = d.recd.queue ∧ e.regs = d.regs)
      ∧ (tabGet a.recd.buckets i = none → exec (.rateBucketRefill .agg i) s = nextAgg s a)
      ∧ (d.on DU_SAG_CRIT_NOW = false → d.recd.trigger = some cause → d.recd.flush = none → ∃ e f, exec (.faultFlushStart .du) s = nextDu s e
          ∧ e.recd.flush = some f ∧ f.cause = cause ∧ f.id = (d.get REC_FLUSH_LAST_ID + 1) % 2 ^ 32 ∧ f.bank = d.recd.targetBank
          ∧ f.slot = 0 ∧ f.word = 0 ∧ e.recd.trigger = none ∧ e.recd.lastFault = some d.mono ∧ e.recd.area = d.recd.area)
      ∧ (d.recd.trigger = none → exec (.faultFlushStart .du) s = nextDu s d)
      ∧ (d.on DU_SAG_CRIT_NOW = false → d.recd.queued = some cause → d.recd.flush = none → ∃ e f, exec (.queuedFlushStart .du) s = nextDu s e
          ∧ e.recd.flush = some f ∧ f.cause = cause ∧ e.recd.queued = none)
      ∧ (a.on (REC_STATUS_BANK_READY.onPage 3) = false → exec (.faultFlushStart .agg) s = nextAgg s a
          ∧ exec (.queuedFlushStart .agg) s = nextAgg s a)
      ∧ (a.on (REC_STATUS_BANK_READY.onPage 3) = true → a.recd.flush = none → a.recd.trigger = some cause → ∃ e f,
          exec (.faultFlushStart .agg) s = nextAgg s e ∧ e.recd.flush = some f ∧ f.cause = cause ∧ f.bank = a.recd.targetBank
            ∧ e.on (REC_STATUS_BANK_READY.onPage 3) = false)
      ∧ (a.on (REC_STATUS_BANK_READY.onPage 3) = true → a.recd.flush = none → a.recd.queued = some cause → ∃ e f,
          exec (.queuedFlushStart .agg) s = nextAgg s e ∧ e.recd.flush = some f ∧ f.cause = cause ∧ e.recd.queued = none)
      ∧ (a.erasing = false → exec .bankEraseDone s = nextAgg s a)
      ∧ (a.erasing = true → a.recd.flush = none → a.on PWR_SAG_WRITES_STOPPED = false → ∃ e, exec .bankEraseDone s = nextAgg s e
          ∧ e.erasing = false ∧ e.on (REC_STATUS_BANK_READY.onPage 3) = true ∧ e.recd.ring = a.recd.ring)

/-- R487, R489, Table 17-12: over the register port a write of FLUSH asks for a commanded flush, unless a fault flush came within 10 s; a cursor at
or above HEAD is AHEAD, one whose slot holds its record loads the window, which is READY after it; a read of REC_WIN7 with AUTO moves the
cursor to the next record. The aggregator's recorder page does the same through BAR0. -/
def Obligations.RecorderRegistersAndWindow : Prop :=
  ∀ (s : State) (cursor q : Nat) (b : List Byte), let d := s.du
    (d.recd.lastFault = none → d.recd.flush = none → d.recd.trigger = none → ∃ e, exec (.recorderFlush .du q) s = nextDu s e
        ∧ e.recd.trigger = some 3 ∧ e.recd.ring = d.recd.ring ∧ e.cnt = d.cnt)
      ∧ (d.recd.lastFault = some d.mono → ∃ e, exec (.recorderFlush .du q) s = nextDu s e ∧ e.recd = d.recd)
      ∧ (d.get REC_CTRL_SRC = 0 → cursor < 2 ^ 32 → d.get REC_HEAD_HEAD ≤ cursor → ∃ e, exec (.recorderCursorWrite .du cursor q) s = nextDu s e
          ∧ e.get REC_CURSOR_CURSOR = cursor ∧ e.get REC_STATUS_ERR = 1 ∧ e.get REC_STATUS_READY = 0 ∧ e.recd.window = [])
      ∧ (d.get REC_CTRL_SRC = 0 → cursor < d.get REC_HEAD_HEAD → d.recd.ringRec cursor = some b → ∃ e,
          exec (.recorderCursorWrite .du cursor q) s = nextDu s e ∧ e.get REC_CURSOR_CURSOR = cursor ∧ e.get REC_STATUS_ERR = 0
            ∧ e.get REC_STATUS_READY = 0 ∧ e.recd.window = b ∧ e.recd.ring = d.recd.ring)
      ∧ (∃ e, exec (.recWindowLoaded .du) s = nextDu s e ∧ e.get REC_STATUS_READY = 1 ∧ e.recd = d.recd)
      ∧ (∃ a, exec (.recWindowLoaded .agg) s = nextAgg s a ∧ a.get (REC_STATUS_READY.onPage 3) = 1 ∧ a.recd = s.agg.recd)
      ∧ (d.on REC_CTRL_AUTO = false → ∃ e, exec (.recWinAutoRead .du q) s = nextDu s e ∧ e.regs = d.regs
          ∧ e.port.rdata = d.regs.word (addr_REC_WIN 7) ∧ e.port.slept = false)
      ∧ (d.on REC_CTRL_AUTO = true → ∃ e, exec (.recWinAutoRead .du q) s = nextDu s e
          ∧ e.get REC_CURSOR_CURSOR = (d.get REC_CURSOR_CURSOR + 1) % 2 ^ 32 ∧ e.port.rdata = d.regs.word (addr_REC_WIN 7)
          ∧ e.recd.ring = d.recd.ring)
      ∧ exec (.recorderFlush .agg q) s = nextAgg s (s.agg.barSet (REC_CTRL_FLUSH.onPage 3) 1 0)
      ∧ exec (.recorderCursorWrite .agg cursor q) s = nextAgg s (s.agg.barWrite (0x3000 + addr_REC_CURSOR % 4096) cursor 0)
      ∧ exec (.recWinAutoRead .agg q) s = nextAgg s (s.agg.barAccess (0x3000 + addr_REC_WIN 7 % 4096) false none q 0)

/-- R97, R225 to R229: a tocsin frame starts after its deferral and backoff, 12 idle bit times for an alarm and 44 for any other, the bus being
idle after 2 bit times without a transition (that the deferral begins there is the model's choice, log 131), and the line carries its preamble,
delimiter and fields in Manchester code; a collision, ts_cd or a level heard that is not the one sent, backs it off by r slots, r below 2^min(n, 6) after its n-th, and the 16th discards it; a frame at its end leaves the queue and is counted. An alarm of
the die unit is sent again every RESEND ms until its ALARM-ACK, and given up after its 8th send. -/
def Obligations.TocsinFramesContendAndAlarmsRepeat : Prop :=
  ∀ (s : State) (quiet k : Nat) (f : TocFrame) (rest : List TocFrame) (al : Alarm) (l : List Byte) (cd : Bool) (heard rxd : List Bool),
    let d := s.du
    let sent := tocBytes f.dst (d.tocView.get TOC_CTRL_NODE) f.type f.payload
    let wait := if f.type = tocAlarm ∨ f.type = tocChipReset then 12 else 44
    (d.toc.mac.queue = [] → exec (.tocsinTxStart none quiet) s = nextDu s d)
      ∧ (d.toc.mac.sending = false ∨ cd = false ∧ heard = d.toc.mac.line.take heard.length →
          exec (.tocsinCollision none cd heard) s = nextDu s d)
      ∧ (d.toc.mac.queue = f :: rest → d.tocView.on TOC_CTRL_EN = true → d.toc.mac.sending = false → d.toc.mac.backoffUntil ≤ d.mono →
          wait + 2 ≤ quiet → exec (.tocsinTxStart none quiet) s = nextDu s { d with toc := { d.toc with
            mac := { d.toc.mac with sending := true, line := manchester ([0x55, 0x55, 0x57] ++ sent) } } })
      ∧ (d.toc.mac.queue = f :: rest → quiet < wait + 2 → exec (.tocsinTxStart none quiet) s = nextDu s d)
      ∧ (d.toc.mac.queue = f :: rest → d.toc.mac.sending = true → cd = true ∨ heard ≠ d.toc.mac.line.take heard.length →
          f.attempts < 15 → ∃ e r, exec (.tocsinCollision none cd heard) s = nextDu s e
            ∧ e.toc.mac.queue = { f with attempts := f.attempts + 1 } :: rest ∧ e.toc.mac.sending = false ∧ e.toc.mac.line = []
            ∧ r < 2 ^ min (f.attempts + 1) 6 ∧ e.toc.mac.backoffUntil = d.mono + r * 1280)
      ∧ (d.toc.mac.queue = f :: rest → d.toc.mac.sending = true → cd = true ∨ heard ≠ d.toc.mac.line.take heard.length →
          15 ≤ f.attempts → ∃ e, exec (.tocsinCollision none cd heard) s = nextDu s e
            ∧ e.toc.mac.queue = rest ∧ e.toc.mac.sending = false ∧ e.toc.mac.line = [])
      ∧ (d.toc.mac.queue = f :: rest → d.toc.mac.sending = true → ∃ e, exec (.tocsinTxEnd none) s = nextDu s e ∧ e.toc.mac.queue = rest
          ∧ e.toc.mac.sending = false ∧ e.toc.mac.line = [] ∧ e.toc.mac.sent = d.toc.mac.sent ++ [sent])
      ∧ (k < 16 → exec (.tocsinTxStart (some k) quiet) s = nextAgg s (s.agg.withToc k ((s.agg.tocView k).txStart s.agg.mono quiet))
          ∧ exec (.tocsinTxEnd (some k)) s = nextAgg s (s.agg.withToc k (s.agg.tocView k).txEnd)
          ∧ ((s.agg.tocView k).mac.sending = true → cd = true ∨ heard ≠ (s.agg.tocView k).mac.line.take heard.length →
              exec (.tocsinCollision (some k) cd heard) s = nextAgg s ({ s.agg with free := s.agg.free + 1 }.withToc k
                ((s.agg.tocView k).collision s.agg.mono s.agg.free))))
      ∧ (d.toc.alarms = [] → exec (.alarmResend k) s = nextDu s d)
      ∧ (d.toc.alarms = [al] → d.toc.mac.queue = [] → al.lastSend + max 1 (d.get TOC_CTRL_RESEND) * 1000000 ≤ d.mono → al.sends < 8 →
          exec (.alarmResend al.aseq) s = nextDu s (d.withToc (d.tocView.send ⟨0, tocAlarm, al.payload, 0, some al.aseq⟩)))
      ∧ (d.toc.alarms = [al] → d.toc.mac.queue = [] → al.lastSend + max 1 (d.get TOC_CTRL_RESEND) * 1000000 ≤ d.mono → 8 ≤ al.sends →
          ∃ e, exec (.alarmResend al.aseq) s = nextDu s e ∧ e.toc.alarms = [] ∧ e.on TOC_STATUS_UNACKED = true)
      ∧ (tocHeard rxd = some l → (d.tocView.receive l).1 = true → tocType l = tocAlarmAck → d.toc.alarms = [al] →
          al.payload.take 8 = (tocPayload l).take 8 → ∃ e, exec (.alarmAckRx rxd) s = nextDu s e ∧ e.toc.alarms = [])

/-- R226, R229, R230, R400, R423: a node counts frames whose CRC is wrong, ignores those for others, and counts the rest; home's beacon is
noted, and its absence for 50 ms reported; home's CHIP-RESET is a failover. Levels without a preamble and a delimiter are no frame. A segment of
the aggregator acknowledges every ALARM it accepts, delivers each ID_KIND, ASEQ and ID once, and turns a guest frame into a GUEST notice; beacons go out every 10 ms. -/
def Obligations.TocsinFramesReceived : Prop :=
  ∀ (s : State) (k t : Nat) (l : List Byte) (rxd : List Bool) (v : TocView), let d := s.du
    let acked := (s.agg.withToc k ((s.agg.tocView k).receive l).2).tocSend k (tocSrc l) tocAlarmAck ((tocPayload l).take 8)
    let good := tocGood l = true ∧ (tocDst l = v.get TOC_CTRL_NODE ∨ tocDst l = tocBroadcast)
    (v.on TOC_CTRL_EN = false → v.receive l = (false, v))
      ∧ (v.on TOC_CTRL_EN = true → tocGood l = false → v.receive l = (false, (v.inc TOC_COUNTS0_CRC_ERR_N).raise TOC_STATUS_CRC_ERR))
      ∧ (v.on TOC_CTRL_EN = true → good → (v.receive l).1 = true ∧ (v.receive l).2.mac = v.mac)
      ∧ (tocHeard rxd = none → exec (.tocsinUnknownRx none rxd) s = nextDu s d ∧ exec (.tocsinUnknownRx (some k) rxd) s = nextAgg s s.agg
          ∧ exec (.beaconRx rxd) s = nextDu s d ∧ exec (.alarmRx k rxd) s = nextAgg s s.agg)
      ∧ (tocHeard rxd = some l → tocType l = 0 ∨ 5 ≤ tocType l ∧ tocType l ≤ 0x7F →
          exec (.tocsinUnknownRx none rxd) s = nextDu s (d.withToc (d.tocView.receive l).2)
          ∧ (k < 16 → exec (.tocsinUnknownRx (some k) rxd) s = nextAgg s (s.agg.withToc k ((s.agg.tocView k).receive l).2)))
      ∧ (v.on TOC_CTRL_EN = true → good → tocType l = 0 ∨ 5 ≤ tocType l ∧ tocType l ≤ 0x7F →
          v.receive l = (true, (v.inc TOC_COUNTS0_RX_N).inc TOC_COUNTS1_UNKNOWN_N))
      ∧ (tocHeard rxd = some l → (d.tocView.receive l).1 = true → tocType l = tocBeacon →
          (d.withToc (d.tocView.receive l).2).fromHome l = true → ∃ e, exec (.beaconRx rxd) s = nextDu s e ∧ e.on TOC_STATUS_BEACON_OK = true ∧ e.toc.beaconAt = some d.mono ∧ e.toc.alarms = d.toc.alarms)
      ∧ (tocHeard rxd = some l → (d.tocView.receive l).1 = false → exec (.beaconRx rxd) s = nextDu s (d.withToc (d.tocView.receive l).2)
          ∧ exec (.chipResetAnnounceRx rxd) s = nextDu s (d.withToc (d.tocView.receive l).2))
      ∧ (d.toc.beaconAt = some t → t + 50000000 ≤ d.mono → ∃ e, exec .beaconLost s = nextDu s e ∧ e.get TOC_STATUS_BEACON_OK = 0
          ∧ e.on TOC_STATUS_BEACON_LOST = true ∧ e.toc.beaconAt = none)
      ∧ (d.toc.beaconAt = none → exec .beaconLost s = nextDu s d)
      ∧ (tocHeard rxd = some l → (d.tocView.receive l).1 = true → tocType l = tocChipReset →
          (d.withToc (d.tocView.receive l).2).fromHome l = true → d.get DU_ASSIGN_SERVING = 1 → d.ctl.partnerId < 0xFFFF →
          ∃ e, exec (.chipResetAnnounceRx rxd) s = nextDu s e
            ∧ e.get DU_ASSIGN_SERVING = 2 ∧ e.ctl.failReq = some d.mono)
      ∧ (k < 16 → tabGet s.agg.hlt.lastBeacon k = none → exec (.beaconTx k) s = nextAgg s
          ((s.agg.modHlt fun h => { h with lastBeacon := tabPut h.lastBeacon k s.agg.mono }).tocSend k tocBroadcast tocBeacon
            (beBytes 2 s.agg.id ++ beBytes 1 s.agg.beaconState ++ beBytes 1 k ++ s.agg.mark)))
      ∧ (tabGet s.agg.hlt.lastBeacon k = some s.agg.mono → exec (.beaconTx k) s = nextAgg s s.agg)
      ∧ (k < 16 → tocHeard rxd = some l → ((s.agg.tocView k).receive l).1 = true → tocType l = tocAlarm → 28 ≤ (tocPayload l).length →
          (∃ p, p ∈ s.agg.hlt.alarms ∧ p.take 8 = (tocPayload l).take 8) → exec (.alarmRx k rxd) s = nextAgg s acked)
      ∧ (k < 16 → tocHeard rxd = some l → ((s.agg.tocView k).receive l).1 = true → tocType l = tocAlarm → 28 ≤ (tocPayload l).length →
          (∀ p, p ∈ s.agg.hlt.alarms → p.take 8 ≠ (tocPayload l).take 8) →
          exec (.alarmRx k rxd) s = nextAgg s
            ({ acked with hlt := { acked.hlt with alarms := acked.hlt.alarms ++ [tocPayload l] } }.deliverAlarm (tocPayload l)))
      ∧ (k < 16 → tocHeard rxd = some l → ((s.agg.tocView k).receive l).1 = true → 0x80 ≤ tocType l → exec (.guestFrameRx k rxd) s = nextAgg s
          ((s.agg.withToc k ((s.agg.tocView k).receive l).2).guestNotice k (tocSrc l) (tocType l) (tocPayload l)))

/-! ### The aggregator: control paths, registration, ingest and channels (chapters 7, 8 and 10) -/

/-- R258 to R266: a keepalive goes every 1 ms to each die unit served; a REGISTER request is refused for an unknown position and accepted for a
free one, whose entry starts anew and whose PRIV fields follow; a path that is stopped is probed; a FAILOVER-REQUEST is refused unless mirroring runs; an acknowledgement removes its frame from the path; a
control frame is sent again every CTL_RETRY until its attempts are spent, which stops the path. -/
def Obligations.ControlPathsOfTheAggregator : Prop :=
  ∀ (s : State) (k cseq mac i : Nat) (l : List Byte) (f : CtlOutFrame) (t : TrayEnt), let a := s.agg
    let p := a.path k
    let b := l.drop 32
    let hit := a.frameCheck laneIngest l = (true, a)
    a.served = true →
    (a.servesKey k = false ∨ a.mono < p.lastKeep + 1000000 → exec (.keepaliveTx k) s = nextAgg s a)
      ∧ (a.servesKey k = true → p.lastKeep + 1000000 ≤ a.mono → a.hlt.loop = false → p.stopped = false → exec (.keepaliveTx k) s
          = nextAgg s ((a.sendFrame laneIngest (a.get (REG_ENT_MAC k)) (a.header ftKeepalive 0 0 0 ++ beBytes 2 a.id
              ++ beBytes 1 a.beaconState ++ zeros 1 ++ a.mark ++ zeros 2)).setPath k { p with lastKeep := a.mono }))
      ∧ (a.servesKey k = true → p.lastKeep + 1000000 ≤ a.mono → a.hlt.loop = false → p.stopped = true → p.probe = none →
          ∃ e, exec (.keepaliveTx k) s = nextAgg s e ∧ (e.path k).lastKeep = a.mono ∧ (e.path k).probe = some ((p.cseq + 1) % 2 ^ 32)
            ∧ (e.path k).stopped = true ∧ (e.path k).out.length = p.out.length + 1 ∧ e.regs = a.regs)
      ∧ (a.answers = false → exec (.registerRequestRx mac l) s = nextAgg s a ∧ exec (.failoverRequestRx mac l) s = nextAgg s a)
      ∧ (a.answers = true → hit → be l 1 1 = ftRegister → be b 0 1 = 1 →
          (a.cfg.tray.find? fun e => decide (e.port = be b 14 2 ∧ e.pos = be b 3 1)) = none →
          exec (.registerRequestRx mac l) s = nextAgg s (a.refuseReg mac b 1))
      ∧ (a.answers = true → hit → be l 1 1 = ftRegister → be b 0 1 = 1 →
          (a.cfg.tray.find? fun e => decide (e.port = be b 14 2 ∧ e.pos = be b 3 1)) = some t →
          (a.on (REG_ENT_VALID t.loc) = false ∨ a.get (REG_ENT_MAC t.loc) = mac) → exec (.registerRequestRx mac l) s
            = nextAgg s ((((a.setReg t.loc 1 mac).freshStreams t.loc).acceptReg mac b
                (a.id * 256 + t.loc)).regWrite t.loc a.cfg.duRegs))
      ∧ (a.answers = true → hit → be l 1 1 = ftRegister → be b 0 1 = 2 →
          firstBelow 256 (fun j => a.on (REG_ENT_VALID (256 + j)) && decide (a.get (REG_ENT_MAC (256 + j)) = mac)) = some i →
          (a.mirroringRuns = false → exec (.failoverRequestRx mac l) s = nextAgg s (a.refuseReg mac b 3))
          ∧ (a.mirroringRuns = true → a.inFailover = true → a.servesKey (256 + i) = true →
              exec (.failoverRequestRx mac l) s = nextAgg s (a.acceptReg mac b (a.partner * 256 + i))))
      ∧ (a.answers = true → hit → be l 1 1 = ftRegister → be b 0 1 = 2 →
          firstBelow 256 (fun j => a.on (REG_ENT_VALID (256 + j)) && decide (a.get (REG_ENT_MAC (256 + j)) = mac)) = some i →
          a.mirroringRuns = true → a.inFailover = true → a.servesKey (256 + i) = false → ∃ e : Aggregator,
            e = (a.setReg (256 + i) 2 mac).acceptReg mac b (a.partner * 256 + i) ∧ exec (.failoverRequestRx mac l) s = nextAgg s
              ((e.servedKeys.filter fun z => !a.servesKey z).foldl (fun (x : Aggregator) z => x.rewriteDie (x.duidOf z)) e))
      ∧ (a.on ING_CTRL_EN = false → exec (.controlAckRx l) s = nextAgg s a)
      ∧ (a.on ING_CTRL_EN = true → hit → be l 1 1 = ftControlAck → a.regKey (be l 4 4) = some k → p.waiting = [] →
          p.out.find? (fun x => x.cseq = be b 4 4) = some f → f.op = 0x0A → ∃ e, exec (.controlAckRx l) s = nextAgg s e
            ∧ (e.path k).out = p.out.filter (fun x => x.cseq ≠ be b 4 4) ∧ (e.path k).waiting = [] ∧ (∀ j, j ≠ k → e.path j = a.path j)
            ∧ e.regs = a.regs ∧ e.jobs = a.jobs)
      ∧ (a.paused = false → p.out.find? (fun x => x.cseq = cseq) = none → exec (.ctlRetry k cseq) s = nextAgg s a)
      ∧ (a.paused = false → p.out.find? (fun x => x.cseq = cseq) = some f → a.mono < f.lastSent + a.ctlRetryNs →
          exec (.ctlRetry k cseq) s = nextAgg s a)
      ∧ (a.paused = false → p.out.find? (fun x => x.cseq = cseq) = some f → f.lastSent + a.ctlRetryNs ≤ a.mono → p.stopped = false →
          f.tries < max 1 (a.get ING_CTRL_CTL_TRIES) → exec (.ctlRetry k cseq) s = nextAgg s
            ((a.setPath k { p with out := p.out.map fun x => if x.cseq = cseq then { f with tries := f.tries + 1, lastSent := a.mono } else x }).sendCtl
              k { f with tries := f.tries + 1, lastSent := a.mono } true))
      ∧ (a.paused = false → p.out.find? (fun x => x.cseq = cseq) = some f → f.lastSent + a.ctlRetryNs ≤ a.mono → p.stopped = false →
          max 1 (a.get ING_CTRL_CTL_TRIES) ≤ f.tries → f.op = 0x0A → ∃ e, exec (.ctlRetry k cseq) s = nextAgg s e
            ∧ (e.path k).out = p.out.filter (fun x => x.cseq ≠ cseq) ∧ (e.path k).stopped = true ∧ e.jobs = a.jobs)

/-- R200 to R204, R267 to R270: a telemetry frame of a stream that is bound is reassembled in the order of its fragments, one of another job
is counted; a parcel open too long is given up; the oldest complete parcel is checked, and delivered when it is sound. A channel opens on a
core that is on; it waits for a forwarding buffer, is refused one after FWD_WAIT, and at the end of a privileged buffer stops until it is
resumed or cancelled. -/
def Obligations.IngestAndChannels : Prop :=
  ∀ (s : State) (i k core chan desc addr len t : Nat) (priv : Bool) (l : List Byte) (r : Reasm) (rest : List (List Byte)) (c : Channel),
    let a := s.agg
    let key := 32 * core + chan
    (a.served = true → a.on ING_CTRL_EN = false → exec (.telemetryFrameRx l) s = nextAgg s a.settleEpochs)
      ∧ (a.served = true → a.on ING_CTRL_EN = true → be l 0 1 = 0x20 → be l 1 1 = ftTelemetry → a.streamOf (be l 4 4) (be l 8 2) = some i →
          a.on (MTR_BURST_EN i) = false → a.frameCheck laneIngest l = (true, a) → a.bind (some i) (be l 12 4) (be l 10 1) = .wrong →
          exec (.telemetryFrameRx l) s = nextAgg s ((a.inc ING_CNT2_WRONG_JOB_N).raise ING_STATUS_WRONG_JOB).settleEpochs)
      ∧ (a.served = true → a.on ING_CTRL_EN = true → be l 0 1 = 0x20 → be l 1 1 = ftTelemetry → a.streamOf (be l 4 4) (be l 8 2) = some i →
          a.on (MTR_BURST_EN i) = false → a.frameCheck laneIngest l = (true, a) → a.bind (some i) (be l 12 4) (be l 10 1) = .pass →
          (a.stream i).nextFseq = some (be l 16 4) → ∀ frags, readFrags (be l 3 1) (l.drop 32) = some frags →
          exec (.telemetryFrameRx l) s = nextAgg s ((a.setStream i { a.stream i with nextFseq := some ((be l 16 4 + 1) % 2 ^ 32) }).takeFrags
            i frags).settleEpochs)
      ∧ (a.served = true → (a.stream i).open_ = none → exec (.reasmTimeout i) s = nextAgg s a.settleEpochs)
      ∧ (a.served = true → (a.stream i).open_ = some r → r.since + max 1 (a.get ING_CTRL_REASM_WAIT) * 10000 ≤ a.mono →
          exec (.reasmTimeout i) s = nextAgg s (((a.setStream i { a.stream i with open_ := none }).inc ING_CNT3_REASM_TIMEOUT_N).pealBad
            (a.streamDuid i) r.bytes).settleEpochs)
      ∧ (a.served = true → (a.stream i).ready = [] → exec (.parcelCheck i) s = nextAgg s a)
      ∧ (a.served = true → (a.stream i).ready = l :: rest → (parcelFault l).isSome = true → exec (.parcelCheck i) s = nextAgg s
          (((((a.setStream i { a.stream i with ready := rest }).inc ING_CNT4_PARCEL_FAULT_N).inc (STC_STAT_FAULT_N i)).raise
            ING_STATUS_PARCEL_FAULT).pealBad (a.streamDuid i) l).settleEpochs)
      ∧ (∀ e, a.served = true → (a.stream i).ready = l :: rest → parcelFault l = none →
          (a.setStream i { a.stream i with ready := rest }).pigeonhole i l = (false, e) →
          exec (.parcelCheck i) s = nextAgg s ((e.inc ING_CNT4_PH_FULL_N).raise ING_STATUS_PH_FULL))
      ∧ (∀ e, a.served = true → (a.stream i).ready = l :: rest → parcelFault l = none →
          (a.setStream i { a.stream i with ready := rest }).pigeonhole i l = (true, e) →
          exec (.parcelCheck i) s = nextAgg s (e.deliver (if e.on (STC_CFG_BOUND i) then e.streamCtx i else 2048) (a.streamDuid i) l))
      ∧ (a.dispatchable core = false ∨ (a.chan key).isSome = true → exec (.channelOpen core chan desc priv) s = nextAgg s a)
      ∧ (chan < 32 → a.dispatchable core = true → a.chan key = none → a.coreOn core = false →
          exec (.channelOpen core chan desc priv) s = nextAgg s (a.wakeDomain core))
      ∧ (chan < 32 → a.dispatchable core = true → a.chan key = none → a.coreOn core = true →
          (let d := memBytes a.mem desc 64
           bit (le d 12 1) 0 = false ∨ priv = true → ∃ (e : Aggregator) (c0 : Channel), exec (.channelOpen core chan desc priv) s = nextAgg s (e.chanRun key c0 (c0.fwdMax + 2))
            ∧ c0.buf = le d 16 8 ∧ c0.bufLen = le d 24 4 ∧ c0.cplAddr = le d 32 8 ∧ c0.privileged = bit (le d 12 1) 0
            ∧ c0.encode = bit (le d 12 1) 1 ∧ c0.produced = 0 ∧ c0.stopped = false))
      ∧ (a.chan k = none → exec (.forwardBufferGrant k) s = nextAgg s a ∧ exec (.forwardWaitTimeout k) s = nextAgg s a)
      ∧ (∀ e b, a.chan k = some c → c.waitSince = some t → a.poolAlloc c.pool (ownerChannel (k / 32) (k % 32)) false = (some b, e) →
          exec (.forwardBufferGrant k) s = nextAgg s ((e.writeSlip c b 0).chanRun k
            { c with buf := b, bufLen := e.bufBytes c.pool, used := 0, links := c.links + 1, waitSince := none } (c.fwdMax + 2)))
      ∧ (a.chan k = some c → c.waitSince = some t → t + c.fwdWait * 1000 ≤ a.mono → ∃ e, exec (.forwardWaitTimeout k) s = nextAgg s e
          ∧ e.chan k = none)
      ∧ (a.chan k = some c → c.stopped = true → exec (.posteRestanteResume k addr len true) s
          = nextAgg s (a.chanRun k { c with buf := addr, bufLen := len, used := 0, stopped := false } 2))
      ∧ (a.chan k = none → exec (.posteRestanteResume k addr len true) s
            = nextAgg s { a with ing := { a.ing with chanIgnored := a.ing.chanIgnored + 1 } })
      ∧ (a.chan k = some c → c.stopped = true → ∃ e, exec (.channelCancel k true) s = nextAgg s e ∧ e.chan k = none)
      ∧ (a.chan k = some c → c.stopped = false → exec (.channelCancel k true) s
            = nextAgg s { a with ing := { a.ing with chanIgnored := a.ing.chanIgnored + 1 } })
      ∧ exec (.channelCancel k false) s = nextAgg s a ∧ exec (.posteRestanteResume k addr len false) s = nextAgg s a

/-! ### Epochs, trees and broadcasts (chapter 10) -/

/-- R271, R273, R281 to R284: a scheduled peal opens its epoch with the die units that it expects; a tray epoch closes at its deadline, a subtree
epoch at its own; a child's whole contribution is taken once and a copy acknowledged again, an acknowledged one is sent no more and another is sent again; heartbeats go
every 100 µs, are noted, and are missed after 1 ms; a REPARENT takes effect from the time it names. -/
def Obligations.EpochsCloseAndContributionsTravel : Prop :=
  ∀ (s : State) (ctx tp peer : Nat) (l : List Byte) (j : JobCtx) (p : SchedPeal) (e : Epoch) (u : ContribOut), let a := s.agg
    let b := l.drop 32
    let child := be l 4 4 % 4096
    let parent := a.parentCtx (be l 12 4) (be l 10 1) child (be b 6 10)
    let hit := a.on ING_CTRL_EN = true ∧ a.frameCheck laneTree l = (true, a)
    let wait := max 1 (a.get TREE_TIMING_CONTRIB_RETRY) * 1000
    a.served = true →
    (a.job ctx = none → exec (.pealArmSend ctx tp) s = nextAgg s a ∧ exec (.trayEpochDeadline ctx tp) s = nextAgg s a
        ∧ exec (.subtreeEpochDeadline ctx tp) s = nextAgg s a ∧ exec (.contribRetry ctx tp) s = nextAgg s a
        ∧ exec (.treeHeartbeatTx ctx) s = nextAgg s a ∧ exec (.treeHeartbeatLost ctx peer) s = nextAgg s a
        ∧ exec (.reparentEffect ctx) s = nextAgg s a)
      ∧ (ctx < 1024 → a.job ctx = some j → j.state = .armed → j.peals.find? (fun q => decide (q.tp = tp) && !q.sent) = some p →
          p.refused = false → a.armedAhead j < 8 → j.epoch tp = none → j.wasClosed tp = false → ∃ x y z, exec (.pealArmSend ctx tp) s
            = nextAgg s (if a.paused then x else x.settleEpoch ctx tp) ∧ x.job ctx = some y ∧ y.epoch tp = some z ∧ z.armed = true
              ∧ z.pealId = p.pealId ∧ z.expected = j.expectedAt tp ∧ z.trayClosed = none ∧ y.state = .armed ∧ x.mem = a.mem
              ∧ (tp < a.tc.now + 200000 * 65536 → ∀ d ∈ j.expectedAt tp, ∃ r, (r = 1 ∨ r = 3) ∧ tabGet z.states d = some (.missing r)))
      ∧ (a.job ctx = some j → j.epoch tp = some e → e.armed = false ∨ a.tc.now < j.trayDeadline tp →
          exec (.trayEpochDeadline ctx tp) s = nextAgg s a)
      ∧ (a.paused = false → a.job ctx = some j → j.epoch tp = some e → e.armed = true → e.trayClosed = none → j.trayDeadline tp ≤ a.tc.now →
          exec (.trayEpochDeadline ctx tp) s = nextAgg s ((a.closeTray ctx tp).settleEpoch ctx tp))
      ∧ (a.job ctx = some j → j.epoch tp = some e → a.tc.now < j.subtreeDeadline tp → exec (.subtreeEpochDeadline ctx tp) s = nextAgg s a)
      ∧ (a.paused = false → a.job ctx = some j → j.epoch tp = some e → e.trayClosed.isSome = true → j.subtreeDeadline tp ≤ a.tc.now →
          exec (.subtreeEpochDeadline ctx tp) s = nextAgg s ((a.modEpoch ctx tp fun x => { x with due := true }).settleEpoch ctx tp))
      ∧ (hit → be l 1 1 = ftTreeUp → be b 0 1 = 1 → parent = none → exec (.treeContribRx l) s = nextAgg s a.treeStale)
      ∧ (hit → be l 1 1 = ftTreeUp → be b 0 1 = 1 → parent = some (ctx, j) → j.hasTaken (be b 6 10) child = false →
          tabGet j.parts (be b 6 10 * 4096 + child) = none → be b 20 4 = 0 → (slice b 32 (be b 24 2)).length = be b 16 4 →
          exec (.treeContribRx l) s = nextAgg s (a.takeChild ctx child (be b 6 10) (be b 4 2) (slice b 32 (be b 24 2))))
      ∧ (hit → be l 1 1 = ftTreeUp → be b 0 1 = 1 → parent = some (ctx, j) → j.hasTaken (be b 6 10) child = true →
          exec (.treeContribRx l) s = nextAgg s (a.treeFrame ctx ftTreeAck child (ackTree 2 0 0 (be b 6 10) [])))
      ∧ (hit → be l 1 1 = ftTreeAck → be b 0 1 = 2 → a.findJob (be l 12 4) (be l 10 1) = none → exec (.contribAckRx l) s = nextAgg s a.treeStale)
      ∧ (hit → be l 1 1 = ftTreeAck → be b 0 1 = 2 → a.findJob (be l 12 4) (be l 10 1) = some (ctx, j) → ∃ x, exec (.contribAckRx l) s = nextAgg s x
          ∧ ∀ y ∈ x.jobs, ∃ z ∈ a.jobs, y.1 = z.1 ∧ (if z.2.job = be l 12 4 ∧ z.2.gen = be l 10 1 then y.2 = { z.2 with
            ups := z.2.ups.filter (fun u => !(decide (u.tp = be b 8 10) && decide (u.to_ = child))) } else y.2 = z.2))
      ∧ (a.job ctx = some j → j.ups.find? (fun u => u.tp = tp) = some u → a.mono < u.lastSent + wait →
          exec (.contribRetry ctx tp) s = nextAgg s a)
      ∧ (a.job ctx = some j → j.ups.find? (fun u => u.tp = tp) = some u → u.lastSent + wait ≤ a.mono →
          max 1 (a.get TREE_TIMING_CONTRIB_TRIES) ≤ u.tries →
          exec (.contribRetry ctx tp) s = nextAgg s (a.modJob ctx fun j => { j with ups := j.ups.filter fun x => x.tp ≠ tp }))
      ∧ (a.job ctx = some j → j.ups.find? (fun u => u.tp = tp) = some u → u.lastSent + wait ≤ a.mono → u.tries < max 1 (a.get TREE_TIMING_CONTRIB_TRIES) →
          a.tc.now < tp + j.epochWaitU + ((j.treeAt tp).depth - ((j.treeAt tp).level - 1)) * j.hopWaitU →
          exec (.contribRetry ctx tp) s = nextAgg s ((a.modJob ctx fun j => { j with ups := j.ups.map fun x =>
              if x.tp = tp then { u with tries := u.tries + 1, lastSent := a.mono } else x }).sendContrib ctx u.to_ (j.treeAt tp).level
                { u with tries := u.tries + 1, lastSent := a.mono } true))
      ∧ (a.job ctx = some j → a.inTree ctx j = false ∨ a.mono < j.hbSent + 100000 → exec (.treeHeartbeatTx ctx) s = nextAgg s a)
      ∧ (a.job ctx = some j → a.inTree ctx j = true → j.hbSent + 100000 ≤ a.mono → ∃ x y, exec (.treeHeartbeatTx ctx) s = nextAgg s x
          ∧ x.job ctx = some y ∧ y.hbSent = a.mono ∧ y.epochs = j.epochs ∧ x.mem = a.mem)
      ∧ (hit → be l 1 1 = ftTreeUp → be l 32 1 = 2 → a.ctxsAbove (be l 12 4) (be l 10 1) child = [ctx] → a.job ctx = some j →
          exec (.treeHeartbeatRx l) s = nextAgg s (a.modJob ctx fun j => { j with heard := tabPut j.heard child a.mono,
                                                                                   lost := j.lost.filter (· ≠ child) }))
      ∧ (hit → be l 1 1 = ftTreeUp → be l 32 1 = 2 → a.ctxsAbove (be l 12 4) (be l 10 1) child = [] →
          exec (.treeHeartbeatRx l) s = nextAgg s a.treeStale)
      ∧ (a.job ctx = some j → a.inTree ctx j = true → peer ∈ a.above ctx j → peer ∉ j.lost → storeGet 0 j.heard peer + 1000000 ≤ a.mono →
          exec (.treeHeartbeatLost ctx peer) s = nextAgg s (((a.modJob ctx fun j => { j with lost := j.lost ++ [peer] }).raise
            TREE_STATUS_PARENT_LOST).report "PARENT-LOST" [j.job, j.gen, peer]))
      ∧ (a.job ctx = some j → a.mono < storeGet 0 j.heard peer + 1000000 → exec (.treeHeartbeatLost ctx peer) s = nextAgg s a)
      ∧ (a.job ctx = some j → j.treeAt a.tc.now ≠ j.tree → ∃ x y, exec (.reparentEffect ctx) s = nextAgg s x ∧ x.job ctx = some y
          ∧ y.tree = j.treeAt a.tc.now ∧ y.epochs = j.epochs ∧ x.regs = a.regs)

/-- R271, R283, R287 to R293, R319, R355, R359, Table 10-15: a broadcast that arrives whole from above, next in no part, is kept, forwarded and
applied in its order, whatever its kind; it is sent again to who has not acknowledged it, and asked for again over a gap; sets of
acknowledgements join; the root reports the members that are missing. A drained retirement completes its command; a quarantine ends free. -/
def Obligations.BroadcastsAreAppliedAndAcknowledged : Prop :=
  ∀ (s : State) (i : Instr) (ctx bseq child tries at_ t kind : Nat) (backup : Bool) (l : List Byte) (j : JobCtx) (x : Bcast) (c : Command),
    let a := s.agg
    let b := l.drop 32
    let src := be l 4 4 % 4096
    let hit := a.on ING_CTRL_EN = true ∧ a.frameCheck laneTree l = (true, a) ∧ a.job ctx = some j
    let down := hit ∧ a.ctxsBelow (be l 12 4) (be l 10 1) src (bit (be b 1 1) 0) = [ctx]
    let up := hit ∧ a.ctxsAbove (be l 12 4) (be l 10 1) src = [ctx]
    a.served = true →
    ((i = .bcArmedCheck l ∧ kind = 1 ∨ i = .bcPealSchedule l ∧ kind = 2 ∨ i = .bcSelRates l ∧ kind = 3 ∨ i = .bcDetectorParams l ∧ kind = 4
        ∨ i = .bcTaint l ∧ kind = 5 ∨ i = .bcReparent l ∧ kind = 6 ∨ i = .bcReserved l ∧ (kind = 0 ∨ 6 < kind)) → be b 2 1 = kind →
        down → be l 1 1 = ftTreeDown → be b 0 1 = 1 → j.applied < be b 4 4 → j.bcast (be b 4 4) = none →
        be b 8 4 ≤ 262144 → j.bparts.find? (fun p => p.seq = be b 4 4) = none → be b 12 4 = 0 → (slice b 32 (be b 16 2)).length = be b 8 4 →
        exec i s = nextAgg s ((a.keepBcast ctx ⟨be b 4 4, kind, slice b 18 10, slice b 32 (be b 16 2), [], [], [], false, [], a.mono,
          false⟩).applyReady ctx 257))
      ∧ (a.job ctx = some j → x.bkind = 2 → ∃ y, (a.bcastEffect ctx x).job ctx = some y ∧ y.peals = j.peals
          ++ (List.range (be x.payload 18 4)).map (fun n => ⟨(be x.payload 22 2 + n) % 65536, be x.payload 0 10 + n * be x.payload 10 8 * 65536,
            bit (be x.payload 24 1) 0, false, decide (be x.payload 10 8 < j.pMin)⟩))
      ∧ (x.bkind = 1 → a.bcastEffect ctx x = a)
      ∧ (a.job ctx = some j → 6 < x.bkind → (a.bcastEffect ctx x).job ctx = some { j with reservedBc := j.reservedBc + 1 })
      ∧ (a.job ctx = some j → j.bcast bseq = some x → x.sends.find? (fun z => z.1 = child) = some (child, tries, at_) →
          (a.below ctx j).find? (fun z => z.1 = child) = some (child, backup) → tabGet x.acked child = none →
          tries < max 1 (a.get TREE_TIMING_BC_TRIES) → at_ + max 1 (a.get TREE_TIMING_BC_RETRY) * 1000 ≤ a.mono →
          exec (.bcRetry ctx bseq child) s = nextAgg s ((a.modBcast ctx bseq fun y => { y with sends := y.sends.map fun z =>
            if z.1 = child then (child, tries + 1, a.mono) else z }).sendBcast ctx child backup true x))
      ∧ (a.job ctx = some j → j.bcast bseq = some x → (tabGet x.acked child).isSome = true → exec (.bcRetry ctx bseq child) s = nextAgg s a)
      ∧ (a.job ctx = some j → j.gapSince = none → exec (.bcGapWaitExpiry ctx) s = nextAgg s a)
      ∧ (a.job ctx = some j → j.gapSince = some t → t + max 1 (a.get TREE_TIMING_BC_GAP_WAIT) * 1000 ≤ a.mono → ∃ y z,
          exec (.bcGapWaitExpiry ctx) s = nextAgg s y ∧ y.job ctx = some z ∧ z.gapSince = some a.mono ∧ z.applied = j.applied)
      ∧ (up → be l 1 1 = ftTreeAck → be b 0 1 = 3 → (a.below ctx j).find? (fun z => z.1 = src) = some (src, backup) → j.bcasts = [x] →
          be b 4 4 ≤ x.bseq → x.bseq ≤ be b 4 4 → exec (.nakRx l) s = nextAgg s (a.sendBcast ctx src backup true x))
      ∧ (up → be l 1 1 = ftTreeAck → be b 0 1 = 3 → j.bcasts = [x] → be b 4 4 < x.bseq → exec (.nakRx l) s = nextAgg s (a.modJob ctx fun y => { y with oldNak := y.oldNak + 1 }))
      ∧ (up → be l 1 1 = ftTreeAck → be b 0 1 = 1 → j.bcast (be b 4 4) = none →
          exec (.bcAckRx l) s = nextAgg s a)
      ∧ (up → be l 1 1 = ftTreeAck → be b 0 1 = 1 → j.bcast (be b 4 4) = some x → x.applied = false →
          bit (be b 1 1) 0 = false → ∃ y, exec (.bcAckRx l) s = nextAgg s (y.checkComplete ctx (be b 4 4)) ∧ y = a.modBcast ctx (be b 4 4) fun _ =>
            { x with acked := tabPut x.acked src (missSort ((tabGet x.acked src).getD [] ++ readSet (slice b 32 512))) })
      ∧ (a.job ctx = some j → j.bcast bseq = some x → j.tree.level ≠ 0 ∨ x.reported = true → exec (.bcDoneWaitExpiry ctx bseq) s = nextAgg s a)
      ∧ (a.job ctx = some j → j.bcast bseq = some x → j.tree.level = 0 → ctx < 1024 → x.reported = false → x.issued + a.doneWait ≤ a.mono →
          exec (.bcDoneWaitExpiry ctx bseq) s = nextAgg s ((a.modBcast ctx bseq fun y => { y with reported := true }).report "BROADCAST-MISSING"
            (j.job :: j.gen :: bseq :: j.missingOf x)))
      ∧ (a.hif.commands.find? (fun y => decide (y.wait = .drain ctx)) = none → exec (.retireDrainExpiry ctx) s = nextAgg s a)
      ∧ (∀ y, a.hif.commands.find? (fun y => decide (y.wait = .drain ctx)) = some c → a.job ctx = some j → j.dieUnits = [] →
          a.retireDrain ctx = (true, y) → exec (.retireDrainExpiry ctx) s = nextAgg s (y.finish c csSuccess 0 []))
      ∧ (a.job ctx = some j → j.state ≠ .quarantine ∨ a.mono < j.quarEnd → exec (.quarantineEnd ctx) s = nextAgg s a)
      ∧ (a.job ctx = some j → j.state = .quarantine → j.quarEnd ≤ a.mono → ∃ y, exec (.quarantineEnd ctx) s = nextAgg s y ∧ y.job ctx = none
          ∧ ∀ e ∈ y.det.instances, e.2.ctx ≠ ctx)

/-! ### The mirror link and the partner (chapter 13, R23 to R27, R421, R422) -/

/-- R23, R24, R27, R377, R378, R380, R422: the link comes up only with the configured partner, in a session above both last ones, and goes down
to DOWN, which is reported, and in failover marks the open steps and ends the captures of the other side. Messages are applied in the order of MSEQ, each acknowledged, one seen before acknowledged again, a gap asked for. A message is sent
again every MIRROR_RETRY; HEALTH goes every 1 ms, and 5 ms without one are noted once. Nothing of it happens while the link is down. -/
def Obligations.TheMirrorLinkAppliesMessagesInOrder : Prop :=
  ∀ (s : State) (i : Instr) (l : List Byte) (img : JobImage) (far : Nat) (doms : List Nat) (fs fa mseq step : Nat) (only : Option Nat) (kind : Nat)
    (m : MirrorMsg) (app : Aggregator → List Byte → Aggregator), let a := s.agg
    let b := l.drop 32
    let r := a.mirrorAcked (be b 16 8)
    let next := r.led.mir.rxSeq + 1
    let down := ((a.modMir fun m => { m with up := false }).set MIR_STATUS_STATE mirDown).report "UNPROTECTED" [a.id]
    let row := (i = .mirrorLedgerRx l ∧ kind = mkLedger ∧ app = Aggregator.takeLedger)
      ∨ (i = .mirrorContextRx l img ∧ kind = mkContext ∧ app = fun x p => x.takeContext img p)
      ∨ (i = .mirrorImageRx l ∧ kind = mkImage ∧ app = Aggregator.takeImage) ∨ (i = .mirrorSpilledRx l ∧ kind = mkSpilled ∧ app = Aggregator.takeSpilled)
      ∨ (i = .resyncReqRx l ∧ kind = mkResyncReq ∧ app = Aggregator.takeResyncReq) ∨ (i = .resyncBeginRx l ∧ kind = mkResyncBegin ∧ app = Aggregator.takeBegin)
      ∨ (i = .resyncEndRx l ∧ kind = mkResyncEnd ∧ app = fun x _ => x.takeEnd)
      ∨ (i = .partnerHealthRx l ∧ kind = mkHealth ∧ app = fun x p => x.modMir fun m => { m with partnerHealth := p, lastHealthRx := x.mono, lostSent := false })
      ∨ (i = .mirrorReservedRx l ∧ (kind = 0 ∨ mkHealth < kind) ∧ app = fun x _ => x.modMir fun m => { m with reserved := m.reserved + 1 })
    let hit := a.led.mir.up = true ∧ be b 0 1 = kind ∧ a.frameCheck laneMirror l = (true, a) ∧ be b 4 4 = a.get MIR_STATUS_SESSION
    a.served = true →
    (a.hasPartner = false ∨ a.on MIR_CTRL_EN = false ∨ a.led.mir.up = true → exec (.mirrorLinkUp far doms fs fa) s = nextAgg s a)
      ∧ (a.hasPartner = true → a.on MIR_CTRL_EN = true → a.led.mir.up = false → far ≠ a.partner → ∃ e, exec (.mirrorLinkUp far doms fs fa) s = nextAgg s e
          ∧ e.led.mir.up = false ∧ e.led.mir.mismatch = true ∧ e.led.ledgers = a.led.ledgers)
      ∧ (a.hasPartner = true → a.on MIR_CTRL_EN = true → a.led.mir.up = false → far = a.partner → a.canResume fs fa = false →
          (∀ n < 3, a.cfg.domains.getD n 0 ≠ doms.getD n 0) →
          exec (.mirrorLinkUp far doms fs fa) s = nextAgg s (((a.modMir fun m =>
            { m with mismatch := false, coLocated := false, up := true, lastHealthRx := a.mono, lostSent := false, log := [], txSeq := 0, rxSeq := 0,
                     acked := 0 }).set MIR_STATUS_SESSION (max (a.get MIR_STATUS_SESSION) fs + 1)).beginResync))
      ∧ (a.led.mir.up = false → exec .mirrorLinkDown s = nextAgg s a ∧ exec (.mirrorAckRx l) s = nextAgg s a ∧ exec (.mirrorRetry mseq) s = nextAgg s a
          ∧ exec .partnerHealthTx s = nextAgg s a ∧ exec .partnerLost s = nextAgg s a ∧ (row → exec i s = nextAgg s a))
      ∧ (a.led.mir.up = true → exec .mirrorLinkDown s = nextAgg s (if a.inFailover then down.takeover.resetCaptures else down))
      ∧ (row → hit → be b 8 8 = next →
          exec i s = nextAgg s ((app (r.modMir fun m => { m with rxSeq := next }) (slice b 32 (be b 24 4))).mirrorFrame mkAck 0 false []))
      ∧ (row → hit → be b 8 8 < next → exec i s = nextAgg s (r.mirrorFrame mkAck 0 false []))
      ∧ (row → hit → next < be b 8 8 → exec i s = nextAgg s (r.mirrorSend mkResyncReq (beBytes 8 next)))
      ∧ (kind = mkAck → hit → exec (.mirrorAckRx l) s = nextAgg s r)
      ∧ (a.led.mir.up = true → a.led.mir.log.find? (fun x => x.mseq = mseq) = some m →
          m.lastSent + max 1 (a.get MIR_CTRL_MIRROR_RETRY) * 1000 ≤ a.mono → exec (.mirrorRetry mseq) s = nextAgg s ((a.modMir fun z =>
            { z with log := z.log.map fun y => if y.mseq = mseq then { y with lastSent := a.mono } else y }).mirrorFrame m.kind mseq true m.payload))
      ∧ (a.led.mir.log.find? (fun x => x.mseq = mseq) = some m → a.mono < m.lastSent + max 1 (a.get MIR_CTRL_MIRROR_RETRY) * 1000 →
          exec (.mirrorRetry mseq) s = nextAgg s a)
      ∧ (a.led.mir.log.find? (fun x => x.mseq = mseq) = none → exec (.mirrorRetry mseq) s = nextAgg s a)
      ∧ (a.led.mir.up = true → a.led.mir.lastHealthTx + 1000000 ≤ a.mono → exec .partnerHealthTx s
          = nextAgg s ((a.modMir fun m => { m with lastHealthTx := a.mono }).mirrorSend mkHealth a.healthPayload))
      ∧ (a.mono < a.led.mir.lastHealthTx + 1000000 → exec .partnerHealthTx s = nextAgg s a)
      ∧ (a.led.mir.lostSent = true ∨ a.mono < a.led.mir.lastHealthRx + 5000000 → exec .partnerLost s = nextAgg s a)
      ∧ (a.led.mir.up = true → a.led.mir.lostSent = false → a.led.mir.lastHealthRx + 5000000 ≤ a.mono → exec .partnerLost s
          = nextAgg s (((a.modMir fun m => { m with lostSent := true }).raise HLT_STATUS_PARTNER_LOST).unitNotice 0x0B chipUnit 0 a.partner))
      ∧ (∀ k < 256, only = some k → exec (.reAdmission step false only) s
          = nextAgg s (if a.servesKey (256 + k) then a.readmitKey step (256 + k) else a))
      ∧ (∀ k < 256, only = some k → exec (.reAdmission step true only) s = nextAgg s
          (if a.hlt.loop = false ∧ a.on (REG_ENT_VALID k) = true ∧ a.get (REG_ENT_STATE k) = 3 then
            ((a.set (REG_ENT_STATE k) 1).setPath k CtlPath.init).mirrorReg k else a))

/-! ### Upkeep of the ledger and of the scores (chapters 13 and 14) -/

/-- R368, R369, R373 to R375, R385: a step is sealed SEAL_GRACE after the horizon reached it, or by force SEAL_WAIT after its first coverage, and
only once; its summary is the last record. A sealed step that is old, or late records of a spilled one, are written to the first controller;
on the durable acknowledgement their extents are freed and the partner is told; a write that fails goes to the next controller. A fetch that
no controller answers within FETCH_WAIT ends FETCH-FAILED. -/
def Obligations.StepsAreSealedAndSpilled : Prop :=
  ∀ (s : State) (ctx job gen home step serial k t : Nat) (n : ObjName) (o : List Byte) (j : JobCtx) (g : Ledger) (c : Command), let a := s.agg
    let st := g.stepState step
    let written := fun z : StepState => { z with spilled := true, parts := z.parts + 1, writing := none, freeing := some true }
    let freed := fun z : StepState => { z with spilled := true, parts := z.parts + 1, writing := none, wrote := [], freeing := none }
    a.served = true →
    (a.job ctx = none → exec (.stepSeal ctx step) s = nextAgg s a ∧ exec (.forcedSeal ctx step) s = nextAgg s a)
      ∧ (a.job ctx = some j → a.ledger j.job j.gen (a.homeOfCtx ctx) = some g → st.reached = none → exec (.stepSeal ctx step) s = nextAgg s a)
      ∧ (a.job ctx = some j → a.ledger j.job j.gen (a.homeOfCtx ctx) = some g → st.reached = some t → a.mono < t + max 1 (a.get LDG_TIMING_SEAL_GRACE) * 1000000 →
          exec (.stepSeal ctx step) s = nextAgg s a)
      ∧ (a.job ctx = some j → a.ledger j.job j.gen (a.homeOfCtx ctx) = some g → st.reached = some t → t + max 1 (a.get LDG_TIMING_SEAL_GRACE) * 1000000 ≤ a.mono →
          exec (.stepSeal ctx step) s = nextAgg s (a.sealStep ctx step false))
      ∧ (a.job ctx = some j → a.ledger j.job j.gen (a.homeOfCtx ctx) = some g → st.firstCov = some t → a.mono < t + max 1 (a.get LDG_TIMING_SEAL_WAIT) * 1000000000 →
          exec (.forcedSeal ctx step) s = nextAgg s a)
      ∧ (a.job ctx = some j → a.ledger j.job j.gen (a.homeOfCtx ctx) = some g → st.firstCov = some t → t + max 1 (a.get LDG_TIMING_SEAL_WAIT) * 1000000000 ≤ a.mono →
          exec (.forcedSeal ctx step) s = nextAgg s (a.sealStep ctx step true))
      ∧ (∀ f, a.job ctx = some j → a.ledger j.job j.gen (a.homeOfCtx ctx) = some g → st.sealedNs.isSome = true → a.sealStep ctx step f = a)
      ∧ (a.ledger job gen home = none → exec (.stepSpill job gen home step) s = nextAgg s a)
      ∧ (a.ledger job gen home = some g → st.sealedNs = none ∨ st.writing.isSome = true ∨ st.freeing.isSome = true ∨ g.partRecs step = [] ∨ a.spillsFor g = false →
          exec (.stepSpill job gen home step) s = nextAgg s a)
      ∧ (∀ new ctl, a.ledger job gen home = some g → st.sealedNs = some t → st.writing = none → st.freeing = none → a.spillsFor g = true → g.partRecs step ≠ [] → g.newestSealed = some new →
          step + a.get LDG_CTRL_RESIDENT ≤ new ∨ st.spilled = true → a.cfg.storage[0]? = some ctl → exec (.stepSpill job gen home step) s
            = nextAgg s ((a.modLed fun u => { u with storage := u.storage ++ [⟨true, ctl, g.home, job, gen, step, st.parts, spillObject g t (g.partRecs step)⟩] }).modLedger
              job gen home fun l => l.modStep step fun z => { z with writing := some (0, a.mono), wrote := (g.partRecs step).map LRec.lseq }))
      ∧ (a.ledger job gen home = some g → st.writing = none →
          exec (.spillWriteDone job gen home step) s = nextAgg s (a.dropLedger job gen home) ∧ exec (.spillRetry job gen home step) s = nextAgg s a)
      ∧ (a.ledger job gen home = some g → st.writing.isSome = true → ∃ e : Aggregator,
          exec (.spillWriteDone job gen home step) s = nextAgg s (e.dropLedger job gen home)
          ∧ (a.reading job gen = true → e.led.ledgers = (a.modLedger job gen home fun l => l.modStep step written).led.ledgers ∧ e.led.mir = a.led.mir)
          ∧ (a.reading job gen = false → e.led.ledgers = (a.modLedger job gen home fun l =>
              { l with recs := l.recs.filter fun r => !(decide (r.step = step) && st.wrote.contains r.lseq) }.modStep step freed).led.ledgers
            ∧ (a.mirroringRuns = true → ∃ m, m ∈ e.led.mir.log ∧ m.kind = mkSpilled ∧ m.payload
                = beBytes 4 job ++ beBytes 1 gen ++ zeros 1 ++ beBytes 6 step ++ beBytes 2 st.parts ++ zeros 2)))
      ∧ (a.ledger job gen home = some g → st.writing = some (k, t) → a.mono < t + max 1 (a.get LDG_TIMING_SPILL_RETRY) * 1000000 →
          exec (.spillRetry job gen home step) s = nextAgg s a)
      ∧ (a.ledger job gen home = some g → st.writing = some (k, t) → t + max 1 (a.get LDG_TIMING_SPILL_RETRY) * 1000000 ≤ a.mono →
          exec (.spillRetry job gen home step) s = nextAgg s ((a.spillTo job gen home step ((k + 1) % max 1 a.cfg.storage.length)).raise LDG_STATUS_SPILL_FAIL))
      ∧ (a.command serial = none → exec (.ledgerFetchDone serial n o) s = nextAgg s a ∧ exec (.fetchWaitExpiry serial) s = nextAgg s a)
      ∧ (∀ need got cut, a.command serial = some c → c.wait = .fetch need got cut t → n ∈ need → c.op = opSetFeature →
          exec (.ledgerFetchDone serial n o) s = nextAgg s ((a.holdRef n (objectRecs o.length o)).finish c csSuccess 0 []))
      ∧ (∀ need got cut, a.command serial = some c → c.wait = .fetch need got cut t → n ∈ need → c.op ≠ opSetFeature → (∀ x ∈ need, x = n) →
          exec (.ledgerFetchDone serial n o) s = nextAgg s (a.fetched c (got ++ objectRecs o.length o) cut false))
      ∧ (∀ need got cut, a.command serial = some c → c.wait = .fetch need got cut t → n ∉ need → exec (.ledgerFetchDone serial n o) s = nextAgg s a)
      ∧ (∀ need got cut, a.command serial = some c → c.wait = .fetch need got cut t → a.mono < t + max 1 (a.get LDG_TIMING_FETCH_WAIT) * 1000000 →
          exec (.fetchWaitExpiry serial) s = nextAgg s a)
      ∧ (∀ need got cut, a.command serial = some c → c.wait = .fetch need got cut t → t + max 1 (a.get LDG_TIMING_FETCH_WAIT) * 1000000 ≤ a.mono →
          exec (.fetchWaitExpiry serial) s = nextAgg s (if c.op = opSetFeature then a.finish c csRefused 0 [] else a.fetched c [] cut true))

/-- R398, R401, R403: the oldest unresolved mismatch of a die unit is resolved as used after RESOLVE_WAIT; penalties decay every 60 s by
DECAY_SHIFT and all units are evaluated anew; a conditional suspect is cleared SUSPECT_HOLD steps after its last event. -/
def Obligations.MismatchesDecayAndConditionalSuspects : Prop :=
  ∀ (s : State) (duid u cell : Nat) (m : OpenMismatch) (q : CondMark) (j : JobCtx) (r : SelRates), let a := s.agg
    a.served = true →
    (a.hlt.mismatches.find? (fun m => m.duid = duid) = none → exec (.mismatchResolveTimeout duid) s = nextAgg s a)
      ∧ (a.hlt.mismatches.find? (fun m => m.duid = duid) = some m → a.mono < m.at_ + a.get HLT_CTRL_RESOLVE_WAIT * 1000000 →
          exec (.mismatchResolveTimeout duid) s = nextAgg s a)
      ∧ (a.hlt.mismatches.find? (fun m => m.duid = duid) = some m → m.at_ + a.get HLT_CTRL_RESOLVE_WAIT * 1000000 ≤ a.mono → ∃ e : Aggregator,
          exec (.mismatchResolveTimeout duid) s = nextAgg s (e.notice ⟨0x07, false, e.unitState (e.dieUnitOf duid), 0xFF, e.subject (e.dieUnitOf duid),
              e.fru (e.dieUnitOf duid), e.unitScore (e.dieUnitOf duid), 0x0003, 0, be m.rec_ 40 8, be m.rec_ 0 4, be m.rec_ 4 1, be m.rec_ 6 6,
              toLe mismatchSizes m.rec_⟩)
            ∧ e.hlt.mismatches.length + 1 = a.hlt.mismatches.length ∧ e.regs = a.regs)
      ∧ (a.nowNs < a.hlt.decayAt + 60000000000 → exec .scoreDecay s = nextAgg s a)
      ∧ (a.hlt.decayAt + 60000000000 ≤ a.nowNs → a.get HLT_CTRL_DECAY_SHIFT = 0 →
          exec .scoreDecay s = nextAgg s (a.modHlt fun h => { h with decayAt := a.nowNs / 60000000000 * 60000000000 }).evaluateAll)
      ∧ (a.hlt.decayAt + 60000000000 ≤ a.nowNs → 0 < a.get HLT_CTRL_DECAY_SHIFT → ∃ e : Aggregator, exec .scoreDecay s = nextAgg s e.evaluateAll
          ∧ e.hlt.decayAt = a.nowNs / 60000000000 * 60000000000 ∧ ∀ v < 577, e.get (HU_STAT_PENALTY v)
            = a.get (HU_STAT_PENALTY v) - a.get (HU_STAT_PENALTY v) / 2 ^ a.get HLT_CTRL_DECAY_SHIFT)
      ∧ (tabGet a.hlt.condStep (64 * u + cell) = none → exec (.condSuspectExpiry u cell) s = nextAgg s a)
      ∧ (tabGet a.hlt.condStep (64 * u + cell) = some q → a.job q.ctx = some j → j.rates = some r → j.dieStep (a.subject u) < q.step + r.suspectHold →
          exec (.condSuspectExpiry u cell) s = nextAgg s a)
      ∧ (tabGet a.hlt.condStep (64 * u + cell) = some q → a.job q.ctx = some j → j.rates = some r → q.step + r.suspectHold ≤ j.dieStep (a.subject u) →
          u < 512 → cell < 64 → ∃ (e : Aggregator) (x : Notice), exec (.condSuspectExpiry u cell) s = nextAgg s (e.notice x) ∧ bit (e.get (HU_COND_COND u)) cell = false
            ∧ tabGet e.hlt.condStep (64 * u + cell) = none ∧ (∀ n < 64, n ≠ cell → bit (e.get (HU_COND_COND u)) n = bit (a.get (HU_COND_COND u)) n)
            ∧ e.jobs = a.jobs)

/-! ### The exact audit (chapter 11) -/

/-- R307 to R309, R312 to R314, R324, Tables 11-4, 11-7: a tile goes to a free XDE of the mask on a core that is on, never one that has had part
in its audits; STAGE_WAIT ends what is not whole, START_WAIT sheds what has not begun. A first audit with no deviation passes, one with a
deviation asks for a second; equal results confirm it, others ask for a third, whose majority decides. A fault of the engine interrupts the
audit and is charged. A descriptor that is not well formed does not stay VALID. -/
def Obligations.AuditsAreDispatchedAndDecided : Prop :=
  ∀ (s : State) (c duid job gen seq e w v cls : Nat) (errs : List (Nat × Int × Int)) (t : Tile) (k : TileWork), let a := s.agg
    (a.on AUD_CTRL_EN = false ∨ a.xdeFree c = false ∨ a.nextTile c = none → exec (.tileDispatch c) s = nextAgg s a)
      ∧ (a.on AUD_CTRL_EN = true → a.xdeFree c = true → a.nextTile c = some (cls, t) → a.coreOn c = false →
          exec (.tileDispatch c) s = nextAgg s (a.wakeDomain c))
      ∧ (a.on AUD_CTRL_EN = true → a.xdeFree c = true → a.nextTile c = some (cls, t) → a.coreOn c = true → ∃ y : Aggregator,
          exec (.tileDispatch c) s = nextAgg s y ∧ y.tile t.duid t.job t.gen t.capSeq = some
              { t with state := (match t.state with | .want2 => .audit2 | .wantShadow => .shadow | .want3 => .audit3 | _ => .audit1), core := some c,
                       begun := true, avoid := none, margin := (a.get AUD_MARGIN_SLACK_REL, a.get AUD_MARGIN_NEAR) }
            ∧ y.jobs = a.jobs ∧ y.mem = a.mem)
      ∧ (a.nextTile c = some (cls, t) → t ∈ a.aud.tiles ∧ a.tileClass t = some cls ∧ c ∉ t.used ∧ ∀ y ∈ a.aud.tiles, ∀ n,
          a.tileClass y = some n → a.mayTake y c = true → cls ≤ n)
      ∧ (a.xdeFree c = true → c < 64 ∧ bit (a.get AUD_XDE_MASK) c = true ∧ ∀ y ∈ a.aud.tiles, y.core ≠ some c)
      ∧ (a.tile duid job gen seq = none → exec (.startWaitExpiry duid job gen seq) s = nextAgg s a)
      ∧ (a.tile duid job gen seq = some t → t.state ≠ .staged ∨ t.begun = true ∨ a.nowNs < t.commitNs + a.get AUD_CTRL_START_WAIT * 1000000 →
          exec (.startWaitExpiry duid job gen seq) s = nextAgg s a)
      ∧ (a.tile duid job gen seq = some t → t.state = .staged → t.begun = false → t.commitNs + a.get AUD_CTRL_START_WAIT * 1000000 ≤ a.nowNs →
          exec (.startWaitExpiry duid job gen seq) s = nextAgg s (a.verdict t vdIncomplete rsShed none))
      ∧ (a.tile duid job gen seq = some t → t.state ≠ .collecting ∨ a.mono < t.since + max 1 (a.get AUD_CTRL_STAGE_WAIT) * 1000000 →
          exec (.stageWaitExpiry duid job gen seq) s = nextAgg s a)
      ∧ (a.tile duid job gen seq = some t → t.state = .collecting → t.since + max 1 (a.get AUD_CTRL_STAGE_WAIT) * 1000000 ≤ a.mono →
          exec (.stageWaitExpiry duid job gen seq) s = nextAgg s (a.stage t true))
      ∧ (t.desc.isSome = true → t.field 5 1 = 1 → a.stageFate t false = .ends vdIncomplete rsNotBegun)
      ∧ (t.desc.isSome = true → t.field 5 1 = 3 → a.stageFate t false = .ends vdNonconf rsMalformed)
      ∧ (t.desc = none → t.tooLarge = false → a.stageFate t true = .ends vdIncomplete rsLost ∧ a.stageFate t false = .wait)
      ∧ (t.desc.isSome = true → t.field 5 1 = 0 → t.tooLarge = true → a.stageFate t false = .ends vdIncomplete rsTooLarge)
      ∧ (a.aud.tiles.find? (fun y => y.core = some c) = none → exec (.auditComplete c errs) s = nextAgg s a)
      ∧ (a.aud.tiles.find? (fun y => y.core = some c) = some t → t.work t.numerics = some k → ∃ (y : Aggregator) (n : Nat),
          exec (.auditComplete c errs) s = nextAgg s ((y.inc AUD_PRODUCTS k.slots).resultIn t c (k.audit t.numerics t.margin.1 errs n))
            ∧ y.regs = a.regs ∧ y.aud = a.aud ∧ y.jobs = a.jobs)
      ∧ (∀ r : AuditResult, t.state = .audit1 → 0 < r.devN → a.resultIn t c r = a.wantMore { t with core := none, results := t.results ++ [(c, r)] } .want2)
      ∧ (∀ r : AuditResult, t.state = .audit1 → r.devN = 0 → a.get AUD_CTRL_SHADOW_LOG = 0 → ∃ y : Aggregator, a.resultIn t c r
          = y.verdict { t with core := none, results := t.results ++ [(c, r)] } vdPass 0 (some r.decided) ∧ y.regs = a.regs ∧ y.aud = a.aud)
      ∧ (∀ (r : AuditResult) (d : Nat) (z : AuditResult), t.state = .audit2 → t.results = [(d, z)] → a.resultIn t c r
          = (let t1 : Tile := { t with core := none, results := t.results ++ [(c, r)] }
             if z.sums = r.sums then a.verdict t1 vdDeviate 0 (some z.decided) else a.wantMore t1 .want3))
      ∧ (∀ (r : AuditResult) (d : Nat) (z : AuditResult) (d2 : Nat) (z2 : AuditResult), t.state = .audit3 → t.results = [(d, z), (d2, z2)] →
          z.sums ≠ r.sums → z2.sums ≠ r.sums → a.resultIn t c r
            = a.auditorFault { t with core := none, results := t.results ++ [(c, r)], third := true } rsNoMajority)
      ∧ (64 ≤ c → exec (.engineFault c) s = nextAgg s a)
      ∧ (c < 64 → a.aud.tiles.find? (fun y => y.core = some c) = none → exec (.engineFault c) s = nextAgg s (a.coreFault c hcEngineFault 20 a.here))
      ∧ (c < 64 → a.aud.tiles.find? (fun y => y.core = some c) = some t → ∃ (y : Aggregator) (u : Tile), exec (.engineFault c) s = nextAgg s
            ((y.unservable u).coreFault c hcEngineFault 20 a.here)
          ∧ u = { t with core := none, state := t.state.back, avoid := some c } ∧ y.tile t.duid t.job t.gen t.capSeq = some u)
      ∧ (e < 1024 → w < 4 → ∃ m, exec (.numericsDescriptorWrite e w v) s = nextAgg s (a.writeNumerics e w m)
            ∧ (w = 0 → bits m 63 63 = bits v 63 63 ∧ bits m 55 44 = bits v 55 44 ∧ bits m 15 0 = bits v 15 0)
            ∧ (w = 1 → bits m 63 53 = bits v 63 53 ∧ bits m 47 32 = bits v 47 32)
            ∧ (w = 2 → bits m 63 53 = bits v 63 53 ∧ bits m 51 50 = bits v 51 50 ∧ bits m 47 0 = bits v 47 0)
            ∧ (w = 3 → bits m 63 53 = bits v 63 53 ∧ bits m 51 50 = bits v 51 50 ∧ bits m 47 32 = bits v 47 32))
      ∧ (((a.setWord (addr_NUM_W0 e) (BitVec.ofNat 64 v)).numericsWords e).wellFormed = false → ∃ y : Aggregator,
          a.writeNumerics e 0 v = y.mirrorContext ckNumerics e (y.wordsAt [addr_NUM_W0 e, addr_NUM_W1 e, addr_NUM_W2 e, addr_NUM_W3 e])
            ∧ y.on (NUM_W0_VALID e) = false ∧ y.on AUD_STATUS_CFG_INVALID = true)

/-! ### Detector runs (chapter 12) -/

/-- R326 to R328, R332, R355: the run that has waited longest on an idle core starts, of the kind asked for, with x1 to x3, the program counter
at the entry and the engines cleared; a run whose instance is gone is dropped with its outputs absent. A run that has used its budget ends
with code 0x04. Selection rates go to a die unit once, one step before they take effect. -/
def Obligations.DetectorRunsStartInOrderAndWithinBudget : Prop :=
  ∀ (s : State) (c n duid ctx : Nat) (tray : Bool) (r : Run) (rest : List Run) (i : Instance) (m : DetImage) (row : Instr) (j : JobCtx) (q : SelRates),
    let a := s.agg
    let start := (row = .detectorTrayRun c ∧ tray = true) ∨ (row = .detectorEpochRun c ∧ tray = false)
    let d := (tabGet j.dies duid).getD DieJob.init
    (start → (a.core c).run.isSome = true ∨ (a.core c).waiting = [] ∨ a.paused = true ∨ a.coreOn c = false → exec row s = nextAgg s a)
      ∧ (start → (a.core c).waiting = r :: rest → r.duid.isSome ≠ tray → exec row s = nextAgg s a)
      ∧ (start → (a.core c).run = none → (a.core c).waiting = r :: rest → r.duid.isSome = tray → a.paused = false → a.coreOn c = true →
          a.inst r.inst = none → exec row s = nextAgg s ((a.setCore c { a.core c with waiting := rest }).trayEnded r []))
      ∧ (start → (a.core c).run = none → (a.core c).waiting = r :: rest → r.duid.isSome = tray → a.paused = false → a.coreOn c = true →
          a.inst r.inst = some i → a.image i.slot = some m → a.instRuns i = true → m.library = none → ∃ (y : Aggregator) (z : Run), exec row s = nextAgg s y
            ∧ y.regs = a.regs ∧ y.jobs = a.jobs ∧ (y.core c).run = some z ∧ z.inst = r.inst ∧ z.ctx = r.ctx ∧ z.tp = r.tp ∧ z.duid = r.duid
            ∧ z.outputs = r.outputs ∧ z.events = r.events ∧ z.began = a.mono / 40 * 64 ∧ (y.core c).waiting = rest ∧ (y.core c).blocked = .no ∧ (y.core c).xde = []
            ∧ (y.core c).ste0 = Ste.init ∧ (y.core c).ste1 = Ste.init ∧ (y.core c).pc = (sramOf c + i.sram + 128) / 8 + m.entry
            ∧ storeGet 0 (y.core c).x 1 = BitVec.ofNat 64 (sramOf c + i.sram)
            ∧ storeGet 0 (y.core c).x 2 = BitVec.ofNat 64 (match r.duid with | some d => d % 256 | none => 0x1FF)
            ∧ storeGet 0 (y.core c).x 3 = BitVec.ofNat 64 (r.tp / nsU) ∧ (∀ k, 3 < k → storeGet 0 (y.core c).x k = 0)
            ∧ ∀ k, k ≠ c → y.core k = a.core k)
      ∧ ((a.core c).run = none → exec (.runBudget c n) s = nextAgg s a)
      ∧ ((a.core c).run = some r → a.inst r.inst = some i → a.image i.slot = some m → a.mono / 40 * 64 + n < r.began + m.budget →
          exec (.runBudget c n) s = nextAgg s a)
      ∧ ((a.core c).run = some r → a.inst r.inst = some i → a.image i.slot = some m → r.began + m.budget ≤ a.mono / 40 * 64 + n →
          exec (.runBudget c n) s = nextAgg s (a.endRun c (some (0x04, 0))))
      ∧ (a.served = true → a.job ctx = none → exec (.selRatesSend ctx duid) s = nextAgg s a)
      ∧ (a.served = true → a.job ctx = some j → j.rates = none → exec (.selRatesSend ctx duid) s = nextAgg s a)
      ∧ (a.served = true → a.job ctx = some j → j.rates = some q → d.ratesSent = true ∨ a.serves duid = false ∨ d.dieStep + 1 < q.effect →
          exec (.selRatesSend ctx duid) s = nextAgg s a)
      ∧ (∀ k, a.served = true → a.job ctx = some j → j.rates = some q → d.ratesSent = false → a.serves duid = true → duid ∈ j.dieUnits →
          q.effect ≤ d.dieStep + 1 → a.regKey duid = some k → ∃ y : Aggregator, exec (.selRatesSend ctx duid) s = nextAgg s y
            ∧ ∃ z, y.job ctx = some z ∧ ((tabGet z.dies duid).getD DieJob.init).ratesSent = true ∧ z.dieUnits = j.dieUnits)

/-! ### The synchronisation network's registers (chapter 9) -/

/-- R237, R239, R240, R243: the configuration and the mask of a barrier change only while it is idle, else SYNC_CFG_BUSY is set; a mask holds
cores that are present, one at least. A privileged reset releases the waiters with RESET; a privileged write of a value serves the queue. -/
def Obligations.SynchronisationObjectsAreConfiguredWhileIdle : Prop :=
  ∀ (s : State) (n w v cyc : Nat), let a := s.agg
    (n < 256 → a.barIdle n = false → exec (.syncOwnerWrite false n w cyc) s = nextAgg s a.syncBusy)
      ∧ (n < 256 → a.barIdle n = true → ∃ e : Aggregator, exec (.syncOwnerWrite false n w cyc) s = nextAgg s e ∧ e.get (BAR_CFG_SYS n) = bits w 63 63
          ∧ e.get (BAR_CFG_OWNER n) = bits w 57 48 ∧ e.get (BAR_CFG_TIMEOUT n) = bits w 31 0 ∧ e.sync = a.sync)
      ∧ (n < 4096 → a.semQueue n ≠ [] → bits w 1 0 = 0 → exec (.syncOwnerWrite true n w cyc) s = nextAgg s a.syncBusy)
      ∧ (n < 4096 → a.semQueue n = [] → bits w 1 0 = 0 → ∃ e : Aggregator, exec (.syncOwnerWrite true n w cyc) s = nextAgg s e
          ∧ e.get (SEM_CFG_SYS n) = bits w 63 63 ∧ e.get (SEM_CFG_OWNER n) = bits w 57 48 ∧ e.get (SEM_VAL_VALUE n) = a.get (SEM_VAL_VALUE n)
          ∧ e.sync = a.sync)
      ∧ (n < 256 → v < 2 ^ 64 → v = 0 ∨ v &&& a.get CHIP_CORE_PRESENT_PRESENT ≠ v ∨ a.barIdle n = false →
          exec (.barrierMaskWrite n v cyc) s = nextAgg s a.syncBusy)
      ∧ (n < 256 → v < 2 ^ 64 → v ≠ 0 → v &&& a.get CHIP_CORE_PRESENT_PRESENT = v → a.barIdle n = true →
          exec (.barrierMaskWrite n v cyc) s = nextAgg s (a.set (BAR_MASK_MASK n) v))
      ∧ (n < 256 → exec (.barrierReset n cyc) s = nextAgg s (a.barrierReset n))
      ∧ (n < 256 → (a.barrierReset n).get (BAR_ARR_ARRIVED n) = 0 ∧ (a.barrierReset n).on (BAR_STAT_BROKEN n) = false
          ∧ (a.barrierReset n).barWaiters n = [] ∧ ∀ k, (a.barrierReset n).core k = ((a.resumeAll (a.barWaiters n) syncReset).core k))
      ∧ (n < 4096 → v < 2 ^ 32 → exec (.semValueWrite n v cyc) s = nextAgg s ((a.set (SEM_VAL_VALUE n) v).semServe n (a.mono / 40 * 64 + cyc)))
      ∧ (n < 4096 → ∃ e : Aggregator, exec (.semReset n cyc) s = nextAgg s e ∧ e.get (SEM_VAL_VALUE n) = 0 ∧ e.get (SEM_CFG_WAITERS n) = 0
          ∧ e.semQueue n = [] ∧ e.get (SEM_CFG_OWNER n) = a.get (SEM_CFG_OWNER n) ∧ e.get (SEM_CFG_SYS n) = a.get (SEM_CFG_SYS n)
          ∧ ∀ k, e.core k = (a.resumeAll ((a.semQueue n).map (·.engine)) syncReset).core k)

/-! ### Power domains of the aggregator (chapter 9) -/

/-- R250 to R255, Table 9-10: a domain that is on, has been quiet for its hold time and is not forced on begins its entry, and ends it in its low
state; a wake cause aborts an entry and begins a wake where the sum of the budgets allows it, else defers it; the wake of a core from OFF zeroes
its SRAM; one that lasts four times its time fails. A drain is asked for by a register write; a core whose work is complete is DRAINED. -/
def Obligations.AggregatorDomainsSleepWakeAndDrain : Prop :=
  ∀ (s : State) (k c idle hold t : Nat) (final b : Bool), let a := s.agg
    (domHold k = none → exec (.aggDomainSleep k idle final) s = nextAgg s a)
      ∧ (domHold k = some hold → a.indHolds k = true ∨ idle < hold ∨ a.adState k ≠ adOn ∨ a.domQuiet k = false ∨ a.on (PD_CTRL_FORCE_ON k) = true →
          exec (.aggDomainSleep k idle false) s = nextAgg s a)
      ∧ (domHold k = some hold → a.indHolds k = false → hold ≤ idle → a.adState k = adOn → a.domQuiet k = true → a.on (PD_CTRL_FORCE_ON k) = false →
          exec (.aggDomainSleep k idle false) s = nextAgg s (a.setAd k adEntering))
      ∧ (k < 80 → domHold k = some hold → a.adState k ≠ adEntering → exec (.aggDomainSleep k idle true) s = nextAgg s a)
      ∧ (k < 80 → domHold k = some hold → a.adState k = adEntering → ∃ e : Aggregator, exec (.aggDomainSleep k idle true) s = nextAgg s e
          ∧ e.mem = a.mem ∧ e.det = a.det ∧ e.adState k = (if k < 64 then (if a.on (PD_CTRL_LOW_OFF k) then adOff else adRetain)
              else if domKind k = .hbm then adRetain else adOff)
          ∧ ∀ n < 80, n ≠ k → e.adState n = a.adState n)
      ∧ (a.adState k = adEntering → exec (.aggDomainWake k false) s = nextAgg s (a.setAd k adOn))
      ∧ (a.adState k ≠ adEntering → a.adState k ≠ adOff → a.adState k ≠ adRetain → a.domParent k = none → exec (.aggDomainWake k false) s = nextAgg s a)
      ∧ (k < 80 → a.domParent k = none → a.adState k = adOff ∨ a.adState k = adRetain → a.pwr.shed = false →
          a.powerSum + domBudget k ≤ a.get PWR_CAP_CAP_W → exec (.aggDomainWake k false) s = nextAgg s (a.beginWake k (decide (a.adState k = adOff))))
      ∧ (k < 80 → a.domParent k = none → a.adState k = adRetain → a.pwr.shed = false → a.get PWR_CAP_CAP_W < a.powerSum + domBudget k →
          ∃ e : Aggregator, exec (.aggDomainWake k false) s = nextAgg s e ∧ e.adState k = adDeferred ∧ e.pwr.deferred = a.pwr.deferred ++ [k]
            ∧ e.on PWR_STATUS_WAKE_DEFERRED = true)
      ∧ (a.adState k ≠ adWaking → exec (.aggDomainWake k true) s = nextAgg s a)
      ∧ (c < 64 → a.adState c = adWaking → c ∈ a.pwr.fromOff → a.pwr.held = [] → ∃ e : Aggregator, exec (.aggDomainWake c true) s = nextAgg s e
          ∧ e.adState c = adOn ∧ e.mem = memClear a.mem (sramOf c) 0x400000 ∧ e.core c = { Core.init with waiting := (a.core c).waiting }
          ∧ ∀ n, n ≠ c → e.core n = a.core n)
      ∧ (c < 64 → a.adState c = adWaking → c ∉ a.pwr.fromOff → a.pwr.held = [] → ∃ e : Aggregator, exec (.aggDomainWake c true) s = nextAgg s e
          ∧ e.adState c = adOn ∧ e.mem = a.mem ∧ e.det = a.det)
      ∧ (nextDeferred a.pwr.deferred = none → exec .deferredWakeStart s = nextAgg s a)
      ∧ (nextDeferred a.pwr.deferred = some k → a.get PWR_CAP_CAP_W < a.powerSum + domBudget k → exec .deferredWakeStart s = nextAgg s a)
      ∧ (nextDeferred a.pwr.deferred = some k → a.powerSum + domBudget k ≤ a.get PWR_CAP_CAP_W →
          exec .deferredWakeStart s = nextAgg s (a.beginWake k (a.pwr.fromOff.contains k)))
      ∧ (tabGet a.pwr.wakeAt k = none → exec (.aggWakeFail k) s = nextAgg s a)
      ∧ (tabGet a.pwr.wakeAt k = some t → a.mono < t + 4 * domWake k (a.pwr.fromOff.contains k) → exec (.aggWakeFail k) s = nextAgg s a)
      ∧ (k < 80 → domKind k = .audit → tabGet a.pwr.wakeAt k = some t → a.adState k = adWaking → t + 4 * domWake k (a.pwr.fromOff.contains k) ≤ a.mono →
          ∃ e : Aggregator, exec (.aggWakeFail k) s = nextAgg s e ∧ e.adState k = (if k ∈ a.pwr.fromOff then adOff else adRetain)
            ∧ e.on (PD_STAT_WAKE_FAIL k) = true ∧ tabGet e.pwr.wakeAt k = none ∧ e.bar.held = a.bar.held.filter fun h => h.1 ≠ k)
      ∧ (c < 64 → a.adState 72 = adOn → a.bar.held = [] → ∃ m, exec (.coreDrain c b) s = nextAgg s (a.writePd c m) ∧ bit m 3 = b
          ∧ bits m 2 0 = bits (a.word (addr_PD_CTRL c)).toNat 2 0)
      ∧ (c < 64 → a.adState 72 = adOn → a.bar.held = [] → ∃ m, exec (.coreMapOut c b) s = nextAgg s (a.writePd c m) ∧ bit m 2 = b
          ∧ bit m 3 = bit (a.word (addr_PD_CTRL c)).toNat 3 ∧ bits m 1 0 = bits (a.word (addr_PD_CTRL c)).toNat 1 0)
      ∧ (64 ≤ c ∨ a.on (PD_CTRL_DRAIN c) = false ∨ a.adState c ≠ adOn ∨ a.coreIdle c = false → exec (.coreDrained c) s = nextAgg s a)
      ∧ (c < 64 → a.on (PD_CTRL_DRAIN c) = true → a.adState c = adOn → a.coreIdle c = true → a.on (PD_CTRL_MAP_OUT c) = false →
          exec (.coreDrained c) s = nextAgg s ((a.setAd c adDrained).afterDrained c))

/-! ### Resets, start-up, scans and calibrations (chapters 9, 14 and 17) -/

/-- R232, R235, R244, R252, R410, R411, R474, R478: a fatal event is charged, announced and followed by a chip reset, once its announcement has left or
200 µs have passed; it keeps the time unit, the recorder, the reset log and the firmware slots, and counts; the third within an hour keeps the
aggregator out of service. Power-on keeps the flash only. Boot stops at the first stage that fails. -/
def Obligations.FatalEventsResetsAndBoot : Prop :=
  ∀ (s : State) (code reason t n ver serial_ : Nat) (img : FlashImage) (cause_ : Nat) (i : Instr) (rev : Nat) (ser : List Byte) (cfg : FlashConfig)
    (copy addr : Nat), let a := s.agg
    let noted := fun x : Aggregator => x.recordLimited rcHealth code (leBytes 2 code ++ leBytes 4 (x.subject chipUnit))
    let struck := fun x : Aggregator => if x.hlt.resetPending.isSome then x else
      (if x.on HLT_CTRL_EN then x.charge chipUnit code 250 x.here else noted x).announceReset code reason
    let memory := addr < sramEnd ∨ hbmBase ≤ addr ∧ addr < hbmEnd
    ((i = .bridgeFatal ∨ i = .chipReset code) ∧ code = hcBridgeFatal ∧ reason = reasonOther ∨ (i = .aggWatchdog ∨ i = .chipReset code)
        ∧ code = hcAggWatchdog ∧ reason = reasonOther ∨ i = .chipReset code ∧ code = hcMemUe ∧ reason = reasonMemUe →
      exec i s = nextAgg s (struck a))
      ∧ (code = hcMemUe → reason = reasonMemUe → memory → ∃ x, exec (.memoryUncorrectable addr) s = nextAgg s (struck x)
          ∧ x.poisoned addr 1 = true ∧ x.mem = a.mem ∧ x.regs = a.regs ∧ x.hlt = a.hlt)
      ∧ (¬ memory → exec (.memoryUncorrectable addr) s = nextAgg s a)
      ∧ (code = hcCoreWakeFail → a.hlt.resetPending = none → exec (.chipReset code) s = nextAgg s ((noted a).announceReset code reasonOther))
      ∧ (code ≠ hcMemUe → code ≠ hcBridgeFatal → code ≠ hcAggWatchdog → code ≠ hcCoreWakeFail → exec (.chipReset code) s = nextAgg s a)
      ∧ (a.hlt.resetPending = none → (a.announceReset code reason).hlt.resetPending = some (code, reason, a.mono))
      ∧ (a.hlt.resetPending = none → exec .chipResetBegin s = nextAgg s a)
      ∧ (a.hlt.resetPending = some (code, reason, t) → a.announced = false → a.mono < t + 200000 → exec .chipResetBegin s = nextAgg s a)
      ∧ (a.hlt.resetPending = some (code, reason, t) → code = causeSupply → a.on PWR_SAG_WARN_NOW = true ∨ a.recd.flush.isSome = true →
          exec .chipResetBegin s = nextAgg s a)
      ∧ (a.hlt.resetPending = some (code, reason, t) → a.announced = true ∨ t + 200000 ≤ a.mono → code ≠ causeSupply → ∃ e : Aggregator,
          exec .chipResetBegin s = nextAgg s (e.resetChipNow code) ∧ e.tc = a.tc)
      ∧ (a.resetChipNow cause_).tc = a.tc ∧ (a.resetChipNow cause_).recd = a.recd ∧ (a.resetChipNow cause_).jobs = []
      ∧ (a.resetChipNow cause_).mem = [] ∧ (a.resetChipNow cause_).boot = .owed true ∧ (a.resetChipNow cause_).hlt.resetPending = none
      ∧ (a.resetChipNow cause_).hif.fw0 = a.hif.fw0 ∧ (a.resetChipNow cause_).hif.fw1 = a.hif.fw1 ∧ (a.resetChipNow cause_).led.ledgers = []
      ∧ (a.resetChipNow cause_).hlt.loop = decide (3 ≤ a.resetsInHour + 1)
      ∧ (cause_ < 2 ^ 16 → (a.resetChipNow cause_).get RST_LOG_LAST_CAUSE = cause_)
      ∧ (∃ e : Aggregator, exec (.aggPowerOn none) s = nextAgg s e ∧ e.boot = .owed false ∧ e.mem = [] ∧ e.jobs = [] ∧ e.hif.fw0 = a.hif.fw0
          ∧ e.hif.fw1 = a.hif.fw1 ∧ e.hif.fwActive = a.hif.fwActive ∧ e.tc = TimeClient.init)
      ∧ ((∀ b, a.boot ≠ .owed b) → exec (.aggBoot img) s = nextAgg s a)
      ∧ (∀ b, a.boot = .owed b → img.sfdpOk = false → exec (.aggBoot img) s = nextAgg s (a.bootStop 1 0x01))
      ∧ (∀ b, a.boot = .owed b → img.sfdpOk = true → img.mfg = none → exec (.aggBoot img) s = nextAgg s (a.bootStop 2 0x02))
      ∧ (∀ b, a.boot = .owed b → img.sfdpOk = true → img.mfg = some (rev, ser) → img.chosen = none →
          exec (.aggBoot img) s = nextAgg s (({ a.set CHIP_IDENT_REVISION rev with serial := ser }).bootStop 3 0x03))
      ∧ (∀ b, a.boot = .owed b → img.sfdpOk = true → img.mfg = some (rev, ser) → img.chosen = some (copy, cfg) → a.hif.startSlot = none →
          ∃ e : Aggregator, exec (.aggBoot img) s = nextAgg s (e.bootStop 4 0x04) ∧ e.serial = ser ∧ e.mem = a.mem)
      ∧ (∀ chip k fb, a.boot = .owed chip → img.sfdpOk = true → img.mfg = some (rev, ser) → img.chosen = some (copy, cfg) →
          a.hif.startSlot = some (k, fb) → cfg.regions.length ≤ 16 → cfg.regions.all RegionCfg.ok = true → regionsApart cfg.regions = true →
          img.memoryOk = true → img.coreMapOk = true → img.ingestOk = true → ∃ e : Aggregator, exec (.aggBoot img) s
            = nextAgg s (if chip then { e with boot := .resync a.mono } else e.bootReady false)
          ∧ e.serial = ser ∧ e.cfg = cfg ∧ e.mem = [] ∧ e.hif.fwActive = k ∧ e.get BOOT_STATUS_STAGE = 7 ∧ e.get BOOT_STATUS_RESULT = 0)
      ∧ ((a.bootStop ver serial_).boot = .stopped ∧ (ver < 16 → serial_ < 256 → (a.bootStop ver serial_).get BOOT_STATUS_STAGE = ver
          ∧ (a.bootStop ver serial_).get BOOT_STATUS_RESULT = serial_))
      ∧ ((∀ u, a.boot ≠ .resync u) → exec .bootResyncTimeout s = nextAgg s a)
      ∧ (a.boot = .resync t → a.mono < t + 10000000000 → exec .bootResyncTimeout s = nextAgg s a)
      ∧ (a.boot = .resync t → t + 10000000000 ≤ a.mono → exec .bootResyncTimeout s
          = nextAgg s ({ (a.bootStage 7 0x09).bootRecord with jobs := [] }.bootReady true))
      ∧ (8 ≤ n ∨ a.mono < storeGet 0 a.pwr.scrub n + 86400000000000 → exec (.hbmPatrolScrub n) s = nextAgg s a)
      ∧ (n < 8 → storeGet 0 a.pwr.scrub n + 86400000000000 ≤ a.mono → exec (.hbmPatrolScrub n) s
          = nextAgg s ((a.modPwr fun p => { p with scrub := tabPut p.scrub n a.mono, lastHbm := tabPut p.lastHbm (hbmGroup n) a.mono }).wakeDomain
            (hbmGroup n)))

/-- R232, R235, R249, R414 to R417, R500, R505: the scan asked for first starts on a drained core, where SCAN_PAR and the power cap allow it, and
destroys the core's state; a PASS returns the core, a FAIL is charged and followed by one further scan. Calibrations run at their intervals and
are charged where they fail. Corrected errors and replays count. A die or stack at its limit in two samples in a row sheds the load. -/
def Obligations.ScansCalibrationsAndSensors : Prop :=
  ∀ (s : State) (c n mv lane : Nat) (ok : Bool) (x : Scan) (t0 t1 t2 : Int) (st : List Int), let a := s.agg
    (a.served = true → (∀ y ∈ a.hlt.scans, y.running = true ∨ a.adState y.core ≠ adDrained) → exec .scanStart s = nextAgg s a)
      ∧ (a.served = true → max 1 (a.get HLT_CTRL_SCAN_PAR) ≤ (a.hlt.scans.filter (·.running)).length ∨ a.get PWR_CAP_CAP_W < a.powerSum + 30 →
          exec .scanStart s = nextAgg s a)
      ∧ (a.served = true → a.hlt.scans.find? (fun y => !y.running && decide (a.adState y.core = adDrained)) = some x →
          (a.hlt.scans.filter (·.running)).length < max 1 (a.get HLT_CTRL_SCAN_PAR) → a.powerSum + 30 ≤ a.get PWR_CAP_CAP_W →
          exec .scanStart s = nextAgg s ((((a.modScan x.core fun y => { y with running := true }).showPower).inc HLT_CNT1_SCANS_N).setState
            (coreUnit x.core) huScan (a.get (HU_STAT_LAST_CAUSE (coreUnit x.core)))))
      ∧ (a.served = true → a.hlt.scans.find? (fun y => decide (y.core = c) && y.running) = none → exec (.scanComplete c n) s = nextAgg s a)
      ∧ (a.served = true → a.hlt.scans.find? (fun y => decide (y.core = c) && y.running) = some x → 0 < n → x.attempt < 2 →
          exec (.scanComplete c n) s = nextAgg s (((((((a.wipeCore c).unitNotice 0x0C (coreUnit c) hcScanFail n).charge (coreUnit c) hcScanFail 250 a.here).raise
            HLT_STATUS_SCAN_FAIL).modScan c fun y => { y with attempt := 2, running := false })).showPower))
      ∧ (a.served = true → a.hlt.scans.find? (fun y => decide (y.core = c) && y.running) = some x → x.commanded = true → ∃ e : Aggregator,
          exec (.scanComplete c 0) s = nextAgg s (e.rescore (coreUnit c) (e.get (HU_STAT_LAST_CAUSE (coreUnit c)))) ∧ e.adState c = a.adState c
            ∧ (∀ y ∈ e.hlt.scans, y.core ≠ c) ∧ e.mem = memClear a.mem (sramOf c) 0x400000)
      ∧ (a.served = true → a.mono < a.pwr.calFanout + 100000000 → exec (.fanoutCalibration ok) s = nextAgg s a)
      ∧ (a.served = true → a.mono < a.pwr.calBridge + 10000000 → exec (.bridgeCalibration ok) s = nextAgg s a)
      ∧ (a.served = true → a.mono < a.pwr.calSensor + 1000000000 → exec (.sensorTrimCalibration ok) s = nextAgg s a)
      ∧ (a.served = true → a.pwr.calFanout + 100000000 ≤ a.mono → (let b := a.modPwr fun p => { p with calFanout := a.mono }
          exec (.fanoutCalibration ok) s = nextAgg s (if ok then b else b.charge chipUnit hcSramCorrected 1 b.here)))
      ∧ (a.served = true → a.pwr.calBridge + 10000000 ≤ a.mono → (let b := a.modPwr fun p => { p with calBridge := a.mono }
          exec (.bridgeCalibration ok) s = nextAgg s (if ok then b else b.charge chipUnit hcSramCorrected 1 b.here)))
      ∧ (a.served = true → a.pwr.calSensor + 1000000000 ≤ a.mono → (let b := a.modPwr fun p => { p with calSensor := a.mono }
          exec (.sensorTrimCalibration ok) s = nextAgg s (if ok then b else b.charge chipUnit hcSramCorrected 1 b.here)))
      ∧ (a.served = true → (let b := a.modPwr fun p => { p with calHbm := a.mono }
          exec (.hbmTrainingCalibration ok) s = nextAgg s (if ok then b else b.charge chipUnit hcHbmCorrected 1 b.here)))
      ∧ (exec (.memoryCorrected true n) s = nextAgg s (if n < 8 then (a.inc (HBM_CE_N_STACK n)).charge chipUnit hcHbmCorrected 1
          (a.inc (HBM_CE_N_STACK n)).here else a))
      ∧ (64 ≤ n → exec (.memoryCorrected false n) s = nextAgg s a)
      ∧ (n < 64 → ∃ e : Aggregator, exec (.memoryCorrected false n) s = nextAgg s (e.charge (coreUnit n) hcSramCorrected 1 e.here)
          ∧ storeGet 0 e.pwr.sramCe n = storeGet 0 a.pwr.sramCe n + 1 ∧ e.regs = a.regs)
      ∧ exec (.bridgeReplay 0) s = nextAgg s (a.inc BRG_REPLAY_N_B01) ∧ exec (.bridgeReplay 1) s = nextAgg s (a.inc BRG_REPLAY_N_BI0)
      ∧ exec (.bridgeReplay 2) s = nextAgg s (a.inc BRG_REPLAY_N_BI1) ∧ (2 < n → exec (.bridgeReplay n) s = nextAgg s a)
      ∧ (lane < 32 → lane ∉ a.pwr.lanesDown → exec (.laneTrainingFailure lane) s = nextAgg s ((a.modPwr fun p =>
            { p with lanesDown := p.lanesDown ++ [lane] }).report "LANE-TRAINING-FAILED" [lane]))
      ∧ (32 ≤ lane ∨ lane ∈ a.pwr.lanesDown → exec (.laneTrainingFailure lane) s = nextAgg s a)
      ∧ (t0 < 1840 → t1 < 1840 → t2 < 1840 → (∀ t ∈ st, t < 1680) → ∃ e : Aggregator, exec (.thermalSample (t0, t1, t2) st mv) s = nextAgg s e
          ∧ e.temp = max t0 (max t1 t2) ∧ e.mv = mv ∧ e.pwr.hot = [] ∧ e.pwr.thermtrip = a.pwr.thermtrip ∧ e.mem = a.mem)
      ∧ (1840 ≤ t0 → 0 ∈ a.pwr.hot → a.pwr.thermtrip = false → a.pwr.shed = false → ∃ e : Aggregator,
          exec (.thermalSample (t0, t1, t2) st mv) s = nextAgg s e ∧ e.pwr.thermtrip = true ∧ e.pwr.shed = true ∧ ∀ k < 64, e.adState k ≠ adOn)

/-! ### Host queues and commands (chapter 15) -/

/-- R19, R288, R289, R294, R325, R346, R347, R362, R373, R383 to R392, R405, R407, R409, R411, R412, R419, R423, R427, R431, R435 to R437, R439,
R442, R449, R450, R489: a row of a host command starts the accepted command of its serial number, where it is of that kind and nothing before
it stands in its way; without its data buffer it ends INVALID-FIELD or DATA-ERROR, else it has its effect and completes, or waits for its
end. An image slot is freed only while no instance binds it; freeing a bound one is refused and leaves it. -/
def Obligations.HostCommandsStartOnceAndComplete : Prop :=
  ∀ (s : State) (i : Instr) (n : Nat) (ok : Bool) (c : Command) (want : Command → Bool) (act : List Byte → CmdRes × Aggregator)
    (l : List (Nat × Nat)), let a := s.agg
    let data := if c.dataIn = false then [] else if c.mgmt = true then c.mdata else readSegs a.host l
    let row := (i = .identify n ok ∧ want = isOp opIdentify ∧ act = fun _ => (outData c.dlen a.identifyData, a))
      ∨ (i = .getLogRecorder n ok ∧ want = isSub opGetLog 1 ∧ act = fun _ => (.done csSuccess 0 ((a.recorderLog.drop (le c.args 0 8)).take c.dlen), a))
      ∨ (i = .getLogNotices n ok ∧ want = isSub opGetLog 2 ∧ act = fun _ => (.done csSuccess 0 ((a.noticeLog.drop (le c.args 0 8)).take c.dlen), a))
      ∨ (i = .getLogFwSlots n ok ∧ want = isSub opGetLog 4 ∧ act = fun _ => (.done csSuccess 0 ((a.fwLog.drop (le c.args 0 8)).take c.dlen), a))
      ∨ (i = .getLogPools n ok ∧ want = isSub opGetLog 5 ∧ act = fun _ => (.done csSuccess 0 ((a.poolLog.drop (le c.args 0 8)).take c.dlen), a))
      ∨ (i = .getLogQueues n ok ∧ want = isSub opGetLog 6 ∧ act = fun _ => (.done csSuccess 0 ((a.queueLog.drop (le c.args 0 8)).take c.dlen), a))
      ∨ (i = .getLogSampling n ok ∧ want = isSub opGetLog 3 ∧ act = fun _ => match a.samplingLog c.job c.gen with
          | some x => (.done csSuccess 0 ((x.drop (le c.args 0 8)).take c.dlen), a)
          | none => (.fail csNotArmed, a))
      ∨ (i = .getFeature n ok ∧ want = isOp opGetFeature ∧ c.subop = 0x30 ∧ act = fun _ =>
          (outData c.dlen (leBytes 2 (a.get HLT_BUDGET_GRANT) ++ zeros 2 ++ leBytes 4 (a.get HLT_BUDGET_SPARES)), a))
      ∨ (i = .getFeature n ok ∧ want = isOp opGetFeature ∧ c.subop = 0x22 ∧ act = fun _ => match a.ownJob c.job c.gen with
          | some (ctx, _) => (outData c.dlen (leBytes 8 (a.word (addr_LJ_REF0 ctx)).toNat ++ leBytes 8 (a.word (addr_LJ_REF1 ctx)).toNat), a)
          | none => (.fail csNotArmed, a))
      ∨ (i = .getFeature n ok ∧ want = isOp opGetFeature ∧ c.subop = 0x01 ∧ act = fun _ => match a.queuePair (le c.args 0 1) with
          | some q => (outData c.dlen (leBytes 1 (le c.args 0 1) ++ leBytes 1 q.sqLog ++ leBytes 1 q.cqLog ++ leBytes 1 q.cqid
              ++ leBytes 1 (b2n q.priv) ++ leBytes 1 q.vector ++ zeros 2 ++ leBytes 8 q.sqBase ++ leBytes 8 q.cqBase), a)
          | none => (.fail csInvalidField, a))
      ∨ (i = .queueCreate n ok ∧ want = isSub opSetFeature 0x01 ∧ act = fun _ => a.queueCreate c.args)
      ∨ (i = .queueDelete n ok ∧ want = isSub opSetFeature 0x02 ∧ act = fun _ => a.queueDelete c.args)
      ∨ (i = .cancel n ok ∧ want = isSub opSetFeature 0x03 ∧ act = fun _ => a.cancelTag n c.args)
      ∨ (i = .detImageLoad n ok ∧ want = isSub opSetFeature 0x10 ∧ act = fun _ => a.detImageLoad (le c.args 0 8))
      ∨ (i = .detImageFree n ok ∧ want = isSub opSetFeature 0x11 ∧ act = fun _ => a.detImageFree (le c.args 0 1))
      ∨ (i = .detUnbind n ok ∧ want = isSub opSetFeature 0x13 ∧ act = fun _ => a.detUnbind c.job c.gen (le c.args 0 1))
      ∨ (i = .ledgerSpillNow n ok ∧ want = isSub opSetFeature 0x20 ∧ act = fun _ => a.spillFeature c)
      ∨ (i = .ledgerImport n ok ∧ want = isSub opSetFeature 0x21 ∧ act = fun _ => a.ledgerImport c.args)
      ∨ (i = .knellConfirm n ok ∧ want = isSub opSetFeature 0x31 ∧ act = fun _ => (.ok, a.knellConfirm (le c.args 0 2)))
      ∨ (i = .knellRelease n ok ∧ want = isSub opSetFeature 0x32 ∧ act = fun _ => (.ok, a.knellRelease (le c.args 0 2)))
      ∨ (i = .scan n ok ∧ want = isSub opSetFeature 0x34 ∧ act = fun _ => a.scanFeature c.args)
      ∨ (i = .resetLoopClear n ok ∧ want = isSub opSetFeature 0x35 ∧ act = fun _ => (.ok, a.modHlt fun h => { h with loop := false }))
      ∨ (i = .detBind n ok ∧ want = isSub opSetFeature 0x12 ∧ act = fun _ => if le c.args 2 6 ≠ 0 then (.fail csInvalidField, a)
          else a.detBind c.job c.gen (le c.args 0 1) (le c.args 1 1) (le c.args 8 8))
      ∨ (i = .healthBudget n ok ∧ want = isSub opSetFeature 0x30 ∧ act = fun _ => if le c.args 2 2 ≠ 0 then (.fail csInvalidField, a)
          else (.ok, a.writeBudget (le c.args 0 2) (le c.args 4 4)))
      ∨ (i = .broadcastIssue n ok ∧ want = isSub opSetFeature 0x18 ∧ act = fun d => match a.ownJob c.job c.gen with
          | some (ctx, j) => a.broadcastIssue ctx j c.args d
          | none => (.fail csNotArmed, a))
      ∨ (i = .ledgerReference n ok ∧ want = isSub opSetFeature 0x22 ∧ act = fun _ => match a.ownJob c.job c.gen with
          | some (ctx, _) => a.ledgerReference ctx c.args
          | none => (.fail csNotArmed, a))
      ∨ (i = .swap n ok ∧ want = isSub opSetFeature 0x33 ∧ act = fun _ => match a.ownJob c.job c.gen with
          | some (ctx, j) => a.swap n c.gtag ctx j c.args
          | none => (.fail csNotArmed, a))
      ∨ (i = .firmwareDownload n ok ∧ want = isOp opFwDownload ∧ act = fun d => if le c.args 0 4 % 4096 ≠ 0 ∨ 1048576 < c.dlen ∨ c.dlen = 0
            ∨ d.length ≠ c.dlen ∨ 67108864 < le c.args 0 4 + c.dlen then (.fail csInvalidField, a)
          else (.ok, a.modHif fun h => { h with fwStaging := patch (if le c.args 0 4 = 0 then [] else padTo (le c.args 0 4) a.hif.fwStaging) (le c.args 0 4) d }))
      ∨ (i = .fwCommit n ok ∧ want = isSub opFwCommit 0 ∧ a.on PWR_SAG_WRITES_STOPPED = false ∧ act = fun _ =>
          if 1 < le c.args 0 1 then (.fail csInvalidField, a) else if Config.fwImageOk a.hif.fwStaging then (.ok, (a.fwCommit (le c.args 0 1)).2) else (.fail csFwInvalid, a))
      ∨ (i = .fwCommitActivate n ok ∧ want = isSub opFwCommit 1 ∧ a.on PWR_SAG_WRITES_STOPPED = false ∧ act = fun _ =>
          if 1 < le c.args 0 1 then (.fail csInvalidField, a) else if Config.fwImageOk a.hif.fwStaging then (a.fwCommit (le c.args 0 1)).2.fwHold (le c.args 0 1) else (.fail csFwInvalid, a))
      ∨ (i = .fwActivate n ok ∧ want = isSub opFwCommit 2 ∧ a.on PWR_SAG_WRITES_STOPPED = false ∧ act = fun _ =>
          if 1 < le c.args 0 1 then (.fail csInvalidField, a) else (.wait (.activate (le c.args 0 1)), a.set HI_STATUS_FW_HOLD 1))
      ∨ (i = .flush n ok ∧ want = isOp opFlush ∧ act = fun _ => (.wait (.flush (bit c.flags 0)), a))
      ∨ (i = .query n ok ∧ want = isOp opQuery ∧ act = fun _ => match a.findJob c.job c.gen with
          | none => (.fail csNotArmed, a)
          | some (_, j) => (let x := j.readEpoch (le c.args 0 8 * nsU + le c.args 8 2)
              (if c.dlen < x.2.length then .done csTooSmall x.2.length [] else .done (0x20 + x.1) 0 x.2, a)))
      ∨ (i = .readLedgerRecords n ok ∧ want = isSub opReadLedger qkRecords ∧ act = fun d => a.readLedger qkRecords c.job c.gen c.dlen c.args d)
      ∨ (i = .readLedgerSummary n ok ∧ want = isSub opReadLedger qkSummary ∧ act = fun d => a.readLedger qkSummary c.job c.gen c.dlen c.args d)
      ∨ (i = .readLedgerEpochs n ok ∧ want = isSub opReadLedger qkEpochs ∧ act = fun d => a.readLedger qkEpochs c.job c.gen c.dlen c.args d)
      ∨ (i = .readLedgerVerdicts n ok ∧ want = isSub opReadLedger qkVerdicts ∧ act = fun d => a.readLedger qkVerdicts c.job c.gen c.dlen c.args d)
      ∨ (i = .readLedgerCompare n ok ∧ want = isSub opReadLedger qkCompare ∧ act = fun d => a.readLedger qkCompare c.job c.gen c.dlen c.args d)
      ∨ (i = .readLedgerLastClean n ok ∧ want = isSub opReadLedger qkLastClean ∧ act = fun d => a.readLedger qkLastClean c.job c.gen c.dlen c.args d)
      ∨ (i = .readLedgerManifest n ok ∧ want = isSub opReadLedger qkManifest ∧ act = fun d => a.readLedger qkManifest c.job c.gen c.dlen c.args d)
      ∨ (i = .readTrace n ok ∧ want = isOp opReadTrace ∧ 16384 ≤ le c.args 0 2 % 32768 ∧ act = fun _ => (.fail csInvalidField, a))
      ∨ (i = .armJob n ok ∧ want = isOp opArmJob ∧ act = fun d => if d.length ≠ c.dlen then (.fail csInvalidField, a)
          else a.armJob n c.gtag c.job c.gen d)
      ∨ (i = .retireJob n ok ∧ want = isOp opRetireJob ∧ act = fun _ => a.retireJob n c.gtag c.job c.gen)
    let found := row ∧ a.command n = some c ∧ want c = true ∧ a.mayStart c = true
    let go := a.command n = some c ∧ a.mayStart c = true ∧ a.buffer c = some l ∧ (c.mgmt = true ∨ c.dlen = 0 ∨ ok = true)
    let feature (k : Nat) := go ∧ c.op = opSetFeature ∧ c.subop = k
    let ends (e : Aggregator) := nextAgg s (e.finish c csSuccess 0 [])
    let byte (k : Nat) := le c.args k 1
    let asks (kind : Nat) (g : Ledger) (res : QRes) := let rs := atCut g.counts g.recs []
      (i = .readLedgerRecords n ok ∧ kind = 1 ∧ res = g.queryRecords rs c.args false)
      ∨ (i = .readLedgerSummary n ok ∧ kind = 2 ∧ res = g.querySummary rs c.args false)
      ∨ (i = .readLedgerEpochs n ok ∧ kind = 3 ∧ res = g.queryEpochs rs c.args false)
      ∨ (i = .readLedgerVerdicts n ok ∧ kind = 4 ∧ res = g.queryVerdicts rs c.args false)
      ∨ (i = .readLedgerCompare n ok ∧ kind = 5 ∧ res = a.queryCompare c.args data [])
      ∨ (i = .readLedgerLastClean n ok ∧ kind = 6 ∧ ∃ ctx j, a.findJob c.job c.gen = some (ctx, j) ∧ res = j.queryLastClean)
      ∨ (i = .readLedgerManifest n ok ∧ kind = 7 ∧ res = g.queryManifest rs c.args false)
    a.served = true →
    (row → a.command n = none → exec i s = nextAgg s a)
      ∧ (row → a.command n = some c → want c = false ∨ a.mayStart c = false → exec i s = nextAgg s a)
      ∧ (found → a.buffer c = none → exec i s = nextAgg s (a.post c csInvalidField 0 0))
      ∧ (found → a.buffer c = some l → c.mgmt = false → c.dlen ≠ 0 → ok = false →
          exec i s = nextAgg s ((a.raise HI_STATUS_DATA_ERR).post c csDataError 0 0))
      ∧ (∀ st r out e, found → a.buffer c = some l → c.mgmt = true ∨ c.dlen = 0 ∨ ok = true → act data = (.done st r out, e) →
          exec i s = nextAgg s (e.finish c st r out))
      ∧ (∀ w e, found → a.buffer c = some l → c.mgmt = true ∨ c.dlen = 0 ∨ ok = true → act data = (.wait w, e) →
          exec i s = nextAgg s (e.setWait n w))
      ∧ (go → c.op = opIdentify → a.identifyData.length ≤ c.dlen →
          exec (.identify n ok) s = nextAgg s (a.finish c csSuccess 0 a.identifyData))
      ∧ (feature 0x11 → byte 0 < 64 → (a.image (byte 0)).isSome = true → (∃ e ∈ a.det.instances, e.2.slot = byte 0) →
          exec (.detImageFree n ok) s = nextAgg s (a.finish c csRefused 0 []))
      ∧ (feature 0x11 → byte 0 < 64 → (a.image (byte 0)).isSome = true → (∀ e ∈ a.det.instances, e.2.slot ≠ byte 0) →
          exec (.detImageFree n ok) s = ends (a.modDet fun x => { x with images := tabDel x.images (byte 0) }))
      ∧ (∀ img k, feature 0x10 → a.imageAt (le c.args 0 8) = some img → a.imageStatus img = (ilLoaded, k) → exec (.detImageLoad n ok) s
          = nextAgg s (((a.modDet fun x => { x with images := tabPut x.images k img, lastLoad := tabPut x.lastLoad k ilLoaded }).mirrorImage
              img).finish c csSuccess (k * 65536) []))
      ∧ (∀ ctx j m k inst, feature 0x12 → le c.args 2 6 = 0 → a.ownJob c.job c.gen = some (ctx, j) → j.state ≠ .quarantine →
          a.image (byte 0) = some m → le c.args 8 8 ≠ 0 → byte 1 ≤ 3 → (∀ x < 64, bit (le c.args 8 8) x = true → a.corePresent x = true) →
          (∀ e ∈ a.det.instances, e.2.ctx = ctx → e.2.bind ≠ byte 1) → a.bindPlan ctx (byte 0) (byte 1) (le c.args 8 8) m = some (k, inst) →
          exec (.detBind n ok) s = ends ((a.installInst k inst m).mirrorJob ctx))
      ∧ (∀ ctx j k inst, feature 0x13 → a.ownJob c.job c.gen = some (ctx, j) →
          a.det.instances.find? (fun e => decide (e.2.ctx = ctx ∧ e.2.bind = byte 0)) = some (k, inst) → a.runningOf k = true →
          exec (.detUnbind n ok) s = ends ((a.modInst k fun x => { x with stopping := true }).mirrorJob ctx))
      ∧ (∀ ctx j k inst, feature 0x13 → a.ownJob c.job c.gen = some (ctx, j) →
          a.det.instances.find? (fun e => decide (e.2.ctx = ctx ∧ e.2.bind = byte 0)) = some (k, inst) → a.runningOf k = false →
          exec (.detUnbind n ok) s = ends (((a.modInst k fun x => { x with stopping := true }).removeInst k).mirrorJob ctx))
      ∧ (feature 0x01 → 0 < byte 0 → byte 0 < 64 → byte 3 < 64 → 4 ≤ byte 1 → byte 1 ≤ 12 → 4 ≤ byte 2 → byte 2 ≤ 12 → byte 4 ≤ 1 → 0 < byte 5 →
          byte 5 < 64 → le c.args 6 2 = 0 → le c.args 8 8 % 4096 = 0 → le c.args 16 8 % 4096 = 0 → a.queuePair (byte 0) = none →
          a.cq (byte 3) = none → exec (.queueCreate n ok) s = ends ((a.setCq (byte 3) ⟨byte 2, le c.args 16 8, 0, 0, true⟩).setQueue (byte 0)
            ⟨byte 1, byte 2, byte 3, decide (byte 4 = 1), byte 5, le c.args 8 8, le c.args 16 8, 0, 0, false⟩))
      ∧ (∀ q, feature 0x02 → 0 < byte 0 → byte 0 < 64 → a.queuePair (byte 0) = some q → (∀ d ∈ a.hif.commands, d.qid ≠ byte 0) →
          ∃ e : Aggregator, exec (.queueDelete n ok) s = ends e ∧ e.hif.queues = tabDel a.hif.queues (byte 0)
            ∧ (∀ k, k ≠ q.cqid → tabGet e.hif.cqs k = tabGet a.hif.cqs k) ∧ e.mem = a.mem ∧ e.jobs = a.jobs)
      ∧ (feature 0x03 → byte 0 ≤ 1 → byte 1 = 0 → le c.args 2 2 = 0 → exec (.cancel n ok) s = ends a)
      ∧ (∀ d, feature 0x03 → byte 0 ≤ 1 → byte 1 = 0 → le c.args 2 2 ≠ 0 → a.hif.commands.filter (fun x => decide (x.side = byte 0
            ∧ x.gtag = le c.args 2 2 ∧ x.serial ≠ n ∧ x.op ≠ opFlush ∧ x.wait ≠ .dead)) = [d] → d.wait = .queued →
          exec (.cancel n ok) s = ends ((a.dropFrames fun x y => decide (x % 2 = byte 0 ∧ y = le c.args 2 2)).endEarly csCancelled d))
      ∧ (∀ ctx j, feature 0x18 → a.ownJob c.job c.gen = some (ctx, j) → 1 ≤ byte 0 → byte 0 ≤ 6 → data.length ≤ 262144 → j.tree.level = 0 →
          j.state = .armed → byte 0 ≠ 2 ∨ j.pMin ≤ be data 10 8 → exec (.broadcastIssue n ok) s
            = nextAgg s ((a.issueBcast ctx (byte 0) data).2.setWait n (.roll ctx (a.issueBcast ctx (byte 0) data).1)))
      ∧ (∀ ctx j, feature 0x18 → a.ownJob c.job c.gen = some (ctx, j) → byte 0 = 2 → data.length ≤ 262144 → j.tree.level = 0 →
          j.state = .armed → be data 10 8 < j.pMin → exec (.broadcastIssue n ok) s = nextAgg s (a.finish c csRefused 1 []))
      ∧ (∀ g, feature 0x20 → a.ledger c.job c.gen (a.ledgerHome c.job c.gen) = some g → g.isSealed (le c.args 0 6) = true →
          exec (.ledgerSpillNow n ok) s = ends (a.spillNow c.job c.gen g.home (le c.args 0 6)))
      ∧ (∀ o : ObjName, feature 0x21 → o = ⟨le c.args 0 2, le c.args 16 4, le c.args 20 1, le c.args 2 6, le c.args 8 2⟩ → le c.args 10 6 = 0 →
          o.agg < 4096 → exec (.ledgerImport n ok) s = nextAgg s ((a.askObjects [o]).setWait n (.fetch [o] [] [] a.mono)))
      ∧ (∀ ctx j, feature 0x22 → a.ownJob c.job c.gen = some (ctx, j) → bits (le c.args 0 8) 53 52 < 2 → bits (le c.args 0 8) 62 54 = 0 →
          bits (le c.args 8 8) 63 48 = 0 → exec (.ledgerReference n ok) s = ends (((a.setWord (addr_LJ_REF0 ctx)
            (BitVec.ofNat 64 (le c.args 0 8))).setWord (addr_LJ_REF1 ctx) (BitVec.ofNat 64 (le c.args 8 8))).mirrorJob ctx))
      ∧ (∀ ctx j out inn ts, feature 0x33 → out = le c.args 0 4 → inn = le c.args 4 4 → ts = le c.args 8 8 * 65536 + le c.args 16 2 →
          a.ownJob c.job c.gen = some (ctx, j) → a.job ctx = some j → out / 256 = a.id → inn / 256 = a.id → out ∈ j.dieUnits →
          a.tc.now + 1000000 * 65536 ≤ ts → (∀ e ∈ a.jobs, inn ∉ e.2.dieUnits) → a.byPartner inn = false → a.byPartner out = false →
          ∃ (e : Aggregator) (x : JobCtx), exec (.swap n ok) s = ends (e.mirrorJob ctx) ∧ e.job ctx = some x ∧ e.mem = a.mem
            ∧ x.swaps = j.swaps ++ [⟨out, inn, ts, false⟩] ∧ x.dieUnits = j.dieUnits ++ [inn] ∧ (a.armable inn = true → x.failed = j.failed))
      ∧ (feature 0x34 → byte 0 < 64 → a.corePresent (byte 0) = true → exec (.scan n ok) s = ends (a.requestScan (byte 0)))
      ∧ (∀ kind g res out, asks kind g res → go → c.op = opReadLedger → c.subop = kind → queryArgsOk kind c.args = true → a.fetching ≤ 16 →
          a.ledger c.job c.gen (a.ledgerHome c.job c.gen) = some g → a.queryNeeds kind c.job c.gen c.args = [] →
          48 + (res.items.headD []).length ≤ c.dlen → res.data kind c.dlen (a.cuts g g.counts).1 (a.cuts g g.counts).2 = .done csSuccess 0 out →
          exec i s = nextAgg s (a.finish c csSuccess 0 out))
      ∧ (∀ kind g res, asks kind g res → go → c.op = opReadLedger → c.subop = kind → queryArgsOk kind c.args = true → a.fetching ≤ 16 →
          a.ledger c.job c.gen (a.ledgerHome c.job c.gen) = some g → a.queryNeeds kind c.job c.gen c.args ≠ [] →
          exec i s = nextAgg s ((a.askObjects (a.queryNeeds kind c.job c.gen c.args)).setWait n
            (.fetch (a.queryNeeds kind c.job c.gen c.args) g.recs g.counts a.mono)))
      ∧ (∀ (res : QRes) kind h p, 48 + (res.items.headD []).length ≤ c.dlen → ∃ out, res.data kind c.dlen h p = .done csSuccess 0 out
          ∧ out.length ≤ c.dlen)
      ∧ (∀ r, go → c.op = opReadTrace → le c.args 0 2 % 32768 < 16384 →
          a.heldFor c.qid (le c.args 0 2 % 32768 + if bit (le c.args 0 2) 15 then 16384 else 0) = [] →
          r = 2 ^ 32 * (Config.nextPseq a.free).toNat → exec (.readTrace n ok) s
            = nextAgg s ({ a with free := a.free + 1 }.finish c csSuccess r []))
      ∧ (∀ x r, go → c.op = opReadTrace → le c.args 0 2 % 32768 < 16384 →
          a.heldFor c.qid (le c.args 0 2 % 32768 + if bit (le c.args 0 2) 15 then 16384 else 0) = [x] → x.2.len ≤ c.dlen →
          a.poisoned x.2.addr x.2.len = false → r = 1 + 2 ^ 32 * (Config.nextPseq a.free).toNat → exec (.readTrace n ok) s
            = nextAgg s ((({ a with free := a.free + 1 } : Aggregator).freeHeld c.qid x).finish c csSuccess r (memBytes a.mem x.2.addr x.2.len)))
      ∧ (∀ ctx, go → c.op = opArmJob → data.length = c.dlen → a.armRefusal c.job c.gen data = none → a.freeCtx = some ctx →
          (armDies data).filter a.armable ≠ [] → ∃ (e : Aggregator) (x : JobCtx), exec (.armJob n ok) s = nextAgg s (e.setWait n (.arm ctx
              ((armDies data).filter a.armable).length ((armDies data).filter fun d => !a.armable d).length))
            ∧ e.job ctx = some x ∧ x.state = .arming ∧ x.job = c.job ∧ x.gen = c.gen ∧ x.dieUnits = armDies data ∧ x.tree = readTree data
            ∧ x.failed = (armDies data).filter (fun d => !a.armable d) ∧ (e.ledger c.job c.gen a.id).isSome = true ∧ e.mem = a.mem)
      ∧ (∀ ctx j, go → c.op = opRetireJob → a.ownJob c.job c.gen = some (ctx, j) → a.job ctx = some j → j.state = .armed →
          ∃ (e : Aggregator) (x : JobCtx), exec (.retireJob n ok) s = nextAgg s (e.setWait n (if j.dieUnits.filter a.serves = [] then .drain ctx
              else .retire ctx (j.dieUnits.filter a.serves).length))
            ∧ e.job ctx = some x ∧ x.state = .retiring ∧ x.drainAt = (if j.dieUnits.filter a.serves = [] then some a.mono else none)
            ∧ x.dieUnits = j.dieUnits ∧ e.mem = a.mem)

/-- R418, R419, R431 to R433, R436, R439, R440, R442, R474, Tables 15-4, 15-7: a doorbell inside the ring moves the tail or the head, another
disables the queue; commands are fetched one a turn, the admin queue first, none while an activation holds fetching or a Reset is owed; a wrong opcode, privilege
or SUBOP ends a command at once; a budget that has run out ends it BUDGET-EXCEEDED. A completion goes to the tail of its ring with the phase
bit, which turns at the wrap. An activation proceeds once all before it is complete, and its firmware is active or reverted within 400 ms. -/
def Obligations.QueuesAcceptCompleteAndReset : Prop :=
  ∀ (s : State) (q v n head slot t : Nat) (x : QueuePair) (y : CqState) (c : Command) (priv all : Bool) (entry : List Byte), let a := s.agg
    let c0 : Command := ⟨2 * a.hif.serial + b2n (decide (q = mgmtQid)), q, head, entry, [], a.mono, .queued⟩
    let b := a.modHif fun h => { h with serial := h.serial + 1 }
    let noArm := ∀ d ∈ a.hif.commands, ∀ ctx left failed, d.wait ≠ .arm ctx left failed
    a.served = true →
    (a.queuePair q = none → exec (.sqDoorbell q v) s = nextAgg s a)
      ∧ (a.queuePair q = some x → x.disabled = true → exec (.sqDoorbell q v) s = nextAgg s a)
      ∧ (a.queuePair q = some x → x.disabled = false → v < 2 ^ x.sqLog → ringDist (2 ^ x.sqLog) x.sqHead x.sqTail
            + ringDist (2 ^ x.sqLog) x.sqTail v < 2 ^ x.sqLog → exec (.sqDoorbell q v) s = nextAgg s (a.setQueue q { x with sqTail := v }))
      ∧ (a.queuePair q = some x → x.disabled = false → 2 ^ x.sqLog ≤ v → exec (.sqDoorbell q v) s
          = nextAgg s (((a.disableQueue q x).inc HI_CNT_DB_ERR_N).raise HI_STATUS_DB_ERR))
      ∧ (a.cq q = none → exec (.cqDoorbell q v) s = nextAgg s a)
      ∧ (a.cq q = some y → v < 2 ^ y.log → ringDist (2 ^ y.log) y.head v ≤ ringDist (2 ^ y.log) y.head y.tail →
          exec (.cqDoorbell q v) s = nextAgg s (a.setCq q { y with head := v }))
      ∧ (a.cq q = some y → 2 ^ y.log ≤ v → (∀ k < 64, ∀ p, a.queuePair k = some p → p.cqid = q → p.disabled = true) →
          exec (.cqDoorbell q v) s = nextAgg s a)
      ∧ (a.on HI_STATUS_FW_HOLD = true ∨ (∃ d ∈ a.hif.commands, d.op = opReset) → exec .commandFetch s = nextAgg s a)
      ∧ (a.recovery = false → a.nextQueue = none → exec .commandFetch s = nextAgg s a)
      ∧ (a.on HI_STATUS_FW_HOLD = false → a.resetOwed = false → a.recovery = false → a.nextQueue = some 0 → a.queuePair 0 = some x → exec .commandFetch s
          = nextAgg s ((a.setQueue 0 { x with sqHead := (x.sqHead + 1) % 2 ^ x.sqLog }).accept 0 ((x.sqHead + 1) % 2 ^ x.sqLog) true
              (memBytes a.host (x.sqBase + 64 * x.sqHead) 64) []))
      ∧ (a.fetchable 0 = true → a.nextQueue = some 0)
      ∧ (a.hif.commands = [] → c0.op ∉ opcodes → a.accept q head priv entry [] = b.post c0 csInvalidOpcode 0 0)
      ∧ (a.hif.commands = [] → opPrivileged c0.op = true → priv = false → a.accept q head priv entry [] = b.post c0 csPrivilege 0 0)
      ∧ (a.hif.commands = [] → c0.op ∈ opcodes → opPrivileged c0.op = false ∨ priv = true → subopOk c0.op c0.subop = false ∨ c0.reservedOk = false →
          a.accept q head priv entry [] = b.post c0 csInvalidField 0 0)
      ∧ (a.hif.commands = [] → c0.op ∈ opcodes → opPrivileged c0.op = false ∨ priv = true → subopOk c0.op c0.subop = true → c0.reservedOk = true →
          a.recovery = false → (a.accept q head priv entry []).hif.commands = [c0])
      ∧ (∀ st r m, c.mgmt = false → a.queuePair c.qid = some x → a.cq x.cqid = some y → ∃ e : Aggregator, a.post c st r m = e
          ∧ e.host = memPut a.host (y.base + 32 * y.tail) (completionBytes c.cid c.qid (b2n y.phase) c.head st r m)
          ∧ e.hif.msix = a.hif.msix ++ [x.vector] ∧ (∀ d ∈ e.hif.commands, d.serial ≠ c.serial)
          ∧ tabGet e.hif.cqs x.cqid = some { y with tail := if y.tail + 1 = 2 ^ y.log then 0 else y.tail + 1,
                                                      phase := if y.tail + 1 = 2 ^ y.log then !y.phase else y.phase })
      ∧ (a.command n = none → exec (.commandBudgetExpiry n) s = nextAgg s a ∧ exec (.flushComplete n) s = nextAgg s a
          ∧ exec (.resetInterface n) s = nextAgg s a ∧ exec (.resetChip n) s = nextAgg s a)
      ∧ (a.command n = some c → c.op = opFlush ∨ c.wait = .dead ∨ a.mono < c.started + a.budgetNs c →
          exec (.commandBudgetExpiry n) s = nextAgg s a)
      ∧ (a.command n = some c → c.op ≠ opFlush → c.wait = .queued → c.started + a.budgetNs c ≤ a.mono →
          exec (.commandBudgetExpiry n) s = nextAgg s ((a.dropFrames fun m _ => decide (m = c.serial)).post c csBudget 0 0))
      ∧ (a.command n = some c → c.wait = .flush all → a.hif.commands.takeWhile (fun d => decide (d.serial ≠ n)) = [] →
          exec (.flushComplete n) s = nextAgg s (a.finish c csSuccess 0 []))
      ∧ (a.command n = some c → c.op = opReset → c.subop = 0 → c.mgmt = true → exec (.resetInterface n) s = nextAgg s
          (((a.abortCommands (fun d => !d.mgmt && decide (d.serial ≠ n)) true).deleteQueues).post c csSuccess 0 0))
      ∧ (a.command n = some c → c.op ≠ opReset ∨ c.subop ≠ 1 → exec (.resetChip n) s = nextAgg s a)
      ∧ (a.command n = some c → c.op = opReset → c.subop = 1 → noArm → ∃ e : Aggregator, exec (.resetChip n) s = nextAgg s (e.announceReset 0 reasonCommanded)
          ∧ e.tc = a.tc ∧ e.jobs = a.jobs)
      ∧ (a.activation = none → exec .fwActivationProceed s = nextAgg s a ∧ exec .fwReady s = nextAgg s a ∧ exec .fwReadyTimeout s = nextAgg s a)
      ∧ (a.activation = some (c, slot) → a.hif.commands.takeWhile (fun d => decide (d.serial ≠ c.serial)) = [] → a.paused = false →
          exec .fwActivationProceed s = nextAgg s (if a.hif.fwValid slot then a.modHif fun h => { h with fwStart := some (slot, a.mono) }
            else a.fwResume c csFwEmpty))
      ∧ (∀ k, a.activation = some (c, slot) → a.hif.fwStart = some (k, t) → a.mono < t + 400000000 → exec .fwReady s = nextAgg s
            ((((a.modHif fun h => { h with fwActive := slot }).set HI_STATUS_FW_SLOT slot).set BOOT_STATUS_FW_SLOT slot).fwResume c csSuccess)
          ∧ exec .fwReadyTimeout s = nextAgg s a)
      ∧ (∀ k, a.activation = some (c, slot) → a.hif.fwStart = some (k, t) → t + 400000000 ≤ a.mono →
          exec .fwReady s = nextAgg s a ∧ exec .fwReadyTimeout s = nextAgg s (a.fwResume c csFwReverted))
      ∧ (exec .flr s = nextAgg s (a.abortCommands (fun d => !d.mgmt) true).deleteQueues)
      ∧ (noArm → ∃ e : Aggregator, exec .pcieConventionalReset s = nextAgg s e ∧ e.hif.queues = [] ∧ e.hif.cqs = [] ∧ e.hif.dma = []
          ∧ (∀ d ∈ e.hif.commands, d.mgmt = true) ∧ e.get HI_ASQ_BASE_BASE = 0 ∧ e.on HI_STATUS_RESET_LOST = true ∧ e.jobs = a.jobs
          ∧ e.mem = a.mem)

/-! ### Capsules, DMA channels and buffer pools (chapter 15) -/

/-- R428 to R430, R444 to R448, R450, Tables 15-3, 15-15, 15-16: a capsule from the configured controller is acknowledged each time and taken
once; a command that is whole joins the management queue; a capsule is sent again every 10 ms, at most 8 times, an EVENT until it is
acknowledged. A DMA channel starts at its first descriptor or goes on where it stopped, runs a well formed descriptor, and ends, stops or faults.
A pool gives the lowest buffer that is free, and only the present owner gives or frees one. -/
def Obligations.CapsulesDmaChannelsAndBufferPools : Prop :=
  ∀ (s : State) (src mseq n x pool next actor buf moved m : Nat) (l : List Byte) (msg : MctpMsg) (c : CapsuleOut) (d : DmaDesc), let a := s.agg
    let sane (k : Nat) := src = a.cfg.oobCtl ∧ be l 0 1 = 1 ∧ be l 1 1 = k ∧ be l 16 2 = l.length - 24 ∧ be l 16 2 ≤ 1400
    let seen := (a.ackCapsule (be l 4 4)).modHif fun h =>
      { h with capsSeen := (a.hif.capsSeen ++ [be l 4 4]).drop (a.hif.capsSeen.length + 1 - 1024) }
    let tag := be l 8 4
    let bar (k : Nat) := a.adState k = adOn ∧ a.bar.held = []
    let st := a.get (DMA_STAT_STATE n)
    let ph := ((a.set PH_OP_POOL pool).set PH_OP_NEW_OWNER next).set PH_OP_OWNER actor
    let op (k : Nat) := bits m 63 60 = k ∧ bits m 55 44 = pool ∧ bits m 31 16 = next ∧ bits m 15 0 = actor
    (a.oobServed = true → l.length ≠ 88 ∨ src ≠ a.cfg.oobCtl → exec (.capsuleSubmitRx src l) s = nextAgg s (a.raise HI_STATUS_CAPSULE_ERR))
      ∧ (a.oobServed = true → l.length = 88 → sane 1 → be l 4 4 ∈ a.hif.capsSeen →
          exec (.capsuleSubmitRx src l) s = nextAgg s (a.ackCapsule (be l 4 4)))
      ∧ (a.oobServed = true → l.length = 88 → sane 1 → be l 4 4 ∉ a.hif.capsSeen → exec (.capsuleSubmitRx src l) s
          = nextAgg s ((seen.modHif fun h => h.setCapsuleIn { h.capsuleIn tag with entry := some (l.drop 24) }).pumpMgmt))
      ∧ (a.oobServed = true → 24 ≤ l.length → sane 2 → be l 4 4 ∉ a.hif.capsSeen → a.hif.mgmtBytes + (l.length - 24) ≤ 16777216 →
          exec (.capsuleDataRx src l) s = nextAgg s ((seen.modHif fun h => h.setCapsuleIn
            { h.capsuleIn tag with segs := (h.capsuleIn tag).segs ++ [(be l 12 4, l.drop 24)] }).pumpMgmt))
      ∧ (a.oobServed = true → 16777216 < a.hif.mgmtBytes + (l.length - 24) →
          exec (.capsuleDataRx src l) s = nextAgg s (a.raise HI_STATUS_CAPSULE_ERR))
      ∧ (a.oobServed = true → src = a.cfg.oobCtl → l.length = 24 → be l 0 1 = 1 → be l 1 1 = 6 → exec (.capsuleAckRx src l) s
          = nextAgg s (a.modHif fun h => { h with capsOut := h.capsOut.filter fun c => c.mseq ≠ be l 20 4 }))
      ∧ (a.oobServed = true → a.hif.capsOut.find? (fun y => y.mseq = mseq) = none → exec (.capsuleResend mseq) s = nextAgg s a)
      ∧ (a.oobServed = true → a.hif.capsOut.find? (fun y => y.mseq = mseq) = some c → a.mono < c.lastSent + 10000000 →
          exec (.capsuleResend mseq) s = nextAgg s a)
      ∧ (a.oobServed = true → a.hif.capsOut.find? (fun y => y.mseq = mseq) = some c → c.lastSent + 10000000 ≤ a.mono → 8 ≤ c.tries → c.kind ≠ 5 →
          exec (.capsuleResend mseq) s = nextAgg s (a.modHif fun h => { h with capsOut := h.capsOut.filter fun y => y.mseq ≠ mseq }))
      ∧ (a.oobServed = true → a.hif.capsOut.find? (fun y => y.mseq = mseq) = some c → c.lastSent + 10000000 ≤ a.mono → c.tries < 8 ∨ c.kind = 5 →
          exec (.capsuleResend mseq) s = nextAgg s (a.modHif fun h =>
            { h with capsOut := h.capsOut.map fun y => if y.mseq = mseq then { c with tries := c.tries + 1, lastSent := a.mono } else y,
                     oob := h.oob ++ [capsuleBytes c.kind mseq c.tag c.off (c.flags ||| 2) 0 c.payload] }))
      ∧ (a.oobServed = true → ∃ e : Aggregator, exec (.mctpMessageRx msg) s = nextAgg s e ∧ e.regs = a.regs ∧ e.jobs = a.jobs
          ∧ e.hif.eid = (match msg with | .setEid y => y | _ => a.hif.eid)
          ∧ (∀ y, msg = .setEid y → e.hif.mctp = a.hif.mctp ++ [.eid y]) ∧ (msg = .getEid → e.hif.mctp = a.hif.mctp ++ [.eid a.hif.eid])
          ∧ (msg = .identify → e.hif.mctp = a.hif.mctp ++ [.data a.identifyData])
          ∧ (∀ y, msg = .pldm y → y ≠ 0 → y ≠ 2 → y ≠ 4 → e.hif.mctp = a.hif.mctp ++ [.error]))
      ∧ (n < 8 → bar 75 → ∃ w, exec (.dmaStart n) s = nextAgg s (a.writeDmaCtrl n w) ∧ bits w 1 0 = 1 ∧ bits w 2 2 = a.get (DMA_CTRL_IRQ_EN n))
      ∧ (n < 8 → bar 75 → ∃ w, exec (.dmaStop n) s = nextAgg s (a.writeDmaCtrl n w) ∧ bits w 1 0 = 2 ∧ bits w 2 2 = a.get (DMA_CTRL_IRQ_EN n))
      ∧ (bits m 1 0 = 3 → a.writeDmaCtrl n m = a.raise (DMA_CTRL_CFG_INVALID n))
      ∧ (bits m 1 0 = 1 → st = dmaRunning ∨ st = dmaStopping → a.writeDmaCtrl n m = a.set (DMA_CTRL_IRQ_EN n) (bits m 2 2))
      ∧ (bits m 1 0 = 1 → st = dmaIdle ∨ st = dmaDone ∨ st = dmaError → n < 8 → a.writeDmaCtrl n m = ((((a.set (DMA_CTRL_IRQ_EN n) (bits m 2 2)).set
          (DMA_STAT_STATE n) dmaRunning).set (DMA_STAT_FAULT n) 0).set (DMA_STAT_DESC_DONE n) 0).dmaLoad n (a.get (DMA_DESC_ADDR n) * 32))
      ∧ (bits m 1 0 = 2 → st = dmaRunning → a.writeDmaCtrl n m = (a.set (DMA_CTRL_IRQ_EN n) (bits m 2 2)).set (DMA_STAT_STATE n) dmaStopping)
      ∧ (tabGet a.hif.dma n = none ∨ (st ≠ dmaRunning ∧ st ≠ dmaStopping) → exec (.dmaDescriptorDone n) s = nextAgg s a
          ∧ ∀ f, exec (.dmaFault n f moved) s = nextAgg s a)
      ∧ (n < 8 → tabGet a.hif.dma n = some d → st = dmaRunning → a.dmaLimit d = d.len → bit d.flags 4 = false → bit d.flags 5 = true →
          ∃ e : Aggregator, exec (.dmaDescriptorDone n) s = nextAgg s e ∧ e.get (DMA_STAT_STATE n) = dmaDone
            ∧ e.mem = (a.dmaMove d d.len).mem ∧ e.host = (a.dmaMove d d.len).host)
      ∧ (tabGet a.hif.dma n = some d → st = dmaRunning → a.dmaLimit d = d.len → bit d.flags 4 = false → bit d.flags 5 = false →
          exec (.dmaDescriptorDone n) s = nextAgg s ((((a.dmaMove d d.len).set (DMA_STAT_BYTES n) d.len).incWrap (DMA_STAT_DESC_DONE n)).dmaLoad n d.next))
      ∧ (tabGet a.hif.dma n = some d → st = dmaRunning → exec (.dmaFault n true moved) s = nextAgg s (a.dmaStopFault n dmaFetchFault 0))
      ∧ (tabGet a.hif.dma n = some d → st = dmaRunning → a.dmaLimit d = d.len → moved < d.len →
          exec (.dmaFault n false moved) s = nextAgg s ((a.dmaMove d moved).dmaStopFault n dmaHostFault moved))
      ∧ (d.dstHost = false → d.dstFixed = false → d.srcFixed = false → (a.dmaMove d x).mem = memPut a.mem d.dst
          (memBytes (if d.srcHost then a.host else a.mem) d.src x) ∧ (a.dmaMove d x).host = a.host)
      ∧ (pool < 4096 → next < 65536 → actor < 65536 → bar 78 → ∃ w, exec (.phAlloc pool next actor) s = nextAgg s (a.writePhOp w)
          ∧ bits w 63 60 = 1 ∧ bits w 55 44 = pool ∧ bits w 31 16 = next ∧ bits w 15 0 = actor)
      ∧ (pool < 4096 → next < 65536 → actor < 65536 → bar 78 → ∃ w, exec (.phGive pool buf next actor) s
          = nextAgg s ((a.setWord addr_PH_ADDR (BitVec.ofNat 64 buf)).writePhOp w)
          ∧ bits w 63 60 = 2 ∧ bits w 55 44 = pool ∧ bits w 31 16 = next ∧ bits w 15 0 = actor)
      ∧ (pool < 4096 → actor < 65536 → bar 78 → ∃ w, exec (.phFree pool buf actor) s
          = nextAgg s ((a.setWord addr_PH_ADDR (BitVec.ofNat 64 buf)).writePhOp w) ∧ bits w 63 60 = 3 ∧ bits w 55 44 = pool ∧ bits w 15 0 = actor)
      ∧ (op 1 → a.poolOn pool = false → a.writePhOp m = (ph.set PH_RESULT_RESULT phBadPool).set PH_RESULT_ADDR 0)
      ∧ (op 1 → a.poolOn pool = true → actor < 0x2000 ∨ 0x2FFF < actor →
          a.writePhOp m = (ph.ownerErr.set PH_RESULT_RESULT phOwner).set PH_RESULT_ADDR 0)
      ∧ (∀ e, op 1 → a.poolOn pool = true → 0x2000 ≤ actor → actor ≤ 0x2FFF → ph.poolAlloc pool next false = (some x, e) →
          a.writePhOp m = (e.set PH_RESULT_RESULT phOk).set PH_RESULT_ADDR x)
      ∧ (a.poolOn pool = true → lowestFree (a.pool pool).owners 0 < a.get (PH_CFG_COUNT pool) → a.atLevel2 pool = false →
          a.poolAlloc pool next false = (some (a.get (PH_BASE_BASE pool) + lowestFree (a.pool pool).owners 0 * 2 ^ a.get (PH_CFG_SHIFT pool)),
            a.setOwner pool (lowestFree (a.pool pool).owners 0) next))
      ∧ (a.poolOn pool = true → a.bufNumber pool buf = some x → storeGet 0 (a.pool pool).owners x ≠ actor ∨ actor = 0 →
          a.poolGive pool buf actor next = (phOwner, a.ownerErr))
      ∧ (a.poolOn pool = true → a.bufNumber pool buf = some x → storeGet 0 (a.pool pool).owners x = actor → 0 < actor →
          a.poolGive pool buf actor next = (phOk, a.setOwner pool x next))

/-! ### Register access (chapter 16) -/

/-- R10, R98, R453 to R455, R458, R460 to R465, R468, R470: an access of a register whose domain sleeps has no effect at the die unit's port, which
shows it; at the aggregator a write is held, at most 64 to a domain, and wakes it, and a read answers zero. An ordinary access of a privileged page
is a violation. A read of a register with sticky bits latches EVSEQ; they are cleared through an armed key of the same event number only, which is
used up. An indirect access needs READY. -/
def Obligations.RegisterAccessesFollowTheirCodes : Prop :=
  ∀ (s : State) (i : Instr) (addr q cyc page pos k t : Nat) (w v : W64) (write : Option W64) (half priv : Bool) (r : RegFile) (h : Nat × Nat × W64 × Bool),
    let d := s.du
    let a := s.agg
    let ad := addr % 65536 / 8 * 8
    let pg := addr % 0x800000 / 4096
    let reg := addr % 4096 / 8 * 8
    let wr (p : Part) := (i = .registerWrite p addr w priv q cyc ∨ i = .clearingWrite p addr w priv q cyc) ∧ write = some w
      ∨ (∃ g, i = .clearKeyWrite p g w priv q cyc ∧ addr = g * 4096 + 0x18) ∧ write = some w
      ∨ (∃ g, i = .indAddrWrite p g w priv q cyc ∧ addr = g * 4096 + 0x30) ∧ write = some w
      ∨ (∃ g, i = .indDataAccess p g write priv q cyc ∧ addr = g * 4096 + 0x38)
    let rd (p : Part) := i = .w1cStatusRead p addr false priv q cyc ∧ write = none
    let done (x : DieUnit) (rdata : W64) : DieUnit := { x with port := { x.port with rdata := rdata, slept := false } }
    let awake := duPageExists (ad / 4096) = true ∧ d.asleep ad = false
    (wr .du ∨ rd .du → duPageExists (ad / 4096) = true → d.asleep ad = true →
          exec i s = nextDu s { d with port := { d.port with rdata := 0, slept := true } })
      ∧ (wr .du ∨ rd .du → duPageExists (ad / 4096) = false → ad ≠ 0x38 → exec i s = nextDu s (done d 0))
      ∧ (wr .du ∨ rd .du → awake → ad ≠ 0x30 → ad ≠ 0x38 → duPrivPage (ad / 4096) = true → priv = false →
          exec i s = nextDu s (done (d.violation ad write.isSome) 0))
      ∧ (wr .du → awake → write = some w → ad ≠ 0x30 → ad ≠ 0x38 → priv = true → ad % 4096 ≠ 0x18 → masksOf .du ad = ⟨0, 0, 0⟩ →
          exec i s = nextDu s (done d 0))
      ∧ (wr .du → awake → write = some w → ad % 4096 = 0x18 → priv = true →
          exec i s = nextDu s (done { d with regs := d.regs.setWord ad ((w &&& 0xFFFFFFFF00000FF8) ||| 1) } 0))
      ∧ (wr .du → awake → write = some w → priv = true → (masksOf .du ad).rw = 0 → (masksOf .du ad).priv = 0 →
          w.toNat &&& (masksOf .du ad).w1c ≠ 0 → ad ≠ 0x30 → ad ≠ 0x38 → ad % 4096 ≠ 0x18 → exec i s = nextDu s
            (done { d with regs := d.regs.clearing (ad / 4096) (ad % 4096) ad (w.toNat &&& (masksOf .du ad).w1c) } 0))
      ∧ (rd .du → awake → priv = true → ad ≠ 0x38 → counterOf ad = none → d.readRaw ad q = (v, d) → exec i s = nextDu s
          (done (if (masksOf .du ad).w1c ≠ 0 then d.set (PG_SEQ_RD_SEQ_RD (ad / 4096)) (d.get (PG_SEQ_EVSEQ (ad / 4096))) else d) v))
      ∧ (∀ n key ones, page < 256 → r.on (PG_CLR_KEY_ARMED page) = false ∨ r.get (PG_CLR_KEY_OFFSET page) ≠ n / 8 → key ≠ addr_PG_CLR_KEY page →
          key ≠ addr_PG_SEQ page → (r.clearing page n key ones).word key = r.word key ∧ (r.clearing page n key ones).get (PG_CLR_KEY_RESULT page) = 3
            ∧ (r.clearing page n key ones).on (PG_CLR_KEY_ARMED page) = false)
      ∧ (∀ n key ones, r.on (PG_CLR_KEY_ARMED page) = true → r.get (PG_CLR_KEY_OFFSET page) = n / 8 → r.get (PG_CLR_KEY_SEQ page)
            ≠ r.get (PG_SEQ_EVSEQ page) → key ≠ addr_PG_CLR_KEY page → key ≠ addr_PG_SEQ page →
          (r.clearing page n key ones).word key = r.word key ∧ (r.clearing page n key ones).get (PG_CLR_KEY_RESULT page) = 2)
      ∧ (∀ n key ones, r.on (PG_CLR_KEY_ARMED page) = true → r.get (PG_CLR_KEY_OFFSET page) = n / 8 → r.get (PG_CLR_KEY_SEQ page)
            = r.get (PG_SEQ_EVSEQ page) → key ≠ addr_PG_CLR_KEY page → (r.clearing page n key ones).word key = r.word key &&& ~~~ BitVec.ofNat 64 ones
            ∧ (r.clearing page n key ones).get (PG_CLR_KEY_RESULT page) = 1 ∧ (r.clearing page n key ones).on (PG_CLR_KEY_ARMED page) = false)
      ∧ (i = .indAddrWrite .du 0 w priv q cyc → exec i s = nextDu s (done (d.writeIndAddr w) 0))
      ∧ (i = .indDataAccess .du 0 write priv q cyc → d.indReady = false → exec i s
          = nextDu s (done ({ d with port := { d.port with indAt := some d.mono } }.set (IND_ADDR_ERR 0) 1) 0))
      ∧ (i = .indDataAccess .du 0 (some w) priv q cyc → d.indReady = true → d.get (IND_ADDR_INDEX 0) = t → t ≠ 0x30 → t ≠ 0x38 → exec i s
          = nextDu s (done (({ d with port := { d.port with indAt := some d.mono } }.writeReg t w ⟨priv, false⟩ q 0x38).indAdvance) 0))
      ∧ (pos < 256 → d.on DU_ASSIGN_REGISTERED = true → exec (.pkgPosWrite pos q) s = nextDu s (done d 0))
      ∧ (pos < 256 → d.on DU_ASSIGN_REGISTERED = false → ∃ e : DieUnit, exec (.pkgPosWrite pos q) s = nextDu s e ∧ e.get DU_IDENT_PKG_POS = pos
          ∧ e.get DU_IDENT_REVISION = d.get DU_IDENT_REVISION ∧ e.get DU_IDENT_PART = d.get DU_IDENT_PART)
      ∧ (wr .agg → write = some w → aggPageExists pg = false → exec i s = nextAgg s a)
      ∧ (wr .agg → write = some w → aggPageExists pg = true → aggPrivPage pg = true → priv = false → exec i s = nextAgg s (a.violation pg reg true))
      ∧ (wr .agg → write = some w → aggPageExists pg = true → aggPrivPage pg = false ∨ priv = true → a.adState (aggPageDomain pg) ≠ adOn →
          (a.bar.held.filter fun x => x.1 = aggPageDomain pg).length < 64 → exec i s = nextAgg s ((a.modBar fun b =>
            { b with held := b.held ++ [(aggPageDomain pg, pg * 4096 + reg, w, priv)] }).wakeDomain (aggPageDomain pg)))
      ∧ (wr .agg → write = some w → aggPageExists pg = true → aggPrivPage pg = false ∨ priv = true → a.adState (aggPageDomain pg) ≠ adOn →
          64 ≤ (a.bar.held.filter fun x => x.1 = aggPageDomain pg).length →
          exec i s = nextAgg s ((a.inc CHIP_ACCESS_HOLD_DROP_N).wakeDomain (aggPageDomain pg)))
      ∧ (wr .agg → write = some w → aggPageExists pg = true → aggPrivPage pg = false ∨ priv = true → a.adState (aggPageDomain pg) = adOn →
          exec i s = nextAgg s ((a.applyHeld (aggPageDomain pg) cyc).pageAccess pg reg (some w) priv q cyc).2)
      ∧ (rd .agg → aggPageExists pg = true → aggPrivPage pg = false ∨ priv = true → a.adState (aggPageDomain pg) ≠ adOn → ∃ e : Aggregator,
          exec i s = nextAgg s e ∧ e.bar.rdata = 0 ∧ e.on CHIP_ACCESS_SLEPT = true ∧ e.bar.held = a.bar.held)
      ∧ (i = .w1cStatusRead .agg addr half priv q cyc → aggPageExists pg = true → aggPrivPage pg = true → priv = false →
          exec i s = nextAgg s ((a.violation pg reg false).modBar fun b => { b with rdata := 0 }))
      ∧ (a.adState k ≠ adOn ∨ (∀ x ∈ a.bar.held, x.1 ≠ k) → exec (.heldWritesApply k cyc) s = nextAgg s a)
      ∧ (a.adState k = adOn → a.bar.held = [h] → h.1 = k → exec (.heldWritesApply k cyc) s
          = nextAgg s ((a.modBar fun b => { b with held := [] }).pageAccess (h.2.1 / 4096) (h.2.1 % 4096) (some h.2.2.1) h.2.2.2 0 cyc).2)
      ∧ (tabGet a.bar.fetchAt page = none ∨ a.pageOn page = false → exec (.indFetchDone page) s = nextAgg s a)
      ∧ ((tabGet a.bar.fetchAt page).isSome = true → a.pageOn page = true → exec (.indFetchDone page) s
          = nextAgg s ((a.set (IND_ADDR_READY page) 1).modBar fun b => { b with fetchAt := tabDel b.fetchAt page }))

/-! ### The whole block -/

/-- Chapters 3 and 9: in every state every command of the table completes; it acts on the die unit or on the aggregator and leaves the other part,
and the queue of the commands that wait, as they are. -/
def Obligations.EveryCommandCompletesAndActsOnOnePart : Prop :=
  ∀ (i : Instr) (s : State), ∃ t, exec i s = .next t ∧ t.pending = s.pending ∧ (t.agg = s.agg ∨ t.du = s.du)

/-- A step carries out the command at the front of the queue on the state with the rest of the queue; an empty queue idles (the model's choice,
log 3). -/
def Obligations.AStepRunsTheFrontCommand : Prop :=
  ∀ (c : Instr) (rest : List Instr) (s : State), step { s with pending := c :: rest } = exec c { s with pending := rest }
    ∧ step { s with pending := [] } = .next { s with pending := [] }

/-- Reset columns of the register tables, R73, R475, R476: what power-on reset leaves. -/
def Obligations.PowerOnResetLeavesTheResetValues : Prop :=
  let d := State.reset.du
  let a := State.reset.agg
  State.reset.pending = [] ∧ d.get DU_IDENT_PART = 0x20 ∧ d.get FB_CTRL_MAX_PAYLOAD = 9000 ∧ d.get SHP_CTRL_LINE_MBPS = 100000
    ∧ d.on DU_ASSIGN_REGISTERED = false ∧ (∀ k, d.isOn k = false) ∧ d.peals = [] ∧ d.trc.segs = [] ∧ d.on CNT_CTRL_FREEZE = false
    ∧ d.on TCK_JOB_ARMED = false ∧ d.he.queue = [] ∧ d.irq = false ∧ a.get EP_DEFAULTS_EPOCH_WAIT = 1000 ∧ a.get LDG_TIMING_SEAL_WAIT = 10
    ∧ a.get LDG_TIMING_SEAL_GRACE = 20 ∧ a.get HLT_CTRL_DECAY_SHIFT = 11 ∧ a.get LDG_CTRL_RESIDENT = 10000 ∧ a.adState 72 = adOn
    ∧ (∀ c < 64, a.adState c = adOff) ∧ a.jobs = [] ∧ a.irq = false ∧ a.boot = .owed false ∧ a.det.instances = [] ∧ a.hif.commands = []

/-- R58, R136, R150, R164, R173, R178, R228, R397: no command makes a queue of the die unit longer than the spec gives it. -/
def Obligations.DieUnitQueuesStayBounded : Prop :=
  ∀ (s t : State), s.du.queuesOk → step s = .next t → t.du.queuesOk

/-- The memories of the aggregator keep their canonical form in every step: equal memories are equal data (the model's representation). -/
def Obligations.MemoriesStayCanonical : Prop :=
  ∀ (s t : State), s.agg.memoriesOk → step s = .next t → t.agg.memoriesOk

/-- Both invariants hold after reset. -/
def Obligations.InvariantsHoldAtReset : Prop :=
  State.reset.du.queuesOk ∧ State.reset.agg.memoriesOk

/-- R94, R430, R454, R469: the interrupt of a part is up while some page with IRQ_EN has a sticky bit set; its rise at the aggregator signals
MSI-X vector 0 once, after the event that brought it, and management events go out as EVENT capsules. -/
def Obligations.InterruptsSignalOnARise : Prop :=
  (∀ d : DieUnit, d.irq = true ↔ ∃ p < 14, d.on (PG_IRQ_IRQ_EN p) = true ∧ d.regs.pending p = true)
    ∧ (∀ a : Aggregator, a.irq = true ↔ ∃ p < 64, a.on (PG_IRQ_IRQ_EN p) = true ∧ a.regs.pending p = true)
    ∧ (∀ (r : RegFile) (p : Nat), r.pending p = true ↔ ∃ e ∈ r.words, pageOf e.1 = p ∧ e.2.toNat &&& w1cMask r.part e.1 ≠ 0)
    ∧ (∀ old a : Aggregator, a.jobs = [] → a.hif.commands = [] → a.hif.events = [] → (∀ t, a.boot ≠ .resync t) → old.inFailover = false →
        Aggregator.after old a = if a.irq = true ∧ old.irq = false then a.modHif fun h => { h with msix := h.msix ++ [0] } else a)
    ∧ (∀ (a : Aggregator) (e : MgmtEvent), a.hif.events = [e] → a.paused = false →
        a.pumpEvents = (a.modHif fun h => { h with events := [] }).sendCapsule capEvent 0 0 1 (e.bytes.take 1400))
    ∧ (∀ a : Aggregator, a.paused = true → a.pumpEvents = a)
end

