-- ==== Sys2Proof/Laws/Isa.lean ====
section
/-!
SUPPORT. What the shared operations of detector programs do: an instruction that issues, a write of a scalar register.
-/
namespace Sys2Proof.Machine

@[simp] theorem Core.setX_pc (k : Core) (n : Nat) (v : W64) : (k.setX n v).pc = k.pc := by unfold Core.setX; split <;> rfl
@[simp] theorem Core.setX_ste0 (k : Core) (n : Nat) (v : W64) : (k.setX n v).ste0 = k.ste0 := by unfold Core.setX; split <;> rfl
@[simp] theorem Core.setX_ste1 (k : Core) (n : Nat) (v : W64) : (k.setX n v).ste1 = k.ste1 := by unfold Core.setX; split <;> rfl
@[simp] theorem Core.setX_xde (k : Core) (n : Nat) (v : W64) : (k.setX n v).xde = k.xde := by unfold Core.setX; split <;> rfl
@[simp] theorem Core.setX_run (k : Core) (n : Nat) (v : W64) : (k.setX n v).run = k.run := by unfold Core.setX; split <;> rfl
@[simp] theorem Core.setX_blocked (k : Core) (n : Nat) (v : W64) : (k.setX n v).blocked = k.blocked := by
  unfold Core.setX; split <;> rfl
@[simp] theorem Core.setX_waiting (k : Core) (n : Nat) (v : W64) : (k.setX n v).waiting = k.waiting := by
  unfold Core.setX; split <;> rfl
@[simp] theorem Core.setX_zero (k : Core) (v : W64) : k.setX 0 v = k := by simp [Core.setX]
@[simp] theorem Core.xr_zero (k : Core) : k.xr 0 = 0 := by simp [Core.xr]

@[simp] theorem Core.setSte_pc (k : Core) (e : Bool) (x : Ste) : (k.setSte e x).pc = k.pc := by cases e <;> rfl
@[simp] theorem Core.setSte_x (k : Core) (e : Bool) (x : Ste) : (k.setSte e x).x = k.x := by cases e <;> rfl
@[simp] theorem Core.setSte_xde (k : Core) (e : Bool) (x : Ste) : (k.setSte e x).xde = k.xde := by cases e <;> rfl
@[simp] theorem Core.setSte_run (k : Core) (e : Bool) (x : Ste) : (k.setSte e x).run = k.run := by cases e <;> rfl
@[simp] theorem Core.setSte_blocked (k : Core) (e : Bool) (x : Ste) : (k.setSte e x).blocked = k.blocked := by cases e <;> rfl
@[simp] theorem Core.setSte_waiting (k : Core) (e : Bool) (x : Ste) : (k.setSte e x).waiting = k.waiting := by cases e <;> rfl
@[simp] theorem Core.setSte_ste (k : Core) (e : Bool) (x : Ste) : (k.setSte e x).ste e = x := by cases e <;> rfl

@[simp] theorem Aggregator.setCore_mem (a : Aggregator) (c : Nat) (k : Core) : (a.setCore c k).mem = a.mem := rfl
@[simp] theorem Aggregator.setCore_regs (a : Aggregator) (c : Nat) (k : Core) : (a.setCore c k).regs = a.regs := rfl
@[simp] theorem Aggregator.setCore_jobs (a : Aggregator) (c : Nat) (k : Core) : (a.setCore c k).jobs = a.jobs := rfl
@[simp] theorem Aggregator.setCore_sync (a : Aggregator) (c : Nat) (k : Core) : (a.setCore c k).sync = a.sync := rfl

/-- An instruction that issues does what its meaning says, or ends the run with its fault. -/
theorem Aggregator.isa_issues (a : Aggregator) (c op : Nat) (i : Insn) (f : Core → Run → IsaRes) (r : Run) (h : ready a c r)
    (hl : i.legal op = true) :
    a.isa c op i f = (match f (a.core c) r with
      | .go a1 => a1
      | .stop code user => a.endRun c (some (code, user))
      | .refuse a1 => a1.endRun c (some (rfAccess, 0))) := by
  unfold Aggregator.isa
  simp only [h.1, h.2, hl]
  rfl

/-- An instruction that is not legal ends the run with ILLEGAL-OP (Table 12-6). -/
theorem Aggregator.isa_illegal (a : Aggregator) (c op : Nat) (i : Insn) (f : Core → Run → IsaRes) (r : Run) (h : ready a c r)
    (hl : i.legal op = false) : a.isa c op i f = a.endRun c (some (0x01, 0)) := by
  unfold Aggregator.isa
  simp [h.1, h.2, hl]

/-- Nothing issues on a core that has no run or that is blocked. -/
theorem Aggregator.isa_waits (a : Aggregator) (c op : Nat) (i : Insn) (f : Core → Run → IsaRes)
    (h : (a.core c).run = none ∨ (a.core c).blocked ≠ .no) : a.isa c op i f = a := by
  unfold Aggregator.isa
  rcases h with h | h
  · simp [h]
  · cases hr : (a.core c).run <;> simp [h, hr]

/-- A word whose reserved bit is set is illegal under every opcode. -/
theorem Insn.legal_reserved (op : Nat) (i : Insn) (h : i.rsv = true) : i.legal op = false := by
  unfold Insn.legal
  split <;> simp [h]

end Sys2Proof.Machine
end

