-- ==== Sys2Proof/Laws/Store.lean ====
section
/-!
SUPPORT. Sparse tables: what a table holds after a write, that a write keeps the canonical form, and the same of the byte
memory of the aggregator.
-/
namespace Sys2Proof.Machine

variable {α : Type}

/-! ### What a table holds -/

theorem storeGet_del (d : α) (m : Store α) (k n : Nat) :
    storeGet d (tabDel m k) n = if n = k then d else storeGet d m n := by
  induction m with
  | nil => simp [tabDel, storeGet]
  | cons e m ih =>
    obtain ⟨k', v'⟩ := e
    unfold tabDel at ih ⊢
    by_cases h : k' = k
    · subst h
      simp only [List.filter_cons, ne_eq, not_true_eq_false, decide_false, Bool.false_eq_true, if_false, ih, storeGet]
      by_cases hn : n = k'
      · simp [hn]
      · simp [hn, Ne.symm hn]
    · simp only [List.filter_cons, ne_eq, h, not_false_eq_true, decide_true, if_true, storeGet, ih]
      by_cases hk : k' = n
      · subst hk; simp [h]
      · simp [hk]

theorem storeGet_ins_same (d : α) (m : Store α) (k : Nat) (v : α) :
    storeGet d (storeIns (tabDel m k) k v) k = v := by
  have key : ∀ l : Store α, (∀ e ∈ l, e.1 ≠ k) → storeGet d (storeIns l k v) k = v := by
    intro l
    induction l with
    | nil => intro _; simp [storeIns, storeGet]
    | cons e l ih =>
      intro hl
      obtain ⟨k', v'⟩ := e
      have hk : k' ≠ k := hl (k', v') (List.mem_cons_self ..)
      unfold storeIns
      split
      · simp [storeGet]
      · simp only [storeGet, hk, if_false]
        exact ih fun e he => hl e (List.mem_cons_of_mem _ he)
  exact key _ fun e he => by simpa using (List.mem_filter.1 he).2

theorem storeGet_ins_other (d : α) (m : Store α) (k n : Nat) (v : α) (h : n ≠ k) :
    storeGet d (storeIns m k v) n = storeGet d m n := by
  induction m with
  | nil => simp [storeIns, storeGet, Ne.symm h]
  | cons e m ih =>
    obtain ⟨k', v'⟩ := e
    unfold storeIns
    split
    · simp [storeGet, Ne.symm h]
    · simp only [storeGet, ih]

/-- Reading a table after a write: the value at its key, and what stood there at every other. -/
theorem storeGet_set [DecidableEq α] (d : α) (m : Store α) (k n : Nat) (v : α) :
    storeGet d (storeSet d m k v) n = if n = k then v else storeGet d m n := by
  unfold storeSet
  split
  · rename_i hv; subst hv; exact storeGet_del _ _ _ _
  · by_cases h : n = k
    · subst h; simp [storeGet_ins_same d m n v]
    · rw [storeGet_ins_other _ _ _ _ _ h, storeGet_del, if_neg h, if_neg h]

theorem tabGet_eq_storeGet (m : Store α) (k : Nat) : tabGet m k = storeGet none (m.map fun e => (e.1, some e.2)) k := by
  induction m with
  | nil => rfl
  | cons e m ih => obtain ⟨k', v'⟩ := e; simp only [tabGet, List.map_cons, storeGet, ih]

theorem tabDel_map {β : Type} (f : α → β) (m : Store α) (k : Nat) :
    (tabDel m k).map (fun e => (e.1, f e.2)) = tabDel (m.map fun e => (e.1, f e.2)) k := by
  unfold tabDel
  rw [List.filter_map]
  rfl

theorem storeIns_map {β : Type} (f : α → β) (m : Store α) (k : Nat) (v : α) :
    (storeIns m k v).map (fun e => (e.1, f e.2)) = storeIns (m.map fun e => (e.1, f e.2)) k (f v) := by
  induction m with
  | nil => rfl
  | cons e m ih =>
    obtain ⟨k', v'⟩ := e
    simp only [storeIns, List.map_cons]
    split
    · rfl
    · simp only [List.map_cons, ih]

/-- The entry of a table after one is placed. -/
theorem tabGet_put (m : Store α) (k n : Nat) (v : α) : tabGet (tabPut m k v) n = if n = k then some v else tabGet m n := by
  rw [tabGet_eq_storeGet, tabGet_eq_storeGet]
  unfold tabPut
  rw [storeIns_map, tabDel_map]
  by_cases h : n = k
  · subst h; rw [storeGet_ins_same none _ n _]; simp
  · rw [storeGet_ins_other _ _ _ _ _ h, storeGet_del, if_neg h, if_neg h]

/-- The entry of a table after one is removed. -/
theorem tabGet_del (m : Store α) (k n : Nat) : tabGet (tabDel m k) n = if n = k then none else tabGet m n := by
  rw [tabGet_eq_storeGet, tabGet_eq_storeGet, tabDel_map, storeGet_del]

/-- The entry of a table after one is changed. -/
theorem tabGet_mod (m : Store α) (k n : Nat) (f : α → α) :
    tabGet (tabMod m k f) n = if n = k then (tabGet m n).map f else tabGet m n := by
  induction m with
  | nil => simp [tabMod, tabGet]
  | cons e m ih =>
    obtain ⟨k', v'⟩ := e
    unfold tabMod at ih ⊢
    simp only [List.map_cons]
    by_cases hk : k' = k
    · subst hk
      simp only [if_true, tabGet]
      by_cases hn : k' = n
      · simp [hn]
      · simp [hn, ih, Ne.symm hn]
    · simp only [hk, if_false, tabGet]
      by_cases hn : k' = n
      · subst hn; simp [hk]
      · simp [hn, ih]

/-! ### The canonical form -/

theorem storeWfFrom_del [DecidableEq α] (f : Nat → α) (m : Store α) (lo k : Nat) (h : storeWfFrom f lo m = true) :
    storeWfFrom f lo (tabDel m k) = true := by
  have mono : ∀ (l : Store α) (a b : Nat), a ≤ b → storeWfFrom f b l = true → storeWfFrom f a l = true := by
    intro l a b hab hl
    cases l with
    | nil => rfl
    | cons e l =>
      obtain ⟨k', v'⟩ := e
      simp only [storeWfFrom, Bool.and_eq_true, decide_eq_true_eq] at hl ⊢
      exact ⟨⟨by omega, hl.1.2⟩, hl.2⟩
  induction m generalizing lo with
  | nil => rfl
  | cons e m ih =>
    obtain ⟨k', v'⟩ := e
    simp only [storeWfFrom, Bool.and_eq_true, decide_eq_true_eq] at h
    unfold tabDel at ih ⊢
    rw [List.filter_cons]
    split
    · simp only [storeWfFrom, Bool.and_eq_true, decide_eq_true_eq]
      exact ⟨h.1, ih _ h.2⟩
    · exact mono _ _ _ (by omega) (ih _ h.2)

theorem storeWfFrom_ins [DecidableEq α] (f : Nat → α) (m : Store α) (lo k : Nat) (v : α) (h : storeWfFrom f lo m = true)
    (hlo : lo ≤ k) (hk : ∀ e ∈ m, e.1 ≠ k) (hv : v ≠ f k) : storeWfFrom f lo (storeIns m k v) = true := by
  induction m generalizing lo with
  | nil => simp [storeIns, storeWfFrom, hlo, hv]
  | cons e m ih =>
    obtain ⟨k', v'⟩ := e
    have hne : k' ≠ k := hk (k', v') (List.mem_cons_self ..)
    simp only [storeWfFrom, Bool.and_eq_true, decide_eq_true_eq] at h
    unfold storeIns
    split
    · simp only [storeWfFrom, Bool.and_eq_true, decide_eq_true_eq]
      exact ⟨⟨hlo, hv⟩, ⟨by omega, h.1.2⟩, h.2⟩
    · simp only [storeWfFrom, Bool.and_eq_true, decide_eq_true_eq]
      exact ⟨h.1, ih _ h.2 (by omega) fun e he => hk e (List.mem_cons_of_mem _ he)⟩

/-- A write keeps the canonical form, where the default of its key is the table's. -/
theorem storeSet_wf [DecidableEq α] (f : Nat → α) (m : Store α) (k : Nat) (v : α) (h : storeWf f m = true) :
    storeWf f (storeSet (f k) m k v) = true := by
  unfold storeSet storeWf at *
  split
  · exact storeWfFrom_del _ _ _ _ h
  · rename_i hv
    exact storeWfFrom_ins _ _ _ _ _ (storeWfFrom_del _ _ _ _ h) (Nat.zero_le _)
      (fun e he => by simpa using (List.mem_filter.1 he).2) hv

/-! ### Memory -/

/-- The memory after bytes are written, read at any address. -/
theorem memPut_get (m : Store Byte) (addr : Nat) (l : List Byte) (x : Nat) :
    storeGet 0 (memPut m addr l) x = if addr ≤ x ∧ x < addr + l.length then l.getD (x - addr) 0 else storeGet 0 m x := by
  induction l generalizing m addr with
  | nil => rw [if_neg (by simp only [List.length_nil]; omega)]; rfl
  | cons b l ih =>
    rw [memPut, ih, storeGet_set]
    simp only [List.length_cons]
    by_cases h : x = addr
    · subst h; rw [if_neg (by omega), if_pos rfl, if_pos (by omega)]; simp
    · by_cases h1 : addr + 1 ≤ x ∧ x < addr + 1 + l.length
      · rw [if_pos h1, if_pos (by omega), show x - addr = (x - (addr + 1)) + 1 by omega]; rfl
      · rw [if_neg h1, if_neg h, if_neg (by omega)]

theorem memPut_wf (m : Store Byte) (addr : Nat) (l : List Byte) (h : storeWf (fun _ => 0) m = true) :
    storeWf (fun _ => 0) (memPut m addr l) = true := by
  induction l generalizing m addr with
  | nil => exact h
  | cons b l ih => exact ih _ _ (storeSet_wf (fun _ => 0) m addr b h)

/-- Bytes that are written read back. -/
theorem memBytes_memPut (m : Store Byte) (addr : Nat) (l : List Byte) : memBytes (memPut m addr l) addr l.length = l := by
  unfold memBytes
  apply List.ext_getElem
  · simp
  · intro n h1 h2
    simp only [List.getElem_map, List.getElem_range, memPut_get]
    rw [if_pos (by omega)]
    simp [h2]

end Sys2Proof.Machine
end

