-- ==== Sys2Proof/Laws/Memory.lean ====
section
/-!
SUPPORT. Every operation over a byte memory keeps its canonical form, and the memories of the state after reset have it.
-/
namespace Sys2Proof.Machine

theorem storeWfFrom_mono {α : Type} [DecidableEq α] (f : Nat → α) (m : Store α) (lo lo' : Nat) (hl : lo' ≤ lo) (h : storeWfFrom f lo m = true) :
    storeWfFrom f lo' m = true := by
  cases m with
  | nil => rfl
  | cons e m =>
    obtain ⟨k, v⟩ := e
    simp only [storeWfFrom, Bool.and_eq_true, decide_eq_true_eq] at h ⊢
    exact ⟨⟨Nat.le_trans hl h.1.1, h.1.2⟩, h.2⟩

/-- A table with entries left out is in canonical form where the whole is. -/
theorem storeWfFrom_filter {α : Type} [DecidableEq α] (f : Nat → α) (p : Nat × α → Bool) (m : Store α) (lo : Nat)
    (h : storeWfFrom f lo m = true) : storeWfFrom f lo (m.filter p) = true := by
  induction m generalizing lo with
  | nil => rfl
  | cons e m ih =>
    obtain ⟨k, v⟩ := e
    simp only [storeWfFrom, Bool.and_eq_true, decide_eq_true_eq] at h
    rw [List.filter_cons]
    split
    · simp only [storeWfFrom, Bool.and_eq_true, decide_eq_true_eq]
      exact ⟨h.1, ih _ h.2⟩
    · exact ih _ (storeWfFrom_mono f m _ _ (Nat.le_succ_of_le h.1.1) h.2)

theorem memClear_wf (m : Store Byte) (addr len : Nat) (h : Memory.wf m = true) : Memory.wf (memClear m addr len) = true :=
  storeWfFrom_filter _ _ m 0 h

theorem writeSegs_wf (m : Store Byte) (l : List (Nat × Nat)) (d : List Byte) (h : Memory.wf m = true) : Memory.wf (writeSegs m l d) = true := by
  induction l generalizing m d with
  | nil => exact h
  | cons s l ih => exact ih _ _ (memPut_wf m _ _ h)

theorem reset_memory_wf : Memory.wf State.reset.agg.mem = true ∧ Memory.wf State.reset.agg.host = true := ⟨rfl, rfl⟩

end Sys2Proof.Machine
end

