-- ==== Sys2Proof/Laws/Regs.lean ====
section
/-!
SUPPORT. The register file: a field after a write of itself or of another, words after a write, canonical form.
-/
namespace Sys2Proof.Machine

/-- A field that lies in a 64-bit word. -/
def Fld.fits (f : Fld) : Prop := f.lo ≤ f.hi ∧ f.hi < 64

/-- Two fields share no bit. -/
def Fld.apart (f g : Fld) : Prop := f.reg ≠ g.reg ∨ f.hi < g.lo ∨ g.hi < f.lo

/-! ### Words -/

/-- A word after a write of a register. -/
theorem RegFile.word_setWord (r : RegFile) (k n : Nat) (w : W64) :
    (r.setWord k w).word n = if n = k then w else r.word n := by
  unfold RegFile.word RegFile.setWord
  simp only
  have gen : ∀ (d d' : W64) (m : Store W64), n ≠ k → storeGet d (storeSet d' m k w) n = storeGet d m n := by
    intro d d' m h
    unfold storeSet
    split
    · rw [storeGet_del, if_neg h]
    · rw [storeGet_ins_other _ _ _ _ _ h, storeGet_del, if_neg h]
  by_cases h : n = k
  · subst h; rw [storeGet_set]
  · rw [gen _ _ _ h, if_neg h]

@[simp] theorem RegFile.setWord_part (r : RegFile) (k : Nat) (w : W64) : (r.setWord k w).part = r.part := rfl
@[simp] theorem RegFile.set_part (r : RegFile) (f : Fld) (v : Nat) : (r.set f v).part = r.part := rfl

/-! ### Bit ranges -/

theorem testBit_setBits (w hi lo v i : Nat) (h : lo ≤ hi) :
    (setBits w hi lo v).testBit i = if lo ≤ i ∧ i ≤ hi then v.testBit (i - lo) else w.testBit i := by
  unfold setBits
  have e : w / 2 ^ (hi + 1) * 2 ^ (hi + 1) + v % 2 ^ (hi + 1 - lo) * 2 ^ lo + w % 2 ^ lo
      = 2 ^ (hi + 1) * (w / 2 ^ (hi + 1)) + (2 ^ lo * (v % 2 ^ (hi + 1 - lo)) + w % 2 ^ lo) := by
    rw [Nat.mul_comm (w / _), Nat.mul_comm (v % _), Nat.add_assoc]
  have b1 : w % 2 ^ lo < 2 ^ lo := Nat.mod_lt _ (Nat.two_pow_pos _)
  have b2 : 2 ^ lo * (v % 2 ^ (hi + 1 - lo)) + w % 2 ^ lo < 2 ^ (hi + 1) := by
    have hv : v % 2 ^ (hi + 1 - lo) < 2 ^ (hi + 1 - lo) := Nat.mod_lt _ (Nat.two_pow_pos _)
    have e2 : 2 ^ (hi + 1) = 2 ^ lo * 2 ^ (hi + 1 - lo) := by rw [← Nat.pow_add]; congr 1; omega
    rw [e2]
    calc 2 ^ lo * (v % 2 ^ (hi + 1 - lo)) + w % 2 ^ lo < 2 ^ lo * (v % 2 ^ (hi + 1 - lo)) + 2 ^ lo := by omega
      _ = 2 ^ lo * (v % 2 ^ (hi + 1 - lo) + 1) := by rw [Nat.mul_succ]
      _ ≤ 2 ^ lo * 2 ^ (hi + 1 - lo) := Nat.mul_le_mul_left _ hv
  rw [e, Nat.testBit_two_pow_mul_add _ b2, Nat.testBit_two_pow_mul_add _ b1]
  simp only [Nat.testBit_div_two_pow, Nat.testBit_mod_two_pow]
  by_cases h1 : i < hi + 1
  · by_cases h2 : i < lo
    · simp [h1, h2, show ¬ (lo ≤ i) by omega]
    · simp [h1, h2, show lo ≤ i by omega, show i ≤ hi by omega, show i - lo < hi + 1 - lo by omega]
  · rw [if_neg h1, if_neg (by omega)]
    congr 1
    omega

theorem testBit_bits (w hi lo i : Nat) : (bits w hi lo).testBit i = (decide (i < hi + 1 - lo) && w.testBit (i + lo)) := by
  unfold bits
  rw [Nat.testBit_mod_two_pow, Nat.testBit_div_two_pow]

theorem bits_setBits_same (w hi lo v : Nat) (h : lo ≤ hi) : bits (setBits w hi lo v) hi lo = v % 2 ^ (hi + 1 - lo) := by
  apply Nat.eq_of_testBit_eq
  intro i
  rw [testBit_bits, testBit_setBits _ _ _ _ _ h, Nat.testBit_mod_two_pow]
  by_cases hi' : i < hi + 1 - lo
  · rw [if_pos (by omega), show i + lo - lo = i by omega]
  · simp [hi']

theorem bits_setBits_other (w hi lo v hi' lo' : Nat) (h : lo ≤ hi) (ha : hi < lo' ∨ hi' < lo) :
    bits (setBits w hi lo v) hi' lo' = bits w hi' lo' := by
  apply Nat.eq_of_testBit_eq
  intro i
  rw [testBit_bits, testBit_bits, testBit_setBits _ _ _ _ _ h]
  by_cases hi' : i < hi' + 1 - lo'
  · rw [if_neg (by omega)]
  · simp [hi']

theorem setBits_lt (w hi lo v : Nat) (h : lo ≤ hi) (hhi : hi < 64) (hw : w < 2 ^ 64) : setBits w hi lo v < 2 ^ 64 := by
  apply Nat.lt_pow_two_of_testBit
  intro i hi'
  rw [testBit_setBits _ _ _ _ _ h, if_neg (by omega)]
  exact Nat.testBit_lt_two_pow (Nat.lt_of_lt_of_le hw (Nat.pow_le_pow_right (by decide) hi'))

/-! ### Fields -/

theorem RegFile.word_set (r : RegFile) (f : Fld) (v n : Nat) :
    (r.set f v).word n = if n = f.reg then BitVec.ofNat 64 (setBits (r.word f.reg).toNat f.hi f.lo v) else r.word n :=
  RegFile.word_setWord _ _ _ _

/-- A field after a write of it. -/
theorem RegFile.get_set (r : RegFile) (f : Fld) (v : Nat) (hf : f.fits) : (r.set f v).get f = v % 2 ^ (f.hi + 1 - f.lo) := by
  unfold RegFile.get
  rw [RegFile.word_set, if_pos rfl, BitVec.toNat_ofNat,
    Nat.mod_eq_of_lt (setBits_lt _ _ _ _ hf.1 hf.2 (r.word f.reg).isLt), bits_setBits_same _ _ _ _ hf.1]

/-- A field after a write of one that shares no bit with it. -/
theorem RegFile.get_set_other (r : RegFile) (f g : Fld) (v : Nat) (hf : f.fits) (h : f.apart g) :
    (r.set f v).get g = r.get g := by
  unfold RegFile.get
  rw [RegFile.word_set]
  split
  · rename_i e
    rw [BitVec.toNat_ofNat, Nat.mod_eq_of_lt (setBits_lt _ _ _ _ hf.1 hf.2 (r.word f.reg).isLt), e]
    exact bits_setBits_other _ _ _ _ _ _ hf.1 (by
      rcases h with h | h | h
      · exact absurd e.symm h
      · exact .inl h
      · exact .inr h)
  · rfl

/-- A saturating count after one advance. -/
theorem RegFile.get_inc (r : RegFile) (f : Fld) (n : Nat) (hf : f.fits) :
    (r.inc f n).get f = satAdd (f.hi + 1 - f.lo) (r.get f) n := by
  unfold RegFile.inc
  rw [RegFile.get_set _ _ _ hf]
  apply Nat.mod_eq_of_lt
  unfold satAdd
  have : 0 < 2 ^ (f.hi + 1 - f.lo) := Nat.two_pow_pos _
  omega

theorem RegFile.get_inc_other (r : RegFile) (f g : Fld) (n : Nat) (hf : f.fits) (h : f.apart g) :
    (r.inc f n).get g = r.get g := RegFile.get_set_other _ _ _ _ hf h

/-- A write keeps the canonical form of the register file. -/
theorem RegFile.setWord_wf (r : RegFile) (k : Nat) (w : W64) (h : storeWf (resetWord r.part) r.words = true) :
    storeWf (resetWord (r.setWord k w).part) (r.setWord k w).words = true := storeSet_wf _ _ _ _ h

end Sys2Proof.Machine
end

