-- ==== Sys2Proof/Laws/State.lean ====
section
/-!
SUPPORT. The fields of both parts after each update of the model: the updated field takes its value, every other one stands.
-/
namespace Sys2Proof.Machine

@[simp] theorem DieUnit.set_fields (d : DieUnit) (f : Fld) (n : Nat) :
    (d.set f n).regs = d.regs.set f n ∧ (d.set f n).tc = d.tc ∧ (d.set f n).free = d.free ∧ (d.set f n).port = d.port
      ∧ (d.set f n).sn = d.sn ∧ (d.set f n).pdCnt = d.pdCnt ∧ (d.set f n).pdTrc = d.pdTrc ∧ (d.set f n).pdEgr = d.pdEgr
      ∧ (d.set f n).pdTcp = d.pdTcp ∧ (d.set f n).light = d.light ∧ (d.set f n).ltErr = d.ltErr
      ∧ (d.set f n).lightOvf = d.lightOvf ∧ (d.set f n).peals = d.peals ∧ (d.set f n).cnt = d.cnt ∧ (d.set f n).trc = d.trc
      ∧ (d.set f n).tcp = d.tcp ∧ (d.set f n).fb = d.fb ∧ (d.set f n).shp = d.shp ∧ (d.set f n).short = d.short
      ∧ (d.set f n).macTx = d.macTx ∧ (d.set f n).toc = d.toc ∧ (d.set f n).he = d.he ∧ (d.set f n).recd = d.recd
      ∧ (d.set f n).ctl = d.ctl ∧ (d.set f n).heldWake = d.heldWake := by
  cases d; exact ⟨rfl, rfl, rfl, rfl, rfl, rfl, rfl, rfl, rfl, rfl, rfl, rfl, rfl, rfl, rfl, rfl, rfl, rfl, rfl, rfl, rfl, rfl, rfl, rfl, rfl⟩

@[simp] theorem DieUnit.inc_fields (d : DieUnit) (f : Fld) (n : Nat) :
    (d.inc f n).regs = d.regs.inc f n ∧ (d.inc f n).tc = d.tc ∧ (d.inc f n).free = d.free ∧ (d.inc f n).port = d.port
      ∧ (d.inc f n).sn = d.sn ∧ (d.inc f n).pdCnt = d.pdCnt ∧ (d.inc f n).pdTrc = d.pdTrc ∧ (d.inc f n).pdEgr = d.pdEgr
      ∧ (d.inc f n).pdTcp = d.pdTcp ∧ (d.inc f n).light = d.light ∧ (d.inc f n).ltErr = d.ltErr
      ∧ (d.inc f n).lightOvf = d.lightOvf ∧ (d.inc f n).peals = d.peals ∧ (d.inc f n).cnt = d.cnt ∧ (d.inc f n).trc = d.trc
      ∧ (d.inc f n).tcp = d.tcp ∧ (d.inc f n).fb = d.fb ∧ (d.inc f n).shp = d.shp ∧ (d.inc f n).short = d.short
      ∧ (d.inc f n).macTx = d.macTx ∧ (d.inc f n).toc = d.toc ∧ (d.inc f n).he = d.he ∧ (d.inc f n).recd = d.recd
      ∧ (d.inc f n).ctl = d.ctl ∧ (d.inc f n).heldWake = d.heldWake := by
  cases d; exact ⟨rfl, rfl, rfl, rfl, rfl, rfl, rfl, rfl, rfl, rfl, rfl, rfl, rfl, rfl, rfl, rfl, rfl, rfl, rfl, rfl, rfl, rfl, rfl, rfl, rfl⟩

@[simp] theorem DieUnit.incWrap_fields (d : DieUnit) (f : Fld) (n : Nat) :
    (d.incWrap f n).regs = d.regs.incWrap f n ∧ (d.incWrap f n).tc = d.tc ∧ (d.incWrap f n).free = d.free
      ∧ (d.incWrap f n).port = d.port ∧ (d.incWrap f n).sn = d.sn ∧ (d.incWrap f n).pdCnt = d.pdCnt
      ∧ (d.incWrap f n).pdTrc = d.pdTrc ∧ (d.incWrap f n).pdEgr = d.pdEgr ∧ (d.incWrap f n).pdTcp = d.pdTcp
      ∧ (d.incWrap f n).light = d.light ∧ (d.incWrap f n).ltErr = d.ltErr ∧ (d.incWrap f n).lightOvf = d.lightOvf
      ∧ (d.incWrap f n).peals = d.peals ∧ (d.incWrap f n).cnt = d.cnt ∧ (d.incWrap f n).trc = d.trc
      ∧ (d.incWrap f n).tcp = d.tcp ∧ (d.incWrap f n).fb = d.fb ∧ (d.incWrap f n).shp = d.shp
      ∧ (d.incWrap f n).short = d.short ∧ (d.incWrap f n).macTx = d.macTx ∧ (d.incWrap f n).toc = d.toc
      ∧ (d.incWrap f n).he = d.he ∧ (d.incWrap f n).recd = d.recd ∧ (d.incWrap f n).ctl = d.ctl
      ∧ (d.incWrap f n).heldWake = d.heldWake := by
  cases d; exact ⟨rfl, rfl, rfl, rfl, rfl, rfl, rfl, rfl, rfl, rfl, rfl, rfl, rfl, rfl, rfl, rfl, rfl, rfl, rfl, rfl, rfl, rfl, rfl, rfl, rfl⟩

@[simp] theorem DieUnit.raise_fields (d : DieUnit) (f : Fld) :
    (d.raise f).regs = d.regs.raise f ∧ (d.raise f).tc = d.tc ∧ (d.raise f).free = d.free ∧ (d.raise f).port = d.port
      ∧ (d.raise f).sn = d.sn ∧ (d.raise f).pdCnt = d.pdCnt ∧ (d.raise f).pdTrc = d.pdTrc ∧ (d.raise f).pdEgr = d.pdEgr
      ∧ (d.raise f).pdTcp = d.pdTcp ∧ (d.raise f).light = d.light ∧ (d.raise f).ltErr = d.ltErr
      ∧ (d.raise f).lightOvf = d.lightOvf ∧ (d.raise f).peals = d.peals ∧ (d.raise f).cnt = d.cnt ∧ (d.raise f).trc = d.trc
      ∧ (d.raise f).tcp = d.tcp ∧ (d.raise f).fb = d.fb ∧ (d.raise f).shp = d.shp ∧ (d.raise f).short = d.short
      ∧ (d.raise f).macTx = d.macTx ∧ (d.raise f).toc = d.toc ∧ (d.raise f).he = d.he ∧ (d.raise f).recd = d.recd
      ∧ (d.raise f).ctl = d.ctl ∧ (d.raise f).heldWake = d.heldWake := by
  cases d; exact ⟨rfl, rfl, rfl, rfl, rfl, rfl, rfl, rfl, rfl, rfl, rfl, rfl, rfl, rfl, rfl, rfl, rfl, rfl, rfl, rfl, rfl, rfl, rfl, rfl, rfl⟩

@[simp] theorem DieUnit.raiseAll_fields (d : DieUnit) (p : Nat) (l : List Fld) :
    (d.raiseAll p l).regs = d.regs.raiseAll p l ∧ (d.raiseAll p l).tc = d.tc ∧ (d.raiseAll p l).free = d.free
      ∧ (d.raiseAll p l).port = d.port ∧ (d.raiseAll p l).sn = d.sn ∧ (d.raiseAll p l).pdCnt = d.pdCnt
      ∧ (d.raiseAll p l).pdTrc = d.pdTrc ∧ (d.raiseAll p l).pdEgr = d.pdEgr ∧ (d.raiseAll p l).pdTcp = d.pdTcp
      ∧ (d.raiseAll p l).light = d.light ∧ (d.raiseAll p l).ltErr = d.ltErr ∧ (d.raiseAll p l).lightOvf = d.lightOvf
      ∧ (d.raiseAll p l).peals = d.peals ∧ (d.raiseAll p l).cnt = d.cnt ∧ (d.raiseAll p l).trc = d.trc
      ∧ (d.raiseAll p l).tcp = d.tcp ∧ (d.raiseAll p l).fb = d.fb ∧ (d.raiseAll p l).shp = d.shp
      ∧ (d.raiseAll p l).short = d.short ∧ (d.raiseAll p l).macTx = d.macTx ∧ (d.raiseAll p l).toc = d.toc
      ∧ (d.raiseAll p l).he = d.he ∧ (d.raiseAll p l).recd = d.recd ∧ (d.raiseAll p l).ctl = d.ctl
      ∧ (d.raiseAll p l).heldWake = d.heldWake := by
  cases d; exact ⟨rfl, rfl, rfl, rfl, rfl, rfl, rfl, rfl, rfl, rfl, rfl, rfl, rfl, rfl, rfl, rfl, rfl, rfl, rfl, rfl, rfl, rfl, rfl, rfl, rfl⟩

@[simp] theorem DieUnit.withView_fields (d : DieUnit) (x : TimeView) :
    (d.withView x).regs = x.regs ∧ (d.withView x).tc = x.tc ∧ (d.withView x).free = d.free ∧ (d.withView x).port = d.port
      ∧ (d.withView x).sn = d.sn ∧ (d.withView x).pdCnt = d.pdCnt ∧ (d.withView x).pdTrc = d.pdTrc
      ∧ (d.withView x).pdEgr = d.pdEgr ∧ (d.withView x).pdTcp = d.pdTcp ∧ (d.withView x).light = d.light
      ∧ (d.withView x).ltErr = d.ltErr ∧ (d.withView x).lightOvf = d.lightOvf ∧ (d.withView x).peals = d.peals
      ∧ (d.withView x).cnt = d.cnt ∧ (d.withView x).trc = d.trc ∧ (d.withView x).tcp = d.tcp ∧ (d.withView x).fb = d.fb
      ∧ (d.withView x).shp = d.shp ∧ (d.withView x).short = d.short ∧ (d.withView x).macTx = d.macTx
      ∧ (d.withView x).toc = d.toc ∧ (d.withView x).he = d.he ∧ (d.withView x).recd = d.recd ∧ (d.withView x).ctl = d.ctl
      ∧ (d.withView x).heldWake = d.heldWake := by
  cases d; exact ⟨rfl, rfl, rfl, rfl, rfl, rfl, rfl, rfl, rfl, rfl, rfl, rfl, rfl, rfl, rfl, rfl, rfl, rfl, rfl, rfl, rfl, rfl, rfl, rfl, rfl⟩

@[simp] theorem Aggregator.set_fields (a : Aggregator) (f : Fld) (n : Nat) :
    (a.set f n).regs = a.regs.set f n ∧ (a.set f n).tc = a.tc ∧ (a.set f n).free = a.free ∧ (a.set f n).cfg = a.cfg
      ∧ (a.set f n).serial = a.serial ∧ (a.set f n).mem = a.mem ∧ (a.set f n).host = a.host ∧ (a.set f n).sync = a.sync
      ∧ (a.set f n).pwr = a.pwr ∧ (a.set f n).bar = a.bar ∧ (a.set f n).recd = a.recd ∧ (a.set f n).temp = a.temp
      ∧ (a.set f n).mv = a.mv ∧ (a.set f n).toc = a.toc ∧ (a.set f n).ing = a.ing ∧ (a.set f n).jobs = a.jobs
      ∧ (a.set f n).led = a.led ∧ (a.set f n).aud = a.aud ∧ (a.set f n).det = a.det ∧ (a.set f n).hlt = a.hlt
      ∧ (a.set f n).hif = a.hif ∧ (a.set f n).out = a.out ∧ (a.set f n).ptpOut = a.ptpOut ∧ (a.set f n).syncAt = a.syncAt
      ∧ (a.set f n).annAt = a.annAt ∧ (a.set f n).refOut = a.refOut ∧ (a.set f n).erasing = a.erasing
      ∧ (a.set f n).boot = a.boot := by
  cases a; exact ⟨rfl, rfl, rfl, rfl, rfl, rfl, rfl, rfl, rfl, rfl, rfl, rfl, rfl, rfl, rfl, rfl, rfl, rfl, rfl, rfl, rfl, rfl, rfl, rfl, rfl, rfl, rfl, rfl⟩

@[simp] theorem Aggregator.inc_fields (a : Aggregator) (f : Fld) (n : Nat) :
    (a.inc f n).regs = a.regs.inc f n ∧ (a.inc f n).tc = a.tc ∧ (a.inc f n).free = a.free ∧ (a.inc f n).cfg = a.cfg
      ∧ (a.inc f n).serial = a.serial ∧ (a.inc f n).mem = a.mem ∧ (a.inc f n).host = a.host ∧ (a.inc f n).sync = a.sync
      ∧ (a.inc f n).pwr = a.pwr ∧ (a.inc f n).bar = a.bar ∧ (a.inc f n).recd = a.recd ∧ (a.inc f n).temp = a.temp
      ∧ (a.inc f n).mv = a.mv ∧ (a.inc f n).toc = a.toc ∧ (a.inc f n).ing = a.ing ∧ (a.inc f n).jobs = a.jobs
      ∧ (a.inc f n).led = a.led ∧ (a.inc f n).aud = a.aud ∧ (a.inc f n).det = a.det ∧ (a.inc f n).hlt = a.hlt
      ∧ (a.inc f n).hif = a.hif ∧ (a.inc f n).out = a.out ∧ (a.inc f n).ptpOut = a.ptpOut ∧ (a.inc f n).syncAt = a.syncAt
      ∧ (a.inc f n).annAt = a.annAt ∧ (a.inc f n).refOut = a.refOut ∧ (a.inc f n).erasing = a.erasing
      ∧ (a.inc f n).boot = a.boot := by
  cases a; exact ⟨rfl, rfl, rfl, rfl, rfl, rfl, rfl, rfl, rfl, rfl, rfl, rfl, rfl, rfl, rfl, rfl, rfl, rfl, rfl, rfl, rfl, rfl, rfl, rfl, rfl, rfl, rfl, rfl⟩

@[simp] theorem Aggregator.incWrap_fields (a : Aggregator) (f : Fld) (n : Nat) :
    (a.incWrap f n).regs = a.regs.incWrap f n ∧ (a.incWrap f n).tc = a.tc ∧ (a.incWrap f n).free = a.free
      ∧ (a.incWrap f n).cfg = a.cfg ∧ (a.incWrap f n).serial = a.serial ∧ (a.incWrap f n).mem = a.mem
      ∧ (a.incWrap f n).host = a.host ∧ (a.incWrap f n).sync = a.sync ∧ (a.incWrap f n).pwr = a.pwr
      ∧ (a.incWrap f n).bar = a.bar ∧ (a.incWrap f n).recd = a.recd ∧ (a.incWrap f n).temp = a.temp
      ∧ (a.incWrap f n).mv = a.mv ∧ (a.incWrap f n).toc = a.toc ∧ (a.incWrap f n).ing = a.ing ∧ (a.incWrap f n).jobs = a.jobs
      ∧ (a.incWrap f n).led = a.led ∧ (a.incWrap f n).aud = a.aud ∧ (a.incWrap f n).det = a.det ∧ (a.incWrap f n).hlt = a.hlt
      ∧ (a.incWrap f n).hif = a.hif ∧ (a.incWrap f n).out = a.out ∧ (a.incWrap f n).ptpOut = a.ptpOut
      ∧ (a.incWrap f n).syncAt = a.syncAt ∧ (a.incWrap f n).annAt = a.annAt ∧ (a.incWrap f n).refOut = a.refOut
      ∧ (a.incWrap f n).erasing = a.erasing ∧ (a.incWrap f n).boot = a.boot := by
  cases a; exact ⟨rfl, rfl, rfl, rfl, rfl, rfl, rfl, rfl, rfl, rfl, rfl, rfl, rfl, rfl, rfl, rfl, rfl, rfl, rfl, rfl, rfl, rfl, rfl, rfl, rfl, rfl, rfl, rfl⟩

@[simp] theorem Aggregator.raise_fields (a : Aggregator) (f : Fld) :
    (a.raise f).regs = a.regs.raise f ∧ (a.raise f).tc = a.tc ∧ (a.raise f).free = a.free ∧ (a.raise f).cfg = a.cfg
      ∧ (a.raise f).serial = a.serial ∧ (a.raise f).mem = a.mem ∧ (a.raise f).host = a.host ∧ (a.raise f).sync = a.sync
      ∧ (a.raise f).pwr = a.pwr ∧ (a.raise f).bar = a.bar ∧ (a.raise f).recd = a.recd ∧ (a.raise f).temp = a.temp
      ∧ (a.raise f).mv = a.mv ∧ (a.raise f).toc = a.toc ∧ (a.raise f).ing = a.ing ∧ (a.raise f).jobs = a.jobs
      ∧ (a.raise f).led = a.led ∧ (a.raise f).aud = a.aud ∧ (a.raise f).det = a.det ∧ (a.raise f).hlt = a.hlt
      ∧ (a.raise f).hif = a.hif ∧ (a.raise f).out = a.out ∧ (a.raise f).ptpOut = a.ptpOut ∧ (a.raise f).syncAt = a.syncAt
      ∧ (a.raise f).annAt = a.annAt ∧ (a.raise f).refOut = a.refOut ∧ (a.raise f).erasing = a.erasing
      ∧ (a.raise f).boot = a.boot := by
  cases a; exact ⟨rfl, rfl, rfl, rfl, rfl, rfl, rfl, rfl, rfl, rfl, rfl, rfl, rfl, rfl, rfl, rfl, rfl, rfl, rfl, rfl, rfl, rfl, rfl, rfl, rfl, rfl, rfl, rfl⟩

@[simp] theorem Aggregator.raiseAll_fields (a : Aggregator) (p : Nat) (l : List Fld) :
    (a.raiseAll p l).regs = a.regs.raiseAll p l ∧ (a.raiseAll p l).tc = a.tc ∧ (a.raiseAll p l).free = a.free
      ∧ (a.raiseAll p l).cfg = a.cfg ∧ (a.raiseAll p l).serial = a.serial ∧ (a.raiseAll p l).mem = a.mem
      ∧ (a.raiseAll p l).host = a.host ∧ (a.raiseAll p l).sync = a.sync ∧ (a.raiseAll p l).pwr = a.pwr
      ∧ (a.raiseAll p l).bar = a.bar ∧ (a.raiseAll p l).recd = a.recd ∧ (a.raiseAll p l).temp = a.temp
      ∧ (a.raiseAll p l).mv = a.mv ∧ (a.raiseAll p l).toc = a.toc ∧ (a.raiseAll p l).ing = a.ing
      ∧ (a.raiseAll p l).jobs = a.jobs ∧ (a.raiseAll p l).led = a.led ∧ (a.raiseAll p l).aud = a.aud
      ∧ (a.raiseAll p l).det = a.det ∧ (a.raiseAll p l).hlt = a.hlt ∧ (a.raiseAll p l).hif = a.hif
      ∧ (a.raiseAll p l).out = a.out ∧ (a.raiseAll p l).ptpOut = a.ptpOut ∧ (a.raiseAll p l).syncAt = a.syncAt
      ∧ (a.raiseAll p l).annAt = a.annAt ∧ (a.raiseAll p l).refOut = a.refOut ∧ (a.raiseAll p l).erasing = a.erasing
      ∧ (a.raiseAll p l).boot = a.boot := by
  cases a; exact ⟨rfl, rfl, rfl, rfl, rfl, rfl, rfl, rfl, rfl, rfl, rfl, rfl, rfl, rfl, rfl, rfl, rfl, rfl, rfl, rfl, rfl, rfl, rfl, rfl, rfl, rfl, rfl, rfl⟩

@[simp] theorem Aggregator.setWord_fields (a : Aggregator) (k : Nat) (w : W64) :
    (a.setWord k w).regs = a.regs.setWord k w ∧ (a.setWord k w).tc = a.tc ∧ (a.setWord k w).free = a.free
      ∧ (a.setWord k w).cfg = a.cfg ∧ (a.setWord k w).serial = a.serial ∧ (a.setWord k w).mem = a.mem
      ∧ (a.setWord k w).host = a.host ∧ (a.setWord k w).sync = a.sync ∧ (a.setWord k w).pwr = a.pwr
      ∧ (a.setWord k w).bar = a.bar ∧ (a.setWord k w).recd = a.recd ∧ (a.setWord k w).temp = a.temp
      ∧ (a.setWord k w).mv = a.mv ∧ (a.setWord k w).toc = a.toc ∧ (a.setWord k w).ing = a.ing ∧ (a.setWord k w).jobs = a.jobs
      ∧ (a.setWord k w).led = a.led ∧ (a.setWord k w).aud = a.aud ∧ (a.setWord k w).det = a.det ∧ (a.setWord k w).hlt = a.hlt
      ∧ (a.setWord k w).hif = a.hif ∧ (a.setWord k w).out = a.out ∧ (a.setWord k w).ptpOut = a.ptpOut
      ∧ (a.setWord k w).syncAt = a.syncAt ∧ (a.setWord k w).annAt = a.annAt ∧ (a.setWord k w).refOut = a.refOut
      ∧ (a.setWord k w).erasing = a.erasing ∧ (a.setWord k w).boot = a.boot := by
  cases a; exact ⟨rfl, rfl, rfl, rfl, rfl, rfl, rfl, rfl, rfl, rfl, rfl, rfl, rfl, rfl, rfl, rfl, rfl, rfl, rfl, rfl, rfl, rfl, rfl, rfl, rfl, rfl, rfl, rfl⟩

@[simp] theorem Aggregator.withView_fields (a : Aggregator) (x : TimeView) :
    (a.withView x).regs = x.regs ∧ (a.withView x).tc = x.tc ∧ (a.withView x).free = a.free ∧ (a.withView x).cfg = a.cfg
      ∧ (a.withView x).serial = a.serial ∧ (a.withView x).mem = a.mem ∧ (a.withView x).host = a.host
      ∧ (a.withView x).sync = a.sync ∧ (a.withView x).pwr = a.pwr ∧ (a.withView x).bar = a.bar ∧ (a.withView x).recd = a.recd
      ∧ (a.withView x).temp = a.temp ∧ (a.withView x).mv = a.mv ∧ (a.withView x).toc = a.toc ∧ (a.withView x).ing = a.ing
      ∧ (a.withView x).jobs = a.jobs ∧ (a.withView x).led = a.led ∧ (a.withView x).aud = a.aud ∧ (a.withView x).det = a.det
      ∧ (a.withView x).hlt = a.hlt ∧ (a.withView x).hif = a.hif ∧ (a.withView x).out = a.out
      ∧ (a.withView x).ptpOut = a.ptpOut ∧ (a.withView x).syncAt = a.syncAt ∧ (a.withView x).annAt = a.annAt
      ∧ (a.withView x).refOut = a.refOut ∧ (a.withView x).erasing = a.erasing ∧ (a.withView x).boot = a.boot := by
  cases a; exact ⟨rfl, rfl, rfl, rfl, rfl, rfl, rfl, rfl, rfl, rfl, rfl, rfl, rfl, rfl, rfl, rfl, rfl, rfl, rfl, rfl, rfl, rfl, rfl, rfl, rfl, rfl, rfl, rfl⟩

@[simp] theorem DieUnit.modCtl_fields (d : DieUnit) (f : Control → Control) :
    (d.modCtl f).regs = d.regs ∧ (d.modCtl f).tc = d.tc ∧ (d.modCtl f).free = d.free ∧ (d.modCtl f).port = d.port
      ∧ (d.modCtl f).sn = d.sn ∧ (d.modCtl f).pdCnt = d.pdCnt ∧ (d.modCtl f).pdTrc = d.pdTrc ∧ (d.modCtl f).pdEgr = d.pdEgr
      ∧ (d.modCtl f).pdTcp = d.pdTcp ∧ (d.modCtl f).light = d.light ∧ (d.modCtl f).ltErr = d.ltErr
      ∧ (d.modCtl f).lightOvf = d.lightOvf ∧ (d.modCtl f).peals = d.peals ∧ (d.modCtl f).cnt = d.cnt
      ∧ (d.modCtl f).trc = d.trc ∧ (d.modCtl f).tcp = d.tcp ∧ (d.modCtl f).fb = d.fb ∧ (d.modCtl f).shp = d.shp
      ∧ (d.modCtl f).short = d.short ∧ (d.modCtl f).macTx = d.macTx ∧ (d.modCtl f).toc = d.toc ∧ (d.modCtl f).he = d.he
      ∧ (d.modCtl f).recd = d.recd ∧ (d.modCtl f).ctl = f d.ctl ∧ (d.modCtl f).heldWake = d.heldWake := by
  cases d; exact ⟨rfl, rfl, rfl, rfl, rfl, rfl, rfl, rfl, rfl, rfl, rfl, rfl, rfl, rfl, rfl, rfl, rfl, rfl, rfl, rfl, rfl, rfl, rfl, rfl, rfl⟩

@[simp] theorem DieUnit.modCnt_fields (d : DieUnit) (f : CounterBank → CounterBank) :
    (d.modCnt f).regs = d.regs ∧ (d.modCnt f).tc = d.tc ∧ (d.modCnt f).free = d.free ∧ (d.modCnt f).port = d.port
      ∧ (d.modCnt f).sn = d.sn ∧ (d.modCnt f).pdCnt = d.pdCnt ∧ (d.modCnt f).pdTrc = d.pdTrc ∧ (d.modCnt f).pdEgr = d.pdEgr
      ∧ (d.modCnt f).pdTcp = d.pdTcp ∧ (d.modCnt f).light = d.light ∧ (d.modCnt f).ltErr = d.ltErr
      ∧ (d.modCnt f).lightOvf = d.lightOvf ∧ (d.modCnt f).peals = d.peals ∧ (d.modCnt f).cnt = f d.cnt
      ∧ (d.modCnt f).trc = d.trc ∧ (d.modCnt f).tcp = d.tcp ∧ (d.modCnt f).fb = d.fb ∧ (d.modCnt f).shp = d.shp
      ∧ (d.modCnt f).short = d.short ∧ (d.modCnt f).macTx = d.macTx ∧ (d.modCnt f).toc = d.toc ∧ (d.modCnt f).he = d.he
      ∧ (d.modCnt f).recd = d.recd ∧ (d.modCnt f).ctl = d.ctl ∧ (d.modCnt f).heldWake = d.heldWake := by
  cases d; exact ⟨rfl, rfl, rfl, rfl, rfl, rfl, rfl, rfl, rfl, rfl, rfl, rfl, rfl, rfl, rfl, rfl, rfl, rfl, rfl, rfl, rfl, rfl, rfl, rfl, rfl⟩

@[simp] theorem DieUnit.modFb_fields (d : DieUnit) (f : FrameBuilder → FrameBuilder) :
    (d.modFb f).regs = d.regs ∧ (d.modFb f).tc = d.tc ∧ (d.modFb f).free = d.free ∧ (d.modFb f).port = d.port
      ∧ (d.modFb f).sn = d.sn ∧ (d.modFb f).pdCnt = d.pdCnt ∧ (d.modFb f).pdTrc = d.pdTrc ∧ (d.modFb f).pdEgr = d.pdEgr
      ∧ (d.modFb f).pdTcp = d.pdTcp ∧ (d.modFb f).light = d.light ∧ (d.modFb f).ltErr = d.ltErr
      ∧ (d.modFb f).lightOvf = d.lightOvf ∧ (d.modFb f).peals = d.peals ∧ (d.modFb f).cnt = d.cnt ∧ (d.modFb f).trc = d.trc
      ∧ (d.modFb f).tcp = d.tcp ∧ (d.modFb f).fb = f d.fb ∧ (d.modFb f).shp = d.shp ∧ (d.modFb f).short = d.short
      ∧ (d.modFb f).macTx = d.macTx ∧ (d.modFb f).toc = d.toc ∧ (d.modFb f).he = d.he ∧ (d.modFb f).recd = d.recd
      ∧ (d.modFb f).ctl = d.ctl ∧ (d.modFb f).heldWake = d.heldWake := by
  cases d; exact ⟨rfl, rfl, rfl, rfl, rfl, rfl, rfl, rfl, rfl, rfl, rfl, rfl, rfl, rfl, rfl, rfl, rfl, rfl, rfl, rfl, rfl, rfl, rfl, rfl, rfl⟩

@[simp] theorem DieUnit.modShp_fields (d : DieUnit) (f : Shaper → Shaper) :
    (d.modShp f).regs = d.regs ∧ (d.modShp f).tc = d.tc ∧ (d.modShp f).free = d.free ∧ (d.modShp f).port = d.port
      ∧ (d.modShp f).sn = d.sn ∧ (d.modShp f).pdCnt = d.pdCnt ∧ (d.modShp f).pdTrc = d.pdTrc ∧ (d.modShp f).pdEgr = d.pdEgr
      ∧ (d.modShp f).pdTcp = d.pdTcp ∧ (d.modShp f).light = d.light ∧ (d.modShp f).ltErr = d.ltErr
      ∧ (d.modShp f).lightOvf = d.lightOvf ∧ (d.modShp f).peals = d.peals ∧ (d.modShp f).cnt = d.cnt
      ∧ (d.modShp f).trc = d.trc ∧ (d.modShp f).tcp = d.tcp ∧ (d.modShp f).fb = d.fb ∧ (d.modShp f).shp = f d.shp
      ∧ (d.modShp f).short = d.short ∧ (d.modShp f).macTx = d.macTx ∧ (d.modShp f).toc = d.toc ∧ (d.modShp f).he = d.he
      ∧ (d.modShp f).recd = d.recd ∧ (d.modShp f).ctl = d.ctl ∧ (d.modShp f).heldWake = d.heldWake := by
  cases d; exact ⟨rfl, rfl, rfl, rfl, rfl, rfl, rfl, rfl, rfl, rfl, rfl, rfl, rfl, rfl, rfl, rfl, rfl, rfl, rfl, rfl, rfl, rfl, rfl, rfl, rfl⟩

@[simp] theorem DieUnit.modHe_fields (d : DieUnit) (f : Health → Health) :
    (d.modHe f).regs = d.regs ∧ (d.modHe f).tc = d.tc ∧ (d.modHe f).free = d.free ∧ (d.modHe f).port = d.port
      ∧ (d.modHe f).sn = d.sn ∧ (d.modHe f).pdCnt = d.pdCnt ∧ (d.modHe f).pdTrc = d.pdTrc ∧ (d.modHe f).pdEgr = d.pdEgr
      ∧ (d.modHe f).pdTcp = d.pdTcp ∧ (d.modHe f).light = d.light ∧ (d.modHe f).ltErr = d.ltErr
      ∧ (d.modHe f).lightOvf = d.lightOvf ∧ (d.modHe f).peals = d.peals ∧ (d.modHe f).cnt = d.cnt ∧ (d.modHe f).trc = d.trc
      ∧ (d.modHe f).tcp = d.tcp ∧ (d.modHe f).fb = d.fb ∧ (d.modHe f).shp = d.shp ∧ (d.modHe f).short = d.short
      ∧ (d.modHe f).macTx = d.macTx ∧ (d.modHe f).toc = d.toc ∧ (d.modHe f).he = f d.he ∧ (d.modHe f).recd = d.recd
      ∧ (d.modHe f).ctl = d.ctl ∧ (d.modHe f).heldWake = d.heldWake := by
  cases d; exact ⟨rfl, rfl, rfl, rfl, rfl, rfl, rfl, rfl, rfl, rfl, rfl, rfl, rfl, rfl, rfl, rfl, rfl, rfl, rfl, rfl, rfl, rfl, rfl, rfl, rfl⟩

@[simp] theorem DieUnit.modTcp_fields (d : DieUnit) (f : TileCapture → TileCapture) :
    (d.modTcp f).regs = d.regs ∧ (d.modTcp f).tc = d.tc ∧ (d.modTcp f).free = d.free ∧ (d.modTcp f).port = d.port
      ∧ (d.modTcp f).sn = d.sn ∧ (d.modTcp f).pdCnt = d.pdCnt ∧ (d.modTcp f).pdTrc = d.pdTrc ∧ (d.modTcp f).pdEgr = d.pdEgr
      ∧ (d.modTcp f).pdTcp = d.pdTcp ∧ (d.modTcp f).light = d.light ∧ (d.modTcp f).ltErr = d.ltErr
      ∧ (d.modTcp f).lightOvf = d.lightOvf ∧ (d.modTcp f).peals = d.peals ∧ (d.modTcp f).cnt = d.cnt
      ∧ (d.modTcp f).trc = d.trc ∧ (d.modTcp f).tcp = f d.tcp ∧ (d.modTcp f).fb = d.fb ∧ (d.modTcp f).shp = d.shp
      ∧ (d.modTcp f).short = d.short ∧ (d.modTcp f).macTx = d.macTx ∧ (d.modTcp f).toc = d.toc ∧ (d.modTcp f).he = d.he
      ∧ (d.modTcp f).recd = d.recd ∧ (d.modTcp f).ctl = d.ctl ∧ (d.modTcp f).heldWake = d.heldWake := by
  cases d; exact ⟨rfl, rfl, rfl, rfl, rfl, rfl, rfl, rfl, rfl, rfl, rfl, rfl, rfl, rfl, rfl, rfl, rfl, rfl, rfl, rfl, rfl, rfl, rfl, rfl, rfl⟩

@[simp] theorem DieUnit.modToc_fields (d : DieUnit) (f : Tocsin → Tocsin) :
    (d.modToc f).regs = d.regs ∧ (d.modToc f).tc = d.tc ∧ (d.modToc f).free = d.free ∧ (d.modToc f).port = d.port
      ∧ (d.modToc f).sn = d.sn ∧ (d.modToc f).pdCnt = d.pdCnt ∧ (d.modToc f).pdTrc = d.pdTrc ∧ (d.modToc f).pdEgr = d.pdEgr
      ∧ (d.modToc f).pdTcp = d.pdTcp ∧ (d.modToc f).light = d.light ∧ (d.modToc f).ltErr = d.ltErr
      ∧ (d.modToc f).lightOvf = d.lightOvf ∧ (d.modToc f).peals = d.peals ∧ (d.modToc f).cnt = d.cnt
      ∧ (d.modToc f).trc = d.trc ∧ (d.modToc f).tcp = d.tcp ∧ (d.modToc f).fb = d.fb ∧ (d.modToc f).shp = d.shp
      ∧ (d.modToc f).short = d.short ∧ (d.modToc f).macTx = d.macTx ∧ (d.modToc f).toc = f d.toc ∧ (d.modToc f).he = d.he
      ∧ (d.modToc f).recd = d.recd ∧ (d.modToc f).ctl = d.ctl ∧ (d.modToc f).heldWake = d.heldWake := by
  cases d; exact ⟨rfl, rfl, rfl, rfl, rfl, rfl, rfl, rfl, rfl, rfl, rfl, rfl, rfl, rfl, rfl, rfl, rfl, rfl, rfl, rfl, rfl, rfl, rfl, rfl, rfl⟩

@[simp] theorem DieUnit.modTrc_fields (d : DieUnit) (f : TraceFunnel → TraceFunnel) :
    (d.modTrc f).regs = d.regs ∧ (d.modTrc f).tc = d.tc ∧ (d.modTrc f).free = d.free ∧ (d.modTrc f).port = d.port
      ∧ (d.modTrc f).sn = d.sn ∧ (d.modTrc f).pdCnt = d.pdCnt ∧ (d.modTrc f).pdTrc = d.pdTrc ∧ (d.modTrc f).pdEgr = d.pdEgr
      ∧ (d.modTrc f).pdTcp = d.pdTcp ∧ (d.modTrc f).light = d.light ∧ (d.modTrc f).ltErr = d.ltErr
      ∧ (d.modTrc f).lightOvf = d.lightOvf ∧ (d.modTrc f).peals = d.peals ∧ (d.modTrc f).cnt = d.cnt
      ∧ (d.modTrc f).trc = f d.trc ∧ (d.modTrc f).tcp = d.tcp ∧ (d.modTrc f).fb = d.fb ∧ (d.modTrc f).shp = d.shp
      ∧ (d.modTrc f).short = d.short ∧ (d.modTrc f).macTx = d.macTx ∧ (d.modTrc f).toc = d.toc ∧ (d.modTrc f).he = d.he
      ∧ (d.modTrc f).recd = d.recd ∧ (d.modTrc f).ctl = d.ctl ∧ (d.modTrc f).heldWake = d.heldWake := by
  cases d; exact ⟨rfl, rfl, rfl, rfl, rfl, rfl, rfl, rfl, rfl, rfl, rfl, rfl, rfl, rfl, rfl, rfl, rfl, rfl, rfl, rfl, rfl, rfl, rfl, rfl, rfl⟩

@[simp] theorem DieUnit.withRec_fields (d : DieUnit) (x : RecView) :
    (d.withRec x).regs = x.regs ∧ (d.withRec x).tc = d.tc ∧ (d.withRec x).free = d.free ∧ (d.withRec x).port = d.port
      ∧ (d.withRec x).sn = d.sn ∧ (d.withRec x).pdCnt = d.pdCnt ∧ (d.withRec x).pdTrc = d.pdTrc
      ∧ (d.withRec x).pdEgr = d.pdEgr ∧ (d.withRec x).pdTcp = d.pdTcp ∧ (d.withRec x).light = d.light
      ∧ (d.withRec x).ltErr = d.ltErr ∧ (d.withRec x).lightOvf = d.lightOvf ∧ (d.withRec x).peals = d.peals
      ∧ (d.withRec x).cnt = d.cnt ∧ (d.withRec x).trc = d.trc ∧ (d.withRec x).tcp = d.tcp ∧ (d.withRec x).fb = d.fb
      ∧ (d.withRec x).shp = d.shp ∧ (d.withRec x).short = d.short ∧ (d.withRec x).macTx = d.macTx ∧ (d.withRec x).toc = d.toc
      ∧ (d.withRec x).he = d.he ∧ (d.withRec x).recd = x.rc ∧ (d.withRec x).ctl = d.ctl ∧ (d.withRec x).heldWake = d.heldWake := by
  cases d; exact ⟨rfl, rfl, rfl, rfl, rfl, rfl, rfl, rfl, rfl, rfl, rfl, rfl, rfl, rfl, rfl, rfl, rfl, rfl, rfl, rfl, rfl, rfl, rfl, rfl, rfl⟩

@[simp] theorem Aggregator.modPwr_fields (a : Aggregator) (f : PowerMgr → PowerMgr) :
    (a.modPwr f).regs = a.regs ∧ (a.modPwr f).tc = a.tc ∧ (a.modPwr f).free = a.free ∧ (a.modPwr f).cfg = a.cfg
      ∧ (a.modPwr f).serial = a.serial ∧ (a.modPwr f).mem = a.mem ∧ (a.modPwr f).host = a.host ∧ (a.modPwr f).sync = a.sync
      ∧ (a.modPwr f).pwr = f a.pwr ∧ (a.modPwr f).bar = a.bar ∧ (a.modPwr f).recd = a.recd ∧ (a.modPwr f).temp = a.temp
      ∧ (a.modPwr f).mv = a.mv ∧ (a.modPwr f).toc = a.toc ∧ (a.modPwr f).ing = a.ing ∧ (a.modPwr f).jobs = a.jobs
      ∧ (a.modPwr f).led = a.led ∧ (a.modPwr f).aud = a.aud ∧ (a.modPwr f).det = a.det ∧ (a.modPwr f).hlt = a.hlt
      ∧ (a.modPwr f).hif = a.hif ∧ (a.modPwr f).out = a.out ∧ (a.modPwr f).ptpOut = a.ptpOut ∧ (a.modPwr f).syncAt = a.syncAt
      ∧ (a.modPwr f).annAt = a.annAt ∧ (a.modPwr f).refOut = a.refOut ∧ (a.modPwr f).erasing = a.erasing
      ∧ (a.modPwr f).boot = a.boot := by
  cases a; exact ⟨rfl, rfl, rfl, rfl, rfl, rfl, rfl, rfl, rfl, rfl, rfl, rfl, rfl, rfl, rfl, rfl, rfl, rfl, rfl, rfl, rfl, rfl, rfl, rfl, rfl, rfl, rfl, rfl⟩

@[simp] theorem Aggregator.modSync_fields (a : Aggregator) (f : SyncNet → SyncNet) :
    (a.modSync f).regs = a.regs ∧ (a.modSync f).tc = a.tc ∧ (a.modSync f).free = a.free ∧ (a.modSync f).cfg = a.cfg
      ∧ (a.modSync f).serial = a.serial ∧ (a.modSync f).mem = a.mem ∧ (a.modSync f).host = a.host
      ∧ (a.modSync f).sync = f a.sync ∧ (a.modSync f).pwr = a.pwr ∧ (a.modSync f).bar = a.bar ∧ (a.modSync f).recd = a.recd
      ∧ (a.modSync f).temp = a.temp ∧ (a.modSync f).mv = a.mv ∧ (a.modSync f).toc = a.toc ∧ (a.modSync f).ing = a.ing
      ∧ (a.modSync f).jobs = a.jobs ∧ (a.modSync f).led = a.led ∧ (a.modSync f).aud = a.aud ∧ (a.modSync f).det = a.det
      ∧ (a.modSync f).hlt = a.hlt ∧ (a.modSync f).hif = a.hif ∧ (a.modSync f).out = a.out ∧ (a.modSync f).ptpOut = a.ptpOut
      ∧ (a.modSync f).syncAt = a.syncAt ∧ (a.modSync f).annAt = a.annAt ∧ (a.modSync f).refOut = a.refOut
      ∧ (a.modSync f).erasing = a.erasing ∧ (a.modSync f).boot = a.boot := by
  cases a; exact ⟨rfl, rfl, rfl, rfl, rfl, rfl, rfl, rfl, rfl, rfl, rfl, rfl, rfl, rfl, rfl, rfl, rfl, rfl, rfl, rfl, rfl, rfl, rfl, rfl, rfl, rfl, rfl, rfl⟩

@[simp] theorem Aggregator.modBar_fields (a : Aggregator) (f : BarState → BarState) :
    (a.modBar f).regs = a.regs ∧ (a.modBar f).tc = a.tc ∧ (a.modBar f).free = a.free ∧ (a.modBar f).cfg = a.cfg
      ∧ (a.modBar f).serial = a.serial ∧ (a.modBar f).mem = a.mem ∧ (a.modBar f).host = a.host ∧ (a.modBar f).sync = a.sync
      ∧ (a.modBar f).pwr = a.pwr ∧ (a.modBar f).bar = f a.bar ∧ (a.modBar f).recd = a.recd ∧ (a.modBar f).temp = a.temp
      ∧ (a.modBar f).mv = a.mv ∧ (a.modBar f).toc = a.toc ∧ (a.modBar f).ing = a.ing ∧ (a.modBar f).jobs = a.jobs
      ∧ (a.modBar f).led = a.led ∧ (a.modBar f).aud = a.aud ∧ (a.modBar f).det = a.det ∧ (a.modBar f).hlt = a.hlt
      ∧ (a.modBar f).hif = a.hif ∧ (a.modBar f).out = a.out ∧ (a.modBar f).ptpOut = a.ptpOut ∧ (a.modBar f).syncAt = a.syncAt
      ∧ (a.modBar f).annAt = a.annAt ∧ (a.modBar f).refOut = a.refOut ∧ (a.modBar f).erasing = a.erasing
      ∧ (a.modBar f).boot = a.boot := by
  cases a; exact ⟨rfl, rfl, rfl, rfl, rfl, rfl, rfl, rfl, rfl, rfl, rfl, rfl, rfl, rfl, rfl, rfl, rfl, rfl, rfl, rfl, rfl, rfl, rfl, rfl, rfl, rfl, rfl, rfl⟩

@[simp] theorem Aggregator.modIng_fields (a : Aggregator) (f : Ingest → Ingest) :
    (a.modIng f).regs = a.regs ∧ (a.modIng f).tc = a.tc ∧ (a.modIng f).free = a.free ∧ (a.modIng f).cfg = a.cfg
      ∧ (a.modIng f).serial = a.serial ∧ (a.modIng f).mem = a.mem ∧ (a.modIng f).host = a.host ∧ (a.modIng f).sync = a.sync
      ∧ (a.modIng f).pwr = a.pwr ∧ (a.modIng f).bar = a.bar ∧ (a.modIng f).recd = a.recd ∧ (a.modIng f).temp = a.temp
      ∧ (a.modIng f).mv = a.mv ∧ (a.modIng f).toc = a.toc ∧ (a.modIng f).ing = f a.ing ∧ (a.modIng f).jobs = a.jobs
      ∧ (a.modIng f).led = a.led ∧ (a.modIng f).aud = a.aud ∧ (a.modIng f).det = a.det ∧ (a.modIng f).hlt = a.hlt
      ∧ (a.modIng f).hif = a.hif ∧ (a.modIng f).out = a.out ∧ (a.modIng f).ptpOut = a.ptpOut ∧ (a.modIng f).syncAt = a.syncAt
      ∧ (a.modIng f).annAt = a.annAt ∧ (a.modIng f).refOut = a.refOut ∧ (a.modIng f).erasing = a.erasing
      ∧ (a.modIng f).boot = a.boot := by
  cases a; exact ⟨rfl, rfl, rfl, rfl, rfl, rfl, rfl, rfl, rfl, rfl, rfl, rfl, rfl, rfl, rfl, rfl, rfl, rfl, rfl, rfl, rfl, rfl, rfl, rfl, rfl, rfl, rfl, rfl⟩

@[simp] theorem Aggregator.modLed_fields (a : Aggregator) (f : LedgerUnit → LedgerUnit) :
    (a.modLed f).regs = a.regs ∧ (a.modLed f).tc = a.tc ∧ (a.modLed f).free = a.free ∧ (a.modLed f).cfg = a.cfg
      ∧ (a.modLed f).serial = a.serial ∧ (a.modLed f).mem = a.mem ∧ (a.modLed f).host = a.host ∧ (a.modLed f).sync = a.sync
      ∧ (a.modLed f).pwr = a.pwr ∧ (a.modLed f).bar = a.bar ∧ (a.modLed f).recd = a.recd ∧ (a.modLed f).temp = a.temp
      ∧ (a.modLed f).mv = a.mv ∧ (a.modLed f).toc = a.toc ∧ (a.modLed f).ing = a.ing ∧ (a.modLed f).jobs = a.jobs
      ∧ (a.modLed f).led = f a.led ∧ (a.modLed f).aud = a.aud ∧ (a.modLed f).det = a.det ∧ (a.modLed f).hlt = a.hlt
      ∧ (a.modLed f).hif = a.hif ∧ (a.modLed f).out = a.out ∧ (a.modLed f).ptpOut = a.ptpOut ∧ (a.modLed f).syncAt = a.syncAt
      ∧ (a.modLed f).annAt = a.annAt ∧ (a.modLed f).refOut = a.refOut ∧ (a.modLed f).erasing = a.erasing
      ∧ (a.modLed f).boot = a.boot := by
  cases a; exact ⟨rfl, rfl, rfl, rfl, rfl, rfl, rfl, rfl, rfl, rfl, rfl, rfl, rfl, rfl, rfl, rfl, rfl, rfl, rfl, rfl, rfl, rfl, rfl, rfl, rfl, rfl, rfl, rfl⟩

@[simp] theorem Aggregator.modAud_fields (a : Aggregator) (f : Audit → Audit) :
    (a.modAud f).regs = a.regs ∧ (a.modAud f).tc = a.tc ∧ (a.modAud f).free = a.free ∧ (a.modAud f).cfg = a.cfg
      ∧ (a.modAud f).serial = a.serial ∧ (a.modAud f).mem = a.mem ∧ (a.modAud f).host = a.host ∧ (a.modAud f).sync = a.sync
      ∧ (a.modAud f).pwr = a.pwr ∧ (a.modAud f).bar = a.bar ∧ (a.modAud f).recd = a.recd ∧ (a.modAud f).temp = a.temp
      ∧ (a.modAud f).mv = a.mv ∧ (a.modAud f).toc = a.toc ∧ (a.modAud f).ing = a.ing ∧ (a.modAud f).jobs = a.jobs
      ∧ (a.modAud f).led = a.led ∧ (a.modAud f).aud = f a.aud ∧ (a.modAud f).det = a.det ∧ (a.modAud f).hlt = a.hlt
      ∧ (a.modAud f).hif = a.hif ∧ (a.modAud f).out = a.out ∧ (a.modAud f).ptpOut = a.ptpOut ∧ (a.modAud f).syncAt = a.syncAt
      ∧ (a.modAud f).annAt = a.annAt ∧ (a.modAud f).refOut = a.refOut ∧ (a.modAud f).erasing = a.erasing
      ∧ (a.modAud f).boot = a.boot := by
  cases a; exact ⟨rfl, rfl, rfl, rfl, rfl, rfl, rfl, rfl, rfl, rfl, rfl, rfl, rfl, rfl, rfl, rfl, rfl, rfl, rfl, rfl, rfl, rfl, rfl, rfl, rfl, rfl, rfl, rfl⟩

@[simp] theorem Aggregator.modDet_fields (a : Aggregator) (f : Detectors → Detectors) :
    (a.modDet f).regs = a.regs ∧ (a.modDet f).tc = a.tc ∧ (a.modDet f).free = a.free ∧ (a.modDet f).cfg = a.cfg
      ∧ (a.modDet f).serial = a.serial ∧ (a.modDet f).mem = a.mem ∧ (a.modDet f).host = a.host ∧ (a.modDet f).sync = a.sync
      ∧ (a.modDet f).pwr = a.pwr ∧ (a.modDet f).bar = a.bar ∧ (a.modDet f).recd = a.recd ∧ (a.modDet f).temp = a.temp
      ∧ (a.modDet f).mv = a.mv ∧ (a.modDet f).toc = a.toc ∧ (a.modDet f).ing = a.ing ∧ (a.modDet f).jobs = a.jobs
      ∧ (a.modDet f).led = a.led ∧ (a.modDet f).aud = a.aud ∧ (a.modDet f).det = f a.det ∧ (a.modDet f).hlt = a.hlt
      ∧ (a.modDet f).hif = a.hif ∧ (a.modDet f).out = a.out ∧ (a.modDet f).ptpOut = a.ptpOut ∧ (a.modDet f).syncAt = a.syncAt
      ∧ (a.modDet f).annAt = a.annAt ∧ (a.modDet f).refOut = a.refOut ∧ (a.modDet f).erasing = a.erasing
      ∧ (a.modDet f).boot = a.boot := by
  cases a; exact ⟨rfl, rfl, rfl, rfl, rfl, rfl, rfl, rfl, rfl, rfl, rfl, rfl, rfl, rfl, rfl, rfl, rfl, rfl, rfl, rfl, rfl, rfl, rfl, rfl, rfl, rfl, rfl, rfl⟩

@[simp] theorem Aggregator.modHlt_fields (a : Aggregator) (f : AggHealth → AggHealth) :
    (a.modHlt f).regs = a.regs ∧ (a.modHlt f).tc = a.tc ∧ (a.modHlt f).free = a.free ∧ (a.modHlt f).cfg = a.cfg
      ∧ (a.modHlt f).serial = a.serial ∧ (a.modHlt f).mem = a.mem ∧ (a.modHlt f).host = a.host ∧ (a.modHlt f).sync = a.sync
      ∧ (a.modHlt f).pwr = a.pwr ∧ (a.modHlt f).bar = a.bar ∧ (a.modHlt f).recd = a.recd ∧ (a.modHlt f).temp = a.temp
      ∧ (a.modHlt f).mv = a.mv ∧ (a.modHlt f).toc = a.toc ∧ (a.modHlt f).ing = a.ing ∧ (a.modHlt f).jobs = a.jobs
      ∧ (a.modHlt f).led = a.led ∧ (a.modHlt f).aud = a.aud ∧ (a.modHlt f).det = a.det ∧ (a.modHlt f).hlt = f a.hlt
      ∧ (a.modHlt f).hif = a.hif ∧ (a.modHlt f).out = a.out ∧ (a.modHlt f).ptpOut = a.ptpOut ∧ (a.modHlt f).syncAt = a.syncAt
      ∧ (a.modHlt f).annAt = a.annAt ∧ (a.modHlt f).refOut = a.refOut ∧ (a.modHlt f).erasing = a.erasing
      ∧ (a.modHlt f).boot = a.boot := by
  cases a; exact ⟨rfl, rfl, rfl, rfl, rfl, rfl, rfl, rfl, rfl, rfl, rfl, rfl, rfl, rfl, rfl, rfl, rfl, rfl, rfl, rfl, rfl, rfl, rfl, rfl, rfl, rfl, rfl, rfl⟩

@[simp] theorem Aggregator.modHif_fields (a : Aggregator) (f : HostIf → HostIf) :
    (a.modHif f).regs = a.regs ∧ (a.modHif f).tc = a.tc ∧ (a.modHif f).free = a.free ∧ (a.modHif f).cfg = a.cfg
      ∧ (a.modHif f).serial = a.serial ∧ (a.modHif f).mem = a.mem ∧ (a.modHif f).host = a.host ∧ (a.modHif f).sync = a.sync
      ∧ (a.modHif f).pwr = a.pwr ∧ (a.modHif f).bar = a.bar ∧ (a.modHif f).recd = a.recd ∧ (a.modHif f).temp = a.temp
      ∧ (a.modHif f).mv = a.mv ∧ (a.modHif f).toc = a.toc ∧ (a.modHif f).ing = a.ing ∧ (a.modHif f).jobs = a.jobs
      ∧ (a.modHif f).led = a.led ∧ (a.modHif f).aud = a.aud ∧ (a.modHif f).det = a.det ∧ (a.modHif f).hlt = a.hlt
      ∧ (a.modHif f).hif = f a.hif ∧ (a.modHif f).out = a.out ∧ (a.modHif f).ptpOut = a.ptpOut
      ∧ (a.modHif f).syncAt = a.syncAt ∧ (a.modHif f).annAt = a.annAt ∧ (a.modHif f).refOut = a.refOut
      ∧ (a.modHif f).erasing = a.erasing ∧ (a.modHif f).boot = a.boot := by
  cases a; exact ⟨rfl, rfl, rfl, rfl, rfl, rfl, rfl, rfl, rfl, rfl, rfl, rfl, rfl, rfl, rfl, rfl, rfl, rfl, rfl, rfl, rfl, rfl, rfl, rfl, rfl, rfl, rfl, rfl⟩

@[simp] theorem Aggregator.modRec_fields (a : Aggregator) (f : Recorder → Recorder) :
    (a.modRec f).regs = a.regs ∧ (a.modRec f).tc = a.tc ∧ (a.modRec f).free = a.free ∧ (a.modRec f).cfg = a.cfg
      ∧ (a.modRec f).serial = a.serial ∧ (a.modRec f).mem = a.mem ∧ (a.modRec f).host = a.host ∧ (a.modRec f).sync = a.sync
      ∧ (a.modRec f).pwr = a.pwr ∧ (a.modRec f).bar = a.bar ∧ (a.modRec f).recd = f a.recd ∧ (a.modRec f).temp = a.temp
      ∧ (a.modRec f).mv = a.mv ∧ (a.modRec f).toc = a.toc ∧ (a.modRec f).ing = a.ing ∧ (a.modRec f).jobs = a.jobs
      ∧ (a.modRec f).led = a.led ∧ (a.modRec f).aud = a.aud ∧ (a.modRec f).det = a.det ∧ (a.modRec f).hlt = a.hlt
      ∧ (a.modRec f).hif = a.hif ∧ (a.modRec f).out = a.out ∧ (a.modRec f).ptpOut = a.ptpOut ∧ (a.modRec f).syncAt = a.syncAt
      ∧ (a.modRec f).annAt = a.annAt ∧ (a.modRec f).refOut = a.refOut ∧ (a.modRec f).erasing = a.erasing
      ∧ (a.modRec f).boot = a.boot := by
  cases a; exact ⟨rfl, rfl, rfl, rfl, rfl, rfl, rfl, rfl, rfl, rfl, rfl, rfl, rfl, rfl, rfl, rfl, rfl, rfl, rfl, rfl, rfl, rfl, rfl, rfl, rfl, rfl, rfl, rfl⟩

@[simp] theorem Aggregator.withRec_fields (a : Aggregator) (x : RecView) :
    (a.withRec x).regs = x.regs ∧ (a.withRec x).tc = a.tc ∧ (a.withRec x).free = a.free ∧ (a.withRec x).cfg = a.cfg
      ∧ (a.withRec x).serial = a.serial ∧ (a.withRec x).mem = a.mem ∧ (a.withRec x).host = a.host
      ∧ (a.withRec x).sync = a.sync ∧ (a.withRec x).pwr = a.pwr ∧ (a.withRec x).bar = a.bar ∧ (a.withRec x).recd = x.rc
      ∧ (a.withRec x).temp = a.temp ∧ (a.withRec x).mv = a.mv ∧ (a.withRec x).toc = a.toc ∧ (a.withRec x).ing = a.ing
      ∧ (a.withRec x).jobs = a.jobs ∧ (a.withRec x).led = a.led ∧ (a.withRec x).aud = a.aud ∧ (a.withRec x).det = a.det
      ∧ (a.withRec x).hlt = a.hlt ∧ (a.withRec x).hif = a.hif ∧ (a.withRec x).out = a.out ∧ (a.withRec x).ptpOut = a.ptpOut
      ∧ (a.withRec x).syncAt = a.syncAt ∧ (a.withRec x).annAt = a.annAt ∧ (a.withRec x).refOut = a.refOut
      ∧ (a.withRec x).erasing = a.erasing ∧ (a.withRec x).boot = a.boot := by
  cases a; exact ⟨rfl, rfl, rfl, rfl, rfl, rfl, rfl, rfl, rfl, rfl, rfl, rfl, rfl, rfl, rfl, rfl, rfl, rfl, rfl, rfl, rfl, rfl, rfl, rfl, rfl, rfl, rfl, rfl⟩

@[simp] theorem Aggregator.withToc_fields (a : Aggregator) (k : Nat) (x : TocView) :
    (a.withToc k x).regs = x.regs ∧ (a.withToc k x).tc = a.tc ∧ (a.withToc k x).free = a.free ∧ (a.withToc k x).cfg = a.cfg
      ∧ (a.withToc k x).serial = a.serial ∧ (a.withToc k x).mem = a.mem ∧ (a.withToc k x).host = a.host
      ∧ (a.withToc k x).sync = a.sync ∧ (a.withToc k x).pwr = a.pwr ∧ (a.withToc k x).bar = a.bar
      ∧ (a.withToc k x).recd = a.recd ∧ (a.withToc k x).temp = a.temp ∧ (a.withToc k x).mv = a.mv
      ∧ (a.withToc k x).toc = tabPut a.toc k x.mac ∧ (a.withToc k x).ing = a.ing ∧ (a.withToc k x).jobs = a.jobs
      ∧ (a.withToc k x).led = a.led ∧ (a.withToc k x).aud = a.aud ∧ (a.withToc k x).det = a.det ∧ (a.withToc k x).hlt = a.hlt
      ∧ (a.withToc k x).hif = a.hif ∧ (a.withToc k x).out = a.out ∧ (a.withToc k x).ptpOut = a.ptpOut
      ∧ (a.withToc k x).syncAt = a.syncAt ∧ (a.withToc k x).annAt = a.annAt ∧ (a.withToc k x).refOut = a.refOut
      ∧ (a.withToc k x).erasing = a.erasing ∧ (a.withToc k x).boot = a.boot := by
  cases a; exact ⟨rfl, rfl, rfl, rfl, rfl, rfl, rfl, rfl, rfl, rfl, rfl, rfl, rfl, rfl, rfl, rfl, rfl, rfl, rfl, rfl, rfl, rfl, rfl, rfl, rfl, rfl, rfl, rfl⟩

@[simp] theorem Aggregator.modJob_fields (a : Aggregator) (c : Nat) (f : JobCtx → JobCtx) :
    (a.modJob c f).regs = a.regs ∧ (a.modJob c f).tc = a.tc ∧ (a.modJob c f).free = a.free ∧ (a.modJob c f).cfg = a.cfg
      ∧ (a.modJob c f).serial = a.serial ∧ (a.modJob c f).mem = a.mem ∧ (a.modJob c f).host = a.host
      ∧ (a.modJob c f).sync = a.sync ∧ (a.modJob c f).pwr = a.pwr ∧ (a.modJob c f).bar = a.bar ∧ (a.modJob c f).recd = a.recd
      ∧ (a.modJob c f).temp = a.temp ∧ (a.modJob c f).mv = a.mv ∧ (a.modJob c f).toc = a.toc ∧ (a.modJob c f).ing = a.ing
      ∧ (a.modJob c f).jobs = tabMod a.jobs c f ∧ (a.modJob c f).led = a.led ∧ (a.modJob c f).aud = a.aud
      ∧ (a.modJob c f).det = a.det ∧ (a.modJob c f).hlt = a.hlt ∧ (a.modJob c f).hif = a.hif ∧ (a.modJob c f).out = a.out
      ∧ (a.modJob c f).ptpOut = a.ptpOut ∧ (a.modJob c f).syncAt = a.syncAt ∧ (a.modJob c f).annAt = a.annAt
      ∧ (a.modJob c f).refOut = a.refOut ∧ (a.modJob c f).erasing = a.erasing ∧ (a.modJob c f).boot = a.boot := by
  cases a; exact ⟨rfl, rfl, rfl, rfl, rfl, rfl, rfl, rfl, rfl, rfl, rfl, rfl, rfl, rfl, rfl, rfl, rfl, rfl, rfl, rfl, rfl, rfl, rfl, rfl, rfl, rfl, rfl, rfl⟩

@[simp] theorem Aggregator.sendFrame_fields (a : Aggregator) (lane dst : Nat) (l : List Byte) :
    (a.sendFrame lane dst l).regs = a.regs ∧ (a.sendFrame lane dst l).tc = a.tc ∧ (a.sendFrame lane dst l).free = a.free
      ∧ (a.sendFrame lane dst l).cfg = a.cfg ∧ (a.sendFrame lane dst l).serial = a.serial
      ∧ (a.sendFrame lane dst l).mem = a.mem ∧ (a.sendFrame lane dst l).host = a.host
      ∧ (a.sendFrame lane dst l).sync = a.sync ∧ (a.sendFrame lane dst l).pwr = a.pwr ∧ (a.sendFrame lane dst l).bar = a.bar
      ∧ (a.sendFrame lane dst l).recd = a.recd ∧ (a.sendFrame lane dst l).temp = a.temp ∧ (a.sendFrame lane dst l).mv = a.mv
      ∧ (a.sendFrame lane dst l).toc = a.toc ∧ (a.sendFrame lane dst l).ing = a.ing ∧ (a.sendFrame lane dst l).jobs = a.jobs
      ∧ (a.sendFrame lane dst l).led = a.led ∧ (a.sendFrame lane dst l).aud = a.aud ∧ (a.sendFrame lane dst l).det = a.det
      ∧ (a.sendFrame lane dst l).hlt = a.hlt ∧ (a.sendFrame lane dst l).hif = a.hif
      ∧ (a.sendFrame lane dst l).out = a.out ++ [⟨lane, dst, a.cfg.mac, ifenovEthertype, padFrame l⟩]
      ∧ (a.sendFrame lane dst l).ptpOut = a.ptpOut ∧ (a.sendFrame lane dst l).syncAt = a.syncAt
      ∧ (a.sendFrame lane dst l).annAt = a.annAt ∧ (a.sendFrame lane dst l).refOut = a.refOut
      ∧ (a.sendFrame lane dst l).erasing = a.erasing ∧ (a.sendFrame lane dst l).boot = a.boot := by
  cases a; exact ⟨rfl, rfl, rfl, rfl, rfl, rfl, rfl, rfl, rfl, rfl, rfl, rfl, rfl, rfl, rfl, rfl, rfl, rfl, rfl, rfl, rfl, rfl, rfl, rfl, rfl, rfl, rfl, rfl⟩

/-! ### What a command leaves as it stands -/

@[simp] theorem State.onDu_next (s : State) (f : DieUnit → DieUnit) : s.onDu f = .next { s with du := f s.du } := rfl
@[simp] theorem State.onAgg_next (s : State) (f : Aggregator → Aggregator) :
    s.onAgg f = .next { s with agg := Aggregator.after s.agg (f s.agg) } := rfl
theorem State.onPart_du (s : State) (fd : DieUnit → DieUnit) (fa : Aggregator → Aggregator) :
    s.onPart .du fd fa = .next { s with du := fd s.du } := rfl
theorem State.onPart_agg (s : State) (fd : DieUnit → DieUnit) (fa : Aggregator → Aggregator) :
    s.onPart .agg fd fa = .next { s with agg := Aggregator.after s.agg (fa s.agg) } := rfl

/-- A command answers a next state that keeps the queue (every shared form of a meaning). -/
theorem State.onPart_next (s : State) (p : Part) (fd : DieUnit → DieUnit) (fa : Aggregator → Aggregator) :
    ∃ t, s.onPart p fd fa = .next t ∧ t.pending = s.pending := by
  cases p
  · exact ⟨_, rfl, rfl⟩
  · exact ⟨_, rfl, rfl⟩

theorem State.onUp_served (s : State) (f : Aggregator → Aggregator) (h : s.agg.served = true) :
    s.onUp f = .next { s with agg := Aggregator.after s.agg (f s.agg) } := by
  simp [State.onUp, h]

theorem State.onOob_served (s : State) (f : Aggregator → Aggregator) (h : s.agg.oobServed = true) :
    s.onOob f = .next { s with agg := Aggregator.after s.agg (f s.agg) } := by
  simp [State.onOob, h]

end Sys2Proof.Machine
end

