-- ==== Sys2Proof/WellFormed.lean ====
section
/-!
DEFINITION. Which commands are well formed: every operand lies in the width of the line, field or number that carries it
(Tables 0-4, 1-1, 3-4 to 3-13, 9-2, 9-7, 15-2). The machine gives every command an effect, well formed or not.
-/
namespace Sys2Proof

open Sys2Proof.Machine

/-- The fields of a PTP message (Table 2-1). -/
def Machine.PtpMsg.inRange (m : PtpMsg) : Bool :=
  decide (m.port < 9 ∧ m.src < 2 ^ 48 ∧ m.domain < 256 ∧ m.seq < 65536 ∧ m.secs < 2 ^ 48 ∧ m.nanos < 2 ^ 32 ∧ m.clockClass < 256
    ∧ m.gm < 2 ^ 64)

/-- The head of a control frame (Table 10-2). -/
def Machine.CtlHead.inRange (h : CtlHead) : Bool := decide (h.agg < 4096 ∧ h.cseq < 2 ^ 32)

/-- What an ACCEPT assigns (Table 10-1). -/
def Machine.RegAccept.inRange (x : RegAccept) : Bool :=
  decide (x.duid < 2 ^ 20 ∧ x.node < 256 ∧ x.aggMac < 2 ^ 48 ∧ x.partnerId < 2 ^ 16 ∧ x.partnerMac < 2 ^ 48)

/-- The counter inputs (Table 3-6). -/
def Machine.CntInputs.inRange (i : CntInputs) : Bool :=
  decide (i.evt < 2 ^ 256 ∧ i.inc < 2 ^ 64 ∧ i.slVld < 2 ^ 8 ∧ i.slCls < 2 ^ 16 ∧ i.q < 160)

/-- A trace packet (Table 3-7). -/
def Machine.TracePkt.inRange (x : TracePkt) : Bool :=
  decide (x.kind < 4 ∧ x.payload < 2 ^ 64 ∧ x.addr < 2 ^ 64 ∧ x.size < 4)

/-- A tile commitment: rows, columns and reduction length less one (Table 3-9). -/
def Machine.CommitIn.inRange (x : CommitIn) : Bool :=
  decide (x.tensor < 2 ^ 32 ∧ x.tile < 2 ^ 32 ∧ x.m < 2 ^ 8 ∧ x.n < 2 ^ 8 ∧ x.k < 2 ^ 24 ∧ x.fmt < 64 ∧ x.num < 16
    ∧ x.outCheck < 2 ^ 64)

/-- A register address of a part: of the 64 KiB of the die unit, or of the aggregator's 2,048 pages (R452, R453). -/
def addrOk (p : Part) (addr : Nat) : Bool :=
  match p with
  | .du => decide (addr < 0x10000)
  | .agg => decide (addr < 0x800000)

def Instr.wf (i : Instr) : Bool :=
  match i with
  | .fleetTimeTick _ busy => decide (busy < 2 ^ 8)
  | .interpLineSwap => true
  | .refLost => true
  | .refReturn => true
  | .tsRxStrobe _ port q lat _ => decide (port < 9 ∧ q < 160 ∧ lat < 2 ^ 24)
  | .tsTxStrobe _ port q lat _ => decide (port < 9 ∧ q < 160 ∧ lat < 2 ^ 24)
  | .strobeUnmatched _ => true
  | .syncRx _ m => m.inRange
  | .followUpRx _ m => m.inRange
  | .delayReqTx _ _ => true
  | .delayReqRx _ m => m.inRange
  | .delayRespRx _ m => m.inRange
  | .announceRx _ m => m.inRange
  | .ptpUnimplementedRx _ m => m.inRange
  | .syncTx port _ => decide (port < 9)
  | .announceTx port _ => decide (port < 9)
  | .syncReceiptLoss _ _ => true
  | .announceTimeout _ _ => true
  | .acceptJump _ q => decide (q < 160)
  | .activeSet _ _ q => decide (q < 160)
  | .tcNowRead _ _ q => decide (q < 160)
  | .clkmonWindow cnt trc egr tcp stretch => decide (cnt < 2 ^ 16 ∧ trc < 2 ^ 16 ∧ egr < 2 ^ 16 ∧ tcp < 2 ^ 16 ∧ stretch < 16)
  | .pealArm h id tp _ waitUs => decide (id < 2 ^ 16 ∧ tp < 2 ^ 80 ∧ waitUs < 2 ^ 32) && h.inRange
  | .pealFire _ id q => decide (id < 2 ^ 32 ∧ q < 160)
  | .counterClockResume q => decide (q < 160)
  | .pealLightSetTimeout => true
  | .gateWindowOpen e q => decide (e < 64 ∧ q < 160)
  | .gateWindowClose e q => decide (e < 64 ∧ q < 160)
  | .pdClkAck _ => true
  | .domainWakeDone _ q => decide (q < 160)
  | .domainWakeFail _ => true
  | .domainSleep _ q => decide (q < 160)
  | .tracePacketAsleep port x => decide (port < 16) && x.inRange
  | .porN => true
  | .rstN => true
  | .softReset q => decide (q < 160)
  | .domainReset doms q => decide (doms < 16 ∧ q < 160)
  | .macRxDiscard _ => true
  | .egDrop => true
  | .cntCycle i => i.inRange
  | .ltErrToggle levels => decide (levels < 2 ^ 24)
  | .commandStart cmId q => decide (cmId < 2 ^ 32 ∧ q < 160)
  | .commandEnd q => decide (q < 160)
  | .selectorWrite n w _ q => decide (n < 480 ∧ w < 2 ^ 64 ∧ q < 160)
  | .clear q => decide (q < 160)
  | .snap q => decide (q < 160)
  | .freeze q => decide (q < 160)
  | .freezeRel q => decide (q < 160)
  | .freezeTimeout => true
  | .latchRel q => decide (q < 160)
  | .counterRead n _ q => decide (n < 512 ∧ q < 160)
  | .pealBankCopy b => decide (b < 2)
  | .latchParcelBuild => true
  | .tracePacketPresent port x q => decide (port < 16 ∧ q < 160) && x.inRange
  | .traceStageWrite q _ => decide (q < 160)
  | .deadReportStage src q => decide (src < 64 ∧ q < 160)
  | .sourceSleep port q => decide (port < 16 ∧ q < 160)
  | .sourceWake port q => decide (port < 16 ∧ q < 160)
  | .traceClockResume q => decide (q < 160)
  | .authWrite _ _ q => decide (q < 160)
  | .segmentFlushTimeout => true
  | .segmentDrain => true
  | .drainEnWrite _ q => decide (q < 160)
  | .ringTrig q => decide (q < 160)
  | .traceModeWrite mode q => decide (mode < 4 ∧ q < 160)
  | .stepAdvance step => decide (step < 2 ^ 48)
  | .checkEvent _ tensor block carried computed q =>
    decide (tensor < 2 ^ 32 ∧ block < 2 ^ 32 ∧ carried < 2 ^ 64 ∧ computed < 2 ^ 64 ∧ q < 160)
  | .lineageTransfer rec_ => decide (rec_.length = 48)
  | .tileCommit x q => decide (q < 160) && x.inRange
  | .selectionAnswer => true
  | .captureBeat tag part data _ => decide (tag < 64 ∧ part < 4 ∧ data.length ≤ 32)
  | .captureAbort tag => decide (tag < 64)
  | .captureDeadline tag => decide (tag < 64)
  | .captureUnfinished tag => decide (tag < 64)
  | .dumpRequest => true
  | .dumpAck => true
  | .dumpAckTimeout => true
  | .dumpBeat data _ _ _ => decide (data.length ≤ 32)
  | .heReport unit_ op code sev => decide (unit_ < 2 ^ 8 ∧ op < 256 ∧ code < 2 ^ 16 ∧ sev < 4)
  | .snUpd temp mv => decide (-2048 ≤ temp ∧ temp < 2048 ∧ mv < 2 ^ 13)
  | .healthRecordRelease hseq => decide (hseq < 2 ^ 32)
  | .supplyWarn => true
  | .supplyCrit => true
  | .supplyOk _ _ => true
  | .flushWordAck => true
  | .flushWordTimeout => true
  | .faultFlushStart _ => true
  | .queuedFlushStart _ => true
  | .recorderFlush _ q => decide (q < 160)
  | .recorderWrite _ => true
  | .rateBucketRefill _ i => decide (i < 64)
  | .recorderCursorWrite _ cursor q => decide (cursor < 2 ^ 32 ∧ q < 160)
  | .recWinAutoRead _ q => decide (q < 160)
  | .bankEraseDone => true
  | .aggSupplyWarn => true
  | .aggSupplyCrit => true
  | .aggFlushPageDone => true
  | .tocsinTxStart seg _ => seg.all (· < 16)
  | .tocsinCollision seg _ _ => seg.all (· < 16)
  | .tocsinTxEnd seg => seg.all (· < 16)
  | .alarmRx seg _ => decide (seg < 16)
  | .alarmAckRx _ => true
  | .alarmResend aseq => decide (aseq < 256)
  | .chipResetAnnounceRx _ => true
  | .beaconRx _ => true
  | .beaconTx seg => decide (seg < 16)
  | .beaconLost => true
  | .guestFrameRx seg _ => decide (seg < 16)
  | .tocsinUnknownRx seg _ => seg.all (· < 16)
  | .failoverTimeout => true
  | .keepaliveTx entry => decide (entry < 512)
  | .keepaliveRx aggId => decide (aggId < 4096)
  | .registerRequestTx => true
  | .registerRequestRx mac l => decide (mac < 2 ^ 48 ∧ l.length ≤ 9216)
  | .registerAcceptRx nonce x => decide (nonce < 2 ^ 32) && x.inRange
  | .registerRefuseRx nonce => decide (nonce < 2 ^ 32)
  | .failoverRequestRx mac l => decide (mac < 2 ^ 48 ∧ l.length ≤ 9216)
  | .arm h job gen => decide (job < 2 ^ 32 ∧ gen < 2 ^ 8) && h.inRange
  | .retire h => h.inRange
  | .freezeRelease h => h.inRange
  | .fpMap h ents => decide (ents.length ≤ 64) && h.inRange
  | .selKey h key => decide (key.length = 16) && h.inRange
  | .dumpArm h tensor _ step => decide (tensor < 2 ^ 32 ∧ step < 2 ^ 48) && h.inRange
  | .ringTrigger h => h.inRange
  | .readmit h step => decide (step < 2 ^ 48) && h.inRange
  | .regWrite h ops => h.inRange && decide (ops.length ≤ 64) && ops.all fun o => decide (o.addr < 65536)
  | .regRead h addrs => h.inRange && decide (addrs.length ≤ 64) && addrs.all (· < 65536)
  | .ctlBadFrame h op => decide (op < 256) && h.inRange
  | .controlAckRx l => decide (l.length ≤ 9216)
  | .ctlRetry entry cseq => decide (entry < 512 ∧ cseq < 2 ^ 32)
  | .launchDecision q => decide (q < 160)
  | .shaperRefill q => decide (q < 160)
  | .shaperConfigWrite stream _ w q => decide (stream < 64 ∧ w < 2 ^ 64 ∧ q < 160)
  | .gateCommit q => decide (q < 160)
  | .gateListSwitch q => decide (q < 160)
  | .parcelCloseTimeout ptype => decide (ptype < 16)
  | .telemetryFrameRx l => decide (l.length ≤ 9216)
  | .reasmTimeout stream => decide (stream < 32768)
  | .parcelCheck stream => decide (stream < 32768)
  | .channelOpen core chan desc _ => decide (core < 64 ∧ chan < 32 ∧ desc < 2 ^ 64)
  | .forwardBufferGrant chan => decide (chan < 2048)
  | .forwardWaitTimeout chan => decide (chan < 2048)
  | .posteRestanteResume chan addr len _ => decide (chan < 2048 ∧ addr < 2 ^ 64 ∧ len < 2 ^ 32)
  | .channelCancel chan _ => decide (chan < 2048)
  | .pealArmSend ctx tp => decide (ctx < 2048 ∧ tp < 2 ^ 64)
  | .trayEpochDeadline ctx tp => decide (ctx < 2048 ∧ tp < 2 ^ 64)
  | .subtreeEpochDeadline ctx tp => decide (ctx < 2048 ∧ tp < 2 ^ 64)
  | .treeContribRx l => decide (l.length ≤ 9216)
  | .contribAckRx l => decide (l.length ≤ 9216)
  | .contribRetry ctx tp => decide (ctx < 2048 ∧ tp < 2 ^ 64)
  | .treeHeartbeatTx ctx => decide (ctx < 2048)
  | .treeHeartbeatRx l => decide (l.length ≤ 9216)
  | .treeHeartbeatLost ctx peer => decide (ctx < 2048 ∧ peer < 4096)
  | .reparentEffect ctx => decide (ctx < 2048)
  | .bcArmedCheck l => decide (l.length ≤ 9216)
  | .bcPealSchedule l => decide (l.length ≤ 9216)
  | .bcSelRates l => decide (l.length ≤ 9216)
  | .bcDetectorParams l => decide (l.length ≤ 9216)
  | .bcTaint l => decide (l.length ≤ 9216)
  | .bcReparent l => decide (l.length ≤ 9216)
  | .bcReserved l => decide (l.length ≤ 9216)
  | .bcRetry ctx bseq child => decide (ctx < 2048 ∧ bseq < 2 ^ 32 ∧ child < 4096)
  | .bcGapWaitExpiry ctx => decide (ctx < 2048)
  | .bcAckRx l => decide (l.length ≤ 9216)
  | .nakRx l => decide (l.length ≤ 9216)
  | .bcDoneWaitExpiry ctx bseq => decide (ctx < 2048 ∧ bseq < 2 ^ 32)
  | .retireDrainExpiry ctx => decide (ctx < 2048)
  | .quarantineEnd ctx => decide (ctx < 2048)
  | .mirrorLinkUp farId farDomains farSession farAck =>
    decide (farId < 4096 ∧ farDomains.length = 3 ∧ farSession < 2 ^ 64 ∧ farAck < 2 ^ 32)
  | .mirrorLinkDown => true
  | .mirrorLedgerRx l => decide (l.length ≤ 9216)
  | .mirrorContextRx l _ => decide (l.length ≤ 9216)
  | .mirrorImageRx l => decide (l.length ≤ 9216)
  | .mirrorAckRx l => decide (l.length ≤ 9216)
  | .mirrorSpilledRx l => decide (l.length ≤ 9216)
  | .resyncReqRx l => decide (l.length ≤ 9216)
  | .resyncBeginRx l => decide (l.length ≤ 9216)
  | .resyncEndRx l => decide (l.length ≤ 9216)
  | .partnerHealthRx l => decide (l.length ≤ 9216)
  | .mirrorReservedRx l => decide (l.length ≤ 9216)
  | .mirrorRetry mseq => decide (mseq < 2 ^ 32)
  | .partnerHealthTx => true
  | .partnerLost => true
  | .stageWaitExpiry duid job gen seq => decide (duid < 2 ^ 20 ∧ job < 2 ^ 32 ∧ gen < 2 ^ 8 ∧ seq < 2 ^ 32)
  | .tileDispatch core => decide (core < 64)
  | .startWaitExpiry duid job gen seq => decide (duid < 2 ^ 20 ∧ job < 2 ^ 32 ∧ gen < 2 ^ 8 ∧ seq < 2 ^ 32)
  | .auditComplete core _ => decide (core < 64)
  | .engineFault core => decide (core < 64)
  | .numericsDescriptorWrite e w value => decide (e < 1024 ∧ w < 4 ∧ value < 2 ^ 64)
  | .detectorTrayRun core => decide (core < 64)
  | .detectorEpochRun core => decide (core < 64)
  | .runBudget core cyc => decide (core < 64 ∧ cyc < 64)
  | .nop c i => decide (c < 64) && i.inRange
  | .halt c i => decide (c < 64) && i.inRange
  | .li c i => decide (c < 64) && i.inRange
  | .add c i => decide (c < 64) && i.inRange
  | .sub c i => decide (c < 64) && i.inRange
  | .mul c i => decide (c < 64) && i.inRange
  | .mulhu c i => decide (c < 64) && i.inRange
  | .and c i => decide (c < 64) && i.inRange
  | .or c i => decide (c < 64) && i.inRange
  | .xor c i => decide (c < 64) && i.inRange
  | .shl c i => decide (c < 64) && i.inRange
  | .shr c i => decide (c < 64) && i.inRange
  | .sra c i => decide (c < 64) && i.inRange
  | .addi c i => decide (c < 64) && i.inRange
  | .cmplt c i => decide (c < 64) && i.inRange
  | .cmpltu c i => decide (c < 64) && i.inRange
  | .cmpeq c i => decide (c < 64) && i.inRange
  | .divu c i => decide (c < 64) && i.inRange
  | .remu c i => decide (c < 64) && i.inRange
  | .ld c i => decide (c < 64) && i.inRange
  | .st c i => decide (c < 64) && i.inRange
  | .ldw c i => decide (c < 64) && i.inRange
  | .stw c i => decide (c < 64) && i.inRange
  | .br c i => decide (c < 64) && i.inRange
  | .bz c i => decide (c < 64) && i.inRange
  | .bnz c i => decide (c < 64) && i.inRange
  | .call c i => decide (c < 64) && i.inRange
  | .ret c i => decide (c < 64) && i.inRange
  | .loop c i => decide (c < 64) && i.inRange
  | .arrive c i cyc => decide (c < 64 ∧ cyc < 64) && i.inRange
  | .barrierRelease b cyc => decide (b < 256 ∧ cyc < 64)
  | .barrierTimeout b cyc => decide (b < 256 ∧ cyc < 64)
  | .signal c i cyc => decide (c < 64 ∧ cyc < 64) && i.inRange
  | .wait c i cyc => decide (c < 64 ∧ cyc < 64) && i.inRange
  | .trywait c i cyc => decide (c < 64 ∧ cyc < 64) && i.inRange
  | .semread c i => decide (c < 64) && i.inRange
  | .semWaiterRelease engine cyc => decide (engine < 256 ∧ cyc < 64)
  | .semWaitTimeout sem engine cyc => decide (sem < 4096 ∧ engine < 256 ∧ cyc < 64)
  | .move c i => decide (c < 64) && i.inRange
  | .moveDone c => decide (c < 64)
  | .mwait c i => decide (c < 64) && i.inRange
  | .epoch c i => decide (c < 64) && i.inRange
  | .event c i => decide (c < 64) && i.inRange
  | .out c i => decide (c < 64) && i.inRange
  | .fence c i => decide (c < 64) && i.inRange
  | .bcast c i => decide (c < 64) && i.inRange
  | .trap c i => decide (c < 64) && i.inRange
  | .vld c i => decide (c < 64) && i.inRange
  | .vst c i => decide (c < 64) && i.inRange
  | .vlds c i => decide (c < 64) && i.inRange
  | .vgather c i => decide (c < 64) && i.inRange
  | .vadd c i => decide (c < 64) && i.inRange
  | .vsub c i => decide (c < 64) && i.inRange
  | .vmul c i => decide (c < 64) && i.inRange
  | .vfma c i => decide (c < 64) && i.inRange
  | .vdiv c i => decide (c < 64) && i.inRange
  | .vsqrt c i => decide (c < 64) && i.inRange
  | .vmin c i => decide (c < 64) && i.inRange
  | .vmax c i => decide (c < 64) && i.inRange
  | .vabs c i => decide (c < 64) && i.inRange
  | .vcvt c i => decide (c < 64) && i.inRange
  | .vcmplt c i => decide (c < 64) && i.inRange
  | .vcmpeq c i => decide (c < 64) && i.inRange
  | .vsel c i => decide (c < 64) && i.inRange
  | .vexp2 c i => decide (c < 64) && i.inRange
  | .vlog2 c i => decide (c < 64) && i.inRange
  | .vbcast c i => decide (c < 64) && i.inRange
  | .vrsum c i => decide (c < 64) && i.inRange
  | .vrmax c i => decide (c < 64) && i.inRange
  | .vbkt c i => decide (c < 64) && i.inRange
  | .mzero c i => decide (c < 64) && i.inRange
  | .mma c i => decide (c < 64) && i.inRange
  | .mst c i => decide (c < 64) && i.inRange
  | .mact c i => decide (c < 64) && i.inRange
  | .hins c i => decide (c < 64) && i.inRange
  | .hmrg c i => decide (c < 64) && i.inRange
  | .hqnt c i => decide (c < 64) && i.inRange
  | .cmsadd c i => decide (c < 64) && i.inRange
  | .cmsq c i => decide (c < 64) && i.inRange
  | .xclr c i => decide (c < 64) && i.inRange
  | .xdot c i => decide (c < 64) && i.inRange
  | .xaddv c i => decide (c < 64) && i.inRange
  | .xrd c i => decide (c < 64) && i.inRange
  | .selRatesSend ctx duid => decide (ctx < 2048 ∧ duid < 2 ^ 20)
  | .syncOwnerWrite sem n w cyc => decide (w < 2 ^ 64 ∧ cyc < 64) && decide (n < if sem then 4096 else 256)
  | .barrierMaskWrite b mask cyc => decide (b < 256 ∧ mask < 2 ^ 64 ∧ cyc < 64)
  | .barrierReset b cyc => decide (b < 256 ∧ cyc < 64)
  | .semValueWrite n value cyc => decide (n < 4096 ∧ value < 2 ^ 32 ∧ cyc < 64)
  | .semReset n cyc => decide (n < 4096 ∧ cyc < 64)
  | .memoryUncorrectable addr => decide (addr < 2 ^ 64)
  | .bridgeFatal => true
  | .aggWatchdog => true
  | .hbmPatrolScrub stack => decide (stack < 8)
  | .aggDomainSleep k _ _ => decide (k < 80)
  | .aggDomainWake k _ => decide (k < 80)
  | .deferredWakeStart => true
  | .aggWakeFail k => decide (k < 80)
  | .coreDrain core _ => decide (core < 64)
  | .coreDrained core => decide (core < 64)
  | .coreMapOut core _ => decide (core < 64)
  | .thermalSample _ stackTemps mv => decide (stackTemps.length = 8 ∧ mv < 2 ^ 13)
  | .stepSeal ctx step => decide (ctx < 2048 ∧ step < 2 ^ 48)
  | .forcedSeal ctx step => decide (ctx < 2048 ∧ step < 2 ^ 48)
  | .stepSpill job gen home step => decide (job < 2 ^ 32 ∧ gen < 2 ^ 8 ∧ home < 4096 ∧ step < 2 ^ 48)
  | .spillWriteDone job gen home step => decide (job < 2 ^ 32 ∧ gen < 2 ^ 8 ∧ home < 4096 ∧ step < 2 ^ 48)
  | .spillRetry job gen home step => decide (job < 2 ^ 32 ∧ gen < 2 ^ 8 ∧ home < 4096 ∧ step < 2 ^ 48)
  | .ledgerFetchDone _ _ _ => true
  | .fetchWaitExpiry _ => true
  | .mismatchResolveTimeout duid => decide (duid < 2 ^ 20)
  | .scoreDecay => true
  | .condSuspectExpiry unit_ cell => decide (unit_ < 1024 ∧ cell < 64)
  | .chipReset code => decide (code < 2 ^ 16)
  | .chipResetBegin => true
  | .aggPowerOn _ => true
  | .aggBoot _ => true
  | .bootResyncTimeout => true
  | .scanStart => true
  | .scanComplete core fails => decide (core < 64 ∧ fails < 2 ^ 32)
  | .fanoutCalibration _ => true
  | .bridgeCalibration _ => true
  | .sensorTrimCalibration _ => true
  | .sqDoorbell q tail => decide (q < 64 ∧ tail < 2 ^ 16)
  | .cqDoorbell cq head => decide (cq < 64 ∧ head < 2 ^ 16)
  | .commandFetch => true
  | .commandBudgetExpiry _ => true
  | .identify _ _ => true
  | .getLogRecorder _ _ => true
  | .getLogNotices _ _ => true
  | .getLogSampling _ _ => true
  | .getLogFwSlots _ _ => true
  | .getLogPools _ _ => true
  | .getLogQueues _ _ => true
  | .getFeature _ _ => true
  | .queueCreate _ _ => true
  | .queueDelete _ _ => true
  | .cancel _ _ => true
  | .detImageLoad _ _ => true
  | .detImageFree _ _ => true
  | .detBind _ _ => true
  | .detUnbind _ _ => true
  | .broadcastIssue _ _ => true
  | .ledgerSpillNow _ _ => true
  | .ledgerImport _ _ => true
  | .ledgerReference _ _ => true
  | .healthBudget _ _ => true
  | .knellConfirm _ _ => true
  | .knellRelease _ _ => true
  | .swap _ _ => true
  | .scan _ _ => true
  | .resetLoopClear _ _ => true
  | .firmwareDownload _ _ => true
  | .fwCommit _ _ => true
  | .fwCommitActivate _ _ => true
  | .fwActivate _ _ => true
  | .fwActivationProceed => true
  | .fwReady => true
  | .fwReadyTimeout => true
  | .flush _ _ => true
  | .flushComplete _ => true
  | .resetInterface _ => true
  | .resetChip _ => true
  | .query _ _ => true
  | .readLedgerRecords _ _ => true
  | .readLedgerSummary _ _ => true
  | .readLedgerEpochs _ _ => true
  | .readLedgerVerdicts _ _ => true
  | .readLedgerCompare _ _ => true
  | .readLedgerLastClean _ _ => true
  | .readLedgerManifest _ _ => true
  | .readTrace _ _ => true
  | .armJob _ _ => true
  | .retireJob _ _ => true
  | .capsuleSubmitRx src l => decide (src < 2 ^ 16 ∧ l.length ≤ 9216)
  | .capsuleDataRx src l => decide (src < 2 ^ 16 ∧ l.length ≤ 9216)
  | .capsuleAckRx src l => decide (src < 2 ^ 16 ∧ l.length ≤ 9216)
  | .capsuleResend mseq => decide (mseq < 2 ^ 32)
  | .mctpMessageRx _ => true
  | .pcieConventionalReset => true
  | .flr => true
  | .dmaStart n => decide (n < 8)
  | .dmaStop n => decide (n < 8)
  | .dmaDescriptorDone n => decide (n < 8)
  | .dmaFault n _ moved => decide (n < 8 ∧ moved < 2 ^ 32)
  | .phAlloc pool next actor => decide (pool < 4096 ∧ next < 2 ^ 16 ∧ actor < 2 ^ 16)
  | .phGive pool buf next actor => decide (pool < 4096 ∧ buf < 2 ^ 64 ∧ next < 2 ^ 16 ∧ actor < 2 ^ 16)
  | .phFree pool buf actor => decide (pool < 4096 ∧ buf < 2 ^ 64 ∧ actor < 2 ^ 16)
  | .registerWrite p addr _ _ q cyc => decide (q < 160 ∧ cyc < 64) && addrOk p addr
  | .pkgPosWrite pos q => decide (pos < 256 ∧ q < 160)
  | .w1cStatusRead p addr _ _ q cyc => decide (q < 160 ∧ cyc < 64) && addrOk p addr
  | .clearKeyWrite p page _ _ q cyc => decide (q < 160 ∧ cyc < 64) && addrOk p (4096 * page)
  | .clearingWrite p addr _ _ q cyc => decide (q < 160 ∧ cyc < 64) && addrOk p addr
  | .indAddrWrite p page _ _ q cyc => decide (q < 160 ∧ cyc < 64) && addrOk p (4096 * page)
  | .indDataAccess p page _ _ q cyc => decide (q < 160 ∧ cyc < 64) && addrOk p (4096 * page)
  | .heldWritesApply k cyc => decide (k < 80 ∧ cyc < 64)
  | .reAdmission step _ only => decide (step < 2 ^ 48) && only.all (· < 2 ^ 20)
  | .bridgeReplay bridge => decide (bridge < 3)
  | .memoryCorrected _ n => decide (n < 64)
  | .indFetchDone page => decide (page < 0x30)
  | .recWindowLoaded _ => true
  | .hbmTrainingCalibration _ => true
  | .laneTrainingFailure lane => decide (lane < 32)

end Sys2Proof
end

