-- ==== Sys2Proof/Tests/Slice0.lean ====
section
/-!
SUPPORT. Tests: ill-formed commands that WellFormed refuses, results computed by hand from the spec, and for every statement with
hypotheses concrete states and operands that meet them.
-/
namespace Sys2Proof.Tests

-- One proof after another: proofs at once would each hold a stack of their own.
set_option Elab.async false

open Sys2Proof Sys2Proof.Machine

/-- A register word with fields of it at values, its other bits zero. -/
def wd (l : List (Fld × Nat)) : Nat × W64 :=
  ((l.map (·.1.reg)).headD 0, BitVec.ofNat 64 (l.foldl (fun n e => n + e.2 * 2 ^ e.1.lo) 0))

/-- The die unit after reset with its fast domains on and some registers at values; the aggregator in service so. -/
def duF (l : List (List (Fld × Nat))) : DieUnit := { DieUnit.blank 0 0 with regs := ⟨.du, (addr_DU_PD, 0xAA) :: l.map wd⟩ }
def duOn : DieUnit := duF []
def agF (l : List (List (Fld × Nat))) : Aggregator := { Aggregator.blank with boot := .ready, regs := ⟨.agg, l.map wd⟩ }
def agOn : Aggregator := agF []

/-! ### Witnesses: detector programs -/

/-- An EPOCH run whose area is the SRAM of core 0. -/
def run0 : Run :=
  { inst := 0, ctx := 0, tp := 0, pealId := 0, duid := none, state := 0, began := 0, rd := [], rw := [(sramOf 0, 0x400000)], outputs := [], events := 0,
    bcastDone := false, moves := [] }

def word0 : Insn := { e := false, rsv := false, d := 1, a := 2, b := 3, m := 0, ty := 1, imm := 0 }

/-- Core 0 in a run, x2 at its SRAM and x3 at 16 KiB behind. -/
def coreR (r : Run) : Core :=
  { Core.init with run := some r, x := [(2, BitVec.ofNat 64 (sramOf 0)), (3, BitVec.ofNat 64 (sramOf 0 + 16384))] }

def agR : Aggregator := agOn.setCore 0 (coreR run0)

def inst0 : Instance :=
  { ctx := 0, bind := 0, slot := 0, cores := 1, suspended := false, stopping := false, succFaults := 2, faultCode := 0, runs := 0, params := [],
    sram := 0, hbm := 0, dstate := 0, istate := 0, barriers := [5], sems := [7], scalars := [], reports := [], lib := [] }

def agI : Aggregator := agR.modDet fun d => { d with instances := [(0, inst0)] }
theorem test_witness_AluInstructionsWriteTheirResult : ready agR 0 run0 ∧ fieldsBelow word0 64 64 64 := by
  refine ⟨⟨rfl, rfl⟩, rfl, ?_⟩; decide

theorem test_witness_ControlInstructionsSetThePc : ready agR 0 run0 ∧ fieldsBelow { word0 with imm := -1 } 64 64 64 := by
  refine ⟨⟨rfl, rfl⟩, rfl, ?_⟩; decide

/-- The last aligned word of the SRAM of core 0 is in the area, the word behind it is not. -/
theorem test_witness_ScalarLoadsAndStoresAccessTheirBytes :
    ready agR 0 run0 ∧ fieldsBelow word0 64 64 64 ∧ (sramOf 0 + 0x3FFFF8) % 8 = 0
      ∧ agR.runOk run0 false .seq (sramOf 0 + 0x3FFFF8) 8 = true ∧ agR.runOk run0 true .seq (sramOf 0 + 0x3FFFFC) 4 = true
      ∧ agR.poisoned (sramOf 0 + 0x3FFFF8) 8 = false ∧ sramOf 0 + 0x3FFFF8 + 8 ≤ hbmBase := by
  refine ⟨⟨rfl, rfl⟩, ⟨rfl, ?_⟩, ?_⟩ <;> decide

theorem test_witness_RunsEndAsTheTableOfFaultsSays :
    ready agI 0 run0 ∧ { word0 with rsv := true }.rsv = true ∧ word0.rsv = false ∧ (sramOf 0 + 1) % 8 ≠ 0
      ∧ agI.runOk run0 true .seq (sramOf 0 + 0x400000) 8 = false ∧ (sramOf 0 + 0x400000) % 8 = 0
      ∧ (agI.core 0).run = some run0 ∧ run0.duid = none ∧ agI.inst run0.inst = some inst0 ∧ inst0.succFaults < 3
      ∧ inst0.suspended = false ∧ inst0.stopping = false ∧ (agI.core 0).pc < 2 ^ 32 := by
  refine ⟨⟨rfl, rfl⟩, ?_⟩; decide

def moveR : Run := { run0 with moves := [⟨sramOf 0, sramOf 0 + 64, 64⟩] }
def trayR : Run := { run0 with duid := some 1 }
theorem test_witness_MoverEventOutputAndBroadcastInstructions :
    ready agR 0 run0 ∧ fieldsBelow word0 64 64 64 ∧ agR.runOk run0 true .seq (sramOf 0) 64 = true ∧ run0.moves = []
      ∧ ready (agOn.setCore 0 (coreR moveR)) 0 moveR ∧ moveR.moves = ⟨sramOf 0, sramOf 0 + 64, 64⟩ :: [] ∧ run0.duid = none
      ∧ ready (agOn.setCore 0 (coreR trayR)) 0 trayR ∧ trayR.duid = some 1 ∧ sramOf 0 % 8 = 0
      ∧ agR.runOk run0 false .seq (sramOf 0) 24 = true ∧ agR.findJob 0 0 = none
      ∧ agR.runOk run0 false .seq (sramOf 0) 40 = true ∧ (agR.runBcast 0 []).1 = false := by
  refine ⟨⟨rfl, rfl⟩, ⟨rfl, ?_⟩, ?_, ?_, ⟨rfl, rfl⟩, ?_, ?_, ⟨rfl, rfl⟩, ?_⟩ <;> decide

/-- Barrier 5 and semaphore 7 belong to context 0; only core 0 is in the mask. -/
def agS : Aggregator :=
  { agI with regs := (agF [[(BAR_MASK_MASK 5, 1)], [(BAR_CFG_SYS 5, 0)], [(SEM_CFG_SYS 7, 0)]]).regs }

theorem test_witness_SynchronisationInstructionsAct :
    ready agS 0 run0 ∧ fieldsBelow word0 64 64 64 ∧ agS.inst run0.inst = some inst0 ∧ 0 ≤ word0.imm ∧ inst0.barriers[word0.imm.toNat]? = some 5
      ∧ inst0.sems[word0.imm.toNat]? = some 7 ∧ (agS.arrive 5 0 0 0).1 = none ∧ (agS.arrive 5 1 0 0).1 = some syncNotMember
      ∧ (agS.semWait 7 1 0 0 0 0 0 0).1 = none ∧ (agS.semWait 7 0 0 0 0 0 0 0).1 = some syncOk ∧ run0.moves = [] ∧ moveR.moves ≠ [] ∧ agS.ownsSem 7 run0.ctx = true := by
  refine ⟨⟨rfl, rfl⟩, ⟨rfl, ?_⟩, ?_⟩ <;> decide

/-- A release is due in the cycle it names, and not the cycle before. -/
def agW : Aggregator := agS.modSync fun n =>
  { n with barRelease := [(5, 48)], barFirst := [(6, 0)], semQ := [(7, [⟨0, 2, 0, some 48⟩])], served := [⟨7, 4, 48⟩] }
theorem test_witness_BarriersAndSemaphoresRelease :
    tabGet agW.sync.barRelease 5 = some 48 ∧ 48 ≤ agW.mono / 40 * 64 + 48 ∧ agW.mono / 40 * 64 + 47 < 48
      ∧ tabGet agW.sync.barRelease 6 = none ∧ tabGet agW.sync.barFirst 6 = some 0 ∧ (agW.set (BAR_CFG_TIMEOUT 6) 1).get (BAR_CFG_TIMEOUT 6) ≠ 0
      ∧ 0 + (agW.set (BAR_CFG_TIMEOUT 6) 1).get (BAR_CFG_TIMEOUT 6) * 1600 < agW.mono / 40 * 64 + 1601
      ∧ (⟨7, 4, 48⟩ : Release) ∈ agW.sync.served ∧ agW.semQueue 7 = [⟨0, 2, 0, some 48⟩] := by
  repeat' apply And.intro
  all_goals decide

theorem test_witness_VectorLoadsAndStoresAccessActiveLanes :
    ready agR 0 run0 ∧ fieldsBelow word0 32 64 32
      ∧ (∀ l ∈ List.range 64, (sramOf 0 + l * 4) % 4 = 0 ∧ agR.runOk run0 false .ste (sramOf 0 + l * 4) 4 = true
          ∧ agR.runOk run0 true .ste (sramOf 0 + l * 4) 4 = true) := by
  refine ⟨⟨rfl, rfl⟩, ⟨rfl, ?_⟩, ?_⟩ <;> decide

theorem test_witness_LaneInstructionsChangeActiveLanesOnly : ready agR 0 run0 ∧ fieldsBelow { word0 with d := 31, e := true } 32 32 32 := by
  refine ⟨⟨rfl, rfl⟩, rfl, ?_⟩; decide

/-- No lane active, and lane 63 alone active with a value that is a number. -/
def coreM : Core := { coreR run0 with ste0 := ⟨[], [(1, BitVec.ofNat 64 (2 ^ 63))], []⟩, ste1 := ⟨[], [(0, 0)], []⟩ }
theorem test_witness_ComparisonsSelectionsAndSums :
    ready (agOn.setCore 0 coreM) 0 run0 ∧ fieldsBelow { word0 with d := 7 } 8 32 32 ∧ fieldsBelow word0 32 32 32
      ∧ fieldsBelow { word0 with d := 62 } 63 32 64 ∧ (∀ l < 64, (coreM.ste1.mr 1).getLsbD l = false)
      ∧ (coreM.ste0.mr 1).getLsbD 63 = true ∧ (∀ n < 64, n ≠ 63 → (coreM.ste0.mr 1).getLsbD n = false)
      ∧ tyVal 1 ((coreM.ste0.vr 2).getD 63 0) ≠ .nan := by
  refine ⟨⟨rfl, rfl⟩, ⟨rfl, ?_⟩, ⟨rfl, ?_⟩, ⟨rfl, ?_⟩, ?_⟩ <;> decide

/-- One row of sixteen counters, multiplier 1, addend 0. -/
def agK : Aggregator := { agR with mem := memPut [] (sramOf 0) [1, 4, 0, 0, 0, 0, 0, 0, 1] }
theorem test_witness_TileAndSketchInstructions :
    ready agK 0 run0 ∧ fieldsBelow { word0 with d := 3 } 4 64 64 ∧ (tyBf16 = tyBf16 ∧ (65536 : Int) % 32 = 0 ∧ sramOf 0 % 2 = 0)
      ∧ agK.runOk run0 false .ste (sramOf 0) (32 * 65536 * 2) = true ∧ agK.runOk run0 true .ste (sramOf 0) 4096 = true
      ∧ fieldsBelow word0 32 32 32 ∧ sramOf 0 % 8 = 0 ∧ agK.runOk run0 true .ste (sramOf 0) 8232 = true
      ∧ histBase (memBytes agK.mem (sramOf 0) 8) ≠ histBase (memBytes agK.mem (sramOf 0 + 16384) 8)
      ∧ readSketch (memBytes agK.mem (sramOf 0) 144) = some (1, 4, [(1, 0)]) ∧ agK.runOk run0 false .ste (sramOf 0) (sketchLen 1 4) = true
      ∧ agK.poisoned (sramOf 0) 8232 = false ∧ readSketch (memBytes agR.mem (sramOf 0) 144) = none ∧ (sramOf 0 + 1) % 8 ≠ 0
      ∧ (List.range 64).filter (fun l => (((coreR run0).ste false).mr 1).getLsbD l) = [] := by
  refine ⟨⟨rfl, rfl⟩, ⟨rfl, ?_⟩, ?_, ?_, ?_, ⟨rfl, ?_⟩, ?_⟩ <;> decide

theorem test_zeros_read_zero (n : Nat) : leNat (List.replicate n 0#8) = 0 := by
  induction n with
  | zero => rfl
  | succ n ih => simp [List.replicate_succ, leNat, ih]

/-- A histogram of memory that nothing has written counts nothing. -/
theorem test_witness_hqnt_of_an_empty_histogram (n : Nat) : (readHist (memBytes agR.mem (sramOf 0) n)).all (· == 0) = true := by
  have h : memBytes agR.mem (sramOf 0) n = List.replicate n 0#8 := by
    rw [show agR.mem = [] from rfl]; unfold memBytes; generalize sramOf 0 = p; simp [storeGet, List.map_const']
  rw [h]; unfold readHist; generalize 1028 = m; simp [le, slice, test_zeros_read_zero]

theorem test_witness_ExactDotInstructions :
    ready agR 0 run0 ∧ fieldsBelow { word0 with d := 63 } 64 32 64 ∧ (agR.set AUD_XDE_MASK 1).inMask 0 = true ∧ agR.inMask 0 = false
      ∧ (∀ l < 64, laneUnits (tyVal tyFp32 (((coreR run0).ste false |>.vr 2).getD l 0)) = some 0)
      ∧ fmtOf (unsigned 6 1) = some fmtFp32 ∧ agR.runOk run0 false .xde (sramOf 0) (fmtFp32.runBytes 0) = true
      ∧ (dotSum [] []).nan = false ∧ (dotSum [] []).pinf = false ∧ (dotSum [] []).ninf = false
      ∧ sramOf 0 % 8 = 0 ∧ agR.runOk run0 true .xde (sramOf 0) 160 = true := by
  refine ⟨⟨rfl, rfl⟩, ⟨rfl, ?_⟩, ?_⟩ <;> decide

/-! ### Witnesses: Fleet Time -/

def vw (tc : TimeClient) : TimeView := ⟨duOn.regs, tc⟩
def tcLost : TimeClient := { TimeClient.init with refLost := true }
def tcLine (t : Nat) : TimeClient := { TimeClient.init with mono := t }

theorem test_witness_LocalTimeAdvancesWithTheReference :
    (vw tcLost).tc.refLost = true ∧ (vw TimeClient.init).tc.refLost = false ∧ (vw TimeClient.init).getI TC_SWITCH_RESID = 0
      ∧ { duOn with tc := tcLost }.ctl.resets = [] ∧ tcLost.stepReq = none
      ∧ (tcLine 1000000).lineAt + 1000000 ≤ (tcLine 1000000).mono ∧ (tcLine 1000000).refLost = false ∧ (tcLine 1000000).stepReq = none := by
  repeat' apply And.intro
  all_goals decide +kernel

/-- A stamp is old at 10 µs and not 1 ns before. -/
theorem test_witness_StrobesAreCorrectedOrDiscarded :
    (0 : Nat) + 10000 ≤ (tcLine 10000).mono ∧ (tcLine 9999).mono < 0 + 10000 ∧ { tcLine 10000 with rxStamps := [⟨0, none, 0⟩] }.rxStamps = ⟨0, none, 0⟩ :: []
      ∧ agOn.tc.owed = [] ∧ agOn.portCompat 8 = false ∧ 8 < 9
      ∧ { agOn with tc := { tcLine 0 with owed := [⟨.sync, 2, .pri, 7⟩] } }.tc.owed = ⟨.sync, 2, .pri, 7⟩ :: []
      ∧ (agOn.view.txTime (agOn.portCompat 2) 3 5 true).isSome = true := by
  repeat' apply And.intro
  all_goals decide +kernel

/-- Domain 5 is the primary instance, which runs; an exchange is complete but for its Delay_Resp. -/
def timeRegs : RegFile := (duF [[(TC_CTRL_PRI_EN, 1), (TC_CTRL_PRI_DOMAIN, 5)]]).regs
def vx : TimeView := ⟨timeRegs, { TimeClient.init with
  mono := 31250000, rxStamps := [⟨0, some 7, 0⟩],
  pri := { Servo.init with syncSeq := some 9, t1 := some 1, t2 := some 2, t3 := some 3, reqOpen := some 9 } }⟩
/-- Its Sync stamp is a nanosecond short of 10 µs old. -/
def vy : TimeView := { vx with tc := { vx.tc with rxStamps := [⟨0, some 7, 31240001⟩] } }
def msg9 : PtpMsg := { port := 0, src := 0, domain := 5, seq := 9, correction := 0, secs := 1, nanos := 999999999, clockClass := 13, gm := 0 }
def agSlave : Aggregator :=
  { agF [[(TC_CTRL_PRI_EN.onPage 1, 1), (TC_CTRL_PRI_DOMAIN.onPage 1, 5)], [(PS_CFG_ROLE 0, 1)], [(PS_CFG_ROLE 4, 2)]] with
    tc := { TimeClient.init with mono := 31250000, rxStamps := [⟨2, some 65537, 31250000⟩] } }
theorem test_witness_TheDelayExchange :
    vx.domOf msg9.domain = some .pri ∧ vy.domOf msg9.domain = some .pri ∧ (vx.servo .pri).syncSeq = some msg9.seq
      ∧ ptpTime msg9 = some (1999999999 * 65536) ∧ vx.enabled .pri = true ∧ (vx.servo .pri).lastReq + 31250000 ≤ vx.tc.mono
      ∧ (vx.servo .pri).reqOpen = some msg9.seq ∧ (vx.servo .pri).t1 = some 1 ∧ (vx.servo .pri).t2 = some 2 ∧ (vx.servo .pri).t3 = some 3
      ∧ vx.compat = false ∧ ({ duOn with regs := timeRegs, tc := vx.tc }.view.delayReqTx 0 .pri).isSome = true
      ∧ agSlave.fromMaster msg9 = true ∧ agSlave.unmatched.fromMaster msg9 = true
      ∧ vx.unmatched.tc.rxStamps = []
      ∧ agSlave.unmatched.view.domOf msg9.domain = some .pri ∧ agSlave.unmatched.role 2 .pri = 2
      ∧ agSlave.unmatched.tc.rxStamps = ⟨2, some 65537, 31250000⟩ :: [] ∧ agSlave.unmatched.tc.mono < 31250000 + 10000
      ∧ firstBelow 9 (fun x => decide (agSlave.role x .pri = 1)) = some 0 ∧ (agSlave.view.delayReqTx 0 .pri).isSome = true
      ∧ vy.tc.rxStamps = ⟨0, some 7, 31240001⟩ :: [] ∧ (∀ x ∈ vy.tc.rxStamps, vy.tc.mono < x.at_ + 10000) := by
  repeat' apply And.intro
  all_goals decide +kernel

def agMaster : Aggregator :=
  { agF [[(TC_CTRL_PRI_EN.onPage 1, 1)], [(PS_CFG_ROLE 0, 2)]] with syncAt := [(2, 0)], tc := tcLine 7812499 }
def vLocked : TimeView := ⟨(duF [[(TC_STATUS_ACTIVE, 1), (stateFld .pri, lockedSt)]]).regs, vx.tc⟩
theorem test_witness_DomainsAreLostSwitchedAndServed :
    vx.domOf { msg9 with clockClass := 14 }.domain = some .pri ∧ 14 ≤ { msg9 with clockClass := 14 }.clockClass ∧ (vx.servo .pri).badClass = false
      ∧ vx.enabled .pri = true ∧ (vx.servo .pri).missed = 0 ∧ (vx.servo .pri).lastPair + 4 * vx.ownPort.interval ≤ vx.tc.mono
      ∧ (Servo.init.lastAnn + 3000000000 ≤ (tcLine 3000000000).mono) ∧ Dom.pri = vx.active ∧ vx.state .pri ≠ lockedSt
      ∧ Dom.pri ≠ vLocked.active ∧ vLocked.state .pri = lockedSt ∧ vx.state vx.active = freerun
      ∧ agMaster.role 0 .pri = 2 ∧ agMaster.view.enabled .pri = true ∧ tabGet agMaster.syncAt 0 = none
      ∧ { agMaster with syncAt := [(0, 0)] }.mono < 0 + agMaster.portInterval 0 ∧ tabGet agMaster.annAt 0 = none ∧ duOn.regs.part = .du := by
  repeat' apply And.intro
  all_goals decide +kernel

/-! ### Witnesses: control frames, registration -/

/-- A die unit of aggregator 1, position 2, that its home serves. -/
def duReg : DieUnit := duF [[(DU_ASSIGN_REGISTERED, 1), (DU_ASSIGN_DUID, 258), (DU_ASSIGN_SERVING, 1)]]
def head1 : CtlHead := ⟨1, 1⟩
theorem test_witness_ControlFramesAreExecutedAndAcknowledged :
    duReg.ctlFrom head1 ≠ .stranger ∧ duReg.heardHome.ctl.held = [] ∧ duReg.heardHome.ctlFrom head1 ≠ .stranger
      ∧ (head1.cseq + 2 ^ 32 - (duReg.heardHome.seqOf false).last) % 2 ^ 32 = 1
      ∧ (((duReg.heardHome.set TCK_JOB_ARMED 1)).armDump 1 false 3).1 = 0x00 ∧ (duReg.set DU_ASSIGN_SERVING 2).get DU_ASSIGN_SERVING = 2
      ∧ ((duReg.set DU_ASSIGN_SERVING 2).modCtl fun c => { c with partnerId := 3 }).ctlFrom ⟨3, 1⟩ = .partner
      ∧ regOpsOk true [⟨addr_CNT_CTRL, 0⟩] = true ∧ duReg.heardHome.sleepingFor [⟨addr_CNT_CTRL, 0⟩] = []
      ∧ regOpsOk true [⟨addr_TRC_AUTH, 0⟩] = false ∧ regOpsOk false [⟨addr_TRC_AUTH, 0⟩] = true
      ∧ duReg.ctl.held = [] ∧ duReg.ctlFrom ⟨2, 1⟩ = .stranger := by
  repeat' apply And.intro
  all_goals decide +kernel

def duReq : DieUnit := { duOn with tc := tcLine 10000000, ctl := { duOn.ctl with lastReq := some 0 } }
def duSilent : DieUnit := { duReg with tc := tcLine (10 ^ 12), ctl := { duReg.ctl with partnerId := 3 } }
theorem test_witness_RegistrationAndFailoverOfTheDieUnit :
    duReq.ctl.failReq = none ∧ duReq.registered = false ∧ duReq.ctl.lastReq = some 0 ∧ duReq.ctl.refused = false ∧ 10000000 ≤ duReq.mono
      ∧ duReq.ctl.nonce ≠ duReq.ctl.nonce + 1 ∧ duReg.homeSilent = false ∧ duSilent.homeSilent = true ∧ (0 : Nat) < 0xFFFF
      ∧ duReg.registered = true ∧ duReg.homeId = 1 ∧ duReg.get DU_ASSIGN_SERVING = 1 ∧ duSilent.ctl.partnerId < 0xFFFF := by
  repeat' apply And.intro
  all_goals decide +kernel

/-! ### Witnesses: peals, power, counters -/

/-- Two peals at 10 ns and one a quarter of a nanosecond later. -/
def duP : DieUnit := { duOn with peals := [⟨1, 655360, false, 0, none, false⟩, ⟨2, 655360, false, 0, none, false⟩, ⟨3, 671744, true, 0, none, false⟩] }
def pealL : ArmedPeal := ⟨4, 655360, false, 0, some (655360, 1, []), false⟩
def bankP (due : Bool) : PealBank := { PealBank.init with pending := true, ids := [1], lightDue := due }
def parcel0 : LatchParcel := ⟨LatchImage.init, LatchImage.init, [0], false, false, 1, 0, true⟩
def tcAt (ns mono : Nat) : TimeClient := { TimeClient.init with now := ns * 65536, mono := mono }
theorem test_witness_PealsFireTogetherAndBecomeParcels :
    minOf (duP.peals.map (·.tp)) = some 655360 ∧ duP.isOn .cnt = true ∧ { duP with tc := tcAt 9 40 }.stamp 0 < 10 * 65536
      ∧ 10 * 65536 ≤ { duP with tc := tcAt 10 40 }.stamp 0 ∧ duP.cnt.stopped = false
      ∧ (∀ p ∈ duP.peals.filter (fun p => p.tp ≠ 655360), { duP with tc := tcAt 10 40 }.stamp 0 < p.tp)
      ∧ (duP.modCnt fun c => { c with stopped := true }).cnt.stopped = true ∧ (duP.modCnt fun c => { c with edgeAt := some 655359 }).cnt.edgeAt = some 655359
      ∧ 0 < duP.cntPeriod ∧ duP.cnt.stretched = false ∧ duP.stamp 0 ≤ 655360 + duP.cntPeriod + 32768
      ∧ { duOn with peals := [pealL] }.peals = [pealL] ∧ pealL.light = some (655360, 1, []) ∧ (tcAt 1009 0).now < pealL.tp + max 1 pealL.wait * 65536000
      ∧ pealL.tp + max 1 pealL.wait * 65536000 ≤ (tcAt 1010 0).now ∧ duP.freeBank = some 0
      ∧ ((duP.setBank 0 (bankP false)).setBank 1 (bankP true)).freeBank = none
      ∧ ((duP.peals.filter fun p => p.tp = 655360).any (·.freeze)) = false ∧ pealL.tp ≤ (tcAt 10 40).now
      ∧ (duOn.setPdState .egr 0).isOn .egr = false ∧ (duOn.bank 0).pending = false ∧ ((duOn.setBank 0 (bankP true)).bank 0).lightDue = true
      ∧ duOn.isOn .egr = true ∧ (bankP false).pending = true ∧ (bankP false).lightDue = false ∧ (bankP false).ids = [1]
      ∧ ((duOn.setBank 0 (bankP false)).putMatrix ptPeal 1 1 0 0 (postmark 0) ((bankP false).desc 1) []).1 = true
      ∧ duOn.cnt.latchQueue = [] ∧ (duOn.modCnt fun c => { c with latchQueue := [parcel0] }).cnt.latchQueue = parcel0 :: []
      ∧ (duOn.putMatrix ptLatch 1 2 1 0 (postmark 0) parcel0.desc [0, 0]).1 = true := by
  repeat' apply And.intro
  all_goals decide +kernel

def duWaking : DieUnit := { duOn.setPdState .tcp 1 with pdTcp := ⟨some 0, false, 0⟩, tc := tcLine 20000 }
def duAcked : DieUnit := { duWaking with pdTcp := ⟨some 0, true, 0⟩ }
def duIdle : DieUnit := { duOn with pdCnt := ⟨none, false, 100001⟩ }
theorem test_witness_FastDomainsWakeSleepAndReset :
    duWaking.pdState .tcp = 1 ∧ duOn.pdState .tcp ≠ 1 ∧ duAcked.pdState .tcp = 1 ∧ (duAcked.pd .tcp).acked = true ∧ duAcked.indPoints .tcp = false
      ∧ duAcked.ctl.held = [] ∧ (duOn.pd .tcp).reqAt = none ∧ (duWaking.pd .tcp).reqAt = some 0 ∧ (duWaking.pd .tcp).acked = false
      ∧ 0 + 20000 ≤ duWaking.mono ∧ (∀ u, (duWaking.pd .tcp).reqAt = some u → duWaking.mono ≤ u + 20000)
      ∧ 0 + 20000 < { duWaking with tc := tcLine 20001 }.mono ∧ FastDom.tcp ≠ .trc ∧ duWaking.ctl.held = [] ∧ duWaking.indPoints .tcp = false
      ∧ duIdle.isOn .cnt = true ∧ 100000 < (duIdle.pd .cnt).idle ∧ duIdle.quiet .cnt = true ∧ (duOn.pd .cnt).idle ≤ 100000
      ∧ duOn.tc.winTicks < 16 ∧ 16 ≤ { TimeClient.init with winTicks := 16 }.winTicks ∧ 0 % 16 = 0 ∧ 17 % 16 = 1 := by
  repeat' apply And.intro
  all_goals decide +kernel

/-- Counter 2 alone enabled, counting event line 5. -/
def duSel : DieUnit := duF [[(⟨addr_CNT_SEL 2, 63, 0⟩, 2 ^ 63 + 5)]]
theorem test_witness_CountersCountWhileNotFrozen :
    (duOn.setPdState .cnt 0).isOn .cnt = false ∧ duOn.isOn .cnt = true ∧ duOn.peals = [] ∧ duOn.cnt.stopped = false ∧ duOn.cnt.pend = [] ∧ (duOn.set CNT_STATUS_FROZEN 1).on CNT_STATUS_FROZEN = true
      ∧ duSel.isOn .cnt = true ∧ duSel.cnt.pend = [] ∧ duSel.on CNT_STATUS_FROZEN = false ∧ duSel.selectors = [(2, 2 ^ 63 + 5)]
      ∧ bits (2 ^ 63 + 5) 63 60 = 8 ∧ 23 < 24 ∧ 7 < 8 := by
  repeat' apply And.intro
  all_goals decide +kernel

def duCmd : DieUnit := (duF [[(CNT_CTRL_LATCH_EN, 1)]]).modCnt fun c => { c with inCmd := true, startTaken := true }
/-- The command started in the cycle it ends in. -/
def duNow : DieUnit := duCmd.modCnt fun c => { c with edgeStart := true, startAt := duCmd.stamp 0 }
def duFrozen : DieUnit := { duF [[(CNT_STATUS_FROZEN, 1)], [(CNT_CTRL_FREEZE_MAX, 1)]] with tc := tcLine 100000 }
theorem test_witness_CounterControlAndLatches :
    (duOn.setPdState .cnt 0).isOn .cnt = false ∧ duOn.isOn .cnt = true ∧ duOn.cnt.inCmd = false
      ∧ (duOn.set CNT_CTRL_LATCH_EN 1).on CNT_CTRL_LATCH_EN = true ∧ (duOn.set CNT_CTRL_LATCH_EN 1).on CNT_STATUS_LATCH_HELD = false
      ∧ duCmd.isOn .cnt = true ∧ duCmd.cnt.inCmd = true ∧ duCmd.cnt.startTaken = true ∧ duCmd.on CNT_CTRL_LATCH_EN = true
      ∧ duCmd.on CNT_STATUS_LATCH_HELD = false ∧ duCmd.cnt.edgeStart = false ∧ duNow.cnt.edgeStart = true ∧ duNow.cnt.startAt = duNow.stamp 0
      ∧ ¬ (duOn.cnt.edgeStart = true ∧ duOn.cnt.startAt = duOn.stamp 0) ∧ 479 < 480 ∧ bits (2 ^ 63 + 255) 61 60 ≠ 3 ∧ bits (2 ^ 63 + 255) 15 12 = 0 ∧ bits (2 ^ 63 + 255) 11 0 < 256
      ∧ 2 ^ 63 + 255 < 2 ^ 64 ∧ bits (2 ^ 63 + 256) 15 12 = 0 ∧ ¬ bits (2 ^ 63 + 256) 11 0 < 256 ∧ bits 0x203B 15 12 = 2 ∧ bits 0x203B 11 6 = 0
      ∧ bits 0x203B 5 3 ≠ 0 ∧ bit 0x203B 2 = false ∧ bits (3 * 2 ^ 60) 61 60 = 3
      ∧ (duFrozen.modCnt fun c => { c with pend := [.sel 479 0] }).cnt.pend = [.sel 479 0]
      ∧ (duFrozen.modCnt fun c => { c with pend := [.sel 479 0] }).on CNT_STATUS_FROZEN = true
      ∧ duFrozen.isOn .cnt = true ∧ duFrozen.on CNT_STATUS_FROZEN = true ∧ duFrozen.get CNT_CTRL_FREEZE_MAX ≠ 0
      ∧ duFrozen.cnt.freezeAt + duFrozen.get CNT_CTRL_FREEZE_MAX * 100000 ≤ duFrozen.mono ∧ duFrozen.cnt.pend = [] := by
  repeat' apply And.intro
  all_goals decide +kernel

/-! ### Witnesses: shaping, gates, trace -/

/-- Stream 3 with a rate, 1 µs after the last multiple. -/
def duRate : DieUnit := { duF [[(SHP_RATE_CIR 3, 1), (SHP_RATE_PIR 3, 400000)]] with tc := tcAt 1000 1000 }
def gate1 : GateList := ⟨0, 1000, [(0, ⟨1, false, 0, 500⟩)]⟩
def duGate (sw : Nat) : DieUnit := { duOn with shp := { Shaper.init with pending := some (gate1, sw) } }
def duWin (w : List Nat) (ns : Nat) : DieUnit := { duOn with shp := { Shaper.init with active := some gate1, openWins := w }, tc := tcAt ns ns }
def open1 : OpenParcel := ⟨ptTrace, 1, 0, 0, 40, 0, []⟩
def duOpen (mono : Nat) : DieUnit := { duOn with fb := { FrameBuilder.init with opens := [open1] }, tc := tcLine mono }
theorem test_witness_ShapingAndGates :
    (duOn.setPdState .egr 0).isOn .egr = false ∧ duOn.stamp 0 / 65536000 ≤ duOn.shp.lastMult ∧ duRate.isOn .egr = true ∧ duRate.shp.held = []
      ∧ duRate.ratedStreams = [3] ∧ duRate.stamp 3 / 65536000 = duRate.shp.lastMult + 1 ∧ 0 < 1
      ∧ bits (2 ^ 32 * 400000 + 400000) 23 0 ≤ bits (2 ^ 32 * 400000 + 400000) 55 32 ∧ bits (2 ^ 32 * 400000 + 400000) 55 32 ≤ 400000
      ∧ 400000 < bits (2 ^ 32 * 400001) 55 32 ∧ bits (2 ^ 32) 55 32 < bits (2 ^ 32 + 2) 23 0 ∧ 2 ^ 32 * 400001 < 2 ^ 64
      ∧ 1000 ≤ (duOn.set GATE_CYCLE 1000).shadowList.cycle ∧ (duOn.set GATE_CYCLE 1000).shadowList.wins = []
      ∧ (duOn.set GATE_CYCLE 999).shadowList.cycle < 1000 ∧ duOn.shp.pending = none
      ∧ (duGate 0).shp.pending = some (gate1, 0) ∧ 0 * 65536 ≤ (duGate 0).stamp 0
      ∧ 0 ∈ gate1.openSet (duWin [] 1000).shp.gateFrom ((duWin [] 1000).stamp 0) ∧ 0 ∉ (duWin [] 1000).shp.openWins
      ∧ 0 ∉ gate1.openSet (duWin [0] 1500).shp.gateFrom ((duWin [0] 1500).stamp 0)
      ∧ { duOn with short := [⟨1, [], 0, none⟩] }.short = ⟨1, [], 0, none⟩ :: [] ∧ duOn.short = [] ∧ duOn.registered = false ∧ { duOn with short := [⟨0, [], 0, some ⟨.delayReq, 0, .pri, 7⟩⟩] }.short.length = 1
      ∧ { open1 with ptype := ptHealth }.ptype = ptHealth ∧ ptTrace ≠ ptMismatch ∧ ptTrace ≠ ptHealth
      ∧ (duOpen 40).openOf ptTrace = some open1 ∧ (duOpen 40).isOn .egr = true ∧ open1.at_ + open1.closeNs ≤ (duOpen 40).mono
      ∧ (duOpen 39).mono < open1.at_ + open1.closeNs := by
  repeat' apply And.intro
  all_goals decide +kernel

def duTrc : DieUnit := duF [[(TRC_CTRL_EN, 1)], [(TRC_SRC_EN 2, 1)]]
def pkt (kind : Nat) : TracePkt := ⟨kind, 5, 0, 0, false, false, false⟩
def staged1 : Staged := duTrc.staged (.event 5) 0 0 0 2 4 2
/-- The trace cycle of the commands below has begun. -/
def duEdge : DieUnit := duTrc.traceEdge 0
def mods (f : TraceFunnel → TraceFunnel) : DieUnit := duTrc.modTrc f
theorem test_witness_TraceAdmissionInTheOrderOfTheTable :
    duTrc.isOn .trc = true ∧ duTrc.trc.sleeping = false ∧ (pkt 3).kind % 4 = 3 ∧ (pkt 0).kind % 4 ≠ 3 ∧ (pkt 1).kind % 4 ≠ 3
      ∧ duOn.on TRC_CTRL_EN ≠ true ∧ duEdge.on TRC_CTRL_EN = true ∧ duEdge.on (TRC_SRC_EN 2) = true
      ∧ (({ pkt 0 with sec := true }.sec && !duEdge.on TRC_AUTH_SEC_AUTH) || ((pkt 0).prv && !duEdge.on TRC_AUTH_PRIV_AUTH)) = true
      ∧ (((pkt 0).sec && !duEdge.on TRC_AUTH_SEC_AUTH) || ((pkt 0).prv && !duEdge.on TRC_AUTH_PRIV_AUTH)) = false
      ∧ (duF [[(TRC_CMP_CTRL_PORTS 0, 4), (TRC_CMP_CTRL_EN 0, 1)], [(TRC_CMP_LIMIT 0, 7)]]).passesFilter 2 { pkt 1 with addr := 8 } = false
      ∧ duEdge.passesFilter 2 (pkt 1) = true ∧ duEdge.on TRC_STATUS_RING_FROZEN = false ∧ ((duTrc.set TRC_STATUS_RING_FROZEN 1).traceEdge 0).on TRC_STATUS_RING_FROZEN = true
      ∧ 256 - ((mods fun t => { t with staging := List.replicate 248 staged1 }).traceEdge 0).trc.staging.length ≤ 8
      ∧ 8 + (duEdge.reserves (duEdge.prioOf 2)).1 < 256 - duEdge.trc.staging.length
      ∧ duEdge.segOk (duEdge.reserves (duEdge.prioOf 2)).2 (duEdge.staged (duEdge.bodyOf 2 (pkt 0)) 0 (duEdge.srcOf 2) (duEdge.prioOf 2) 2 4 2) = true
      ∧ duEdge.trc.unreported (duEdge.srcOf 2) = none
      ∧ (duTrc.setPdState .trc 0).isOn .trc = false
      ∧ (mods fun t => { t with sleeping := true }).trc.sleeping = true := by
  repeat' apply And.intro
  all_goals decide +kernel

def duSlept : DieUnit := (mods fun t => { t with sleepLevel := t.sleepLevel ||| 2 ^ 2 }).traceEdge 0
theorem test_witness_TraceFunnelWritesAndMarks :
    duTrc.isOn .trc = true ∧ duTrc.trc.sleeping = false ∧ (duTrc.setPdState .trc 0).isOn .trc = false ∧ duTrc.trc.pendDiscont = none
      ∧ duTrc.trc.pendScale = false ∧ duTrc.trc.begun = false ∧ duTrc.trc.stopped = false ∧ duTrc.trc.pend = [] ∧ duEdge.trc.begun = true
      ∧ duEdge.trc.staging = [] ∧ ((mods fun t => { t with staging := [staged1] }).traceEdge 0).trc.staging = staged1 :: []
      ∧ duEdge.on TRC_STATUS_RING_FROZEN = false ∧ ((duTrc.set TRC_STATUS_RING_FROZEN 1).traceEdge 0).on TRC_STATUS_RING_FROZEN = true
      ∧ duTrc.trc.openSeg = none ∧ tabGet duTrc.trc.segs (duTrc.trc.nextSeg % 64) = none ∧ staged1.isWake = false
      ∧ tabGet duTrc.trc.lost staged1.src = none ∧ duEdge.trc.unreported 7 = none
      ∧ ((mods fun t => { t with dead := [(7, ⟨1, 2, 1⟩)] }).traceEdge 0).trc.unreported 7 = some ⟨1, 2, 1⟩
      ∧ duEdge.funnelOk (duEdge.staged (.dead 2 1) 0 7 1 16 3 7) = true
      ∧ (mods fun t => { t with pend := [.auth true false] }).trc.pend = [.auth true false] ∧ (mods fun t => { t with pend := [.mode 1] }).trc.pend = [.mode 1]
      ∧ 1 < 2 ∧ 1 ≠ duTrc.get TRC_CTRL_MODE
      ∧ (mods fun t => { t with stopped := true, edgeT := some 0 }).trc.stopped = true
      ∧ duTrc.funnelOk (duTrc.staged (.gap ((duTrc.stamp 0 - duTrc.trc.edgeT.getD (duTrc.stamp 0)) / 65536)) 0 0x3F 3 16 1 0) = true
      ∧ 2 < 16 ∧ bit duTrc.trc.sleepLevel 2 = false ∧ duSlept.on TRC_CTRL_EN = true ∧ duSlept.on (TRC_SRC_EN 2) = true
      ∧ duSlept.funnelOk (duSlept.staged .sleep 0 (duSlept.srcOf 2) (duSlept.prioOf 2) 16 5 2) = true
      ∧ (mods fun t => { t with sleepLevel := 4 }).trc.sleepLevel < 2 ^ 16 ∧ bit (mods fun t => { t with sleepLevel := 4 }).trc.sleepLevel 2 = true := by
  repeat' apply And.intro
  all_goals decide +kernel

def seg1 (closed : Bool) : Segment := ⟨0, 0, 0, 0, 0, [], closed, 0⟩
def duSeg (mono : Nat) : DieUnit :=
  { (duF [[(TRC_CTRL_EN, 1), (TRC_CTRL_FLUSH, 1)]]).modTrc fun t => { t with segs := [(0, seg1 false)], openSeg := some 0, nextSeg := 1 } with tc := tcLine mono }
def duDrain : DieUnit := (duF [[(TRC_CTRL_DRAIN_EN, 1)]]).modTrc fun t => { t with segs := [(0, seg1 true)], nextSeg := 1 }
theorem test_witness_SegmentsCloseAndDrain :
    duTrc.trc.openSeg = none ∧ (duSeg 100000).trc.openSeg = some 0 ∧ tabGet (duSeg 100000).trc.segs 0 = some (seg1 false)
      ∧ (duSeg 100000).isOn .trc = true ∧ (duSeg 100000).get TRC_CTRL_FLUSH ≠ 0
      ∧ (seg1 false).at_ + (duSeg 100000).get TRC_CTRL_FLUSH * 100000 ≤ (duSeg 100000).mono
      ∧ (duSeg 99999).mono < (seg1 false).at_ + (duSeg 99999).get TRC_CTRL_FLUSH * 100000
      ∧ (duTrc.set TRC_CTRL_MODE 1).ringMode = true ∧ (duTrc.set TRC_CTRL_DRAIN_EN 0).on TRC_CTRL_DRAIN_EN = false
      ∧ duDrain.on TRC_STATUS_RING_FROZEN = false ∧ duDrain.trc.sleeping = false ∧ duDrain.ringMode = false ∧ duDrain.on TRC_CTRL_DRAIN_EN = true
      ∧ duDrain.isOn .egr = true ∧ duDrain.trc.oldest true = some 0 ∧ tabGet duDrain.trc.segs 0 = some (seg1 true)
      ∧ (duDrain.putWhole ptTrace duDrain.jobId duDrain.jobGen (postmark (duDrain.stamp 0)) (seg1 true).image).1 = true
      ∧ ((duDrain.putWhole ptTrace duDrain.jobId duDrain.jobGen (postmark (duDrain.stamp 0)) (seg1 true).image).2.on TRC_STATUS_RING_FROZEN) = false
      ∧ false ≠ duDrain.on TRC_CTRL_DRAIN_EN ∧ ((duSeg 0).set TRC_CTRL_MODE 1).trc.segs ≠ []
      ∧ 1 % 4 < 2 ∧ 2 ≤ 2 % 4 := by
  repeat' apply And.intro
  all_goals decide +kernel

/-! ### Witnesses: tile capture, dumps, reports -/

/-- Job 1 armed, current step 6, a dump armed for step 7. -/
def duJob : DieUnit :=
  (duF [[(TCK_JOB_ARMED, 1), (TCK_JOB_JOB_ID, 1)], [(TCK_STEP, 6)], [(TCK_CTRL_SEL_EN, 1), (TCK_CTRL_LN_EN, 1)], [(TCK_OUTW, 2)]]).modTcp fun t =>
    { t with dumps := [⟨1, false, 7, 1, 0⟩], keyNext := some (zeros 16) }
theorem test_witness_StepsAndCheckEvents :
    (duOn.setPdState .tcp 0).isOn .tcp = false ∧ duOn.isOn .tcp = true ∧ duOn.on TCK_JOB_ARMED = false ∧ duJob.isOn .tcp = true
      ∧ duJob.on TCK_JOB_ARMED = true ∧ duJob.step = some 6 ∧ 6 ≤ 6 ∧ noStep ≤ noStep ∧ 7 < noStep ∧ 6 < 7 ∧ duJob.tcp.keyNext = some (zeros 16)
      ∧ (3 : Nat) ≠ 4 ∧ duJob.fpIndex true 1 = none ∧ duJob.fpIndex false 1 = none ∧ duJob.tcp.mismatch.length < 8 := by
  repeat' apply And.intro
  all_goals decide +kernel

def com1 (wanted : Bool) : Commit :=
  { job := 1, gen := 0, step := 6, tensor := 2, tile := 3, m := 0, n := 0, k := 0, fmt := 1, num := 0, outCheck := 0, t := 0, cell := 0, temp := 0,
    mv := 0, stale := false, quality := 0, wanted := wanted }
def duAwait (w : Bool) : DieUnit := duJob.modTcp fun t => { t with awaiting := [com1 w] }
def cap1 (part : Nat) : Capture :=
  { com := com1 true, seq := 0, at_ := 0, begun := false, part := part, got := 0, sent := 0, chunk := [], crc := crc64Init, malformed := false,
    commitFail := false }
def duFull : DieUnit := (duAwait true).modTcp fun t => { t with caps := (List.range 64).map fun k => (k, cap1 0) }
theorem test_witness_TileSelection :
    (duOn.setPdState .tcp 0).isOn .tcp = false ∧ duJob.isOn .tcp = true ∧ duJob.on TCK_JOB_ARMED = true ∧ duJob.step.isSome = true
      ∧ (duAwait true).tcp.awaiting = com1 true :: [] ∧ (com1 true).wanted = true ∧ (duAwait true).job = some ((com1 true).job, (com1 true).gen)
      ∧ (duAwait true).tcp.freeTag = some 0 ∧ duFull.tcp.awaiting = com1 true :: [] ∧ duFull.tcp.freeTag = none
      ∧ duFull.job = some ((com1 true).job, (com1 true).gen) ∧ (duAwait false).tcp.awaiting = com1 false :: [] ∧ (com1 false).wanted = false := by
  repeat' apply And.intro
  all_goals decide +kernel

/-- One row, one column, one element: each part is 4 bytes of FP32. -/
def duCap (c : Capture) (mono buffered : Nat) : DieUnit :=
  { duJob.modTcp fun t => { t with caps := [(9, c)], buffered := buffered } with tc := tcLine mono }
theorem test_witness_CapturesAreCheckedAgainstTheirLength :
    duJob.isOn .tcp = true ∧ tabGet duJob.tcp.caps 9 = none ∧ tabGet (duCap (cap1 0) 0 0).tcp.caps 9 = some (cap1 0) ∧ (duCap (cap1 0) 0 0).isOn .tcp = true
      ∧ 32768 < (duCap (cap1 0) 0 32766).tcp.buffered + 3 ∧ (duCap (cap1 0) 0 32765).tcp.buffered + 3 ≤ 32768 ∧ 1 ≠ (cap1 0).part ∧ (1 : Nat) ≠ 3 ∧ (cap1 0).part < 3 ∧ (duCap (cap1 0) 0 0).fb.full = false ∧ ((duCap (cap1 0) 0 0).set TCK_CTRL_CAP_DEADLINE 1).mono < (cap1 0).at_ + ((duCap (cap1 0) 0 0).set TCK_CTRL_CAP_DEADLINE 1).capDeadline
      ∧ duJob.partLen (com1 true) 0 = some 4 ∧ (cap1 0).got + 3 < 4 ∧ (cap1 0).chunk.length + 3 < 32768 ∧ (cap1 2).part = 2
      ∧ duJob.partLen (com1 true) 2 = some 4 ∧ (cap1 2).got + 4 = 4 ∧ (cap1 0).begun = false
      ∧ (cap1 0).at_ + duJob.capDeadline ≤ (duCap (cap1 0) duJob.capDeadline 0).mono ∧ { cap1 0 with begun := true }.begun = true
      ∧ (cap1 0).at_ + 4 * duJob.capDeadline ≤ (duCap (cap1 0) (4 * duJob.capDeadline) 0).mono := by
  repeat' apply And.intro
  all_goals decide +kernel

def dump1 : Dump := ⟨1, false, 7, 1, 0⟩
def dumpR (streaming : Bool) : DumpRun := ⟨dump1, streaming, 0, 0, 0, 0, [], crc64Init⟩
def duDump (r : Option DumpRun) (mono : Nat) : DieUnit :=
  { duJob.modTcp fun t => { t with triggered := [dump1], run := r } with tc := tcLine mono }
theorem test_witness_NamedDumpsStreamInBlocks :
    duJob.tcp.run = none ∧ duJob.tcp.triggered = [] ∧ (duDump none 0).isOn .tcp = true ∧ (duDump none 0).tcp.run = none
      ∧ (duDump none 0).tcp.triggered = dump1 :: [] ∧ (duDump (some (dumpR false)) 0).tcp.run = some (dumpR false) ∧ (dumpR false).streaming = false
      ∧ (dumpR false).reqAt + max 1 (duJob.get TCK_CTRL_DUMP_DEADLINE) * 1000000
          ≤ (duDump (some (dumpR false)) (max 1 (duJob.get TCK_CTRL_DUMP_DEADLINE) * 1000000)).mono
      ∧ (duDump (some (dumpR true)) 0).tcp.run = some (dumpR true) ∧ (dumpR true).streaming = true ∧ (duDump (some (dumpR true)) 0).isOn .tcp = true
      ∧ (duDump (some (dumpR true)) 0).tcp.buffered + 32768 ≤ 32768 ∧ (duDump (some (dumpR true)) 0).fb.full = false := by
  repeat' apply And.intro
  all_goals decide +kernel

def rec1 (released : Bool) : HealthRec :=
  { hseq := 4, unit_ := 0, op := 0, code := 0x1000, sev := 0, stale := false, quality := 0, repeat_ := 0, firstT := 0, temp := 0, mv := 0, job := 0,
    gen := 0, step := 0, lastDt := 0, at_ := 0, released := released }
def duHe (r : HealthRec) (mono : Nat) : DieUnit := { duF [[(HE_CTRL_COALESCE, 1)]] with he := { duOn.he with queue := [r] }, tc := tcLine mono }
theorem test_witness_ReportsReadingsAndLineage :
    duJob.isOn .tcp = true ∧ duJob.tcp.lineage.length < 256 ∧ duJob.lineageOk ([1, 1, 0, 0, 0, 0, 0, 1] ++ zeros 40) = true ∧ duJob.lineageOk (zeros 48) = false
      ∧ (duOn.setPdState .tcp 0).isOn .tcp = false ∧ 256 ≤ (duJob.modTcp fun t => { t with lineage := List.replicate 256 ⟨1, 0, []⟩ }).tcp.lineage.length
      ∧ (duOn.set HE_CTRL_EN 0).on HE_CTRL_EN = false ∧ 0x1000 ≤ 0x1000 ∧ 0xFFFF < 0x10000
      ∧ (duF [[(HE_CTRL_EN, 1)]]).on HE_CTRL_EN = true ∧ (duF [[(HE_CTRL_EN, 1)]]).get HE_CTRL_COALESCE = 0
      ∧ duOn.he.queue.length < 16 ∧ (∀ r ∈ (duHe (rec1 true) 10000).he.queue, r.hseq = 4 → r.released = true)
      ∧ (∀ r ∈ (duHe (rec1 false) 9999).he.queue, r.hseq = 4 → (duHe (rec1 false) 9999).mono < r.at_ + (duHe (rec1 false) 9999).get HE_CTRL_COALESCE * 10000)
      ∧ (duHe (rec1 false) 10000).he.queue = [rec1 false] ∧ (rec1 false).hseq = 4 ∧ (rec1 false).released = false
      ∧ (rec1 false).at_ + (duHe (rec1 false) 10000).get HE_CTRL_COALESCE * 10000 ≤ (duHe (rec1 false) 10000).mono := by
  repeat' apply And.intro
  all_goals decide +kernel

/-! ### Witnesses: supplies, the recorder, the tocsin -/

def flush1 (cause word : Nat) : Flush := ⟨1, cause, 0, 8, 0, word, zeros 64, false, false⟩
def duFl (f : Flush) : DieUnit := { duOn with recd := { Recorder.init with flush := some f } }
def duWarn : DieUnit := duF [[(DU_SAG_WARN_NOW, 1)]]
def duCrit : DieUnit := duF [[(DU_SAG_CRIT_NOW, 1)]]
def rec0 (n : Nat) : List Byte := leBytes 4 n ++ zeros 60
/-- A flush of the aggregator whose next five records are in the ring. -/
def agFl : Aggregator :=
  { agOn with recd := { Recorder.init with flush := some (flush1 1 0), ring := (List.range 10).map fun k => (k, rec0 k) } }
theorem test_witness_SuppliesAndFlushWords :
    duWarn.on DU_SAG_WARN_NOW = true ∧ duOn.on DU_SAG_WARN_NOW = false ∧ duOn.recd.flush = none ∧ duOn.on DU_SAG_CRIT_NOW = false
      ∧ (duFl (flush1 1 6)).recd.flush = some (flush1 1 6) ∧ (flush1 1 6).cause ≠ 2 ∧ (flush1 2 6).cause = 2 ∧ duCrit.on DU_SAG_CRIT_NOW = true
      ∧ agOn.on PWR_SAG_WARN_NOW = false ∧ (agF [[(PWR_SAG_WARN_NOW, 1), (PWR_SAG_CRIT_NOW, 1)]]).on PWR_SAG_WARN_NOW = true
      ∧ (flush1 1 6).word < 7 ∧ (agF [[(PWR_SAG_WARN_NOW, 1), (PWR_SAG_CRIT_NOW, 1)]]).on PWR_SAG_CRIT_NOW = true ∧ agOn.recd.flush = none
      ∧ agFl.recd.flush = some (flush1 1 0) ∧ (flush1 1 0).slot < 1000 ∧ (flush1 1 0).ending = false ∧ (flush1 1 0).yield_ = false
      ∧ (∀ k, k ≤ 4 → (flush1 1 0).slot + k ≤ (flush1 1 0).newest + 1 → agFl.recd.ringRec ((flush1 1 0).newest + 1 - ((flush1 1 0).slot + k)) ≠ none)
      ∧ (flush1 1 0).slot + 4 ≤ (flush1 1 0).newest + 1 := by
  repeat' apply And.intro
  all_goals decide +kernel

def recIn1 : RecIn := ⟨1, 0, 0, 0, 0, 0, []⟩
def bucket1 : Bucket := ⟨0, 0, 0, 0⟩
def duRec (c : Recorder) (mono : Nat) : DieUnit := { duOn with recd := c, tc := tcLine mono }
def agRec (c : Recorder) : Aggregator := { agF [[(REC_STATUS_BANK_READY.onPage 3, 1)]] with recd := c }
theorem test_witness_TheRecorderWritesItsRing :
    duOn.recd.queue = [] ∧ agOn.recd.queue = [] ∧ (duRec { Recorder.init with queue := [recIn1] } 0).recd.queue = recIn1 :: []
      ∧ (agRec { Recorder.init with queue := [recIn1] }).recd.queue = recIn1 :: [] ∧ tabGet duOn.recd.buckets 3 = none
      ∧ tabGet (duRec { Recorder.init with buckets := [(3, bucket1)] } 0).recd.buckets 3 = some bucket1
      ∧ bucket1.tokens < max 1 (duOn.get REC_CTRL_BURST) ∧ bucket1.count = 0
      ∧ bucket1.at_ + max 1 (duOn.get REC_CTRL_PERIOD) * 100000 ≤ (duRec Recorder.init (max 1 (duOn.get REC_CTRL_PERIOD) * 100000)).mono
      ∧ tabGet agOn.recd.buckets 3 = none ∧ duOn.on DU_SAG_CRIT_NOW = false ∧ (duRec { Recorder.init with trigger := some 1 } 0).recd.trigger = some 1
      ∧ duOn.recd.flush = none ∧ duOn.recd.trigger = none ∧ (duRec { Recorder.init with queued := some 2 } 0).recd.queued = some 2
      ∧ (agF [[(REC_STATUS_BANK_READY.onPage 3, 0)]]).on (REC_STATUS_BANK_READY.onPage 3) = false
      ∧ (agRec { Recorder.init with trigger := some 1, queued := some 2 }).on (REC_STATUS_BANK_READY.onPage 3) = true
      ∧ (agRec { Recorder.init with trigger := some 1, queued := some 2 }).recd.flush = none
      ∧ (agRec { Recorder.init with trigger := some 1, queued := some 2 }).recd.trigger = some 1
      ∧ (agRec { Recorder.init with trigger := some 1, queued := some 2 }).recd.queued = some 2
      ∧ agOn.erasing = false ∧ { agOn with erasing := true }.erasing = true ∧ agOn.on PWR_SAG_WRITES_STOPPED = false := by
  repeat' apply And.intro
  all_goals decide +kernel

/-- HEAD stands at 5; the record 4 is in its slot. -/
def duHead : DieUnit := { duF [[(REC_HEAD_HEAD, 5)], [(REC_CTRL_AUTO, 0)]] with recd := { Recorder.init with ring := [(4, rec0 4)] } }
theorem test_witness_RecorderRegistersAndWindow :
    duOn.recd.lastFault = none ∧ duOn.recd.flush = none ∧ duOn.recd.trigger = none
      ∧ (duRec { Recorder.init with lastFault := some 77 } 77).recd.lastFault = some (duRec { Recorder.init with lastFault := some 77 } 77).mono
      ∧ duHead.get REC_CTRL_SRC = 0 ∧ duHead.get REC_HEAD_HEAD ≤ 5 ∧ 5 < 2 ^ 32 ∧ 4 < duHead.get REC_HEAD_HEAD ∧ duHead.recd.ringRec 4 = some (rec0 4)
      ∧ duHead.on REC_CTRL_AUTO = false ∧ (duF [[(REC_CTRL_AUTO, 1)]]).on REC_CTRL_AUTO = true := by
  repeat' apply And.intro
  all_goals decide +kernel

def tocF (attempts : Nat) : TocFrame := ⟨0, tocAlarm, zeros 28, attempts, some 0⟩
def alarm1 (sends : Nat) : Alarm := ⟨0, zeros 28, true, sends, 0⟩
def tocRegs : List (Fld × Nat) := [(TOC_CTRL_EN, 1), (TOC_CTRL_RESEND, 10), (TOC_CTRL_NODE, 2)]
def duToc (q : List TocFrame) (sending : Bool) (al : List Alarm) (mono : Nat) : DieUnit :=
  { duF [tocRegs, [(DU_ASSIGN_REGISTERED, 1), (DU_ASSIGN_DUID, 258), (DU_ASSIGN_SERVING, 1)]] with
    toc := { Tocsin.init with mac := { TocMac.init with queue := q, sending := sending }, alarms := al }, tc := tcLine mono }
/-- The levels of a frame on the line. -/
def onLine (l : List Byte) : List Bool := manchester ([0x55, 0x55, 0x57] ++ l)
def duLine : DieUnit := (duToc [tocF 14] true [] 0).withToc
  { (duToc [tocF 14] true [] 0).tocView with mac := { (duToc [tocF 14] true [] 0).toc.mac with line := onLine [1, 2] } }
theorem test_witness_TocsinFramesContendAndAlarmsRepeat :
    duOn.toc.mac.queue = [] ∧ (duToc [tocF 0] false [] 0).toc.mac.queue = tocF 0 :: [] ∧ (duToc [tocF 0] false [] 0).tocView.on TOC_CTRL_EN = true
      ∧ (duToc [tocF 0] false [] 0).toc.mac.sending = false ∧ (duToc [tocF 0] false [] 0).toc.mac.backoffUntil ≤ (duToc [tocF 0] false [] 0).mono
      ∧ (if (tocF 0).type = tocAlarm ∨ (tocF 0).type = tocChipReset then 12 else 44) ≤ 12 ∧ 11 < 12
      ∧ (duToc [tocF 14] true [] 0).toc.mac.sending = true ∧ (tocF 14).attempts < 15 ∧ 15 ≤ (tocF 15).attempts ∧ 15 < 16 ∧ duOn.toc.alarms = []
      ∧ (duToc [] false [alarm1 7] 10000000).toc.alarms = [alarm1 7] ∧ (duToc [] false [alarm1 7] 10000000).toc.mac.queue = []
      ∧ (alarm1 7).lastSend + max 1 ((duToc [] false [alarm1 7] 10000000).get TOC_CTRL_RESEND) * 1000000 ≤ (duToc [] false [alarm1 7] 10000000).mono
      ∧ (alarm1 7).sends < 8 ∧ 8 ≤ (alarm1 8).sends
      ∧ ((duToc [] false [alarm1 7] 0).tocView.receive (tocBytes 2 0 tocAlarmAck (zeros 8))).1 = true
      ∧ tocType (tocBytes 2 0 tocAlarmAck (zeros 8)) = tocAlarmAck ∧ tocHeard (onLine (tocBytes 2 0 tocAlarmAck (zeros 8))) = some (tocBytes 2 0 tocAlarmAck (zeros 8))
      ∧ 12 + 2 ≤ 14 ∧ 13 < 12 + 2 ∧ [false] ≠ duLine.toc.mac.line.take [false].length ∧ duLine.toc.mac.sending = true
      ∧ duLine.toc.mac.line.take 5 = duLine.toc.mac.line.take (duLine.toc.mac.line.take 5).length
      ∧ (alarm1 7).payload.take 8 = (tocPayload (tocBytes 2 0 tocAlarmAck (zeros 8))).take 8 := by
  repeat' apply And.intro
  all_goals decide +kernel

def agToc : Aggregator := agF [[(TOC_CTRL_EN.onPage 0x2F, 1), (TOC_CTRL_NODE.onPage 0x2F, 0)]]
def agBeacon (mono : Nat) : Aggregator := { agToc.modHlt fun h => { h with lastBeacon := [(3, 40)] } with tc := tcLine mono }
def duHome : DieUnit := (duToc [] false [] 50000000).modCtl fun c => { c with partnerId := 3 }
def homeBytes (t : Nat) : List Byte := tocBytes tocBroadcast 0 t (beBytes 2 1 ++ zeros 14)
def alarmBytes : List Byte := tocBytes 0 2 tocAlarm (zeros 28)
theorem test_witness_TocsinFramesReceived :
    (duF [[(TOC_CTRL_EN, 0)]]).tocView.on TOC_CTRL_EN = false ∧ duHome.tocView.on TOC_CTRL_EN = true ∧ tocGood [0, 0, 0, 0, 0, 0] = false
      ∧ tocGood (homeBytes tocBeacon) = true ∧ tocHeard (onLine (homeBytes tocBeacon)) = some (homeBytes tocBeacon)
      ∧ tocHeard [] = none ∧ tocHeard (onLine alarmBytes) = some alarmBytes ∧ tocType (tocBytes 0 5 5 []) = 5 ∧ tocType (tocBytes 0 5 0x7F []) = 0x7F
      ∧ tocDst (homeBytes tocBeacon) = tocBroadcast ∧ 15 < 16
      ∧ (duHome.tocView.receive (homeBytes tocBeacon)).1 = true ∧ tocType (homeBytes tocBeacon) = tocBeacon
      ∧ (duHome.withToc (duHome.tocView.receive (homeBytes tocBeacon)).2).fromHome (homeBytes tocBeacon) = true
      ∧ (duHome.tocView.receive [0, 0, 0, 0, 0, 0]).1 = false ∧ (some 0 : Option Nat) = some 0 ∧ 0 + 50000000 ≤ duHome.mono ∧ duHome.toc.beaconAt = none
      ∧ (duHome.tocView.receive (homeBytes tocChipReset)).1 = true ∧ tocType (homeBytes tocChipReset) = tocChipReset
      ∧ (duHome.withToc (duHome.tocView.receive (homeBytes tocChipReset)).2).fromHome (homeBytes tocChipReset) = true
      ∧ duHome.get DU_ASSIGN_SERVING = 1 ∧ duHome.ctl.partnerId < 0xFFFF ∧ tabGet agToc.hlt.lastBeacon 15 = none
      ∧ tabGet (agBeacon 40).hlt.lastBeacon 3 = some (agBeacon 40).mono ∧ ((agToc.tocView 15).receive alarmBytes).1 = true ∧ tocType alarmBytes = tocAlarm
      ∧ 28 ≤ (tocPayload alarmBytes).length ∧ (∃ p, p ∈ [zeros 28] ∧ p.take 8 = (tocPayload alarmBytes).take 8) ∧ (∀ p, p ∈ agToc.hlt.alarms → p.take 8 ≠ (tocPayload alarmBytes).take 8)
      ∧ ((agToc.tocView 15).receive (tocBytes 0 5 0x80 [])).1 = true ∧ 0x80 ≤ tocType (tocBytes 0 5 0x80 []) := by
  repeat' apply And.intro
  all_goals decide +kernel

/-! ### Witnesses: ingest, registration, channels -/

/-- The head of a frame (Table 7-2). -/
def fr (ftype frags src stream fseq : Nat) (body : List Byte) : List Byte :=
  frameHeader ftype 0 frags src stream 0 1 fseq (zeros 10) ++ body
def cfg0 : FlashConfig :=
  { FlashConfig.empty with partner := 2, tray := [⟨7, 3, 4, 0⟩], storage := [9], oobCtl := 6, domains := [1, 1, 1] }
/-- Aggregator 1: die unit 4 is registered and served, the mirror entry of die unit 5 served too where `fo`, that of 6 not; stream 256 of die unit 4. -/
def agReg (en : Nat) (fo : Bool) : Aggregator :=
  { agF [[(CHIP_IDENT_AGG_ID, 1)], [(ING_CTRL_EN, en), (ING_CTRL_CTL_TRIES, 3)],
         [(REG_ENT_VALID 4, 1), (REG_ENT_STATE 4, 1), (REG_ENT_MAC 4, 77)], [(REG_ENT_VALID 261, 1), (REG_ENT_STATE 261, b2n fo + 1), (REG_ENT_MAC 261, 78)],
         [(REG_ENT_VALID 262, 1), (REG_ENT_STATE 262, 1), (REG_ENT_MAC 262, 79)],
         [(MIR_CTRL_EN, 1)], [(MIR_STATUS_SESSION, 1)], [(STC_CFG_EN 256, 1)]] with cfg := cfg0 }
def agUp : Aggregator := agReg 1 false
def regBody (code pos port : Nat) : List Byte := beBytes 1 code ++ zeros 2 ++ beBytes 1 pos ++ zeros 10 ++ beBytes 2 port ++ zeros 24
def ctlF (tries lastSent : Nat) : CtlOutFrame := ⟨9, 0x0A, 0, [], tries, lastSent, none⟩
def agCtl (f : CtlOutFrame) (mono : Nat) : Aggregator := { agUp.setPath 4 { CtlPath.init with out := [f] } with tc := tcLine mono }
def ackF : List Byte := fr ftControlAck 1 260 0 0 (zeros 4 ++ beBytes 4 9 ++ zeros 8)
theorem test_witness_ControlPathsOfTheAggregator :
    agUp.served = true ∧ agUp.servesKey 5 = false ∧ agUp.mono < (agUp.path 4).lastKeep + 1000000 ∧ agUp.servesKey 4 = true
      ∧ (agUp.path 4).lastKeep + 1000000 ≤ (tcLine 1000000).mono ∧ agUp.hlt.loop = false ∧ (agUp.path 4).stopped = false ∧ (agReg 0 false).answers = false
      ∧ agUp.answers = true ∧ agUp.frameCheck laneIngest (fr ftRegister 1 0 0 0 (regBody 1 3 7)) = (true, agUp)
      ∧ be (fr ftRegister 1 0 0 0 (regBody 1 3 7)) 1 1 = ftRegister ∧ be (regBody 1 3 7) 0 1 = 1
      ∧ (agUp.cfg.tray.find? fun e => decide (e.port = be (regBody 1 2 7) 14 2 ∧ e.pos = be (regBody 1 2 7) 3 1)) = none
      ∧ (agUp.cfg.tray.find? fun e => decide (e.port = be (regBody 1 3 7) 14 2 ∧ e.pos = be (regBody 1 3 7) 3 1)) = some ⟨7, 3, 4, 0⟩
      ∧ agUp.get (REG_ENT_MAC 4) = 77 ∧ (agF [[(REG_ENT_VALID 4, 0)]]).on (REG_ENT_VALID 4) = false ∧ be (regBody 2 3 7) 0 1 = 2
      ∧ firstBelow 256 (fun j => agUp.on (REG_ENT_VALID (256 + j)) && decide (agUp.get (REG_ENT_MAC (256 + j)) = 78)) = some 5
      ∧ { agUp with cfg := FlashConfig.empty }.mirroringRuns = false ∧ (agReg 1 true).mirroringRuns = true ∧ (agReg 1 true).inFailover = true
      ∧ (agReg 1 true).servesKey (256 + 5) = true
      ∧ firstBelow 256 (fun j => (agReg 1 true).on (REG_ENT_VALID (256 + j)) && decide ((agReg 1 true).get (REG_ENT_MAC (256 + j)) = 79)) = some 6
      ∧ (agReg 1 true).servesKey (256 + 6) = false ∧ (agReg 1 true).answers = true ∧ { CtlPath.init with stopped := true }.stopped = true
      ∧ { CtlPath.init with stopped := true }.probe = none ∧ (agReg 1 true).frameCheck laneIngest (fr ftRegister 1 0 0 0 (regBody 2 3 7)) = (true, agReg 1 true) ∧ (agReg 0 false).on ING_CTRL_EN = false ∧ agUp.on ING_CTRL_EN = true
      ∧ (agCtl (ctlF 1 0) 0).frameCheck laneIngest ackF = (true, agCtl (ctlF 1 0) 0) ∧ be ackF 1 1 = ftControlAck ∧ agUp.regKey (be ackF 4 4) = some 4
      ∧ ((agCtl (ctlF 1 0) 0).path 4).waiting = []
      ∧ ((agCtl (ctlF 1 0) 0).path 4).out.find? (fun x => x.cseq = be (ackF.drop 32) 4 4) = some (ctlF 1 0) ∧ (ctlF 1 0).op = 0x0A
      ∧ (agUp.path 4).out.find? (fun x => x.cseq = 9) = none ∧ (agCtl (ctlF 1 0) 0).mono < (ctlF 1 0).lastSent + (agCtl (ctlF 1 0) 0).ctlRetryNs
      ∧ (ctlF 1 0).lastSent + agUp.ctlRetryNs ≤ (agCtl (ctlF 1 0) agUp.ctlRetryNs).mono ∧ agUp.paused = false
      ∧ (ctlF 2 0).tries < max 1 (agUp.get ING_CTRL_CTL_TRIES) ∧ max 1 (agUp.get ING_CTRL_CTL_TRIES) ≤ (ctlF 3 0).tries := by
  repeat' apply And.intro
  all_goals decide +kernel

def strm (s : StreamState) (mono : Nat) : Aggregator := { agUp.setStream 256 s with tc := tcLine mono }
def telF (job : Nat) : List Byte :=
  frameHeader ftTelemetry 0 1 260 256 0 job 5 (zeros 10) ++ beBytes 4 0 ++ beBytes 4 0 ++ beBytes 2 1 ++ zeros 2 ++ [0]
def chan0 (wait : Option Nat) (stopped : Bool) : Channel :=
  { privileged := true, encode := false, lagK := 0, fwdMax := 0, pool := 3, fwdWait := 5, cplAddr := 0, input := [], produced := 0, buf := 0,
    bufLen := 64, used := 0, links := 0, waitSince := wait, stopped := stopped, lastBuf := 0 }
def agCh (c : Channel) (mono : Nat) : Aggregator := { agUp.modIng fun g => { g with channels := [(33, c)] } with tc := tcLine mono }
/-- Core 1 present, in a state; pool 3 of one buffer. -/
def agCore (st : Nat) : Aggregator :=
  agF [[(CHIP_CORE_PRESENT_PRESENT, 2)], [(PD_STAT_STATE 1, st)], [(PH_CFG_EN 3, 1), (PH_CFG_COUNT 3, 1), (PH_CFG_SHIFT 3, 6)]]
def bad1 : List Byte := [0]
/-- A record parcel with no record and no CRC. -/
def goodParcel : List Byte := [1, 0x06, 0, 1] ++ beBytes 4 40 ++ zeros 32
def agIn (ready : List (List Byte)) : Aggregator :=
  (agF [[(STC_CFG_POOL 256, 3)], [(PH_CFG_EN 3, 1), (PH_CFG_COUNT 3, 1), (PH_CFG_SHIFT 3, 6)], [(PH_BASE_BASE 3, sramOf 0)]]).modIng fun g =>
    { g with streams := [(256, ⟨none, none, ready⟩)] }
theorem test_witness_IngestAndChannels :
    agUp.served = true ∧ (agReg 0 false).on ING_CTRL_EN = false ∧ agUp.on ING_CTRL_EN = true ∧ be (telF 1) 0 1 = 0x20 ∧ be (telF 1) 1 1 = ftTelemetry
      ∧ agUp.streamOf (be (telF 1) 4 4) (be (telF 1) 8 2) = some 256 ∧ agUp.on (MTR_BURST_EN 256) = false
      ∧ agUp.frameCheck laneIngest (telF 1) = (true, agUp) ∧ agUp.bind (some 256) (be (telF 1) 12 4) (be (telF 1) 10 1) = .wrong
      ∧ agUp.bind (some 256) (be (telF 0) 12 4) (be (telF 0) 10 1) = .pass ∧ ((strm ⟨none, some 5, []⟩ 0).stream 256).nextFseq = some (be (telF 0) 16 4)
      ∧ (readFrags (be (telF 0) 3 1) ((telF 0).drop 32)).isSome = true ∧ (agUp.stream 256).open_ = none
      ∧ ((strm ⟨some ⟨0, [], 0⟩, none, []⟩ 0).stream 256).open_ = some ⟨0, [], 0⟩
      ∧ 0 + max 1 (agUp.get ING_CTRL_REASM_WAIT) * 10000 ≤ (strm StreamState.init (max 1 (agUp.get ING_CTRL_REASM_WAIT) * 10000)).mono
      ∧ (agUp.stream 256).ready = [] ∧ ((agIn [bad1]).stream 256).ready = bad1 :: [] ∧ (parcelFault bad1).isSome = true
      ∧ ((agIn [goodParcel]).stream 256).ready = goodParcel :: [] ∧ parcelFault goodParcel = none
      ∧ (((agIn [goodParcel]).setStream 256 StreamState.init).pigeonhole 256 goodParcel).1 = true ∧ (agUp.pigeonhole 256 goodParcel).1 = false
      ∧ agOn.dispatchable 1 = false ∧ ((agCh (chan0 none false) 0).chan 33).isSome = true ∧ 31 < 32 ∧ (agCore adOff).dispatchable 1 = true
      ∧ (agCore adOff).chan 33 = none ∧ (agCore adOff).coreOn 1 = false ∧ (agCore adOn).dispatchable 1 = true ∧ (agCore adOn).coreOn 1 = true
      ∧ bit (le (memBytes (agCore adOn).mem 0 64) 12 1) 0 = false ∧ (agCh (chan0 (some 0) false) 5000).chan 33 = some (chan0 (some 0) false)
      ∧ (chan0 (some 0) false).waitSince = some 0 ∧ ((agCore adOn).poolAlloc 3 (ownerChannel 1 1) false).1 = some 0
      ∧ 0 + (chan0 (some 0) false).fwdWait * 1000 ≤ (agCh (chan0 (some 0) false) 5000).mono ∧ (agCh (chan0 none true) 0).chan 33 = some (chan0 none true)
      ∧ (chan0 none true).stopped = true ∧ (chan0 none false).stopped = false := by
  repeat' apply And.intro
  all_goals decide +kernel

/-! ### Witnesses: epochs, trees, broadcasts -/

/-- A node of level 1 below 20 and 21, with the child 30; EPOCH_WAIT 1 µs, HOP_WAIT 1 µs. -/
def tree1 : TreePart := ⟨1, 1, 20, 21, [30], [], [], []⟩
def job1 : JobCtx :=
  { job := 1, gen := 0, state := .armed, version := 0, tree := tree1, treeHeld := true, reparent := [], standIn := none, schemaId := 0, schema := [], epochWait := 1,
    hopWait := 1, dieUnits := [260], failed := [], fpMap := [], fpDeclared := 0, truncated := false, selKey := [], tainted := false, firstTaint := 0,
    horizon := none, reachedTo := 0, dies := [], peals := [⟨1, 1000, false, false, false⟩], epochs := [], ring := [], gone := [], taken := [], parts := [], ups := [], bcasts := [], applied := 0, bparts := [],
    gapSince := none, reservedBc := 0, oldNak := 0, heard := [], lost := [], hbSent := 0, rates := none, oldRates := none, swaps := [],
    drainAt := none, quarEnd := 0 }
def agJob (j : JobCtx) (tc : TimeClient) : Aggregator := { agUp with jobs := [(0, j)], tc := tc }
def epo (armed : Bool) (closed : Option Nat) : Epoch := { Epoch.new 1000 1 with armed := armed, trayClosed := closed }
def jobE (armed : Bool) (closed : Option Nat) : JobCtx := { job1 with epochs := [epo armed closed] }
def up1 (tries : Nat) : ContribOut := ⟨1000, 1, [], tries, 0, 20⟩
def jobU (tries : Nat) : JobCtx := { job1 with ups := [up1 tries] }
def tcU (now mono : Nat) : TimeClient := { TimeClient.init with now := now, mono := mono }
def retryNs : Nat := max 1 (agUp.get TREE_TIMING_CONTRIB_RETRY) * 1000
def upF (job : Nat) (body : List Byte) : List Byte := fr ftTreeUp 1 (2 ^ 31 + 30) 0 0 body |>.set 15 (BitVec.ofNat 8 job)
def contribBody : List Byte := beBytes 1 1 ++ zeros 5 ++ beBytes 10 1000 ++ beBytes 4 2 ++ zeros 4 ++ beBytes 2 2 ++ zeros 6 ++ [0, 0]
theorem test_witness_EpochsCloseAndContributionsTravel :
    let a := agJob job1 TimeClient.init
    a.served = true ∧ agUp.job 0 = none ∧ a.job 0 = some job1 ∧ job1.state = .armed
      ∧ job1.peals.find? (fun q => decide (q.tp = 1000) && !q.sent) = some ⟨1, 1000, false, false, false⟩ ∧ a.armedAhead job1 < 8
      ∧ job1.epoch 1000 = none ∧ job1.wasClosed 1000 = false ∧ (jobE false none).epoch 1000 = some (epo false none)
      ∧ (jobE true none).epoch 1000 = some (epo true none) ∧ (tcU (1000 + 65535999) 0).now < (jobE true none).trayDeadline 1000 ∧ a.paused = false
      ∧ (epo true none).armed = true ∧ (epo true none).trayClosed = none ∧ (jobE true none).trayDeadline 1000 ≤ (tcU (1000 + 65536000) 0).now
      ∧ (tcU (1000 + 65535999) 0).now < (jobE true (some 0)).subtreeDeadline 1000 ∧ (epo true (some 0)).trayClosed.isSome = true
      ∧ (jobE true (some 0)).subtreeDeadline 1000 ≤ (tcU (1000 + 65536000) 0).now ∧ a.on ING_CTRL_EN = true
      ∧ a.frameCheck laneTree (upF 1 contribBody) = (true, a) ∧ be (upF 1 contribBody) 1 1 = ftTreeUp ∧ be contribBody 0 1 = 1
      ∧ a.findJob (be (upF 2 contribBody) 12 4) (be (upF 2 contribBody) 10 1) = none
      ∧ a.findJob (be (upF 1 contribBody) 12 4) (be (upF 1 contribBody) 10 1) = some (0, job1)
      ∧ a.parentCtx (be (upF 2 contribBody) 12 4) (be (upF 2 contribBody) 10 1) (be (upF 2 contribBody) 4 4 % 4096) (be contribBody 6 10) = none
      ∧ a.parentCtx (be (upF 1 contribBody) 12 4) (be (upF 1 contribBody) 10 1) (be (upF 1 contribBody) 4 4 % 4096) (be contribBody 6 10) = some (0, job1)
      ∧ job1.hasTaken (be contribBody 6 10) 30 = false ∧ tabGet job1.parts (be contribBody 6 10 * 4096 + 30) = none
      ∧ { job1 with taken := [(1000, [30])] }.hasTaken (be contribBody 6 10) (be (upF 1 contribBody) 4 4 % 4096) = true
      ∧ (1000 : Nat) < a.tc.now + 200000 * 65536
      ∧ be contribBody 20 4 = 0 ∧ (slice contribBody 32 (be contribBody 24 2)).length = be contribBody 16 4
      ∧ (jobU 1).ups.find? (fun u => u.tp = 1000) = some (up1 1) ∧ (tcU 0 (retryNs - 1)).mono < (up1 1).lastSent + retryNs
      ∧ (up1 1).lastSent + retryNs ≤ (tcU 0 retryNs).mono ∧ max 1 (agUp.get TREE_TIMING_CONTRIB_TRIES) ≤ (up1 999).tries
      ∧ (up1 0).tries < max 1 (agUp.get TREE_TIMING_CONTRIB_TRIES)
      ∧ (tcU 0 retryNs).now < 1000 + (jobU 0).epochWaitU + (((jobU 0).treeAt 1000).depth - (((jobU 0).treeAt 1000).level - 1)) * (jobU 0).hopWaitU
      ∧ a.inTree 0 { job1 with treeHeld := false } = false ∧ (tcU 0 99999).mono < job1.hbSent + 100000 ∧ a.inTree 0 job1 = true
      ∧ job1.hbSent + 100000 ≤ (tcU 0 100000).mono
      ∧ a.ctxsAbove (be (upF 1 [2]) 12 4) (be (upF 1 [2]) 10 1) (be (upF 1 [2]) 4 4 % 4096) = [0]
      ∧ a.ctxsAbove (be (upF 2 [2]) 12 4) (be (upF 2 [2]) 10 1) (be (upF 2 [2]) 4 4 % 4096) = [] ∧ be (upF 1 [2]) 32 1 = 2
      ∧ 20 ∈ a.above 0 job1 ∧ 20 ∉ job1.lost ∧ storeGet 0 job1.heard 20 + 1000000 ≤ (tcU 0 1000000).mono
      ∧ (tcU 0 999999).mono < storeGet 0 job1.heard 20 + 1000000
      ∧ { job1 with reparent := [(0, TreePart.empty)] }.treeAt a.tc.now ≠ { job1 with reparent := [(0, TreePart.empty)] }.tree := by
  repeat' apply And.intro
  all_goals decide +kernel

def bc (kind : Nat) (sends : List (Nat × Nat × Nat)) (acked : Store (List Nat)) (applied reported : Bool) : Bcast :=
  ⟨3, kind, zeros 10, zeros 32, acked, [], sends, applied, [], 0, reported⟩
def jobB (b : Bcast) : JobCtx := { job1 with bcasts := [b] }
def downBody : List Byte := beBytes 1 1 ++ zeros 1 ++ beBytes 1 2 ++ zeros 1 ++ beBytes 4 1 ++ beBytes 4 2 ++ zeros 4 ++ beBytes 2 2 ++ zeros 14 ++ [7, 8]
def downF : List Byte := fr ftTreeDown 1 (2 ^ 31 + 20) 0 0 downBody
def akF (kind bseq : Nat) : List Byte := fr ftTreeAck 1 (2 ^ 31 + 30) 0 0 (beBytes 1 kind ++ zeros 3 ++ beBytes 4 bseq ++ zeros 536)
def jobRoot : JobCtx := { jobB (bc 2 [] [] false false) with tree := TreePart.empty }
def cmdE (op : Nat) : List Byte := [BitVec.ofNat 8 op] ++ zeros 63
def cmd (w : CmdWait) : Command := ⟨8, 0, 0, cmdE 0, [], 0, w⟩
def jobQ (st : JobState) : JobCtx := { job1 with state := st, dieUnits := [], drainAt := some 0, quarEnd := 100 }
theorem test_witness_BroadcastsAreAppliedAndAcknowledged :
    let a := agJob job1 TimeClient.init
    a.served = true ∧ be downBody 2 1 = 2 ∧ a.on ING_CTRL_EN = true ∧ a.frameCheck laneTree downF = (true, a)
      ∧ a.ctxsBelow (be downF 12 4) (be downF 10 1) (be downF 4 4 % 4096) (bit (be downBody 1 1) 0) = [0] ∧ be downF 1 1 = ftTreeDown ∧ be downBody 0 1 = 1
      ∧ a.job 0 = some job1 ∧ job1.applied < be downBody 4 4 ∧ job1.bcast (be downBody 4 4) = none ∧ be downBody 8 4 ≤ 262144
      ∧ job1.bparts.find? (fun p => p.seq = be downBody 4 4) = none ∧ be downBody 12 4 = 0
      ∧ (slice downBody 32 (be downBody 16 2)).length = be downBody 8 4 ∧ (bc 2 [] [] false false).bkind = 2 ∧ (bc 1 [] [] false false).bkind = 1
      ∧ 6 < (bc 7 [] [] false false).bkind ∧ (jobB (bc 2 [(30, 0, 0)] [] false false)).bcast 3 = some (bc 2 [(30, 0, 0)] [] false false)
      ∧ (bc 2 [(30, 0, 0)] [] false false).sends.find? (fun z => z.1 = 30) = some (30, 0, 0)
      ∧ (a.below 0 job1).find? (fun z => z.1 = 30) = some (30, false) ∧ tabGet (bc 2 [(30, 0, 0)] [] false false).acked 30 = none
      ∧ 0 < max 1 (a.get TREE_TIMING_BC_TRIES)
      ∧ 0 + max 1 (a.get TREE_TIMING_BC_RETRY) * 1000 ≤ (tcU 0 (max 1 (a.get TREE_TIMING_BC_RETRY) * 1000)).mono
      ∧ (tabGet (bc 2 [] [(30, [])] false false).acked 30).isSome = true ∧ job1.gapSince = none ∧ { job1 with gapSince := some 0 }.gapSince = some 0
      ∧ 0 + max 1 (a.get TREE_TIMING_BC_GAP_WAIT) * 1000 ≤ (tcU 0 (max 1 (a.get TREE_TIMING_BC_GAP_WAIT) * 1000)).mono
      ∧ a.frameCheck laneTree (akF 3 3) = (true, a) ∧ a.ctxsAbove (be (akF 3 3) 12 4) (be (akF 3 3) 10 1) (be (akF 3 3) 4 4 % 4096) = [0]
      ∧ be (akF 3 3) 1 1 = ftTreeAck ∧ be ((akF 3 3).drop 32) 0 1 = 3 ∧ (jobB (bc 2 [] [] false false)).bcasts = [bc 2 [] [] false false]
      ∧ be ((akF 3 3).drop 32) 4 4 = (bc 2 [] [] false false).bseq ∧ be ((akF 3 2).drop 32) 4 4 < (bc 2 [] [] false false).bseq
      ∧ be ((akF 1 3).drop 32) 0 1 = 1 ∧ a.frameCheck laneTree (akF 1 3) = (true, a) ∧ (0 : Nat) < 1024
      ∧ (jobB (bc 2 [] [] false false)).bcast (be ((akF 1 3).drop 32) 4 4) = some (bc 2 [] [] false false) ∧ (bc 2 [] [] false false).applied = false
      ∧ bit (be ((akF 1 3).drop 32) 1 1) 0 = false ∧ (jobB (bc 2 [] [] false false)).tree.level ≠ 0 ∧ (bc 2 [] [] false true).reported = true
      ∧ jobRoot.bcast 3 = some (bc 2 [] [] false false) ∧ jobRoot.tree.level = 0 ∧ (bc 2 [] [] false false).issued + a.doneWait ≤ (tcU 0 a.doneWait).mono
      ∧ a.hif.commands.find? (fun y => decide (y.wait = .drain 0)) = none ∧ [cmd (.drain 0)].find? (fun y => decide (y.wait = .drain 0)) = some (cmd (.drain 0))
      ∧ (jobQ .retiring).dieUnits = [] ∧ ((agJob (jobQ .retiring) (tcU 0 (10 ^ 12))).retireDrain 0).1 = true ∧ job1.state ≠ .quarantine
      ∧ (tcU 0 99).mono < (jobQ .quarantine).quarEnd ∧ (jobQ .quarantine).state = .quarantine ∧ (jobQ .quarantine).quarEnd ≤ (tcU 0 100).mono := by
  repeat' apply And.intro
  all_goals decide +kernel

/-! ### Witnesses: the mirror link, the ledger, health, audits -/

def agMir (f : Mirror → Mirror) (mono : Nat) : Aggregator := { agUp.modMir f with tc := tcLine mono }
def mirF (kind mseq session : Nat) : List Byte :=
  fr ftMirror 1 (2 ^ 31 + 2) 0 0 (beBytes 1 kind ++ zeros 3 ++ beBytes 4 session ++ beBytes 8 mseq ++ zeros 16)
def mmsg : MirrorMsg := ⟨4, mkSpilled, [], 0⟩
def mirNs : Nat := max 1 (agUp.get MIR_CTRL_MIRROR_RETRY) * 1000
theorem test_witness_TheMirrorLinkAppliesMessagesInOrder :
    let a := agMir (fun m => { m with up := true }) 0
    a.served = true ∧ { agUp with cfg := FlashConfig.empty }.hasPartner = false ∧ agUp.hasPartner = true ∧ agUp.on MIR_CTRL_EN = true
      ∧ agUp.led.mir.up = false ∧ 3 ≠ agUp.partner ∧ agUp.partner = 2 ∧ agUp.canResume 0 0 = false
      ∧ (∀ n < 3, agUp.cfg.domains.getD n 0 ≠ [2, 2, 2].getD n 0) ∧ a.led.mir.up = true ∧ be ((mirF mkSpilled 1 1).drop 32) 0 1 = mkSpilled
      ∧ a.frameCheck laneMirror (mirF mkSpilled 1 1) = (true, a) ∧ be ((mirF mkSpilled 1 1).drop 32) 4 4 = a.get MIR_STATUS_SESSION
      ∧ be ((mirF mkSpilled 1 1).drop 32) 8 8 = (a.mirrorAcked 0).led.mir.rxSeq + 1
      ∧ be ((mirF mkSpilled 0 1).drop 32) 8 8 < (a.mirrorAcked 0).led.mir.rxSeq + 1 ∧ (a.mirrorAcked 0).led.mir.rxSeq + 1 < be ((mirF mkSpilled 2 1).drop 32) 8 8
      ∧ a.frameCheck laneMirror (mirF mkAck 0 1) = (true, a)
      ∧ (agMir (fun m => { m with log := [mmsg] }) 0).led.mir.log.find? (fun x => x.mseq = 4) = some mmsg ∧ mmsg.lastSent + mirNs ≤ (tcLine mirNs).mono
      ∧ (tcLine (mirNs - 1)).mono < mmsg.lastSent + mirNs ∧ a.led.mir.log.find? (fun x => x.mseq = 4) = none
      ∧ a.led.mir.lastHealthTx + 1000000 ≤ (tcLine 1000000).mono ∧ (tcLine 999999).mono < a.led.mir.lastHealthTx + 1000000 ∧ a.led.mir.lostSent = false
      ∧ (tcLine 4999999).mono < a.led.mir.lastHealthRx + 5000000 ∧ a.led.mir.lastHealthRx + 5000000 ≤ (tcLine 5000000).mono ∧ 255 < 256 := by
  repeat' apply And.intro
  all_goals decide +kernel

def lrec : LRec := ⟨1, 0, 7, 260, 1, 0, []⟩
def led (st : StepState) (recs : List LRec) : Ledger := ⟨1, 0, 1, recs, [], [(7, st), (9, { StepState.init with sealedNs := some 0 })], 0, []⟩
def agLed (st : StepState) (recs : List LRec) : Aggregator :=
  { agF [[(CHIP_IDENT_AGG_ID, 1)], [(LDG_CTRL_RESIDENT, 2)]] with led := { LedgerUnit.init with ledgers := [led st recs] }, jobs := [(0, job1)], cfg := cfg0 }
def ss0 : StepState := StepState.init
def obj1 : ObjName := ⟨1, 1, 0, 7, 0⟩
def cmdF (op : Nat) : Command := { cmd (.fetch [obj1] [] [] 0) with entry := [BitVec.ofNat 8 op] ++ zeros 63 }
def agCmd (c : Command) : Aggregator := agOn.modHif fun h => { h with commands := [c] }
theorem test_witness_StepsAreSealedAndSpilled :
    let a := agLed ss0 [lrec]
    a.served = true ∧ agOn.job 0 = none ∧ a.job 0 = some job1 ∧ a.ledger job1.job job1.gen (a.homeOfCtx 0) = some (led ss0 [lrec]) ∧ ((led ss0 []).stepState 7).reached = none
      ∧ ((led { ss0 with reached := some 5 } []).stepState 7).reached = some 5
      ∧ (tcLine 4).mono < 5 + max 1 (a.get LDG_TIMING_SEAL_GRACE) * 1000000
      ∧ 5 + max 1 (a.get LDG_TIMING_SEAL_GRACE) * 1000000 ≤ (tcLine (5 + max 1 (a.get LDG_TIMING_SEAL_GRACE) * 1000000)).mono
      ∧ ((led { ss0 with firstCov := some 5 } []).stepState 7).firstCov = some 5 ∧ (tcLine 4).mono < 5 + max 1 (a.get LDG_TIMING_SEAL_WAIT) * 1000000000
      ∧ 5 + max 1 (a.get LDG_TIMING_SEAL_WAIT) * 1000000000 ≤ (tcLine (5 + max 1 (a.get LDG_TIMING_SEAL_WAIT) * 1000000000)).mono
      ∧ ((led { ss0 with sealedNs := some 3 } []).stepState 7).sealedNs = some 3 ∧ agOn.ledger 1 0 1 = none ∧ ((led ss0 []).stepState 7).sealedNs = none
      ∧ ((led { ss0 with sealedNs := some 3 } [lrec]).stepState 7).writing = none
      ∧ ((led { ss0 with sealedNs := some 3 } [lrec]).stepState 7).freeing = none ∧ a.spillsFor (led ss0 [lrec]) = true
      ∧ a.spillsFor { led ss0 [lrec] with home := 9 } = false ∧ a.reading 1 0 = false ∧ (agCmd (cmdF opReadLedger)).reading 0 0 = true
      ∧ (agReg 1 true).mirroringRuns = true ∧ (led { ss0 with sealedNs := some 3 } [lrec]).partRecs 7 ≠ []
      ∧ (led { ss0 with sealedNs := some 3 } [lrec]).newestSealed = some 9 ∧ 7 + a.get LDG_CTRL_RESIDENT ≤ 9 ∧ a.cfg.storage[0]? = some 9
      ∧ ((led { ss0 with writing := some (0, 0) } []).stepState 7).writing = some (0, 0)
      ∧ (tcLine 0).mono < 0 + max 1 (a.get LDG_TIMING_SPILL_RETRY) * 1000000
      ∧ 0 + max 1 (a.get LDG_TIMING_SPILL_RETRY) * 1000000 ≤ (tcLine (max 1 (a.get LDG_TIMING_SPILL_RETRY) * 1000000)).mono ∧ a.command 8 = none
      ∧ (agCmd (cmdF opSetFeature)).command 8 = some (cmdF opSetFeature) ∧ (cmdF opSetFeature).wait = .fetch [obj1] [] [] 0 ∧ obj1 ∈ [obj1]
      ∧ (cmdF opSetFeature).op = opSetFeature ∧ (agCmd (cmdF opReadLedger)).command 8 = some (cmdF opReadLedger) ∧ (cmdF opReadLedger).op ≠ opSetFeature
      ∧ (∀ x ∈ [obj1], x = obj1) ∧ { obj1 with part := 1 } ∉ [obj1] ∧ (tcLine 0).mono < 0 + max 1 (a.get LDG_TIMING_FETCH_WAIT) * 1000000
      ∧ 0 + max 1 (a.get LDG_TIMING_FETCH_WAIT) * 1000000 ≤ (tcLine (max 1 (a.get LDG_TIMING_FETCH_WAIT) * 1000000)).mono := by
  repeat' apply And.intro
  all_goals decide +kernel

def rates1 : SelRates := ⟨0, 0, 0, 0, 0, 4, 8, [], [], []⟩
def jobStep (n : Nat) : JobCtx := { job1 with rates := some rates1, dies := [(260, { DieJob.init with dieStep := n })] }
def agHl (mono : Nat) : Aggregator :=
  { (agF [[(CHIP_IDENT_AGG_ID, 1)], [(HLT_CTRL_RESOLVE_WAIT, 3)]]).modHlt fun h =>
      { h with mismatches := [⟨260, zeros 48, 0⟩], condStep := [(64 * 4 + 63, ⟨10, 0⟩)] } with tc := tcAt mono mono }
theorem test_witness_MismatchesDecayAndConditionalSuspects :
    (agHl 0).served = true ∧ agOn.hlt.mismatches.find? (fun m => m.duid = 260) = none
      ∧ (agHl 0).hlt.mismatches.find? (fun m => m.duid = 260) = some ⟨260, zeros 48, 0⟩
      ∧ (agHl 2999999).mono < 0 + (agHl 2999999).get HLT_CTRL_RESOLVE_WAIT * 1000000 ∧ 0 + (agHl 3000000).get HLT_CTRL_RESOLVE_WAIT * 1000000 ≤ (agHl 3000000).mono
      ∧ (agHl 0).nowNs < (agHl 0).hlt.decayAt + 60000000000 ∧ (agHl 60000000000).hlt.decayAt + 60000000000 ≤ (agHl 60000000000).nowNs
      ∧ (agF [[(HLT_CTRL_DECAY_SHIFT, 0)]]).get HLT_CTRL_DECAY_SHIFT = 0 ∧ 0 < (agF [[(HLT_CTRL_DECAY_SHIFT, 11)]]).get HLT_CTRL_DECAY_SHIFT
      ∧ tabGet agOn.hlt.condStep (64 * 4 + 63) = none ∧ tabGet (agHl 0).hlt.condStep (64 * 4 + 63) = some ⟨10, 0⟩
      ∧ (jobStep 13).rates = some rates1 ∧ (jobStep 13).dieStep ((agHl 0).subject 4) < 10 + rates1.suspectHold
      ∧ 10 + rates1.suspectHold ≤ (jobStep 14).dieStep ((agHl 0).subject 4) ∧ 4 < 512 ∧ 63 < 64 := by
  repeat' apply And.intro
  all_goals decide +kernel

/-- Core 1 present and in the mask; a capture of one element, FP32 to FP32. -/
def tdesc (status : Nat) : List Byte := zeros 5 ++ beBytes 1 status ++ zeros 8 ++ beBytes 1 1 ++ zeros 41
def tile0 : Tile :=
  { duid := 260, job := 1, gen := 0, capSeq := 0, since := 0, desc := some (tdesc 0), chunks := [(0, 0, zeros 4), (1, 0, zeros 4), (2, 0, zeros 4)],
    lens := [(0, 4), (1, 4), (2, 4)], tooLarge := false, state := .staged, begun := false, avoid := none, numerics := ⟨2 ^ 50, 0, 0, 0⟩, failover := false,
    results := [], core := none, shadowRun := false, third := false, margin := (0, 0) }
def res0 (devN usage : Nat) : AuditResult := ⟨[(usage, 0)], devN, false, 0, 0, usage⟩
def agAud (en st : Nat) (t : Tile) (ns : Nat) : Aggregator :=
  { (agF [[(AUD_CTRL_EN, en), (AUD_CTRL_START_WAIT, 2), (AUD_CTRL_STAGE_WAIT, 2), (AUD_CTRL_SHADOW_LOG, 0)], [(AUD_XDE_MASK, 2)], [(CHIP_CORE_PRESENT_PRESENT, 2)],
      [(PD_STAT_STATE 1, st)]]).modAud fun u => { u with tiles := [t] } with tc := tcAt ns ns }
theorem test_witness_AuditsAreDispatchedAndDecided :
    let a := agAud 1 adOn tile0 0
    (agAud 0 adOn tile0 0).on AUD_CTRL_EN = false ∧ agOn.xdeFree 1 = false ∧ agOn.nextTile 1 = none ∧ a.on AUD_CTRL_EN = true ∧ a.xdeFree 1 = true
      ∧ a.nextTile 1 = some (2, tile0) ∧ (agAud 1 adOff tile0 0).coreOn 1 = false ∧ (agAud 1 adOff tile0 0).xdeFree 1 = true
      ∧ (agAud 1 adOff tile0 0).nextTile 1 = some (2, tile0) ∧ a.coreOn 1 = true ∧ agOn.tile 260 1 0 0 = none ∧ a.tile 260 1 0 0 = some tile0
      ∧ tile0.state = .staged ∧ tile0.begun = false ∧ (agAud 1 adOn tile0 1999999).nowNs < tile0.commitNs + a.get AUD_CTRL_START_WAIT * 1000000
      ∧ tile0.commitNs + a.get AUD_CTRL_START_WAIT * 1000000 ≤ (agAud 1 adOn tile0 2000000).nowNs ∧ tile0.state ≠ .collecting
      ∧ (agAud 1 adOn tile0 1999999).mono < tile0.since + max 1 (a.get AUD_CTRL_STAGE_WAIT) * 1000000
      ∧ { tile0 with state := .collecting }.state = .collecting ∧ tile0.since + max 1 (a.get AUD_CTRL_STAGE_WAIT) * 1000000 ≤ (agAud 1 adOn tile0 2000000).mono
      ∧ { tile0 with desc := some (tdesc 1) }.field 5 1 = 1 ∧ { tile0 with desc := some (tdesc 3) }.field 5 1 = 3 ∧ { tile0 with desc := none }.desc = none
      ∧ tile0.tooLarge = false ∧ tile0.desc.isSome = true ∧ tile0.field 5 1 = 0 ∧ { tile0 with tooLarge := true }.tooLarge = true
      ∧ a.aud.tiles.find? (fun y => y.core = some 1) = none
      ∧ (agAud 1 adOn { tile0 with core := some 1 } 0).aud.tiles.find? (fun y => y.core = some 1) = some { tile0 with core := some 1 }
      ∧ ({ tile0 with core := some 1 }.work tile0.numerics).isSome = true ∧ { tile0 with state := .audit1 }.state = .audit1 ∧ 0 < (res0 1 0).devN
      ∧ (res0 0 0).devN = 0 ∧ a.get AUD_CTRL_SHADOW_LOG = 0 ∧ { tile0 with state := .audit2 }.state = .audit2
      ∧ { tile0 with results := [(1, res0 1 0)] }.results = [(1, res0 1 0)] ∧ { tile0 with state := .audit3 }.state = .audit3
      ∧ { tile0 with results := [(1, res0 1 0), (2, res0 1 1)] }.results = [(1, res0 1 0), (2, res0 1 1)] ∧ (res0 1 0).sums ≠ (res0 1 2).sums
      ∧ (res0 1 1).sums ≠ (res0 1 2).sums ∧ 64 ≤ 64 ∧ 63 < 64 ∧ 1023 < 1024 ∧ 3 < 4
      ∧ ((a.setWord (addr_NUM_W0 5) (BitVec.ofNat 64 0)).numericsWords 5).wellFormed = false := by
  repeat' apply And.intro
  all_goals decide +kernel

/-! ### Witnesses: detector runs, synchronisation, power, resets, scans -/

/-- An EPOCH image with budget 9 whose code begins at the entry 0. -/
def img0 : DetImage := ⟨0, (zeros 128).set 18 1 |>.set 48 9⟩
def agDet (k : Core) (insts : List (Nat × Instance)) : Aggregator :=
  { agF [[(PD_STAT_STATE 0, adOn)], [(DET_CTRL_EN, 1)], [(CHIP_IDENT_AGG_ID, 1)], [(REG_ENT_VALID 4, 1), (REG_ENT_STATE 4, 1)]] with
    det := { Detectors.init with images := [(0, img0)], instances := insts, cores := [(0, k)] }, jobs := [(0, { jobStep 7 with dieUnits := [260] })] }
def coreW (r : Run) : Core := { Core.init with waiting := [r] }
theorem test_witness_DetectorRunsStartInOrderAndWithinBudget :
    let a := agDet (coreW run0) [(0, inst0)]
    ((coreR run0).run.isSome = true) ∧ Core.init.waiting = [] ∧ (agDet (coreW trayR) []).core 0 = coreW trayR ∧ trayR.duid.isSome ≠ false
      ∧ (a.core 0).run = none ∧ (a.core 0).waiting = run0 :: [] ∧ run0.duid.isSome = false ∧ a.paused = false ∧ a.coreOn 0 = true
      ∧ (agDet (coreW run0) []).inst run0.inst = none ∧ a.inst run0.inst = some inst0 ∧ a.image inst0.slot = some img0 ∧ a.instRuns inst0 = true
      ∧ img0.library = none ∧ agOn.paused = false ∧ agOn.coreOn 0 = false ∧ ((agDet (coreR run0) [(0, inst0)]).core 0).run = some run0
      ∧ a.mono / 40 * 64 + 8 < run0.began + img0.budget ∧ run0.began + img0.budget ≤ a.mono / 40 * 64 + 9 ∧ a.served = true ∧ agOn.job 0 = none ∧ a.job 0 = some { jobStep 7 with dieUnits := [260] }
      ∧ job1.rates = none ∧ (jobStep 7).rates = some rates1 ∧ ((tabGet (jobStep 7).dies 260).getD DieJob.init).ratesSent = false ∧ agOn.serves 260 = false
      ∧ ((tabGet (jobStep 6).dies 260).getD DieJob.init).dieStep + 1 < rates1.effect ∧ a.serves 260 = true ∧ 260 ∈ [260]
      ∧ rates1.effect ≤ ((tabGet (jobStep 7).dies 260).getD DieJob.init).dieStep + 1 ∧ a.regKey 260 = some 4 := by
  repeat' apply And.intro
  all_goals decide +kernel

def agQ (q : List SemWait) : Aggregator := { (agF [[(BAR_ARR_ARRIVED 255, 1)], [(CHIP_CORE_PRESENT_PRESENT, 6)]]).modSync fun n => { n with semQ := [(4095, q)] } with mem := [] }
theorem test_witness_SynchronisationObjectsAreConfiguredWhileIdle :
    255 < 256 ∧ (agQ []).barIdle 255 = false ∧ (agQ []).barIdle 0 = true ∧ 4095 < 4096 ∧ (agQ [⟨0, 1, 0, none⟩]).semQueue 4095 ≠ [] ∧ bits 4 1 0 = 0
      ∧ (agQ []).semQueue 0 = [] ∧ 9 &&& (agQ []).get CHIP_CORE_PRESENT_PRESENT ≠ 9 ∧ (6 : Nat) ≠ 0 ∧ 6 &&& (agQ []).get CHIP_CORE_PRESENT_PRESENT = 6
      ∧ 6 < 2 ^ 64 ∧ 2 ^ 32 - 1 < 2 ^ 32 := by
  repeat' apply And.intro
  all_goals decide +kernel

def agPd (k st cap : Nat) (p : PowerMgr) : Aggregator :=
  { agF [[(PD_STAT_STATE k, st)], [(PD_STAT_STATE 72, adOn)], [(PWR_CAP_CAP_W, cap)]] with pwr := p }
def agDrain (map : Nat) : Aggregator := agF [[(PD_STAT_STATE 63, adOn)], [(PD_CTRL_DRAIN 63, 1), (PD_CTRL_MAP_OUT 63, map)]]
theorem test_witness_AggregatorDomainsSleepWakeAndDrain :
    let p := PowerMgr.init
    domHold 72 = none ∧ domHold 63 = some 200000 ∧ 199999 < 200000 ∧ (agPd 63 adOff 0 p).adState 63 ≠ adOn ∧ (agPd 63 adOn 0 p).indHolds 63 = false
      ∧ 200000 ≤ 200000 ∧ (agPd 63 adOn 0 p).adState 63 = adOn ∧ (agPd 63 adOn 0 p).domQuiet 63 = true ∧ (agPd 63 adOn 0 p).on (PD_CTRL_FORCE_ON 63) = false
      ∧ 63 < 80 ∧ (agPd 63 adOn 0 p).adState 63 ≠ adEntering ∧ (agPd 63 adEntering 0 p).adState 63 = adEntering
      ∧ (agPd 73 adOn 0 p).adState 73 ≠ adOff ∧ (agPd 73 adOn 0 p).adState 73 ≠ adRetain ∧ (agPd 73 adOn 0 p).domParent 73 = none
      ∧ (agPd 73 adOff 2000 p).adState 73 = adOff ∧ p.shed = false ∧ (agPd 73 adOff 2000 p).powerSum + domBudget 73 ≤ (agPd 73 adOff 2000 p).get PWR_CAP_CAP_W
      ∧ (agPd 73 adRetain 70 p).adState 73 = adRetain ∧ (agPd 73 adRetain 70 p).get PWR_CAP_CAP_W < (agPd 73 adRetain 70 p).powerSum + domBudget 73
      ∧ (agPd 63 adOn 0 p).adState 63 ≠ adWaking ∧ (agPd 63 adWaking 0 p).adState 63 = adWaking ∧ 63 ∈ { p with fromOff := [63] }.fromOff ∧ p.held = []
      ∧ 63 ∉ p.fromOff ∧ nextDeferred p.deferred = none ∧ nextDeferred { p with deferred := [73] }.deferred = some 73 ∧ tabGet p.wakeAt 67 = none
      ∧ tabGet { p with wakeAt := [(67, 5)] }.wakeAt 67 = some 5 ∧ (tcLine 4).mono < 5 + 4 * domWake 67 false ∧ 67 < 80 ∧ domKind 67 = .audit
      ∧ (agPd 67 adWaking 0 p).adState 67 = adWaking ∧ 5 + 4 * domWake 67 false ≤ (tcLine (5 + 4 * domWake 67 false)).mono
      ∧ (agPd 63 adOn 0 p).adState 72 = adOn ∧ agOn.bar.held = [] ∧ (64 : Nat) ≤ 64 ∧ agOn.on (PD_CTRL_DRAIN 63) = false
      ∧ (agDrain 0).on (PD_CTRL_DRAIN 63) = true ∧ (agDrain 0).adState 63 = adOn ∧ (agDrain 0).coreIdle 63 = true ∧ (agDrain 0).on (PD_CTRL_MAP_OUT 63) = false := by
  repeat' apply And.intro
  all_goals decide +kernel

def agPend (code t mono : Nat) : Aggregator := { agF [[(PWR_SAG_WARN_NOW, 1)]] with hlt := { AggHealth.init with resetPending := some (code, 1, t) }, tc := tcLine mono }
def tocQ : Store TocMac := [(0, { TocMac.init with queue := [⟨0, tocChipReset, [], 0, none⟩] })]
def flash1 : FlashImage :=
  { sfdpOk := true, mfg := some (1, []), copyA := some FlashConfig.empty, copyB := none, wantB := false, memoryOk := true, coreMapOk := true, ingestOk := true }
def hostB (img : List Byte) : HostIf := { HostIf.init with fw0 := some ⟨img, 1⟩ }
/-- A firmware image that the free `Config.fwImageOk` takes is started from its slot. -/
theorem test_witness_startSlot (img : List Byte) (h : Config.fwImageOk img = true) : (hostB img).startSlot = some (0, false) := by
  simp [HostIf.startSlot, HostIf.fwValid, HostIf.fwSlot, hostB, HostIf.init, h]
theorem test_witness_FatalEventsResetsAndBoot :
    agOn.hlt.resetPending = none ∧ (agPend hcMemUe 0 0).hlt.resetPending = some (hcMemUe, 1, 0) ∧ { agOn with toc := tocQ }.announced = false
      ∧ (tcLine 199999).mono < 0 + 200000 ∧ (agPend causeSupply 0 0).hlt.resetPending = some (causeSupply, 1, 0)
      ∧ (agPend causeSupply 0 0).on PWR_SAG_WARN_NOW = true ∧ agOn.announced = true ∧ 0 + 200000 ≤ (tcLine 200000).mono ∧ hcMemUe ≠ causeSupply
      ∧ ¬ (sramEnd < sramEnd ∨ hbmBase ≤ sramEnd ∧ sramEnd < hbmEnd) ∧ (sramEnd - 1 < sramEnd) ∧ hbmBase ≤ hbmEnd - 1 ∧ hbmEnd - 1 < hbmEnd
      ∧ hcCoreWakeFail ≠ hcMemUe ∧ (0 : Nat) ≠ hcMemUe ∧ 0 ≠ hcBridgeFatal ∧ 0 ≠ hcAggWatchdog ∧ 0 ≠ hcCoreWakeFail ∧ 65535 < 2 ^ 16 ∧ (∀ b, agOn.boot ≠ .owed b) ∧ Aggregator.blank.boot = .owed false ∧ { flash1 with sfdpOk := false }.sfdpOk = false
      ∧ flash1.sfdpOk = true ∧ { flash1 with mfg := none }.mfg = none ∧ flash1.mfg = some (1, []) ∧ { flash1 with copyA := none }.chosen = none
      ∧ flash1.chosen = some (0, FlashConfig.empty) ∧ HostIf.init.startSlot = none
      ∧ FlashConfig.empty.regions.length ≤ 16 ∧ FlashConfig.empty.regions.all RegionCfg.ok = true ∧ regionsApart FlashConfig.empty.regions = true ∧ 15 < 16 ∧ 255 < 256 ∧ (∀ u, agOn.boot ≠ .resync u)
      ∧ { agOn with boot := .resync 0 }.boot = .resync 0 ∧ (tcLine 9999999999).mono < 0 + 10000000000 ∧ 0 + 10000000000 ≤ (tcLine 10000000000).mono
      ∧ 8 ≤ 8 ∧ 7 < 8 ∧ (tcLine 86399999999999).mono < storeGet 0 PowerMgr.init.scrub 7 + 86400000000000
      ∧ storeGet 0 PowerMgr.init.scrub 7 + 86400000000000 ≤ (tcLine 86400000000000).mono := by
  repeat' apply And.intro
  all_goals first | decide +kernel | rfl | (intro b h; cases h)

def scan1 (attempt : Nat) (commanded running : Bool) : Scan := ⟨9, attempt, commanded, running⟩
def agScan (x : Scan) : Aggregator := { agF [[(PD_STAT_STATE 9, adDrained)], [(PWR_CAP_CAP_W, 200)]] with hlt := { AggHealth.init with scans := [x] } }
theorem test_witness_ScansCalibrationsAndSensors :
    let a := agScan (scan1 1 false false)
    a.served = true ∧ (∀ y ∈ agOn.hlt.scans, y.running = true ∨ agOn.adState y.core ≠ adDrained)
      ∧ max 1 ((agF [[(HLT_CTRL_SCAN_PAR, 1)]]).get HLT_CTRL_SCAN_PAR) ≤ ([scan1 1 false true].filter (·.running)).length
      ∧ (agF [[(PWR_CAP_CAP_W, 29)]]).get PWR_CAP_CAP_W < (agF [[(PWR_CAP_CAP_W, 29)]]).powerSum + 30
      ∧ a.hlt.scans.find? (fun y => !y.running && decide (a.adState y.core = adDrained)) = some (scan1 1 false false)
      ∧ (a.hlt.scans.filter (·.running)).length < max 1 (a.get HLT_CTRL_SCAN_PAR) ∧ a.powerSum + 30 ≤ a.get PWR_CAP_CAP_W
      ∧ a.hlt.scans.find? (fun y => decide (y.core = 9) && y.running) = none
      ∧ (agScan (scan1 1 false true)).hlt.scans.find? (fun y => decide (y.core = 9) && y.running) = some (scan1 1 false true) ∧ (scan1 1 false true).attempt < 2
      ∧ (agScan (scan1 1 true true)).hlt.scans.find? (fun y => decide (y.core = 9) && y.running) = some (scan1 1 true true) ∧ (scan1 1 true true).commanded = true
      ∧ (tcLine 99999999).mono < a.pwr.calFanout + 100000000 ∧ (tcLine 9999999).mono < a.pwr.calBridge + 10000000
      ∧ (tcLine 999999999).mono < a.pwr.calSensor + 1000000000 ∧ a.pwr.calFanout + 100000000 ≤ (tcLine 100000000).mono
      ∧ a.pwr.calBridge + 10000000 ≤ (tcLine 10000000).mono ∧ a.pwr.calSensor + 1000000000 ≤ (tcLine 1000000000).mono ∧ 64 ≤ 64 ∧ 63 < 64 ∧ 2 < 3
      ∧ 31 < 32 ∧ 31 ∉ a.pwr.lanesDown ∧ 31 ∈ { a.pwr with lanesDown := [31] }.lanesDown ∧ (1839 : Int) < 1840 ∧ (∀ t ∈ [(1679 : Int)], t < 1680)
      ∧ (1840 : Int) ≤ 1840 ∧ 0 ∈ { a.pwr with hot := [0] }.hot ∧ a.pwr.thermtrip = false ∧ a.pwr.shed = false := by
  repeat' apply And.intro
  all_goals decide +kernel

/-! ### Witnesses: host commands, queues, capsules, DMA, pools, registers -/

/-- A command of an opcode and SUBOP with a data length; flag 1 gives its buffer in the entry. -/
def hc (op sub dlen flags : Nat) (w : CmdWait) : Command :=
  ⟨8, 0, 0, [BitVec.ofNat 8 op, BitVec.ofNat 8 flags] ++ zeros 11 ++ [BitVec.ofNat 8 sub] ++ zeros 10 ++ leBytes 4 dlen ++ zeros 36, [], 0, w⟩
/-- The opcodes and SUBOPs of the rows. -/
def hostRows : List (Nat × Nat) :=
  [(opIdentify, 0), (opGetLog, 1), (opGetLog, 2), (opGetLog, 3), (opGetLog, 4), (opGetLog, 5), (opGetLog, 6), (opGetFeature, 0x22), (opGetFeature, 0x30),
   (opSetFeature, 0x01), (opSetFeature, 0x02), (opSetFeature, 0x03), (opSetFeature, 0x10), (opSetFeature, 0x11), (opSetFeature, 0x12), (opSetFeature, 0x13),
   (opSetFeature, 0x18), (opSetFeature, 0x20), (opSetFeature, 0x21), (opSetFeature, 0x22), (opSetFeature, 0x30), (opSetFeature, 0x31), (opSetFeature, 0x32),
   (opSetFeature, 0x33), (opSetFeature, 0x34), (opSetFeature, 0x35), (opFwDownload, 0), (opFwCommit, 0), (opFwCommit, 1), (opFwCommit, 2), (opFlush, 0),
   (opQuery, 0), (opReadLedger, 1), (opReadLedger, 2), (opReadLedger, 3), (opReadLedger, 4), (opReadLedger, 5), (opReadLedger, 6), (opReadLedger, 7),
   (opReadTrace, 0), (opArmJob, 0), (opRetireJob, 0)]
theorem test_witness_HostCommandsStartOnceAndComplete :
    (∀ e ∈ hostRows, (agCmd (hc e.1 e.2 0 0 .queued)).command 8 = some (hc e.1 e.2 0 0 .queued) ∧ isSub e.1 e.2 (hc e.1 e.2 0 0 .queued) = true
        ∧ isOp e.1 (hc e.1 e.2 0 0 .queued) = true ∧ (agCmd (hc e.1 e.2 0 0 .queued)).mayStart (hc e.1 e.2 0 0 .queued) = true
        ∧ (agCmd (hc e.1 e.2 0 0 .queued)).buffer (hc e.1 e.2 0 0 .queued) = some [])
      ∧ (agCmd (hc opIdentify 0 0 0 .queued)).served = true ∧ agOn.command 8 = none ∧ isOp opFlush (hc opIdentify 0 0 0 .queued) = false
      ∧ (agCmd (hc opIdentify 0 0 0 (.flush true))).mayStart (hc opIdentify 0 0 0 (.flush true)) = false
      ∧ (agCmd (hc opIdentify 0 16 0 .queued)).buffer (hc opIdentify 0 16 0 .queued) = none
      ∧ (agCmd (hc opIdentify 0 16 2 .queued)).buffer (hc opIdentify 0 16 2 .queued) = some [(0, 16)] ∧ (hc opIdentify 0 16 2 .queued).mgmt = false
      ∧ (hc opIdentify 0 16 2 .queued).dlen ≠ 0 ∧ (hc opGetFeature 0x22 0 0 .queued).subop = 0x22 ∧ agOn.ownJob 0 0 = none
      ∧ (hc opGetFeature 0x30 0 0 .queued).subop = 0x30 ∧ agOn.on PWR_SAG_WRITES_STOPPED = false
      ∧ { hc opReadTrace 0 0 0 .queued with qid := mgmtQid }.mgmt = true ∧ le (hc opReadTrace 0 0 0 .queued).args 0 2 % 32768 < 16384
      ∧ 16384 ≤ le { hc opReadTrace 0 0 0 .queued with entry := zeros 32 ++ [0, 0x40] ++ zeros 30 }.args 0 2 % 32768
      ∧ ((agI.modDet fun d => { d with images := [(0, img0), (63, img0)] }).image 63).isSome = true
      ∧ (∃ e ∈ (agI.modDet fun d => { d with images := [(0, img0)] }).det.instances, e.2.slot = 0)
      ∧ (∀ e ∈ (agI.modDet fun d => { d with images := [(0, img0), (63, img0)] }).det.instances, e.2.slot ≠ 63) := by
  repeat' apply And.intro
  all_goals decide +kernel

def qp (tail : Nat) (dis : Bool) : QueuePair := ⟨4, 4, 5, true, 0, 0, 0, 0, tail, dis⟩
def cq5 : CqState := ⟨4, 0x1000, 0, 3, true⟩
def agHq (x : QueuePair) : Aggregator := agOn.modHif fun h => { h with queues := [(5, x)], cqs := [(5, cq5)] }
/-- The admin queue has one command. -/
def agAdm : Aggregator := (agF [[(HI_CTRL_EN, 1)], [(HI_ADMIN_ASQ_LOG, 4), (HI_ADMIN_ACQ_LOG, 4)]]).modHif fun h =>
  { h with queues := [(0, ⟨0, 0, 0, true, 0, 0, 0, 0, 1, false⟩)] }
def agAct (start : Option (Nat × Nat)) (mono : Nat) : Aggregator :=
  { (agCmd (hc opFwCommit 2 0 0 (.activate 1))).modHif fun h => { h with fwStart := start } with tc := tcLine mono }
theorem test_witness_QueuesAcceptCompleteAndReset :
    let c := hc opIdentify 0 0 0 .queued
    agOn.queuePair 5 = none ∧ (agHq (qp 0 true)).queuePair 5 = some (qp 0 true) ∧ (qp 0 true).disabled = true ∧ (agHq (qp 0 false)).queuePair 5 = some (qp 0 false)
      ∧ 15 < 2 ^ (qp 0 false).sqLog ∧ ringDist (2 ^ 4) 0 0 + ringDist (2 ^ 4) 0 15 < 2 ^ 4 ∧ 2 ^ (qp 0 false).sqLog ≤ 16 ∧ agOn.cq 5 = none
      ∧ (agHq (qp 0 true)).cq 5 = some cq5 ∧ 3 < 2 ^ cq5.log ∧ ringDist (2 ^ cq5.log) cq5.head 3 ≤ ringDist (2 ^ cq5.log) cq5.head cq5.tail
      ∧ 2 ^ cq5.log ≤ 16 ∧ (∀ k < 64, ∀ p, (agHq (qp 0 true)).queuePair k = some p → p.cqid = 5 → p.disabled = true)
      ∧ (agF [[(HI_STATUS_FW_HOLD, 1)]]).on HI_STATUS_FW_HOLD = true ∧ agOn.on HI_STATUS_FW_HOLD = false ∧ agOn.recovery = false ∧ agOn.nextQueue = none
      ∧ agAdm.on HI_STATUS_FW_HOLD = false ∧ agAdm.recovery = false ∧ agAdm.nextQueue = some 0 ∧ (agAdm.queuePair 0).isSome = true ∧ agAdm.fetchable 0 = true
      ∧ agOn.hif.commands = [] ∧ (hc 0x7F 0 0 0 .queued).op ∉ opcodes ∧ opPrivileged (hc opSetFeature 1 0 0 .queued).op = true ∧ c.op ∈ opcodes
      ∧ opPrivileged c.op = false ∧ subopOk (hc opGetLog 7 0 0 .queued).op (hc opGetLog 7 0 0 .queued).subop = false ∧ (hc opIdentify 0 0 4 .queued).reservedOk = false
      ∧ subopOk c.op c.subop = true ∧ c.reservedOk = true ∧ { c with qid := 5 }.mgmt = false ∧ agOn.command 8 = none
      ∧ (agCmd (hc opFlush 0 0 0 .queued)).command 8 = some (hc opFlush 0 0 0 .queued) ∧ (hc opFlush 0 0 0 .queued).op = opFlush ∧ c.op ≠ opFlush
      ∧ c.wait = .queued ∧ c.started + agOn.budgetNs c ≤ (tcLine (agOn.budgetNs c)).mono
      ∧ (agCmd (hc opFlush 0 0 0 (.flush true))).command 8 = some (hc opFlush 0 0 0 (.flush true)) ∧ (hc opFlush 0 0 0 (.flush true)).wait = .flush true
      ∧ (agCmd (hc opFlush 0 0 0 (.flush true))).hif.commands.takeWhile (fun d => decide (d.serial ≠ 8)) = []
      ∧ (hc opReset 0 0 0 .queued).op = opReset ∧ { hc opReset 0 0 0 .queued with qid := mgmtQid }.mgmt = true ∧ (hc opReset 0 0 0 .queued).subop = 0
      ∧ (hc opReset 1 0 0 .queued).subop = 1 ∧ agOn.activation = none ∧ (agAct none 0).activation = some (hc opFwCommit 2 0 0 (.activate 1), 1)
      ∧ (agAct none 0).hif.commands.takeWhile (fun d => decide (d.serial ≠ (hc opFwCommit 2 0 0 (.activate 1)).serial)) = [] ∧ (agAct none 0).paused = false
      ∧ (agAct (some (1, 0)) 0).hif.fwStart = some (1, 0) ∧ (agAct (some (1, 0)) 399999999).mono < 0 + 400000000 ∧ 0 + 400000000 ≤ (agAct (some (1, 0)) 400000000).mono := by
  repeat' apply And.intro
  all_goals decide +kernel

def caps (kind mseq len : Nat) (body : List Byte) : List Byte :=
  beBytes 1 1 ++ beBytes 1 kind ++ zeros 2 ++ beBytes 4 mseq ++ beBytes 4 8 ++ zeros 4 ++ beBytes 2 len ++ zeros 2 ++ beBytes 4 mseq ++ body
def capOut (kind tries : Nat) : CapsuleOut := ⟨4, kind, 8, 0, 0, [], tries, 0⟩
def agCap (c : CapsuleOut) (mono : Nat) : Aggregator := { agUp.modHif fun h => { h with capsOut := [c], capsSeen := [3] } with tc := tcLine mono }
def dd (flags : Nat) : DmaDesc := ⟨sramOf 0, sramOf 0 + 64, 32, flags, 0⟩
def agDma (st flags : Nat) : Aggregator := (agF [[(DMA_STAT_STATE 7, st)], [(PD_STAT_STATE 75, adOn)]]).modHif fun h => { h with dma := [(7, dd flags)] }
/-- Pool 3 of two buffers of 64 bytes, the first owned by 0x2001. -/
def agPool : Aggregator := (agF [[(PH_CFG_EN 3, 1), (PH_CFG_COUNT 3, 2), (PH_CFG_SHIFT 3, 6)], [(PH_BASE_BASE 3, sramOf 0)], [(PD_STAT_STATE 78, adOn)]]).modIng fun g =>
  { g with pools := [(3, ⟨[(0, 0x2001)], []⟩)] }
def opW (k pool next actor : Nat) : Nat := k * 2 ^ 60 + pool * 2 ^ 44 + next * 2 ^ 16 + actor
theorem test_witness_CapsulesDmaChannelsAndBufferPools :
    let a := agCap (capOut 3 7) 0
    let sub := caps 1 2 64 (zeros 64)
    a.oobServed = true ∧ sub.length = 88 ∧ (87 : Nat) ≠ 88 ∧ 6 = a.cfg.oobCtl ∧ be sub 0 1 = 1 ∧ be sub 1 1 = 1 ∧ be sub 16 2 = sub.length - 24
      ∧ be sub 16 2 ≤ 1400 ∧ be (caps 1 3 64 (zeros 64)) 4 4 ∈ a.hif.capsSeen ∧ be sub 4 4 ∉ a.hif.capsSeen
      ∧ 24 ≤ (caps 2 2 1400 (zeros 1400)).length ∧ be (caps 2 2 1400 (zeros 1400)) 1 1 = 2
      ∧ be (caps 2 2 1400 (zeros 1400)) 16 2 = (caps 2 2 1400 (zeros 1400)).length - 24 ∧ be (caps 2 2 1400 (zeros 1400)) 16 2 ≤ 1400
      ∧ a.hif.mgmtBytes + ((caps 2 2 1400 (zeros 1400)).length - 24) ≤ 16777216 ∧ (caps 6 4 0 []).length = 24 ∧ be (caps 6 4 0 []) 1 1 = 6
      ∧ agOn.hif.capsOut.find? (fun y => y.mseq = 4) = none ∧ a.hif.capsOut.find? (fun y => y.mseq = 4) = some (capOut 3 7)
      ∧ (tcLine 9999999).mono < (capOut 3 7).lastSent + 10000000 ∧ (capOut 3 7).lastSent + 10000000 ≤ (tcLine 10000000).mono ∧ 8 ≤ (capOut 3 8).tries
      ∧ (capOut 3 8).kind ≠ 5 ∧ (capOut 3 7).tries < 8 ∧ (capOut 5 8).kind = 5 ∧ 7 < 8 ∧ (agDma dmaRunning 0).adState 75 = adOn ∧ agOn.bar.held = []
      ∧ bits 3 1 0 = 3 ∧ bits 1 1 0 = 1 ∧ bits 2 1 0 = 2 ∧ (agDma dmaRunning 0).get (DMA_STAT_STATE 7) = dmaRunning
      ∧ (agDma dmaStopping 0).get (DMA_STAT_STATE 7) = dmaStopping ∧ (agDma dmaIdle 0).get (DMA_STAT_STATE 7) = dmaIdle
      ∧ (agDma dmaDone 0).get (DMA_STAT_STATE 7) = dmaDone ∧ (agDma dmaError 0).get (DMA_STAT_STATE 7) = dmaError ∧ tabGet agOn.hif.dma 7 = none
      ∧ tabGet (agDma dmaRunning 32).hif.dma 7 = some (dd 32) ∧ (agDma dmaRunning 32).dmaLimit (dd 32) = (dd 32).len ∧ bit (dd 32).flags 4 = false
      ∧ bit (dd 32).flags 5 = true ∧ (agDma dmaRunning 0).dmaLimit (dd 0) = (dd 0).len ∧ bit (dd 0).flags 5 = false ∧ 31 < (dd 0).len
      ∧ (dd 0).dstHost = false ∧ (dd 0).dstFixed = false ∧ (dd 0).srcFixed = false ∧ 4095 < 4096 ∧ 65535 < 65536 ∧ agPool.adState 78 = adOn
      ∧ bits (opW 1 3 9 0x2FFF) 63 60 = 1 ∧ bits (opW 1 3 9 0x2FFF) 55 44 = 3 ∧ bits (opW 1 3 9 0x2FFF) 31 16 = 9 ∧ bits (opW 1 3 9 0x2FFF) 15 0 = 0x2FFF
      ∧ agOn.poolOn 3 = false ∧ agPool.poolOn 3 = true ∧ 0x1FFF < 0x2000 ∧ 0x2FFF < 0x3000
      ∧ ((((agPool.set PH_OP_POOL 3).set PH_OP_NEW_OWNER 9).set PH_OP_OWNER 0x2FFF).poolAlloc 3 9 false).1 = some (sramOf 0 + 64)
      ∧ lowestFree (agPool.pool 3).owners 0 < agPool.get (PH_CFG_COUNT 3) ∧ agPool.atLevel2 3 = false ∧ agPool.bufNumber 3 (sramOf 0) = some 0
      ∧ storeGet 0 (agPool.pool 3).owners 0 ≠ 0x2002 ∧ storeGet 0 (agPool.pool 3).owners 0 = 0x2001 ∧ 0 < 0x2001 := by
  repeat' apply And.intro
  all_goals decide +kernel

def duSleep : DieUnit := { duOn with regs := ⟨.du, [(addr_DU_PD, 0)]⟩ }
def key1 (seq off : Nat) : RegFile := ⟨.du, [(addr_PG_CLR_KEY 4, BitVec.ofNat 64 (seq * 2 ^ 32 + off + 1))]⟩
def agHeld (n st : Nat) : Aggregator :=
  (agF [[(PD_STAT_STATE 78, st)]]).modBar fun b => { b with held := List.replicate n (78, 0x13 * 4096 + 0x40, 0, false) }
theorem test_witness_RegisterAccessesFollowTheirCodes :
    duPageExists (0x4040 / 4096) = true ∧ duSleep.asleep 0x4040 = true ∧ duPageExists (0xE000 / 4096) = false ∧ (0xE000 : Nat) ≠ 0x38
      ∧ duOn.asleep 0x4040 = false ∧ duPrivPage (0x8040 / 4096) = true ∧ masksOf .du 0x4FF8 = ⟨0, 0, 0⟩ ∧ 0x4018 % 4096 = 0x18
      ∧ (masksOf .du addr_CNT_STATUS).rw = 0 ∧ (masksOf .du addr_CNT_STATUS).priv = 0 ∧ (masksOf .du addr_CNT_STATUS).w1c ≠ 0
      ∧ addr_CNT_STATUS ≠ 0x30 ∧ addr_CNT_STATUS % 4096 ≠ 0x18 ∧ counterOf addr_CNT_STATUS = none ∧ (duOn.readRaw addr_CNT_STATUS 0).2 = duOn ∧ 255 < 256
      ∧ (RegFile.reset .du).on (PG_CLR_KEY_ARMED 4) = false ∧ (key1 0 0x10).on (PG_CLR_KEY_ARMED 4) = true ∧ (key1 0 0x10).get (PG_CLR_KEY_OFFSET 4) = 0x10 / 8
      ∧ (key1 0 0x10).get (PG_CLR_KEY_OFFSET 4) ≠ 0x18 / 8 ∧ (key1 0 0x10).get (PG_CLR_KEY_SEQ 4) = (key1 0 0x10).get (PG_SEQ_EVSEQ 4)
      ∧ (key1 1 0x10).get (PG_CLR_KEY_SEQ 4) ≠ (key1 1 0x10).get (PG_SEQ_EVSEQ 4) ∧ addr_CNT_STATUS ≠ addr_PG_CLR_KEY 4 ∧ addr_CNT_STATUS ≠ addr_PG_SEQ 4
      ∧ (duF [[(IND_ADDR_READY 0, 0)]]).indReady = false ∧ (duF [[(IND_ADDR_READY 0, 1), (IND_ADDR_INDEX 0, 0x3200)]]).indReady = true
      ∧ (duF [[(IND_ADDR_READY 0, 1), (IND_ADDR_INDEX 0, 0x3200)]]).get (IND_ADDR_INDEX 0) = 0x3200 ∧ duReg.on DU_ASSIGN_REGISTERED = true
      ∧ duOn.on DU_ASSIGN_REGISTERED = false ∧ aggPageExists 0x1C = false ∧ aggPageExists 0x10 = true ∧ aggPrivPage 0x10 = true ∧ aggPageExists 0x13 = true
      ∧ aggPrivPage 0x13 = false ∧ (agHeld 63 adOff).adState (aggPageDomain 0x13) ≠ adOn
      ∧ ((agHeld 63 adOff).bar.held.filter fun x => x.1 = aggPageDomain 0x13).length < 64
      ∧ 64 ≤ ((agHeld 64 adOff).bar.held.filter fun x => x.1 = aggPageDomain 0x13).length ∧ (agHeld 1 adOn).adState (aggPageDomain 0x13) = adOn
      ∧ (∀ x ∈ agOn.bar.held, x.1 ≠ 78) ∧ (agHeld 1 adOn).bar.held = [(78, 0x13 * 4096 + 0x40, 0, false)] ∧ tabGet agOn.bar.fetchAt 0x13 = none
      ∧ (agHeld 0 adOff).pageOn 0x13 = false ∧ (tabGet { agOn.bar with fetchAt := [(0x13, 0)] }.fetchAt 0x13).isSome = true ∧ (agHeld 0 adOn).pageOn 0x13 = true := by
  repeat' apply And.intro
  all_goals decide +kernel

/-! ### Witnesses: the whole block -/

theorem test_witness_DieUnitQueuesStayBounded : State.reset.du.queuesOk ∧ step State.reset = .next State.reset := by
  unfold DieUnit.queuesOk
  repeat' apply And.intro
  all_goals first | decide +kernel | rfl

theorem test_witness_MemoriesStayCanonical :
    { State.reset with agg := agK }.agg.memoriesOk ∧ step { State.reset with agg := agK } = .next { State.reset with agg := agK } := by
  unfold Aggregator.memoriesOk
  repeat' apply And.intro
  all_goals first | decide +kernel | rfl

theorem test_witness_InterruptsSignalOnARise :
    agOn.jobs = [] ∧ agOn.hif.commands = [] ∧ agOn.hif.events = [] ∧ (∀ t, agOn.boot ≠ .resync t) ∧ agOn.inFailover = false
      ∧ (agOn.modHif fun h => { h with events := [.taint []] }).hif.events = [.taint []] ∧ agOn.paused = false ∧ (agAct (some (1, 0)) 0).paused = true := by
  repeat' apply And.intro
  all_goals first | decide +kernel | rfl | (intro t h; cases h)

/-! ### Witnesses: host commands that have their effect -/

/-- A command of the management queue for job 1 with SUBOP, data length, ARGS and data. -/
def mc (op sub dlen : Nat) (args data : List Byte) : Command :=
  ⟨8, mgmtQid, 0, [BitVec.ofNat 8 op] ++ zeros 7 ++ leBytes 4 1 ++ [0, BitVec.ofNat 8 sub] ++ zeros 10 ++ leBytes 4 dlen ++ zeros 4 ++ args
    ++ zeros (32 - args.length), data, 0, .queued⟩
def withC (a : Aggregator) (c : Command) : Aggregator := a.modHif fun h => { h with commands := [c] }
/-- A command of an opcode and SUBOP may start with its buffer in the management path. -/
def goes (a : Aggregator) (c : Command) (op sub : Nat) : Prop :=
  a.served = true ∧ a.command 8 = some c ∧ a.mayStart c = true ∧ a.buffer c = some [] ∧ c.mgmt = true ∧ c.op = op ∧ c.subop = sub
def agFeat (x : JobCtx) : Aggregator := { agUp with jobs := [(0, x)] }
/-- A set of a feature on an aggregator with one job. -/
def fe (a : Aggregator) (sub : Nat) (args : List Byte) : Aggregator := withC a (mc opSetFeature sub 0 args [])
def fc (sub : Nat) (args : List Byte) : Command := mc opSetFeature sub 0 args []

def edKey : List Byte := leBytes 32 0x29da598ba148c03aa643e21d77153265730d6f2ad0a8a3622da4b6cebc276a3b
def edSig : List Byte :=
  leBytes 64 0x2ce6db5e1ee461469eb3f0d5268a6ff4dbb89ecd2184e7a5c132e644b331d882a07e5cdc3efbd006c4f1e5888d20baa43cafd12ced90e10157c225d396f90a8
/-- An EPOCH image of one instruction, signed with the Ed25519 key of the seed of 32 zero bytes (RFC 8032, computed outside). -/
def edImg : DetImage :=
  ⟨hbmBase, leBytes 4 0x50444649 ++ leBytes 2 1 ++ leBytes 2 0x40 ++ leBytes 8 0x5b0f0731f5c4d49e ++ leBytes 2 1 ++ leBytes 6 1 ++ leBytes 24 1 ++ leBytes 12 9
    ++ leBytes 4 256 ++ leBytes 56 8 ++ leBytes 144 264 ++ edSig⟩
def agImg : Aggregator :=
  { agF [[(HBM_RGN_ATTR_EN 0, 1), (HBM_RGN_ATTR_KIND 0, rgnImage)], [(HBM_RGN_BASE_BASE 0, hbmBase)], [(HBM_RGN_LIM_LIMIT 0, hbmBase + 4095)]] with
    mem := memPut [] hbmBase edImg.bytes, cfg := { cfg0 with detKeys := [(1, edKey)] } }
def loadCmd : Command := fc 0x10 (leBytes 8 hbmBase)
theorem test_witness_DetImageLoad :
    let a := withC agImg loadCmd
    goes a loadCmd opSetFeature 0x10 ∧ a.imageAt (le loadCmd.args 0 8) = some edImg ∧ a.imageStatus edImg = (ilLoaded, 0) := by
  unfold goes
  repeat' apply And.intro
  all_goals decide +kernel

/-- An instance runs on core 0; the image of slot 0 is bound, that of slot 63 not. -/
def agB (k : Core) : Aggregator :=
  { agDet k [(0, inst0)] with jobs := [(0, job1)], det := { Detectors.init with images := [(0, img0), (63, img0)], instances := [(0, inst0)], cores := [(0, k)] } }
/-- Core 2 is present and no instance bound; the epoch-state region of 512 MiB. -/
def agBind : Aggregator :=
  { agF [[(HBM_RGN_ATTR_EN 0, 1), (HBM_RGN_ATTR_KIND 0, rgnEpoch)], [(HBM_RGN_BASE_BASE 0, hbmBase)], [(HBM_RGN_LIM_LIMIT 0, hbmBase + 0x1FFFFFFF)],
         [(CHIP_CORE_PRESENT_PRESENT, 6)]] with
    jobs := [(0, job1)], det := { Detectors.init with images := [(0, edImg)] } }
def bindArgs : List Byte := [0, 1] ++ zeros 6 ++ leBytes 8 4
theorem test_witness_ImagesAreFreedBoundAndUnbound :
    let c := fun sub args => fc sub args
    goes (fe (agB (coreR run0)) 0x11 [0]) (c 0x11 [0]) opSetFeature 0x11 ∧ ((fe (agB (coreR run0)) 0x11 [0]).image 0).isSome = true
      ∧ (∃ e ∈ (fe (agB (coreR run0)) 0x11 [0]).det.instances, e.2.slot = 0) ∧ goes (fe (agB (coreR run0)) 0x11 [63]) (c 0x11 [63]) opSetFeature 0x11
      ∧ ((fe (agB (coreR run0)) 0x11 [63]).image 63).isSome = true ∧ (∀ e ∈ (fe (agB (coreR run0)) 0x11 [63]).det.instances, e.2.slot ≠ 63)
      ∧ goes (fe agBind 0x12 bindArgs) (c 0x12 bindArgs) opSetFeature 0x12 ∧ (fe agBind 0x12 bindArgs).ownJob (c 0x12 bindArgs).job (c 0x12 bindArgs).gen = some (0, job1)
      ∧ (fe agBind 0x12 bindArgs).image 0 = some edImg ∧ le (c 0x12 bindArgs).args 2 6 = 0 ∧ le (c 0x12 bindArgs).args 8 8 = 4 ∧ le (c 0x12 bindArgs).args 1 1 = 1
      ∧ job1.state ≠ .quarantine ∧ (∀ x < 64, bit 4 x = true → (fe agBind 0x12 bindArgs).corePresent x = true)
      ∧ (∀ e ∈ (fe agBind 0x12 bindArgs).det.instances, e.2.ctx = 0 → e.2.bind ≠ 1)
      ∧ ((fe agBind 0x12 bindArgs).bindPlan 0 0 1 4 edImg).isSome = true
      ∧ goes (fe (agB (coreR run0)) 0x13 [0]) (c 0x13 [0]) opSetFeature 0x13 ∧ (fe (agB (coreR run0)) 0x13 [0]).ownJob (c 0x13 [0]).job (c 0x13 [0]).gen = some (0, job1)
      ∧ (fe (agB (coreR run0)) 0x13 [0]).det.instances.find? (fun e => decide (e.2.ctx = 0 ∧ e.2.bind = 0)) = some (0, inst0)
      ∧ (fe (agB (coreR run0)) 0x13 [0]).runningOf 0 = true ∧ goes (fe (agB Core.init) 0x13 [0]) (c 0x13 [0]) opSetFeature 0x13
      ∧ (fe (agB Core.init) 0x13 [0]).runningOf 0 = false := by
  unfold goes
  repeat' apply And.intro
  all_goals decide +kernel

def qArgs : List Byte := [63, 4, 12, 63, 1, 63, 0, 0] ++ leBytes 8 0x1000 ++ leBytes 8 0x2000
def gone (w : CmdWait) : Command := ⟨6, mgmtQid, 0, zeros 4 ++ [7] ++ zeros 59, [], 0, w⟩
def cancelArgs : List Byte := [1, 0, 7, 0]
def agCancel : Aggregator := agOn.modHif fun h => { h with commands := [gone .queued, fc 3 cancelArgs] }
def swapArgs : List Byte := leBytes 4 260 ++ leBytes 4 262 ++ leBytes 8 1000000
theorem test_witness_QueuesCancelsAndSwaps :
    let q := fe (agHq (qp 0 false))
    goes (fe agOn 1 qArgs) (fc 1 qArgs) opSetFeature 1 ∧ le (fc 1 qArgs).args 0 1 = 63 ∧ le (fc 1 qArgs).args 1 1 = 4 ∧ le (fc 1 qArgs).args 2 1 = 12
      ∧ le (fc 1 qArgs).args 3 1 = 63 ∧ le (fc 1 qArgs).args 4 1 = 1 ∧ le (fc 1 qArgs).args 5 1 = 63 ∧ le (fc 1 qArgs).args 6 2 = 0
      ∧ le (fc 1 qArgs).args 8 8 % 4096 = 0 ∧ le (fc 1 qArgs).args 16 8 % 4096 = 0 ∧ (fe agOn 1 qArgs).queuePair 63 = none ∧ (fe agOn 1 qArgs).cq 63 = none
      ∧ goes (q 2 [5]) (fc 2 [5]) opSetFeature 2 ∧ (q 2 [5]).queuePair 5 = some (qp 0 false) ∧ (∀ d ∈ (q 2 [5]).hif.commands, d.qid ≠ 5)
      ∧ goes (fe agOn 3 [1]) (fc 3 [1]) opSetFeature 3 ∧ le (fc 3 [1]).args 0 1 = 1 ∧ le (fc 3 [1]).args 1 1 = 0 ∧ le (fc 3 [1]).args 2 2 = 0
      ∧ goes agCancel (fc 3 cancelArgs) opSetFeature 3 ∧ le (fc 3 cancelArgs).args 2 2 = 7
      ∧ agCancel.hif.commands.filter (fun x => decide (x.side = 1 ∧ x.gtag = 7 ∧ x.serial ≠ 8 ∧ x.op ≠ opFlush ∧ x.wait ≠ .dead)) = [gone .queued]
      ∧ goes (fe (agFeat job1) 0x33 swapArgs) (fc 0x33 swapArgs) opSetFeature 0x33 ∧ le (fc 0x33 swapArgs).args 0 4 = 260 ∧ le (fc 0x33 swapArgs).args 4 4 = 262
      ∧ (fe (agFeat job1) 0x33 swapArgs).ownJob (fc 0x33 swapArgs).job (fc 0x33 swapArgs).gen = some (0, job1)
      ∧ (fe (agFeat job1) 0x33 swapArgs).job 0 = some job1 ∧ 260 / 256 = (fe (agFeat job1) 0x33 swapArgs).id ∧ 262 / 256 = (fe (agFeat job1) 0x33 swapArgs).id
      ∧ 260 ∈ job1.dieUnits ∧ (fe (agFeat job1) 0x33 swapArgs).tc.now + 1000000 * 65536 ≤ le (fc 0x33 swapArgs).args 8 8 * 65536 + le (fc 0x33 swapArgs).args 16 2
      ∧ (∀ e ∈ (fe (agFeat job1) 0x33 swapArgs).jobs, 262 ∉ e.2.dieUnits) ∧ (fe (agFeat job1) 0x33 swapArgs).byPartner 262 = false
      ∧ (fe (agFeat job1) 0x33 swapArgs).byPartner 260 = false ∧ goes (fe agBind 0x34 [2]) (fc 0x34 [2]) opSetFeature 0x34 ∧ agBind.corePresent 2 = true := by
  unfold goes
  repeat' apply And.intro
  all_goals decide +kernel

/-- The ledger of job 1 with step 7 (in storage as one part where `st` says so), step 9 sealed. -/
def agQl (st : StepState) : Aggregator := { agUp with led := { LedgerUnit.init with ledgers := [led st [lrec]] }, jobs := [(0, job1)] }
def bcCmd (kind : Nat) (pmin : Nat) : Command := mc opSetFeature 0x18 18 [BitVec.ofNat 8 kind] (zeros 10 ++ beBytes 8 pmin)
def rootAt (st : JobState) : JobCtx := { job1 with tree := TreePart.empty, state := st }
def importArgs : List Byte := [1, 0] ++ leBytes 6 7 ++ leBytes 8 0 ++ leBytes 4 1 ++ [0]
theorem test_witness_BroadcastsAndLedgerFeatures :
    let a := withC (agFeat (rootAt .armed)) (bcCmd 2 49999)
    let b := withC (agFeat (rootAt .armed)) (bcCmd 2 (rootAt .armed).pMin)
    goes b (bcCmd 2 (rootAt .armed).pMin) opSetFeature 0x18 ∧ goes a (bcCmd 2 49999) opSetFeature 0x18
      ∧ a.ownJob (bcCmd 2 49999).job (bcCmd 2 49999).gen = some (0, rootAt .armed) ∧ (rootAt .armed).tree.level = 0
      ∧ be (bcCmd 2 49999).mdata 10 8 < (rootAt .armed).pMin ∧ (rootAt .armed).pMin ≤ be (bcCmd 2 (rootAt .armed).pMin).mdata 10 8
      ∧ (bcCmd 2 49999).dataIn = true ∧ le (bcCmd 2 49999).args 0 1 = 2 ∧ le (bcCmd 6 0).args 0 1 = 6
      ∧ goes (fe (agQl ss0) 0x20 (leBytes 6 9)) (fc 0x20 (leBytes 6 9)) opSetFeature 0x20
      ∧ (agQl ss0).ledger 1 0 ((agQl ss0).ledgerHome 1 0) = some (led ss0 [lrec]) ∧ (led ss0 [lrec]).isSealed (le (fc 0x20 (leBytes 6 9)).args 0 6) = true
      ∧ goes (fe agUp 0x21 importArgs) (fc 0x21 importArgs) opSetFeature 0x21 ∧ le (fc 0x21 importArgs).args 10 6 = 0 ∧ le (fc 0x21 importArgs).args 0 2 < 4096
      ∧ le (fc 0x21 importArgs).args 16 4 = 1 ∧ goes (fe (agFeat job1) 0x22 []) (fc 0x22 []) opSetFeature 0x22
      ∧ (agFeat job1).ownJob (fc 0x22 []).job (fc 0x22 []).gen = some (0, job1) := by
  unfold goes
  repeat' apply And.intro
  all_goals decide +kernel

def rl (kind dlen : Nat) (args : List Byte) : Command := mc opReadLedger kind dlen args []
/-- The arguments of each kind that need an object of step 7, those of LAST-CLEAN need none. -/
def rlArgs (kind : Nat) : List Byte := if kind = 5 then leBytes 4 1 ++ [0] ++ leBytes 6 7 else if kind = 2 then leBytes 6 7 ++ [1, 0] else if kind = 4 then leBytes 6 7 ++ leBytes 6 7 else leBytes 6 7
theorem test_witness_LedgerQueries :
    (∀ kind ∈ [1, 2, 3, 4, 5, 6, 7], goes (withC (agQl ss0) (rl kind 4096 (rlArgs kind))) (rl kind 4096 (rlArgs kind)) opReadLedger kind
        ∧ queryArgsOk kind (rl kind 4096 (rlArgs kind)).args = true ∧ (withC (agQl ss0) (rl kind 4096 (rlArgs kind))).fetching ≤ 16
        ∧ (agQl ss0).queryNeeds kind 1 0 (rl kind 4096 (rlArgs kind)).args = [])
      ∧ (∀ kind ∈ [1, 2, 3, 4, 5, 7], (agQl { ss0 with parts := 1 }).queryNeeds kind 1 0 (rl kind 4096 (rlArgs kind)).args ≠ [])
      ∧ (∀ q ∈ [(led ss0 [lrec]).queryRecords [lrec] (rlArgs 1) false, (led ss0 [lrec]).querySummary [lrec] (rlArgs 2) false,
            (led ss0 [lrec]).queryEpochs [lrec] (rlArgs 3) false, (led ss0 [lrec]).queryVerdicts [lrec] (rlArgs 4) false, (agQl ss0).queryCompare (rlArgs 5) [] [],
            job1.queryLastClean, (led ss0 [lrec]).queryManifest [lrec] (rlArgs 7) false],
          48 + (q.items.headD []).length ≤ 4096)
      ∧ (agQl ss0).findJob 1 0 = some (0, job1) := by
  unfold goes
  repeat' apply And.intro
  all_goals decide +kernel

def agTr (parcels : List HeldParcel) (c : Command) : Aggregator :=
  withC ((agF [[(PH_CFG_HOST_Q 3, 5)]]).modIng fun g => { g with pools := [(3, ⟨[], parcels⟩)] }) c
/-- Stream 5 of the partner's die units. -/
def trCmd : Command := { hc opReadTrace 0 64 2 .queued with qid := 5, entry := (hc opReadTrace 0 64 2 .queued).entry.set 32 5 |>.set 33 0x80 }
/-- A command of a PCIe queue whose buffer its entry gives may start. -/
def startsData (a : Aggregator) (c : Command) : Prop :=
  a.served = true ∧ a.command 8 = some c ∧ a.mayStart c = true ∧ a.buffer c = some [(0, 64)] ∧ c.mgmt = false
def held5 : HeldParcel := ⟨sramOf 0, 16389, 3, 64⟩
/-- Arm Job data of die unit 260 at the root, with one schema slot. -/
def armData : List Byte :=
  zeros 30 ++ leBytes 10 1 ++ leBytes 24 1 ++ leBytes 8 260 ++ zeros 512 ++ [0, 0, 1, 0, 3] ++ zeros 11
def armCmd : Command := mc opArmJob 0 armData.length [] armData
def retCmd : Command := mc opRetireJob 0 0 [] []
theorem test_witness_TraceReadsAndJobs :
    startsData (agTr [] trCmd) trCmd ∧ le trCmd.args 0 2 % 32768 < 16384 ∧ bit (le trCmd.args 0 2) 15 = true ∧ (agTr [] trCmd).heldFor trCmd.qid 16389 = []
      ∧ startsData (agTr [held5] trCmd) trCmd ∧ trCmd.op = opReadTrace ∧ trCmd.qid = 5 ∧ (agTr [held5] trCmd).heldFor trCmd.qid 16389 = [(3, held5)] ∧ held5.len ≤ trCmd.dlen
      ∧ (agTr [held5] trCmd).poisoned held5.addr held5.len = false ∧ goes (withC agUp armCmd) armCmd opArmJob 0 ∧ armCmd.dataIn = true ∧ armData.length = armCmd.dlen
      ∧ (withC agUp armCmd).armRefusal armCmd.job armCmd.gen armData = none ∧ (withC agUp armCmd).freeCtx = some 0
      ∧ (armDies armData).filter (withC agUp armCmd).armable = [260] ∧ goes (withC (agFeat (rootAt .armed)) retCmd) retCmd opRetireJob 0
        ∧ (withC (agFeat (rootAt .armed)) retCmd).ownJob retCmd.job retCmd.gen = some (0, rootAt .armed) ∧ (withC (agFeat (rootAt .armed)) retCmd).job 0 = some (rootAt .armed)
      ∧ (withC (agFeat (rootAt .armed)) retCmd).serves 260 = true
      ∧ (withC agOn (mc opIdentify 0 4096 [] [])).identifyData.length ≤ (mc opIdentify 0 4096 [] []).dlen
      ∧ goes (withC agOn (mc opIdentify 0 4096 [] [])) (mc opIdentify 0 4096 [] []) opIdentify 0 := by
  unfold goes startsData
  repeat' apply And.intro
  all_goals decide +kernel

/-! ### Ill-formed commands are refused by WellFormed -/

def headGood : CtlHead := ⟨0x011, 7⟩
def ptpGood : PtpMsg := ⟨0, 1, 24, 1, 0, 0, 0, 6, 1⟩
def pktGood : TracePkt := ⟨1, 5, 0, 0, false, false, false⟩

theorem test_wf_accepts :
    (Instr.syncRx .du ptpGood).wf = true ∧ (Instr.regRead headGood [0xFFF8]).wf = true ∧ (Instr.add 63 word0).wf = true
      ∧ (Instr.tracePacketAsleep 15 pktGood).wf = true := by decide

theorem test_wf_refuses_wide_operand : (Instr.fleetTimeTick .du 256).wf = false := by decide
theorem test_wf_refuses_quarter : (Instr.gateCommit 160).wf = false := by decide
theorem test_wf_refuses_core : (Instr.add 64 word0).wf = false := by decide
theorem test_wf_refuses_word_field : (Instr.add 0 { word0 with d := 64 }).wf = false := by decide
theorem test_wf_refuses_immediate : (Instr.li 0 { word0 with imm := 2 ^ 29 }).wf = false := by decide
theorem test_wf_refuses_ptp : (Instr.syncRx .du { ptpGood with domain := 256 }).wf = false := by decide
theorem test_wf_refuses_head : (Instr.retire ⟨4096, 0⟩).wf = false := by decide
theorem test_wf_refuses_operations : (Instr.regRead headGood (List.replicate 65 0)).wf = false := by decide
theorem test_wf_refuses_operation_address : (Instr.regRead headGood [65536]).wf = false := by decide
theorem test_wf_refuses_accept : (Instr.registerAcceptRx 0 ⟨2 ^ 20, 0, 0, 0, 0⟩).wf = false := by decide
theorem test_wf_refuses_counter_inputs : (Instr.cntCycle ⟨0, 0, 256, 0, 0⟩).wf = false := by decide
theorem test_wf_refuses_packet : (Instr.tracePacketAsleep 0 { pktGood with kind := 4 }).wf = false := by decide
theorem test_wf_refuses_commit : (Instr.tileCommit ⟨0, 0, 256, 0, 0, 0, 0, 0⟩ 0).wf = false := by decide
theorem test_wf_refuses_record_length : (Instr.lineageTransfer [0]).wf = false := by decide
theorem test_wf_refuses_temperature : (Instr.snUpd 2048 0).wf = false := by decide
theorem test_wf_refuses_du_address : (Instr.registerWrite .du 0x10000 0 true 0 0).wf = false := by decide
theorem test_wf_refuses_agg_address : (Instr.registerWrite .agg 0x800000 0 true 0 0).wf = false := by decide
theorem test_wf_refuses_sync_number :
    (Instr.syncOwnerWrite false 256 0 0).wf = false ∧ (Instr.syncOwnerWrite true 256 0 0).wf = true := by decide
theorem test_wf_refuses_re_admission_duid : (Instr.reAdmission 0 true (some (2 ^ 20))).wf = false := by decide

/-! ### Values the spec's own text gives -/

/-- The bytes of "123456789". -/
def checkText : List Byte := [0x31, 0x32, 0x33, 0x34, 0x35, 0x36, 0x37, 0x38, 0x39]

/-- Table 6-1. -/
theorem test_check_value : crc64 checkText = 0x62EC59E3F1A4F00A := by decide +kernel

/-- The CRC-16 of a beacon (chapter 8). -/
theorem test_crc16 : crcBytes 16 0x1021 0xFFFF checkText = 0x29B1 := by decide +kernel

/-- Descriptor 3 of Table 11-10. -/
def desc3 : Numerics := ⟨0x8004000000000000, 0, 0x1800FF820000007F, 0x1800FF8200000000⟩

/-- Table 11-10: h1 = 127, h2 = 31, q = 32, and unchunked h1 = 4,095. -/
theorem test_example_depths :
    desc3.wellFormed = true ∧ desc3.depths 4096 = (127, 31, 32)
      ∧ ({ desc3 with w2 := 0x1800FF8200FFFFFF } : Numerics).depths 4096 = (4095, 0, 1) := by decide +kernel

/-- Table 11-11, element (17, 90): S = 12.375, T = 1,600, y lies 2^-8 off: within its bound, usage 67. -/
theorem test_example_within :
    judge desc3 fmtFp32 ((desc3.base fmtFp32 4096).bound 0 (99 * 2 ^ 317) (1600 * 2 ^ 320)) ⟨99 * 2 ^ 317, 1600 * 2 ^ 320, false, false, false⟩
      (.fin false 3167 (-8)) = ⟨true, false, some 67⟩ := by decide +kernel

/-- Table 11-11, element (40, 3): S = -0.4375, T = 811.5, y = -0.46875: outside its bound, usage 1,047. -/
theorem test_example_outside :
    judge desc3 fmtFp32 ((desc3.base fmtFp32 4096).bound 0 (-7 * 2 ^ 316) (1623 * 2 ^ 319)) ⟨-7 * 2 ^ 316, 1623 * 2 ^ 319, false, false, false⟩
      (.fin true 15 (-5)) = ⟨false, false, some 1047⟩ := by decide +kernel

/-! ### One step on a small state -/

/-- ADD of 2 and 3 on core 0 through the queue: x1 holds the sum, and the queue is empty (R333, Table 12-5). -/
theorem test_step_add :
    ∃ t : State, step { State.reset with agg := agOn.setCore 0 { coreR run0 with x := [(2, 2), (3, 3)] }, pending := [.add 0 word0] } = .next t
      ∧ (t.agg.core 0).xr 1 = 5 ∧ t.pending = [] := ⟨_, rfl, by decide +kernel, rfl⟩

/-- SUB wraps: 2 - 3. -/
theorem test_step_sub_wraps :
    ∃ t : State, step { State.reset with agg := agOn.setCore 0 { coreR run0 with x := [(2, 2), (3, 3)] }, pending := [.sub 0 word0] } = .next t
      ∧ (t.agg.core 0).xr 1 = 0xFFFFFFFFFFFFFFFF := ⟨_, rfl, by decide +kernel⟩

/-! ### Witnesses: clauses whose hypotheses hold together in one state -/

/-- A heartbeat up the tree. -/
def hbBody : List Byte := beBytes 1 2 ++ zeros 31

theorem test_clauses_EpochsCloseAndContributionsTravel :
    (let s : State := ⟨duOn, agJob (jobE true none) (tcU (1000 + 65535999) 0), []⟩; let ctx : Nat := 0; let tp : Nat := 1000;
      let j : JobCtx := jobE true none; let e : Epoch := epo true none; let a := s.agg;
        a.served = true ∧ a.job ctx = some j ∧ j.epoch tp = some e ∧ (e.armed = false ∨ a.tc.now < j.trayDeadline tp))
    ∧ (let s : State := ⟨duOn, agJob (jobE true none) (tcU (1000 + 65536000) 0), []⟩; let ctx : Nat := 0; let tp : Nat := 1000;
      let j : JobCtx := jobE true none; let e : Epoch := epo true none; let a := s.agg;
        a.served = true ∧ a.paused = false ∧ a.job ctx = some j ∧ j.epoch tp = some e ∧ e.armed = true ∧ e.trayClosed = none
        ∧ j.trayDeadline tp ≤ a.tc.now)
    ∧ (let s : State := ⟨duOn, agJob (jobE true (some 0)) (tcU (1000 + 65535999) 0), []⟩; let ctx : Nat := 0; let tp : Nat := 1000;
      let j : JobCtx := jobE true (some 0); let e : Epoch := epo true (some 0); let a := s.agg;
        a.served = true ∧ a.job ctx = some j ∧ j.epoch tp = some e ∧ a.tc.now < j.subtreeDeadline tp)
    ∧ (let s : State := ⟨duOn, agJob (jobE true (some 0)) (tcU (1000 + 65536000) 0), []⟩; let ctx : Nat := 0; let tp : Nat := 1000;
      let j : JobCtx := jobE true (some 0); let e : Epoch := epo true (some 0); let a := s.agg;
        a.served = true ∧ a.paused = false ∧ a.job ctx = some j ∧ j.epoch tp = some e ∧ e.trayClosed.isSome = true ∧ j.subtreeDeadline tp ≤ a.tc.now)
    ∧ (let s : State := ⟨duOn, agJob ({ job1 with taken := [(1000, [30])] }) (TimeClient.init), []⟩; let ctx : Nat := 0;
      let l : List Byte := upF 1 contribBody; let j : JobCtx := { job1 with taken := [(1000, [30])] }; let a := s.agg; let b := l.drop 32;
      let child := be l 4 4 % 4096; let parent := a.parentCtx (be l 12 4) (be l 10 1) child (be b 6 10);
        a.served = true ∧ (a.on ING_CTRL_EN = true ∧ a.frameCheck laneTree l = (true, a)) ∧ be l 1 1 = ftTreeUp ∧ be b 0 1 = 1
        ∧ parent = some (ctx, j) ∧ j.hasTaken (be b 6 10) child = true)
    ∧ (let s : State := ⟨duOn, agJob (jobU 1) (TimeClient.init), []⟩;
      let l : List Byte := upF 2 (beBytes 1 2 ++ zeros 7 ++ beBytes 10 1000 ++ zeros 526) |>.set 1 (BitVec.ofNat 8 ftTreeAck); let a := s.agg;
      let b := l.drop 32;
        a.served = true ∧ (a.on ING_CTRL_EN = true ∧ a.frameCheck laneTree l = (true, a)) ∧ be l 1 1 = ftTreeAck ∧ be b 0 1 = 2
        ∧ a.findJob (be l 12 4) (be l 10 1) = none)
    ∧ (let s : State := ⟨duOn, agJob (jobU 1) (TimeClient.init), []⟩; let ctx : Nat := 0;
      let l : List Byte := upF 1 (beBytes 1 2 ++ zeros 7 ++ beBytes 10 1000 ++ zeros 526) |>.set 1 (BitVec.ofNat 8 ftTreeAck);
      let j : JobCtx := jobU 1; let a := s.agg; let b := l.drop 32;
        a.served = true ∧ (a.on ING_CTRL_EN = true ∧ a.frameCheck laneTree l = (true, a)) ∧ be l 1 1 = ftTreeAck ∧ be b 0 1 = 2
        ∧ a.findJob (be l 12 4) (be l 10 1) = some (ctx, j))
    ∧ (let s : State := ⟨duOn, agJob (jobU 1) (tcU 0 (retryNs - 1)), []⟩; let ctx : Nat := 0; let tp : Nat := 1000; let j : JobCtx := jobU 1;
      let u : ContribOut := up1 1; let a := s.agg; let wait := max 1 (a.get TREE_TIMING_CONTRIB_RETRY) * 1000;
        a.served = true ∧ a.job ctx = some j ∧ j.ups.find? (fun u => u.tp = tp) = some u ∧ a.mono < u.lastSent + wait)
    ∧ (let s : State := ⟨duOn, agJob (jobU 999) (tcU 0 retryNs), []⟩; let ctx : Nat := 0; let tp : Nat := 1000; let j : JobCtx := jobU 999;
      let u : ContribOut := up1 999; let a := s.agg; let wait := max 1 (a.get TREE_TIMING_CONTRIB_RETRY) * 1000;
        a.served = true ∧ a.job ctx = some j ∧ j.ups.find? (fun u => u.tp = tp) = some u ∧ u.lastSent + wait ≤ a.mono
        ∧ max 1 (a.get TREE_TIMING_CONTRIB_TRIES) ≤ u.tries)
    ∧ (let s : State := ⟨duOn, agJob (jobU 0) (tcU 0 retryNs), []⟩; let ctx : Nat := 0; let tp : Nat := 1000; let j : JobCtx := jobU 0;
      let u : ContribOut := up1 0; let a := s.agg; let wait := max 1 (a.get TREE_TIMING_CONTRIB_RETRY) * 1000;
        a.served = true ∧ a.job ctx = some j ∧ j.ups.find? (fun u => u.tp = tp) = some u ∧ u.lastSent + wait ≤ a.mono
        ∧ u.tries < max 1 (a.get TREE_TIMING_CONTRIB_TRIES)
        ∧ a.tc.now < tp + j.epochWaitU + ((j.treeAt tp).depth - ((j.treeAt tp).level - 1)) * j.hopWaitU)
    ∧ (let s : State := ⟨duOn, agJob (job1) (tcU 0 100000), []⟩; let ctx : Nat := 0; let j : JobCtx := job1; let a := s.agg;
        a.served = true ∧ a.job ctx = some j ∧ a.inTree ctx j = true ∧ j.hbSent + 100000 ≤ a.mono)
    ∧ (let s : State := ⟨duOn, agJob (job1) (TimeClient.init), []⟩; let ctx : Nat := 0; let l : List Byte := upF 1 hbBody; let j : JobCtx := job1;
      let a := s.agg; let child := be l 4 4 % 4096;
        a.served = true ∧ (a.on ING_CTRL_EN = true ∧ a.frameCheck laneTree l = (true, a)) ∧ be l 1 1 = ftTreeUp ∧ be l 32 1 = 2
        ∧ a.ctxsAbove (be l 12 4) (be l 10 1) child = [ctx] ∧ a.job ctx = some j)
    ∧ (let s : State := ⟨duOn, agJob (job1) (TimeClient.init), []⟩; let l : List Byte := upF 2 hbBody; let a := s.agg; let child := be l 4 4 % 4096;
        a.served = true ∧ (a.on ING_CTRL_EN = true ∧ a.frameCheck laneTree l = (true, a)) ∧ be l 1 1 = ftTreeUp ∧ be l 32 1 = 2
        ∧ a.ctxsAbove (be l 12 4) (be l 10 1) child = [])
    ∧ (let s : State := ⟨duOn, agJob (job1) (tcU 0 1000000), []⟩; let ctx : Nat := 0; let peer : Nat := 20; let j : JobCtx := job1; let a := s.agg;
        a.served = true ∧ a.job ctx = some j ∧ a.inTree ctx j = true ∧ peer ∈ a.above ctx j ∧ peer ∉ j.lost
        ∧ storeGet 0 j.heard peer + 1000000 ≤ a.mono)
    ∧ (let s : State := ⟨duOn, agJob ({ job1 with reparent := [(0, TreePart.empty)] }) (TimeClient.init), []⟩; let ctx : Nat := 0;
      let j : JobCtx := { job1 with reparent := [(0, TreePart.empty)] }; let a := s.agg;
        a.served = true ∧ a.job ctx = some j ∧ j.treeAt a.tc.now ≠ j.tree) := by
  repeat' apply And.intro
  all_goals decide +kernel

theorem test_clauses_StepsAreSealedAndSpilled :
    (let s : State := ⟨duOn, { agLed ({ ss0 with reached := some 5 }) [] with tc := tcU (0) (4) }, []⟩; let ctx : Nat := 0; let step : Nat := 7;
      let t : Nat := 5; let j : JobCtx := job1; let g : Ledger := led ({ ss0 with reached := some 5 }) []; let a := s.agg;
      let st := g.stepState step;
        a.served = true ∧ a.job ctx = some j ∧ a.ledger j.job j.gen (a.homeOfCtx ctx) = some g ∧ st.reached = some t
        ∧ a.mono < t + max 1 (a.get LDG_TIMING_SEAL_GRACE) * 1000000)
    ∧ (let s : State := ⟨duOn, { agLed ({ ss0 with reached := some 5 }) [] with tc := tcU (0) (5 + max 1 (agUp.get LDG_TIMING_SEAL_GRACE) * 1000000) }, []⟩;
      let ctx : Nat := 0; let step : Nat := 7; let t : Nat := 5; let j : JobCtx := job1; let g : Ledger := led ({ ss0 with reached := some 5 }) [];
      let a := s.agg; let st := g.stepState step;
        a.served = true ∧ a.job ctx = some j ∧ a.ledger j.job j.gen (a.homeOfCtx ctx) = some g ∧ st.reached = some t
        ∧ t + max 1 (a.get LDG_TIMING_SEAL_GRACE) * 1000000 ≤ a.mono)
    ∧ (let s : State := ⟨duOn, { agLed ({ ss0 with firstCov := some 5 }) [] with tc := tcU (0) (4) }, []⟩; let ctx : Nat := 0; let step : Nat := 7;
      let t : Nat := 5; let j : JobCtx := job1; let g : Ledger := led ({ ss0 with firstCov := some 5 }) []; let a := s.agg;
      let st := g.stepState step;
        a.served = true ∧ a.job ctx = some j ∧ a.ledger j.job j.gen (a.homeOfCtx ctx) = some g ∧ st.firstCov = some t
        ∧ a.mono < t + max 1 (a.get LDG_TIMING_SEAL_WAIT) * 1000000000)
    ∧ (let s : State := ⟨duOn, { agLed ({ ss0 with firstCov := some 5 }) [] with tc := tcU (0) (5 + max 1 (agUp.get LDG_TIMING_SEAL_WAIT) * 1000000000) }, []⟩;
      let ctx : Nat := 0; let step : Nat := 7; let t : Nat := 5; let j : JobCtx := job1;
      let g : Ledger := led ({ ss0 with firstCov := some 5 }) []; let a := s.agg; let st := g.stepState step;
        a.served = true ∧ a.job ctx = some j ∧ a.ledger j.job j.gen (a.homeOfCtx ctx) = some g ∧ st.firstCov = some t
        ∧ t + max 1 (a.get LDG_TIMING_SEAL_WAIT) * 1000000000 ≤ a.mono)
    ∧ (let s : State := ⟨duOn, agLed (ss0) [], []⟩; let job : Nat := 1; let gen : Nat := 0; let home : Nat := 1; let step : Nat := 7;
      let g : Ledger := led (ss0) []; let a := s.agg; let st := g.stepState step;
        a.served = true ∧ a.ledger job gen home = some g
        ∧ (st.sealedNs = none ∨ st.writing.isSome = true ∨ st.freeing.isSome = true ∨ g.partRecs step = [] ∨ a.spillsFor g = false))
    ∧ (let s : State := ⟨duOn, agLed ({ ss0 with sealedNs := some 3 }) [lrec], []⟩; let job : Nat := 1; let gen : Nat := 0; let home : Nat := 1;
      let step : Nat := 7; let t : Nat := 3; let g : Ledger := led ({ ss0 with sealedNs := some 3 }) [lrec]; let new := 9; let ctl := 9;
      let a := s.agg; let st := g.stepState step;
        a.served = true ∧ a.ledger job gen home = some g ∧ st.sealedNs = some t ∧ st.writing = none ∧ st.freeing = none ∧ a.spillsFor g = true
        ∧ g.partRecs step ≠ [] ∧ g.newestSealed = some new ∧ (step + a.get LDG_CTRL_RESIDENT ≤ new ∨ st.spilled = true)
        ∧ a.cfg.storage[0]? = some ctl)
    ∧ (let s : State := ⟨duOn, agLed (ss0) [], []⟩; let job : Nat := 1; let gen : Nat := 0; let home : Nat := 1; let step : Nat := 7;
      let g : Ledger := led (ss0) []; let a := s.agg; let st := g.stepState step;
        a.served = true ∧ a.ledger job gen home = some g ∧ st.writing = none)
    ∧ (let s : State := ⟨duOn, agLed ({ ss0 with writing := some (0, 0) }) [], []⟩; let job : Nat := 1; let gen : Nat := 0; let home : Nat := 1;
      let step : Nat := 7; let g : Ledger := led ({ ss0 with writing := some (0, 0) }) []; let a := s.agg; let st := g.stepState step;
        a.served = true ∧ a.ledger job gen home = some g ∧ st.writing.isSome = true)
    ∧ (let s : State := ⟨duOn, { agLed ({ ss0 with writing := some (0, 0) }) [] with tc := tcU (0) (max 1 (agUp.get LDG_TIMING_SPILL_RETRY) * 1000000 - 1) }, []⟩;
      let job : Nat := 1; let gen : Nat := 0; let home : Nat := 1; let step : Nat := 7; let k : Nat := 0; let t : Nat := 0;
      let g : Ledger := led ({ ss0 with writing := some (0, 0) }) []; let a := s.agg; let st := g.stepState step;
        a.served = true ∧ a.ledger job gen home = some g ∧ st.writing = some (k, t) ∧ a.mono < t + max 1 (a.get LDG_TIMING_SPILL_RETRY) * 1000000)
    ∧ (let s : State := ⟨duOn, { agLed ({ ss0 with writing := some (0, 0) }) [] with tc := tcU (0) (max 1 (agUp.get LDG_TIMING_SPILL_RETRY) * 1000000) }, []⟩;
      let job : Nat := 1; let gen : Nat := 0; let home : Nat := 1; let step : Nat := 7; let k : Nat := 0; let t : Nat := 0;
      let g : Ledger := led ({ ss0 with writing := some (0, 0) }) []; let a := s.agg; let st := g.stepState step;
        a.served = true ∧ a.ledger job gen home = some g ∧ st.writing = some (k, t) ∧ t + max 1 (a.get LDG_TIMING_SPILL_RETRY) * 1000000 ≤ a.mono)
    ∧ (let s : State := ⟨duOn, { agCmd (cmdF opReadLedger) with tc := tcU (0) (max 1 (agUp.get LDG_TIMING_FETCH_WAIT) * 1000000) }, []⟩;
      let serial : Nat := 8; let t : Nat := 0; let c : Machine.Command := cmdF opReadLedger; let need := [obj1]; let got := []; let cut := [];
      let a := s.agg;
        a.served = true ∧ a.command serial = some c ∧ c.wait = .fetch need got cut t ∧ t + max 1 (a.get LDG_TIMING_FETCH_WAIT) * 1000000 ≤ a.mono) := by
  repeat' apply And.intro
  all_goals decide +kernel

theorem test_clauses_TheMirrorLinkAppliesMessagesInOrder :
    (let s : State := ⟨duOn, agMir (fun m => { m with up := true, rxSeq := 1 }) 0, []⟩; let l : List Byte := mirF mkSpilled 1 1;
      let kind : Nat := mkSpilled; let a := s.agg; let b := l.drop 32; let r := a.mirrorAcked (be b 16 8); let next := r.led.mir.rxSeq + 1;
        a.served = true ∧ kind = mkSpilled
        ∧ (a.led.mir.up = true ∧ be b 0 1 = kind ∧ a.frameCheck laneMirror l = (true, a) ∧ be b 4 4 = a.get MIR_STATUS_SESSION) ∧ be b 8 8 < next)
    ∧ (let s : State := ⟨duOn, agMir (fun m => { m with up := true }) 0, []⟩; let l : List Byte := mirF mkSpilled 2 1; let kind : Nat := mkSpilled;
      let a := s.agg; let b := l.drop 32; let r := a.mirrorAcked (be b 16 8); let next := r.led.mir.rxSeq + 1;
        a.served = true ∧ kind = mkSpilled
        ∧ (a.led.mir.up = true ∧ be b 0 1 = kind ∧ a.frameCheck laneMirror l = (true, a) ∧ be b 4 4 = a.get MIR_STATUS_SESSION) ∧ next < be b 8 8)
    ∧ (let s : State := ⟨duOn, agMir (fun m => { m with up := true, log := [mmsg] }) mirNs, []⟩; let mseq : Nat := 4; let m : MirrorMsg := mmsg;
      let a := s.agg;
        a.served = true ∧ a.led.mir.up = true ∧ a.led.mir.log.find? (fun x => x.mseq = mseq) = some m
        ∧ m.lastSent + max 1 (a.get MIR_CTRL_MIRROR_RETRY) * 1000 ≤ a.mono)
    ∧ (let s : State := ⟨duOn, agMir (fun m => { m with up := true }) 1000000, []⟩; let a := s.agg;
        a.served = true ∧ a.led.mir.up = true ∧ a.led.mir.lastHealthTx + 1000000 ≤ a.mono)
    ∧ (let s : State := ⟨duOn, agMir (fun m => { m with up := true }) 5000000, []⟩; let a := s.agg;
        a.served = true ∧ a.led.mir.up = true ∧ a.led.mir.lostSent = false ∧ a.led.mir.lastHealthRx + 5000000 ≤ a.mono) := by
  repeat' apply And.intro
  all_goals decide +kernel

theorem test_clauses_AuditsAreDispatchedAndDecided :
    (let s : State := ⟨duOn, agAud 1 adOn tile0 1999999, []⟩; let duid : Nat := 260; let job : Nat := 1; let gen : Nat := 0; let seq : Nat := 0;
      let t : Tile := tile0; let a := s.agg;
        a.tile duid job gen seq = some t ∧ (t.state ≠ .staged ∨ t.begun = true ∨ a.nowNs < t.commitNs + a.get AUD_CTRL_START_WAIT * 1000000))
    ∧ (let s : State := ⟨duOn, agAud 1 adOn tile0 2000000, []⟩; let duid : Nat := 260; let job : Nat := 1; let gen : Nat := 0; let seq : Nat := 0;
      let t : Tile := tile0; let a := s.agg;
        a.tile duid job gen seq = some t ∧ t.state = .staged ∧ t.begun = false ∧ t.commitNs + a.get AUD_CTRL_START_WAIT * 1000000 ≤ a.nowNs)
    ∧ (let s : State := ⟨duOn, agAud 1 adOn ({ tile0 with state := .collecting }) 1999999, []⟩; let duid : Nat := 260; let job : Nat := 1;
      let gen : Nat := 0; let seq : Nat := 0; let t : Tile := { tile0 with state := .collecting }; let a := s.agg;
        a.tile duid job gen seq = some t ∧ (t.state ≠ .collecting ∨ a.mono < t.since + max 1 (a.get AUD_CTRL_STAGE_WAIT) * 1000000))
    ∧ (let s : State := ⟨duOn, agAud 1 adOn ({ tile0 with state := .collecting }) 2000000, []⟩; let duid : Nat := 260; let job : Nat := 1;
      let gen : Nat := 0; let seq : Nat := 0; let t : Tile := { tile0 with state := .collecting }; let a := s.agg;
        a.tile duid job gen seq = some t ∧ t.state = .collecting ∧ t.since + max 1 (a.get AUD_CTRL_STAGE_WAIT) * 1000000 ≤ a.mono)
    ∧ (let t : Tile := { tile0 with state := .audit2, results := [(2, res0 1 0)] }; let d : Nat := 2; let z : AuditResult := res0 1 0;
        t.state = .audit2 ∧ t.results = [(d, z)])
    ∧ (let t : Tile := { tile0 with state := .audit3, results := [(3, res0 1 0), (2, res0 1 1)] }; let r : AuditResult := res0 1 2;
      let d : Nat := 3; let z : AuditResult := res0 1 0; let d2 : Nat := 2; let z2 : AuditResult := res0 1 1;
        t.state = .audit3 ∧ t.results = [(d, z), (d2, z2)] ∧ z.sums ≠ r.sums ∧ z2.sums ≠ r.sums) := by
  repeat' apply And.intro
  all_goals decide +kernel

theorem test_clauses_AggregatorDomainsSleepWakeAndDrain :
    (let s : State := ⟨duOn, agPd 63 adWaking 0 { PowerMgr.init with fromOff := [63] }, []⟩; let c : Nat := 63; let a := s.agg;
        c < 64 ∧ a.adState c = adWaking ∧ c ∈ a.pwr.fromOff ∧ a.pwr.held = [])
    ∧ (let s : State := ⟨duOn, agPd 73 adRetain 70 { PowerMgr.init with deferred := [73] }, []⟩; let k : Nat := 73; let a := s.agg;
        nextDeferred a.pwr.deferred = some k ∧ a.get PWR_CAP_CAP_W < a.powerSum + domBudget k)
    ∧ (let s : State := ⟨duOn, agPd 73 adOff 2000 { PowerMgr.init with deferred := [73], fromOff := [73] }, []⟩; let k : Nat := 73; let a := s.agg;
        nextDeferred a.pwr.deferred = some k ∧ a.powerSum + domBudget k ≤ a.get PWR_CAP_CAP_W)
    ∧ (let s : State := ⟨duOn, { agPd 67 adWaking 0 { PowerMgr.init with wakeAt := [(67, 5)] } with tc := tcU (0) (4 + 4 * domWake 67 false) }, []⟩;
      let k : Nat := 67; let t : Nat := 5; let a := s.agg;
        tabGet a.pwr.wakeAt k = some t ∧ a.mono < t + 4 * domWake k (a.pwr.fromOff.contains k))
    ∧ (let s : State := ⟨duOn, { agPd 67 adWaking 0 { PowerMgr.init with wakeAt := [(67, 5)] } with tc := tcU (0) (5 + 4 * domWake 67 false) }, []⟩;
      let k : Nat := 67; let t : Nat := 5; let a := s.agg;
        k < 80 ∧ domKind k = .audit ∧ tabGet a.pwr.wakeAt k = some t ∧ a.adState k = adWaking ∧ t + 4 * domWake k (a.pwr.fromOff.contains k) ≤ a.mono) := by
  repeat' apply And.intro
  all_goals decide +kernel

theorem test_clauses_QueuesAcceptCompleteAndReset :
    (let s : State := ⟨duOn, agAdm, []⟩; let x : QueuePair := (agAdm.queuePair 0).getD (qp 0 false); let a := s.agg;
        a.served = true ∧ a.on HI_STATUS_FW_HOLD = false ∧ a.resetOwed = false ∧ a.recovery = false ∧ a.nextQueue = some 0 ∧ a.queuePair 0 = some x)
    ∧ (let s : State := ⟨duOn, agOn, []⟩; let q : Nat := 0; let head : Nat := 0; let priv : Bool := false;
      let entry : List Byte := (hc opIdentify 0 0 4 .queued).entry; let a := s.agg;
      let c0 : Command := ⟨2 * a.hif.serial + b2n (decide (q = mgmtQid)), q, head, entry, [], a.mono, .queued⟩;
        a.served = true ∧ a.hif.commands = [] ∧ c0.op ∈ opcodes ∧ (opPrivileged c0.op = false ∨ priv = true)
        ∧ (subopOk c0.op c0.subop = false ∨ c0.reservedOk = false))
    ∧ (let s : State := ⟨duOn, agHq (qp 0 false), []⟩; let x : QueuePair := qp 0 false; let y : CqState := cq5;
      let c : Machine.Command := { hc opIdentify 0 0 0 .queued with qid := 5 }; let a := s.agg;
        a.served = true ∧ c.mgmt = false ∧ a.queuePair c.qid = some x ∧ a.cq x.cqid = some y)
    ∧ (let s : State := ⟨duOn, { agCmd (hc opIdentify 0 0 0 .queued) with tc := tcU (0) (agOn.budgetNs (hc opIdentify 0 0 0 .queued)) }, []⟩;
      let n : Nat := 8; let c : Machine.Command := hc opIdentify 0 0 0 .queued; let a := s.agg;
        a.served = true ∧ a.command n = some c ∧ c.op ≠ opFlush ∧ c.wait = .queued ∧ c.started + a.budgetNs c ≤ a.mono)
    ∧ (let s : State := ⟨duOn, agCmd ({ hc opReset 0 0 0 .queued with qid := mgmtQid }), []⟩; let n : Nat := 8;
      let c : Machine.Command := { hc opReset 0 0 0 .queued with qid := mgmtQid }; let a := s.agg;
        a.served = true ∧ a.command n = some c ∧ c.op = opReset ∧ c.subop = 0 ∧ c.mgmt = true)
    ∧ (let s : State := ⟨duOn, agCmd ({ hc opReset 1 0 0 .queued with qid := mgmtQid }), []⟩; let n : Nat := 8;
      let c : Machine.Command := { hc opReset 1 0 0 .queued with qid := mgmtQid }; let a := s.agg;
        a.served = true ∧ a.command n = some c ∧ c.op = opReset ∧ c.subop = 1 ∧ a.hif.commands = [c] ∧ c.wait = .queued)
    ∧ (let s : State := ⟨duOn, agHq (qp 0 false), []⟩; let a := s.agg;
        a.served = true ∧ a.hif.commands = []) := by
  repeat' apply And.intro
  all_goals decide +kernel

theorem test_clauses_IngestAndChannels :
    (let s : State := ⟨duOn, strm ⟨none, some 5, []⟩ 0, []⟩; let i : Nat := 256; let l : List Byte := telF 0; let a := s.agg;
        a.served = true ∧ a.on ING_CTRL_EN = true ∧ be l 0 1 = 0x20 ∧ be l 1 1 = ftTelemetry ∧ a.streamOf (be l 4 4) (be l 8 2) = some i
        ∧ a.on (MTR_BURST_EN i) = false ∧ a.frameCheck laneIngest l = (true, a) ∧ a.bind (some i) (be l 12 4) (be l 10 1) = .pass
        ∧ (a.stream i).nextFseq = some (be l 16 4) ∧ readFrags (be l 3 1) (l.drop 32) = some ((readFrags (be l 3 1) (l.drop 32)).getD []))
    ∧ (let s : State := ⟨duOn, strm ⟨some ⟨0, [], 0⟩, none, []⟩ (max 1 (agUp.get ING_CTRL_REASM_WAIT) * 10000), []⟩; let i : Nat := 256;
      let r : Reasm := ⟨0, [], 0⟩; let a := s.agg;
        a.served = true ∧ (a.stream i).open_ = some r ∧ r.since + max 1 (a.get ING_CTRL_REASM_WAIT) * 10000 ≤ a.mono)
    ∧ (let s : State := ⟨duOn, { agUp.setStream 256 ⟨none, none, [goodParcel]⟩ with mem := [] }, []⟩; let i : Nat := 256;
      let l : List Byte := goodParcel; let rest : List (List Byte) := [];
      let e := ((agUp.setStream 256 ⟨none, none, []⟩).pigeonhole 256 goodParcel).2; let a := s.agg;
        a.served = true ∧ (a.stream i).ready = l :: rest ∧ parcelFault l = none
        ∧ (a.setStream i { a.stream i with ready := rest }).pigeonhole i l = (false, e))
    ∧ (let s : State := ⟨duOn, agIn [goodParcel], []⟩; let i : Nat := 256; let l : List Byte := goodParcel; let rest : List (List Byte) := [];
      let e := (((agIn [goodParcel]).setStream 256 ⟨none, none, []⟩).pigeonhole 256 goodParcel).2; let a := s.agg;
        a.served = true ∧ (a.stream i).ready = l :: rest ∧ parcelFault l = none
        ∧ (a.setStream i { a.stream i with ready := rest }).pigeonhole i l = (true, e))
    ∧ (let s : State := ⟨duOn, (agCore adOn).modIng fun g => { g with channels := [(33, chan0 (some 0) false)] }, []⟩; let k : Nat := 33;
      let t : Nat := 0; let c : Channel := chan0 (some 0) false;
      let e := (((agCore adOn).modIng fun g => { g with channels := [(33, chan0 (some 0) false)] }).poolAlloc 3 (ownerChannel 1 1) false).2;
      let b := 0; let a := s.agg;
        a.chan k = some c ∧ c.waitSince = some t ∧ a.poolAlloc c.pool (ownerChannel (k / 32) (k % 32)) false = (some b, e)) := by
  repeat' apply And.intro
  all_goals decide +kernel

theorem test_clauses_ControlPathsOfTheAggregator :
    (let s : State := ⟨duOn, { agUp with tc := tcU (0) (1000000) }, []⟩; let k : Nat := 4; let a := s.agg; let p := a.path k;
        a.served = true ∧ a.servesKey k = true ∧ p.lastKeep + 1000000 ≤ a.mono ∧ a.hlt.loop = false ∧ p.stopped = false)
    ∧ (let s : State := ⟨duOn, { agUp.setPath 4 { CtlPath.init with stopped := true } with tc := tcU (0) (1000000) }, []⟩; let k : Nat := 4;
      let a := s.agg; let p := a.path k;
        a.served = true ∧ a.servesKey k = true ∧ p.lastKeep + 1000000 ≤ a.mono ∧ a.hlt.loop = false ∧ p.stopped = true ∧ p.probe = none)
    ∧ (let s : State := ⟨duOn, agCtl (ctlF 3 0) agUp.ctlRetryNs, []⟩; let k : Nat := 4; let cseq : Nat := 9; let f : CtlOutFrame := ctlF 3 0;
      let a := s.agg; let p := a.path k;
        a.served = true ∧ a.paused = false ∧ p.out.find? (fun x => x.cseq = cseq) = some f ∧ f.lastSent + a.ctlRetryNs ≤ a.mono ∧ p.stopped = false
        ∧ max 1 (a.get ING_CTRL_CTL_TRIES) ≤ f.tries ∧ f.op = 0x0A) := by
  repeat' apply And.intro
  all_goals decide +kernel

theorem test_clauses_MismatchesDecayAndConditionalSuspects :
    (let s : State := ⟨duOn, (agHl 60000000000).set HLT_CTRL_DECAY_SHIFT 11, []⟩; let a := s.agg;
        a.served = true ∧ a.hlt.decayAt + 60000000000 ≤ a.nowNs ∧ 0 < a.get HLT_CTRL_DECAY_SHIFT)
    ∧ (let s : State := ⟨duOn, { agHl 0 with jobs := [(0, { jobStep 13 with dies := [((agHl 0).subject 4, { DieJob.init with dieStep := 13 })] })] }, []⟩;
      let u : Nat := 4; let cell : Nat := 63; let q : CondMark := ⟨10, 0⟩;
      let j : JobCtx := { jobStep 13 with dies := [((agHl 0).subject 4, { DieJob.init with dieStep := 13 })] }; let r : SelRates := rates1;
      let a := s.agg;
        a.served = true ∧ tabGet a.hlt.condStep (64 * u + cell) = some q ∧ a.job q.ctx = some j ∧ j.rates = some r
        ∧ j.dieStep (a.subject u) < q.step + r.suspectHold)
    ∧ (let s : State := ⟨duOn, { agHl 0 with jobs := [(0, { jobStep 14 with dies := [((agHl 0).subject 4, { DieJob.init with dieStep := 14 })] })] }, []⟩;
      let u : Nat := 4; let cell : Nat := 63; let q : CondMark := ⟨10, 0⟩;
      let j : JobCtx := { jobStep 14 with dies := [((agHl 0).subject 4, { DieJob.init with dieStep := 14 })] }; let r : SelRates := rates1;
      let a := s.agg;
        a.served = true ∧ tabGet a.hlt.condStep (64 * u + cell) = some q ∧ a.job q.ctx = some j ∧ j.rates = some r
        ∧ q.step + r.suspectHold ≤ j.dieStep (a.subject u) ∧ u < 512 ∧ cell < 64) := by
  repeat' apply And.intro
  all_goals decide +kernel

theorem test_clauses_ScansCalibrationsAndSensors :
    (let s : State := ⟨duOn, { agOn with tc := tcU (0) (100000000) }, []⟩; let a := s.agg;
        a.served = true ∧ a.pwr.calFanout + 100000000 ≤ a.mono)
    ∧ (let s : State := ⟨duOn, { agOn with tc := tcU (0) (10000000) }, []⟩; let a := s.agg;
        a.served = true ∧ a.pwr.calBridge + 10000000 ≤ a.mono)
    ∧ (let s : State := ⟨duOn, { agOn with tc := tcU (0) (1000000000) }, []⟩; let a := s.agg;
        a.served = true ∧ a.pwr.calSensor + 1000000000 ≤ a.mono)
    ∧ (let s : State := ⟨duOn, agOn.modPwr fun p => { p with hot := [0] }, []⟩; let t0 : Int := 1840; let a := s.agg;
        1840 ≤ t0 ∧ 0 ∈ a.pwr.hot ∧ a.pwr.thermtrip = false ∧ a.pwr.shed = false) := by
  repeat' apply And.intro
  all_goals decide +kernel

theorem test_clauses_FatalEventsResetsAndBoot :
    (let code : Nat := hcBridgeFatal; let reason : Nat := reasonOther;
        code = hcBridgeFatal ∧ reason = reasonOther)
    ∧ (let s : State := ⟨duOn, { agPend hcMemUe 0 199999 with toc := tocQ }, []⟩; let code : Nat := hcMemUe; let reason : Nat := 1;
      let t : Nat := 0; let a := s.agg;
        a.hlt.resetPending = some (code, reason, t) ∧ a.announced = false ∧ a.mono < t + 200000)
    ∧ (let s : State := ⟨duOn, { agOn with tc := tcU (0) (86400000000000) }, []⟩; let n : Nat := 7; let a := s.agg;
        n < 8 ∧ storeGet 0 a.pwr.scrub n + 86400000000000 ≤ a.mono)
    ∧ (let s : State := ⟨duOn, { { agOn with boot := .resync 0 } with tc := tcU (0) (9999999999) }, []⟩; let a := s.agg;
        a.boot = .resync 0 ∧ a.mono < 0 + 10000000000)
    ∧ (let s : State := ⟨duOn, { { agOn with boot := .resync 0 } with tc := tcU (0) (10000000000) }, []⟩; let a := s.agg;
        a.boot = .resync 0 ∧ 0 + 10000000000 ≤ a.mono)
    ∧ (let s : State := ⟨duOn, agOn, []⟩; let a := s.agg;
        a.boot = .ready) := by
  repeat' apply And.intro
  all_goals decide +kernel

theorem test_clauses_RunsEndAsTheTableOfFaultsSays :
    (let s : State := ⟨duOn, agI, []⟩; let c : Nat := 0; let i : Insn := { word0 with imm := 0x400000 }; let r : Run := run0;
      let k := s.agg.core c; let addr := (k.xr i.a + BitVec.ofInt 64 i.imm).toNat;
        ready s.agg c r ∧ i.d < 64 ∧ i.a < 64 ∧ i.b < 64 ∧ i.rsv = false ∧ addr % 8 = 0 ∧ s.agg.runOk r true .seq addr 8 = false) := by
  repeat' apply And.intro
  all_goals decide +kernel

theorem test_clauses_ComparisonsSelectionsAndSums :
    (let s : State := ⟨duOn, agOn.setCore 0 coreM, []⟩; let c : Nat := 0; let i : Insn := { word0 with d := 62, e := true, m := 1 };
      let r : Run := run0; let k := s.agg.core c; let st := k.ste i.e; let on (l : Nat) : Bool := (st.mr i.m).getLsbD l;
        ready s.agg c r ∧ fieldsBelow i 63 32 64 ∧ (List.range 64).all fun l => !on l)
    ∧ (let s : State := ⟨duOn, agOn.setCore 0 coreM, []⟩; let c : Nat := 0; let i : Insn := { word0 with d := 62, m := 1 }; let r : Run := run0;
      let k := s.agg.core c; let st := k.ste i.e; let on (l : Nat) : Bool := (st.mr i.m).getLsbD l; let x (l : Nat) : W64 := (st.vr i.a).getD l 0;
        ready s.agg c r ∧ fieldsBelow i 63 32 64 ∧ on 63 = true ∧ (List.range 63).all fun l => !on l ∧ tyVal i.ty (x 63) ≠ .nan) := by
  repeat' apply And.intro
  all_goals decide +kernel

theorem test_clauses_LocalTimeAdvancesWithTheReference :
    (let s : State := ⟨{ duOn with tc := tcLine 1000000 }, agOn, []⟩;
        s.du.tc.lineAt + 1000000 ≤ s.du.tc.mono ∧ s.du.tc.refLost = false ∧ s.du.tc.stepReq = none) := by
  repeat' apply And.intro
  all_goals decide +kernel

theorem test_clauses_DomainsAreLostSwitchedAndServed :
    (let a : Aggregator := { agMaster with syncAt := [(0, 0)] }; let port : Nat := 0; let d : Dom := .pri; let e := 2 * port + d.code;
      let t : Nat := 0;
        a.role port d = 2 ∧ a.view.enabled d = true ∧ tabGet a.syncAt e = some t ∧ a.mono < t + a.portInterval port) := by
  repeat' apply And.intro
  all_goals decide +kernel

theorem test_clauses_PealsFireTogetherAndBecomeParcels :
    (let d : DieUnit := { duP with tc := tcAt 9 40 }; let tp : Nat := 655360; let q : Nat := 0; let rest := d.peals.filter fun p => p.tp ≠ tp;
        minOf (d.peals.map (·.tp)) = some tp ∧ d.isOn .cnt = true ∧ (∀ p ∈ rest, d.stamp q < p.tp) ∧ d.stamp q < tp)
    ∧ (let d : DieUnit := { duP with tc := tcAt 10 40 }.modCnt fun c => { c with stopped := true }; let tp : Nat := 655360; let q : Nat := 0;
      let rest := d.peals.filter fun p => p.tp ≠ tp;
        minOf (d.peals.map (·.tp)) = some tp ∧ d.isOn .cnt = true ∧ (∀ p ∈ rest, d.stamp q < p.tp) ∧ d.cnt.stopped = true)
    ∧ (let d : DieUnit := { duP with tc := tcAt 10 40 }.modCnt fun c => { c with edgeAt := some 655359 }; let tp : Nat := 655360; let q : Nat := 0;
      let rest := d.peals.filter fun p => p.tp ≠ tp;
        minOf (d.peals.map (·.tp)) = some tp ∧ d.isOn .cnt = true ∧ (∀ p ∈ rest, d.stamp q < p.tp) ∧ d.cnt.edgeAt = some 655359 ∧ 655359 < tp
        ∧ 0 < d.cntPeriod ∧ d.cnt.stretched = false ∧ d.stamp q ≤ tp + d.cntPeriod + 32768)
    ∧ (let d : DieUnit := { duP with tc := tcAt 10 40 }; let tp : Nat := 655360; let q : Nat := 0; let rest := d.peals.filter fun p => p.tp ≠ tp;
      let b : Nat := 0;
        minOf (d.peals.map (·.tp)) = some tp ∧ d.isOn .cnt = true ∧ (∀ p ∈ rest, d.stamp q < p.tp) ∧ d.cnt.stopped = false ∧ tp ≤ d.stamp q
        ∧ d.freeBank = some b)
    ∧ (let d : DieUnit := ({ duP with tc := tcAt 10 40 }.setBank 0 (bankP false)).setBank 1 (bankP true); let tp : Nat := 655360; let q : Nat := 0;
      let ps := d.peals.filter fun p => p.tp = tp; let rest := d.peals.filter fun p => p.tp ≠ tp;
        minOf (d.peals.map (·.tp)) = some tp ∧ d.isOn .cnt = true ∧ (∀ p ∈ rest, d.stamp q < p.tp) ∧ d.cnt.stopped = false ∧ tp ≤ d.stamp q
        ∧ d.freeBank = none ∧ (ps.any (·.freeze)) = false)
    ∧ (let d : DieUnit := { duP with tc := tcAt 10 40 }.modCnt fun c => { c with stopped := true }; let tp : Nat := 655360; let q : Nat := 0;
      let rest := d.peals.filter fun p => p.tp ≠ tp; let b : Nat := 0;
        minOf (d.peals.map (·.tp)) = some tp ∧ d.isOn .cnt = true ∧ (∀ p ∈ rest, d.stamp q < p.tp) ∧ tp ≤ d.stamp q ∧ d.freeBank = some b)
    ∧ (let d : DieUnit := { duP with tc := tcAt 9 40 }.modCnt fun c => { c with stopped := true }; let tp : Nat := 655360; let q : Nat := 0;
      let rest := d.peals.filter fun p => p.tp ≠ tp;
        minOf (d.peals.map (·.tp)) = some tp ∧ d.isOn .cnt = true ∧ (∀ p ∈ rest, d.stamp q < p.tp) ∧ d.stamp q < tp)
    ∧ (let p : ArmedPeal := pealL; let d : DieUnit := { duOn with peals := [p], tc := tcAt 1009 0 };
        d.peals = [p] ∧ p.light = some (655360, 1, []) ∧ d.tc.now < p.tp + max 1 p.wait * 65536000)
    ∧ (let p : ArmedPeal := pealL; let d : DieUnit := { duOn with peals := [p], tc := tcAt 1010 0 }.modCnt fun c => { c with stopped := true };
        d.peals = [p] ∧ p.light = some (655360, 1, []) ∧ p.tp + max 1 p.wait * 65536000 ≤ d.tc.now ∧ d.cnt.stopped = true ∧ d.freeBank = some 0)
    ∧ (let d : DieUnit := duOn.setBank 0 (bankP false); let b : Nat := 0; let k := d.bank b;
      let r := d.putMatrix ptPeal (if k.cstop then 32 else 512) 1 d.jobId d.jobGen (postmark k.snapT) (k.desc 1) k.samples;
        d.isOn .egr = true ∧ k.pending = true ∧ k.lightDue = false ∧ k.ids = [1] ∧ r.1 = true)
    ∧ (let x : LatchParcel := parcel0; let d : DieUnit := duOn.modCnt fun c => { c with latchQueue := [x] };
      let r := d.putMatrix ptLatch x.counters.length 2 x.job x.gen (postmark x.stop.t) x.desc (x.counters.map (fun n => storeGet 0 x.start.main n) ++ x.counters.map (fun n => storeGet 0 x.stop.main n));
        d.cnt.latchQueue = x :: [] ∧ d.isOn .egr = true ∧ r.1 = true) := by
  repeat' apply And.intro
  all_goals decide +kernel

theorem test_clauses_TraceFunnelWritesAndMarks :
    (let s : State := ⟨(mods fun t => { t with staging := [staged1] }).set TRC_STATUS_RING_FROZEN 1, agOn, []⟩; let q : Nat := 0;
      let x : Staged := staged1; let rest : List Staged := []; let d := s.du; let g := d.traceEdge q;
        (d.isOn .trc = true ∧ d.trc.sleeping = false) ∧ g.trc.staging = x :: rest ∧ g.on TRC_STATUS_RING_FROZEN = true)
    ∧ (let s : State := ⟨mods fun t => { t with pend := [.auth true false] }, agOn, []⟩; let sec : Bool := true; let prv : Bool := false;
      let d := s.du;
        d.trc.begun = false ∧ d.trc.stopped = false ∧ d.trc.pendDiscont = none ∧ d.trc.pendScale = false ∧ d.trc.pend = [.auth sec prv]) := by
  repeat' apply And.intro
  all_goals decide +kernel

theorem test_clauses_TraceAdmissionInTheOrderOfTheTable :
    (let s : State := ⟨duF [[(TRC_CTRL_EN, 1)], [(TRC_SRC_EN 2, 1)], [(TRC_CMP_CTRL_PORTS 0, 4), (TRC_CMP_CTRL_EN 0, 1)], [(TRC_CMP_LIMIT 0, 7)]], agOn, []⟩;
      let p : Nat := 2; let q : Nat := 0; let x : TracePkt := { pkt 1 with addr := 8 }; let d := s.du.traceEdge q;
        s.du.isOn .trc = true ∧ s.du.trc.sleeping = false ∧ x.kind % 4 ≠ 3 ∧ d.on TRC_CTRL_EN = true ∧ d.on (TRC_SRC_EN p) = true
        ∧ ((x.sec && !d.on TRC_AUTH_SEC_AUTH) || (x.prv && !d.on TRC_AUTH_PRIV_AUTH)) = false ∧ d.passesFilter p x = false)
    ∧ (let s : State := ⟨mods fun t => { t with staging := List.replicate 248 staged1 }, agOn, []⟩; let p : Nat := 2; let q : Nat := 0;
      let x : TracePkt := pkt 1; let d := s.du.traceEdge q; let free := 256 - d.trc.staging.length; let src := d.srcOf p;
        s.du.isOn .trc = true ∧ s.du.trc.sleeping = false ∧ x.kind % 4 ≠ 3 ∧ d.on TRC_CTRL_EN = true ∧ d.on (TRC_SRC_EN p) = true
        ∧ ((x.sec && !d.on TRC_AUTH_SEC_AUTH) || (x.prv && !d.on TRC_AUTH_PRIV_AUTH)) = false ∧ d.passesFilter p x = true
        ∧ d.on TRC_STATUS_RING_FROZEN = false ∧ d.trc.unreported src = none ∧ free ≤ 8)
    ∧ (let s : State := ⟨mods fun t => { t with staging := List.replicate 247 staged1 }, agOn, []⟩; let p : Nat := 2; let q : Nat := 0;
      let x : TracePkt := pkt 1; let d := s.du.traceEdge q; let free := 256 - d.trc.staging.length; let src := d.srcOf p; let prio := d.prioOf p;
        s.du.isOn .trc = true ∧ s.du.trc.sleeping = false ∧ x.kind % 4 ≠ 3 ∧ d.on TRC_CTRL_EN = true ∧ d.on (TRC_SRC_EN p) = true
        ∧ ((x.sec && !d.on TRC_AUTH_SEC_AUTH) || (x.prv && !d.on TRC_AUTH_PRIV_AUTH)) = false ∧ d.passesFilter p x = true
        ∧ d.on TRC_STATUS_RING_FROZEN = false ∧ d.trc.unreported src = none ∧ 8 < free ∧ free ≤ 8 + (d.reserves prio).1)
    ∧ (let s : State := ⟨mods fun t => { t with staging := List.replicate 0 staged1 }, agOn, []⟩; let p : Nat := 2; let q : Nat := 0;
      let x : TracePkt := pkt 1; let d := s.du.traceEdge q; let free := 256 - d.trc.staging.length; let src := d.srcOf p; let prio := d.prioOf p;
      let k := d.staged (d.bodyOf p x) q src prio p 4 p;
        s.du.isOn .trc = true ∧ s.du.trc.sleeping = false ∧ x.kind % 4 ≠ 3 ∧ d.on TRC_CTRL_EN = true ∧ d.on (TRC_SRC_EN p) = true
        ∧ ((x.sec && !d.on TRC_AUTH_SEC_AUTH) || (x.prv && !d.on TRC_AUTH_PRIV_AUTH)) = false ∧ d.passesFilter p x = true
        ∧ d.on TRC_STATUS_RING_FROZEN = false ∧ d.trc.unreported src = none ∧ 8 + (d.reserves prio).1 < free ∧ d.segOk (d.reserves prio).2 k = true)
    ∧ (let s : State := ⟨mods fun t => { t with segs := (List.range 64).map fun k => (k, ⟨0, 0, 0, 0, 0, [], true, 0⟩) }, agOn, []⟩;
      let p : Nat := 2; let q : Nat := 0; let x : TracePkt := pkt 1; let d := s.du.traceEdge q; let free := 256 - d.trc.staging.length;
      let src := d.srcOf p; let prio := d.prioOf p; let k := d.staged (d.bodyOf p x) q src prio p 4 p;
        s.du.isOn .trc = true ∧ s.du.trc.sleeping = false ∧ x.kind % 4 ≠ 3 ∧ d.on TRC_CTRL_EN = true ∧ d.on (TRC_SRC_EN p) = true
        ∧ ((x.sec && !d.on TRC_AUTH_SEC_AUTH) || (x.prv && !d.on TRC_AUTH_PRIV_AUTH)) = false ∧ d.passesFilter p x = true
        ∧ d.on TRC_STATUS_RING_FROZEN = false ∧ d.trc.unreported src = none ∧ 8 + (d.reserves prio).1 < free ∧ d.segOk (d.reserves prio).2 k = false) := by
  repeat' apply And.intro
  all_goals decide +kernel

theorem test_clauses_ShapingAndGates :
    (let s : State := ⟨{ duOn with fb := { FrameBuilder.init with opens := [{ open1 with ptype := ptHealth }] } }, agOn, []⟩;
      let ptype : Nat := ptHealth; let o : OpenParcel := { open1 with ptype := ptHealth }; let d := s.du;
        d.openOf ptype = some o ∧ (ptype = ptMismatch ∨ ptype = ptHealth)) := by
  repeat' apply And.intro
  all_goals decide +kernel

theorem test_clauses_SegmentsCloseAndDrain :
    (let s : State := ⟨duTrc.setPdState .trc 0, agOn, []⟩; let d := s.du;
        d.isOn .trc = false) := by
  repeat' apply And.intro
  all_goals decide +kernel

theorem test_clauses_CapturesAreCheckedAgainstTheirLength :
    (let d : DieUnit := duCap (cap1 0) 0 32766; let tag : Nat := 9; let data : List Byte := zeros 3;
        d.isOn .tcp = true ∧ tabGet d.tcp.caps tag = some (cap1 0) ∧ (cap1 0).part < 3 ∧ (1 : Nat) ≠ 3 ∧ 32768 < d.tcp.buffered + data.length)
    ∧ (let d : DieUnit := duCap (cap1 0) 0 32765; let tag : Nat := 9; let data : List Byte := zeros 3;
        d.isOn .tcp = true ∧ tabGet d.tcp.caps tag = some (cap1 0) ∧ (cap1 0).part < 3 ∧ (1 : Nat) ≠ 3 ∧ d.fb.full = false
        ∧ d.tcp.buffered + data.length ≤ 32768 ∧ 1 ≠ (cap1 0).part)
    ∧ (let d : DieUnit := duCap (cap1 0) 0 0; let tag : Nat := 9; let data : List Byte := zeros 3;
        d.isOn .tcp = true ∧ tabGet d.tcp.caps tag = some (cap1 0) ∧ (cap1 0).part < 3 ∧ d.fb.full = false ∧ d.tcp.buffered + data.length ≤ 32768
        ∧ d.partLen (com1 true) (cap1 0).part = some 4 ∧ (cap1 0).got + data.length < 4 ∧ (cap1 0).chunk.length + data.length < 32768)
    ∧ (let d : DieUnit := duCap (cap1 2) 0 0; let tag : Nat := 9; let data : List Byte := zeros 4;
        d.isOn .tcp = true ∧ tabGet d.tcp.caps tag = some (cap1 2) ∧ (cap1 2).part < 3 ∧ d.fb.full = false ∧ d.tcp.buffered + data.length ≤ 32768
        ∧ (cap1 2).part = 2 ∧ d.partLen (com1 true) 2 = some 4 ∧ (cap1 2).got + data.length = 4)
    ∧ (let d : DieUnit := duCap (cap1 0) duJob.capDeadline 0; let tag : Nat := 9;
        d.isOn .tcp = true ∧ tabGet d.tcp.caps tag = some (cap1 0) ∧ (cap1 0).part < 3 ∧ (cap1 0).begun = false
        ∧ (cap1 0).at_ + d.capDeadline ≤ d.mono)
    ∧ (let d : DieUnit := duCap { cap1 0 with begun := true } (4 * duJob.capDeadline) 0; let tag : Nat := 9;
        d.isOn .tcp = true ∧ tabGet d.tcp.caps tag = some { cap1 0 with begun := true } ∧ { cap1 0 with begun := true }.part < 3
        ∧ { cap1 0 with begun := true }.begun = true ∧ (cap1 0).at_ + 4 * d.capDeadline ≤ d.mono)
    ∧ (let d : DieUnit := (duCap (cap1 0) 0 0).set TCK_CTRL_CAP_DEADLINE 1; let tag : Nat := 9;
        d.isOn .tcp = true ∧ tabGet d.tcp.caps tag = some (cap1 0) ∧ (cap1 0).part < 3 ∧ d.mono < (cap1 0).at_ + d.capDeadline) := by
  repeat' apply And.intro
  all_goals decide +kernel

theorem test_clauses_SuppliesAndFlushWords :
    (let s : State := ⟨duFl (flush1 2 6), agOn, []⟩; let f : Flush := flush1 2 6; let d := s.du;
        d.on DU_SAG_WARN_NOW = false ∧ d.recd.flush = some f ∧ f.cause = 2)
    ∧ (let s : State := ⟨duFl (flush1 1 6), agOn, []⟩; let f : Flush := flush1 1 6; let d := s.du;
        d.on DU_SAG_WARN_NOW = false ∧ d.recd.flush = some f ∧ f.cause ≠ 2) := by
  repeat' apply And.intro
  all_goals decide +kernel

theorem test_clauses_TocsinFramesContendAndAlarmsRepeat :
    (let s : State := ⟨duToc [tocF 15] true [] 0, agOn, []⟩; let f : TocFrame := tocF 15; let rest : List TocFrame := []; let cd : Bool := true;
      let d := s.du;
        d.toc.mac.queue = f :: rest ∧ d.toc.mac.sending = true ∧ cd = true ∧ 15 ≤ f.attempts)
    ∧ (let s : State := ⟨duOn, agToc.withToc 15 { (agToc.tocView 15) with mac := { (agToc.tocView 15).mac with queue := [tocF 0], sending := true } }, []⟩;
      let k : Nat := 15; let cd : Bool := true;
        k < 16 ∧ (s.agg.tocView k).mac.sending = true ∧ cd = true)
    ∧ (let s : State := ⟨duToc [] false [alarm1 8] 10000000, agOn, []⟩; let al : Alarm := alarm1 8; let d := s.du;
        d.toc.alarms = [al] ∧ d.toc.mac.queue = [] ∧ al.lastSend + max 1 (d.get TOC_CTRL_RESEND) * 1000000 ≤ d.mono ∧ 8 ≤ al.sends) := by
  repeat' apply And.intro
  all_goals decide +kernel

theorem test_clauses_TocsinFramesReceived :
    (let k : Nat := 15; let l : List Byte := (tocBytes tocBroadcast 5 5 []); let rxd : List Bool := onLine (tocBytes tocBroadcast 5 5 []);
        tocHeard rxd = some l ∧ (tocType l = 0 ∨ 5 ≤ tocType l ∧ tocType l ≤ 0x7F) ∧ k < 16)
    ∧ (let s : State := ⟨{ duToc [] false [] 50000000 with toc := { (duToc [] false [] 0).toc with beaconAt := some 0 } }, agOn, []⟩;
      let t : Nat := 0; let d := s.du;
        d.toc.beaconAt = some t ∧ t + 50000000 ≤ d.mono)
    ∧ (let s : State := ⟨duHome, agOn, []⟩; let l : List Byte := homeBytes tocChipReset; let rxd : List Bool := onLine (homeBytes tocChipReset);
      let d := s.du;
        tocHeard rxd = some l ∧ (d.tocView.receive l).1 = true ∧ tocType l = tocChipReset ∧ (d.withToc (d.tocView.receive l).2).fromHome l = true
        ∧ d.get DU_ASSIGN_SERVING = 1 ∧ d.ctl.partnerId < 0xFFFF)
    ∧ (let s : State := ⟨duOn, agToc.modHlt fun h => { h with alarms := [zeros 28] }, []⟩; let k : Nat := 15; let l : List Byte := alarmBytes;
      let rxd : List Bool := onLine alarmBytes;
        k < 16 ∧ tocHeard rxd = some l ∧ ((s.agg.tocView k).receive l).1 = true ∧ tocType l = tocAlarm ∧ 28 ≤ (tocPayload l).length
        ∧ (∃ p, p ∈ s.agg.hlt.alarms ∧ p.take 8 = (tocPayload l).take 8))
    ∧ (let s : State := ⟨duOn, agToc, []⟩; let k : Nat := 15; let l : List Byte := tocBytes 0 5 0x80 [];
      let rxd : List Bool := onLine (tocBytes 0 5 0x80 []);
        k < 16 ∧ tocHeard rxd = some l ∧ ((s.agg.tocView k).receive l).1 = true ∧ 0x80 ≤ tocType l) := by
  repeat' apply And.intro
  all_goals decide +kernel

theorem test_clauses_SynchronisationInstructionsAct :
    (let s : State := ⟨duOn, agS, []⟩; let c : Nat := 0; let i : Insn := word0; let r : Run := run0; let n : Instance := inst0; let b : Nat := 5;
      let m : Nat := 7; let cyc : Nat := 0; let now := s.agg.mono / 40 * 64 + cyc; let y := s.agg.arrive b c r.ctx now;
        ready s.agg c r ∧ fieldsBelow i 64 64 64 ∧ s.agg.inst r.inst = some n ∧ 0 ≤ i.imm ∧ n.barriers[i.imm.toNat]? = some b
        ∧ n.sems[i.imm.toNat]? = some m ∧ r.moves = [] ∧ y.1 = none)
    ∧ (let s : State := ⟨duOn, { agS with regs := (agF [[(BAR_MASK_MASK 5, 2)], [(SEM_CFG_SYS 7, 0)]]).regs }, []⟩; let c : Nat := 0;
      let i : Insn := word0; let r : Run := run0; let n : Instance := inst0; let b : Nat := 5; let m : Nat := 7; let cyc : Nat := 0;
      let now := s.agg.mono / 40 * 64 + cyc; let y := s.agg.arrive b c r.ctx now;
        ready s.agg c r ∧ fieldsBelow i 64 64 64 ∧ s.agg.inst r.inst = some n ∧ 0 ≤ i.imm ∧ n.barriers[i.imm.toNat]? = some b
        ∧ n.sems[i.imm.toNat]? = some m ∧ r.moves = [] ∧ y.1 = some syncNotMember)
    ∧ (let s : State := ⟨duOn, { agS.setCore 0 (coreR moveR) with mem := [] }, []⟩; let c : Nat := 0; let i : Insn := word0; let r : Run := moveR;
      let n : Instance := inst0; let b : Nat := 5; let m : Nat := 7;
        ready s.agg c r ∧ fieldsBelow i 64 64 64 ∧ s.agg.inst r.inst = some n ∧ 0 ≤ i.imm ∧ n.barriers[i.imm.toNat]? = some b
        ∧ n.sems[i.imm.toNat]? = some m ∧ r.moves ≠ [])
    ∧ (let s : State := ⟨duOn, agS, []⟩; let c : Nat := 0; let i : Insn := { word0 with a := 0 }; let r : Run := run0; let n : Instance := inst0;
      let b : Nat := 5; let m : Nat := 7; let cyc : Nat := 0; let k := s.agg.core c; let now := s.agg.mono / 40 * 64 + cyc;
      let x := (k.xr i.a).toNat; let y := s.agg.semWait m x (k.xr i.b).toNat (4 * c) i.d (k.pc + 1) r.ctx now;
        ready s.agg c r ∧ fieldsBelow i 64 64 64 ∧ s.agg.inst r.inst = some n ∧ 0 ≤ i.imm ∧ n.barriers[i.imm.toNat]? = some b
        ∧ n.sems[i.imm.toNat]? = some m ∧ y.1 = some syncOk)
    ∧ (let s : State := ⟨duOn, agS.setCore 0 { coreR run0 with x := [(2, 1)] }, []⟩; let c : Nat := 0; let i : Insn := word0; let r : Run := run0;
      let n : Instance := inst0; let b : Nat := 5; let m : Nat := 7; let cyc : Nat := 0; let k := s.agg.core c;
      let now := s.agg.mono / 40 * 64 + cyc; let x := (k.xr i.a).toNat;
      let y := s.agg.semWait m x (k.xr i.b).toNat (4 * c) i.d (k.pc + 1) r.ctx now;
        ready s.agg c r ∧ fieldsBelow i 64 64 64 ∧ s.agg.inst r.inst = some n ∧ 0 ≤ i.imm ∧ n.barriers[i.imm.toNat]? = some b
        ∧ n.sems[i.imm.toNat]? = some m ∧ y.1 = none) := by
  repeat' apply And.intro
  all_goals decide +kernel

theorem test_clauses_ExactDotInstructions :
    (let s : State := ⟨duOn, agR.set AUD_XDE_MASK 1, []⟩; let c : Nat := 0; let i : Insn := { word0 with d := 63 }; let r : Run := run0;
        ready s.agg c r ∧ fieldsBelow i 64 32 64 ∧ s.agg.inMask c = true) := by
  repeat' apply And.intro
  all_goals decide +kernel

theorem test_clauses_TheDelayExchange :
    (let d : DieUnit := { duOn with regs := timeRegs, tc := vx.tc }; let s : State := ⟨d, agOn, []⟩; let r := s.du.view.delayReqTx 0 .pri;
        vx.domOf msg9.domain = some .pri ∧ r.isSome = true) := by
  repeat' apply And.intro
  all_goals decide +kernel

theorem test_clauses_NamedDumpsStreamInBlocks :
    (let s : State := ⟨{ duDump (some (dumpR true)) 0 with fb := { FrameBuilder.init with full := true } }, agOn, []⟩;
      let r : DumpRun := dumpR true; let d := s.du;
        d.isOn .tcp = true ∧ d.tcp.run = some r ∧ r.streaming = true ∧ d.fb.full = true) := by
  repeat' apply And.intro
  all_goals decide +kernel

theorem test_clauses_TheRecorderWritesItsRing :
    (let s : State := ⟨duOn, agOn, []⟩; let i : Nat := 3; let a := s.agg;
        tabGet a.recd.buckets i = none) := by
  repeat' apply And.intro
  all_goals decide +kernel

theorem test_clauses_TileAndSketchInstructions :
    (let s : State := ⟨duOn, agK, []⟩; let c : Nat := 0; let i : Insn := { word0 with d := 3, ty := tyBf16, imm := 32 }; let r : Run := run0;
      let k := s.agg.core c; let w := tySize i.ty; let pa := (k.xr i.a).toNat; let pb := (k.xr i.b).toNat; let n := i.imm.toNat;
        ready s.agg c r ∧ fieldsBelow i 4 64 64 ∧ (i.ty = tyBf16 ∨ i.ty = tyE4m3 ∨ i.ty = tyE5m2) ∧ 0 ≤ i.imm ∧ i.imm ≤ 65536 ∧ i.imm % 32 = 0
        ∧ pa % w = 0 ∧ pb % w = 0 ∧ s.agg.runOk r false .ste pa (32 * n * w) = true ∧ s.agg.runOk r false .ste pb (32 * n * w) = true
        ∧ s.agg.poisoned pa (32 * n * w) = false ∧ s.agg.poisoned pb (32 * n * w) = false)
    ∧ (let s : State := ⟨duOn, agK, []⟩; let c : Nat := 0; let i : Insn := { word0 with d := 3, ty := tyFp32 }; let r : Run := run0;
      let k := s.agg.core c; let pa := (k.xr i.a).toNat;
        ready s.agg c r ∧ fieldsBelow i 4 64 64 ∧ i.ty = tyFp32 ∧ pa % 4 = 0 ∧ s.agg.runOk r true .ste pa 4096 = true)
    ∧ (let s : State := ⟨duOn, agR, []⟩; let c : Nat := 0; let i : Insn := word0; let r : Run := run0; let k := s.agg.core c;
      let p := (k.xr i.a).toNat;
        ready s.agg c r ∧ fieldsBelow i 32 32 32 ∧ p % 8 = 0 ∧ s.agg.runOk r false .ste p 144 = true ∧ s.agg.poisoned p 144 = false
        ∧ readSketch (memBytes s.agg.mem p 144) = none)
    ∧ (let s : State := ⟨duOn, agOn.setCore 0 { coreR run0 with x := [(2, 1)] }, []⟩; let c : Nat := 0; let i : Insn := word0; let r : Run := run0;
      let k := s.agg.core c; let p := (k.xr i.a).toNat;
        ready s.agg c r ∧ fieldsBelow i 32 32 32 ∧ p % 8 ≠ 0)
    ∧ (let s : State := ⟨duOn, agK, []⟩; let c : Nat := 0; let i : Insn := word0; let r : Run := run0; let k := s.agg.core c;
      let p := (k.xr i.a).toNat;
        ready s.agg c r ∧ fieldsBelow i 32 32 32 ∧ p % 8 = 0 ∧ s.agg.runOk r false .ste p 144 = true ∧ s.agg.poisoned p 144 = false
        ∧ readSketch (memBytes s.agg.mem p 144) = some (1, 4, [(1, 0)]) ∧ s.agg.runOk r false .ste p (sketchLen 1 4) = true
        ∧ s.agg.poisoned p (sketchLen 1 4) = false ∧ s.agg.runOk r true .ste p 144 = true ∧ s.agg.runOk r true .ste p (sketchLen 1 4) = true)
    ∧ (let s : State := ⟨duOn, agK, []⟩; let c : Nat := 0; let i : Insn := word0; let r : Run := run0; let k := s.agg.core c;
      let p := (k.xr i.a).toNat; let q := (k.xr i.b).toNat;
        ready s.agg c r ∧ fieldsBelow i 32 32 32 ∧ p % 8 = 0 ∧ s.agg.runOk r false .ste p 8232 = true ∧ s.agg.poisoned p 8232 = false
        ∧ s.agg.runOk r true .ste p 8232 = true ∧ q % 8 = 0 ∧ s.agg.runOk r false .ste q 8232 = true ∧ s.agg.poisoned q 8232 = false
        ∧ histBase (memBytes s.agg.mem p 8) ≠ histBase (memBytes s.agg.mem q 8)) := by
  repeat' apply And.intro
  all_goals decide +kernel

theorem test_clauses_MoverEventOutputAndBroadcastInstructions :
    (let s : State := ⟨duOn, agR, []⟩; let c : Nat := 0; let i : Insn := word0; let r : Run := run0; let k := s.agg.core c;
      let addr := (k.xr i.a).toNat;
        ready s.agg c r ∧ fieldsBelow i 64 64 64 ∧ addr % 8 = 0 ∧ s.agg.runOk r false .seq addr 24 = true ∧ s.agg.poisoned addr 24 = false
        ∧ s.agg.findJob (le (memBytes s.agg.mem addr 24) 0 4) (le (memBytes s.agg.mem addr 24) 4 1) = none)
    ∧ (let s : State := ⟨duOn, agR, []⟩; let c : Nat := 0; let i : Insn := word0; let r : Run := run0; let k := s.agg.core c;
      let addr := (k.xr i.a).toNat; let k1 : Core := { k with pc := k.pc + 1 };
      let l := memBytes s.agg.mem addr (40 + beNat (memBytes s.agg.mem (addr + 8) 4));
      let a0 := (s.agg.touched [(addr, 40), (addr, l.length)]).setCore c k1;
        ready s.agg c r ∧ fieldsBelow i 64 64 64 ∧ s.agg.runOk r false .seq addr 40 = true ∧ s.agg.runOk r false .seq addr l.length = true
        ∧ s.agg.poisoned addr l.length = false ∧ (a0.runBcast c l).1 = false) := by
  repeat' apply And.intro
  all_goals decide +kernel

theorem test_clauses_FastDomainsWakeSleepAndReset :
    (let d : DieUnit := { duOn with tc := { TimeClient.init with winTicks := 16 } };
        16 ≤ d.tc.winTicks ∧ d.isOn .cnt = true)
    ∧ (let d : DieUnit := { duOn with tc := { TimeClient.init with winTicks := 16 } };
        16 ≤ d.tc.winTicks ∧ d.isOn .cnt = true)
    ∧ (let d : DieUnit := { duOn with tc := { TimeClient.init with winTicks := 16 } };
        16 ≤ d.tc.winTicks ∧ d.isOn .cnt = true)
    ∧ (let d : DieUnit := { duOn with tc := TimeClient.init, peals := [pealL] };
        d.peals.length = 1) := by
  repeat' apply And.intro
  all_goals decide +kernel

theorem test_clauses_BroadcastsAreAppliedAndAcknowledged :
    (let s : State := ⟨duOn, agJob (job1) (TimeClient.init), []⟩; let ctx : Nat := 0; let kind : Nat := 2; let l : List Byte := downF;
      let j : JobCtx := job1; let a := s.agg; let b := l.drop 32; let src := be l 4 4 % 4096;
        a.served = true ∧ a.served = true ∧ be b 2 1 = kind
        ∧ ((a.on ING_CTRL_EN = true ∧ a.frameCheck laneTree l = (true, a) ∧ a.job ctx = some j) ∧ a.ctxsBelow (be l 12 4) (be l 10 1) src (bit (be b 1 1) 0) = [ctx])
        ∧ be l 1 1 = ftTreeDown ∧ be b 0 1 = 1 ∧ j.applied < be b 4 4 ∧ j.bcast (be b 4 4) = none ∧ be b 8 4 ≤ 262144
        ∧ j.bparts.find? (fun p => p.seq = be b 4 4) = none ∧ be b 12 4 = 0 ∧ (slice b 32 (be b 16 2)).length = be b 8 4)
    ∧ (let s : State := ⟨duOn, agJob (jobB (bc 2 [(30, 0, 0)] [] false false)) (tcU 0 (max 1 (agUp.get TREE_TIMING_BC_RETRY) * 1000)), []⟩;
      let ctx : Nat := 0; let bseq : Nat := 3; let child : Nat := 30; let tries : Nat := 0; let at_ : Nat := 0; let backup : Bool := false;
      let j : JobCtx := jobB (bc 2 [(30, 0, 0)] [] false false); let x : Bcast := bc 2 [(30, 0, 0)] [] false false; let a := s.agg;
        a.served = true ∧ a.job ctx = some j ∧ j.bcast bseq = some x ∧ x.sends.find? (fun z => z.1 = child) = some (child, tries, at_)
        ∧ (a.below ctx j).find? (fun z => z.1 = child) = some (child, backup) ∧ tabGet x.acked child = none
        ∧ tries < max 1 (a.get TREE_TIMING_BC_TRIES) ∧ at_ + max 1 (a.get TREE_TIMING_BC_RETRY) * 1000 ≤ a.mono)
    ∧ (let s : State := ⟨duOn, agJob (jobB (bc 2 [] [(30, [])] false false)) (TimeClient.init), []⟩; let ctx : Nat := 0; let bseq : Nat := 3;
      let child : Nat := 30; let j : JobCtx := jobB (bc 2 [] [(30, [])] false false); let x : Bcast := bc 2 [] [(30, [])] false false;
      let a := s.agg;
        a.served = true ∧ a.job ctx = some j ∧ j.bcast bseq = some x ∧ (tabGet x.acked child).isSome = true)
    ∧ (let s : State := ⟨duOn, agJob ({ job1 with gapSince := some 0 }) (tcU 0 (max 1 (agUp.get TREE_TIMING_BC_GAP_WAIT) * 1000)), []⟩;
      let ctx : Nat := 0; let t : Nat := 0; let j : JobCtx := { job1 with gapSince := some 0 }; let a := s.agg;
        a.served = true ∧ a.job ctx = some j ∧ j.gapSince = some t ∧ t + max 1 (a.get TREE_TIMING_BC_GAP_WAIT) * 1000 ≤ a.mono)
    ∧ (let s : State := ⟨duOn, agJob (jobB (bc 2 [] [] false false)) (TimeClient.init), []⟩; let ctx : Nat := 0; let backup : Bool := false;
      let l : List Byte := akF 3 3; let j : JobCtx := jobB (bc 2 [] [] false false); let x : Bcast := bc 2 [] [] false false; let a := s.agg;
      let b := l.drop 32; let src := be l 4 4 % 4096;
        a.served = true
        ∧ ((a.on ING_CTRL_EN = true ∧ a.frameCheck laneTree l = (true, a) ∧ a.job ctx = some j) ∧ a.ctxsAbove (be l 12 4) (be l 10 1) src = [ctx])
        ∧ be l 1 1 = ftTreeAck ∧ be b 0 1 = 3 ∧ (a.below ctx j).find? (fun z => z.1 = src) = some (src, backup) ∧ j.bcasts = [x] ∧ be b 4 4 ≤ x.bseq
        ∧ x.bseq ≤ be b 4 4)
    ∧ (let s : State := ⟨duOn, agJob (jobB (bc 2 [] [] false false)) (TimeClient.init), []⟩; let ctx : Nat := 0; let l : List Byte := akF 3 2;
      let j : JobCtx := jobB (bc 2 [] [] false false); let x : Bcast := bc 2 [] [] false false; let a := s.agg; let b := l.drop 32;
      let src := be l 4 4 % 4096;
        a.served = true
        ∧ ((a.on ING_CTRL_EN = true ∧ a.frameCheck laneTree l = (true, a) ∧ a.job ctx = some j) ∧ a.ctxsAbove (be l 12 4) (be l 10 1) src = [ctx])
        ∧ be l 1 1 = ftTreeAck ∧ be b 0 1 = 3 ∧ j.bcasts = [x] ∧ be b 4 4 < x.bseq)
    ∧ (let s : State := ⟨duOn, agJob (job1) (TimeClient.init), []⟩; let ctx : Nat := 0; let l : List Byte := akF 1 3; let j : JobCtx := job1;
      let a := s.agg; let b := l.drop 32; let src := be l 4 4 % 4096;
        a.served = true
        ∧ ((a.on ING_CTRL_EN = true ∧ a.frameCheck laneTree l = (true, a) ∧ a.job ctx = some j) ∧ a.ctxsAbove (be l 12 4) (be l 10 1) src = [ctx])
        ∧ be l 1 1 = ftTreeAck ∧ be b 0 1 = 1 ∧ j.bcast (be b 4 4) = none)
    ∧ (let s : State := ⟨duOn, agJob (jobB (bc 2 [] [] false false)) (TimeClient.init), []⟩; let ctx : Nat := 0; let l : List Byte := akF 1 3;
      let j : JobCtx := jobB (bc 2 [] [] false false); let x : Bcast := bc 2 [] [] false false; let a := s.agg; let b := l.drop 32;
      let src := be l 4 4 % 4096;
        a.served = true
        ∧ ((a.on ING_CTRL_EN = true ∧ a.frameCheck laneTree l = (true, a) ∧ a.job ctx = some j) ∧ a.ctxsAbove (be l 12 4) (be l 10 1) src = [ctx])
        ∧ be l 1 1 = ftTreeAck ∧ be b 0 1 = 1 ∧ j.bcast (be b 4 4) = some x ∧ x.applied = false ∧ bit (be b 1 1) 0 = false)
    ∧ (let s : State := ⟨duOn, agJob (jobB (bc 2 [] [] false false)) (TimeClient.init), []⟩; let ctx : Nat := 0; let bseq : Nat := 3;
      let j : JobCtx := jobB (bc 2 [] [] false false); let x : Bcast := bc 2 [] [] false false; let a := s.agg;
        a.served = true ∧ a.job ctx = some j ∧ j.bcast bseq = some x ∧ (j.tree.level ≠ 0 ∨ x.reported = true))
    ∧ (let s : State := ⟨duOn, agJob (jobRoot) (tcU 0 agUp.doneWait), []⟩; let ctx : Nat := 0; let bseq : Nat := 3; let j : JobCtx := jobRoot;
      let x : Bcast := bc 2 [] [] false false; let a := s.agg;
        a.served = true ∧ a.job ctx = some j ∧ j.bcast bseq = some x ∧ j.tree.level = 0 ∧ ctx < 1024 ∧ x.reported = false
        ∧ x.issued + a.doneWait ≤ a.mono)
    ∧ (let s : State := ⟨duOn, { agJob (jobQ .retiring) (tcU 0 (10 ^ 12)) with hif := { agOn.hif with commands := [cmd (.drain 0)] } }, []⟩;
      let ctx : Nat := 0; let j : JobCtx := jobQ .retiring; let c : Machine.Command := cmd (.drain 0); let a := s.agg;
        a.served = true ∧ a.served = true ∧ a.hif.commands.find? (fun y => decide (y.wait = .drain ctx)) = some c ∧ a.job ctx = some j
        ∧ j.dieUnits = [] ∧ (a.retireDrain ctx).1 = true)
    ∧ (let s : State := ⟨duOn, agJob (jobQ .quarantine) (tcU 0 99), []⟩; let ctx : Nat := 0; let j : JobCtx := jobQ .quarantine; let a := s.agg;
        a.served = true ∧ a.job ctx = some j ∧ (j.state ≠ .quarantine ∨ a.mono < j.quarEnd))
    ∧ (let s : State := ⟨duOn, agJob (jobQ .quarantine) (tcU 0 100), []⟩; let ctx : Nat := 0; let j : JobCtx := jobQ .quarantine; let a := s.agg;
        a.served = true ∧ a.job ctx = some j ∧ j.state = .quarantine ∧ j.quarEnd ≤ a.mono) := by
  repeat' apply And.intro
  all_goals decide +kernel

theorem test_clauses_CapsulesDmaChannelsAndBufferPools :
    (let s : State := ⟨duOn, agCap (capOut 3 7) 0, []⟩; let src : Nat := 6; let l : List Byte := zeros 87; let a := s.agg;
        a.oobServed = true ∧ (l.length ≠ 88 ∨ src ≠ a.cfg.oobCtl))
    ∧ (let s : State := ⟨duOn, agCap (capOut 3 7) 0, []⟩; let src : Nat := 6; let l : List Byte := caps 1 3 64 (zeros 64); let a := s.agg;
        a.oobServed = true ∧ l.length = 88 ∧ src = a.cfg.oobCtl ∧ be l 0 1 = 1 ∧ be l 1 1 = 1 ∧ be l 16 2 = l.length - 24 ∧ be l 16 2 ≤ 1400
        ∧ be l 4 4 ∈ a.hif.capsSeen)
    ∧ (let s : State := ⟨duOn, agCap (capOut 3 7) 0, []⟩; let src : Nat := 6; let l : List Byte := caps 1 2 64 (zeros 64); let a := s.agg;
        a.oobServed = true ∧ l.length = 88 ∧ src = a.cfg.oobCtl ∧ be l 0 1 = 1 ∧ be l 1 1 = 1 ∧ be l 16 2 = l.length - 24 ∧ be l 16 2 ≤ 1400
        ∧ be l 4 4 ∉ a.hif.capsSeen)
    ∧ (let s : State := ⟨duOn, agCap (capOut 3 7) 0, []⟩; let src : Nat := 6; let l : List Byte := caps 2 2 1400 (zeros 1400); let a := s.agg;
        a.oobServed = true ∧ 24 ≤ l.length ∧ src = a.cfg.oobCtl ∧ be l 0 1 = 1 ∧ be l 1 1 = 2 ∧ be l 16 2 = l.length - 24 ∧ be l 16 2 ≤ 1400
        ∧ be l 4 4 ∉ a.hif.capsSeen ∧ a.hif.mgmtBytes + (l.length - 24) ≤ 16777216)
    ∧ (let s : State := ⟨duOn, agCap (capOut 3 7) 0, []⟩; let src : Nat := 6; let l : List Byte := caps 6 4 0 []; let a := s.agg;
        a.oobServed = true ∧ src = a.cfg.oobCtl ∧ l.length = 24 ∧ be l 0 1 = 1 ∧ be l 1 1 = 6)
    ∧ (let s : State := ⟨duOn, agCap (capOut 3 7) 9999999, []⟩; let mseq : Nat := 4; let c : CapsuleOut := capOut 3 7; let a := s.agg;
        a.oobServed = true ∧ a.hif.capsOut.find? (fun y => y.mseq = mseq) = some c ∧ a.mono < c.lastSent + 10000000)
    ∧ (let s : State := ⟨duOn, agCap (capOut 3 8) 10000000, []⟩; let mseq : Nat := 4; let c : CapsuleOut := capOut 3 8; let a := s.agg;
        a.oobServed = true ∧ a.hif.capsOut.find? (fun y => y.mseq = mseq) = some c ∧ c.lastSent + 10000000 ≤ a.mono ∧ 8 ≤ c.tries ∧ c.kind ≠ 5)
    ∧ (let s : State := ⟨duOn, agCap (capOut 5 8) 10000000, []⟩; let mseq : Nat := 4; let c : CapsuleOut := capOut 5 8; let a := s.agg;
        a.oobServed = true ∧ a.hif.capsOut.find? (fun y => y.mseq = mseq) = some c ∧ c.lastSent + 10000000 ≤ a.mono ∧ (c.tries < 8 ∨ c.kind = 5))
    ∧ (let s : State := ⟨duOn, agDma dmaDone 0, []⟩; let n : Nat := 7; let m : Nat := 1; let a := s.agg; let st := a.get (DMA_STAT_STATE n);
        bits m 1 0 = 1 ∧ (st = dmaIdle ∨ st = dmaDone ∨ st = dmaError) ∧ n < 8)
    ∧ (let s : State := ⟨duOn, agDma dmaRunning 0, []⟩; let n : Nat := 7; let m : Nat := 2; let a := s.agg; let st := a.get (DMA_STAT_STATE n);
        bits m 1 0 = 2 ∧ st = dmaRunning)
    ∧ (let s : State := ⟨duOn, agDma dmaRunning 32, []⟩; let n : Nat := 7; let d : DmaDesc := dd 32; let a := s.agg;
      let st := a.get (DMA_STAT_STATE n);
        n < 8 ∧ tabGet a.hif.dma n = some d ∧ st = dmaRunning ∧ a.dmaLimit d = d.len ∧ bit d.flags 4 = false ∧ bit d.flags 5 = true)
    ∧ (let s : State := ⟨duOn, agDma dmaRunning 0, []⟩; let n : Nat := 7; let d : DmaDesc := dd 0; let a := s.agg;
      let st := a.get (DMA_STAT_STATE n);
        tabGet a.hif.dma n = some d ∧ st = dmaRunning ∧ a.dmaLimit d = d.len ∧ bit d.flags 4 = false ∧ bit d.flags 5 = false)
    ∧ (let s : State := ⟨duOn, agDma dmaRunning 0, []⟩; let n : Nat := 7; let moved : Nat := 31; let d : DmaDesc := dd 0; let a := s.agg;
      let st := a.get (DMA_STAT_STATE n);
        tabGet a.hif.dma n = some d ∧ st = dmaRunning ∧ a.dmaLimit d = d.len ∧ moved < d.len)
    ∧ (let s : State := ⟨duOn, agOn, []⟩; let pool : Nat := 3; let next : Nat := 9; let actor : Nat := 0x2FFF; let m : Nat := opW 1 3 9 0x2FFF;
      let a := s.agg;
        bits m 63 60 = 1 ∧ bits m 55 44 = pool ∧ bits m 31 16 = next ∧ bits m 15 0 = actor ∧ a.poolOn pool = false)
    ∧ (let s : State := ⟨duOn, agPool, []⟩; let pool : Nat := 3; let next : Nat := 9; let actor : Nat := 0x1FFF; let m : Nat := opW 1 3 9 0x1FFF;
      let a := s.agg;
        bits m 63 60 = 1 ∧ bits m 55 44 = pool ∧ bits m 31 16 = next ∧ bits m 15 0 = actor ∧ a.poolOn pool = true ∧ (actor < 0x2000 ∨ 0x2FFF < actor))
    ∧ (let s : State := ⟨duOn, agPool, []⟩; let x : Nat := sramOf 0 + 64; let pool : Nat := 3; let next : Nat := 9; let actor : Nat := 0x2FFF;
      let m : Nat := opW 1 3 9 0x2FFF; let a := s.agg; let ph := ((a.set PH_OP_POOL pool).set PH_OP_NEW_OWNER next).set PH_OP_OWNER actor;
        bits m 63 60 = 1 ∧ bits m 55 44 = pool ∧ bits m 31 16 = next ∧ bits m 15 0 = actor ∧ a.poolOn pool = true ∧ 0x2000 ≤ actor ∧ actor ≤ 0x2FFF
        ∧ (ph.poolAlloc pool next false).1 = some x)
    ∧ (let s : State := ⟨duOn, agPool, []⟩; let pool : Nat := 3; let a := s.agg;
        a.poolOn pool = true ∧ lowestFree (a.pool pool).owners 0 < a.get (PH_CFG_COUNT pool) ∧ a.atLevel2 pool = false)
    ∧ (let s : State := ⟨duOn, agPool, []⟩; let x : Nat := 0; let pool : Nat := 3; let actor : Nat := 0x2002; let buf : Nat := sramOf 0;
      let a := s.agg;
        a.poolOn pool = true ∧ a.bufNumber pool buf = some x ∧ (storeGet 0 (a.pool pool).owners x ≠ actor ∨ actor = 0))
    ∧ (let s : State := ⟨duOn, agPool, []⟩; let x : Nat := 0; let pool : Nat := 3; let actor : Nat := 0x2001; let buf : Nat := sramOf 0;
      let a := s.agg;
        a.poolOn pool = true ∧ a.bufNumber pool buf = some x ∧ storeGet 0 (a.pool pool).owners x = actor ∧ 0 < actor) := by
  repeat' apply And.intro
  all_goals decide +kernel

theorem test_clauses_DetectorRunsStartInOrderAndWithinBudget :
    (let s : State := ⟨duOn, { agDet (coreW run0) [] with jobs := [(0, { job1 with dieUnits := [260] })] }, []⟩; let ctx : Nat := 0;
      let j : JobCtx := { job1 with dieUnits := [260] }; let a := s.agg;
        a.served = true ∧ a.job ctx = some j ∧ j.rates = none) := by
  repeat' apply And.intro
  all_goals decide +kernel

theorem test_clauses_InterruptsSignalOnARise :
    (let a : Aggregator := (agOn.set (PG_IRQ_IRQ_EN 0x18) 1).raise HLT_STATUS_PARTNER_LOST; let old : Aggregator := agOn;
        a.jobs = [] ∧ a.hif.commands = [] ∧ a.hif.events = [] ∧ a.boot = .ready ∧ old.inFailover = false ∧ a.irq = true ∧ old.irq = false)
    ∧ (let a : Aggregator := (agOn.set (PG_IRQ_IRQ_EN 0x18) 1).raise HLT_STATUS_PARTNER_LOST; let old : Aggregator := a;
        a.jobs = [] ∧ a.hif.commands = [] ∧ a.hif.events = [] ∧ a.boot = .ready ∧ old.inFailover = false ∧ old.irq = true)
    ∧ (let a : Aggregator := agOn.modHif fun h => { h with events := [.taint []] };
        a.hif.events = [.taint []] ∧ a.paused = false) := by
  repeat' apply And.intro
  all_goals decide +kernel


end Sys2Proof.Tests
end

section ReAdmission
/-!
PROOFS. Re-admission at the home aggregator (R27, R261): what the control path to a die unit starts from, and the state that refutes O41.
-/
namespace Sys2Proof.Machine

/-- A fold whose step acts at no element of the list changes nothing. -/
theorem foldl_acts_nowhere {α β : Type} {f : α → β → α} : ∀ (ls : List β) (a : α), (∀ b, ∀ l ∈ ls, f b l = b) → ls.foldl f a = a := by
  intro ls
  induction ls with
  | nil => intro a _; rfl
  | cons x xs ih =>
    intro a h
    rw [List.foldl_cons, h a x List.mem_cons_self]
    exact ih a fun b l hl => h b l (List.mem_cons_of_mem x hl)

/-- A fold over distinct elements of a list whose step acts at one of them alone is that one step. -/
theorem foldl_acts_at {α β : Type} {f : α → β → α} {k : β} (h : ∀ b l, l ≠ k → f b l = b) :
    ∀ (ls : List β) (a : α), ls.Nodup → k ∈ ls → ls.foldl f a = f a k := by
  intro ls
  induction ls with
  | nil => intro a _ hk; cases hk
  | cons x xs ih =>
    intro a hnd hk
    obtain ⟨hx, hxs⟩ := List.nodup_cons.1 hnd
    rw [List.foldl_cons]
    rcases List.mem_cons.1 hk with rfl | hk
    · exact foldl_acts_nowhere xs _ fun b l hl => h b l fun e => hx (e ▸ hl)
    · rw [h a x fun e => hx (e ▸ hk), ih a hxs hk]

/-- The die unit of a registration entry is served by its home aggregator again, over a control path that starts from `p`. -/
def Aggregator.homeAgain (a : Aggregator) (k : Nat) (p : CtlPath) : Aggregator :=
  ((a.set (REG_ENT_STATE k) 1).setPath k p).mirrorReg k

/-- RE_ADMISSION of one die unit at its home aggregator. The new control path holds the job that the contexts have armed there, under which
its control frames go out (R261). -/
theorem Aggregator.reAdmission_home_only (a : Aggregator) (step k : Nat) (hk : k < 256) :
    a.reAdmission step true (some k)
      = if a.hlt.loop = false ∧ a.on (REG_ENT_VALID k) = true ∧ a.get (REG_ENT_STATE k) = 3 then
          a.homeAgain k { CtlPath.init with armed := a.armedOn (a.duidOf k) } else a := by
  have hmod : k % 256 = k := Nat.mod_eq_of_lt hk
  unfold Aggregator.reAdmission
  rw [foldl_acts_at (k := k) (fun b l hl => by
    simp only [hmod, Ne.symm hl, decide_false, Bool.false_eq_true, not_false_eq_true, if_true]) _ _ List.nodup_range (List.mem_range.2 hk)]
  simp only [hmod, decide_true, not_true_eq_false, if_false, if_true, Bool.not_eq_true, Aggregator.homeAgain]

/-- RE_ADMISSION where the lanes are served is the operation of the aggregator. -/
theorem exec_reAdmission_served (s : State) (step : Nat) (home : Bool) (only : Option Nat) (hs : s.agg.served = true) :
    exec (.reAdmission step home only) s = nextAgg s (s.agg.reAdmission step home only) := by
  have harm : exec (.reAdmission step home only) s = s.onUp (·.reAdmission step home only) := rfl
  rw [harm, State.onUp_served s _ hs, nextAgg]

/-- Two next states of one state are equal only where the aggregators are, with what follows the event. -/
theorem after_eq_of_nextAgg_eq {s : State} {x y : Aggregator} (h : nextAgg s x = nextAgg s y) :
    Aggregator.after s.agg x = Aggregator.after s.agg y := by
  injection h with h
  exact (State.mk.inj h).2.1

/-! ### A home aggregator that comes back while its job is armed -/

/-- The context that Arm Job binds for job 7, armed on DUID 256. -/
def armedJob : JobCtx := { Aggregator.blank.armContext 7 0 [] [] with state := .armed, dieUnits := [256] }

/-- Aggregator 1 after a chip reset: its partner 2 still serves die unit 0 of the tray, and the resync has brought the job context back (R381). -/
def homeBack : Aggregator :=
  let booted : Aggregator :=
    { Aggregator.blank with boot := .ready, cfg := { FlashConfig.empty with aggId := 1, partner := 2 }, jobs := [(0, armedJob)] }
  ((booted.set CHIP_IDENT_AGG_ID 1).set (REG_ENT_VALID 0) 1).set (REG_ENT_STATE 0) 3

/-- That aggregator beside a die unit after reset. -/
def homeBackState : State := { State.reset with agg := homeBack }

theorem homeBack_served : homeBack.served = true := rfl

theorem homeBack_serves_again :
    homeBack.hlt.loop = false ∧ homeBack.on (REG_ENT_VALID 0) = true ∧ homeBack.get (REG_ENT_STATE 0) = 3 := by decide +kernel

theorem homeBack_armedOn : homeBack.armedOn (homeBack.duidOf 0) = some (7, 0) := by decide +kernel

/-- The model's next state: the path to die unit 0 is under job 7. -/
theorem exec_reAdmission_homeBack : exec (.reAdmission 0 true (some 0)) homeBackState
    = nextAgg homeBackState (homeBack.homeAgain 0 { CtlPath.init with armed := some (7, 0) }) := by
  have hdoes := homeBack.reAdmission_home_only 0 0 (by decide)
  rw [if_pos homeBack_serves_again, homeBack_armedOn] at hdoes
  rw [exec_reAdmission_served homeBackState 0 true (some 0) homeBack_served, ← hdoes]
  rfl

/-- What follows the event leaves the job of either path as it stands. -/
theorem homeBack_after_armed :
    ((Aggregator.after homeBack (homeBack.homeAgain 0 { CtlPath.init with armed := some (7, 0) })).path 0).armed = some (7, 0)
      ∧ ((Aggregator.after homeBack (homeBack.homeAgain 0 CtlPath.init)).path 0).armed = none := by decide +kernel

/-- Refutes O41 by its last clause: RE_ADMISSION at the home aggregator starts the control path to a die unit from the job armed there, under
which its control frames go out (R261), where the clause has a path of no job. At `homeBack` the two differ. -/
theorem not_theMirrorLinkAppliesMessagesInOrder : ¬ Obligations.TheMirrorLinkAppliesMessagesInOrder := by
  unfold Obligations.TheMirrorLinkAppliesMessagesInOrder
  intro h
  obtain ⟨-, -, -, -, -, -, -, -, -, -, -, -, -, -, -, -, -, hhome⟩ :=
    h homeBackState .mirrorLinkDown [] ⟨none, [], 0, 0⟩ 0 [] 0 0 0 0 (some 0) 0 ⟨0, 0, [], 0⟩ (fun a _ => a) homeBack_served
  have claimed : exec (.reAdmission 0 true (some 0)) homeBackState = nextAgg homeBackState (homeBack.homeAgain 0 CtlPath.init) :=
    (hhome 0 (by decide) rfl).trans (congrArg _ (if_pos homeBack_serves_again))
  have same := after_eq_of_nextAgg_eq (exec_reAdmission_homeBack.symm.trans claimed)
  obtain ⟨hjob, hnone⟩ := homeBack_after_armed
  have : some (7, 0) = none := hjob.symm.trans ((congrArg (fun a => (a.path 0).armed) same).trans hnone)
  cases this

end Sys2Proof.Machine

end ReAdmission

section DomainReset
/-!
PROOFS. A domain reset beside a trace domain that powers down (R148, R472, R473): the state that refutes O20.
-/
namespace Sys2Proof.Machine

/-- DOMAIN_RESET is a privileged write of DU_RST over the port (R472). -/
theorem exec_domainReset (s : State) (doms q : Nat) :
    exec (.domainReset doms q) s = nextDu s (s.du.portWrite addr_DU_RST (doms % 16) true q) := rfl

/-- Two next states of one state are equal only where the die units are. -/
theorem nextDu_injective {s : State} {x y : DieUnit} (h : nextDu s x = nextDu s y) : x = y := by
  injection h with h
  exact (State.mk.inj h).1

/-! ### A counter reset while a frame waits for both the counter and the trace domain -/

/-- A die unit that its home aggregator 1 serves as DUID 256. Only its trace domain is on, idle for more than 100 µs. -/
def traceIdleUnit : DieUnit :=
  { ((((DieUnit.blank 0 0).set DU_ASSIGN_REGISTERED 1).set DU_ASSIGN_SERVING 1).set DU_ASSIGN_DUID 256).setPdState .trc pdOn with
    pdTrc := { DomainPower.init with idle := 100040 } }

/-- That die unit beside an aggregator after reset. -/
def traceIdleState : State := { State.reset with du := traceIdleUnit }

/-- Its trace domain has written the SLEEP packet and drains its segment before it goes off (R148). -/
def traceDrainsState : State := { traceIdleState with du := traceIdleUnit.domainSleep .trc 0 }

/-- A REG-READ of CNT_CTRL and TRC_CTRL from the home aggregator then waits: the counter domain sleeps and is woken (R263). -/
def readWaitsState : State :=
  { traceDrainsState with
    du := traceDrainsState.du.control ⟨1, 1⟩ (.regs false [⟨addr_CNT_CTRL, 0⟩, ⟨addr_TRC_CTRL, 0⟩]) }

/-- Two events of the model lead from the idle die unit to the one whose frame waits. -/
theorem readWaitsState_reached :
    exec (.domainSleep .trc 0) traceIdleState = .next traceDrainsState
      ∧ exec (.regRead ⟨1, 1⟩ [addr_CNT_CTRL, addr_TRC_CTRL]) traceDrainsState = .next readWaitsState := ⟨rfl, rfl⟩

/-- The waiting frame needs both domains; the trace domain is past its SLEEP packet, still on, and has no wake to come (R148). -/
theorem readWaits_for_both_domains :
    readWaitsState.du.ctl.held.map (fun x => (x.op.needs .cnt, x.op.needs .trc)) = [(true, true)]
      ∧ readWaitsState.du.pdState .trc = pdOn ∧ readWaitsState.du.trc.sleeping = true
      ∧ readWaitsState.du.trc.wakeAgain = false := by decide +kernel

/-- After a reset of the counter domain alone the wake causes of the waiting frame are judged again (R473), and the trace
domain now wakes again once it is off (R148). -/
theorem counterReset_wakes_trace :
    (readWaitsState.du.portWrite addr_DU_RST 1 true 0).trc.wakeAgain = true := by decide +kernel

/-- Refutes O20 by its clause on a reset of the counter domain alone, which has the trace funnel stand. R473 judges the wake causes again after
the reset. At `readWaitsState` a waiting frame is one for the trace domain too, which has written its SLEEP packet: the funnel
then notes that it wakes again. -/
theorem not_fastDomainsWakeSleepAndReset : ¬ Obligations.FastDomainsWakeSleepAndReset := by
  unfold Obligations.FastDomainsWakeSleepAndReset
  intro h
  obtain ⟨-, hresets⟩ := h
  obtain ⟨-, -, -, hcounter, -⟩ := hresets readWaitsState 0 1
  obtain ⟨e, hexec, -, -, htrc, -⟩ := hcounter rfl
  have he : readWaitsState.du.portWrite addr_DU_RST 1 true 0 = e :=
    nextDu_injective ((exec_domainReset readWaitsState 1 0).symm.trans hexec)
  obtain ⟨-, -, -, hnowake⟩ := readWaits_for_both_domains
  have hwake : readWaitsState.du.trc.wakeAgain = true := by
    rw [← htrc, ← he]
    exact counterReset_wakes_trace
  exact Bool.false_ne_true (hnowake.symm.trans hwake)

end Sys2Proof.Machine

end DomainReset

section Counters
/-!
PROOFS. The counter bank and the light set (R79, R81, R102 to R110, R118): what a counter-clock cycle does, and what the always-on domain counts.
-/
namespace Sys2Proof.Machine

/-- A fold keeps what each of its steps keeps. -/
theorem foldl_keeps {α β γ : Type} (g : α → γ) {f : α → β → α} (h : ∀ a b, g (f a b) = g a) (ls : List β) (a : α) :
    g (ls.foldl f a) = g a := by
  induction ls generalizing a with
  | nil => rfl
  | cons x xs ih => rw [List.foldl_cons, ih, h]

/-! ### A counter-clock cycle (R104, R107, R118) -/

/-- The bank at the edge of a cycle that no peal meets: the edge is stamped, the waiting changes are taken out, and the cycle lies in a command
unless one ended at the edge and none started (R60, R107, R109). -/
def DieUnit.atEdge (d : DieUnit) (i : CntInputs) : DieUnit :=
  d.modCnt fun c =>
    { c with edgeAt := some (d.stamp i.q), pend := [], inCmd := c.inCmd && (!c.edgeEnd || c.edgeStart) }

/-- The cycle that begins at the edge is counted under the freeze that then holds (R104, R118). -/
def DieUnit.countCycle (d : DieUnit) (i : CntInputs) : DieUnit :=
  if d.on CNT_STATUS_FROZEN then d.inc CNT_FROZEN_CYC else d.countAll i

/-- The strobes of the edge are over (R109). -/
def DieUnit.edgeOver (d : DieUnit) : DieUnit :=
  d.modCnt fun c => { c with edgeStart := false, edgeEnd := false, edgeImplicit := false }

theorem DieUnit.fireDue_of_no_peals {d : DieUnit} (hp : d.peals = []) (t n : Nat) (gap : Bool) : d.fireDue t gap n = d := by
  cases n with
  | zero => rfl
  | succ n => simp [DieUnit.fireDue, hp, minOf]

/-- A cycle of a bank that is off counts nothing. -/
theorem DieUnit.cntCycle_off {d : DieUnit} (hoff : d.isOn .cnt = false) (i : CntInputs) : d.cntCycle i = d := by
  simp [DieUnit.cntCycle, hoff]

/-- A cycle of a running bank that no peal meets: the waiting changes act in their order, then the cycle is counted (R107). -/
theorem DieUnit.cntCycle_on {d : DieUnit} (hon : d.isOn .cnt = true) (hp : d.peals = []) (hrun : d.cnt.stopped = false) (i : CntInputs) :
    d.cntCycle i = ((d.cnt.pend.foldl DieUnit.applyChange (d.atEdge i)).countCycle i).edgeOver := by
  unfold DieUnit.cntCycle
  simp only [hon, hrun, DieUnit.fireDue_of_no_peals hp, if_true, Bool.false_eq_true, if_false]
  rfl

/-- A frozen cycle counts itself and no counter (R118). -/
theorem DieUnit.countCycle_frozen {d : DieUnit} (hf : d.on CNT_STATUS_FROZEN = true) (i : CntInputs) :
    d.countCycle i = d.inc CNT_FROZEN_CYC := if_pos hf

theorem DieUnit.countCycle_running {d : DieUnit} (hf : d.on CNT_STATUS_FROZEN = false) (i : CntInputs) :
    d.countCycle i = d.countAll i := by
  simp [DieUnit.countCycle, hf]

/-- The edge leaves the counters, the registers and every other part as they stand. -/
@[simp] theorem DieUnit.atEdge_fields (d : DieUnit) (i : CntInputs) : (d.atEdge i).regs = d.regs ∧ (d.atEdge i).cnt.main = d.cnt.main
    ∧ (d.atEdge i).cnt.pend = [] ∧ (d.atEdge i).light = d.light ∧ (d.atEdge i).peals = d.peals ∧ (d.atEdge i).trc = d.trc
    ∧ (d.atEdge i).tcp = d.tcp := by
  simp [DieUnit.atEdge]

/-- So do the strobes that end. -/
@[simp] theorem DieUnit.edgeOver_fields (d : DieUnit) : d.edgeOver.regs = d.regs ∧ d.edgeOver.cnt.main = d.cnt.main
    ∧ d.edgeOver.cnt.pend = d.cnt.pend ∧ d.edgeOver.light = d.light ∧ d.edgeOver.peals = d.peals ∧ d.edgeOver.trc = d.trc
    ∧ d.edgeOver.tcp = d.tcp := by
  simp [DieUnit.edgeOver]

/-- A field reads as the registers have it. -/
theorem DieUnit.get_congr {d e : DieUnit} (h : d.regs = e.regs) (f : Fld) : d.get f = e.get f := by
  unfold DieUnit.get
  rw [h]

/-! ### One enabled counter -/

@[simp] theorem DieUnit.wrapped_others (d : DieUnit) (n : Nat) : (d.wrapped n).cnt = d.cnt ∧ (d.wrapped n).light = d.light
    ∧ (d.wrapped n).trc = d.trc ∧ (d.wrapped n).tcp = d.tcp ∧ (d.wrapped n).ltErr = d.ltErr ∧ (d.wrapped n).peals = d.peals := by
  simp [DieUnit.wrapped]

/-- EN = 1 with MODE and GATE zero: an enabled FREE counter that counts always (Table 4-14). -/
theorem selector_free {w : Nat} (hw : bits w 63 60 = 8) : bit w 63 = true ∧ bits w 61 60 = 0 := by
  unfold bits bit at *
  rw [Nat.testBit_eq_decide_div_mod_eq, decide_eq_true_eq]
  omega

/-- Where one counter alone is enabled, in FREE mode with GATE 00, it gains its source's amount and nothing else counts (R104, R110). -/
theorem DieUnit.countAll_single {d : DieUnit} {n w : Nat} (hsel : d.selectors = [(n, w)]) (hw : bits w 63 60 = 8) (i : CntInputs) :
    let e := d.countAll i
    (∀ m, storeGet 0 e.cnt.main m
        = if m = n then storeGet 0 d.cnt.main n + BitVec.ofNat 64 (sourceAmount d.cnt i (bits w 15 12) (bits w 11 0)) else storeGet 0 d.cnt.main m)
      ∧ e.light = d.light ∧ e.trc = d.trc ∧ e.tcp = d.tcp := by
  obtain ⟨hen, hgate⟩ := selector_free hw
  simp only [DieUnit.countAll, hsel, List.foldl_cons, List.foldl_nil, hen, hgate, decide_true, Bool.true_or, Bool.and_true, if_true]
  split
  next hstretch => simp [hstretch, sourceAmount]
  next =>
    split
    next hzero => simp [hzero]
    next => split <;> simpa [addWrap] using fun m => storeGet_set 0 d.cnt.main n m _

/-! ### The light set (R102, R103) -/

@[simp] theorem DieUnit.lightCount_others (d : DieUnit) (n a : Nat) : (d.lightCount n a).ltErr = d.ltErr ∧ (d.lightCount n a).cnt = d.cnt
    ∧ (d.lightCount n a).peals = d.peals := by
  unfold DieUnit.lightCount
  split
  · exact ⟨rfl, rfl, rfl⟩
  · simp only
    split <;> simp

/-- A light-set counter gains the amount and every other one stands (R102). -/
theorem DieUnit.lightCount_light (d : DieUnit) (n a m : Nat) :
    storeGet 0 (d.lightCount n a).light m = if m = n then storeGet 0 d.light n + BitVec.ofNat 64 a else storeGet 0 d.light m := by
  unfold DieUnit.lightCount
  split
  next hzero => simp +contextual [hzero]
  next =>
    simp only
    split <;> simpa [addWrap] using storeGet_set 0 d.light n m _

/-- What the line `n` of lt_err adds to its counter: one at a change of its level (R102). -/
def errToggle (levels was n : Nat) : Nat := b2n (bit levels n != bit was n)

/-- The counters that no lt_err line has stand. -/
theorem DieUnit.lightErr_busy (d : DieUnit) (levels : Nat) {n : Nat} (hn : n < 8) :
    storeGet 0 (d.lightErr levels).light n = storeGet 0 d.light n :=
  foldl_keeps (fun e : DieUnit => storeGet 0 e.light n)
    (fun e k => by simp only [DieUnit.lightCount_light]; rw [if_neg (by omega)]) _ d

/-- Counter 8 + n gains what the line `n` adds. The other lines have counters of their own, and the levels last seen stand until all have counted. -/
theorem DieUnit.lightErr_line (d : DieUnit) (levels : Nat) {n : Nat} (hn : n < 24) :
    storeGet 0 (d.lightErr levels).light (8 + n) = storeGet 0 d.light (8 + n) + BitVec.ofNat 64 (errToggle levels d.ltErr n) := by
  have hone : ∀ (e : DieUnit) (k : Nat),
      (storeGet 0 (e.lightCount (8 + k) (errToggle levels e.ltErr k)).light (8 + n), (e.lightCount (8 + k) (errToggle levels e.ltErr k)).ltErr)
        = (if k = n then storeGet 0 e.light (8 + n) + BitVec.ofNat 64 (errToggle levels e.ltErr n) else storeGet 0 e.light (8 + n), e.ltErr) := by
    intro e k
    rw [DieUnit.lightCount_light]
    by_cases hk : k = n
    · simp [hk]
    · simp [hk, Ne.symm hk]
  have hfold := List.foldl_hom (l := List.range 24) (init := d) (fun e : DieUnit => (storeGet 0 e.light (8 + n), e.ltErr))
    (g₁ := fun e k => e.lightCount (8 + k) (errToggle levels e.ltErr k))
    (g₂ := fun p k => (if k = n then p.1 + BitVec.ofNat 64 (errToggle levels p.2 n) else p.1, p.2)) (fun e k => (hone e k).symm)
  rw [foldl_acts_at (k := n) (fun p k hk => by simp [hk]) _ _ List.nodup_range (List.mem_range.2 hn)] at hfold
  rw [if_pos rfl] at hfold
  exact (congrArg Prod.fst hfold).symm

theorem DieUnit.lightErr_others (d : DieUnit) (levels : Nat) :
    (d.lightErr levels).ltErr = levels % 2 ^ 24 ∧ (d.lightErr levels).cnt = d.cnt ∧ (d.lightErr levels).peals = d.peals :=
  ⟨rfl, foldl_keeps DieUnit.cnt (fun e k => by simp) _ d, foldl_keeps DieUnit.peals (fun e k => by simp) _ d⟩

/-- A count that is advanced saturates at its width. -/
theorem DieUnit.get_inc_one (d : DieUnit) {f : Fld} (hf : f.fits) (top : Nat) (htop : 2 ^ (f.hi + 1 - f.lo) - 1 = top) :
    (d.inc f).get f = min top (d.get f + 1) := by
  subst htop
  exact RegFile.get_inc d.regs f 1 hf

/-! ### The statement -/

/-- Settles O21: a cycle of `cntCycle_on` in each state of the freeze, and the counts of the always-on domain. -/
theorem countersCountWhileNotFrozen : Obligations.CountersCountWhileNotFrozen := by
  unfold Obligations.CountersCountWhileNotFrozen
  refine ⟨fun s i n w => ⟨?off, ?frozen, ?counts⟩, fun s levels n => ⟨rfl, rfl, rfl, ?lines, ?overflow⟩⟩
  case off =>
    intro hoff
    exact congrArg (nextDu s) (DieUnit.cntCycle_off hoff i)
  case frozen =>
    intro hon hp hrun hpend hf
    have hcycle : s.du.cntCycle i = ((s.du.atEdge i).inc CNT_FROZEN_CYC).edgeOver := by
      rw [DieUnit.cntCycle_on hon hp hrun, hpend, List.foldl_nil, DieUnit.countCycle_frozen (d := s.du.atEdge i) hf]
    have hcount := (s.du.atEdge i).get_inc_one (f := CNT_FROZEN_CYC) ⟨by decide, by decide⟩ (2 ^ 64 - 1) (by decide)
    rw [DieUnit.get_congr (d := s.du.atEdge i) (e := s.du) (by simp)] at hcount
    exact ⟨_, congrArg (nextDu s) hcycle, by simp, (DieUnit.get_congr (by simp) _).trans hcount, by simp, by simp⟩
  case counts =>
    intro hon hp hrun hpend hf hsel hw
    have hcycle : s.du.cntCycle i = ((s.du.atEdge i).countAll i).edgeOver := by
      rw [DieUnit.cntCycle_on hon hp hrun, hpend, List.foldl_nil, DieUnit.countCycle_running (d := s.du.atEdge i) hf]
    obtain ⟨hmain, hlight, htrc, htcp⟩ := (s.du.atEdge i).countAll_single hsel hw i
    exact ⟨_, congrArg (nextDu s) hcycle, (hmain n).trans (if_pos rfl), fun m hm => (hmain m).trans (if_neg hm), hlight, htrc, htcp⟩
  case lines =>
    obtain ⟨hlevels, hcnt, hpeals⟩ := s.du.lightErr_others levels
    refine ⟨_, rfl, hlevels, fun hn => ?_, s.du.lightErr_busy levels, hcnt, hpeals⟩
    rw [s.du.lightErr_line levels hn, errToggle]
    by_cases hsame : bit levels n = bit s.du.ltErr n <;> simp [hsame, b2n]
  case overflow => exact s.du.get_inc_one ⟨by decide, by decide⟩ 65535 (by decide)

end Sys2Proof.Machine
end Counters

section CounterControl
/-!
PROOFS. Commands, latches and the counter registers (R85, R98, R105, R109 to R121, R128): what a command's edges capture, what a privileged
access of the counter domain's pages over the register port does, and what waits for the next counter-clock edge.
-/
namespace Sys2Proof.Machine

/-! ### Registers that an update leaves -/

/-- A status event of one bit changes its register and EVSEQ of its page (R459). -/
theorem RegFile.word_raise (r : RegFile) (f : Fld) {k : Nat} (hf : k ≠ f.reg) (hseq : k ≠ addr_PG_SEQ (pageOf f.reg)) :
    (r.raise f).word k = r.word k := by
  rw [RegFile.raise, RegFile.event, RegFile.incWrap, RegFile.word_set, if_neg hseq, RegFile.word_set, if_neg hf]

theorem RegFile.on_congr {r t : RegFile} {f : Fld} (h : r.word f.reg = t.word f.reg) : r.on f = t.on f := by
  unfold RegFile.on RegFile.get
  rw [h]

theorem RegFile.on_set_same (r : RegFile) {f : Fld} (hf : f.fits) (v : Nat) : (r.set f v).on f = decide (v % 2 ^ (f.hi + 1 - f.lo) ≠ 0) := by
  rw [RegFile.on, RegFile.get_set r f v hf]

/-- A one-bit status that is raised stands, as EVSEQ is another register. -/
theorem RegFile.on_raise_same (r : RegFile) {f : Fld} (hbit : f.hi = f.lo) (hf : f.hi < 64) (hseq : f.reg ≠ addr_PG_SEQ (pageOf f.reg)) :
    (r.raise f).on f = true := by
  have hset : (r.set f 1).on f = true := by
    rw [RegFile.on_set_same r ⟨Nat.le_of_eq hbit.symm, hf⟩, hbit]
    simp
  rw [← hset]
  refine RegFile.on_congr ?_
  rw [RegFile.raise, RegFile.event, RegFile.incWrap, RegFile.word_set, if_neg hseq]

/-- DU_PD is the register of the domains' states: one that keeps it keeps which domains are on (R73). -/
theorem DieUnit.isOn_congr {d e : DieUnit} (h : d.regs.word addr_DU_PD = e.regs.word addr_DU_PD) (k : FastDom) : d.isOn k = e.isOn k := by
  unfold DieUnit.isOn DieUnit.pdState DieUnit.get RegFile.get
  rw [h]

/-! ### Wakes and latches (R73, R114 to R117) -/

@[simp] theorem DieUnit.setPd_cnt (d : DieUnit) (k : FastDom) (p : DomainPower) : (d.setPd k p).cnt = d.cnt := by cases k <;> rfl

/-- A wake cause leaves the counter bank. -/
@[simp] theorem DieUnit.wake_cnt (d : DieUnit) (k : FastDom) : (d.wake k).cnt = d.cnt := by
  unfold DieUnit.wake
  split
  · simp only
    split <;> simp
  · split
    · split <;> rfl
    · simp [DieUnit.setPdState]

/-- A latch parcel, queued or dropped, leaves the counters and the end latch. -/
@[simp] theorem DieUnit.emitLatch_fields (d : DieUnit) :
    d.emitLatch.cnt.main = d.cnt.main ∧ d.emitLatch.cnt.endLatch = d.cnt.endLatch := by
  unfold DieUnit.emitLatch
  split <;> simp

/-- The end of a command whose start latch was captured, with latches enabled and not held, captures its end latch (R114). -/
theorem DieUnit.endLatchAt_captures {d : DieUnit} (htaken : d.cnt.startTaken = true) (hen : d.on CNT_CTRL_LATCH_EN = true)
    (hfree : d.on CNT_STATUS_LATCH_HELD = false) (t : Nat) :
    (d.endLatchAt t).cnt.endLatch = ⟨d.cnt.cmId, d.cnt.startLatch.cmdSeq, t, d.on CNT_STATUS_FROZEN, d.cnt.main⟩
      ∧ (d.endLatchAt t).cnt.main = d.cnt.main := by
  simp only [DieUnit.endLatchAt, htaken, hen, hfree, Bool.false_eq_true, not_false_eq_true, and_self, if_true]
  split <;> split <;> simp

/-- A change that waits is the last of those that wait, and nothing else changes (R107). -/
@[simp] theorem DieUnit.pend_fields (d : DieUnit) (x : CntChange) : (d.pend x).cnt = { d.cnt with pend := d.cnt.pend ++ [x] }
    ∧ (d.pend x).regs = d.regs ∧ (d.pend x).light = d.light ∧ (d.pend x).port = d.port := by
  simp [DieUnit.pend]

/-- A command's start while none is in progress: it advances CMD_SEQ, captures the start latch, and has the PER_CMD counters reset at the edge
(R111, R112, R114). -/
theorem DieUnit.commandStart_captures {d : DieUnit} (hon : d.isOn .cnt = true) (hidle : d.cnt.inCmd = false)
    (hen : d.on CNT_CTRL_LATCH_EN = true) (hfree : d.on CNT_STATUS_LATCH_HELD = false) (cmId q : Nat) :
    let e := d.commandStart cmId q
    let seq := (d.cnt.cmdSeq + 1) % 2 ^ 32
    e.cnt.cmdSeq = seq ∧ e.cnt.inCmd = true ∧ e.cnt.startLatch = ⟨cmId % 2 ^ 32, seq, d.stamp q, d.on CNT_STATUS_FROZEN, d.cnt.main⟩
      ∧ e.cnt.main = d.cnt.main ∧ e.light = d.light ∧ e.cnt.pend = d.cnt.pend ++ [.perCmd] := by
  simp [DieUnit.commandStart, hon, hidle, hen, hfree]

/-- The bank after an end that no start shares its cycle with (R109). -/
def CounterBank.ended (c : CounterBank) : CounterBank :=
  { c with edgeEnd := true, edgeStart := false, startTaken := false, startBlocked := false }

theorem DieUnit.commandEnd_alone {d : DieUnit} (hon : d.isOn .cnt = true) {q : Nat}
    (halone : ¬ (d.cnt.edgeStart = true ∧ d.cnt.startAt = d.stamp q)) :
    d.commandEnd q = (if d.cnt.inCmd then d.endLatchAt (d.stamp q) else d).modCnt CounterBank.ended := by
  unfold DieUnit.commandEnd
  rw [if_pos hon, if_neg halone]
  rfl

/-- In the cycle of a start the end is the explicit one of the command before (R109, R111). -/
theorem DieUnit.commandEnd_with_start {d : DieUnit} (hon : d.isOn .cnt = true) {q : Nat} (hstart : d.cnt.edgeStart = true)
    (hat : d.cnt.startAt = d.stamp q) : d.commandEnd q = d.modCnt fun c => { c with edgeEnd := true, edgeImplicit := false } := by
  unfold DieUnit.commandEnd
  rw [if_pos hon, if_pos ⟨hstart, hat⟩]

/-! ### Registers of the counter domain over the port (R98) -/

/-- An aligned address of a register that the counter domain holds. -/
def counterReg (addr : Nat) : Prop := addr % 65536 / 8 * 8 = addr ∧ domOfReg addr = some .cnt ∧ 3 ≤ addr / 4096 ∧ addr / 4096 ≤ 5

theorem counterReg_ctrl : counterReg addr_CNT_CTRL := by
  unfold counterReg
  decide

/-- Pages 0x4 and 0x5 lie in the counter domain whole. -/
theorem counterReg_of_page {addr : Nat} (hlo : 0x4000 ≤ addr) (hhi : addr < 0x6000) (haligned : addr % 8 = 0) : counterReg addr := by
  have hlight : lightReg addr = false := by
    simp only [lightReg, addr_CNT_OVF, addr_PG_SEQ, addr_PG_SEQ_RD, addr_PG_CLR_KEY, Bool.or_eq_false_iff, decide_eq_false_iff_not]
    omega
  have hpage : addr / 4096 = 4 ∨ addr / 4096 = 5 := by omega
  refine ⟨by omega, ?_, by omega, by omega⟩
  rw [domOfReg, hlight]
  rcases hpage with h | h <;> rw [h] <;> rfl

theorem counterReg_selector {n : Nat} (hn : n < 480) : counterReg (selectorAddr n) := by
  unfold selectorAddr
  split <;> exact counterReg_of_page (by omega) (by omega) (by omega)

theorem counterReg_value {n : Nat} (hn : n < 480) : counterReg (counterAddr n) := by
  unfold counterAddr
  split <;> exact counterReg_of_page (by omega) (by omega) (by omega)

theorem duPageExists_of_counterReg {addr : Nat} (h : counterReg addr) : duPageExists (addr / 4096) = true := by
  obtain ⟨-, -, hlo, hhi⟩ := h
  exact decide_eq_true (by omega)

theorem DieUnit.asleep_counterReg (d : DieUnit) {addr : Nat} (h : counterReg addr) : d.asleep addr = !d.isOn .cnt := by
  obtain ⟨-, hdom, -, -⟩ := h
  rw [DieUnit.asleep, hdom]

/-- The port answers `v` from a domain that is on. -/
def DieUnit.answers (d : DieUnit) (v : W64) : DieUnit := { d with port := { d.port with rdata := v, slept := false } }

@[simp] theorem DieUnit.answers_fields (d : DieUnit) (v : W64) : (d.answers v).cnt = d.cnt ∧ (d.answers v).regs = d.regs
    ∧ (d.answers v).port.rdata = v ∧ (d.answers v).port.slept = false := ⟨rfl, rfl, rfl, rfl⟩

/-- The port answers zero, marked asleep. -/
def DieUnit.answersAsleep (d : DieUnit) : DieUnit := { d with port := { d.port with rdata := 0, slept := true } }

/-- While the domain sleeps the port answers zero, marked asleep, and nothing changes (R98). -/
theorem DieUnit.portAccess_asleep {d : DieUnit} (hoff : d.isOn .cnt = false) {addr : Nat} (h : counterReg addr) (write : Option W64)
    (priv : Bool) (q : Nat) : d.portAccess addr write priv q = d.answersAsleep := by
  have hex := duPageExists_of_counterReg h
  have hsleep := d.asleep_counterReg h
  obtain ⟨haddr, -, -, -⟩ := h
  unfold DieUnit.portAccess
  simp [haddr, hex, hsleep, hoff, DieUnit.answersAsleep]

theorem DieUnit.portWrite_on {d : DieUnit} (hon : d.isOn .cnt = true) {addr : Nat} (h : counterReg addr) (w : Nat) (priv : Bool) (q : Nat) :
    d.portWrite addr w priv q = (d.writeReg addr (BitVec.ofNat 64 w) ⟨priv, false⟩ q (addr % 4096)).answers 0 := by
  have hsleep := d.asleep_counterReg h
  obtain ⟨haddr, -, hlo, -⟩ := h
  unfold DieUnit.portWrite DieUnit.portAccess DieUnit.access
  simp [haddr, hsleep, hon, show addr ≠ 0x38 by omega, show addr ≠ 0x30 by omega, DieUnit.answers]

theorem DieUnit.portRead_on {d : DieUnit} (hon : d.isOn .cnt = true) {addr : Nat} (h : counterReg addr) (priv : Bool) (q : Nat) :
    d.portAccess addr none priv q = (d.readReg addr ⟨priv, false⟩ q).2.answers (d.readReg addr ⟨priv, false⟩ q).1 := by
  have hsleep := d.asleep_counterReg h
  obtain ⟨haddr, -, hlo, -⟩ := h
  unfold DieUnit.portAccess DieUnit.access
  simp [haddr, hsleep, hon, show addr ≠ 0x38 by omega, DieUnit.answers]

/-! ### Selectors and counter values (R105, R128, R129) -/

theorem selectorOf_selectorAddr {n : Nat} (hn : n < 480) : selectorOf (selectorAddr n) = some n := by
  unfold selectorAddr selectorOf
  split
  · rw [if_pos (by omega)]
    congr 1
    omega
  · rw [if_neg (by omega), if_pos (by omega)]
    congr 1
    omega

theorem counterOf_counterAddr {n : Nat} (hn : n < 480) : counterOf (counterAddr n) = some n := by
  unfold counterAddr counterOf
  split
  · rw [if_pos (by omega)]
    congr 1
    omega
  · rw [if_neg (by omega), if_pos (by omega)]
    congr 1
    omega

theorem RegRow.index_outside {r : RegRow} {key : Nat} (hs : 0 < r.stride) (h : key < r.base ∨ r.base + r.count * r.stride ≤ key) :
    r.index key = none := by
  refine if_neg fun ⟨hbase, _, hcount⟩ => ?_
  rw [Nat.div_lt_iff_lt_mul hs] at hcount
  omega

theorem RegRow.index_inside {r : RegRow} {k : Nat} (hs : 0 < r.stride) (hk : k < r.count) : r.index (r.base + r.stride * k) = some k := by
  unfold RegRow.index
  rw [Nat.add_sub_cancel_left, Nat.mul_mod_right, Nat.mul_div_cancel_left k hs, if_pos ⟨Nat.le_add_right _ _, rfl, hk⟩]

/-- Pages 0x4 and 0x5 show one table of rows. -/
theorem rowsAt_counterPage {addr : Nat} (hlo : 0x4000 ≤ addr) (hhi : addr < 0x6000) :
    ∃ header, rowsAt .du (pageOf addr) = duRows04 ++ header := by
  have hpage : pageOf addr = 4 ∨ pageOf addr = 5 := by
    rw [pageOf, if_neg (by unfold indBase; omega)]
    omega
  rcases hpage with h | h <;> rw [h] <;> exact ⟨_, rfl⟩

/-- CNT_SEL has PRIV bits alone (Table 4-14). -/
theorem masksOf_selectorAddr {n : Nat} (hn : n < 480) : masksOf .du (selectorAddr n) = ⟨0xF00000000000FFFF, 0, 0⟩ := by
  have hbounds : 0x4800 ≤ selectorAddr n ∧ (selectorAddr n < 0x5080 ∨ 0x5800 ≤ selectorAddr n) ∧ selectorAddr n < 0x6000 := by
    unfold selectorAddr
    split <;> omega
  obtain ⟨hlo, hgap, hhi⟩ := hbounds
  obtain ⟨header, hrows⟩ := rowsAt_counterPage (Nat.le_trans (by decide) hlo) hhi
  rw [masksOf, rowOf, hrows]
  simp only [duRows04, List.cons_append, List.findSome?_cons]
  rw [RegRow.index_outside (by decide) (by dsimp only; omega), RegRow.index_outside (by decide) (by dsimp only; omega)]
  by_cases hlow : n < 240
  · have hin := RegRow.index_inside (r := ⟨0x4800, 8, 240, 0xF00000000000FFFF, 0, 0, 0, 0⟩) (k := n) (by decide) hlow
    rw [selectorAddr, if_pos hlow, hin]
    rfl
  · have hin := RegRow.index_inside (r := ⟨0x5800, 8, 240, 0xF00000000000FFFF, 0, 0, 0, 0⟩) (k := n - 240) (by decide) (by dsimp only; omega)
    rw [selectorAddr, if_neg hlow, RegRow.index_outside (by decide) (by dsimp only; omega), hin]
    rfl

section PrivilegedWrite
/-! A privileged write of a register that has PRIV bits alone and is no clearing key (R455, R458). -/
variable (d : DieUnit) {addr : Nat} (h : counterReg addr) (hkey : addr % 4096 ≠ 0x18) {mask : Nat} (hmask : mask ≠ 0)
  (hm : masksOf .du addr = ⟨mask, 0, 0⟩)
include h hkey hmask hm

theorem DieUnit.writeReg_selectorOf {n : Nat} (hsel : selectorOf addr = some n) (w : W64) (q k : Nat) :
    d.writeReg addr w ⟨true, false⟩ q k = d.writeSelector n w := by
  unfold DieUnit.writeReg
  simp [duPageExists_of_counterReg h, hkey, hm, hmask, hsel]

/-- The PRIV bits are merged into the word that stands. -/
theorem DieUnit.writeReg_effect (hsel : selectorOf addr = none) (w : W64) (q k : Nat) :
    d.writeReg addr w ⟨true, false⟩ q k
      = d.writeEffect addr (((d.regs.word addr).toNat &&& ((2 ^ 64 - 1) ^^^ mask)) ||| (w.toNat &&& mask)) w ⟨true, false⟩ q := by
  unfold DieUnit.writeReg
  simp [duPageExists_of_counterReg h, hkey, hm, hmask, hsel]

end PrivilegedWrite

theorem DieUnit.writeReg_selector (d : DieUnit) {n : Nat} (hn : n < 480) (w : W64) (q k : Nat) :
    d.writeReg (selectorAddr n) w ⟨true, false⟩ q k = d.writeSelector n w := by
  have hkey : selectorAddr n % 4096 ≠ 0x18 := by
    unfold selectorAddr
    split <;> omega
  exact d.writeReg_selectorOf (counterReg_selector hn) hkey (by decide) (masksOf_selectorAddr hn) (selectorOf_selectorAddr hn) w q k

theorem DieUnit.readReg_counter (d : DieUnit) {n : Nat} (hn : n < 480) (q : Nat) :
    d.readReg (counterAddr n) ⟨true, false⟩ q = d.readCounter n := by
  have h := counterReg_value hn
  unfold DieUnit.readReg
  simp [duPageExists_of_counterReg h, counterOf_counterAddr hn, DieUnit.counterRead]

/-- A counter read answers the counter's value in the view selected and leaves the bank (R128). -/
theorem DieUnit.readCounter_fields (d : DieUnit) (n : Nat) :
    (d.readCounter n).1 = d.viewValue (d.get CNT_VIEW_VIEW) n ∧ (d.readCounter n).2.cnt = d.cnt := by
  simp [DieUnit.readCounter]

/-- The selector writes that are valid, source kind by source kind (R105, Table 4-2). -/
theorem selValid_iff (w : Nat) (hw : w < 2 ^ 64) : selValid (BitVec.ofNat 64 w) = true ↔
    bits w 61 60 ≠ 3 ∧ ((bits w 15 12 = 0 ∧ bits w 11 0 < 256) ∨ (bits w 15 12 = 1 ∧ bits w 11 0 < 8)
        ∨ (bits w 15 12 = 2 ∧ bits w 11 6 = 0 ∧ (bit w 2 = true ∨ bits w 5 3 = 0)) ∨ (bits w 15 12 = 3 ∧ bits w 11 0 < 8)) := by
  have hindex : bits w 11 0 < 64 ↔ bits w 11 6 = 0 := by
    unfold bits
    omega
  have hslot : bits (bits w 11 0) 5 3 = bits w 5 3 := by
    unfold bits
    omega
  have hpos : bit (bits w 11 0) 2 = bit w 2 := by
    rw [bit, testBit_bits]
    rfl
  rw [selValid, BitVec.toNat_ofNat, Nat.mod_eq_of_lt hw]
  simp only [hslot, hpos, hindex, Bool.and_eq_true, decide_eq_true_eq]
  refine and_congr_right fun _ => ?_
  split <;> simp_all

/-- An invalid selector write only raises SEL_INVALID (R105). -/
theorem DieUnit.writeSelector_invalid {d : DieUnit} (hon : d.isOn .cnt = true) {w : W64} (hw : selValid w = false) (n : Nat) :
    d.writeSelector n w = d.raise CNT_STATUS_SEL_INVALID := by
  simp [DieUnit.writeSelector, hon, hw]

/-- A valid one waits for the edge with its defined bits (R105). -/
theorem DieUnit.writeSelector_valid {d : DieUnit} (hon : d.isOn .cnt = true) {w : W64} (hw : selValid w = true) (n : Nat) :
    d.writeSelector n w = d.pend (.sel n (w &&& 0xF00000000000FFFF)) := by
  simp [DieUnit.writeSelector, hon, hw]

/-- CNT_SEL lies above page 0x3, which holds the status and the counts of the bank. -/
theorem addr_CNT_SEL_page (n : Nat) : 0x4000 ≤ addr_CNT_SEL n := by
  unfold addr_CNT_SEL
  split <;> omega

/-- The waiting selector write takes effect at the edge; the freeze in force keeps every counter (R105, R107, R118). -/
theorem DieUnit.cntCycle_selector {d : DieUnit} (hon : d.isOn .cnt = true) (hp : d.peals = []) (hrun : d.cnt.stopped = false) {n : Nat}
    {x : W64} (hpend : d.cnt.pend = [.sel n x]) (hf : d.on CNT_STATUS_FROZEN = true) (i : CntInputs) :
    (d.cntCycle i).regs.word (addr_CNT_SEL n) = x ∧ (d.cntCycle i).cnt.main = d.cnt.main ∧ (d.cntCycle i).cnt.pend = [] := by
  have hpage := addr_CNT_SEL_page n
  have hfrozen : ((d.atEdge i).applyChange (.sel n x)).on CNT_STATUS_FROZEN = true := by
    rw [← hf]
    refine RegFile.on_congr ?_
    simp only [DieUnit.applyChange, DieUnit.atEdge_fields]
    rw [RegFile.word_setWord, if_neg (by dsimp only [addr_CNT_STATUS]; omega)]
  rw [DieUnit.cntCycle_on hon hp hrun, hpend, List.foldl_cons, List.foldl_nil, DieUnit.countCycle_frozen hfrozen]
  refine ⟨?_, by simp [DieUnit.applyChange], by simp [DieUnit.applyChange]⟩
  simp only [DieUnit.applyChange, DieUnit.edgeOver_fields, DieUnit.inc_fields, DieUnit.atEdge_fields]
  rw [RegFile.inc, RegFile.word_set, if_neg (by dsimp only [addr_CNT_FROZEN_CYC]; omega), RegFile.word_setWord, if_pos rfl]

/-! ### CNT_CTRL (R116, R118 to R121, R125) -/

theorem DieUnit.isOn_set (d : DieUnit) {f : Fld} (hf : addr_DU_PD ≠ f.reg) (v : Nat) (k : FastDom) : (d.set f v).isOn k = d.isOn k :=
  DieUnit.isOn_congr (by simp [RegFile.word_set, hf]) k

theorem DieUnit.snap_main (d : DieUnit) (q : Nat) : (d.snap q).cnt.main = d.cnt.main := by
  unfold DieUnit.snap
  split <;> simp

theorem DieUnit.snap_isOn (d : DieUnit) (q : Nat) (k : FastDom) : (d.snap q).isOn k = d.isOn k := by
  unfold DieUnit.snap
  split
  · refine DieUnit.isOn_congr ?_ k
    simp only [DieUnit.raise_fields, DieUnit.set_fields, DieUnit.modCnt_fields]
    rw [RegFile.word_raise _ _ (by decide) (by decide), RegFile.word_set, if_neg (by decide)]
  · rfl

/-- SNAP captures every counter at once (R120). -/
theorem DieUnit.snap_captures {d : DieUnit} (hon : d.isOn .cnt = true) (q : Nat) : (d.snap q).cnt.snapMain = d.cnt.main := by
  simp [DieUnit.snap, hon]

theorem DieUnit.latchRelease_cnt (d : DieUnit) : d.latchRelease.cnt = d.cnt := by
  unfold DieUnit.latchRelease
  split <;> simp

theorem DieUnit.latchRelease_isOn (d : DieUnit) (k : FastDom) : d.latchRelease.isOn k = d.isOn k := by
  unfold DieUnit.latchRelease
  split
  · exact d.isOn_set (by decide) 0 k
  · rfl

/-- LATCH_REL releases held latches (R116). -/
theorem DieUnit.latchRelease_releases {d : DieUnit} (hon : d.isOn .cnt = true) : d.latchRelease.on CNT_STATUS_LATCH_HELD = false := by
  unfold DieUnit.latchRelease
  rw [if_pos hon]
  exact RegFile.on_set_same d.regs ⟨by decide, by decide⟩ 0

/-- The word that a CNT_CTRL write leaves, its pulses still set. -/
def ctrlMerged (old w : Nat) : Nat := (old &&& ((2 ^ 64 - 1) ^^^ 0xFFFF00000FFF)) ||| (w &&& 0xFFFF00000FFF)

theorem ctrlMerged_pulse {old w i : Nat} (hi : i < 12) (hw : bit w i = true) : bit (ctrlMerged old w) i = true := by
  have hmask : ∀ i < 12, Nat.testBit 0xFFFF00000FFF i = true := by decide
  unfold bit at *
  simp [ctrlMerged, hw, hmask i hi]

theorem DieUnit.writeEffect_ctrl (d : DieUnit) (m : Nat) (w : W64) (a : Access) (q : Nat) :
    d.writeEffect addr_CNT_CTRL m w a q = d.writeCntCtrl m q := by
  unfold DieUnit.writeEffect
  rw [if_neg (by decide), if_neg (by decide), if_neg (by decide), if_pos rfl]

theorem DieUnit.writeReg_ctrl (d : DieUnit) (w : W64) (q k : Nat) :
    d.writeReg addr_CNT_CTRL w ⟨true, false⟩ q k = d.writeCntCtrl (ctrlMerged (d.regs.word addr_CNT_CTRL).toNat w.toNat) q := by
  have hmerged := d.writeReg_effect counterReg_ctrl (mask := 0xFFFF00000FFF) (by decide) (by decide) (by decide) (by decide) w q k
  exact hmerged.trans (d.writeEffect_ctrl _ w ⟨true, false⟩ q)

/-- A pulse command is a write of CNT_CTRL that has the pulse's bit. -/
theorem DieUnit.cntPulse_on {d : DieUnit} (hon : d.isOn .cnt = true) {i : Nat} (hi : i < 12) (q : Nat) :
    ∃ m, bit m i = true ∧ d.cntPulse ⟨addr_CNT_CTRL, i, i⟩ q = (d.writeCntCtrl m q).answers 0 := by
  unfold DieUnit.cntPulse
  rw [DieUnit.portWrite_on hon counterReg_ctrl, DieUnit.writeReg_ctrl]
  refine ⟨_, ctrlMerged_pulse hi ?_, rfl⟩
  rw [BitVec.toNat_ofNat, bit, Nat.testBit_mod_two_pow, testBit_setBits _ _ _ _ _ (Nat.le_refl i)]
  simp [show i < 64 by omega]

theorem DieUnit.cntPulse_off {d : DieUnit} (hoff : d.isOn .cnt = false) (f : Fld) (q : Nat) : d.cntPulse f q = d.answersAsleep := by
  unfold DieUnit.cntPulse
  exact DieUnit.portAccess_asleep hoff counterReg_ctrl _ true q

/-- A change waits where a pulse asks for it. -/
def DieUnit.pendIf (d : DieUnit) (pulse : Bool) (x : CntChange) : DieUnit := if pulse then d.pend x else d

@[simp] theorem DieUnit.pendIf_fields (d : DieUnit) (pulse : Bool) (x : CntChange) :
    (d.pendIf pulse x).cnt = { d.cnt with pend := d.cnt.pend ++ if pulse then [x] else [] } ∧ (d.pendIf pulse x).regs = d.regs := by
  cases pulse <;> simp [DieUnit.pendIf]

theorem DieUnit.pendIf_isOn (d : DieUnit) (pulse : Bool) (x : CntChange) (k : FastDom) : (d.pendIf pulse x).isOn k = d.isOn k :=
  DieUnit.isOn_congr (by simp) k

/-- What a write of CNT_CTRL does before its pulses: the fields are stored, and a new SLOT_WIDTH waits (R125). -/
def DieUnit.ctrlStored (d : DieUnit) (m : Nat) : DieUnit :=
  let keep := setBits m 2 0 (d.get CNT_CTRL_FREEZE)
  let e := { d with regs := d.regs.setWord addr_CNT_CTRL (BitVec.ofNat 64 (setBits keep 7 6 0)) }
  if bits m 11 8 ≠ d.get CNT_CTRL_SLOT_WIDTH then e.pend (.slotWidth (bits m 11 8)) else e

theorem DieUnit.ctrlStored_main (d : DieUnit) (m : Nat) : (d.ctrlStored m).cnt.main = d.cnt.main := by
  unfold DieUnit.ctrlStored
  simp only
  split <;> simp

theorem DieUnit.ctrlStored_isOn (d : DieUnit) (m : Nat) (k : FastDom) : (d.ctrlStored m).isOn k = d.isOn k := by
  have hword (w : W64) : (d.regs.setWord addr_CNT_CTRL w).word addr_DU_PD = d.regs.word addr_DU_PD := by
    rw [RegFile.word_setWord, if_neg (by decide)]
  refine DieUnit.isOn_congr ?_ k
  unfold DieUnit.ctrlStored
  simp only
  split <;> simp [hword]

/-- SNAP acts where the write has its pulse, and LATCH_REL where it has that one (R116, R120). -/
def DieUnit.snapIf (d : DieUnit) (pulse : Bool) (q : Nat) : DieUnit := if pulse then d.snap q else d
def DieUnit.releaseIf (d : DieUnit) (pulse : Bool) : DieUnit := if pulse then d.latchRelease else d

theorem DieUnit.snapIf_main (d : DieUnit) (pulse : Bool) (q : Nat) : (d.snapIf pulse q).cnt.main = d.cnt.main := by
  cases pulse <;> simp [DieUnit.snapIf, DieUnit.snap_main]

theorem DieUnit.snapIf_isOn (d : DieUnit) (pulse : Bool) (q : Nat) (k : FastDom) : (d.snapIf pulse q).isOn k = d.isOn k := by
  cases pulse <;> simp [DieUnit.snapIf, DieUnit.snap_isOn]

theorem DieUnit.releaseIf_cnt (d : DieUnit) (pulse : Bool) : (d.releaseIf pulse).cnt = d.cnt := by
  cases pulse <;> simp [DieUnit.releaseIf, DieUnit.latchRelease_cnt]

theorem DieUnit.releaseIf_isOn (d : DieUnit) (pulse : Bool) (k : FastDom) : (d.releaseIf pulse).isOn k = d.isOn k := by
  cases pulse <;> simp [DieUnit.releaseIf, DieUnit.latchRelease_isOn]

/-- Where the bank is on, the pulses of a write act in this order: SNAP, CLEAR, LATCH_REL, FREEZE, FREEZE_REL. -/
theorem DieUnit.writeCntCtrl_on {d : DieUnit} (hon : d.isOn .cnt = true) (m q : Nat) :
    d.writeCntCtrl m q = (((((d.ctrlStored m).snapIf (bit m 2) q).pendIf (bit m 7) .clear).releaseIf (bit m 6)).pendIf (bit m 0) .freeze).pendIf
      (bit m 1) (.release false) := by
  have hpend {e : DieUnit} (he : e.isOn .cnt = true) (b : Bool) (x : CntChange) :
      (if b then (if e.isOn .cnt then e.pend x else e) else e) = e.pendIf b x := by
    rw [if_pos he, DieUnit.pendIf]
  have hsnap : ((d.ctrlStored m).snapIf (bit m 2) q).isOn .cnt = true := by
    rw [DieUnit.snapIf_isOn, DieUnit.ctrlStored_isOn, hon]
  rw [← hpend (b := bit m 1), ← hpend (b := bit m 0), ← hpend (b := bit m 7)]
  · rfl
  all_goals simp only [DieUnit.pendIf_isOn, DieUnit.releaseIf_isOn, hsnap]

section CtrlWrite
variable {d : DieUnit} (hon : d.isOn .cnt = true)
include hon

/-- A write of CNT_CTRL changes no counter's value. -/
theorem DieUnit.writeCntCtrl_main (m q : Nat) : (d.writeCntCtrl m q).cnt.main = d.cnt.main := by
  simp [DieUnit.writeCntCtrl_on hon, DieUnit.releaseIf_cnt, DieUnit.snapIf_main, DieUnit.ctrlStored_main]

theorem DieUnit.writeCntCtrl_clear {m : Nat} (hm : bit m 7 = true) (q : Nat) : .clear ∈ (d.writeCntCtrl m q).cnt.pend := by
  simp [DieUnit.writeCntCtrl_on hon, DieUnit.releaseIf_cnt, hm]

theorem DieUnit.writeCntCtrl_freeze {m : Nat} (hm : bit m 0 = true) (q : Nat) : .freeze ∈ (d.writeCntCtrl m q).cnt.pend := by
  simp [DieUnit.writeCntCtrl_on hon, hm]

theorem DieUnit.writeCntCtrl_release {m : Nat} (hm : bit m 1 = true) (q : Nat) : .release false ∈ (d.writeCntCtrl m q).cnt.pend := by
  simp [DieUnit.writeCntCtrl_on hon, hm]

theorem DieUnit.writeCntCtrl_snap {m : Nat} (hm : bit m 2 = true) (q : Nat) : (d.writeCntCtrl m q).cnt.snapMain = d.cnt.main := by
  have hsnap := DieUnit.snap_captures ((d.ctrlStored_isOn m .cnt).trans hon) q
  simp [DieUnit.writeCntCtrl_on hon, DieUnit.releaseIf_cnt, DieUnit.snapIf, hm, hsnap, DieUnit.ctrlStored_main]

/-- No pulse that acts after LATCH_REL touches LATCH_HELD (R116). -/
theorem DieUnit.writeCntCtrl_latchRel {m : Nat} (hm : bit m 6 = true) (q : Nat) :
    (d.writeCntCtrl m q).on CNT_STATUS_LATCH_HELD = false := by
  have hon' : (((d.ctrlStored m).snapIf (bit m 2) q).pendIf (bit m 7) .clear).isOn .cnt = true := by
    rw [DieUnit.pendIf_isOn, DieUnit.snapIf_isOn, DieUnit.ctrlStored_isOn, hon]
  rw [← DieUnit.latchRelease_releases hon', DieUnit.writeCntCtrl_on hon, DieUnit.releaseIf, if_pos hm]
  unfold DieUnit.on
  simp only [DieUnit.pendIf_fields]

end CtrlWrite

/-- A freeze that has lasted its limit is released at the next edge (R119). -/
theorem DieUnit.freezeTimeout_releases {d : DieUnit} (hon : d.isOn .cnt = true) (hf : d.on CNT_STATUS_FROZEN = true)
    (hmax : d.get CNT_CTRL_FREEZE_MAX ≠ 0) (hover : d.cnt.freezeAt + d.get CNT_CTRL_FREEZE_MAX * 100000 ≤ d.mono) (hpend : d.cnt.pend = []) :
    d.freezeTimeout = d.modCnt fun c => { c with pend := [.release true] } := by
  unfold DieUnit.freezeTimeout
  simp only
  rw [if_pos ⟨hon, hf, hmax, hover, by simp [hpend]⟩, DieUnit.pend, DieUnit.modCnt, DieUnit.modCnt, hpend]
  rfl

/-! ### The statement -/

/-- Settles O22: each edge and each access by the lemma that says what it does. -/
theorem counterControlAndLatches : Obligations.CounterControlAndLatches := by
  unfold Obligations.CounterControlAndLatches
  refine ⟨fun s cmId q => ⟨?off, ?start, ?idleEnd, ?bothEdges, ?finish⟩, fun s n w q => ⟨?asleep, ?awake, ?timeout⟩⟩
  case off =>
    intro hoff
    have hstart : s.du.commandStart cmId q = s.du := by simp [DieUnit.commandStart, hoff]
    have hend : s.du.commandEnd q = s.du := by simp [DieUnit.commandEnd, hoff]
    exact ⟨congrArg (nextDu s) hstart, congrArg (nextDu s) hend⟩
  case start =>
    intro hon hidle hen hfree
    obtain ⟨hseq, hin, hlatch, hmain, hlight, hpend⟩ := DieUnit.commandStart_captures hon hidle hen hfree cmId q
    exact ⟨_, rfl, hseq, hin, congrArg LatchImage.main hlatch, congrArg LatchImage.t hlatch, hmain, hlight, hpend⟩
  case idleEnd =>
    intro hon hidle halone
    have hend := DieUnit.commandEnd_alone hon halone
    rw [hidle] at hend
    exact congrArg (nextDu s) hend
  case bothEdges =>
    intro hon hstart hat
    exact congrArg (nextDu s) (DieUnit.commandEnd_with_start hon hstart hat)
  case finish =>
    intro hon hin hstart htaken hen hfree
    have hend := DieUnit.commandEnd_alone hon (q := q) (by simp [hstart])
    rw [hin, if_pos rfl] at hend
    obtain ⟨hlatch, hmain⟩ := DieUnit.endLatchAt_captures htaken hen hfree (s.du.stamp q)
    exact ⟨_, congrArg (nextDu s) hend, congrArg LatchImage.main hlatch, congrArg LatchImage.t hlatch, hmain⟩
  case asleep =>
    intro hoff
    have hpulse (f : Fld) := congrArg (nextDu s) (DieUnit.cntPulse_off hoff f q)
    exact ⟨hpulse _, hpulse _, hpulse _, hpulse _, hpulse _,
      fun hn => congrArg (nextDu s) (DieUnit.portAccess_asleep hoff (counterReg_selector hn) _ _ _)⟩
  case awake =>
    intro hon
    refine ⟨?snap, ?clear, ?freeze, ?release, ?latchRel, ?valid, ?invalid, ?edge, ?read⟩
    case snap =>
      obtain ⟨m, hm, hpulse⟩ := DieUnit.cntPulse_on hon (i := 2) (by decide) q
      exact ⟨_, congrArg (nextDu s) hpulse, DieUnit.writeCntCtrl_snap hon hm q, DieUnit.writeCntCtrl_main hon m q, rfl⟩
    case clear =>
      obtain ⟨m, hm, hpulse⟩ := DieUnit.cntPulse_on hon (i := 7) (by decide) q
      exact ⟨_, congrArg (nextDu s) hpulse, DieUnit.writeCntCtrl_clear hon hm q, DieUnit.writeCntCtrl_main hon m q⟩
    case freeze =>
      obtain ⟨m, hm, hpulse⟩ := DieUnit.cntPulse_on hon (i := 0) (by decide) q
      exact ⟨_, congrArg (nextDu s) hpulse, DieUnit.writeCntCtrl_freeze hon hm q, DieUnit.writeCntCtrl_main hon m q⟩
    case release =>
      obtain ⟨m, hm, hpulse⟩ := DieUnit.cntPulse_on hon (i := 1) (by decide) q
      exact ⟨_, congrArg (nextDu s) hpulse, DieUnit.writeCntCtrl_release hon hm q, DieUnit.writeCntCtrl_main hon m q⟩
    case latchRel =>
      obtain ⟨m, hm, hpulse⟩ := DieUnit.cntPulse_on hon (i := 6) (by decide) q
      exact ⟨_, congrArg (nextDu s) hpulse, DieUnit.writeCntCtrl_latchRel hon hm q, DieUnit.writeCntCtrl_main hon m q⟩
    case valid =>
      intro hn hw hvalid
      have hwrite := DieUnit.portWrite_on hon (counterReg_selector hn) w true q
      rw [DieUnit.writeReg_selector _ hn, DieUnit.writeSelector_valid hon ((selValid_iff w hw).2 hvalid)] at hwrite
      exact congrArg (nextDu s) hwrite
    case invalid =>
      intro hn hw hinvalid
      have hsel : selValid (BitVec.ofNat 64 w) = false := Bool.eq_false_iff.2 fun h => hinvalid ((selValid_iff w hw).1 h)
      have hwrite := DieUnit.portWrite_on hon (counterReg_selector hn) w true q
      rw [DieUnit.writeReg_selector _ hn, DieUnit.writeSelector_invalid hon hsel] at hwrite
      have hpage := addr_CNT_SEL_page n
      have hseq : addr_PG_SEQ (pageOf CNT_STATUS_SEL_INVALID.reg) = 0x3008 := by decide
      refine ⟨_, congrArg (nextDu s) hwrite, by simp, ?_, ?_⟩
      · exact RegFile.on_raise_same s.du.regs rfl (by decide) (by decide)
      · simp only [DieUnit.answers_fields, DieUnit.raise_fields]
        exact RegFile.word_raise _ _ (by dsimp only [addr_CNT_STATUS]; omega) (by omega)
    case edge =>
      intro x i _ hp hrun hpend hf
      exact ⟨_, rfl, DieUnit.cntCycle_selector hon hp hrun hpend hf i⟩
    case read =>
      intro hn
      have hread := DieUnit.portRead_on hon (counterReg_value hn) true q
      rw [DieUnit.readReg_counter _ hn] at hread
      obtain ⟨hvalue, hcnt⟩ := s.du.readCounter_fields n
      refine ⟨_, congrArg (nextDu s) hread, ?_, ?_, ?_⟩ <;> simp [hvalue, hcnt]
  case timeout =>
    intro hon hf hmax hover hpend
    exact congrArg (nextDu s) (DieUnit.freezeTimeout_releases hon hf hmax hover hpend)

end Sys2Proof.Machine
end CounterControl

section TraceAdmission
/-!
PROOFS. Admission of trace packets (R76, R133, R135 to R137, R148, Table 5-1): the orders of the table in a domain that judges, and what the
always-on domain does with a packet while none does.
-/
namespace Sys2Proof.Machine

theorem insertStaged_length (p : Staged) (l : List Staged) : (insertStaged p l).length = l.length + 1 := by
  induction l with
  | nil => rfl
  | cons a l ih =>
    unfold insertStaged
    split
    · rfl
    · rw [List.length_cons, ih, List.length_cons]

/-- Where two enables are on, neither is off. -/
theorem not_off_of_both {a b : Bool} (h : a = true ∧ b = true) : ¬ (¬ a ∨ ¬ b) := fun hoff => Decidable.not_and_iff_not_or_not.2 hoff h

/-- The trace domain judges packets: it is on and not past its SLEEP packet (R76, R148). -/
def DieUnit.judges (d : DieUnit) : Prop := d.isOn .trc = true ∧ d.trc.sleeping = false

theorem DieUnit.not_judges_iff {d : DieUnit} : ¬ d.judges ↔ ¬ d.isOn .trc ∨ d.trc.sleeping := by
  rw [DieUnit.judges, Decidable.not_and_iff_not_or_not, Bool.not_eq_false]

theorem DieUnit.judges_iff {d : DieUnit} : d.judges ↔ d.isOn .trc ∧ ¬ d.trc.sleeping := by
  rw [DieUnit.judges, Bool.not_eq_true]

/-! ### Reports (R137) -/

/-- No report is staged for a source that has none. -/
theorem DieUnit.stageDead_of_none {d : DieUnit} {src : Nat} (hnone : d.trc.unreported src = none) (q : Nat) : d.stageDead src q = d := by
  unfold DieUnit.stageDead
  rw [hnone]

/-- While the ring is frozen no funnel packet is admitted, a report neither (R154). -/
theorem DieUnit.stageDead_of_frozen {d : DieUnit} (hfrozen : d.on TRC_STATUS_RING_FROZEN = true) (src q : Nat) : d.stageDead src q = d := by
  have hrefused (p : Staged) : d.funnelOk p = false := by simp [DieUnit.funnelOk, hfrozen]
  unfold DieUnit.stageDead
  split
  · rfl
  · simp [hrefused]

/-! ### The orders of the table -/

/-- The staged form of a packet of port `p` (Table 5-3). -/
def DieUnit.packetOf (d : DieUnit) (p src prio : Nat) (x : TracePkt) (q : Nat) : Staged := d.staged (d.bodyOf p x) q src prio p 4 p

/-- The orders after the filters: the conditions of a dead letter, then the staging buffer (R136, R154). -/
def DieUnit.enter (d : DieUnit) (p src prio : Nat) (x : TracePkt) (q : Nat) : DieUnit :=
  let free := 256 - d.trc.staging.length
  if d.on TRC_STATUS_RING_FROZEN then d.deadLetter p src prio 3
  else if free ≤ 8 then d.deadLetter p src prio 1
  else if free - 8 ≤ (d.reserves prio).1 then d.deadLetter p src prio 0
  else if ¬ d.segOk (d.reserves prio).2 (d.packetOf p src prio x q) then d.deadLetter p src prio (if 0 < d.trc.freeSegs then 0 else 3)
  else d.stage (d.packetOf p src prio x q)

/-- The table from its first order on (R133, R135). -/
def DieUnit.judge (d : DieUnit) (p : Nat) (x : TracePkt) (q : Nat) : DieUnit :=
  if x.kind % 4 = 3 then d.inc TRC_COUNTS_BAD_KIND_N
  else if ¬ d.on TRC_CTRL_EN ∨ ¬ d.on (TRC_SRC_EN p) then d
  else if excluded (d.on TRC_AUTH_SEC_AUTH) (d.on TRC_AUTH_PRIV_AUTH) x then d.inc TRC_EXCL_N
  else if ¬ d.passesFilter p x then d.inc TRC_COUNTS_FILTERED_N
  else (d.stageDead (d.srcOf p) q).enter p (d.srcOf p) (d.prioOf p) x q

/-- The die unit at the edge at which a packet is judged: it is the last one presented. -/
def DieUnit.presented (d : DieUnit) (q : Nat) : DieUnit := (d.traceEdge q).modTrc fun t => { t with lastPresent := d.mono }

theorem DieUnit.presentTrace_judged {d : DieUnit} (hjudges : d.judges) (p : Nat) (x : TracePkt) (q : Nat) :
    d.presentTrace p x q = (d.presented q).judge p x q := if_neg fun h => DieUnit.not_judges_iff.2 h hjudges

theorem DieUnit.presentTrace_unjudged {d : DieUnit} (hno : ¬ d.judges) (p : Nat) (x : TracePkt) (q : Nat) : d.presentTrace p x q = d :=
  if_pos (DieUnit.not_judges_iff.1 hno)

section Orders
variable (d : DieUnit) {p : Nat} {x : TracePkt} (hkind : x.kind % 4 ≠ 3)
include hkind

theorem DieUnit.judge_disabled (hoff : ¬ (d.on TRC_CTRL_EN = true ∧ d.on (TRC_SRC_EN p) = true)) (q : Nat) : d.judge p x q = d := by
  rw [DieUnit.judge, if_neg hkind, if_pos (Decidable.not_and_iff_not_or_not.1 hoff)]

variable (hon : d.on TRC_CTRL_EN = true ∧ d.on (TRC_SRC_EN p) = true)
include hon

theorem DieUnit.judge_excluded (hexcl : excluded (d.on TRC_AUTH_SEC_AUTH) (d.on TRC_AUTH_PRIV_AUTH) x = true) (q : Nat) :
    d.judge p x q = d.inc TRC_EXCL_N := by
  rw [DieUnit.judge, if_neg hkind, if_neg (not_off_of_both hon), if_pos hexcl]

variable (hauth : excluded (d.on TRC_AUTH_SEC_AUTH) (d.on TRC_AUTH_PRIV_AUTH) x = false)
include hauth

theorem DieUnit.judge_filtered (hfilter : d.passesFilter p x = false) (q : Nat) : d.judge p x q = d.inc TRC_COUNTS_FILTERED_N := by
  rw [DieUnit.judge, if_neg hkind, if_neg (not_off_of_both hon), if_neg (Bool.eq_false_iff.1 hauth), if_pos (Bool.eq_false_iff.1 hfilter)]

theorem DieUnit.judge_passed (hfilter : d.passesFilter p x = true) (q : Nat) :
    d.judge p x q = (d.stageDead (d.srcOf p) q).enter p (d.srcOf p) (d.prioOf p) x q := by
  rw [DieUnit.judge, if_neg hkind, if_neg (not_off_of_both hon), if_neg (Bool.eq_false_iff.1 hauth), if_neg (Decidable.not_not.2 hfilter)]

end Orders

section Conditions
variable (d : DieUnit) {prio : Nat}

theorem DieUnit.enter_frozen (hfrozen : d.on TRC_STATUS_RING_FROZEN = true) (p src : Nat) (x : TracePkt) (q : Nat) :
    d.enter p src prio x q = d.deadLetter p src prio 3 := if_pos hfrozen

variable (hrun : d.on TRC_STATUS_RING_FROZEN = false)
include hrun

theorem DieUnit.enter_noEntry (hfull : 256 - d.trc.staging.length ≤ 8) (p src : Nat) (x : TracePkt) (q : Nat) :
    d.enter p src prio x q = d.deadLetter p src prio 1 := by
  rw [DieUnit.enter, if_neg (Bool.eq_false_iff.1 hrun), if_pos hfull]

theorem DieUnit.enter_reserved (hfree : 8 < 256 - d.trc.staging.length) (hless : 256 - d.trc.staging.length ≤ 8 + (d.reserves prio).1)
    (p src : Nat) (x : TracePkt) (q : Nat) : d.enter p src prio x q = d.deadLetter p src prio 0 := by
  rw [DieUnit.enter, if_neg (Bool.eq_false_iff.1 hrun), if_neg (Nat.not_le.2 hfree), if_pos (Nat.sub_le_iff_le_add'.2 hless)]

variable (hmore : 8 + (d.reserves prio).1 < 256 - d.trc.staging.length)
include hmore

theorem DieUnit.enter_ample (p src : Nat) (x : TracePkt) (q : Nat) :
    d.enter p src prio x q = if d.segOk (d.reserves prio).2 (d.packetOf p src prio x q) then d.stage (d.packetOf p src prio x q)
      else d.deadLetter p src prio (if 0 < d.trc.freeSegs then 0 else 3) := by
  rw [DieUnit.enter, if_neg (Bool.eq_false_iff.1 hrun), if_neg (by omega), if_neg (by omega), ite_not]

end Conditions

/-! ### Packets of a domain that does not judge (R76) -/

theorem DieUnit.presentAsleep_judged {d : DieUnit} (hjudges : d.judges) (p : Nat) (x : TracePkt) : d.presentAsleep p x = d :=
  if_pos (DieUnit.judges_iff.1 hjudges)

section Asleep
variable {d : DieUnit} (hno : ¬ d.judges) {p : Nat} {x : TracePkt} (hkind : x.kind % 4 ≠ 3)
  (hon : d.on TRC_CTRL_EN = true ∧ d.on (TRC_SRC_EN p) = true)
include hno hkind hon

theorem DieUnit.presentAsleep_excluded (hexcl : excluded (d.on TRC_AUTH_SEC_AUTH) (d.on TRC_AUTH_PRIV_AUTH) x = true) :
    d.presentAsleep p x = d.modTrc fun t => { t with aoExcl := t.aoExcl + 1 } := by
  rw [DieUnit.presentAsleep, if_neg (mt DieUnit.judges_iff.2 hno), if_neg hkind, if_neg (not_off_of_both hon), if_pos hexcl]

/-- A dead letter is counted for its port and wakes the domain. -/
theorem DieUnit.presentAsleep_dead (hauth : excluded (d.on TRC_AUTH_SEC_AUTH) (d.on TRC_AUTH_PRIV_AUTH) x = false) :
    d.presentAsleep p x
      = (d.modTrc fun t => { t with aoDead := storeSet 0 t.aoDead p (satAdd 32 (storeGet 0 t.aoDead p) 1) }).wake .trc := by
  rw [DieUnit.presentAsleep, if_neg (mt DieUnit.judges_iff.2 hno), if_neg hkind, if_neg (not_off_of_both hon),
    if_neg (Bool.eq_false_iff.1 hauth)]

end Asleep

/-! ### The statement -/

/-- Settles O24, order by order: a passed packet finds no report before it, or one that is not admitted. -/
theorem traceAdmissionInTheOrderOfTheTable : Obligations.TraceAdmissionInTheOrderOfTheTable := by
  unfold Obligations.TraceAdmissionInTheOrderOfTheTable
  intro s p q x
  have judged {e : DieUnit} (hj : s.du.judges) (h : (s.du.presented q).judge p x q = e) :
      exec (.tracePacketPresent p x q) s = nextDu s e := congrArg (nextDu s) ((DieUnit.presentTrace_judged hj p x q).trans h)
  refine ⟨?badKind, ?disabled, ?excluded, ?filtered, ?frozen, ?admission, ?unjudged, ?awake, ?exclAsleep, ?deadAsleep⟩
  case badKind => exact fun hj hkind => judged hj (if_pos hkind)
  case disabled => exact fun hj hkind hoff => judged hj ((s.du.presented q).judge_disabled hkind hoff q)
  case excluded => exact fun hj hkind hon hexcl => judged hj ((s.du.presented q).judge_excluded hkind hon hexcl q)
  case filtered =>
    exact fun hj hkind hon hauth hfilter => judged hj ((s.du.presented q).judge_filtered hkind hon hauth hfilter q)
  case frozen =>
    intro hj hkind hon hauth hfilter hfrozen
    have hpassed := (s.du.presented q).judge_passed hkind hon hauth hfilter q
    rw [DieUnit.stageDead_of_frozen (d := s.du.presented q) hfrozen, (s.du.presented q).enter_frozen hfrozen] at hpassed
    exact judged hj hpassed
  case admission =>
    intro hj hkind hon hauth hfilter hrun hnone
    have hpassed := (s.du.presented q).judge_passed hkind hon hauth hfilter q
    rw [DieUnit.stageDead_of_none (d := s.du.presented q) (src := (s.du.presented q).srcOf p) hnone] at hpassed
    refine ⟨fun hfull => ?_, fun hfree hless => ?_, fun hmore hseg => ?_, fun hmore hseg => ⟨?_, insertStaged_length _ _⟩⟩
    · exact judged hj (hpassed.trans ((s.du.presented q).enter_noEntry hrun hfull _ _ _ _))
    · exact judged hj (hpassed.trans ((s.du.presented q).enter_reserved hrun hfree hless _ _ _ _))
    · exact judged hj (hpassed.trans (((s.du.presented q).enter_ample hrun hmore _ _ _ _).trans (if_neg (Bool.eq_false_iff.1 hseg))))
    · exact judged hj (hpassed.trans (((s.du.presented q).enter_ample hrun hmore _ _ _ _).trans (if_pos hseg)))
  case unjudged => exact fun hno => congrArg (nextDu s) (DieUnit.presentTrace_unjudged hno p x q)
  case awake => exact fun hj => congrArg (nextDu s) (DieUnit.presentAsleep_judged hj p x)
  case exclAsleep =>
    exact fun hno hkind hon hexcl => congrArg (nextDu s) (DieUnit.presentAsleep_excluded hno hkind hon hexcl)
  case deadAsleep =>
    intro hno hkind hon hauth
    refine ⟨_, congrArg (nextDu s) (DieUnit.presentAsleep_dead hno hkind hon hauth), ?_, rfl, rfl⟩
    exact (storeGet_set 0 s.du.trc.aoDead p p _).trans (if_pos rfl)

end Sys2Proof.Machine
end TraceAdmission

section TraceFunnel
/-!
PROOFS. The trace funnel (R134, R136 to R138, R143, R144, R147, R150, R154, R155): what its operations leave, what acts at a trace edge, how the
stream is written, and the markers of a source's sleep level.
-/
namespace Sys2Proof.Machine

/-! ### Fields of registers -/

theorem RegFile.get_congr {r t : RegFile} {f : Fld} (h : r.word f.reg = t.word f.reg) : r.get f = t.get f := by
  rw [RegFile.get, h, RegFile.get]

theorem RegFile.on_set_other (r : RegFile) {f g : Fld} (hf : f.fits) (h : f.apart g) (v : Nat) : (r.set f v).on g = r.on g := by
  rw [RegFile.on, RegFile.on, RegFile.get_set_other r f g v hf h]

/-- A one-bit field after a write of a truth value. -/
theorem RegFile.on_set_b2n (r : RegFile) {f : Fld} (hbit : f.hi = f.lo) (hf : f.hi < 64) (b : Bool) : (r.set f (b2n b)).on f = b := by
  rw [RegFile.on_set_same r ⟨Nat.le_of_eq hbit.symm, hf⟩, hbit]
  cases b <;> simp [b2n]

/-! ### What the funnel's operations leave -/

@[simp] theorem DieUnit.modTrc_trc (d : DieUnit) (f : TraceFunnel → TraceFunnel) : (d.modTrc f).trc = f d.trc := rfl

theorem DieUnit.raise_trc (d : DieUnit) (f : Fld) : (d.raise f).trc = d.trc := by simp

/-- The wake of another domain leaves the funnel. -/
theorem DieUnit.wake_trc (d : DieUnit) {k : FastDom} (hk : k ≠ .trc) : (d.wake k).trc = d.trc := by
  have hpd (e : DieUnit) (p : DomainPower) : (e.setPd k p).trc = e.trc := by cases k <;> rfl
  unfold DieUnit.wake
  split
  · simp [hk, hpd]
  · split
    · split <;> rfl
    · rw [hpd]
      rfl

theorem DieUnit.wake_word (d : DieUnit) (k : FastDom) {n : Nat} (hn : n ≠ addr_DU_PD) : (d.wake k).regs.word n = d.regs.word n := by
  have hpd (e : DieUnit) (p : DomainPower) : (e.setPd k p).regs = e.regs := by cases k <;> rfl
  unfold DieUnit.wake
  split
  · simp only
    split <;> rw [hpd]
  · split
    · split <;> rfl
    · rw [hpd, DieUnit.setPdState, (DieUnit.set_fields _ _ _).1, RegFile.word_set, if_neg hn]

@[simp] theorem DieUnit.showSegs_trc (d : DieUnit) : d.showSegs.trc = d.trc := by simp [DieUnit.showSegs]

theorem DieUnit.showSegs_word (d : DieUnit) {n : Nat} (hn : n ≠ addr_TRC_STATUS) : d.showSegs.regs.word n = d.regs.word n := by
  simp [DieUnit.showSegs, RegFile.word_set, hn]

/-- The funnel whose open segment has closed (R151). -/
def TraceFunnel.closed (t : TraceFunnel) : TraceFunnel :=
  match t.openSeg with
  | none => t
  | some i => { t with segs := tabMod t.segs i fun s => { s with closed := true }, openSeg := none }

theorem TraceFunnel.closed_none {t : TraceFunnel} (h : t.openSeg = none) : t.closed = t := by
  rw [TraceFunnel.closed, h]

theorem TraceFunnel.closed_some {t : TraceFunnel} {i : Nat} (h : t.openSeg = some i) :
    t.closed = { t with segs := tabMod t.segs i fun s => { s with closed := true }, openSeg := none } := by
  rw [TraceFunnel.closed, h]

@[simp] theorem TraceFunnel.closed_fields (t : TraceFunnel) : t.closed.openSeg = none ∧ t.closed.staging = t.staging
    ∧ t.closed.sleepLevel = t.sleepLevel ∧ t.closed.pend = t.pend := by
  cases h : t.openSeg with
  | none =>
    rw [TraceFunnel.closed_none h]
    exact ⟨h, rfl, rfl, rfl⟩
  | some i =>
    rw [TraceFunnel.closed_some h]
    exact ⟨rfl, rfl, rfl, rfl⟩

@[simp] theorem DieUnit.closeSegment_trc (d : DieUnit) : d.closeSegment.trc = d.trc.closed := by
  cases h : d.trc.openSeg with
  | none => rw [TraceFunnel.closed_none h, DieUnit.closeSegment, h]
  | some i =>
    rw [TraceFunnel.closed_some h, DieUnit.closeSegment, h]
    simp only
    split
    · rfl
    · rw [DieUnit.wake_trc _ (by decide)]
      rfl

/-- It changes TRC_STATUS, and DU_PD by the wake of the egress domain. -/
theorem DieUnit.closeSegment_word (d : DieUnit) {n : Nat} (hn : n ≠ addr_TRC_STATUS) (hpd : n ≠ addr_DU_PD) :
    d.closeSegment.regs.word n = d.regs.word n := by
  unfold DieUnit.closeSegment
  split
  next => rfl
  next =>
    simp only
    split
    · rw [DieUnit.showSegs_word _ hn]
      rfl
    · rw [DieUnit.wake_word _ _ hpd, DieUnit.showSegs_word _ hn]
      rfl

/-- A marker is staged where it is admitted (R137). -/
theorem DieUnit.stageMarker_of_ok {d : DieUnit} {b : TraceBody} {q src prio cls key : Nat}
    (hok : d.funnelOk (d.staged b q src prio 16 cls key) = true) :
    d.stageMarker b q src prio cls key = d.stage (d.staged b q src prio 16 cls key) := if_pos hok

/-- Staged or lost, it leaves the sleep levels, the waiting changes and every register but the count of lost markers. -/
@[simp] theorem DieUnit.stageMarker_trc (d : DieUnit) (b : TraceBody) (q src prio cls key : Nat) :
    (d.stageMarker b q src prio cls key).trc.sleepLevel = d.trc.sleepLevel ∧ (d.stageMarker b q src prio cls key).trc.pend = d.trc.pend := by
  unfold DieUnit.stageMarker
  simp only
  split <;> simp [DieUnit.stage, DieUnit.markerLost]

theorem DieUnit.stageMarker_word (d : DieUnit) (b : TraceBody) (q src prio cls key : Nat) {n : Nat} (hn : n ≠ addr_TRC_COUNTS) :
    (d.stageMarker b q src prio cls key).regs.word n = d.regs.word n := by
  unfold DieUnit.stageMarker
  simp only
  split
  · rfl
  · simp [DieUnit.markerLost, RegFile.inc, RegFile.word_set, hn]

/-- The report of a source with dead letters is staged where it is admitted (R137). -/
theorem DieUnit.stageDead_of_ok {d : DieUnit} {src q : Nat} {c : DeadPend} (hsome : d.trc.unreported src = some c)
    (hok : d.funnelOk (d.staged (.dead c.causes c.count) q src c.prio 16 3 src) = true) :
    (d.stageDead src q).trc.staging = insertStaged (d.staged (.dead c.causes c.count) q src c.prio 16 3 src) d.trc.staging
      ∧ tabGet (d.stageDead src q).trc.dead src = none ∧ (d.stageDead src q).regs = d.regs ∧ (d.stageDead src q).trc.segs = d.trc.segs := by
  simp [DieUnit.stageDead, hsome, hok, DieUnit.stage, tabGet_del]

/-! ### The trace edge (R134, R142 to R144, R155) -/

/-- The edge of the present cycle is not taken, and no sync point is due. -/
def TraceFunnel.calm (t : TraceFunnel) : Prop := t.begun = false ∧ t.stopped = false ∧ t.pendDiscont = none ∧ t.pendScale = false

/-- The edge has been taken, at Fleet Time `t`. -/
def TraceFunnel.edgeTaken (t : TraceFunnel) (at_ : Nat) : TraceFunnel := { t with begun := true, edgeT := some at_ }

theorem DieUnit.traceEdge_begun {d : DieUnit} (h : d.trc.begun = true) (q : Nat) : d.traceEdge q = d := if_pos h

theorem DieUnit.traceEdge_next {d : DieUnit} (h : d.trc.begun = false) (q : Nat) :
    d.traceEdge q = ((d.dueMarker q).applyTrcPend q).modTrc fun t => t.edgeTaken (d.stamp q) := if_neg (Bool.eq_false_iff.1 h)

theorem DieUnit.traceEdge_calm {d : DieUnit} (h : d.trc.calm) (q : Nat) :
    d.traceEdge q = (d.applyTrcPend q).modTrc fun t => t.edgeTaken (d.stamp q) := by
  obtain ⟨hbegun, hrun, hdiscont, hscale⟩ := h
  have hnone : d.dueMarker q = d := by simp [DieUnit.dueMarker, hrun, hdiscont, hscale]
  rw [DieUnit.traceEdge_next hbegun, hnone]

theorem DieUnit.applyTrcPend_nil {d : DieUnit} (h : d.trc.pend = []) (q : Nat) : d.applyTrcPend q = d := by
  have hsame : (d.modTrc fun t => { t with pend := [] }) = d := by rw [DieUnit.modTrc, ← h]
  rw [DieUnit.applyTrcPend, h, List.foldl_nil, hsame]

theorem DieUnit.applyTrcPend_single {d : DieUnit} {x : TrcChange} (h : d.trc.pend = [x]) (q : Nat) :
    d.applyTrcPend q = DieUnit.applyTrc q (d.modTrc fun t => { t with pend := [] }) x := by
  rw [DieUnit.applyTrcPend, h]
  rfl

/-- New authorisations stand after the edge at which they act (R134). -/
theorem DieUnit.applyTrc_auth (d : DieUnit) (q : Nat) (sec prv : Bool) :
    let e := DieUnit.applyTrc q d (.auth sec prv)
    e.on TRC_AUTH_SEC_AUTH = sec ∧ e.on TRC_AUTH_PRIV_AUTH = prv ∧ e.trc.pend = d.trc.pend := by
  by_cases hsame : sec = d.on TRC_AUTH_SEC_AUTH ∧ prv = d.on TRC_AUTH_PRIV_AUTH
  · simp only [DieUnit.applyTrc, if_pos hsame]
    exact ⟨hsame.1.symm, hsame.2.symm, trivial⟩
  · simp only [DieUnit.applyTrc, if_neg hsame, DieUnit.stageMarker_trc]
    refine ⟨?_, ?_, rfl⟩
    · refine (RegFile.on_congr (DieUnit.stageMarker_word _ _ _ _ _ _ _ (by decide))).trans ?_
      refine (RegFile.on_set_other _ ⟨by decide, by decide⟩ (.inr (.inl (by decide))) _).trans ?_
      exact RegFile.on_set_b2n _ rfl (by decide) sec
    · refine (RegFile.on_congr (DieUnit.stageMarker_word _ _ _ _ _ _ _ (by decide))).trans ?_
      exact RegFile.on_set_b2n _ rfl (by decide) prv

/-- A change of MODE stands after its edge, at which the open segment closes (R155). -/
theorem DieUnit.applyTrc_mode {d : DieUnit} {mode : Nat} (hmode : mode < 2) (hnew : mode ≠ d.get TRC_CTRL_MODE) (q : Nat) :
    let e := DieUnit.applyTrc q d (.mode mode)
    e.get TRC_CTRL_MODE = mode ∧ e.trc.openSeg = none := by
  simp only [DieUnit.applyTrc, if_neg hnew, DieUnit.closeSegment_trc, TraceFunnel.closed_fields, and_true]
  refine (RegFile.get_congr (DieUnit.closeSegment_word _ (by decide) (by decide))).trans ?_
  refine (RegFile.get_set d.regs TRC_CTRL_MODE mode ⟨by decide, by decide⟩).trans (Nat.mod_eq_of_lt ?_)
  exact Nat.lt_of_lt_of_le hmode (by decide)

/-- The first edge after a stop takes a GAP packet, where it is admitted (R144). -/
theorem DieUnit.dueMarker_stopped {d : DieUnit} (hstopped : d.trc.stopped = true) {q : Nat}
    (hok : d.funnelOk (d.staged (.gap (d.stopNs q)) q funnelSrc funnelPrio 16 1 0) = true) :
    d.dueMarker q = (d.stage (d.staged (.gap (d.stopNs q)) q funnelSrc funnelPrio 16 1 0)).modTrc fun t => { t with stopped := false } := by
  rw [DieUnit.dueMarker, if_pos hstopped, DieUnit.stageMarker_of_ok hok]

/-- Nothing at an edge changes a source's sleep level (R147). -/
theorem DieUnit.traceEdge_sleepLevel (d : DieUnit) (q : Nat) : (d.traceEdge q).trc.sleepLevel = d.trc.sleepLevel := by
  have hdue : (d.dueMarker q).trc.sleepLevel = d.trc.sleepLevel := by
    unfold DieUnit.dueMarker
    split
    · simp
    · split
      · simp
      · split <;> simp
  have happly (e : DieUnit) (x : TrcChange) : (DieUnit.applyTrc q e x).trc.sleepLevel = e.trc.sleepLevel := by
    unfold DieUnit.applyTrc
    split
    · split <;> simp
    · split <;> simp
    · rfl
  unfold DieUnit.traceEdge
  split
  · rfl
  · exact (foldl_keeps (fun e : DieUnit => e.trc.sleepLevel) happly _ _).trans hdue

/-! ### A packet that starts a segment (R138, R140 to R143, R150) -/

/-- A segment at its opening: its reference edge is that of its first packet, and it holds nothing yet. -/
def DieUnit.freshSegment (d : DieUnit) (t quality : Nat) (byWake : Bool) : Segment :=
  { seq := d.get TRC_SEG_SEQ % 65536, flags := b2n byWake * 32, ref := t, quality := quality,
    nom := d.get TC_CLKMON_NOM_NOM_TRACE, bytes := [], closed := false, at_ := d.mono }

/-- Where the ring's next place is free, the segment opens there, and the deltas start from its edge. -/
theorem DieUnit.openSegment_free {d : DieUnit} (hfree : tabGet d.trc.segs (d.trc.nextSeg % 64) = none) (t cyc quality : Nat) (byWake : Bool) :
    ∃ e, d.openSegment t cyc quality byWake = some e ∧ e.trc.openSeg = some (d.trc.nextSeg % 64)
      ∧ tabGet e.trc.segs (d.trc.nextSeg % 64) = some (d.freshSegment t quality byWake)
      ∧ e.trc.nextSeg = (d.trc.nextSeg % 64 + 1) % 64 ∧ e.trc.base = cyc ∧ e.trc.lastSync = cyc ∧ e.trc.lost = d.trc.lost := by
  unfold DieUnit.openSegment
  simp only [hfree]
  refine ⟨_, rfl, ?_⟩
  simp [tabGet_put, DieUnit.freshSegment, b2n]

section FreshCursor
/-! Where base and last sync point are the packet's own edge, it needs no SYNC and its delta is 0 (R140, R142). -/
variable {c : TraceCursor} {p : Staged} (hbase : c.base = p.cyc) (hsync : c.lastSync = p.cyc) {interval : Nat} (hpos : 0 < interval)
include hbase hsync hpos

theorem TraceCursor.sync_fresh : c.sync interval p = false := by
  have hnone : c.owes p.cyc = false := by
    unfold TraceCursor.owes
    split <;> simp [hsync]
  simp [TraceCursor.sync, hnone, hbase, hsync, Nat.ne_of_gt hpos]

omit hsync hpos in
theorem TraceCursor.bytes_fresh (interval : Nat) :
    c.bytes interval p = packetBytes p.body.type 0 false p.src p.prio (p.body.bytes 0 p.t) := by
  have hdelta : c.delta interval p = 0 := by simp [TraceCursor.delta, hbase]
  have hplain : c.scaled interval p = false := by simp [TraceCursor.scaled, hdelta]
  rw [TraceCursor.bytes, hdelta, hplain, hbase, Nat.sub_self]

end FreshCursor

/-- A mark changes a segment's flags alone (R143). -/
theorem markScaled_get {segs : Store Segment} {i : Nat} {s : Segment} (h : tabGet segs i = some s) (span : List Nat) :
    ∃ flags, tabGet (markScaled segs span) i = some { s with flags := flags } := by
  induction span generalizing segs s with
  | nil => exact ⟨s.flags, h⟩
  | cons k span ih =>
    have hstep : ∃ f, tabGet (tabMod segs k fun s => { s with flags := s.flags ||| 64 }) i = some { s with flags := f } := by
      rw [tabGet_mod, h]
      by_cases hi : i = k
      · exact ⟨s.flags ||| 64, by rw [if_pos hi]; rfl⟩
      · exact ⟨s.flags, by rw [if_neg hi]⟩
    obtain ⟨f, hf⟩ := hstep
    obtain ⟨flags, hflags⟩ := ih hf
    exact ⟨flags, hflags⟩

/-- The segment `i` is open and holds what `s` does, flags aside; the ring goes on at `next`. -/
def TraceFunnel.holdsOpen (t : TraceFunnel) (i next : Nat) (s : Segment) : Prop :=
  t.openSeg = some i ∧ t.nextSeg = next ∧ ∃ flags, tabGet t.segs i = some { s with flags := flags }

/-- Bytes come last in the open segment. -/
theorem DieUnit.append_holdsOpen {d : DieUnit} {i next : Nat} {s : Segment} (h : d.trc.holdsOpen i next s) (b : List Byte) (scaled : Bool) :
    (d.append b scaled).trc.holdsOpen i next { s with bytes := s.bytes ++ b } := by
  obtain ⟨hopen, hnext, flags, hs⟩ := h
  simp only [DieUnit.append, hopen, DieUnit.modTrc_fields]
  refine ⟨rfl, hnext, if scaled then flags ||| 64 else flags, ?_⟩
  rw [tabGet_mod, if_pos rfl, hs]
  rfl

/-- The bytes a packet adds to the open segment: a report and a SYNC where they precede it, then its own (R138, R142). -/
def DieUnit.bytesOf (d : DieUnit) (p : Staged) : List Byte :=
  d.trc.reportBefore p ++ (if d.trc.cursor.sync d.syncInterval p then syncBytes p else []) ++ d.trc.cursor.bytes d.syncInterval p

theorem DieUnit.putPacket_holdsOpen {d : DieUnit} {i next : Nat} {s : Segment} (h : d.trc.holdsOpen i next s) (p : Staged) :
    (d.putPacket p).trc.holdsOpen i next { s with bytes := s.bytes ++ d.bytesOf p } := by
  unfold DieUnit.putPacket
  extract_lets c iv sc sync isScale bytes d0 d1 d2 d3 c1
  have hmarked : d0.trc.holdsOpen i next s := by
    dsimp only [d0]
    split
    · obtain ⟨hopen, hnext, flags, hs⟩ := h
      exact ⟨hopen, hnext, markScaled_get hs d.trc.span⟩
    · exact h
  obtain ⟨hopen, hnext, hs⟩ := DieUnit.append_holdsOpen hmarked bytes sc
  have hscaled : d2.trc = d1.trc := by
    dsimp only [d2]
    split
    · exact DieUnit.raise_trc _ _
    · rfl
  have hstatus : d3.trc = d2.trc := by
    dsimp only [d3]
    split
    · exact DieUnit.raise_trc _ _
    · exact DieUnit.raise_trc _ _
    · rfl
  rw [DieUnit.modTrc_trc, hstatus, hscaled]
  exact ⟨hopen, hnext, hs⟩

/-- A packet that no report precedes starts a segment in a free place with delta 0 (R150). -/
theorem DieUnit.writePacket_first {d : DieUnit} (hclosed : d.trc.openSeg = none) (hfree : tabGet d.trc.segs (d.trc.nextSeg % 64) = none)
    {p : Staged} (hwake : p.isWake = false) (hlost : p.port < 16 → tabGet d.trc.lost p.src = none) :
    (d.writePacket p).trc.holdsOpen (d.trc.nextSeg % 64) ((d.trc.nextSeg % 64 + 1) % 64) { d.freshSegment p.t p.quality false with
      bytes := packetBytes p.body.type 0 false p.src p.prio (p.body.bytes 0 p.t) } := by
  obtain ⟨e, hopened, hopen, hseg, hnext, hbase, hsync, hkept⟩ := DieUnit.openSegment_free hfree p.t p.cyc p.quality p.isWake
  have hput : d.writePacket p = e.putPacket p := by
    rw [DieUnit.writePacket, hwake, if_neg Bool.false_ne_true, if_pos hclosed, DieUnit.putFirst, hopened]
  have hreport : e.trc.reportBefore p = [] := by
    unfold TraceFunnel.reportBefore
    rw [hkept]
    by_cases hport : p.port < 16
    · rw [if_pos hport, hlost hport]
    · rw [if_neg hport]
  have hbytes : e.bytesOf p = packetBytes p.body.type 0 false p.src p.prio (p.body.bytes 0 p.t) := by
    rw [DieUnit.bytesOf, hreport, TraceCursor.sync_fresh (c := e.trc.cursor) hbase hsync (interval := e.syncInterval) (Nat.two_pow_pos _),
      TraceCursor.bytes_fresh (c := e.trc.cursor) hbase]
    rfl
  have hheld := DieUnit.putPacket_holdsOpen (s := d.freshSegment p.t p.quality p.isWake) ⟨hopen, hnext, _, hseg⟩ p
  rw [hbytes, hwake, ← hput] at hheld
  exact hheld

/-! ### Trace cycles and source sleep (R136, R147) -/

/-- The die unit at an edge whose cycle has the stretch input `stretch` (R143). -/
def DieUnit.stretched (d : DieUnit) (stretch : Bool) : DieUnit :=
  d.modTrc fun t => { t with lastStretch := if stretch then some t.cyc else t.lastStretch }

/-- A trace cycle ends. -/
def TraceFunnel.cycleOver (t : TraceFunnel) : TraceFunnel := { t with cyc := t.cyc + 1, begun := false }

/-- The oldest staged packet is written, unless the ring is frozen (R136, R154). -/
def DieUnit.writeOldest (d : DieUnit) : DieUnit :=
  match d.trc.staging with
  | [] => d
  | x :: rest => if d.on TRC_STATUS_RING_FROZEN then d else (d.modTrc fun t => { t with staging := rest }).writePacket x

theorem DieUnit.traceCycle_judged {d : DieUnit} (hjudges : d.judges) (q : Nat) (stretch : Bool) :
    d.traceCycle q stretch = ((d.traceEdge q).stretched stretch).writeOldest.modTrc TraceFunnel.cycleOver :=
  if_neg fun hno => DieUnit.not_judges_iff.2 hno hjudges

theorem DieUnit.traceCycle_unjudged {d : DieUnit} (hno : ¬ d.judges) (q : Nat) (stretch : Bool) : d.traceCycle q stretch = d :=
  if_pos (DieUnit.not_judges_iff.1 hno)

theorem DieUnit.writeOldest_nil {d : DieUnit} (h : d.trc.staging = []) : d.writeOldest = d := by
  rw [DieUnit.writeOldest, h]

theorem DieUnit.writeOldest_frozen {d : DieUnit} (h : d.on TRC_STATUS_RING_FROZEN = true) : d.writeOldest = d := by
  unfold DieUnit.writeOldest
  split
  · rfl
  · exact if_pos h

theorem DieUnit.writeOldest_cons {d : DieUnit} {x : Staged} {rest : List Staged} (h : d.trc.staging = x :: rest)
    (hrun : d.on TRC_STATUS_RING_FROZEN = false) : d.writeOldest = (d.modTrc fun t => { t with staging := rest }).writePacket x := by
  rw [DieUnit.writeOldest, h]
  exact if_neg (Bool.eq_false_iff.1 hrun)

/-- The report of a source is staged at the trace edge (R137). -/
theorem DieUnit.deadReport_judged {d : DieUnit} (hjudges : d.judges) (src q : Nat) : d.deadReport src q = (d.traceEdge q).stageDead src q :=
  if_pos (DieUnit.judges_iff.1 hjudges)

/-- The sleep levels with that of port `p` raised or lowered (R147). -/
def sleepLevels (levels p : Nat) (rise : Bool) : Nat := if rise then levels ||| 2 ^ p else levels &&& (2 ^ 16 - 1 - 2 ^ p)

theorem bit_sleepLevels (levels : Nat) {p : Nat} (hp : p < 16) (rise : Bool) : bit (sleepLevels levels p rise) p = rise := by
  have hmask : ∀ p < 16, (2 ^ 16 - 1 - 2 ^ p).testBit p = false := by decide
  cases rise
  · rw [sleepLevels, if_neg Bool.false_ne_true, bit, Nat.testBit_and, hmask p hp, Bool.and_false]
  · simp [sleepLevels, bit]

/-- The level that a source's sleep line takes stands, whatever marker is staged (R147). -/
theorem DieUnit.sourceLevel_followed (d : DieUnit) (p : Nat) (rise : Bool) (q : Nat) :
    (d.sourceLevel p rise q).trc.sleepLevel = sleepLevels d.trc.sleepLevel p rise := by
  have hedge := (d.modTrc fun t => { t with sleepLevel := sleepLevels t.sleepLevel p rise }).traceEdge_sleepLevel q
  unfold DieUnit.sourceLevel
  extract_lets was d1 d2
  split
  · rfl
  · split
    · exact hedge
    · split <;> rw [(DieUnit.stageMarker_trc _ _ _ _ _ _ _).1] <;> exact hedge

/-- A source that falls asleep stages a SLEEP marker, while the funnel and its port are enabled. -/
theorem DieUnit.sourceLevel_sleep {d : DieUnit} (hjudges : d.judges) {p : Nat} (hwas : bit d.trc.sleepLevel p = false) {q : Nat} {e : DieUnit}
    (he : ({ d with trc := { d.trc with sleepLevel := d.trc.sleepLevel ||| 2 ^ p } }).traceEdge q = e)
    (hen : e.on TRC_CTRL_EN = true) (hport : e.on (TRC_SRC_EN p) = true) :
    d.sourceLevel p true q = e.stageMarker .sleep q (e.srcOf p) (e.prioOf p) 5 p := by
  have hrise : ¬ (bit d.trc.sleepLevel p = true ∨ ¬ d.isOn .trc ∨ d.trc.sleeping) := by simp [hwas, hjudges.1, hjudges.2]
  subst he
  exact (if_neg hrise).trans ((if_neg (not_off_of_both ⟨hen, hport⟩)).trans (if_pos rfl))

/-- The trace clock's first edge after a stop (R144). -/
theorem DieUnit.traceResume_stopped {d : DieUnit} (hjudges : d.judges) (hstopped : d.trc.stopped = true) (q : Nat) :
    d.traceResume q = ({ d with trc := { d.trc with begun := false } }).traceEdge q :=
  if_pos ⟨hjudges.1, Bool.eq_false_iff.1 hjudges.2, hstopped⟩

theorem DieUnit.traceResume_running {d : DieUnit} (hrun : d.trc.stopped = false) (q : Nat) : d.traceResume q = d :=
  if_neg fun h => Bool.eq_false_iff.1 hrun h.2.2

/-! ### Registers of the trace domain over the port (R98) -/

/-- An aligned register of the domain `k`, no key and no selector, that has the PRIV bits `mask` alone (Table 0-3). -/
structure PrivReg (k : FastDom) (addr mask : Nat) : Prop where
  aligned : addr % 65536 / 8 * 8 = addr
  page : addr / 4096 ≤ 0xD
  domain : domOfReg addr = some k
  direct : addr ≠ 0x30 ∧ addr ≠ 0x38
  noKey : addr % 4096 ≠ 0x18
  noSelector : selectorOf addr = none
  masks : masksOf .du addr = ⟨mask, 0, 0⟩
  written : mask ≠ 0

/-- The word that a write of `w` to a register leaves where it may change the bits of `mask`. -/
def mergedWord (old mask w : Nat) : Nat := (old &&& ((2 ^ 64 - 1) ^^^ mask)) ||| ((BitVec.ofNat 64 w).toNat &&& mask)

theorem bit_mergedWord (old w : Nat) {mask i : Nat} (hi : i < 64) (hmask : bit mask i = true) : bit (mergedWord old mask w) i = bit w i := by
  unfold bit at *
  rw [mergedWord, Nat.testBit_or, Nat.testBit_and, Nat.testBit_and, Nat.testBit_xor, Nat.testBit_two_pow_sub_one, BitVec.toNat_ofNat,
    Nat.testBit_mod_two_pow, hmask]
  simp [hi]

section PrivRegister
variable {k : FastDom} {addr mask : Nat} (h : PrivReg k addr mask) {d : DieUnit}
include h

/-- While the domain sleeps the port answers zero, marked asleep, and nothing changes. -/
theorem DieUnit.portWrite_asleep (hoff : d.isOn k = false) (w : Nat) (priv : Bool) (q : Nat) : d.portWrite addr w priv q = d.answersAsleep := by
  have hsleep : d.asleep addr = true := by simp [DieUnit.asleep, h.domain, hoff]
  unfold DieUnit.portWrite DieUnit.portAccess
  simp [h.aligned, duPageExists, h.page, hsleep, DieUnit.answersAsleep]

/-- A privileged write merges the PRIV bits into the word that stands, and the merged word takes its effect (R455). -/
theorem DieUnit.portWrite_merged (hon : d.isOn k = true) (w q : Nat) : d.portWrite addr w true q
    = (d.writeEffect addr (mergedWord (d.regs.word addr).toNat mask w) (BitVec.ofNat 64 w) ⟨true, false⟩ q).answers 0 := by
  have hsleep : d.asleep addr = false := by simp [DieUnit.asleep, h.domain, hon]
  have hwrite : d.writeReg addr (BitVec.ofNat 64 w) ⟨true, false⟩ q (addr % 4096)
      = d.writeEffect addr (mergedWord (d.regs.word addr).toNat mask w) (BitVec.ofNat 64 w) ⟨true, false⟩ q := by
    unfold DieUnit.writeReg
    simp [duPageExists, h.page, h.noKey, h.masks, h.written, h.noSelector, mergedWord]
  unfold DieUnit.portWrite DieUnit.portAccess DieUnit.access
  simp [h.aligned, hsleep, h.direct, hwrite, DieUnit.answers]

end PrivRegister

/-- TRC_AUTH (Table 5-10). -/
theorem privReg_TRC_AUTH : PrivReg .trc addr_TRC_AUTH 0x3 := by
  constructor <;> decide

theorem DieUnit.writeEffect_auth {d : DieUnit} (hon : d.isOn .trc = true) (m : Nat) (w : W64) (q : Nat) :
    d.writeEffect addr_TRC_AUTH m w ⟨true, false⟩ q = d.pendTrc (.auth (bit m 1) (bit m 0)) := by
  unfold DieUnit.writeEffect
  rw [if_neg (by decide), if_neg (by decide), if_neg (by decide), if_neg (by decide), if_neg (by decide), if_pos rfl, if_pos (by decide)]
  exact if_pos hon

/-- A write of TRC_AUTH has the authorisations wait for the next trace edge (R134). -/
theorem DieUnit.portWrite_auth {d : DieUnit} (hon : d.isOn .trc = true) (sec prv : Bool) (q : Nat) :
    d.portWrite addr_TRC_AUTH (2 * b2n sec + b2n prv) true q = (d.pendTrc (.auth sec prv)).answers 0 := by
  have hsec : bit (2 * b2n sec + b2n prv) 1 = sec := by cases sec <;> cases prv <;> rfl
  have hprv : bit (2 * b2n sec + b2n prv) 0 = prv := by cases sec <;> cases prv <;> rfl
  rw [DieUnit.portWrite_merged privReg_TRC_AUTH hon, DieUnit.writeEffect_auth hon, bit_mergedWord _ _ (by decide) (by decide),
    bit_mergedWord _ _ (by decide) (by decide), hsec, hprv]

/-! ### The statement -/

/-- Settles O25: each clause by the lemma on its operation at the trace edge. -/
theorem traceFunnelWritesAndMarks : Obligations.TraceFunnelWritesAndMarks := by
  unfold Obligations.TraceFunnelWritesAndMarks
  intro s q p src mode stretch sec prv x rest c
  refine ⟨?unjudged, ?empty, ?frozen, ?writes, ?first, ?begun, ?calm, ?auth, ?mode, ?gap, ?noReport, ?report, ?sleep, ?wake, ?resume,
    ?running, ?portAsleep, ?portAwake⟩
  case unjudged => exact fun hno => congrArg (nextDu s) (DieUnit.traceCycle_unjudged hno q stretch)
  case empty =>
    intro hj hempty
    have hcycle := DieUnit.traceCycle_judged hj q stretch
    rw [DieUnit.writeOldest_nil (d := (s.du.traceEdge q).stretched stretch) hempty] at hcycle
    exact congrArg (nextDu s) hcycle
  case frozen =>
    intro hj _ hfrozen
    have hcycle := DieUnit.traceCycle_judged hj q stretch
    rw [DieUnit.writeOldest_frozen (d := (s.du.traceEdge q).stretched stretch) hfrozen] at hcycle
    exact congrArg (nextDu s) hcycle
  case writes =>
    intro hj hstaged hrun
    have hcycle := DieUnit.traceCycle_judged hj q stretch
    rw [DieUnit.writeOldest_cons (d := (s.du.traceEdge q).stretched stretch) hstaged hrun] at hcycle
    exact congrArg (nextDu s) hcycle
  case first =>
    intro hclosed hfree hwake hlost
    obtain ⟨hopen, hnext, flags, hseg⟩ := DieUnit.writePacket_first hclosed hfree hwake hlost
    exact ⟨_, _, rfl, hopen, hseg, rfl, rfl, rfl, rfl, hnext⟩
  case begun => exact fun hbegun => DieUnit.traceEdge_begun hbegun q
  case calm =>
    intro hcalm hpend
    have hedge := DieUnit.traceEdge_calm hcalm q
    rw [DieUnit.applyTrcPend_nil hpend] at hedge
    exact hedge
  case auth =>
    intro hcalm hpend
    have hedge := DieUnit.traceEdge_calm hcalm q
    rw [DieUnit.applyTrcPend_single hpend] at hedge
    obtain ⟨hsec, hprv, hnone⟩ := (s.du.modTrc fun t => { t with pend := [] }).applyTrc_auth q sec prv
    rw [hedge]
    refine ⟨hsec, hprv, hnone, fun hsameSec hsamePrv => ?_⟩
    have hsame : DieUnit.applyTrc q (s.du.modTrc fun t => { t with pend := [] }) (.auth sec prv) = s.du.modTrc fun t => { t with pend := [] } :=
      if_pos ⟨hsameSec, hsamePrv⟩
    rw [hsame]
    rfl
  case mode =>
    intro hcalm hpend hmode hnew
    have hedge := DieUnit.traceEdge_calm hcalm q
    rw [DieUnit.applyTrcPend_single hpend] at hedge
    rw [hedge]
    exact DieUnit.applyTrc_mode (d := s.du.modTrc fun t => { t with pend := [] }) hmode hnew q
  case gap =>
    intro hbegun hstopped hpend hok
    have hedge := DieUnit.traceEdge_next hbegun q
    rw [DieUnit.dueMarker_stopped hstopped hok, DieUnit.applyTrcPend_nil (by exact hpend)] at hedge
    rw [hedge]
    exact ⟨rfl, rfl, rfl⟩
  case noReport =>
    intro hj hnone
    exact congrArg (nextDu s) ((DieUnit.deadReport_judged hj src q).trans (DieUnit.stageDead_of_none hnone q))
  case report =>
    intro hj hsome hok
    exact ⟨_, congrArg (nextDu s) (DieUnit.deadReport_judged hj src q), DieUnit.stageDead_of_ok hsome hok⟩
  case sleep =>
    intro hj hp hwas e hen hport hok
    have hmark := DieUnit.sourceLevel_sleep hj hwas rfl hen hport
    rw [DieUnit.stageMarker_of_ok hok] at hmark
    refine ⟨_, congrArg (nextDu s) hmark, ?_, insertStaged_length _ _, rfl⟩
    rw [← hmark, DieUnit.sourceLevel_followed]
    exact bit_sleepLevels _ hp true
  case wake =>
    intro hp _ _
    refine ⟨_, rfl, ?_⟩
    rw [DieUnit.sourceLevel_followed]
    exact bit_sleepLevels _ hp false
  case resume => exact fun hj hstopped => congrArg (nextDu s) (DieUnit.traceResume_stopped hj hstopped q)
  case running => exact fun _ hrun => congrArg (nextDu s) (DieUnit.traceResume_running hrun q)
  case portAsleep => exact fun hoff => congrArg (nextDu s) (DieUnit.portWrite_asleep privReg_TRC_AUTH hoff _ true q)
  case portAwake => exact fun hon => ⟨_, congrArg (nextDu s) (DieUnit.portWrite_auth hon sec prv q), rfl, rfl⟩

end Sys2Proof.Machine
end TraceFunnel

section TraceSegments
/-!
PROOFS. Trace segments (R151 to R155): what closes one, what the drain frees, and what a privileged write of TRC_CTRL does.
-/
namespace Sys2Proof.Machine

/-! ### Closing and draining (R151 to R153) -/

/-- The segment that was open is closed. -/
theorem TraceFunnel.closed_get {t : TraceFunnel} {i : Nat} {s : Segment} (hopen : t.openSeg = some i) (hs : tabGet t.segs i = some s) :
    tabGet t.closed.segs i = some { s with closed := true } := by
  simp [TraceFunnel.closed_some hopen, tabGet_mod, hs]

/-- A close frees no segment. -/
theorem TraceFunnel.closed_segs_nil {t : TraceFunnel} : t.closed.segs = [] ↔ t.segs = [] := by
  cases h : t.openSeg with
  | none => rw [TraceFunnel.closed_none h]
  | some i => simp [TraceFunnel.closed_some h, tabMod]

theorem DieUnit.segFlush_none {d : DieUnit} (hnone : d.trc.openSeg = none) : d.segFlush = d := by
  simp [DieUnit.segFlush, hnone]

section OpenSegment
variable {d : DieUnit} {i : Nat} {s : Segment} (hopen : d.trc.openSeg = some i) (hs : tabGet d.trc.segs i = some s)
include hopen hs

theorem DieUnit.segFlush_due (hon : d.isOn .trc = true) (hflush : d.get TRC_CTRL_FLUSH ≠ 0)
    (hdue : s.at_ + d.get TRC_CTRL_FLUSH * 100000 ≤ d.mono) : d.segFlush = d.closeSegment := by
  simp [DieUnit.segFlush, hopen, hs, hon, hflush, hdue]

theorem DieUnit.segFlush_early (hearly : d.mono < s.at_ + d.get TRC_CTRL_FLUSH * 100000) : d.segFlush = d := by
  simp [DieUnit.segFlush, hopen, hs, Nat.not_le.2 hearly]

end OpenSegment

/-- The drain engine takes no segment (R153, R154). -/
theorem DieUnit.drainSegment_held {d : DieUnit}
    (h : d.on TRC_CTRL_DRAIN_EN = false ∨ (d.on TRC_STATUS_RING_FROZEN = false ∧ d.trc.sleeping = false ∧ d.ringMode = true)) :
    d.drainSegment = d := by
  unfold DieUnit.drainSegment
  rcases h with hstop | ⟨hrun, hawake, hring⟩
  · simp [hstop]
  · simp [hrun, hawake, hring]

theorem DieUnit.showSegs_frozen (d : DieUnit) : d.showSegs.on TRC_STATUS_RING_FROZEN = d.on TRC_STATUS_RING_FROZEN := by
  have hset (r : RegFile) (f : Fld) (v : Nat) (hf : f.lo ≤ f.hi ∧ f.hi < 64) (hlow : 14 < f.lo) :
      (r.set f v).on TRC_STATUS_RING_FROZEN = r.on TRC_STATUS_RING_FROZEN := RegFile.on_set_other r hf (.inr (.inr hlow)) v
  unfold DieUnit.on DieUnit.showSegs
  simp only [DieUnit.set_fields]
  rw [hset _ _ _ (by decide) (by decide), hset _ _ _ (by decide) (by decide), hset _ _ _ (by decide) (by decide)]

/-- In STREAM mode a segment whose parcel is taken is free again (R152). -/
theorem DieUnit.drainSegment_taken {d e : DieUnit} {i : Nat} {s : Segment} (hrun : d.on TRC_STATUS_RING_FROZEN = false)
    (hawake : d.trc.sleeping = false) (hstream : d.ringMode = false) (hdrain : d.on TRC_CTRL_DRAIN_EN = true) (hegr : d.isOn .egr = true)
    (hold : d.trc.oldest true = some i) (hs : tabGet d.trc.segs i = some s)
    (hput : d.putWhole ptTrace d.jobId d.jobGen (postmark (d.stamp 0)) s.image = (true, e)) (hthen : e.on TRC_STATUS_RING_FROZEN = false) :
    d.drainSegment = (e.modTrc fun t => { t with segs := tabDel t.segs i }).showSegs := by
  have hshown : (e.modTrc fun t => { t with segs := tabDel t.segs i }).showSegs.on TRC_STATUS_RING_FROZEN = false :=
    (DieUnit.showSegs_frozen _).trans hthen
  unfold DieUnit.drainSegment
  simp [hrun, hawake, hstream, hdrain, hegr, hold, hs, hput, hshown]

/-! ### TRC_CTRL (R153 to R155) -/

theorem privReg_TRC_CTRL : PrivReg .trc addr_TRC_CTRL 0xFFFF00F0FF2F := by
  constructor <;> decide

/-- A field of one bit is that bit of its register. -/
theorem RegFile.on_bit (r : RegFile) (k i : Nat) : r.on ⟨k, i, i⟩ = bit (r.word k).toNat i := by
  simp [RegFile.on, RegFile.get, bits, bit, Nat.testBit_eq_decide_div_mod_eq]

/-- A field of a register that takes a number as its word. -/
theorem RegFile.get_setWord_ofNat (r : RegFile) {f : Fld} (hf : f.hi < 64) (n : Nat) :
    (r.setWord f.reg (BitVec.ofNat 64 n)).get f = bits n f.hi f.lo := by
  rw [RegFile.get, RegFile.word_setWord, if_pos rfl, BitVec.toNat_ofNat]
  refine Nat.eq_of_testBit_eq fun i => ?_
  rw [testBit_bits, testBit_bits, Nat.testBit_mod_two_pow]
  by_cases hi : i < f.hi + 1 - f.lo
  · simp [show i + f.lo < 64 by omega]
  · simp [hi]

/-- The word that a write of the field `f` of TRC_CTRL has: RING_TRIG is clear but in its own (R154). -/
def DieUnit.ctrlWritten (d : DieUnit) (f : Fld) (v : Nat) : Nat := mergedWord (d.regs.word addr_TRC_CTRL).toNat 0xFFFF00F0FF2F
  (setBits (setBits (d.regs.word addr_TRC_CTRL).toNat 5 5 0) f.hi f.lo v)

theorem DieUnit.bit_ctrlWritten (d : DieUnit) {f : Fld} (hf : f.lo ≤ f.hi) (v : Nat) {i : Nat} (hi : i < 64)
    (hmask : bit 0xFFFF00F0FF2F i = true) : bit (d.ctrlWritten f v) i
      = if f.lo ≤ i ∧ i ≤ f.hi then bit v (i - f.lo) else if i = 5 then false else bit (d.regs.word addr_TRC_CTRL).toNat i := by
  rw [DieUnit.ctrlWritten, bit_mergedWord _ _ hi hmask, bit, testBit_setBits _ _ _ _ _ hf, testBit_setBits _ _ _ _ _ (Nat.le_refl 5)]
  by_cases h5 : i = 5
  · simp [h5, bit]
  · rw [if_neg (c := 5 ≤ i ∧ i ≤ 5) (by omega), if_neg h5]
    rfl

theorem DieUnit.writeEffect_trcCtrl (d : DieUnit) (m : Nat) (w : W64) (a : Access) (q : Nat) :
    d.writeEffect addr_TRC_CTRL m w a q = d.writeTrcCtrl m := by
  unfold DieUnit.writeEffect
  rw [if_neg (by decide), if_neg (by decide), if_neg (by decide), if_neg (by decide), if_pos rfl]

theorem DieUnit.trcWrite_on {d : DieUnit} (hon : d.isOn .trc = true) (f : Fld) (v q : Nat) :
    d.trcWrite f v q = (d.writeTrcCtrl (d.ctrlWritten f v)).answers 0 := by
  rw [DieUnit.trcWrite, DieUnit.portWrite_merged privReg_TRC_CTRL hon, DieUnit.writeEffect_trcCtrl]
  rfl

/-- What a write of TRC_CTRL stores: MODE and DRAIN_EN stand until they act. -/
def DieUnit.ctrlKept (d : DieUnit) (m : Nat) : DieUnit :=
  { d with regs := d.regs.setWord addr_TRC_CTRL (BitVec.ofNat 64 (setBits (setBits m 5 5 0) 3 1 (d.get ⟨addr_TRC_CTRL, 3, 1⟩))) }

theorem DieUnit.ctrlKept_word (d : DieUnit) (m : Nat) {n : Nat} (hn : n ≠ addr_TRC_CTRL) : (d.ctrlKept m).regs.word n = d.regs.word n := by
  rw [DieUnit.ctrlKept, RegFile.word_setWord, if_neg hn]

theorem DieUnit.ctrlKept_isOn (d : DieUnit) (m : Nat) (k : FastDom) : (d.ctrlKept m).isOn k = d.isOn k :=
  DieUnit.isOn_congr (d.ctrlKept_word m (by decide)) k

theorem DieUnit.ctrlKept_get (d : DieUnit) (m : Nat) {f : Fld} (hreg : f.reg = addr_TRC_CTRL) (hlo : 1 ≤ f.lo) (hhi : f.hi ≤ 3) :
    (d.ctrlKept m).get f = d.get f := by
  obtain ⟨reg, hi, lo⟩ := f
  subst hreg
  refine (RegFile.get_setWord_ofNat d.regs (f := ⟨addr_TRC_CTRL, hi, lo⟩) (Nat.lt_of_le_of_lt hhi (by decide)) _).trans ?_
  refine Nat.eq_of_testBit_eq fun i => ?_
  simp only [DieUnit.get, RegFile.get, testBit_bits]
  by_cases hin : i < hi + 1 - lo
  · rw [testBit_setBits _ _ _ _ _ (by decide), if_pos (by simp only at hlo hhi; omega), testBit_bits,
      show i + lo - 1 + 1 = i + lo by simp only at hlo; omega]
    simp only at hhi
    simp [show i + lo - 1 < 3 by omega]
  · simp [hin]

/-- A MODE write waits, or is ignored (R155): it leaves every register but TRC_STATUS and the event number, and what
the funnel holds. -/
theorem DieUnit.writeTraceMode_word (d : DieUnit) (mode : Nat) {n : Nat} (hn : n ≠ addr_TRC_STATUS) (hseq : n ≠ addr_PG_SEQ 6) :
    (d.writeTraceMode mode).regs.word n = d.regs.word n := by
  unfold DieUnit.writeTraceMode
  split
  · rfl
  · split
    · exact RegFile.word_raise _ _ hn hseq
    · rfl

theorem DieUnit.writeTraceMode_trc (d : DieUnit) (mode : Nat) :
    (d.writeTraceMode mode).trc.segs = d.trc.segs ∧ (d.writeTraceMode mode).trc.staging = d.trc.staging := by
  unfold DieUnit.writeTraceMode
  split
  · exact ⟨rfl, rfl⟩
  · split
    · rw [DieUnit.raise_trc]
      exact ⟨rfl, rfl⟩
    · exact ⟨rfl, rfl⟩

/-- What a write of TRC_CTRL does before DRAIN_EN and the ring trigger: the fields are stored, and MODE is written. -/
def DieUnit.modeWritten (d : DieUnit) (m : Nat) : DieUnit := (d.ctrlKept m).writeTraceMode (bits m 2 1)

theorem DieUnit.writeTrcCtrl_eq (d : DieUnit) (m : Nat) : d.writeTrcCtrl m =
    let e := if bit m 3 = d.on TRC_CTRL_DRAIN_EN then d.modeWritten m else (d.modeWritten m).writeDrainEn (bit m 3)
    if bit m 5 then e.ringTrigger else e := rfl

section ModeWritten
variable (d : DieUnit) (m : Nat)

theorem DieUnit.modeWritten_get {f : Fld} (hreg : f.reg = addr_TRC_CTRL) (hlo : 1 ≤ f.lo) (hhi : f.hi ≤ 3) :
    (d.modeWritten m).get f = d.get f := by
  refine Eq.trans (RegFile.get_congr ?_) (d.ctrlKept_get m hreg hlo hhi)
  rw [hreg]
  exact DieUnit.writeTraceMode_word _ _ (by decide) (by decide)

theorem DieUnit.modeWritten_isOn (k : FastDom) : (d.modeWritten m).isOn k = d.isOn k :=
  (DieUnit.isOn_congr (DieUnit.writeTraceMode_word _ _ (by decide) (by decide)) k).trans (d.ctrlKept_isOn m k)

theorem DieUnit.modeWritten_ringMode : (d.modeWritten m).ringMode = d.ringMode := by
  rw [DieUnit.ringMode, DieUnit.modeWritten_get _ _ rfl (by decide) (by decide), DieUnit.ringMode]

theorem DieUnit.modeWritten_trc : (d.modeWritten m).trc.segs = d.trc.segs ∧ (d.modeWritten m).trc.staging = d.trc.staging :=
  (d.ctrlKept m).writeTraceMode_trc (bits m 2 1)

variable {m}

/-- A MODE that may be written waits for the next trace edge. -/
theorem DieUnit.modeWritten_valid (hon : d.isOn .trc = true) (hmode : bits m 2 1 < 2) :
    d.modeWritten m = (d.ctrlKept m).pendTrc (.mode (bits m 2 1)) := by
  have hkept : (d.ctrlKept m).isOn .trc = true := (d.ctrlKept_isOn m .trc).trans hon
  rw [DieUnit.modeWritten, DieUnit.writeTraceMode, if_neg (Decidable.not_not.2 hkept), if_neg (by omega), Nat.mod_eq_of_lt (by omega)]

/-- A reserved one is ignored, with CFG_INVALID. -/
theorem DieUnit.modeWritten_reserved (hon : d.isOn .trc = true) (hmode : 2 ≤ bits m 2 1) (hlt : bits m 2 1 < 4) :
    d.modeWritten m = (d.ctrlKept m).raise TRC_STATUS_CFG_INVALID := by
  have hkept : (d.ctrlKept m).isOn .trc = true := (d.ctrlKept_isOn m .trc).trans hon
  rw [DieUnit.modeWritten, DieUnit.writeTraceMode, if_neg (Decidable.not_not.2 hkept), if_pos (by omega)]

end ModeWritten

/-! ### What the fields of TRC_CTRL do -/

/-- The MODE bits of a write of MODE. -/
theorem DieUnit.ctrlWritten_mode (d : DieUnit) (v : Nat) : bits (d.ctrlWritten TRC_CTRL_MODE v) 2 1 = v % 4 := by
  refine Nat.eq_of_testBit_eq fun i => ?_
  have hmask : ∀ i < 2, bit 0xFFFF00F0FF2F (i + 1) = true := by decide
  rw [testBit_bits, show v % 4 = v % 2 ^ 2 from rfl, Nat.testBit_mod_two_pow]
  by_cases hi : i < 2
  · have hbit := d.bit_ctrlWritten (f := TRC_CTRL_MODE) (by decide) v (i := i + 1) (by omega) (hmask i hi)
    rw [if_pos ⟨by dsimp only; omega, by dsimp only; omega⟩] at hbit
    simpa [hi, bit] using hbit
  · simp [hi]

/-- A write of a field above MODE has the MODE that stands. -/
theorem DieUnit.ctrlWritten_mode_kept (d : DieUnit) {f : Fld} (hf : f.lo ≤ f.hi) (habove : 2 < f.lo) (v : Nat) :
    bits (d.ctrlWritten f v) 2 1 = d.get TRC_CTRL_MODE := by
  refine Nat.eq_of_testBit_eq fun i => ?_
  have hmask : ∀ i < 2, bit 0xFFFF00F0FF2F (i + 1) = true := by decide
  rw [DieUnit.get, RegFile.get, testBit_bits, testBit_bits]
  by_cases hi : i < 2
  · have hbit := d.bit_ctrlWritten hf v (i := i + 1) (by omega) (hmask i hi)
    rw [if_neg (by omega), if_neg (by omega)] at hbit
    simpa [hi, bit] using hbit
  · simp [hi]

/-- And one of a field other than DRAIN_EN has the DRAIN_EN that stands. -/
theorem DieUnit.ctrlWritten_drain_kept (d : DieUnit) {f : Fld} (hf : f.lo ≤ f.hi) (hother : f.hi < 3 ∨ 3 < f.lo) (v : Nat) :
    bit (d.ctrlWritten f v) 3 = d.on TRC_CTRL_DRAIN_EN := by
  rw [d.bit_ctrlWritten hf v (by decide) (by decide), if_neg (by omega), if_neg (by decide), DieUnit.on, RegFile.on_bit]

/-- A write of MODE has no other effect. -/
theorem DieUnit.trcWrite_mode {d : DieUnit} (hon : d.isOn .trc = true) (v q : Nat) :
    d.trcWrite TRC_CTRL_MODE v q = (d.modeWritten (d.ctrlWritten TRC_CTRL_MODE v)).answers 0 := by
  have hpulse : bit (d.ctrlWritten TRC_CTRL_MODE v) 5 = false := d.bit_ctrlWritten (by decide) v (by decide) (by decide)
  rw [DieUnit.trcWrite_on hon, DieUnit.writeTrcCtrl_eq, if_pos (d.ctrlWritten_drain_kept (by decide) (by decide) v), hpulse]
  rfl

/-- RING_TRIG acts after the write has stored MODE as it stands (R154). -/
theorem DieUnit.trcWrite_trigger {d : DieUnit} (hon : d.isOn .trc = true) (q : Nat) :
    d.trcWrite TRC_CTRL_RING_TRIG 1 q = (d.modeWritten (d.ctrlWritten TRC_CTRL_RING_TRIG 1)).ringTrigger.answers 0 := by
  have hpulse : bit (d.ctrlWritten TRC_CTRL_RING_TRIG 1) 5 = true := d.bit_ctrlWritten (by decide) 1 (by decide) (by decide)
  rw [DieUnit.trcWrite_on hon, DieUnit.writeTrcCtrl_eq, if_pos (d.ctrlWritten_drain_kept (by decide) (by decide) 1), hpulse]
  rfl

/-- A DRAIN_EN that differs acts (R153). -/
theorem DieUnit.trcWrite_drain {d : DieUnit} (hon : d.isOn .trc = true) {en : Bool} (hnew : en ≠ d.on TRC_CTRL_DRAIN_EN) (q : Nat) :
    d.trcWrite TRC_CTRL_DRAIN_EN (b2n en) q = ((d.modeWritten (d.ctrlWritten TRC_CTRL_DRAIN_EN (b2n en))).writeDrainEn en).answers 0 := by
  have hpulse : bit (d.ctrlWritten TRC_CTRL_DRAIN_EN (b2n en)) 5 = false := d.bit_ctrlWritten (by decide) _ (by decide) (by decide)
  have hen : bit (d.ctrlWritten TRC_CTRL_DRAIN_EN (b2n en)) 3 = en := by
    rw [d.bit_ctrlWritten (by decide) _ (by decide) (by decide)]
    cases en <;> rfl
  rw [DieUnit.trcWrite_on hon, DieUnit.writeTrcCtrl_eq, hen, if_neg hnew, hpulse]
  rfl

/-- DRAIN_EN stops the drain or resumes it, and DRAIN_IDLE shows which (R153). -/
theorem DieUnit.writeDrainEn_on {d : DieUnit} (hon : d.isOn .trc = true) (en : Bool) :
    (d.writeDrainEn en).on TRC_CTRL_DRAIN_EN = en ∧ (d.writeDrainEn en).on TRC_STATUS_DRAIN_IDLE = !en
      ∧ (d.writeDrainEn en).trc.segs = d.trc.segs := by
  rw [DieUnit.writeDrainEn, if_pos hon]
  refine ⟨?_, RegFile.on_set_b2n _ rfl (by decide) _, by simp⟩
  refine (RegFile.on_set_other _ ⟨by decide, by decide⟩ (.inl (by decide)) _).trans ?_
  exact RegFile.on_set_b2n _ rfl (by decide) en

/-- In STREAM mode a ring trigger closes the open segment (R154). -/
theorem DieUnit.ringTrigger_stream {d : DieUnit} (hon : d.isOn .trc = true) (hstream : d.ringMode = false) :
    d.ringTrigger.trc.openSeg = none ∧ d.ringTrigger.trc.staging = d.trc.staging := by
  have htrigger : d.ringTrigger = d.closeSegment := by simp [DieUnit.ringTrigger, hon, hstream]
  simp [htrigger]

/-- In RING mode it also freezes a ring that holds segments. -/
theorem DieUnit.ringTrigger_ring {d : DieUnit} (hon : d.isOn .trc = true) (hring : d.ringMode = true)
    (hrun : d.on TRC_STATUS_RING_FROZEN = false) (hsegs : d.trc.segs ≠ []) :
    d.ringTrigger.on TRC_STATUS_RING_FROZEN = true ∧ d.ringTrigger.trc.openSeg = none := by
  have htrigger : d.ringTrigger = (d.closeSegment.set TRC_STATUS_RING_FROZEN 1).wake .egr := by
    simp [DieUnit.ringTrigger, hon, hring, hrun, TraceFunnel.closed_segs_nil, hsegs]
  rw [htrigger, DieUnit.wake_trc _ (by decide)]
  refine ⟨(RegFile.on_congr (DieUnit.wake_word _ _ (by decide))).trans ?_, by simp⟩
  exact RegFile.on_set_same _ ⟨by decide, by decide⟩ 1

/-! ### The statement -/

/-- Settles O26: the flush and the drain by their conditions, each write of TRC_CTRL by the field it changes. -/
theorem segmentsCloseAndDrain : Obligations.SegmentsCloseAndDrain := by
  unfold Obligations.SegmentsCloseAndDrain
  intro s q mode i en seg e1
  have hbits : bits (s.du.ctrlWritten TRC_CTRL_MODE (mode % 4)) 2 1 = mode % 4 := by rw [DieUnit.ctrlWritten_mode, Nat.mod_mod]
  refine ⟨?none, ?due, ?early, ?stopped, ?ring, ?taken, ?drainEn, ?triggerRing, ?triggerStream, ?mode, ?reserved, ?asleep⟩
  case none => exact fun hnone => congrArg (nextDu s) (DieUnit.segFlush_none hnone)
  case due =>
    intro hopen hs hon hflush hdue
    refine ⟨_, congrArg (nextDu s) (DieUnit.segFlush_due hopen hs hon hflush hdue), ?_⟩
    rw [DieUnit.closeSegment_trc]
    obtain ⟨hclosed, hstaging, -, -⟩ := s.du.trc.closed_fields
    exact ⟨hclosed, TraceFunnel.closed_get hopen hs, hstaging⟩
  case early => exact fun hopen hs hearly => congrArg (nextDu s) (DieUnit.segFlush_early hopen hs hearly)
  case stopped => exact fun hstop => congrArg (nextDu s) (DieUnit.drainSegment_held (.inl hstop))
  case ring => exact fun hrun hawake hring => congrArg (nextDu s) (DieUnit.drainSegment_held (.inr ⟨hrun, hawake, hring⟩))
  case taken =>
    exact fun hrun hawake hstream hdrain hegr hold hs hput hthen =>
      congrArg (nextDu s) (DieUnit.drainSegment_taken hrun hawake hstream hdrain hegr hold hs hput hthen)
  case drainEn =>
    intro hon hnew
    have hmode := s.du.modeWritten_isOn (s.du.ctrlWritten TRC_CTRL_DRAIN_EN (b2n en)) .trc
    obtain ⟨hheld, -⟩ := s.du.modeWritten_trc (s.du.ctrlWritten TRC_CTRL_DRAIN_EN (b2n en))
    obtain ⟨hen, hidle, hsegs⟩ := DieUnit.writeDrainEn_on (hmode.trans hon) en
    exact ⟨_, congrArg (nextDu s) (DieUnit.trcWrite_drain hon hnew q), hen, hidle, hsegs.trans hheld⟩
  case triggerRing =>
    intro hon hring hrun hsegs
    have hkept : bits (s.du.ctrlWritten TRC_CTRL_RING_TRIG 1) 2 1 < 2 := by
      rw [s.du.ctrlWritten_mode_kept (by decide) (by decide), of_decide_eq_true hring]
      decide
    obtain ⟨hheld, -⟩ := s.du.modeWritten_trc (s.du.ctrlWritten TRC_CTRL_RING_TRIG 1)
    refine ⟨_, congrArg (nextDu s) (DieUnit.trcWrite_trigger hon q), ?_⟩
    refine DieUnit.ringTrigger_ring ((s.du.modeWritten_isOn _ .trc).trans hon) ((s.du.modeWritten_ringMode _).trans hring) ?_
      (hheld.symm ▸ hsegs)
    rw [s.du.modeWritten_valid hon hkept]
    exact (RegFile.on_congr (s.du.ctrlKept_word _ (by decide))).trans hrun
  case triggerStream =>
    intro hon hstream
    obtain ⟨hopen, hstaging⟩ := DieUnit.ringTrigger_stream ((s.du.modeWritten_isOn (s.du.ctrlWritten TRC_CTRL_RING_TRIG 1) .trc).trans hon)
      ((s.du.modeWritten_ringMode _).trans hstream)
    obtain ⟨-, hheld⟩ := s.du.modeWritten_trc (s.du.ctrlWritten TRC_CTRL_RING_TRIG 1)
    exact ⟨_, congrArg (nextDu s) (DieUnit.trcWrite_trigger hon q), hopen, hstaging.trans hheld⟩
  case mode =>
    intro hon hmode
    have hvalid := s.du.modeWritten_valid hon (hbits.symm ▸ hmode)
    rw [hbits] at hvalid
    exact ⟨_, congrArg (nextDu s) (DieUnit.trcWrite_mode hon (mode % 4) q), s.du.modeWritten_get _ rfl (by decide) (by decide),
      congrArg DieUnit.trc hvalid⟩
  case reserved =>
    intro hon hmode
    have hlt : mode % 4 < 4 := Nat.mod_lt _ (by decide)
    have hreserved := s.du.modeWritten_reserved hon (hbits.symm ▸ hmode) (hbits.symm ▸ hlt)
    refine ⟨_, congrArg (nextDu s) (DieUnit.trcWrite_mode hon (mode % 4) q), s.du.modeWritten_get _ rfl (by decide) (by decide), ?_, ?_⟩
    · refine (congrArg (fun d : DieUnit => d.on TRC_STATUS_CFG_INVALID) hreserved).trans ?_
      exact RegFile.on_raise_same _ rfl (by decide) (by decide)
    · exact (congrArg DieUnit.trc hreserved).trans (DieUnit.raise_trc _ _)
  case asleep => exact fun hoff => congrArg (nextDu s) (DieUnit.portWrite_asleep privReg_TRC_CTRL hoff _ true q)

end Sys2Proof.Machine
end TraceSegments

section TileRecords
/-!
PROOFS. What the tile capture domain's shared operations leave: notes in its counts and its status, output queued for the frame builder, and the
status fields that follow the state (R161, R169, R172, R206, Table 6-17).
-/
namespace Sys2Proof.Machine

/-- The registers in which the tile capture domain notes what happened: its counts, its status with the event number, and DU_PD by the wake of
the egress domain. -/
def tileNotes : List Nat :=
  [addr_DU_PD, addr_PG_SEQ 8, addr_TCK_STATUS, addr_TCK_COUNTS0, addr_TCK_COUNTS1, addr_TCK_COUNTS2, addr_TCK_COUNTS3]

theorem ne_of_mem_tileNotes {n k : Nat} (hn : n ∉ tileNotes) (hk : k ∈ tileNotes) : n ≠ k := fun e => hn (e ▸ hk)

/-- A wake cause leaves the tile capture domain. -/
@[simp] theorem DieUnit.wake_tcp (d : DieUnit) (k : FastDom) : (d.wake k).tcp = d.tcp := by
  have hpd (e : DieUnit) (p : DomainPower) : (e.setPd k p).tcp = e.tcp := by cases k <;> rfl
  unfold DieUnit.wake
  split
  · simp only
    split <;> simp [hpd]
  · split
    · split <;> rfl
    · simp [hpd, DieUnit.setPdState]

/-- The wake of the egress domain leaves the trace funnel. -/
@[simp] theorem DieUnit.wake_egr_trc (d : DieUnit) : (d.wake .egr).trc = d.trc := d.wake_trc (by decide)

theorem DieUnit.wake_note (d : DieUnit) (k : FastDom) {n : Nat} (hn : n ∉ tileNotes) : (d.wake k).regs.word n = d.regs.word n :=
  d.wake_word k (ne_of_mem_tileNotes hn (by decide))

/-! ### A count and its status bit -/

/-- An occurrence that a count of the domain and a bit of its status tell. -/
theorem DieUnit.counted_note (d : DieUnit) {f g : Fld} (hf : f.reg ∈ tileNotes) (hg : g.reg = addr_TCK_STATUS) {n : Nat} (hn : n ∉ tileNotes) :
    ((d.inc f).raise g).regs.word n = d.regs.word n := by
  simp only [DieUnit.raise_fields, DieUnit.inc_fields]
  rw [RegFile.word_raise _ _ (ne_of_mem_tileNotes hn (hg ▸ by decide)) (ne_of_mem_tileNotes hn (hg ▸ by decide)), RegFile.inc, RegFile.word_set,
    if_neg (ne_of_mem_tileNotes hn hf)]

/-- A bit of the domain's status that is raised stands. -/
theorem DieUnit.on_raise_status (d : DieUnit) (i : Nat) (hi : i < 64) : (d.raise ⟨addr_TCK_STATUS, i, i⟩).on ⟨addr_TCK_STATUS, i, i⟩ = true :=
  RegFile.on_raise_same d.regs rfl hi (show addr_TCK_STATUS ≠ addr_PG_SEQ (pageOf addr_TCK_STATUS) by decide)

/-! ### Output for the frame builder -/

@[simp] theorem DieUnit.queueOut_fields (d : DieUnit) (o : TileOut) :
    (d.queueOut o).tcp = { d.tcp with out := d.tcp.out ++ [o] } ∧ (d.queueOut o).cnt = d.cnt ∧ (d.queueOut o).trc = d.trc := by
  simp [DieUnit.queueOut]

theorem DieUnit.queueOut_word (d : DieUnit) (o : TileOut) {n : Nat} (hn : n ≠ addr_DU_PD) : (d.queueOut o).regs.word n = d.regs.word n :=
  (DieUnit.wake_word _ _ hn).trans (congrArg (RegFile.word · n) (by simp))

/-! ### The status fields that follow the state (Table 6-17) -/

@[simp] theorem DieUnit.showTcp_fields (d : DieUnit) : d.showTcp.tcp = d.tcp ∧ d.showTcp.cnt = d.cnt ∧ d.showTcp.trc = d.trc := by
  simp [DieUnit.showTcp]

theorem DieUnit.showTcp_word (d : DieUnit) {n : Nat} (hn : n ≠ addr_TCK_STATUS) : d.showTcp.regs.word n = d.regs.word n := by
  simp [DieUnit.showTcp, RegFile.word_set, hn]

/-- The bits below them stand. -/
theorem DieUnit.showTcp_on (d : DieUnit) {f : Fld} (hf : f.hi < 44) : d.showTcp.on f = d.on f := by
  have hset (r : RegFile) (g : Fld) (v : Nat) (hg : g.lo ≤ g.hi ∧ g.hi < 64) (hlow : 44 ≤ g.lo) : (r.set g v).on f = r.on f :=
    RegFile.on_set_other r hg (.inr (.inr (Nat.lt_of_lt_of_le hf hlow))) v
  unfold DieUnit.on DieUnit.showTcp
  simp only [DieUnit.set_fields]
  rw [hset _ _ _ (by decide) (by decide), hset _ _ _ (by decide) (by decide), hset _ _ _ (by decide) (by decide)]

/-- DUMP_ACTIVE shows whether a dump runs. -/
theorem DieUnit.showTcp_dumpActive (d : DieUnit) : d.showTcp.get TCK_STATUS_DUMP_ACTIVE = b2n d.tcp.run.isSome := by
  refine (RegFile.get_set_other _ _ _ _ ⟨by decide, by decide⟩ (.inr (.inl (by decide)))).trans ?_
  refine (RegFile.get_set _ _ _ ⟨by decide, by decide⟩).trans ?_
  cases d.tcp.run <;> rfl

/-! ### A dump that is missed (R173) -/

/-- The end chunk of a missed dump. -/
def Dump.missedChunk (x : Dump) : TileOut := .dumpChunk x.job x.gen (dumpChunk x 4 0 0 none [])

@[simp] theorem DieUnit.dumpMissed_fields (d : DieUnit) (x : Dump) : (d.dumpMissed x).tcp = { d.tcp with out := d.tcp.out ++ [x.missedChunk] }
    ∧ (d.dumpMissed x).cnt = d.cnt ∧ (d.dumpMissed x).trc = d.trc := by
  simp [DieUnit.dumpMissed, Dump.missedChunk]

theorem DieUnit.dumpMissed_note (d : DieUnit) (x : Dump) {n : Nat} (hn : n ∉ tileNotes) : (d.dumpMissed x).regs.word n = d.regs.word n :=
  (DieUnit.queueOut_word _ _ (ne_of_mem_tileNotes hn (by decide))).trans (d.counted_note (by decide) rfl hn)

/-- DUMP_MISSED tells it. -/
theorem DieUnit.dumpMissed_on (d : DieUnit) (x : Dump) : (d.dumpMissed x).on TCK_STATUS_DUMP_MISSED = true :=
  (RegFile.on_congr (DieUnit.queueOut_word _ _ (by decide))).trans (DieUnit.on_raise_status _ 4 (by decide))

end Sys2Proof.Machine
end TileRecords

section StepAdvance
/-!
PROOFS. Step advances and check events (R89, R160 to R162, R168, R169, R173): which armed dumps an advance fires and which it keeps, what the end
of a step and the values loaded leave, and what a check event that differs tells.
-/
namespace Sys2Proof.Machine

/-! ### The armed dumps at an advance (R173) -/

/-- The advance to a step fires the dump: it is the dump's own step, or the first after it for a dump at the step's end. -/
def Dump.fires (step : Nat) (x : Dump) : Bool := if x.atEnd then decide (x.step < step) else decide (x.step = step)

/-- The dump's step is still to come. -/
def Dump.waits (step : Nat) (x : Dump) : Bool := if x.atEnd then decide (step ≤ x.step) else decide (step < x.step)

/-- A dump that fires waits no longer. -/
theorem Dump.not_waits_of_fires {step : Nat} {x : Dump} (h : x.fires step = true) : x.waits step = false := by
  unfold Dump.fires at h
  unfold Dump.waits
  split at h <;> simp_all

/-- A dump at a step's end fires at the first advance past it, so only one at a step's start is passed by. -/
theorem Dump.past_of_not_fires {step : Nat} {x : Dump} (h : x.fires step = false) :
    (!x.atEnd && decide (x.step < step)) = !x.waits step := by
  unfold Dump.fires at h
  unfold Dump.waits
  cases hend : x.atEnd <;> simp only [hend, Bool.false_eq_true, if_false, if_true, decide_eq_false_iff_not] at h ⊢
  · rw [Bool.eq_iff_iff]
    simp only [Bool.not_false, Bool.true_and, Bool.not_eq_true', decide_eq_true_eq, decide_eq_false_iff_not]
    omega
  · simp only [Bool.not_true, Bool.false_and, Bool.false_eq, Bool.not_eq_false', decide_eq_true_eq]
    omega

/-- What an advance does with one armed dump. -/
def DieUnit.fireDump (step : Nat) (d : DieUnit) (x : Dump) : DieUnit :=
  let fire := if x.atEnd then decide (x.step < step) else decide (x.step = step)
  let past := !x.atEnd && decide (x.step < step)
  if fire then d.modTcp fun t => { t with triggered := t.triggered ++ [x] }
  else if past then d.dumpMissed x
  else d.modTcp fun t => { t with dumps := t.dumps ++ [x] }

theorem DieUnit.fireDumps_eq (d : DieUnit) (step : Nat) :
    d.fireDumps step = (d.tcp.dumps.foldl (DieUnit.fireDump step) (d.modTcp fun t => { t with dumps := [] })).showTcp := rfl

/-- It joins the triggered ones, stays armed, or is missed. -/
theorem DieUnit.fireDump_cases (step : Nat) (d : DieUnit) (x : Dump) :
    (x.fires step = true ∧ d.fireDump step x = d.modTcp fun t => { t with triggered := t.triggered ++ [x] })
      ∨ (x.fires step = false ∧ x.waits step = true ∧ d.fireDump step x = d.modTcp fun t => { t with dumps := t.dumps ++ [x] })
      ∨ (x.fires step = false ∧ x.waits step = false ∧ d.fireDump step x = d.dumpMissed x) := by
  by_cases hfire : x.fires step = true
  · exact .inl ⟨hfire, if_pos hfire⟩
  · have hno := Bool.eq_false_iff.2 hfire
    have hpast := Dump.past_of_not_fires hno
    refine .inr ?_
    by_cases hwait : x.waits step = true
    · rw [hwait] at hpast
      exact .inl ⟨hno, hwait, (if_neg hfire).trans (if_neg (Bool.eq_false_iff.1 hpast))⟩
    · rw [Bool.eq_false_iff.2 hwait] at hpast
      exact .inr ⟨hno, Bool.eq_false_iff.2 hwait, (if_neg hfire).trans (if_pos hpast)⟩

/-- Of the domain's state the armed dumps, the triggered ones and the output alone change, each in the order of arming. -/
theorem DieUnit.foldl_fireDump_tcp (step : Nat) (l : List Dump) (d : DieUnit) : ∃ out, (l.foldl (DieUnit.fireDump step) d).tcp
    = { d.tcp with dumps := d.tcp.dumps ++ l.filter (Dump.waits step), triggered := d.tcp.triggered ++ l.filter (Dump.fires step), out := out } := by
  induction l generalizing d with
  | nil => exact ⟨d.tcp.out, by simp⟩
  | cons x l ih =>
    obtain ⟨out, hrest⟩ := ih (d.fireDump step x)
    refine ⟨out, hrest.trans ?_⟩
    rcases d.fireDump_cases step x with ⟨hfire, h⟩ | ⟨hno, hwait, h⟩ | ⟨hno, hno', h⟩
    · simp [h, hfire, Dump.not_waits_of_fires hfire]
    · simp [h, hno, hwait]
    · simp [h, hno, hno']

theorem DieUnit.fireDump_others (step : Nat) (d : DieUnit) (x : Dump) : (d.fireDump step x).cnt = d.cnt ∧ (d.fireDump step x).trc = d.trc := by
  rcases d.fireDump_cases step x with ⟨-, h⟩ | ⟨-, -, h⟩ | ⟨-, -, h⟩ <;> simp [h]

theorem DieUnit.fireDump_note (step : Nat) (d : DieUnit) (x : Dump) {n : Nat} (hn : n ∉ tileNotes) :
    (d.fireDump step x).regs.word n = d.regs.word n := by
  rcases d.fireDump_cases step x with ⟨-, h⟩ | ⟨-, -, h⟩ | ⟨-, -, h⟩
  · simp [h]
  · simp [h]
  · rw [h, d.dumpMissed_note x hn]

theorem DieUnit.fireDumps_tcp (d : DieUnit) (step : Nat) : ∃ out, (d.fireDumps step).tcp = { d.tcp with
    dumps := d.tcp.dumps.filter (Dump.waits step), triggered := d.tcp.triggered ++ d.tcp.dumps.filter (Dump.fires step), out := out } := by
  obtain ⟨out, h⟩ := DieUnit.foldl_fireDump_tcp step d.tcp.dumps (d.modTcp fun t => { t with dumps := [] })
  refine ⟨out, ?_⟩
  simp [DieUnit.fireDumps_eq, h]

theorem DieUnit.fireDumps_others (d : DieUnit) (step : Nat) : (d.fireDumps step).cnt = d.cnt ∧ (d.fireDumps step).trc = d.trc := by
  simp only [DieUnit.fireDumps_eq, DieUnit.showTcp_fields]
  exact ⟨foldl_keeps DieUnit.cnt (fun e x => (e.fireDump_others step x).1) _ _,
    foldl_keeps DieUnit.trc (fun e x => (e.fireDump_others step x).2) _ _⟩

theorem DieUnit.fireDumps_note (d : DieUnit) (step : Nat) {n : Nat} (hn : n ∉ tileNotes) : (d.fireDumps step).regs.word n = d.regs.word n :=
  (DieUnit.showTcp_word _ (ne_of_mem_tileNotes hn (by decide))).trans
    (foldl_keeps (fun e : DieUnit => e.regs.word n) (fun e x => e.fireDump_note step x hn) _ _)

/-! ### The end of a step (R168, R169) -/

/-- The coverage record of the step that ends is queued or lost; it changes nothing else of the domain's state. -/
theorem DieUnit.queueCoverage_fields (d : DieUnit) :
    (∃ cov, d.queueCoverage.tcp = { d.tcp with covQueue := cov }) ∧ d.queueCoverage.cnt = d.cnt ∧ d.queueCoverage.trc = d.trc := by
  unfold DieUnit.queueCoverage
  split
  · exact ⟨⟨_, rfl⟩, rfl, rfl⟩
  · split
    · exact ⟨⟨_, by simp; rfl⟩, by simp, by simp⟩
    · exact ⟨⟨d.tcp.covQueue, by simp⟩, by simp, by simp⟩

theorem DieUnit.queueCoverage_note (d : DieUnit) {n : Nat} (hn : n ∉ tileNotes) : d.queueCoverage.regs.word n = d.regs.word n := by
  unfold DieUnit.queueCoverage
  split
  · rfl
  · split
    · rw [DieUnit.wake_note _ _ hn]
      simp
    · exact d.counted_note (by decide) rfl hn

/-- The die unit in which a step has begun, its armed dumps aside: what was loaded is in force, and the coverage counts start anew. -/
def DieUnit.stepBegun (d : DieUnit) (step : Nat) : DieUnit :=
  (d.queueCoverage.loadSel.set TCK_STEP step).modTcp fun t => { t with commits := [], dropped := 0 }

/-- The step named is none, or not greater than the current one (R89). -/
def DieUnit.refusesStep (d : DieUnit) (step : Nat) : Prop := noStep ≤ step ∨ ∃ c, d.step = some c ∧ step ≤ c

section Armed
variable {d : DieUnit} (hon : d.isOn .tcp = true) (harmed : d.on TCK_JOB_ARMED = true) {step : Nat}
include hon harmed

theorem DieUnit.stepAdvance_refused (h : d.refusesStep step) :
    d.stepAdvance step = (d.inc TCK_COUNTS1_STEP_REFUSED_N).raise TCK_STATUS_STEP_REFUSED := by
  unfold DieUnit.stepAdvance
  rcases h with hnone | ⟨c, hc, hle⟩
  · simp [hon, harmed, hnone]
  · simp [hon, harmed, hc, hle]

theorem DieUnit.stepAdvance_accepted (h : ¬ d.refusesStep step) : d.stepAdvance step = (d.stepBegun step).fireDumps step := by
  obtain ⟨hsome, hgreater⟩ := not_or.1 h
  unfold DieUnit.stepAdvance
  cases hstep : d.step with
  | none => simp [hon, harmed, hsome, DieUnit.stepBegun]
  | some c =>
    have hlt : ¬ step ≤ c := fun hle => hgreater ⟨c, hstep, hle⟩
    simp [hon, harmed, hsome, hlt, DieUnit.stepBegun]

end Armed

theorem DieUnit.stepBegun_step (d : DieUnit) {step : Nat} (hstep : step < noStep) : (d.stepBegun step).get TCK_STEP = step :=
  (RegFile.get_set _ TCK_STEP step ⟨by decide, by decide⟩).trans (Nat.mod_eq_of_lt (Nat.lt_trans hstep (by decide)))

theorem DieUnit.stepBegun_others (d : DieUnit) (step : Nat) : (d.stepBegun step).cnt = d.cnt ∧ (d.stepBegun step).trc = d.trc := by
  obtain ⟨-, hcnt, htrc⟩ := d.queueCoverage_fields
  simp [DieUnit.stepBegun, DieUnit.loadSel, hcnt, htrc]

/-- What a new step finds in the domain's state (R162, R168, R169). -/
theorem DieUnit.stepBegun_tcp (d : DieUnit) (step : Nat) : let t := (d.stepBegun step).tcp
    t.commits = [] ∧ t.dropped = 0 ∧ t.fpMap = d.tcp.fpNext.getD d.tcp.fpMap ∧ (∀ k, d.tcp.keyNext = some k → t.sel.key = some k)
      ∧ t.sel.bandT = d.regs.word addr_TCK_BAND_T ∧ t.caps = d.tcp.caps ∧ t.dumps = d.tcp.dumps ∧ t.triggered = d.tcp.triggered := by
  obtain ⟨⟨cov, htcp⟩, -, -⟩ := d.queueCoverage_fields
  have hband := d.queueCoverage_note (n := addr_TCK_BAND_T) (by decide)
  simp only [DieUnit.stepBegun, DieUnit.loadSel, DieUnit.modTcp_fields, DieUnit.set_fields, htcp, hband, true_and, and_true]
  intro k hk
  rw [hk]

/-! ### Check events (R160, R161) -/

/-- The die unit that has counted a mismatch. -/
def DieUnit.mismatched (d : DieUnit) : DieUnit := (d.inc TCK_COUNTS0_MISMATCH_N).raise TCK_STATUS_MISMATCH

@[simp] theorem DieUnit.mismatched_fields (d : DieUnit) :
    d.mismatched.tcp = d.tcp ∧ d.mismatched.jobId = d.jobId ∧ d.mismatched.jobGen = d.jobGen := by
  have hjob : d.mismatched.regs.word addr_TCK_JOB = d.regs.word addr_TCK_JOB := d.counted_note (by decide) rfl (by decide)
  exact ⟨by simp [DieUnit.mismatched], RegFile.get_congr hjob, RegFile.get_congr hjob⟩

theorem DieUnit.mismatched_count (d : DieUnit) :
    d.mismatched.get TCK_COUNTS0_MISMATCH_N = satAdd 16 (d.get TCK_COUNTS0_MISMATCH_N) 1 :=
  (RegFile.get_congr (RegFile.word_raise _ _ (by decide) (by decide))).trans (RegFile.get_inc _ _ _ ⟨by decide, by decide⟩)

/-- Its record is queued where fewer than 8 wait (R161). -/
theorem DieUnit.queueMismatch_room {d : DieUnit} (h : d.tcp.mismatch.length < 8) (rec : List Byte) :
    (d.queueMismatch rec).tcp = { d.tcp with mismatch := d.tcp.mismatch ++ [⟨d.jobId, d.jobGen, rec⟩] }
      ∧ ∀ f : Fld, f.reg ≠ addr_DU_PD → (d.queueMismatch rec).get f = d.get f := by
  unfold DieUnit.queueMismatch
  rw [if_pos h]
  exact ⟨by simp, fun f hf => RegFile.get_congr (DieUnit.wake_word _ _ hf)⟩

section CheckEvent
variable {d : DieUnit} (hon : d.isOn .tcp = true) (harmed : d.on TCK_JOB_ARMED = true) {consumed : Bool} {tensor carried computed : Nat}
  (hmap : d.fpIndex consumed tensor = none) (block q : Nat)
include hon harmed hmap

theorem DieUnit.checkEvent_same (hsame : carried = computed) : d.checkEvent consumed tensor block carried computed q = d := by
  simp [DieUnit.checkEvent, hon, harmed, hmap, hsame]

/-- One that differs is a mismatch where the block is consumed, and an inconsistency of its producer otherwise. -/
theorem DieUnit.checkEvent_differs (hdiffer : carried ≠ computed) : d.checkEvent consumed tensor block carried computed q
    = if consumed then d.mismatched.queueMismatch (d.mismatchRec false tensor block carried computed (d.stamp q))
      else (d.inc TCK_COUNTS0_PROD_INCONS_N).raise TCK_STATUS_PRODUCER_INCONS := by
  simp [DieUnit.checkEvent, hon, harmed, hmap, hdiffer, DieUnit.mismatched]

end CheckEvent

/-! ### The statement -/

/-- Settles O27: the advance and the check event by their cases, an accepted advance by what the new step finds and the dumps it fires. -/
theorem stepsAndCheckEvents : Obligations.StepsAndCheckEvents := by
  unfold Obligations.StepsAndCheckEvents
  intro s step tensor block carried computed q consumed
  have advanced {e : DieUnit} (h : s.du.stepAdvance step = e) : exec (.stepAdvance step) s = nextDu s e.serve := h ▸ rfl
  have checked {c : Bool} {e : DieUnit} (h : s.du.checkEvent c tensor block carried computed q = e) :
      exec (.checkEvent c tensor block carried computed q) s = nextDu s e.serve := h ▸ rfl
  refine ⟨?off, ?noJob, ?refused, ?accepted, ?same, ?produced, ?mismatch⟩
  case off => exact fun hoff => ⟨advanced (by simp [DieUnit.stepAdvance, hoff]), checked (by simp [DieUnit.checkEvent, hoff])⟩
  case noJob =>
    exact fun hon hnone => ⟨advanced (by simp [DieUnit.stepAdvance, hon, hnone]), checked (by simp [DieUnit.checkEvent, hnone])⟩
  case refused => exact fun hon harmed hrefused => advanced (DieUnit.stepAdvance_refused hon harmed hrefused)
  case accepted =>
    intro hon harmed hstep hgreater
    have haccepts : ¬ s.du.refusesStep step := by
      rintro (hnone | ⟨c, hc, hle⟩)
      · exact Nat.not_le.2 hstep hnone
      · exact Nat.not_le.2 (hgreater c hc) hle
    obtain ⟨hcommits, hdropped, hmap, hkey, hband, hcaps, hdumps, htriggered⟩ := s.du.stepBegun_tcp step
    obtain ⟨out, htcp⟩ := (s.du.stepBegun step).fireDumps_tcp step
    obtain ⟨hcnt, htrc⟩ := (s.du.stepBegun step).fireDumps_others step
    obtain ⟨hcnt', htrc'⟩ := s.du.stepBegun_others step
    refine ⟨_, advanced (DieUnit.stepAdvance_accepted hon harmed haccepts), ?_⟩
    rw [htcp]
    refine ⟨?_, hcommits, hdropped, ?_, ?_, hmap, hkey, hband, hcaps, hcnt.trans hcnt', htrc.trans htrc'⟩
    · exact (RegFile.get_congr (DieUnit.fireDumps_note _ _ (by decide))).trans (s.du.stepBegun_step hstep)
    · exact congrArg (List.filter (Dump.waits step)) hdumps
    · exact (congrArg (· ++ _) htriggered).trans (congrArg (s.du.tcp.triggered ++ List.filter (Dump.fires step) ·) hdumps)
  case same => exact fun hon harmed hsame hmap => checked (DieUnit.checkEvent_same hon harmed hmap block q hsame)
  case produced => exact fun hon harmed hdiffer hmap => checked (DieUnit.checkEvent_differs hon harmed hmap block q hdiffer)
  case mismatch =>
    intro hon harmed hdiffer hmap hroom
    obtain ⟨htcp, hid, hgen⟩ := s.du.mismatched_fields
    have hqueued := DieUnit.queueMismatch_room (d := s.du.mismatched) (htcp.symm ▸ hroom)
      (s.du.mismatchRec false tensor block carried computed (s.du.stamp q))
    rw [htcp, hid, hgen] at hqueued
    obtain ⟨hrecord, hkept⟩ := hqueued
    refine ⟨_, checked (DieUnit.checkEvent_differs hon harmed hmap block q hdiffer), ?_⟩
    rw [if_pos rfl, hrecord]
    exact ⟨rfl, rfl, (hkept _ (by decide)).trans s.du.mismatched_count⟩

end Sys2Proof.Machine
end StepAdvance

section TileCommitments
/-!
PROOFS. Tile commitments and their answers (R91, R93, R166, R167, R169): what a commitment leaves to be answered, and the answer in each case.
-/
namespace Sys2Proof.Machine

/-! ### A commitment (R91, R166, R167, R169) -/

/-- Coverage and selection are active: a job is armed, and a step is current. -/
def DieUnit.selActive (d : DieUnit) : Bool := d.on TCK_JOB_ARMED && d.step.isSome

/-- The commitment counts in its condition cell while they are (R169). -/
def DieUnit.commitCounts (d : DieUnit) (cell : Nat) : Store Nat :=
  if d.selActive then storeSet 0 d.tcp.commits cell (satAdd 32 (storeGet 0 d.tcp.commits cell) 1) else d.tcp.commits

theorem DieUnit.commitCounts_same {d : DieUnit} (h : d.selActive = true) (cell : Nat) :
    storeGet 0 (d.commitCounts cell) cell = min (2 ^ 32 - 1) (storeGet 0 d.tcp.commits cell + 1) := by
  rw [DieUnit.commitCounts, if_pos h, storeGet_set, if_pos rfl, satAdd]

theorem DieUnit.commitCounts_other (d : DieUnit) {cell k : Nat} (hk : k ≠ cell) :
    storeGet 0 (d.commitCounts cell) k = storeGet 0 d.tcp.commits k := by
  unfold DieUnit.commitCounts
  split
  · rw [storeGet_set, if_neg hk]
  · rfl

/-- The keyed hash of the commitment's name lies below the threshold of its cell, under a key in force (R167). -/
def DieUnit.selects (d : DieUnit) (x : CommitIn) : Prop := ∃ key, d.tcp.sel.key = some key
  ∧ (sipHash key (selMessage d.jobId d.jobGen (d.get TCK_STEP) x.tensor x.tile)).toNat / 2 ^ 32 < d.tcp.sel.thrOf (d.cellOf (x.num % 16))

/-- What a commitment leaves: the last of those that await their answer, counted in its cell. -/
theorem DieUnit.tileCommit_on {d : DieUnit} (hon : d.isOn .tcp = true) (x : CommitIn) (q : Nat) : ∃ c : Commit,
    d.tileCommit x q = d.modTcp (fun t => { t with awaiting := t.awaiting ++ [c], commits := d.commitCounts (d.cellOf (x.num % 16)) })
      ∧ c.tensor = x.tensor ∧ c.tile = x.tile ∧ c.cell = d.cellOf (x.num % 16) ∧ c.t = d.stamp q ∧ c.job = d.jobId ∧ c.outCheck = x.outCheck
      ∧ (c.wanted = true ↔ d.selActive = true ∧ d.on TCK_CTRL_SEL_EN = true ∧ d.selects x) := by
  unfold DieUnit.tileCommit
  rw [if_neg (Decidable.not_not.2 hon)]
  refine ⟨_, rfl, rfl, rfl, rfl, rfl, rfl, rfl, ?_⟩
  unfold DieUnit.selects DieUnit.selActive
  cases hkey : d.tcp.sel.key with
  | none => simp
  | some key => simp [and_assoc]

/-! ### The answer (R93, R167) -/

/-- A commitment is answered: it awaits no longer. -/
def TileCapture.answered (t : TileCapture) (com : Commit) (rest : List Commit) (sel : Bool) (tag : Nat) : TileCapture :=
  { t with awaiting := rest, answers := t.answers ++ [⟨com.tensor, com.tile, sel, tag⟩] }

@[simp] theorem TileCapture.answered_fields (t : TileCapture) (com : Commit) (rest : List Commit) (sel : Bool) (tag : Nat) :
    (t.answered com rest sel tag).awaiting = rest ∧ (t.answered com rest sel tag).answers = t.answers ++ [⟨com.tensor, com.tile, sel, tag⟩]
      ∧ (t.answered com rest sel tag).caps = t.caps ∧ (t.answered com rest sel tag).capSeq = t.capSeq := ⟨rfl, rfl, rfl, rfl⟩

/-- The capture that a selected commitment begins, none of its beats come. -/
def DieUnit.newCapture (d : DieUnit) (com : Commit) : Capture :=
  { com := com, seq := d.tcp.capSeq, at_ := d.mono, begun := false, part := 0, got := 0, sent := 0, chunk := [], crc := crc64Init,
    malformed := false, commitFail := false }

/-- An answer changes nothing while the domain is off. -/
theorem DieUnit.selectionAnswer_off {d : DieUnit} (hoff : d.isOn .tcp = false) : d.selectionAnswer = d := by
  unfold DieUnit.selectionAnswer
  split
  · rfl
  · exact if_pos (Bool.eq_false_iff.1 hoff)

section Answer
variable {d : DieUnit} (hon : d.isOn .tcp = true) {com : Commit} {rest : List Commit} (hawait : d.tcp.awaiting = com :: rest)
include hon hawait

theorem DieUnit.selectionAnswer_unwanted (hno : com.wanted = false) :
    d.selectionAnswer = d.modTcp (·.answered com rest false 0) := by
  simp [DieUnit.selectionAnswer, hon, hawait, hno, TileCapture.answered]

variable (hwanted : com.wanted = true) (hjob : d.job = some (com.job, com.gen))
include hwanted hjob

/-- A wanted commitment of the job that is armed takes the lowest free tag. -/
theorem DieUnit.selectionAnswer_selected {tag : Nat} (hfree : d.tcp.freeTag = some tag) : d.selectionAnswer = (d.modTcp fun t =>
    { t with caps := tabPut t.caps tag (d.newCapture com), capSeq := (t.capSeq + 1) % 2 ^ 32 }.answered com rest true tag).showTcp := by
  simp [DieUnit.selectionAnswer, hon, hawait, hwanted, hjob, hfree, TileCapture.answered, DieUnit.newCapture]

/-- It is dropped where no tag is free. -/
theorem DieUnit.selectionAnswer_dropped (hfull : d.tcp.freeTag = none) : d.selectionAnswer
    = ((d.inc TCK_COUNTS1_SEL_DROPPED_N).raise TCK_STATUS_SEL_DROPPED).modTcp
        fun t => { t with dropped := satAdd 32 t.dropped 1 }.answered com rest false 0 := by
  simp [DieUnit.selectionAnswer, hon, hawait, hwanted, hjob, hfull, TileCapture.answered]

end Answer

/-! ### The statement -/

/-- Settles O28: the commitment by what it leaves, the answer by whether the commitment is wanted and a tag is free. -/
theorem tileSelection : Obligations.TileSelection := by
  unfold Obligations.TileSelection
  intro s x q tag com rest
  have committed {e : DieUnit} (h : s.du.tileCommit x q = e) : exec (.tileCommit x q) s = nextDu s e := h ▸ rfl
  have answers {e : DieUnit} (h : s.du.selectionAnswer = e) : exec .selectionAnswer s = nextDu s e := h ▸ rfl
  refine ⟨?off, ?commit, ?selected, ?dropped, ?unwanted⟩
  case off => exact fun hoff => ⟨committed (by simp [DieUnit.tileCommit, hoff]), answers (DieUnit.selectionAnswer_off hoff)⟩
  case commit =>
    intro hon
    obtain ⟨c, hcommit, htensor, htile, hcell, ht, hjob, hcheck, hwanted⟩ := DieUnit.tileCommit_on hon x q
    have hactive : s.du.selActive = true ↔ s.du.on TCK_JOB_ARMED = true ∧ s.du.step.isSome = true := Bool.and_eq_true_iff
    rw [hactive, and_assoc] at hwanted
    exact ⟨_, c, committed hcommit, rfl, rfl, htensor, htile, hcell, ht, hjob, hcheck, hwanted,
      fun harmed hstep => DieUnit.commitCounts_same (hactive.2 ⟨harmed, hstep⟩) _, fun k hk => s.du.commitCounts_other hk⟩
  case selected =>
    intro hon hawait hwanted hjob hfree
    refine ⟨_, s.du.newCapture com, answers (DieUnit.selectionAnswer_selected hon hawait hwanted hjob hfree), ?_⟩
    exact ⟨by simp, by simp, by simp [tabGet_put], rfl, rfl, rfl, by simp⟩
  case dropped =>
    intro hon hawait hwanted hjob hfull
    refine ⟨_, answers (DieUnit.selectionAnswer_dropped hon hawait hwanted hjob hfull), ?_⟩
    exact ⟨by simp, by simp, by simp, (RegFile.on_congr (by simp)).trans ((s.du.inc TCK_COUNTS1_SEL_DROPPED_N).on_raise_status 9 (by decide))⟩
  case unwanted => exact fun hon hawait hno => answers (DieUnit.selectionAnswer_unwanted hon hawait hno)

end Sys2Proof.Machine
end TileCommitments

section Captures
/-!
PROOFS. Captures (R170 to R172, R175, Table 6-9): how a capture ends, what a beat of its data does, and its two deadlines.
-/
namespace Sys2Proof.Machine

/-! ### The end of a capture (R171, R172) -/

/-- The descriptor of a capture that ends with a status. -/
def Capture.endDesc (c : Capture) (tag status : Nat) : TileOut := .capDesc c.com.job c.com.gen (captureDesc c.com c.seq tag status)

theorem DieUnit.endCapture_none {d : DieUnit} {tag : Nat} (h : tabGet d.tcp.caps tag = none) (status : Nat) : d.endCapture tag status = d := by
  rw [DieUnit.endCapture, h]

/-- Its tag is free and its descriptor is queued; whatever its status counts, the dump that runs, the counters and the trace funnel stand. -/
theorem DieUnit.endCapture_some {d : DieUnit} {tag : Nat} {c : Capture} (h : tabGet d.tcp.caps tag = some c) (status : Nat) :
    tabGet (d.endCapture tag status).tcp.caps tag = none ∧ (d.endCapture tag status).tcp.out = d.tcp.out ++ [c.endDesc tag status]
      ∧ (d.endCapture tag status).tcp.run = d.tcp.run ∧ (d.endCapture tag status).cnt = d.cnt ∧ (d.endCapture tag status).trc = d.trc := by
  rw [DieUnit.endCapture, h]
  simp only [DieUnit.showTcp_fields]
  split <;> simp [tabGet_del, Capture.endDesc]

/-! ### A beat of capture data (R171, R172, R206) -/

/-- The buffers and staging have room for the beat. -/
def DieUnit.takes (d : DieUnit) (data : List Byte) : Prop := d.fb.full = false ∧ d.tcp.buffered + data.length ≤ bufferBytes

/-- A capture that holds a beat whole. -/
def Capture.taken (c : Capture) (data : List Byte) : Capture :=
  { c with begun := true, got := c.got + data.length, chunk := c.chunk ++ data, crc := if c.part = 2 then crc64Run c.crc data else c.crc }

/-- The data of a beat lie in the buffers. -/
def DieUnit.beatHeld (d : DieUnit) (tag : Nat) (c : Capture) (data : List Byte) : DieUnit :=
  d.modTcp fun t => { t with buffered := t.buffered + data.length, caps := tabPut t.caps tag (c.taken data) }

theorem DieUnit.beatHeld_get (d : DieUnit) (tag : Nat) (c : Capture) (data : List Byte) :
    tabGet (d.beatHeld tag c data).tcp.caps tag = some (c.taken data) := (tabGet_put _ _ _ _).trans (if_pos rfl)

/-- A chunk that is full, or the last of its part, is queued unless it is empty. -/
def DieUnit.chunkSent (d : DieUnit) (tag : Nat) (c : Capture) (last : Bool) : DieUnit :=
  if (last || decide (chunkBytes ≤ c.chunk.length)) = true ∧ c.chunk ≠ [] then
    (d.queueOut (.capChunk c.com.job c.com.gen (captureChunk c.com c.seq tag c.part c.sent last c.chunk))).modTcp fun t =>
      { t with caps := tabPut t.caps tag { c with sent := c.sent + c.chunk.length, chunk := [] } }
  else d

/-- The capture stays in the table under its name. -/
theorem DieUnit.chunkSent_get {d : DieUnit} {tag : Nat} {c : Capture} (h : tabGet d.tcp.caps tag = some c) (last : Bool) :
    ∃ c', tabGet (d.chunkSent tag c last).tcp.caps tag = some c' ∧ ∀ status, c'.endDesc tag status = c.endDesc tag status := by
  unfold DieUnit.chunkSent
  split
  · exact ⟨{ c with sent := c.sent + c.chunk.length, chunk := [] }, by simp [tabGet_put], fun _ => rfl⟩
  · exact ⟨c, h, fun _ => rfl⟩

theorem DieUnit.chunkSent_part {d : DieUnit} {tag : Nat} {c : Capture} (h : c.chunk.length < chunkBytes) : d.chunkSent tag c false = d :=
  if_neg fun hsent => by simp [Nat.not_le.2 h] at hsent

/-- A beat finds no room. -/
theorem DieUnit.captureBeat_noRoom {d : DieUnit} {part : Nat} (hpart : part ≠ 3) {data : List Byte} (hno : ¬ d.takes data) (tag : Nat)
    (last : Bool) : d.captureBeat tag part data last = d := by
  unfold DieUnit.captureBeat
  rw [if_neg hpart]
  split
  · rfl
  next hfull =>
    obtain ⟨-, hfree⟩ := not_or.1 hfull
    split
    · rfl
    · exact if_pos (Nat.lt_of_not_le fun hroom => hno ⟨Bool.eq_false_iff.2 hfree, hroom⟩)

theorem DieUnit.captureBeat_none {d : DieUnit} {part tag : Nat} (hpart : part ≠ 3) (hnone : tabGet d.tcp.caps tag = none) (data : List Byte)
    (last : Bool) : d.captureBeat tag part data last = d := by
  unfold DieUnit.captureBeat
  simp [hpart, hnone]

section Beat
variable {d : DieUnit} (hon : d.isOn .tcp = true) {tag : Nat} {c : Capture} (hc : tabGet d.tcp.caps tag = some c) {data : List Byte}
  (htakes : d.takes data)
include hon hc htakes

/-- A part out of order ends the capture MALFORMED. -/
theorem DieUnit.captureBeat_outOfOrder {part : Nat} (hpart : part ≠ 3) (horder : part ≠ c.part) (last : Bool) :
    d.captureBeat tag part data last = d.endCapture tag 3 := by
  obtain ⟨hfull, hroom⟩ := htakes
  unfold DieUnit.captureBeat
  simp [hpart, hon, hfull, hc, Nat.not_lt.2 hroom, horder]

variable (hpart : c.part < 3) {l : Nat} (hlen : d.partLen c.com c.part = some l)
include hpart hlen

/-- A part that ends below its length ends the capture MALFORMED. -/
theorem DieUnit.captureBeat_short (hshort : c.got + data.length < l) : d.captureBeat tag c.part data true = d.endCapture tag 3 := by
  obtain ⟨hfull, hroom⟩ := htakes
  have htake : data.take (l - c.got) = data := List.take_of_length_le (by omega)
  unfold DieUnit.captureBeat
  simp [Nat.ne_of_lt hpart, hon, hfull, hc, Nat.not_lt.2 hroom, hlen, htake, hshort]

/-- A beat within the part is held. -/
theorem DieUnit.captureBeat_within (hmore : c.got + data.length < l) :
    d.captureBeat tag c.part data false = (d.beatHeld tag c data).chunkSent tag (c.taken data) false := by
  obtain ⟨hfull, hroom⟩ := htakes
  have htake : data.take (l - c.got) = data := List.take_of_length_le (by omega)
  unfold DieUnit.captureBeat
  simp [Nat.ne_of_lt hpart, hon, hfull, hc, Nat.not_lt.2 hroom, hlen, htake, Nat.not_le.2 hmore, DieUnit.beatHeld, DieUnit.chunkSent,
    Capture.taken]

end Beat

/-- The output width is defined where the output part has a length (R171). -/
theorem DieUnit.outWidth_of_partLen {d : DieUnit} {com : Commit} {l : Nat} (h : d.partLen com 2 = some l) :
    (d.outWidth com.num).isSome = true := by
  obtain ⟨w, hw, -⟩ := Option.map_eq_some_iff.1 h
  rw [hw]
  rfl

/-- The output part that ends at its length ends the capture by its CRC-64: OK, or FAIL. -/
theorem DieUnit.captureBeat_output {d : DieUnit} (hon : d.isOn .tcp = true) {tag : Nat} {c : Capture} (hc : tabGet d.tcp.caps tag = some c)
    {data : List Byte} (htakes : d.takes data) (hpart : c.part = 2) {l : Nat} (hlen : d.partLen c.com 2 = some l)
    (hwhole : c.got + data.length = l) : d.captureBeat tag 2 data true
      = ((d.beatHeld tag c data).chunkSent tag (c.taken data) true).endCapture tag
          (if crc64Run c.crc data ^^^ crc64Init = c.com.outCheck then 0 else 4) := by
  obtain ⟨hfull, hroom⟩ := htakes
  have hwidth := DieUnit.outWidth_of_partLen hlen
  have htake : data.take (l - c.got) = data := List.take_of_length_le (by omega)
  unfold DieUnit.captureBeat
  simp [hpart, hon, hfull, hc, Nat.not_lt.2 hroom, hlen, htake, hwhole, hwidth, DieUnit.beatHeld, DieUnit.chunkSent, Capture.taken]

/-! ### Deadlines (Table 6-9) -/

theorem DieUnit.captureDeadline_none {d : DieUnit} {tag : Nat} (h : tabGet d.tcp.caps tag = none) : d.captureDeadline tag = d := by
  rw [DieUnit.captureDeadline, h]

theorem DieUnit.captureUnfinished_none {d : DieUnit} {tag : Nat} (h : tabGet d.tcp.caps tag = none) : d.captureUnfinished tag = d := by
  rw [DieUnit.captureUnfinished, h]

section Deadlines
variable {d : DieUnit} {tag : Nat} {c : Capture} (hc : tabGet d.tcp.caps tag = some c)
include hc

theorem DieUnit.captureDeadline_some : d.captureDeadline tag
    = if c.begun = false ∧ c.at_ + d.capDeadline ≤ d.mono then d.endCapture tag 1 else d := by
  simp [DieUnit.captureDeadline, hc]

theorem DieUnit.captureUnfinished_some : d.captureUnfinished tag
    = if c.begun = true ∧ c.at_ + 4 * d.capDeadline ≤ d.mono then d.endCapture tag 6 else d := by
  simp [DieUnit.captureUnfinished, hc]

end Deadlines

/-! ### The statement -/

/-- Settles O29: each ending by the status it has, each beat by whether it finds room and how its part stands. -/
theorem capturesAreCheckedAgainstTheirLength : Obligations.CapturesAreCheckedAgainstTheirLength := by
  unfold Obligations.CapturesAreCheckedAgainstTheirLength
  intro s tag part l data last c d crc fits desc ended hon
  have beat {p : Nat} {b : Bool} {e : DieUnit} (h : d.captureBeat tag p data b = e) : exec (.captureBeat tag p data b) s = nextDu s e.serve :=
    h ▸ rfl
  have abort {e : DieUnit} (h : d.endCapture tag 2 = e) : exec (.captureAbort tag) s = nextDu s e.serve := by
    have habort : d.captureAbort tag = e := (if_pos hon).trans h
    exact habort ▸ rfl
  have deadline {e : DieUnit} (h : d.captureDeadline tag = e) : exec (.captureDeadline tag) s = nextDu s e.serve := h ▸ rfl
  have unfinished {e : DieUnit} (h : d.captureUnfinished tag = e) : exec (.captureUnfinished tag) s = nextDu s e.serve := h ▸ rfl
  refine ⟨rfl, fun hnone => ⟨?noBeat, ?noAbort, ?noDeadline, ?noUnfinished⟩, fun hc hpart => ?pending⟩
  case noBeat => exact fun hpart => beat (DieUnit.captureBeat_none hpart hnone data last)
  case noAbort => exact abort (DieUnit.endCapture_none hnone 2)
  case noDeadline => exact deadline (DieUnit.captureDeadline_none hnone)
  case noUnfinished => exact unfinished (DieUnit.captureUnfinished_none hnone)
  case pending =>
    have ends {o : Out} {status : Nat} (h : o = nextDu s (d.endCapture tag status).serve) : ended o status :=
      ⟨_, h, DieUnit.endCapture_some hc status⟩
    refine ⟨?noRoom, ?outOfOrder, ?short, ?within, ?output, ends (abort rfl), ?notBegun, ?notDone, ?early⟩
    case noRoom => exact fun hp hno => beat (DieUnit.captureBeat_noRoom hp hno tag last)
    case outOfOrder => exact fun hp hfits horder => ends (beat (DieUnit.captureBeat_outOfOrder hon hc hfits hp horder last))
    case short => exact fun hfits hlen hshort => ends (beat (DieUnit.captureBeat_short hon hc hfits hpart hlen hshort))
    case within =>
      intro hfits hlen hmore hchunk
      have hwithin := DieUnit.captureBeat_within hon hc hfits hpart hlen hmore
      rw [DieUnit.chunkSent_part (by simpa [Capture.taken] using hchunk)] at hwithin
      exact ⟨_, beat hwithin, d.beatHeld_get tag c data, rfl, rfl⟩
    case output =>
      intro hfits hp hlen hwhole
      obtain ⟨c', hc', hdesc⟩ := DieUnit.chunkSent_get (d.beatHeld_get tag c data) true
      obtain ⟨hfree, hout, -⟩ := DieUnit.endCapture_some hc' (if crc64Run c.crc data ^^^ crc64Init = c.com.outCheck then 0 else 4)
      rw [hdesc] at hout
      exact ⟨_, beat (DieUnit.captureBeat_output hon hc hfits hp hlen hwhole), hfree, hout ▸ List.getLast?_concat⟩
    case notBegun => exact fun hbegun hdue => ends (deadline ((DieUnit.captureDeadline_some hc).trans (if_pos ⟨hbegun, hdue⟩)))
    case notDone => exact fun hbegun hdue => ends (unfinished ((DieUnit.captureUnfinished_some hc).trans (if_pos ⟨hbegun, hdue⟩)))
    case early =>
      intro hearly
      exact ⟨deadline ((DieUnit.captureDeadline_some hc).trans (if_neg fun h => by omega)),
        unfinished ((DieUnit.captureUnfinished_some hc).trans (if_neg fun h => by omega))⟩

end Sys2Proof.Machine
end Captures

section NamedDumps
/-!
PROOFS. Named dumps (R173 to R175): the request and its acknowledgement, the deadline, and what a beat of dump data does.
-/
namespace Sys2Proof.Machine

/-- The dump just requested (R174). -/
def DieUnit.requested (d : DieUnit) (x : Dump) : DumpRun := ⟨x, false, d.mono, 0, 0, 0, [], crc64Init⟩

/-! ### While no dump runs (R174) -/

section Idle
variable {d : DieUnit} (hidle : d.tcp.run = none)
include hidle

theorem DieUnit.dumpRequest_none (hnone : d.tcp.triggered = []) : d.dumpRequest = d := by
  simp [DieUnit.dumpRequest, hidle, hnone]

/-- The oldest triggered dump is requested. -/
theorem DieUnit.dumpRequest_next (hon : d.isOn .tcp = true) {x : Dump} {rest : List Dump} (hnext : d.tcp.triggered = x :: rest) :
    d.dumpRequest = (d.modTcp fun t => { t with triggered := rest, run := some (d.requested x) }).showTcp := by
  simp [DieUnit.dumpRequest, hidle, hnext, hon, DieUnit.requested]

theorem DieUnit.dumpAck_idle : d.dumpAck = d := by
  rw [DieUnit.dumpAck, DieUnit.modTcp, hidle, Option.map_none, ← hidle]

theorem DieUnit.dumpAckTimeout_idle : d.dumpAckTimeout = d := by
  rw [DieUnit.dumpAckTimeout, hidle]

theorem DieUnit.dumpBeat_idle (data : List Byte) (last final abort : Bool) : d.dumpBeat data last final abort = d := by
  rw [DieUnit.dumpBeat, hidle]

end Idle

/-! ### A dump that is requested (R174) -/

section Running
variable {d : DieUnit} {r : DumpRun} (hrun : d.tcp.run = some r)
include hrun

theorem DieUnit.dumpAck_running : d.dumpAck = d.modTcp fun t => { t with run := some { r with streaming := true } } := by
  rw [DieUnit.dumpAck, DieUnit.modTcp, hrun]
  rfl

/-- Without an acknowledgement it is missed after DUMP_DEADLINE. -/
theorem DieUnit.dumpAckTimeout_missed (hwaits : r.streaming = false)
    (hdue : r.reqAt + max 1 (d.get TCK_CTRL_DUMP_DEADLINE) * 1000000 ≤ d.mono) :
    d.dumpAckTimeout = ((d.modTcp fun t => { t with run := none }).dumpMissed r.d).showTcp := by
  simp [DieUnit.dumpAckTimeout, hrun, hwaits, hdue]

variable (hstream : r.streaming = true)
include hstream

theorem DieUnit.dumpAckTimeout_streaming : d.dumpAckTimeout = d := by
  simp [DieUnit.dumpAckTimeout, hrun, hstream]

/-! ### The stream (R175) -/

variable (hon : d.isOn .tcp = true)
include hon

theorem DieUnit.dumpBeat_abort (data : List Byte) (last final : Bool) : d.dumpBeat data last final true = d.dumpAborted := by
  simp [DieUnit.dumpBeat, hrun, hstream, hon]

theorem DieUnit.dumpBeat_full (hfull : d.fb.full = true) (data : List Byte) (last final : Bool) : d.dumpBeat data last final false = d := by
  simp [DieUnit.dumpBeat, hrun, hstream, hon, hfull]

end Running

theorem DieUnit.dumpAborted_run (d : DieUnit) : d.dumpAborted.tcp.run = none := by
  cases hrun : d.tcp.run with
  | none => rwa [DieUnit.dumpAborted, hrun]
  | some r => simp [DieUnit.dumpAborted, hrun]

/-- The dump at the start of its next block. -/
def DumpRun.nextBlock (r : DumpRun) : DumpRun := { r with block := r.block + 1, got := 0, sent := 0, chunk := [], crc := crc64Init }

/-- The chunk that ends a block, with the block's check value. -/
def DumpRun.blockChunk (r : DumpRun) (data : List Byte) (final : Bool) : TileOut := .dumpChunk r.d.job r.d.gen
  (dumpChunk r.d (b2n final) r.block r.sent (some (crc64Run r.crc data ^^^ crc64Init)) (r.chunk ++ data))

/-- At the end of a block its chunk is queued, and the dump goes on with the next block or ends. -/
theorem DieUnit.dumpBeat_block {d : DieUnit} {r : DumpRun} (hrun : d.tcp.run = some r) (hstream : r.streaming = true) (hon : d.isOn .tcp = true)
    (hfree : d.fb.full = false) {data : List Byte} (hroom : d.tcp.buffered + data.length ≤ bufferBytes) (final : Bool) :
    d.dumpBeat data true final false
      = (((d.modTcp fun t => { t with buffered := t.buffered + data.length }).queueOut (r.blockChunk data final)).modTcp
          fun t => { t with run := if final then none else some r.nextBlock }).showTcp := by
  simp [DieUnit.dumpBeat, hrun, hstream, hon, hfree, Nat.not_lt.2 hroom, DumpRun.blockChunk, DumpRun.nextBlock]

/-! ### The statement -/

/-- Settles O30: the request and the acknowledgement by whether a dump runs, the beat by what becomes of its block. -/
theorem namedDumpsStreamInBlocks : Obligations.NamedDumpsStreamInBlocks := by
  unfold Obligations.NamedDumpsStreamInBlocks
  intro s x rest r data final
  have requests {e : DieUnit} (h : s.du.dumpRequest = e) : exec .dumpRequest s = nextDu s e := h ▸ rfl
  have acked {e : DieUnit} (h : s.du.dumpAck = e) : exec .dumpAck s = nextDu s e := h ▸ rfl
  have timeout {e : DieUnit} (h : s.du.dumpAckTimeout = e) : exec .dumpAckTimeout s = nextDu s e.serve := h ▸ rfl
  have beat {abort : Bool} {e : DieUnit} (h : s.du.dumpBeat data true final abort = e) :
      exec (.dumpBeat data true final abort) s = nextDu s e.serve := h ▸ rfl
  refine ⟨?noneTriggered, ?idle, ?request, ?ack, ?missed, ?streaming, ?abort, ?full, ?block⟩
  case noneTriggered => exact fun hidle hnone => requests (DieUnit.dumpRequest_none hidle hnone)
  case idle =>
    exact fun hidle => ⟨acked (DieUnit.dumpAck_idle hidle), timeout (DieUnit.dumpAckTimeout_idle hidle),
      beat (DieUnit.dumpBeat_idle hidle data true final false)⟩
  case request =>
    intro hon hidle hnext
    exact ⟨_, requests (DieUnit.dumpRequest_next hidle hon hnext), by simp, by simp [DieUnit.requested], DieUnit.showTcp_dumpActive _⟩
  case ack => exact fun hrun => acked (DieUnit.dumpAck_running hrun)
  case missed =>
    intro hrun hwaits hdue
    refine ⟨_, timeout (DieUnit.dumpAckTimeout_missed hrun hwaits hdue), by simp, ?_, by simp [Dump.missedChunk]⟩
    exact (DieUnit.showTcp_on _ (by decide)).trans (DieUnit.dumpMissed_on _ _)
  case streaming => exact fun hrun hstream => timeout (DieUnit.dumpAckTimeout_streaming hrun hstream)
  case abort => exact fun hon hrun hstream => ⟨beat (DieUnit.dumpBeat_abort hrun hstream hon data true final), s.du.dumpAborted_run⟩
  case full => exact fun hon hrun hstream hfull => beat (DieUnit.dumpBeat_full hrun hstream hon hfull data true final)
  case block =>
    intro hon hrun hstream hfree hroom
    refine ⟨_, beat (DieUnit.dumpBeat_block hrun hstream hon hfree hroom final), ?_⟩
    simp only [DieUnit.showTcp_fields, DieUnit.modTcp_fields, DieUnit.queueOut_fields]
    refine ⟨rfl, fun hfinal => if_pos hfinal, fun hmore => ?_⟩
    rw [hmore]
    rfl

end Sys2Proof.Machine
end NamedDumps

section ChannelOpen
/-!
PROOFS. CHANNEL_OPEN (R200) and the free values drawn (`Aggregator.free`): a PRIVILEGED channel that runs draws one, what follows an event takes none
back, and a poisoned descriptor (R235) opens nothing. The state that refutes O38 follows.
-/
namespace Sys2Proof.Machine

/-! ### Folds and shared operations -/

theorem foldl_free {α : Type} {f : Aggregator → α → Aggregator} (h : ∀ b x, (f b x).free = b.free) (l : List α) (a : Aggregator) :
    (l.foldl f a).free = a.free := by
  induction l generalizing a with
  | nil => rfl
  | cons x xs ih => rw [List.foldl_cons, ih, h]

theorem le_foldl_free {α : Type} {f : Aggregator → α → Aggregator} (h : ∀ b x, b.free ≤ (f b x).free) (l : List α) (a : Aggregator) :
    a.free ≤ (l.foldl f a).free := by
  induction l generalizing a with
  | nil => exact Nat.le_refl _
  | cons x xs ih => exact Nat.le_trans (h a x) (ih _)

@[simp] theorem Aggregator.modMir_free (a : Aggregator) (f : Mirror → Mirror) : (a.modMir f).free = a.free := rfl

@[simp] theorem Aggregator.event_free (a : Aggregator) (e : MgmtEvent) : (a.event e).free = a.free := by
  unfold Aggregator.event
  split <;> simp

@[simp] theorem Aggregator.report_free (a : Aggregator) (name : String) (args : List Nat) : (a.report name args).free = a.free :=
  a.event_free _

/-! ### Power domains (R250 to R253) and accesses to memory (R244, R247) -/

@[simp] theorem Aggregator.setAd_free (a : Aggregator) (k st : Nat) : (a.setAd k st).free = a.free := by
  simp [Aggregator.setAd, Aggregator.showPower]

@[simp] theorem Aggregator.beginWake_free (a : Aggregator) (k : Nat) (off : Bool) : (a.beginWake k off).free = a.free := by
  simp [Aggregator.beginWake]

@[simp] theorem Aggregator.wakeOne_free (a : Aggregator) (k : Nat) : (a.wakeOne k).free = a.free := by
  unfold Aggregator.wakeOne
  dsimp only
  split
  · rfl
  · split <;> simp

@[simp] theorem Aggregator.wakeDomain_free (a : Aggregator) (k : Nat) : (a.wakeDomain k).free = a.free := by
  unfold Aggregator.wakeDomain
  split
  · simp
  · split
    · split <;> simp
    · simp

@[simp] theorem Aggregator.wakeAudit_free (a : Aggregator) : a.wakeAudit.free = a.free := by simp [Aggregator.wakeAudit]

@[simp] theorem Aggregator.hbmTouch_free (a : Aggregator) (addr len : Nat) : (a.hbmTouch addr len).free = a.free :=
  foldl_free (fun b g => by simp) _ a

@[simp] theorem Aggregator.cdeWrite_free (a : Aggregator) (addr : Nat) (l : List Byte) : (a.cdeWrite addr l).free = a.free := by
  unfold Aggregator.cdeWrite Aggregator.memWrite
  split
  · simp [Aggregator.poke]
  · unfold Aggregator.accessFault
    split <;> simp

/-! ### The mirror and the ledger (chapter 13) -/

@[simp] theorem Aggregator.mirrorSend_free (a : Aggregator) (kind : Nat) (l : List Byte) : (a.mirrorSend kind l).free = a.free := by
  unfold Aggregator.mirrorSend
  dsimp only
  split
  · rfl
  · split <;> simp [Aggregator.mirrorFrame]

/-- The image of a job context is the one free value that follows an event. -/
theorem Aggregator.mirrorJob_free (a : Aggregator) (c : Nat) : (a.mirrorJob c).free = a.free + 1 := by
  simp [Aggregator.mirrorJob, Aggregator.mirrorContext, Aggregator.draw]

@[simp] theorem Aggregator.modLedger_free (a : Aggregator) (job gen home : Nat) (f : Ledger → Ledger) :
    (a.modLedger job gen home f).free = a.free := rfl

@[simp] theorem Aggregator.showOcc_free (a : Aggregator) : a.showOcc.free = a.free := by simp [Aggregator.showOcc]

@[simp] theorem Aggregator.dropOldest_free (a : Aggregator) : a.dropOldest.free = a.free := by
  unfold Aggregator.dropOldest
  split <;> simp

@[simp] theorem Aggregator.makeRoom_free (a : Aggregator) (job gen home : Nat) (r : LRec) (n : Nat) :
    (a.makeRoom job gen home r n).free = a.free := by
  induction n generalizing a with
  | zero => rfl
  | succ n ih =>
    unfold Aggregator.makeRoom
    dsimp only
    split
    · rfl
    · rw [ih, Aggregator.dropOldest_free]

@[simp] theorem Aggregator.appendRec_free (a : Aggregator) (job gen kind flags step duid : Nat) (body : List Byte) (main : Bool) (home : Nat) :
    (a.appendRec job gen kind flags step duid body main home).free = a.free := by
  unfold Aggregator.appendRec
  split
  · rfl
  · dsimp only
    split
    · rfl
    · split
      · simp [Aggregator.refuseRec]
      · split <;> simp [Aggregator.putRec]

@[simp] theorem Aggregator.freeStep_free (a : Aggregator) (job gen home step : Nat) : (a.freeStep job gen home step).free = a.free := by
  unfold Aggregator.freeStep
  dsimp only
  split
  · rfl
  · split
    · rfl
    · split
      · rfl
      · split <;> simp

@[simp] theorem Aggregator.dropLedger_free (a : Aggregator) (job gen home : Nat) : (a.dropLedger job gen home).free = a.free := by
  unfold Aggregator.dropLedger
  split <;> simp

@[simp] theorem Aggregator.settleFrees_free (a : Aggregator) : a.settleFrees.free = a.free :=
  foldl_free (fun b l => foldl_free (fun _ _ => by simp) _ b) _ a

/-! ### Control frames to die units (R261, R265) -/

@[simp] theorem Aggregator.setPath_free (a : Aggregator) (k : Nat) (p : CtlPath) : (a.setPath k p).free = a.free := rfl

@[simp] theorem Aggregator.sendCtl_free (a : Aggregator) (k : Nat) (f : CtlOutFrame) (resend : Bool) : (a.sendCtl k f resend).free = a.free := by
  simp [Aggregator.sendCtl]

@[simp] theorem Aggregator.pumpCtl_free (a : Aggregator) (k n : Nat) : (a.pumpCtl k n).free = a.free := by
  induction n generalizing a with
  | zero => rfl
  | succ n ih =>
    unfold Aggregator.pumpCtl
    dsimp only
    split
    · rfl
    · split
      · rfl
      · simp [ih]

@[simp] theorem Aggregator.regWrite_free (a : Aggregator) (k : Nat) (ws : List (Nat × W64)) (gtag : Nat) (cmd : Option Nat) :
    (a.regWrite k ws gtag cmd).free = a.free :=
  foldl_free (fun b i => by simp [Aggregator.control]) _ a

@[simp] theorem Aggregator.modDie_free (a : Aggregator) (ctx duid : Nat) (f : DieJob → DieJob) : (a.modDie ctx duid f).free = a.free := rfl

@[simp] theorem Aggregator.writeThr_free (a : Aggregator) (ctx duid : Nat) (m : Store Nat) (before : List (Nat × W64)) :
    (a.writeThr ctx duid m before).free = a.free := by
  unfold Aggregator.writeThr
  split <;> simp

@[simp] theorem Aggregator.ratesSend_free (a : Aggregator) (ctx duid : Nat) : (a.ratesSend ctx duid).free = a.free := by
  unfold Aggregator.ratesSend
  split
  · rfl
  · split
    · rfl
    · dsimp only
      split <;> simp

/-! ### Broadcasts and what they bring about (R289 to R293) -/

@[simp] theorem Aggregator.modBcast_free (a : Aggregator) (ctx bseq : Nat) (f : Bcast → Bcast) : (a.modBcast ctx bseq f).free = a.free := rfl

@[simp] theorem Aggregator.treeFrame_free (a : Aggregator) (ctx ftype dst : Nat) (body : List Byte) :
    (a.treeFrame ctx ftype dst body).free = a.free := by
  unfold Aggregator.treeFrame
  split
  · rfl
  · simp [Aggregator.nextFseq]

@[simp] theorem Aggregator.ackUp_free (a : Aggregator) (ctx bseq : Nat) : (a.ackUp ctx bseq).free = a.free := by
  unfold Aggregator.ackUp
  split
  · rfl
  · exact foldl_free (fun b p => by simp) _ a

@[simp] theorem Aggregator.checkComplete_free (a : Aggregator) (ctx bseq : Nat) : (a.checkComplete ctx bseq).free = a.free := by
  unfold Aggregator.checkComplete
  split
  · rfl
  · split <;> simp

theorem Aggregator.applySchedule_free (a : Aggregator) (ctx bseq : Nat) (l : List Byte) : (a.applySchedule ctx bseq l).free = a.free := by
  unfold Aggregator.applySchedule
  split
  · rfl
  · dsimp only
    split <;> simp

theorem Aggregator.applyRates_free (a : Aggregator) (ctx : Nat) (l : List Byte) : (a.applyRates ctx l).free = a.free := by
  unfold Aggregator.applyRates
  dsimp only
  split
  · simp
  · rw [foldl_free (fun b d => by simp)]
    simp

theorem Aggregator.applyParams_free (a : Aggregator) (ctx : Nat) (l : List Byte) : (a.applyParams ctx l).free = a.free := by
  unfold Aggregator.applyParams
  dsimp only
  split
  · split <;> simp [Aggregator.modInst]
  · simp

/-- The own context of a job that a TAINT broadcast marks is sent to the partner. -/
theorem Aggregator.le_applyTaint_free (a : Aggregator) (n : List Byte) : a.free ≤ (a.applyTaint n).free := by
  unfold Aggregator.applyTaint
  dsimp only
  split <;> simp [Aggregator.mirrorJob_free]

theorem Aggregator.applyReparent_free (a : Aggregator) (ctx : Nat) (l : List Byte) : (a.applyReparent ctx l).free = a.free := by
  unfold Aggregator.applyReparent
  split <;> simp

theorem Aggregator.le_bcastEffect_free (a : Aggregator) (ctx : Nat) (b : Bcast) : a.free ≤ (a.bcastEffect ctx b).free := by
  unfold Aggregator.bcastEffect
  split
  · exact Nat.le_of_eq (a.applySchedule_free _ _ _).symm
  · exact Nat.le_of_eq (a.applyRates_free _ _).symm
  · exact Nat.le_of_eq (a.applyParams_free _ _).symm
  · exact a.le_applyTaint_free _
  · exact Nat.le_of_eq (a.applyReparent_free _ _).symm
  · exact Nat.le_refl _
  · simp

theorem Aggregator.le_applyReady_free (a : Aggregator) (ctx n : Nat) : a.free ≤ (a.applyReady ctx n).free := by
  induction n generalizing a with
  | zero => exact Nat.le_refl _
  | succ n ih =>
    unfold Aggregator.applyReady
    split
    · simp
    · next j b _ =>
      split
      · exact Nat.le_refl _
      · refine Nat.le_trans ?_ (ih _)
        simp only [Aggregator.checkComplete_free, Aggregator.ackUp_free]
        have first : a.free ≤ (((a.modJob ctx fun j => { j with applied := b.bseq, gapSince := none }).modBcast ctx b.bseq fun x =>
          { x with applied := true, own := a.ownBits ctx j }).bcastEffect ctx b).free :=
          Nat.le_trans (Nat.le_of_eq (by simp)) (Aggregator.le_bcastEffect_free _ ctx b)
        split
        · split
          · refine Nat.le_trans first (Nat.le_trans ?_ (Aggregator.le_bcastEffect_free _ _ b))
            simp
          · exact first
        · exact first

/-! ### Completions and events to the host (R430) -/

@[simp] theorem Aggregator.sendCapsule_free (a : Aggregator) (kind tag off flags : Nat) (l : List Byte) :
    (a.sendCapsule kind tag off flags l).free = a.free := rfl

@[simp] theorem Aggregator.sendResult_free (a : Aggregator) (tag : Nat) (data : List Byte) : (a.sendResult tag data).free = a.free :=
  foldl_free (fun b _ => b.sendCapsule_free _ _ _ _ _) _ a

@[simp] theorem Aggregator.pumpEvents_free (a : Aggregator) : a.pumpEvents.free = a.free := by
  unfold Aggregator.pumpEvents
  split
  · rfl
  · rw [foldl_free fun b _ => b.sendCapsule_free _ _ _ _ _]
    simp

@[simp] theorem Aggregator.postPcie_free (a : Aggregator) (c : Command) (status bytes result : Nat) :
    (a.postPcie c status bytes result).free = a.free := by
  unfold Aggregator.postPcie
  split
  · rfl
  · split <;> rfl

@[simp] theorem Aggregator.post_free (a : Aggregator) (c : Command) (status bytes result : Nat) :
    (a.post c status bytes result).free = a.free := by
  unfold Aggregator.post
  dsimp only
  split <;> simp

@[simp] theorem Aggregator.finish_free (a : Aggregator) (c : Command) (status result : Nat) (data : List Byte) :
    (a.finish c status result data).free = a.free := by
  unfold Aggregator.finish
  dsimp only
  split
  · simp
  · split <;> simp

@[simp] theorem Aggregator.settleRoll_free (a : Aggregator) (c : Command) : (a.settleRoll c).free = a.free := by
  unfold Aggregator.settleRoll
  split
  · split
    · split <;> simp
    · rfl
  · rfl

theorem Aggregator.le_settleCheck_free (a : Aggregator) (ctx : Nat) (j : JobCtx) : a.free ≤ (a.settleCheck ctx j).free := by
  unfold Aggregator.settleCheck
  split
  · split
    · exact a.le_applyReady_free _ _
    · exact Nat.le_refl _
  · exact Nat.le_refl _

theorem Aggregator.le_settle_free (a : Aggregator) : a.free ≤ a.settle.free := by
  have rolls : a.settle.free = (a.jobs.foldl (fun (a : Aggregator) e => a.settleCheck e.1 e.2) a).free := by
    unfold Aggregator.settle
    rw [Aggregator.pumpEvents_free, foldl_free (fun b c => b.settleRoll_free c)]
  rw [rolls]
  exact le_foldl_free (fun b (e : Nat × JobCtx) => b.le_settleCheck_free e.1 e.2) _ a

/-! ### Health notices and the end of a boot (R411, R478) -/

@[simp] theorem Aggregator.notice_free (a : Aggregator) (n : Notice) : (a.notice n).free = a.free := by
  unfold Aggregator.notice
  dsimp only
  split
  · rfl
  · split <;> simp

@[simp] theorem Aggregator.unitNotice_free (a : Aggregator) (kind u cause count : Nat) (mandatory : Bool) :
    (a.unitNotice kind u cause count mandatory).free = a.free := a.notice_free _

@[simp] theorem Aggregator.setFru_free (a : Aggregator) (u st cause : Nat) : (a.setFru u st cause).free = a.free := by
  refine foldl_free (fun b x => ?_) _ a
  unfold Aggregator.setState
  dsimp only
  split <;> simp

@[simp] theorem Aggregator.showPending_free (a : Aggregator) : a.showPending.free = a.free := by simp [Aggregator.showPending]

@[simp] theorem Aggregator.knellRequest_free (a : Aggregator) (u cause : Nat) (mandatory : Bool) :
    (a.knellRequest u cause mandatory).free = a.free := by
  unfold Aggregator.knellRequest
  dsimp only
  split <;> simp [Aggregator.unpend]

@[simp] theorem Aggregator.tryKnell_free (a : Aggregator) (u cause : Nat) : (a.tryKnell u cause).free = a.free := by
  unfold Aggregator.tryKnell
  split
  · simp
  · split
    · simp
    · unfold Aggregator.joinPending
      dsimp only
      split <;> simp

@[simp] theorem Aggregator.knell_free (a : Aggregator) (u cause : Nat) (mandatory : Bool) : (a.knell u cause mandatory).free = a.free := by
  unfold Aggregator.knell
  dsimp only
  split
  · rfl
  · split
    · simp
    · split <;> simp

@[simp] theorem Aggregator.bootReady_free (a : Aggregator) (chip : Bool) : (a.bootReady chip).free = a.free := by
  unfold Aggregator.bootReady
  extract_lets recorded a0 a1 cause n a2 a3 a4
  have ready : a0.free = a.free := by simp [a0, recorded, Aggregator.bootStage, Aggregator.bootRecord, Aggregator.record]
  have reported : a1.free = a.free := by
    simp only [a1]
    split <;> simp [ready, Aggregator.reportUnprotected]
  have noticed : a3.free = a.free := by
    simp only [a3]
    split <;> simp [a2, reported]
  split
  · exact reported
  · split <;> simp [a4, noticed]

@[simp] theorem Aggregator.settleBoot_free (a : Aggregator) : a.settleBoot.free = a.free := by
  unfold Aggregator.settleBoot
  split
  · split <;> simp
  · rfl

/-- What follows an event of an aggregator that is not in failover takes no drawn value back. -/
theorem Aggregator.le_after_free {old : Aggregator} (hold : old.inFailover = false) (a : Aggregator) :
    a.free ≤ (Aggregator.after old a).free := by
  have frees : (Aggregator.after old a).free = a.settle.free := by
    unfold Aggregator.after Aggregator.signalIrq
    simp only [hold, Bool.false_eq_true, false_and, if_false]
    split <;> simp
  rw [frees]
  exact a.le_settle_free

/-! ### A PRIVILEGED channel that runs -/

theorem Aggregator.writeCompletion_free (a : Aggregator) (c : Channel) (status bit : Nat) :
    (a.writeCompletion c status bit).free = a.free + 1 := by
  simp [Aggregator.writeCompletion, Aggregator.draw]

theorem Aggregator.chanFinish_free_pos (a : Aggregator) (k : Nat) (c : Channel) (status bit : Nat) : 0 < (a.chanFinish k c status bit).free := by
  unfold Aggregator.chanFinish
  simp [Aggregator.endChan, Aggregator.writeCompletion_free]

/-- The output that goes into the current buffer of a channel, and the channel once it is written (R201). -/
def Channel.piece (c : Channel) : List Byte := (c.plan.out.drop c.produced).take (c.cap - c.used)
def Channel.wrote (c : Channel) : Channel :=
  { c with produced := c.produced + c.piece.length, used := c.used + c.piece.length, lastBuf := if c.piece = [] then c.lastBuf else c.buf }

/-- A PRIVILEGED channel stops at the end of its buffer where output remains, and ends its parcel otherwise (R204). -/
theorem Aggregator.chanRun_privileged (a : Aggregator) (k : Nat) {c : Channel} (hpriv : c.privileged = true) (n : Nat) :
    a.chanRun k c (n + 1) =
      if c.wrote.cap ≤ c.wrote.used ∧ c.wrote.produced < c.plan.total then
        ((a.cdeWrite (c.buf + c.used) c.piece).writeCompletion c.wrote chPoste noFaultBit).putChan k { c.wrote with stopped := true }
      else (a.cdeWrite (c.buf + c.used) c.piece).chanFinish k c.wrote (c.plan.fault.elim chDone (·.code))
        (c.plan.fault.elim noFaultBit (·.bit)) := by
  rw [Aggregator.chanRun]
  by_cases hstop : c.wrote.cap ≤ c.wrote.used ∧ c.wrote.produced < c.plan.total
  · rw [if_pos hstop]
    exact (if_pos hstop).trans (if_pos hpriv)
  · rw [if_neg hstop]
    refine (if_neg hstop).trans ?_
    cases c.plan.fault <;> rfl

/-- Either way it writes a completion record, which takes a free value. -/
theorem Aggregator.chanRun_privileged_free_pos (a : Aggregator) (k : Nat) {c : Channel} (hpriv : c.privileged = true) (n : Nat) :
    0 < (a.chanRun k c (n + 1)).free := by
  rw [Aggregator.chanRun_privileged a k hpriv]
  split
  · simp [Aggregator.putChan, Aggregator.writeCompletion_free]
  · exact Aggregator.chanFinish_free_pos _ _ _ _ _

/-- A descriptor of which a word's error could not be corrected opens nothing: poisoned data are never committed (R235). -/
theorem Aggregator.channelOpen_poisoned {a : Aggregator} {core k desc : Nat} (hon : a.coreOn core = true) (hbad : a.poisoned desc 64 = true)
    (priv : Bool) : a.channelOpen core k desc priv = a := by
  unfold Aggregator.channelOpen
  simp [hon, hbad]

/-! ### A poisoned descriptor -/

/-- Core 0 on, with the descriptor of a PRIVILEGED channel at the start of its SRAM, the first word of which is poisoned. -/
def badDescriptor : Aggregator :=
  let ready : Aggregator := { Aggregator.blank with boot := .ready, mem := [(12, 1)], pwr := { PowerMgr.init with poison := [(0, 8)] } }
  (ready.set CHIP_CORE_PRESENT_PRESENT 1).set (PD_STAT_STATE 0) adOn

/-- That aggregator beside a die unit after reset. -/
def badDescriptorState : State := { State.reset with agg := badDescriptor }

theorem badDescriptor_may_open :
    badDescriptor.dispatchable 0 = true ∧ badDescriptor.chan 0 = none ∧ badDescriptor.coreOn 0 = true ∧ badDescriptor.poisoned 0 64 = true
      ∧ bit (le (memBytes badDescriptor.mem 0 64) 12 1) 0 = true := by decide +kernel

/-- What follows the event draws nothing there. -/
theorem badDescriptor_after_free :
    badDescriptor.inFailover = false ∧ (Aggregator.after badDescriptor badDescriptor).free = 0 := by decide +kernel

/-- The model's next state: no channel is opened. -/
theorem exec_channelOpen_badDescriptor : exec (.channelOpen 0 0 0 true) badDescriptorState = nextAgg badDescriptorState badDescriptor := by
  obtain ⟨-, -, hon, hbad, -⟩ := badDescriptor_may_open
  have harm : exec (.channelOpen 0 0 0 true) badDescriptorState = nextAgg badDescriptorState (badDescriptor.channelOpen 0 0 0 true) := rfl
  rw [harm, Aggregator.channelOpen_poisoned hon hbad]

/-- Refutes O38 by its clause on CHANNEL_OPEN: every descriptor that the master may use opens a channel there, where the model opens none from a
poisoned one (R235). At `badDescriptor` the channel of the clause would have drawn a free value. -/
theorem not_ingestAndChannels : ¬ Obligations.IngestAndChannels := by
  unfold Obligations.IngestAndChannels
  intro h
  obtain ⟨-, -, -, -, -, -, -, -, -, -, -, hopens, -⟩ :=
    h badDescriptorState 0 0 0 0 0 0 0 0 true [] ⟨0, [], 0⟩ [] (ingestChannel true [])
  obtain ⟨hdisp, hnone, hon, -, hclass⟩ := badDescriptor_may_open
  obtain ⟨e, c, hexec, -, -, -, hpriv, -⟩ := hopens (by decide) hdisp hnone hon (.inr rfl)
  have same := after_eq_of_nextAgg_eq (exec_channelOpen_badDescriptor.symm.trans hexec)
  obtain ⟨hfail, hzero⟩ := badDescriptor_after_free
  have drawn := Nat.lt_of_lt_of_le (e.chanRun_privileged_free_pos (32 * 0 + 0) (hpriv.trans hclass) (c.fwdMax + 1)) (Aggregator.le_after_free hfail _)
  exact absurd ((congrArg Aggregator.free same).symm.trans hzero) (Nat.ne_of_gt drawn)

end Sys2Proof.Machine
end ChannelOpen

section TocsinBus
/-!
PROOFS. The tocsin MAC of either part (R97, R225 to R227), and the alarms of the die unit (R228).
-/
namespace Sys2Proof.Machine

/-! ### The MAC beside its registers -/

@[simp] theorem TocView.inc_mac (v : TocView) (f : Fld) : (v.inc f).mac = v.mac := by cases v; rfl
@[simp] theorem TocView.raise_mac (v : TocView) (f : Fld) : (v.raise f).mac = v.mac := by cases v; rfl
@[simp] theorem TocView.modM_mac (v : TocView) (f : TocMac → TocMac) : (v.modM f).mac = f v.mac := by cases v; rfl

/-! ### A frame starts (R227) -/

/-- The bus is idle for a frame's deferral once it has had no transition for 2 bit times more (R225, R227; log 131). -/
theorem tocDefer_le_tocIdle (type quiet : Nat) : tocDefer type ≤ tocIdle quiet ↔ tocDefer type + 2 ≤ quiet := by
  have hpos : 0 < tocDefer type := by
    unfold tocDefer
    split <;> decide
  unfold tocIdle
  omega

theorem TocView.txStart_idle {v : TocView} (hq : v.mac.queue = []) (mono quiet : Nat) : v.txStart mono quiet = v := by
  rw [TocView.txStart, hq]

section Queued
variable {v : TocView} {f : TocFrame} {rest : List TocFrame} (hq : v.mac.queue = f :: rest)
include hq

theorem TocView.txStart_starts (hen : v.on TOC_CTRL_EN = true) (hfree : v.mac.sending = false) {mono quiet : Nat}
    (hback : v.mac.backoffUntil ≤ mono) (hdefer : tocDefer f.type + 2 ≤ quiet) :
    v.txStart mono quiet = v.modM fun m => { m with sending := true, line := tocLine (v.bytesOf f) } := by
  rw [TocView.txStart, hq]
  exact if_pos ⟨hen, Bool.eq_false_iff.1 hfree, hback, (tocDefer_le_tocIdle _ _).2 hdefer⟩

theorem TocView.txStart_defers {quiet : Nat} (hdefer : quiet < tocDefer f.type + 2) (mono : Nat) : v.txStart mono quiet = v := by
  rw [TocView.txStart, hq]
  refine if_neg fun hready => ?_
  obtain ⟨-, -, -, hidle⟩ := hready
  exact Nat.not_lt.2 ((tocDefer_le_tocIdle _ _).1 hidle) hdefer

/-! ### A frame collides or ends (R225, R227) -/

variable (hsends : v.mac.sending = true)
include hsends

/-- Up to its 15th collision a frame stays first and waits for r slots of 1,280 ns, r below 2^min(n, 6) after its n-th. -/
theorem TocView.collision_backsOff (hfew : f.attempts < 15) (mono draw : Nat) : ∃ r < 2 ^ min (f.attempts + 1) 6,
    (v.collision mono draw).mac = { v.mac with queue := { f with attempts := f.attempts + 1 } :: rest, sending := false, line := [],
                                               backoffUntil := mono + r * tocSlotNs } := by
  refine ⟨Config.tocsinDraw draw % 2 ^ min (f.attempts + 1) 6, Nat.mod_lt _ (Nat.two_pow_pos _), ?_⟩
  rw [TocView.collision, hq]
  dsimp only
  rw [if_neg (not_not_intro hsends), if_neg (by omega), TocView.modM_mac, TocView.inc_mac]

/-- At its 16th the frame is discarded. -/
theorem TocView.collision_discards (hmany : 15 ≤ f.attempts) (mono draw : Nat) :
    (v.collision mono draw).mac = { v.mac with queue := rest, sending := false, line := [], backoffUntil := 0 } := by
  rw [TocView.collision, hq]
  dsimp only
  rw [if_neg (not_not_intro hsends), if_pos (by omega), TocView.raise_mac, TocView.inc_mac, TocView.modM_mac, TocView.inc_mac]

theorem TocView.txEnd_sent : v.txEnd.mac
    = { v.mac with queue := rest, sending := false, line := [], backoffUntil := 0, sent := v.mac.sent ++ [v.bytesOf f] } := by
  simp [TocView.txEnd, hq, hsends]

end Queued

/-- What a sending node takes for a collision (R97, R227). -/
theorem TocMac.collides_iff (m : TocMac) (cd : Bool) (heard : List Bool) :
    m.collides cd heard = true ↔ m.sending = true ∧ (cd = true ∨ heard ≠ m.line.take heard.length) := by
  simp [TocMac.collides]

/-! ### The node of the die unit, and a segment of the aggregator -/

theorem DieUnit.tocCollision_none {d : DieUnit} {cd : Bool} {heard : List Bool}
    (hno : d.toc.mac.sending = false ∨ cd = false ∧ heard = d.toc.mac.line.take heard.length) : d.tocCollision cd heard = d := by
  refine if_neg fun hcollides => ?_
  obtain ⟨hsends, hseen⟩ := (TocMac.collides_iff _ _ _).1 hcollides
  obtain hidle | ⟨hcd, hsame⟩ := hno
  · exact Bool.false_ne_true (hidle.symm.trans hsends)
  · exact hseen.elim (fun h => Bool.false_ne_true (hcd.symm.trans h)) fun h => h hsame

/-- A collision draws the number of its backoff. -/
theorem DieUnit.tocCollision_some {d : DieUnit} {cd : Bool} {heard : List Bool} (hcollides : d.toc.mac.collides cd heard = true) :
    d.tocCollision cd heard = { d with free := d.free + 1 }.withToc (d.tocView.collision d.mono d.free) := if_pos hcollides

theorem Aggregator.tocCollision_some {a : Aggregator} {k : Nat} (hk : k < 16) {cd : Bool} {heard : List Bool}
    (hcollides : (a.tocView k).mac.collides cd heard = true) :
    a.tocCollision k cd heard = { a with free := a.free + 1 }.withToc k ((a.tocView k).collision a.mono a.free) :=
  if_neg fun hno => hno.elim (Nat.not_le.2 hk) fun h => h hcollides

/-- The end of a frame at the die unit's node is that of its MAC; the alarms alone are noted beside it. -/
theorem DieUnit.tocTxEnd_mac (d : DieUnit) : d.tocTxEnd.toc.mac = d.tocView.txEnd.mac := rfl

/-! ### Alarms (R228) -/

/-- An alarm that is dropped leaves no entry of its number. -/
theorem DieUnit.dropAlarm_alarms (d : DieUnit) (aseq : Nat) :
    (d.dropAlarm aseq).toc.alarms = d.toc.alarms.filter fun a => a.aseq ≠ aseq := rfl

section OneAlarm
variable {d : DieUnit} {al : Alarm} (hone : d.toc.alarms = [al])
include hone

theorem DieUnit.dropAlarm_only : (d.dropAlarm al.aseq).toc.alarms = [] := by
  rw [DieUnit.dropAlarm_alarms, hone]
  simp

/-- An ALARM-ACK that repeats the alarm's first bytes removes it. -/
theorem DieUnit.alarmAck_only {payload : List Byte} (hname : al.name = payload.take 8) : (d.alarmAck payload).toc.alarms = [] := by
  have hack : d.alarmAck payload = d.dropAlarm al.aseq := by simp [DieUnit.alarmAck, hone, hname]
  rw [hack]
  exact DieUnit.dropAlarm_only hone

variable (hempty : d.toc.mac.queue = []) (hdue : al.lastSend + max 1 (d.get TOC_CTRL_RESEND) * 1000000 ≤ d.mono)
include hempty hdue

/-- An alarm that is due and has no frame queued is sent again, up to 8 times. -/
theorem DieUnit.alarmResend_only : d.alarmResend al.aseq
    = if 8 ≤ al.sends then ((d.dropAlarm al.aseq).inc TOC_COUNTS1_UNACKED_N).raise TOC_STATUS_UNACKED else d.sendAlarm al := by
  simp [DieUnit.alarmResend, hone, hempty, Nat.not_lt.2 hdue]

end OneAlarm

theorem DieUnit.alarmResend_none {d : DieUnit} (hnone : d.toc.alarms = []) (aseq : Nat) : d.alarmResend aseq = d := by
  rw [DieUnit.alarmResend, hnone]
  rfl

/-- An accepted frame of the type that an event names takes its effect at the die unit. -/
theorem DieUnit.tocRx_accepted {d : DieUnit} {rxd : List Bool} {l : List Byte} (hheard : tocHeard rxd = some l)
    (hok : (d.tocView.receive l).1 = true) {type : Nat} (htype : tocType l = type) (f : List Byte → DieUnit → DieUnit) :
    d.tocRx type rxd f = f l (d.withToc (d.tocView.receive l).2) := by
  rw [DieUnit.tocRx, hheard]
  exact if_pos ⟨hok, htype⟩

/-! ### The statement -/

/-- Settles O35: each event by the lemma on the MAC, or on the alarms. -/
theorem tocsinFramesContendAndAlarmsRepeat : Obligations.TocsinFramesContendAndAlarmsRepeat := by
  unfold Obligations.TocsinFramesContendAndAlarmsRepeat
  intro s quiet k f rest al l cd heard rxd
  refine ⟨?idle, ?noCollision, ?starts, ?defers, ?backsOff, ?discards, ?ends, ?segment, ?noAlarm, ?resends, ?givesUp, ?acked⟩
  case idle =>
    intro hq
    have hstart := congrArg s.du.withToc (TocView.txStart_idle (v := s.du.tocView) hq s.du.mono quiet)
    exact congrArg (nextDu s) hstart
  case noCollision => exact fun hno => congrArg (nextDu s) (DieUnit.tocCollision_none hno)
  case starts =>
    intro hq hen hfree hback hdefer
    have hstart := congrArg s.du.withToc (TocView.txStart_starts (v := s.du.tocView) hq hen hfree hback hdefer)
    exact congrArg (nextDu s) hstart
  case defers =>
    intro hq hdefer
    have hstart := congrArg s.du.withToc (TocView.txStart_defers (v := s.du.tocView) hq hdefer s.du.mono)
    exact congrArg (nextDu s) hstart
  case backsOff =>
    intro hq hsends hseen hfew
    have hcollides := DieUnit.tocCollision_some ((TocMac.collides_iff _ _ _).2 ⟨hsends, hseen⟩)
    obtain ⟨r, hr, hmac⟩ := TocView.collision_backsOff (v := s.du.tocView) hq hsends hfew s.du.mono s.du.free
    exact ⟨_, r, congrArg (nextDu s) hcollides, congrArg TocMac.queue hmac, congrArg TocMac.sending hmac, congrArg TocMac.line hmac, hr,
      congrArg TocMac.backoffUntil hmac⟩
  case discards =>
    intro hq hsends hseen hmany
    have hcollides := DieUnit.tocCollision_some ((TocMac.collides_iff _ _ _).2 ⟨hsends, hseen⟩)
    have hmac := TocView.collision_discards (v := s.du.tocView) hq hsends hmany s.du.mono s.du.free
    exact ⟨_, congrArg (nextDu s) hcollides, congrArg TocMac.queue hmac, congrArg TocMac.sending hmac, congrArg TocMac.line hmac⟩
  case ends =>
    intro hq hsends
    have hmac := s.du.tocTxEnd_mac.trans (TocView.txEnd_sent (v := s.du.tocView) hq hsends)
    exact ⟨_, rfl, congrArg TocMac.queue hmac, congrArg TocMac.sending hmac, congrArg TocMac.line hmac, congrArg TocMac.sent hmac⟩
  case segment =>
    intro hk
    have hthere : ¬ 16 ≤ k := Nat.not_le.2 hk
    refine ⟨congrArg (nextAgg s) (if_neg hthere), congrArg (nextAgg s) (if_neg hthere), fun hsends hseen => ?_⟩
    exact congrArg (nextAgg s) (Aggregator.tocCollision_some hk ((TocMac.collides_iff _ _ _).2 ⟨hsends, hseen⟩))
  case noAlarm => exact fun hnone => congrArg (nextDu s) (DieUnit.alarmResend_none hnone k)
  case resends =>
    intro hone hempty hdue hfew
    exact congrArg (nextDu s) ((DieUnit.alarmResend_only hone hempty hdue).trans (if_neg (Nat.not_le.2 hfew)))
  case givesUp =>
    intro hone hempty hdue hmany
    have hgone := (DieUnit.alarmResend_only hone hempty hdue).trans (if_pos hmany)
    refine ⟨_, congrArg (nextDu s) hgone, ?_, RegFile.on_raise_same _ rfl (by decide) (by decide)⟩
    simpa using DieUnit.dropAlarm_only hone
  case acked =>
    intro hheard hok htype hone hname
    have hack := DieUnit.tocRx_accepted hheard hok htype fun l d => d.alarmAck (tocPayload l)
    exact ⟨_, congrArg (nextDu s) hack, DieUnit.alarmAck_only (d := s.du.withToc (s.du.tocView.receive l).2) hone hname⟩

end Sys2Proof.Machine
end TocsinBus

section TocsinReceived
/-!
PROOFS. Tocsin frames received (R226, R229, R230, R400, R423): what the MAC makes of a frame, and what an accepted one brings about.
-/
namespace Sys2Proof.Machine

/-! ### The MAC (R226) -/

@[simp] theorem TocView.inc_page (v : TocView) (f : Fld) : (v.inc f).page = v.page := by cases v; rfl

/-- The frame is whole, and names this node or all of them. -/
def TocView.takes (v : TocView) (l : List Byte) : Prop :=
  tocGood l = true ∧ (tocDst l = v.get TOC_CTRL_NODE ∨ tocDst l = tocBroadcast)

/-- The types that Table 8-11 reserves. -/
def tocReserved (t : Nat) : Prop := t = 0 ∨ 5 ≤ t ∧ t ≤ 0x7F

theorem TocView.receive_off {v : TocView} (hoff : v.on TOC_CTRL_EN = false) (l : List Byte) : v.receive l = (false, v) :=
  if_pos (Bool.eq_false_iff.1 hoff)

section Enabled
variable {v : TocView} (hen : v.on TOC_CTRL_EN = true) {l : List Byte}
include hen

theorem TocView.receive_bad (hbad : tocGood l = false) : v.receive l = (false, (v.inc TOC_COUNTS0_CRC_ERR_N).raise TOC_STATUS_CRC_ERR) := by
  rw [TocView.receive, if_neg (not_not_intro hen), if_pos (Bool.eq_false_iff.1 hbad)]

variable (htakes : v.takes l)
include htakes

theorem TocView.receive_reserved (htype : tocReserved (tocType l)) :
    v.receive l = (true, (v.inc TOC_COUNTS0_RX_N).inc TOC_COUNTS1_UNKNOWN_N) := by
  obtain ⟨hgood, hdst⟩ := htakes
  rw [TocView.receive, if_neg (not_not_intro hen), if_neg (not_not_intro hgood), if_neg fun h => hdst.elim h.1 h.2]
  exact if_pos htype

theorem TocView.receive_known (htype : ¬ tocReserved (tocType l)) : v.receive l = (true, v.inc TOC_COUNTS0_RX_N) := by
  obtain ⟨hgood, hdst⟩ := htakes
  rw [TocView.receive, if_neg (not_not_intro hen), if_neg (not_not_intro hgood), if_neg fun h => hdst.elim h.1 h.2]
  exact if_neg htype

/-- An accepted frame is counted; the queue and the line stand. -/
theorem TocView.receive_takes : (v.receive l).1 = true ∧ (v.receive l).2.mac = v.mac := by
  by_cases htype : tocReserved (tocType l)
  · rw [TocView.receive_reserved hen htakes htype, TocView.inc_mac, TocView.inc_mac]
    exact ⟨rfl, rfl⟩
  · rw [TocView.receive_known hen htakes htype, TocView.inc_mac]
    exact ⟨rfl, rfl⟩

end Enabled

/-- The frames that a MAC accepts. -/
theorem TocView.receive_accepts {v : TocView} {l : List Byte} (hok : (v.receive l).1 = true) : v.on TOC_CTRL_EN = true ∧ v.takes l := by
  unfold TocView.receive at hok
  split at hok
  · cases hok
  next hen =>
    split at hok
    · cases hok
    next hgood =>
      split at hok
      · cases hok
      next hdst => exact ⟨Decidable.not_not.1 hen, Decidable.not_not.1 hgood, Decidable.or_iff_not_not_and_not.2 hdst⟩

theorem TocView.word_inc (v : TocView) (f : Fld) {k : Nat} (hk : k ≠ (f.onPage v.page).reg) : (v.inc f).regs.word k = v.regs.word k :=
  (RegFile.word_set _ _ _ _).trans (if_neg hk)

/-- An accepted frame changes the counts of the MAC alone. -/
theorem TocView.receive_word {v : TocView} {l : List Byte} (hok : (v.receive l).1 = true) {k : Nat}
    (hrx : k ≠ (TOC_COUNTS0_RX_N.onPage v.page).reg) (hunknown : k ≠ (TOC_COUNTS1_UNKNOWN_N.onPage v.page).reg) :
    (v.receive l).2.regs.word k = v.regs.word k := by
  obtain ⟨hen, htakes⟩ := TocView.receive_accepts hok
  by_cases htype : tocReserved (tocType l)
  · rw [TocView.receive_reserved hen htakes htype]
    dsimp only
    rw [TocView.word_inc _ _ (by rwa [TocView.inc_page]), TocView.word_inc _ _ hrx]
  · rw [TocView.receive_known hen htakes htype]
    dsimp only
    rw [TocView.word_inc _ _ hrx]

/-! ### The die unit (R230) -/

/-- Levels that no preamble and delimiter begin are no frame (R225). -/
theorem DieUnit.tocRx_unheard {d : DieUnit} {rxd : List Bool} (hnone : tocHeard rxd = none) (type : Nat)
    (f : List Byte → DieUnit → DieUnit) : d.tocRx type rxd f = d := by
  rw [DieUnit.tocRx, hnone]

/-- A frame that is not accepted leaves the MAC's counts alone. -/
theorem DieUnit.tocRx_refused {d : DieUnit} {rxd : List Bool} {l : List Byte} (hheard : tocHeard rxd = some l)
    (hno : (d.tocView.receive l).1 = false) (type : Nat) (f : List Byte → DieUnit → DieUnit) :
    d.tocRx type rxd f = d.withToc (d.tocView.receive l).2 := by
  rw [DieUnit.tocRx, hheard]
  exact if_neg fun h => Bool.false_ne_true (hno.symm.trans h.1)

/-- An event that does nothing more with a frame leaves it to the MAC. -/
theorem DieUnit.tocRx_counts (d : DieUnit) {rxd : List Bool} {l : List Byte} (hheard : tocHeard rxd = some l) (type : Nat) :
    d.tocRx type rxd (fun _ d => d) = d.withToc (d.tocView.receive l).2 := by
  rw [DieUnit.tocRx, hheard]
  exact ite_self _

/-- Home's beacon is noted. -/
theorem DieUnit.beaconRx_home {d : DieUnit} {l : List Byte} (hhome : d.fromHome l = true) :
    d.beaconRx l = (d.set TOC_STATUS_BEACON_OK 1).modToc fun t => { t with beaconAt := some d.mono } := if_pos hhome

theorem DieUnit.beaconLost_late {d : DieUnit} {t : Nat} (hat : d.toc.beaconAt = some t) (hlate : t + 50000000 ≤ d.mono) :
    d.beaconLost = ((d.set TOC_STATUS_BEACON_OK 0).raise TOC_STATUS_BEACON_LOST).modToc fun x => { x with beaconAt := none } := by
  rw [DieUnit.beaconLost, hat]
  exact if_pos hlate

theorem DieUnit.beaconLost_unwatched {d : DieUnit} (hnone : d.toc.beaconAt = none) : d.beaconLost = d := by
  rw [DieUnit.beaconLost, hnone]

/-- A raised status leaves the fields of its register that share no bit with it. -/
theorem RegFile.get_raise_other (r : RegFile) {f g : Fld} (hf : f.fits) (happart : f.apart g)
    (hseq : g.reg ≠ addr_PG_SEQ (pageOf f.reg)) : (r.raise f).get g = r.get g := by
  rw [← RegFile.get_set_other r f g 1 hf happart]
  unfold RegFile.get
  rw [RegFile.raise, RegFile.event, RegFile.incWrap, RegFile.word_set, if_neg hseq]

@[simp] theorem DieUnit.newNonce_fields (d : DieUnit) :
    d.newNonce.regs = d.regs ∧ d.newNonce.tc = d.tc := by
  simp [DieUnit.newNonce, DieUnit.draw]

@[simp] theorem DieUnit.sendShort_fields (d : DieUnit) (f : ShortFrame) :
    (d.sendShort f).regs = d.regs ∧ (d.sendShort f).tc = d.tc ∧ (d.sendShort f).ctl = d.ctl := ⟨rfl, rfl, rfl⟩

/-- A die unit that home serves and that has a partner turns to it, and asks for the failover (R25, R260). -/
theorem DieUnit.failover_switches {d : DieUnit} (hserves : d.get DU_ASSIGN_SERVING = 1) (hpartner : d.ctl.partnerId < 0xFFFF) :
    d.failover.get DU_ASSIGN_SERVING = 2 ∧ d.failover.ctl.failReq = some d.mono := by
  have hmay : ¬ (d.get DU_ASSIGN_SERVING ≠ 1 ∨ d.ctl.partnerId % 65536 = 0xFFFF) := by omega
  rw [DieUnit.failover, if_neg hmay]
  have hset : (d.regs.set DU_ASSIGN_SERVING 2).get DU_ASSIGN_SERVING = 2 := RegFile.get_set _ _ _ ⟨by decide, by decide⟩
  unfold DieUnit.get
  simp [hset, DieUnit.mono]

/-! ### The aggregator (R229, R423) -/

theorem Aggregator.beaconTx_first {a : Aggregator} {k : Nat} (hk : k < 16) (hnone : tabGet a.hlt.lastBeacon k = none) : a.beaconTx k
    = (a.modHlt fun h => { h with lastBeacon := tabPut h.lastBeacon k a.mono }).tocSend k tocBroadcast tocBeacon
        (beBytes 2 a.id ++ beBytes 1 a.beaconState ++ beBytes 1 k ++ a.mark) := by
  rw [Aggregator.beaconTx, hnone]
  exact if_neg (by simp [hk])

theorem Aggregator.beaconTx_sent {a : Aggregator} {k : Nat} (hjust : tabGet a.hlt.lastBeacon k = some a.mono) : a.beaconTx k = a := by
  rw [Aggregator.beaconTx, hjust]
  exact if_pos (by simp)

/-- The segment `k` once its MAC has received a frame. -/
def Aggregator.heard (a : Aggregator) (k : Nat) (l : List Byte) : Aggregator := a.withToc k ((a.tocView k).receive l).2

/-- That segment once it has answered an ALARM with an ALARM-ACK. -/
def Aggregator.acked (a : Aggregator) (k : Nat) (l : List Byte) : Aggregator :=
  (a.heard k l).tocSend k (tocSrc l) tocAlarmAck ((tocPayload l).take 8)

section Segment
variable (a : Aggregator) {k : Nat} (hk : k < 16) (l : List Byte)
include hk

theorem Aggregator.tocUnknown_counts : a.tocUnknown k l = a.heard k l := if_neg (Nat.not_le.2 hk)

variable {a l} (hok : ((a.tocView k).receive l).1 = true)
include hok

/-- Every accepted ALARM is acknowledged, and one not yet delivered is delivered (R229; log 86). -/
theorem Aggregator.alarmRx_accepted (htype : tocType l = tocAlarm) (hlen : 28 ≤ (tocPayload l).length) :
    a.alarmRx k l = if a.hlt.alarms.any fun x => x.take 8 = (tocPayload l).take 8 then a.acked k l
      else ((a.acked k l).modHlt fun h => { h with alarms := h.alarms ++ [tocPayload l] }).deliverAlarm (tocPayload l) := by
  rw [Aggregator.alarmRx, if_neg (Nat.not_le.2 hk)]
  have hwhole : ¬ (¬ (a.tocReceive k l).1 = true ∨ tocType l ≠ tocAlarm ∨ (tocPayload l).length < 28) := by
    rintro (h | h | h)
    · exact h hok
    · exact h htype
    · exact Nat.not_lt.2 hlen h
  exact if_neg hwhole

/-- An accepted guest frame becomes a GUEST notice (R423). -/
theorem Aggregator.guestRx_accepted (htype : 0x80 ≤ tocType l) :
    a.guestRx k l = (a.heard k l).guestNotice k (tocSrc l) (tocType l) (tocPayload l) := by
  rw [Aggregator.guestRx, if_neg (Nat.not_le.2 hk)]
  have hguest : ¬ (¬ (a.tocReceive k l).1 = true ∨ tocType l < 0x80) := fun h => h.elim (fun h => h hok) (Nat.not_lt.2 htype)
  exact if_neg hguest

end Segment

/-- An operation of a segment on the frame that it hears. -/
theorem State.onHeard_some (s : State) {rxd : List Bool} {l : List Byte} (hheard : tocHeard rxd = some l)
    (f : List Byte → Aggregator → Aggregator) : s.onHeard rxd f = nextAgg s (f l s.agg) := by
  rw [State.onHeard, hheard]
  rfl

theorem State.onHeard_none (s : State) {rxd : List Bool} (hnone : tocHeard rxd = none) (f : List Byte → Aggregator → Aggregator) :
    s.onHeard rxd f = nextAgg s s.agg := by
  rw [State.onHeard, hnone]
  rfl

/-- TOCSIN_UNKNOWN_RX at a segment is such an operation. -/
theorem exec_tocsinUnknownRx_segment (s : State) (k : Nat) (rxd : List Bool) :
    exec (.tocsinUnknownRx (some k) rxd) s = s.onHeard rxd fun l a => a.tocUnknown k l := rfl

/-! ### The statement -/

/-- Settles O36: what the MAC makes of the frame, then the lemma on what an accepted one does. -/
theorem tocsinFramesReceived : Obligations.TocsinFramesReceived := by
  unfold Obligations.TocsinFramesReceived
  intro s k t l rxd v
  refine ⟨?off, ?bad, ?good, ?unheard, ?reserved, ?counted, ?beacon, ?refused, ?lost, ?unwatched, ?chipReset, ?firstBeacon, ?sentBeacon,
    ?known, ?new, ?guest⟩
  case off => exact fun hoff => TocView.receive_off hoff l
  case bad => exact fun hen hbad => TocView.receive_bad hen hbad
  case good => exact fun hen htakes => TocView.receive_takes hen htakes
  case unheard =>
    intro hnone
    have hdu (type : Nat) (f : List Byte → DieUnit → DieUnit) := congrArg (nextDu s) (DieUnit.tocRx_unheard (d := s.du) hnone type f)
    refine ⟨hdu 0 fun _ d => d, ?_, hdu tocBeacon fun l d => d.beaconRx l, s.onHeard_none hnone fun l a => a.alarmRx k l⟩
    rw [exec_tocsinUnknownRx_segment, s.onHeard_none hnone]
  case reserved =>
    intro hheard _
    refine ⟨congrArg (nextDu s) (s.du.tocRx_counts hheard 0), fun hk => ?_⟩
    rw [exec_tocsinUnknownRx_segment, s.onHeard_some hheard, s.agg.tocUnknown_counts hk, Aggregator.heard]
  case counted => exact fun hen htakes htype => TocView.receive_reserved hen htakes htype
  case beacon =>
    intro hheard hok htype hhome
    have hnoted := (DieUnit.tocRx_accepted hheard hok htype fun l d => d.beaconRx l).trans (DieUnit.beaconRx_home hhome)
    exact ⟨_, congrArg (nextDu s) hnoted, RegFile.on_set_same _ ⟨by decide, by decide⟩ 1, rfl, rfl⟩
  case refused =>
    intro hheard hno
    have hdu (type : Nat) (f : List Byte → DieUnit → DieUnit) := congrArg (nextDu s) (DieUnit.tocRx_refused hheard hno type f)
    exact ⟨hdu tocBeacon fun l d => d.beaconRx l, hdu tocChipReset fun l d => d.chipResetRx l⟩
  case lost =>
    intro hat hlate
    have hok : ((s.du.regs.set TOC_STATUS_BEACON_OK 0).raise TOC_STATUS_BEACON_LOST).get TOC_STATUS_BEACON_OK = 0 := by
      rw [RegFile.get_raise_other _ ⟨by decide, by decide⟩ (.inr (.inl (by decide))) (by decide),
        RegFile.get_set _ _ _ ⟨by decide, by decide⟩, Nat.zero_mod]
    exact ⟨_, congrArg (nextDu s) (DieUnit.beaconLost_late hat hlate), hok, RegFile.on_raise_same _ rfl (by decide) (by decide), rfl⟩
  case unwatched => exact fun hnone => congrArg (nextDu s) (DieUnit.beaconLost_unwatched hnone)
  case chipReset =>
    intro hheard hok htype hhome hserves hpartner
    have hturns : s.du.tocRx tocChipReset rxd (fun l d => d.chipResetRx l) = (s.du.withToc (s.du.tocView.receive l).2).failover :=
      (DieUnit.tocRx_accepted hheard hok htype fun l d => d.chipResetRx l).trans (if_pos hhome)
    have hkept : (s.du.withToc (s.du.tocView.receive l).2).get DU_ASSIGN_SERVING = 1 := by
      rw [← hserves]
      unfold DieUnit.get RegFile.get
      have hword : (s.du.withToc (s.du.tocView.receive l).2).regs.word addr_DU_ASSIGN = s.du.regs.word addr_DU_ASSIGN :=
        TocView.receive_word hok (show addr_DU_ASSIGN ≠ (TOC_COUNTS0_RX_N.onPage 0xB).reg by decide)
          (show addr_DU_ASSIGN ≠ (TOC_COUNTS1_UNKNOWN_N.onPage 0xB).reg by decide)
      rw [hword]
    obtain ⟨hswitch, hasks⟩ := DieUnit.failover_switches hkept hpartner
    exact ⟨_, congrArg (nextDu s) hturns, hswitch, hasks⟩
  case firstBeacon => exact fun hk hnone => congrArg (nextAgg s) (Aggregator.beaconTx_first hk hnone)
  case sentBeacon => exact fun hjust => congrArg (nextAgg s) (Aggregator.beaconTx_sent hjust)
  case known =>
    intro hk hheard hok htype hlen hthere
    obtain ⟨p, hp, hname⟩ := hthere
    have hrx := (Aggregator.alarmRx_accepted hk hok htype hlen).trans (if_pos (List.any_eq_true.2 ⟨p, hp, decide_eq_true hname⟩))
    exact (s.onHeard_some hheard fun l a => a.alarmRx k l).trans (congrArg (nextAgg s) hrx)
  case new =>
    intro hk hheard hok htype hlen hnew
    have hrx := (Aggregator.alarmRx_accepted hk hok htype hlen).trans (if_neg (by simpa using hnew))
    exact (s.onHeard_some hheard fun l a => a.alarmRx k l).trans (congrArg (nextAgg s) hrx)
  case guest =>
    intro hk hheard hok htype
    exact (s.onHeard_some hheard fun l a => a.guestRx k l).trans (congrArg (nextAgg s) (Aggregator.guestRx_accepted hk hok htype))

end Sys2Proof.Machine
end TocsinReceived

section Shaping
/-!
PROOFS. The shaper, the gate lists and the record parcels of the die unit (R64, R82, R206, R211 to R218).
-/
namespace Sys2Proof.Machine

/-! ### Buckets (R211) -/

theorem DieUnit.setTok_tokC (d : DieUnit) (s c p t : Nat) : (d.setTok s c p).tokC t = if t = s then c else d.tokC t :=
  storeGet_set resetDepth d.shp.tokC s t c

theorem DieUnit.setTok_tokP (d : DieUnit) (s c p t : Nat) : (d.setTok s c p).tokP t = if t = s then p else d.tokP t :=
  storeGet_set resetDepth d.shp.tokP s t p

theorem DieUnit.applyHeld_nil {d : DieUnit} (hnone : d.shp.held = []) : d.applyHeld = d := by
  rw [DieUnit.applyHeld, hnone]
  simp only [List.foldl_nil, DieUnit.modShp]
  rw [← hnone]

/-- The tokens that a stream gains in `k` microseconds, up to the depths of its buckets. -/
def DieUnit.gain (d : DieUnit) (k s : Nat) : DieUnit :=
  d.setTok s (min (d.cbs s) (d.tokC s + k * d.get (SHP_RATE_CIR s))) (min (d.pbs s) (d.tokP s + k * d.get (SHP_RATE_PIR s)))

theorem DieUnit.gain_tokC (d : DieUnit) (k s t : Nat) :
    (d.gain k s).tokC t = if t = s then min (d.cbs s) (d.tokC s + k * d.get (SHP_RATE_CIR s)) else d.tokC t := d.setTok_tokC s _ _ t

theorem DieUnit.gain_tokP (d : DieUnit) (k s t : Nat) :
    (d.gain k s).tokP t = if t = s then min (d.pbs s) (d.tokP s + k * d.get (SHP_RATE_PIR s)) else d.tokP t := d.setTok_tokP s _ _ t

@[simp] theorem DieUnit.gain_fields (d : DieUnit) (k s : Nat) : (d.gain k s).regs = d.regs ∧ (d.gain k s).fb = d.fb := by
  simp [DieUnit.gain, DieUnit.setTok]

/-- The microseconds up to the multiple `m` of 1,000 ns are taken. -/
def DieUnit.taken (d : DieUnit) (m : Nat) : DieUnit := d.modShp fun x => { x with lastMult := m }

@[simp] theorem DieUnit.taken_fields (d : DieUnit) (m : Nat) : (d.taken m).tokC = d.tokC ∧ (d.taken m).tokP = d.tokP
    ∧ (d.taken m).shp.lastMult = m ∧ (d.taken m).regs = d.regs ∧ (d.taken m).fb = d.fb := by
  cases d; exact ⟨rfl, rfl, rfl, rfl, rfl⟩

theorem DieUnit.refill_waits {d : DieUnit} {t : Nat} (hwaits : d.isOn .egr = false ∨ t / 65536000 ≤ d.shp.lastMult) : d.refill t = d :=
  if_pos (hwaits.imp_left Bool.eq_false_iff.1)

theorem DieUnit.refill_single {d : DieUnit} (hon : d.isOn .egr = true) (hnone : d.shp.held = []) {st : Nat} (hrated : d.ratedStreams = [st])
    {t k : Nat} (ht : t / 65536000 = d.shp.lastMult + k) (hk : 0 < k) :
    d.refill t = (d.gain k st).taken (d.shp.lastMult + k) := by
  have hdue : ¬ (¬ d.isOn .egr = true ∨ t / 65536000 ≤ d.shp.lastMult) := by
    rintro (h | h)
    · exact h hon
    · omega
  refine (if_neg hdue).trans ?_
  rw [DieUnit.applyHeld_nil hnone, hrated, show t / (1000 * nsU) = d.shp.lastMult + k from ht, Nat.add_sub_cancel_left]
  rfl

/-! ### Bits of a merged word -/

/-- A write that may change every bit of a field leaves the written value in it. -/
theorem bits_mergedWord (old w : Nat) {mask hi lo : Nat} (hhi : hi < 64) (hmask : ∀ i < 64, lo ≤ i → i ≤ hi → bit mask i = true) :
    bits (mergedWord old mask w) hi lo = bits w hi lo := by
  apply Nat.eq_of_testBit_eq
  intro i
  rw [testBit_bits, testBit_bits]
  by_cases hin : i < hi + 1 - lo
  · have hbit : (mergedWord old mask w).testBit (i + lo) = w.testBit (i + lo) :=
      bit_mergedWord old w (by omega) (hmask _ (by omega) (by omega) (by omega))
    rw [hbit]
  · simp [hin]

/-- A field of a word of 64 bits. -/
theorem bits_ofNat (n : Nat) {hi : Nat} (hhi : hi < 64) (lo : Nat) : bits (BitVec.ofNat 64 n).toNat hi lo = bits n hi lo := by
  apply Nat.eq_of_testBit_eq
  intro i
  rw [testBit_bits, testBit_bits, BitVec.toNat_ofNat, Nat.testBit_mod_two_pow]
  by_cases hin : i < hi + 1 - lo
  · simp [show i + lo < 64 by omega]
  · simp [hin]

/-! ### Rates (R214, Table 8-5) -/

/-- The port's answer changes the port alone. -/
@[simp] theorem DieUnit.answers_others (d : DieUnit) (v : W64) : (d.answers v).shp = d.shp ∧ (d.answers v).fb = d.fb := by
  cases d; exact ⟨rfl, rfl⟩

/-- SHP_RATE has PRIV bits alone. -/
theorem masksOf_SHP_RATE {st : Nat} (hst : st < 64) : masksOf .du (addr_SHP_RATE st) = ⟨0xFFFFFF00FFFFFF, 0, 0⟩ := by
  have hpage : pageOf (0xA100 + 8 * st) = 0xA := by
    rw [pageOf, if_neg (by unfold indBase; omega)]
    omega
  have hrows : rowsAt .du (pageOf (0xA100 + 8 * st)) = duRows0A ++ headerRows .du 0xA := by
    rw [hpage]
    rfl
  show masksOf .du (0xA100 + 8 * st) = _
  have hin := RegRow.index_inside (r := ⟨0xA100, 8, 64, 0xFFFFFF00FFFFFF, 0, 0, 0, 0⟩) (k := st) (by decide) hst
  rw [masksOf, rowOf, hrows]
  simp only [duRows0A, List.cons_append, List.findSome?_cons]
  iterate 9 rw [RegRow.index_outside (by decide) (by dsimp only; omega)]
  rw [hin]
  rfl

theorem privReg_SHP_RATE {st : Nat} (hst : st < 64) : PrivReg .egr (addr_SHP_RATE st) 0xFFFFFF00FFFFFF where
  aligned := by dsimp only [addr_SHP_RATE]; omega
  page := by dsimp only [addr_SHP_RATE]; omega
  domain := by
    have hlight : lightReg (addr_SHP_RATE st) = false := by
      show lightReg (0xA100 + 8 * st) = false
      simp only [lightReg, addr_CNT_OVF, addr_PG_SEQ, addr_PG_SEQ_RD, addr_PG_CLR_KEY, Bool.or_eq_false_iff, decide_eq_false_iff_not]
      omega
    rw [domOfReg, hlight, show addr_SHP_RATE st / 4096 = 0xA by dsimp only [addr_SHP_RATE]; omega]
    rfl
  direct := by dsimp only [addr_SHP_RATE]; omega
  noKey := by dsimp only [addr_SHP_RATE]; omega
  noSelector := by
    rw [selectorOf, if_neg (by dsimp only [addr_SHP_RATE]; omega), if_neg (by dsimp only [addr_SHP_RATE]; omega)]
  masks := masksOf_SHP_RATE hst
  written := by decide

/-- A write that is held replaces one of the same register that waits (R214). -/
def DieUnit.hold (d : DieUnit) (h : HeldShape) : DieUnit :=
  d.modShp fun x => { x with held := (x.held.filter fun y => y.key ≠ h.key) ++ [h] }

theorem DieUnit.writeEffect_shape (d : DieUnit) {addr : Nat} (hlo : 0xA100 ≤ addr) (hhi : addr < 0xA500) (m : Nat) (w : W64) (q : Nat) :
    d.writeEffect addr m w ⟨true, false⟩ q = d.writeShape addr (BitVec.ofNat 64 m) false := by
  have hne {n : Nat} (hn : n < 0xA100) : addr ≠ n := by omega
  unfold DieUnit.writeEffect
  iterate 7 rw [if_neg (hne (by decide))]
  iterate 3 rw [if_neg (by omega)]
  iterate 5 rw [if_neg (hne (by decide))]
  rw [if_pos ⟨hlo, hhi⟩]
  rfl

section RateWrite
variable {d : DieUnit} (hon : d.isOn .egr = true) {st : Nat} (hst : st < 64) {w : W64}
include hon hst

theorem DieUnit.writeShape_rate_valid (horder : bits w.toNat 23 0 ≤ bits w.toNat 55 32) (hmax : bits w.toNat 55 32 ≤ 400000) (fill : Bool) :
    d.writeShape (addr_SHP_RATE st) w fill = d.hold ⟨addr_SHP_RATE st, w, fill⟩ := by
  have hrate : addr_SHP_RATE st < addr_SHP_BURST 0 := by dsimp only [addr_SHP_RATE, addr_SHP_BURST]; omega
  rw [DieUnit.writeShape, if_neg (not_not_intro hon), if_pos hrate]
  exact if_neg (by omega)

theorem DieUnit.writeShape_rate_invalid (hbad : bits w.toNat 55 32 < bits w.toNat 23 0 ∨ 400000 < bits w.toNat 55 32) (fill : Bool) :
    d.writeShape (addr_SHP_RATE st) w fill = d.raise SHP_STATUS_CFG_INVALID := by
  have hrate : addr_SHP_RATE st < addr_SHP_BURST 0 := by dsimp only [addr_SHP_RATE, addr_SHP_BURST]; omega
  rw [DieUnit.writeShape, if_neg (not_not_intro hon), if_pos hrate]
  exact if_pos (by omega)

end RateWrite

/-- A privileged write of SHP_RATE over the port is one of a word with the rates written (R214). -/
theorem DieUnit.portWrite_rate {d : DieUnit} (hon : d.isOn .egr = true) {st : Nat} (hst : st < 64) (w q : Nat) :
    ∃ m : W64, bits m.toNat 55 32 = bits w 55 32 ∧ bits m.toNat 23 0 = bits w 23 0
      ∧ d.portWrite (addr_SHP_RATE st) w true q = (d.writeShape (addr_SHP_RATE st) m false).answers 0 := by
  have hmerged := DieUnit.portWrite_merged (privReg_SHP_RATE hst) hon w q
  rw [d.writeEffect_shape (by dsimp only [addr_SHP_RATE]; omega) (by dsimp only [addr_SHP_RATE]; omega)] at hmerged
  refine ⟨_, ?_, ?_, hmerged⟩
  · rw [bits_ofNat _ (by decide), bits_mergedWord _ _ (by decide) (by decide)]
  · rw [bits_ofNat _ (by decide), bits_mergedWord _ _ (by decide) (by decide)]

/-! ### Gate lists (R218) -/

section Commit
variable {d : DieUnit} (hon : d.isOn .egr = true)
include hon

theorem DieUnit.gateCommit_valid (hcycle : 1000 ≤ d.shadowList.cycle)
    (hwins : ∀ p ∈ d.shadowList.wins, p.2.off + p.2.dur ≤ d.shadowList.cycle ∧ d.duration (d.get FB_CTRL_MAX_PAYLOAD) ≤ p.2.dur) :
    d.gateCommit = (d.modShp fun x => { x with pending := some (d.shadowList, d.shadowList.startAt (d.get GATE_SWITCH_T)) }).set
      SHP_STATUS_GATE_PENDING 1 := by
  rw [DieUnit.gateCommit, if_neg (not_not_intro hon)]
  refine if_neg ?_
  rintro (hshort | hany)
  · omega
  · obtain ⟨p, hp, hout⟩ := List.any_eq_true.1 hany
    obtain ⟨hfits, hlong⟩ := hwins p hp
    simp only [Bool.or_eq_true, decide_eq_true_eq] at hout
    omega

theorem DieUnit.gateCommit_short (hcycle : d.shadowList.cycle < 1000) : d.gateCommit = d.raise SHP_STATUS_CFG_INVALID := by
  rw [DieUnit.gateCommit, if_neg (not_not_intro hon)]
  exact if_pos (.inl hcycle)

end Commit

/-- Two die units whose registers agree, beside the page header of the shaper, SHP_CTRL and SHP_STATUS. -/
def DieUnit.agreesBesideCtrl (e d : DieUnit) : Prop := ∀ k, k < 0xA000 ∨ 0xA090 ≤ k → e.regs.word k = d.regs.word k

section Agrees
variable {d e : DieUnit} (h : e.agreesBesideCtrl d)
include h

theorem DieUnit.get_agrees {f : Fld} (hf : f.reg < 0xA000 ∨ 0xA090 ≤ f.reg) : e.get f = d.get f := by
  unfold DieUnit.get RegFile.get
  rw [h f.reg hf]

/-- The shadow list stands in registers that SHP_CTRL and SHP_STATUS leave. -/
theorem DieUnit.shadowList_agrees : e.shadowList = d.shadowList := by
  have hmask (n : Nat) : e.get (GATE_MASK n) = d.get (GATE_MASK n) := DieUnit.get_agrees h (.inr (by dsimp only [addr_GATE_MASK]; omega))
  have hoff (n : Nat) : e.get (GATE_TIME_OFFSET n) = d.get (GATE_TIME_OFFSET n) :=
    DieUnit.get_agrees h (.inr (by dsimp only [addr_GATE_TIME]; omega))
  have hdur (n : Nat) : e.get (GATE_TIME_DURATION n) = d.get (GATE_TIME_DURATION n) :=
    DieUnit.get_agrees h (.inr (by dsimp only [addr_GATE_TIME]; omega))
  have hbase : e.get GATE_BASE = d.get GATE_BASE := DieUnit.get_agrees h (.inr (by decide))
  have hcycle : e.get GATE_CYCLE = d.get GATE_CYCLE := DieUnit.get_agrees h (.inr (by decide))
  have hen : e.get GATE_FLAGS_ENTRY_EN = d.get GATE_FLAGS_ENTRY_EN := DieUnit.get_agrees h (.inr (by decide))
  have hexcl : e.get GATE_FLAGS_EXCL = d.get GATE_FLAGS_EXCL := DieUnit.get_agrees h (.inr (by decide))
  simp only [DieUnit.shadowList, hmask, hoff, hdur, hbase, hcycle, hen, hexcl]

end Agrees

/-- What a write of SHP_CTRL does before its COMMIT: the fields are stored, a line rate that is out of range aside (R218). -/
def DieUnit.ctrlChecked (d : DieUnit) (m : Nat) : DieUnit :=
  d.writeChecked addr_SHP_CTRL (setBits m 2 2 0) SHP_CTRL_LINE_MBPS SHP_STATUS_CFG_INVALID fun x => decide (1000 ≤ x ∧ x ≤ 800000)

@[simp] theorem DieUnit.ctrlChecked_fields (d : DieUnit) (m : Nat) : (d.ctrlChecked m).shp = d.shp ∧ (d.ctrlChecked m).fb = d.fb := by
  unfold DieUnit.ctrlChecked DieUnit.writeChecked
  split <;> simp

theorem DieUnit.ctrlChecked_agrees (d : DieUnit) (m : Nat) : (d.ctrlChecked m).agreesBesideCtrl d := by
  intro k hk
  have hctrl : k ≠ addr_SHP_CTRL := by dsimp only [addr_SHP_CTRL]; omega
  have hstatus : k ≠ SHP_STATUS_CFG_INVALID.reg := by dsimp only [addr_SHP_STATUS]; omega
  have hseq : k ≠ addr_PG_SEQ (pageOf SHP_STATUS_CFG_INVALID.reg) := by
    rw [show addr_PG_SEQ (pageOf SHP_STATUS_CFG_INVALID.reg) = 0xA008 by decide]
    omega
  unfold DieUnit.ctrlChecked DieUnit.writeChecked
  split
  · exact (RegFile.word_setWord _ _ _ _).trans (if_neg hctrl)
  · simp only [DieUnit.raise_fields]
    rw [RegFile.word_raise _ _ hstatus hseq]
    exact (RegFile.word_setWord _ _ _ _).trans (if_neg hctrl)

/-- A write that repeats the line rate leaves it, in range or not. -/
theorem DieUnit.ctrlChecked_rate {d : DieUnit} {m : Nat} (hsame : bits m 55 32 = d.get SHP_CTRL_LINE_MBPS) :
    (d.ctrlChecked m).get SHP_CTRL_LINE_MBPS = d.get SHP_CTRL_LINE_MBPS := by
  have hkept : bits (setBits m 2 2 0) 55 32 = bits m 55 32 := bits_setBits_other _ _ _ _ _ _ (by decide) (.inl (by decide))
  unfold DieUnit.ctrlChecked DieUnit.writeChecked
  split
  · unfold DieUnit.get RegFile.get
    rw [RegFile.word_setWord, if_pos rfl, bits_ofNat _ (by decide), hkept]
    exact hsame
  · unfold DieUnit.get RegFile.get
    simp only [DieUnit.raise_fields]
    rw [RegFile.word_raise _ _ (by decide) (by decide), RegFile.word_setWord, if_pos rfl, bits_ofNat _ (by decide),
      bits_setBits_same _ _ _ _ (by decide)]
    exact Nat.mod_mod _ _

theorem DieUnit.writeEffect_shpCtrl (d : DieUnit) (m : Nat) (w : W64) (q : Nat) :
    d.writeEffect addr_SHP_CTRL m w ⟨true, false⟩ q = d.writeShpCtrl m true := by
  unfold DieUnit.writeEffect
  iterate 14 rw [if_neg (by decide)]
  rw [if_pos rfl]

/-- SHP_CTRL (Table 8-4). -/
theorem privReg_SHP_CTRL : PrivReg .egr addr_SHP_CTRL 0xFFFFFF00000007 := by
  constructor <;> decide

/-- The word that the write of GATE_COMMIT leaves in SHP_CTRL, its COMMIT still set. -/
def commitWord (old : Nat) : Nat := mergedWord old 0xFFFFFF00000007 (setBits old 2 2 1)

theorem bit_commitWord (old : Nat) : bit (commitWord old) 2 = true := by
  rw [show bit (commitWord old) 2 = bit (setBits old 2 2 1) 2 from bit_mergedWord _ _ (by decide) (by decide), bit,
    testBit_setBits _ _ _ _ _ (by decide)]
  exact (if_pos (by decide)).trans (by decide)

/-- It repeats the line rate. -/
theorem bits_commitWord (old : Nat) : bits (commitWord old) 55 32 = bits old 55 32 :=
  (bits_mergedWord _ _ (by decide) (by decide)).trans (bits_setBits_other _ _ _ _ _ _ (by decide) (.inl (by decide)))

/-- GATE_COMMIT commits the shadow list of a die unit that differs in SHP_CTRL and SHP_STATUS alone, and has the same line rate. -/
theorem DieUnit.portSet_commit {d : DieUnit} (hon : d.isOn .egr = true) (q : Nat) : ∃ e : DieUnit, e.agreesBesideCtrl d
    ∧ e.get SHP_CTRL_LINE_MBPS = d.get SHP_CTRL_LINE_MBPS ∧ e.shp = d.shp ∧ e.fb = d.fb
    ∧ d.portSet SHP_CTRL_COMMIT 1 q = e.gateCommit.answers 0 := by
  have hwrite := DieUnit.portWrite_merged privReg_SHP_CTRL hon (setBits (d.regs.word addr_SHP_CTRL).toNat 2 2 1) q
  rw [DieUnit.writeEffect_shpCtrl] at hwrite
  obtain ⟨hshp, hfb⟩ := d.ctrlChecked_fields (commitWord (d.regs.word addr_SHP_CTRL).toNat)
  exact ⟨_, d.ctrlChecked_agrees _, DieUnit.ctrlChecked_rate (bits_commitWord _), hshp, hfb,
    hwrite.trans (congrArg (fun e : DieUnit => e.answers 0) (if_pos ⟨rfl, bit_commitWord _⟩))⟩

theorem DieUnit.gateSwitch_none {d : DieUnit} (hnone : d.shp.pending = none) (q : Nat) : d.gateSwitch q = d := by
  rw [DieUnit.gateSwitch, hnone]

/-- At its switch time the pending list becomes the active one. -/
theorem DieUnit.gateSwitch_due {d : DieUnit} (hon : d.isOn .egr = true) {g : GateList} {sw q : Nat} (hpending : d.shp.pending = some (g, sw))
    (hdue : sw * 65536 ≤ d.stamp q) : d.gateSwitch q
      = (((d.modShp fun x => { x with active := some g, pending := none, openWins := [] }).set SHP_STATUS_GATE_PENDING 0).set
          SHP_STATUS_GATE_ACTIVE 1).raise SHP_STATUS_GATE_SWITCHED := by
  rw [DieUnit.gateSwitch, hpending]
  exact if_pos ⟨hon, hdue⟩

/-! ### Windows (R64) -/

section Windows
variable {d : DieUnit} (hon : d.isOn .egr = true) {g : GateList} (hactive : d.shp.active = some g) {e q : Nat}
include hon hactive

theorem DieUnit.windowOpen_opens (hopen : e ∈ g.openSet d.shp.gateFrom (d.stamp q)) (hnew : e ∉ d.shp.openWins) :
    d.windowOpen e q = d.modShp fun x => { x with openWins := x.openWins ++ [e] } := by
  rw [DieUnit.windowOpen, hactive]
  exact if_pos ⟨hon, List.contains_iff_mem.2 hopen, fun h => hnew (List.contains_iff_mem.1 h)⟩

theorem DieUnit.windowClose_closes (hclosed : e ∉ g.openSet d.shp.gateFrom (d.stamp q)) :
    d.windowClose e q = d.modShp fun x => { x with openWins := x.openWins.filter fun y => y ≠ e } := by
  rw [DieUnit.windowClose, hactive]
  exact if_pos ⟨hon, fun h => hclosed (List.contains_iff_mem.1 h)⟩

end Windows

/-! ### Launches (R82) -/

section Short
variable {d : DieUnit} {f : ShortFrame} {rest : List ShortFrame} (hshort : d.short = f :: rest)
include hshort

/-- A short frame that waits goes first, whatever else waits. -/
theorem DieUnit.launchDecision_short (q : Nat) : d.launchDecision q = d.launchShort (d.stamp q) :=
  if_pos (by rw [hshort]; exact List.cons_ne_nil _ _)

theorem DieUnit.launchShort_ifenov (hnone : f.ptp = none) (t : Nat) : d.launchShort t = { d with
    short := rest
    macTx := d.macTx ++ [d.ifenovFrame f.dst
      (frameHeader f.ftype 0 0 (if f.ftype = ftRegister then 0 else d.src) 0 0 0 0 (postmark t) ++ f.body)] } := by
  rw [DieUnit.launchShort, hshort]
  dsimp only
  rw [hnone]

/-- A Delay_Req owes its transmit strobe (R78). -/
theorem DieUnit.launchShort_ptp {o : PtpOwed} (hptp : f.ptp = some o) (t : Nat) : d.launchShort t = { d with
    short := rest
    tc := { d.tc with owed := d.tc.owed ++ [o] }
    macTx := d.macTx ++ [⟨f.dst, d.get DU_MAC_MAC, ptpEthertype, true, padFrame f.body⟩] } := by
  rw [DieUnit.launchShort, hshort]
  dsimp only
  rw [hptp]
  rfl

end Short

/-- Telemetry needs the egress domain and a registration (R14). -/
theorem DieUnit.launchDecision_none {d : DieUnit} (hshort : d.short = []) (hno : d.isOn .egr = false ∨ d.registered = false) (q : Nat) :
    d.launchDecision q = d := by
  have hmay : ¬ d.isOn .egr = true ∨ ¬ d.on FB_CTRL_EN = true ∨ ¬ d.on SHP_CTRL_EN = true ∨ ¬ d.registered = true :=
    hno.imp Bool.eq_false_iff.1 fun h => .inr (.inr (Bool.eq_false_iff.1 h))
  exact (if_neg (not_not_intro hshort)).trans (if_pos hmay)

/-! ### Record parcels (R206) -/

/-- A closed parcel is staged last; the open ones stand. -/
theorem DieUnit.stageParcel_fb (d : DieUnit) (ptype coding stream job gen records : Nat) (ref body : List Byte) (reserve : Bool) :
    let e := d.stageParcel ptype coding stream job gen records ref body reserve
    e.fb.opens = d.fb.opens ∧ e.fb.staged.length = d.fb.staged.length + 1 := by
  unfold DieUnit.stageParcel
  by_cases hwaiting : d.fb.waiting stream = true <;> simp [hwaiting]

section Parcel
variable {d : DieUnit} {ptype : Nat} {o : OpenParcel} (hopen : d.openOf ptype = some o)
include hopen

/-- The open parcel of the type leaves the open ones for the staged ones. -/
theorem DieUnit.closeParcel_fb : (d.closeParcel ptype).fb.opens = d.fb.opens.filter (fun x => x.ptype ≠ ptype)
    ∧ (d.closeParcel ptype).fb.staged.length = d.fb.staged.length + 1 := by
  have hfind : d.fb.opens.find? (fun x => x.ptype = ptype) = some o := hopen
  rw [DieUnit.closeParcel, hfind]
  exact DieUnit.stageParcel_fb _ _ _ _ _ _ _ _ _ _

theorem DieUnit.closeTimeout_closes (hon : d.isOn .egr = true) (hmismatch : ptype ≠ ptMismatch) (hhealth : ptype ≠ ptHealth)
    (hdue : o.at_ + o.closeNs ≤ d.mono) : d.closeTimeout ptype = (d.closeParcel ptype).serve := by
  have htimed : ¬ closesEmpty ptype = true := fun h => (of_decide_eq_true h).elim hmismatch hhealth
  rw [DieUnit.closeTimeout, hopen]
  exact if_pos ⟨hon, htimed, hdue⟩

/-- MISMATCH and HEALTH parcels have no close time, and another's may not be over. -/
theorem DieUnit.closeTimeout_waits (hwaits : closesEmpty ptype = true ∨ d.mono < o.at_ + o.closeNs) : d.closeTimeout ptype = d := by
  rw [DieUnit.closeTimeout, hopen]
  refine if_neg fun hcloses => ?_
  obtain ⟨-, htimed, hdue⟩ := hcloses
  exact hwaits.elim htimed (Nat.not_lt.2 hdue)

end Parcel

/-! ### The statement -/

/-- Settles O23: each event by the lemma on its operation; the writes by what the port leaves to them. -/
theorem shapingAndGates : Obligations.ShapingAndGates := by
  unfold Obligations.ShapingAndGates
  intro s e q st w k ptype sw f short g o
  refine ⟨?waits, ?refill, ?rateValid, ?rateInvalid, ?commit, ?commitShort, ?noSwitch, ?switch, ?opens, ?closes, ?shortFrame, ?noLaunch,
    ?untimed, ?closeTime, ?notYet⟩
  case waits => exact fun hwaits => congrArg (nextDu s) (DieUnit.refill_waits hwaits)
  case refill =>
    intro hon hnone hrated ht hk
    have hrefill := congrArg (nextDu s) (DieUnit.refill_single hon hnone hrated ht hk)
    refine ⟨_, hrefill, by simp [DieUnit.gain_tokC], by simp [DieUnit.gain_tokP], by simp, fun t hne => ?_, by simp, by simp⟩
    simp [DieUnit.gain_tokC, DieUnit.gain_tokP, hne]
  case rateValid =>
    intro hon hst _ horder hmax
    obtain ⟨m, hpir, hcir, hwrite⟩ := DieUnit.portWrite_rate hon hst w q
    rw [DieUnit.writeShape_rate_valid hon hst (by rwa [hpir, hcir]) (by rwa [hpir])] at hwrite
    refine ⟨_, ⟨addr_SHP_RATE st, m, false⟩, congrArg (nextDu s) hwrite, rfl, rfl, ?_, ?_, ?_⟩ <;> simp [DieUnit.hold]
  case rateInvalid =>
    intro hon hst _ hbad
    obtain ⟨m, hpir, hcir, hwrite⟩ := DieUnit.portWrite_rate hon hst w q
    rw [DieUnit.writeShape_rate_invalid hon hst (by rwa [hpir, hcir])] at hwrite
    exact ⟨_, congrArg (nextDu s) hwrite, by simp, RegFile.on_raise_same _ rfl (by decide) (by decide)⟩
  case commit =>
    intro hon hcycle hwins
    obtain ⟨c, hagrees, hrate, hshp, hfb, hset⟩ := DieUnit.portSet_commit hon q
    have hlist := DieUnit.shadowList_agrees hagrees
    have hpayload : c.get FB_CTRL_MAX_PAYLOAD = s.du.get FB_CTRL_MAX_PAYLOAD := DieUnit.get_agrees hagrees (.inl (by decide))
    have hdur (n : Nat) : c.duration n = s.du.duration n := by rw [DieUnit.duration, hrate, DieUnit.duration]
    have hon' : c.isOn .egr = true := (DieUnit.isOn_congr (hagrees _ (.inl (by decide))) .egr).trans hon
    rw [DieUnit.gateCommit_valid hon' (by rwa [hlist]) (by simpa only [hlist, hdur, hpayload] using hwins), hlist,
      DieUnit.get_agrees hagrees (f := GATE_SWITCH_T) (.inr (by decide))] at hset
    refine ⟨_, congrArg (nextDu s) hset, by simp, by simp [hshp], ?_, by simp [hfb]⟩
    exact RegFile.get_set _ _ _ ⟨by decide, by decide⟩
  case commitShort =>
    intro hon hcycle
    obtain ⟨c, hagrees, -, hshp, -, hset⟩ := DieUnit.portSet_commit hon q
    have hon' : c.isOn .egr = true := (DieUnit.isOn_congr (hagrees _ (.inl (by decide))) .egr).trans hon
    rw [DieUnit.gateCommit_short hon' (by rwa [DieUnit.shadowList_agrees hagrees])] at hset
    exact ⟨_, congrArg (nextDu s) hset, by simp [hshp], RegFile.on_raise_same _ rfl (by decide) (by decide)⟩
  case noSwitch => exact fun hnone => congrArg (nextDu s) (DieUnit.gateSwitch_none hnone q)
  case switch => exact fun hon hpending hdue => congrArg (nextDu s) (DieUnit.gateSwitch_due hon hpending hdue)
  case opens => exact fun hon hactive hopen hnew => congrArg (nextDu s) (DieUnit.windowOpen_opens hon hactive hopen hnew)
  case closes => exact fun hon hactive hclosed => congrArg (nextDu s) (DieUnit.windowClose_closes hon hactive hclosed)
  case shortFrame =>
    intro hshort
    have hfirst := DieUnit.launchDecision_short hshort q
    cases hptp : f.ptp with
    | none =>
      rw [DieUnit.launchShort_ifenov hshort hptp] at hfirst
      exact ⟨_, congrArg (nextDu s) hfirst, rfl, rfl, rfl, fun _ => ⟨rfl, rfl⟩, fun _ hsome => nomatch hsome⟩
    | some owed =>
      rw [DieUnit.launchShort_ptp hshort hptp] at hfirst
      refine ⟨_, congrArg (nextDu s) hfirst, rfl, rfl, rfl, fun hnone => (nomatch hnone), fun o hsome => ?_⟩
      cases hsome
      exact ⟨rfl, rfl⟩
  case noLaunch => exact fun hshort hno => congrArg (nextDu s) (DieUnit.launchDecision_none hshort hno q)
  case untimed =>
    exact fun hopen hempty => congrArg (nextDu s) (DieUnit.closeTimeout_waits hopen (.inl (decide_eq_true hempty)))
  case closeTime =>
    intro hopen hmismatch hhealth hon hdue
    exact ⟨congrArg (nextDu s) (DieUnit.closeTimeout_closes hopen hon hmismatch hhealth hdue), DieUnit.closeParcel_fb hopen⟩
  case notYet => exact fun hopen hwait => congrArg (nextDu s) (DieUnit.closeTimeout_waits hopen (.inr hwait))

end Sys2Proof.Machine
end Shaping

section SyncInstructions
/-!
PROOFS. ARRIVE, SIGNAL, WAIT, TRYWAIT and SEMREAD of a detector program (R237 to R242, Table 12-3): the object of a number, the status or the
block that an operation answers, and why a TRYWAIT always has a status.
-/
namespace Sys2Proof.Machine

/-! ### The judgement of a TRYWAIT (R241, R242) -/

/-- Every operation of a cycle is judged, in order. -/
theorem map_fst_judgeOps (cycle : Nat) : ∀ (l : List SemOp) (v : Nat) (q : List SemWait), (judgeOps cycle v q l).2.2.map (·.1) = l
  | [], _, _ => rfl
  | o :: l, v, q => by
    unfold judgeOps
    split
    · exact congrArg (o :: ·) (map_fst_judgeOps cycle l _ _)
    · split <;> exact congrArg (o :: ·) (map_fst_judgeOps cycle l _ _)

/-- Only a WAIT is judged to wait. -/
theorem wait_of_judgeOps_none (cycle : Nat) :
    ∀ (l : List SemOp) (v : Nat) (q : List SemWait) (o : SemOp), (o, none) ∈ (judgeOps cycle v q l).2.2 → o.wait = true
  | [], _, _, _, h => nomatch h
  | x :: l, v, q, o, h => by
    unfold judgeOps at h
    split at h
    · rcases List.mem_cons.1 h with hhead | htail
      · cases hhead
      · exact wait_of_judgeOps_none cycle l _ _ o htail
    · split at h
      case isTrue hwait =>
        rcases List.mem_cons.1 h with hhead | htail
        · cases hhead
          exact hwait
        · exact wait_of_judgeOps_none cycle l _ _ o htail
      case isFalse =>
        rcases List.mem_cons.1 h with hhead | htail
        · cases hhead
        · exact wait_of_judgeOps_none cycle l _ _ o htail

theorem mem_insertOp {o x : SemOp} {l : List SemOp} : x ∈ insertOp o l ↔ x = o ∨ x ∈ l := by
  induction l with
  | nil => simp [insertOp]
  | cons y l ih =>
    unfold insertOp
    split
    · exact List.mem_cons
    · rw [List.mem_cons, ih, List.mem_cons, or_left_comm]

/-- The engine that issues an operation has no other one in the cycle that the operation falls in. -/
theorem Aggregator.semCycle_engine {a : Aggregator} {s engine cyc : Nat} {o : SemOp} (h : o ∈ (a.semCycle s engine cyc).ops) :
    o.engine ≠ engine := by
  unfold Aggregator.semCycle at h
  dsimp only at h
  split at h
  · split at h
    · cases h
    · split at h
      · next hall =>
        have hstands := List.all_eq_true.1 hall o h
        exact of_decide_eq_true (Bool.and_eq_true_iff.1 hstands).2
      · cases h
  · cases h

/-- An engine all of whose operations in a cycle are TRYWAITs has a status there, where it has one at all. -/
theorem SemCycle.statusOf_tries {y : SemCycle} {o : SemOp} (hmem : o ∈ y.ops) (htry : ∀ x ∈ y.ops, x.engine = o.engine → x.wait = false) :
    ∃ v, y.statusOf o.engine = some v := by
  have hops : y.outcome.2.2.2.map (·.1) = y.ops := map_fst_judgeOps _ _ _ _
  obtain ⟨p, hp, rfl⟩ := List.mem_map.1 (hops ▸ hmem)
  cases hfind : y.outcome.2.2.2.find? fun x => decide (x.1.engine = p.1.engine) with
  | none => exact absurd (decide_eq_true rfl) (List.find?_eq_none.1 hfind p hp)
  | some x =>
    have hx := List.mem_of_find?_eq_some hfind
    have hengine := List.find?_some hfind
    have htried := htry x.1 (hops ▸ List.mem_map_of_mem hx) (of_decide_eq_true hengine)
    obtain ⟨w, st⟩ := x
    cases st with
    | none => exact absurd (wait_of_judgeOps_none _ _ _ _ w hx) (Bool.eq_false_iff.1 htried)
    | some v => exact ⟨v, congrArg (·.bind (·.2)) hfind⟩

/-- TRYWAIT never blocks (R241): it has a status at once. -/
theorem Aggregator.semTry_status (a : Aggregator) (m n engine rd pc ctx cyc : Nat) :
    ∃ v b, a.semTry m n engine rd pc ctx cyc = (some v, b) := by
  unfold Aggregator.semTry Aggregator.semOp
  split
  · exact ⟨_, _, rfl⟩
  · refine (?_ : ∃ v, SemCycle.statusOf _ engine = some v).imp fun v hv => ⟨_, Prod.ext hv rfl⟩
    refine SemCycle.statusOf_tries (o := ⟨engine, rd, pc, n, false, none⟩) (mem_insertOp.2 (.inl rfl)) fun x hx hengine => ?_
    rcases mem_insertOp.1 hx with rfl | hold
    · rfl
    · exact absurd hengine (Aggregator.semCycle_engine hold)

/-! ### What an operation does to its core (Table 12-3) -/

/-- The core of an operation goes on: with a status in the register that the operation names, or blocked until its release. -/
def Aggregator.synced (a : Aggregator) (c : Nat) (k : Core) (rd : Nat) : Option Nat → Aggregator
  | some v => a.setCore c { k.setX rd (BitVec.ofNat 64 v) with pc := k.pc + 1 }
  | none => a.setCore c { k with pc := k.pc + 1, blocked := .sync rd }

theorem Aggregator.syncRes_go (a : Aggregator) (c : Nat) (k : Core) (rd : Nat) (st : Option Nat) :
    a.syncRes c k rd st = .go (a.synced c k rd st) := by
  cases st with
  | none => rfl
  | some v => simp [Aggregator.syncRes, Aggregator.synced, Core.next]

/-- The synchronisation instructions name scalar registers alone. -/
theorem Insn.legal_sync {i : Insn} (h : fieldsBelow i 64 64 64) {op : Nat} (hop : op ∈ [0x28, 0x29, 0x2A, 0x2B, 0x2C]) : i.legal op = true := by
  obtain ⟨hrsv, hd, ha, hb⟩ := h
  simp only [List.mem_cons, List.not_mem_nil, or_false] at hop
  rcases hop with rfl | rfl | rfl | rfl | rfl <;> simp [Insn.legal, opKinds, RegKind.ok, hrsv, hd, ha, hb]

/-- An instruction that issues and faults not. -/
theorem Aggregator.isa_go {a b : Aggregator} {c op : Nat} {i : Insn} {f : Core → Run → IsaRes} {r : Run} (h : ready a c r)
    (hl : i.legal op = true) (hf : f (a.core c) r = .go b) : a.isa c op i f = b := by
  rw [Aggregator.isa_issues a c op i f r h hl, hf]

/-- The object of a number, in the allocation of the run (R237). -/
theorem Aggregator.objOf_instOf {a : Aggregator} {r : Run} {n : Instance} (hinst : a.inst r.inst = some n) {imm : Int} (himm : 0 ≤ imm)
    {f : Instance → List Nat} {x : Nat} (hx : (f n)[imm.toNat]? = some x) : objOf (a.instOf r f) imm = some x := by
  rw [objOf, if_pos himm, Aggregator.instOf, hinst]
  exact hx

section Issued
variable {a : Aggregator} {c : Nat} {i : Insn} {r : Run} (h : ready a c r) (hi : fieldsBelow i 64 64 64) (cyc : Nat)
include h hi

theorem Aggregator.isaArrive_object (hmoves : r.moves = []) {b : Nat} (hobj : objOf (a.instOf r (·.barriers)) i.imm = some b)
    {st : Option Nat} {a1 : Aggregator} (hst : a.arrive b c r.ctx (a.cycle cyc) = (st, a1)) :
    a.isaArrive c cyc i = a1.synced c (a.core c) i.d st := by
  refine Aggregator.isa_go h (Insn.legal_sync hi (by decide)) ?_
  rw [if_neg (not_not_intro hmoves), hobj]
  dsimp only
  rw [hst]
  exact Aggregator.syncRes_go _ _ _ _ _

theorem Aggregator.isaSignal_object (hmoves : r.moves = []) {m : Nat} (hobj : objOf (a.instOf r (·.sems)) i.imm = some m) :
    a.isaSignal c cyc i
      = (a.semSignal m ((a.core c).xr i.a).toNat (4 * c) r.ctx (a.cycle cyc)).2.setCore c (a.core c).next := by
  refine Aggregator.isa_go h (Insn.legal_sync hi (by decide)) ?_
  rw [if_neg (not_not_intro hmoves), hobj]

/-- A release does not issue while a copy of the core's mover is not complete (R236, log 137). -/
theorem Aggregator.isaRelease_waits (hmoves : r.moves ≠ []) : a.isaArrive c cyc i = a ∧ a.isaSignal c cyc i = a :=
  ⟨Aggregator.isa_go h (Insn.legal_sync hi (by decide)) (if_pos hmoves), Aggregator.isa_go h (Insn.legal_sync hi (by decide)) (if_pos hmoves)⟩

variable {m : Nat} (hobj : objOf (a.instOf r (·.sems)) i.imm = some m)
include hobj

theorem Aggregator.isaWait_object {st : Option Nat} {b : Aggregator}
    (hst : a.semWait m ((a.core c).xr i.a).toNat ((a.core c).xr i.b).toNat (4 * c) i.d ((a.core c).pc + 1) r.ctx (a.cycle cyc) = (st, b)) :
    a.isaWait c cyc i = b.synced c (a.core c) i.d st := by
  refine Aggregator.isa_go h (Insn.legal_sync hi (by decide)) ?_
  rw [hobj]
  dsimp only
  rw [hst]
  exact Aggregator.syncRes_go _ _ _ _ _

theorem Aggregator.isaTrywait_object {st : Option Nat} {b : Aggregator}
    (hst : a.semTry m ((a.core c).xr i.a).toNat (4 * c) i.d ((a.core c).pc + 1) r.ctx (a.cycle cyc) = (st, b)) :
    a.isaTrywait c cyc i = b.synced c (a.core c) i.d st := by
  refine Aggregator.isa_go h (Insn.legal_sync hi (by decide)) ?_
  rw [hobj]
  dsimp only
  rw [hst]
  exact Aggregator.syncRes_go _ _ _ _ _

omit cyc in
theorem Aggregator.isaSemread_object (howns : a.ownsSem m r.ctx = true) :
    a.isaSemread c i = a.synced c (a.core c) i.d (some (a.get (SEM_VAL_VALUE m))) := by
  refine Aggregator.isa_go h (Insn.legal_sync hi (by decide)) ?_
  rw [hobj]
  exact (if_pos howns).trans (Aggregator.syncRes_go _ _ _ _ _)

end Issued

/-! ### The statement -/

/-- Settles O6: each instruction acts on the object of its number by its lemma; a TRYWAIT is judged with a status. -/
theorem synchronisationInstructionsAct : Obligations.SynchronisationInstructionsAct := by
  unfold Obligations.SynchronisationInstructionsAct
  intro s c i r n b m cyc h hi hinst himm hb hm
  have hbar : objOf (s.agg.instOf r (·.barriers)) i.imm = some b := Aggregator.objOf_instOf hinst himm hb
  have hsem : objOf (s.agg.instOf r (·.sems)) i.imm = some m := Aggregator.objOf_instOf hinst himm hm
  refine ⟨?arrives, ?arriveBlocks, ?signals, ?held, ?waits, ?waitBlocks, ?tries, ?reads⟩
  case arrives => exact fun v a hmoves hst => congrArg (nextAgg s) (Aggregator.isaArrive_object h hi cyc hmoves hbar hst)
  case arriveBlocks => exact fun a hmoves hst => congrArg (nextAgg s) (Aggregator.isaArrive_object h hi cyc hmoves hbar hst)
  case signals => exact fun hmoves => congrArg (nextAgg s) (Aggregator.isaSignal_object h hi cyc hmoves hsem)
  case held =>
    intro hmoves
    obtain ⟨harrive, hsignal⟩ := Aggregator.isaRelease_waits h hi cyc hmoves
    exact ⟨congrArg (nextAgg s) harrive, congrArg (nextAgg s) hsignal⟩
  case waits => exact fun v a hst => congrArg (nextAgg s) (Aggregator.isaWait_object h hi cyc hsem hst)
  case waitBlocks => exact fun a hst => congrArg (nextAgg s) (Aggregator.isaWait_object h hi cyc hsem hst)
  case tries =>
    obtain ⟨v, a, hst⟩ := s.agg.semTry_status m ((s.agg.core c).xr i.a).toNat (4 * c) i.d ((s.agg.core c).pc + 1) r.ctx (s.agg.cycle cyc)
    exact ⟨v, a, hst, congrArg (nextAgg s) (Aggregator.isaTrywait_object h hi cyc hsem hst)⟩
  case reads => exact fun howns => congrArg (nextAgg s) (Aggregator.isaSemread_object h hi hsem howns)

end Sys2Proof.Machine
end SyncInstructions

section SemaphoreValue
/-!
PROOFS. A privileged write of a semaphore's value while an expired wait is still queued (R242, R243): the state that refutes O46.
-/
namespace Sys2Proof.Machine

/-- SEM_VALUE_WRITE is a privileged write of the semaphore's second word (R243). -/
theorem exec_semValueWrite (s : State) (n value cyc : Nat) :
    exec (.semValueWrite n value cyc) s = nextAgg s (s.agg.entryWrite 0x11 (0x400 + 2 * n + 1) value cyc) := rfl

/-- Context 0 owns semaphore 0, of value 0, and core 0 has issued WAIT(1, 1) in cycle 0: its wait expires in cycle 1 (R241). -/
def waitQueued : Aggregator := ((Aggregator.blank.set (SEM_CFG_SYS 0) 0).semWait 0 1 1 0 0 1 0 0).2

/-- That aggregator beside a die unit after reset. -/
def waitQueuedState : State := { State.reset with agg := waitQueued }

theorem waitQueued_queue : waitQueued.semQueue 0 = [⟨0, 1, 0, some 1⟩] := by decide +kernel

/-- In cycle 2 the wait has left with TIMEOUT (R242): the value 1 that is written stands, and nothing is served. -/
theorem waitQueued_written : (Aggregator.after waitQueued (waitQueued.entryWrite 0x11 0x401 1 2)).get (SEM_VAL_VALUE 0) = 1 := by
  decide +kernel

/-- A queue that still held the wait would be served out of the value. -/
theorem waitQueued_served :
    (Aggregator.after waitQueued ((waitQueued.set (SEM_VAL_VALUE 0) 1).semServe 0 (waitQueued.mono / 40 * 64 + 2))).get (SEM_VAL_VALUE 0)
      = 0 := by
  decide +kernel

/-- Refutes O46 by its clause on a write of SEM_VAL, which has the queue served as it stands. A wait that expired in an earlier cycle leaves
with TIMEOUT at once (R242), before the value is written. At `waitQueuedState` the clause serves such a wait and leaves the value 0, where
the model leaves 1. -/
theorem not_synchronisationObjectsAreConfiguredWhileIdle : ¬ Obligations.SynchronisationObjectsAreConfiguredWhileIdle := by
  unfold Obligations.SynchronisationObjectsAreConfiguredWhileIdle
  intro h
  obtain ⟨-, -, -, -, -, -, -, -, hvalue, -⟩ := h waitQueuedState 0 0 1 2
  have same := after_eq_of_nextAgg_eq ((exec_semValueWrite waitQueuedState 0 1 2).symm.trans (hvalue (by decide) (by decide)))
  have : 1 = 0 := waitQueued_written.symm.trans ((congrArg (·.get (SEM_VAL_VALUE 0)) same).trans waitQueued_served)
  cases this

end Sys2Proof.Machine
end SemaphoreValue

section AggregatorDomains
/-!
PROOFS. The power domains of the aggregator (R250 to R255, Table 9-10): what a change of a domain's state leaves, sleep, wake, deferral, failed
wakes, and the writes that drain a core or map it out.
-/
namespace Sys2Proof.Machine

/-! ### What a change of a domain's state leaves -/

/-- A register after a write of a field of another. -/
theorem Aggregator.word_set_other (a : Aggregator) {f : Fld} {n : Nat} (hn : n ≠ f.reg) (v : Nat) : (a.set f v).word n = a.word n :=
  (RegFile.word_set _ _ _ _).trans (if_neg hn)

theorem Aggregator.word_inc_other (a : Aggregator) {f : Fld} {n : Nat} (hn : n ≠ f.reg) (v : Nat) : (a.inc f v).word n = a.word n :=
  (RegFile.word_set _ _ _ _).trans (if_neg hn)

theorem Aggregator.word_raise_other (a : Aggregator) {f : Fld} {n : Nat} (hn : n ≠ f.reg) (hseq : n ≠ addr_PG_SEQ (pageOf f.reg)) :
    (a.raise f).word n = a.word n := RegFile.word_raise _ _ hn hseq

/-- A domain's state stands in its register alone. -/
theorem Aggregator.adState_congr {a b : Aggregator} {k : Nat} (h : a.word (addr_PD_STAT k) = b.word (addr_PD_STAT k)) :
    a.adState k = b.adState k := RegFile.get_congr h

@[simp] theorem Aggregator.setAd_fields (a : Aggregator) (k st : Nat) :
    (a.setAd k st).mem = a.mem ∧ (a.setAd k st).det = a.det ∧ (a.setAd k st).pwr = a.pwr ∧ (a.setAd k st).bar = a.bar := by
  simp [Aggregator.setAd, Aggregator.showPower]

/-- Only the domain's own register and PWR_EST change. -/
theorem Aggregator.word_setAd_other (a : Aggregator) {k n : Nat} (hn : n ≠ addr_PD_STAT k) (hest : n ≠ addr_PWR_EST) (st : Nat) :
    (a.setAd k st).word n = a.word n := by
  rw [Aggregator.setAd, Aggregator.showPower, Aggregator.word_set_other _ hest, Aggregator.word_set_other _ hn]

theorem fits_PD_STAT_STATE (k : Nat) : (PD_STAT_STATE k).fits := ⟨Nat.zero_le 2, show 2 < 64 by decide⟩

/-- STATE holds the eight codes of a state. -/
@[simp] theorem Aggregator.adState_setAd (a : Aggregator) (k : Nat) {st : Nat} (hst : st < 8) : (a.setAd k st).adState k = st := by
  have hshow : (a.setAd k st).adState k = (a.set (PD_STAT_STATE k) st).adState k :=
    Aggregator.adState_congr (Aggregator.word_set_other _ (by dsimp only [addr_PD_STAT, addr_PWR_EST]; omega) _)
  rw [hshow]
  exact (RegFile.get_set _ (PD_STAT_STATE k) _ (fits_PD_STAT_STATE k)).trans (Nat.mod_eq_of_lt hst)

theorem Aggregator.adState_setAd_other (a : Aggregator) {k n : Nat} (hn : n ≠ k) (st : Nat) : (a.setAd k st).adState n = a.adState n :=
  Aggregator.adState_congr (a.word_setAd_other (by dsimp only [addr_PD_STAT]; omega) (by dsimp only [addr_PD_STAT, addr_PWR_EST]; omega) st)

/-- The register of a domain's state is no header word of its page, nor of another. -/
theorem addr_PD_STAT_noHeader {k : Nat} (hk : k < 80) (p : Nat) {off : Nat} (hoff : off < 0x100) : addr_PD_STAT k ≠ p * 4096 + off := by
  dsimp only [addr_PD_STAT]
  omega

/-! ### Sleep (R250, R251) -/

/-- A domain is a core's where its number is one (Table 9-10). -/
theorem domKind_eq_core {k : Nat} : domKind k = .core ↔ k < 64 := by
  unfold domKind
  split
  · simp [*]
  · refine iff_of_false ?_ ‹_›
    split <;> split <;> simp

/-- The low state of a domain: a core's is its LOW_OFF's, RETAIN is the HBM's, OFF any other's. -/
def Aggregator.lowState (a : Aggregator) (k : Nat) : Nat :=
  if k < 64 then (if a.on (PD_CTRL_LOW_OFF k) then adOff else adRetain) else if domKind k = .hbm then adRetain else adOff

/-- It is OFF or RETAIN. -/
theorem Aggregator.lowState_cases (a : Aggregator) (k : Nat) : a.lowState k = adOff ∨ a.lowState k = adRetain := by
  unfold Aggregator.lowState
  split <;> split <;> simp

/-- A register page of a domain that sleeps loses its armed key and its fetched word (R461, R465). -/
def Aggregator.sleptPage (a : Aggregator) (p : Nat) : Aggregator := (a.set (PG_CLR_KEY_ARMED p) 0).set (IND_ADDR_READY p) 0

section Sleep
variable {a : Aggregator} {k hold : Nat} (hhold : domHold k = some hold)

theorem Aggregator.sleepDomain_never (hnone : domHold k = none) (idle : Nat) (final : Bool) : a.sleepDomain k idle final = a := by
  unfold Aggregator.sleepDomain
  rw [Aggregator.domainSleep, hnone]
  simp

include hhold

/-- The first step begins the entry of a quiet domain. -/
theorem Aggregator.domainSleep_first (idle : Nat) : a.domainSleep k idle false
    = if a.adState k = adOn ∧ hold ≤ idle ∧ a.domQuiet k = true ∧ ¬ a.on (PD_CTRL_FORCE_ON k) = true then a.setAd k adEntering else a := by
  rw [Aggregator.domainSleep, hhold]
  rfl

/-- The final step ends it in the low state. -/
theorem Aggregator.domainSleep_final (idle : Nat) :
    a.domainSleep k idle true = if a.adState k = adEntering then a.setAd k (a.lowState k) else a := by
  rw [Aggregator.domainSleep, hhold]
  refine congrArg (fun st => if a.adState k = adEntering then a.setAd k st else a) ?_
  unfold Aggregator.lowState
  by_cases hcore : k < 64
  · have hkind := domKind_eq_core.2 hcore
    simp [hcore, hkind]
  · have hkind := mt domKind_eq_core.1 hcore
    by_cases hhbm : domKind k = .hbm <;> simp [hcore, hkind, hhbm]

theorem Aggregator.sleepDomain_awake {idle : Nat} (h : a.indHolds k = true ∨ idle < hold ∨ a.adState k ≠ adOn ∨ a.domQuiet k = false
    ∨ a.on (PD_CTRL_FORCE_ON k) = true) : a.sleepDomain k idle false = a := by
  have hstays : a.indHolds k = true ∨ a.domainSleep k idle false = a := by
    refine h.imp_right fun hnot => (Aggregator.domainSleep_first hhold idle).trans (if_neg ?_)
    rintro ⟨hon, hidle, hquiet, hforce⟩
    rcases hnot with hshort | hstate | hbusy | hforced
    · omega
    · exact hstate hon
    · exact Bool.eq_false_iff.1 hbusy hquiet
    · exact hforce hforced
  unfold Aggregator.sleepDomain
  rcases hstays with hind | hsame
  · simp [hind]
  · simp [hsame]

theorem Aggregator.sleepDomain_begins {idle : Nat} (hind : a.indHolds k = false) (hidle : hold ≤ idle) (hon : a.adState k = adOn)
    (hquiet : a.domQuiet k = true) (hforce : a.on (PD_CTRL_FORCE_ON k) = false) : a.sleepDomain k idle false = a.setAd k adEntering := by
  have hbegin : a.domainSleep k idle false = a.setAd k adEntering :=
    (Aggregator.domainSleep_first hhold idle).trans (if_pos ⟨hon, hidle, hquiet, Bool.eq_false_iff.1 hforce⟩)
  unfold Aggregator.sleepDomain
  simp [hind, hbegin]

theorem Aggregator.sleepDomain_noEntry (hstate : a.adState k ≠ adEntering) (idle : Nat) : a.sleepDomain k idle true = a := by
  have hsame : a.domainSleep k idle true = a := (Aggregator.domainSleep_final hhold idle).trans (if_neg hstate)
  unfold Aggregator.sleepDomain
  simp [hsame]

/-- The entry ends in the low state, and the register pages of the domain sleep. -/
theorem Aggregator.sleepDomain_ends (hstate : a.adState k = adEntering) (idle : Nat) :
    a.sleepDomain k idle true = (pagesOfDomain k).foldl Aggregator.sleptPage (a.setAd k (a.lowState k)) := by
  have hnew : (a.setAd k (a.lowState k)).adState k ≠ a.adState k := by
    rw [hstate]
    rcases a.lowState_cases k with hlow | hlow <;> rw [hlow, Aggregator.adState_setAd _ _ (by decide)] <;> decide
  unfold Aggregator.sleepDomain
  rw [if_neg (by simp), Aggregator.domainSleep_final hhold, if_pos hstate]
  exact if_pos ⟨rfl, hnew⟩

end Sleep

/-- The words that the sleep of a page changes are no state of a domain, and nothing but registers. -/
theorem Aggregator.sleptPages_keep (a : Aggregator) (l : List Nat) :
    let e := l.foldl Aggregator.sleptPage a
    e.mem = a.mem ∧ e.det = a.det ∧ ∀ n < 80, e.adState n = a.adState n := by
  have hpage (b : Aggregator) (p : Nat) : (b.sleptPage p).mem = b.mem ∧ (b.sleptPage p).det = b.det := by simp [Aggregator.sleptPage]
  refine ⟨foldl_keeps (·.mem) (fun b p => (hpage b p).1) l a, foldl_keeps (·.det) (fun b p => (hpage b p).2) l a, fun n hn => ?_⟩
  refine foldl_keeps (·.adState n) (fun b p => Aggregator.adState_congr ?_) l a
  rw [Aggregator.sleptPage, Aggregator.word_set_other _ (addr_PD_STAT_noHeader hn p (by decide)),
    Aggregator.word_set_other _ (addr_PD_STAT_noHeader hn p (by decide))]

/-! ### Wake (R251 to R253) -/

/-- A domain that needs no other wakes by itself. -/
theorem Aggregator.wakeDomain_alone {a : Aggregator} {k : Nat} (hparent : a.domParent k = none) (hstate : a.adState k ≠ adEntering) :
    a.wakeDomain k = a.wakeOne k := by
  rw [Aggregator.wakeDomain, if_neg hstate, hparent]

theorem Aggregator.wakeOne_awake {a : Aggregator} {k : Nat} (hoff : a.adState k ≠ adOff) (hretain : a.adState k ≠ adRetain) :
    a.wakeOne k = a := if_pos (.inl ⟨hoff, hretain⟩)

section Low
variable {a : Aggregator} {k : Nat} (hlow : a.adState k = adOff ∨ a.adState k = adRetain) (hshed : a.pwr.shed = false)
include hlow hshed

theorem Aggregator.low_wakes : ¬ ((a.adState k ≠ adOff ∧ a.adState k ≠ adRetain) ∨ a.pwr.shed = true) := by
  rintro (⟨hoff, hretain⟩ | hyes)
  · exact hlow.elim hoff hretain
  · exact Bool.eq_false_iff.1 hshed hyes

theorem Aggregator.wakeOne_begins (hfits : a.powerSum + domBudget k ≤ a.get PWR_CAP_CAP_W) :
    a.wakeOne k = a.beginWake k (decide (a.adState k = adOff)) :=
  (if_neg (Aggregator.low_wakes hlow hshed)).trans (if_pos hfits)

/-- A wake that would exceed the cap joins the deferred ones (R253). -/
theorem Aggregator.wakeOne_defers (hover : a.get PWR_CAP_CAP_W < a.powerSum + domBudget k) :
    (a.wakeOne k).adState k = adDeferred ∧ (a.wakeOne k).pwr.deferred = a.pwr.deferred ++ [k]
      ∧ (a.wakeOne k).on PWR_STATUS_WAKE_DEFERRED = true := by
  unfold Aggregator.wakeOne
  rw [if_neg (Aggregator.low_wakes hlow hshed), if_neg (Nat.not_le.2 hover)]
  refine ⟨Aggregator.adState_setAd _ _ (by decide), by simp, ?_⟩
  refine (RegFile.on_congr (Aggregator.word_setAd_other _ ?_ (by decide) _)).trans (RegFile.on_raise_same _ rfl (by decide) (by decide))
  dsimp only [addr_PWR_STATUS, addr_PD_STAT]
  omega

end Low

theorem Aggregator.deferredStart_none {a : Aggregator} (hnone : nextDeferred a.pwr.deferred = none) : a.deferredStart = a := by
  rw [Aggregator.deferredStart, hnone]

/-- The next deferred wake begins where it fits (R253). -/
theorem Aggregator.deferredStart_some {a : Aggregator} {k : Nat} (hnext : nextDeferred a.pwr.deferred = some k) :
    a.deferredStart = if a.powerSum + domBudget k ≤ a.get PWR_CAP_CAP_W then a.beginWake k (a.pwr.fromOff.contains k) else a := by
  rw [Aggregator.deferredStart, hnext]

/-- A core becomes usable while no other wake waits for it: one from OFF has lost its SRAM and its registers, its waiting runs stand (R251). -/
theorem Aggregator.domainUsable_core {a : Aggregator} {c : Nat} (hc : c < 64) (hwaking : a.adState c = adWaking) (hheld : a.pwr.held = []) :
    (a.domainUsable c).regs = (a.setAd c adOn).regs
      ∧ (c ∈ a.pwr.fromOff → (a.domainUsable c).mem = memClear a.mem (sramOf c) 0x400000
        ∧ (a.domainUsable c).det = { a.det with cores := tabPut a.det.cores c { Core.init with waiting := (a.core c).waiting } })
      ∧ (c ∉ a.pwr.fromOff → (a.domainUsable c).mem = a.mem ∧ (a.domainUsable c).det = a.det) := by
  unfold Aggregator.domainUsable
  rw [if_neg (not_not_intro hwaking)]
  by_cases hoff : c ∈ a.pwr.fromOff
  · cases howed : tabGet a.pwr.pealOwed c <;> simp [hc, hoff, howed, hheld, Aggregator.core]
  · cases howed : tabGet a.pwr.pealOwed c <;> simp [hoff, howed, hheld]

theorem Aggregator.domainUsable_on {a : Aggregator} {c : Nat} (hc : c < 64) (hwaking : a.adState c = adWaking) (hheld : a.pwr.held = []) :
    (a.domainUsable c).adState c = adOn := by
  obtain ⟨hregs, -, -⟩ := Aggregator.domainUsable_core hc hwaking hheld
  exact (congrArg (fun r : RegFile => r.get (PD_STAT_STATE c)) hregs).trans (Aggregator.adState_setAd a c (by decide))

/-! ### Failed wakes (R254) -/

/-- A wake that is not given up leaves the registers and the held writes of the domain. -/
theorem Aggregator.wakeGivenUp_not {a : Aggregator} {k : Nat} (h : a.wakeFail k = a) : a.wakeGivenUp k = a := by
  rw [Aggregator.wakeGivenUp, h]
  exact if_pos rfl

theorem Aggregator.wakeFail_none {a : Aggregator} {k : Nat} (hnone : tabGet a.pwr.wakeAt k = none) : a.wakeFail k = a := by
  rw [Aggregator.wakeFail, hnone]

theorem Aggregator.wakeFail_early {a : Aggregator} {k t : Nat} (hat : tabGet a.pwr.wakeAt k = some t)
    (hearly : a.mono < t + 4 * domWake k (a.pwr.fromOff.contains k)) : a.wakeFail k = a := by
  rw [Aggregator.wakeFail, hat]
  exact if_pos (.inr hearly)

/-- A record touches nothing beside the recorder and its page, 0x003. -/
theorem Aggregator.record_keeps (a : Aggregator) (code : Nat) (data : List Byte) :
    (a.record code data).pwr = a.pwr ∧ (a.record code data).bar = a.bar
      ∧ ∀ k, 0x4000 ≤ k → (a.record code data).word k = a.word k := by
  refine ⟨rfl, rfl, fun k hk => ?_⟩
  show (a.recView.record code data).regs.word k = a.regs.word k
  unfold RecView.record RecView.produce
  split
  · rfl
  · split
    · rfl
    · refine (RegFile.word_raise _ _ ?_ ?_).trans ((RegFile.word_set _ _ _ _).trans (if_neg ?_))
      · exact Nat.ne_of_gt (Nat.lt_of_lt_of_le (show (REC_STATUS_QUEUE_DROP.onPage 0x3).reg < 0x4000 by decide) hk)
      · exact Nat.ne_of_gt (Nat.lt_of_lt_of_le (show addr_PG_SEQ (pageOf (REC_STATUS_QUEUE_DROP.onPage 0x3).reg) < 0x4000 by decide) hk)
      · exact Nat.ne_of_gt (Nat.lt_of_lt_of_le (show (REC_CNT_QUEUE_DROP_N.onPage 0x3).reg < 0x4000 by decide) hk)

/-- A report touches the host interface alone: its queue of events, or the count and the status of a lost one, on page 0x019 (R430). -/
theorem Aggregator.report_keeps (a : Aggregator) (name : String) (args : List Nat) :
    (a.report name args).pwr = a.pwr ∧ (a.report name args).bar = a.bar
      ∧ ∀ k < 0x19000, (a.report name args).word k = a.word k := by
  unfold Aggregator.report Aggregator.event
  split
  · exact ⟨rfl, rfl, fun _ _ => rfl⟩
  · refine ⟨by simp, by simp, fun k hk => ?_⟩
    rw [Aggregator.word_raise_other _ (Nat.ne_of_lt (Nat.lt_trans hk (by decide))) (Nat.ne_of_lt (Nat.lt_trans hk (by decide))),
      Aggregator.word_inc_other _ (Nat.ne_of_lt (Nat.lt_trans hk (by decide)))]

/-- A domain whose wake has failed, in the state that it fell back to. -/
def Aggregator.fellBack (a : Aggregator) (k : Nat) : Aggregator :=
  ((a.setAd k (if a.pwr.fromOff.contains k then adOff else adRetain)).modPwr fun p =>
    { p with wakeAt := tabDel p.wakeAt k, fromOff := p.fromOff.filter (· ≠ k) }).raise (PD_STAT_WAKE_FAIL k)

theorem Aggregator.fellBack_state (a : Aggregator) {k : Nat} (hk : k < 80) :
    (a.fellBack k).adState k = (if k ∈ a.pwr.fromOff then adOff else adRetain) ∧ (a.fellBack k).on (PD_STAT_WAKE_FAIL k) = true := by
  have hseq : addr_PD_STAT k ≠ addr_PG_SEQ (pageOf (addr_PD_STAT k)) := addr_PD_STAT_noHeader hk _ (by decide)
  refine ⟨?_, RegFile.on_raise_same _ rfl (show 8 < 64 by decide) hseq⟩
  refine (RegFile.get_raise_other _ (f := PD_STAT_WAKE_FAIL k) (g := PD_STAT_STATE k) ⟨Nat.le_refl 8, show 8 < 64 by decide⟩
    (.inr (.inr (show 2 < 8 by decide))) hseq).trans ?_
  refine (Aggregator.adState_setAd a k (by split <;> decide)).trans ?_
  simp

theorem Aggregator.wakeFail_audit {a : Aggregator} {k t : Nat} (hkind : domKind k = .audit) (hat : tabGet a.pwr.wakeAt k = some t)
    (hwaking : a.adState k = adWaking) (hlate : t + 4 * domWake k (a.pwr.fromOff.contains k) ≤ a.mono) :
    a.wakeFail k = ((a.fellBack k).record rcWakeFail (leBytes 1 k)).report "WAKE-FAIL" [k] := by
  rw [Aggregator.wakeFail, hat]
  refine (if_neg ?_).trans ?_
  · rintro (hnot | hearly)
    · exact hnot hwaking
    · omega
  · dsimp only
    rw [hkind]
    rfl

/-- A domain AUDIT whose wake fails is in its low state again; writes that waited for it are dropped (R254, R468). -/
theorem Aggregator.wakeGivenUp_audit {a : Aggregator} {k t : Nat} (hk : k < 80) (hkind : domKind k = .audit)
    (hat : tabGet a.pwr.wakeAt k = some t) (hwaking : a.adState k = adWaking)
    (hlate : t + 4 * domWake k (a.pwr.fromOff.contains k) ≤ a.mono) :
    (a.wakeGivenUp k).word (addr_PD_STAT k) = (a.fellBack k).word (addr_PD_STAT k)
      ∧ (a.wakeGivenUp k).pwr = (a.fellBack k).pwr ∧ (a.wakeGivenUp k).bar.held = a.bar.held.filter fun h => h.1 ≠ k := by
  have hfail := Aggregator.wakeFail_audit hkind hat hwaking hlate
  obtain ⟨hrpwr, hrbar, hrword⟩ := (a.fellBack k).record_keeps rcWakeFail (leBytes 1 k)
  obtain ⟨hepwr, hebar, heword⟩ := ((a.fellBack k).record rcWakeFail (leBytes 1 k)).report_keeps "WAKE-FAIL" [k]
  have hword : (a.wakeFail k).word (addr_PD_STAT k) = (a.fellBack k).word (addr_PD_STAT k) := by
    rw [hfail, heword _ (by dsimp only [addr_PD_STAT]; omega), hrword _ (by dsimp only [addr_PD_STAT]; omega)]
  have hpwr : (a.wakeFail k).pwr = (a.fellBack k).pwr := by rw [hfail, hepwr, hrpwr]
  have hbar : (a.wakeFail k).bar = a.bar := by
    rw [hfail, hebar, hrbar]
    simp [Aggregator.fellBack]
  have hnew : (a.wakeFail k).adState k ≠ a.adState k := by
    rw [Aggregator.adState_congr hword, (a.fellBack_state hk).1, hwaking]
    split <;> decide
  unfold Aggregator.wakeGivenUp
  rw [if_neg hnew]
  refine ⟨?_, ?_, ?_⟩
  · refine (foldl_keeps (fun e : Aggregator => e.word (addr_PD_STAT k)) (fun b p => ?_) _ _).trans hword
    exact Aggregator.word_set_other _ (addr_PD_STAT_noHeader hk p (by decide)) _
  · exact (foldl_keeps (fun e : Aggregator => e.pwr) (fun b p => by simp) _ _).trans hpwr
  · refine (congrArg BarState.held (foldl_keeps (fun e : Aggregator => e.bar) (fun b p => by simp) _ _)).trans ?_
    exact congrArg (fun b : BarState => b.held.filter fun h => h.1 ≠ k) hbar

/-! ### Draining and mapping out (R255) -/

/-- PD_CTRL has PRIV bits alone. -/
theorem masksOf_PD_CTRL {k : Nat} (hk : k < 80) : masksOf .agg (addr_PD_CTRL k) = ⟨0xF, 0, 0⟩ := by
  have hpage : pageOf (addr_PD_CTRL k) = 0x10 := by
    rw [pageOf, if_neg (by dsimp only [addr_PD_CTRL]; unfold indBase; omega)]
    dsimp only [addr_PD_CTRL]
    omega
  have hrows : rowsAt .agg (pageOf (addr_PD_CTRL k)) = aggRows10 ++ headerRows .agg 0x10 := by
    rw [hpage]
    rfl
  rw [masksOf, rowOf, hrows]
  simp only [aggRows10, List.cons_append, List.findSome?_cons]
  iterate 4 rw [RegRow.index_outside (by decide) (by dsimp only [addr_PD_CTRL]; omega)]
  have hin := RegRow.index_inside (r := ⟨0x10400, 8, 80, 0xF, 0, 0, 0, 0⟩) (k := k) (by decide) hk
  rw [show addr_PD_CTRL k = 0x10400 + 8 * k from rfl, hin]
  rfl

theorem Aggregator.applyHeld_none {a : Aggregator} (hheld : a.bar.held = []) (k cyc : Nat) : a.applyHeld k cyc = a := by
  unfold Aggregator.applyHeld
  split
  · rfl
  · rw [hheld]
    show { a with bar := { a.bar with held := a.bar.held.filter _ } } = a
    rw [hheld, List.filter_nil, ← hheld]

/-- A privileged write of PD_CTRL merges its bits into the word that stands, and takes its effect (R455). -/
theorem Aggregator.writeKey_PD_CTRL (a : Aggregator) {k : Nat} (hk : k < 80) {off : Nat} (hoff : off ≠ 0x18) (w cyc : Nat) :
    a.writeKey (addr_PD_CTRL k) off (BitVec.ofNat 64 w) true cyc = a.writePd k (mergedWord (a.word (addr_PD_CTRL k)).toNat 0xF w) := by
  have heffect (m : Nat) : a.writeEffect (addr_PD_CTRL k) m cyc = a.writePd k m := by
    unfold Aggregator.writeEffect
    dsimp only [addr_PD_CTRL]
    rw [if_neg (by unfold indBase; omega), if_neg (by omega), if_neg (by dsimp only [addr_REC_CTRL]; omega),
      if_neg (by dsimp only [addr_REC_CURSOR]; omega), if_pos (by omega)]
    congr 1
    omega
  unfold Aggregator.writeKey
  simp [hoff, masksOf_PD_CTRL hk, heffect, mergedWord]

/-- The write over the port, while the domain of the page is on and holds no write. -/
theorem Aggregator.barWrite_PD_CTRL {a : Aggregator} (hon : a.adState 72 = adOn) (hheld : a.bar.held = []) {k : Nat} (hk : k < 80) (w cyc : Nat) :
    a.barWrite (addr_PD_CTRL k) w cyc = a.writePd k (mergedWord (a.word (addr_PD_CTRL k)).toNat 0xF w) := by
  have hpage : addr_PD_CTRL k / 4096 % 2048 = 0x10 := by dsimp only [addr_PD_CTRL]; omega
  have hpriv : addr_PD_CTRL k % 0x1000000 < 0x800000 := by dsimp only [addr_PD_CTRL]; omega
  have hreg : addr_PD_CTRL k % 4096 / 8 * 8 = 0x400 + 8 * k := by dsimp only [addr_PD_CTRL]; omega
  have hkey : 0x10 * 4096 + (0x400 + 8 * k) = addr_PD_CTRL k := by dsimp only [addr_PD_CTRL]; omega
  have hclear : 0x400 + 8 * k ≠ 0x18 := by omega
  have hindex : 0x400 + 8 * k ≠ 0x30 := by omega
  have hdata : 0x400 + 8 * k ≠ 0x38 := by omega
  have hdomain : aggPageDomain 0x10 = 72 := rfl
  have hexists : aggPageExists 0x10 = true := rfl
  unfold Aggregator.barWrite Aggregator.barAccess
  simp only [hpage, hpriv, hreg, hdomain, hexists, hon, Aggregator.applyHeld_none hheld, decide_true]
  unfold Aggregator.pageAccess
  rw [hkey, if_neg hdata]
  dsimp only
  rw [if_neg hindex, a.writeKey_PD_CTRL hk hclear]
  simp

/-- A write of a bit of PD_CTRL repeats the others. -/
theorem Aggregator.barSet_PD_CTRL {a : Aggregator} (hon : a.adState 72 = adOn) (hheld : a.bar.held = []) {k : Nat} (hk : k < 80) (i v cyc : Nat) :
    a.barSet ⟨addr_PD_CTRL k, i, i⟩ v cyc
      = a.writePd k (mergedWord (a.word (addr_PD_CTRL k)).toNat 0xF (setBits (a.word (addr_PD_CTRL k)).toNat i i v)) :=
  Aggregator.barWrite_PD_CTRL hon hheld hk _ _

/-- A bit after a write of it. -/
theorem bit_setBits_b2n (w i : Nat) (b : Bool) : bit (setBits w i i (b2n b)) i = b := by
  rw [bit, testBit_setBits _ _ _ _ _ (Nat.le_refl i), if_pos ⟨Nat.le_refl i, Nat.le_refl i⟩, Nat.sub_self]
  cases b <;> rfl

/-- A field of PD_CTRL that a write of its bit `i` does not name. -/
theorem bits_pdCtrl_other (old i v : Nat) {hi lo : Nat} (hhi : hi < 4) (ha : i < lo ∨ hi < i) :
    bits (mergedWord old 0xF (setBits old i i v)) hi lo = bits old hi lo := by
  refine (bits_mergedWord _ _ (by omega) fun j _ _ hj => ?_).trans (bits_setBits_other _ _ _ _ _ _ (Nat.le_refl i) ha)
  have hbits : ∀ j < 4, bit 0xF j = true := by decide
  exact hbits j (by omega)

theorem Aggregator.drainDone_not {a : Aggregator} {c : Nat}
    (h : 64 ≤ c ∨ a.on (PD_CTRL_DRAIN c) = false ∨ a.adState c ≠ adOn ∨ a.coreIdle c = false) : a.drainDone c = a := by
  have hsame : a.coreDrained c = a := by
    refine if_neg fun ⟨hc, hdrain, hon, hidle⟩ => ?_
    rcases h with hbig | hno | hstate | hbusy
    · omega
    · exact Bool.eq_false_iff.1 hno hdrain
    · exact hstate hon
    · exact Bool.eq_false_iff.1 hbusy hidle
  rw [Aggregator.drainDone, hsame]
  exact if_pos rfl

/-- A draining core whose work is complete is DRAINED, and what its drain was for follows (R255, R412). -/
theorem Aggregator.drainDone_done {a : Aggregator} {c : Nat} (hc : c < 64) (hdrain : a.on (PD_CTRL_DRAIN c) = true) (hon : a.adState c = adOn)
    (hidle : a.coreIdle c = true) (hmap : a.on (PD_CTRL_MAP_OUT c) = false) : a.drainDone c = (a.setAd c adDrained).afterDrained c := by
  have hctrl : (a.setAd c adDrained).on (PD_CTRL_MAP_OUT c) = a.on (PD_CTRL_MAP_OUT c) := by
    refine RegFile.on_congr (a.word_setAd_other ?_ ?_ adDrained) <;> dsimp only [addr_PD_CTRL, addr_PD_STAT, addr_PWR_EST] <;> omega
  have hstays : (a.setAd c adDrained).mapOut c = a.setAd c adDrained :=
    if_neg fun ⟨_, _, hasked⟩ => Bool.eq_false_iff.1 (hctrl.trans hmap) hasked
  have hdone : a.coreDrained c = a.setAd c adDrained := (if_pos ⟨hc, hdrain, hon, hidle⟩).trans hstays
  rw [Aggregator.drainDone, hdone]
  refine if_neg ?_
  rw [Aggregator.adState_setAd _ _ (by decide), hon]
  decide

/-! ### The statement -/

/-- Settles O47: each event by the lemma on its operation; the drain and the map-out by what the port makes of a write of PD_CTRL. -/
theorem aggregatorDomainsSleepWakeAndDrain : Obligations.AggregatorDomainsSleepWakeAndDrain := by
  unfold Obligations.AggregatorDomainsSleepWakeAndDrain
  intro s k c idle hold t final b
  refine ⟨?never, ?awake, ?begins, ?noEntry, ?ends, ?aborts, ?nothing, ?wakes, ?defers, ?notWaking, ?fromOff, ?fromRetain, ?noneDeferred, ?exceeds,
    ?starts, ?noWake, ?early, ?fails, ?drains, ?mapsOut, ?notDrained, ?drained⟩
  case never => exact fun hnone => congrArg (nextAgg s) (Aggregator.sleepDomain_never hnone idle final)
  case awake => exact fun hhold hstays => congrArg (nextAgg s) (Aggregator.sleepDomain_awake hhold hstays)
  case begins =>
    exact fun hhold hind hidle hon hquiet hforce => congrArg (nextAgg s) (Aggregator.sleepDomain_begins hhold hind hidle hon hquiet hforce)
  case noEntry => exact fun _ hhold hstate => congrArg (nextAgg s) (Aggregator.sleepDomain_noEntry hhold hstate idle)
  case ends =>
    intro hk hhold hstate
    have hsleeps := congrArg (nextAgg s) (Aggregator.sleepDomain_ends hhold hstate idle)
    obtain ⟨hmem, hdet, hstates⟩ := (s.agg.setAd k (s.agg.lowState k)).sleptPages_keep (pagesOfDomain k)
    refine ⟨_, hsleeps, hmem.trans (by simp), hdet.trans (by simp), (hstates k hk).trans ?_, fun n hn hne => ?_⟩
    · exact Aggregator.adState_setAd _ _ (by rcases s.agg.lowState_cases k with h | h <;> rw [h] <;> decide)
    · exact (hstates n hn).trans (Aggregator.adState_setAd_other _ hne _)
  case aborts => exact fun hstate => congrArg (nextAgg s) (if_pos hstate)
  case nothing =>
    exact fun hstate hoff hretain hparent =>
      congrArg (nextAgg s) ((Aggregator.wakeDomain_alone hparent hstate).trans (Aggregator.wakeOne_awake hoff hretain))
  case wakes =>
    intro _ hparent hlow hshed hfits
    have hstate : s.agg.adState k ≠ adEntering := by rcases hlow with h | h <;> rw [h] <;> decide
    exact congrArg (nextAgg s) ((Aggregator.wakeDomain_alone hparent hstate).trans (Aggregator.wakeOne_begins hlow hshed hfits))
  case defers =>
    intro _ hparent hretain hshed hover
    have hstate : s.agg.adState k ≠ adEntering := by rw [hretain]; decide
    exact ⟨_, congrArg (nextAgg s) (Aggregator.wakeDomain_alone hparent hstate), Aggregator.wakeOne_defers (.inr hretain) hshed hover⟩
  case notWaking => exact fun hstate => congrArg (nextAgg s) (if_pos hstate)
  case fromOff =>
    intro hc hwaking hoff hheld
    obtain ⟨-, hlost, -⟩ := Aggregator.domainUsable_core hc hwaking hheld
    obtain ⟨hmem, hdet⟩ := hlost hoff
    refine ⟨_, rfl, Aggregator.domainUsable_on hc hwaking hheld, hmem, ?_, fun n hn => ?_⟩
    · simp [Aggregator.core, hdet, tabGet_put]
    · simp [Aggregator.core, hdet, tabGet_put, hn]
  case fromRetain =>
    intro hc hwaking hretain hheld
    obtain ⟨-, -, hkept⟩ := Aggregator.domainUsable_core hc hwaking hheld
    exact ⟨_, rfl, Aggregator.domainUsable_on hc hwaking hheld, hkept hretain⟩
  case noneDeferred => exact fun hnone => congrArg (nextAgg s) (Aggregator.deferredStart_none hnone)
  case exceeds =>
    exact fun hnext hover => congrArg (nextAgg s) ((Aggregator.deferredStart_some hnext).trans (if_neg (Nat.not_le.2 hover)))
  case starts => exact fun hnext hfits => congrArg (nextAgg s) ((Aggregator.deferredStart_some hnext).trans (if_pos hfits))
  case noWake => exact fun hnone => congrArg (nextAgg s) (Aggregator.wakeGivenUp_not (Aggregator.wakeFail_none hnone))
  case early => exact fun hat hearly => congrArg (nextAgg s) (Aggregator.wakeGivenUp_not (Aggregator.wakeFail_early hat hearly))
  case fails =>
    intro hk hkind hat hwaking hlate
    obtain ⟨hword, hpwr, hheld⟩ := Aggregator.wakeGivenUp_audit hk hkind hat hwaking hlate
    obtain ⟨hstate, hfail⟩ := s.agg.fellBack_state hk
    refine ⟨_, rfl, (Aggregator.adState_congr hword).trans hstate, (RegFile.on_congr (f := PD_STAT_WAKE_FAIL k) hword).trans hfail, ?_, hheld⟩
    rw [hpwr]
    simp [Aggregator.fellBack, tabGet_del]
  case drains =>
    intro hc hon hheld
    have hwrites := Aggregator.barSet_PD_CTRL hon hheld (k := c) (by omega) 3 (b2n b) 0
    refine ⟨_, congrArg (nextAgg s) hwrites, ?_, bits_pdCtrl_other _ _ _ (by decide) (by decide)⟩
    exact (bit_mergedWord _ _ (by decide) (by decide)).trans (bit_setBits_b2n _ _ _)
  case mapsOut =>
    intro hc hon hheld
    have hwrites := Aggregator.barSet_PD_CTRL hon hheld (k := c) (by omega) 2 (b2n b) 0
    refine ⟨_, congrArg (nextAgg s) hwrites, ?_, ?_, bits_pdCtrl_other _ _ _ (by decide) (by decide)⟩
    · exact (bit_mergedWord _ _ (by decide) (by decide)).trans (bit_setBits_b2n _ _ _)
    · refine (bit_mergedWord _ _ (by decide) (by decide)).trans ?_
      rw [bit, testBit_setBits _ _ _ _ _ (by decide), if_neg (by decide), bit]
  case notDrained => exact fun hnot => congrArg (nextAgg s) (Aggregator.drainDone_not hnot)
  case drained =>
    exact fun hc hdrain hon hidle hmap => congrArg (nextAgg s) (Aggregator.drainDone_done hc hdrain hon hidle hmap)

end Sys2Proof.Machine
end AggregatorDomains

section ControlFrames
/-!
PROOFS. Control frames at the die unit (R20, R25, R261 to R264): one that is next in its sequence and that nothing waits before.
-/
namespace Sys2Proof.Machine

/-! ### What a frame finds (R25, R79) -/

/-- The die unit once the sender of a control frame has been heard: home's timer restarts, or has run out (R25). -/
def DieUnit.hearing (d : DieUnit) (h : CtlHead) : DieUnit := if d.ctlFrom h = .home then d.heardHome else d

@[simp] theorem DieUnit.newNonce_held (d : DieUnit) : d.newNonce.ctl.held = d.ctl.held := by simp [DieUnit.newNonce, DieUnit.draw]

@[simp] theorem DieUnit.failover_held (d : DieUnit) : d.failover.ctl.held = d.ctl.held := by
  unfold DieUnit.failover
  split
  · rfl
  · simp [DieUnit.sendShort, DieUnit.modFb]

@[simp] theorem DieUnit.heardHome_held (d : DieUnit) : d.heardHome.ctl.held = d.ctl.held := by
  have timer : d.failoverTimer.ctl.held = d.ctl.held := by
    unfold DieUnit.failoverTimer
    split <;> simp
  unfold DieUnit.heardHome
  dsimp only
  split <;> simp [timer]

/-- Hearing a sender takes no frame from the receive buffer. -/
theorem DieUnit.hearing_held (d : DieUnit) (h : CtlHead) : (d.hearing h).ctl.held = d.ctl.held := by
  unfold DieUnit.hearing
  split <;> simp

/-- A frame that fits alone in the receive buffer (R79, R261). -/
theorem HeldCtl.bytes_le_of_plen {x : HeldCtl} (h : x.op.plen ≤ 1032) : x.bytes ≤ rxBufferBytes := by
  unfold HeldCtl.bytes rxBufferBytes
  omega

/-! ### A frame that comes while none waits (R264) -/

section Alone
variable {d : DieUnit} {h : CtlHead} {op : CtlOp} (hheld : (d.hearing h).ctl.held = []) (hfits : op.plen ≤ 1032)
include hheld hfits

/-- It is taken at once. -/
theorem DieUnit.control_alone : d.control h op = (d.hearing h).runQueue [⟨h, op⟩] := by
  have hnone : d.ctl.held = [] := (d.hearing_held h).symm.trans hheld
  have hroom : ¬ rxBufferBytes < (d.ctl.held.map HeldCtl.bytes).sum + (HeldCtl.mk h op).bytes := by
    have := HeldCtl.bytes_le_of_plen (x := ⟨h, op⟩) hfits
    rw [hnone, List.map_nil, List.sum_nil]
    omega
  unfold DieUnit.control
  rw [if_neg hroom]
  exact (if_pos hheld).trans (congrArg (fun l => (d.hearing h).runQueue (l ++ [⟨h, op⟩])) hheld)

/-- No frame waits after one that has run. -/
theorem DieUnit.control_runs {e : DieUnit} (hrun : (d.hearing h).runCtl ⟨h, op⟩ = some e) :
    d.control h op = e.modCtl fun c => { c with held := [] } := by
  rw [DieUnit.control_alone hheld hfits, DieUnit.runQueue, hrun]
  rfl

/-- One of a stranger is counted and does nothing else (R20). -/
theorem DieUnit.control_stranger (hfrom : (d.hearing h).ctlFrom h = .stranger) :
    d.control h op = ((d.hearing h).inc DU_RXCNT_CTL_REJECT_N).modCtl fun c => { c with held := [] } :=
  DieUnit.control_runs hheld hfits (by rw [DieUnit.runCtl]; simp only [hfrom])

/-- One of an aggregator that is obeyed, next in its sequence, is acknowledged with what its operation answers (R262, R264). -/
theorem DieUnit.control_next (hfrom : (d.hearing h).ctlFrom h ≠ .stranger)
    (hnext : (h.cseq + 2 ^ 32 - ((d.hearing h).seqOf (decide ((d.hearing h).ctlFrom h = .partner))).last) % 2 ^ 32 = 1)
    {status : Nat} {vs : List W64} {e : DieUnit} (hact : op.act (d.hearing h) = some (status, vs, e)) :
    d.control h op = (e.ackFrame (decide ((d.hearing h).ctlFrom h = .partner)) (h.cseq % 2 ^ 32)
      (ackBody op.code status (h.cseq % 2 ^ 32) vs)).modCtl fun c => { c with held := [] } := by
  refine DieUnit.control_runs hheld hfits ?_
  rw [DieUnit.runCtl]
  dsimp only
  split
  · next hs => exact absurd hs hfrom
  · rw [if_pos hnext, hact]
    rfl

end Alone

/-! ### The operations that access registers (R263) -/

theorem CtlOp.act_regs_forbidden {write : Bool} {ops : List RegOp} (hbad : regOpsOk write ops = false) (d : DieUnit) :
    (CtlOp.regs write ops).act d = some (ackForbidden, [], d) := by
  simp [CtlOp.act, hbad]

theorem CtlOp.act_regs_awake {d : DieUnit} {write : Bool} {ops : List RegOp} (hok : regOpsOk write ops = true)
    (hawake : d.sleepingFor ops = []) : (CtlOp.regs write ops).act d = some (ackOk, d.runRegOps write ops) := by
  simp [CtlOp.act, hok, hawake]

/-! ### The statement -/

/-- Settles O17: each frame by its own operation, acknowledged as the next of its sequence. -/
theorem controlFramesAreExecutedAndAcknowledged : Obligations.ControlFramesAreExecutedAndAcknowledged := by
  unfold Obligations.ControlFramesAreExecutedAndAcknowledged
  intro s h job gen id tp waitUs tensor step op frozen atEnd ents key ops addrs d fromPartner cseq done hheld hents hops haddrs
  refine ⟨fun hfrom hnext => ?_, fun hfrom => congrArg (nextDu s) (DieUnit.control_stranger hheld (by simp [CtlOp.plen]) hfrom)⟩
  have acked : ∀ {i : Instr} (o : CtlOp) {status : Nat} {vs : List W64} {e : DieUnit}, exec i s = s.onDu (·.control h o) → o.plen ≤ 1032 →
      o.act d = some (status, vs, e) → exec i s = done o.code status vs e := fun o _ _ _ harm hfits hact =>
    harm.trans (congrArg (nextDu s) (DieUnit.control_next hheld hfits hfrom hnext hact))
  have hwrite : (CtlOp.regs true ops).plen ≤ 1032 := by
    simp only [CtlOp.plen, if_true]
    omega
  have hread : (CtlOp.regs false (addrs.map fun x => ⟨x, 0⟩)).plen ≤ 1032 := by
    simp only [CtlOp.plen, Bool.false_eq_true, if_false, List.length_map]
    omega
  refine ⟨?arm, ?retire, ?pealArm, acked .freezeRelease rfl (by simp [CtlOp.plen]) rfl,
    acked (.fpMap ents) rfl (by simp only [CtlOp.plen]; omega) rfl, acked (.selKey key) rfl (by simp [CtlOp.plen]) rfl,
    fun harmed => acked (.dumpArm tensor atEnd step) rfl (by simp [CtlOp.plen]) ?dumpArm,
    acked .ringTrigger rfl (by simp [CtlOp.plen]) rfl,
    fun hserving => acked (.readmit step) rfl (by simp [CtlOp.plen]) (by simp [CtlOp.act, DieUnit.ctlReadmit, hserving]),
    fun hserving => acked (.readmit step) rfl (by simp [CtlOp.plen]) (by simp [CtlOp.act, DieUnit.ctlReadmit, hserving]),
    fun hok hawake => acked (.regs true ops) rfl hwrite (CtlOp.act_regs_awake hok hawake),
    fun hbad => acked (.regs true ops) rfl hwrite (CtlOp.act_regs_forbidden hbad d),
    fun hok hawake => acked (.regs false _) rfl hread (CtlOp.act_regs_awake hok hawake),
    acked (.bad op) rfl (by simp [CtlOp.plen]) rfl⟩
  case arm =>
    have hact : CtlOp.act (.arm job gen) d = some ((d.ctlArm job gen).1, [], (d.ctlArm job gen).2) := rfl
    rw [acked (.arm job gen) rfl (by simp [CtlOp.plen]) hact, DieUnit.ctlArm]
    split
    · rfl
    · split <;> rfl
  case retire =>
    have hact : CtlOp.act .retire d = some (d.ctlRetire.1, [], d.ctlRetire.2) := rfl
    rw [acked .retire rfl (by simp [CtlOp.plen]) hact, DieUnit.ctlRetire]
    split <;> rfl
  case pealArm =>
    let p : ArmedPeal := ⟨id, tp, frozen, waitUs, none, false⟩
    have hact : CtlOp.act (.pealArm p) d = some ((d.armPeal p).1, [], (d.armPeal p).2) := rfl
    rw [acked (.pealArm p) rfl (by simp [CtlOp.plen]) hact, DieUnit.armPeal]
    split
    · rfl
    · split <;> rfl
  case dumpArm => simp [CtlOp.act, DieUnit.ctlDumpArm, harmed]

end Sys2Proof.Machine
end ControlFrames

section ControlPaths
/-!
PROOFS. Control paths of the aggregator (R261, R265): what follows an event leaves them where no job context stands, and SRC of an
acknowledgement (Table 7-1). The state that refutes O37 follows.
-/
namespace Sys2Proof.Machine

/-! ### What leaves the ingest side as it stands: events, the mirror, the ledger -/

@[simp] theorem Aggregator.event_ing (a : Aggregator) (e : MgmtEvent) : (a.event e).ing = a.ing := by
  unfold Aggregator.event
  split <;> simp

@[simp] theorem Aggregator.report_ing (a : Aggregator) (name : String) (args : List Nat) : (a.report name args).ing = a.ing := a.event_ing _

@[simp] theorem Aggregator.sendCapsule_ing (a : Aggregator) (kind tag off flags : Nat) (l : List Byte) :
    (a.sendCapsule kind tag off flags l).ing = a.ing := rfl

@[simp] theorem Aggregator.pumpEvents_ing (a : Aggregator) : a.pumpEvents.ing = a.ing := by
  unfold Aggregator.pumpEvents
  split
  · rfl
  · rw [foldl_keeps Aggregator.ing fun b e => b.sendCapsule_ing _ _ _ _ _]
    simp

@[simp] theorem Aggregator.mirrorSend_ing (a : Aggregator) (kind : Nat) (l : List Byte) : (a.mirrorSend kind l).ing = a.ing := by
  unfold Aggregator.mirrorSend
  dsimp only
  split
  · rfl
  · split <;> simp [Aggregator.mirrorFrame, Aggregator.modMir]

@[simp] theorem Aggregator.freeStep_ing (a : Aggregator) (job gen home step : Nat) : (a.freeStep job gen home step).ing = a.ing := by
  unfold Aggregator.freeStep
  dsimp only
  split
  · rfl
  · split
    · rfl
    · split
      · rfl
      · split <;> simp [Aggregator.showOcc, Aggregator.modLedger]

@[simp] theorem Aggregator.dropLedger_ing (a : Aggregator) (job gen home : Nat) : (a.dropLedger job gen home).ing = a.ing := by
  unfold Aggregator.dropLedger
  split <;> simp [Aggregator.showOcc]

@[simp] theorem Aggregator.settleFrees_ing (a : Aggregator) : a.settleFrees.ing = a.ing :=
  foldl_keeps Aggregator.ing (fun b l => foldl_keeps Aggregator.ing (fun _ _ => by simp) _ b) _ a

/-! ### The end of a boot (R411, R478) -/

@[simp] theorem Aggregator.unitNotice_ing (a : Aggregator) (kind u cause count : Nat) (mandatory : Bool) :
    (a.unitNotice kind u cause count mandatory).ing = a.ing := by
  unfold Aggregator.unitNotice Aggregator.notice
  dsimp only
  split
  · rfl
  · split <;> simp

@[simp] theorem Aggregator.setFru_ing (a : Aggregator) (u st cause : Nat) : (a.setFru u st cause).ing = a.ing := by
  refine foldl_keeps Aggregator.ing (fun b x => ?_) _ a
  unfold Aggregator.setState
  dsimp only
  split <;> simp

@[simp] theorem Aggregator.knellRequest_ing (a : Aggregator) (u cause : Nat) (mandatory : Bool) :
    (a.knellRequest u cause mandatory).ing = a.ing := by
  unfold Aggregator.knellRequest
  dsimp only
  split <;> simp [Aggregator.unpend, Aggregator.showPending]

@[simp] theorem Aggregator.knell_mandatory_ing (a : Aggregator) (u cause : Nat) : (a.knell u cause true).ing = a.ing := by
  unfold Aggregator.knell
  dsimp only
  split
  · rfl
  · simp

@[simp] theorem Aggregator.bootReady_ing (a : Aggregator) (chip : Bool) : (a.bootReady chip).ing = a.ing := by
  unfold Aggregator.bootReady
  extract_lets recorded a0 a1 cause n a2 a3 a4
  have ready : a0.ing = a.ing := by simp [a0, recorded, Aggregator.bootStage, Aggregator.bootRecord, Aggregator.record]
  have reported : a1.ing = a.ing := by
    simp only [a1]
    split <;> simp [ready, Aggregator.reportUnprotected]
  have noticed : a3.ing = a.ing := by
    simp only [a3]
    split <;> simp [a2, reported]
  split
  · exact reported
  · split <;> simp [a4, noticed]

@[simp] theorem Aggregator.settleBoot_ing (a : Aggregator) : a.settleBoot.ing = a.ing := by
  unfold Aggregator.settleBoot
  split
  · split <;> simp
  · rfl

/-! ### What follows an event where no job context stands -/

section NoJobs
variable {a : Aggregator} (hnone : a.jobs = [])
include hnone

/-- No command waits for a broadcast of a job. -/
theorem Aggregator.settleRoll_noJobs (c : Command) : a.settleRoll c = a := by
  unfold Aggregator.settleRoll
  split
  · simp [Aggregator.job, hnone, tabGet]
  · rfl

theorem Aggregator.settle_noJobs : a.settle = a.pumpEvents := by
  have rolls (cs : List Command) : cs.foldl (fun a c => a.settleRoll c) a = a := by
    induction cs with
    | nil => rfl
    | cons c cs ih => rw [List.foldl_cons, Aggregator.settleRoll_noJobs hnone, ih]
  unfold Aggregator.settle
  rw [hnone, List.foldl_nil]
  dsimp only
  rw [rolls]

/-- The control paths stand, outside failover. -/
theorem Aggregator.after_noJobs_path {old : Aggregator} (hfail : old.inFailover = false) (k : Nat) :
    (Aggregator.after old a).path k = a.path k := by
  have stands : (Aggregator.after old a).ing = a.ing := by
    unfold Aggregator.after Aggregator.signalIrq
    simp only [hfail, Bool.false_eq_true, false_and, if_false, Aggregator.settle_noJobs hnone]
    split <;> simp
  rw [Aggregator.path, stands, Aggregator.path]

end NoJobs

/-! ### A die unit of a partner beyond bit 19 of SRC -/

/-- A REG-WRITE of number 1 that awaits its acknowledgement. -/
def sentWrite : CtlOutFrame := ⟨1, opRegWrite, 0, [], 1, 0, none⟩

/-- Aggregator 1 serves its own die unit 0. Its configuration names 4097 as its partner, beyond the 12 bits of an aggregator ID, which nothing
in the statement or in `Aggregator.applyConfig` rules out; a frame is out on the path of that one's die unit 0. -/
def farPartner : Aggregator :=
  let booted : Aggregator :=
    { Aggregator.blank with boot := .ready, cfg := { FlashConfig.empty with aggId := 1, partner := 4097 } }
  ((((booted.set CHIP_IDENT_AGG_ID 1).set ING_CTRL_EN 1).set (REG_ENT_VALID 0) 1).set (REG_ENT_STATE 0) 1).setPath 256
    { CtlPath.init with out := [sentWrite] }

/-- That aggregator beside a die unit after reset. -/
def farPartnerState : State := { State.reset with agg := farPartner }

/-- A CONTROL-ACK for number 1. SRC is 4097 × 256, which as a DUID is 256, the die unit 0 of aggregator 1 (Table 7-1, R6). -/
def ackBeyond : List Byte := frameHeader ftControlAck 0 0 (4097 * 256) 0 0 0 0 (zeros 10) ++ ackBody opRegWrite ackOk 1 []

theorem farPartner_takes_ackBeyond : farPartner.served = true ∧ farPartner.on ING_CTRL_EN = true
    ∧ farPartner.frameCheck laneIngest ackBeyond = (true, farPartner) ∧ be ackBeyond 1 1 = ftControlAck
    ∧ farPartner.inFailover = false := by
  decide +kernel

/-- The whole SRC would name the partner's die unit, the DUID in it names the own one. -/
theorem farPartner_entries : farPartner.regKey (be ackBeyond 4 4) = some 256
    ∧ farPartner.regKey (duidOfSrc (be ackBeyond 4 4)) = some 0 ∧ (farPartner.path 0).out = [] := by
  decide +kernel

/-- The frame on the path of the partner's die unit has the number of the acknowledgement. -/
theorem farPartner_awaits : (farPartner.path 256).waiting = [] ∧ (farPartner.path 256).out = [sentWrite]
    ∧ (farPartner.path 256).out.find? (fun x => x.cseq = be (ackBeyond.drop 32) 4 4) = some sentWrite
    ∧ (farPartner.path 256).out.filter (fun x => x.cseq ≠ be (ackBeyond.drop 32) 4 4) = [] := by
  decide +kernel

/-- The model's next state: no frame of that number is out on the path of the own die unit. -/
theorem exec_controlAckRx_farPartner : exec (.controlAckRx ackBeyond) farPartnerState = nextAgg farPartnerState farPartner := by
  obtain ⟨hserved, hen, hcheck, htype, -⟩ := farPartner_takes_ackBeyond
  obtain ⟨-, hkey, hout⟩ := farPartner_entries
  have harm : exec (.controlAckRx ackBeyond) farPartnerState = farPartnerState.onUp (·.controlAckRx ackBeyond) := rfl
  have hnothing : farPartner.controlAckRx ackBeyond = farPartner := by
    simp [Aggregator.controlAckRx, hen, hcheck, htype, hkey, Aggregator.ackCtl, hout]
  rw [harm, State.onUp_served _ _ hserved]
  exact congrArg (nextAgg farPartnerState) hnothing

/-- Refutes O37 by its clause on CONTROL_ACK_RX, which takes the whole SRC of the frame for the DUID. Bits 30 to 20 of SRC are reserved and
ignored (Table 7-1, R6): at `farPartner` the clause removes a frame from the path of the partner's die unit, where the acknowledgement is
one of the own die unit. -/
theorem not_controlPathsOfTheAggregator : ¬ Obligations.ControlPathsOfTheAggregator := by
  unfold Obligations.ControlPathsOfTheAggregator
  intro h
  obtain ⟨-, -, -, -, -, -, -, -, -, hack, -⟩ :=
    h farPartnerState 256 0 0 0 ackBeyond sentWrite ⟨0, 0, 0, 0⟩ rfl
  obtain ⟨-, hen, hcheck, htype, hfail⟩ := farPartner_takes_ackBeyond
  obtain ⟨hkey, -⟩ := farPartner_entries
  obtain ⟨hwaiting, hout, hfound, hfilter⟩ := farPartner_awaits
  obtain ⟨e, hexec, hgone, -, -, -, hjobs⟩ := hack hen hcheck htype hkey hwaiting hfound rfl
  have same := after_eq_of_nextAgg_eq (exec_controlAckRx_farPartner.symm.trans hexec)
  have paths : (farPartner.path 256).out = (e.path 256).out := by
    rw [← Aggregator.after_noJobs_path (a := farPartner) rfl hfail, ← Aggregator.after_noJobs_path (a := e) hjobs hfail]
    exact congrArg (fun a => (a.path 256).out) same
  exact List.cons_ne_nil sentWrite [] (hout.symm.trans (paths.trans (hgone.trans hfilter)))

end Sys2Proof.Machine
end ControlPaths

section EpochsAndTrees
/-!
PROOFS. Epochs and the job tree at the aggregator (R271, R273, R281 to R284): peals that are armed, closes at their deadlines, contributions
from the children and to the parent, heartbeats, and a new parent.
-/
namespace Sys2Proof.Machine

/-! ### Events of a lane that is served -/

/-- An event of a lane, a link or a queue that is served is its operation of the aggregator. -/
theorem exec_up {s : State} {i : Instr} {f : Aggregator → Aggregator} {b : Aggregator} (hs : s.agg.served = true) (harm : exec i s = s.onUp f)
    (hop : f s.agg = b) : exec i s = nextAgg s b := by
  rw [harm, State.onUp_served s f hs, hop]
  rfl

/-! ### Job contexts -/

theorem tabMod_absent {α : Type} {m : Store α} {k : Nat} (hnone : tabGet m k = none) (f : α → α) : tabMod m k f = m := by
  induction m with
  | nil => rfl
  | cons e m ih =>
    rw [tabGet] at hnone
    split at hnone
    · cases hnone
    · next hk =>
      rw [tabMod, List.map_cons, if_neg hk]
      exact congrArg (e :: ·) (ih hnone)

theorem Aggregator.modJob_absent {a : Aggregator} {ctx : Nat} (hnone : a.job ctx = none) (f : JobCtx → JobCtx) : a.modJob ctx f = a := by
  unfold Aggregator.modJob
  rw [tabMod_absent hnone]

/-- A job context after it is changed. -/
theorem Aggregator.job_modJob {a : Aggregator} {ctx : Nat} {j : JobCtx} (hj : a.job ctx = some j) (f : JobCtx → JobCtx) :
    (a.modJob ctx f).job ctx = some (f j) := by
  unfold Aggregator.job at hj ⊢
  rw [Aggregator.modJob, tabGet_mod, if_pos rfl, hj]
  rfl

/-- A job context is what the table of them holds. -/
theorem Aggregator.job_congr {a b : Aggregator} (h : a.jobs = b.jobs) (ctx : Nat) : a.job ctx = b.job ctx := by
  rw [Aggregator.job, h, Aggregator.job]

/-! ### What a frame leaves (R261, R281) -/

@[simp] theorem Aggregator.treeFrame_jobs (a : Aggregator) (ctx ftype dst : Nat) (body : List Byte) :
    (a.treeFrame ctx ftype dst body).jobs = a.jobs := by
  unfold Aggregator.treeFrame
  split
  · rfl
  · simp [Aggregator.nextFseq]

@[simp] theorem Aggregator.treeFrame_mem (a : Aggregator) (ctx ftype dst : Nat) (body : List Byte) :
    (a.treeFrame ctx ftype dst body).mem = a.mem := by
  unfold Aggregator.treeFrame
  split
  · rfl
  · simp [Aggregator.nextFseq]

theorem Aggregator.pumpCtl_keeps (a : Aggregator) (k n : Nat) : (a.pumpCtl k n).jobs = a.jobs ∧ (a.pumpCtl k n).mem = a.mem := by
  induction n generalizing a with
  | zero => exact ⟨rfl, rfl⟩
  | succ n ih =>
    unfold Aggregator.pumpCtl
    dsimp only
    split
    · exact ⟨rfl, rfl⟩
    · split
      · exact ⟨rfl, rfl⟩
      · simp [ih, Aggregator.sendCtl, Aggregator.setPath]

@[simp] theorem Aggregator.control_jobs (a : Aggregator) (k op : Nat) (l : List Byte) (gtag : Nat) (cmd : Option Nat) :
    (a.control k op l gtag cmd).jobs = a.jobs := (Aggregator.pumpCtl_keeps _ k _).1

@[simp] theorem Aggregator.control_mem (a : Aggregator) (k op : Nat) (l : List Byte) (gtag : Nat) (cmd : Option Nat) :
    (a.control k op l gtag cmd).mem = a.mem := (Aggregator.pumpCtl_keeps _ k _).2

/-! ### The epochs of a job (R271) -/

theorem JobCtx.openEpoch_epoch {j : JobCtx} {tp : Nat} (hopen : j.epoch tp = none) (hclosed : j.wasClosed tp = false) (pealId : Nat) :
    (j.openEpoch tp pealId).epoch tp = some (Epoch.new tp pealId) := by
  unfold JobCtx.epoch at hopen
  simp [JobCtx.openEpoch, JobCtx.epoch, hopen, hclosed, List.find?_append, Epoch.new]

/-- An epoch after a change that keeps its T_p. -/
theorem JobCtx.epoch_modEpoch (j : JobCtx) (tp : Nat) {f : Epoch → Epoch} (hf : ∀ e, (f e).tp = e.tp) :
    (j.modEpoch tp f).epoch tp = (j.epoch tp).map f := by
  have same : ((fun e : Epoch => decide (e.tp = tp)) ∘ fun e => if e.tp = tp then f e else e) = fun e => decide (e.tp = tp) := by
    funext e
    simp only [Function.comp_apply]
    split <;> simp [hf]
  unfold JobCtx.epoch JobCtx.modEpoch
  rw [List.find?_map, same]
  cases he : j.epochs.find? fun e => decide (e.tp = tp) with
  | none => rfl
  | some e =>
    have htp : e.tp = tp := by simpa using List.find?_some he
    simp [htp]

/-! ### A peal is armed (R271) -/

/-- What a die unit to which no PEAL-ARM goes is missing with: it failed to arm, is not served, or the peal is refused or too near (log 135). -/
def Aggregator.unarmed (a : Aggregator) (j : JobCtx) (p : SchedPeal) (tp d : Nat) : Option DieSt :=
  if j.failed.contains d then some (.missing 1)
  else if ¬ a.serves d then some (.missing 3)
  else if p.refused ∨ tp < a.tc.now + pealAheadU then some (.missing 1)
  else none

/-- The table of states with one more for each die unit to which a function gives one. -/
def putStates (g : Nat → Option DieSt) (l : List Nat) (m : Store DieSt) : Store DieSt :=
  l.foldl (fun m d => match g d with | some s => tabPut m d s | none => m) m

theorem tabGet_putStates {g : Nat → Option DieSt} {d : Nat} {s : DieSt} (hg : g d = some s) (l : List Nat) (m : Store DieSt)
    (h : d ∈ l ∨ tabGet m d = some s) : tabGet (putStates g l m) d = some s := by
  induction l generalizing m with
  | nil => exact h.resolve_left List.not_mem_nil
  | cons x xs ih =>
    refine ih _ ?_
    by_cases hx : x = d
    · subst hx
      simp [hg, tabGet_put]
    · refine h.imp (fun hmem => (List.mem_cons.1 hmem).resolve_left (Ne.symm hx)) fun hm => ?_
      dsimp only
      split
      · rw [tabGet_put, if_neg (Ne.symm hx), hm]
      · exact hm

/-- An epoch whose peal is armed: the die units expected in it, with those that are missing from the start. -/
def Aggregator.armedEpoch (a : Aggregator) (j : JobCtx) (p : SchedPeal) (tp : Nat) (e : Epoch) : Epoch :=
  { e with armed := true, pealId := p.pealId, expected := j.expectedAt tp, states := putStates (a.unarmed j p tp) (j.expectedAt tp) [] }

/-- A job context whose peal of a T_p is sent. -/
def JobCtx.sentPeal (j : JobCtx) (tp : Nat) : JobCtx :=
  { j with peals := j.peals.map fun q => if q.tp = tp then { q with sent := true } else q }

/-- The same with the epoch of the peal open. -/
def Aggregator.openedJob (a : Aggregator) (j : JobCtx) (p : SchedPeal) (tp : Nat) (x : JobCtx) : JobCtx :=
  ((x.sentPeal tp).openEpoch tp p.pealId).modEpoch tp (a.armedEpoch j p tp)

/-- The aggregator once that epoch is open and PEAL-ARM has gone to the die units expected. -/
def Aggregator.pealSent (a : Aggregator) (ctx : Nat) (j : JobCtx) (p : SchedPeal) (tp : Nat) : Aggregator :=
  (j.expectedAt tp).foldl (fun (a1 : Aggregator) d =>
    match a.unarmed j p tp d, a1.regKey d with
    | none, some k => a1.control k 0x03 (pealArmPayload p j.epochWait)
    | _, _ => a1) (a.modJob ctx (a.openedJob j p tp))

section PealDue
variable {a : Aggregator} {ctx tp : Nat} {j : JobCtx} {p : SchedPeal}

theorem Aggregator.pealArmSend_due (hctx : ctx < 1024) (hj : a.job ctx = some j) (harmed : j.state = .armed)
    (hp : j.peals.find? (fun q => decide (q.tp = tp) && !q.sent) = some p) (hgood : p.refused = false) (hroom : a.armedAhead j < 8) :
    a.pealArmSend ctx tp = if a.paused then a.pealSent ctx j p tp else (a.pealSent ctx j p tp).settleEpoch ctx tp := by
  unfold Aggregator.pealArmSend
  rw [hj]
  dsimp only
  rw [hp]
  dsimp only
  rw [if_neg (by simp [harmed, hgood, Nat.not_le.2 hctx, Nat.not_le.2 hroom])]
  rfl

theorem Aggregator.pealSent_keeps : (a.pealSent ctx j p tp).jobs = (a.modJob ctx (a.openedJob j p tp)).jobs
    ∧ (a.pealSent ctx j p tp).mem = a.mem := by
  unfold Aggregator.pealSent
  constructor
  · refine foldl_keeps Aggregator.jobs (fun b d => ?_) _ _
    split <;> simp
  · refine (foldl_keeps Aggregator.mem (fun b d => ?_) _ _).trans (by simp)
    split <;> simp

/-- Less than 200 µs before T_p every die unit is missing (log 135). -/
theorem Aggregator.unarmed_late (hlate : tp < a.tc.now + pealAheadU) (d : Nat) :
    ∃ r, (r = 1 ∨ r = 3) ∧ a.unarmed j p tp d = some (.missing r) := by
  unfold Aggregator.unarmed
  split
  · exact ⟨1, .inl rfl, rfl⟩
  · split
    · exact ⟨3, .inr rfl, rfl⟩
    · rw [if_pos (.inr hlate)]
      exact ⟨1, .inl rfl, rfl⟩

/-- The epoch of a peal that is armed: open, for the die units expected, of which some may be missing already. -/
theorem Aggregator.openedJob_epoch (hopen : j.epoch tp = none) (hclosed : j.wasClosed tp = false) :
    (a.openedJob j p tp j).epoch tp = some (a.armedEpoch j p tp (Epoch.new tp p.pealId)) := by
  have hnew : ((j.sentPeal tp).openEpoch tp p.pealId).epoch tp = some (Epoch.new tp p.pealId) :=
    JobCtx.openEpoch_epoch (j := j.sentPeal tp) hopen hclosed _
  rw [Aggregator.openedJob, JobCtx.epoch_modEpoch _ _ (f := a.armedEpoch j p tp) fun _ => rfl, hnew]
  rfl

theorem Aggregator.openedJob_state : (a.openedJob j p tp j).state = j.state := by
  unfold Aggregator.openedJob JobCtx.openEpoch
  split <;> rfl

/-- What stands once a peal is armed, before any close: its epoch, without a state of a die unit where none failed (R271). -/
theorem Aggregator.pealSent_epoch (hj : a.job ctx = some j) (hopen : j.epoch tp = none) (hclosed : j.wasClosed tp = false) :
    ∃ y, (a.pealSent ctx j p tp).job ctx = some y ∧ y.epoch tp = some (a.armedEpoch j p tp (Epoch.new tp p.pealId)) ∧ y.state = j.state :=
  ⟨_, (Aggregator.job_congr Aggregator.pealSent_keeps.1 ctx).trans (Aggregator.job_modJob hj _), Aggregator.openedJob_epoch hopen hclosed,
    Aggregator.openedJob_state⟩

end PealDue

/-! ### Deadlines (R273) -/

section OpenEpoch
variable {a : Aggregator} {ctx tp : Nat} {j : JobCtx} {e : Epoch} (hj : a.job ctx = some j) (he : j.epoch tp = some e)
include hj he

theorem Aggregator.trayDeadline_open : a.trayDeadline ctx tp
    = if a.paused ∨ ¬ e.armed ∨ e.trayClosed.isSome ∨ a.tc.now < j.trayDeadline tp then a else (a.closeTray ctx tp).settleEpoch ctx tp := by
  simp [Aggregator.trayDeadline, hj, he]

theorem Aggregator.subtreeDeadline_early (hearly : a.tc.now < j.subtreeDeadline tp) : a.subtreeDeadline ctx tp = a := by
  simp [Aggregator.subtreeDeadline, hj, he, hearly]

/-- Past its deadline a subtree epoch whose tray epoch has closed is due. -/
theorem Aggregator.subtreeDeadline_due (hruns : a.paused = false) (hclosed : e.trayClosed.isSome = true)
    (hdue : j.subtreeDeadline tp ≤ a.tc.now) :
    a.subtreeDeadline ctx tp = (a.modEpoch ctx tp fun x => { x with due := true }).settleEpoch ctx tp := by
  simp [Aggregator.subtreeDeadline, hj, he, hruns, hclosed, Nat.not_lt.2 hdue]

end OpenEpoch

/-! ### Contributions of the children (R281, R282) -/

/-- One segment that covers a contribution is the whole of it. -/
theorem joinSegs_whole {total : Nat} {seg : List Byte} (hlen : seg.length = total) : joinSegs total [(0, seg)] = some seg := by
  simp [joinSegs, tabPut, tabDel, storeIns, hlen]

section Contribution
variable {a : Aggregator} {l : List Byte} (hen : a.on ING_CTRL_EN = true) (hcheck : a.frameCheck laneTree l = (true, a))
  (htype : be l 1 1 = ftTreeUp) (hkind : be (l.drop 32) 0 1 = 1)
include hen hcheck htype hkind

theorem Aggregator.treeContribRx_stale
    (hparent : a.parentCtx (be l 12 4) (be l 10 1) (be l 4 4 % 4096) (be (l.drop 32) 6 10) = none) : a.treeContribRx l = a.treeStale := by
  simp [Aggregator.treeContribRx, hen, hcheck, htype, hkind, hparent]

variable {ctx : Nat} {j : JobCtx}
  (hparent : a.parentCtx (be l 12 4) (be l 10 1) (be l 4 4 % 4096) (be (l.drop 32) 6 10) = some (ctx, j))
include hparent

/-- A copy of a contribution that was taken is acknowledged again. -/
theorem Aggregator.treeContribRx_again (htaken : j.hasTaken (be (l.drop 32) 6 10) (be l 4 4 % 4096) = true) :
    a.treeContribRx l = a.treeFrame ctx ftTreeAck (be l 4 4 % 4096) (ackTree 2 0 0 (be (l.drop 32) 6 10) []) := by
  simp [Aggregator.treeContribRx, hen, hcheck, htype, hkind, hparent, htaken]

/-- A contribution in one segment, the first of its child for the epoch, is taken. -/
theorem Aggregator.treeContribRx_whole (hfirst : j.hasTaken (be (l.drop 32) 6 10) (be l 4 4 % 4096) = false)
    (hparts : tabGet j.parts (be (l.drop 32) 6 10 * 4096 + be l 4 4 % 4096) = none) (hoff : be (l.drop 32) 20 4 = 0)
    (hlen : (slice (l.drop 32) 32 (be (l.drop 32) 24 2)).length = be (l.drop 32) 16 4) :
    a.treeContribRx l = a.takeChild ctx (be l 4 4 % 4096) (be (l.drop 32) 6 10) (be (l.drop 32) 4 2)
      (slice (l.drop 32) 32 (be (l.drop 32) 24 2)) := by
  simp [Aggregator.treeContribRx, hen, hcheck, htype, hkind, hparent, hfirst, hparts, hoff, joinSegs_whole hlen]

end Contribution

/-! ### The contribution sent up (R282) -/

/-- A job without the contribution of a T_p that a parent has acknowledged. -/
def JobCtx.ackUps (j : JobCtx) (tp parent : Nat) : JobCtx :=
  { j with ups := j.ups.filter fun u => !(decide (u.tp = tp) && decide (u.to_ = parent)) }

section ContribAck
variable {a : Aggregator} {l : List Byte} (hcheck : a.frameCheck laneTree l = (true, a))
  (htype : be l 1 1 = ftTreeAck) (hkind : be (l.drop 32) 0 1 = 2)
include hcheck htype hkind

theorem Aggregator.contribAckRx_stale (hnone : a.findJob (be l 12 4) (be l 10 1) = none) : a.contribAckRx l = a.treeStale := by
  simp [Aggregator.contribAckRx, hcheck, htype, hkind, hnone]

theorem Aggregator.contribAckRx_jobs {c : Nat × JobCtx} (hjob : a.findJob (be l 12 4) (be l 10 1) = some c) :
    (a.contribAckRx l).jobs = a.jobs.map fun e =>
      if e.2.job = be l 12 4 ∧ e.2.gen = be l 10 1 then (e.1, e.2.ackUps (be (l.drop 32) 8 10) (be l 4 4 % 4096)) else e := by
  simp [Aggregator.contribAckRx, hcheck, htype, hkind, hjob, JobCtx.ackUps]

end ContribAck

section Resend
variable {a : Aggregator} {ctx tp : Nat} {j : JobCtx} {u : ContribOut} (hj : a.job ctx = some j)
  (hu : j.ups.find? (fun u => u.tp = tp) = some u)
include hj hu

theorem Aggregator.contribRetry_early (hearly : a.mono < u.lastSent + max 1 (a.get TREE_TIMING_CONTRIB_RETRY) * 1000) :
    a.contribRetry ctx tp = a := by
  simp [Aggregator.contribRetry, hj, hu, hearly]

variable (hdue : u.lastSent + max 1 (a.get TREE_TIMING_CONTRIB_RETRY) * 1000 ≤ a.mono)
include hdue

theorem Aggregator.contribRetry_spent (hspent : max 1 (a.get TREE_TIMING_CONTRIB_TRIES) ≤ u.tries) :
    a.contribRetry ctx tp = a.modJob ctx fun j => { j with ups := j.ups.filter fun x => x.tp ≠ tp } := by
  unfold Aggregator.contribRetry
  rw [hj, Option.bind_some, hu, Option.map_some]
  dsimp only
  rw [if_neg (Nat.not_lt.2 hdue), if_pos (.inl hspent)]

theorem Aggregator.contribRetry_again (hleft : u.tries < max 1 (a.get TREE_TIMING_CONTRIB_TRIES))
    (hbefore : a.tc.now < tp + j.epochWaitU + ((j.treeAt tp).depth - ((j.treeAt tp).level - 1)) * j.hopWaitU) :
    a.contribRetry ctx tp = (a.modJob ctx fun j => { j with ups := j.ups.map fun x =>
        if x.tp = tp then { u with tries := u.tries + 1, lastSent := a.mono } else x }).sendContrib ctx u.to_ (j.treeAt tp).level
      { u with tries := u.tries + 1, lastSent := a.mono } true := by
  unfold Aggregator.contribRetry
  rw [hj, Option.bind_some, hu, Option.map_some]
  dsimp only
  rw [if_neg (Nat.not_lt.2 hdue), if_neg (by omega)]

end Resend

/-! ### Heartbeats (R284) -/

theorem Aggregator.heartbeatTx_not {a : Aggregator} {ctx : Nat} {j : JobCtx} (hj : a.job ctx = some j)
    (hnot : a.inTree ctx j = false ∨ a.mono < j.hbSent + 100000) : a.heartbeatTx ctx = a := by
  unfold Aggregator.heartbeatTx
  rw [hj]
  exact if_pos (hnot.imp_left (by simp [·]))

/-- Heartbeats note when they were sent, and are frames beside. -/
theorem Aggregator.heartbeatTx_due {a : Aggregator} {ctx : Nat} {j : JobCtx} (hj : a.job ctx = some j) (hin : a.inTree ctx j = true)
    (hdue : j.hbSent + 100000 ≤ a.mono) :
    (a.heartbeatTx ctx).job ctx = some { j with hbSent := a.mono } ∧ (a.heartbeatTx ctx).mem = a.mem := by
  unfold Aggregator.heartbeatTx
  rw [hj]
  dsimp only
  rw [if_neg (by simp [hin, hdue])]
  constructor
  · refine (Aggregator.job_congr ?_ ctx).trans (Aggregator.job_modJob hj fun j => { j with hbSent := a.mono })
    rw [foldl_keeps Aggregator.jobs fun b c => b.treeFrame_jobs _ _ _ _, foldl_keeps Aggregator.jobs fun b c => b.treeFrame_jobs _ _ _ _]
  · rw [foldl_keeps Aggregator.mem fun b c => b.treeFrame_mem _ _ _ _, foldl_keeps Aggregator.mem fun b c => b.treeFrame_mem _ _ _ _]
    simp

/-- A frame that one context takes acts on it alone. -/
theorem Aggregator.onCtxs_one {a : Aggregator} {ctx : Nat} {j : JobCtx} (hj : a.job ctx = some j) (f : Nat → JobCtx → Aggregator → Aggregator) :
    a.onCtxs [ctx] f = f ctx j a := by
  simp [Aggregator.onCtxs, hj]

theorem Aggregator.heartbeatRx_up {a : Aggregator} {l : List Byte} (hcheck : a.frameCheck laneTree l = (true, a))
    (htype : be l 1 1 = ftTreeUp) (hkind : be l 32 1 = 2) : a.heartbeatRx l
      = a.onCtxs (a.ctxsAbove (be l 12 4) (be l 10 1) (be l 4 4 % 4096)) fun ctx _ a => a.modJob ctx fun j =>
          { j with heard := tabPut j.heard (be l 4 4 % 4096) a.mono, lost := j.lost.filter (· ≠ be l 4 4 % 4096) } := by
  have hup : ftTreeUp ≠ ftTreeDown := by decide
  simp only [Aggregator.heartbeatRx, hcheck, htype, hkind, hup, ne_eq, not_true_eq_false, not_false_eq_true, false_and, or_self, if_false]

section Lost
variable {a : Aggregator} {ctx peer : Nat} {j : JobCtx} (hj : a.job ctx = some j)
include hj

theorem Aggregator.heartbeatLost_early (hearly : a.mono < storeGet 0 j.heard peer + 1000000) : a.heartbeatLost ctx peer = a := by
  simp [Aggregator.heartbeatLost, hj, hearly]

theorem Aggregator.heartbeatLost_parent (hin : a.inTree ctx j = true) (habove : peer ∈ a.above ctx j) (hnew : peer ∉ j.lost)
    (hdue : storeGet 0 j.heard peer + 1000000 ≤ a.mono) :
    a.heartbeatLost ctx peer = ((a.modJob ctx fun j => { j with lost := j.lost ++ [peer] }).raise TREE_STATUS_PARENT_LOST).report
      "PARENT-LOST" [j.job, j.gen, peer] := by
  simp [Aggregator.heartbeatLost, hj, hin, habove, hnew, Nat.not_lt.2 hdue]

end Lost

/-! ### The statement -/

/-- Settles O39: each event by the lemma on its operation. -/
theorem epochsCloseAndContributionsTravel : Obligations.EpochsCloseAndContributionsTravel := by
  unfold Obligations.EpochsCloseAndContributionsTravel
  intro s ctx tp peer l j p e u a b child parent hit wait hs
  have up : ∀ {i : Instr} (f : Aggregator → Aggregator) {b : Aggregator}, exec i s = s.onUp f → f a = b → exec i s = nextAgg s b :=
    fun _ _ harm hop => exec_up hs harm hop
  refine ⟨fun hnone => ?noJob, fun hctx hj harmed hp hgood hroom hopen hclosed => ?peal,
    fun hj he hnot => up (·.trayDeadline ctx tp) rfl ((Aggregator.trayDeadline_open hj he).trans (if_pos ?trayNot)),
    fun hruns hj he harmed hclosed hdue => up (·.trayDeadline ctx tp) rfl ((Aggregator.trayDeadline_open hj he).trans (if_neg ?trayDue)),
    fun hj he hearly => up (·.subtreeDeadline ctx tp) rfl (Aggregator.subtreeDeadline_early hj he hearly),
    fun hruns hj he hclosed hdue => up (·.subtreeDeadline ctx tp) rfl (Aggregator.subtreeDeadline_due hj he hruns hclosed hdue),
    fun ⟨hen, hcheck⟩ htype hkind hparent => up (·.treeContribRx l) rfl (Aggregator.treeContribRx_stale hen hcheck htype hkind hparent),
    fun ⟨hen, hcheck⟩ htype hkind hparent hfirst hparts hoff hlen =>
      up (·.treeContribRx l) rfl (Aggregator.treeContribRx_whole hen hcheck htype hkind hparent hfirst hparts hoff hlen),
    fun ⟨hen, hcheck⟩ htype hkind hparent htaken =>
      up (·.treeContribRx l) rfl (Aggregator.treeContribRx_again hen hcheck htype hkind hparent htaken),
    fun ⟨_, hcheck⟩ htype hkind hnone => up (·.contribAckRx l) rfl (Aggregator.contribAckRx_stale hcheck htype hkind hnone),
    fun ⟨_, hcheck⟩ htype hkind hjob => ⟨_, up (·.contribAckRx l) rfl rfl, fun y hy => ?ack⟩,
    fun hj hu hearly => up (·.contribRetry ctx tp) rfl (Aggregator.contribRetry_early hj hu hearly),
    fun hj hu hdue hspent => up (·.contribRetry ctx tp) rfl (Aggregator.contribRetry_spent hj hu hdue hspent),
    fun hj hu hdue hleft hbefore => up (·.contribRetry ctx tp) rfl (Aggregator.contribRetry_again hj hu hdue hleft hbefore),
    fun hj hnot => up (·.heartbeatTx ctx) rfl (Aggregator.heartbeatTx_not hj hnot), fun hj hin hdue => ?heartbeat,
    fun ⟨_, hcheck⟩ htype hkind hone hj => up (·.heartbeatRx l) rfl ?heard,
    fun ⟨_, hcheck⟩ htype hkind hnone => up (·.heartbeatRx l) rfl ?stale,
    fun hj hin habove hnew hdue => up (·.heartbeatLost ctx peer) rfl (Aggregator.heartbeatLost_parent hj hin habove hnew hdue),
    fun hj hearly => up (·.heartbeatLost ctx peer) rfl (Aggregator.heartbeatLost_early hj hearly),
    fun hj hmoves => ⟨_, _, up (·.reparentEffect ctx) rfl rfl, Aggregator.job_modJob hj _, ?reparent⟩⟩
  case noJob =>
    exact ⟨up (·.pealArmSend ctx tp) rfl (by simp [Aggregator.pealArmSend, hnone]),
      up (·.trayDeadline ctx tp) rfl (by simp [Aggregator.trayDeadline, hnone]),
      up (·.subtreeDeadline ctx tp) rfl (by simp [Aggregator.subtreeDeadline, hnone]),
      up (·.contribRetry ctx tp) rfl (by simp [Aggregator.contribRetry, hnone]),
      up (·.heartbeatTx ctx) rfl (by simp [Aggregator.heartbeatTx, hnone]),
      up (·.heartbeatLost ctx peer) rfl (by simp [Aggregator.heartbeatLost, hnone]),
      up (·.reparentEffect ctx) rfl (Aggregator.modJob_absent hnone _)⟩
  case peal =>
    obtain ⟨y, hy, hepoch, hstate⟩ := Aggregator.pealSent_epoch (p := p) hj hopen hclosed
    refine ⟨_, y, _, up (·.pealArmSend ctx tp) rfl (Aggregator.pealArmSend_due hctx hj harmed hp hgood hroom), hy, hepoch, rfl, rfl, rfl, rfl,
      hstate.trans harmed, Aggregator.pealSent_keeps.2, fun hlate d hd => ?_⟩
    obtain ⟨r, hr, hmissing⟩ := Aggregator.unarmed_late (j := j) (p := p) hlate d
    exact ⟨r, hr, tabGet_putStates hmissing _ _ (.inl hd)⟩
  case trayNot => exact hnot.elim (fun h => .inr (.inl (by simp [h]))) fun h => .inr (.inr (.inr h))
  case trayDue => simp [hruns, harmed, hclosed, Nat.not_lt.2 hdue]
  case ack =>
    rw [Aggregator.contribAckRx_jobs hcheck htype hkind hjob] at hy
    obtain ⟨z, hz, rfl⟩ := List.mem_map.1 hy
    exact ⟨z, hz, by split <;> exact ⟨rfl, rfl⟩⟩
  case heartbeat =>
    obtain ⟨hjob, hmem⟩ := Aggregator.heartbeatTx_due hj hin hdue
    exact ⟨_, _, up (·.heartbeatTx ctx) rfl rfl, hjob, rfl, rfl, hmem⟩
  case heard => rw [Aggregator.heartbeatRx_up hcheck htype hkind, hone, Aggregator.onCtxs_one hj]
  case stale => rw [Aggregator.heartbeatRx_up hcheck htype hkind, hnone, Aggregator.onCtxs, if_pos rfl]
  case reparent =>
    rw [if_neg hmoves]
    exact ⟨rfl, rfl, rfl⟩

end Sys2Proof.Machine
end EpochsAndTrees

section Broadcasts
/-!
PROOFS. Broadcasts of the job tree (R289 to R293, Table 10-15), and the end of a retirement (R287, R288).
-/
namespace Sys2Proof.Machine

/-! ### What reports, mirroring and the end of a ledger leave -/

@[simp] theorem Aggregator.report_jobs (a : Aggregator) (name : String) (args : List Nat) : (a.report name args).jobs = a.jobs := by
  unfold Aggregator.report Aggregator.event
  split <;> simp

theorem Aggregator.mirrorSend_keeps (a : Aggregator) (kind : Nat) (l : List Byte) :
    (a.mirrorSend kind l).jobs = a.jobs ∧ (a.mirrorSend kind l).det = a.det := by
  unfold Aggregator.mirrorSend
  dsimp only
  split
  · exact ⟨rfl, rfl⟩
  · split <;> simp [Aggregator.mirrorFrame, Aggregator.modMir]

theorem Aggregator.mirrorJob_keeps (a : Aggregator) (c : Nat) : (a.mirrorJob c).jobs = a.jobs ∧ (a.mirrorJob c).det = a.det := by
  simp [Aggregator.mirrorJob, Aggregator.mirrorContext, Aggregator.mirrorSend_keeps, Aggregator.modMir, Aggregator.draw]

theorem Aggregator.dropLedger_keeps (a : Aggregator) (job gen home : Nat) :
    (a.dropLedger job gen home).jobs = a.jobs ∧ (a.dropLedger job gen home).det = a.det := by
  unfold Aggregator.dropLedger
  split <;> simp [Aggregator.showOcc]

theorem Aggregator.dropFseq_keeps (a : Aggregator) (job gen : Nat) :
    (a.dropFseq job gen).jobs = a.jobs ∧ (a.dropFseq job gen).det = a.det := by
  unfold Aggregator.dropFseq
  split <;> simp

/-! ### A broadcast from above (R289) -/

/-- The commands of the kinds of broadcast receive one of their kind (Table 10-15). -/
theorem exec_broadcast {i : Instr} {l : List Byte} {kind : Nat} (hi : i = .bcArmedCheck l ∧ kind = 1 ∨ i = .bcPealSchedule l ∧ kind = 2
      ∨ i = .bcSelRates l ∧ kind = 3 ∨ i = .bcDetectorParams l ∧ kind = 4 ∨ i = .bcTaint l ∧ kind = 5 ∨ i = .bcReparent l ∧ kind = 6
      ∨ i = .bcReserved l ∧ (kind = 0 ∨ 6 < kind)) (s : State) :
    ∃ want : Nat → Bool, exec i s = s.onUp (·.bcastRx want l) ∧ want kind = true := by
  obtain ⟨rfl, rfl⟩ | ⟨rfl, rfl⟩ | ⟨rfl, rfl⟩ | ⟨rfl, rfl⟩ | ⟨rfl, rfl⟩ | ⟨rfl, rfl⟩ | ⟨rfl, hkind⟩ := hi
  case inr.inr.inr.inr.inr.inr => exact ⟨bcReservedKind, rfl, decide_eq_true hkind⟩
  all_goals exact ⟨_, rfl, rfl⟩

/-- One in a single segment, newer than every one applied, is kept, forwarded, and applied in its order. -/
theorem Aggregator.bcastRx_whole {a : Aggregator} {l : List Byte} {ctx : Nat} {j : JobCtx} {want : Nat → Bool}
    (hwant : want (be (l.drop 32) 2 1) = true) (hen : a.on ING_CTRL_EN = true) (hcheck : a.frameCheck laneTree l = (true, a))
    (hone : a.ctxsBelow (be l 12 4) (be l 10 1) (be l 4 4 % 4096) (bit (be (l.drop 32) 1 1) 0) = [ctx]) (hj : a.job ctx = some j)
    (htype : be l 1 1 = ftTreeDown) (hkind : be (l.drop 32) 0 1 = 1) (hnew : j.applied < be (l.drop 32) 4 4)
    (hunkept : j.bcast (be (l.drop 32) 4 4) = none) (hsize : be (l.drop 32) 8 4 ≤ bcMax)
    (hparts : j.bparts.find? (fun p => p.seq = be (l.drop 32) 4 4) = none) (hoff : be (l.drop 32) 12 4 = 0)
    (hlen : (slice (l.drop 32) 32 (be (l.drop 32) 16 2)).length = be (l.drop 32) 8 4) :
    a.bcastRx want l = (a.keepBcast ctx ⟨be (l.drop 32) 4 4, be (l.drop 32) 2 1, slice (l.drop 32) 18 10,
      slice (l.drop 32) 32 (be (l.drop 32) 16 2), [], [], [], false, [], a.mono, false⟩).applyReady ctx 257 := by
  unfold Aggregator.bcastRx
  dsimp only
  rw [if_neg (by simp [htype, hkind, hwant, hen]), hcheck]
  dsimp only
  rw [if_neg (by simp), hone, Aggregator.onCtxs_one hj, if_neg (by simp [hunkept, Nat.not_le.2 hnew, Nat.not_lt.2 hsize]), hparts,
    Option.getD_none, hoff, List.nil_append, joinSegs_whole hlen]

/-! ### What a broadcast does (Table 10-15) -/

/-- The peals that a PEAL-SCHEDULE names for a job, refused where their period lies below P_min (R271). -/
def JobCtx.scheduled (j : JobCtx) (l : List Byte) : List SchedPeal :=
  (List.range (be l 18 4)).map fun n =>
    ⟨(be l 22 2 + n) % 65536, be l 0 10 + n * be l 10 8 * nsU, bit (be l 24 1) 0, false, decide (be l 10 8 < j.pMin)⟩

/-- They follow the peals that the job has, refused or not. -/
theorem Aggregator.applySchedule_job {a : Aggregator} {ctx : Nat} {j : JobCtx} (hj : a.job ctx = some j) (bseq : Nat) (l : List Byte) :
    (a.applySchedule ctx bseq l).job ctx = some { j with peals := j.peals ++ j.scheduled l } := by
  refine (Aggregator.job_congr ?_ ctx).trans (Aggregator.job_modJob hj fun x => { x with peals := x.peals ++ j.scheduled l })
  unfold Aggregator.applySchedule
  rw [hj]
  dsimp only
  split <;> simp [JobCtx.scheduled]

theorem Aggregator.bcastEffect_schedule (a : Aggregator) (ctx : Nat) {x : Bcast} (hkind : x.bkind = bcPealSchedule) :
    a.bcastEffect ctx x = a.applySchedule ctx x.bseq x.payload := by
  simp [Aggregator.bcastEffect, hkind]

theorem Aggregator.bcastEffect_check (a : Aggregator) (ctx : Nat) {x : Bcast} (hkind : x.bkind = bcArmedCheck) : a.bcastEffect ctx x = a := by
  simp [Aggregator.bcastEffect, hkind]

/-- A kind that is reserved is counted. -/
theorem Aggregator.bcastEffect_reserved (a : Aggregator) (ctx : Nat) {x : Bcast} (hkind : 6 < x.bkind) :
    a.bcastEffect ctx x = a.modJob ctx fun j => { j with reservedBc := j.reservedBc + 1 } := by
  unfold Aggregator.bcastEffect
  split
  case h_7 => rfl
  all_goals omega

/-! ### Sent again, and asked for over a gap (R290) -/

section Kept
variable {a : Aggregator} {ctx bseq child : Nat} {j : JobCtx} {x : Bcast} (hj : a.job ctx = some j) (hx : j.bcast bseq = some x)
include hj hx

theorem Aggregator.bcRetry_acked (hacked : (tabGet x.acked child).isSome = true) : a.bcRetry ctx bseq child = a := by
  unfold Aggregator.bcRetry
  rw [hj, Option.bind_some, hx, Option.map_some]
  dsimp only
  split
  · exact if_pos (.inl hacked)
  · rfl

theorem Aggregator.bcRetry_due {tries at_ : Nat} {backup : Bool}
    (hsend : x.sends.find? (fun z => z.1 = child) = some (child, tries, at_))
    (hbelow : (a.below ctx j).find? (fun z => z.1 = child) = some (child, backup)) (hacked : tabGet x.acked child = none)
    (hleft : tries < max 1 (a.get TREE_TIMING_BC_TRIES)) (hdue : at_ + max 1 (a.get TREE_TIMING_BC_RETRY) * 1000 ≤ a.mono) :
    a.bcRetry ctx bseq child = (a.modBcast ctx bseq fun y => { y with sends := y.sends.map fun z =>
      if z.1 = child then (child, tries + 1, a.mono) else z }).sendBcast ctx child backup true x := by
  unfold Aggregator.bcRetry
  rw [hj, Option.bind_some, hx, Option.map_some]
  dsimp only
  rw [hsend, hbelow]
  exact if_neg (by simp only [hacked, Option.isSome_none, Bool.false_eq_true, false_or, not_or]; omega)

/-- The root reports the members that are missing, once (R293). -/
theorem Aggregator.doneExpiry_kept : a.doneExpiry ctx bseq
    = if j.tree.level ≠ 0 ∨ 1024 ≤ ctx ∨ x.reported ∨ a.mono < x.issued + a.doneWait then a
      else (a.modBcast ctx bseq fun y => { y with reported := true }).report "BROADCAST-MISSING"
        (j.job :: j.gen :: bseq :: j.missingOf x) := by
  unfold Aggregator.doneExpiry
  rw [hj, Option.bind_some, hx, Option.map_some]

end Kept

section Gap
variable {a : Aggregator} {ctx : Nat} {j : JobCtx} (hj : a.job ctx = some j)
include hj

theorem Aggregator.gapExpiry_none (hnone : j.gapSince = none) : a.gapExpiry ctx = a := by
  simp [Aggregator.gapExpiry, hj, hnone]

/-- The wait begins anew; what goes up is frames and their count. -/
theorem Aggregator.gapExpiry_due {t : Nat} (hgap : j.gapSince = some t) (hdue : t + max 1 (a.get TREE_TIMING_BC_GAP_WAIT) * 1000 ≤ a.mono) :
    (a.gapExpiry ctx).job ctx = some { j with gapSince := some a.mono } := by
  refine (Aggregator.job_congr ?_ ctx).trans (Aggregator.job_modJob hj fun j => { j with gapSince := some a.mono })
  unfold Aggregator.gapExpiry
  rw [hj]
  dsimp only
  rw [hgap]
  dsimp only
  rw [if_neg (Nat.not_lt.2 hdue), foldl_keeps Aggregator.jobs fun b p => by simp]

end Gap

/-! ### Frames from below (R290, R291) -/

/-- A broadcast whose acknowledgement set of a node below has grown (R291). -/
def Bcast.joinSet (x : Bcast) (src : Nat) (set : List Nat) : Bcast :=
  { x with acked := tabPut x.acked src (missSort ((tabGet x.acked src).getD [] ++ set)) }

section FromBelow
variable {a : Aggregator} {l : List Byte} {ctx : Nat} {j : JobCtx} (hcheck : a.frameCheck laneTree l = (true, a))
  (hj : a.job ctx = some j) (hone : a.ctxsAbove (be l 12 4) (be l 10 1) (be l 4 4 % 4096) = [ctx]) (htype : be l 1 1 = ftTreeAck)
include hcheck hj hone htype

section Nak
variable {x : Bcast} (hkind : be (l.drop 32) 0 1 = 3) (honly : j.bcasts = [x])
include hkind honly

theorem Aggregator.nakRx_kept {backup : Bool}
    (hbelow : (a.below ctx j).find? (fun z => z.1 = be l 4 4 % 4096) = some (be l 4 4 % 4096, backup)) (hfrom : be (l.drop 32) 4 4 ≤ x.bseq)
    (hto : x.bseq ≤ be (l.drop 32) 4 4) :
    a.nakRx l = a.sendBcast ctx (be l 4 4 % 4096) backup true x := by
  simp [Aggregator.nakRx, hcheck, htype, hkind, hone, Aggregator.onCtxs_one hj, hbelow, honly, minOf, Nat.not_lt.2 hto, hfrom]

/-- A broadcast that is no longer kept is counted. -/
theorem Aggregator.nakRx_gone (hfrom : be (l.drop 32) 4 4 < x.bseq) :
    a.nakRx l = a.modJob ctx fun y => { y with oldNak := y.oldNak + 1 } := by
  simp [Aggregator.nakRx, hcheck, htype, hkind, hone, Aggregator.onCtxs_one hj, honly, minOf, hfrom]

end Nak

section Ack
variable (hkind : be (l.drop 32) 0 1 = 1)
include hkind

theorem Aggregator.bcAckRx_unkept (hnone : j.bcast (be (l.drop 32) 4 4) = none) : a.bcAckRx l = a := by
  simp [Aggregator.bcAckRx, hcheck, htype, hkind, hone, Aggregator.onCtxs_one hj, hnone]

/-- The set joins that of its sender; of a broadcast that is not applied nothing goes up. -/
theorem Aggregator.bcAckRx_joins {x : Bcast} (hx : j.bcast (be (l.drop 32) 4 4) = some x) (happlied : x.applied = false)
    (hpart : bit (be (l.drop 32) 1 1) 0 = false) :
    a.bcAckRx l = (a.modBcast ctx (be (l.drop 32) 4 4) fun _ =>
      x.joinSet (be l 4 4 % 4096) (readSet (slice (l.drop 32) 32 512))).checkComplete ctx (be (l.drop 32) 4 4) := by
  simp [Aggregator.bcAckRx, hcheck, htype, hkind, hone, Aggregator.onCtxs_one hj, hx, happlied, hpart, Bcast.joinSet]

end Ack
end FromBelow

/-! ### The end of a retirement (R287, R288) -/

theorem Aggregator.retireDrainExpiry_drained {a y : Aggregator} {ctx : Nat} {j : JobCtx} {c : Command}
    (hc : a.hif.commands.find? (fun c => decide (c.wait = .drain ctx)) = some c) (hj : a.job ctx = some j) (hdies : j.dieUnits = [])
    (hdrain : a.retireDrain ctx = (true, y)) : a.retireDrainExpiry ctx = y.finish c csSuccess 0 [] := by
  simp [Aggregator.retireDrainExpiry, hc, hj, hdies, hdrain]

section Quarantine
variable {a : Aggregator} {ctx : Nat} {j : JobCtx} (hj : a.job ctx = some j)
include hj

theorem Aggregator.quarantineEnd_not (hnot : j.state ≠ .quarantine ∨ a.mono < j.quarEnd) : a.quarantineEnd ctx = a := by
  unfold Aggregator.quarantineEnd
  rw [hj]
  exact if_pos hnot

/-- The context is FREE, and none of its instances is left (log 69). -/
theorem Aggregator.quarantineEnd_free (hstate : j.state = .quarantine) (hend : j.quarEnd ≤ a.mono) :
    (a.quarantineEnd ctx).job ctx = none ∧ ∀ e ∈ (a.quarantineEnd ctx).det.instances, e.2.ctx ≠ ctx := by
  unfold Aggregator.quarantineEnd
  rw [hj]
  dsimp only
  rw [if_neg (by simp [hstate, hend])]
  constructor
  · rw [Aggregator.job, (Aggregator.dropFseq_keeps _ _ _).1, (Aggregator.dropLedger_keeps _ _ _ _).1, (Aggregator.mirrorJob_keeps _ _).1]
    simp [tabGet_del]
  · rw [(Aggregator.dropFseq_keeps _ _ _).2, (Aggregator.dropLedger_keeps _ _ _ _).2, (Aggregator.mirrorJob_keeps _ _).2]
    simp

end Quarantine

/-! ### The statement -/

/-- Settles O40: each event by the lemma on its operation. -/
theorem broadcastsAreAppliedAndAcknowledged : Obligations.BroadcastsAreAppliedAndAcknowledged := by
  unfold Obligations.BroadcastsAreAppliedAndAcknowledged
  intro s i ctx bseq child tries at_ t kind backup l j x c a b src hit down up hs
  have served : ∀ {i : Instr} (f : Aggregator → Aggregator) {b : Aggregator}, exec i s = s.onUp f → f a = b → exec i s = nextAgg s b :=
    fun _ _ harm hop => exec_up hs harm hop
  refine ⟨fun hi hk ⟨⟨hen, hcheck, hj⟩, hone⟩ htype hkind hnew hunkept hsize hparts hoff hlen => ?kept,
    fun hj hk => ⟨{ j with peals := j.peals ++ j.scheduled x.payload }, ?schedule, rfl⟩,
    fun hk => Aggregator.bcastEffect_check a ctx hk, fun hj hk => ?reserved,
    fun hj hx hsend hbelow hacked hleft hdue =>
      served (·.bcRetry ctx bseq child) rfl (Aggregator.bcRetry_due hj hx hsend hbelow hacked hleft hdue),
    fun hj hx hacked => served (·.bcRetry ctx bseq child) rfl (Aggregator.bcRetry_acked hj hx hacked),
    fun hj hnone => served (·.gapExpiry ctx) rfl (Aggregator.gapExpiry_none hj hnone),
    fun hj hgap hdue => ⟨_, _, served (·.gapExpiry ctx) rfl rfl, Aggregator.gapExpiry_due hj hgap hdue, rfl, rfl⟩,
    fun ⟨⟨_, hcheck, hj⟩, hone⟩ htype hkind hbelow honly hfrom hto =>
      served (·.nakRx l) rfl (Aggregator.nakRx_kept hcheck hj hone htype hkind honly hbelow hfrom hto),
    fun ⟨⟨_, hcheck, hj⟩, hone⟩ htype hkind honly hfrom =>
      served (·.nakRx l) rfl (Aggregator.nakRx_gone hcheck hj hone htype hkind honly hfrom),
    fun ⟨⟨_, hcheck, hj⟩, hone⟩ htype hkind hnone =>
      served (·.bcAckRx l) rfl (Aggregator.bcAckRx_unkept hcheck hj hone htype hkind hnone),
    fun ⟨⟨_, hcheck, hj⟩, hone⟩ htype hkind hx happlied hpart =>
      ⟨_, served (·.bcAckRx l) rfl (Aggregator.bcAckRx_joins hcheck hj hone htype hkind hx happlied hpart), rfl⟩,
    fun hj hx hnot => served (·.doneExpiry ctx bseq) rfl ((Aggregator.doneExpiry_kept hj hx).trans (if_pos ?doneNot)),
    fun hj hx hroot hown hnew hdue => served (·.doneExpiry ctx bseq) rfl ((Aggregator.doneExpiry_kept hj hx).trans (if_neg ?doneDue)),
    fun hnone => served (·.retireDrainExpiry ctx) rfl (by simp [Aggregator.retireDrainExpiry, hnone]),
    fun y hc hj hdies hdrain => served (·.retireDrainExpiry ctx) rfl (Aggregator.retireDrainExpiry_drained hc hj hdies hdrain),
    fun hj hnot => served (·.quarantineEnd ctx) rfl (Aggregator.quarantineEnd_not hj hnot),
    fun hj hstate hend => ⟨_, served (·.quarantineEnd ctx) rfl rfl, Aggregator.quarantineEnd_free hj hstate hend⟩⟩
  case kept =>
    obtain ⟨want, harm, hwant⟩ := exec_broadcast hi s
    subst hk
    exact served (·.bcastRx want l) harm
      (Aggregator.bcastRx_whole hwant hen hcheck hone hj htype hkind hnew hunkept hsize hparts hoff hlen)
  case schedule =>
    rw [Aggregator.bcastEffect_schedule a ctx hk]
    exact Aggregator.applySchedule_job hj _ _
  case reserved =>
    rw [Aggregator.bcastEffect_reserved a ctx hk]
    exact Aggregator.job_modJob hj _
  case doneNot => exact hnot.imp_right fun h => .inr (.inl h)
  case doneDue => simp [hroot, hnew, Nat.not_le.2 hown, Nat.not_lt.2 hdue]

end Sys2Proof.Machine
end Broadcasts

section AuditStaging
/-!
PROOFS. The end of a capture without a descriptor (R307, Table 11-4): its reason, and the tile that refutes O44.
-/
namespace Sys2Proof.Machine

/-- At STAGE_WAIT a capture without a descriptor is TOO-LARGE where its parts exceed 64 MiB, else LOST: the rows of Table 11-4 in their order. -/
theorem Aggregator.stageFate_undescribed (a : Aggregator) {t : Tile} (hdesc : t.desc = none) :
    a.stageFate t true = .ends vdIncomplete (if a.oversize t then rsTooLarge else rsLost) := by
  unfold Aggregator.stageFate
  cases a.oversize t with
  | true => simp [hdesc]
  | false => simp [hdesc]

/-- A capture without a descriptor whose one chunk is a byte of part A at offset 64 MiB. -/
def distantChunk : Tile := { Tile.new 256 1 0 0 0 with chunks := [(0, captureMax, [0])] }

/-- By the extent of its chunks alone it exceeds 64 MiB. -/
theorem Aggregator.oversize_distantChunk (a : Aggregator) : a.oversize distantChunk = true := by
  have hextent : captureMax < distantChunk.extent := by decide
  simp [Aggregator.oversize, hextent]

/-- Refutes O44 by its clause on a capture without a descriptor, which has every one that is not marked `tooLarge` end as LOST. Table 11-4 takes
its first row that applies, and the row of parts that exceed 64 MiB stands before that of LOST: `distantChunk` carries no mark, and ends as
TOO-LARGE by the extent of its chunks. (Staging itself marks a capture at the chunk that makes it so, R307; the clause is on every tile.) -/
theorem not_auditsAreDispatchedAndDecided : ¬ Obligations.AuditsAreDispatchedAndDecided := by
  unfold Obligations.AuditsAreDispatchedAndDecided
  intro h
  obtain ⟨-, -, -, -, -, -, -, -, -, -, -, -, hundescribed, -⟩ :=
    h State.reset 0 256 1 0 0 0 0 0 0 [] distantChunk ⟨fmtFp32, fmtFp32, 1, 1, 1, [], [], []⟩
  have lost : State.reset.agg.stageFate distantChunk true = .ends vdIncomplete rsLost := (hundescribed rfl rfl).1
  rw [Aggregator.stageFate_undescribed _ rfl, Aggregator.oversize_distantChunk] at lost
  exact absurd lost (by decide)

end Sys2Proof.Machine
end AuditStaging

section WholeBlock
/-!
PROOFS. The block as a whole: one step, the part that a command acts on (chapters 3 and 9), and the state after reset.
-/
namespace Sys2Proof.Machine

/-! ### One step -/

/-- Settles O55: the two arms of `step`. -/
theorem aStepRunsTheFrontCommand : Obligations.AStepRunsTheFrontCommand := by
  unfold Obligations.AStepRunsTheFrontCommand
  intro c rest s
  exact ⟨rfl, rfl⟩

/-! ### The part that a command acts on -/

/-- The outcome is a next state with the same queue, in which the aggregator or the die unit stands. -/
def State.oneActs (s : State) (o : Out) : Prop := ∃ t, o = .next t ∧ t.pending = s.pending ∧ (t.agg = s.agg ∨ t.du = s.du)

theorem State.oneActs_du (s : State) (d : DieUnit) : s.oneActs (.next { s with du := d }) := ⟨_, rfl, rfl, .inl rfl⟩

theorem State.oneActs_agg (s : State) (a : Aggregator) : s.oneActs (.next { s with agg := a }) := ⟨_, rfl, rfl, .inr rfl⟩

/-- The commands of the die unit, of the aggregator, of the part they name, and of a segment of the tocsin. -/
theorem exec_oneActs (i : Instr) (s : State) : s.oneActs (exec i s) := by
  cases i with
  | interpLineSwap | refLost | refReturn | clkmonWindow | pealArm | counterClockResume | pealLightSetTimeout | gateWindowOpen
  | gateWindowClose | pdClkAck | domainWakeDone | domainWakeFail | domainSleep | tracePacketAsleep | porN | rstN | softReset | domainReset
  | macRxDiscard | egDrop | cntCycle | ltErrToggle | commandStart | commandEnd | selectorWrite | clear | snap | freeze | freezeRel
  | freezeTimeout | latchRel | counterRead | pealBankCopy | latchParcelBuild | tracePacketPresent | traceStageWrite | deadReportStage
  | sourceSleep | sourceWake | traceClockResume | authWrite | segmentFlushTimeout | segmentDrain | drainEnWrite | ringTrig | traceModeWrite
  | stepAdvance | checkEvent | lineageTransfer | tileCommit | selectionAnswer | captureBeat | captureAbort | captureDeadline
  | captureUnfinished | dumpRequest | dumpAck | dumpAckTimeout | dumpBeat | heReport | snUpd | healthRecordRelease | supplyWarn | supplyCrit
  | flushWordAck | flushWordTimeout | alarmAckRx | alarmResend | chipResetAnnounceRx | beaconRx | beaconLost | failoverTimeout | keepaliveRx
  | registerRequestTx | registerAcceptRx | registerRefuseRx | arm | retire | freezeRelease | fpMap | selKey | dumpArm | ringTrigger | readmit
  | regWrite | regRead | ctlBadFrame | launchDecision | shaperRefill | shaperConfigWrite | gateCommit | gateListSwitch | parcelCloseTimeout
  | pkgPosWrite =>
    exact s.oneActs_du _
  | fleetTimeTick p | tsRxStrobe p | tsTxStrobe p | strobeUnmatched p | syncRx p | followUpRx p | delayReqTx p | delayReqRx p | delayRespRx p
  | announceRx p | ptpUnimplementedRx p | syncReceiptLoss p | announceTimeout p | acceptJump p | activeSet p | tcNowRead p | pealFire p
  | supplyOk p | faultFlushStart p | queuedFlushStart p | recorderFlush p | recorderWrite p | rateBucketRefill p | recorderCursorWrite p
  | recWinAutoRead p | registerWrite p | w1cStatusRead p | clearKeyWrite p | clearingWrite p | indAddrWrite p | indDataAccess p
  | recWindowLoaded p =>
    cases p with
    | du => exact s.oneActs_du _
    | agg => exact s.oneActs_agg _
  | tocsinTxStart seg | tocsinCollision seg | tocsinTxEnd seg | tocsinUnknownRx seg =>
    cases seg with
    | none => exact s.oneActs_du _
    | some k => exact s.oneActs_agg _
  | syncTx | announceTx | bankEraseDone | aggSupplyWarn | aggSupplyCrit | aggFlushPageDone | alarmRx | beaconTx | guestFrameRx | keepaliveTx
  | registerRequestRx | failoverRequestRx | controlAckRx | ctlRetry | telemetryFrameRx | reasmTimeout | parcelCheck | channelOpen
  | forwardBufferGrant | forwardWaitTimeout | posteRestanteResume | channelCancel | pealArmSend | trayEpochDeadline | subtreeEpochDeadline
  | treeContribRx | contribAckRx | contribRetry | treeHeartbeatTx | treeHeartbeatRx | treeHeartbeatLost | reparentEffect | bcArmedCheck
  | bcPealSchedule | bcSelRates | bcDetectorParams | bcTaint | bcReparent | bcReserved | bcRetry | bcGapWaitExpiry | bcAckRx | nakRx
  | bcDoneWaitExpiry | retireDrainExpiry | quarantineEnd | mirrorLinkUp | mirrorLinkDown | mirrorLedgerRx | mirrorContextRx | mirrorImageRx
  | mirrorAckRx | mirrorSpilledRx | resyncReqRx | resyncBeginRx | resyncEndRx | partnerHealthRx | mirrorReservedRx | mirrorRetry
  | partnerHealthTx | partnerLost | stageWaitExpiry | tileDispatch | startWaitExpiry | auditComplete | engineFault | numericsDescriptorWrite
  | detectorTrayRun | detectorEpochRun | runBudget | nop | halt | li | add | sub | mul | mulhu | and | or | xor | shl | shr | sra | addi
  | cmplt | cmpltu | cmpeq | divu | remu | ld | st | ldw | stw | br | bz | bnz | call | ret | loop | arrive | barrierRelease | barrierTimeout
  | signal | wait | trywait | semread | semWaiterRelease | semWaitTimeout | move | moveDone | mwait | epoch | event | out | fence | bcast
  | trap | vld | vst | vlds | vgather | vadd | vsub | vmul | vfma | vdiv | vsqrt | vmin | vmax | vabs | vcvt | vcmplt | vcmpeq | vsel | vexp2
  | vlog2 | vbcast | vrsum | vrmax | vbkt | mzero | mma | mst | mact | hins | hmrg | hqnt | cmsadd | cmsq | xclr | xdot | xaddv | xrd
  | selRatesSend | syncOwnerWrite | barrierMaskWrite | barrierReset | semValueWrite | semReset | memoryUncorrectable | bridgeFatal
  | aggWatchdog | hbmPatrolScrub | aggDomainSleep | aggDomainWake | deferredWakeStart | aggWakeFail | coreDrain | coreDrained | coreMapOut
  | thermalSample | stepSeal | forcedSeal | stepSpill | spillWriteDone | spillRetry | ledgerFetchDone | fetchWaitExpiry
  | mismatchResolveTimeout | scoreDecay | condSuspectExpiry | chipReset | chipResetBegin | aggPowerOn | aggBoot | bootResyncTimeout
  | scanStart | scanComplete | fanoutCalibration | bridgeCalibration | sensorTrimCalibration | sqDoorbell | cqDoorbell | commandFetch
  | commandBudgetExpiry | identify | getLogRecorder | getLogNotices | getLogSampling | getLogFwSlots | getLogPools | getLogQueues | getFeature
  | queueCreate | queueDelete | cancel | detImageLoad | detImageFree | detBind | detUnbind | broadcastIssue | ledgerSpillNow | ledgerImport
  | ledgerReference | healthBudget | knellConfirm | knellRelease | swap | scan | resetLoopClear | firmwareDownload | fwCommit
  | fwCommitActivate | fwActivate | fwActivationProceed | fwReady | fwReadyTimeout | flush | flushComplete | resetInterface | resetChip
  | query | readLedgerRecords | readLedgerSummary | readLedgerEpochs | readLedgerVerdicts | readLedgerCompare | readLedgerLastClean
  | readLedgerManifest | readTrace | armJob | retireJob | capsuleSubmitRx | capsuleDataRx | capsuleAckRx | capsuleResend | mctpMessageRx
  | pcieConventionalReset | flr | dmaStart | dmaStop | dmaDescriptorDone | dmaFault | phAlloc | phGive | phFree | heldWritesApply
  | reAdmission | bridgeReplay | memoryCorrected | indFetchDone | hbmTrainingCalibration | laneTrainingFailure =>
    exact s.oneActs_agg _

/-- Settles O54: every command is of one of the four forms. -/
theorem everyCommandCompletesAndActsOnOnePart : Obligations.EveryCommandCompletesAndActsOnOnePart := by
  unfold Obligations.EveryCommandCompletesAndActsOnOnePart
  exact exec_oneActs

/-! ### The state after reset -/

/-- Settles O59: the queues of the die unit are empty, and the memories are. -/
theorem invariantsHoldAtReset : Obligations.InvariantsHoldAtReset := by
  unfold Obligations.InvariantsHoldAtReset
  have queues : State.reset.du.queuesOk := by
    unfold DieUnit.queuesOk
    decide +kernel
  exact ⟨queues, reset_memory_wf⟩

/-- Settles O56: the reset values are read off the state. -/
theorem powerOnResetLeavesTheResetValues : Obligations.PowerOnResetLeavesTheResetValues := by
  unfold Obligations.PowerOnResetLeavesTheResetValues
  have allOff : ∀ k, State.reset.du.isOn k = false := by
    intro k
    cases k <;> decide +kernel
  have coresOff : ∀ c < 64, State.reset.agg.adState c = adOff := by decide +kernel
  refine ⟨rfl, ?_, ?_, ?_, ?_, allOff, rfl, rfl, ?_, ?_, rfl, ?_, ?_, ?_, ?_, ?_, ?_, ?_, coresOff, rfl, ?_, rfl, rfl, rfl⟩
  all_goals decide +kernel

end Sys2Proof.Machine
end WholeBlock

section MemoryAccess
/-!
PROOFS. Accesses to memory (R235, R244, R247, R252): what the wake of power domains leaves, and the accesses that a detector run makes.
-/
namespace Sys2Proof.Machine

/-! ### What the wake of power domains leaves -/

/-- `b` is `a` in other power states at most: beside the power manager and the words of its page 0x10 nothing differs. -/
structure Aggregator.PowersTo (a b : Aggregator) : Prop where
  same : b = { a with regs := b.regs, pwr := b.pwr }
  poison : b.pwr.poison = a.pwr.poison
  words : ∀ n, pageOf n ≠ 0x10 → b.word n = a.word n

namespace Aggregator.PowersTo
variable {a b c : Aggregator}

theorem refl (a : Aggregator) : a.PowersTo a := ⟨rfl, rfl, fun _ _ => rfl⟩

theorem trans (h : a.PowersTo b) (h' : b.PowersTo c) : a.PowersTo c where
  same := by rw [h'.same, h.same]
  poison := h'.poison.trans h.poison
  words n hn := (h'.words n hn).trans (h.words n hn)

/-- Many steps. -/
theorem foldl {β : Type} {f : Aggregator → β → Aggregator} (l : List β) (h : ∀ (b : Aggregator), ∀ x ∈ l, b.PowersTo (f b x)) (a : Aggregator) :
    a.PowersTo (l.foldl f a) := by
  induction l generalizing a with
  | nil => exact refl a
  | cons x xs ih => exact (h a x List.mem_cons_self).trans (ih (fun b y hy => h b y (List.mem_cons_of_mem x hy)) _)

theorem modPwr (a : Aggregator) {f : PowerMgr → PowerMgr} (hf : (f a.pwr).poison = a.pwr.poison) : a.PowersTo (a.modPwr f) :=
  ⟨rfl, hf, fun _ _ => rfl⟩

theorem setRegs (a : Aggregator) {r : RegFile} (h : ∀ n, pageOf n ≠ 0x10 → r.word n = a.word n) : a.PowersTo { a with regs := r } :=
  ⟨rfl, rfl, h⟩

theorem set (a : Aggregator) {f : Fld} (hf : pageOf f.reg = 0x10) (v : Nat) : a.PowersTo (a.set f v) :=
  setRegs a fun _ hn => a.word_set_other (fun e => hn (by rw [e, hf])) v

theorem inc (a : Aggregator) {f : Fld} (hf : pageOf f.reg = 0x10) (v : Nat) : a.PowersTo (a.inc f v) := set a hf _

theorem raise (a : Aggregator) {f : Fld} (hf : pageOf f.reg = 0x10) : a.PowersTo (a.raise f) :=
  setRegs a fun _ hn => a.word_raise_other (fun e => hn (by rw [e, hf])) fun e => hn (by rw [e, hf]; decide)

theorem get (h : a.PowersTo b) {f : Fld} (hf : pageOf f.reg ≠ 0x10) : b.get f = a.get f := RegFile.get_congr (h.words _ hf)
theorem on (h : a.PowersTo b) {f : Fld} (hf : pageOf f.reg ≠ 0x10) : b.on f = a.on f := RegFile.on_congr (h.words _ hf)
theorem mem (h : a.PowersTo b) : b.mem = a.mem := (congrArg Aggregator.mem h.same).trans rfl
theorem host (h : a.PowersTo b) : b.host = a.host := (congrArg Aggregator.host h.same).trans rfl
theorem det (h : a.PowersTo b) : b.det = a.det := (congrArg Aggregator.det h.same).trans rfl
theorem jobs (h : a.PowersTo b) : b.jobs = a.jobs := (congrArg Aggregator.jobs h.same).trans rfl
theorem sync (h : a.PowersTo b) : b.sync = a.sync := (congrArg Aggregator.sync h.same).trans rfl
theorem hif (h : a.PowersTo b) : b.hif = a.hif := (congrArg Aggregator.hif h.same).trans rfl
theorem aud (h : a.PowersTo b) : b.aud = a.aud := (congrArg Aggregator.aud h.same).trans rfl
theorem ing (h : a.PowersTo b) : b.ing = a.ing := (congrArg Aggregator.ing h.same).trans rfl
theorem led (h : a.PowersTo b) : b.led = a.led := (congrArg Aggregator.led h.same).trans rfl
theorem hlt (h : a.PowersTo b) : b.hlt = a.hlt := (congrArg Aggregator.hlt h.same).trans rfl
theorem poisoned (h : a.PowersTo b) (addr len : Nat) : b.poisoned addr len = a.poisoned addr len := by
  rw [Aggregator.poisoned, h.poison, Aggregator.poisoned]

/-- The words of the HBM regions lie on another page. -/
theorem region (h : a.PowersTo b) {i : Nat} (hi : i < 16) :
    b.on (HBM_RGN_ATTR_EN i) = a.on (HBM_RGN_ATTR_EN i) ∧ b.get (HBM_RGN_BASE_BASE i) = a.get (HBM_RGN_BASE_BASE i)
      ∧ b.get (HBM_RGN_LIM_LIMIT i) = a.get (HBM_RGN_LIM_LIMIT i)
      ∧ ∀ write : Bool, b.get (if write then HBM_RGN_ATTR_WR i else HBM_RGN_ATTR_RD i)
          = a.get (if write then HBM_RGN_ATTR_WR i else HBM_RGN_ATTR_RD i) := by
  have hattr : pageOf (addr_HBM_RGN_ATTR i) ≠ 0x10 := by dsimp only [pageOf, indBase, addr_HBM_RGN_ATTR]; split <;> omega
  have hbase : pageOf (addr_HBM_RGN_BASE i) ≠ 0x10 := by dsimp only [pageOf, indBase, addr_HBM_RGN_BASE]; split <;> omega
  have hlim : pageOf (addr_HBM_RGN_LIM i) ≠ 0x10 := by dsimp only [pageOf, indBase, addr_HBM_RGN_LIM]; split <;> omega
  refine ⟨h.on hattr, h.get hbase, h.get hlim, fun write => ?_⟩
  cases write <;> exact h.get hattr

/-- What the regions admit stands. -/
theorem memOk (h : a.PowersTo b) (write : Bool) (q : Req) (addr len : Nat) : b.memOk write q addr len = a.memOk write q addr len := by
  have admits : ∀ p, ((List.range 16).any fun i => b.on (HBM_RGN_ATTR_EN i) && decide (b.get (HBM_RGN_BASE_BASE i) ≤ p)
        && decide (p ≤ b.get (HBM_RGN_LIM_LIMIT i)) && bit (b.get (if write then HBM_RGN_ATTR_WR i else HBM_RGN_ATTR_RD i)) q.bit)
      = (List.range 16).any fun i => a.on (HBM_RGN_ATTR_EN i) && decide (a.get (HBM_RGN_BASE_BASE i) ≤ p)
        && decide (p ≤ a.get (HBM_RGN_LIM_LIMIT i)) && bit (a.get (if write then HBM_RGN_ATTR_WR i else HBM_RGN_ATTR_RD i)) q.bit := by
    intro p
    rw [Bool.eq_iff_iff, List.any_eq_true, List.any_eq_true]
    refine exists_congr fun i => and_congr_right fun hi => ?_
    obtain ⟨hen, hbase, hlim, hmask⟩ := h.region (List.mem_range.1 hi)
    rw [hen, hbase, hlim, hmask write]
  simp only [Aggregator.memOk, Aggregator.regionsOk, admits]

theorem runOk (h : a.PowersTo b) (r : Run) (write : Bool) (q : Req) (addr len : Nat) : b.runOk r write q addr len = a.runOk r write q addr len := by
  rw [Aggregator.runOk, h.memOk, Aggregator.runOk]

end Aggregator.PowersTo

theorem pageOf_PD_STAT {k : Nat} (hk : k < 80) : pageOf (addr_PD_STAT k) = 0x10 := by
  dsimp only [pageOf, indBase, addr_PD_STAT]
  split <;> omega

theorem Aggregator.powersTo_setAd (a : Aggregator) {k : Nat} (hk : k < 80) (st : Nat) : a.PowersTo (a.setAd k st) :=
  (PowersTo.set a (pageOf_PD_STAT hk) st).trans (PowersTo.set _ (by decide) _)

theorem Aggregator.powersTo_beginWake (a : Aggregator) {k : Nat} (hk : k < 80) (off : Bool) : a.PowersTo (a.beginWake k off) :=
  ((PowersTo.modPwr a rfl).trans (PowersTo.inc _ (pageOf_PD_STAT hk) _)).trans (Aggregator.powersTo_setAd _ hk _)

theorem Aggregator.powersTo_wakeOne (a : Aggregator) {k : Nat} (hk : k < 80) : a.PowersTo (a.wakeOne k) := by
  unfold Aggregator.wakeOne
  dsimp only
  split
  case isTrue => exact .refl a
  case isFalse =>
    split
    case isTrue => exact a.powersTo_beginWake hk _
    case isFalse =>
      exact (((PowersTo.modPwr a rfl).trans (.inc _ (by decide) _)).trans (.raise _ (by decide))).trans (Aggregator.powersTo_setAd _ hk _)

theorem Aggregator.domParent_lt {a : Aggregator} {k p : Nat} (hk : k < 80) (h : a.domParent k = some p) : p < 80 := by
  unfold Aggregator.domParent at h
  split at h
  case h_1 =>
    cases h
    unfold b2n
    split <;> omega
  case h_2 | h_3 =>
    cases h
    omega
  case h_4 => cases h

theorem Aggregator.powersTo_wakeDomain (a : Aggregator) {k : Nat} (hk : k < 80) : a.PowersTo (a.wakeDomain k) := by
  unfold Aggregator.wakeDomain
  split
  case isTrue => exact a.powersTo_setAd hk _
  case isFalse =>
    split
    case h_1 p hp =>
      split
      case isTrue => exact a.powersTo_wakeOne hk
      case isFalse =>
        refine (a.powersTo_wakeOne (Aggregator.domParent_lt hk hp)).trans (PowersTo.modPwr _ ?_)
        split <;> rfl
    case h_2 => exact a.powersTo_wakeOne hk

/-- An access of the HBM wakes the controller groups that it reaches, and does nothing more. -/
theorem Aggregator.powersTo_hbmTouch (a : Aggregator) (addr len : Nat) : a.PowersTo (a.hbmTouch addr len) := by
  have groups : ∀ g ∈ groupsOf addr len, g < 80 := by
    intro g hg
    unfold groupsOf at hg
    dsimp only at hg
    split at hg
    case isTrue => cases hg
    case isFalse =>
      have : g ∈ [65, 66, 69, 70] := (List.mem_filter.1 hg).1
      simp only [List.mem_cons, List.not_mem_nil, or_false] at this
      omega
  exact .foldl _ (fun b g hg => (PowersTo.modPwr b rfl).trans (Aggregator.powersTo_wakeDomain _ (groups g hg))) a

theorem Aggregator.powersTo_touched (a : Aggregator) (l : List (Nat × Nat)) : a.PowersTo (a.touched l) :=
  .foldl l (fun b x _ => b.powersTo_hbmTouch x.1 x.2) a

@[simp] theorem Aggregator.touched_mem (a : Aggregator) (l : List (Nat × Nat)) : (a.touched l).mem = a.mem := (a.powersTo_touched l).mem

@[simp] theorem Aggregator.touched_core (a : Aggregator) (l : List (Nat × Nat)) (c : Nat) : (a.touched l).core c = a.core c := by
  rw [Aggregator.core, (a.powersTo_touched l).det, Aggregator.core]

/-- An access that reaches no controller group leaves the power domains as they are (Table 9-7). -/
theorem Aggregator.hbmTouch_outside (a : Aggregator) {addr len : Nat} (h : len = 0 ∨ addr + len ≤ hbmBase) : a.hbmTouch addr len = a := by
  have none_ : groupsOf addr len = [] := if_pos (h.imp_right Or.inl)
  rw [Aggregator.hbmTouch, none_, List.foldl_nil]

/-! ### The accesses of a run (R338) -/

theorem Aggregator.touched_append (a : Aggregator) (l l' : List (Nat × Nat)) : (a.touched l).touched l' = a.touched (l ++ l') :=
  List.foldl_append.symm

/-- Accesses that are permitted, the reads of data that are not poisoned, are made. -/
theorem Aggregator.access_permitted {a : Aggregator} {r : Run} {q : Req} {l : List MemAccess}
    (hok : ∀ x ∈ l, a.runOk r x.1 q x.2.1 x.2.2 = true) (hclean : ∀ x ∈ l, x.1 = false → a.poisoned x.2.1 x.2.2 = false)
    (f : Aggregator → IsaRes) : a.access r q l f = f (a.touched (l.map (·.2))) := by
  have granted : l.find? (fun x => !a.runOk r x.1 q x.2.1 x.2.2) = none :=
    List.find?_eq_none.2 fun x hx => by simp [hok x hx]
  have sound : (l.any fun x => !x.1 && a.poisoned x.2.1 x.2.2) = false :=
    List.any_eq_false.2 fun x hx => by
      cases hw : x.1
      · simp [hclean x hx hw]
      · simp
  unfold Aggregator.access
  rw [granted]
  simp only [sound, Bool.false_eq_true, if_false, Aggregator.touched, List.foldl_map]

/-- The first access that is refused ends the run (R247). -/
theorem Aggregator.access_refused {a : Aggregator} {r : Run} {q : Req} {write : Bool} {addr len : Nat}
    (hno : a.runOk r write q addr len = false) (l : List MemAccess) (f : Aggregator → IsaRes) :
    a.access r q ((write, addr, len) :: l) f = .refuse (a.deny write q addr len) := by
  unfold Aggregator.access
  rw [List.find?_cons_of_pos (by simp [hno])]

end Sys2Proof.Machine
end MemoryAccess

section Sequencer
/-!
PROOFS. The sequencer instructions of detector programs (R333, R334, R338, Table 12-3), and how a run ends (R339, Table 12-6).
-/
namespace Sys2Proof.Machine

/-! ### What issues (R333, Table 12-6) -/

/-- Every register number below `n` is of the kind. -/
def RegKind.within (k : RegKind) (n : Nat) : Bool :=
  match k with
  | .none => true
  | .x => decide (n ≤ 64)
  | .xpair => decide (n ≤ 63)
  | .v => decide (n ≤ 32)
  | .m => decide (n ≤ 8)
  | .a => decide (n ≤ 4)

/-- Every word of an opcode whose fields D, A and B lie below the bounds is legal, where the opcode gives IMM no bound. -/
def opWithin (op d a b : Nat) : Bool :=
  match opKinds op with
  | none => false
  | some (kd, ka, kb) => kd.within d && ka.within a && kb.within b

theorem RegKind.ok_of_within {k : RegKind} {m n : Nat} (hk : k.within m = true) (hn : n < m) : k.ok n = true := by
  cases k with
  | none => rfl
  | x | xpair | v | m | a =>
    have := of_decide_eq_true hk
    exact decide_eq_true (by omega)

theorem Insn.legal_of_within {i : Insn} {d a b op : Nat} (h : fieldsBelow i d a b) (hop : opWithin op d a b = true)
    (himm : op = 0x61 → 0 ≤ i.imm ∧ i.imm ≤ 65536 ∧ i.imm % 32 = 0) : i.legal op = true := by
  obtain ⟨hrsv, hd, ha, hb⟩ := h
  have bound : (decide (op ≠ 0x61) || decide (0 ≤ i.imm ∧ i.imm ≤ 65536 ∧ i.imm % 32 = 0)) = true := by
    by_cases h61 : op = 0x61
    · simp [himm h61]
    · simp [h61]
  unfold opWithin at hop
  cases hkinds : opKinds op with
  | none => simp [hkinds] at hop
  | some kinds =>
    obtain ⟨kd, ka, kb⟩ := kinds
    simp only [hkinds, Bool.and_eq_true] at hop
    obtain ⟨⟨hkd, hka⟩, hkb⟩ := hop
    simp only [Insn.legal, hkinds, hrsv, RegKind.ok_of_within hkd hd, RegKind.ok_of_within hka ha, RegKind.ok_of_within hkb hb, bound]
    rfl

/-! ### Register to register (R334, R336) -/

section Issued
variable {a : Aggregator} {c op : Nat} {i : Insn} {r : Run} (h : ready a c r)
include h

theorem Aggregator.isaCore_goes (hl : i.legal op = true) (f : Core → Core) : a.isaCore c op i f = a.setCore c (f (a.core c)) :=
  Aggregator.isa_go h hl rfl

theorem Aggregator.alu_illegal (hl : i.legal op = false) (f : W64 → W64 → W64) : a.alu c op i f = a.endRun c (some (0x01, 0)) := by
  rw [Aggregator.alu, Aggregator.isaCore]
  exact a.isa_illegal c op i _ r h hl

variable (hi : fieldsBelow i 64 64 64) (hop : opWithin op 64 64 64 = true) (hmma : op ≠ 0x61)
include hi hop hmma

theorem Aggregator.alu_goes (f : W64 → W64 → W64) : a.alu c op i f
    = a.setCore c { (a.core c).setX i.d (f ((a.core c).xr i.a) ((a.core c).xr i.b)) with pc := (a.core c).pc + 1 } := by
  rw [Aggregator.alu, Aggregator.isaCore_goes h (Insn.legal_of_within hi hop fun e => absurd e hmma), Core.next, Core.setX_pc]

/-- A branch jumps by IMM words where its condition holds, and goes on otherwise. -/
theorem Aggregator.isaBranch_goes (p : W64 → Bool) : a.isaBranch c op i p = a.setCore c { a.core c with
      pc := if p ((a.core c).xr i.a) then (((a.core c).pc : Int) + i.imm).toNat else (a.core c).pc + 1 } := by
  rw [Aggregator.isaBranch, Aggregator.isaCore_goes h (Insn.legal_of_within hi hop fun e => absurd e hmma)]
  split <;> rfl

end Issued

theorem mulHigh_eq (x y : W64) : mulHigh x y = BitVec.ofNat 64 (x.toNat * y.toNat / 2 ^ 64) := rfl

theorem bool64_eq (b : Bool) : bool64 b = if b then 1 else 0 := by cases b <;> rfl

theorem bool64_slt (x y : W64) : bool64 (x.slt y) = if x.toInt < y.toInt then 1 else 0 := by
  rw [bool64_eq, BitVec.slt_eq_decide]
  simp

theorem bool64_ult (x y : W64) : bool64 (x.ult y) = if x.toNat < y.toNat then 1 else 0 := by
  rw [bool64_eq, BitVec.ult_eq_decide]
  simp

theorem bool64_beq (x y : W64) : bool64 (x == y) = if x = y then 1 else 0 := by
  rw [bool64_eq]
  simp

theorem divu64_eq (x y : W64) : divu64 x y = if y = 0 then BitVec.allOnes 64 else BitVec.ofNat 64 (x.toNat / y.toNat) := by
  rw [divu64, BitVec.udiv_def]

theorem remu64_eq (x y : W64) : remu64 x y = if y = 0 then x else BitVec.ofNat 64 (x.toNat % y.toNat) := by
  rw [remu64, BitVec.umod_def]

/-- A scalar register after a write of one. -/
theorem Core.xr_setX (k : Core) (d n : Nat) (v : W64) : (k.setX d v).xr n = if n = d ∧ d ≠ 0 then v else k.xr n := by
  unfold Core.setX
  by_cases hd : d = 0
  · simp [hd]
  · simp only [if_neg hd, Core.xr, storeGet_set]
    by_cases hn : n = d
    · simp [hn, hd]
    · simp [hn]

/-- Settles O1: every instruction is the operation of the register file or of the unit that goes with its opcode. -/
theorem aluInstructionsWriteTheirResult : Obligations.AluInstructionsWriteTheirResult := by
  unfold Obligations.AluInstructionsWriteTheirResult
  refine ⟨fun k d n v => ⟨k.xr_setX d n v, k.xr_zero, by simp, by simp, by simp, by simp, by simp, by simp, by simp⟩, ?_⟩
  intro s c i r h hi
  have goes {op : Nat} (hop : opWithin op 64 64 64 = true) (hmma : op ≠ 0x61) {f : W64 → W64 → W64} {v : W64}
      (hv : f ((s.agg.core c).xr i.a) ((s.agg.core c).xr i.b) = v) : nextAgg s (s.agg.alu c op i f)
        = nextAgg s (s.agg.setCore c { (s.agg.core c).setX i.d v with pc := (s.agg.core c).pc + 1 }) := by
    rw [Aggregator.alu_goes h hi hop hmma, hv]
  refine ⟨?add, ?sub, ?mul, ?mulhu, ?and, ?or, ?xor, ?shl, ?shr, ?sra, ?cmplt, ?cmpltu, ?cmpeq, ?divu, ?remu, ?li, ?addi⟩
  case add | sub | mul | mulhu | and | or | xor | shl | shr | sra => exact goes (by decide) (by decide) rfl
  case cmplt => exact goes (by decide) (by decide) (bool64_slt _ _)
  case cmpltu => exact goes (by decide) (by decide) (bool64_ult _ _)
  case cmpeq => exact goes (by decide) (by decide) (bool64_beq _ _)
  case divu => exact goes (by decide) (by decide) (divu64_eq _ _)
  case remu => exact goes (by decide) (by decide) (remu64_eq _ _)
  case li | addi =>
    refine congrArg (nextAgg s) ((Aggregator.isaCore_goes h (Insn.legal_of_within hi (by decide) fun e => absurd e (by decide)) _).trans ?_)
    rw [Core.next, Core.setX_pc]
    rfl

/-! ### Control flow -/

/-- Settles O2: by the lemma of branches; the others change their core by their own definition. -/
theorem controlInstructionsSetThePc : Obligations.ControlInstructionsSetThePc := by
  unfold Obligations.ControlInstructionsSetThePc
  intro s c i r h hi
  have core {op : Nat} (hop : opWithin op 64 64 64 = true) (hmma : op ≠ 0x61) {f : Core → Core} {k : Core} (hf : f (s.agg.core c) = k) :
      nextAgg s (s.agg.isaCore c op i f) = nextAgg s (s.agg.setCore c k) := by
    rw [Aggregator.isaCore_goes h (Insn.legal_of_within hi hop fun e => absurd e hmma), hf]
  have branch {op : Nat} (hop : opWithin op 64 64 64 = true) (hmma : op ≠ 0x61) {p : W64 → Bool} {pc : Nat}
      (hpc : (if p ((s.agg.core c).xr i.a) then (((s.agg.core c).pc : Int) + i.imm).toNat else (s.agg.core c).pc + 1) = pc) :
      nextAgg s (s.agg.isaBranch c op i p) = nextAgg s (s.agg.setCore c { s.agg.core c with pc := pc }) := by
    rw [Aggregator.isaBranch_goes h hi hop hmma, hpc]
  refine ⟨?nop, ?fence, ?br, ?bz, ?bnz, ?call, ?ret, ?loop⟩
  case nop | fence | ret => exact core (by decide) (by decide) rfl
  case br => exact branch (by decide) (by decide) (if_pos rfl)
  case bz => exact branch (by decide) (by decide) (by simp)
  case bnz => exact branch (by decide) (by decide) (by simp)
  case call => exact core (by decide) (by decide) (by rw [Core.jump, Core.setX_pc])
  case loop =>
    refine core (by decide) (by decide) ?_
    dsimp only
    by_cases hv : (s.agg.core c).xr i.a - 1 = 0
    · rw [if_neg (not_not_intro hv), if_pos hv, Core.next, Core.setX_pc]
    · rw [if_pos hv, if_neg hv, Core.jump, Core.setX_pc]

/-! ### Loads and stores (R338) -/

section Issued
variable {a : Aggregator} {c op n addr : Nat} {i : Insn} {r : Run} (h : ready a c r) (hl : i.legal op = true)
  (haddr : ((a.core c).xr i.a + BitVec.ofInt 64 i.imm).toNat = addr)
include h hl

/-- An instruction that faults ends the run. -/
theorem Aggregator.isa_stop {f : Core → Run → IsaRes} {code user : Nat} (hf : f (a.core c) r = .stop code user) :
    a.isa c op i f = a.endRun c (some (code, user)) := by
  rw [Aggregator.isa_issues a c op i f r h hl, hf]

/-- An access that is refused ends the run with ACCESS. -/
theorem Aggregator.isa_refuse {f : Core → Run → IsaRes} {b : Aggregator} (hf : f (a.core c) r = .refuse b) :
    a.isa c op i f = b.endRun c (some (0x02, 0)) := by
  rw [Aggregator.isa_issues a c op i f r h hl, hf]

include haddr

theorem Aggregator.isaLoad_misaligned (halign : addr % n ≠ 0) : a.isaLoad c op n i = a.endRun c (some (0x03, 0)) :=
  Aggregator.isa_stop h hl (if_pos (haddr ▸ halign))

theorem Aggregator.isaStore_misaligned (halign : addr % n ≠ 0) : a.isaStore c op n i = a.endRun c (some (0x03, 0)) :=
  Aggregator.isa_stop h hl (if_pos (haddr ▸ halign))

variable (halign : addr % n = 0)
include halign

theorem Aggregator.isaStore_refused (hno : a.runOk r true .seq addr n = false) :
    a.isaStore c op n i = (a.deny true .seq addr n).endRun c (some (0x02, 0)) := by
  subst haddr
  exact Aggregator.isa_refuse h hl ((if_neg (not_not_intro halign)).trans (Aggregator.access_refused hno [] _))

theorem Aggregator.isaLoad_permitted (hok : a.runOk r false .seq addr n = true) (hclean : a.poisoned addr n = false) :
    a.isaLoad c op n i = (a.touched [(addr, n)]).setCore c
      { (a.core c).setX i.d (BitVec.ofNat 64 (leNat (memBytes a.mem addr n))) with pc := (a.core c).pc + 1 } := by
  subst haddr
  refine Aggregator.isa_go h hl ((if_neg (not_not_intro halign)).trans ?_)
  rw [Aggregator.access_permitted (List.forall_mem_singleton.2 hok) (List.forall_mem_singleton.2 fun _ => hclean), Aggregator.touched_mem, Core.next, Core.setX_pc]
  rfl

theorem Aggregator.isaStore_permitted (hok : a.runOk r true .seq addr n = true) :
    a.isaStore c op n i = { (a.touched [(addr, n)]).setCore c { a.core c with pc := (a.core c).pc + 1 } with
      mem := memPut a.mem addr (leBytes n ((a.core c).xr i.b).toNat) } := by
  subst haddr
  refine Aggregator.isa_go h hl ((if_neg (not_not_intro halign)).trans ?_)
  rw [Aggregator.access_permitted (List.forall_mem_singleton.2 hok) (List.forall_mem_singleton.2 (by simp [wrAt])), Aggregator.touched_mem]
  rfl

end Issued

/-- Settles O3: the bytes of a store, the four instructions with one access each, and what the access itself leaves. -/
theorem scalarLoadsAndStoresAccessTheirBytes : Obligations.ScalarLoadsAndStoresAccessTheirBytes := by
  unfold Obligations.ScalarLoadsAndStoresAccessTheirBytes
  refine ⟨memPut_get, ?accesses, ?touches⟩
  case accesses =>
    intro s c i r h hi
    have legal {op : Nat} (hop : opWithin op 64 64 64 = true) (hmma : op ≠ 0x61) : i.legal op = true :=
      Insn.legal_of_within hi hop fun e => absurd e hmma
    refine ⟨?ld, ?ldw, ?st, ?stw⟩
    case ld | ldw =>
      exact fun halign hok hclean =>
        congrArg (nextAgg s) (Aggregator.isaLoad_permitted h (legal (by decide) (by decide)) rfl halign hok hclean)
    case st | stw =>
      exact fun halign hok => congrArg (nextAgg s) (Aggregator.isaStore_permitted h (legal (by decide) (by decide)) rfl halign hok)
  case touches =>
    intro a addr len
    have powers := a.powersTo_touched [(addr, len)]
    exact ⟨fun h => a.hbmTouch_outside h, powers.mem, powers.det, powers.jobs, powers.sync⟩

/-! ### The end of a run (R329, R339, Table 12-6) -/

theorem Aggregator.deny_mem (a : Aggregator) (write : Bool) (q : Req) (addr len : Nat) : (a.deny write q addr len).mem = a.mem := by
  unfold Aggregator.deny Aggregator.accessFault
  split
  · rfl
  · split <;> simp

theorem Aggregator.semServe_keeps (a : Aggregator) (m cyc : Nat) : (a.semServe m cyc).det = a.det ∧ (a.semServe m cyc).mem = a.mem := by
  unfold Aggregator.semServe
  dsimp only
  split <;> simp [Aggregator.setSemQ]

/-- A run that waits leaves the queues of the synchronisation network; cores and memory stand (R238). -/
theorem Aggregator.withdraw_keeps (a : Aggregator) (c : Nat) : (a.withdraw c).det = a.det ∧ (a.withdraw c).mem = a.mem := by
  have left := foldl_keeps (fun b : Aggregator => (b.det, b.mem)) (f := fun (b : Aggregator) (e : Nat × List SemWait) =>
    if e.2.any fun w => decide (w.engine / 4 = c) then
      ((b.semApart e.1).setSemQ e.1 (e.2.filter fun w => !decide (w.engine / 4 = c))).semServe e.1 (b.cycle 0)
    else b) (fun b e => by
      split
      · simp [Aggregator.semServe_keeps, Aggregator.setSemQ, Aggregator.semApart]
      · rfl)
  exact Prod.mk.inj (left _ _)

/-- The aggregator once the run on a core waits for nothing (R238). -/
def Aggregator.waitsNoMore (a : Aggregator) (c : Nat) : Aggregator :=
  match (a.core c).blocked with
  | .sync _ => a.withdraw c
  | _ => a

theorem Aggregator.waitsNoMore_keeps (a : Aggregator) (c : Nat) : (a.waitsNoMore c).det = a.det ∧ (a.waitsNoMore c).mem = a.mem := by
  unfold Aggregator.waitsNoMore
  split
  · exact a.withdraw_keeps c
  · exact ⟨rfl, rfl⟩

/-- The registers of a fault of a run (Table 12-20). -/
def Aggregator.faultShown (a : Aggregator) (inst code user pc : Nat) : Aggregator :=
  let b := ((((a.set DET_FAULT_INSTANCE inst).set DET_FAULT_CODE code).set DET_FAULT_TRAP_CODE user).set DET_FAULT_PC pc).inc DET_CNT1_FAULT_N
  (if code = 0x04 then b.inc DET_CNT0_OVERRUN_N else b).raiseAll 0x16 ((if code = 0x04 then [DET_STATUS_OVERRUN] else []) ++ [DET_STATUS_FAULT])

theorem Aggregator.faultShown_keeps (a : Aggregator) (inst code user pc : Nat) :
    (a.faultShown inst code user pc).det = a.det ∧ (a.faultShown inst code user pc).mem = a.mem := by
  unfold Aggregator.faultShown
  dsimp only
  split <;> simp

theorem RegFile.get_event_other (r : RegFile) {p : Nat} {f : Fld} (h : f.reg ≠ addr_PG_SEQ p) : (r.event p).get f = r.get f := by
  refine RegFile.get_congr ?_
  rw [RegFile.event, RegFile.incWrap, RegFile.word_set, if_neg h]

/-- Fields of constant place: one after a write of it, and after a write of one apart. -/
theorem RegFile.get_set_of (r : RegFile) {f : Fld} {v : Nat} (hlo : f.lo ≤ f.hi) (hhi : f.hi < 64) (hv : v < 2 ^ (f.hi + 1 - f.lo)) :
    (r.set f v).get f = v := by
  rw [RegFile.get_set r f v ⟨hlo, hhi⟩, Nat.mod_eq_of_lt hv]

theorem RegFile.get_set_apart (r : RegFile) {f g : Fld} {v : Nat} (hlo : f.lo ≤ f.hi) (hhi : f.hi < 64)
    (h : f.reg ≠ g.reg ∨ f.hi < g.lo ∨ g.hi < f.lo) : (r.set f v).get g = r.get g :=
  RegFile.get_set_other r f g v ⟨hlo, hhi⟩ h

theorem RegFile.get_inc_apart (r : RegFile) {f g : Fld} {n : Nat} (hlo : f.lo ≤ f.hi) (hhi : f.hi < 64)
    (h : f.reg ≠ g.reg ∨ f.hi < g.lo ∨ g.hi < f.lo) : (r.inc f n).get g = r.get g :=
  RegFile.get_inc_other r f g n ⟨hlo, hhi⟩ h

theorem Aggregator.faultShown_get (a : Aggregator) {inst code user pc : Nat} (hinst : inst < 256) (hcode : code < 256) (huser : user < 2 ^ 16)
    (hpc : pc < 2 ^ 32) :
    (a.faultShown inst code user pc).get DET_FAULT_INSTANCE = inst ∧ (a.faultShown inst code user pc).get DET_FAULT_CODE = code
      ∧ (a.faultShown inst code user pc).get DET_FAULT_TRAP_CODE = user ∧ (a.faultShown inst code user pc).get DET_FAULT_PC = pc
      ∧ (a.faultShown inst code user pc).get DET_STATUS_FAULT = 1 := by
  have fi (r : RegFile) : (r.set DET_FAULT_INSTANCE inst).get DET_FAULT_INSTANCE = inst := r.get_set_of (by decide) (by decide) hinst
  have fc (r : RegFile) : (r.set DET_FAULT_CODE code).get DET_FAULT_CODE = code := r.get_set_of (by decide) (by decide) hcode
  have fu (r : RegFile) : (r.set DET_FAULT_TRAP_CODE user).get DET_FAULT_TRAP_CODE = user := r.get_set_of (by decide) (by decide) huser
  have fp (r : RegFile) : (r.set DET_FAULT_PC pc).get DET_FAULT_PC = pc := r.get_set_of (by decide) (by decide) hpc
  have fs (r : RegFile) : (r.set DET_STATUS_FAULT 1).get DET_STATUS_FAULT = 1 := r.get_set_of (by decide) (by decide) (by decide)
  unfold Aggregator.faultShown
  simp only [Aggregator.get, Aggregator.raiseAll_fields, RegFile.raiseAll]
  split <;> simp (disch := decide) only [Aggregator.inc_fields, Aggregator.set_fields, List.nil_append, List.cons_append, List.foldl_cons,
    List.foldl_nil, RegFile.get_event_other, RegFile.get_set_apart, RegFile.get_inc_apart, fi, fc, fu, fp, fs, and_self]

/-- One more run of an instance, and one more fault in succession. -/
def Instance.faulted (i : Instance) (code : Nat) : Instance :=
  { i with runs := satAdd 48 i.runs 1, succFaults := satAdd 8 i.succFaults 1, faultCode := code }

/-- The core without its run, which its instance counts with the fault. -/
def Aggregator.runCounted (a : Aggregator) (c : Nat) (r : Run) (code : Nat) : Aggregator :=
  (((a.waitsNoMore c).setCore c { a.core c with run := none, blocked := .no }).inc DET_CNT0_RUNS_N).modInst r.inst (·.faulted code)

/-- The aggregator after a fault of an EPOCH instance that goes on. -/
def Aggregator.faulted (a : Aggregator) (c : Nat) (r : Run) (code user : Nat) : Aggregator :=
  (a.runCounted c r code).faultShown r.inst code user (a.core c).pc

theorem Aggregator.inst_modInst (a : Aggregator) (k : Nat) (f : Instance → Instance) : (a.modInst k f).inst k = (a.inst k).map f := by
  rw [Aggregator.inst, Aggregator.modInst, Aggregator.inst]
  simp [tabGet_mod]

theorem Aggregator.inst_runCounted (a : Aggregator) (c : Nat) (r : Run) (code : Nat) :
    (a.runCounted c r code).inst r.inst = (a.inst r.inst).map (·.faulted code) := by
  refine (Aggregator.inst_modInst _ _ _).trans ?_
  congr 1
  rw [Aggregator.inst, Aggregator.inst]
  simp [Aggregator.setCore, Aggregator.waitsNoMore_keeps]

theorem Aggregator.inst_faulted (a : Aggregator) (c : Nat) (r : Run) (code user : Nat) :
    (a.faulted c r code user).inst r.inst = (a.inst r.inst).map (·.faulted code) := by
  rw [← Aggregator.inst_runCounted, Aggregator.faulted, Aggregator.inst, (Aggregator.faultShown_keeps _ _ _ _ _).1, Aggregator.inst]

section Epoch
variable {a : Aggregator} {c code user : Nat} {r : Run} {n : Instance} (hrun : (a.core c).run = some r) (hduid : r.duid = none)
  (hinst : a.inst r.inst = some n) (hfaults : n.succFaults < 3) (hsusp : n.suspended = false) (hstop : n.stopping = false)
include hrun hduid hinst hfaults hsusp hstop

/-- A fault of a run of an EPOCH instance that goes on. -/
theorem Aggregator.endRun_epoch : a.endRun c (some (code, user)) = a.faulted c r code user := by
  have hfaulted : (a.faulted c r code user).inst r.inst = some (n.faulted code) := by rw [Aggregator.inst_faulted, hinst]; rfl
  have hfew : ¬ 4 ≤ (n.faulted code).succFaults := by
    simp only [Instance.faulted, satAdd]
    omega
  unfold Aggregator.endRun
  extract_lets k
  split
  case h_1 hnone => exact absurd (hrun.symm.trans hnone) nofun
  case h_2 x hx =>
    cases hrun.symm.trans hx
    extract_lets a2 a3 declared a4
    have recorded : a3 = a.faulted c r code user := by
      unfold a3
      split
      next hno => cases hno
      next code' user' hsome =>
      cases hsome
      extract_lets b b1 succ b2
      have stands : b1.inst r.inst = some (n.faulted code) := by
        have counted : a2 = a.runCounted c r code := rfl
        calc b1.inst r.inst = a2.inst r.inst := by
              simp only [b1, b, Aggregator.inst]
              split <;> simp only [Aggregator.inc_fields, Aggregator.set_fields]
          _ = (a.runCounted c r code).inst r.inst := by rw [counted]
          _ = some (n.faulted code) := by rw [Aggregator.inst_runCounted, hinst, Option.map_some]
      have hsucc : succ = (n.faulted code).succFaults := by
        simp only [succ]
        rw [stands]
      rw [if_neg (hsucc ▸ hfew)]
      simp only [b2, if_neg (hsucc ▸ hfew), List.append_nil, b1]
      rfl
    have ended : a4 = a.faulted c r code user := by
      simp only [a4, Aggregator.trayEnded, hduid]
      exact recorded
    rw [ended, hfaulted]
    simp [Instance.faulted, hstop, hsusp]

end Epoch

/-- Settles O4: an instruction that faults or refuses an access ends the run, and `endRun_epoch` says what that leaves. -/
theorem runsEndAsTheTableOfFaultsSays : Obligations.RunsEndAsTheTableOfFaultsSays := by
  unfold Obligations.RunsEndAsTheTableOfFaultsSays
  refine ⟨?ends, ?leaves⟩
  case ends =>
    intro s c i r h hd ha hb
    have legal (hrsv : i.rsv = false) {op : Nat} (hop : opWithin op 64 64 64 = true) (hmma : op ≠ 0x61) : i.legal op = true :=
      Insn.legal_of_within ⟨hrsv, hd, ha, hb⟩ hop fun e => absurd e hmma
    refine ⟨?reserved, ?stops, ?misaligned, ?refused⟩
    case reserved =>
      intro hrsv
      have illegal (op : Nat) : i.legal op = false := Insn.legal_reserved op i hrsv
      exact ⟨congrArg (nextAgg s) (Aggregator.alu_illegal h (illegal _) _), congrArg (nextAgg s) (s.agg.isa_illegal c 0x01 i _ r h (illegal _))⟩
    case stops =>
      intro hrsv
      exact ⟨congrArg (nextAgg s) (Aggregator.isa_go h (legal hrsv (by decide) (by decide)) rfl),
        congrArg (nextAgg s) (Aggregator.isa_stop h (legal hrsv (by decide) (by decide)) rfl)⟩
    case misaligned =>
      intro hrsv halign
      exact ⟨congrArg (nextAgg s) (Aggregator.isaLoad_misaligned h (legal hrsv (by decide) (by decide)) rfl halign),
        congrArg (nextAgg s) (Aggregator.isaStore_misaligned h (legal hrsv (by decide) (by decide)) rfl halign)⟩
    case refused =>
      intro hrsv halign hno
      exact ⟨congrArg (nextAgg s) (Aggregator.isaStore_refused h (legal hrsv (by decide) (by decide)) rfl halign hno),
        Aggregator.deny_mem _ _ _ _ _⟩
  case leaves =>
    intro a c code user r n hrun hduid hinst hfaults hsusp hstop hr hcode huser hpc a1
    have ended : a1 = a.faulted c r code user := Aggregator.endRun_epoch hrun hduid hinst hfaults hsusp hstop
    rw [ended]
    refine ⟨?core, ?mem, ?inst, Aggregator.faultShown_get _ hr hcode huser hpc⟩
    case core =>
      rw [Aggregator.core, Aggregator.faulted, (Aggregator.faultShown_keeps _ _ _ _ _).1]
      simp [Aggregator.runCounted, Aggregator.modInst, Aggregator.setCore, tabGet_put]
    case mem =>
      rw [Aggregator.faulted, (Aggregator.faultShown_keeps _ _ _ _ _).2]
      simp [Aggregator.runCounted, Aggregator.modInst, Aggregator.waitsNoMore_keeps]
    case inst =>
      rw [Aggregator.inst_faulted, hinst]
      have few : satAdd 8 n.succFaults 1 = n.succFaults + 1 := by unfold satAdd; omega
      rw [Option.map_some, Instance.faulted, few, satAdd]

end Sys2Proof.Machine
end Sequencer

section StatisticsEngines
/-!
PROOFS. The instructions of the statistics engines and of the XDE (R335 to R338, R341, R342, Tables 12-4, 12-5, 12-7, 12-8).
-/
namespace Sys2Proof.Machine

/-! ### Vector loads and stores (R335) -/

/-- The active lanes of an instruction. -/
def Insn.on (i : Insn) (s : Ste) : List Nat := (List.range 64).filter (i.active s)

section Lanes
variable {a : Aggregator} {c op : Nat} {i : Insn} {r : Run} (h : ready a c r) (hl : i.legal op = true)
include h hl

theorem Aggregator.isaVload_permitted (at_ : Core → Ste → Nat → W64)
    (hperm : ∀ l ∈ i.on ((a.core c).ste i.e), (at_ (a.core c) ((a.core c).ste i.e) l).toNat % tySize i.ty = 0
      ∧ a.runOk r false .ste (at_ (a.core c) ((a.core c).ste i.e) l).toNat (tySize i.ty) = true
      ∧ (false = false → a.poisoned (at_ (a.core c) ((a.core c).ste i.e) l).toNat (tySize i.ty) = false)) :
    a.isaVload c op i at_ = (a.touched ((i.on ((a.core c).ste i.e)).map fun l =>
        ((at_ (a.core c) ((a.core c).ste i.e) l).toNat, tySize i.ty))).setCore c
      { (a.core c).setSte i.e (((a.core c).ste i.e).setV i.d (i.lanes ((a.core c).ste i.e) fun l =>
          tyLane i.ty (leNat (memBytes a.mem (at_ (a.core c) ((a.core c).ste i.e) l).toNat (tySize i.ty))))) with pc := (a.core c).pc + 1 } := by
  have aligned : ¬ ((i.on ((a.core c).ste i.e)).any fun l =>
      decide ((at_ (a.core c) ((a.core c).ste i.e) l).toNat % tySize i.ty ≠ 0)) = true := by
    simpa using fun l hl => (hperm l hl).1
  refine Aggregator.isa_go h hl ((if_neg aligned).trans ?_)
  rw [Aggregator.access_permitted
    (fun x hx => by obtain ⟨l, hl, rfl⟩ := List.mem_map.1 hx; exact (hperm l hl).2.1)
    (fun x hx _ => by obtain ⟨l, hl, rfl⟩ := List.mem_map.1 hx; exact (hperm l hl).2.2 rfl)]
  rw [Aggregator.touched_mem, Core.next, Core.setSte_pc, List.map_map]
  rfl

theorem Aggregator.isaVst_permitted (hop : op = 0x41) {addr : Nat → Nat}
    (haddr : ∀ l, addr l = ((a.core c).xr i.a + BitVec.ofInt 64 i.imm + BitVec.ofNat 64 (l * tySize i.ty)).toNat)
    (hperm : ∀ l ∈ i.on ((a.core c).ste i.e), addr l % tySize i.ty = 0 ∧ a.runOk r true .ste (addr l) (tySize i.ty) = true) :
    a.isaVst c i = { (a.touched ((i.on ((a.core c).ste i.e)).map fun l => (addr l, tySize i.ty))).setCore c
        { a.core c with pc := (a.core c).pc + 1 } with
      mem := (i.on ((a.core c).ste i.e)).foldl (fun m l =>
        memPut m (addr l) (leBytes (tySize i.ty) ((((a.core c).ste i.e).vr i.b).getD l 0).toNat)) a.mem } := by
  subst hop
  obtain rfl : addr = _ := funext haddr
  have aligned : ¬ ((i.on ((a.core c).ste i.e)).any fun l =>
      decide (((a.core c).xr i.a + BitVec.ofInt 64 i.imm + BitVec.ofNat 64 (l * tySize i.ty)).toNat % tySize i.ty ≠ 0)) = true := by
    simpa only [List.any_eq_true, not_exists, not_and, decide_eq_true_eq, not_not] using fun l hl => (hperm l hl).1
  refine Aggregator.isa_go h hl ((if_neg aligned).trans ?_)
  rw [Aggregator.access_permitted
    (fun x hx => by obtain ⟨l, hl, rfl⟩ := List.mem_map.1 hx; exact (hperm l hl).2)
    (fun x hx hw => by obtain ⟨l, hl, rfl⟩ := List.mem_map.1 hx; cases hw)]
  rw [Aggregator.touched_mem, List.map_map]
  rfl

end Lanes

/-- Settles O8: the three loads share one lemma, whose addresses are the instruction's. -/
theorem vectorLoadsAndStoresAccessActiveLanes : Obligations.VectorLoadsAndStoresAccessActiveLanes := by
  unfold Obligations.VectorLoadsAndStoresAccessActiveLanes
  intro s c i r h hi
  have legal {op : Nat} (hop : opWithin op 32 64 32 = true) (hmma : op ≠ 0x61) : i.legal op = true :=
    Insn.legal_of_within hi hop fun e => absurd e hmma
  refine ⟨?vld, ?vlds, ?vgather, ?vst⟩
  case vld | vlds | vgather =>
    exact fun hperm => congrArg (nextAgg s) (Aggregator.isaVload_permitted h (legal (by decide) (by decide)) _ hperm)
  case vst =>
    exact fun hperm => congrArg (nextAgg s) (Aggregator.isaVst_permitted h (legal (by decide) (by decide)) rfl (fun _ => rfl)
      fun l hl => ⟨(hperm l hl).1, (hperm l hl).2.1⟩)

/-! ### Tiles (R336) -/

theorem forall_mem_pair {α : Type} {p : α → Prop} {x y : α} (hx : p x) (hy : p y) : ∀ z ∈ [x, y], p z :=
  List.forall_mem_cons.2 ⟨hx, List.forall_mem_singleton.2 hy⟩

section Tiles
variable {a : Aggregator} {c : Nat} {i : Insn} {r : Run} (h : ready a c r) (hi : fieldsBelow i 4 64 64)
include h hi

/-- Element `j` of an operand of MMA. -/
def Aggregator.tileElement (a : Aggregator) (ty p j : Nat) : FpVal :=
  tyVal ty (tyLane ty (leNat (memBytes a.mem (p + j * tySize ty) (tySize ty))))

theorem Aggregator.isaMma_permitted {pa pb n : Nat} (hpa : ((a.core c).xr i.a).toNat = pa) (hpb : ((a.core c).xr i.b).toNat = pb)
    (hn : i.imm.toNat = n) (hty : i.ty = tyBf16 ∨ i.ty = tyE4m3 ∨ i.ty = tyE5m2) (himm : 0 ≤ i.imm ∧ i.imm ≤ 65536 ∧ i.imm % 32 = 0)
    (haligned : pa % tySize i.ty = 0 ∧ pb % tySize i.ty = 0)
    (hoka : a.runOk r false .ste pa (32 * n * tySize i.ty) = true) (hokb : a.runOk r false .ste pb (32 * n * tySize i.ty) = true)
    (hcleana : a.poisoned pa (32 * n * tySize i.ty) = false) (hcleanb : a.poisoned pb (32 * n * tySize i.ty) = false) :
    a.isaMma c i = (a.touched [(pa, 32 * n * tySize i.ty), (pb, 32 * n * tySize i.ty)]).setCore c
      { (a.core c).setSte i.e (((a.core c).ste i.e).setA i.d ((List.range 1024).map fun x =>
          mmaElement ((((a.core c).ste i.e).ar i.d).getD x 0) ((List.range n).map fun t =>
            (a.tileElement i.ty pa (x / 32 * n + t), a.tileElement i.ty pb (x % 32 * n + t))) (n / 32))) with pc := (a.core c).pc + 1 } := by
  subst hpa hpb hn
  have aligned := not_or.2 ⟨not_not_intro haligned.1, not_not_intro haligned.2⟩
  refine Aggregator.isa_go h (Insn.legal_of_within hi (by decide) fun _ => himm) ((if_neg aligned).trans ?_)
  rw [Aggregator.access_permitted (forall_mem_pair hoka hokb) (forall_mem_pair (fun _ => hcleana) fun _ => hcleanb)]
  simp only [hty, decide_true, if_true, Aggregator.touched_mem, Core.next, Core.setSte_pc]
  rfl

theorem Aggregator.isaMst_fp32 {p : Nat} (hp : ((a.core c).xr i.a).toNat = p) (hty : i.ty = tyFp32) (haligned : p % 4 = 0)
    (hok : a.runOk r true .ste p 4096 = true) :
    a.isaMst c i = { (a.touched [(p, 4096)]).setCore c { a.core c with pc := (a.core c).pc + 1 } with
      mem := memPut a.mem p ((List.range 1024).flatMap fun x => leBytes 4 ((((a.core c).ste i.e).ar i.d).getD x 0)) } := by
  subst hp
  have size : tySize i.ty = 4 := by rw [hty]; rfl
  refine Aggregator.isa_go h (Insn.legal_of_within hi (by decide) fun e => absurd e (by decide))
    ((if_neg (by rw [size]; exact not_not_intro haligned)).trans ?_)
  rw [Aggregator.access_permitted (List.forall_mem_singleton.2 (by rw [size]; exact hok)) (List.forall_mem_singleton.2 (by simp [wrAt]))]
  simp only [hty, true_or, decide_true, if_true, Aggregator.touched_mem]
  rfl

end Tiles

/-! ### Log histograms (R341) -/

theorem Insn.legal_sketch {i : Insn} (hi : fieldsBelow i 32 32 32) {op : Nat} (hop : opWithin op 32 32 32 = true) (hmma : op ≠ 0x61) :
    i.legal op = true :=
  Insn.legal_of_within hi hop fun e => absurd e hmma

theorem foldl_add_zero : ∀ (l : List Nat), (∀ x ∈ l, x = 0) → l.foldl (· + ·) 0 = 0
  | [], _ => rfl
  | x :: l, h => by
    obtain ⟨hx, hl⟩ := List.forall_mem_cons.1 h
    rw [List.foldl_cons, hx]
    exact foldl_add_zero l hl

/-- A histogram that counts nothing has no quantile (R279). -/
theorem quantile_empty {fields : List Nat} (h : fields.all (· == 0) = true) (num : Nat) : quantile fields num = none := by
  have zero : ∀ x ∈ fields, x = 0 := fun x hx => by simpa using List.all_eq_true.1 h x hx
  have at_ (n : Nat) : fields.getD n 0 = 0 := by
    rw [List.getD_eq_getElem?_getD]
    cases hn : fields[n]? with
    | none => rfl
    | some v => exact zero v (List.mem_of_getElem? hn)
  refine if_pos (foldl_add_zero _ fun x hx => ?_)
  simp only [List.cons_append, List.mem_cons, List.mem_append, List.not_mem_nil, or_false] at hx
  obtain rfl | rfl | hx | rfl := hx
  · exact at_ _
  · exact at_ _
  · exact zero x (List.mem_of_mem_take hx)
  · exact at_ _

section Histograms
variable {a : Aggregator} {c : Nat} {i : Insn} {r : Run} (h : ready a c r) (hi : fieldsBelow i 32 32 32) {p : Nat}
  (hp : ((a.core c).xr i.a).toNat = p) (haligned : p % 8 = 0) (hread : a.runOk r false .ste p 8232 = true ∧ a.poisoned p 8232 = false)
include h hi hp haligned hread

theorem Aggregator.isaHins_permitted (hwrite : a.runOk r true .ste p 8232 = true) :
    a.isaHins c i = { (a.touched [(p, 8232), (p, 8232)]).setCore c { a.core c with pc := (a.core c).pc + 1 } with
      mem := memPut a.mem p (histBytes ((memBytes a.mem p 8232).take 8) ((i.on ((a.core c).ste i.e)).foldl (fun h l =>
        modAt h (histIndex (histBase (memBytes a.mem p 8232)) (tyVal i.ty ((((a.core c).ste i.e).vr i.b).getD l 0))) fun v => satAdd 64 v 1)
        (readHist (memBytes a.mem p 8232)))) } := by
  subst hp
  refine Aggregator.isa_go h (Insn.legal_sketch hi (by decide) (by decide)) ((if_neg (not_not_intro haligned)).trans ?_)
  rw [Aggregator.access_permitted (forall_mem_pair hread.1 hwrite) (forall_mem_pair (fun _ => hread.2) (by simp [wrAt]))]
  simp only [Aggregator.touched_mem]
  rfl

theorem Aggregator.isaHqnt_empty (hempty : (readHist (memBytes a.mem p 8232)).all (· == 0) = true) :
    a.isaHqnt c i = (a.touched [(p, 8232)]).setCore c { (a.core c).setX i.d 0x7FFFFFFFFFFFFFFC with pc := (a.core c).pc + 1 } := by
  subst hp
  refine Aggregator.isa_go h (Insn.legal_sketch hi (by decide) (by decide)) ((if_neg (not_not_intro haligned)).trans ?_)
  rw [Aggregator.access_permitted (List.forall_mem_singleton.2 hread.1) (List.forall_mem_singleton.2 fun _ => hread.2)]
  simp only [Aggregator.touched_mem, quantile_empty hempty, Core.next, Core.setX_pc]
  rfl

theorem Aggregator.isaHmrg_permitted {q : Nat} (hq : ((a.core c).xr i.b).toNat = q) (hwrite : a.runOk r true .ste p 8232 = true)
    (halignedq : q % 8 = 0) (hreadq : a.runOk r false .ste q 8232 = true ∧ a.poisoned q 8232 = false) :
    a.isaHmrg c i = if histBase (memBytes a.mem p 8232) ≠ histBase (memBytes a.mem q 8232) then a.endRun c (some (0x06, 0)) else
      { (a.touched [(p, 8232), (p, 8232), (q, 8232)]).setCore c { a.core c with pc := (a.core c).pc + 1 } with
        mem := memPut a.mem p (histBytes ((memBytes a.mem p 8232).take 8)
          (((readHist (memBytes a.mem p 8232)).zip (readHist (memBytes a.mem q 8232))).map fun e => satAdd 64 e.1 e.2)) } := by
  subst hp hq
  have legal : i.legal 0x71 = true := Insn.legal_sketch hi (by decide) (by decide)
  have aligned := not_or.2 ⟨not_not_intro haligned, not_not_intro halignedq⟩
  have granted := Aggregator.access_permitted (a := a) (r := r) (q := .ste) (l := [rdAt _ 8232, wrAt _ 8232, rdAt _ 8232]) (List.forall_mem_cons.2 ⟨hread.1, forall_mem_pair hwrite hreadq.1⟩)
    (List.forall_mem_cons.2 ⟨fun _ => hread.2, forall_mem_pair (fun e => nomatch e) fun _ => hreadq.2⟩)
  split
  case isTrue hbase =>
    refine Aggregator.isa_stop h legal ((if_neg aligned).trans ((granted _).trans ?_))
    simp only [Aggregator.touched_mem]
    exact if_pos hbase
  case isFalse hbase =>
    refine Aggregator.isa_go h legal ((if_neg aligned).trans ((granted _).trans ?_))
    simp only [Aggregator.touched_mem]
    exact if_neg hbase

end Histograms

/-! ### Count-min sketches (R342) -/

section Sketches
variable {a : Aggregator} {r : Run} {p : Nat} (haligned : p % 8 = 0)
  (hread : a.runOk r false .ste p 144 = true ∧ a.poisoned p 144 = false)
include haligned hread

theorem Aggregator.sketch_read {d w : Nat} {rows : List (Nat × Nat)} (hhead : readSketch (memBytes a.mem p 144) = some (d, w, rows))
    (hall : a.runOk r false .ste p (sketchLen d w) = true ∧ a.poisoned p (sketchLen d w) = false) (f : Aggregator → Nat → List (Nat × Nat) → IsaRes) :
    a.sketch r false p f = f (a.touched [(p, 144), (p, sketchLen d w)]) w rows := by
  have same := a.powersTo_touched [(p, 144)]
  refine (if_neg (not_not_intro haligned)).trans ?_
  refine (Aggregator.access_permitted (List.forall_mem_singleton.2 hread.1) (List.forall_mem_singleton.2 fun _ => hread.2) _).trans ?_
  simp only [List.map_cons, List.map_nil, rdAt, Aggregator.touched_mem, hhead]
  refine (Aggregator.access_permitted (List.forall_mem_singleton.2 ((same.runOk ..).trans hall.1))
    (List.forall_mem_singleton.2 fun _ => (same.poisoned _ _).trans hall.2) _).trans ?_
  rw [Aggregator.touched_append]
  rfl

theorem Aggregator.sketch_written (hwrite : a.runOk r true .ste p 144 = true) {d w : Nat} {rows : List (Nat × Nat)}
    (hhead : readSketch (memBytes a.mem p 144) = some (d, w, rows))
    (hall : a.runOk r false .ste p (sketchLen d w) = true ∧ a.poisoned p (sketchLen d w) = false)
    (hwrites : a.runOk r true .ste p (sketchLen d w) = true) (f : Aggregator → Nat → List (Nat × Nat) → IsaRes) :
    a.sketch r true p f = f (a.touched [(p, 144), (p, 144), (p, sketchLen d w), (p, sketchLen d w)]) w rows := by
  have same := a.powersTo_touched [(p, 144), (p, 144)]
  refine (if_neg (not_not_intro haligned)).trans ?_
  refine (Aggregator.access_permitted (forall_mem_pair hread.1 hwrite) (forall_mem_pair (fun _ => hread.2) (by simp [wrAt])) _).trans ?_
  simp only [List.map_cons, List.map_nil, rdAt, wrAt, Aggregator.touched_mem, hhead]
  refine (Aggregator.access_permitted (forall_mem_pair ((same.runOk ..).trans hall.1) ((same.runOk ..).trans hwrites))
    (forall_mem_pair (fun _ => (same.poisoned _ _).trans hall.2) (by simp)) _).trans ?_
  rw [Aggregator.touched_append]
  rfl

theorem Aggregator.sketch_broken (hhead : readSketch (memBytes a.mem p 144) = none) (f : Aggregator → Nat → List (Nat × Nat) → IsaRes) :
    a.sketch r false p f = .stop 0x06 0 := by
  refine (if_neg (not_not_intro haligned)).trans ?_
  refine (Aggregator.access_permitted (List.forall_mem_singleton.2 hread.1) (List.forall_mem_singleton.2 fun _ => hread.2) _).trans ?_
  simp only [Aggregator.touched_mem, hhead]

end Sketches

/-- Settles O11: by the lemma of each instruction's permitted accesses. -/
theorem tileAndSketchInstructions : Obligations.TileAndSketchInstructions := by
  unfold Obligations.TileAndSketchInstructions
  refine ⟨fun s c i r h hi => ⟨?mzero, ?mact, ?mma, ?mst⟩, fun s c i r h hi => ⟨?hins, ?hqnt, ?cmsadd, ?cmsq, ?broken, ?misaligned⟩⟩
  case mzero | mact =>
    refine congrArg (nextAgg s) ((Aggregator.isaCore_goes h (Insn.legal_of_within hi (by decide) fun e => absurd e (by decide)) _).trans ?_)
    rw [Core.next, Core.setSte_pc]
  case mma =>
    intro hty hlow hhigh hgroups hpa hpb hoka hokb hcleana hcleanb
    exact congrArg (nextAgg s) (Aggregator.isaMma_permitted h hi rfl rfl rfl hty ⟨hlow, hhigh, hgroups⟩ ⟨hpa, hpb⟩ hoka hokb hcleana hcleanb)
  case mst => exact fun hty hp hok => congrArg (nextAgg s) (Aggregator.isaMst_fp32 h hi rfl hty hp hok)
  case hins =>
    refine fun hp hread hwrite => ⟨congrArg (nextAgg s) (Aggregator.isaHins_permitted h hi rfl hp hread hwrite), fun hq hreadq => ⟨?_, ?_⟩⟩
    · exact fun hbase => congrArg (nextAgg s)
        ((Aggregator.isaHmrg_permitted h hi rfl hp hread rfl hwrite hq hreadq).trans (if_neg (not_not_intro hbase)))
    · exact fun hbase => congrArg (nextAgg s) ((Aggregator.isaHmrg_permitted h hi rfl hp hread rfl hwrite hq hreadq).trans (if_pos hbase))
  case hqnt => exact fun hp hread hempty => congrArg (nextAgg s) (Aggregator.isaHqnt_empty h hi rfl hp hread hempty)
  case cmsadd =>
    rintro d w rows ⟨hp, hread, hhead, hall⟩ hwrite hwrites
    refine congrArg (nextAgg s) (Aggregator.isa_go h (Insn.legal_sketch hi (by decide) (by decide)) ?_)
    refine (Aggregator.sketch_written hp hread hwrite hhead hall hwrites _).trans ?_
    rw [Aggregator.touched_mem]
    rfl
  case cmsq =>
    rintro d w rows ⟨hp, hread, hhead, hall⟩
    refine congrArg (nextAgg s) (Aggregator.isa_go h (Insn.legal_sketch hi (by decide) (by decide)) ?_)
    refine (Aggregator.sketch_read hp hread hhead hall _).trans ?_
    simp only [Aggregator.touched_mem, Core.next, Core.setSte_pc]
    rfl
  case broken =>
    exact fun hp hread hhead => congrArg (nextAgg s)
      (Aggregator.isa_stop h (Insn.legal_sketch hi (by decide) (by decide)) (Aggregator.sketch_broken hp hread hhead _))
  case misaligned =>
    exact fun hp => congrArg (nextAgg s) (Aggregator.isa_stop h (Insn.legal_sketch hi (by decide) (by decide)) (if_pos hp))

/-! ### The exact-dot engine (R337) -/

section Exact
variable {a : Aggregator} {c op : Nat} {i : Insn} {r : Run} (h : ready a c r) (hl : i.legal op = true)
include h hl

/-- While the audit engine has the core's dot engine, an instruction of it ends the run (R299). -/
theorem Aggregator.isaXde_busy (hmask : a.inMask c = true) (f : Core → Run → IsaRes) : a.isaXde c op i f = a.endRun c (some (0x05, 0)) :=
  Aggregator.isa_stop h hl (if_pos hmask)

theorem Aggregator.isaXde_goes (hmask : a.inMask c = false) {f : Core → Run → IsaRes} {b : Aggregator} (hf : f (a.core c) r = .go b) :
    a.isaXde c op i f = b :=
  Aggregator.isa_go h hl ((if_neg (by simp [hmask])).trans hf)

end Exact

@[simp] theorem Core.setPair_pc (k : Core) (n : Nat) (s t : Int) : (k.setPair n s t).pc = k.pc := rfl

/-- The active lanes' parts, each a whole number of units. -/
theorem laneParts_eq {l : List Nat} {f : Nat → Option Int} {v : Nat → Int} (h : ∀ n ∈ l, f n = some (v n)) :
    ((l.map f).any fun p => p.isNone) = false ∧ (l.map f).map (fun p => p.getD 0) = l.map v := by
  constructor
  · simp only [List.any_eq_false, List.mem_map]
    rintro _ ⟨n, hn, rfl⟩
    simp [h n hn]
  · rw [List.map_map]
    exact List.map_congr_left fun n hn => by simp [h n hn]

/-- Settles O12: XDE-BUSY comes before all else; then by each instruction's own effect. -/
theorem exactDotInstructions : Obligations.ExactDotInstructions := by
  unfold Obligations.ExactDotInstructions
  intro s c i r h hi
  have legal {op : Nat} (hop : opWithin op 64 32 64 = true) (hmma : op ≠ 0x61) : i.legal op = true :=
    Insn.legal_of_within hi hop fun e => absurd e hmma
  have busy {op : Nat} (hop : opWithin op 64 32 64 = true) (hmma : op ≠ 0x61) (hmask : s.agg.inMask c = true) (f : Core → Run → IsaRes) :
      nextAgg s (s.agg.isaXde c op i f) = nextAgg s (s.agg.endRun c (some (0x05, 0))) :=
    congrArg (nextAgg s) (Aggregator.isaXde_busy h (legal hop hmma) hmask f)
  refine ⟨fun hmask => ⟨?_, ?_, ?_, ?_⟩, fun hmask => ⟨?xclr, ?xaddv, ?xdot, ?xrd⟩⟩
  iterate 4 exact busy (by decide) (by decide) hmask _
  case xclr => exact congrArg (nextAgg s) (Aggregator.isaXde_goes h (legal (by decide) (by decide)) hmask rfl)
  case xaddv =>
    intro v hty hv
    have parts := laneParts_eq (l := (List.range 64).filter (i.active ((s.agg.core c).ste i.e)))
      (f := fun n => if decide (i.ty = tyFp32 ∨ i.ty = tyFp64 ∨ i.ty = tyI64) then laneUnits (tyVal i.ty ((((s.agg.core c).ste i.e).vr i.a).getD n 0))
        else none) (v := v) fun n hn => by
      obtain ⟨hlt, hactive⟩ := List.mem_filter.1 hn
      simp only [hty, decide_true, if_true]
      exact hv n (List.mem_range.1 hlt) hactive
    refine congrArg (nextAgg s) (Aggregator.isaXde_goes h (legal (by decide) (by decide)) hmask ?_)
    refine (if_neg (by rw [parts.1]; decide)).trans ?_
    simp only [parts.2, List.foldl_map]
    rfl
  case xdot =>
    intro f hf n q x pr hp hq hcleanp hcleanq hnan hpinf hninf
    have finite : ¬ (x.nan = true ∨ x.pinf = true ∨ x.ninf = true) := by simp [hnan, hpinf, hninf]
    refine congrArg (nextAgg s) (Aggregator.isaXde_goes h (legal (op := 0xA1) (by decide) (by decide)) hmask ?_)
    simp only [hf]
    refine (Aggregator.access_permitted (forall_mem_pair hp hq) (forall_mem_pair (fun _ => hcleanp) fun _ => hcleanq) _).trans ?_
    rw [Aggregator.touched_mem]
    exact if_neg finite
  case xrd =>
    intro hp hok
    refine congrArg (nextAgg s) (Aggregator.isaXde_goes h (legal (by decide) (by decide)) hmask ((if_neg (not_not_intro hp)).trans ?_))
    refine (Aggregator.access_permitted (List.forall_mem_singleton.2 hok) (List.forall_mem_singleton.2 (by simp [wrAt])) _).trans ?_
    simp only [Aggregator.touched_mem, Core.next, Core.setX_pc]
    rfl

end Sys2Proof.Machine
end StatisticsEngines

section InterruptRise
/-!
PROOFS. What follows every event of the aggregator (R385, R454).
-/
namespace Sys2Proof.Machine

/-- The ledger of a job that has ended: the free of its step 7 waits for a query to end (R385). -/
def endedLedger : Ledger :=
  { job := 1, gen := 0, home := 0, recs := [], counts := [], steps := [(7, { StepState.init with freeing := some false })], mapVer := 0, maps := [] }

/-- An aggregator without jobs, commands and events that holds it. -/
def endedJob : Aggregator := { Aggregator.blank with led := { LedgerUnit.init with ledgers := [endedLedger] } }

theorem endedJob_settled : endedJob.settle.settleBoot = endedJob := by
  rw [Aggregator.settle_noJobs rfl]
  rfl

theorem endedJob_freed : endedJob.settleFrees.led.ledgers = [] := by rfl

theorem Aggregator.signalIrq_led (old a : Aggregator) : (Aggregator.signalIrq old a).led = a.led := by
  unfold Aggregator.signalIrq
  split <;> rfl

theorem endedJob_after (hfail : endedJob.inFailover = false) : (Aggregator.after endedJob endedJob).led.ledgers = [] := by
  unfold Aggregator.after
  simp only [hfail, Bool.false_eq_true, false_and, if_false, Aggregator.signalIrq_led, endedJob_settled, endedJob_freed]

/-- Refutes O60: a free that waited for a query is carried out after an event, so that an event without jobs, commands, management events and
failover may change more than the interrupt. -/
theorem not_interruptsSignalOnARise : ¬ Obligations.InterruptsSignalOnARise := by
  unfold Obligations.InterruptsSignalOnARise
  rintro ⟨-, -, -, signals, -, -⟩
  have hfail : endedJob.inFailover = false := by decide +kernel
  have stands := congrArg (fun a : Aggregator => a.led.ledgers) (signals endedJob endedJob rfl rfl rfl (fun t e => nomatch e) hfail)
  have left := stands.symm.trans (endedJob_after hfail)
  split at left
  · exact nomatch left
  · exact nomatch left

end Sys2Proof.Machine
end InterruptRise

section RecorderOperations
/-!
PROOFS. The operations of an event recorder of either part (R481 to R489): what each leaves of its part's registers and of the recorder.
-/
namespace Sys2Proof.Machine

/-! ### The page of a recorder -/

theorem Fld.onPage_page (f : Fld) (p : Nat) : (f.onPage p).reg / 4096 = p := by
  show (p * 4096 + f.reg % 4096) / 4096 = p
  omega

/-- An operation of a recorder changes no register off its page. -/
structure RecView.Within (v w : RecView) : Prop where
  page : w.page = v.page
  ctx : w.ctx = v.ctx
  words : v.page < 16 → ∀ k, k / 4096 ≠ v.page → w.regs.word k = v.regs.word k

namespace RecView.Within
variable {v w x : RecView}

theorem refl (v : RecView) : v.Within v := ⟨rfl, rfl, fun _ _ _ => rfl⟩

theorem trans (h : v.Within w) (g : w.Within x) : v.Within x :=
  ⟨g.page.trans h.page, g.ctx.trans h.ctx,
    fun hp k hk => (g.words (h.page ▸ hp) k (h.page ▸ hk)).trans (h.words hp k hk)⟩

theorem foldl {β : Type} {f : RecView → β → RecView} (hf : ∀ (v : RecView) (b : β), v.Within (f v b)) : ∀ (l : List β) (v : RecView), v.Within (l.foldl f v)
  | [], v => refl v
  | b :: l, v => (hf v b).trans (foldl hf l (f v b))

theorem modR (v : RecView) (f : Recorder → Recorder) : v.Within (v.modR f) := ⟨rfl, rfl, fun _ _ _ => rfl⟩

theorem of_regs (v : RecView) {r : RegFile} (h : v.page < 16 → ∀ k, k / 4096 ≠ v.page → r.word k = v.regs.word k) :
    v.Within { v with regs := r } := ⟨rfl, rfl, h⟩

theorem set (v : RecView) (f : Fld) (n : Nat) : v.Within (v.set f n) :=
  of_regs v fun _ k hk => (RegFile.word_set _ _ _ _).trans (if_neg fun e => hk (by rw [e, Fld.onPage_page]))

theorem inc (v : RecView) (f : Fld) : v.Within (v.inc f) := by
  unfold RecView.inc RegFile.inc
  exact of_regs v fun _ k hk => (RegFile.word_set _ _ _ _).trans (if_neg fun e => hk (by rw [e, Fld.onPage_page]))

theorem raise (v : RecView) (f : Fld) : v.Within (v.raise f) := by
  unfold RecView.raise
  refine of_regs v fun hp k hk => RegFile.word_raise _ _ (fun e => hk (by rw [e, Fld.onPage_page])) fun e => hk ?_
  have off : ¬ indBase ≤ (f.onPage v.page).reg := by
    show ¬ 0x10000000000 ≤ v.page * 4096 + f.reg % 4096
    omega
  rw [e, pageOf, if_neg off, Fld.onPage_page]
  show (v.page * 4096 + 0x8) / 4096 = v.page
  omega

theorem produce (v : RecView) (r : RecIn) : v.Within (v.produce r) := by
  unfold RecView.produce
  split
  · exact refl v
  · split
    · exact modR v _
    · exact (inc v _).trans (raise _ _)

theorem write (v : RecView) (r : RecIn) : v.Within (v.write r) := (modR v _).trans (set _ _ _)

theorem writeAll (v : RecView) : v.Within v.writeAll := (foldl write _ v).trans (modR _ _)

theorem record (v : RecView) (code : Nat) (data : List Byte) : v.Within (v.record code data) := produce v _

theorem recordSupply (v : RecView) (code : Nat) : v.Within (v.recordSupply code) := (record v _ _).trans (modR _ _)

theorem recordLimited (v : RecView) (code key : Nat) (data : List Byte) : v.Within (v.recordLimited code key data) := by
  unfold RecView.recordLimited
  split
  · exact refl v
  · dsimp only
    split
    · exact (modR v _).trans (produce _ _)
    · exact ((modR v _).trans (inc _ _)).trans (raise _ _)

theorem startFlush (v : RecView) (cause : Nat) : v.Within (v.startFlush cause) :=
  (((((modR v _).trans (set _ _ _)).trans (set _ _ _)).trans (set _ _ _)).trans (set _ _ _)).trans ((set _ _ _).trans (inc _ _))

theorem abandonFlush (v : RecView) : v.Within v.abandonFlush := by
  unfold RecView.abandonFlush
  split
  · exact refl v
  · exact (((modR v _).trans (set _ _ _)).trans (inc _ _)).trans (raise _ _)

theorem nextSlot (v : RecView) (f : Flush) : v.Within (v.nextSlot f) := by
  unfold RecView.nextSlot
  extract_lets done v1 v2 slot older f'
  have committed : v.Within v1 := set v _ _
  split
  · exact ((committed.trans (modR _ _)).trans (raise _ _)).trans (startFlush _ _)
  · split
    · have ended : v.Within v2 := ((committed.trans (modR _ _)).trans (set _ _ _)).trans (raise _ _)
      split
      · exact (ended.trans (modR _ _)).trans (startFlush _ _)
      · exact ended
    · exact committed.trans (modR _ _)

theorem slotDone (v : RecView) : v.Within v.slotDone := by
  unfold RecView.slotDone
  split
  · exact refl v
  · exact (foldl (fun _ _ => modR _ _) _ v).trans (nextSlot _ _)

theorem pageDone (v : RecView) : v.Within v.pageDone := foldl (fun v _ => slotDone v) _ v

theorem supplyWarn (v : RecView) (ready : Bool) : v.Within (v.supplyWarn ready) := by
  have recorded := ((writeAll v).trans (recordSupply _ rcSupplyWarn)).trans (writeAll _)
  unfold RecView.supplyWarn
  dsimp only
  split
  · split <;> exact recorded.trans (modR _ _)
  · split
    · exact recorded.trans (startFlush _ _)
    · exact recorded.trans (raise _ _)

end RecView.Within

/-- The die unit's registers off page 0xD. -/
theorem DieUnit.withRec_word (d : DieUnit) {q : Nat} {w : RecView} (h : (d.recView q).Within w) {k : Nat} (hk : k / 4096 ≠ 0xD) :
    (d.withRec w).regs.word k = d.regs.word k :=
  h.words (show 0xD < 16 by decide) k hk

/-- The aggregator's registers off page 0x003. -/
theorem Aggregator.withRec_word (a : Aggregator) {w : RecView} (h : a.recView.Within w) {k : Nat} (hk : k / 4096 ≠ 0x3) :
    (a.withRec w).regs.word k = a.regs.word k :=
  h.words (show 0x3 < 16 by decide) k hk

/-! ### The recorder itself -/

@[simp] theorem RecView.modR_rc (v : RecView) (f : Recorder → Recorder) : (v.modR f).rc = f v.rc := by cases v; rfl
@[simp] theorem RecView.modR_regs (v : RecView) (f : Recorder → Recorder) : (v.modR f).regs = v.regs := by cases v; rfl
@[simp] theorem RecView.modR_page (v : RecView) (f : Recorder → Recorder) : (v.modR f).page = v.page := by cases v; rfl
@[simp] theorem RecView.set_rc (v : RecView) (f : Fld) (n : Nat) : (v.set f n).rc = v.rc := by cases v; rfl
@[simp] theorem RecView.set_regs (v : RecView) (f : Fld) (n : Nat) : (v.set f n).regs = v.regs.set (f.onPage v.page) n := by cases v; rfl
@[simp] theorem RecView.set_page (v : RecView) (f : Fld) (n : Nat) : (v.set f n).page = v.page := by cases v; rfl
@[simp] theorem RecView.inc_rc (v : RecView) (f : Fld) : (v.inc f).rc = v.rc := by cases v; rfl
@[simp] theorem RecView.raise_rc (v : RecView) (f : Fld) : (v.raise f).rc = v.rc := by cases v; rfl

/-- A record joins the queue or is dropped; nothing else of the recorder changes. -/
theorem RecView.produce_rc (v : RecView) (r : RecIn) : (v.produce r).rc = { v.rc with queue := (v.produce r).rc.queue } := by
  unfold RecView.produce
  split
  · rfl
  · split
    · rfl
    · simp

theorem RecView.recordSupply_rc (v : RecView) (code : Nat) : (v.recordSupply code).rc
    = { v.rc with queue := (v.recordSupply code).rc.queue, lastSupply := v.ctx.mono } := by
  have joined := v.produce_rc (v.ctx.record code 0 0 (leBytes 8 (v.ctx.mono - v.rc.lastSupply)))
  unfold RecView.recordSupply RecView.record
  rw [RecView.modR_rc, joined]

theorem RecView.write_rc (v : RecView) (r : RecIn) : (v.write r).rc
    = { v.rc with ring := tabPut v.rc.ring (v.get REC_HEAD_HEAD % 1024) (sealed (r.body (v.get REC_HEAD_HEAD)) 0) } := by
  unfold RecView.write
  simp only [RecView.set_rc, RecView.modR_rc]

theorem RecView.writes_rc : ∀ (l : List RecIn) (v : RecView), (l.foldl (fun v r => v.write r) v).rc
    = { v.rc with ring := (l.foldl (fun v r => v.write r) v).rc.ring }
  | [], _ => rfl
  | r :: l, v => by
    rw [List.foldl_cons, RecView.writes_rc l (v.write r), RecView.write_rc]

/-- Everything queued goes to the ring. -/
theorem RecView.writeAll_rc (v : RecView) : v.writeAll.rc = { v.rc with ring := v.writeAll.rc.ring, queue := [] } := by
  unfold RecView.writeAll
  rw [RecView.modR_rc, RecView.writes_rc]

theorem RecView.startFlush_rc (v : RecView) (cause : Nat) : ∃ f : Flush, (v.startFlush cause).rc = { v.rc with flush := some f, trigger := none }
    ∧ f.cause = cause ∧ f.id = (v.get REC_FLUSH_LAST_ID + 1) % 2 ^ 32 ∧ f.bank = v.rc.targetBank ∧ f.slot = 0 ∧ f.word = 0 :=
  ⟨_, rfl, rfl, rfl, rfl, rfl, rfl⟩

theorem RecView.abandonFlush_rc (v : RecView) : v.abandonFlush.rc = { v.rc with flush := none } := by
  unfold RecView.abandonFlush
  split
  next h => rw [← h]
  next => rfl

end Sys2Proof.Machine
end RecorderOperations

section RecorderStatements
/-!
PROOFS. The recorder writes its ring, refills its buckets and begins its flushes (R484 to R488).
-/
namespace Sys2Proof.Machine

theorem Fld.fits_onPage {f : Fld} (h : f.fits) (p : Nat) : (f.onPage p).fits := h

theorem DieUnit.withRec_same {d : DieUnit} {q : Nat} {v : RecView} (h : v = d.recView q) : d.withRec v = d := by
  subst h
  cases d
  rfl

theorem Aggregator.withRec_same {a : Aggregator} {v : RecView} (h : v = a.recView) : a.withRec v = a := by
  subst h
  cases a
  rfl

theorem DieUnit.withRec_recd (d : DieUnit) (v : RecView) : (d.withRec v).recd = v.rc := rfl
theorem Aggregator.withRec_recd (a : Aggregator) (v : RecView) : (a.withRec v).recd = v.rc := rfl

/-- The fields of a recorder's page as its part has them. -/
theorem DieUnit.recView_get (d : DieUnit) (q : Nat) {f : Fld} (hf : f.onPage 0xD = f) : (d.recView q).get f = d.get f :=
  congrArg d.regs.get hf
theorem DieUnit.recView_on (d : DieUnit) (q : Nat) {f : Fld} (hf : f.onPage 0xD = f) : (d.recView q).on f = d.on f :=
  congrArg d.regs.on hf
theorem DieUnit.withRec_get (d : DieUnit) {v : RecView} (hv : v.page = 0xD) {f : Fld} (hf : f.onPage 0xD = f) : (d.withRec v).get f = v.get f := by
  rw [RecView.get, hv, hf]
  rfl
theorem DieUnit.recView_burst (d : DieUnit) (q : Nat) : (d.recView q).burst = max 1 (d.get REC_CTRL_BURST) := by
  rw [RecView.burst, d.recView_get q (by decide)]
theorem DieUnit.recView_period (d : DieUnit) (q : Nat) : (d.recView q).period = max 1 (d.get REC_CTRL_PERIOD) * 100000 := by
  rw [RecView.period, d.recView_get q (by decide)]
theorem Aggregator.recView_get (a : Aggregator) (f : Fld) : a.recView.get f = a.get (f.onPage 3) := rfl
theorem RecView.modR_get (v : RecView) (g : Recorder → Recorder) (f : Fld) : (v.modR g).get f = v.get f := rfl

theorem RecView.writeNext_empty {v : RecView} (h : v.rc.queue = []) : v.writeNext = v := by
  unfold RecView.writeNext
  rw [h]

theorem RecView.writeNext_some {v : RecView} {r : RecIn} {rest : List RecIn} (h : v.rc.queue = r :: rest) :
    v.writeNext = (v.modR fun c => { c with queue := rest }).write r := by
  unfold RecView.writeNext
  rw [h]

theorem RecView.write_head (v : RecView) (r : RecIn) : (v.write r).get REC_HEAD_HEAD = (v.get REC_HEAD_HEAD + 1) % 2 ^ 32 :=
  RegFile.get_set _ _ _ (Fld.fits_onPage ⟨by decide, by decide⟩ _)

theorem RecView.refill_unused {v : RecView} {i : Nat} (h : tabGet v.rc.buckets i = none) : v.refill i = v := by
  unfold RecView.refill
  rw [h]

/-- A bucket that counts no suppression gains a token when its period has passed. -/
theorem RecView.refill_gains {v : RecView} {i : Nat} {b : Bucket} {burst period : Nat} (hburst : v.burst = burst) (hperiod : v.period = period)
    (h : tabGet v.rc.buckets i = some b) (hroom : b.tokens < burst) (hcount : b.count = 0) (hdue : b.at_ + period ≤ v.ctx.mono) :
    v.refill i = v.modR fun c => { c with buckets := tabPut c.buckets i { b with tokens := b.tokens + 1, at_ := b.at_ + period } } := by
  subst hburst hperiod
  unfold RecView.refill
  simp only [h, hcount, ne_eq, not_true_eq_false, decide_false, Bool.and_false, Bool.false_eq_true, if_false]
  exact if_neg (by omega)

theorem RecView.beginFault_idle {v : RecView} (h : v.rc.trigger = none) : v.beginFault = v := by
  unfold RecView.beginFault
  simp only [h]

theorem RecView.beginFault_due {v : RecView} {cause : Nat} (h : v.rc.trigger = some cause) (hnone : v.rc.flush = none) :
    v.beginFault = (v.startFlush cause).modR fun c => { c with lastFault := some v.ctx.mono } := by
  unfold RecView.beginFault
  simp only [h, hnone]

theorem RecView.beginQueued_due {v : RecView} {cause : Nat} (h : v.rc.queued = some cause) (hnone : v.rc.flush = none) :
    v.beginQueued = (v.startFlush cause).modR fun c => { c with lastFault := some v.ctx.mono, queued := none } := by
  unfold RecView.beginQueued
  simp only [h, hnone]

theorem DieUnit.flushOp_uncritical {d : DieUnit} (h : d.on DU_SAG_CRIT_NOW = false) (f : RecView → RecView) :
    d.flushOp f = d.withRec (f (d.recView 0)) :=
  if_neg (by simp [h])

theorem DieUnit.flushOp_critical {d : DieUnit} (h : d.on DU_SAG_CRIT_NOW = true) (f : RecView → RecView) : d.flushOp f = d := if_pos h

/-- An operation that leaves the recorder leaves the die unit. -/
theorem DieUnit.flushOp_same {d : DieUnit} {f : RecView → RecView} (h : f (d.recView 0) = d.recView 0) : d.flushOp f = d := by
  unfold DieUnit.flushOp DieUnit.recOp
  rw [DieUnit.withRec_same h, ite_self]

/-- A flush of the aggregator needs a bank that is ready (R488). -/
theorem Aggregator.flushWith_unready {a : Aggregator} (h : a.on (REC_STATUS_BANK_READY.onPage 3) = false) (f : RecView → RecView) :
    a.flushWith f = a :=
  if_pos (.inr (by simp [h]))

theorem Aggregator.flushWith_begins {a : Aggregator} (h : a.on (REC_STATUS_BANK_READY.onPage 3) = true) (hnone : a.recd.flush = none)
    {f : RecView → RecView} {x : Flush} (hx : (f a.recView).rc.flush = some x) :
    a.flushWith f = (a.withRec (f a.recView)).set (REC_STATUS_BANK_READY.onPage 3) 0 := by
  refine (if_neg (by simp [h, hnone])).trans (if_pos ?_)
  show (f a.recView).rc.flush.isSome = true
  rw [hx]
  rfl

theorem Recorder.eraseBank_ring (c : Recorder) (bank : Nat) : (c.eraseBank bank).ring = c.ring := rfl

/-- A bank that has been erased is ready. -/
theorem Aggregator.bankErased_done {a : Aggregator} (h : a.erasing = true) (hnone : a.recd.flush = none) (hwrites : a.on PWR_SAG_WRITES_STOPPED = false) :
    a.bankErased
      = { a.modRec (fun c => c.eraseBank c.targetBank) with erasing := false }.set (REC_STATUS_BANK_READY.onPage 0x3) 1 :=
  if_neg (by simp [h, hnone, hwrites])

/-- Settles O33: each clause by the lemma of the recorder's operation, at the die unit's page and at the aggregator's. -/
theorem theRecorderWritesItsRing : Obligations.TheRecorderWritesItsRing := by
  unfold Obligations.TheRecorderWritesItsRing
  intro s r rest i cause b
  refine ⟨?duEmpty, ?aggEmpty, ?duWrites, ?aggWrites, ?duUnused, ?duGains, ?aggUnused, ?duFault, ?duIdle, ?duQueued, ?aggUnready, ?aggFault,
    ?aggQueued, ?notErasing, ?erased⟩
  case duEmpty => exact fun h => congrArg (nextDu s) (DieUnit.withRec_same (RecView.writeNext_empty h))
  case aggEmpty => exact fun h => congrArg (nextAgg s) (Aggregator.withRec_same (RecView.writeNext_empty h))
  case duWrites =>
    intro h
    have hrc := ((s.du.recView 0).modR fun c => { c with queue := rest }).write_rc r
    rw [RecView.modR_get, DieUnit.recView_get _ _ (by decide)] at hrc
    refine ⟨_, congrArg (fun v => nextDu s (s.du.withRec v)) (RecView.writeNext_some (v := s.du.recView 0) h), ?_, ?_, fun k hk => ?_, ?_, ?_⟩
    · rw [DieUnit.withRec_recd, hrc]
      rfl
    · rw [DieUnit.withRec_recd, hrc]
      exact (tabGet_put _ _ _ _).trans (if_pos rfl)
    · rw [DieUnit.withRec_recd, hrc]
      exact (tabGet_put _ _ _ _).trans (if_neg hk)
    · rw [DieUnit.withRec_get _ rfl (by decide), RecView.write_head, RecView.modR_get, DieUnit.recView_get _ _ (by decide)]
    · rw [DieUnit.withRec_recd, hrc]
      rfl
  case aggWrites =>
    intro h
    have hrc := (s.agg.recView.modR fun c => { c with queue := rest }).write_rc r
    rw [RecView.modR_get, Aggregator.recView_get] at hrc
    refine ⟨_, congrArg (fun v => nextAgg s (s.agg.withRec v)) (RecView.writeNext_some (v := s.agg.recView) h), ?_, ?_⟩
    · rw [Aggregator.withRec_recd, hrc]
      rfl
    · rw [Aggregator.withRec_recd, hrc]
      exact (tabGet_put _ _ _ _).trans (if_pos rfl)
  case duUnused => exact fun h => congrArg (nextDu s) (DieUnit.withRec_same (RecView.refill_unused h))
  case duGains =>
    intro h hroom hcount hdue
    refine ⟨_, congrArg (fun v => nextDu s (s.du.withRec v))
      (RecView.refill_gains (s.du.recView_burst 0) (s.du.recView_period 0) h hroom hcount hdue), ?_, rfl, rfl⟩
    exact (tabGet_put _ _ _ _).trans (if_pos rfl)
  case aggUnused => exact fun h => congrArg (nextAgg s) (Aggregator.withRec_same (RecView.refill_unused h))
  case duFault =>
    intro hcrit htrig hnone
    obtain ⟨f, hrc, hcause, hid, hbank, hslot, hword⟩ := (s.du.recView 0).startFlush_rc cause
    rw [DieUnit.recView_get _ _ (by decide)] at hid
    have hexec := (DieUnit.flushOp_uncritical hcrit _).trans (congrArg s.du.withRec (RecView.beginFault_due (v := s.du.recView 0) htrig hnone))
    refine ⟨_, f, congrArg (nextDu s) hexec, ?_, hcause, hid, hbank, hslot, hword, ?_, rfl, ?_⟩
    · exact congrArg (·.flush) hrc
    · exact congrArg (·.trigger) hrc
    · exact congrArg (·.area) hrc
  case duIdle => exact fun h => congrArg (nextDu s) (DieUnit.flushOp_same (RecView.beginFault_idle h))
  case duQueued =>
    intro hcrit hqueued hnone
    obtain ⟨f, hrc, hcause, -⟩ := (s.du.recView 0).startFlush_rc cause
    have hexec := (DieUnit.flushOp_uncritical hcrit _).trans (congrArg s.du.withRec (RecView.beginQueued_due (v := s.du.recView 0) hqueued hnone))
    exact ⟨_, f, congrArg (nextDu s) hexec, congrArg (·.flush) hrc, hcause, rfl⟩
  case aggUnready =>
    exact fun h => ⟨congrArg (nextAgg s) (Aggregator.flushWith_unready h _), congrArg (nextAgg s) (Aggregator.flushWith_unready h _)⟩
  case aggFault =>
    intro hready hnone htrig
    obtain ⟨f, hrc, hcause, -, hbank, -⟩ := s.agg.recView.startFlush_rc cause
    have hbegins := RecView.beginFault_due (v := s.agg.recView) htrig hnone
    have hflush : s.agg.recView.beginFault.rc.flush = some f := by
      rw [hbegins]
      exact congrArg (·.flush) hrc
    refine ⟨_, f, congrArg (nextAgg s) (Aggregator.flushWith_begins hready hnone hflush), hflush, hcause, hbank, ?_⟩
    exact RegFile.on_set_same _ ⟨by decide, by decide⟩ 0
  case aggQueued =>
    intro hready hnone hqueued
    obtain ⟨f, hrc, hcause, -⟩ := s.agg.recView.startFlush_rc cause
    have hbegins := RecView.beginQueued_due (v := s.agg.recView) hqueued hnone
    have hflush : s.agg.recView.beginQueued.rc.flush = some f := by
      rw [hbegins]
      exact congrArg (·.flush) hrc
    refine ⟨_, f, congrArg (nextAgg s) (Aggregator.flushWith_begins hready hnone hflush), hflush, hcause, ?_⟩
    exact congrArg (·.rc.queued) hbegins
  case notErasing => exact fun h => congrArg (nextAgg s) (if_pos (.inl (by simp [h])))
  case erased =>
    intro herasing hnone hwrites
    refine ⟨_, congrArg (nextAgg s) (Aggregator.bankErased_done herasing hnone hwrites), ?_, ?_, ?_⟩
    · simp only [Aggregator.set_fields]
    · exact RegFile.on_set_same _ ⟨by decide, by decide⟩ 1
    · simp only [Aggregator.set_fields, Aggregator.modRec_fields, Recorder.eraseBank_ring]

end Sys2Proof.Machine
end RecorderStatements

section SupplyEvents
/-!
PROOFS. Supply warnings and the words of a flush (R479 to R483, R486, R488).
-/
namespace Sys2Proof.Machine

/-! ### What a supply event does to a recorder -/

theorem RecView.Within.warned (v : RecView) (code : Nat) : v.Within (v.writeAll.recordSupply code).writeAll :=
  ((writeAll v).trans (recordSupply _ code)).trans (writeAll _)

/-- The records that wait and the one of the event go to the ring. -/
theorem RecView.warned_rc (v : RecView) (code : Nat) : ∃ ring last,
    (v.writeAll.recordSupply code).writeAll.rc = { v.rc with ring := ring, queue := [], lastSupply := last } := by
  rw [RecView.writeAll_rc, RecView.recordSupply_rc, RecView.writeAll_rc]
  exact ⟨_, _, rfl⟩

section Warned
variable (v : RecView) (ready : Bool)

theorem RecView.supplyWarn_queue : (v.supplyWarn ready).rc.queue = [] := by
  obtain ⟨ring, last, hrc⟩ := v.warned_rc rcSupplyWarn
  unfold RecView.supplyWarn
  dsimp only
  split
  · split <;> rw [RecView.modR_rc, hrc]
  · split
    · obtain ⟨f, hstart, -⟩ := (v.writeAll.recordSupply rcSupplyWarn).writeAll.startFlush_rc causePower
      rw [hstart, hrc]
    · rw [RecView.raise_rc, hrc]

/-- A running fault flush gives way, and a power flush is followed by another (R481). -/
theorem RecView.supplyWarn_running {f : Flush} (h : v.rc.flush = some f) :
    (f.cause ≠ 2 → (v.supplyWarn ready).rc.flush = some { f with yield_ := true })
      ∧ (f.cause = 2 → (v.supplyWarn ready).rc.flush = some f ∧ (v.supplyWarn ready).rc.queued = some 2) := by
  obtain ⟨ring, last, hrc⟩ := v.warned_rc rcSupplyWarn
  have hflush : (v.writeAll.recordSupply rcSupplyWarn).writeAll.rc.flush = some f := by rw [hrc, h]
  unfold RecView.supplyWarn
  simp only [hflush]
  refine ⟨fun hcause => ?_, fun hcause => ?_⟩
  · rw [if_neg hcause, RecView.modR_rc]
  · rw [if_pos hcause, RecView.modR_rc]
    exact ⟨hflush, rfl⟩

theorem RecView.supplyWarn_ready (h : v.rc.flush = none) : (v.supplyWarn true).rc.flush.map (·.cause) = some 2 := by
  obtain ⟨ring, last, hrc⟩ := v.warned_rc rcSupplyWarn
  have hflush : (v.writeAll.recordSupply rcSupplyWarn).writeAll.rc.flush = none := by rw [hrc, h]
  obtain ⟨f, hstart, hcause, -⟩ := (v.writeAll.recordSupply rcSupplyWarn).writeAll.startFlush_rc causePower
  unfold RecView.supplyWarn
  simp only [hflush, if_true, hstart, Option.map_some, hcause]

end Warned

/-! ### What an alarm leaves (R228) -/

/-- An alarm changes the tocsin alone, and no register off its page. -/
theorem DieUnit.queueAlarm_keeps (d : DieUnit) (payload : List Byte) (grave : Bool) :
    (d.queueAlarm payload grave).recd = d.recd ∧ (d.queueAlarm payload grave).cnt = d.cnt ∧ (d.queueAlarm payload grave).tcp = d.tcp
      ∧ (d.queueAlarm payload grave).regs.word addr_DU_SAG = d.regs.word addr_DU_SAG := by
  have sent (e : DieUnit) (a : Alarm) : (e.sendAlarm a).recd = e.recd ∧ (e.sendAlarm a).cnt = e.cnt ∧ (e.sendAlarm a).tcp = e.tcp
      ∧ (e.sendAlarm a).regs = e.regs := by
    refine ⟨rfl, rfl, rfl, ?_⟩
    unfold DieUnit.sendAlarm TocView.send
    split <;> rfl
  have lost (e : DieUnit) : e.alarmLost.recd = e.recd ∧ e.alarmLost.cnt = e.cnt ∧ e.alarmLost.tcp = e.tcp
      ∧ e.alarmLost.regs.word addr_DU_SAG = e.regs.word addr_DU_SAG := by
    unfold DieUnit.alarmLost
    refine ⟨by simp, by simp, by simp, ?_⟩
    simp only [DieUnit.raise_fields, DieUnit.inc_fields]
    rw [RegFile.word_raise _ _ (by decide) (by decide), RegFile.inc, RegFile.word_set, if_neg (by decide)]
  unfold DieUnit.queueAlarm
  split
  · exact ⟨rfl, rfl, rfl, rfl⟩
  · dsimp only
    split
    · simp [sent]
    · split
      · split
        · simp [lost, sent, DieUnit.dropAlarm]
        · exact lost d
      · exact lost d

/-- A field of DU_SAG after the event of a recorder and its alarm. -/
theorem DieUnit.word_alarmed (d : DieUnit) {v : RecView} (h : (d.recView 0).Within v) (payload : List Byte) (grave : Bool) :
    ((d.withRec v).queueAlarm payload grave).regs.word addr_DU_SAG = d.regs.word addr_DU_SAG :=
  ((d.withRec v).queueAlarm_keeps payload grave).2.2.2.trans (d.withRec_word h (by decide))

/-! ### Supply events of the die unit (R479 to R482) -/

theorem DieUnit.supplyWarn_counts {d : DieUnit} (h : d.on DU_SAG_WARN_NOW = false) :
    d.supplyWarn.on DU_SAG_WARN_NOW = true ∧ d.supplyWarn.get DU_SAG_WARN_N = satAdd 16 (d.get DU_SAG_WARN_N) 1
      ∧ d.supplyWarn.recd = (((d.set DU_SAG_WARN_NOW 1).inc DU_SAG_WARN_N).recView 0 |>.supplyWarn (!d.on DU_SAG_CRIT_NOW)).rc
      ∧ d.supplyWarn.cnt = d.cnt ∧ d.supplyWarn.tcp = d.tcp := by
  have now : (d.set DU_SAG_WARN_NOW 1).on DU_SAG_CRIT_NOW = d.on DU_SAG_CRIT_NOW :=
    RegFile.on_set_other _ ⟨by decide, by decide⟩ (.inr (.inr (by decide))) 1
  have crit : ((d.set DU_SAG_WARN_NOW 1).inc DU_SAG_WARN_N).on DU_SAG_CRIT_NOW = d.on DU_SAG_CRIT_NOW :=
    (RegFile.on_set_other _ ⟨by decide, by decide⟩ (.inr (.inl (by decide))) _).trans now
  rw [DieUnit.supplyWarn, if_neg (by simp [h])]
  dsimp only [DieUnit.raiseAlarm]
  rw [crit]
  have within := RecView.Within.supplyWarn (((d.set DU_SAG_WARN_NOW 1).inc DU_SAG_WARN_N).recView 0) (!d.on DU_SAG_CRIT_NOW)
  have word := DieUnit.word_alarmed _ within
  refine ⟨?_, ?_, ?_, ?_, ?_⟩
  · refine (RegFile.on_congr (word _ _)).trans ((RegFile.on_set_other _ ⟨by decide, by decide⟩ (.inr (.inl (by decide))) _).trans ?_)
    exact RegFile.on_set_same _ ⟨by decide, by decide⟩ 1
  · refine (RegFile.get_congr (word _ _)).trans ((RegFile.get_inc _ _ _ ⟨by decide, by decide⟩).trans ?_)
    exact congrArg (satAdd 16 · 1) (RegFile.get_set_other _ _ _ _ ⟨by decide, by decide⟩ (.inr (.inr (by decide))))
  · rw [(DieUnit.queueAlarm_keeps _ _ _).1, DieUnit.withRec_recd]
  · rw [(DieUnit.queueAlarm_keeps _ _ _).2.1]
    simp
  · rw [(DieUnit.queueAlarm_keeps _ _ _).2.2.1]
    simp

/-- What sg_crit does to the recorder: the word in progress is the last of the flush (R482). -/
def RecView.critical (v : RecView) : RecView :=
  (match v.rc.flush with
    | some f => (v.modR fun c => c.putWord f.bank f.slot f.word f.image).abandonFlush
    | none => v).recordSupply rcSupplyCrit

theorem RecView.critical_within (v : RecView) : v.Within v.critical := by
  unfold RecView.critical
  split
  · exact ((Within.modR v _).trans (Within.abandonFlush _)).trans (Within.recordSupply _ _)
  · exact Within.recordSupply v _

theorem RecView.critical_flush (v : RecView) : v.critical.rc.flush = none := by
  unfold RecView.critical
  rw [RecView.recordSupply_rc]
  split
  · rw [RecView.abandonFlush_rc]
  · assumption

theorem DieUnit.supplyCrit_counts {d : DieUnit} (h : d.on DU_SAG_CRIT_NOW = false) :
    d.supplyCrit.on DU_SAG_CRIT_NOW = true ∧ d.supplyCrit.recd.flush = none := by
  have hexec : d.supplyCrit = (((d.set DU_SAG_CRIT_NOW 1).inc DU_SAG_CRIT_N).withRec
      (((d.set DU_SAG_CRIT_NOW 1).inc DU_SAG_CRIT_N).recView 0).critical).queueAlarm
        ((((d.set DU_SAG_CRIT_NOW 1).inc DU_SAG_CRIT_N).withRec
      (((d.set DU_SAG_CRIT_NOW 1).inc DU_SAG_CRIT_N).recView 0).critical).alarmPayload 3 0 0 0 0 (d.stamp 0) d.sn.temp d.sn.mv) true :=
    if_neg (by simp [h])
  rw [hexec]
  refine ⟨?_, ?_⟩
  · refine (RegFile.on_congr (DieUnit.word_alarmed _ (RecView.critical_within _) _ _)).trans
      ((RegFile.on_set_other _ ⟨by decide, by decide⟩ (.inr (.inl (by decide))) _).trans ?_)
    exact RegFile.on_set_same _ ⟨by decide, by decide⟩ 1
  · rw [(DieUnit.queueAlarm_keeps _ _ _).1, DieUnit.withRec_recd, RecView.critical_flush]

/-- The end of a level clears its field alone. -/
theorem DieUnit.supplyEnded_fields (d : DieUnit) {f g : Fld} (hf : f.reg = addr_DU_SAG) (hg : g.reg = addr_DU_SAG) (hbits : f.fits) (hother : f.apart g) :
    let e := (d.set f 0).withRec (((d.set f 0).recView 0).recordSupply rcSupplyOk)
    e.on f = false ∧ e.on g = d.on g ∧ e.heldWake = d.heldWake := by
  intro e
  have word : e.regs.word addr_DU_SAG = (d.set f 0).regs.word addr_DU_SAG :=
    (d.set f 0).withRec_word (RecView.Within.recordSupply _ _) (by decide)
  refine ⟨?_, ?_, ?_⟩
  · refine (RegFile.on_congr (hf ▸ word)).trans ((RegFile.on_set_same _ hbits 0).trans ?_)
    simp
  · exact (RegFile.on_congr (hg ▸ word)).trans (RegFile.on_set_other _ hbits hother 0)
  · simp [e]

/-- While the supply warning is gone a wake cause is held no more (R480). -/
theorem DieUnit.wake_heldWake {d : DieUnit} (h : d.on DU_SAG_WARN_NOW = false) (k : FastDom) : (d.wake k).heldWake = d.heldWake := by
  have hpd (e : DieUnit) (p : DomainPower) : (e.setPd k p).heldWake = e.heldWake := by cases k <;> rfl
  unfold DieUnit.wake
  split
  · simp only
    split <;> simp [hpd]
  · simp [h, hpd, DieUnit.setPdState]

/-- The held causes act, and none is held again (R480). -/
theorem DieUnit.wakes_after_warning (l : List FastDom) (p : FastDom → Bool) {d : DieUnit} (hwarn : d.on DU_SAG_WARN_NOW = false) :
    let e := l.foldl (fun (d : DieUnit) k => if p k then d.wake k else d) { d with heldWake := [] }
    e.on DU_SAG_WARN_NOW = false ∧ e.on DU_SAG_CRIT_NOW = d.on DU_SAG_CRIT_NOW ∧ e.heldWake = [] := by
  refine List.foldlRecOn (motive := fun e : DieUnit => e.on DU_SAG_WARN_NOW = false ∧ e.on DU_SAG_CRIT_NOW = d.on DU_SAG_CRIT_NOW
    ∧ e.heldWake = []) l _ ⟨hwarn, rfl, rfl⟩ fun e ⟨hw, hc, hheld⟩ k _ => ?_
  split
  · have word : (e.wake k).regs.word addr_DU_SAG = e.regs.word addr_DU_SAG := e.wake_word k (by decide)
    exact ⟨(RegFile.on_congr word).trans hw, (RegFile.on_congr word).trans hc, (DieUnit.wake_heldWake hw k).trans hheld⟩
  · exact ⟨hw, hc, hheld⟩

/-! ### The words of a flush (R483, R486) -/

theorem RecView.wordAck_idle {v : RecView} (h : v.rc.flush = none) : v.wordAck = v := by
  unfold RecView.wordAck
  rw [h]

theorem RecView.wordAck_goes {v : RecView} {f : Flush} (h : v.rc.flush = some f) (hword : f.word < 7) :
    v.wordAck = (v.modR fun c => c.putWord f.bank f.slot f.word f.image).modR fun c => { c with flush := some { f with word := f.word + 1 } } := by
  unfold RecView.wordAck
  simp only [h]
  exact if_pos hword

theorem RecView.wordTimeout_idle {v : RecView} (h : v.rc.flush = none) : v.wordTimeout = v := by
  unfold RecView.wordTimeout
  simp [h]

theorem RecView.wordTimeout_abandons {v : RecView} {f : Flush} (h : v.rc.flush = some f) :
    v.wordTimeout = ((((v.set REC_STATUS_ERR 3).modR fun c => { c with flush := none }).set REC_STATUS_FLUSHING 0).inc REC_CNT_ABANDONED_N).raise
      REC_STATUS_ABANDONED := by
  unfold RecView.wordTimeout RecView.abandonFlush
  rw [h]
  simp only [Option.isSome_some, if_true, RecView.set_rc, h]

end Sys2Proof.Machine
end SupplyEvents

section SupplyOfTheAggregator
/-!
PROOFS. Supply warnings and flush pages of the aggregator (R479, R482, R486, R488).
-/
namespace Sys2Proof.Machine

/-! ### What the announcement of a reset and the shed of the load leave -/

theorem Aggregator.tocSend_keeps (a : Aggregator) (seg dst type : Nat) (payload : List Byte) :
    (a.tocSend seg dst type payload).regs = a.regs ∧ (a.tocSend seg dst type payload).recd = a.recd := by
  unfold Aggregator.tocSend TocView.send
  rw [(Aggregator.withToc_fields _ _ _).1, (Aggregator.withToc_fields a seg _).2.2.2.2.2.2.2.2.2.2.1]
  refine ⟨?_, rfl⟩
  split <;> rfl

theorem Aggregator.announceReset_keeps (a : Aggregator) (code reason : Nat) :
    (a.announceReset code reason).regs = a.regs ∧ (a.announceReset code reason).recd = a.recd := by
  unfold Aggregator.announceReset
  split
  · exact ⟨rfl, rfl⟩
  · simp only [Aggregator.modHlt_fields]
    exact ⟨foldl_keeps Aggregator.regs (fun b k => by simp only [Aggregator.tocSend_keeps]) _ a,
      foldl_keeps Aggregator.recd (fun b k => by simp only [Aggregator.tocSend_keeps]) _ a⟩

theorem Aggregator.PowersTo.recd {a b : Aggregator} (h : a.PowersTo b) : b.recd = a.recd := (congrArg Aggregator.recd h.same).trans rfl

theorem Aggregator.powersTo_shedLoad (a : Aggregator) : a.PowersTo a.shedLoad ∧ a.shedLoad.pwr.shed = true := by
  unfold Aggregator.shedLoad
  constructor
  · refine ((PowersTo.foldl (List.range 80) (fun b k hk => ?_) a).trans (PowersTo.modPwr _ rfl)).trans (PowersTo.set _ (by decide) _)
    dsimp only
    split
    · exact PowersTo.refl b
    · exact PowersTo.set b (pageOf_PD_STAT (List.mem_range.1 hk)) _
  · simp [Aggregator.showPower]

/-! ### Supply events of the aggregator -/

theorem Aggregator.recView_rc (a : Aggregator) : a.recView.rc = a.recd := rfl

@[simp] theorem Aggregator.settleFlush_fields (old a : Aggregator) : (Aggregator.settleFlush old a).regs = a.regs
    ∧ (Aggregator.settleFlush old a).recd = a.recd ∧ (Aggregator.settleFlush old a).mem = a.mem ∧ (Aggregator.settleFlush old a).jobs = a.jobs := by
  unfold Aggregator.settleFlush
  split <;> exact ⟨rfl, rfl, rfl, rfl⟩

theorem Aggregator.flushWith_rc (a : Aggregator) {f : RecView → RecView} (hf : ∀ v, (f v).rc.queue = v.rc.queue) (hw : ∀ v : RecView, v.Within (f v)) :
    (a.flushWith f).recd.queue = a.recd.queue ∧ (a.flushWith f).regs.word addr_PWR_SAG = a.regs.word addr_PWR_SAG := by
  unfold Aggregator.flushWith
  split
  · exact ⟨rfl, rfl⟩
  · have word := a.withRec_word (hw a.recView) (k := addr_PWR_SAG) (by decide)
    dsimp only
    split
    · simp only [Aggregator.set_fields]
      exact ⟨hf a.recView, (RegFile.word_set _ _ _ _).trans ((if_neg (by decide)).trans word)⟩
    · exact ⟨hf a.recView, word⟩

/-- The flush of a supply warning, where a bank is ready (R488). -/
def Aggregator.warnFlush (a : Aggregator) : Aggregator :=
  if a.on (REC_STATUS_BANK_READY.onPage 0x3) then a.flushWith fun v => v.startFlush causePower
  else a.withRec (a.recView.raise REC_STATUS_NOT_READY)

theorem Aggregator.warnFlush_keeps (a : Aggregator) :
    a.warnFlush.recd.queue = a.recd.queue ∧ a.warnFlush.regs.word addr_PWR_SAG = a.regs.word addr_PWR_SAG := by
  unfold Aggregator.warnFlush
  split
  · refine a.flushWith_rc (fun v => ?_) fun v => RecView.Within.startFlush v _
    obtain ⟨f, hrc, -⟩ := v.startFlush_rc causePower
    rw [hrc]
  · exact ⟨by rw [Aggregator.withRec_recd, RecView.raise_rc, Aggregator.recView_rc],
      a.withRec_word (RecView.Within.raise _ _) (by decide)⟩

/-- The aggregator whose supply warning is counted and recorded, before its flush. -/
def Aggregator.warned (a : Aggregator) : Aggregator :=
  let a1 := (a.set PWR_SAG_WARN_NOW 1).inc PWR_SAG_WARN_N
  (a1.withRec (a1.recView.writeAll.recordSupply rcSupplyWarn).writeAll).set PWR_SAG_WRITES_STOPPED 1

theorem Aggregator.supplyWarn_counts {a : Aggregator} (h : a.on PWR_SAG_WARN_NOW = false) :
    a.supplyWarn = (a.warned.warnFlush.announceReset causeSupply reasonOther).shedLoad := if_neg (by simp [h])

theorem Aggregator.warned_fields (a : Aggregator) : a.warned.recd.queue = [] ∧ a.warned.on PWR_SAG_WARN_NOW = true
    ∧ a.warned.on PWR_SAG_WRITES_STOPPED = true := by
  unfold Aggregator.warned
  extract_lets a1
  refine ⟨?_, ?_, RegFile.on_set_same _ ⟨by decide, by decide⟩ 1⟩
  · obtain ⟨ring, last, hrc⟩ := a1.recView.warned_rc rcSupplyWarn
    simp only [Aggregator.set_fields]
    rw [Aggregator.withRec_recd, hrc]
  · refine (RegFile.on_set_other _ ⟨by decide, by decide⟩ (.inr (.inl (by decide))) _).trans ?_
    refine (RegFile.on_congr (a1.withRec_word (RecView.Within.warned _ _) (by decide))).trans ?_
    refine (RegFile.on_set_other _ ⟨by decide, by decide⟩ (.inr (.inl (by decide))) _).trans ?_
    exact RegFile.on_set_same _ ⟨by decide, by decide⟩ 1

theorem Aggregator.supplyWarn_stops {a : Aggregator} (h : a.on PWR_SAG_WARN_NOW = false) : a.supplyWarn.on PWR_SAG_WARN_NOW = true
    ∧ a.supplyWarn.on PWR_SAG_WRITES_STOPPED = true ∧ a.supplyWarn.pwr.shed = true ∧ a.supplyWarn.recd.queue = [] := by
  rw [Aggregator.supplyWarn_counts h]
  obtain ⟨hrecorded, hwarn, hstopped⟩ := a.warned_fields
  obtain ⟨hqueue, hflush⟩ := a.warned.warnFlush_keeps
  obtain ⟨hregs, hrecd⟩ := a.warned.warnFlush.announceReset_keeps causeSupply reasonOther
  obtain ⟨hpowers, hshed⟩ := (a.warned.warnFlush.announceReset causeSupply reasonOther).powersTo_shedLoad
  have word : (a.warned.warnFlush.announceReset causeSupply reasonOther).shedLoad.regs.word addr_PWR_SAG = a.warned.regs.word addr_PWR_SAG :=
    (hpowers.words addr_PWR_SAG (by decide)).trans (by rw [Aggregator.word, hregs, hflush])
  exact ⟨(RegFile.on_congr word).trans hwarn, (RegFile.on_congr word).trans hstopped, hshed, by rw [hpowers.recd, hrecd, hqueue, hrecorded]⟩

theorem Aggregator.supplyCrit_counts {a : Aggregator} (h : a.on PWR_SAG_CRIT_NOW = false) : a.supplyCrit.on PWR_SAG_CRIT_NOW = true
    ∧ a.supplyCrit.recd.queue = [] ∧ a.supplyCrit.mem = a.mem ∧ a.supplyCrit.jobs = a.jobs := by
  rw [Aggregator.supplyCrit, if_neg (by simp [h])]
  extract_lets a1 a2
  have hfirst : a1.on PWR_SAG_CRIT_NOW = true :=
    (RegFile.on_set_other _ ⟨by decide, by decide⟩ (.inr (.inl (by decide))) _).trans (RegFile.on_set_same _ ⟨by decide, by decide⟩ 1)
  have hpage : a2.regs.word addr_PWR_SAG = a1.regs.word addr_PWR_SAG ∧ a2.mem = a1.mem ∧ a2.jobs = a1.jobs := by
    simp only [a2]
    split
    · exact ⟨rfl, rfl, rfl⟩
    · simp only [Aggregator.settleFlush_fields]
      exact ⟨a1.withRec_word ((RecView.Within.pageDone _).trans (RecView.Within.abandonFlush _)) (by decide), by simp, by simp⟩
  obtain ⟨hword, hmem, hjobs⟩ := hpage
  refine ⟨?_, ?_, ?_, ?_⟩
  · exact (RegFile.on_congr ((a2.withRec_word (RecView.Within.warned _ _) (by decide)).trans hword)).trans hfirst
  · obtain ⟨ring, last, hrc⟩ := a2.recView.warned_rc rcSupplyCrit
    rw [Aggregator.withRec_recd, hrc]
  · simp [hmem, a1]
  · simp [hjobs, a1]

/-- The end of a level clears its field alone. -/
theorem Aggregator.supplyEnded_fields (a : Aggregator) {f g : Fld} (hf : f.reg = addr_PWR_SAG) (hg : g.reg = addr_PWR_SAG) (hbits : f.fits)
    (hother : f.apart g) :
    let e := (a.set f 0).withRec ((a.set f 0).recView.recordSupply rcSupplyOk)
    e.on f = false ∧ e.on g = a.on g ∧ e.jobs = a.jobs ∧ e.led = a.led ∧ e.mem = a.mem := by
  intro e
  have word : e.regs.word addr_PWR_SAG = (a.set f 0).regs.word addr_PWR_SAG :=
    (a.set f 0).withRec_word (RecView.Within.recordSupply _ _) (by decide)
  refine ⟨?_, ?_, ?_, ?_, ?_⟩
  · refine (RegFile.on_congr (hf ▸ word)).trans ((RegFile.on_set_same _ hbits 0).trans ?_)
    simp
  · exact (RegFile.on_congr (hg ▸ word)).trans (RegFile.on_set_other _ hbits hother 0)
  · simp [e]
  · simp [e]
  · simp [e]

/-! ### Fields of a recorder's page -/

@[simp] theorem RecView.inc_page (v : RecView) (f : Fld) : (v.inc f).page = v.page := by cases v; rfl
@[simp] theorem RecView.raise_page (v : RecView) (f : Fld) : (v.raise f).page = v.page := by cases v; rfl
theorem RecView.raise_regs (v : RecView) (f : Fld) : (v.raise f).regs = v.regs.raise (f.onPage v.page) := by cases v; rfl
@[simp] theorem DieUnit.recView_page (d : DieUnit) (q : Nat) : (d.recView q).page = 0xD := rfl

theorem RecView.get_set_same (v : RecView) {f : Fld} (hf : f.fits) (n : Nat) : (v.set f n).get f = n % 2 ^ (f.hi + 1 - f.lo) :=
  RegFile.get_set _ _ _ (Fld.fits_onPage hf _)

/-- Fields of other bits stand, whatever their registers. -/
theorem RecView.get_set_other (v : RecView) {f g : Fld} (hf : f.fits) (h : f.hi < g.lo ∨ g.hi < f.lo) (n : Nat) : (v.set f n).get g = v.get g :=
  RegFile.get_set_other _ _ _ _ (Fld.fits_onPage hf _) (.inr h)

theorem RecView.get_inc_other (v : RecView) {f g : Fld} (hf : f.fits) (h : f.hi < g.lo ∨ g.hi < f.lo) : (v.inc f).get g = v.get g :=
  RegFile.get_inc_other _ _ _ _ (Fld.fits_onPage hf _) (.inr h)

theorem RecView.get_raise_other (v : RecView) {f g : Fld} (hp : v.page = 0xD) (hf : f.fits) (h : f.hi < g.lo ∨ g.hi < f.lo)
    (hseq : g.reg % 4096 ≠ 8) : (v.raise f).get g = v.get g := by
  unfold RecView.get
  rw [RecView.raise_regs, RecView.raise_page]
  refine RegFile.get_raise_other _ (Fld.fits_onPage hf _) (.inr h) fun e => hseq ?_
  have hreg : ¬ indBase ≤ (f.onPage v.page).reg := by
    show ¬ 0x10000000000 ≤ v.page * 4096 + f.reg % 4096
    omega
  have hg : v.page * 4096 + g.reg % 4096 = v.page * 4096 + 8 := by
    rwa [pageOf, if_neg hreg, Fld.onPage_page] at e
  omega

/-- What a flush that is abandoned shows (R483). -/
theorem RecView.abandoned_status (v : RecView) (hp : v.page = 0xD) (g : Recorder → Recorder) :
    let w := ((((v.set REC_STATUS_ERR 3).modR g).set REC_STATUS_FLUSHING 0).inc REC_CNT_ABANDONED_N).raise REC_STATUS_ABANDONED
    w.get REC_STATUS_ERR = 3 ∧ w.get REC_STATUS_FLUSHING = 0 := by
  intro w
  have page : ((((v.set REC_STATUS_ERR 3).modR g).set REC_STATUS_FLUSHING 0).inc REC_CNT_ABANDONED_N).page = 0xD := by simp [hp]
  have raised (f : Fld) (hf : 2 < f.lo) (hseq : f.reg % 4096 ≠ 8) := RecView.get_raise_other _ (f := REC_STATUS_ABANDONED) (g := f) page
    ⟨by decide, by decide⟩ (.inl hf) hseq
  have counted (f : Fld) (hf : 15 < f.lo) := RecView.get_inc_other (((v.set REC_STATUS_ERR 3).modR g).set REC_STATUS_FLUSHING 0)
    (f := REC_CNT_ABANDONED_N) (g := f) ⟨by decide, by decide⟩ (.inl hf)
  constructor
  · rw [raised _ (by decide) (by decide), counted _ (by decide), RecView.get_set_other _ ⟨by decide, by decide⟩ (by decide), RecView.modR_get]
    exact RecView.get_set_same _ ⟨by decide, by decide⟩ 3
  · rw [raised _ (by decide) (by decide), counted _ (by decide)]
    exact RecView.get_set_same _ ⟨by decide, by decide⟩ 0

/-! ### The pages of a flush (R486) -/

/-- While the next older record stands in the ring, the flush goes on to it. -/
theorem RecView.slotDone_next {v : RecView} {f : Flush} (h : v.rc.flush = some f) (hyield : f.yield_ = false) (hending : f.ending = false)
    (hslot : f.slot + 1 ≤ 1022) (holder : f.slot + 1 ≤ f.newest + 1) (hrec : v.rc.ringRec (f.newest + 1 - (f.slot + 1)) ≠ none) :
    ∃ g : Flush, v.slotDone.rc = { v.rc with area := v.slotDone.rc.area, flush := some g } ∧ g.slot = f.slot + 1 ∧ g.newest = f.newest
      ∧ g.yield_ = false ∧ g.ending = false := by
  obtain ⟨b, hb⟩ := Option.ne_none_iff_exists'.1 hrec
  have put : ∀ (l : List Nat) (w : RecView), (l.foldl (fun (v : RecView) k => v.modR fun c => c.putWord f.bank f.slot k f.image) w).rc
      = { w.rc with area := (l.foldl (fun (v : RecView) k => v.modR fun c => c.putWord f.bank f.slot k f.image) w).rc.area } := by
    intro l
    induction l with
    | nil => exact fun _ => rfl
    | cons k l ih =>
      intro w
      rw [List.foldl_cons, ih]
      rfl
  unfold RecView.slotDone
  simp only [h]
  have hrc := put (List.range 8) v
  generalize (List.range 8).foldl (fun (v : RecView) k => v.modR fun c => c.putWord f.bank f.slot k f.image) v = v0 at hrc ⊢
  unfold RecView.nextSlot
  extract_lets done v1 v2 slot older f'
  have hfound : older = some b := by
    refine (if_pos ⟨hslot, holder⟩).trans ?_
    rw [hrc]
    exact hb
  have hnext : f' = { f with slot := f.slot + 1, word := 0, image := sealed (b.take 56) f.id } := by
    simp only [f', hfound]
    rfl
  simp only [hyield, hending, Bool.false_eq_true, if_false, RecView.modR_rc, v1, RecView.set_rc]
  refine ⟨f', by rw [hrc], ?_, ?_, ?_, ?_⟩
  · rw [hnext]
  · rw [hnext]
  · rw [hnext]
    exact hyield
  · rw [hnext]
    exact hending

theorem RecView.slots_done {v : RecView} {f : Flush} (h : v.rc.flush = some f) (hyield : f.yield_ = false) (hending : f.ending = false) :
    ∀ n : Nat, f.slot + n ≤ 1022 → f.slot + n ≤ f.newest + 1 →
      (∀ k ≤ n, f.slot + k ≤ f.newest + 1 → v.rc.ringRec (f.newest + 1 - (f.slot + k)) ≠ none) →
      ∃ g : Flush, ((List.range n).foldl (fun (v : RecView) _ => v.slotDone) v).rc
          = { v.rc with area := ((List.range n).foldl (fun (v : RecView) _ => v.slotDone) v).rc.area, flush := some g }
        ∧ g.slot = f.slot + n ∧ g.newest = f.newest ∧ g.yield_ = false ∧ g.ending = false := by
  intro n
  induction n with
  | zero => exact fun _ _ _ => ⟨f, by rw [← h]; rfl, rfl, rfl, hyield, hending⟩
  | succ n ih =>
    intro hslot holder hrecs
    obtain ⟨g, hrc, hgslot, hgnewest, hgyield, hgending⟩ := ih (by omega) (by omega) fun k hk => hrecs k (by omega)
    rw [List.range_succ, List.foldl_append, List.foldl_cons, List.foldl_nil]
    generalize (List.range n).foldl (fun (v : RecView) _ => v.slotDone) v = w at hrc ⊢
    have hrec : w.rc.ringRec (g.newest + 1 - (g.slot + 1)) ≠ none := by
      rw [hrc, hgslot, hgnewest, Nat.add_assoc]
      exact hrecs (n + 1) (Nat.le_refl _) holder
    obtain ⟨g', hrc', hslot', hnewest', hyield', hending'⟩ :=
      RecView.slotDone_next (by rw [hrc]) hgyield hgending (by omega) (by omega) hrec
    exact ⟨g', by rw [hrc', hrc], by omega, by omega, hyield', hending'⟩

theorem DieUnit.supplyOk_warning {d : DieUnit} (h : d.on DU_SAG_WARN_NOW = true) : d.supplyOk false
    = allDoms.foldl (fun (e : DieUnit) k => if ((d.set DU_SAG_WARN_NOW 0).withRec (((d.set DU_SAG_WARN_NOW 0).recView 0).recordSupply
        rcSupplyOk)).heldWake.contains k.code then e.wake k else e)
      { (d.set DU_SAG_WARN_NOW 0).withRec (((d.set DU_SAG_WARN_NOW 0).recView 0).recordSupply rcSupplyOk) with heldWake := [] } := by
  unfold DieUnit.supplyOk
  simp only [h, Bool.false_eq_true, if_false, not_true_eq_false]

/-- Settles O32: each clause by the lemma of its event. -/
theorem suppliesAndFlushWords : Obligations.SuppliesAndFlushWords := by
  unfold Obligations.SuppliesAndFlushWords
  intro s f
  refine ⟨?warnOn, ?warnOff, ?critOn, ?critOff, ?okIdle, ?okCritIdle, ?okWarn, ?okCrit, ?aggOkIdle, ?aggOkWarn, ?aggOkCrit, ?noFlush, ?ack,
    ?timeout, ?aggWarnOn, ?aggWarnOff, ?aggCritOn, ?aggCritOff, ?noPage, ?page⟩
  case warnOn => exact fun h => congrArg (nextDu s) (if_pos h)
  case warnOff =>
    intro h
    obtain ⟨hnow, hcount, hrecd, hcnt, htcp⟩ := DieUnit.supplyWarn_counts h
    refine ⟨_, rfl, hnow, hcount, ?_, ?_, ?_, ?_, hcnt, htcp⟩
    · rw [hrecd, RecView.supplyWarn_queue]
    · intro hnone hcrit
      rw [hrecd, hcrit]
      exact RecView.supplyWarn_ready _ (by simpa [DieUnit.recView] using hnone)
    · intro hf hcause
      rw [hrecd]
      exact (RecView.supplyWarn_running _ _ (by simpa [DieUnit.recView] using hf)).1 hcause
    · intro hf hcause
      rw [hrecd]
      exact (RecView.supplyWarn_running _ _ (by simpa [DieUnit.recView] using hf)).2 hcause
  case critOn =>
    exact fun h => ⟨congrArg (nextDu s) (if_pos h), congrArg (nextDu s) (DieUnit.flushOp_critical h _),
      congrArg (nextDu s) (DieUnit.flushOp_critical h _)⟩
  case critOff =>
    intro h
    obtain ⟨hnow, hnone⟩ := DieUnit.supplyCrit_counts h
    exact ⟨_, rfl, hnow, hnone⟩
  case okIdle | okCritIdle => exact fun h => congrArg (nextDu s) (if_pos (by simpa using h))
  case okWarn =>
    intro h
    obtain ⟨hnow, hcrit, -⟩ := s.du.supplyEnded_fields (f := DU_SAG_WARN_NOW) (g := DU_SAG_CRIT_NOW) rfl rfl ⟨by decide, by decide⟩
      (.inr (.inr (by decide)))
    obtain ⟨hnow', hcrit', hheld⟩ := DieUnit.wakes_after_warning allDoms (fun k => _) hnow
    exact ⟨_, congrArg (nextDu s) (DieUnit.supplyOk_warning h), hnow', hcrit'.trans hcrit, hheld⟩
  case okCrit =>
    intro h
    exact ⟨_, congrArg (nextDu s) (if_neg (by simp [h])), s.du.supplyEnded_fields (f := DU_SAG_CRIT_NOW) (g := DU_SAG_WARN_NOW) rfl rfl
      ⟨by decide, by decide⟩ (.inr (.inl (by decide)))⟩
  case aggOkIdle => exact fun h => congrArg (nextAgg s) (if_pos (by simpa using h))
  case aggOkWarn =>
    exact fun h => ⟨_, congrArg (nextAgg s) (if_neg (by simp [h])), s.agg.supplyEnded_fields (f := PWR_SAG_WARN_NOW) (g := PWR_SAG_CRIT_NOW) rfl rfl
      ⟨by decide, by decide⟩ (.inr (.inr (by decide)))⟩
  case aggOkCrit =>
    exact fun h => ⟨_, congrArg (nextAgg s) (if_neg (by simp [h])), s.agg.supplyEnded_fields (f := PWR_SAG_CRIT_NOW) (g := PWR_SAG_WARN_NOW) rfl rfl
      ⟨by decide, by decide⟩ (.inr (.inl (by decide)))⟩
  case noFlush =>
    exact fun _ h => ⟨congrArg (nextDu s) (DieUnit.flushOp_same (RecView.wordAck_idle h)),
      congrArg (nextDu s) (DieUnit.flushOp_same (RecView.wordTimeout_idle h))⟩
  case ack =>
    intro hcrit hf hword
    have hexec := (DieUnit.flushOp_uncritical hcrit _).trans (congrArg s.du.withRec (RecView.wordAck_goes (v := s.du.recView 0) hf hword))
    refine ⟨_, congrArg (nextDu s) hexec, rfl, rfl, rfl, ?_, fun k hk => ?_⟩
    · exact (storeGet_set _ _ _ _ _).trans (if_pos rfl)
    · exact (storeGet_set _ _ _ _ _).trans (if_neg hk)
  case timeout =>
    intro hcrit hf
    have hexec := (DieUnit.flushOp_uncritical hcrit _).trans (congrArg s.du.withRec (RecView.wordTimeout_abandons (v := s.du.recView 0) hf))
    obtain ⟨herr, hflushing⟩ := (s.du.recView 0).abandoned_status rfl fun c => { c with flush := none }
    refine ⟨_, congrArg (nextDu s) hexec, ?_, ?_, ?_, ?_⟩
    · simp only [DieUnit.withRec_recd, RecView.raise_rc, RecView.inc_rc, RecView.set_rc, RecView.modR_rc]
    · rw [DieUnit.withRec_get _ (by simp) (by decide), herr]
    · rw [DieUnit.withRec_get _ (by simp) (by decide), hflushing]
    · simp only [DieUnit.withRec_recd, RecView.raise_rc, RecView.inc_rc, RecView.set_rc, RecView.modR_rc]
      rfl
  case aggWarnOn => exact fun h => congrArg (nextAgg s) (if_pos h)
  case aggWarnOff => exact fun h => ⟨_, rfl, Aggregator.supplyWarn_stops h⟩
  case aggCritOn => exact fun h => congrArg (nextAgg s) (if_pos h)
  case aggCritOff => exact fun h => ⟨_, rfl, Aggregator.supplyCrit_counts h⟩
  case noPage => exact fun h => congrArg (nextAgg s) (if_pos (by simp [h]))
  case page =>
    intro hf hslot hending hyield hrecs holder
    obtain ⟨g, hrc, hgslot, -⟩ := RecView.slots_done (v := s.agg.recView) hf hyield hending 4 (by omega) holder hrecs
    have hsome : s.agg.recView.pageDone.rc.flush = some g := congrArg (·.flush) hrc
    have hexec : s.agg.flushPageDone = s.agg.withRec s.agg.recView.pageDone :=
      (if_neg (by simp [hf])).trans (if_neg fun e => by simp [hsome] at e)
    refine ⟨_, congrArg (nextAgg s) hexec, ?_, ?_, ?_⟩
    · rw [Aggregator.withRec_recd, hsome, Option.map_some, hgslot]
    · exact congrArg (·.ring) hrc
    · exact congrArg (·.queue) hrc

end Sys2Proof.Machine
end SupplyOfTheAggregator

section PortAccesses
/-!
PROOFS. Accesses over the die unit's register port that find their domain on (R98, R455), and the recorder's registers among them (R487, R489).
-/
namespace Sys2Proof.Machine

/-! ### What an access that finds its domain on does -/

theorem DieUnit.access_write (d : DieUnit) {ad : Nat} (hpair : ad ≠ 0x30 ∧ ad ≠ 0x38) (hexact : ad % 65536 / 8 * 8 = ad) (w : W64) (a : Access)
    (q : Nat) : d.access ad (some w) a q = (0, d.writeReg ad w a q (ad % 4096)) := by
  unfold DieUnit.access
  simp only [hexact, hpair.1, hpair.2, if_false]

theorem DieUnit.access_read (d : DieUnit) {ad : Nat} (hpair : ad ≠ 0x38) (hexact : ad % 65536 / 8 * 8 = ad) (a : Access) (q : Nat) :
    d.access ad none a q = d.readReg ad a q := by
  unfold DieUnit.access
  simp only [hexact, hpair, if_false]

section Awake
variable {d : DieUnit} {addr ad : Nat} (haddr : addr % 65536 / 8 * 8 = ad) (hawake : duPageExists (ad / 4096) = true → d.asleep ad = false)
include haddr hawake

theorem DieUnit.portAccess_awake (write : Option W64) (priv : Bool) (q : Nat) :
    d.portAccess addr write priv q = (d.access ad write ⟨priv, false⟩ q).2.answers (d.access ad write ⟨priv, false⟩ q).1 := by
  subst haddr
  exact if_neg fun ⟨hexists, hasleep⟩ => by simp [hawake hexists] at hasleep

variable (hpair : ad ≠ 0x30 ∧ ad ≠ 0x38)
include hpair

theorem DieUnit.portAccess_writes (w : W64) (priv : Bool) (q : Nat) :
    d.portAccess addr (some w) priv q = (d.writeReg ad w ⟨priv, false⟩ q (ad % 4096)).answers 0 := by
  rw [DieUnit.portAccess_awake haddr hawake, DieUnit.access_write d hpair (by omega)]

theorem DieUnit.portAccess_reads (priv : Bool) (q : Nat) :
    d.portAccess addr none priv q = (d.readReg ad ⟨priv, false⟩ q).2.answers (d.readReg ad ⟨priv, false⟩ q).1 := by
  rw [DieUnit.portAccess_awake haddr hawake, DieUnit.access_read d hpair.2 (by omega)]

end Awake

/-- A privileged write of a register without sticky bits merges the bits that it may change, and the merged word takes its effect (R455). -/
theorem DieUnit.writeReg_merged (d : DieUnit) {addr priv rw_ : Nat} (hpage : duPageExists (addr / 4096) = true) (hkey : addr % 4096 ≠ 0x18)
    (hm : masksOf .du addr = ⟨priv, rw_, 0⟩) (hmask : rw_ ||| priv ≠ 0) (hsel : selectorOf addr = none) (w : Nat) (q k : Nat) :
    d.writeReg addr (BitVec.ofNat 64 w) ⟨true, false⟩ q k
      = d.writeEffect addr (mergedWord (d.regs.word addr).toNat (rw_ ||| priv) w) (BitVec.ofNat 64 w) ⟨true, false⟩ q := by
  unfold DieUnit.writeReg
  simp only [hpage, hkey, hm, hmask, hsel, not_true_eq_false, and_false, false_and, if_false, if_true, Nat.and_zero, ne_eq, mergedWord]

/-! ### The window of a recorder (R489) -/

theorem RecView.showWindow_rc (v : RecView) (b : List Byte) : (v.showWindow b).rc = v.rc :=
  foldl_keeps RecView.rc (fun _ _ => by simp) _ v

@[simp] theorem RecView.showWindow_page (v : RecView) (b : List Byte) : (v.showWindow b).page = v.page :=
  foldl_keeps RecView.page (fun _ _ => by simp) _ v

/-- The window's words stand above the other registers of the page. -/
theorem RecView.showWindow_word (v : RecView) (b : List Byte) {o : Nat} (ho : o < 0xC0) :
    (v.showWindow b).regs.word (v.page * 4096 + o) = v.regs.word (v.page * 4096 + o) := by
  have keeps : ∀ (l : List Nat), (∀ k ∈ l, k < 8) → ∀ w : RecView, w.page = v.page →
      (l.foldl (fun (v : RecView) k => v.set (REC_WIN_WORD k) (le b (8 * k) 8)) w).regs.word (v.page * 4096 + o) = w.regs.word (v.page * 4096 + o) := by
    intro l hl
    induction l with
    | nil => exact fun _ _ => rfl
    | cons k l ih =>
      intro w hw
      have hk := hl k List.mem_cons_self
      have hreg : v.page * 4096 + o ≠ ((REC_WIN_WORD k).onPage w.page).reg := by
        show v.page * 4096 + o ≠ w.page * 4096 + (0xD0C0 + 8 * k) % 4096
        omega
      rw [List.foldl_cons, ih (fun x hx => hl x (List.mem_cons_of_mem k hx)) _ (by simp [hw]), RecView.set_regs, RegFile.word_set, if_neg hreg]
  exact keeps _ (fun k hk => List.mem_range.1 hk) v rfl

theorem RecView.showWindow_get (v : RecView) (b : List Byte) {f : Fld} (hf : f.reg % 4096 < 0xC0) : (v.showWindow b).get f = v.get f := by
  unfold RecView.get
  rw [RecView.showWindow_page]
  exact RegFile.get_congr (v.showWindow_word b hf)

theorem RecView.windowLoaded_rc (v : RecView) : v.windowLoaded.rc = v.rc := by
  rw [RecView.windowLoaded, RecView.set_rc, RecView.showWindow_rc]

theorem RecView.windowLoaded_ready (v : RecView) : v.windowLoaded.get REC_STATUS_READY = 1 :=
  RecView.get_set_same _ ⟨by decide, by decide⟩ 1

@[simp] theorem Aggregator.recView_page (a : Aggregator) : a.recView.page = 3 := rfl

theorem Aggregator.withRec_get (a : Aggregator) {v : RecView} (hv : v.page = 3) (f : Fld) : (a.withRec v).get (f.onPage 3) = v.get f := by
  rw [RecView.get, hv]
  rfl

/-- A window that is being loaded, with the error that is shown. -/
def RecView.loading (v : RecView) (err : Nat) (window : Recorder → List Byte) : RecView :=
  (((v.set REC_STATUS_READY 0).showWindow []).set REC_STATUS_ERR err).modR fun c => { c with window := window c }

theorem RecView.loading_rc (v : RecView) (err : Nat) (window : Recorder → List Byte) :
    (v.loading err window).rc = { v.rc with window := window v.rc } := by
  simp only [RecView.loading, RecView.modR_rc, RecView.set_rc, RecView.showWindow_rc]

@[simp] theorem RecView.loading_page (v : RecView) (err : Nat) (window : Recorder → List Byte) : (v.loading err window).page = v.page := by
  simp [RecView.loading]

theorem RecView.loading_fields (v : RecView) (err : Nat) (window : Recorder → List Byte) :
    (v.loading err window).get REC_STATUS_ERR = err % 4 ∧ (v.loading err window).get REC_STATUS_READY = 0
      ∧ (v.loading err window).get REC_CURSOR_CURSOR = v.get REC_CURSOR_CURSOR := by
  unfold RecView.loading
  refine ⟨?_, ?_, ?_⟩
  · rw [RecView.modR_get]
    exact RecView.get_set_same _ ⟨by decide, by decide⟩ err
  · rw [RecView.modR_get, RecView.get_set_other _ ⟨by decide, by decide⟩ (by decide), RecView.showWindow_get _ _ (by decide)]
    exact RecView.get_set_same _ ⟨by decide, by decide⟩ 0
  · rw [RecView.modR_get, RecView.get_set_other _ ⟨by decide, by decide⟩ (by decide), RecView.showWindow_get _ _ (by decide),
      RecView.get_set_other _ ⟨by decide, by decide⟩ (by decide)]

section Load
variable {v : RecView} (warn : Bool)

theorem RecView.loadWindow_ahead (hsrc : v.get REC_CTRL_SRC = 0) (h : v.get REC_HEAD_HEAD ≤ v.get REC_CURSOR_CURSOR) :
    v.loadWindow warn = v.loading 1 fun _ => [] := by
  unfold RecView.loadWindow
  simp only [hsrc]
  exact if_pos h

theorem RecView.loadWindow_found (hsrc : v.get REC_CTRL_SRC = 0) (h : v.get REC_CURSOR_CURSOR < v.get REC_HEAD_HEAD) {b : List Byte}
    (hrec : v.rc.ringRec (v.get REC_CURSOR_CURSOR) = some b) : v.loadWindow warn = v.loading 0 fun _ => b := by
  unfold RecView.loadWindow
  simp only [hsrc, hrec]
  exact if_neg (by omega)

/-- Whatever the source, the window alone is loaded. -/
theorem RecView.loadWindow_loads (v : RecView) (warn : Bool) : ∃ err window, v.loadWindow warn = v.loading err window := by
  unfold RecView.loadWindow
  dsimp only
  split
  · split
    · exact ⟨1, fun _ => [], rfl⟩
    · split
      next b _ => exact ⟨0, fun _ => b, rfl⟩
      next => exact ⟨2, fun _ => [], rfl⟩
  · exact ⟨0, fun c => if warn then [] else c.slotBytes (v.get REC_CTRL_SRC - 1) (v.get REC_CURSOR_CURSOR % 1024), rfl⟩

end Load

/-! ### Registers of the recorder over the port -/

/-- The recorder is awake always (R489). -/
theorem DieUnit.recorder_awake (d : DieUnit) {addr : Nat} (h : domOfReg addr = none) : d.asleep addr = false := by
  simp [DieUnit.asleep, h]

theorem DieUnit.writeEffect_cursor (d : DieUnit) (m : Nat) (w : W64) (a : Access) (q : Nat) :
    d.writeEffect addr_REC_CURSOR m w a q
      = { d with regs := d.regs.setWord addr_REC_CURSOR (BitVec.ofNat 64 m) }.withRec
        (({ d with regs := d.regs.setWord addr_REC_CURSOR (BitVec.ofNat 64 m) }.recView q).loadWindow
          ({ d with regs := d.regs.setWord addr_REC_CURSOR (BitVec.ofNat 64 m) }.on DU_SAG_WARN_NOW)) := by
  unfold DieUnit.writeEffect
  rfl

/-- A write of the cursor loads the window (R489). -/
theorem DieUnit.portWrite_cursor (d : DieUnit) {cursor : Nat} (hc : cursor < 2 ^ 32) (q : Nat) : ∃ e : DieUnit,
    d.portWrite addr_REC_CURSOR cursor true q = (e.withRec ((e.recView q).loadWindow (e.on DU_SAG_WARN_NOW))).answers 0
      ∧ e.get REC_CURSOR_CURSOR = cursor ∧ e.recd = d.recd ∧ ∀ f : Fld, f.reg ≠ addr_REC_CURSOR → e.get f = d.get f := by
  have hwrite := d.writeReg_merged (addr := addr_REC_CURSOR) (by decide) (by decide) (by decide : masksOf .du addr_REC_CURSOR = ⟨0, 0xFFFFFFFF, 0⟩)
    (by decide) (by decide) cursor q (addr_REC_CURSOR % 4096)
  unfold DieUnit.portWrite
  rw [DieUnit.portAccess_writes (ad := addr_REC_CURSOR) (by decide) (fun _ => d.recorder_awake (by decide)) (by decide), hwrite]
  refine ⟨{ d with regs := d.regs.setWord addr_REC_CURSOR (BitVec.ofNat 64 (mergedWord (d.regs.word addr_REC_CURSOR).toNat (0xFFFFFFFF ||| 0) cursor)) },
    ?_, ?_, rfl, fun f hf => RegFile.get_congr ((RegFile.word_setWord _ _ _ _).trans (if_neg hf))⟩
  · rw [DieUnit.writeEffect_cursor]
  · refine (RegFile.get_setWord_ofNat d.regs (f := REC_CURSOR_CURSOR) (by decide) _).trans ?_
    rw [bits_mergedWord _ _ (by decide) (by decide)]
    simp only [bits, Nat.pow_zero, Nat.div_one]
    exact Nat.mod_eq_of_lt hc

theorem RecView.triggerFlush_recent {v : RecView} {t : Nat} (h : v.rc.lastFault = some t) (ht : v.ctx.mono < t + 10000000000) (cause : Nat) :
    v.triggerFlush cause = v := by
  unfold RecView.triggerFlush
  simp [h, ht]

theorem RecView.triggerFlush_asks {v : RecView} (h : v.rc.lastFault = none) (hflush : v.rc.flush = none) (cause : Nat) :
    v.triggerFlush cause = v.modR fun c => { c with trigger := some (c.trigger.getD cause) } := by
  unfold RecView.triggerFlush
  simp [h, hflush]

theorem DieUnit.writeEffect_recCtrl (d : DieUnit) (m : Nat) (w : W64) (a : Access) (q : Nat) :
    d.writeEffect addr_REC_CTRL m w a q = d.writeRecCtrl m a.priv := by
  unfold DieUnit.writeEffect
  rfl

/-- A write of FLUSH asks the recorder for a commanded flush (R487, Table 17-12). -/
theorem DieUnit.portSet_flush (d : DieUnit) (q : Nat) : ∃ e : DieUnit,
    d.portSet REC_CTRL_FLUSH 1 q = (e.withRec ((e.recView 0).triggerFlush 3)).answers 0 ∧ (e.recView 0).rc = d.recd ∧ e.cnt = d.cnt
      ∧ (e.recView 0).ctx.mono = d.mono := by
  have hwrite := d.writeReg_merged (addr := addr_REC_CTRL) (by decide) (by decide)
    (by decide : masksOf .du addr_REC_CTRL = ⟨0xFFFFFF03, 0x1C, 0⟩) (by decide) (by decide)
    (setBits (d.regs.word addr_REC_CTRL).toNat 1 1 1) q (addr_REC_CTRL % 4096)
  have hasks : bit (mergedWord (d.regs.word addr_REC_CTRL).toNat (0x1C ||| 0xFFFFFF03) (setBits (d.regs.word addr_REC_CTRL).toNat 1 1 1)) 1 = true := by
    rw [bit_mergedWord _ _ (by decide) (by decide)]
    exact (testBit_setBits _ _ _ _ _ (by decide)).trans (if_pos (by decide))
  unfold DieUnit.portSet DieUnit.portWrite
  rw [DieUnit.portAccess_writes (ad := addr_REC_CTRL) (by decide) (fun _ => d.recorder_awake (by decide)) (by decide), hwrite]
  generalize mergedWord (d.regs.word addr_REC_CTRL).toNat (0x1C ||| 0xFFFFFF03) (setBits (d.regs.word addr_REC_CTRL).toNat 1 1 1) = m at hasks
  rw [DieUnit.writeEffect_recCtrl, DieUnit.writeRecCtrl, if_pos ⟨rfl, hasks⟩]
  exact ⟨_, rfl, rfl, rfl, rfl⟩

/-- A read of the window's last word, which moves the cursor on where AUTO is set (R489). -/
theorem DieUnit.portRead_window (d : DieUnit) (q : Nat) : d.portAccess (addr_REC_WIN 7) none true q
    = (d.withRec ((d.recView q).autoAdvance (d.on DU_SAG_WARN_NOW))).answers (d.regs.word (addr_REC_WIN 7)) := by
  rw [DieUnit.portAccess_reads (ad := addr_REC_WIN 7) (by decide) (fun _ => d.recorder_awake (by decide)) (by decide)]
  rfl

theorem DieUnit.head_lt (d : DieUnit) : d.get REC_HEAD_HEAD < 2 ^ 32 := by
  have hlt := Nat.mod_lt ((d.regs.word addr_REC_HEAD).toNat / 2 ^ 0) (Nat.two_pow_pos (31 + 1 - 0))
  rwa [show 31 + 1 - 0 = 32 from rfl] at hlt

theorem DieUnit.answers_get (d : DieUnit) (v : W64) (f : Fld) : (d.answers v).get f = d.get f := rfl
theorem DieUnit.answers_recd (d : DieUnit) (v : W64) : (d.answers v).recd = d.recd := rfl
theorem DieUnit.recView_rc (d : DieUnit) (q : Nat) : (d.recView q).rc = d.recd := rfl

/-- A die unit whose window is being loaded. -/
theorem DieUnit.loading_fields (d : DieUnit) {v : RecView} (hv : v.page = 0xD) (err : Nat) (window : Recorder → List Byte) (r : W64) :
    let e := (d.withRec (v.loading err window)).answers r
    e.get REC_CURSOR_CURSOR = v.get REC_CURSOR_CURSOR ∧ e.get REC_STATUS_ERR = err % 4 ∧ e.get REC_STATUS_READY = 0
      ∧ e.recd = { v.rc with window := window v.rc } := by
  intro e
  obtain ⟨herr, hready, hcursor⟩ := v.loading_fields err window
  have page : (v.loading err window).page = 0xD := by rw [RecView.loading_page, hv]
  refine ⟨?_, ?_, ?_, ?_⟩
  · rw [DieUnit.answers_get, DieUnit.withRec_get _ page (by decide), hcursor]
  · rw [DieUnit.answers_get, DieUnit.withRec_get _ page (by decide), herr]
  · rw [DieUnit.answers_get, DieUnit.withRec_get _ page (by decide), hready]
  · rw [DieUnit.answers_recd, DieUnit.withRec_recd, RecView.loading_rc]

/-- What the view of a cursor that has been written shows. -/
theorem DieUnit.cursorView_get {d e : DieUnit} {cursor : Nat} (hcursor : e.get REC_CURSOR_CURSOR = cursor)
    (hother : ∀ f : Fld, f.reg ≠ addr_REC_CURSOR → e.get f = d.get f) (q : Nat) : (e.recView q).get REC_CURSOR_CURSOR = cursor
      ∧ (e.recView q).get REC_CTRL_SRC = d.get REC_CTRL_SRC ∧ (e.recView q).get REC_HEAD_HEAD = d.get REC_HEAD_HEAD := by
  refine ⟨?_, ?_, ?_⟩
  · rw [DieUnit.recView_get _ _ (by decide), hcursor]
  · rw [DieUnit.recView_get _ _ (by decide), hother _ (by decide)]
  · rw [DieUnit.recView_get _ _ (by decide), hother _ (by decide)]

/-- Settles O34: what a write of FLUSH, a write of the cursor and a read of the window's last word do to the recorder. -/
theorem recorderRegistersAndWindow : Obligations.RecorderRegistersAndWindow := by
  unfold Obligations.RecorderRegistersAndWindow
  intro s cursor q b
  refine ⟨?asks, ?recent, ?ahead, ?found, ?duLoaded, ?aggLoaded, ?still, ?advances, rfl, rfl, rfl⟩
  case asks =>
    intro hlast hflush htrigger
    obtain ⟨e, hset, hrecd, hcnt, -⟩ := s.du.portSet_flush q
    have hasks := RecView.triggerFlush_asks (v := e.recView 0) (by rw [hrecd, hlast]) (by rw [hrecd, hflush]) 3
    have hrc : ((e.recView 0).triggerFlush 3).rc = { s.du.recd with trigger := some (s.du.recd.trigger.getD 3) } := by
      rw [hasks, RecView.modR_rc, hrecd]
    refine ⟨_, congrArg (nextDu s) hset, (congrArg (·.trigger) hrc).trans ?_, congrArg (·.ring) hrc, hcnt⟩
    rw [htrigger]
    rfl
  case recent =>
    intro hlast
    obtain ⟨e, hset, hrecd, -, hmono⟩ := s.du.portSet_flush q
    refine ⟨_, congrArg (nextDu s) hset, ?_⟩
    have hsame := RecView.triggerFlush_recent (v := e.recView 0) (by rw [hrecd, hlast]) (by rw [hmono]; omega) 3
    exact (congrArg (·.rc) hsame).trans hrecd
  case ahead =>
    intro hsrc hc hahead
    obtain ⟨e, hwrite, hwritten, -, hother⟩ := s.du.portWrite_cursor hc q
    obtain ⟨hcursor, hsrc', hhead⟩ := DieUnit.cursorView_get hwritten hother q
    rw [RecView.loadWindow_ahead _ (hsrc'.trans hsrc) (by rw [hhead, hcursor]; exact hahead)] at hwrite
    obtain ⟨hcur, herr, hready, hrecd⟩ := e.loading_fields (v := e.recView q) (by simp) 1 (fun _ => []) 0
    exact ⟨_, congrArg (nextDu s) hwrite, hcur.trans hcursor, herr, hready, by rw [hrecd]⟩
  case found =>
    intro hsrc hbelow hrec
    obtain ⟨e, hwrite, hwritten, hsame, hother⟩ := s.du.portWrite_cursor (hbelow.trans s.du.head_lt) q
    obtain ⟨hcursor, hsrc', hhead⟩ := DieUnit.cursorView_get hwritten hother q
    rw [RecView.loadWindow_found _ (hsrc'.trans hsrc) (by rw [hhead, hcursor]; exact hbelow)
      (by rw [hcursor, DieUnit.recView_rc, hsame, hrec])] at hwrite
    obtain ⟨hcur, herr, hready, hrecd⟩ := e.loading_fields (v := e.recView q) (by simp) 0 (fun _ => b) 0
    exact ⟨_, congrArg (nextDu s) hwrite, hcur.trans hcursor, herr, hready, by rw [hrecd], by rw [hrecd, DieUnit.recView_rc, hsame]⟩
  case duLoaded =>
    refine ⟨s.du.withRec (s.du.recView 0).windowLoaded, rfl, ?_, ?_⟩
    · rw [DieUnit.withRec_get _ (by simp [RecView.windowLoaded]) (by decide), RecView.windowLoaded_ready]
    · rw [DieUnit.withRec_recd, RecView.windowLoaded_rc, DieUnit.recView_rc]
  case aggLoaded =>
    refine ⟨s.agg.withRec s.agg.recView.windowLoaded, rfl, ?_, ?_⟩
    · rw [Aggregator.withRec_get _ (by simp [RecView.windowLoaded]), RecView.windowLoaded_ready]
    · rw [Aggregator.withRec_recd, RecView.windowLoaded_rc, Aggregator.recView_rc]
  case still =>
    intro hauto
    have hstill : (s.du.recView q).autoAdvance (s.du.on DU_SAG_WARN_NOW) = s.du.recView q :=
      if_neg (by rw [DieUnit.recView_on _ _ (by decide), hauto]; decide)
    have hread := s.du.portRead_window q
    rw [DieUnit.withRec_same hstill] at hread
    exact ⟨_, congrArg (nextDu s) hread, rfl, rfl, rfl⟩
  case advances =>
    intro hauto
    have hadvances : (s.du.recView q).autoAdvance (s.du.on DU_SAG_WARN_NOW)
        = ((s.du.recView q).set REC_CURSOR_CURSOR (s.du.get REC_CURSOR_CURSOR + 1)).loadWindow (s.du.on DU_SAG_WARN_NOW) := by
      rw [RecView.autoAdvance, if_pos (by rw [DieUnit.recView_on _ _ (by decide), hauto]), DieUnit.recView_get _ _ (by decide)]
    obtain ⟨err, window, hload⟩ := RecView.loadWindow_loads ((s.du.recView q).set REC_CURSOR_CURSOR (s.du.get REC_CURSOR_CURSOR + 1))
      (s.du.on DU_SAG_WARN_NOW)
    have hread := s.du.portRead_window q
    rw [hadvances, hload] at hread
    obtain ⟨hcur, -, -, hrecd⟩ := s.du.loading_fields (v := (s.du.recView q).set REC_CURSOR_CURSOR (s.du.get REC_CURSOR_CURSOR + 1)) (by simp)
      err window (s.du.regs.word (addr_REC_WIN 7))
    refine ⟨_, congrArg (nextDu s) hread, hcur.trans ?_, rfl, by rw [hrecd, RecView.set_rc, DieUnit.recView_rc]⟩
    exact RecView.get_set_same _ ⟨by decide, by decide⟩ _

end Sys2Proof.Machine
end PortAccesses

section HealthReports
/-!
PROOFS. Health reports, sensor readings and lineage records of the die unit (R94, R95, R178, R395, R397).
-/
namespace Sys2Proof.Machine

/-! ### Wakes -/

/-- A wake cause of another domain leaves the trace funnel and the health queue (R73). -/
theorem DieUnit.wake_he (d : DieUnit) (k : FastDom) : (d.wake k).he = d.he := by
  have hpd (e : DieUnit) (p : DomainPower) : (e.setPd k p).he = e.he := by cases k <;> rfl
  unfold DieUnit.wake
  split
  · simp only
    split <;> simp [hpd]
  · split
    · split <;> rfl
    · simp [hpd, DieUnit.setPdState]

/-- A wake cause starts a sleeping egress domain, while no supply warning stands (R73, R480). -/
theorem DieUnit.wake_egr_starts {d : DieUnit} (hoff : d.pdState .egr = 0) (hwarn : d.on DU_SAG_WARN_NOW = false) : (d.wake .egr).pdState .egr = 1 := by
  unfold DieUnit.wake
  rw [if_neg (by simp [hoff]), if_neg (by simp [hwarn])]
  exact RegFile.get_set _ _ _ ⟨by decide, by decide⟩

/-! ### Reports (R94, R395, R397) -/

/-- The record of a report of severity 0. -/
def DieUnit.reported (d : DieUnit) (unit_ op code : Nat) : HealthRec :=
  { hseq := d.get HE_COUNTS_HSEQ_NEXT, unit_ := unit_ % 256, op := op % 256, code := code, sev := 0, stale := d.snStale, quality := d.quality,
    repeat_ := 0, firstT := d.stamp 0, temp := d.sn.temp, mv := d.sn.mv, job := d.jobId, gen := d.jobGen, step := d.get TCK_STEP, lastDt := 0,
    at_ := d.mono, released := false }

theorem healthCodeOk_integrator {code : Nat} (hlow : 0x1000 ≤ code) (hhigh : code < 0x10000) : healthCodeOk (code % 65536) = true := by
  rw [Nat.mod_eq_of_lt hhigh]
  simp [healthCodeOk, hlow]

theorem DieUnit.heReport_taken (d : DieUnit) (unit_ op : Nat) {code : Nat} (hlow : 0x1000 ≤ code) (hhigh : code < 0x10000) :
    d.heReport unit_ op code 0 = d.takeReport (unit_ % 256) (op % 256) code 0 := by
  unfold DieUnit.heReport
  rw [if_neg (by simp [healthCodeOk_integrator hlow hhigh]), Nat.mod_eq_of_lt hhigh]

/-- A record joins a queue that has room and folds nothing. -/
theorem DieUnit.queueHealth_joins {d : DieUnit} {r : HealthRec} (hfold : d.get HE_CTRL_COALESCE = 0) (hroom : d.he.queue.length < 16) :
    d.queueHealth r = (false, d.pushHealth r) := by
  unfold DieUnit.queueHealth
  simp only [hfold, ne_eq, not_true_eq_false, false_and, and_false, if_false, hroom, if_true]

/-- The report latched in HE_LAST, and recorded. -/
def DieUnit.latched (d : DieUnit) (unit_ op code : Nat) : DieUnit :=
  ((((d.set HE_LAST_UNIT unit_).set HE_LAST_OP op).set HE_LAST_CODE code).set HE_LAST_SEV 0).recordLimited rcHealth code
    (leBytes 1 unit_ ++ leBytes 1 op ++ leBytes 2 code ++ leBytes 1 0)

theorem DieUnit.latched_fields (d : DieUnit) (unit_ op code : Nat) : (d.latched unit_ op code).he = d.he ∧ (d.latched unit_ op code).toc = d.toc
    ∧ (d.latched unit_ op code).trc = d.trc ∧ (d.latched unit_ op code).cnt = d.cnt ∧ (d.latched unit_ op code).get HE_CTRL_COALESCE = d.get HE_CTRL_COALESCE
    ∧ (d.latched unit_ op code).get HE_LAST_CODE = code % 65536 := by
  unfold DieUnit.latched DieUnit.recordLimited
  have word (e : DieUnit) {k : Nat} (hk : k / 4096 ≠ 0xD) (c key : Nat) (data : List Byte) :=
    e.withRec_word (RecView.Within.recordLimited (e.recView 0) c key data) hk
  refine ⟨by simp, by simp, by simp, by simp, ?_, ?_⟩
  · refine (RegFile.get_congr (word _ (by decide) _ _ _)).trans ?_
    iterate 3 refine (RegFile.get_set_other _ _ _ _ ⟨by decide, by decide⟩ (.inl (by decide))).trans ?_
    exact RegFile.get_set_other _ _ _ _ ⟨by decide, by decide⟩ (.inl (by decide))
  · refine (RegFile.get_congr (word _ (by decide) _ _ _)).trans ?_
    refine (RegFile.get_set_other _ _ _ _ ⟨by decide, by decide⟩ (.inr (by decide))).trans ?_
    exact RegFile.get_set _ _ _ ⟨by decide, by decide⟩

/-- A report of severity 0 that finds room: it is latched, recorded and queued, with its sensor's staleness noted. -/
theorem DieUnit.takeReport_queues {d : DieUnit} (hen : d.on HE_CTRL_EN = true) (hfold : d.get HE_CTRL_COALESCE = 0)
    (hroom : d.he.queue.length < 16) (unit_ op code : Nat) : d.takeReport (unit_ % 256) (op % 256) code 0
      = if d.snStale then ((d.latched (unit_ % 256) (op % 256) code).pushHealth (d.reported unit_ op code)).raiseAll 0xC [HE_STATUS_STALE]
        else (d.latched (unit_ % 256) (op % 256) code).pushHealth (d.reported unit_ op code) := by
  obtain ⟨hhe, -, -, -, hsame, -⟩ := d.latched_fields (unit_ % 256) (op % 256) code
  have hjoins := DieUnit.queueHealth_joins (d := d.latched (unit_ % 256) (op % 256) code) (r := d.reported unit_ op code) (hsame.trans hfold)
    (by rw [hhe]; exact hroom)
  unfold DieUnit.takeReport
  rw [if_neg (by simp [hen])]
  extract_lets t r d1 data d2
  have hd2 : d2 = d.latched (unit_ % 256) (op % 256) code := if_neg (by decide)
  have hr : r = d.reported unit_ op code := rfl
  rw [hd2, hr, hjoins]
  cases d.snStale <;> simp

theorem DieUnit.pushHealth_fields (d : DieUnit) (r : HealthRec) : (d.pushHealth r).he.queue = d.he.queue ++ [r] ∧ (d.pushHealth r).toc = d.toc
    ∧ (d.pushHealth r).trc = d.trc ∧ (d.pushHealth r).cnt = d.cnt ∧ (d.pushHealth r).get HE_LAST_CODE = d.get HE_LAST_CODE := by
  unfold DieUnit.pushHealth
  refine ⟨by simp, by simp, by simp, by simp, ?_⟩
  exact RegFile.get_set_other _ _ _ _ ⟨by decide, by decide⟩ (.inl (by decide))

/-- One event that sets one status bit. -/
theorem RegFile.raiseAll_one (r : RegFile) (f : Fld) : r.raiseAll (pageOf f.reg) [f] = r.raise f := rfl

theorem DieUnit.staleNoted_fields (d : DieUnit) : (d.raiseAll 0xC [HE_STATUS_STALE]).he = d.he ∧ (d.raiseAll 0xC [HE_STATUS_STALE]).toc = d.toc
    ∧ (d.raiseAll 0xC [HE_STATUS_STALE]).trc = d.trc ∧ (d.raiseAll 0xC [HE_STATUS_STALE]).cnt = d.cnt
    ∧ (d.raiseAll 0xC [HE_STATUS_STALE]).get HE_LAST_CODE = d.get HE_LAST_CODE := by
  refine ⟨by simp, by simp, by simp, by simp, ?_⟩
  unfold DieUnit.get
  rw [(DieUnit.raiseAll_fields d 0xC [HE_STATUS_STALE]).1, show (0xC : Nat) = pageOf HE_STATUS_STALE.reg by decide, RegFile.raiseAll_one]
  exact RegFile.get_congr (RegFile.word_raise _ _ (by decide) (by decide))

theorem DieUnit.heReport_queues {d : DieUnit} (hen : d.on HE_CTRL_EN = true) (hfold : d.get HE_CTRL_COALESCE = 0) (hroom : d.he.queue.length < 16)
    (unit_ op : Nat) {code : Nat} (hlow : 0x1000 ≤ code) (hhigh : code < 0x10000) :
    (d.heReport unit_ op code 0).he.queue = d.he.queue ++ [d.reported unit_ op code] ∧ (d.heReport unit_ op code 0).get HE_LAST_CODE = code
      ∧ (d.heReport unit_ op code 0).toc = d.toc ∧ (d.heReport unit_ op code 0).trc = d.trc ∧ (d.heReport unit_ op code 0).cnt = d.cnt := by
  obtain ⟨hhe, htoc, htrc, hcnt, -, hcode⟩ := d.latched_fields (unit_ % 256) (op % 256) code
  obtain ⟨hqueue, htoc', htrc', hcnt', hcode'⟩ := (d.latched (unit_ % 256) (op % 256) code).pushHealth_fields (d.reported unit_ op code)
  rw [hhe] at hqueue
  rw [hcode, Nat.mod_eq_of_lt hhigh] at hcode'
  rw [d.heReport_taken unit_ op hlow hhigh, DieUnit.takeReport_queues hen hfold hroom]
  split
  · obtain ⟨hn, ht, hr, hc, hl⟩ := ((d.latched (unit_ % 256) (op % 256) code).pushHealth (d.reported unit_ op code)).staleNoted_fields
    exact ⟨by rw [hn, hqueue], hl.trans hcode', by rw [ht, htoc', htoc], by rw [hr, htrc', htrc], by rw [hc, hcnt', hcnt]⟩
  · exact ⟨hqueue, hcode', by rw [htoc', htoc], by rw [htrc', htrc], by rw [hcnt', hcnt]⟩

/-! ### Readings (R95) -/

theorem DieUnit.takeReading_fields (d : DieUnit) (temp : Int) (mv : Nat) : (d.takeReading temp mv).sn = ⟨temp, mv % 8192, some d.mono⟩
    ∧ (d.takeReading temp mv).he = d.he ∧ (d.takeReading temp mv).tcp = d.tcp
    ∧ (d.takeReading temp mv).regs = ((d.regs.setI HE_SENSOR_TEMP temp).set HE_SENSOR_MV mv).set HE_SENSOR_STALE_NOW 0 := by
  cases d
  exact ⟨rfl, rfl, rfl, rfl⟩

theorem DieUnit.takeReading_fresh (d : DieUnit) (temp : Int) (mv : Nat) : (d.takeReading temp mv).snStale = false := by
  cases d
  next tc _ _ _ _ _ _ _ _ _ _ _ _ _ _ _ _ _ _ _ _ _ _ _ =>
    show decide (4000000 < tc.mono - tc.mono) = false
    simp

/-! ### Releases (R397) -/

/-- A held record is due. -/
def DieUnit.releaseDue (d : DieUnit) (hseq : Nat) (r : HealthRec) : Bool :=
  decide (r.hseq = hseq) && !r.released && decide (r.at_ + d.get HE_CTRL_COALESCE * 10000 ≤ d.mono)

theorem DieUnit.releaseHealth_early {d : DieUnit} {hseq : Nat} (h : d.he.queue.any (d.releaseDue hseq) = false) : d.releaseHealth hseq = d :=
  if_neg (by rw [Bool.not_eq_true]; exact h)

/-- A record, released where it is due. -/
def DieUnit.release (d : DieUnit) (hseq : Nat) (r : HealthRec) : HealthRec := if d.releaseDue hseq r then { r with released := true } else r

theorem DieUnit.releaseHealth_queue {d : DieUnit} {hseq : Nat} (h : d.he.queue.any (d.releaseDue hseq) = true) :
    (d.releaseHealth hseq).he.queue = d.he.queue.map (d.release hseq) := by
  have hreleased : d.releaseHealth hseq = (d.modHe fun h => { h with queue := h.queue.map (d.release hseq) }).wake .egr := if_pos h
  rw [hreleased, DieUnit.wake_he]
  simp

/-! ### The statement -/

/-- Settles O31: each clause by the lemma of its event. -/
theorem reportsReadingsAndLineage : Obligations.ReportsReadingsAndLineage := by
  unfold Obligations.ReportsReadingsAndLineage
  intro s rec_ unit_ op code mv hseq temp
  refine ⟨?queued, ?refused, ?idle, rfl, rfl, ?disabled, ?report, ?reading, ?early, ?release⟩
  case queued =>
    intro hon hroom hok
    have hexec : s.du.lineageTransfer rec_
        = (s.du.modTcp fun t => { t with lineage := t.lineage ++ [⟨s.du.jobId, s.du.jobGen, rec_⟩] }).wake .egr :=
      (if_neg (by simp [hon, hroom])).trans (if_pos hok)
    refine ⟨_, congrArg (fun d : DieUnit => nextDu s d.serve) hexec, by rw [DieUnit.wake_tcp]; simp, fun hoff hwarn => ?_⟩
    exact DieUnit.wake_egr_starts hoff hwarn
  case refused =>
    exact fun hon hroom hok => congrArg (fun d : DieUnit => nextDu s d.serve) ((if_neg (by simp [hon, hroom])).trans (if_neg (by simp [hok])))
  case idle =>
    exact fun h => congrArg (fun d : DieUnit => nextDu s d.serve) (if_pos (h.imp_left fun hon => by simp [hon]))
  case disabled =>
    exact fun hoff hlow hhigh => congrArg (fun d : DieUnit => nextDu s d.serve) ((s.du.heReport_taken unit_ op hlow hhigh).trans (if_pos (by simp [hoff])))
  case report =>
    intro hen hfold hroom hlow hhigh
    obtain ⟨hqueue, hcode, htoc, htrc, hcnt⟩ := DieUnit.heReport_queues hen hfold hroom unit_ op hlow hhigh
    exact ⟨_, s.du.reported unit_ op code, rfl, hqueue, rfl, rfl, rfl, rfl, rfl, rfl, rfl, rfl, rfl, hcode, htoc, htrc, hcnt⟩
  case reading =>
    obtain ⟨hsn, hhe, htcp, hregs⟩ := s.du.takeReading_fields temp mv
    refine ⟨_, rfl, hsn, ?_, hhe, htcp, ?_⟩
    · exact s.du.takeReading_fresh temp mv
    · refine (congrArg (RegFile.get · HE_SENSOR_MV) hregs).trans ?_
      exact (RegFile.get_set_other _ _ _ _ ⟨by decide, by decide⟩ (.inr (by decide))).trans (RegFile.get_set _ _ _ ⟨by decide, by decide⟩)
  case early =>
    intro hheld
    refine congrArg (fun d : DieUnit => nextDu s d.serve) (DieUnit.releaseHealth_early (List.any_eq_false.2 fun r hr => ?_))
    unfold DieUnit.releaseDue
    by_cases hmatch : r.hseq = hseq
    · rcases hheld r hr hmatch with hreleased | hearly
      · simp [hreleased]
      · simp [hearly]
    · simp [hmatch]
  case release =>
    intro r hr hmatch hreleased hdue
    have hthis : s.du.releaseDue hseq r = true := by
      unfold DieUnit.releaseDue
      simp only [hmatch, hreleased, hdue, decide_true, Bool.not_false, Bool.and_self]
    have hqueue := DieUnit.releaseHealth_queue (List.any_eq_true.2 ⟨r, hr, hthis⟩)
    refine ⟨_, rfl, ?_, ?_⟩
    · rw [hqueue]
      exact List.mem_map.2 ⟨r, hr, if_pos hthis⟩
    · rw [hqueue, List.length_map]

end Sys2Proof.Machine
end HealthReports

section ScoreUpkeep
/-!
PROOFS. Mismatches that wait for their resolution, the decay of penalties, and conditional suspects (R398, R401, R403).
-/
namespace Sys2Proof.Machine

/-! ### Mismatches (R398) -/

theorem length_dropFirst {α : Type} {p : α → Bool} {x : α} : ∀ {l : List α}, l.find? p = some x → (dropFirst p l).length + 1 = l.length
  | y :: l, h => by
    by_cases hy : p y = true
    · simp [dropFirst, hy]
    · simp only [dropFirst, hy, Bool.false_eq_true, if_false, List.length_cons]
      rw [length_dropFirst (by simpa [List.find?_cons, hy] using h)]

theorem Aggregator.resolveTimeout_none {a : Aggregator} {duid : Nat} (h : a.hlt.mismatches.find? (fun m => m.duid = duid) = none) :
    a.resolveTimeout duid = a := by
  unfold Aggregator.resolveTimeout
  simp only [h]

/-- The mismatch leaves the list before its notice is written. -/
def Aggregator.mismatchTaken (a : Aggregator) (duid : Nat) : Aggregator :=
  a.modHlt fun h => { h with mismatches := dropFirst (fun x => x.duid = duid) h.mismatches }

theorem Aggregator.resolveTimeout_waits {a : Aggregator} {duid : Nat} {m : OpenMismatch}
    (h : a.hlt.mismatches.find? (fun m => m.duid = duid) = some m) (hwait : a.mono < m.at_ + a.get HLT_CTRL_RESOLVE_WAIT * 1000000) :
    a.resolveTimeout duid = a := by
  unfold Aggregator.resolveTimeout
  simp only [h]
  exact if_neg (by omega)

theorem Aggregator.resolveTimeout_due {a : Aggregator} {duid : Nat} {m : OpenMismatch}
    (h : a.hlt.mismatches.find? (fun m => m.duid = duid) = some m) (hdue : m.at_ + a.get HLT_CTRL_RESOLVE_WAIT * 1000000 ≤ a.mono) :
    let e := a.mismatchTaken duid
    a.resolveTimeout duid = e.notice ⟨0x07, false, e.unitState (e.dieUnitOf duid), 0xFF, e.subject (e.dieUnitOf duid), e.fru (e.dieUnitOf duid),
      e.unitScore (e.dieUnitOf duid), 0x0003, 0, be m.rec_ 40 8, be m.rec_ 0 4, be m.rec_ 4 1, be m.rec_ 6 6, toLe mismatchSizes m.rec_⟩ := by
  unfold Aggregator.resolveTimeout
  simp only [h, if_pos hdue]
  unfold Aggregator.resolveMismatch
  simp only [h]
  rfl

/-! ### Decay (R401) -/

/-- One unit's penalty decays. -/
def Aggregator.decayed (k : Nat) (a : Aggregator) (u : Nat) : Aggregator :=
  if a.get (HU_STAT_PENALTY u) = 0 then a
  else a.set (HU_STAT_PENALTY u) (a.get (HU_STAT_PENALTY u) - a.get (HU_STAT_PENALTY u) / 2 ^ k)

theorem Aggregator.decayed_hlt (k : Nat) (a : Aggregator) (u : Nat) : (a.decayed k u).hlt = a.hlt := by
  unfold Aggregator.decayed
  split
  · rfl
  · simp

theorem fits_HU_STAT_PENALTY (u : Nat) : (HU_STAT_PENALTY u).fits := ⟨by show 16 ≤ 47; decide, by show 47 < 64; decide⟩

/-- A penalty after its decay. -/
def decayedPenalty (k p : Nat) : Nat := p - p / 2 ^ k

theorem Aggregator.decayed_penalty (k : Nat) (a : Aggregator) (u v : Nat) : (Aggregator.decayed k a u).get (HU_STAT_PENALTY v)
    = if u = v then decayedPenalty k (a.get (HU_STAT_PENALTY v)) else a.get (HU_STAT_PENALTY v) := by
  unfold Aggregator.decayed
  by_cases huv : u = v
  · subst huv
    rw [if_pos rfl]
    split
    next hzero => rw [hzero, decayedPenalty, Nat.zero_div, Nat.zero_sub]
    next =>
      refine (RegFile.get_set _ _ _ (fits_HU_STAT_PENALTY u)).trans (Nat.mod_eq_of_lt ?_)
      have hlt : a.get (HU_STAT_PENALTY u) < 2 ^ (47 + 1 - 16) := Nat.mod_lt _ (Nat.two_pow_pos _)
      exact Nat.lt_of_le_of_lt (Nat.sub_le _ _) hlt
  · rw [if_neg huv]
    split
    · rfl
    · exact RegFile.get_set_other _ _ _ _ (fits_HU_STAT_PENALTY u) (.inl (by dsimp only [addr_HU_STAT]; omega))

/-- Each unit's penalty decays once. -/
theorem Aggregator.decayAll_penalty (k : Nat) (a : Aggregator) {v : Nat} (hv : v < 577) :
    ((List.range 577).foldl (Aggregator.decayed k) a).get (HU_STAT_PENALTY v) = decayedPenalty k (a.get (HU_STAT_PENALTY v)) := by
  have hfold := List.foldl_hom (l := List.range 577) (init := a) (fun b : Aggregator => b.get (HU_STAT_PENALTY v))
    (g₁ := Aggregator.decayed k) (g₂ := fun p u => if u = v then decayedPenalty k p else p) fun b u => (b.decayed_penalty k u v).symm
  rw [← hfold, foldl_acts_at (k := v) (fun p u hu => if_neg hu) _ _ List.nodup_range (List.mem_range.2 hv), if_pos rfl]

theorem Aggregator.scoreDecay_early {a : Aggregator} (h : a.nowNs < a.hlt.decayAt + 60000000000) : a.scoreDecay = a := if_pos h

/-- The minute of the decay is noted. -/
def Aggregator.decayNoted (a : Aggregator) : Aggregator := a.modHlt fun h => { h with decayAt := a.nowNs / 60000000000 * 60000000000 }

theorem Aggregator.decayNoted_get (a : Aggregator) (f : Fld) : a.decayNoted.get f = a.get f := rfl

theorem Aggregator.scoreDecay_off {a : Aggregator} (hdue : a.hlt.decayAt + 60000000000 ≤ a.nowNs) (hshift : a.get HLT_CTRL_DECAY_SHIFT = 0) :
    a.scoreDecay = a.decayNoted.evaluateAll := by
  unfold Aggregator.scoreDecay
  rw [if_neg (by omega)]
  exact congrArg Aggregator.evaluateAll (if_pos hshift)

theorem Aggregator.scoreDecay_due {a : Aggregator} (hdue : a.hlt.decayAt + 60000000000 ≤ a.nowNs) (hshift : 0 < a.get HLT_CTRL_DECAY_SHIFT) :
    a.scoreDecay = ((List.range 577).foldl (Aggregator.decayed (a.get HLT_CTRL_DECAY_SHIFT)) a.decayNoted).evaluateAll := by
  unfold Aggregator.scoreDecay
  rw [if_neg (by omega)]
  exact congrArg Aggregator.evaluateAll (if_neg (by omega))

/-! ### Conditional suspects (R403) -/

section Suspect
variable {a : Aggregator} {u cell : Nat} {q : CondMark} {j : JobCtx} {r : SelRates}

theorem Aggregator.condExpiry_none (h : tabGet a.hlt.condStep (64 * u + cell) = none) : a.condExpiry u cell = a := by
  unfold Aggregator.condExpiry
  simp only [h]

variable (h : tabGet a.hlt.condStep (64 * u + cell) = some q) (hj : a.job q.ctx = some j) (hr : j.rates = some r)
include h hj hr

theorem Aggregator.condExpiry_early (hearly : j.dieStep (a.subject u) < q.step + r.suspectHold) : a.condExpiry u cell = a := by
  unfold Aggregator.condExpiry
  simp only [h, hj, hr]
  exact if_neg (by omega)

/-- The cell is no longer suspect. -/
def Aggregator.condCleared (a : Aggregator) (u cell : Nat) : Aggregator :=
  (a.set (HU_COND_COND u) (setBits (a.get (HU_COND_COND u)) cell cell 0)).modHlt fun h => { h with condStep := tabDel h.condStep (64 * u + cell) }

theorem Aggregator.condExpiry_clears (hdue : q.step + r.suspectHold ≤ j.dieStep (a.subject u)) :
    ∃ x : Notice, a.condExpiry u cell = (a.condCleared u cell).notice x := by
  unfold Aggregator.condExpiry
  simp only [h, hj, hr]
  exact ⟨_, if_pos ⟨hdue, rfl⟩⟩

end Suspect

theorem Aggregator.condCleared_fields (a : Aggregator) (u : Nat) {cell : Nat} (hcell : cell < 64) :
    bit ((a.condCleared u cell).get (HU_COND_COND u)) cell = false ∧ tabGet (a.condCleared u cell).hlt.condStep (64 * u + cell) = none
      ∧ (∀ n < 64, n ≠ cell → bit ((a.condCleared u cell).get (HU_COND_COND u)) n = bit (a.get (HU_COND_COND u)) n)
      ∧ (a.condCleared u cell).jobs = a.jobs := by
  have word : ∀ n < 64, bit ((a.condCleared u cell).get (HU_COND_COND u)) n = if n = cell then false else bit (a.get (HU_COND_COND u)) n := by
    intro n hn
    have hset : (a.condCleared u cell).get (HU_COND_COND u) = setBits (a.get (HU_COND_COND u)) cell cell 0 % 2 ^ 64 :=
      RegFile.get_set _ _ _ ⟨by show 0 ≤ 63; decide, by show 63 < 64; decide⟩
    rw [hset, bit, Nat.testBit_mod_two_pow, testBit_setBits _ _ _ _ _ (Nat.le_refl _)]
    by_cases hc : n = cell
    · simp [hc]
    · rw [if_neg (by omega), if_neg hc]
      simp [hn, bit]
  refine ⟨(word cell hcell).trans (if_pos rfl), ?_, fun n hn hne => (word n hn).trans (if_neg hne), ?_⟩
  · simp only [Aggregator.condCleared, Aggregator.modHlt_fields]
    exact (tabGet_del _ _ _).trans (if_pos rfl)
  · simp [Aggregator.condCleared]

/-- Settles O43: each clause by the lemma of its upkeep. -/
theorem mismatchesDecayAndConditionalSuspects : Obligations.MismatchesDecayAndConditionalSuspects := by
  unfold Obligations.MismatchesDecayAndConditionalSuspects
  intro s duid u cell m q j r a hserved
  have up (f : Aggregator → Aggregator) {b : Aggregator} (hf : f a = b) : s.onUp f = nextAgg s b :=
    (State.onUp_served s f hserved).trans (congrArg (nextAgg s) hf)
  refine ⟨?none, ?waits, ?resolved, ?early, ?off, ?decays, ?noMark, ?held, ?cleared⟩
  case none => exact fun h => up (·.resolveTimeout duid) (Aggregator.resolveTimeout_none h)
  case waits => exact fun h hwait => up (·.resolveTimeout duid) (Aggregator.resolveTimeout_waits h hwait)
  case resolved =>
    intro h hdue
    refine ⟨a.mismatchTaken duid, up (·.resolveTimeout duid) (Aggregator.resolveTimeout_due h hdue), ?_, ?_⟩
    · simp only [Aggregator.mismatchTaken, Aggregator.modHlt_fields]
      exact length_dropFirst h
    · simp [Aggregator.mismatchTaken]
  case early => exact fun h => up (·.scoreDecay) (Aggregator.scoreDecay_early h)
  case off => exact fun hdue hshift => up (·.scoreDecay) (Aggregator.scoreDecay_off hdue hshift)
  case decays =>
    intro hdue hshift
    refine ⟨_, up (·.scoreDecay) (Aggregator.scoreDecay_due hdue hshift), ?_, fun v hv => ?_⟩
    · rw [foldl_keeps Aggregator.hlt (fun b u => b.decayed_hlt _ u)]
      simp [Aggregator.decayNoted]
    · rw [Aggregator.decayAll_penalty _ _ hv, Aggregator.decayNoted_get, decayedPenalty]
  case noMark => exact fun h => up (·.condExpiry u cell) (Aggregator.condExpiry_none h)
  case held => exact fun h hj hr hearly => up (·.condExpiry u cell) (Aggregator.condExpiry_early h hj hr hearly)
  case cleared =>
    intro h hj hr hdue hu hcell
    obtain ⟨x, hx⟩ := Aggregator.condExpiry_clears h hj hr hdue
    exact ⟨_, x, up (·.condExpiry u cell) hx, a.condCleared_fields u hcell⟩

end Sys2Proof.Machine
end ScoreUpkeep

section LedgerUpkeep
/-!
PROOFS. Seals, spills and fetches of the ledger (R368, R369, R373 to R375, R385).
-/
namespace Sys2Proof.Machine

/-! ### Tables and ledgers -/

theorem tabDel_storeIns {α : Type} (m : Store α) (k : Nat) (v : α) : tabDel (storeIns m k v) k = tabDel m k := by
  induction m with
  | nil => simp [storeIns, tabDel]
  | cons e m ih =>
    obtain ⟨k', v'⟩ := e
    rw [storeIns]
    split
    · simp [tabDel]
    · unfold tabDel at ih ⊢
      rw [List.filter_cons, List.filter_cons, ih]

theorem tabPut_put {α : Type} (m : Store α) (k : Nat) (v w : α) : tabPut (tabPut m k v) k w = tabPut m k w := by
  unfold tabPut
  rw [tabDel_storeIns, tabDel_tabDel]
where
  tabDel_tabDel {α : Type} {m : Store α} {k : Nat} : tabDel (tabDel m k) k = tabDel m k := by simp [tabDel, List.filter_filter]

@[simp] theorem Ledger.stepState_modStep (l : Ledger) (step : Nat) (f : StepState → StepState) :
    (l.modStep step f).stepState step = f (l.stepState step) := by
  simp [Ledger.stepState, Ledger.modStep, tabGet_put]

/-- Two changes of one step are one change. -/
theorem Ledger.modStep_modStep (l : Ledger) (step : Nat) (f g : StepState → StepState) :
    (l.modStep step f).modStep step g = l.modStep step fun x => g (f x) := by
  rw [Ledger.modStep, Ledger.stepState_modStep]
  simp [Ledger.modStep, tabPut_put]

/-- A change of a ledger keeps its key. -/
def Ledger.KeepsKey (f : Ledger → Ledger) : Prop := ∀ l, (f l).job = l.job ∧ (f l).gen = l.gen ∧ (f l).home = l.home

theorem Ledger.keepsKey_modStep (step : Nat) (f : StepState → StepState) : Ledger.KeepsKey fun l => l.modStep step f := fun _ => ⟨rfl, rfl, rfl⟩

theorem Aggregator.ledger_modLedger {a : Aggregator} {job gen home : Nat} {g : Ledger} (h : a.ledger job gen home = some g)
    {f : Ledger → Ledger} (hf : Ledger.KeepsKey f) : (a.modLedger job gen home f).ledger job gen home = some (f g) := by
  have hmap : (a.modLedger job gen home f).ledger job gen home
      = (a.led.ledgers.map fun l => if l.job = job ∧ l.gen = gen ∧ l.home = home then f l else l).find?
          fun l => decide (l.job = job ∧ l.gen = gen ∧ l.home = home) := rfl
  have hkey : ∀ l, decide ((if l.job = job ∧ l.gen = gen ∧ l.home = home then f l else l).job = job
      ∧ (if l.job = job ∧ l.gen = gen ∧ l.home = home then f l else l).gen = gen
      ∧ (if l.job = job ∧ l.gen = gen ∧ l.home = home then f l else l).home = home) = decide (l.job = job ∧ l.gen = gen ∧ l.home = home) := by
    intro l
    obtain ⟨hjob, hgen, hhome⟩ := hf l
    split
    · rw [hjob, hgen, hhome]
    · rfl
  have hg : g.job = job ∧ g.gen = gen ∧ g.home = home := by
    simpa using List.find?_some (show a.led.ledgers.find? (fun l => decide (l.job = job ∧ l.gen = gen ∧ l.home = home)) = some g from h)
  rw [hmap, List.find?_map, show ((fun l : Ledger => decide (l.job = job ∧ l.gen = gen ∧ l.home = home)) ∘
    fun l => if l.job = job ∧ l.gen = gen ∧ l.home = home then f l else l) = _ from funext hkey]
  exact (congrArg (Option.map _) h).trans (congrArg some (if_pos hg))

theorem Aggregator.modLedger_modLedger (a : Aggregator) (job gen home : Nat) {f : Ledger → Ledger} (hf : Ledger.KeepsKey f) (g : Ledger → Ledger) :
    (a.modLedger job gen home f).modLedger job gen home g = a.modLedger job gen home fun l => g (f l) := by
  have hmap : (a.led.ledgers.map fun l => if l.job = job ∧ l.gen = gen ∧ l.home = home then f l else l).map
        (fun l => if l.job = job ∧ l.gen = gen ∧ l.home = home then g l else l)
      = a.led.ledgers.map fun l => if l.job = job ∧ l.gen = gen ∧ l.home = home then g (f l) else l := by
    rw [List.map_map]
    refine List.map_congr_left fun l _ => ?_
    obtain ⟨hjob, hgen, hhome⟩ := hf l
    by_cases hl : l.job = job ∧ l.gen = gen ∧ l.home = home
    · simp only [Function.comp_apply, if_pos hl]
      rw [if_pos (by rw [hjob, hgen, hhome]; exact hl)]
    · simp only [Function.comp_apply, if_neg hl]
  exact congrArg (fun x => { a with led := { a.led with ledgers := x } }) hmap

/-! ### Seals (R368, R369) -/

section Seals
variable {a : Aggregator} {ctx step t : Nat} {j : JobCtx} {g : Ledger}

theorem Aggregator.seals_absent (hj : a.job ctx = none) : a.stepSeal ctx step = a ∧ a.forcedSeal ctx step = a := by
  unfold Aggregator.stepSeal Aggregator.forcedSeal
  simp only [hj, and_self]

theorem Aggregator.stepSeal_unreached (hj : a.job ctx = some j) (hg : a.ledger j.job j.gen (a.homeOfCtx ctx) = some g)
    (ht : (g.stepState step).reached = none) : a.stepSeal ctx step = a := by
  unfold Aggregator.stepSeal
  simp only [hj, hg, Option.bind_some, ht]

theorem Aggregator.stepSeal_reached (hj : a.job ctx = some j) (hg : a.ledger j.job j.gen (a.homeOfCtx ctx) = some g)
    (ht : (g.stepState step).reached = some t) : a.stepSeal ctx step
      = if t + max 1 (a.get LDG_TIMING_SEAL_GRACE) * 1000000 ≤ a.mono then a.sealStep ctx step false else a := by
  unfold Aggregator.stepSeal
  simp only [hj, hg, Option.bind_some, ht]
  rfl

theorem Aggregator.forcedSeal_covered (hj : a.job ctx = some j) (hg : a.ledger j.job j.gen (a.homeOfCtx ctx) = some g)
    (ht : (g.stepState step).firstCov = some t) : a.forcedSeal ctx step
      = if t + max 1 (a.get LDG_TIMING_SEAL_WAIT) * 1000000000 ≤ a.mono then a.sealStep ctx step true else a := by
  unfold Aggregator.forcedSeal
  simp only [hj, hg, Option.bind_some, ht]
  rfl

theorem Aggregator.sealStep_sealed (hj : a.job ctx = some j) (hg : a.ledger j.job j.gen (a.homeOfCtx ctx) = some g)
    (hsealed : (g.stepState step).sealedNs.isSome = true) (forced : Bool) : a.sealStep ctx step forced = a := by
  unfold Aggregator.sealStep
  simp only [hj, hg]
  exact if_pos (.inl hsealed)

end Seals

/-! ### Spills (R373 to R375) -/

section Spills
variable {a : Aggregator} {job gen home step : Nat} {g : Ledger}

theorem Aggregator.stepSpill_absent (h : a.ledger job gen home = none) : a.stepSpill job gen home step = a := by
  unfold Aggregator.stepSpill
  simp only [h]

theorem Aggregator.stepSpill_eq (h : a.ledger job gen home = some g) :
    a.stepSpill job gen home step = a ∨ a.stepSpill job gen home step = a.spillNow job gen home step := by
  unfold Aggregator.stepSpill
  simp only [h]
  exact (ite_eq_or_eq _ _ _).symm

theorem Aggregator.spillNow_held (h : a.ledger job gen home = some g) (hheld : (g.stepState step).sealedNs = none
      ∨ (g.stepState step).writing.isSome = true ∨ (g.stepState step).freeing.isSome = true ∨ g.partRecs step = [] ∨ a.spillsFor g = false) :
    a.spillNow job gen home step = a := by
  unfold Aggregator.spillNow
  simp only [h]
  refine if_neg ?_
  rintro ⟨hsealed, hfor, hwriting, hfreeing, hrecs⟩
  rw [Option.isNone_iff_eq_none] at hwriting hfreeing
  rcases hheld with hnone | hsome | hsome | hnil | hnot
  · simp [Ledger.isSealed, hnone] at hsealed
  · simp [hwriting] at hsome
  · simp [hfreeing] at hsome
  · exact hrecs hnil
  · simp [hnot] at hfor

/-- The write of a step's next part is asked of the first controller (R373, R374). -/
theorem Aggregator.spillNow_writes {t ctl : Nat} (h : a.ledger job gen home = some g) (hsealed : (g.stepState step).sealedNs = some t)
    (hwriting : (g.stepState step).writing = none) (hfreeing : (g.stepState step).freeing = none) (hfor : a.spillsFor g = true)
    (hrecs : g.partRecs step ≠ []) (hctl : a.cfg.storage[0]? = some ctl) : a.spillNow job gen home step
      = (a.modLed fun u => { u with storage := u.storage ++ [⟨true, ctl, g.home, job, gen, step, (g.stepState step).parts,
            spillObject g t (g.partRecs step)⟩] }).modLedger job gen home fun l =>
          l.modStep step fun z => { z with writing := some (0, a.mono), wrote := (g.partRecs step).map LRec.lseq } := by
  unfold Aggregator.spillNow
  simp only [h]
  rw [if_pos ⟨by simp [Ledger.isSealed, hsealed], hfor, by simp [hwriting], by simp [hfreeing], hrecs⟩]
  unfold Aggregator.spillTo
  simp only [h, hsealed, hctl]

theorem Aggregator.stepSpill_due (h : a.ledger job gen home = some g) {new : Nat} (hnew : g.newestSealed = some new)
    (hdue : step + a.get LDG_CTRL_RESIDENT ≤ new ∨ (g.stepState step).spilled = true) :
    a.stepSpill job gen home step = a.spillNow job gen home step := by
  unfold Aggregator.stepSpill
  simp only [h, hnew]
  refine if_pos ?_
  rcases hdue with hold | hspilled
  · exact .inr (.inl (decide_eq_true hold))
  · exact .inl hspilled

theorem Aggregator.spill_idle (h : a.ledger job gen home = some g) (hwriting : (g.stepState step).writing = none) :
    a.spillWriteDone job gen home step = a.dropLedger job gen home ∧ a.spillRetry job gen home step = a := by
  unfold Aggregator.spillWriteDone Aggregator.spillDone Aggregator.spillRetry
  simp only [h, Option.bind_some, hwriting, Option.isNone_none, if_true, and_self]

theorem Aggregator.spillRetry_writing {k t : Nat} (h : a.ledger job gen home = some g) (hwriting : (g.stepState step).writing = some (k, t)) :
    a.spillRetry job gen home step = if t + max 1 (a.get LDG_TIMING_SPILL_RETRY) * 1000000 ≤ a.mono then
        (a.spillTo job gen home step ((k + 1) % max 1 a.cfg.storage.length)).raise LDG_STATUS_SPILL_FAIL
      else a := by
  unfold Aggregator.spillRetry
  simp only [h, Option.bind_some, hwriting]
  rfl

end Spills

/-! ### The mirror log (R378) -/

/-- The bytes that a list of messages holds. -/
def payloadBytes (l : List MirrorMsg) : Nat := (l.map fun m => m.payload.length).foldl (· + ·) 0

/-- One message of the log passes the trim: the bytes still held, and the messages kept. -/
def trimOne (c : Nat × List MirrorMsg) (m : MirrorMsg) : Nat × List MirrorMsg :=
  if 2 ^ 32 < c.1 then (c.1 - m.payload.length, c.2) else (c.1, c.2 ++ [m])

theorem payloadBytes_append (l : List MirrorMsg) (m : MirrorMsg) : payloadBytes (l ++ [m]) = payloadBytes l + m.payload.length := by
  simp [payloadBytes]

/-- While messages leave, what is held is the rest; once they stay, at most 4 GiB is held. -/
theorem trim_held (l : List MirrorMsg) (rest : Nat) :
    (l.foldl trimOne (payloadBytes l + rest, [])).1 = rest ∨ (l.foldl trimOne (payloadBytes l + rest, [])).1 ≤ 2 ^ 32 := by
  induction l using List.reverseRecOn generalizing rest with
  | nil => left; simp [payloadBytes]
  | append_singleton l m ih =>
    rw [List.foldl_append, payloadBytes_append, Nat.add_assoc]
    have hc := ih (m.payload.length + rest)
    generalize l.foldl trimOne (payloadBytes l + (m.payload.length + rest), []) = c at hc ⊢
    change (trimOne c m).1 = rest ∨ (trimOne c m).1 ≤ 2 ^ 32
    unfold trimOne
    split <;> omega

theorem length_beBytes (n v : Nat) : (beBytes n v).length = n := by
  induction n with
  | zero => rfl
  | succ n ih => rw [beBytes, List.length_cons, ih]

/-- The newest message stays in the log, where it fits. -/
theorem mem_trimLog_last (l : List MirrorMsg) {m : MirrorMsg} (hfits : m.payload.length ≤ 2 ^ 32) : m ∈ trimLog (l ++ [m]) := by
  have hheld := trim_held l m.payload.length
  change m ∈ ((l ++ [m]).foldl trimOne (payloadBytes (l ++ [m]), [])).2
  rw [List.foldl_append, payloadBytes_append]
  generalize l.foldl trimOne (payloadBytes l + m.payload.length, []) = c at hheld ⊢
  change m ∈ (trimOne c m).2
  rw [trimOne, if_neg (by omega)]
  simp

theorem Aggregator.mirrorSend_logs {a : Aggregator} (hruns : a.mirroringRuns = true) (kind : Nat) {payload : List Byte}
    (hfits : payload.length ≤ 2 ^ 32) : ∃ m ∈ (a.mirrorSend kind payload).led.mir.log, m.kind = kind ∧ m.payload = payload := by
  refine ⟨⟨a.led.mir.txSeq + 1, kind, payload, a.mono⟩, ?_, rfl, rfl⟩
  have hlog : (a.mirrorSend kind payload).led.mir.log = trimLog (a.led.mir.log ++ [⟨a.led.mir.txSeq + 1, kind, payload, a.mono⟩]) := by
    unfold Aggregator.mirrorSend
    dsimp only
    rw [if_neg (by simp [hruns])]
    split <;> simp [Aggregator.mirrorFrame, Aggregator.modMir]
  rw [hlog]
  exact mem_trimLog_last _ hfits

theorem Aggregator.mirrorSend_ledgers (a : Aggregator) (kind : Nat) (payload : List Byte) :
    (a.mirrorSend kind payload).led.ledgers = a.led.ledgers := by
  unfold Aggregator.mirrorSend
  dsimp only
  split
  · rfl
  · split <;> simp [Aggregator.mirrorFrame, Aggregator.modMir]

/-! ### The durable acknowledgement (R375, R385) -/

/-- A part that has gone to storage: its extents are to be freed, and the partner is to be told. -/
def StepState.written (z : StepState) : StepState := { z with spilled := true, parts := z.parts + 1, writing := none, freeing := some true }

/-- The records that were written leave, and the step waits for nothing. -/
def Ledger.freed (step : Nat) (wrote : List Nat) (l : Ledger) : Ledger :=
  { l with recs := l.recs.filter fun r => !(decide (r.step = step) && wrote.contains r.lseq) }.modStep step fun z =>
    { z with wrote := [], freeing := none }

section Written
variable {a : Aggregator} {job gen home step : Nat} {g : Ledger}

/-- The step is written; a step that is spilled for the first time counts. -/
def Aggregator.afterWrite (a : Aggregator) (job gen home step : Nat) (first : Bool) : Aggregator :=
  let b := a.modLedger job gen home fun l => l.modStep step StepState.written
  if first then b.inc LDG_CNT1_SPILLED_N else b

theorem Aggregator.afterWrite_fields (first : Bool) : (a.afterWrite job gen home step first).led
      = (a.modLedger job gen home fun l => l.modStep step StepState.written).led
    ∧ (a.afterWrite job gen home step first).hif = a.hif ∧ (a.afterWrite job gen home step first).cfg = a.cfg
    ∧ ((a.afterWrite job gen home step first).regs = a.regs ∨ (a.afterWrite job gen home step first).regs = a.regs.inc LDG_CNT1_SPILLED_N) := by
  cases first
  · exact ⟨rfl, rfl, rfl, .inl rfl⟩
  · refine ⟨?_, ?_, ?_, .inr ?_⟩ <;> simp [Aggregator.afterWrite, Aggregator.modLedger]

theorem Aggregator.spillDone_eq (h : a.ledger job gen home = some g) (hwriting : (g.stepState step).writing.isSome = true) :
    a.spillDone job gen home step = (a.afterWrite job gen home step (decide ((g.stepState step).parts = 0))).freeStep job gen home step := by
  unfold Aggregator.spillDone
  simp only [h]
  rw [if_neg (by simp [Option.isNone_iff_eq_none, Option.isSome_iff_ne_none.1 hwriting])]
  by_cases hparts : (g.stepState step).parts = 0
  · rw [if_pos hparts, decide_eq_true hparts]
    rfl
  · rw [if_neg hparts, decide_eq_false hparts]
    rfl

/-- A step that waits for its free. -/
theorem Aggregator.freeStep_reading (hreading : a.reading job gen = true) : a.freeStep job gen home step = a := by
  unfold Aggregator.freeStep
  split
  · rfl
  · dsimp only
    split
    · rfl
    · rw [if_pos hreading]

theorem Aggregator.freeStep_frees (h : a.ledger job gen home = some g) (hfreeing : (g.stepState step).freeing = some true)
    (hreading : a.reading job gen = false) : a.freeStep job gen home step
      = (a.modLedger job gen home (Ledger.freed step (g.stepState step).wrote)).showOcc.mirrorSend mkSpilled
          (beBytes 4 job ++ beBytes 1 gen ++ zeros 1 ++ beBytes 6 step ++ beBytes 2 ((g.stepState step).parts - 1) ++ zeros 2) := by
  unfold Aggregator.freeStep
  simp only [h, hfreeing, hreading]
  rfl

theorem Aggregator.reading_congr {b : Aggregator} (h : b.hif = a.hif) (job gen : Nat) : b.reading job gen = a.reading job gen := by
  unfold Aggregator.reading
  rw [h]

theorem Aggregator.mirroringRuns_congr {b : Aggregator} (hcfg : b.cfg = a.cfg) (hmir : b.led.mir = a.led.mir)
    (hon : b.on MIR_CTRL_EN = a.on MIR_CTRL_EN) (hsession : b.get MIR_STATUS_SESSION = a.get MIR_STATUS_SESSION) :
    b.mirroringRuns = a.mirroringRuns := by
  unfold Aggregator.mirroringRuns Aggregator.hasPartner
  rw [hcfg, hmir, hon, hsession]

theorem Ledger.freed_written (l : Ledger) (wrote : List Nat) : (l.modStep step StepState.written).freed step wrote
    = { l with recs := l.recs.filter fun r => !(decide (r.step = step) && wrote.contains r.lseq) }.modStep step fun z =>
        { z with spilled := true, parts := z.parts + 1, writing := none, wrote := [], freeing := none } :=
  Ledger.modStep_modStep { l with recs := l.recs.filter fun r => !(decide (r.step = step) && wrote.contains r.lseq) } step StepState.written
    fun z => { z with wrote := [], freeing := none }

theorem Aggregator.ledger_afterWrite (h : a.ledger job gen home = some g) (first : Bool) :
    (a.afterWrite job gen home step first).ledger job gen home = some (g.modStep step StepState.written) := by
  obtain ⟨hled, -⟩ := a.afterWrite_fields (job := job) (gen := gen) (home := home) (step := step) first
  rw [Aggregator.ledger, hled]
  exact Aggregator.ledger_modLedger h (Ledger.keepsKey_modStep step StepState.written)

theorem Aggregator.spillDone_reading (h : a.ledger job gen home = some g) (hwriting : (g.stepState step).writing.isSome = true)
    (hreading : a.reading job gen = true) : (a.spillDone job gen home step).led
      = (a.modLedger job gen home fun l => l.modStep step StepState.written).led := by
  obtain ⟨hled, hhif, -⟩ := a.afterWrite_fields (job := job) (gen := gen) (home := home) (step := step) (decide ((g.stepState step).parts = 0))
  rw [Aggregator.spillDone_eq h hwriting, Aggregator.freeStep_reading ((Aggregator.reading_congr hhif job gen).trans hreading), hled]

/-- The extents are freed: the state that the message to the partner leaves from. -/
def Aggregator.afterFree (a : Aggregator) (job gen home step : Nat) (wrote : List Nat) : Aggregator :=
  (a.modLedger job gen home (Ledger.freed step wrote)).showOcc

theorem Aggregator.spillDone_frees (h : a.ledger job gen home = some g) (hwriting : (g.stepState step).writing.isSome = true)
    (hreading : a.reading job gen = false) : a.spillDone job gen home step
      = ((a.afterWrite job gen home step (decide ((g.stepState step).parts = 0))).afterFree job gen home step
          (g.stepState step).wrote).mirrorSend mkSpilled
        (beBytes 4 job ++ beBytes 1 gen ++ zeros 1 ++ beBytes 6 step ++ beBytes 2 (g.stepState step).parts ++ zeros 2) := by
  obtain ⟨-, hhif, -⟩ := a.afterWrite_fields (job := job) (gen := gen) (home := home) (step := step) (decide ((g.stepState step).parts = 0))
  have hfreeing : ((g.modStep step StepState.written).stepState step).freeing = some true := by simp [StepState.written]
  rw [Aggregator.spillDone_eq h hwriting, Aggregator.freeStep_frees (Aggregator.ledger_afterWrite h _) hfreeing
    ((Aggregator.reading_congr hhif job gen).trans hreading), Ledger.stepState_modStep]
  rfl

theorem Aggregator.afterFree_fields (first : Bool) (wrote : List Nat) :
    let e := (a.afterWrite job gen home step first).afterFree job gen home step wrote
    e.led.ledgers = (a.modLedger job gen home fun l => { l with recs := l.recs.filter fun r =>
          !(decide (r.step = step) && wrote.contains r.lseq) }.modStep step fun z =>
            { z with spilled := true, parts := z.parts + 1, writing := none, wrote := [], freeing := none }).led.ledgers
      ∧ e.led.mir = a.led.mir := by
  obtain ⟨hled, -⟩ := a.afterWrite_fields (job := job) (gen := gen) (home := home) (step := step) first
  have hmod := congrArg (fun b : Aggregator => b.led.ledgers) (a.modLedger_modLedger job gen home
    (Ledger.keepsKey_modStep step StepState.written) (Ledger.freed step wrote))
  simp only [Ledger.freed_written] at hmod
  rw [← hmod]
  simp only [Aggregator.afterFree, Aggregator.showOcc, Aggregator.modLedger, Aggregator.set_fields, Aggregator.modLed_fields] at hled ⊢
  rw [hled]
  exact ⟨rfl, rfl⟩

theorem Aggregator.afterFree_runs (first : Bool) (wrote : List Nat) :
    ((a.afterWrite job gen home step first).afterFree job gen home step wrote).mirroringRuns = a.mirroringRuns := by
  obtain ⟨-, -, hcfg, hregs⟩ := a.afterWrite_fields (job := job) (gen := gen) (home := home) (step := step) first
  obtain ⟨-, hmir⟩ := Aggregator.afterFree_fields (a := a) (job := job) (gen := gen) (home := home) (step := step) first wrote
  generalize hb : a.afterWrite job gen home step first = b at hcfg hregs hmir ⊢
  have hfree : (b.afterFree job gen home step wrote).regs
      = b.regs.set LDG_OCC_BYTES (b.modLedger job gen home (Ledger.freed step wrote)).led.bytes := by
    simp [Aggregator.afterFree, Aggregator.showOcc, Aggregator.modLedger]
  have hkept : ∀ {g : Fld}, LDG_OCC_BYTES.reg ≠ g.reg → LDG_CNT1_SPILLED_N.reg ≠ g.reg →
      (b.afterFree job gen home step wrote).regs.get g = a.regs.get g := by
    intro g hocc hspilled
    rw [hfree, RegFile.get_set_other _ _ _ _ ⟨by decide, by decide⟩ (.inl hocc)]
    rcases hregs with hsame | hinc
    · rw [hsame]
    · rw [hinc, RegFile.get_inc_other _ _ _ _ ⟨by decide, by decide⟩ (.inl hspilled)]
  refine Aggregator.mirroringRuns_congr ?cfg hmir ?on ?session
  case cfg =>
    rw [← hcfg]
    simp [Aggregator.afterFree, Aggregator.showOcc, Aggregator.modLedger]
  case on =>
    exact congrArg (fun n => decide (n ≠ 0)) (hkept (g := MIR_CTRL_EN) (by decide) (by decide))
  case session =>
    exact hkept (g := MIR_STATUS_SESSION) (by decide) (by decide)

end Written

/-! ### Fetches (R385) -/

section Fetches
variable {a : Aggregator} {serial t : Nat} {c : Command} {n : ObjName} {o : List Byte} {need : List ObjName} {got : List LRec} {cut : Store Nat}

theorem Aggregator.fetch_absent (h : a.command serial = none) : a.fetchDone serial n o = a ∧ a.fetchExpiry serial = a := by
  unfold Aggregator.fetchDone Aggregator.fetchExpiry
  simp only [h, and_self]

theorem Aggregator.fetchDone_other (h : a.command serial = some c) (hwait : c.wait = .fetch need got cut t) (hn : n ∉ need) :
    a.fetchDone serial n o = a := by
  unfold Aggregator.fetchDone
  simp only [h, hwait]
  exact if_pos (by simpa using hn)

theorem Aggregator.fetchDone_feature (h : a.command serial = some c) (hwait : c.wait = .fetch need got cut t) (hn : n ∈ need)
    (hop : c.op = opSetFeature) : a.fetchDone serial n o = (a.holdRef n (objectRecs o.length o)).finish c csSuccess 0 [] := by
  unfold Aggregator.fetchDone
  simp only [h, hwait]
  rw [if_neg (by simpa using hn), if_pos hop]

theorem Aggregator.fetchDone_last (h : a.command serial = some c) (hwait : c.wait = .fetch need got cut t) (hn : n ∈ need)
    (hop : c.op ≠ opSetFeature) (hlast : ∀ x ∈ need, x = n) :
    a.fetchDone serial n o = a.fetched c (got ++ objectRecs o.length o) cut false := by
  unfold Aggregator.fetchDone
  simp only [h, hwait]
  rw [if_neg (by simpa using hn), if_neg hop, if_pos (List.filter_eq_nil_iff.2 fun x hx => by simp [hlast x hx])]

theorem Aggregator.fetchExpiry_waiting (h : a.command serial = some c) (hwait : c.wait = .fetch need got cut t) :
    a.fetchExpiry serial = if a.mono < t + max 1 (a.get LDG_TIMING_FETCH_WAIT) * 1000000 then a
      else if c.op = opSetFeature then a.finish c csRefused 0 [] else a.fetched c [] cut true := by
  unfold Aggregator.fetchExpiry
  simp only [h, hwait]
  rfl

end Fetches

/-! ### The statement -/

/-- Settles O42: each command of the upkeep of the ledger is one case analysis of its definition; a part written durably is two changes of the
same step in a row, and the SPILLED message, the newest of the log, is not displaced. -/
theorem stepsAreSealedAndSpilled : Obligations.StepsAreSealedAndSpilled := by
  unfold Obligations.StepsAreSealedAndSpilled
  intro s ctx job gen home step serial k t n o j g c a st written freed hserved
  refine ⟨?noJob, ?unreached, ?early, ?sealed, ?earlyForced, ?forced, ?once, ?noLedger, ?held, ?spills, ?notWriting, ?writes, ?earlyRetry, ?retries,
    ?noCommand, ?feature, ?lastObject, ?otherObject, ?earlyFetch, ?fetchFails⟩
  case noJob =>
    intro hj
    obtain ⟨hseal, hforced⟩ := Aggregator.seals_absent (step := step) hj
    exact ⟨exec_up (f := (·.stepSeal ctx step)) hserved rfl hseal, exec_up (f := (·.forcedSeal ctx step)) hserved rfl hforced⟩
  case unreached => exact fun hj hg ht => exec_up (f := (·.stepSeal ctx step)) hserved rfl (Aggregator.stepSeal_unreached hj hg ht)
  case early =>
    exact fun hj hg ht hearly => exec_up (f := (·.stepSeal ctx step)) hserved rfl
      ((Aggregator.stepSeal_reached hj hg ht).trans (if_neg (Nat.not_le.2 hearly)))
  case sealed =>
    exact fun hj hg ht hdue => exec_up (f := (·.stepSeal ctx step)) hserved rfl ((Aggregator.stepSeal_reached hj hg ht).trans (if_pos hdue))
  case earlyForced =>
    exact fun hj hg ht hearly => exec_up (f := (·.forcedSeal ctx step)) hserved rfl
      ((Aggregator.forcedSeal_covered hj hg ht).trans (if_neg (Nat.not_le.2 hearly)))
  case forced =>
    exact fun hj hg ht hdue => exec_up (f := (·.forcedSeal ctx step)) hserved rfl ((Aggregator.forcedSeal_covered hj hg ht).trans (if_pos hdue))
  case once => exact fun f hj hg hsealed => Aggregator.sealStep_sealed hj hg hsealed f
  case noLedger => exact fun h => exec_up (f := (·.stepSpill job gen home step)) hserved rfl (Aggregator.stepSpill_absent h)
  case held =>
    intro h hheld
    refine exec_up (f := (·.stepSpill job gen home step)) hserved rfl ?_
    rcases Aggregator.stepSpill_eq (step := step) h with hsame | hnow
    · exact hsame
    · exact hnow.trans (Aggregator.spillNow_held h hheld)
  case spills =>
    exact fun new ctl h hsealed hwriting hfreeing hfor hrecs hnew hdue hctl => exec_up (f := (·.stepSpill job gen home step)) hserved rfl
      ((Aggregator.stepSpill_due h hnew hdue).trans (Aggregator.spillNow_writes h hsealed hwriting hfreeing hfor hrecs hctl))
  case notWriting =>
    intro h hwriting
    obtain ⟨hdone, hretry⟩ := Aggregator.spill_idle h hwriting
    exact ⟨exec_up (f := (·.spillWriteDone job gen home step)) hserved rfl hdone, exec_up (f := (·.spillRetry job gen home step)) hserved rfl hretry⟩
  case writes =>
    intro h hwriting
    refine ⟨a.spillDone job gen home step, exec_up (f := (·.spillWriteDone job gen home step)) hserved rfl rfl, ?reads, ?frees⟩
    case reads =>
      intro hreading
      rw [Aggregator.spillDone_reading h hwriting hreading]
      exact ⟨rfl, rfl⟩
    case frees =>
      intro hreading
      obtain ⟨hledgers, -⟩ := Aggregator.afterFree_fields (a := a) (job := job) (gen := gen) (home := home) (step := step)
        (decide ((g.stepState step).parts = 0)) (g.stepState step).wrote
      rw [Aggregator.spillDone_frees h hwriting hreading]
      refine ⟨(Aggregator.mirrorSend_ledgers _ _ _).trans hledgers, fun hruns => ?_⟩
      exact Aggregator.mirrorSend_logs ((Aggregator.afterFree_runs _ _).trans hruns) mkSpilled (by simp [length_beBytes, zeros])
  case earlyRetry =>
    exact fun h hwriting hearly => exec_up (f := (·.spillRetry job gen home step)) hserved rfl
      ((Aggregator.spillRetry_writing h hwriting).trans (if_neg (Nat.not_le.2 hearly)))
  case retries =>
    exact fun h hwriting hdue => exec_up (f := (·.spillRetry job gen home step)) hserved rfl
      ((Aggregator.spillRetry_writing h hwriting).trans (if_pos hdue))
  case noCommand =>
    intro h
    obtain ⟨hdone, hexpiry⟩ := Aggregator.fetch_absent (n := n) (o := o) h
    exact ⟨exec_up (f := (·.fetchDone serial n o)) hserved rfl hdone, exec_up (f := (·.fetchExpiry serial)) hserved rfl hexpiry⟩
  case feature =>
    exact fun need got cut h hwait hn hop => exec_up (f := (·.fetchDone serial n o)) hserved rfl (Aggregator.fetchDone_feature h hwait hn hop)
  case lastObject =>
    exact fun need got cut h hwait hn hop hlast => exec_up (f := (·.fetchDone serial n o)) hserved rfl
      (Aggregator.fetchDone_last h hwait hn hop hlast)
  case otherObject =>
    exact fun need got cut h hwait hn => exec_up (f := (·.fetchDone serial n o)) hserved rfl (Aggregator.fetchDone_other h hwait hn)
  case earlyFetch =>
    exact fun need got cut h hwait hearly => exec_up (f := (·.fetchExpiry serial)) hserved rfl
      ((Aggregator.fetchExpiry_waiting h hwait).trans (if_pos hearly))
  case fetchFails =>
    exact fun need got cut h hwait hdue => exec_up (f := (·.fetchExpiry serial)) hserved rfl
      ((Aggregator.fetchExpiry_waiting h hwait).trans (if_neg (Nat.not_lt.2 hdue)))

end Sys2Proof.Machine
end LedgerUpkeep

section ClearedOverflow
/-!
PROOFS. A clearing write of the counter banks' overflow bit (R103, R461).
-/
namespace Sys2Proof.Machine

/-- A die unit whose counter domain is on, with a counter of the light set that has wrapped and a key armed for CNT_STATUS. -/
def wrappedLight : DieUnit :=
  let d := ((DieUnit.blank 0 0).setPdState .cnt pdOn).set CNT_STATUS_OVF 1
  { d with regs := d.regs.armKey 3 0x88, lightOvf := true }

/-- The state that holds it. -/
def wrappedState : State := { State.reset with du := wrappedLight }

/-- The write that clears CNT_STATUS.OVF under its key. -/
theorem exec_clearsOvf : exec (.clearingWrite .du addr_CNT_STATUS 2 true 0 0) wrappedState
    = nextDu wrappedState (wrappedLight.portAccess addr_CNT_STATUS (some 2) true 0) := rfl

/-- The always-on copy of the overflow bit leaves with the bit. -/
theorem wrappedLight_cleared : (wrappedLight.portAccess addr_CNT_STATUS (some 2) true 0).lightOvf = false := by decide +kernel

theorem wrappedLight_awake : wrappedLight.asleep addr_CNT_STATUS = false := by decide +kernel

/-- Refutes O53: a clearing write that takes CNT_STATUS.OVF away under its key takes the always-on copy of the bit away as well (R103), which
the statement leaves as it was. -/
theorem not_registerAccessesFollowTheirCodes : ¬ Obligations.RegisterAccessesFollowTheirCodes := by
  unfold Obligations.RegisterAccessesFollowTheirCodes
  intro h
  obtain ⟨-, -, -, -, -, clears, -⟩ := h wrappedState (.clearingWrite .du addr_CNT_STATUS 2 true 0 0) addr_CNT_STATUS 0 0 0 0 0 0 2 0 (some 2) false true
    (RegFile.reset .du) (0, 0, 0, false)
  have stated := clears (.inl ⟨.inr rfl, rfl⟩) ⟨by decide, wrappedLight_awake⟩ rfl rfl (by decide)
    (by decide) (by decide) (by decide) (by decide) (by decide)
  have kept := congrArg DieUnit.lightOvf (nextDu_injective (exec_clearsOvf.symm.trans stated))
  rw [wrappedLight_cleared] at kept
  exact Bool.noConfusion kept

end Sys2Proof.Machine
end ClearedOverflow

section RunInSleepingMemory
/-!
PROOFS. A detector run that starts while the memory of its areas falls asleep (R250, R252, R332), and what follows an event (R454).
-/
namespace Sys2Proof.Machine

/-! ### A word outside the ledger's page, and the boot state, after an event -/

section Word
variable {k : Nat} (hk : k ≠ addr_LDG_OCC) (a : Aggregator)

theorem Aggregator.sendCapsule_word (kind tag off flags : Nat) (l : List Byte) : (a.sendCapsule kind tag off flags l).word k = a.word k := rfl

theorem Aggregator.pumpEvents_word : a.pumpEvents.word k = a.word k := by
  unfold Aggregator.pumpEvents
  split
  · rfl
  · exact foldl_keeps (fun b : Aggregator => b.word k) (fun b e => b.sendCapsule_word _ _ _ _ _) _ _

theorem Aggregator.mirrorSend_word (kind : Nat) (l : List Byte) : (a.mirrorSend kind l).word k = a.word k := by
  unfold Aggregator.mirrorSend
  dsimp only
  split
  · rfl
  · split <;> rfl

include hk

theorem Aggregator.showOcc_word : a.showOcc.word k = a.word k := Aggregator.word_set_other a hk _

theorem Aggregator.freeStep_word (job gen home step : Nat) : (a.freeStep job gen home step).word k = a.word k := by
  unfold Aggregator.freeStep
  split
  · rfl
  · dsimp only
    split
    · rfl
    · split
      · rfl
      · split
        · rw [Aggregator.mirrorSend_word, Aggregator.showOcc_word hk]
          rfl
        · exact Aggregator.showOcc_word hk _

theorem Aggregator.dropLedger_word (job gen home : Nat) : (a.dropLedger job gen home).word k = a.word k := by
  unfold Aggregator.dropLedger
  split
  · rfl
  · exact Aggregator.showOcc_word hk _

theorem Aggregator.settleFrees_word : a.settleFrees.word k = a.word k := by
  refine foldl_keeps (fun b : Aggregator => b.word k) (fun b l => ?_) _ a
  refine foldl_keeps (fun b : Aggregator => b.word k) (fun b e => ?_) _ b
  exact (Aggregator.dropLedger_word hk _ _ _ _).trans (Aggregator.freeStep_word hk _ _ _ _ _)

end Word

section BootState
variable (a : Aggregator)

@[simp] theorem Aggregator.event_boot (e : MgmtEvent) : (a.event e).boot = a.boot := by
  unfold Aggregator.event
  split <;> simp

@[simp] theorem Aggregator.report_boot (name : String) (args : List Nat) : (a.report name args).boot = a.boot := a.event_boot _

@[simp] theorem Aggregator.sendCapsule_boot (kind tag off flags : Nat) (l : List Byte) : (a.sendCapsule kind tag off flags l).boot = a.boot := rfl

@[simp] theorem Aggregator.pumpEvents_boot : a.pumpEvents.boot = a.boot := by
  unfold Aggregator.pumpEvents
  split
  · rfl
  · exact foldl_keeps Aggregator.boot (fun b e => b.sendCapsule_boot _ _ _ _ _) _ _

@[simp] theorem Aggregator.mirrorSend_boot (kind : Nat) (l : List Byte) : (a.mirrorSend kind l).boot = a.boot := by
  unfold Aggregator.mirrorSend
  dsimp only
  split
  · rfl
  · split <;> rfl

@[simp] theorem Aggregator.freeStep_boot (job gen home step : Nat) : (a.freeStep job gen home step).boot = a.boot := by
  unfold Aggregator.freeStep
  dsimp only
  split
  · rfl
  · split
    · rfl
    · split
      · rfl
      · split <;> simp [Aggregator.showOcc, Aggregator.modLedger]

@[simp] theorem Aggregator.dropLedger_boot (job gen home : Nat) : (a.dropLedger job gen home).boot = a.boot := by
  unfold Aggregator.dropLedger
  split <;> simp [Aggregator.showOcc]

@[simp] theorem Aggregator.settleFrees_boot : a.settleFrees.boot = a.boot :=
  foldl_keeps Aggregator.boot (fun b l => foldl_keeps Aggregator.boot (fun _ _ => by simp) _ b) _ a

@[simp] theorem Aggregator.unitNotice_boot (kind u cause count : Nat) (mandatory : Bool) :
    (a.unitNotice kind u cause count mandatory).boot = a.boot := by
  unfold Aggregator.unitNotice Aggregator.notice
  dsimp only
  split
  · rfl
  · split <;> simp

@[simp] theorem Aggregator.setFru_boot (u st cause : Nat) : (a.setFru u st cause).boot = a.boot := by
  refine foldl_keeps Aggregator.boot (fun b x => ?_) _ a
  unfold Aggregator.setState
  dsimp only
  split <;> simp

@[simp] theorem Aggregator.knellRequest_boot (u cause : Nat) (mandatory : Bool) : (a.knellRequest u cause mandatory).boot = a.boot := by
  unfold Aggregator.knellRequest
  dsimp only
  split <;> simp [Aggregator.unpend, Aggregator.showPending]

@[simp] theorem Aggregator.knell_mandatory_boot (u cause : Nat) : (a.knell u cause true).boot = a.boot := by
  unfold Aggregator.knell
  dsimp only
  split
  · rfl
  · simp

/-- A boot that ends leaves the aggregator ready (R478). -/
theorem Aggregator.bootReady_boot (chip : Bool) : (a.bootReady chip).boot = .ready := by
  unfold Aggregator.bootReady
  extract_lets recorded a0 a1 cause n a2 a3 a4
  have reported : a1.boot = .ready := by
    simp only [a1]
    split
    · rfl
    · simp [Aggregator.reportUnprotected, Aggregator.report, a0]
  have noticed : a3.boot = .ready := by
    simp only [a3]
    split <;> simp [a2, reported]
  split
  · exact reported
  · split <;> simp [a4, noticed]

end BootState

section NoJobs
variable {old a : Aggregator} (hjobs : a.jobs = []) (hfail : old.inFailover = false)
include hjobs hfail

/-- Where no job stands, a boot that is owed after an event was owed before, and no other word changes. -/
theorem Aggregator.after_owed {k : Nat} (hk : k ≠ addr_LDG_OCC) {b : Bool} (hboot : (Aggregator.after old a).boot = .owed b) :
    (Aggregator.after old a).word k = a.word k := by
  have hafter : Aggregator.after old a = Aggregator.signalIrq old a.pumpEvents.settleBoot.settleFrees := by
    unfold Aggregator.after
    simp only [hfail, Bool.false_eq_true, false_and, if_false, Aggregator.settle_noJobs hjobs]
  have hsignal : ∀ c, (Aggregator.signalIrq old c).boot = c.boot ∧ (Aggregator.signalIrq old c).word k = c.word k := by
    intro c
    unfold Aggregator.signalIrq
    split <;> exact ⟨rfl, rfl⟩
  obtain ⟨sboot, sword⟩ := hsignal a.pumpEvents.settleBoot.settleFrees
  rw [hafter, sboot, Aggregator.settleFrees_boot] at hboot
  have hstay : a.pumpEvents.settleBoot = a.pumpEvents := by
    unfold Aggregator.settleBoot at hboot ⊢
    split
    · next t hb =>
      simp only [hb] at hboot ⊢
      split
      · next hend =>
        rw [if_pos hend, Aggregator.bootReady_boot] at hboot
        exact nomatch hboot
      · rfl
    · rfl
  rw [hafter, sword, Aggregator.settleFrees_word hk, hstay, Aggregator.pumpEvents_word]

end NoJobs

/-! ### A run whose parameters lie in memory that falls asleep -/

/-- An instance with one parameter byte. -/
def oneParam : Instance :=
  { ctx := 0, bind := 0, slot := 0, cores := 1, suspended := false, stopping := false, succFaults := 0, faultCode := 0, runs := 0,
    params := [⟨0, [1]⟩], sram := 0, hbm := 0, dstate := 0, istate := 0, barriers := [], sems := [], scalars := [], reports := [], lib := [] }

/-- An EPOCH run of that instance. -/
def epochRun : Run := Run.start 0 0 0 0 none 0

/-- A detector image that is not one of the library's. -/
def plainImage : DetImage := ⟨0, []⟩

/-- An aggregator whose core 0 is on, with that run waiting there; the HBM group of its areas has begun its entry (R250). -/
def fallingAsleep : Aggregator :=
  let a := ((Aggregator.blank.set DET_CTRL_EN 1).set (PD_STAT_STATE 0) adOn).set (PD_STAT_STATE 65) adEntering
  { a with det := { images := [(0, plainImage)], instances := [(0, oneParam)], cores := [(0, { Core.init with waiting := [epochRun] })],
                    lastLoad := [], eseq := 0 } }

def fallingAsleepState : State := { State.reset with agg := fallingAsleep }

theorem exec_epochRun : exec (.detectorEpochRun 0) fallingAsleepState = nextAgg fallingAsleepState (fallingAsleep.startRun 0 false) := rfl

theorem fallingAsleep_ready : fallingAsleep.paused = false ∧ fallingAsleep.coreOn 0 = true ∧ fallingAsleep.instRuns oneParam = true
    ∧ fallingAsleep.inFailover = false ∧ fallingAsleep.boot = .owed false := by decide +kernel

theorem fallingAsleep_started : (fallingAsleep.startRun 0 false).jobs = []
    ∧ (Aggregator.after fallingAsleep (fallingAsleep.startRun 0 false)).boot = .owed false := by
  decide +kernel

/-- The parameters that are written abort the entry. -/
theorem fallingAsleep_woken : (fallingAsleep.startRun 0 false).word (addr_PD_STAT 65) ≠ fallingAsleep.word (addr_PD_STAT 65) := by decide +kernel

/-- Refutes O45: the areas of a run are filled through the HBM, and an access of the HBM wakes the controller groups it reaches or aborts their
entry (R252), which the registers of those domains show. -/
theorem not_detectorRunsStartInOrderAndWithinBudget : ¬ Obligations.DetectorRunsStartInOrderAndWithinBudget := by
  unfold Obligations.DetectorRunsStartInOrderAndWithinBudget
  intro h
  obtain ⟨-, -, -, starts, -⟩ := h fallingAsleepState 0 0 0 0 false epochRun [] oneParam plainImage (.detectorEpochRun 0)
    (Aggregator.blank.armContext 0 0 [] []) ⟨0, 0, 0, 0, 0, 0, 0, [], [], []⟩
  obtain ⟨hpaused, hon, hruns, hfail, hboot⟩ := fallingAsleep_ready
  obtain ⟨hjobs, howed⟩ := fallingAsleep_started
  obtain ⟨y, z, hexec, hregs, hyjobs, -⟩ := starts (.inr ⟨rfl, rfl⟩) rfl rfl rfl hpaused hon rfl rfl hruns (by decide +kernel)
  have same := after_eq_of_nextAgg_eq (exec_epochRun.symm.trans hexec)
  have yowed : (Aggregator.after fallingAsleep y).boot = .owed false := by rw [← howed]; exact congrArg Aggregator.boot same.symm
  have words : (fallingAsleep.startRun 0 false).word (addr_PD_STAT 65) = y.word (addr_PD_STAT 65) := by
    rw [← Aggregator.after_owed hjobs hfail (by decide) howed, ← Aggregator.after_owed hyjobs hfail (by decide) yowed]
    exact congrArg (fun a : Aggregator => a.word (addr_PD_STAT 65)) same
  exact fallingAsleep_woken (words.trans (congrArg (fun r : RegFile => r.word (addr_PD_STAT 65)) hregs))

end Sys2Proof.Machine
end RunInSleepingMemory

section ResetsAndBoot
/-!
PROOFS. Fatal events, chip resets, power-on and the boot of the aggregator (R232, R235, R244, R252, R410, R411, R474, R478).
-/
namespace Sys2Proof.Machine

/-! ### Fatal events (R232, R235, R410) -/

section Fatal
variable (a : Aggregator)

/-- The record of a fatal event that is not charged. -/
def Aggregator.fatalNoted (code : Nat) : Aggregator := a.recordLimited rcHealth code (leBytes 2 code ++ leBytes 4 (a.subject chipUnit))

theorem Aggregator.fatal_charged (code reason : Nat) : a.fatal code 250 reason = if a.hlt.resetPending.isSome then a
    else (if a.on HLT_CTRL_EN then a.charge chipUnit code 250 a.here else a.fatalNoted code).announceReset code reason := by
  unfold Aggregator.fatal
  simp only [Nat.zero_lt_succ, and_true]
  rfl

theorem Aggregator.fatal_noted {code : Nat} (reason : Nat) (h : a.hlt.resetPending = none) :
    a.fatal code 0 reason = (a.fatalNoted code).announceReset code reason := by
  unfold Aggregator.fatal
  rw [if_neg (by simp [h])]
  simp only [Nat.lt_irrefl, and_false, if_false]
  rfl

theorem Aggregator.memoryUe_inside {addr : Nat} (h : addr < sramEnd ∨ hbmBase ≤ addr ∧ addr < hbmEnd) :
    a.memoryUe addr = (a.modPwr fun p => { p with poison := p.poison ++ [eccWord addr] }).fatal hcMemUe 250 reasonMemUe := if_pos h

/-- The word at an address lies about it (R235, R244). -/
theorem eccWord_around (addr : Nat) : addr < (eccWord addr).1 + (eccWord addr).2 ∧ (eccWord addr).1 < addr + 1 := by
  unfold eccWord
  split
  · exact ⟨by show addr < addr / 8 * 8 + 8; omega, by show addr / 8 * 8 < addr + 1; omega⟩
  · exact ⟨by show addr < addr / 32 * 32 + 32; omega, by show addr / 32 * 32 < addr + 1; omega⟩

theorem Aggregator.poisoned_added (addr : Nat) :
    (a.modPwr fun p => { p with poison := p.poison ++ [eccWord addr] }).poisoned addr 1 = true :=
  List.any_eq_true.2 ⟨eccWord addr, List.mem_append_right _ List.mem_cons_self, decide_eq_true (eccWord_around addr)⟩

theorem Aggregator.chipResetCause_other {code : Nat} (hmem : code ≠ hcMemUe) (hbridge : code ≠ hcBridgeFatal) (hdog : code ≠ hcAggWatchdog)
    (hwake : code ≠ hcCoreWakeFail) : a.chipResetCause code = a := by
  simp [Aggregator.chipResetCause, hmem, hbridge, hdog, hwake]

theorem Aggregator.announceReset_pending (code reason : Nat) (h : a.hlt.resetPending = none) :
    (a.announceReset code reason).hlt.resetPending = some (code, reason, a.mono) := by
  unfold Aggregator.announceReset
  rw [if_neg (by simp [h])]
  rfl

end Fatal

theorem Aggregator.PowersTo.tc {a b : Aggregator} (h : a.PowersTo b) : b.tc = a.tc := (congrArg Aggregator.tc h.same).trans rfl

/-! ### The chip reset (R410, R411, R473) -/

section Time
variable (a : Aggregator)

theorem Aggregator.pumpCtl_tc (k n : Nat) : (a.pumpCtl k n).tc = a.tc := by
  induction n generalizing a with
  | zero => rfl
  | succ n ih =>
    unfold Aggregator.pumpCtl
    dsimp only
    split
    · rfl
    · split
      · rfl
      · rw [ih]
        simp [Aggregator.sendCtl, Aggregator.setPath]

theorem Aggregator.dropFrames_tc (hit : Nat → Nat → Bool) : (a.dropFrames hit).tc = a.tc :=
  foldl_keeps Aggregator.tc (fun b e => (Aggregator.pumpCtl_tc _ _ _).trans (by simp [Aggregator.setPath])) _ a

theorem Aggregator.mirrorSend_tc (kind : Nat) (l : List Byte) : (a.mirrorSend kind l).tc = a.tc := by
  unfold Aggregator.mirrorSend
  dsimp only
  split
  · rfl
  · split <;> rfl

theorem Aggregator.mirrorJob_tc (c : Nat) : (a.mirrorJob c).tc = a.tc := Aggregator.mirrorSend_tc _ _ _

theorem Aggregator.armComplete_tc (ctx : Nat) : (a.armComplete ctx).tc = a.tc := by
  unfold Aggregator.armComplete
  split
  · rfl
  · dsimp only
    split
    · rfl
    · rw [Aggregator.mirrorJob_tc]
      simp [(a.powersTo_wakeDomain (k := 74) (by decide)).tc]

theorem Aggregator.stopCmd_tc (c : Command) : (a.stopCmd c).tc = a.tc := by
  unfold Aggregator.stopCmd
  split
  · exact a.armComplete_tc _
  · rfl

theorem Aggregator.postPcie_tc (c : Command) (status bytes result : Nat) : (a.postPcie c status bytes result).tc = a.tc := by
  unfold Aggregator.postPcie
  split
  · rfl
  · split
    · rfl
    · simp [Aggregator.setCq]

theorem Aggregator.post_tc (c : Command) (status bytes result : Nat) : (a.post c status bytes result).tc = a.tc := by
  unfold Aggregator.post
  dsimp only
  split
  · simp [Aggregator.sendCapsule]
  · simp [Aggregator.postPcie_tc]

theorem Aggregator.abortCommands_tc (hit : Command → Bool) : (a.abortCommands hit true).tc = a.tc := by
  unfold Aggregator.abortCommands
  dsimp only
  rw [if_pos rfl, foldl_keeps Aggregator.tc fun b c => (Aggregator.post_tc _ _ _ _ _).trans (by simp),
    foldl_keeps Aggregator.tc fun b c => b.stopCmd_tc c, Aggregator.dropFrames_tc]

end Time

section ChipReset
variable (a : Aggregator)

/-- The aggregator after a chip reset, before the reset log is written. -/
def Aggregator.resetCore : Aggregator :=
  let h : HostIf := { HostIf.init with fw0 := a.hif.fw0, fw1 := a.hif.fw1, fwActive := a.hif.fwActive, serial := a.hif.serial,
                                       oob := a.hif.oob, msix := a.hif.msix, mctp := a.hif.mctp }
  let toc : Store TocMac := (a.toc.filter fun e => !e.2.sent.isEmpty).map fun e => (e.1, { TocMac.init with sent := e.2.sent })
  let resets := (a.hlt.resets.filter fun t => decide (a.nowNs < t + 3600000000000)) ++ [a.nowNs]
  { Aggregator.blank with
    regs := ⟨.agg, a.regs.words.filter fun e => keptByReset e.1⟩, tc := a.tc, free := a.free, host := a.host, recd := a.recd,
    temp := a.temp, mv := a.mv, toc := toc, out := a.out, ptpOut := a.ptpOut, syncAt := a.syncAt, annAt := a.annAt,
    refOut := a.refOut, erasing := a.erasing, boot := .owed true, hif := h,
    hlt := { AggHealth.init with resets := resets, loop := decide (3 ≤ resets.length) },
    pwr := { PowerMgr.init with thermtrip := a.pwr.thermtrip, hot := a.pwr.hot },
    led := { LedgerUnit.init with storage := a.led.storage } }

theorem Aggregator.resetChipNow_eq (code : Nat) : a.resetChipNow code
    = (((a.resetCore.set RST_LOG_LAST_CAUSE code).set RST_LOG_RESETS_1H
        (min 255 ((a.hlt.resets.filter fun t => decide (a.nowNs < t + 3600000000000)) ++ [a.nowNs]).length)).inc RST_LOG_RESETS_N).set
          PWR_SAG_WRITES_STOPPED 0 := rfl

theorem Aggregator.resetCore_fields : a.resetCore.tc = a.tc ∧ a.resetCore.recd = a.recd ∧ a.resetCore.jobs = [] ∧ a.resetCore.mem = []
    ∧ a.resetCore.boot = .owed true ∧ a.resetCore.hlt.resetPending = none ∧ a.resetCore.hif.fw0 = a.hif.fw0 ∧ a.resetCore.hif.fw1 = a.hif.fw1
    ∧ a.resetCore.led.ledgers = [] ∧ a.resetCore.hlt.loop = decide (3 ≤ a.resetsInHour + 1) :=
  ⟨rfl, rfl, rfl, rfl, rfl, rfl, rfl, rfl, rfl, by
    show decide (3 ≤ ((a.hlt.resets.filter fun t => decide (a.nowNs < t + 3600000000000)) ++ [a.nowNs]).length) = _
    rw [List.length_append]
    rfl⟩

/-- What a chip reset keeps and what it clears (Table 17-2). -/
theorem Aggregator.resetChipNow_fields (code : Nat) : (a.resetChipNow code).tc = a.tc ∧ (a.resetChipNow code).recd = a.recd
    ∧ (a.resetChipNow code).jobs = [] ∧ (a.resetChipNow code).mem = [] ∧ (a.resetChipNow code).boot = .owed true
    ∧ (a.resetChipNow code).hlt.resetPending = none ∧ (a.resetChipNow code).hif.fw0 = a.hif.fw0 ∧ (a.resetChipNow code).hif.fw1 = a.hif.fw1
    ∧ (a.resetChipNow code).led.ledgers = [] ∧ (a.resetChipNow code).hlt.loop = decide (3 ≤ a.resetsInHour + 1) := by
  rw [Aggregator.resetChipNow_eq]
  simp only [Aggregator.set_fields, Aggregator.inc_fields]
  exact a.resetCore_fields

theorem Aggregator.resetChipNow_cause {code : Nat} (hcode : code < 2 ^ 16) : (a.resetChipNow code).get RST_LOG_LAST_CAUSE = code := by
  rw [Aggregator.resetChipNow_eq]
  refine (RegFile.get_set_other _ _ _ _ ⟨by decide, by decide⟩ (.inl (by decide))).trans ?_
  refine (RegFile.get_inc_other _ _ _ _ ⟨by decide, by decide⟩ (.inr (.inl (by decide)))).trans ?_
  refine (RegFile.get_set_other _ _ _ _ ⟨by decide, by decide⟩ (.inr (.inl (by decide)))).trans ?_
  exact (RegFile.get_set _ _ _ ⟨by decide, by decide⟩).trans (Nat.mod_eq_of_lt hcode)

variable {a}

theorem Aggregator.resetBegin_none (h : a.hlt.resetPending = none) : a.resetBegin = a := by
  unfold Aggregator.resetBegin
  simp only [h]

theorem Aggregator.resetBegin_announcing {code reason t : Nat} (h : a.hlt.resetPending = some (code, reason, t)) (hann : a.announced = false)
    (hearly : a.mono < t + 200000) : a.resetBegin = a := by
  unfold Aggregator.resetBegin
  simp only [h]
  exact if_pos (.inl ⟨by simp [hann], hearly⟩)

theorem Aggregator.resetBegin_flushing {code reason t : Nat} (h : a.hlt.resetPending = some (code, reason, t)) (hcode : code = causeSupply)
    (hflush : a.on PWR_SAG_WARN_NOW = true ∨ a.recd.flush.isSome = true) : a.resetBegin = a := by
  unfold Aggregator.resetBegin
  simp only [h]
  exact if_pos (.inr (by simpa [hcode] using hflush))

theorem Aggregator.resetBegin_due {code reason t : Nat} (h : a.hlt.resetPending = some (code, reason, t))
    (hdue : a.announced = true ∨ t + 200000 ≤ a.mono) (hcode : code ≠ causeSupply) : a.resetBegin
      = ((a.abortCommands (fun _ => true) true).record rcReset (leBytes 1 0x04 ++ zeros 1 ++ leBytes 2 code)).resetChipNow code := by
  unfold Aggregator.resetBegin
  simp only [h]
  refine if_neg ?_
  rintro (⟨hnot, hlt⟩ | hsupply)
  · rcases hdue with hann | hle
    · exact hnot hann
    · omega
  · simp [hcode] at hsupply

end ChipReset

/-! ### Power-on and boot (R475 to R478) -/

section Boot
variable (a : Aggregator)

theorem Aggregator.powerOn_fields : (a.powerOn none).boot = .owed false ∧ (a.powerOn none).mem = [] ∧ (a.powerOn none).jobs = []
    ∧ (a.powerOn none).hif.fw0 = a.hif.fw0 ∧ (a.powerOn none).hif.fw1 = a.hif.fw1 ∧ (a.powerOn none).hif.fwActive = a.hif.fwActive
    ∧ (a.powerOn none).tc = TimeClient.init := by
  unfold Aggregator.powerOn
  simp only [Aggregator.withRec_fields]
  exact ⟨rfl, rfl, rfl, rfl, rfl, rfl, rfl⟩

theorem Aggregator.bootStop_boot (n result : Nat) : (a.bootStop n result).boot = .stopped := rfl

theorem Aggregator.bootStage_shows {n result : Nat} (hn : n < 16) (hresult : result < 256) :
    (a.bootStage n result).get BOOT_STATUS_STAGE = n ∧ (a.bootStage n result).get BOOT_STATUS_RESULT = result := by
  constructor
  · refine (RegFile.get_set_other _ _ _ _ ⟨by decide, by decide⟩ (.inr (.inl (by decide)))).trans ?_
    exact (RegFile.get_set _ _ _ ⟨by decide, by decide⟩).trans (Nat.mod_eq_of_lt hn)
  · exact (RegFile.get_set _ _ _ ⟨by decide, by decide⟩).trans (Nat.mod_eq_of_lt hresult)

theorem Aggregator.bootRecord_word {k : Nat} (hk : k / 4096 ≠ 0x3) : a.bootRecord.word k = a.word k := by
  rw [Aggregator.bootRecord, Aggregator.record]
  exact a.withRec_word (RecView.Within.record _ _ _) hk

theorem Aggregator.get_stopped (f : Fld) : ({ a with boot := .stopped } : Aggregator).get f = a.get f := rfl

theorem Aggregator.bootStop_shows {n result : Nat} (hn : n < 16) (hresult : result < 256) :
    (a.bootStop n result).get BOOT_STATUS_STAGE = n ∧ (a.bootStop n result).get BOOT_STATUS_RESULT = result := by
  have hword := (a.bootStage n result).bootRecord_word (k := addr_BOOT_STATUS) (by decide)
  obtain ⟨hstage, hshown⟩ := a.bootStage_shows hn hresult
  rw [Aggregator.bootStop, Aggregator.get_stopped, Aggregator.get_stopped]
  exact ⟨(RegFile.get_congr (f := BOOT_STATUS_STAGE) hword).trans hstage, (RegFile.get_congr (f := BOOT_STATUS_RESULT) hword).trans hshown⟩

/-- Stage 2 has read the manufacturing words. -/
def Aggregator.identified (rev : Nat) (ser : List Byte) : Aggregator := { a.set CHIP_IDENT_REVISION rev with serial := ser }

theorem Aggregator.identified_fields (rev : Nat) (ser : List Byte) :
    (a.identified rev ser).serial = ser ∧ (a.identified rev ser).mem = a.mem ∧ (a.identified rev ser).tc = a.tc := by
  unfold Aggregator.identified
  simp only [Aggregator.set_fields, and_self]

/-- Stage 3 has chosen a copy of the configuration. -/
def Aggregator.configShown (copy : Nat) (c : FlashConfig) : Aggregator :=
  (a.set BOOT_STATUS_CFG_COPY copy).set BOOT_STATUS_CFG_VERSION c.version

theorem Aggregator.configShown_fields (copy : Nat) (c : FlashConfig) :
    (a.configShown copy c).serial = a.serial ∧ (a.configShown copy c).mem = a.mem := by
  unfold Aggregator.configShown
  simp only [Aggregator.set_fields, and_self]

/-- The firmware slot that stage 4 starts and the copy of the configuration are shown. -/
def Aggregator.firmwareShown (copy : Nat) (c : FlashConfig) (slot : Nat) (fallback : Bool) : Aggregator :=
  let b := { ((a.set BOOT_STATUS_CFG_COPY copy).set BOOT_STATUS_CFG_VERSION c.version) with hif := { a.hif with fwActive := slot } }
  ((b.set BOOT_STATUS_FW_SLOT slot).set BOOT_STATUS_FW_FALLBACK (b2n fallback)).set HI_STATUS_FW_SLOT slot

theorem Aggregator.firmwareShown_fields (copy : Nat) (c : FlashConfig) (slot : Nat) (fallback : Bool) :
    let b := a.firmwareShown copy c slot fallback
    b.serial = a.serial ∧ b.hif.fwActive = slot ∧ b.tc = a.tc := by
  simp [Aggregator.firmwareShown]

/-- `b` is `a` with other registers at most. -/
def Aggregator.RegsOnly (a b : Aggregator) : Prop := b = { a with regs := b.regs }

namespace Aggregator.RegsOnly
variable {a b c : Aggregator}

theorem refl (a : Aggregator) : a.RegsOnly a := rfl

theorem trans (h : a.RegsOnly b) (h' : b.RegsOnly c) : a.RegsOnly c := by
  unfold RegsOnly at *
  rw [h', h]

theorem foldl {β : Type} {f : Aggregator → β → Aggregator} (h : ∀ (b : Aggregator) (x : β), b.RegsOnly (f b x)) (l : List β) (a : Aggregator) :
    a.RegsOnly (l.foldl f a) := by
  induction l generalizing a with
  | nil => exact refl a
  | cons x xs ih => exact (h a x).trans (ih _)

theorem set (a : Aggregator) (f : Fld) (n : Nat) : a.RegsOnly (a.set f n) := rfl
theorem setWord (a : Aggregator) (k : Nat) (w : W64) : a.RegsOnly (a.setWord k w) := rfl
theorem setAd (a : Aggregator) (k st : Nat) : a.RegsOnly (a.setAd k st) := (set a _ _).trans (set _ _ _)

theorem ite {p : Prop} [Decidable p] (h : a.RegsOnly b) (h' : a.RegsOnly c) : a.RegsOnly (if p then b else c) := by
  split
  · exact h
  · exact h'

theorem fields (h : a.RegsOnly b) : b.serial = a.serial ∧ b.hif = a.hif ∧ b.tc = a.tc ∧ b.cfg = a.cfg ∧ b.mem = a.mem := by
  unfold RegsOnly at h
  rw [h]
  exact ⟨rfl, rfl, rfl, rfl, rfl⟩

end Aggregator.RegsOnly

theorem Aggregator.applyConfig_regs (copy : Nat) (c : FlashConfig) : ∃ b : Aggregator, a.applyConfig copy c = { b with cfg := c } ∧ a.RegsOnly b := by
  generalize hb : a.applyConfig copy c = b
  unfold Aggregator.applyConfig at hb
  extract_lets a1 a2 a3 domain a3b a4 a5 at hb
  refine ⟨_, hb.symm, ?_⟩
  have h1 : a.RegsOnly a1 := ((((RegsOnly.set a _ _).trans (.set _ _ _)).trans (.set _ _ _)).trans (.set _ _ _)).trans (.set _ _ _)
  have h2 : a.RegsOnly a2 := (h1.trans (.set _ _ _)).trans (.foldl (fun b i => by
    split
    · exact ((RegsOnly.setWord b _ _).trans (.setWord _ _ _)).trans (.setWord _ _ _)
    · exact .refl b) _ _)
  have h3 : a.RegsOnly a3 := h2.trans (.foldl (fun b e => .ite (.setWord b _ _) (.setWord b _ _)) _ _)
  have hdomain : ∀ f n (b : Aggregator), b.RegsOnly (domain f n b) := fun f n b => .ite (.set b _ _) (.refl b)
  have h4 : a.RegsOnly a4 := ((h3.trans (hdomain _ _ _)).trans (hdomain _ _ _)).trans (.foldl (fun b e => .setWord b _ _) _ _)
  exact (h4.trans (.foldl (fun b k => .set b _ _) _ _)).trans (.set _ _ _)

/-- The aggregator as stages 5 and 6 leave it: memory is zero, the configuration stands, the first domains are up. -/
def Aggregator.broughtUp (copy : Nat) (c : FlashConfig) : Aggregator :=
  let b := ([65, 66, 69, 70, 73, 74, 75, 78]).foldl (fun (a : Aggregator) k => a.setAd k adOn) ({ a.applyConfig copy c with mem := [] }.bootStage 6 0)
  { b with erasing := !b.on (REC_STATUS_BANK_READY.onPage 0x3) }

theorem Aggregator.broughtUp_fields (copy : Nat) (c : FlashConfig) :
    let b := a.broughtUp copy c
    b.serial = a.serial ∧ b.hif = a.hif ∧ b.tc = a.tc ∧ b.cfg = c ∧ b.mem = [] := by
  obtain ⟨x, hconfig, hx⟩ := a.applyConfig_regs copy c
  obtain ⟨hserial, hhif, htc, -⟩ := hx.fields
  let y : Aggregator := { x with cfg := c, mem := [] }
  have hup := ((RegsOnly.set y BOOT_STATUS_STAGE 6).trans (.set _ BOOT_STATUS_RESULT 0)).trans
    (.foldl (fun b k => .setAd b k adOn) [65, 66, 69, 70, 73, 74, 75, 78] _)
  obtain ⟨yserial, yhif, ytc, ycfg, ymem⟩ := hup.fields
  unfold Aggregator.broughtUp
  simp only [hconfig]
  exact ⟨yserial.trans hserial, yhif.trans hhif, ytc.trans htc, ycfg, ymem⟩

variable {a}

theorem Aggregator.bootRun_owed {b : Bool} (hboot : a.boot = .owed b) (img : FlashImage) : a.bootRun img
    = if ¬ img.sfdpOk then a.bootStop 1 0x01
      else match img.mfg with
        | none => a.bootStop 2 0x02
        | some (rev, serial) =>
          match img.chosen, a.hif.startSlot with
          | none, _ => (a.identified rev serial).bootStop 3 0x03
          | some (copy, c), none =>
            ((a.identified rev serial).configShown copy c).bootStop 4 0x04
          | some (copy, c), some (slot, fallback) =>
            (a.identified rev serial).bootMemory img b copy c slot fallback := by
  unfold Aggregator.bootRun
  simp only [hboot]
  rfl

theorem Aggregator.bootRun_other (h : ∀ b, a.boot ≠ .owed b) (img : FlashImage) : a.bootRun img = a := by
  unfold Aggregator.bootRun
  split
  · next b hb => exact absurd hb (h b)
  · rfl

theorem Aggregator.bootTimeout_other (h : ∀ t, a.boot ≠ .resync t) : a.bootTimeout = a := by
  unfold Aggregator.bootTimeout
  split
  · next t ht => exact absurd ht (h t)
  · rfl

theorem Aggregator.bootTimeout_resync {t : Nat} (h : a.boot = .resync t) : a.bootTimeout = if a.mono < t + 10000000000 then a
    else ({ (a.bootStage 7 0x09).bootRecord with jobs := [] } : Aggregator).bootReady true := by
  unfold Aggregator.bootTimeout
  simp only [h]

theorem Aggregator.bootMemory_good {img : FlashImage} {c : FlashConfig} (hlen : c.regions.length ≤ 16) (hok : c.regions.all RegionCfg.ok = true)
    (hapart : regionsApart c.regions = true) (hmem : img.memoryOk = true) (hmap : img.coreMapOk = true) (hingest : img.ingestOk = true)
    (chip : Bool) (copy slot : Nat) (fallback : Bool) : a.bootMemory img chip copy c slot fallback
      = let b := (a.firmwareShown copy c slot fallback).broughtUp copy c
        if chip then { b.bootStage 7 0 with boot := .resync b.mono } else (b.bootStage 7 0).bootReady false := by
  unfold Aggregator.bootMemory
  dsimp only
  rw [if_neg (by simp [hok, hapart, hlen]), if_neg (by simp [hmem]), if_neg (by simp [hmap]), if_neg (by simp [hingest])]
  rfl

end Boot

/-! ### The statement -/

/-- Settles O48: fatal causes through one operation, the chip reset and the stages of boot field by field. -/
theorem fatalEventsResetsAndBoot : Obligations.FatalEventsResetsAndBoot := by
  unfold Obligations.FatalEventsResetsAndBoot
  intro s code reason t n ver serial_ img cause_ i rev ser cfg copy addr a noted struck memory
  obtain ⟨htc, hrecd, hjobs, hmem, hboot, hpending, hfw0, hfw1, hledgers, hloop⟩ := a.resetChipNow_fields cause_
  refine ⟨?struck, ?uncorrectable, ?noMemory, ?wakeFail, ?noCause, ?pending, ?noReset, ?announcing, ?flushing, ?resets, ?tc, ?recd, ?jobs, ?mem, ?boot,
    ?done, ?fw0, ?fw1, ?ledgers, ?loop, ?cause, ?powerOn, ?booted, ?sfdp, ?mfg, ?config, ?firmware, ?boots, ?stops, ?noResync, ?resyncs, ?late,
    ?noScrub, ?scrub⟩
  case struck =>
    have cause (points : a.chipResetCause code = a.fatal code 250 reason) : exec (.chipReset code) s = nextAgg s (struck a) :=
      congrArg (nextAgg s) (points.trans (a.fatal_charged code reason))
    rintro (⟨rfl | rfl, rfl, rfl⟩ | ⟨rfl | rfl, rfl, rfl⟩ | ⟨rfl, rfl, rfl⟩)
    · exact congrArg (nextAgg s) (a.fatal_charged hcBridgeFatal reasonOther)
    · exact cause rfl
    · exact congrArg (nextAgg s) (a.fatal_charged hcAggWatchdog reasonOther)
    · exact cause rfl
    · exact cause rfl
  case uncorrectable =>
    rintro rfl rfl hmemory
    refine ⟨a.modPwr fun p => { p with poison := p.poison ++ [eccWord addr] }, ?_, a.poisoned_added addr, rfl, rfl, rfl⟩
    exact congrArg (nextAgg s) ((a.memoryUe_inside hmemory).trans (Aggregator.fatal_charged _ hcMemUe reasonMemUe))
  case noMemory => exact fun h => congrArg (nextAgg s) (show a.memoryUe addr = a from if_neg h)
  case wakeFail =>
    rintro rfl h
    exact congrArg (nextAgg s) (show a.chipResetCause hcCoreWakeFail = _ from a.fatal_noted reasonOther h)
  case noCause => exact fun hmem hbridge hdog hwake => congrArg (nextAgg s) (a.chipResetCause_other hmem hbridge hdog hwake)
  case pending => exact a.announceReset_pending code reason
  case noReset => exact fun h => congrArg (nextAgg s) (Aggregator.resetBegin_none h)
  case announcing =>
    exact fun h hann hearly => congrArg (nextAgg s) (Aggregator.resetBegin_announcing h hann hearly)
  case flushing =>
    exact fun h hcode hflush => congrArg (nextAgg s) (Aggregator.resetBegin_flushing h hcode hflush)
  case resets =>
    intro h hdue hcode
    refine ⟨_, congrArg (nextAgg s) (Aggregator.resetBegin_due h hdue hcode), ?_⟩
    simp [Aggregator.record, Aggregator.abortCommands_tc, a]
  case powerOn =>
    exact ⟨a.powerOn none, rfl, a.powerOn_fields⟩
  case booted => exact fun h => congrArg (nextAgg s) (Aggregator.bootRun_other h img)
  case sfdp =>
    intro b hboot hsfdp
    refine congrArg (nextAgg s) ((Aggregator.bootRun_owed hboot img).trans (if_pos ?_))
    simp [hsfdp]
  case mfg =>
    intro b hboot hsfdp hmfg
    refine congrArg (nextAgg s) ((Aggregator.bootRun_owed hboot img).trans ?_)
    simp only [hsfdp, hmfg, not_true_eq_false, if_false]
  case config =>
    intro b hboot hsfdp hmfg hchosen
    refine congrArg (nextAgg s) ((Aggregator.bootRun_owed hboot img).trans ?_)
    simp only [hsfdp, hmfg, hchosen, not_true_eq_false, if_false]
    rfl
  case firmware =>
    intro b hboot hsfdp hmfg hchosen hslot
    obtain ⟨hserial, hmem0, -⟩ := a.identified_fields rev ser
    obtain ⟨cserial, cmem⟩ := (a.identified rev ser).configShown_fields copy cfg
    refine ⟨(a.identified rev ser).configShown copy cfg, congrArg (nextAgg s) ((Aggregator.bootRun_owed hboot img).trans ?_), cserial.trans hserial,
      cmem.trans hmem0⟩
    simp only [hsfdp, hmfg, hchosen, hslot, not_true_eq_false, if_false]
  case boots =>
    intro chip k fb hboot hsfdp hmfg hchosen hslot hlen hok hapart hmem hmap hingest
    obtain ⟨hserial, -, tcId⟩ := a.identified_fields rev ser
    generalize hx : a.identified rev ser = x at hserial tcId
    obtain ⟨serialShown, hifShown, tcShown⟩ := x.firmwareShown_fields copy cfg k fb
    obtain ⟨serialUp, hifUp, tcUp, cfgUp, memUp⟩ := (x.firmwareShown copy cfg k fb).broughtUp_fields copy cfg
    have hrun : a.bootRun img = x.bootMemory img chip copy cfg k fb := by
      rw [Aggregator.bootRun_owed hboot img]
      simp only [hsfdp, hmfg, hchosen, hslot, not_true_eq_false, if_false, hx]
    rw [Aggregator.bootMemory_good hlen hok hapart hmem hmap hingest] at hrun
    generalize hy : (x.firmwareShown copy cfg k fb).broughtUp copy cfg = y at *
    have hmono : y.mono = a.mono := congrArg TimeClient.mono (tcUp.trans (tcShown.trans tcId))
    obtain ⟨stageSerial, stageHif, -, stageCfg, stageMem⟩ := ((Aggregator.RegsOnly.set y BOOT_STATUS_STAGE 7).trans (.set _ BOOT_STATUS_RESULT 0)).fields
    dsimp only at hrun
    rw [hmono] at hrun
    exact ⟨y.bootStage 7 0, congrArg (nextAgg s) hrun, stageSerial.trans (serialUp.trans (serialShown.trans hserial)), stageCfg.trans cfgUp,
      stageMem.trans memUp, (congrArg HostIf.fwActive (stageHif.trans hifUp)).trans hifShown, y.bootStage_shows (by decide) (by decide)⟩
  case stops => exact ⟨a.bootStop_boot ver serial_, a.bootStop_shows⟩
  case noResync => exact fun h => congrArg (nextAgg s) (Aggregator.bootTimeout_other h)
  case resyncs => exact fun h hearly => congrArg (nextAgg s) ((Aggregator.bootTimeout_resync h).trans (if_pos hearly))
  case late => exact fun h hdue => congrArg (nextAgg s) ((Aggregator.bootTimeout_resync h).trans (if_neg (Nat.not_lt.2 hdue)))
  case noScrub => exact fun h => congrArg (nextAgg s) (show a.patrolScrub n = a from if_neg (by simp [Aggregator.scrubDue]; omega))
  case scrub =>
    exact fun hn hdue => congrArg (nextAgg s) (show a.patrolScrub n = _ from if_pos ⟨hn, decide_eq_true hdue⟩)
  case cause => exact a.resetChipNow_cause
  case tc => exact htc
  case recd => exact hrecd
  case jobs => exact hjobs
  case mem => exact hmem
  case boot => exact hboot
  case done => exact hpending
  case fw0 => exact hfw0
  case fw1 => exact hfw1
  case ledgers => exact hledgers
  case loop => exact hloop

end Sys2Proof.Machine
end ResetsAndBoot

section PoisonedTransfer
/-!
PROOFS. A transfer of a DMA channel whose source holds poisoned data (R235, R445).
-/
namespace Sys2Proof.Machine

/-- An aggregator whose SRAM holds a byte in a word that could not be corrected. -/
def poisonedSource : Aggregator :=
  { Aggregator.blank with mem := [(0, 1)], pwr := { PowerMgr.init with poison := [eccWord 0] } }

/-- A descriptor that moves that byte within the chip. -/
def moveWithin : DmaDesc := readDesc (leBytes 8 0 ++ leBytes 8 64 ++ leBytes 4 1 ++ leBytes 4 0 ++ leBytes 8 0)

/-- Poisoned data are not committed. -/
theorem poisonedSource_stays : (poisonedSource.dmaMove moveWithin 1).mem = poisonedSource.mem
    ∧ memPut poisonedSource.mem moveWithin.dst (memBytes poisonedSource.mem moveWithin.src 1) ≠ poisonedSource.mem := by
  decide +kernel

theorem moveWithin_flags : moveWithin.dstHost = false ∧ moveWithin.dstFixed = false ∧ moveWithin.srcFixed = false ∧ moveWithin.srcHost = false := by
  decide +kernel

/-- Refutes O52: where the source of a transfer is poisoned, nothing is written at the destination (R235); the statement has the bytes of the
source there in every state. -/
theorem not_capsulesDmaChannelsAndBufferPools : ¬ Obligations.CapsulesDmaChannelsAndBufferPools := by
  unfold Obligations.CapsulesDmaChannelsAndBufferPools
  intro h
  obtain ⟨hmem, hmoved⟩ := poisonedSource_stays
  obtain ⟨hdstHost, hdstFixed, hsrcFixed, hsrcHost⟩ := moveWithin_flags
  obtain ⟨-, -, -, -, -, -, -, -, -, -, -, -, -, -, -, -, -, -, -, -, -, -, moves, -⟩ :=
    h { State.reset with agg := poisonedSource } 0 0 0 1 0 0 0 0 0 0 [] .getEid ⟨0, 0, 0, 0, 0, [], 0, 0⟩ moveWithin
  obtain ⟨moved, -⟩ := moves hdstHost hdstFixed hsrcFixed
  simp only [hsrcHost, Bool.false_eq_true, if_false] at moved
  exact hmoved (moved.symm.trans hmem)

end Sys2Proof.Machine
end PoisonedTransfer

section HostQueues
/-!
PROOFS. Rings and doorbells, accepting and completing commands, resets of an entry, firmware activation (R418, R419, R431 to R442).
-/
namespace Sys2Proof.Machine

theorem Aggregator.oobServed_of_served {a : Aggregator} (h : a.served = true) : a.oobServed = true := by simp [Aggregator.oobServed, h]

/-! ### Doorbells (R431, R432) -/

section Doorbells
variable {a : Aggregator} {q v : Nat} {x : QueuePair} {y : CqState}

theorem Aggregator.sqDoorbell_none (h : a.queuePair q = none) : a.sqDoorbell q v = a := by
  unfold Aggregator.sqDoorbell
  simp only [h]

theorem Aggregator.sqDoorbell_disabled (h : a.queuePair q = some x) (hx : x.disabled = true) : a.sqDoorbell q v = a := by
  unfold Aggregator.sqDoorbell
  simp only [h, hx, if_true]

theorem Aggregator.sqDoorbell_moves (h : a.queuePair q = some x) (hx : x.disabled = false) (hv : v < 2 ^ x.sqLog)
    (hdist : ringDist (2 ^ x.sqLog) x.sqHead x.sqTail + ringDist (2 ^ x.sqLog) x.sqTail v < 2 ^ x.sqLog) :
    a.sqDoorbell q v = a.setQueue q { x with sqTail := v } := by
  unfold Aggregator.sqDoorbell
  simp only [h, hx, Bool.false_eq_true, if_false]
  exact if_neg (by omega)

theorem Aggregator.sqDoorbell_outside (h : a.queuePair q = some x) (hx : x.disabled = false) (hv : 2 ^ x.sqLog ≤ v) :
    a.sqDoorbell q v = ((a.disableQueue q x).inc HI_CNT_DB_ERR_N).raise HI_STATUS_DB_ERR := by
  unfold Aggregator.sqDoorbell
  simp only [h, hx, Bool.false_eq_true, if_false]
  exact if_pos (.inl hv)

theorem Aggregator.cqDoorbell_none (h : a.cq q = none) : a.cqDoorbell q v = a := by
  unfold Aggregator.cqDoorbell
  simp only [h]

theorem Aggregator.cqDoorbell_moves (h : a.cq q = some y) (hv : v < 2 ^ y.log)
    (hdist : ringDist (2 ^ y.log) y.head v ≤ ringDist (2 ^ y.log) y.head y.tail) : a.cqDoorbell q v = a.setCq q { y with head := v } := by
  unfold Aggregator.cqDoorbell
  simp only [h]
  exact if_neg (by omega)

theorem Aggregator.cqDoorbell_unused (h : a.cq q = some y) (hv : 2 ^ y.log ≤ v)
    (hoff : ∀ k < 64, ∀ p, a.queuePair k = some p → p.cqid = q → p.disabled = true) : a.cqDoorbell q v = a := by
  have none_ : ((List.range 64).filter fun k => match a.queuePair k with | some p => decide (p.cqid = q) && !p.disabled | none => false) = [] := by
    rw [List.filter_eq_nil_iff]
    intro k hk
    have hk := hoff k (List.mem_range.1 hk)
    cases hp : a.queuePair k with
    | none => simp
    | some p =>
      by_cases hcq : p.cqid = q
      · simp [hk p hp hcq]
      · simp [hcq]
  unfold Aggregator.cqDoorbell
  simp only [h]
  rw [if_pos (.inl hv)]
  exact if_pos none_

end Doorbells

/-! ### Fetching and accepting (R419, R433) -/

section Accept
variable {a : Aggregator} {q head : Nat} {priv : Bool} {entry : List Byte}

theorem Aggregator.commandFetch_held (h : a.on HI_STATUS_FW_HOLD = true ∨ ∃ d ∈ a.hif.commands, d.op = opReset) : a.commandFetch = a := by
  unfold Aggregator.commandFetch
  refine if_pos (h.imp_right fun ⟨d, hd, hop⟩ => ?_)
  exact List.any_eq_true.2 ⟨d, hd, decide_eq_true hop⟩

theorem Aggregator.commandFetch_empty (hboot : a.recovery = false) (h : a.nextQueue = none) : a.commandFetch = a := by
  unfold Aggregator.commandFetch
  split
  · rfl
  · simp only [hboot, h, Bool.false_eq_true, if_false]

theorem Aggregator.commandFetch_admin {x : QueuePair} (hhold : a.on HI_STATUS_FW_HOLD = false) (hreset : a.resetOwed = false)
    (hboot : a.recovery = false) (h : a.nextQueue = some 0) (hx : a.queuePair 0 = some x) : a.commandFetch
      = (a.setQueue 0 { x with sqHead := (x.sqHead + 1) % 2 ^ x.sqLog }).accept 0 ((x.sqHead + 1) % 2 ^ x.sqLog) true
          (memBytes a.host (x.sqBase + 64 * x.sqHead) 64) [] := by
  unfold Aggregator.commandFetch
  simp only [hhold, hreset, hboot, h, hx, Bool.false_eq_true, or_self, if_false, mgmtQid]
  rfl

theorem Aggregator.nextQueue_admin (h : a.fetchable 0 = true) : a.nextQueue = some 0 := if_pos h

/-- The command that an entry of a queue spells, with the next serial number. -/
def Aggregator.arriving (a : Aggregator) (q head : Nat) (entry : List Byte) : Command :=
  ⟨2 * a.hif.serial + b2n (decide (q = mgmtQid)), q, head, entry, [], a.mono, .queued⟩

/-- Where no command stands, none is outrun. -/
theorem Aggregator.accept_alone (h : a.hif.commands = []) : a.accept q head priv entry []
    = let c := a.arriving q head entry
      let b := a.modHif fun h => { h with serial := h.serial + 1 }
      if ¬ opcodes.contains c.op then b.post c csInvalidOpcode 0 0
      else if opPrivileged c.op ∧ ¬ priv then b.post c csPrivilege 0 0
      else if ¬ subopOk c.op c.subop ∨ ¬ c.reservedOk then b.post c csInvalidField 0 0
      else if b.recovery ∧ ¬ [opIdentify, opGetLog, opFwDownload, opFwCommit].contains c.op then b.post c csRefused 0 0
      else b.modHif fun h => { h with commands := h.commands ++ [c] } := by
  unfold Aggregator.accept
  have none_ : (a.modHif fun h => { h with serial := h.serial + 1 }).hif.commands = [] := h
  simp only [none_, List.filter_nil, List.foldl_nil]
  rfl

/-- Every privileged opcode is one of Table 15-6. -/
theorem opPrivileged_known {op : Nat} (h : opPrivileged op = true) : opcodes.contains op = true := by
  have : op ∈ [opSetFeature, opFwDownload, opFwCommit, opReset, opArmJob, opRetireJob] := by simpa [opPrivileged] using h
  simp only [List.mem_cons, List.not_mem_nil, or_false] at this
  rcases this with rfl | rfl | rfl | rfl | rfl | rfl <;> decide

end Accept

/-! ### Completions (R431, Table 15-4) -/

section Completions
variable {a : Aggregator} {c : Command} {st r m : Nat}

/-- A completion is counted, and its command is no more. -/
def Aggregator.counted (a : Aggregator) (serial : Nat) : Aggregator :=
  (a.modHif fun h => { h with commands := h.commands.filter fun x => x.serial ≠ serial }).incWrap HI_CNT_CMDS_N

theorem Aggregator.counted_fields (a : Aggregator) (serial : Nat) : (a.counted serial).host = a.host
    ∧ (a.counted serial).hif = { a.hif with commands := a.hif.commands.filter fun x => x.serial ≠ serial } := by
  simp [Aggregator.counted]

/-- The counter of completions stands beside the registers of the admin rings. -/
theorem Aggregator.counted_get (a : Aggregator) (serial : Nat) {g : Fld} (hg : HI_CNT_CMDS_N.reg ≠ g.reg) : (a.counted serial).get g = a.get g :=
  RegFile.get_set_other _ _ _ _ ⟨by decide, by decide⟩ (.inl hg)

theorem Aggregator.counted_rings (a : Aggregator) (serial k : Nat) :
    (a.counted serial).queuePair k = a.queuePair k ∧ (a.counted serial).cq k = a.cq k := by
  unfold Aggregator.queuePair Aggregator.cq
  rw [(a.counted_fields serial).2, Aggregator.counted_get a serial (g := HI_ADMIN_ASQ_LOG) (by decide),
    Aggregator.counted_get a serial (g := HI_ADMIN_ACQ_LOG) (by decide), Aggregator.counted_get a serial (g := HI_ASQ_BASE_BASE) (by decide),
    Aggregator.counted_get a serial (g := HI_ACQ_BASE_BASE) (by decide)]
  exact ⟨rfl, rfl⟩

theorem Aggregator.postPcie_ring {x : QueuePair} {y : CqState} (hx : a.queuePair c.qid = some x) (hy : a.cq x.cqid = some y) :
    let e := a.postPcie c st r m
    e.host = memPut a.host (y.base + 32 * y.tail) (completionBytes c.cid c.qid (b2n y.phase) c.head st r m)
      ∧ e.hif.msix = a.hif.msix ++ [x.vector] ∧ e.hif.commands = a.hif.commands
      ∧ tabGet e.hif.cqs x.cqid = some { y with tail := if y.tail + 1 = 2 ^ y.log then 0 else y.tail + 1,
                                                  phase := if y.tail + 1 = 2 ^ y.log then !y.phase else y.phase } := by
  unfold Aggregator.postPcie
  simp only [hx, hy, Aggregator.setCq, Aggregator.modHif_fields, true_and]
  rw [tabGet_put, if_pos rfl]
  by_cases hlast : y.tail + 1 = 2 ^ y.log
  · simp [hlast]
  · simp [hlast]

/-- The completion goes to the tail of its ring, and the phase turns at the wrap. -/
theorem Aggregator.post_ring {x : QueuePair} {y : CqState} (hmgmt : c.mgmt = false) (hx : a.queuePair c.qid = some x) (hy : a.cq x.cqid = some y) :
    let e := a.post c st r m
    e.host = memPut a.host (y.base + 32 * y.tail) (completionBytes c.cid c.qid (b2n y.phase) c.head st r m)
      ∧ e.hif.msix = a.hif.msix ++ [x.vector] ∧ (∀ d ∈ e.hif.commands, d.serial ≠ c.serial)
      ∧ tabGet e.hif.cqs x.cqid = some { y with tail := if y.tail + 1 = 2 ^ y.log then 0 else y.tail + 1,
                                                  phase := if y.tail + 1 = 2 ^ y.log then !y.phase else y.phase } := by
  have hpost : a.post c st r m = (a.counted c.serial).postPcie c st r m := by
    unfold Aggregator.post
    exact if_neg (by simp [hmgmt])
  obtain ⟨hhost, hhif⟩ := a.counted_fields c.serial
  obtain ⟨ehost, emsix, ecommands, ecqs⟩ := Aggregator.postPcie_ring (st := st) (r := r) (m := m)
    (((a.counted_rings c.serial c.qid).1).trans hx) (((a.counted_rings c.serial x.cqid).2).trans hy)
  rw [hpost]
  refine ⟨ehost.trans (by rw [hhost]), emsix.trans (by rw [hhif]), fun d hd => ?_, ecqs⟩
  rw [ecommands, hhif] at hd
  simpa using (List.mem_filter.1 hd).2

end Completions

/-! ### Budgets, Flush and firmware (R418, R436, R439, R442) -/

section Ends
variable {a : Aggregator} {n slot t : Nat} {c : Command}

theorem Aggregator.command_absent (h : a.command n = none) :
    a.budgetExpiry n = a ∧ a.flushComplete n = a ∧ a.resetInterface n = a ∧ a.resetChip n = a := by
  unfold Aggregator.budgetExpiry Aggregator.flushComplete Aggregator.resetInterface Aggregator.resetChip
  simp only [h, and_self]

theorem Aggregator.budgetExpiry_held (h : a.command n = some c) (hheld : c.op = opFlush ∨ c.wait = .dead ∨ a.mono < c.started + a.budgetNs c) :
    a.budgetExpiry n = a := by
  unfold Aggregator.budgetExpiry
  simp only [h]
  refine if_pos ?_
  rcases hheld with hop | hdead | hearly
  · exact .inl (by simp [hop])
  · exact .inl (by simp [hdead])
  · exact .inr hearly

theorem Aggregator.budgetExpiry_queued (h : a.command n = some c) (hop : c.op ≠ opFlush) (hwait : c.wait = .queued)
    (hdue : c.started + a.budgetNs c ≤ a.mono) :
    a.budgetExpiry n = (a.dropFrames fun m _ => decide (m = c.serial)).post c csBudget 0 0 := by
  unfold Aggregator.budgetExpiry
  simp only [h, hwait]
  rw [if_neg (by simp [hop]; omega)]
  unfold Aggregator.endEarly Aggregator.stopCmd
  simp only [hwait]

theorem Aggregator.flushComplete_first {all : Bool} (h : a.command n = some c) (hwait : c.wait = .flush all)
    (hfirst : a.hif.commands.takeWhile (fun d => decide (d.serial ≠ n)) = []) : a.flushComplete n = a.finish c csSuccess 0 [] := by
  unfold Aggregator.flushComplete
  simp only [h, hwait, hfirst]
  exact if_pos (by simp)

theorem Aggregator.fw_idle (h : a.activation = none) : a.fwProceed = a ∧ a.fwReady = a ∧ a.fwTimeout = a := by
  unfold Aggregator.fwProceed Aggregator.fwReady Aggregator.fwTimeout
  simp only [h, and_self]

theorem Aggregator.fwProceed_first (h : a.activation = some (c, slot))
    (hfirst : a.hif.commands.takeWhile (fun d => decide (d.serial ≠ c.serial)) = []) (hpaused : a.paused = false) : a.fwProceed
      = if a.hif.fwValid slot then a.modHif fun h => { h with fwStart := some (slot, a.mono) } else a.fwResume c csFwEmpty := by
  unfold Aggregator.fwProceed
  simp only [h, hfirst, hpaused]
  rw [if_neg (by simp)]
  cases a.hif.fwValid slot <;> rfl

theorem Aggregator.fwReady_started {k : Nat} (h : a.activation = some (c, slot)) (hstart : a.hif.fwStart = some (k, t)) :
    a.fwReady = (if t + 400000000 ≤ a.mono then a
      else (((a.modHif fun h => { h with fwActive := slot }).set HI_STATUS_FW_SLOT slot).set BOOT_STATUS_FW_SLOT slot).fwResume c csSuccess)
    ∧ a.fwTimeout = if t + 400000000 ≤ a.mono then a.fwResume c csFwReverted else a := by
  unfold Aggregator.fwReady Aggregator.fwTimeout
  simp only [h, hstart, and_self]

end Ends

/-! ### Resets of an entry (R440) -/

/-- `b` is `a` in other control paths, with frames sent, at most. -/
def Aggregator.FramesOnly (a b : Aggregator) : Prop := b = { a with ing := b.ing, out := b.out }

namespace Aggregator.FramesOnly
variable {a b c : Aggregator}

theorem refl (a : Aggregator) : a.FramesOnly a := rfl

theorem trans (h : a.FramesOnly b) (h' : b.FramesOnly c) : a.FramesOnly c := by
  unfold FramesOnly at *
  rw [h', h]

theorem fields (h : a.FramesOnly b) : b.hif = a.hif ∧ b.jobs = a.jobs ∧ b.mem = a.mem ∧ b.tc = a.tc ∧ b.regs = a.regs := by
  unfold FramesOnly at h
  rw [h]
  exact ⟨rfl, rfl, rfl, rfl, rfl⟩

theorem sendCtl (a : Aggregator) (k : Nat) (p : CtlPath) (f : CtlOutFrame) (resend : Bool) : a.FramesOnly ((a.setPath k p).sendCtl k f resend) := rfl

theorem pumpCtl (a : Aggregator) (k n : Nat) : a.FramesOnly (a.pumpCtl k n) := by
  induction n generalizing a with
  | zero => exact refl a
  | succ n ih =>
    unfold Aggregator.pumpCtl
    dsimp only
    split
    · exact refl a
    · split
      · exact refl a
      · exact (sendCtl a k _ _ _).trans (ih _)

theorem dropFrames (a : Aggregator) (hit : Nat → Nat → Bool) : a.FramesOnly (a.dropFrames hit) := by
  unfold Aggregator.dropFrames
  generalize a.ing.ctl = l
  dsimp only
  induction l generalizing a with
  | nil => exact refl a
  | cons e l ih => exact ((show a.FramesOnly (a.setPath _ _) from rfl).trans (pumpCtl _ _ _)).trans (ih _)

end Aggregator.FramesOnly

section Resets
variable {a : Aggregator}

/-- No Arm Job is among the outstanding commands. -/
def Aggregator.NoArm (a : Aggregator) : Prop := ∀ d ∈ a.hif.commands, ∀ ctx left failed, d.wait ≠ .arm ctx left failed

theorem Aggregator.stopCmd_other {c : Command} (h : ∀ ctx left failed, c.wait ≠ .arm ctx left failed) : a.stopCmd c = a := by
  unfold Aggregator.stopCmd
  split
  · next ctx left failed hwait => exact absurd hwait (h ctx left failed)
  · rfl

theorem foldl_stopCmd_noArm {l : List Command} (h : ∀ d ∈ l, ∀ ctx left failed, d.wait ≠ .arm ctx left failed) (a : Aggregator) :
    l.foldl Aggregator.stopCmd a = a := by
  induction l generalizing a with
  | nil => rfl
  | cons d l ih =>
    rw [List.foldl_cons, Aggregator.stopCmd_other (h d List.mem_cons_self)]
    exact ih (fun x hx => h x (List.mem_cons_of_mem d hx)) a

/-- Where no Arm Job is outstanding, the commands that are hit stop in place. -/
theorem Aggregator.abortCommands_noArm (h : a.NoArm) (hit : Command → Bool) (posted : Bool) : a.abortCommands hit posted
    = let b := a.dropFrames fun n _ => ((a.hif.commands.filter hit).map (·.serial)).contains n
      if posted then (a.hif.commands.filter hit).foldl (fun (a : Aggregator) c => (a.inc HI_CNT_ABORTED_N).post c csAborted 0 0) b
      else b.modHif fun h => { h with commands := h.commands.filter fun c => !hit c } := by
  unfold Aggregator.abortCommands
  dsimp only
  rw [foldl_stopCmd_noArm fun d hd => h d (List.mem_filter.1 hd).1]

theorem Aggregator.post_jobs (a : Aggregator) (c : Command) (st r m : Nat) : (a.post c st r m).jobs = a.jobs := by
  unfold Aggregator.post
  dsimp only
  split
  · simp [Aggregator.sendCapsule]
  · unfold Aggregator.postPcie
    split
    · simp
    · split <;> simp [Aggregator.setCq]

theorem Aggregator.abortCommands_jobs (h : a.NoArm) (hit : Command → Bool) : (a.abortCommands hit true).jobs = a.jobs := by
  rw [Aggregator.abortCommands_noArm h]
  dsimp only
  rw [if_pos rfl, foldl_keeps Aggregator.jobs fun b c => (Aggregator.post_jobs _ _ _ _ _).trans (by simp)]
  exact (FramesOnly.dropFrames a _).fields.2.1

theorem Aggregator.resetInterface_mgmt {n : Nat} {c : Command} (h : a.command n = some c) (hop : c.op = opReset) (hsub : c.subop = 0)
    (hmgmt : c.mgmt = true) : a.resetInterface n
      = ((a.abortCommands (fun d => !d.mgmt && decide (d.serial ≠ n)) true).deleteQueues).post c csSuccess 0 0 := by
  unfold Aggregator.resetInterface
  simp only [h]
  rw [if_neg (by simp [hop, hsub])]
  exact if_pos (.inl hmgmt)

theorem Aggregator.resetChip_other {n : Nat} {c : Command} (h : a.command n = some c) (hop : c.op ≠ opReset ∨ c.subop ≠ 1) : a.resetChip n = a := by
  unfold Aggregator.resetChip
  simp only [h]
  exact if_pos hop

/-- The commands of both entries are aborted, the queues deleted and the reset recorded, before it is announced. -/
def Aggregator.chipAborted (a : Aggregator) (n : Nat) (c : Command) : Aggregator :=
  let b := a.abortCommands (fun d => decide (d.serial ≠ n)) true
  ((b.post c csSuccess 0 0).deleteQueues).recordLimited rcHealth 0 (leBytes 2 0 ++ leBytes 4 (b.subject chipUnit))

theorem Aggregator.resetChip_announces {n : Nat} {c : Command} (h : a.command n = some c) (hop : c.op = opReset) (hsub : c.subop = 1) :
    a.resetChip n = (a.chipAborted n c).announceReset 0 reasonCommanded := by
  unfold Aggregator.resetChip
  simp only [h]
  exact if_neg (by simp [hop, hsub])

theorem Aggregator.chipAborted_fields (h : a.NoArm) (n : Nat) (c : Command) :
    (a.chipAborted n c).tc = a.tc ∧ (a.chipAborted n c).jobs = a.jobs := by
  simp [Aggregator.chipAborted, Aggregator.recordLimited, Aggregator.deleteQueues, Aggregator.post_tc, Aggregator.post_jobs,
    Aggregator.abortCommands_tc, Aggregator.abortCommands_jobs h]

/-- The PCIe entry is gone: no command, no queue, no channel. -/
def Aggregator.pcieGone (a : Aggregator) : Aggregator :=
  ((a.abortCommands (fun d => !d.mgmt) false).deleteQueues).modHif fun h => { h with queues := [], cqs := [], dma := [] }

theorem Aggregator.pcieGone_fields (h : a.NoArm) : a.pcieGone.hif.queues = [] ∧ a.pcieGone.hif.cqs = [] ∧ a.pcieGone.hif.dma = []
    ∧ (∀ d ∈ a.pcieGone.hif.commands, d.mgmt = true) ∧ a.pcieGone.jobs = a.jobs ∧ a.pcieGone.mem = a.mem := by
  unfold Aggregator.pcieGone
  rw [Aggregator.abortCommands_noArm h]
  dsimp only
  rw [if_neg Bool.false_ne_true]
  have hframes := FramesOnly.dropFrames a fun n _ => ((a.hif.commands.filter fun d => !d.mgmt).map (·.serial)).contains n
  generalize a.dropFrames (fun n _ => ((a.hif.commands.filter fun d => !d.mgmt).map (·.serial)).contains n) = b at hframes ⊢
  obtain ⟨-, hjobs, hmem, -⟩ := hframes.fields
  refine ⟨rfl, rfl, rfl, fun d hd => ?_, hjobs, hmem⟩
  simpa using (List.mem_filter.1 (show d ∈ b.hif.commands.filter (fun c => !!c.mgmt) from hd)).2

/-- The registers of the admin queues and of the DMA channels are reset. -/
def RegFile.pcieReset (r : RegFile) : RegFile :=
  (((r.setWord addr_HI_ADMIN (resetWord .agg addr_HI_ADMIN)).setWord addr_HI_ASQ_BASE 0).setWord addr_HI_ACQ_BASE 0).resetPage 0x1A

theorem Aggregator.adminReset (b : Aggregator) :
    (let x := ((b.setWord addr_HI_ADMIN (resetWord .agg addr_HI_ADMIN)).setWord addr_HI_ASQ_BASE 0).setWord addr_HI_ACQ_BASE 0
     ({ x with regs := x.regs.resetPage 0x1A } : Aggregator)) = { b with regs := b.regs.pcieReset } := rfl

theorem Aggregator.pcieReset_eq (a : Aggregator) : a.pcieReset
    = ({ a.pcieGone with regs := a.pcieGone.regs.pcieReset }.raise HI_STATUS_RESET_LOST).record rcReset (leBytes 1 0x05 ++ zeros 1 ++ leBytes 2 0) := by
  unfold Aggregator.pcieReset
  exact congrArg (fun b : Aggregator => (b.raise HI_STATUS_RESET_LOST).record rcReset (leBytes 1 0x05 ++ zeros 1 ++ leBytes 2 0))
    (Aggregator.adminReset a.pcieGone)

theorem storeGet_filter {α : Type} (d : α) {p : Nat × α → Bool} {k : Nat} (hp : ∀ v, p (k, v) = true) (m : Store α) :
    storeGet d (m.filter p) k = storeGet d m k := by
  induction m with
  | nil => rfl
  | cons e m ih =>
    obtain ⟨k', v⟩ := e
    rw [List.filter_cons]
    by_cases hk : k' = k
    · subst hk
      rw [if_pos (hp v), storeGet, storeGet, if_pos rfl, if_pos rfl]
    · rw [storeGet, if_neg hk, ← ih]
      split
      · rw [storeGet, if_neg hk]
      · rfl

theorem RegFile.resetPage_other (r : RegFile) {page k : Nat} (hk : pageOf k ≠ page) : (r.resetPage page).word k = r.word k :=
  storeGet_filter _ (fun v => by simp [hk]) _

theorem RegFile.pcieReset_base (r : RegFile) : r.pcieReset.word addr_HI_ASQ_BASE = 0 := by
  rw [RegFile.pcieReset, RegFile.resetPage_other _ (by decide), RegFile.word_setWord, if_neg (by decide), RegFile.word_setWord, if_pos rfl]

theorem Aggregator.pcieReset_fields (h : a.NoArm) : a.pcieReset.hif.queues = [] ∧ a.pcieReset.hif.cqs = [] ∧ a.pcieReset.hif.dma = []
    ∧ (∀ d ∈ a.pcieReset.hif.commands, d.mgmt = true) ∧ a.pcieReset.get HI_ASQ_BASE_BASE = 0 ∧ a.pcieReset.on HI_STATUS_RESET_LOST = true
    ∧ a.pcieReset.jobs = a.jobs ∧ a.pcieReset.mem = a.mem := by
  obtain ⟨hqueues, hcqs, hdma, hcommands, hjobs, hmem⟩ := Aggregator.pcieGone_fields h
  rw [Aggregator.pcieReset_eq]
  generalize a.pcieGone = b at *
  have hword : ∀ k, k / 4096 ≠ 0x3 →
      (({ b with regs := b.regs.pcieReset }.raise HI_STATUS_RESET_LOST).record rcReset (leBytes 1 0x05 ++ zeros 1 ++ leBytes 2 0)).word k
        = ({ b with regs := b.regs.pcieReset }.raise HI_STATUS_RESET_LOST).word k := fun k hk =>
    Aggregator.withRec_word _ (RecView.Within.record _ _ _) hk
  have hbase : (({ b with regs := b.regs.pcieReset }.raise HI_STATUS_RESET_LOST).record rcReset
      (leBytes 1 0x05 ++ zeros 1 ++ leBytes 2 0)).word addr_HI_ASQ_BASE = 0 :=
    (hword _ (by decide)).trans ((Aggregator.word_raise_other _ (by decide) (by decide)).trans b.regs.pcieReset_base)
  have hlost : ({ b with regs := b.regs.pcieReset }.raise HI_STATUS_RESET_LOST).on HI_STATUS_RESET_LOST = true :=
    RegFile.on_raise_same b.regs.pcieReset (f := HI_STATUS_RESET_LOST) rfl (by decide) (by decide)
  have hget := RegFile.get_congr (f := HI_ASQ_BASE_BASE) (t := (RegFile.reset .agg).setWord addr_HI_ASQ_BASE 0)
    (hbase.trans (by rw [RegFile.word_setWord, if_pos rfl]))
  refine ⟨?_, ?_, ?_, ?_, hget.trans (by decide), (RegFile.on_congr (f := HI_STATUS_RESET_LOST) (hword _ (by decide))).trans hlost, ?_, ?_⟩
  all_goals simpa [Aggregator.record]

end Resets

/-! ### The statement -/

/-- Settles O51: doorbells, fetching, accepting and completing are one case analysis each; the resets of an entry leave the jobs, where no Arm Job
is outstanding. -/
theorem queuesAcceptCompleteAndReset : Obligations.QueuesAcceptCompleteAndReset := by
  unfold Obligations.QueuesAcceptCompleteAndReset
  intro s q v n head slot t x y c priv all entry a c0 b noArm hserved
  have hoob : s.agg.oobServed = true := Aggregator.oobServed_of_served hserved
  have up {i : Instr} (f : Aggregator → Aggregator) {e : Aggregator} (harm : exec i s = s.onUp f) (hop : f a = e) : exec i s = nextAgg s e :=
    exec_up hserved harm hop
  have oob {i : Instr} (f : Aggregator → Aggregator) {e : Aggregator} (harm : exec i s = s.onOob f) (hop : f a = e) : exec i s = nextAgg s e := by
    rw [harm, State.onOob_served s f hoob]
    exact congrArg (nextAgg s) hop
  have mayGive (hpriv : opPrivileged c0.op = false ∨ priv = true) : ¬ (opPrivileged c0.op = true ∧ ¬ priv = true) := fun ⟨hp, hn⟩ =>
    hpriv.elim (fun h => Bool.false_ne_true (h.symm.trans hp)) hn
  refine ⟨?noPair, ?disabled, ?moves, ?outside, ?noCq, ?headMoves, ?unused, ?fetchHeld, ?fetchEmpty, ?fetchAdmin, ?admin, ?opcode, ?privilege,
    ?field, ?accepted, ?posted, ?noCommand, ?budgetHeld, ?budget, ?flush, ?interface, ?notChip, ?chip, ?idle, ?proceeds, ?ready, ?timeout, ?flr,
    ?pcie⟩
  case noPair => exact fun h => up (·.sqDoorbell q v) rfl (Aggregator.sqDoorbell_none h)
  case disabled => exact fun h hx => up (·.sqDoorbell q v) rfl (Aggregator.sqDoorbell_disabled h hx)
  case moves => exact fun h hx hv hdist => up (·.sqDoorbell q v) rfl (Aggregator.sqDoorbell_moves h hx hv hdist)
  case outside => exact fun h hx hv => up (·.sqDoorbell q v) rfl (Aggregator.sqDoorbell_outside h hx hv)
  case noCq => exact fun h => up (·.cqDoorbell q v) rfl (Aggregator.cqDoorbell_none h)
  case headMoves => exact fun h hv hdist => up (·.cqDoorbell q v) rfl (Aggregator.cqDoorbell_moves h hv hdist)
  case unused => exact fun h hv hoff => up (·.cqDoorbell q v) rfl (Aggregator.cqDoorbell_unused h hv hoff)
  case fetchHeld => exact fun h => oob (·.commandFetch) rfl (Aggregator.commandFetch_held h)
  case fetchEmpty => exact fun hboot h => oob (·.commandFetch) rfl (Aggregator.commandFetch_empty hboot h)
  case fetchAdmin =>
    exact fun hhold hreset hboot h hx => oob (·.commandFetch) rfl (Aggregator.commandFetch_admin hhold hreset hboot h hx)
  case admin => exact Aggregator.nextQueue_admin
  case opcode =>
    intro h hop
    rw [Aggregator.accept_alone h]
    exact if_pos fun h => hop (List.contains_iff_mem.1 h)
  case privilege =>
    intro h hop hpriv
    rw [Aggregator.accept_alone h]
    exact (if_neg (not_not.2 (opPrivileged_known hop))).trans (if_pos ⟨hop, by simp [hpriv]⟩)
  case field =>
    intro h hop hpriv hbad
    rw [Aggregator.accept_alone h]
    exact (if_neg (not_not.2 (List.contains_iff_mem.2 hop))).trans ((if_neg (mayGive hpriv)).trans
      (if_pos (hbad.imp (fun h => ne_true_of_eq_false h) fun h => ne_true_of_eq_false h)))
  case accepted =>
    intro h hop hpriv hsub hreserved hboot
    rw [Aggregator.accept_alone h]
    have hgood : ¬ (¬ subopOk c0.op c0.subop = true ∨ ¬ c0.reservedOk = true) := by
      rw [hsub, hreserved]
      decide
    refine congrArg (fun e : Aggregator => e.hif.commands) ((if_neg (not_not.2 (List.contains_iff_mem.2 hop))).trans ((if_neg (mayGive hpriv)).trans
      ((if_neg hgood).trans (if_neg fun ⟨hrec, _⟩ => Bool.false_ne_true (hboot.symm.trans hrec))))) |>.trans ?_
    show a.hif.commands ++ [c0] = [c0]
    rw [h, List.nil_append]
  case posted =>
    exact fun st r m hmgmt hx hy => ⟨_, rfl, Aggregator.post_ring hmgmt hx hy⟩
  case noCommand =>
    intro h
    obtain ⟨hbudget, hflush, hinterface, hchip⟩ := Aggregator.command_absent h
    exact ⟨oob (·.budgetExpiry n) rfl hbudget, up (·.flushComplete n) rfl hflush, up (·.resetInterface n) rfl hinterface,
      up (·.resetChip n) rfl hchip⟩
  case budgetHeld => exact fun h hheld => oob (·.budgetExpiry n) rfl (Aggregator.budgetExpiry_held h hheld)
  case budget => exact fun h hop hwait hdue => oob (·.budgetExpiry n) rfl (Aggregator.budgetExpiry_queued h hop hwait hdue)
  case flush => exact fun h hwait hfirst => up (·.flushComplete n) rfl (Aggregator.flushComplete_first h hwait hfirst)
  case interface => exact fun h hop hsub hmgmt => up (·.resetInterface n) rfl (Aggregator.resetInterface_mgmt h hop hsub hmgmt)
  case notChip => exact fun h hop => up (·.resetChip n) rfl (Aggregator.resetChip_other h hop)
  case chip =>
    exact fun h hop hsub hno => ⟨a.chipAborted n c, up (·.resetChip n) rfl (Aggregator.resetChip_announces h hop hsub),
      Aggregator.chipAborted_fields hno n c⟩
  case idle =>
    intro h
    obtain ⟨hproceed, hready, htimeout⟩ := Aggregator.fw_idle h
    exact ⟨oob (·.fwProceed) rfl hproceed, oob (·.fwReady) rfl hready, oob (·.fwTimeout) rfl htimeout⟩
  case proceeds => exact fun h hfirst hpaused => oob (·.fwProceed) rfl (Aggregator.fwProceed_first h hfirst hpaused)
  case ready =>
    intro k h hstart hearly
    obtain ⟨hready, htimeout⟩ := Aggregator.fwReady_started h hstart
    exact ⟨oob (·.fwReady) rfl (hready.trans (if_neg (Nat.not_le.2 hearly))), oob (·.fwTimeout) rfl (htimeout.trans (if_neg (Nat.not_le.2 hearly)))⟩
  case timeout =>
    intro k h hstart hdue
    obtain ⟨hready, htimeout⟩ := Aggregator.fwReady_started h hstart
    exact ⟨oob (·.fwReady) rfl (hready.trans (if_pos hdue)), oob (·.fwTimeout) rfl (htimeout.trans (if_pos hdue))⟩
  case flr => rfl
  case pcie => exact fun hno => ⟨a.pcieReset, rfl, Aggregator.pcieReset_fields hno⟩

end Sys2Proof.Machine
end HostQueues

section HostCommandStarts
/-!
PROOFS. A host command that starts: what may hold it, its data buffer, and how it ends or waits (R439, R442, Table 15-7).
-/
namespace Sys2Proof.Machine

/-- An event of the hardware starts the command `n`, of the kinds that `want` tells, with `act` as its own effect on the command `c`. -/
def StartsWith (s : State) (i : Instr) (n : Nat) (ok : Bool) (c : Command) (want : Command → Bool) (act : List Byte → CmdRes × Aggregator) :
    Prop :=
  ∃ f, exec i s = nextAgg s (s.agg.startCmd n ok want f) ∧ ∀ data, want c = true → f s.agg c data = act data

/-- The data that a command brings, of a buffer with the parts `l`. -/
def Aggregator.broughtData (a : Aggregator) (c : Command) (l : List (Nat × Nat)) : List Byte :=
  if c.dataIn = false then [] else if c.mgmt = true then c.mdata else readSegs a.host l

/-- A command stands accepted, nothing is before it, its buffer is `l`, and the host answers where it has to. -/
def Aggregator.Startable (a : Aggregator) (n : Nat) (ok : Bool) (c : Command) (l : List (Nat × Nat)) : Prop :=
  a.command n = some c ∧ a.mayStart c = true ∧ a.buffer c = some l ∧ (c.mgmt = true ∨ c.dlen = 0 ∨ ok = true)

theorem startsWith_up {s : State} {i : Instr} {n : Nat} {ok : Bool} {c : Command} {want : Command → Bool}
    {act : List Byte → CmdRes × Aggregator} {f : Aggregator → Command → List Byte → CmdRes × Aggregator} (hserved : s.agg.served = true)
    (harm : exec i s = s.onUp (·.startCmd n ok want f)) (hf : ∀ data, want c = true → f s.agg c data = act data) :
    StartsWith s i n ok c want act :=
  ⟨f, exec_up (f := (·.startCmd n ok want f)) hserved harm rfl, hf⟩

theorem startsWith_oob {s : State} {i : Instr} {n : Nat} {ok : Bool} {c : Command} {want : Command → Bool}
    {act : List Byte → CmdRes × Aggregator} {f : Aggregator → Command → List Byte → CmdRes × Aggregator} (hserved : s.agg.served = true)
    (harm : exec i s = s.onOob (·.startCmd n ok want f)) (hf : ∀ data, want c = true → f s.agg c data = act data) :
    StartsWith s i n ok c want act :=
  have hoob : s.agg.oobServed = true := by simp [Aggregator.oobServed, hserved]
  ⟨f, harm.trans (State.onOob_served s (·.startCmd n ok want f) hoob), hf⟩

/-- A Set Feature of a job context starts like any other; it is refused where the context is not of this aggregator. -/
theorem startsWith_jobFeature {s : State} {i : Instr} {n : Nat} {ok : Bool} {c : Command} {sub : Nat} {act : List Byte → CmdRes × Aggregator}
    {f : Aggregator → Command → Nat → JobCtx → List Byte → CmdRes × Aggregator} (hserved : s.agg.served = true)
    (harm : exec i s = s.onUp (·.cmdJobFeature n ok sub f))
    (hact : act = fun data => match s.agg.ownJob c.job c.gen with
      | some (ctx, j) => f s.agg c ctx j data
      | none => (.fail csNotArmed, s.agg)) : StartsWith s i n ok c (isSub opSetFeature sub) act :=
  ⟨fun a c data => match a.ownJob c.job c.gen with
    | some (ctx, j) => f a c ctx j data
    | none => (.fail csNotArmed, a), exec_up (f := (·.cmdJobFeature n ok sub f)) hserved harm rfl, fun _ _ => (congrFun hact _).symm⟩

/-- A firmware command starts like any other while flash writes are not stopped (R488). -/
theorem startsWith_firmware {s : State} {i : Instr} {n : Nat} {ok : Bool} {c : Command} {sub : Nat}
    {act : List Byte → CmdRes × Aggregator} {f : Aggregator → Nat → CmdRes × Aggregator} (hserved : s.agg.served = true)
    (hwrites : s.agg.on PWR_SAG_WRITES_STOPPED = false) (harm : exec i s = s.onOob (·.cmdFw n ok sub f))
    (hact : act = fun _ => if 1 < le c.args 0 1 then (.fail csInvalidField, s.agg) else f s.agg (le c.args 0 1)) :
    StartsWith s i n ok c (isSub opFwCommit sub) act := by
  have hoob : s.agg.oobServed = true := by simp [Aggregator.oobServed, hserved]
  have hfw : s.agg.cmdFw n ok sub f = s.agg.startCmd n ok (isSub opFwCommit sub) fun a c _ =>
      if 1 < le c.args 0 1 then (.fail csInvalidField, a) else f a (le c.args 0 1) := by
    unfold Aggregator.cmdFw
    rw [if_neg (by simp [hwrites])]
  exact ⟨_, (harm.trans (State.onOob_served s (·.cmdFw n ok sub f) hoob)).trans (congrArg (nextAgg s) hfw),
    fun _ _ => (congrFun hact _).symm⟩

section
variable {s : State} {i : Instr} {n : Nat} {ok : Bool} {c : Command} {want : Command → Bool} {act : List Byte → CmdRes × Aggregator}
  {l : List (Nat × Nat)}

theorem StartsWith.absent (h : StartsWith s i n ok c want act) (hc : s.agg.command n = none) : exec i s = nextAgg s s.agg := by
  obtain ⟨f, hexec, -⟩ := h
  rw [hexec, Aggregator.startCmd, hc]

theorem StartsWith.held (h : StartsWith s i n ok c want act) (hc : s.agg.command n = some c)
    (hheld : want c = false ∨ s.agg.mayStart c = false) : exec i s = nextAgg s s.agg := by
  obtain ⟨f, hexec, -⟩ := h
  rw [hexec, Aggregator.startCmd, hc]
  exact congrArg (nextAgg s) (if_pos (by simpa using hheld))

/-- What a command does that may start. -/
theorem Aggregator.startCmd_starts {a : Aggregator} {f : Aggregator → Command → List Byte → CmdRes × Aggregator} (hc : a.command n = some c)
    (hwant : want c = true) (hmay : a.mayStart c = true) :
    a.startCmd n ok want f = match a.buffer c with
      | none => a.post c csInvalidField 0 0
      | some segs =>
        if ¬ c.mgmt ∧ c.dlen ≠ 0 ∧ ¬ ok then (a.raise HI_STATUS_DATA_ERR).post c csDataError 0 0
        else match f a c (if ¬ c.dataIn then [] else if c.mgmt then c.mdata else readSegs a.host segs) with
          | (.done st r out, a1) => a1.finish c st r out
          | (.wait w, a1) => a1.setWait n w := by
  unfold Aggregator.startCmd
  simp only [hc]
  exact if_neg (by simp [hwant, hmay])

theorem StartsWith.noBuffer (h : StartsWith s i n ok c want act) (hc : s.agg.command n = some c) (hwant : want c = true)
    (hmay : s.agg.mayStart c = true) (hbuf : s.agg.buffer c = none) : exec i s = nextAgg s (s.agg.post c csInvalidField 0 0) := by
  obtain ⟨f, hexec, -⟩ := h
  rw [hexec, Aggregator.startCmd_starts hc hwant hmay, hbuf]

theorem StartsWith.dataError (h : StartsWith s i n ok c want act) (hc : s.agg.command n = some c) (hwant : want c = true)
    (hmay : s.agg.mayStart c = true) (hbuf : s.agg.buffer c = some l) (hpcie : c.mgmt = false) (hlen : c.dlen ≠ 0) (hok : ok = false) :
    exec i s = nextAgg s ((s.agg.raise HI_STATUS_DATA_ERR).post c csDataError 0 0) := by
  obtain ⟨f, hexec, -⟩ := h
  rw [hexec, Aggregator.startCmd_starts hc hwant hmay, hbuf]
  exact congrArg (nextAgg s) (if_pos (by simp [hpcie, hlen, hok]))

/-- The effect of a command that starts with its data is its own. -/
theorem StartsWith.acts (h : StartsWith s i n ok c want act) (hgo : s.agg.Startable n ok c l) (hwant : want c = true) :
    exec i s = nextAgg s (match act (s.agg.broughtData c l) with
      | (.done st r out, e) => e.finish c st r out
      | (.wait w, e) => e.setWait n w) := by
  obtain ⟨hc, hmay, hbuf, hanswers⟩ := hgo
  obtain ⟨f, hexec, hf⟩ := h
  rw [hexec, Aggregator.startCmd_starts hc hwant hmay, hbuf, ← hf _ hwant]
  dsimp only
  rw [if_neg (by rintro ⟨hm, hl, ho⟩; simp_all)]
  simp only [Aggregator.broughtData, Bool.not_eq_true]

theorem StartsWith.ends (h : StartsWith s i n ok c want act) (hgo : s.agg.Startable n ok c l) (hwant : want c = true) {st r : Nat}
    {out : List Byte} {e : Aggregator} (hact : act (s.agg.broughtData c l) = (.done st r out, e)) :
    exec i s = nextAgg s (e.finish c st r out) := by
  rw [h.acts hgo hwant, hact]

theorem StartsWith.waits (h : StartsWith s i n ok c want act) (hgo : s.agg.Startable n ok c l) (hwant : want c = true) {w : CmdWait}
    {e : Aggregator} (hact : act (s.agg.broughtData c l) = (.wait w, e)) : exec i s = nextAgg s (e.setWait n w) := by
  rw [h.acts hgo hwant, hact]

end

theorem isOp_of {c : Command} {op : Nat} (h : c.op = op) : isOp op c = true := decide_eq_true h
theorem isSub_of {c : Command} {op k : Nat} (hop : c.op = op) (hsub : c.subop = k) : isSub op k c = true := decide_eq_true ⟨hop, hsub⟩

end Sys2Proof.Machine
end HostCommandStarts

section HostCommandEffects
/-!
PROOFS. The own effects of the host commands (R325, R347, R373 to R392, R409, R431, R449, Tables 13-9, 15-10).
-/
namespace Sys2Proof.Machine

theorem outData_fits {dlen : Nat} {l : List Byte} (h : l.length ≤ dlen) : outData dlen l = .done csSuccess 0 l := if_neg (Nat.not_lt.2 h)

section
variable {a : Aggregator} {c : Command} {ctx slot bind cores k n : Nat} {j : JobCtx} {inst : Instance} {m : DetImage} {g data : List Byte}

/-! ### Detector images and instances -/

theorem Aggregator.detImageFree_bound (hslot : slot < 64) (himg : (a.image slot).isSome = true) (hbound : ∃ e ∈ a.det.instances, e.2.slot = slot) :
    a.detImageFree slot = (.fail csRefused, a) := by
  unfold Aggregator.detImageFree
  rw [if_neg (by simp [Nat.not_le.2 hslot, Option.isSome_iff_ne_none.1 himg]), if_pos (by simpa using hbound)]

theorem Aggregator.detImageFree_unbound (hslot : slot < 64) (himg : (a.image slot).isSome = true)
    (hfree : ∀ e ∈ a.det.instances, e.2.slot ≠ slot) :
    a.detImageFree slot = (.ok, a.modDet fun x => { x with images := tabDel x.images slot }) := by
  unfold Aggregator.detImageFree
  rw [if_neg (by simp [Nat.not_le.2 hslot, Option.isSome_iff_ne_none.1 himg]), if_neg (by simpa using hfree)]

theorem Aggregator.detImageLoad_loaded {addr : Nat} {i : DetImage} (hat : a.imageAt addr = some i) (hst : a.imageStatus i = (ilLoaded, k)) :
    a.detImageLoad addr = (.done csSuccess (k * 65536) [],
      (a.modDet fun x => { x with images := tabPut x.images k i, lastLoad := tabPut x.lastLoad k ilLoaded }).mirrorImage i) := by
  unfold Aggregator.detImageLoad
  simp only [hat, hst, if_true, Nat.zero_add]

theorem Aggregator.detBind_planned (hown : a.ownJob c.job c.gen = some (ctx, j)) (hstate : j.state ≠ .quarantine) (himg : a.image slot = some m)
    (hcores : cores ≠ 0) (hbind : bind ≤ 3) (hpresent : ∀ x < 64, bit cores x = true → a.corePresent x = true)
    (hnew : ∀ e ∈ a.det.instances, e.2.ctx = ctx → e.2.bind ≠ bind) (hplan : a.bindPlan ctx slot bind cores m = some (k, inst)) :
    a.detBind c.job c.gen slot bind cores = (.ok, (a.installInst k inst m).mirrorJob ctx) := by
  have hold : (a.det.instances.find? fun e => decide (e.2.ctx = ctx ∧ e.2.bind = bind) && e.2.suspended) = none :=
    List.find?_eq_none.2 fun e he => by simpa using fun hc hb => absurd hb (hnew e he hc)
  have hall : ¬ ((List.range 64).any fun c => bit cores c && !a.corePresent c) = true := by
    simpa using hpresent
  unfold Aggregator.detBind
  simp only [hown, himg, hold, hplan]
  rw [if_neg hstate, if_neg (by simp [hcores, Nat.not_lt.2 hbind]), if_neg hall]

theorem Aggregator.detUnbind_found (hown : a.ownJob c.job c.gen = some (ctx, j))
    (hinst : a.det.instances.find? (fun e => decide (e.2.ctx = ctx ∧ e.2.bind = bind)) = some (k, inst)) :
    a.detUnbind c.job c.gen bind = (.ok, (if a.runningOf k then a.modInst k fun x => { x with stopping := true }
      else (a.modInst k fun x => { x with stopping := true }).removeInst k).mirrorJob ctx) := by
  unfold Aggregator.detUnbind
  simp only [hown, hinst]
  rfl

/-! ### Queue pairs and cancelled commands -/

theorem Aggregator.queueCreate_new {g : List Byte} (hqid : 0 < le g 0 1) (hbelow : le g 0 1 < 64) (hcq : le g 3 1 < 64) (hsqLo : 4 ≤ le g 1 1)
    (hsqHi : le g 1 1 ≤ 12) (hcqLo : 4 ≤ le g 2 1) (hcqHi : le g 2 1 ≤ 12) (hpriv : le g 4 1 ≤ 1) (hvec : 0 < le g 5 1) (hvecHi : le g 5 1 < 64)
    (hres : le g 6 2 = 0) (hsqBase : le g 8 8 % 4096 = 0) (hcqBase : le g 16 8 % 4096 = 0) (hnew : a.queuePair (le g 0 1) = none)
    (hnoCq : a.cq (le g 3 1) = none) :
    a.queueCreate g = (.ok, (a.setCq (le g 3 1) ⟨le g 2 1, le g 16 8, 0, 0, true⟩).setQueue (le g 0 1)
      ⟨le g 1 1, le g 2 1, le g 3 1, decide (le g 4 1 = 1), le g 5 1, le g 8 8, le g 16 8, 0, 0, false⟩) := by
  unfold Aggregator.queueCreate
  dsimp only
  rw [if_neg ?fields, if_neg (by simp [hnew])]
  case fields =>
    simp only [hnoCq, hres, hsqBase, hcqBase]
    simp
    omega
  simp only [hnoCq]

theorem Aggregator.queueDelete_idle {q : QueuePair} (hqid : 0 < le g 0 1) (hbelow : le g 0 1 < 64) (hpair : a.queuePair (le g 0 1) = some q)
    (hidle : ∀ d ∈ a.hif.commands, d.qid ≠ le g 0 1) :
    ∃ e, a.queueDelete g = (.ok, e) ∧ e.hif.queues = tabDel a.hif.queues (le g 0 1) ∧ (∀ k, k ≠ q.cqid → tabGet e.hif.cqs k = tabGet a.hif.cqs k)
      ∧ e.mem = a.mem ∧ e.jobs = a.jobs := by
  unfold Aggregator.queueDelete
  simp only [hpair]
  rw [if_neg (by omega), if_neg (by simpa using hidle)]
  refine ⟨_, rfl, ?_⟩
  split
  · simp
  · simpa using fun k hk => by rw [tabGet_del, if_neg hk]

theorem Aggregator.cancelTag_none (hside : le g 0 1 ≤ 1) (hres : le g 1 1 = 0) (htag : le g 2 2 = 0) : a.cancelTag n g = (.ok, a) := by
  unfold Aggregator.cancelTag
  dsimp only
  rw [if_neg (by omega), if_pos htag]

theorem Aggregator.cancelTag_one {d : Command} (hside : le g 0 1 ≤ 1) (hres : le g 1 1 = 0) (htag : le g 2 2 ≠ 0)
    (hhit : a.hif.commands.filter (fun x => decide (x.side = le g 0 1 ∧ x.gtag = le g 2 2 ∧ x.serial ≠ n ∧ x.op ≠ opFlush ∧ x.wait ≠ .dead)) = [d])
    (hwait : d.wait = .queued) :
    a.cancelTag n g = (.ok, (a.dropFrames fun x y => decide (x % 2 = le g 0 1 ∧ y = le g 2 2)).endEarly csCancelled d) := by
  unfold Aggregator.cancelTag
  simp only [hhit]
  rw [if_neg (by omega), if_neg htag, List.foldl_cons, List.foldl_nil, hwait]

/-! ### Firmware, broadcasts, the ledger and scans -/

/-- A commit goes by whether the staged image verifies. -/
theorem Aggregator.fwCommit_match (f : Aggregator → CmdRes × Aggregator) (slot : Nat) :
    (match a.fwCommit slot with
      | (true, a1) => f a1
      | (false, a1) => (.fail csFwInvalid, a1))
      = if Config.fwImageOk a.hif.fwStaging then f (a.fwCommit slot).2 else (.fail csFwInvalid, a) := by
  unfold Aggregator.fwCommit
  by_cases hok : Config.fwImageOk a.hif.fwStaging = true
  · simp only [hok, if_true]
  · simp only [hok]
    rfl

theorem Aggregator.broadcastIssue_issued (hlo : 1 ≤ le g 0 1) (hhi : le g 0 1 ≤ 6) (hlen : data.length ≤ 262144) (hlevel : j.tree.level = 0)
    (harmed : j.state = .armed) (hpeal : le g 0 1 ≠ 2 ∨ j.pMin ≤ be data 10 8) :
    a.broadcastIssue ctx j g data = (.wait (.roll ctx (a.issueBcast ctx (le g 0 1) data).1), (a.issueBcast ctx (le g 0 1) data).2) := by
  unfold Aggregator.broadcastIssue
  dsimp only
  rw [if_neg (by unfold bcMax; omega), if_neg (by simp [hlevel, harmed]), if_neg (by unfold bcPealSchedule; omega)]

theorem Aggregator.broadcastIssue_tooEarly (hkind : le g 0 1 = 2) (hlen : data.length ≤ 262144) (hlevel : j.tree.level = 0)
    (harmed : j.state = .armed) (hpeal : be data 10 8 < j.pMin) : a.broadcastIssue ctx j g data = (.done csRefused 1 [], a) := by
  unfold Aggregator.broadcastIssue
  dsimp only
  rw [if_neg (by unfold bcMax; omega), if_neg (by simp [hlevel, harmed]), if_pos ⟨hkind, hpeal⟩]

theorem Aggregator.spillFeature_sealed {u : Ledger} (hled : a.ledger c.job c.gen (a.ledgerHome c.job c.gen) = some u)
    (hsealed : u.isSealed (le c.args 0 6) = true) : a.spillFeature c = (.ok, a.spillNow c.job c.gen u.home (le c.args 0 6)) := by
  unfold Aggregator.spillFeature
  simp only [hled]
  exact if_pos hsealed

theorem Aggregator.ledgerImport_asks {o : ObjName} (ho : o = ⟨le g 0 2, le g 16 4, le g 20 1, le g 2 6, le g 8 2⟩) (hres : le g 10 6 = 0)
    (hagg : o.agg < 4096) : a.ledgerImport g = (.wait (.fetch [o] [] [] a.mono), a.askObjects [o]) := by
  subst ho
  unfold Aggregator.ledgerImport
  exact if_neg (by simp [hres, Nat.not_le.2 hagg])

theorem Aggregator.ledgerReference_writes (hkind : bits (le g 0 8) 53 52 < 2) (hres0 : bits (le g 0 8) 62 54 = 0) (hres1 : bits (le g 8 8) 63 48 = 0) :
    a.ledgerReference ctx g = (.ok, ((a.setWord (addr_LJ_REF0 ctx) (BitVec.ofNat 64 (le g 0 8))).setWord (addr_LJ_REF1 ctx)
      (BitVec.ofNat 64 (le g 8 8))).mirrorJob ctx) := by
  unfold Aggregator.ledgerReference
  exact if_neg (by omega)

theorem Aggregator.scanFeature_present (hbelow : le g 0 1 < 64) (hcore : a.corePresent (le g 0 1) = true) :
    a.scanFeature g = (.ok, a.requestScan (le g 0 1)) := by
  unfold Aggregator.scanFeature
  dsimp only
  rw [if_neg (Nat.not_le.2 hbelow), if_neg (by simp [hcore])]

/-! ### Read Ledger -/

theorem fitItems_length (room : Nat) (l : List (List Byte)) : (fitItems room l).flatten.length ≤ room := by
  induction l generalizing room with
  | nil => simp [fitItems]
  | cons x l ih =>
    unfold fitItems
    split
    case isTrue h =>
      have hrest := ih (room - x.length)
      simp only [List.flatten_cons, List.length_append]
      omega
    case isFalse => simp

theorem takeHeld_nil (k room : Nat) : takeHeld k room [] = [] := by cases k <;> rfl

theorem takeHeld_one {room : Nat} {x : Nat × HeldParcel} (hfits : x.2.len ≤ room) (k : Nat) : takeHeld (if k = 0 then 1 else k) room [x] = [x] := by
  obtain ⟨m, hm⟩ : ∃ m, (if k = 0 then 1 else k) = m + 1 := Nat.exists_eq_succ_of_ne_zero (by split <;> omega)
  rw [hm, takeHeld, if_pos hfits, takeHeld_nil]

theorem length_leBytes (n v : Nat) : (leBytes n v).length = n := by
  induction n generalizing v with
  | zero => rfl
  | succ n ih => simp [leBytes, ih]

theorem QRes.data_fits (q : QRes) (kind : Nat) {dlen : Nat} (h p : Nat) (hfits : 48 + (q.items.headD []).length ≤ dlen) :
    ∃ out, q.data kind dlen h p = .done csSuccess 0 out ∧ out.length ≤ dlen := by
  have hfirst : ¬ dlen < 48 + (match q.items with | [] => 0 | x :: _ => x.length) := by
    cases hitems : q.items with
    | nil => simpa [hitems] using hfits
    | cons x l => simpa [hitems] using hfits
  have hroom := fitItems_length (dlen - 48) q.items
  unfold QRes.data
  dsimp only
  refine ⟨_, if_neg hfirst, ?_⟩
  simp only [List.length_append, length_leBytes, zeros, List.length_replicate]
  omega

theorem Aggregator.readLedger_held {kind dlen : Nat} {u : Ledger} (hargs : queryArgsOk kind g = true) (hfew : a.fetching ≤ 16)
    (hled : a.ledger c.job c.gen (a.ledgerHome c.job c.gen) = some u) (hneeds : a.queryNeeds kind c.job c.gen g = []) :
    a.readLedger kind c.job c.gen dlen g data = (a.answerQuery kind c.job c.gen dlen g data [] u.counts false, a) := by
  unfold Aggregator.readLedger
  simp only [hled, hneeds]
  rw [if_neg (by simp [hargs]), if_neg (Nat.not_lt.2 hfew)]

/-- A query whose ledger is here is answered from its kind's result, with the append counts at the cut. -/
theorem Aggregator.answerQuery_ledger {kind dlen : Nat} {u : Ledger} (hled : a.ledger c.job c.gen (a.ledgerHome c.job c.gen) = some u) :
    a.answerQuery kind c.job c.gen dlen g data [] u.counts false = (match kind with
      | 1 => u.queryRecords (atCut u.counts u.recs []) g false
      | 2 => u.querySummary (atCut u.counts u.recs []) g false
      | 3 => u.queryEpochs (atCut u.counts u.recs []) g false
      | 4 => u.queryVerdicts (atCut u.counts u.recs []) g false
      | 5 => a.queryCompare g data []
      | 7 => u.queryManifest (atCut u.counts u.recs []) g false
      | _ => match a.findJob c.job c.gen with
        | some (_, j) => j.queryLastClean
        | none => QRes.none qsNotFound).data kind dlen (a.cuts u u.counts).1 (a.cuts u u.counts).2 := by
  unfold Aggregator.answerQuery
  simp only [hled]
  rfl

theorem Aggregator.readLedger_fetches {kind dlen : Nat} {u : Ledger} (hargs : queryArgsOk kind g = true) (hfew : a.fetching ≤ 16)
    (hled : a.ledger c.job c.gen (a.ledgerHome c.job c.gen) = some u) (hneeds : a.queryNeeds kind c.job c.gen g ≠ []) :
    a.readLedger kind c.job c.gen dlen g data = (.wait (.fetch (a.queryNeeds kind c.job c.gen g) u.recs u.counts a.mono),
      a.askObjects (a.queryNeeds kind c.job c.gen g)) := by
  unfold Aggregator.readLedger
  simp only [hled]
  rw [if_neg (by simp [hargs]), if_neg (Nat.not_lt.2 hfew)]

end

end Sys2Proof.Machine
end HostCommandEffects

section JobsThatStand
/-!
PROOFS. What control frames, ledger records and the mirror leave of jobs, memory and ledgers (R261, R363 to R366, R377).
-/
namespace Sys2Proof.Machine

/-- The job context of a ledger. -/
def Ledger.name (l : Ledger) : Nat × Nat × Nat := (l.job, l.gen, l.home)

/-- From one aggregator to the next the jobs and the memory stand, and no ledger comes or goes. -/
structure Aggregator.JobsStand (a b : Aggregator) : Prop where
  jobs : b.jobs = a.jobs
  mem : b.mem = a.mem
  names : b.led.ledgers.map Ledger.name = a.led.ledgers.map Ledger.name

namespace Aggregator.JobsStand

theorem refl (a : Aggregator) : a.JobsStand a := ⟨rfl, rfl, rfl⟩

theorem trans {a b c : Aggregator} (h : a.JobsStand b) (h' : b.JobsStand c) : a.JobsStand c :=
  ⟨h'.jobs.trans h.jobs, h'.mem.trans h.mem, h'.names.trans h.names⟩

theorem foldl {β : Type} {f : Aggregator → β → Aggregator} (h : ∀ (a : Aggregator) x, a.JobsStand (f a x)) {a b : Aggregator} (l : List β)
    (hb : a.JobsStand b) : a.JobsStand (l.foldl f b) := by
  induction l generalizing b with
  | nil => exact hb
  | cons x l ih => exact ih (hb.trans (h b x))

/-- A job has a ledger after it as before. -/
theorem ledger_isSome {a b : Aggregator} (h : a.JobsStand b) (job gen home : Nat) :
    (b.ledger job gen home).isSome = (a.ledger job gen home).isSome := by
  have byName (x : Aggregator) : (x.ledger job gen home).isSome = (x.led.ledgers.map Ledger.name).contains (job, gen, home) := by
    unfold Aggregator.ledger
    rw [Bool.eq_iff_iff, List.find?_isSome]
    simp [Ledger.name]
  rw [byName, byName, h.names]

section
variable {a b : Aggregator} (h : a.JobsStand b)
include h

theorem set (f : Fld) (n : Nat) : a.JobsStand (b.set f n) := h.trans ⟨by simp, by simp, by simp⟩
theorem inc (f : Fld) (n : Nat) : a.JobsStand (b.inc f n) := h.trans ⟨by simp, by simp, by simp⟩
theorem raise (f : Fld) : a.JobsStand (b.raise f) := h.trans ⟨by simp, by simp, by simp⟩
theorem modMir (f : Mirror → Mirror) : a.JobsStand (b.modMir f) :=
  h.trans ⟨by simp [Aggregator.modMir], by simp [Aggregator.modMir], by simp [Aggregator.modMir]⟩

theorem modLedger (job gen home : Nat) {f : Ledger → Ledger} (hf : ∀ l, (f l).name = l.name := by intro l; rfl) :
    a.JobsStand (b.modLedger job gen home f) := by
  refine h.trans ⟨rfl, rfl, ?_⟩
  simp only [Aggregator.modLedger, Aggregator.modLed_fields, List.map_map]
  refine List.map_congr_left fun l _ => ?_
  simp only [Function.comp_apply]
  split <;> simp [hf]

theorem mirrorSend (kind : Nat) (l : List Byte) : a.JobsStand (b.mirrorSend kind l) := by
  refine h.trans ⟨(b.mirrorSend_keeps kind l).1, ?_, congrArg (·.map Ledger.name) (Aggregator.mirrorSend_ledgers b kind l)⟩
  unfold Aggregator.mirrorSend
  dsimp only
  split
  · rfl
  · split <;> simp [Aggregator.mirrorFrame, Aggregator.modMir]

theorem mirrorJob (c : Nat) : a.JobsStand (b.mirrorJob c) :=
  .mirrorSend (.modMir (b := b.draw.2) (h.trans ⟨rfl, rfl, rfl⟩) _) _ _

theorem dropOldest : a.JobsStand b.dropOldest := by
  unfold Aggregator.dropOldest
  split
  · exact h
  · exact .raise (.modLedger h _ _ _) _

theorem makeRoom (job gen home : Nat) (r : LRec) (n : Nat) : a.JobsStand (b.makeRoom job gen home r n) := by
  induction n generalizing b with
  | zero => exact h
  | succ n ih =>
    unfold Aggregator.makeRoom
    dsimp only
    split
    · exact h
    · exact ih h.dropOldest

theorem showOcc : a.JobsStand b.showOcc := h.set _ _

theorem putRec (job gen home : Nat) (r : LRec) : a.JobsStand (b.putRec job gen home r) :=
  .mirrorSend (.showOcc (.modLedger h _ _ _)) _ _

theorem refuseRec (job gen home kind step : Nat) : a.JobsStand (b.refuseRec job gen home kind step) :=
  .raise (.inc (.modLedger h _ _ _) _ _) _

theorem appendRec (job gen kind flags step duid : Nat) (body : List Byte) (main : Bool) (home : Nat) :
    a.JobsStand (b.appendRec job gen kind flags step duid body main home) := by
  unfold Aggregator.appendRec
  split
  · exact h
  · dsimp only
    split
    · exact h
    · split
      · exact h.refuseRec _ _ _ _ _
      · refine .putRec (.makeRoom ?_ _ _ _ _ _) _ _ _ _
        split
        · exact .raise (.inc h _ _) _
        · exact h

theorem pumpCtl (k n : Nat) : a.JobsStand (b.pumpCtl k n) := by
  induction n generalizing b with
  | zero => exact h
  | succ n ih =>
    unfold Aggregator.pumpCtl
    dsimp only
    split
    · exact h
    · split
      · exact h
      · refine ih (h.trans ⟨?_, ?_, ?_⟩) <;> simp [Aggregator.sendCtl, Aggregator.setPath]

theorem control (k op : Nat) (l : List Byte) (gtag : Nat) (cmd : Option Nat) : a.JobsStand (b.control k op l gtag cmd) :=
  .pumpCtl (b := b.setPath k _) (h.trans ⟨rfl, rfl, rfl⟩) _ _

theorem armDie (j : JobCtx) (k gtag serial : Nat) : a.JobsStand (b.armDie j k gtag serial) :=
  .foldl (fun b _ => (refl b).control _ _ _ _ _) _ (.control (.control (.control h _ _ _ _ _) _ _ _ _ _) _ _ _ _ _)

end

end Aggregator.JobsStand

end Sys2Proof.Machine
end JobsThatStand

section JobCommands
/-!
PROOFS. Swaps, and the arming and retiring of jobs by host commands (R288, R409, R437).
-/
namespace Sys2Proof.Machine

section
variable {a : Aggregator} {j : JobCtx} {ctx job gen n gtag : Nat} {g l : List Byte}

theorem Aggregator.modJob_job (hjob : a.job ctx = some j) (f : JobCtx → JobCtx) : (a.modJob ctx f).job ctx = some (f j) :=
  (tabGet_mod a.jobs ctx ctx f).trans ((if_pos rfl).trans (congrArg (Option.map f) hjob))

/-! ### Swaps -/

/-- The die units of a job: its swaps, its die units in use and those that failed. -/
def JobCtx.membership (j : JobCtx) : List Swap × List Nat × List Nat := (j.swaps, j.dieUnits, j.failed)

/-- A swap in force for peals that are armed changes their epochs alone. -/
theorem Aggregator.swapArmed_keeps (a : Aggregator) (ctx inn : Nat) :
    (a.swapArmed ctx inn).mem = a.mem ∧ ((a.swapArmed ctx inn).job ctx).map JobCtx.membership = (a.job ctx).map JobCtx.membership := by
  have epoch (b : Aggregator) (tp : Nat) (f : Epoch → Epoch) :
      ((b.modEpoch ctx tp f).job ctx).map JobCtx.membership = (b.job ctx).map JobCtx.membership := by
    unfold Aggregator.modEpoch Aggregator.job
    rw [Aggregator.modJob, tabGet_mod, if_pos rfl, Option.map_map]
    rfl
  have sent (b : Aggregator) (q : Bool) (k op : Nat) (l : List Byte) : ((if q = true then b.control k op l else b).mem,
      ((if q = true then b.control k op l else b).job ctx).map JobCtx.membership) = (b.mem, (b.job ctx).map JobCtx.membership) := by
    cases q
    · rfl
    · simp [Aggregator.job]
  unfold Aggregator.swapArmed
  split
  · exact ⟨rfl, rfl⟩
  · refine Prod.mk.inj (foldl_keeps (fun b : Aggregator => (b.mem, (b.job ctx).map JobCtx.membership)) (fun b p => ?_) _ a)
    extract_lets exp was b1
    have hepoch : (b1.mem, (b1.job ctx).map JobCtx.membership) = (b.mem, (b.job ctx).map JobCtx.membership) :=
      Prod.ext_iff.2 ⟨rfl, epoch b _ _⟩
    split
    · exact (sent b1 _ _ _ _).trans hepoch
    · exact hepoch

theorem Aggregator.swap_own {out inn ts : Nat} (hout : out = le g 0 4) (hinn : inn = le g 4 4) (hts : ts = le g 8 8 * 65536 + le g 16 2)
    (hjob : a.job ctx = some j) (houtHere : out / 256 = a.id) (hinnHere : inn / 256 = a.id) (hmember : out ∈ j.dieUnits)
    (hlater : a.tc.now + 1000000 * 65536 ≤ ts) (hnew : ∀ e ∈ a.jobs, inn ∉ e.2.dieUnits) (hinnOwn : a.byPartner inn = false)
    (houtOwn : a.byPartner out = false) :
    ∃ (e : Aggregator) (x : JobCtx), a.swap n gtag ctx j g = (.ok, e.mirrorJob ctx) ∧ e.job ctx = some x ∧ e.mem = a.mem
      ∧ x.swaps = j.swaps ++ [⟨out, inn, ts, false⟩] ∧ x.dieUnits = j.dieUnits ++ [inn] ∧ (a.armable inn = true → x.failed = j.failed) := by
  subst hout hinn hts
  have hfree : ¬ ((decide (le g 0 4 / 256 = a.id) = true ∧ ¬ j.dieUnits.contains (le g 0 4) = true)
      ∨ le g 8 8 * nsU + le g 16 2 < a.tc.now + 1000000 * nsU ∨ (a.jobs.any fun e => e.2.dieUnits.contains (le g 4 4)) = true) := by
    simpa [houtHere, hmember, Nat.not_lt.2 hlater] using fun x y hxy => hnew (x, y) hxy
  unfold Aggregator.swap
  dsimp only
  rw [if_neg (by simp [houtHere]), if_neg hfree, if_neg (by simp [hinnOwn, houtOwn])]
  generalize ha1 : a.modJob ctx _ = a1
  have hjob1 : ∃ x, a1.job ctx = some x ∧ x.swaps = j.swaps ++ [⟨le g 0 4, le g 4 4, le g 8 8 * 65536 + le g 16 2, false⟩]
      ∧ x.dieUnits = j.dieUnits ++ [le g 4 4] ∧ (a.armable (le g 4 4) = true → x.failed = j.failed) := by
    subst ha1
    refine ⟨_, Aggregator.modJob_job hjob _, rfl, if_pos (by simpa using hinnHere), ?_⟩
    exact fun harm => if_neg fun hfails => hfails.2 harm
  have hmem1 : a1.mem = a.mem := ha1 ▸ rfl
  clear ha1
  have hstand : a1.JobsStand (match (if decide (le g 4 4 / 256 = a.id) = true ∧ a.armable (le g 4 4) = true then a1.regKey (le g 4 4) else none),
      a1.job ctx with
    | some k, some j1 => a1.armDie j1 k gtag n
    | _, _ => a1) := by
    split
    · exact (Aggregator.JobsStand.refl a1).armDie _ _ _ _
    · exact .refl a1
  obtain ⟨x, hx, hswaps, hdies, hfailed⟩ := hjob1
  obtain ⟨a2, ha2⟩ : ∃ a2 : Aggregator, (match (if decide (le g 4 4 / 256 = a.id) = true ∧ a.armable (le g 4 4) = true
        then a1.regKey (le g 4 4) else none), a1.job ctx with
      | some k, some j1 => a1.armDie j1 k gtag n
      | _, _ => a1) = a2 := ⟨_, rfl⟩
  rw [ha2] at hstand
  obtain ⟨hmem, hterms⟩ := a2.swapArmed_keeps ctx (le g 4 4)
  have hx2 : a2.job ctx = some x := (congrArg (tabGet · ctx) hstand.jobs).trans hx
  rw [hx2] at hterms
  obtain ⟨y, hy, hsame⟩ := Option.map_eq_some_iff.1 hterms
  obtain ⟨hswaps', hdies', hfailed'⟩ : y.swaps = x.swaps ∧ y.dieUnits = x.dieUnits ∧ y.failed = x.failed := by
    simpa [JobCtx.membership] using hsame
  exact ⟨a2.swapArmed ctx (le g 4 4), y, congrArg (fun b : Aggregator => (CmdRes.ok, (b.swapArmed ctx (le g 4 4)).mirrorJob ctx)) ha2, hy,
    hmem.trans (hstand.mem.trans hmem1), hswaps'.trans hswaps, hdies'.trans hdies, fun harm => hfailed'.trans (hfailed harm)⟩

/-! ### Arming and retiring -/

theorem Aggregator.openLedger_isSome (a : Aggregator) (job gen home : Nat) : ((a.openLedger job gen home).ledger job gen home).isSome = true := by
  unfold Aggregator.openLedger
  split
  case isTrue h => exact h
  case isFalse => simp [Aggregator.ledger, List.find?_append]

theorem Aggregator.openLedger_keeps (a : Aggregator) (job gen home : Nat) :
    (a.openLedger job gen home).jobs = a.jobs ∧ (a.openLedger job gen home).mem = a.mem := by
  unfold Aggregator.openLedger
  split <;> simp

theorem Aggregator.armJob_arms (hfit : a.armRefusal job gen l = none) (hctx : a.freeCtx = some ctx)
    (hserved : (armDies l).filter a.armable ≠ []) :
    ∃ (e : Aggregator) (x : JobCtx), a.armJob n gtag job gen l = (.wait (.arm ctx ((armDies l).filter a.armable).length
        ((armDies l).filter fun d => !a.armable d).length), e)
      ∧ e.job ctx = some x ∧ x.state = .arming ∧ x.job = job ∧ x.gen = gen ∧ x.dieUnits = armDies l ∧ x.tree = readTree l
      ∧ x.failed = (armDies l).filter (fun d => !a.armable d) ∧ (e.ledger job gen a.id).isSome = true ∧ e.mem = a.mem := by
  unfold Aggregator.armJob
  simp only [hfit, hctx]
  generalize hj : a.draw.2.armContext job gen l _ = j
  obtain ⟨hdies, hstate, hjob, hgen, htree⟩ : j.dieUnits = armDies l ∧ j.state = .arming ∧ j.job = job ∧ j.gen = gen ∧ j.tree = readTree l :=
    hj ▸ ⟨rfl, rfl, rfl, rfl, rfl⟩
  have hserved' : ¬ j.dieUnits.filter a.draw.2.armable = [] := hdies ▸ hserved
  rw [if_neg hserved', ← hdies]
  generalize ha2 : Aggregator.openLedger _ job gen a.draw.2.id = a2
  have hput : a2.job ctx = some { j with failed := j.dieUnits.filter fun d => !a.armable d } := by
    subst ha2
    refine (congrArg (tabGet · ctx) (Aggregator.openLedger_keeps _ _ _ _).1).trans ((tabGet_put _ _ _ _).trans ?_)
    exact if_pos rfl
  have hmem2 : a2.mem = a.mem := ha2 ▸ (Aggregator.openLedger_keeps _ _ _ _).2
  have hled2 : (a2.ledger job gen a.id).isSome = true := ha2 ▸ Aggregator.openLedger_isSome _ _ _ _
  refine ⟨_, { j with failed := j.dieUnits.filter fun d => !a.armable d }, rfl, ?_⟩
  generalize he : Aggregator.mirrorJob _ ctx = e
  have hstand : a2.JobsStand e := by
    subst he
    refine .mirrorJob (.foldl (fun b d => ?_) _ (.appendRec (.modLedger (.refl a2) _ _ _) _ _ _ _ _ _ _ _ _)) ctx
    split
    · exact (Aggregator.JobsStand.refl b).armDie _ _ _ _
    · exact .refl b
  exact ⟨(congrArg (tabGet · ctx) hstand.jobs).trans hput, hstate, hjob, hgen, rfl, htree, rfl, (hstand.ledger_isSome _ _ _).trans hled2,
    hstand.mem.trans hmem2⟩

theorem Aggregator.retireJob_armed (hown : a.ownJob job gen = some (ctx, j)) (hjob : a.job ctx = some j) (harmed : j.state = .armed) :
    ∃ (e : Aggregator) (x : JobCtx), a.retireJob n gtag job gen = (.wait (if j.dieUnits.filter a.serves = [] then .drain ctx
        else .retire ctx (j.dieUnits.filter a.serves).length), e)
      ∧ e.job ctx = some x ∧ x.state = .retiring ∧ x.drainAt = (if j.dieUnits.filter a.serves = [] then some a.mono else none)
      ∧ x.dieUnits = j.dieUnits ∧ e.mem = a.mem := by
  unfold Aggregator.retireJob
  simp only [hown]
  rw [if_neg (by simp [harmed])]
  generalize ha2 : List.foldl _ _ (j.dieUnits.filter a.serves) = a2
  have hstand : (a.modJob ctx fun j => { j with state := .retiring, drainAt := none }).JobsStand a2 := by
    subst ha2
    refine .foldl (fun b d => ?_) _ ((Aggregator.JobsStand.refl _).mirrorJob ctx)
    split
    · exact (Aggregator.JobsStand.refl b).control _ _ _ _ _
    · exact .refl b
  have hjob2 : a2.job ctx = some { j with state := .retiring, drainAt := none } := 
    (congrArg (tabGet · ctx) hstand.jobs).trans (Aggregator.modJob_job hjob _)
  by_cases hnone : j.dieUnits.filter a.serves = []
  · have hmono : a2.mono = a.mono := by
      subst ha2
      rw [hnone]
      exact congrArg TimeClient.mono (Aggregator.mirrorJob_tc _ ctx)
    simp only [hnone, if_true]
    exact ⟨_, _, rfl, Aggregator.modJob_job hjob2 _, rfl, congrArg some hmono, rfl, hstand.mem⟩
  · simp only [hnone, if_false]
    exact ⟨_, _, rfl, hjob2, rfl, rfl, rfl, hstand.mem⟩

end

end Sys2Proof.Machine
end JobCommands

section HostCommands
/-!
PROOFS. Host commands start once in order, have their effect and complete (R19, R346, R347, R437, R439, Tables 15-6 to 15-10).
-/
namespace Sys2Proof.Machine

/-- Settles O50: every row runs `startCmd` with its own effect, and each effect is that of its operation of the aggregator. -/
theorem hostCommandsStartOnceAndComplete : Obligations.HostCommandsStartOnceAndComplete := by
  unfold Obligations.HostCommandsStartOnceAndComplete
  intro s i n ok c want act l a data row found go feature ends byte asks hserved
  have hstart (hrow : row) : StartsWith s i n ok c want act := by
    have oob {f : Aggregator → Command → List Byte → CmdRes × Aggregator} (harm : exec i s = s.onOob (·.startCmd n ok want f))
        (hact : ∀ d, f a c d = act d) : StartsWith s i n ok c want act := startsWith_oob hserved harm fun d _ => hact d
    have up {f : Aggregator → Command → List Byte → CmdRes × Aggregator} (harm : exec i s = s.onUp (·.startCmd n ok want f))
        (hact : ∀ d, f a c d = act d) : StartsWith s i n ok c want act := startsWith_up hserved harm fun d _ => hact d
    have firmware {sub : Nat} {f : Aggregator → Nat → CmdRes × Aggregator} (hwant : want = isSub opFwCommit sub)
        (hwrites : a.on PWR_SAG_WRITES_STOPPED = false) (harm : exec i s = s.onOob (·.cmdFw n ok sub f))
        (hact : act = fun _ => if 1 < le c.args 0 1 then (.fail csInvalidField, a) else f a (le c.args 0 1)) :
        StartsWith s i n ok c want act := hwant ▸ startsWith_firmware hserved hwrites harm hact
    have jobFeature {sub : Nat} {f : Aggregator → Command → Nat → JobCtx → List Byte → CmdRes × Aggregator}
        (hwant : want = isSub opSetFeature sub) (harm : exec i s = s.onUp (·.cmdJobFeature n ok sub f))
        (hact : act = fun d => match a.ownJob c.job c.gen with
          | some (ctx, j) => f a c ctx j d
          | none => (.fail csNotArmed, a)) : StartsWith s i n ok c want act := hwant ▸ startsWith_jobFeature hserved harm hact
    -- Identify, the logs and the features that read
    rcases hrow with ⟨rfl, rfl, rfl⟩ | ⟨rfl, rfl, rfl⟩ | ⟨rfl, rfl, rfl⟩ | ⟨rfl, rfl, rfl⟩ | ⟨rfl, rfl, rfl⟩ | ⟨rfl, rfl, rfl⟩
      | ⟨rfl, rfl, rfl⟩
      | ⟨rfl, rfl, hsub, rfl⟩ | ⟨rfl, rfl, hsub, rfl⟩ | ⟨rfl, rfl, hsub, rfl⟩ | hrow
    iterate 7 exact oob rfl fun _ => rfl
    iterate 3 exact oob rfl fun _ => by simp only [hsub] <;> rfl
    -- the features that act
    rcases hrow with ⟨rfl, rfl, rfl⟩ | ⟨rfl, rfl, rfl⟩ | ⟨rfl, rfl, rfl⟩ | ⟨rfl, rfl, rfl⟩ | ⟨rfl, rfl, rfl⟩ | ⟨rfl, rfl, rfl⟩
      | ⟨rfl, rfl, rfl⟩
      | ⟨rfl, rfl, rfl⟩ | ⟨rfl, rfl, rfl⟩ | ⟨rfl, rfl, rfl⟩ | ⟨rfl, rfl, rfl⟩ | ⟨rfl, rfl, rfl⟩ | ⟨rfl, rfl, rfl⟩
      | ⟨rfl, rfl, rfl⟩
      | ⟨rfl, rfl, rfl⟩ | ⟨rfl, rfl, rfl⟩ | ⟨rfl, rfl, rfl⟩ | hrow
    iterate 14 exact up rfl fun _ => rfl
    iterate 3 exact jobFeature rfl rfl rfl
    -- firmware
    rcases hrow with ⟨rfl, rfl, rfl⟩ | ⟨rfl, hwant, hwrites, hact⟩ | ⟨rfl, hwant, hwrites, hact⟩ | ⟨rfl, hwant, hwrites, hact⟩ | hrow
    · exact oob rfl fun _ => rfl
    · exact firmware hwant hwrites rfl (hact.trans (funext fun _ => congrArg (ite _ _) (Aggregator.fwCommit_match _ _).symm))
    · exact firmware hwant hwrites rfl (hact.trans (funext fun _ => congrArg (ite _ _)
        (Aggregator.fwCommit_match (fun a1 => a1.fwHold (le c.args 0 1)) _).symm))
    · exact firmware hwant hwrites rfl hact
    -- Flush, Query, Read Ledger, Read Trace, Arm Job and Retire Job
    rcases hrow with ⟨rfl, rfl, rfl⟩ | ⟨rfl, rfl, rfl⟩ | ⟨rfl, rfl, rfl⟩ | ⟨rfl, rfl, rfl⟩ | ⟨rfl, rfl, rfl⟩ | ⟨rfl, rfl, rfl⟩
      | ⟨rfl, rfl, rfl⟩
      | ⟨rfl, rfl, rfl⟩ | ⟨rfl, rfl, rfl⟩ | ⟨rfl, rfl, hstream, rfl⟩ | ⟨rfl, rfl, rfl⟩ | ⟨rfl, rfl, rfl⟩
    iterate 9 exact up rfl fun _ => rfl
    · exact up rfl fun _ => if_pos hstream
    iterate 2 exact up rfl fun _ => rfl
  have isFeature {k : Nat} (h : feature k) : isSub opSetFeature k c = true := isSub_of h.2.1 h.2.2
  have featureEnds {i : Instr} {k : Nat} {f : Aggregator → Command → List Byte → CmdRes × Aggregator} {st r : Nat} {out : List Byte}
      {e : Aggregator} (h : feature k) (harm : exec i s = s.onUp (·.startCmd n ok (isSub opSetFeature k) f))
      (hact : f a c data = (.done st r out, e)) : exec i s = nextAgg s (e.finish c st r out) :=
    (startsWith_up hserved harm fun _ _ => rfl).ends h.1 (isFeature h) hact
  have featureWaits {i : Instr} {k : Nat} {f : Aggregator → Command → List Byte → CmdRes × Aggregator} {w : CmdWait} {e : Aggregator}
      (h : feature k) (harm : exec i s = s.onUp (·.startCmd n ok (isSub opSetFeature k) f)) (hact : f a c data = (.wait w, e)) :
      exec i s = nextAgg s (e.setWait n w) := (startsWith_up hserved harm fun _ _ => rfl).waits h.1 (isFeature h) hact
  have jobFeatureEnds {i : Instr} {k ctx : Nat} {j : JobCtx} {f : Aggregator → Command → Nat → JobCtx → List Byte → CmdRes × Aggregator}
      {st r : Nat} {out : List Byte} {e : Aggregator} (h : feature k) (hown : a.ownJob c.job c.gen = some (ctx, j))
      (harm : exec i s = s.onUp (·.cmdJobFeature n ok k f)) (hact : f a c ctx j data = (.done st r out, e)) :
      exec i s = nextAgg s (e.finish c st r out) :=
    (startsWith_jobFeature hserved harm rfl).ends h.1 (isFeature h) (by simp only [a, hown]; exact hact)
  have jobFeatureWaits {i : Instr} {k ctx : Nat} {j : JobCtx} {f : Aggregator → Command → Nat → JobCtx → List Byte → CmdRes × Aggregator}
      {w : CmdWait} {e : Aggregator} (h : feature k) (hown : a.ownJob c.job c.gen = some (ctx, j))
      (harm : exec i s = s.onUp (·.cmdJobFeature n ok k f)) (hact : f a c ctx j data = (.wait w, e)) : exec i s = nextAgg s (e.setWait n w) :=
    (startsWith_jobFeature hserved harm rfl).waits h.1 (isFeature h) (by simp only [a, hown]; exact hact)
  have ask {kind : Nat} {g : Ledger} {res : QRes} (h : asks kind g res)
      (hled : a.ledger c.job c.gen (a.ledgerHome c.job c.gen) = some g) :
      StartsWith s i n ok c (isSub opReadLedger kind) (fun d => a.readLedger kind c.job c.gen c.dlen c.args d)
        ∧ a.answerQuery kind c.job c.gen c.dlen c.args data [] g.counts false
          = res.data kind c.dlen (a.cuts g g.counts).1 (a.cuts g g.counts).2 := by
    rw [Aggregator.answerQuery_ledger hled]
    rcases h with ⟨rfl, rfl, rfl⟩ | ⟨rfl, rfl, rfl⟩ | ⟨rfl, rfl, rfl⟩ | ⟨rfl, rfl, rfl⟩ | ⟨rfl, rfl, rfl⟩ | ⟨rfl, rfl, ctx, j, hjob, rfl⟩
      | ⟨rfl, rfl, rfl⟩
    iterate 5 exact ⟨startsWith_up hserved rfl fun _ _ => rfl, rfl⟩
    · exact ⟨startsWith_up hserved rfl fun _ _ => rfl, by simp only [hjob]⟩
    · exact ⟨startsWith_up hserved rfl fun _ _ => rfl, rfl⟩
  refine ⟨?absent, ?held, ?noBuffer, ?dataError, ?done, ?waits, ?identify, ?freeBound, ?free, ?load, ?bind, ?unbindRunning, ?unbind, ?queue,
    ?deletes, ?cancelNone, ?cancelOne, ?broadcast, ?tooEarly, ?spill, ?imports, ?reference, ?swap, ?scan, ?answers, ?fetches, ?fits, ?noParcel,
    ?oneParcel, ?arms, ?retires⟩
  case absent => exact fun hrow hc => (hstart hrow).absent hc
  case held => exact fun hrow hc hheld => (hstart hrow).held hc hheld
  case noBuffer => exact fun ⟨hrow, hc, hwant, hmay⟩ hbuf => (hstart hrow).noBuffer hc hwant hmay hbuf
  case dataError => exact fun ⟨hrow, hc, hwant, hmay⟩ hbuf hpcie hlen hok => (hstart hrow).dataError hc hwant hmay hbuf hpcie hlen hok
  case done => exact fun st r out e ⟨hrow, hc, hwant, hmay⟩ hbuf hok hact => (hstart hrow).ends ⟨hc, hmay, hbuf, hok⟩ hwant hact
  case waits => exact fun w e ⟨hrow, hc, hwant, hmay⟩ hbuf hok hact => (hstart hrow).waits ⟨hc, hmay, hbuf, hok⟩ hwant hact
  case identify =>
    exact fun hgo hop hfits => (startsWith_oob hserved rfl fun _ _ => rfl).ends hgo (isOp_of hop)
      (congrArg (·, a) (outData_fits hfits))
  case freeBound => exact fun h hslot himg hbound => featureEnds h rfl (Aggregator.detImageFree_bound hslot himg hbound)
  case free => exact fun h hslot himg hfree => featureEnds h rfl (Aggregator.detImageFree_unbound hslot himg hfree)
  case load => exact fun img k h hat hst => featureEnds h rfl (Aggregator.detImageLoad_loaded hat hst)
  case bind =>
    exact fun ctx j m k inst h hres hown hstate himg hcores hbind hpresent hnew hplan => featureEnds h rfl
      ((if_neg (not_not.2 hres)).trans (Aggregator.detBind_planned hown hstate himg hcores hbind hpresent hnew hplan))
  case unbindRunning =>
    exact fun ctx j k inst h hown hinst hruns => featureEnds h rfl ((Aggregator.detUnbind_found hown hinst).trans (by rw [if_pos hruns]; rfl))
  case unbind =>
    exact fun ctx j k inst h hown hinst hruns => featureEnds h rfl
      ((Aggregator.detUnbind_found hown hinst).trans (by rw [if_neg (by simp [hruns])]; rfl))
  case queue =>
    exact fun h h1 h2 h3 h4 h5 h6 h7 h8 h9 h10 h11 h12 h13 h14 h15 => featureEnds h rfl
      (Aggregator.queueCreate_new h1 h2 h3 h4 h5 h6 h7 h8 h9 h10 h11 h12 h13 h14 h15)
  case deletes =>
    intro q h hqid hbelow hpair hidle
    obtain ⟨e, hact, hkeeps⟩ := Aggregator.queueDelete_idle hqid hbelow hpair hidle
    exact ⟨e, featureEnds h rfl hact, hkeeps⟩
  case cancelNone => exact fun h hside hres htag => featureEnds h rfl (Aggregator.cancelTag_none hside hres htag)
  case cancelOne => exact fun d h hside hres htag hhit hwait => featureEnds h rfl (Aggregator.cancelTag_one hside hres htag hhit hwait)
  case broadcast =>
    exact fun ctx j h hown hlo hhi hlen hlevel harmed hpeal => jobFeatureWaits (f := fun a c ctx j d => a.broadcastIssue ctx j c.args d) h hown
      rfl (Aggregator.broadcastIssue_issued hlo hhi hlen hlevel harmed hpeal)
  case tooEarly =>
    exact fun ctx j h hown hkind hlen hlevel harmed hpeal => jobFeatureEnds (f := fun a c ctx j d => a.broadcastIssue ctx j c.args d) h hown rfl
      (Aggregator.broadcastIssue_tooEarly hkind hlen hlevel harmed hpeal)
  case spill => exact fun g h hled hsealed => featureEnds h rfl (Aggregator.spillFeature_sealed hled hsealed)
  case imports => exact fun o h ho hres hagg => featureWaits h rfl (Aggregator.ledgerImport_asks ho hres hagg)
  case reference =>
    exact fun ctx j h hown hkind hres0 hres1 => jobFeatureEnds (f := fun a c ctx _ _ => a.ledgerReference ctx c.args) h hown rfl
      (Aggregator.ledgerReference_writes hkind hres0 hres1)
  case swap =>
    intro ctx j out inn ts h hout hinn hts hown hjob houtHere hinnHere hmember hlater hnew hinnOwn houtOwn
    obtain ⟨e, x, hact, hkeeps⟩ :=
      Aggregator.swap_own (n := n) (gtag := c.gtag) hout hinn hts hjob houtHere hinnHere hmember hlater hnew hinnOwn houtOwn
    exact ⟨e, x, jobFeatureEnds (f := fun a c ctx j _ => a.swap n c.gtag ctx j c.args) h hown rfl hact, hkeeps⟩
  case scan => exact fun h hbelow hcore => featureEnds h rfl (Aggregator.scanFeature_present hbelow hcore)
  case answers =>
    intro kind g res out hasks hgo hop hsub hargs hfew hled hneeds _ hout
    obtain ⟨hstart, hanswer⟩ := ask hasks hled
    exact hstart.ends hgo (isSub_of hop hsub)
      ((Aggregator.readLedger_held hargs hfew hled hneeds).trans (congrArg (·, a) (hanswer.trans hout)))
  case fetches =>
    exact fun kind g res hasks hgo hop hsub hargs hfew hled hneeds => (ask hasks hled).1.waits hgo (isSub_of hop hsub)
      (Aggregator.readLedger_fetches hargs hfew hled hneeds)
  case fits => exact fun res kind h p hfits => QRes.data_fits res kind h p hfits
  case noParcel =>
    intro r hgo hop hstream hnone hr
    refine (startsWith_up hserved rfl fun _ _ => rfl).ends hgo (isOp_of hop) ?_
    dsimp only
    rw [if_neg (Nat.not_le.2 hstream), hnone, takeHeld_nil, hr]
    simp [a, Aggregator.draw]
  case oneParcel =>
    intro x r hgo hop hstream hone hlen hclean hr
    refine (startsWith_up hserved rfl fun _ _ => rfl).ends hgo (isOp_of hop) ?_
    dsimp only
    rw [if_neg (Nat.not_le.2 hstream), hone, List.length_singleton, takeHeld_one hlen, hr]
    have hread : (if a.poisoned x.2.addr x.2.len = true then [] else memBytes a.mem x.2.addr x.2.len) = memBytes a.mem x.2.addr x.2.len :=
      if_neg (by simp [hclean])
    exact Prod.ext_iff.2 ⟨congrArg (CmdRes.done csSuccess _) ((List.append_nil _).trans hread), rfl⟩
  case arms =>
    intro ctx hgo hop hlen hfit hctx hserves
    obtain ⟨e, x, hact, hkeeps⟩ := Aggregator.armJob_arms (n := n) (gtag := c.gtag) hfit hctx hserves
    exact ⟨e, x, (startsWith_up hserved rfl fun _ _ => rfl).waits hgo (isOp_of hop) ((if_neg (not_not.2 hlen)).trans hact), hkeeps⟩
  case retires =>
    intro ctx j hgo hop hown hjob harmed
    obtain ⟨e, x, hact, hkeeps⟩ := Aggregator.retireJob_armed (n := n) (gtag := c.gtag) hown hjob harmed
    exact ⟨e, x, (startsWith_up hserved rfl fun _ _ => rfl).waits hgo (isOp_of hop) hact, hkeeps⟩

end Sys2Proof.Machine
end HostCommands

section StateOperationMemories
/-!
PROOFS. The memories of the aggregator keep their canonical form:
the register file, the state's fields, power domains, accesses, buffer pools and CDE channels (chapters 3, 4, 8 and 9).
A lemma has the name of the operation it is about, so that a chain `h.set.raise.post` follows the operations in the order in which they act.
-/
namespace Sys2Proof.Machine

theorem memFold_wf {β : Type} {f : Store Byte → β → Store Byte} {l : List β} {m : Store Byte} (h : Memory.wf m = true)
    (hf : ∀ m x, Memory.wf m = true → Memory.wf (f m x) = true) : Memory.wf (l.foldl f m) = true := by
  induction l generalizing m with
  | nil => exact h
  | cons x l ih => exact ih (hf m x h)

/-- The aggregator that an instruction gives, or is refused with, has canonical memories. -/
def IsaRes.MemoriesOk : IsaRes → Prop
  | .go a => a.memoriesOk
  | .stop _ _ => True
  | .refuse a => a.memoriesOk

namespace Aggregator.memoriesOk

theorem of {a b : Aggregator} (h : b.memoriesOk) (hm : a.mem = b.mem) (hh : a.host = b.host) : a.memoriesOk := by
  unfold Aggregator.memoriesOk at h ⊢
  rwa [hm, hh]

theorem foldl {β : Type} {f : Aggregator → β → Aggregator} {l : List β} {a : Aggregator} (h : a.memoriesOk)
    (hf : ∀ (a : Aggregator) (x : β), a.memoriesOk → (f a x).memoriesOk) : (l.foldl f a).memoriesOk := by
  induction l generalizing a with
  | nil => exact h
  | cons x l ih => exact ih (hf a x h)

theorem ofPair {β : Type} {p : β × Aggregator} {x : β} {b : Aggregator} (h : p.2.memoriesOk) (hp : p = (x, b)) : b.memoriesOk := by
  subst hp
  exact h

theorem ite {p : Prop} [Decidable p] {a b : Aggregator} (ha : a.memoriesOk) (hb : b.memoriesOk) : (if p then a else b).memoriesOk := by
  split
  · exact ha
  · exact hb

variable {a : Aggregator}

theorem withMem {m : Store Byte} (h : a.memoriesOk) (hm : Memory.wf m = true) : ({ a with mem := m } : Aggregator).memoriesOk := ⟨hm, h.2⟩

theorem withHost {m : Store Byte} (h : a.memoriesOk) (hm : Memory.wf m = true) : ({ a with host := m } : Aggregator).memoriesOk := ⟨h.1, hm⟩

/-- What is not kept at power-on is as an aggregator without memories. -/
theorem blank : Aggregator.blank.memoriesOk := ⟨rfl, rfl⟩

theorem set {f : Fld} {v : Nat} (h : a.memoriesOk) : (a.set f v).memoriesOk := h.of (by simp) (by simp)

theorem inc {f : Fld} {n : Nat} (h : a.memoriesOk) : (a.inc f n).memoriesOk := h.of (by simp) (by simp)

theorem incWrap {f : Fld} {n : Nat} (h : a.memoriesOk) : (a.incWrap f n).memoriesOk := h.of (by simp) (by simp)

theorem raise {f : Fld} (h : a.memoriesOk) : (a.raise f).memoriesOk := h.of (by simp) (by simp)

theorem raiseAll {page : Nat} {fs : List Fld} (h : a.memoriesOk) : (a.raiseAll page fs).memoriesOk := h.of (by simp) (by simp)

theorem setWord {key : Nat} {w : W64} (h : a.memoriesOk) : (a.setWord key w).memoriesOk := h.of (by simp) (by simp)

theorem modPwr {f : PowerMgr → PowerMgr} (h : a.memoriesOk) : (a.modPwr f).memoriesOk := h.of (by simp) (by simp)

theorem modSync {f : SyncNet → SyncNet} (h : a.memoriesOk) : (a.modSync f).memoriesOk := h.of (by simp) (by simp)

theorem modBar {f : BarState → BarState} (h : a.memoriesOk) : (a.modBar f).memoriesOk := h.of (by simp) (by simp)

theorem modIng {f : Ingest → Ingest} (h : a.memoriesOk) : (a.modIng f).memoriesOk := h.of (by simp) (by simp)

theorem modLed {f : LedgerUnit → LedgerUnit} (h : a.memoriesOk) : (a.modLed f).memoriesOk := h.of (by simp) (by simp)

theorem modMir {f : Mirror → Mirror} (h : a.memoriesOk) : (a.modMir f).memoriesOk := by
  unfold Aggregator.modMir
  exact h.modLed

theorem modAud {f : Audit → Audit} (h : a.memoriesOk) : (a.modAud f).memoriesOk := h.of (by simp) (by simp)

theorem modDet {f : Detectors → Detectors} (h : a.memoriesOk) : (a.modDet f).memoriesOk := h.of (by simp) (by simp)

theorem modHlt {f : AggHealth → AggHealth} (h : a.memoriesOk) : (a.modHlt f).memoriesOk := h.of (by simp) (by simp)

theorem modHif {f : HostIf → HostIf} (h : a.memoriesOk) : (a.modHif f).memoriesOk := h.of (by simp) (by simp)

theorem modRec {f : Recorder → Recorder} (h : a.memoriesOk) : (a.modRec f).memoriesOk := h.of (by simp) (by simp)

theorem draw (h : a.memoriesOk) : a.draw.2.memoriesOk := by
  unfold Aggregator.draw
  exact h

theorem withView {v : TimeView} (h : a.memoriesOk) : (a.withView v).memoriesOk := h.of (by simp) (by simp)

theorem withRec {v : RecView} (h : a.memoriesOk) : (a.withRec v).memoriesOk := h.of (by simp) (by simp)

theorem record {code : Nat} {data : List Byte} (h : a.memoriesOk) : (a.record code data).memoriesOk := by
  unfold Aggregator.record
  exact h.withRec

theorem recordLimited {code key : Nat} {data : List Byte} (h : a.memoriesOk) : (a.recordLimited code key data).memoriesOk := by
  unfold Aggregator.recordLimited
  exact h.withRec

theorem withToc {k : Nat} {v : TocView} (h : a.memoriesOk) : (a.withToc k v).memoriesOk := h.of (by simp) (by simp)

theorem timeRecords {old : Aggregator} (h : a.memoriesOk) : (old.timeRecords a).memoriesOk := by
  unfold Aggregator.timeRecords
  extract_lets stat bits_ st rec_ a1 a2
  have h1 : a1.memoriesOk := .ite h.recordLimited h
  have h2 : a2.memoriesOk := .ite h1.recordLimited h1
  exact .ite h2.recordLimited h2

theorem timeOp {f : TimeView → TimeView} (h : a.memoriesOk) : (a.timeOp f).memoriesOk := by
  unfold Aggregator.timeOp
  extract_lets a1
  have h1 : a1.memoriesOk := .timeRecords (h.of (by simp) (by simp))
  exact .of h1 rfl rfl

theorem accessFault {addr len : Nat} (h : a.memoriesOk) : (a.accessFault addr len).memoriesOk := by
  unfold Aggregator.accessFault
  exact .ite h.inc h

theorem sendFrame {lane dst : Nat} {payload : List Byte} (h : a.memoriesOk) : (a.sendFrame lane dst payload).memoriesOk := h.of (by simp) (by simp)

theorem event {e : MgmtEvent} (h : a.memoriesOk) : (a.event e).memoriesOk := by
  unfold Aggregator.event
  exact .ite h.modHif h.inc.raise

theorem report {name : String} {args : List Nat} (h : a.memoriesOk) : (a.report name args).memoriesOk := by
  unfold Aggregator.report
  exact h.event

theorem modJob {c : Nat} {f : JobCtx → JobCtx} (h : a.memoriesOk) : (a.modJob c f).memoriesOk := h.of (by simp) (by simp)

theorem showPower (h : a.memoriesOk) : a.showPower.memoriesOk := by
  unfold Aggregator.showPower
  exact h.set

theorem setAd {k st : Nat} (h : a.memoriesOk) : (a.setAd k st).memoriesOk := by
  unfold Aggregator.setAd
  exact h.set.showPower

theorem beginWake {k : Nat} {off : Bool} (h : a.memoriesOk) : (a.beginWake k off).memoriesOk := by
  unfold Aggregator.beginWake
  extract_lets a1
  have h1 : a1.memoriesOk := h.modPwr
  exact h1.inc.setAd

theorem wakeOne {k : Nat} (h : a.memoriesOk) : (a.wakeOne k).memoriesOk := by
  unfold Aggregator.wakeOne
  extract_lets st
  split
  · exact h
  · exact .ite h.beginWake h.modPwr.inc.raise.setAd

theorem wakeDomain {k : Nat} (h : a.memoriesOk) : (a.wakeDomain k).memoriesOk := by
  unfold Aggregator.wakeDomain
  split
  · exact h.setAd
  · split
    · exact .ite h.wakeOne h.wakeOne.modPwr
    · exact h.wakeOne

theorem domainUsable {k : Nat} (h : a.memoriesOk) : (a.domainUsable k).memoriesOk := by
  unfold Aggregator.domainUsable
  split
  · exact h
  · extract_lets off a1 src fresh a2 a3
    have h1 : a1.memoriesOk := h.setAd.modPwr
    have h2 : a2.memoriesOk := .ite ((h1.withMem (memClear_wf _ _ _ h1.1)).modDet) h1
    have h3 : a3.memoriesOk := by
      unfold a3
      split
      · exact h2.modPwr
      · exact h2
    exact .foldl h3 fun _ _ h => h.modPwr.wakeOne

theorem wakeAudit (h : a.memoriesOk) : a.wakeAudit.memoriesOk := by
  unfold Aggregator.wakeAudit
  exact h.wakeDomain.wakeDomain

theorem hbmTouch {addr len : Nat} (h : a.memoriesOk) : (a.hbmTouch addr len).memoriesOk := by
  unfold Aggregator.hbmTouch
  exact .foldl h fun _ _ h => h.modPwr.wakeDomain

theorem poke {addr : Nat} {l : List Byte} (h : a.memoriesOk) : (a.poke addr l).memoriesOk :=
  .hbmTouch (h.withMem (memPut_wf _ _ _ h.1))

theorem memRead {r : Req} {addr len : Nat} (h : a.memoriesOk) : (a.memRead r addr len).2.memoriesOk := by
  unfold Aggregator.memRead
  split
  · exact h.hbmTouch
  · exact h.accessFault

theorem memWrite {r : Req} {addr : Nat} {l : List Byte} (h : a.memoriesOk) : (a.memWrite r addr l).2.memoriesOk := by
  unfold Aggregator.memWrite
  split
  · exact h.poke
  · exact h.accessFault

theorem deny {write : Bool} {r : Req} {addr len : Nat} (h : a.memoriesOk) : (a.deny write r addr len).memoriesOk := by
  unfold Aggregator.deny
  exact .ite h h.accessFault

theorem deferredStart (h : a.memoriesOk) : a.deferredStart.memoriesOk := by
  unfold Aggregator.deferredStart
  split
  · exact .ite h.beginWake h
  · exact h

theorem domainSleep {k idle : Nat} {final : Bool} (h : a.memoriesOk) : (a.domainSleep k idle final).memoriesOk := by
  unfold Aggregator.domainSleep
  split
  · exact h
  · split
    · exact .ite h.setAd h
    · exact .ite h.setAd h

theorem mapOut {c : Nat} (h : a.memoriesOk) : (a.mapOut c).memoriesOk := by
  unfold Aggregator.mapOut
  exact .ite h.setAd.set h

theorem coreDrained {c : Nat} (h : a.memoriesOk) : (a.coreDrained c).memoriesOk := by
  unfold Aggregator.coreDrained
  exact .ite h.setAd.mapOut h

theorem writePdCtrl {k m : Nat} (h : a.memoriesOk) : (a.writePdCtrl k m).memoriesOk := by
  unfold Aggregator.writePdCtrl
  extract_lets a1
  have h1 : a1.memoriesOk := h.setWord
  split
  · exact h1.setWord
  · split
    · exact .ite h1 h1.setAd.set
    · split
      · exact .mapOut (.ite h1.wakeDomain h1)
      · exact .ite h1.setAd h1

theorem fanOut {pealId : Nat} (h : a.memoriesOk) : (a.fanOut pealId).memoriesOk := by
  unfold Aggregator.fanOut
  refine .foldl h fun _ _ h => ?_
  split
  · exact h
  · exact .ite h.modPwr h.modPwr

theorem enterLevel {f : Fld} (h : a.memoriesOk) : (a.enterLevel f).memoriesOk := by
  unfold Aggregator.enterLevel
  extract_lets a1
  have h1 : a1.memoriesOk := h.raise
  exact .ite h1.modHif h1

theorem poolShow {p : Nat} (h : a.memoriesOk) : (a.poolShow p).memoriesOk := by
  unfold Aggregator.poolShow
  extract_lets use hyst l1 l2 a1 a2 lvl
  have h1 : a1.memoriesOk := .ite h.enterLevel h
  have h2 : a2.memoriesOk := .ite h1.enterLevel h1
  exact h2.set.set

theorem setOwner {p n owner : Nat} (h : a.memoriesOk) : (a.setOwner p n owner).memoriesOk := by
  unfold Aggregator.setOwner
  exact h.modIng.poolShow

theorem poolAlloc {p owner : Nat} {essential : Bool} (h : a.memoriesOk) : (a.poolAlloc p owner essential).2.memoriesOk := by
  unfold Aggregator.poolAlloc
  extract_lets n
  split
  · exact h
  · split
    · exact h.inc
    · exact h.setOwner

theorem ptrErr (h : a.memoriesOk) : a.ptrErr.memoriesOk := by
  unfold Aggregator.ptrErr
  exact h.inc.raise

theorem ownerErr (h : a.memoriesOk) : a.ownerErr.memoriesOk := by
  unfold Aggregator.ownerErr
  exact h.inc.raise

theorem poolGive {p addr actor next : Nat} (h : a.memoriesOk) : (a.poolGive p addr actor next).2.memoriesOk := by
  unfold Aggregator.poolGive
  split
  · exact h
  · split
    · exact h.ptrErr
    · extract_lets o
      split
      · exact h.ownerErr
      · exact h.setOwner

theorem poolFree {p addr actor : Nat} (h : a.memoriesOk) : (a.poolFree p addr actor).2.memoriesOk := by
  unfold Aggregator.poolFree
  exact h.poolGive

theorem phResult {code addr : Nat} (h : a.memoriesOk) : (a.phResult code addr).memoriesOk := by
  unfold Aggregator.phResult
  exact h.set.set

theorem writePhOp {m : Nat} (h : a.memoriesOk) : (a.writePhOp m).memoriesOk := by
  unfold Aggregator.writePhOp
  extract_lets op p next actor a1 host addr
  have h1 : a1.memoriesOk := h.set.set.set
  split
  · exact h1
  · split
    · exact h1.phResult
    · split
      · exact h1.ptrErr.phResult
      · split
        · exact h1.ownerErr.phResult
        · split
          · split
            next _ b hb => exact (h1.poolAlloc.ofPair hb).phResult
            next b hb => exact (h1.poolAlloc.ofPair hb).phResult
          · split
            next _ b hb => exact (h1.poolGive.ofPair hb).phResult

theorem poolBad (h : a.memoriesOk) : a.poolBad.memoriesOk := by
  unfold Aggregator.poolBad
  exact h.raise

theorem writePoolWord {p w m : Nat} (h : a.memoriesOk) : (a.writePoolWord p w m).memoriesOk := by
  unfold Aggregator.writePoolWord
  extract_lets used shift badShift changes a1 a2 a3
  have h1 : a1.memoriesOk := h.set.set
  have h2 : a2.memoriesOk := .ite h1 h1.set
  have h3 : a3.memoriesOk := .ite h2 h2.set
  split
  · exact .ite h.poolBad h.set
  · exact .ite h3.poolBad h3
  · exact .ite h.poolBad h.setWord.poolShow
  · exact h

theorem putChan {k : Nat} {c : Channel} (h : a.memoriesOk) : (a.putChan k c).memoriesOk := by
  unfold Aggregator.putChan
  exact h.modIng

theorem endChan {k : Nat} (h : a.memoriesOk) : (a.endChan k).memoriesOk := by
  unfold Aggregator.endChan
  exact h.modIng

theorem cdeWrite {addr : Nat} {l : List Byte} (h : a.memoriesOk) : (a.cdeWrite addr l).memoriesOk := by
  unfold Aggregator.cdeWrite
  exact h.memWrite

theorem writeSlip {c : Channel} {next flags : Nat} (h : a.memoriesOk) : (a.writeSlip c next flags).memoriesOk := by
  unfold Aggregator.writeSlip
  exact .ite h h.cdeWrite

theorem writeCompletion {c : Channel} {status faultBit : Nat} (h : a.memoriesOk) : (a.writeCompletion c status faultBit).memoriesOk := by
  unfold Aggregator.writeCompletion
  extract_lets ended
  exact .cdeWrite h

theorem chanFinish {k : Nat} {c : Channel} {status faultBit : Nat} (h : a.memoriesOk) : (a.chanFinish k c status faultBit).memoriesOk := by
  unfold Aggregator.chanFinish
  extract_lets bad a0
  have h0 : a0.memoriesOk := .ite h.modIng h
  exact h0.writeSlip.writeCompletion.endChan

theorem chanRun {k : Nat} {c : Channel} {fuel : Nat} (h : a.memoriesOk) : (a.chanRun k c fuel).memoriesOk := by
  induction fuel generalizing a c with
  | zero => exact h.putChan
  | succ n ih =>
    unfold Aggregator.chanRun
    extract_lets plan piece a1 c1
    have h1 : a1.memoriesOk := h.cdeWrite
    clear_value a1 c1 plan
    split
    · split
      · exact h1.writeCompletion.putChan
      · split
        · exact h1.chanFinish
        · split
          next _ b hb => exact ih (h1.poolAlloc.ofPair hb).writeSlip
          next b hb => exact (h1.poolAlloc.ofPair hb).putChan
    · split
      · exact h1.chanFinish
      · exact h1.chanFinish

theorem channelOpen {core k desc : Nat} {priv : Bool} (h : a.memoriesOk) : (a.channelOpen core k desc priv).memoriesOk := by
  unfold Aggregator.channelOpen
  extract_lets key
  split
  · exact h
  · split
    · exact h.wakeDomain
    · split
      · exact h
      · split
        next input b hb => exact (h.memRead.ofPair hb).chanRun

theorem forwardGrant {key : Nat} (h : a.memoriesOk) : (a.forwardGrant key).memoriesOk := by
  unfold Aggregator.forwardGrant
  split
  · exact h
  · split
    · exact h
    · split
      · rename_i b hb
        have h1 := h.poolAlloc.ofPair hb
        exact h1.writeSlip.chanRun
      · rename_i b hb
        have h1 := h.poolAlloc.ofPair hb
        exact h1

theorem forwardTimeout {key : Nat} (h : a.memoriesOk) : (a.forwardTimeout key).memoriesOk := by
  unfold Aggregator.forwardTimeout
  split
  · exact h
  · split
    · exact .ite h.chanFinish h
    · exact h

theorem chanIgnore (h : a.memoriesOk) : a.chanIgnore.memoriesOk := by
  unfold Aggregator.chanIgnore
  exact h.modIng

theorem posteResume {key addr len : Nat} {priv : Bool} (h : a.memoriesOk) : (a.posteResume key addr len priv).memoriesOk := by
  unfold Aggregator.posteResume
  split
  · exact h
  · split
    · exact h.chanIgnore
    · exact .ite h.chanRun h.chanIgnore

theorem chanCancel {key : Nat} {priv : Bool} (h : a.memoriesOk) : (a.chanCancel key priv).memoriesOk := by
  unfold Aggregator.chanCancel
  split
  · exact h
  · split
    · exact h.chanIgnore
    · exact .ite h.writeCompletion.endChan h.chanIgnore

end Aggregator.memoriesOk

end Sys2Proof.Machine
end StateOperationMemories

section ControlAndHealthMemories
/-!
PROOFS. The memories of the aggregator keep their canonical form:
the ledger, the mirror, control frames, health and ingest (chapters 10, 13 and 14).
-/
namespace Sys2Proof.Machine

namespace Aggregator.memoriesOk

variable {a : Aggregator}

theorem showOcc (h : a.memoriesOk) : a.showOcc.memoriesOk := by
  unfold Aggregator.showOcc
  exact h.set

theorem modLedger {job gen home : Nat} {f : Ledger → Ledger} (h : a.memoriesOk) : (a.modLedger job gen home f).memoriesOk := by
  unfold Aggregator.modLedger
  exact h.modLed

theorem openLedger {job gen home : Nat} (h : a.memoriesOk) : (a.openLedger job gen home).memoriesOk := by
  unfold Aggregator.openLedger
  exact .ite h h.modLed

theorem dropOldest (h : a.memoriesOk) : a.dropOldest.memoriesOk := by
  unfold Aggregator.dropOldest
  split
  · exact h
  · exact h.modLedger.raise

theorem makeRoom {job gen home : Nat} {r : LRec} {n : Nat} (h : a.memoriesOk) : (a.makeRoom job gen home r n).memoriesOk := by
  induction n generalizing a with
  | zero => exact h
  | succ n ih =>
    unfold Aggregator.makeRoom
    dsimp only
    split
    · exact h
    · exact ih h.dropOldest

theorem mirrorFrame {kind mseq : Nat} {resend : Bool} {payload : List Byte} (h : a.memoriesOk) :
    (a.mirrorFrame kind mseq resend payload).memoriesOk := by
  unfold Aggregator.mirrorFrame
  exact h.sendFrame

theorem mirrorSend {kind : Nat} {payload : List Byte} (h : a.memoriesOk) : (a.mirrorSend kind payload).memoriesOk := by
  unfold Aggregator.mirrorSend
  split
  · exact h
  · extract_lets n a1
    have h1 : a1.memoriesOk := h.modMir
    exact .ite h1.mirrorFrame h1

theorem putRec {job gen home : Nat} {r : LRec} (h : a.memoriesOk) : (a.putRec job gen home r).memoriesOk := by
  unfold Aggregator.putRec
  extract_lets a1
  have h1 : a1.memoriesOk := h.modLedger
  exact h1.showOcc.mirrorSend

theorem refuseRec {job gen home kind step : Nat} (h : a.memoriesOk) : (a.refuseRec job gen home kind step).memoriesOk := by
  unfold Aggregator.refuseRec
  exact h.modLedger.inc.raise

theorem appendRec {job gen kind flags step duid : Nat} {body : List Byte} {main : Bool} {home : Nat} (h : a.memoriesOk) :
    (a.appendRec job gen kind flags step duid body main home).memoriesOk := by
  unfold Aggregator.appendRec
  split
  · exact h
  · split
    · exact h
    · split
      · exact h.refuseRec
      · extract_lets late r a1
        have h1 : a1.memoriesOk := .ite h.inc.raise h
        exact h1.makeRoom.putRec

theorem appendFiled {j : JobCtx} {kind flags duid : Nat} {body : List Byte} (h : a.memoriesOk) :
    (a.appendFiled j kind flags duid body).memoriesOk := by
  unfold Aggregator.appendFiled
  exact h.appendRec

theorem mirrorContext {kind index : Nat} {image : List Byte} (h : a.memoriesOk) : (a.mirrorContext kind index image).memoriesOk := by
  unfold Aggregator.mirrorContext
  extract_lets k v
  exact h.modMir.mirrorSend

theorem mirrorReg {l : Nat} (h : a.memoriesOk) : (a.mirrorReg l).memoriesOk := by
  unfold Aggregator.mirrorReg
  exact h.mirrorContext

theorem mirrorJob {c : Nat} (h : a.memoriesOk) : (a.mirrorJob c).memoriesOk := by
  unfold Aggregator.mirrorJob
  exact .mirrorContext h

theorem frameCheck {lane : Nat} {l : List Byte} (h : a.memoriesOk) : (a.frameCheck lane l).2.memoriesOk := by
  unfold Aggregator.frameCheck
  split
  · exact h.inc.raise
  · split
    · exact h.inc
    · split
      · exact h.inc.raise
      · split
        · exact h
        · split
          · exact h.inc
          · exact h

theorem setPath {k : Nat} {p : CtlPath} (h : a.memoriesOk) : (a.setPath k p).memoriesOk := by
  unfold Aggregator.setPath
  exact h.modIng

theorem sendCtl {k : Nat} {f : CtlOutFrame} {resend : Bool} (h : a.memoriesOk) : (a.sendCtl k f resend).memoriesOk := by
  unfold Aggregator.sendCtl
  exact h.sendFrame

theorem pumpCtl {k n : Nat} (h : a.memoriesOk) : (a.pumpCtl k n).memoriesOk := by
  induction n generalizing a with
  | zero => exact h
  | succ n ih =>
    unfold Aggregator.pumpCtl
    dsimp only
    split
    · exact h
    · split
      · exact h
      · exact ih h.setPath.sendCtl

theorem control {k op : Nat} {payload : List Byte} {gtag : Nat} {cmd : Option Nat} (h : a.memoriesOk) :
    (a.control k op payload gtag cmd).memoriesOk := by
  unfold Aggregator.control
  extract_lets p
  exact h.setPath.pumpCtl

theorem regWrite {k : Nat} {ws : List (Nat × W64)} {gtag : Nat} {cmd : Option Nat} (h : a.memoriesOk) : (a.regWrite k ws gtag cmd).memoriesOk := by
  unfold Aggregator.regWrite
  refine .foldl h fun _ _ h => ?_
  extract_lets c
  exact h.control

theorem dropFrames {hit : Nat → Nat → Bool} (h : a.memoriesOk) : (a.dropFrames hit).memoriesOk := by
  unfold Aggregator.dropFrames
  extract_lets out
  refine .foldl h fun _ _ h => ?_
  extract_lets p
  exact h.setPath.pumpCtl

theorem retryCtl {k cseq : Nat} (h : a.memoriesOk) : (a.retryCtl k cseq).2.memoriesOk := by
  unfold Aggregator.retryCtl
  extract_lets p
  split
  · exact h
  · split
    · exact h
    · split
      · exact h.setPath.inc
      · extract_lets f1
        exact h.setPath.sendCtl

theorem ackCtl {k cseq status : Nat} (h : a.memoriesOk) : (a.ackCtl k cseq status).2.memoriesOk := by
  unfold Aggregator.ackCtl
  extract_lets p
  split
  · exact h
  · extract_lets p1
    exact h.setPath.pumpCtl

theorem armComplete {ctx : Nat} (h : a.memoriesOk) : (a.armComplete ctx).memoriesOk := by
  unfold Aggregator.armComplete
  split
  · exact h
  · exact .ite h h.wakeDomain.modJob.mirrorJob

theorem keepalive {k : Nat} (h : a.memoriesOk) : (a.keepalive k).memoriesOk := by
  unfold Aggregator.keepalive
  extract_lets p
  split
  · exact h
  · exact .ite h.sendFrame.setPath.sendCtl h.sendFrame.setPath

theorem regAnswer {mac : Nat} {body : List Byte} {kind result : Nat} {x : RegAccept} (h : a.memoriesOk) :
    (a.regAnswer mac body kind result x).memoriesOk := by
  unfold Aggregator.regAnswer
  exact h.sendFrame

theorem refuseReg {mac : Nat} {body : List Byte} {result : Nat} (h : a.memoriesOk) : (a.refuseReg mac body result).memoriesOk := by
  unfold Aggregator.refuseReg
  exact h.inc.raise.regAnswer

theorem acceptReg {mac : Nat} {body : List Byte} {duid : Nat} (h : a.memoriesOk) : (a.acceptReg mac body duid).memoriesOk := by
  unfold Aggregator.acceptReg
  extract_lets prot
  exact h.regAnswer

theorem freshStreams {l : Nat} (h : a.memoriesOk) : (a.freshStreams l).memoriesOk := by
  unfold Aggregator.freshStreams
  exact .foldl h fun _ _ h => h.modIng.setWord

theorem setReg {k state mac : Nat} (h : a.memoriesOk) : (a.setReg k state mac).memoriesOk := by
  unfold Aggregator.setReg
  extract_lets a1
  have h1 : a1.memoriesOk := h.set.set.set
  exact h1.setPath.mirrorReg

theorem registerRequestRx {mac : Nat} {l : List Byte} (h : a.memoriesOk) : (a.registerRequestRx mac l).memoriesOk := by
  unfold Aggregator.registerRequestRx
  split
  · exact h
  · split
    rename_i b hb
    have h1 := h.frameCheck.ofPair hb
    extract_lets b2
    split
    · exact h1
    · split
      · exact h1.refuseReg
      · exact .ite h1.refuseReg h1.setReg.freshStreams.acceptReg.regWrite

theorem takeover (h : a.memoriesOk) : a.takeover.memoriesOk := by
  unfold Aggregator.takeover
  exact .ite h h.modLed

theorem failoverRequestRx {mac : Nat} {l : List Byte} (h : a.memoriesOk) : (a.failoverRequestRx mac l).memoriesOk := by
  unfold Aggregator.failoverRequestRx
  split
  · exact h
  · split
    rename_i a1 hb
    have h1 := h.frameCheck.ofPair hb
    extract_lets b a2
    have h2 : a2.memoriesOk := .ite h1 h1.takeover
    split
    · exact h1
    · split
      · exact h1.refuseReg
      · split
        · exact h1.refuseReg
        · extract_lets a3
          have h3 : a3.memoriesOk := .ite h2 h2.setReg
          exact h3.acceptReg

theorem notice {n : Notice} (h : a.memoriesOk) : (a.notice n).memoriesOk := by
  unfold Aggregator.notice
  split
  · exact h
  · extract_lets b a1 a2
    have h1 : a1.memoriesOk := h.modHlt
    have h2 : a2.memoriesOk := h1.incWrap.raise.event
    exact .ite h2.report h2

theorem unitNotice {kind u cause count : Nat} {mandatory : Bool} (h : a.memoriesOk) : (a.unitNotice kind u cause count mandatory).memoriesOk := by
  unfold Aggregator.unitNotice
  exact h.notice

theorem setState {u st cause : Nat} (h : a.memoriesOk) : (a.setState u st cause).memoriesOk := by
  unfold Aggregator.setState
  extract_lets old
  exact .ite h h.set.unitNotice

theorem setFru {u st cause : Nat} (h : a.memoriesOk) : (a.setFru u st cause).memoriesOk := by
  unfold Aggregator.setFru
  exact .foldl h fun _ _ h => h.setState

theorem showPending (h : a.memoriesOk) : a.showPending.memoriesOk := by
  unfold Aggregator.showPending
  exact h.set

theorem unpend {u : Nat} (h : a.memoriesOk) : (a.unpend u).memoriesOk := by
  unfold Aggregator.unpend
  extract_lets us
  exact h.modHlt.showPending

theorem knellRequest {u cause : Nat} {mandatory : Bool} (h : a.memoriesOk) : (a.knellRequest u cause mandatory).memoriesOk := by
  unfold Aggregator.knellRequest
  extract_lets a1 a2 a3
  have h1 : a1.memoriesOk := h.unpend
  have h2 : a2.memoriesOk := .ite h1.inc h1.inc.set
  have h3 : a3.memoriesOk := h2.setFru
  exact h3.unitNotice.raise

theorem joinPending {u cause : Nat} (h : a.memoriesOk) : (a.joinPending u cause).memoriesOk := by
  unfold Aggregator.joinPending
  extract_lets us a1
  have h1 : a1.memoriesOk := h.raise
  exact .ite h1 h1.modHlt.showPending

theorem tryKnell {u cause : Nat} (h : a.memoriesOk) : (a.tryKnell u cause).memoriesOk := by
  unfold Aggregator.tryKnell
  split
  · exact h.unitNotice.setFru
  · exact .ite h.knellRequest h.joinPending

theorem knell {u cause : Nat} {mandatory : Bool} (h : a.memoriesOk) : (a.knell u cause mandatory).memoriesOk := by
  unfold Aggregator.knell
  extract_lets st
  split
  · exact h
  · split
    · exact h.modHlt.setFru.knellRequest
    · exact .ite h h.setFru.tryKnell

theorem fillPending (h : a.memoriesOk) : a.fillPending.memoriesOk := by
  unfold Aggregator.fillPending
  exact .foldl h fun _ _ h => .ite h.joinPending h

theorem sendPending {n : Nat} (h : a.memoriesOk) : (a.sendPending n).memoriesOk := by
  induction n generalizing a with
  | zero => exact h
  | succ n ih =>
    unfold Aggregator.sendPending
    split
    · exact h
    · split
      · exact ih h.knellRequest.fillPending
      · exact h

theorem withdrawKnell {u cause : Nat} (h : a.memoriesOk) : (a.withdrawKnell u cause).memoriesOk := by
  unfold Aggregator.withdrawKnell
  extract_lets a1
  have h1 : a1.memoriesOk := h.unitNotice.unpend
  exact .fillPending (.foldl h1 fun _ _ h => h.setState)

theorem evaluate {u cause : Nat} (h : a.memoriesOk) : (a.evaluate u cause).memoriesOk := by
  unfold Aggregator.evaluate
  extract_lets score a1 st
  have h1 : a1.memoriesOk := h.set
  split
  · exact h1
  · split
    · exact .ite h1.withdrawKnell h1
    · exact .ite h1.knell h1.setState

theorem evaluateAll (h : a.memoriesOk) : a.evaluateAll.memoriesOk := by
  unfold Aggregator.evaluateAll
  exact .foldl h fun _ _ h => h.evaluate

theorem appendEvent {job gen duid : Nat} {body : List Byte} (h : a.memoriesOk) : (a.appendEvent job gen duid body).memoriesOk := by
  unfold Aggregator.appendEvent
  split
  · exact h.appendFiled
  · exact h.appendRec

theorem charge {u code points : Nat} {c : Cause} (h : a.memoriesOk) : (a.charge u code points c).memoriesOk := by
  unfold Aggregator.charge
  split
  · exact h
  · extract_lets a1 a2 a3 a4
    have h1 : a1.memoriesOk := h.inc.set.incWrap
    have h2 : a2.memoriesOk := h1.recordLimited
    have h3 : a3.memoriesOk := .ite h2.appendEvent h2
    have h4 : a4.memoriesOk := h3.evaluate
    exact .ite h4.mirrorReg h4

theorem noteFault {u part code sev : Nat} (h : a.memoriesOk) : (a.noteFault u part code sev).memoriesOk := by
  unfold Aggregator.noteFault
  exact h.modHlt

theorem chargeReport {u part code sev : Nat} {c : Cause} (h : a.memoriesOk) : (a.chargeReport u part code sev c).memoriesOk := by
  unfold Aggregator.chargeReport
  extract_lets base prior a1
  have h1 : a1.memoriesOk := h.noteFault
  split
  · exact .ite h1 h1.charge
  · split
    · exact h1.charge
    · split
      · exact h1.charge
      · exact .ite h1.charge.knell h1.charge

theorem chargeReports {u part code sev : Nat} {c : Cause} {n : Nat} (h : a.memoriesOk) :
    (a.chargeReports u part code sev c n).memoriesOk := by
  induction n generalizing a with
  | zero => exact h
  | succ n ih => exact ih h.chargeReport

theorem drainCore {c next cause : Nat} (h : a.memoriesOk) : (a.drainCore c next cause).memoriesOk := by
  unfold Aggregator.drainCore
  extract_lets a1
  have h1 : a1.memoriesOk := h.modHlt
  exact h1.writePdCtrl.setState

theorem coreFault {c code points : Nat} {cause : Cause} (h : a.memoriesOk) : (a.coreFault c code points cause).memoriesOk := by
  unfold Aggregator.coreFault
  extract_lets u prior a1
  have h1 : a1.memoriesOk := h.noteFault.charge
  exact .ite h1.drainCore h1

theorem coreWakeFault {c : Nat} (h : a.memoriesOk) : (a.coreWakeFault c).2.memoriesOk := by
  unfold Aggregator.coreWakeFault
  extract_lets n
  exact h.modPwr.charge

theorem scoreDecay (h : a.memoriesOk) : a.scoreDecay.memoriesOk := by
  unfold Aggregator.scoreDecay
  split
  · exact h
  · extract_lets k a1 a2
    have h1 : a1.memoriesOk := h.modHlt
    have h2 : a2.memoriesOk := by
      unfold a2
      split
      · exact h1
      · refine .foldl h1 fun _ _ h => ?_
        extract_lets p
        exact .ite h h.set
    exact h2.evaluateAll

theorem budgetMode (h : a.memoriesOk) : a.budgetMode.memoriesOk := by
  unfold Aggregator.budgetMode
  extract_lets sp
  split
  · exact .foldl h.set.unitNotice.modHlt.showPending fun _ _ h => h.tryKnell
  · split
    · refine .foldl h.set.unitNotice fun _ _ h => ?_
      extract_lets c
      exact h.setFru.joinPending
    · exact h

theorem writeBudget {grant spares : Nat} (h : a.memoriesOk) : (a.writeBudget grant spares).memoriesOk := by
  unfold Aggregator.writeBudget
  extract_lets a1
  have h1 : a1.memoriesOk := h.set.set.budgetMode
  exact h1.sendPending

theorem knellConfirm {fru : Nat} (h : a.memoriesOk) : (a.knellConfirm fru).memoriesOk := by
  unfold Aggregator.knellConfirm
  exact .fillPending (.foldl h fun _ _ h => h.unpend.setState)

theorem knellRelease {fru : Nat} (h : a.memoriesOk) : (a.knellRelease fru).memoriesOk := by
  unfold Aggregator.knellRelease
  refine .fillPending (.foldl h fun _ _ h => ?_)
  extract_lets a0 a1 a2
  have h0 : a0.memoriesOk := h.unpend
  have h1 : a1.memoriesOk := .ite h0.setWord.mirrorReg h0
  have h2 : a2.memoriesOk := h1.set.set.set
  exact h2.modHlt.setState

theorem condSuspect {u cell ctx : Nat} {c : Cause} (h : a.memoriesOk) : (a.condSuspect u cell ctx c).memoriesOk := by
  unfold Aggregator.condSuspect
  extract_lets was step a1 a2
  have h1 : a1.memoriesOk := h.set.modHlt
  have h2 : a2.memoriesOk := h1.charge
  exact .ite h2 h2.notice

theorem condExpiry {u cell : Nat} (h : a.memoriesOk) : (a.condExpiry u cell).memoriesOk := by
  unfold Aggregator.condExpiry
  split
  · exact h
  · split
    · exact h
    · extract_lets hold
      exact .ite h.set.modHlt.notice h

theorem chargeDeviate {u cell : Nat} {c : Cause} (h : a.memoriesOk) : (a.chargeDeviate u cell c).memoriesOk := by
  unfold Aggregator.chargeDeviate
  extract_lets prior suspect a1 a2
  have h1 : a1.memoriesOk := h.noteFault.charge
  have h2 : a2.memoriesOk := .ite h1.modHlt h1
  exact .ite h2.knell h2

theorem resolveMismatch {duid sev : Nat} (h : a.memoriesOk) : (a.resolveMismatch duid sev).memoriesOk := by
  unfold Aggregator.resolveMismatch
  split
  · exact h
  · extract_lets a1
    have h1 : a1.memoriesOk := h.modHlt
    exact .ite h1 h1.notice

theorem resolveTimeout {duid : Nat} (h : a.memoriesOk) : (a.resolveTimeout duid).memoriesOk := by
  unfold Aggregator.resolveTimeout
  split
  · exact h
  · exact .ite h.resolveMismatch h

theorem takeReport {duid unit_ op code sev first repeats : Nat} {c : Cause} (h : a.memoriesOk) :
    (a.takeReport duid unit_ op code sev first repeats c).memoriesOk := by
  unfold Aggregator.takeReport
  extract_lets name
  split
  · exact h
  · exact .ite h.modHlt.resolveMismatch h.modHlt.chargeReports

theorem straggle {ctx duid : Nat} {hit : Bool} {score256 : Nat} (h : a.memoriesOk) : (a.straggle ctx duid hit score256).memoriesOk := by
  unfold Aggregator.straggle
  extract_lets n w cur win k stands send a1
  have h1 : a1.memoriesOk := h.modHlt
  exact .ite h1 h1.notice

theorem guestNotice {segment addr type : Nat} {payload : List Byte} (h : a.memoriesOk) : (a.guestNotice segment addr type payload).memoriesOk := by
  unfold Aggregator.guestNotice
  exact h.notice

theorem modInst {n : Nat} {f : Instance → Instance} (h : a.memoriesOk) : (a.modInst n f).memoriesOk := by
  unfold Aggregator.modInst
  exact h.modDet

theorem setCore {c : Nat} {k : Core} (h : a.memoriesOk) : (a.setCore c k).memoriesOk := by
  unfold Aggregator.setCore
  exact h.modDet

theorem queueRun {c : Nat} {r : Run} (h : a.memoriesOk) : (a.queueRun c r).memoriesOk := by
  unfold Aggregator.queueRun
  extract_lets k
  exact h.setCore.wakeDomain

theorem queueTray {ctx tp pealId duid state : Nat} (h : a.memoriesOk) : (a.queueTray ctx tp pealId duid state).2.memoriesOk := by
  unfold Aggregator.queueTray
  split
  · exact h
  · extract_lets cs
    split
    · split
      · exact h.queueRun
      · exact h
    · exact h

theorem queueEpoch {ctx tp pealId : Nat} {root partial_ : Bool} (h : a.memoriesOk) : (a.queueEpoch ctx tp pealId root partial_).memoriesOk := by
  unfold Aggregator.queueEpoch
  refine .foldl h fun _ _ h => ?_
  split
  split
  · exact h
  · split
    · split
      · exact h.inc.raise
      · split
        · exact h.queueRun
        · exact h
    · split
      · exact h.inc.raise
      · split
        · exact h.queueRun
        · exact h

theorem setStream {i : Nat} {s : StreamState} (h : a.memoriesOk) : (a.setStream i s).memoriesOk := by
  unfold Aggregator.setStream
  exact h.modIng

theorem setMeter {i : Nat} {m : Meter} (h : a.memoriesOk) : (a.setMeter i m).memoriesOk := by
  unfold Aggregator.setMeter
  exact h.modIng

theorem meterColor {i len : Nat} (h : a.memoriesOk) : (a.meterColor i len).2.memoriesOk := by
  unfold Aggregator.meterColor
  extract_lets m cost protect
  split
  · split
    · exact h.setMeter.incWrap
    · exact h.setMeter.incWrap.incWrap
  · split
    · split
      · exact h.setMeter.incWrap
      · exact h.setMeter.incWrap.incWrap
    · exact h.setMeter.incWrap

theorem meter {i len : Nat} (h : a.memoriesOk) : (a.meter i len).2.memoriesOk := by
  unfold Aggregator.meter
  split
  · exact h
  · exact .mirrorContext h.meterColor

theorem writeMeter {i w m : Nat} (h : a.memoriesOk) : (a.writeMeter i w m).memoriesOk := by
  unfold Aggregator.writeMeter
  split
  · exact h.setMeter.set.set
  · split
    · exact h
    · extract_lets was a1
      have h1 : a1.memoriesOk := h.setMeter.setWord
      exact .ite h1.setMeter h1
  · exact h

theorem mirrorStream {i : Nat} (h : a.memoriesOk) : (a.mirrorStream i).memoriesOk := by
  unfold Aggregator.mirrorStream
  exact h.mirrorContext

theorem countLost {i p : Nat} (h : a.memoriesOk) : (a.countLost i p).memoriesOk := by
  unfold Aggregator.countLost
  extract_lets lost a1 a2
  have h1 : a1.memoriesOk := h.set
  have h2 : a2.memoriesOk := .ite h1 h1.inc.inc.raise
  exact h2.mirrorStream

theorem pealBad {duid : Nat} {bytes : List Byte} (h : a.memoriesOk) : (a.pealBad duid bytes).memoriesOk := by
  unfold Aggregator.pealBad
  exact .ite h h

theorem takeFrags {i : Nat} {l : List Frag} (h : a.memoriesOk) : (a.takeFrags i l).memoriesOk := by
  unfold Aggregator.takeFrags
  refine .foldl h fun _ _ h => ?_
  extract_lets s
  split
  extract_lets a1
  have h1 : a1.memoriesOk := .foldl h.setStream fun _ _ h => h.pealBad
  exact .ite h1.countLost h1

theorem telemetryRx {l : List Byte} (h : a.memoriesOk) : (a.telemetryRx l).memoriesOk := by
  unfold Aggregator.telemetryRx
  split
  · exact h
  · extract_lets i
    clear_value i
    split
    rename_i accepted a1 hp
    have h1 : a1.memoriesOk := by
      refine .ofPair ?_ hp
      split
      · split
        · exact h.meter
        · exact h
      · exact h
    split
    · exact h1
    · split
      rename_i a2 hb
      have h2 := h1.frameCheck.ofPair hb
      split
      · exact h2
      · split
        · extract_lets s gap lost a3 a4
          have h4 : a4.memoriesOk := by
            unfold a4
            clear_value lost
            split
            · exact h2.setStream.pealBad
            · exact h2.setStream
          exact h4.takeFrags
        · exact h2.inc.raise
        · exact h2.inc.raise

theorem reasmTimeout {i : Nat} (h : a.memoriesOk) : (a.reasmTimeout i).memoriesOk := by
  unfold Aggregator.reasmTimeout
  split
  · exact .ite h.setStream.inc.pealBad h
  · exact h

end Aggregator.memoriesOk

end Sys2Proof.Machine
end ControlAndHealthMemories

section EpochAndAuditMemories
/-!
PROOFS. The memories of the aggregator keep their canonical form:
sealed steps, epochs, audits, sampling, parcels and broadcasts (chapters 10 to 13).
-/
namespace Sys2Proof.Machine

namespace Aggregator.memoriesOk

variable {a : Aggregator}

theorem diverge {ctx : Nat} {l : Ledger} {step : Nat} (h : a.memoriesOk) : (a.diverge ctx l step).memoriesOk := by
  unfold Aggregator.diverge
  split
  split
  · exact h
  · extract_lets agg job gen rstep mode
    split
    · exact h.inc.raise
    · exact .foldl h fun _ _ h => h.appendRec

theorem sealStep {ctx step : Nat} {forced : Bool} (h : a.memoriesOk) : (a.sealStep ctx step forced).memoriesOk := by
  unfold Aggregator.sealStep
  split
  · exact h
  · extract_lets home cov a1
    have h1 : a1.memoriesOk := .foldl h fun _ _ h => h.appendRec
    split
    · exact h
    · split
      · exact h
      · extract_lets a2 a3 l3 a4 a5
        have h3 : a3.memoriesOk := h1.appendRec.diverge
        have h5 : a5.memoriesOk := h3.appendRec.modLedger
        exact .ite h5.raise h5

theorem stepSeal {ctx step : Nat} (h : a.memoriesOk) : (a.stepSeal ctx step).memoriesOk := by
  unfold Aggregator.stepSeal
  split
  · exact h
  · split
    · exact .ite h.sealStep h
    · exact h

theorem forcedSeal {ctx step : Nat} (h : a.memoriesOk) : (a.forcedSeal ctx step).memoriesOk := by
  unfold Aggregator.forcedSeal
  split
  · exact h
  · split
    · exact .ite h.sealStep h
    · exact h

theorem sealAll {ctx : Nat} (h : a.memoriesOk) : (a.sealAll ctx).memoriesOk := by
  unfold Aggregator.sealAll
  split
  · exact .foldl h fun _ _ h => h.sealStep
  · exact h

theorem spillTo {job gen home step k : Nat} (h : a.memoriesOk) : (a.spillTo job gen home step k).memoriesOk := by
  unfold Aggregator.spillTo
  split
  · exact h
  · extract_lets st
    split
    · extract_lets req
      exact h.modLed.modLedger
    · exact h

theorem spillNow {job gen home step : Nat} (h : a.memoriesOk) : (a.spillNow job gen home step).memoriesOk := by
  unfold Aggregator.spillNow
  split
  · exact h
  · exact .ite h.spillTo h

theorem stepSpill {job gen home step : Nat} (h : a.memoriesOk) : (a.stepSpill job gen home step).memoriesOk := by
  unfold Aggregator.stepSpill
  split
  · exact h
  · extract_lets old full
    exact .ite h.spillNow h

theorem freeStep {job gen home step : Nat} (h : a.memoriesOk) : (a.freeStep job gen home step).memoriesOk := by
  unfold Aggregator.freeStep
  split
  · exact h
  · extract_lets st
    split
    · exact h
    · split
      · exact h
      · exact .ite h.modLedger.showOcc.mirrorSend h.modLedger.showOcc

theorem spillDone {job gen home step : Nat} (h : a.memoriesOk) : (a.spillDone job gen home step).memoriesOk := by
  unfold Aggregator.spillDone
  split
  · exact h
  · extract_lets st
    split
    · exact h
    · exact .freeStep (.ite h.modLedger.inc h.modLedger)

theorem spillRetry {job gen home step : Nat} (h : a.memoriesOk) : (a.spillRetry job gen home step).memoriesOk := by
  unfold Aggregator.spillRetry
  split
  · exact .ite h.spillTo.raise h
  · exact h

theorem modEpoch {ctx tp : Nat} {f : Epoch → Epoch} (h : a.memoriesOk) : (a.modEpoch ctx tp f).memoriesOk := by
  unfold Aggregator.modEpoch
  exact h.modJob

theorem appendEpoch {ctx : Nat} {j : JobCtx} {flags scope pealId tp : Nat} {expected : List Nat} {contrib : List Byte} (h : a.memoriesOk) :
    (a.appendEpoch ctx j flags scope pealId tp expected contrib).memoriesOk := by
  unfold Aggregator.appendEpoch
  exact h.appendRec

theorem countLate (h : a.memoriesOk) : a.countLate.memoriesOk := by
  unfold Aggregator.countLate
  exact h.inc.raise

theorem nextFseq {job gen dst : Nat} (h : a.memoriesOk) : (a.nextFseq job gen dst).2.memoriesOk := by
  unfold Aggregator.nextFseq
  extract_lets k n
  exact h.modIng

theorem treeFrame {ctx ftype dst : Nat} {body : List Byte} (h : a.memoriesOk) : (a.treeFrame ctx ftype dst body).memoriesOk := by
  unfold Aggregator.treeFrame
  split
  · exact h
  · exact h.modIng.sendFrame

theorem sendContrib {ctx dst level : Nat} {u : ContribOut} {resend : Bool} (h : a.memoriesOk) :
    (a.sendContrib ctx dst level u resend).memoriesOk := by
  unfold Aggregator.sendContrib
  refine .foldl h fun _ _ h => ?_
  extract_lets seg
  exact h.treeFrame

theorem closeSubtree {ctx : Nat} {j : JobCtx} {e : Epoch} {tray : List Byte} (h : a.memoriesOk) : (a.closeSubtree ctx j e tray).memoriesOk := by
  unfold Aggregator.closeSubtree
  extract_lets t own all c b a1 a2 a3 u a4
  have h2 : a2.memoriesOk := h.modJob.appendEpoch
  have h3 : a3.memoriesOk := .ite h2.inc.raise h2
  have h4 : a4.memoriesOk := .ite h3 h3.modJob.sendContrib
  exact h4.queueEpoch

theorem retireSwapped {ctx tp : Nat} (h : a.memoriesOk) : (a.retireSwapped ctx tp).memoriesOk := by
  unfold Aggregator.retireSwapped
  split
  · exact h
  · extract_lets due
    refine .foldl h fun _ _ h => ?_
    extract_lets a1
    have h1 : a1.memoriesOk := h.modJob
    split
    · exact .ite h1.control h1
    · exact h1

theorem closeTray {ctx tp : Nat} (h : a.memoriesOk) : (a.closeTray ctx tp).memoriesOk := by
  unfold Aggregator.closeTray
  exact h.modEpoch.retireSwapped

theorem encodeTray {ctx : Nat} {j : JobCtx} {e : Epoch} (h : a.memoriesOk) : (a.encodeTray ctx j e).memoriesOk := by
  unfold Aggregator.encodeTray
  extract_lets b a1
  have h1 : a1.memoriesOk := h.modEpoch.appendEpoch
  exact .foldl h1 fun _ _ h => .ite h h.straggle

theorem settleEpoch {ctx tp : Nat} (h : a.memoriesOk) : (a.settleEpoch ctx tp).memoriesOk := by
  unfold Aggregator.settleEpoch
  extract_lets look a1 a2
  have h1 : a1.memoriesOk := by
    unfold a1
    split
    · exact .ite h.closeTray h
    · exact h
  have h2 : a2.memoriesOk := by
    unfold a2
    split
    · exact .ite h1.encodeTray h1
    · exact h1
  split
  · split
    · extract_lets inn
      exact .ite h2.closeSubtree h2
    · exact h2
  · exact h2

theorem settleEpochs (h : a.memoriesOk) : a.settleEpochs.memoriesOk := by
  unfold Aggregator.settleEpochs
  split
  · exact h
  · exact .foldl h fun _ _ h => h.settleEpoch

theorem trayDeadline {ctx tp : Nat} (h : a.memoriesOk) : (a.trayDeadline ctx tp).memoriesOk := by
  unfold Aggregator.trayDeadline
  split
  · exact .ite h h.closeTray.settleEpoch
  · exact h

theorem subtreeDeadline {ctx tp : Nat} (h : a.memoriesOk) : (a.subtreeDeadline ctx tp).memoriesOk := by
  unfold Aggregator.subtreeDeadline
  split
  · split
    · exact h
    · extract_lets a1
      have h1 : a1.memoriesOk := h.modEpoch
      exact .settleEpoch (.ite h1 h1.closeTray)
  · exact h

theorem pealArmSend {ctx tp : Nat} (h : a.memoriesOk) : (a.pealArmSend ctx tp).memoriesOk := by
  unfold Aggregator.pealArmSend
  split
  · exact h
  · split
    · exact h
    · split
      · exact h
      · extract_lets exp bad states a1 a2
        have h1 : a1.memoriesOk := h.modJob
        have h2 : a2.memoriesOk := by
          unfold a2
          refine .foldl h1 fun _ _ h => ?_
          split
          · exact h.control
          · exact h
        exact .ite h2 h2.settleEpoch

theorem pealFailed {ctx tp duid : Nat} (h : a.memoriesOk) : (a.pealFailed ctx tp duid).memoriesOk := by
  unfold Aggregator.pealFailed
  exact h.modEpoch.settleEpochs

theorem takePeal {ctx duid : Nat} {l : List Byte} (h : a.memoriesOk) : (a.takePeal ctx duid l).2.memoriesOk := by
  unfold Aggregator.takePeal
  split
  · exact h
  · extract_lets desc tp flags
    split
    extract_lets snap a1 a2
    have h1 : a1.memoriesOk := h.modJob
    have h2 : a2.memoriesOk := .ite h1.trayDeadline h1
    split
    · split
      · exact h2.countLate
      · exact h2
    · split
      · exact h2.countLate
      · split
        · exact h2
        · split
          rename_i b hb
          have h12 := h2.queueTray.ofPair hb
          extract_lets a4
          have h4 : a4.memoriesOk := h12.modEpoch
          exact .ite h4 h4.settleEpoch

theorem treeStale (h : a.memoriesOk) : a.treeStale.memoriesOk := by
  unfold Aggregator.treeStale
  exact h.inc.raise

theorem takeChild {ctx child tp pealId : Nat} {b : List Byte} (h : a.memoriesOk) : (a.takeChild ctx child tp pealId b).memoriesOk := by
  unfold Aggregator.takeChild
  extract_lets a1
  have h1 : a1.memoriesOk := h.treeFrame
  split
  · exact h1
  · split
    · exact h1.modJob.countLate.appendEpoch
    · exact .ite h1.modJob.modJob h1.modJob.modJob.settleEpoch

theorem treeContribRx {l : List Byte} (h : a.memoriesOk) : (a.treeContribRx l).memoriesOk := by
  unfold Aggregator.treeContribRx
  split
  · exact h
  · split
    rename_i b hb
    have h1 := h.frameCheck.ofPair hb
    extract_lets b2 child tp pid
    split
    · exact h1
    · split
      · exact h1.treeStale
      · split
        · exact h1.treeFrame
        · extract_lets segs
          split
          · exact h1.takeChild
          · exact h1.modJob

theorem contribAckRx {l : List Byte} (h : a.memoriesOk) : (a.contribAckRx l).memoriesOk := by
  unfold Aggregator.contribAckRx
  split
  rename_i b hb
  have h1 := h.frameCheck.ofPair hb
  extract_lets b2
  split
  · exact h1
  · exact .ite h1.treeStale h1

theorem contribRetry {ctx tp : Nat} (h : a.memoriesOk) : (a.contribRetry ctx tp).memoriesOk := by
  unfold Aggregator.contribRetry
  split
  · exact h
  · extract_lets wait t
    split
    · exact h
    · exact .ite h.modJob h.modJob.sendContrib

theorem showStaged (h : a.memoriesOk) : a.showStaged.memoriesOk := by
  unfold Aggregator.showStaged
  exact h.set

theorem putTile {t : Tile} (h : a.memoriesOk) : (a.putTile t).memoriesOk := by
  unfold Aggregator.putTile
  exact h.modAud.showStaged

theorem dropTile {t : Tile} (h : a.memoriesOk) : (a.dropTile t).memoriesOk := by
  unfold Aggregator.dropTile
  exact h.modAud.showStaged

theorem applyTaint {n : List Byte} (h : a.memoriesOk) : (a.applyTaint n).memoriesOk := by
  unfold Aggregator.applyTaint
  extract_lets job gen first mark a1 a2
  have h1 : a1.memoriesOk := h
  have h2 : a2.memoriesOk := by
    unfold a2
    split
    · exact h1.mirrorJob
    · exact h1
  exact h2.appendRec

theorem modDie {ctx duid : Nat} {f : DieJob → DieJob} (h : a.memoriesOk) : (a.modDie ctx duid f).memoriesOk := by
  unfold Aggregator.modDie
  exact h.modJob

theorem windows {ctx step : Nat} {ds : List Nat} (h : a.memoriesOk) : (a.windows ctx step ds).memoriesOk := by
  unfold Aggregator.windows
  refine .foldl h fun _ _ h => ?_
  split
  · exact h
  · exact .foldl h.modDie fun _ _ h => h.raise.charge

theorem reach {h1 : Option Nat} {ctx : Nat} {j : JobCtx} (h : a.memoriesOk) : (a.reach h1 ctx j).memoriesOk := by
  unfold Aggregator.reach
  extract_lets n steps a1 a2 a3
  have h12 : a1.memoriesOk := h.modJob
  have h2 : a2.memoriesOk := h12.modLedger
  have h3 : a3.memoriesOk := .foldl h2 fun _ _ h => h.windows
  exact .ite h3 h3.mirrorJob

theorem updateHorizon {ctx : Nat} (h : a.memoriesOk) : (a.updateHorizon ctx).memoriesOk := by
  unfold Aggregator.updateHorizon
  split
  · exact h
  · extract_lets h2
    exact .foldl h fun _ _ h => h.reach

theorem verdict {t : Tile} {v reason : Nat} {d : Option Decided} (h : a.memoriesOk) : (a.verdict t v reason d).memoriesOk := by
  unfold Aggregator.verdict
  split
  extract_lets a0 near taints slack flags vseq core x body a1 a2 a3 a4 a5 a6 n a7 cause a8
  have h0 : a0.memoriesOk := .ite h h.draw
  have h1 : a1.memoriesOk := h0.dropTile.incWrap.inc
  have h2 : a2.memoriesOk := by
    unfold a2
    split
    · exact h1.raise
    · exact h1
  have h3 : a3.memoriesOk := .ite h2.inc.raise h2
  have h4 : a4.memoriesOk := .ite h3.inc.raise h3
  have h5 : a5.memoriesOk := by
    unfold a5
    split
    · exact h4.appendRec
    · split
      · exact h4.appendFiled
      · exact h4
  have h6 : a6.memoriesOk := by
    unfold a6
    split
    · exact h5
    · exact h5.modDie
  have h7 : a7.memoriesOk := .ite h6.applyTaint.inc.raise.event h6
  have h8 : a8.memoriesOk := by
    unfold a8
    split
    · exact h7.chargeDeviate
    · split
      · exact h7.charge
      · exact h7
  split
  · exact h8.updateHorizon
  · exact h8

theorem stage {t : Tile} {expired : Bool} (h : a.memoriesOk) : (a.stage t expired).memoriesOk := by
  unfold Aggregator.stage
  extract_lets a1
  have h1 : a1.memoriesOk := h.putTile
  split
  · exact h1
  · split
    · exact h1
    · exact h1.verdict
    · exact h1.putTile

theorem takeCapture {duid job gen seq : Nat} (h : a.memoriesOk) : (a.takeCapture duid job gen seq).2.memoriesOk := by
  unfold Aggregator.takeCapture
  split
  · exact h
  · split
    · exact h
    · extract_lets d ahead t
      split
      · exact h.wakeAudit.modDie
      · split
        · exact h.wakeAudit.modDie
        · split
          · exact h.wakeAudit
          · exact h

theorem takeChunk {duid : Nat} {r : List Byte} (h : a.memoriesOk) : (a.takeChunk duid r).memoriesOk := by
  unfold Aggregator.takeChunk
  split
  · rename_i b hb
    have h1 := h.takeCapture.ofPair hb
    exact h1
  · rename_i b hb
    have h1 := h.takeCapture.ofPair hb
    extract_lets part off data t1
    split
    · exact h1.putTile
    · exact .ite h1.stage h1.stage

theorem takeDesc {duid : Nat} {r : List Byte} (h : a.memoriesOk) : (a.takeDesc duid r).memoriesOk := by
  unfold Aggregator.takeDesc
  split
  · rename_i b hb
    have h1 := h.takeCapture.ofPair hb
    exact h1
  · rename_i b hb
    have h1 := h.takeCapture.ofPair hb
    split
    · exact h1.putTile
    · extract_lets t1 a2
      have h2 : a2.memoriesOk := by
        unfold a2
        split
        · exact h1.modDie
        · exact h1
      exact h2.stage

theorem stageExpiry {duid job gen seq : Nat} (h : a.memoriesOk) : (a.stageExpiry duid job gen seq).memoriesOk := by
  unfold Aggregator.stageExpiry
  split
  · exact .ite h.stage h
  · split
    · exact h
    · split
      · exact h
      · exact .ite h.modDie.verdict h

theorem dispatch {c : Nat} (h : a.memoriesOk) : (a.dispatch c).memoriesOk := by
  unfold Aggregator.dispatch
  split
  · exact h
  · split
    · exact h
    · split
      · exact h.wakeDomain
      · extract_lets st a1
        have h1 : a1.memoriesOk := h.putTile
        exact .ite h1 h1.modAud

theorem startExpiry {duid job gen seq : Nat} (h : a.memoriesOk) : (a.startExpiry duid job gen seq).memoriesOk := by
  unfold Aggregator.startExpiry
  split
  · exact h
  · exact .ite h.verdict h

theorem chargeXde {t : Tile} {v points c : Nat} (h : a.memoriesOk) : (a.chargeXde t v points c).memoriesOk := by
  unfold Aggregator.chargeXde
  exact h.inc.report.coreFault

theorem chargeXdes {t : Tile} {v points : Nat} {cs : List Nat} (h : a.memoriesOk) : (a.chargeXdes t v points cs).memoriesOk := by
  unfold Aggregator.chargeXdes
  exact .foldl h fun _ _ h => h.chargeXde

theorem auditorFault {t : Tile} {reason : Nat} (h : a.memoriesOk) : (a.auditorFault t reason).memoriesOk := by
  unfold Aggregator.auditorFault
  exact .chargeXdes (.verdict h)

theorem unservable {t : Tile} (h : a.memoriesOk) : (a.unservable t).memoriesOk := by
  unfold Aggregator.unservable
  split
  · exact h
  · split
    · exact h.verdict
    · exact h.verdict
    · exact h.auditorFault
    · exact h

theorem wantMore {t : Tile} {st : TileState} (h : a.memoriesOk) : (a.wantMore t st).memoriesOk := by
  unfold Aggregator.wantMore
  extract_lets t1
  exact h.putTile.unservable

theorem shadowChosen {t : Tile} (h : a.memoriesOk) : (a.shadowChosen t).2.memoriesOk := by
  unfold Aggregator.shadowChosen
  extract_lets n
  exact h

theorem resultIn {t : Tile} {c : Nat} {r : AuditResult} (h : a.memoriesOk) : (a.resultIn t c r).memoriesOk := by
  unfold Aggregator.resultIn
  extract_lets t1
  split
  · split
    · exact h.wantMore
    · split
      rename_i b hb
      have h1 := h.shadowChosen.ofPair hb
      exact .ite h1.wantMore h1.verdict
  · exact .ite h.verdict h.wantMore
  · exact .ite h.inc.verdict h.inc.wantMore
  · exact .ite h.verdict.chargeXde (.ite h.verdict.chargeXde h.auditorFault)
  · exact h

theorem auditComplete {c : Nat} {errs : List (Nat × Int × Int)} (h : a.memoriesOk) : (a.auditComplete c errs).memoriesOk := by
  unfold Aggregator.auditComplete
  split
  · exact h
  · split
    · exact h
    · exact .resultIn (.inc h)

theorem interruptAudit {c : Nat} (h : a.memoriesOk) : (a.interruptAudit c).memoriesOk := by
  unfold Aggregator.interruptAudit
  split
  · exact h
  · extract_lets t1
    exact h.putTile.inc.unservable

theorem engineFault {c : Nat} (h : a.memoriesOk) : (a.engineFault c).memoriesOk := by
  unfold Aggregator.engineFault
  exact .ite h h.interruptAudit.coreFault

theorem setMask {m : Nat} (h : a.memoriesOk) : (a.setMask m).memoriesOk := by
  unfold Aggregator.setMask
  extract_lets a1
  have h1 : a1.memoriesOk := h.set
  exact .foldl h1 fun _ _ h => h.unservable

theorem retireTiles {job gen home : Nat} (h : a.memoriesOk) : (a.retireTiles job gen home).memoriesOk := by
  unfold Aggregator.retireTiles
  exact .foldl h fun _ _ h => h.verdict

theorem resetCaptures (h : a.memoriesOk) : a.resetCaptures.memoriesOk := by
  unfold Aggregator.resetCaptures
  refine .foldl h fun _ _ h => ?_
  split
  · exact h
  · extract_lets done
    exact .foldl h fun _ _ h => h.verdict

theorem audBad (h : a.memoriesOk) : a.audBad.memoriesOk := by
  unfold Aggregator.audBad
  exact h.raise

theorem writeNumerics {e w m : Nat} (h : a.memoriesOk) : (a.writeNumerics e w m).memoriesOk := by
  unfold Aggregator.writeNumerics
  extract_lets key a1 a2
  have h1 : a1.memoriesOk := h.setWord
  have h2 : a2.memoriesOk := .ite h1 h1.set.audBad
  exact h2.mirrorContext

theorem writeAudCtrl {m : Nat} (h : a.memoriesOk) : (a.writeAudCtrl m).memoriesOk := by
  unfold Aggregator.writeAudCtrl
  extract_lets old sw
  exact .ite h.setWord h.setWord.audBad

theorem writeThr {ctx duid : Nat} {m : Store Nat} {before : List (Nat × W64)} (h : a.memoriesOk) : (a.writeThr ctx duid m before).memoriesOk := by
  unfold Aggregator.writeThr
  split
  · exact h
  · extract_lets f
    exact h.modDie.regWrite

theorem rethreshold {ctx : Nat} {evaluated : Bool} (h : a.memoriesOk) : (a.rethreshold ctx evaluated).memoriesOk := by
  unfold Aggregator.rethreshold
  split
  · exact h
  · split
    · exact h
    · extract_lets ds
      refine .foldl h fun _ _ h => ?_
      extract_lets mine
      refine .foldl (.ite h.inc.raise h) fun _ _ h => ?_
      extract_lets m
      exact .ite h h.writeThr

theorem ratesSend {ctx duid : Nat} (h : a.memoriesOk) : (a.ratesSend ctx duid).memoriesOk := by
  unfold Aggregator.ratesSend
  split
  · exact h
  · split
    · exact h
    · extract_lets d
      exact .ite h h.modDie.writeThr

theorem applyRates {ctx : Nat} {payload : List Byte} (h : a.memoriesOk) : (a.applyRates ctx payload).memoriesOk := by
  unfold Aggregator.applyRates
  extract_lets a1
  have h1 : a1.memoriesOk := h.modJob
  split
  · exact h1
  · exact .foldl h1.wakeAudit fun _ _ h => h.ratesSend

theorem sampleAdvance {ctx duid : Nat} (h : a.memoriesOk) : (a.sampleAdvance ctx duid).memoriesOk := by
  unfold Aggregator.sampleAdvance
  split
  · exact h
  · extract_lets d
    split
    · exact h
    · split
      · exact h.modDie.rethreshold
      · extract_lets win
        exact .ite h.modDie.rethreshold h.modDie.modDie.rethreshold

theorem sampleSuspect {ctx duid cell : Nat} (h : a.memoriesOk) : (a.sampleSuspect ctx duid cell).memoriesOk := by
  unfold Aggregator.sampleSuspect
  split
  · exact h
  · exact h.modDie.rethreshold

theorem rewriteDie {duid : Nat} (h : a.memoriesOk) : (a.rewriteDie duid).memoriesOk := by
  unfold Aggregator.rewriteDie
  refine .foldl h fun _ _ h => ?_
  split
  · exact .ite h.writeThr h
  · exact h

theorem rewriteThr (h : a.memoriesOk) : a.rewriteThr.memoriesOk := by
  unfold Aggregator.rewriteThr
  exact .foldl h fun _ _ h => h.rewriteDie

theorem releaseKey {k : Nat} (h : a.memoriesOk) : (a.releaseKey k).memoriesOk := by
  unfold Aggregator.releaseKey
  extract_lets a1
  have h1 : a1.memoriesOk := h.set.setPath
  exact .ite h1 h1.rewriteThr

theorem releaseAt {duid : Nat} (h : a.memoriesOk) : (a.releaseAt duid).memoriesOk := by
  unfold Aggregator.releaseAt
  split
  · exact h
  · split
    · exact h
    · extract_lets busy
      exact .ite h h.releaseKey

theorem readmitKey {step k : Nat} (h : a.memoriesOk) : (a.readmitKey step k).memoriesOk := by
  unfold Aggregator.readmitKey
  extract_lets a1 a2 duid
  have h1 : a1.memoriesOk := h.control
  have hduid : duid.memoriesOk := h1.setPath
  refine .foldl hduid fun _ _ h => ?_
  split
  · exact .ite h.modDie.regWrite h
  · exact h

theorem takeTrace {ctx duid : Nat} {seg : List Byte} (h : a.memoriesOk) : (a.takeTrace ctx duid seg).memoriesOk := by
  unfold Aggregator.takeTrace
  split
  · exact h
  · exact h.modInst

theorem takeGroup {duid : Nat} {g : List Byte} (h : a.memoriesOk) : (a.takeGroup duid g).memoriesOk := by
  unfold Aggregator.takeGroup
  extract_lets job gen step ver n
  refine .foldl h fun _ _ h => ?_
  extract_lets c entries
  exact h.appendRec

theorem takeLineage {duid : Nat} {rs : List (List Byte)} (h : a.memoriesOk) : (a.takeLineage duid rs).memoriesOk := by
  unfold Aggregator.takeLineage
  refine .foldl h fun _ _ h => ?_
  split
  · exact h
  · exact h.appendRec

theorem takeCoverage {duid : Nat} {r : List Byte} (h : a.memoriesOk) : (a.takeCoverage duid r).memoriesOk := by
  unfold Aggregator.takeCoverage
  extract_lets step
  split
  · exact h
  · extract_lets home a1 isSealed a2
    have h1 : a1.memoriesOk := h.modDie
    have h2 : a2.memoriesOk := by
      unfold a2
      split
      · split
        · exact h1.appendRec
        · exact h1
      · exact h1.modLedger
    exact h2.ratesSend.sampleAdvance.updateHorizon.releaseAt

theorem takeMismatch {duid : Nat} {r : List Byte} (h : a.memoriesOk) : (a.takeMismatch duid r).memoriesOk := by
  unfold Aggregator.takeMismatch
  exact h.appendRec.modHlt

theorem takeHealth {duid : Nat} {r : List Byte} (h : a.memoriesOk) : (a.takeHealth duid r).memoriesOk := by
  unfold Aggregator.takeHealth
  extract_lets job gen step a1
  have h1 : a1.memoriesOk := by
    unfold a1
    split
    · extract_lets d
      split
      · extract_lets w cell
        exact .ite h h.modDie
      · exact h
    · exact h
  exact h1.takeReport

theorem dumpIndex {job gen duid tensor step status : Nat} {blocks : List (Nat × Nat)} (h : a.memoriesOk) :
    (a.dumpIndex job gen duid tensor step status blocks).memoriesOk := by
  unfold Aggregator.dumpIndex
  extract_lets items
  refine .foldl h fun _ _ h => ?_
  extract_lets bs
  exact h.appendRec

theorem takeDump {duid : Nat} {r : List Byte} (h : a.memoriesOk) : (a.takeDump duid r).memoriesOk := by
  unfold Aggregator.takeDump
  extract_lets job gen fl step tensor
  split
  · exact h
  · extract_lets d sofar bs
    exact .ite h.modDie h.modDie.dumpIndex

theorem deliver {ctx duid : Nat} {l : List Byte} (h : a.memoriesOk) : (a.deliver ctx duid l).memoriesOk := by
  unfold Aggregator.deliver
  extract_lets pt rs each parcelRec
  have hrec {b : Aggregator} {late : Bool} (hb : b.memoriesOk) : (parcelRec b late).memoriesOk := by
    unfold parcelRec
    split
    · exact hb.appendFiled
    · exact hb
  clear_value pt
  split
  · exact hrec h.takePeal
  · exact hrec h
  · exact .foldl h fun _ _ h => h.takeTrace
  · exact .foldl h fun _ _ h => h.takeMismatch
  · exact .foldl h fun _ _ h => h.takeGroup
  · exact .foldl h fun _ _ h => h.takeCoverage
  · exact .foldl h fun _ _ h => h.takeChunk
  · exact .foldl h fun _ _ h => h.appendRec.takeDesc
  · exact .foldl h fun _ _ h => h.takeDump
  · exact h.takeLineage
  · exact .foldl h fun _ _ h => h.takeHealth
  · exact h

theorem pigeonhole {i : Nat} {l : List Byte} (h : a.memoriesOk) : (a.pigeonhole i l).2.memoriesOk := by
  unfold Aggregator.pigeonhole
  extract_lets p
  split
  · exact h
  · split
    · rename_i b hb
      have h1 := h.poolAlloc.ofPair hb
      exact h1
    · rename_i b hb
      have h1 := h.poolAlloc.ofPair hb
      extract_lets a2 q
      have h2 : a2.memoriesOk := h1.memWrite
      split
      · exact h2.poolFree
      · exact h2.poolGive.modIng

theorem parcelCheck {i : Nat} (h : a.memoriesOk) : (a.parcelCheck i).memoriesOk := by
  unfold Aggregator.parcelCheck
  split
  · exact h
  · extract_lets a1 duid
    have hduid : duid.memoriesOk := h.setStream
    split
    · exact hduid.inc.inc.raise.pealBad.settleEpochs
    · split
      · rename_i b hb
        have h1 := hduid.pigeonhole.ofPair hb
        exact h1.inc.raise
      · rename_i b hb
        have h1 := hduid.pigeonhole.ofPair hb
        exact h1.deliver

theorem onCtxs {cs : List Nat} {f : Nat → JobCtx → Aggregator → Aggregator} (h : a.memoriesOk)
    (hf : ∀ c j (a : Aggregator), a.memoriesOk → (f c j a).memoriesOk) : (a.onCtxs cs f).memoriesOk := by
  unfold Aggregator.onCtxs
  split
  · exact h.treeStale
  · refine .foldl h fun _ _ h => ?_
    split
    · exact hf _ _ _ h
    · exact h

theorem heartbeatTx {ctx : Nat} (h : a.memoriesOk) : (a.heartbeatTx ctx).memoriesOk := by
  unfold Aggregator.heartbeatTx
  split
  · exact h
  · split
    · exact h
    · extract_lets a1 a2
      have h1 : a1.memoriesOk := h.modJob
      have h2 : a2.memoriesOk := .foldl h1 fun _ _ h => h.treeFrame
      exact .foldl h2 fun _ _ h => h.treeFrame

theorem heartbeatRx {l : List Byte} (h : a.memoriesOk) : (a.heartbeatRx l).memoriesOk := by
  unfold Aggregator.heartbeatRx
  split
  rename_i b hb
  have h1 := h.frameCheck.ofPair hb
  extract_lets ft
  split
  · exact h1
  · exact h1.onCtxs fun _ _ _ h => h.modJob

theorem heartbeatLost {ctx peer : Nat} (h : a.memoriesOk) : (a.heartbeatLost ctx peer).memoriesOk := by
  unfold Aggregator.heartbeatLost
  split
  · exact h
  · extract_lets up down
    exact .ite h h.modJob.raise.report

theorem reparentEffect {ctx : Nat} (h : a.memoriesOk) : (a.reparentEffect ctx).memoriesOk := by
  unfold Aggregator.reparentEffect
  exact h.modJob

theorem sendBcast {ctx child : Nat} {backup resend : Bool} {b : Bcast} (h : a.memoriesOk) : (a.sendBcast ctx child backup resend b).memoriesOk := by
  unfold Aggregator.sendBcast
  refine .foldl h fun _ _ h => ?_
  extract_lets seg
  exact h.treeFrame

theorem modBcast {ctx bseq : Nat} {f : Bcast → Bcast} (h : a.memoriesOk) : (a.modBcast ctx bseq f).memoriesOk := by
  unfold Aggregator.modBcast
  exact h.modJob

theorem keepBcast {ctx : Nat} {b : Bcast} (h : a.memoriesOk) : (a.keepBcast ctx b).memoriesOk := by
  unfold Aggregator.keepBcast
  split
  · exact h
  · extract_lets down b1 a1
    have h1 : a1.memoriesOk := h.modJob
    exact .foldl h1 fun _ _ h => h.sendBcast

theorem ackUp {ctx bseq : Nat} (h : a.memoriesOk) : (a.ackUp ctx bseq).memoriesOk := by
  unfold Aggregator.ackUp
  split
  · exact h
  · exact .foldl h fun _ _ h => h.treeFrame

theorem checkComplete {ctx bseq : Nat} (h : a.memoriesOk) : (a.checkComplete ctx bseq).memoriesOk := by
  unfold Aggregator.checkComplete
  split
  · exact h
  · exact .ite h h.modBcast.report

theorem applySchedule {ctx bseq : Nat} {l : List Byte} (h : a.memoriesOk) : (a.applySchedule ctx bseq l).memoriesOk := by
  unfold Aggregator.applySchedule
  split
  · exact h
  · extract_lets period refused ps a1
    have h1 : a1.memoriesOk := h.modJob
    exact .ite h1.raise.report h1

theorem applyParams {ctx : Nat} {l : List Byte} (h : a.memoriesOk) : (a.applyParams ctx l).memoriesOk := by
  unfold Aggregator.applyParams
  extract_lets off len hit
  split
  · exact .ite h.modInst h.inc.raise
  · exact h.inc.raise

theorem applyReparent {ctx : Nat} {l : List Byte} (h : a.memoriesOk) : (a.applyReparent ctx l).memoriesOk := by
  unfold Aggregator.applyReparent
  split
  · exact h.modJob
  · exact h

theorem bcastEffect {ctx : Nat} {b : Bcast} (h : a.memoriesOk) : (a.bcastEffect ctx b).memoriesOk := by
  unfold Aggregator.bcastEffect
  split
  · exact h.applySchedule
  · exact h.applyRates
  · exact h.applyParams
  · exact h.applyTaint
  · exact h.applyReparent
  · exact h
  · exact h.modJob

theorem applyReady {ctx n : Nat} (h : a.memoriesOk) : (a.applyReady ctx n).memoriesOk := by
  induction n generalizing a with
  | zero => exact h
  | succ n ih =>
    unfold Aggregator.applyReady
    split
    · exact h.modJob
    · split
      · exact h
      · refine ih (.checkComplete (.ackUp ?_))
        split
        · exact .ite h.modJob.modBcast.bcastEffect.modJob.bcastEffect h.modJob.modBcast.bcastEffect
        · exact h.modJob.modBcast.bcastEffect

theorem bcastRx {want : Nat → Bool} {l : List Byte} (h : a.memoriesOk) : (a.bcastRx want l).memoriesOk := by
  unfold Aggregator.bcastRx
  extract_lets b
  split
  · exact h
  · split
    rename_i b2 hb
    have h1 := h.frameCheck.ofPair hb
    split
    · exact h1
    · refine h1.onCtxs fun _ _ _ h => ?_
      split
      · exact h
      · extract_lets cur p
        split
        · exact h.modJob
        · exact h.keepBcast.applyReady

theorem issueBcast {ctx bkind : Nat} {payload : List Byte} (h : a.memoriesOk) : (a.issueBcast ctx bkind payload).2.memoriesOk := by
  unfold Aggregator.issueBcast
  split
  · exact h
  · extract_lets seq
    exact h.keepBcast.applyReady

theorem bcRetry {ctx bseq child : Nat} (h : a.memoriesOk) : (a.bcRetry ctx bseq child).memoriesOk := by
  unfold Aggregator.bcRetry
  split
  · exact h
  · split
    · exact .ite h h.modBcast.sendBcast
    · exact h

theorem gapExpiry {ctx : Nat} (h : a.memoriesOk) : (a.gapExpiry ctx).memoriesOk := by
  unfold Aggregator.gapExpiry
  split
  · exact h
  · split
    · exact h
    · split
      · exact h
      · exact .foldl h.modJob fun _ _ h => h.inc.treeFrame

theorem nakRx {l : List Byte} (h : a.memoriesOk) : (a.nakRx l).memoriesOk := by
  unfold Aggregator.nakRx
  split
  rename_i b hb
  have h1 := h.frameCheck.ofPair hb
  extract_lets b2
  split
  · exact h1
  · refine h1.onCtxs fun _ _ _ h => ?_
    extract_lets backup oldest
    split
    · exact h.modJob
    · exact .foldl h fun _ _ h => h.sendBcast

theorem bcAckRx {l : List Byte} (h : a.memoriesOk) : (a.bcAckRx l).memoriesOk := by
  unfold Aggregator.bcAckRx
  split
  rename_i b hb
  have h1 := h.frameCheck.ofPair hb
  extract_lets b2
  split
  · exact h1
  · refine h1.onCtxs fun _ _ _ h => ?_
    split
    · exact h
    · extract_lets x1 a2 a3
      have h2 : a2.memoriesOk := h.modBcast
      have h3 : a3.memoriesOk := .ite h2.ackUp h2
      exact h3.checkComplete

theorem doneExpiry {ctx bseq : Nat} (h : a.memoriesOk) : (a.doneExpiry ctx bseq).memoriesOk := by
  unfold Aggregator.doneExpiry
  split
  · exact h
  · exact .ite h h.modBcast.report

end Aggregator.memoriesOk

end Sys2Proof.Machine
end EpochAndAuditMemories

section DetectorAndJobMemories
/-!
PROOFS. The memories of the aggregator keep their canonical form:
barriers and semaphores, detectors, jobs, and cores that drain or are scanned (chapters 9, 12 and 14).
-/
namespace Sys2Proof.Machine

namespace Aggregator.memoriesOk

variable {a : Aggregator}

theorem resume {engine status : Nat} (h : a.memoriesOk) : (a.resume engine status).memoriesOk := by
  unfold Aggregator.resume
  exact h.modDet

theorem resumeAll {engines : List Nat} {status : Nat} (h : a.memoriesOk) : (a.resumeAll engines status).memoriesOk := by
  unfold Aggregator.resumeAll
  exact .foldl h fun _ _ h => h.resume

theorem syncBusy (h : a.memoriesOk) : a.syncBusy.memoriesOk := by
  unfold Aggregator.syncBusy
  exact h.raise

theorem barLeave {b : Nat} (h : a.memoriesOk) : (a.barLeave b).memoriesOk := by
  unfold Aggregator.barLeave
  exact h.modSync

theorem barEnd {b : Nat} (h : a.memoriesOk) : (a.barEnd b).memoriesOk := by
  unfold Aggregator.barEnd
  exact h.barLeave.set.incWrap

theorem barrierTimeout {b cyc : Nat} (h : a.memoriesOk) : (a.barrierTimeout b cyc).memoriesOk := by
  unfold Aggregator.barrierTimeout
  exact .ite h.barLeave.set.resumeAll h

theorem arrive {b core ctx cyc : Nat} (h : a.memoriesOk) : (a.arrive b core ctx cyc).2.memoriesOk := by
  unfold Aggregator.arrive
  extract_lets a2 arr mask
  have h2 : a2.memoriesOk := h.barrierTimeout
  split
  · exact h2
  · split
    · exact h2
    · split
      · exact h2
      · split
        · exact h2
        · split
          · exact h2.set.modSync.modSync
          · exact h2.set.modSync

theorem barrierRelease {b cyc : Nat} (h : a.memoriesOk) : (a.barrierRelease b cyc).memoriesOk := by
  unfold Aggregator.barrierRelease
  split
  · exact .ite h.barEnd.resumeAll h
  · exact h

theorem barrierReset {b : Nat} (h : a.memoriesOk) : (a.barrierReset b).memoriesOk := by
  unfold Aggregator.barrierReset
  exact h.barEnd.set.resumeAll

theorem writeBarCfg {b m : Nat} (h : a.memoriesOk) : (a.writeBarCfg b m).memoriesOk := by
  unfold Aggregator.writeBarCfg
  exact .ite h.setWord h.syncBusy

theorem writeBarMask {b mask : Nat} (h : a.memoriesOk) : (a.writeBarMask b mask).memoriesOk := by
  unfold Aggregator.writeBarMask
  exact .ite h.syncBusy h.set

theorem setSemQ {s : Nat} {q : List SemWait} (h : a.memoriesOk) : (a.setSemQ s q).memoriesOk := by
  unfold Aggregator.setSemQ
  exact h.modSync.set

theorem semServe {s cyc : Nat} (h : a.memoriesOk) : (a.semServe s cyc).memoriesOk := by
  unfold Aggregator.semServe
  split
  exact .ite h h.set.setSemQ.modSync

theorem semLapse {s cyc n : Nat} (h : a.memoriesOk) : (a.semLapse s cyc n).memoriesOk := by
  induction n generalizing a with
  | zero => exact h
  | succ n ih =>
    unfold Aggregator.semLapse
    dsimp only
    split
    · exact h
    · exact ih h.setSemQ.resumeAll.semServe

theorem semLapsed {s cyc : Nat} (h : a.memoriesOk) : (a.semLapsed s cyc).memoriesOk := by
  unfold Aggregator.semLapsed
  exact h.semLapse

theorem judge {s : Nat} {y : SemCycle} (h : a.memoriesOk) : (a.judge s y).memoriesOk := by
  unfold Aggregator.judge
  split
  extract_lets a1 a2
  have h1 : a1.memoriesOk := h.set.setSemQ.modSync
  have h2 : a2.memoriesOk := .foldl h1 fun _ _ h => h.modDet
  exact .ite h2.raise h2

theorem semSignal {s n engine ctx cyc : Nat} (h : a.memoriesOk) : (a.semSignal s n engine ctx cyc).2.memoriesOk := by
  unfold Aggregator.semSignal
  split
  · exact h
  · extract_lets a2 n2 y
    have h2 : a2.memoriesOk := h.semLapsed
    exact h2.judge

theorem semOp {s ctx cyc : Nat} {o : SemOp} (h : a.memoriesOk) : (a.semOp s ctx cyc o).2.memoriesOk := by
  unfold Aggregator.semOp
  split
  · exact h
  · extract_lets a2 y due y1
    have h2 : a2.memoriesOk := h.semLapsed
    exact h2.judge

theorem semWait {s n t engine rd pc ctx cyc : Nat} (h : a.memoriesOk) : (a.semWait s n t engine rd pc ctx cyc).2.memoriesOk := by
  unfold Aggregator.semWait
  extract_lets t2
  exact h.semOp

theorem semTry {s n engine rd pc ctx cyc : Nat} (h : a.memoriesOk) : (a.semTry s n engine rd pc ctx cyc).2.memoriesOk := by
  unfold Aggregator.semTry
  exact h.semOp

theorem semRelease {engine cyc : Nat} (h : a.memoriesOk) : (a.semRelease engine cyc).memoriesOk := by
  unfold Aggregator.semRelease
  exact .ite h.modSync.resume h

theorem semExpire {s engine cyc : Nat} (h : a.memoriesOk) : (a.semExpire s engine cyc).memoriesOk := by
  unfold Aggregator.semExpire
  exact .ite h.semLapsed h

theorem semApart {s : Nat} (h : a.memoriesOk) : (a.semApart s).memoriesOk := by
  unfold Aggregator.semApart
  exact h.modSync

theorem writeSemVal {s v cyc : Nat} (h : a.memoriesOk) : (a.writeSemVal s v cyc).memoriesOk := by
  unfold Aggregator.writeSemVal
  exact h.semLapsed.semApart.set.semServe

theorem semReset {s : Nat} (h : a.memoriesOk) : (a.semReset s).memoriesOk := by
  unfold Aggregator.semReset
  extract_lets es
  exact h.semApart.set.setSemQ.resumeAll

theorem writeSemCfg {s m : Nat} (h : a.memoriesOk) : (a.writeSemCfg s m).memoriesOk := by
  unfold Aggregator.writeSemCfg
  extract_lets a1
  have h1 : a1.memoriesOk := .ite h.semReset h
  exact .ite h1.set.set h1.syncBusy

theorem withdraw {core : Nat} (h : a.memoriesOk) : (a.withdraw core).memoriesOk := by
  unfold Aggregator.withdraw
  extract_lets mine a1
  have h1 : a1.memoriesOk := h.modSync
  exact .foldl h1 fun _ _ h => .ite h.semApart.setSemQ.semServe h

theorem modRun {c : Nat} {f : Run → Run} (h : a.memoriesOk) : (a.modRun c f).memoriesOk := by
  unfold Aggregator.modRun
  extract_lets k
  split
  · exact h.setCore
  · exact h

theorem restraggle {ctx duid score256 : Nat} (h : a.memoriesOk) : (a.restraggle ctx duid score256).memoriesOk := by
  unfold Aggregator.restraggle
  exact h.modHlt.straggle

theorem stragglerEvent {r : Run} {duid : Nat} {score : F64} (h : a.memoriesOk) : (a.stragglerEvent r duid score).memoriesOk := by
  unfold Aggregator.stragglerEvent
  extract_lets counted a1
  have h1 : a1.memoriesOk := h.modEpoch
  exact .ite h1.restraggle h1.straggle

theorem healthEvent {r : Run} {j : JobCtx} {e : DetEvent} (h : a.memoriesOk) : (a.healthEvent r j e).memoriesOk := by
  unfold Aggregator.healthEvent
  split
  · exact h
  · extract_lets c
    split
    · exact h.charge.stragglerEvent
    · split
      · exact h.charge
      · split
        · exact h.charge
        · exact .ite h.condSuspect.sampleSuspect h

theorem eventLost (h : a.memoriesOk) : a.eventLost.memoriesOk := by
  unfold Aggregator.eventLost
  exact h.inc.raise

theorem putEvent {c : Nat} {e : DetEvent} (h : a.memoriesOk) : (a.putEvent c e).memoriesOk := by
  unfold Aggregator.putEvent
  split
  · exact h
  · split
    · split
      · exact h.eventLost
      · extract_lets b a1 a2 a3
        have h1 : a1.memoriesOk := h.modDet.modRun
        have h2 : a2.memoriesOk := h1.inc.appendEvent
        have h3 : a3.memoriesOk := h2.healthEvent
        exact .ite h3.event h3
    · exact h.eventLost

theorem trayEnded {r : Run} {outs : List (Option W64)} (h : a.memoriesOk) : (a.trayEnded r outs).memoriesOk := by
  unfold Aggregator.trayEnded
  split
  · exact h
  · extract_lets a1
    have h1 : a1.memoriesOk := h.modEpoch
    exact .ite h1 h1.settleEpoch

theorem dropRuns {n : Nat} (h : a.memoriesOk) : (a.dropRuns n).memoriesOk := by
  unfold Aggregator.dropRuns
  extract_lets gone a1
  have h1 : a1.memoriesOk := h.modDet
  exact .foldl h1 fun _ _ h => h.trayEnded

theorem freeSync {i : Instance} (h : a.memoriesOk) : (a.freeSync i).memoriesOk := by
  unfold Aggregator.freeSync
  extract_lets a1
  have h1 : a1.memoriesOk := .foldl h fun _ _ h => h.barrierReset.set.set
  exact .foldl h1 fun _ _ h => h.semReset.set

theorem removeInst {n : Nat} (h : a.memoriesOk) : (a.removeInst n).memoriesOk := by
  unfold Aggregator.removeInst
  split
  · exact h
  · exact h.dropRuns.freeSync.modDet

theorem endRun {c : Nat} {fault : Option (Nat × Nat)} (h : a.memoriesOk) : (a.endRun c fault).memoriesOk := by
  unfold Aggregator.endRun
  extract_lets k a0 a1
  have h1 : a1.memoriesOk := by
    refine .setCore ?_
    unfold a0
    split
    · exact h.withdraw
    · exact h
  split
  · exact h
  · extract_lets a2 a3 declared a4
    have h2 : a2.memoriesOk := h1.inc.modInst
    have h3 : a3.memoriesOk := by
      unfold a3
      split
      · exact h2
      · extract_lets b b1 succ b2
        have hb : b.memoriesOk := h2.set.set.set.set.inc
        have hb1 : b1.memoriesOk := .ite hb.inc hb
        have hb2 : b2.memoriesOk := hb1.raiseAll
        exact .ite hb2.modInst hb2
    have h4 : a4.memoriesOk := h3.trayEnded
    split
    · split
      · exact h4.removeInst
      · exact .ite h4.dropRuns h4
    · exact h4

theorem runStragglerTray {c : Nat} {r : Run} {params : List Byte} {value : Nat → Option F64} (h : a.memoriesOk) :
    (a.runStragglerTray c r params value).memoriesOk := by
  unfold Aggregator.runStragglerTray
  split
  · exact h
  · extract_lets out a1 median
    have h1 : a1.memoriesOk := h.modRun
    exact .ite h1.putEvent h1

theorem runBcast {c : Nat} {payload : List Byte} (h : a.memoriesOk) : (a.runBcast c payload).2.memoriesOk := by
  unfold Aggregator.runBcast
  split
  · exact h
  · split
    · split
      · exact .report h.modRun.issueBcast
      · exact h
    · exact h

theorem runStragglerRoot {c : Nat} {r : Run} {params contrib : List Byte} (h : a.memoriesOk) :
    (a.runStragglerRoot c r params contrib).2.memoriesOk := by
  unfold Aggregator.runStragglerRoot
  split
  · exact h
  · extract_lets slot baseJ
    split
    · split
      · exact h
      · split
        · exact h
        · extract_lets m v duid vb a1
          have h1 : a1.memoriesOk := .ite h.putEvent h
          split
          · exact h1
          · split
            · split
              · rename_i b hb
                have h12 := h1.runBcast.ofPair hb
                exact h12
              · rename_i b hb
                have h12 := h1.runBcast.ofPair hb
                exact h12
            · exact h1
    · exact h

theorem setLib {n k : Nat} {s : LibState} (h : a.memoriesOk) : (a.setLib n k s).memoriesOk := by
  unfold Aggregator.setLib
  exact h.modInst

theorem drawRefScore (h : a.memoriesOk) : a.drawRefScore.2.memoriesOk := by
  unfold Aggregator.drawRefScore
  exact h

theorem driftSeries {c : Nat} {r : Run} {key s : Nat} {params : List Byte} {x : F64} (h : a.memoriesOk) :
    (a.driftSeries c r key s params x).memoriesOk := by
  unfold Aggregator.driftSeries
  extract_lets _ _ _ _ _ _ _ _ _ _ _ _ _ _ _ _ _ _ fire a1
  have hfire {b : Aggregator} (hb : b.memoriesOk) (hit : Bool) (kind : Nat) : (fire b hit kind).memoriesOk :=
    .ite hb hb.drawRefScore.putEvent
  exact .ite h.setLib (hfire (hfire (hfire h.setLib.modRun _ _) _ _) _ _)

theorem watched {params : List Byte} {value : Nat → Option F64} {f : Aggregator → Nat → F64 → Aggregator} (h : a.memoriesOk)
    (hf : ∀ (a : Aggregator) s x, a.memoriesOk → (f a s x).memoriesOk) : (a.watched params value f).memoriesOk := by
  refine .foldl h fun _ _ h => ?_
  split
  · exact hf _ _ _ h
  · exact h

theorem spikeSeries {c : Nat} {r : Run} {key s : Nat} {params : List Byte} {x : F64} (h : a.memoriesOk) :
    (a.spikeSeries c r key s params x).memoriesOk := by
  unfold Aggregator.spikeSeries
  extract_lets win kk s0 raise_ w next m d sd zero first second a1 a2
  have hraise {b : Aggregator} (hb : b.memoriesOk) (score : Option Nat) : (raise_ b score).memoriesOk :=
    hb.drawRefScore.putEvent
  have h2 : a2.memoriesOk := .ite h.setLib h.setLib.modRun
  exact .ite (hraise h _) (.ite h.setLib (.ite (hraise h2 _) h2))

theorem condCell {c : Nat} {r : Run} {key duid cell : Nat} {params : List Byte} {row : List CellRow} (h : a.memoriesOk) :
    (a.condCell c r key duid cell params row).memoriesOk := by
  unfold Aggregator.condCell
  extract_lets x sum eMin thr half floor_ ev kk gA gH s hit fireA fireH s1 fire a1
  have hfire {b : Aggregator} (hb : b.memoriesOk) (on : Bool) (g : F64) : (fire b on g).memoriesOk :=
    .ite hb hb.draw.putEvent
  have h1 : a1.memoriesOk := .ite h h.setLib
  exact hfire (hfire h1 _ _) _ _

theorem runCondition {c : Nat} {r : Run} {params : List Byte} (h : a.memoriesOk) : (a.runCondition c r params).memoriesOk := by
  unfold Aggregator.runCondition
  exact .foldl h fun _ _ h => .foldl h fun _ _ h => h.condCell

theorem fillAreas {c : Nat} {r : Run} {i : Instance} {m : DetImage} {x : RunInput} (h : a.memoriesOk) :
    (a.fillAreas c r i m x).memoriesOk := by
  unfold Aggregator.fillAreas
  extract_lets put a1 a2 a3 a4
  have h2 : a2.memoriesOk := h.poke.poke
  have h3 : a3.memoriesOk := by
    unfold a3
    split
    · extract_lets b
      have hb : b.memoriesOk := h2.poke.poke
      split
      · exact hb.poke
      · exact hb
    · exact h2.poke
  exact .foldl (h3.withMem (memClear_wf _ _ _ h3.1)) fun _ _ h => h.poke

theorem runLibrary {c : Nat} {r : Run} {k : LibKind} {x : RunInput} (h : a.memoriesOk) : (a.runLibrary c r k x).memoriesOk := by
  unfold Aggregator.runLibrary
  extract_lets value key
  split
  · exact h.runStragglerTray.endRun
  · exact .endRun (h.watched fun _ _ _ h => h.driftSeries)
  · exact .endRun (h.watched fun _ _ _ h => h.spikeSeries)
  · exact h.runCondition.endRun
  · refine .endRun ?_
    split
    · exact h
    · extract_lets slot baseJ
      split
      · split
        · exact h
        · split
          · exact h
          · extract_lets m v duid vb a1
            have h1 : a1.memoriesOk := .ite h.putEvent h
            split
            · exact h1
            · split
              · split
                · rename_i b hb
                  have h12 := h1.runBcast.ofPair hb
                  exact h12
                · rename_i b hb
                  have h12 := h1.runBcast.ofPair hb
                  exact h12
              · exact h1
      · exact h

theorem startRun {c : Nat} {tray : Bool} (h : a.memoriesOk) : (a.startRun c tray).memoriesOk := by
  unfold Aggregator.startRun
  extract_lets k
  split
  · split
    · exact h
    · split
      · exact h.setCore.trayEnded
      · split
        · extract_lets a1
          have h1 : a1.memoriesOk := h.setCore.trayEnded
          exact .ite h1.removeInst h1
        · extract_lets i1 a1 x
          have h1 : a1.memoriesOk := h.modInst
          split
          extract_lets r1 k1 a2
          have h2 : a2.memoriesOk := h1.setCore.fillAreas
          split
          · exact h2.runLibrary
          · exact h2
  · exact h

theorem runBudget {c cyc : Nat} (h : a.memoriesOk) : (a.runBudget c cyc).memoriesOk := by
  unfold Aggregator.runBudget
  split
  · exact .ite h.endRun h
  · exact h

theorem armDie {j : JobCtx} {k gtag serial : Nat} (h : a.memoriesOk) : (a.armDie j k gtag serial).memoriesOk := by
  unfold Aggregator.armDie
  exact h.control.control.control.regWrite

theorem armJob {serial gtag job gen : Nat} {l : List Byte} (h : a.memoriesOk) : (a.armJob serial gtag job gen l).2.memoriesOk := by
  unfold Aggregator.armJob
  split
  · split
    rename_i b hb
    have h1 := h.draw.ofPair hb
    extract_lets j served failed a2 a3 a4 a5
    have h2 : a2.memoriesOk := .openLedger h1
    have h3 : a3.memoriesOk := h2.modLedger.appendRec
    have h4 : a4.memoriesOk := by
      unfold a4
      refine .foldl h3 fun _ _ h => ?_
      split
      · exact h.armDie
      · exact h
    have h5 : a5.memoriesOk := h4.mirrorJob
    split
    · exact h5.armComplete
    · exact h5
  · exact h
  · exact h

theorem armFailed {ctx duid : Nat} (h : a.memoriesOk) : (a.armFailed ctx duid).memoriesOk := by
  unfold Aggregator.armFailed
  exact h.modJob

theorem beginDrain {ctx : Nat} (h : a.memoriesOk) : (a.beginDrain ctx).memoriesOk := by
  unfold Aggregator.beginDrain
  exact h.modJob

theorem retireJob {serial gtag job gen : Nat} (h : a.memoriesOk) : (a.retireJob serial gtag job gen).2.memoriesOk := by
  unfold Aggregator.retireJob
  split
  · exact h
  · split
    · exact h
    · extract_lets dies a1 a2
      have h1 : a1.memoriesOk := h.modJob.mirrorJob
      have h2 : a2.memoriesOk := by
        unfold a2
        refine .foldl h1 fun _ _ h => ?_
        split
        · exact h.control
        · exact h
      split
      · exact h2.beginDrain
      · exact h2

theorem forceClose {ctx tp : Nat} (h : a.memoriesOk) : (a.forceClose ctx tp).memoriesOk := by
  unfold Aggregator.forceClose
  split
  · exact h
  · extract_lets a1
    have h1 : a1.memoriesOk := h.modEpoch
    split
    · exact .settleEpoch (.ite h1 h1.closeTray)
    · exact h1

theorem retireDrain {ctx : Nat} (h : a.memoriesOk) : (a.retireDrain ctx).2.memoriesOk := by
  unfold Aggregator.retireDrain
  split
  · exact h
  · split
    · exact h
    · split
      · exact h
      · extract_lets a1
        have h1 : a1.memoriesOk := .foldl h fun _ _ h => h.forceClose
        exact h1.modJob.mirrorJob

theorem dropFseq {job gen : Nat} (h : a.memoriesOk) : (a.dropFseq job gen).memoriesOk := by
  unfold Aggregator.dropFseq
  exact .ite h h.modIng

theorem dropLedger {job gen home : Nat} (h : a.memoriesOk) : (a.dropLedger job gen home).memoriesOk := by
  unfold Aggregator.dropLedger
  exact .ite h h.modLed.showOcc

theorem quarantineEnd {ctx : Nat} (h : a.memoriesOk) : (a.quarantineEnd ctx).memoriesOk := by
  unfold Aggregator.quarantineEnd
  split
  · exact h
  · split
    · exact h
    · extract_lets home a1 steps a2 a3
      have h1 : a1.memoriesOk := h.retireTiles.sealAll
      have h2 : a2.memoriesOk := .foldl h1 fun _ _ h => h.spillNow
      have h3 : a3.memoriesOk := h2
      exact h3.modDet.mirrorJob.dropLedger.dropFseq

theorem settleFrees (h : a.memoriesOk) : a.settleFrees.memoriesOk := by
  unfold Aggregator.settleFrees
  exact .foldl h fun _ _ h => .foldl h fun _ _ h => h.freeStep.dropLedger

theorem spillWriteDone {job gen home step : Nat} (h : a.memoriesOk) : (a.spillWriteDone job gen home step).memoriesOk := by
  unfold Aggregator.spillWriteDone
  exact h.spillDone.dropLedger

theorem mirrorImage {i : DetImage} (h : a.memoriesOk) : (a.mirrorImage i).memoriesOk := by
  unfold Aggregator.mirrorImage
  exact .foldl h fun _ _ h => h.mirrorSend

theorem detImageLoad {addr : Nat} (h : a.memoriesOk) : (a.detImageLoad addr).2.memoriesOk := by
  unfold Aggregator.detImageLoad
  split
  · exact h
  · split
    extract_lets result
    split
    · exact h.modDet.mirrorImage
    · exact h.raise

theorem detImageFree {slot : Nat} (h : a.memoriesOk) : (a.detImageFree slot).2.memoriesOk := by
  unfold Aggregator.detImageFree
  split
  · exact h
  · split
    · exact h
    · exact h.modDet

theorem installInst {n : Nat} {i : Instance} {m : DetImage} (h : a.memoriesOk) : (a.installInst n i m).memoriesOk := by
  unfold Aggregator.installInst
  extract_lets dataAt set mem1 mem2 a1 a2 a3
  have hmem1 : Memory.wf mem1 = true := memFold_wf h.1 fun _ _ h => memPut_wf _ _ _ (memPut_wf _ _ _ (memClear_wf _ _ _ h))
  have hmem2 : Memory.wf mem2 = true := memClear_wf _ _ _ (memClear_wf _ _ _ (memClear_wf _ _ _ hmem1))
  have h1 : a1.memoriesOk := (h.withMem hmem2).hbmTouch.hbmTouch
  have h2 : a2.memoriesOk := .foldl h1 fun _ _ h => h.set.set.set
  have h3 : a3.memoriesOk := .foldl h2 fun _ _ h => h.set.set
  exact h3.modDet

theorem detBind {job gen slot bind cores : Nat} (h : a.memoriesOk) : (a.detBind job gen slot bind cores).2.memoriesOk := by
  unfold Aggregator.detBind
  split
  · exact h
  · split
    · exact h
    · split
      · exact h
      · split
        · exact h
        · split
          · exact h
          · extract_lets old a0
            have h0 : a0.memoriesOk := by
              unfold a0
              clear_value old
              split
              · exact h.removeInst
              · exact h
            split
            · exact h0.installInst.mirrorJob
            · exact h.raise

theorem detUnbind {job gen bind : Nat} (h : a.memoriesOk) : (a.detUnbind job gen bind).2.memoriesOk := by
  unfold Aggregator.detUnbind
  split
  · exact h
  · split
    · exact h
    · extract_lets a1
      have h1 : a1.memoriesOk := h.modInst
      exact .mirrorJob (.ite h1 h1.removeInst)

theorem tocSend {seg dst type : Nat} {payload : List Byte} (h : a.memoriesOk) : (a.tocSend seg dst type payload).memoriesOk := by
  unfold Aggregator.tocSend
  exact h.withToc

theorem announceReset {code reason : Nat} (h : a.memoriesOk) : (a.announceReset code reason).memoriesOk := by
  unfold Aggregator.announceReset
  split
  · exact h
  · extract_lets p a1
    have h1 : a1.memoriesOk := .foldl h fun _ _ h => h.tocSend.tocSend
    exact h1.modHlt

theorem fatal {code points reason : Nat} (h : a.memoriesOk) : (a.fatal code points reason).memoriesOk := by
  unfold Aggregator.fatal
  split
  · exact h
  · extract_lets a1
    have h1 : a1.memoriesOk := .ite h.charge h.recordLimited
    exact h1.announceReset

theorem memoryError (h : a.memoriesOk) : a.memoryError.memoriesOk := by
  unfold Aggregator.memoryError
  exact h.fatal

theorem memoryUe {addr : Nat} (h : a.memoriesOk) : (a.memoryUe addr).memoriesOk := by
  unfold Aggregator.memoryUe
  exact .ite h.modPwr.memoryError h

theorem bridgeFatal (h : a.memoriesOk) : a.bridgeFatal.memoriesOk := by
  unfold Aggregator.bridgeFatal
  exact h.fatal

theorem watchdog (h : a.memoriesOk) : a.watchdog.memoriesOk := by
  unfold Aggregator.watchdog
  exact h.fatal

theorem chipResetCause {code : Nat} (h : a.memoriesOk) : (a.chipResetCause code).memoriesOk := by
  unfold Aggregator.chipResetCause
  split
  · exact h.memoryError
  · split
    · exact h.bridgeFatal
    · split
      · exact h.watchdog
      · exact .ite h.fatal h

theorem memoryCorrected {hbm : Bool} {n : Nat} (h : a.memoriesOk) : (a.memoryCorrected hbm n).memoriesOk := by
  unfold Aggregator.memoryCorrected
  split
  · exact .ite h.inc.charge h
  · exact .ite h.modPwr.charge h

theorem bridgeReplay {bridge : Nat} (h : a.memoriesOk) : (a.bridgeReplay bridge).memoriesOk := by
  unfold Aggregator.bridgeReplay
  split
  · exact h.inc
  · exact h.inc
  · exact h.inc
  · exact h

theorem patrolScrub {stack : Nat} (h : a.memoriesOk) : (a.patrolScrub stack).memoriesOk := by
  unfold Aggregator.patrolScrub
  exact .ite h.modPwr.wakeDomain h

theorem rescore {u cause : Nat} (h : a.memoriesOk) : (a.rescore u cause).memoriesOk := by
  unfold Aggregator.rescore
  exact h.setState

theorem leaveBarrier {b c : Nat} (h : a.memoriesOk) : (a.leaveBarrier b c).memoriesOk := by
  unfold Aggregator.leaveBarrier
  extract_lets mask
  split
  · exact h
  · split
    · exact h.set.set
    · exact .ite h.set.modSync h.set

theorem leaveSemaphores {c : Nat} (h : a.memoriesOk) : (a.leaveSemaphores c).memoriesOk := by
  unfold Aggregator.leaveSemaphores
  refine .foldl h fun _ _ h => ?_
  extract_lets mine
  exact .ite h h.semApart.setSemQ.resumeAll.semServe

theorem mappedOut {c : Nat} (h : a.memoriesOk) : (a.mappedOut c).memoriesOk := by
  unfold Aggregator.mappedOut
  extract_lets u cause a1 a2 a3 a4
  have h1 : a1.memoriesOk := .ite h.setMask h
  have h2 : a2.memoriesOk := .foldl h1 fun _ _ h => h.leaveBarrier
  have h3 : a3.memoriesOk := h2.leaveSemaphores.raise
  have h4 : a4.memoriesOk := h3.setState.unitNotice.unitNotice
  exact .ite h4.knell h4

theorem suspendBare (h : a.memoriesOk) : a.suspendBare.memoriesOk := by
  unfold Aggregator.suspendBare
  exact .foldl h fun _ _ h => .ite h h.modInst.raise.dropRuns

theorem wantMapOut {c : Nat} (h : a.memoriesOk) : (a.wantMapOut c).memoriesOk := by
  unfold Aggregator.wantMapOut
  split
  · extract_lets a1
    have h1 : a1.memoriesOk := h.set.mapOut
    exact .ite h1.mappedOut h1
  · exact h.unitNotice

theorem afterDrained {c : Nat} (h : a.memoriesOk) : (a.afterDrained c).memoriesOk := by
  unfold Aggregator.afterDrained
  extract_lets u a1
  have h1 : a1.memoriesOk := h.suspendBare.modHlt
  split
  · exact h1.mappedOut
  · split
    · exact h1.wantMapOut
    · exact .ite h1 h1.rescore

theorem drainDone {c : Nat} (h : a.memoriesOk) : (a.drainDone c).memoriesOk := by
  unfold Aggregator.drainDone
  extract_lets a1
  have h1 : a1.memoriesOk := h.coreDrained
  exact .ite h h1.afterDrained

theorem writePd {k m : Nat} (h : a.memoriesOk) : (a.writePd k m).memoriesOk := by
  unfold Aggregator.writePd
  extract_lets a1
  have h1 : a1.memoriesOk := h.writePdCtrl.modPwr
  split
  · exact h1.mappedOut
  · exact .ite h1.rescore h1

theorem wakeFail {k : Nat} (h : a.memoriesOk) : (a.wakeFail k).memoriesOk := by
  unfold Aggregator.wakeFail
  split
  · exact h
  · extract_lets off
    split
    · exact h
    · split
      · split
        rename_i b hb
        have h1 := h.setAd.modPwr.raise.record.coreWakeFault.ofPair hb
        exact .ite h1 h1.set.setAd.modHlt.afterDrained
      · exact h.setAd.modPwr.raise.record.fatal
      · exact h.setAd.modPwr.raise.record.fatal
      · exact h.setAd.modPwr.raise.record.report

theorem requestScan {c : Nat} (h : a.memoriesOk) : (a.requestScan c).memoriesOk := by
  unfold Aggregator.requestScan
  extract_lets a1
  have h1 : a1.memoriesOk := h.modPwr.modHlt
  exact .ite h1 h1.drainCore

theorem modScan {c : Nat} {f : Scan → Scan} (h : a.memoriesOk) : (a.modScan c f).memoriesOk := by
  unfold Aggregator.modScan
  exact h.modHlt

theorem scanStart (h : a.memoriesOk) : a.scanStart.memoriesOk := by
  unfold Aggregator.scanStart
  extract_lets running
  split
  · exact h
  · exact .ite h h.modScan.showPower.inc.setState

theorem wipeCore {c : Nat} (h : a.memoriesOk) : (a.wipeCore c).memoriesOk := by
  unfold Aggregator.wipeCore
  exact (h.withMem (memClear_wf _ _ _ h.1)).modDet

theorem scanComplete {c fails : Nat} (h : a.memoriesOk) : (a.scanComplete c fails).memoriesOk := by
  unfold Aggregator.scanComplete
  split
  · exact h
  · extract_lets u drop a1
    have hdrop {b : Aggregator} (hb : b.memoriesOk) : (drop b).memoriesOk := hb.modHlt.showPower
    have h1 : a1.memoriesOk := h.wipeCore.unitNotice
    split
    · exact .ite (hdrop h1).rescore (hdrop h1).writePdCtrl.rescore
    · exact .ite h1.charge.raise.modScan.showPower (hdrop h1.charge.raise).wantMapOut

theorem calCharge {ok : Bool} {code : Nat} (h : a.memoriesOk) : (a.calCharge ok code).memoriesOk := by
  unfold Aggregator.calCharge
  exact .ite h h.charge

theorem calFanout {ok : Bool} (h : a.memoriesOk) : (a.calFanout ok).memoriesOk := by
  unfold Aggregator.calFanout
  exact .ite h h.modPwr.calCharge

theorem calBridge {ok : Bool} (h : a.memoriesOk) : (a.calBridge ok).memoriesOk := by
  unfold Aggregator.calBridge
  exact .ite h h.modPwr.calCharge

theorem calSensor {ok : Bool} (h : a.memoriesOk) : (a.calSensor ok).memoriesOk := by
  unfold Aggregator.calSensor
  exact .ite h h.modPwr.calCharge

theorem calHbm {ok : Bool} (h : a.memoriesOk) : (a.calHbm ok).memoriesOk := by
  unfold Aggregator.calHbm
  exact h.modPwr.calCharge

theorem shedLoad (h : a.memoriesOk) : a.shedLoad.memoriesOk := by
  unfold Aggregator.shedLoad
  extract_lets a1
  have h1 : a1.memoriesOk := by
    unfold a1
    refine .foldl h fun _ _ h => ?_
    extract_lets st
    exact .ite h h.set
  exact h1.modPwr.showPower

theorem countGated {die d : Nat} (h : a.memoriesOk) : (a.countGated die d).memoriesOk := by
  unfold Aggregator.countGated
  exact .ite h h.modPwr

theorem thermalSample {dies : Int × Int × Int} {stackTemps : List Int} {mv : Nat} (h : a.memoriesOk) :
    (a.thermalSample dies stackTemps mv).memoriesOk := by
  unfold Aggregator.thermalSample
  split
  extract_lets d0 d1 a1 all hot trip a2
  have h1 : a1.memoriesOk := h.countGated.countGated
  have h2 : a2.memoriesOk := .modPwr h1
  exact .ite h2.shedLoad h2

theorem laneDown {lane : Nat} (h : a.memoriesOk) : (a.laneDown lane).memoriesOk := by
  unfold Aggregator.laneDown
  exact .ite h h.modPwr.report

end Aggregator.memoriesOk

end Sys2Proof.Machine
end DetectorAndJobMemories

section HostMemories
/-!
PROOFS. The memories of the aggregator keep their canonical form:
host queues and commands, the mirror, resets and boot, DMA and registers (chapters 13 and 15 to 17).
-/
namespace Sys2Proof.Machine

namespace Aggregator.memoriesOk

variable {a : Aggregator}

theorem askObjects {ns : List ObjName} (h : a.memoriesOk) : (a.askObjects ns).memoriesOk := by
  unfold Aggregator.askObjects
  extract_lets reqs
  exact h.modLed

theorem readLedger {qkind job gen dlen : Nat} {g data : List Byte} (h : a.memoriesOk) : (a.readLedger qkind job gen dlen g data).2.memoriesOk := by
  unfold Aggregator.readLedger
  split
  · exact h
  · split
    · exact h
    · extract_lets cut held
      split
      · exact h
      · exact h.askObjects

theorem ledgerImport {g : List Byte} (h : a.memoriesOk) : (a.ledgerImport g).2.memoriesOk := by
  unfold Aggregator.ledgerImport
  extract_lets n
  split
  · exact h
  · exact h.askObjects

theorem holdRef {n : ObjName} {rs : List LRec} (h : a.memoriesOk) : (a.holdRef n rs).memoriesOk := by
  unfold Aggregator.holdRef
  exact h.modLed

theorem ledgerReference {ctx : Nat} {g : List Byte} (h : a.memoriesOk) : (a.ledgerReference ctx g).2.memoriesOk := by
  unfold Aggregator.ledgerReference
  extract_lets w0 w1
  split
  · exact h
  · exact h.setWord.setWord.mirrorJob

theorem setQueue {q : Nat} {x : QueuePair} (h : a.memoriesOk) : (a.setQueue q x).memoriesOk := by
  unfold Aggregator.setQueue
  exact h.modHif

theorem setCq {c : Nat} {x : CqState} (h : a.memoriesOk) : (a.setCq c x).memoriesOk := by
  unfold Aggregator.setCq
  exact h.modHif

theorem stopCmd {c : Command} (h : a.memoriesOk) : (a.stopCmd c).memoriesOk := by
  unfold Aggregator.stopCmd
  split
  · exact h.armComplete
  · exact h

theorem disableQueue {q : Nat} {x : QueuePair} (h : a.memoriesOk) : (a.disableQueue q x).memoriesOk := by
  unfold Aggregator.disableQueue
  extract_lets gone a1
  have h1 : a1.memoriesOk := .foldl h.setQueue.dropFrames fun _ _ h => h.stopCmd
  exact h1.modHif

theorem doorbellError (h : a.memoriesOk) : a.doorbellError.memoriesOk := by
  unfold Aggregator.doorbellError
  exact h.inc.raise

theorem sqDoorbell {q v : Nat} (h : a.memoriesOk) : (a.sqDoorbell q v).memoriesOk := by
  unfold Aggregator.sqDoorbell
  split
  · exact h
  · extract_lets size
    split
    · exact h
    · exact .ite h.disableQueue.doorbellError h.setQueue

theorem cqDoorbell {c v : Nat} (h : a.memoriesOk) : (a.cqDoorbell c v).memoriesOk := by
  unfold Aggregator.cqDoorbell
  split
  · exact h
  · extract_lets size
    split
    · split
      · exact h
      · refine .doorbellError (.foldl h fun _ _ h => ?_)
        split
        · exact h.disableQueue
        · exact h
    · exact h.setCq

theorem setWait {serial : Nat} {w : CmdWait} (h : a.memoriesOk) : (a.setWait serial w).memoriesOk := by
  unfold Aggregator.setWait
  exact h.modHif

theorem sendCapsule {kind tag off flags : Nat} {payload : List Byte} (h : a.memoriesOk) :
    (a.sendCapsule kind tag off flags payload).memoriesOk := by
  unfold Aggregator.sendCapsule
  exact h.modHif

theorem ackCapsule {mseq : Nat} (h : a.memoriesOk) : (a.ackCapsule mseq).memoriesOk := by
  unfold Aggregator.ackCapsule
  exact h.modHif

theorem sendResult {tag : Nat} {data : List Byte} (h : a.memoriesOk) : (a.sendResult tag data).memoriesOk := by
  unfold Aggregator.sendResult
  extract_lets n
  exact .foldl h fun _ _ h => h.sendCapsule

theorem pumpEvents (h : a.memoriesOk) : a.pumpEvents.memoriesOk := by
  unfold Aggregator.pumpEvents
  split
  · exact h
  · exact .foldl h.modHif fun _ _ h => h.sendCapsule

theorem postPcie {c : Command} {status bytes result : Nat} (h : a.memoriesOk) : (a.postPcie c status bytes result).memoriesOk := by
  unfold Aggregator.postPcie
  split
  · exact h
  · split
    · exact h
    · extract_lets e last a1
      have h1 : a1.memoriesOk := h.withHost (memPut_wf _ _ _ h.2)
      exact h1.setCq.modHif

theorem post {c : Command} {status bytes result : Nat} (h : a.memoriesOk) : (a.post c status bytes result).memoriesOk := by
  unfold Aggregator.post
  extract_lets a1
  have h1 : a1.memoriesOk := h.modHif.incWrap
  exact .ite h1.sendCapsule h1.postPcie

theorem finish {c : Command} {status result : Nat} {data : List Byte} (h : a.memoriesOk) : (a.finish c status result data).memoriesOk := by
  unfold Aggregator.finish
  extract_lets d
  split
  · exact h.sendResult.post
  · split
    · exact (h.withHost (writeSegs_wf _ _ _ h.2)).post
    · exact h.post

theorem endEarly {status : Nat} {c : Command} (h : a.memoriesOk) : (a.endEarly status c).memoriesOk := by
  unfold Aggregator.endEarly
  exact h.dropFrames.stopCmd.post

theorem accept {qid head : Nat} {priv : Bool} {entry mdata : List Byte} (h : a.memoriesOk) : (a.accept qid head priv entry mdata).memoriesOk := by
  unfold Aggregator.accept
  extract_lets serial c a1 old a2
  have h1 : a1.memoriesOk := h.modHif
  have h2 : a2.memoriesOk := .foldl h1 fun _ _ h => h.endEarly
  split
  · exact h2.post
  · split
    · exact h2.post
    · split
      · exact h2.post
      · exact .ite h2.post h2.modHif

theorem commandFetch (h : a.memoriesOk) : a.commandFetch.memoriesOk := by
  unfold Aggregator.commandFetch
  split
  · exact h
  · extract_lets next
    clear_value next
    split
    · exact h
    · split
      · split
        · exact h
        · exact h.modHif.accept
      · split
        · exact h
        · exact accept (.ite h.setQueue h.setQueue.modHif)

theorem startCmd {serial : Nat} {hostOk : Bool} {want : Command → Bool} {f : Aggregator → Command → List Byte → CmdRes × Aggregator}
    (h : a.memoriesOk) (hf : ∀ (a : Aggregator) c d, a.memoriesOk → (f a c d).2.memoriesOk) :
    (a.startCmd serial hostOk want f).memoriesOk := by
  unfold Aggregator.startCmd
  split
  · exact h
  · split
    · exact h
    · split
      · exact h.post
      · split
        · exact h.raise.post
        · dsimp only
          split
          next hb => exact ((hf _ _ _ h).ofPair hb).finish
          next hb => exact ((hf _ _ _ h).ofPair hb).setWait

theorem budgetExpiry {serial : Nat} (h : a.memoriesOk) : (a.budgetExpiry serial).memoriesOk := by
  unfold Aggregator.budgetExpiry
  split
  · exact h
  · extract_lets held a1
    have h1 : a1.memoriesOk := by
      unfold a1
      split
      · exact h.set
      · exact h
    exact .ite h h1.endEarly

theorem abortCommands {hit : Command → Bool} {posted : Bool} (h : a.memoriesOk) : (a.abortCommands hit posted).memoriesOk := by
  unfold Aggregator.abortCommands
  extract_lets cs serials a1
  have h1 : a1.memoriesOk := .foldl h.dropFrames fun _ _ h => h.stopCmd
  split
  · exact .foldl h1 fun _ _ h => h.inc.post
  · exact h1.modHif

theorem deleteQueues (h : a.memoriesOk) : a.deleteQueues.memoriesOk := by
  unfold Aggregator.deleteQueues
  exact h.modHif

theorem resetInterface {serial : Nat} (h : a.memoriesOk) : (a.resetInterface serial).memoriesOk := by
  unfold Aggregator.resetInterface
  split
  · exact h
  · split
    · exact h
    · extract_lets a1
      have h1 : a1.memoriesOk := h.abortCommands
      exact .ite h1.deleteQueues.post h1.post.deleteQueues

theorem resetChip {serial : Nat} (h : a.memoriesOk) : (a.resetChip serial).memoriesOk := by
  unfold Aggregator.resetChip
  split
  · exact h
  · exact .ite h h.abortCommands.post.deleteQueues.recordLimited.announceReset

theorem pcieReset (h : a.memoriesOk) : a.pcieReset.memoriesOk := by
  unfold Aggregator.pcieReset
  extract_lets a1 a2 a3 a4
  have h1 : a1.memoriesOk := h.abortCommands.deleteQueues
  have h2 : a2.memoriesOk := h1.modHif
  have h3 : a3.memoriesOk := h2.setWord.setWord.setWord
  have h4 : a4.memoriesOk := h3
  exact h4.raise.record

theorem flr (h : a.memoriesOk) : a.flr.memoriesOk := by
  unfold Aggregator.flr
  exact h.abortCommands.deleteQueues

theorem cmdIdentify {serial : Nat} {ok : Bool} (h : a.memoriesOk) : (a.cmdIdentify serial ok).memoriesOk := by
  unfold Aggregator.cmdIdentify
  exact h.startCmd fun _ _ _ h => h

theorem cmdLog {serial : Nat} {ok : Bool} {sub : Nat} {log : Aggregator → Command → Option (List Byte)} (h : a.memoriesOk) :
    (a.cmdLog serial ok sub log).memoriesOk := by
  unfold Aggregator.cmdLog
  refine h.startCmd fun _ _ _ h => ?_
  split
  · exact h
  · exact h

theorem cmdGetFeature {serial : Nat} {ok : Bool} (h : a.memoriesOk) : (a.cmdGetFeature serial ok).memoriesOk := by
  unfold Aggregator.cmdGetFeature
  refine h.startCmd fun _ _ _ h => ?_
  split
  · split
    · exact h
    · exact h
  · split
    · exact h
    · exact h
  · exact h

theorem cmdFeature {serial : Nat} {ok : Bool} {sub : Nat} {f : Aggregator → Command → List Byte → CmdRes × Aggregator}
    (h : a.memoriesOk) (hf : ∀ (a : Aggregator) c d, a.memoriesOk → (f a c d).2.memoriesOk) : (a.cmdFeature serial ok sub f).memoriesOk :=
  h.startCmd hf

theorem cmdJobFeature {serial : Nat} {ok : Bool} {sub : Nat} {f : Aggregator → Command → Nat → JobCtx → List Byte → CmdRes × Aggregator}
    (h : a.memoriesOk) (hf : ∀ (a : Aggregator) c ctx j d, a.memoriesOk → (f a c ctx j d).2.memoriesOk) :
    (a.cmdJobFeature serial ok sub f).memoriesOk := by
  refine h.cmdFeature fun _ _ _ h => ?_
  split
  · exact hf _ _ _ _ _ h
  · exact h

theorem queueCreate {g : List Byte} (h : a.memoriesOk) : (a.queueCreate g).2.memoriesOk := by
  unfold Aggregator.queueCreate
  extract_lets qid q logOk newOk
  split
  · exact h
  · split
    · exact h
    · split
      · exact h.setQueue
      · exact h.setCq.setQueue

theorem queueDelete {g : List Byte} (h : a.memoriesOk) : (a.queueDelete g).2.memoriesOk := by
  unfold Aggregator.queueDelete
  extract_lets qid
  split
  · exact h
  · split
    · exact h
    · split
      · exact h
      · extract_lets used
        exact .ite h.modHif h.modHif.modHif

theorem cancelTag {self : Nat} {g : List Byte} (h : a.memoriesOk) : (a.cancelTag self g).2.memoriesOk := by
  unfold Aggregator.cancelTag
  extract_lets side tag
  split
  · exact h
  · split
    · exact h
    · refine .foldl h.dropFrames fun _ _ h => ?_
      refine .endEarly ?_
      split
      · exact h.set
      · exact h

theorem broadcastIssue {ctx : Nat} {j : JobCtx} {g payload : List Byte} (h : a.memoriesOk) : (a.broadcastIssue ctx j g payload).2.memoriesOk := by
  unfold Aggregator.broadcastIssue
  extract_lets kind
  split
  · exact h
  · split
    · exact h
    · split
      · exact h
      · split
        rename_i b hb
        have h1 := h.issueBcast.ofPair hb
        exact h1

theorem swapArmed {ctx inn : Nat} (h : a.memoriesOk) : (a.swapArmed ctx inn).memoriesOk := by
  unfold Aggregator.swapArmed
  split
  · exact h
  · refine .foldl h fun _ _ h => ?_
    extract_lets exp was a1
    have h1 : a1.memoriesOk := h.modEpoch
    split
    · exact .ite h1.control h1
    · exact h1

theorem swap {serial gtag ctx : Nat} {j : JobCtx} {g : List Byte} (h : a.memoriesOk) : (a.swap serial gtag ctx j g).2.memoriesOk := by
  unfold Aggregator.swap
  extract_lets out inn ts mine a1 a2
  have h1 : a1.memoriesOk := h.modJob
  have h2 : a2.memoriesOk := by
    unfold a2
    split
    · exact h1.armDie
    · exact h1
  split
  · exact h
  · split
    · exact h
    · split
      · exact h
      · exact h2.swapArmed.mirrorJob

theorem scanFeature {g : List Byte} (h : a.memoriesOk) : (a.scanFeature g).2.memoriesOk := by
  unfold Aggregator.scanFeature
  extract_lets c
  split
  · exact h
  · split
    · exact h
    · exact h.requestScan

theorem resetLoopClear (h : a.memoriesOk) : a.resetLoopClear.memoriesOk := by
  unfold Aggregator.resetLoopClear
  exact h.modHlt

theorem spillFeature {c : Command} (h : a.memoriesOk) : (a.spillFeature c).2.memoriesOk := by
  unfold Aggregator.spillFeature
  extract_lets step
  split
  · exact h
  · split
    · exact h.spillNow
    · exact h

theorem cmdFwDownload {serial : Nat} {ok : Bool} (h : a.memoriesOk) : (a.cmdFwDownload serial ok).memoriesOk := by
  unfold Aggregator.cmdFwDownload
  refine h.startCmd fun _ _ _ h => ?_
  extract_lets off
  split
  · exact h
  · exact h.modHif

theorem fwCommit {slot : Nat} (h : a.memoriesOk) : (a.fwCommit slot).2.memoriesOk := by
  unfold Aggregator.fwCommit
  extract_lets img
  split
  · exact h.modHif
  · exact h

theorem cmdFw {serial : Nat} {ok : Bool} {sub : Nat} {f : Aggregator → Nat → CmdRes × Aggregator}
    (h : a.memoriesOk) (hf : ∀ (a : Aggregator) slot, a.memoriesOk → (f a slot).2.memoriesOk) : (a.cmdFw serial ok sub f).memoriesOk := by
  unfold Aggregator.cmdFw
  split
  · exact h
  · refine h.startCmd fun _ _ _ h => ?_
    dsimp only
    split
    · exact h
    · exact hf _ _ h

theorem fwHold {slot : Nat} (h : a.memoriesOk) : (a.fwHold slot).2.memoriesOk := by
  unfold Aggregator.fwHold
  exact h.set

theorem cmdFwCommit {serial : Nat} {ok : Bool} (h : a.memoriesOk) : (a.cmdFwCommit serial ok).memoriesOk := by
  unfold Aggregator.cmdFwCommit
  refine h.cmdFw fun _ _ h => ?_
  split
  · rename_i b hb
    have h1 := h.fwCommit.ofPair hb
    exact h1
  · rename_i b hb
    have h1 := h.fwCommit.ofPair hb
    exact h1

theorem cmdFwCommitActivate {serial : Nat} {ok : Bool} (h : a.memoriesOk) : (a.cmdFwCommitActivate serial ok).memoriesOk := by
  unfold Aggregator.cmdFwCommitActivate
  refine h.cmdFw fun _ _ h => ?_
  split
  · rename_i b hb
    have h1 := h.fwCommit.ofPair hb
    exact h1.fwHold
  · rename_i b hb
    have h1 := h.fwCommit.ofPair hb
    exact h1

theorem cmdFwActivate {serial : Nat} {ok : Bool} (h : a.memoriesOk) : (a.cmdFwActivate serial ok).memoriesOk := by
  unfold Aggregator.cmdFwActivate
  exact h.cmdFw fun _ _ h => h.fwHold

theorem fwResume {c : Command} {status : Nat} (h : a.memoriesOk) : (a.fwResume c status).memoriesOk := by
  unfold Aggregator.fwResume
  exact h.modHif.set.settleEpochs.finish

theorem fwProceed (h : a.memoriesOk) : a.fwProceed.memoriesOk := by
  unfold Aggregator.fwProceed
  split
  · exact h
  · extract_lets before
    split
    · exact h
    · exact .ite h.fwResume h.modHif

theorem fwReady (h : a.memoriesOk) : a.fwReady.memoriesOk := by
  unfold Aggregator.fwReady
  split
  · exact .ite h h.modHif.set.set.fwResume
  · exact h

theorem fwTimeout (h : a.memoriesOk) : a.fwTimeout.memoriesOk := by
  unfold Aggregator.fwTimeout
  split
  · exact .ite h.fwResume h
  · exact h

theorem cmdFlush {serial : Nat} {ok : Bool} (h : a.memoriesOk) : (a.cmdFlush serial ok).memoriesOk := by
  unfold Aggregator.cmdFlush
  exact h.startCmd fun _ _ _ h => h

theorem flushComplete {serial : Nat} (h : a.memoriesOk) : (a.flushComplete serial).memoriesOk := by
  unfold Aggregator.flushComplete
  split
  · exact h
  · split
    · extract_lets before
      exact .ite h.finish h
    · exact h

theorem cmdQuery {serial : Nat} {ok : Bool} (h : a.memoriesOk) : (a.cmdQuery serial ok).memoriesOk := by
  unfold Aggregator.cmdQuery
  refine h.startCmd fun _ _ _ h => ?_
  split
  · exact h
  · exact h

theorem cmdReadLedger {serial : Nat} {ok : Bool} {qkind : Nat} (h : a.memoriesOk) : (a.cmdReadLedger serial ok qkind).memoriesOk := by
  unfold Aggregator.cmdReadLedger
  exact h.startCmd fun _ _ _ h => h.readLedger

theorem fetched {c : Command} {got : List LRec} {cut : Store Nat} {failed : Bool} (h : a.memoriesOk) : (a.fetched c got cut failed).memoriesOk := by
  unfold Aggregator.fetched
  split
  · exact h.finish
  · exact h.setWait

theorem fetchDone {serial : Nat} {n : ObjName} {object : List Byte} (h : a.memoriesOk) : (a.fetchDone serial n object).memoriesOk := by
  unfold Aggregator.fetchDone
  split
  · exact h
  · split
    · split
      · exact h
      · extract_lets rs
        split
        · exact h.holdRef.finish
        · exact .ite h.fetched h.setWait
    · exact h

theorem fetchExpiry {serial : Nat} (h : a.memoriesOk) : (a.fetchExpiry serial).memoriesOk := by
  unfold Aggregator.fetchExpiry
  split
  · exact h
  · split
    · split
      · exact h
      · exact .ite h.finish h.fetched
    · exact h

theorem freeHeld {qid : Nat} {x : Nat × HeldParcel} (h : a.memoriesOk) : (a.freeHeld qid x).memoriesOk := by
  unfold Aggregator.freeHeld
  exact h.poolFree.modIng

theorem cmdReadTrace {serial : Nat} {ok : Bool} (h : a.memoriesOk) : (a.cmdReadTrace serial ok).memoriesOk := by
  refine h.startCmd fun _ _ _ h => ?_
  dsimp only
  split
  · exact h
  · split
    · exact h
    · exact .foldl h.draw fun _ _ h => h.freeHeld

theorem cmdArmJob {serial : Nat} {ok : Bool} (h : a.memoriesOk) : (a.cmdArmJob serial ok).memoriesOk := by
  unfold Aggregator.cmdArmJob
  refine h.startCmd fun _ _ _ h => ?_
  split
  · exact h
  · exact h.armJob

theorem cmdRetireJob {serial : Nat} {ok : Bool} (h : a.memoriesOk) : (a.cmdRetireJob serial ok).memoriesOk := by
  unfold Aggregator.cmdRetireJob
  exact h.startCmd fun _ _ _ h => h.retireJob

theorem armAnswer {serial duid : Nat} {good : Bool} (h : a.memoriesOk) : (a.armAnswer serial duid good).memoriesOk := by
  unfold Aggregator.armAnswer
  split
  · exact h
  · split
    · extract_lets a1 f
      have h1 : a1.memoriesOk := .ite h h.armFailed
      exact .ite h1.armComplete.finish h1.setWait
    · exact h

theorem retireAnswer {serial : Nat} (h : a.memoriesOk) : (a.retireAnswer serial).memoriesOk := by
  unfold Aggregator.retireAnswer
  split
  · exact h
  · split
    · exact .ite h.setWait.beginDrain h.setWait
    · exact h

theorem retireDrainExpiry {ctx : Nat} (h : a.memoriesOk) : (a.retireDrainExpiry ctx).memoriesOk := by
  unfold Aggregator.retireDrainExpiry
  split
  · exact h
  · extract_lets away
    split
    · rename_i b hb
      have h1 := h.retireDrain.ofPair hb
      exact h1.finish
    · rename_i b hb
      have h1 := h.retireDrain.ofPair hb
      exact h1

theorem settleRoll {c : Command} (h : a.memoriesOk) : (a.settleRoll c).memoriesOk := by
  unfold Aggregator.settleRoll
  split
  · split
    · exact .ite h.finish h
    · exact h
  · exact h

theorem settleCheck {ctx : Nat} {j : JobCtx} (h : a.memoriesOk) : (a.settleCheck ctx j).memoriesOk := by
  unfold Aggregator.settleCheck
  split
  · exact .ite h.applyReady h
  · exact h

theorem settle (h : a.memoriesOk) : a.settle.memoriesOk := by
  unfold Aggregator.settle
  extract_lets a1
  have h1 : a1.memoriesOk := .foldl h fun _ _ h => h.settleCheck
  exact .pumpEvents (.foldl h1 fun _ _ h => h.settleRoll)

theorem pealArmFailed {duid tp : Nat} (h : a.memoriesOk) : (a.pealArmFailed duid tp).memoriesOk := by
  unfold Aggregator.pealArmFailed
  split
  · exact h.pealFailed
  · exact h

theorem armEnded {cmd : Option Nat} {duid : Nat} {good : Bool} (h : a.memoriesOk) : (a.armEnded cmd duid good).memoriesOk := by
  unfold Aggregator.armEnded
  split
  · exact h.armAnswer
  · split
    · exact h
    · split
      · exact h.armFailed
      · exact h

theorem armDropped {k : Nat} (h : a.memoriesOk) : (a.armDropped k).memoriesOk := by
  unfold Aggregator.armDropped
  extract_lets p arms
  exact .foldl h.setPath fun _ _ h => h.armEnded

theorem retireEnded {cmd : Option Nat} {duid : Nat} (h : a.memoriesOk) : (a.retireEnded cmd duid).memoriesOk := by
  unfold Aggregator.retireEnded
  split
  · exact h.retireAnswer
  · split
    · exact h.modJob.mirrorJob
    · exact h

theorem ctlEnded {k : Nat} {f : CtlOutFrame} {status : Option Nat} (h : a.memoriesOk) : (a.ctlEnded k f status).memoriesOk := by
  unfold Aggregator.ctlEnded
  extract_lets duid
  split
  · exact h.armEnded
  · exact .retireEnded (.ite h.armDropped h)
  · exact .ite h h.pealArmFailed
  · exact .ite h.releaseAt h
  · exact h

theorem controlAckRx {l : List Byte} (h : a.memoriesOk) : (a.controlAckRx l).memoriesOk := by
  unfold Aggregator.controlAckRx
  split
  · exact h
  · split
    rename_i b hb
    have h1 := h.frameCheck.ofPair hb
    extract_lets b2
    split
    · exact h1
    · split
      · exact h1
      · split
        · rename_i b3 hb2
          have h12 := h1.ackCtl.ofPair hb2
          exact h12.ctlEnded
        · rename_i b3 hb2
          have h12 := h1.ackCtl.ofPair hb2
          exact h12

theorem ctlRetry {k cseq : Nat} (h : a.memoriesOk) : (a.ctlRetry k cseq).memoriesOk := by
  unfold Aggregator.ctlRetry
  split
  · exact h
  · split
    · rename_i b hb
      have h1 := h.retryCtl.ofPair hb
      exact h1.ctlEnded
    · rename_i b _ hb
      have h1 := h.retryCtl.ofPair hb
      exact h1

theorem reAdmission {step : Nat} {home : Bool} {only : Option Nat} (h : a.memoriesOk) : (a.reAdmission step home only).memoriesOk := by
  unfold Aggregator.reAdmission
  extract_lets hit
  refine .foldl h fun _ _ h => ?_
  split
  · exact h
  · split
    · exact .ite h.set.setPath.mirrorReg h
    · exact .ite h.readmitKey h

theorem resendContext {kind i ver : Nat} (h : a.memoriesOk) : (a.resendContext kind i ver).memoriesOk := by
  unfold Aggregator.resendContext
  exact .mirrorSend h

theorem sendContexts (h : a.memoriesOk) : a.sendContexts.memoriesOk := by
  unfold Aggregator.sendContexts
  exact .foldl h fun _ _ h => h.resendContext

theorem sendLacking (h : a.memoriesOk) : a.sendLacking.memoriesOk := by
  unfold Aggregator.sendLacking
  refine .foldl h fun _ _ h => ?_
  extract_lets rs
  exact .foldl h fun _ _ h => h.mirrorSend

theorem sendBegin (h : a.memoriesOk) : a.sendBegin.memoriesOk := by
  unfold Aggregator.sendBegin
  exact h.modMir.mirrorSend

theorem sendResync (h : a.memoriesOk) : a.sendResync.memoriesOk := by
  unfold Aggregator.sendResync
  extract_lets a1 a2 a3
  have h1 : a1.memoriesOk := h.sendContexts.sendLacking
  have h2 : a2.memoriesOk := .foldl h1 fun _ _ h => h.mirrorImage
  have h3 : a3.memoriesOk := h2.mirrorSend
  exact h3.modMir

theorem beginResync (h : a.memoriesOk) : a.beginResync.memoriesOk := by
  unfold Aggregator.beginResync
  exact h.modMir.set.sendBegin

theorem settleProtected (h : a.memoriesOk) : a.settleProtected.memoriesOk := by
  unfold Aggregator.settleProtected
  extract_lets ended
  exact .ite h.modMir.set h

theorem reportUnprotected (h : a.memoriesOk) : a.reportUnprotected.memoriesOk := by
  unfold Aggregator.reportUnprotected
  exact h.report

theorem mirrorLinkUp {farId : Nat} {farDomains : List Nat} {farSession farAck : Nat} (h : a.memoriesOk) :
    (a.mirrorLinkUp farId farDomains farSession farAck).memoriesOk := by
  unfold Aggregator.mirrorLinkUp
  split
  · exact h
  · split
    · exact h.modMir.set.report.reportUnprotected
    · extract_lets shared resume session a1 a2
      have h1 : a1.memoriesOk := h.modMir.set
      have h2 : a2.memoriesOk := .ite h1.report h1
      split
      · exact .settleProtected (.foldl h2.modMir.set fun _ _ h => h.mirrorFrame)
      · exact h2.modMir.beginResync

theorem mirrorLinkDown (h : a.memoriesOk) : a.mirrorLinkDown.memoriesOk := by
  unfold Aggregator.mirrorLinkDown
  split
  · exact h
  · extract_lets a1
    have h1 : a1.memoriesOk := h.modMir.set.reportUnprotected
    exact .ite h1.takeover.resetCaptures h1

theorem mirrorAcked {n : Nat} (h : a.memoriesOk) : (a.mirrorAcked n).memoriesOk := by
  unfold Aggregator.mirrorAcked
  exact h.modMir.settleProtected

theorem mirrorRx {l : List Byte} {kinds : Nat → Bool} {apply : Aggregator → List Byte → Aggregator} (h : a.memoriesOk)
    (hf : ∀ (a : Aggregator) l, a.memoriesOk → (apply a l).memoriesOk) : (a.mirrorRx l kinds apply).memoriesOk := by
  unfold Aggregator.mirrorRx
  dsimp only
  split
  · exact h
  · have h1 := h.frameCheck (lane := laneMirror) (l := l)
    split
    · exact h1
    · split
      · exact h1.mirrorAcked
      · split
        · exact h1.mirrorAcked.mirrorFrame
        · split
          · exact (hf _ _ h1.mirrorAcked.modMir).mirrorFrame
          · exact h1.mirrorAcked.mirrorSend

theorem takeRec {job gen : Nat} {r : LRec} (h : a.memoriesOk) : (a.takeRec job gen r).memoriesOk := by
  unfold Aggregator.takeRec
  extract_lets home a1
  have h1 : a1.memoriesOk := h.openLedger
  split
  · exact h1
  · exact .ite h1 h1.makeRoom.modLedger.showOcc

theorem takeLedger {p : List Byte} (h : a.memoriesOk) : (a.takeLedger p).memoriesOk := by
  unfold Aggregator.takeLedger
  exact .foldl h fun _ _ h => h.takeRec

theorem takeReg {k : Nat} {w hu : W64} (h : a.memoriesOk) : (a.takeReg k w hu).memoriesOk := by
  unfold Aggregator.takeReg
  extract_lets valid st old new a1
  have h1 : a1.memoriesOk := h.setWord.set.setWord
  exact .ite h1.unitNotice h1

theorem takeJob {c : Nat} {img : JobImage} (h : a.memoriesOk) : (a.takeJob c img).memoriesOk := by
  unfold Aggregator.takeJob
  extract_lets serving old a1 a2
  have h1 : a1.memoriesOk := by
    unfold a1
    split
    · exact h
    · exact h
    · exact h
  have h2 : a2.memoriesOk := h1.modMir
  exact .ite h2.setWord.setWord h2.modMir

theorem startBinds {c : Nat} {binds : List MirrorBind} (h : a.memoriesOk) : (a.startBinds c binds).memoriesOk := by
  unfold Aggregator.startBinds
  refine .foldl h fun _ _ h => ?_
  split
  · exact h
  · split
    · exact h
    · split
      · exact h
      · split
        · exact h.installInst
        · exact h

theorem startMirrored (h : a.memoriesOk) : a.startMirrored.memoriesOk := by
  unfold Aggregator.startMirrored
  exact .foldl h fun _ _ h => .ite h.startBinds h

theorem stopMirrored (h : a.memoriesOk) : a.stopMirrored.memoriesOk := by
  unfold Aggregator.stopMirrored
  exact .foldl h fun _ _ h => h.removeInst

theorem takeContext {img : JobImage} {p : List Byte} (h : a.memoriesOk) : (a.takeContext img p).memoriesOk := by
  unfold Aggregator.takeContext
  extract_lets kind i k key bound
  split
  · exact h
  · split
    · exact h.modMir.takeJob.startMirrored
    · split
      · exact h.modMir.takeReg
      · split
        · exact h.modMir.setWord.setWord
        · split
          · exact h.modMir.writeMeter.writeMeter.setWord.setWord
          · exact .ite h.modMir.setWord.setWord.setWord.setWord h.modMir.setWord

theorem takeImage {p : List Byte} (h : a.memoriesOk) : (a.takeImage p).memoriesOk := by
  unfold Aggregator.takeImage
  extract_lets id seg segs keep
  have hkeep : keep.memoriesOk := h.modMir
  split
  · exact h
  · split
    · split
      · exact h.modMir.poke.modDet.startMirrored
      · exact hkeep
    · exact hkeep

theorem takeSpilled {p : List Byte} (h : a.memoriesOk) : (a.takeSpilled p).memoriesOk := by
  unfold Aggregator.takeSpilled
  extract_lets job gen step part home
  exact h.modLedger.freeStep.dropLedger

theorem takeResyncReq {p : List Byte} (h : a.memoriesOk) : (a.takeResyncReq p).memoriesOk := by
  unfold Aggregator.takeResyncReq
  extract_lets n rest
  split
  · exact h.beginResync
  · exact .foldl h.modMir fun _ _ h => h.mirrorFrame

theorem takeBegin {p : List Byte} (h : a.memoriesOk) : (a.takeBegin p).memoriesOk := by
  unfold Aggregator.takeBegin
  extract_lets a1
  have h1 : a1.memoriesOk := .ite h h.beginResync
  exact h1.modMir.sendResync

theorem takeEnd (h : a.memoriesOk) : a.takeEnd.memoriesOk := by
  unfold Aggregator.takeEnd
  extract_lets a1
  have h1 : a1.memoriesOk := .foldl h fun _ _ h => h.modLedger
  exact h1.modMir.settleProtected

theorem mirrorLedgerRx {l : List Byte} (h : a.memoriesOk) : (a.mirrorLedgerRx l).memoriesOk := by
  unfold Aggregator.mirrorLedgerRx
  exact h.mirrorRx fun _ _ h => h.takeLedger

theorem mirrorContextRx {l : List Byte} {img : JobImage} (h : a.memoriesOk) : (a.mirrorContextRx l img).memoriesOk := by
  unfold Aggregator.mirrorContextRx
  exact h.mirrorRx fun _ _ h => h.takeContext

theorem mirrorImageRx {l : List Byte} (h : a.memoriesOk) : (a.mirrorImageRx l).memoriesOk := by
  unfold Aggregator.mirrorImageRx
  exact h.mirrorRx fun _ _ h => h.takeImage

theorem mirrorAckRx {l : List Byte} (h : a.memoriesOk) : (a.mirrorAckRx l).memoriesOk := by
  unfold Aggregator.mirrorAckRx
  exact h.mirrorRx fun _ _ h => h

theorem mirrorSpilledRx {l : List Byte} (h : a.memoriesOk) : (a.mirrorSpilledRx l).memoriesOk := by
  unfold Aggregator.mirrorSpilledRx
  exact h.mirrorRx fun _ _ h => h.takeSpilled

theorem resyncReqRx {l : List Byte} (h : a.memoriesOk) : (a.resyncReqRx l).memoriesOk := by
  unfold Aggregator.resyncReqRx
  exact h.mirrorRx fun _ _ h => h.takeResyncReq

theorem resyncBeginRx {l : List Byte} (h : a.memoriesOk) : (a.resyncBeginRx l).memoriesOk := by
  unfold Aggregator.resyncBeginRx
  exact h.mirrorRx fun _ _ h => h.takeBegin

theorem resyncEndRx {l : List Byte} (h : a.memoriesOk) : (a.resyncEndRx l).memoriesOk := by
  unfold Aggregator.resyncEndRx
  exact h.mirrorRx fun _ _ h => h.takeEnd

theorem partnerHealthRx {l : List Byte} (h : a.memoriesOk) : (a.partnerHealthRx l).memoriesOk := by
  unfold Aggregator.partnerHealthRx
  exact h.mirrorRx fun _ _ h => h.modMir

theorem mirrorReservedRx {l : List Byte} (h : a.memoriesOk) : (a.mirrorReservedRx l).memoriesOk := by
  unfold Aggregator.mirrorReservedRx
  exact h.mirrorRx fun _ _ h => h.modMir

theorem mirrorRetry {mseq : Nat} (h : a.memoriesOk) : (a.mirrorRetry mseq).memoriesOk := by
  unfold Aggregator.mirrorRetry
  split
  · exact h
  · exact .ite h h.modMir.mirrorFrame

theorem partnerHealthTx (h : a.memoriesOk) : a.partnerHealthTx.memoriesOk := by
  unfold Aggregator.partnerHealthTx
  exact .ite h h.modMir.mirrorSend

theorem partnerLost (h : a.memoriesOk) : a.partnerLost.memoriesOk := by
  unfold Aggregator.partnerLost
  extract_lets m
  exact .ite h h.modMir.raise.unitNotice

theorem failoverRx {mac : Nat} {l : List Byte} (h : a.memoriesOk) : (a.failoverRx mac l).memoriesOk := by
  unfold Aggregator.failoverRx
  extract_lets a1
  have h1 : a1.memoriesOk := h.failoverRequestRx
  split
  · exact h1
  · split
    · exact .foldl h1 fun _ _ h => h.rewriteDie
    · exact .startMirrored (.rewriteThr (.ite h1 h1.resetCaptures))

theorem flushWith {f : RecView → RecView} (h : a.memoriesOk) : (a.flushWith f).memoriesOk := by
  unfold Aggregator.flushWith
  split
  · exact h
  · extract_lets a1
    have h1 : a1.memoriesOk := h.withRec
    exact .ite h1.set h1

theorem faultFlush (h : a.memoriesOk) : a.faultFlush.memoriesOk := by
  unfold Aggregator.faultFlush
  exact h.flushWith

theorem queuedFlush (h : a.memoriesOk) : a.queuedFlush.memoriesOk := by
  unfold Aggregator.queuedFlush
  exact h.flushWith

theorem settleFlush {old : Aggregator} (h : a.memoriesOk) : (old.settleFlush a).memoriesOk := .ite (.of h rfl rfl) h

theorem flushPageDone (h : a.memoriesOk) : a.flushPageDone.memoriesOk := by
  unfold Aggregator.flushPageDone
  split
  · exact h
  · exact .settleFlush h.withRec

theorem bankErased (h : a.memoriesOk) : a.bankErased.memoriesOk := by
  unfold Aggregator.bankErased
  split
  · exact h
  · refine .set ?_
    extract_lets src
    have hsrc : src.memoriesOk := h.modRec
    exact hsrc

theorem supplyWarn (h : a.memoriesOk) : a.supplyWarn.memoriesOk := by
  unfold Aggregator.supplyWarn
  split
  · exact h
  · extract_lets a1 a2 a3
    have h1 : a1.memoriesOk := h.set.inc
    have h2 : a2.memoriesOk := h1.withRec.set
    have h3 : a3.memoriesOk := .ite h2.flushWith h2.withRec
    exact h3.announceReset.shedLoad

theorem supplyCrit (h : a.memoriesOk) : a.supplyCrit.memoriesOk := by
  unfold Aggregator.supplyCrit
  split
  · exact h
  · extract_lets a1 a2
    have h1 : a1.memoriesOk := h.set.inc
    have h2 : a2.memoriesOk := by
      unfold a2
      split
      · exact h1
      · exact .settleFlush h1.withRec
    exact h2.withRec

theorem supplyOk {crit : Bool} (h : a.memoriesOk) : (a.supplyOk crit).memoriesOk := by
  unfold Aggregator.supplyOk
  extract_lets f
  exact .ite h h.set.withRec

theorem powerOn {slots : Option (Option FwSlot × Option FwSlot × Nat)} (h : a.memoriesOk) : (a.powerOn slots).memoriesOk := by
  unfold Aggregator.powerOn
  exact .withRec ⟨rfl, h.2⟩

theorem resetChipNow {code : Nat} (h : a.memoriesOk) : (a.resetChipNow code).memoriesOk := by
  unfold Aggregator.resetChipNow
  extract_lets src h1 srcToc toc resets srcBlank b b1 b2
  have hb : b.memoriesOk := ⟨rfl, h.2⟩
  have h2 : b2.memoriesOk := hb.modHlt.modPwr.modLed
  exact h2.set.set.inc.set

theorem resetBegin (h : a.memoriesOk) : a.resetBegin.memoriesOk := by
  unfold Aggregator.resetBegin
  split
  · exact h
  · extract_lets supply
    exact .ite h h.abortCommands.record.resetChipNow

theorem bootStage {n result : Nat} (h : a.memoriesOk) : (a.bootStage n result).memoriesOk := by
  unfold Aggregator.bootStage
  exact h.set.set

theorem bootRecord (h : a.memoriesOk) : a.bootRecord.memoriesOk := by
  unfold Aggregator.bootRecord
  exact h.record

theorem bootStop {n result : Nat} (h : a.memoriesOk) : (a.bootStop n result).memoriesOk := by
  unfold Aggregator.bootStop
  extract_lets b
  have hb : b.memoriesOk := h.bootStage.bootRecord
  clear_value b
  exact .of hb rfl rfl

theorem applyConfig {copy : Nat} {c : FlashConfig} (h : a.memoriesOk) : (a.applyConfig copy c).memoriesOk := by
  unfold Aggregator.applyConfig
  extract_lets a1 a2 a3 domain a3b a4 a5 b
  have h2 : a2.memoriesOk := by
    refine .foldl h.set.set.set.set.set.set fun _ _ h => ?_
    split
    · exact h.setWord.setWord.setWord
    · exact h
  have h3 : a3.memoriesOk := .foldl h2 fun _ _ h => .ite h.setWord h.setWord
  have hdomain {b : Aggregator} (hb : b.memoriesOk) (f : Fld) (n : Nat) : (domain f n b).memoriesOk := .ite hb.set hb
  have h4 : a4.memoriesOk := .foldl (hdomain (hdomain h3 _ _) _ _) fun _ _ h => h.setWord
  have h5 : a5.memoriesOk := .foldl h4 fun _ _ h => h.set
  have hb : b.memoriesOk := h5.set
  clear_value b
  exact .of hb rfl rfl

theorem bootReady {chip : Bool} (h : a.memoriesOk) : (a.bootReady chip).memoriesOk := by
  unfold Aggregator.bootReady
  extract_lets b a0 a1 cause n a2 a3 a4
  have hb : b.memoriesOk := h.bootStage.bootRecord
  have h0 : a0.memoriesOk := of (b := b) hb rfl rfl
  have h1 : a1.memoriesOk := .ite h0 h0.reportUnprotected
  have h3 : a3.memoriesOk := .ite h1.set.unitNotice h1.set.unitNotice.raise
  have h4 : a4.memoriesOk := h3.raise.knell
  exact .ite h1 (.ite h4.withRec h3)

theorem bootMemory {img : FlashImage} {chip : Bool} {copy : Nat} {c : FlashConfig} {slot : Nat} {fallback : Bool} (h : a.memoriesOk) :
    (a.bootMemory img chip copy c slot fallback).memoriesOk := by
  unfold Aggregator.bootMemory
  extract_lets b hif a0 a1 b2 a2 a3 a4 b5
  have hb : b.memoriesOk := h.set.set
  clear_value b
  have h0 : a0.memoriesOk := .of hb rfl rfl
  have h1 : a1.memoriesOk := h0.set.set.set
  clear_value a1
  have h2 : a2.memoriesOk := h1.applyConfig.withMem rfl
  have h3 : a3.memoriesOk := .foldl h2.bootStage fun _ _ h => h.setAd
  clear_value a3
  have h4 : a4.memoriesOk := .of h3 rfl rfl
  have h5 : b5.memoriesOk := h4.bootStage
  clear_value b5
  exact .ite h1.bootStop (.ite h1.bootStop (.ite h1.bootStop (.ite h2.bootStop
    (.ite (.of h5 rfl rfl) h4.bootStage.bootReady))))

theorem bootRun {img : FlashImage} (h : a.memoriesOk) : (a.bootRun img).memoriesOk := by
  unfold Aggregator.bootRun
  split
  · split
    · exact h.bootStop
    · split
      · exact h.bootStop
      · extract_lets b a1
        have hb : b.memoriesOk := h.set
        clear_value b
        have h1 : a1.memoriesOk := .of hb rfl rfl
        clear_value a1
        split
        · exact h1.bootStop
        · exact h1.set.set.bootStop
        · exact h1.bootMemory
  · exact h

theorem settleBoot (h : a.memoriesOk) : a.settleBoot.memoriesOk := by
  unfold Aggregator.settleBoot
  split
  · exact .ite h.bootReady h
  · exact h

theorem bootTimeout (h : a.memoriesOk) : a.bootTimeout.memoriesOk := by
  unfold Aggregator.bootTimeout
  split
  · extract_lets b
    have hb : b.memoriesOk := h.bootStage.bootRecord
    clear_value b
    exact .ite h (.bootReady (.of hb rfl rfl))
  · exact h

theorem dmaIrq {n : Nat} (h : a.memoriesOk) : (a.dmaIrq n).memoriesOk := by
  unfold Aggregator.dmaIrq
  exact .ite h.modHif h

theorem dmaStopFault {n code moved : Nat} (h : a.memoriesOk) : (a.dmaStopFault n code moved).memoriesOk := by
  unfold Aggregator.dmaStopFault
  exact h.set.set.set.dmaIrq

/-- The body replaces the name as a whole: comparing an application of `dmaLoad` with its body makes the kernel evaluate the
test of the descriptor's space. -/
theorem dmaLoad {n addr : Nat} (h : a.memoriesOk) : (a.dmaLoad n addr).memoriesOk := by
  rw [show @Aggregator.dmaLoad = _ by delta Aggregator.dmaLoad; rfl]
  extract_lets a1
  have h1 : a1.memoriesOk := h.set.set
  clear_value a1
  split
  rename_i a2 hp
  have h2 : a2.memoriesOk := by
    refine .ofPair ?_ hp
    split
    · exact h1
    · exact h1.memRead
  split
  · exact h2.dmaStopFault
  · exact .ite h2.modHif h2.modHif.dmaStopFault

theorem writeDmaCtrl {n m : Nat} (h : a.memoriesOk) : (a.writeDmaCtrl n m).memoriesOk := by
  unfold Aggregator.writeDmaCtrl
  extract_lets start stop st
  split
  · exact h.raise
  · split
    · exact .ite h.set h.set.set.set.set.dmaLoad
    · exact .ite h.set.set h.set

theorem dmaMove {d : DmaDesc} {len : Nat} (h : a.memoriesOk) : (a.dmaMove d len).memoriesOk := by
  unfold Aggregator.dmaMove
  extract_lets data out a1
  have h1 : a1.memoriesOk := .ite h h.hbmTouch
  split
  · split
    · exact h1
    · exact .ite (h1.withHost (memPut_wf _ _ _ h.2)) h1.poke
  · split
    · exact h1
    · exact .ite (h1.withHost (memPut_wf _ _ _ h.2)) h1.poke

theorem dmaDescDone {n : Nat} (h : a.memoriesOk) : (a.dmaDescDone n).memoriesOk := by
  unfold Aggregator.dmaDescDone
  extract_lets st
  split
  · exact h
  · extract_lets lim a1 a2 a3
    have h1 : a1.memoriesOk := h.dmaMove
    have h3 : a3.memoriesOk := .ite h1.set.incWrap.dmaIrq h1.set.incWrap
    exact .ite h (.ite h1.accessFault.dmaStopFault (.ite h3.set (.ite h3.set.set h3.dmaLoad)))

theorem dmaHostError {n : Nat} {fetch : Bool} {moved : Nat} (h : a.memoriesOk) : (a.dmaHostError n fetch moved).memoriesOk := by
  unfold Aggregator.dmaHostError
  extract_lets st
  split
  · exact h
  · split
    · exact h
    · exact .ite h.dmaStopFault h.dmaMove.dmaStopFault

theorem violation {page off : Nat} {write : Bool} (h : a.memoriesOk) : (a.violation page off write).memoriesOk :=
  h.inc.set.set.inc.set.set.set

theorem signalIrq {old : Aggregator} (h : a.memoriesOk) : (old.signalIrq a).memoriesOk := .ite h.modHif h

theorem readRaw {key q : Nat} (h : a.memoriesOk) : (a.readRaw key q).2.memoriesOk := by
  unfold Aggregator.readRaw
  extract_lets page
  split
  · exact h
  · split
    · exact h
    · split
      · exact h.withView
      · split
        · exact h.withRec
        · split
          · exact h
          · split
            · exact h
            · split
              · exact h
              · exact h

theorem readKey {key : Nat} {priv : Bool} {q : Nat} (h : a.memoriesOk) : (a.readKey key priv q).2.memoriesOk := by
  unfold Aggregator.readKey
  extract_lets page m
  split
  rename_i b hb
  have h1 := h.readRaw.ofPair hb
  extract_lets a2
  have h2 : a2.memoriesOk := .ite h1.set h1
  exact h2

theorem writeChecked {m : Nat} {f bad : Fld} {ok : Nat → Bool} (h : a.memoriesOk) : (a.writeChecked m f bad ok).memoriesOk := by
  unfold Aggregator.writeChecked
  exact .ite h.setWord h.setWord.raise

theorem writeLdgCtrl {m : Nat} (h : a.memoriesOk) : (a.writeLdgCtrl m).memoriesOk := by
  unfold Aggregator.writeLdgCtrl
  exact .ite h.raise h.writeChecked

theorem writeRef {c key m : Nat} (h : a.memoriesOk) : (a.writeRef c key m).memoriesOk := by
  unfold Aggregator.writeRef
  exact .ite h.raise h.setWord.mirrorJob

theorem writeThresh {m : Nat} (h : a.memoriesOk) : (a.writeThresh m).memoriesOk := by
  unfold Aggregator.writeThresh
  exact .ite h.setWord.evaluateAll h.raise

theorem writeAdv {m : Nat} (h : a.memoriesOk) : (a.writeAdv m).memoriesOk := by
  unfold Aggregator.writeAdv
  exact .ite h.setWord.budgetMode h.raise

theorem writeRecCtrl {m : Nat} (h : a.memoriesOk) : (a.writeRecCtrl m).memoriesOk := by
  unfold Aggregator.writeRecCtrl
  extract_lets m1 a1
  have h1 : a1.memoriesOk := h.setWord
  exact .ite h1.withRec h1

theorem writeEntry {page e m cyc : Nat} (h : a.memoriesOk) : (a.writeEntry page e m cyc).memoriesOk := by
  unfold Aggregator.writeEntry
  extract_lets key plain
  have hplain : plain.memoriesOk := h.setWord
  split
  · split
    · split
      · exact h.writeBarCfg
      · exact h.writeBarMask
      · exact .ite h.barrierReset h
      · exact h
    · exact .ite h.writeSemCfg h.writeSemVal
  · exact .ite h.writeMeter.mirrorContext hplain.mirrorStream
  · exact .ite h.writeNumerics hplain.mirrorContext
  · exact h.writeRef
  · exact h.writePoolWord
  · exact hplain

theorem writeEffect {key m cyc : Nat} (h : a.memoriesOk) : (a.writeEffect key m cyc).memoriesOk := by
  unfold Aggregator.writeEffect
  extract_lets plain
  have hplain : plain.memoriesOk := h.setWord
  exact .ite h.writeEntry (.ite h.timeOp (.ite h.writeRecCtrl (.ite hplain.withRec (.ite h.writePd (.ite h.writeChecked
    (.ite h.writeAudCtrl (.ite h.setMask (.ite h.writeLdgCtrl (.ite h.writeThresh (.ite h.writeBudget (.ite h.writeAdv
    (.ite h.setWord (.ite h.writeDmaCtrl (.ite h.writePhOp (.ite (.ite hplain.wakeDomain hplain) hplain)))))))))))))))

theorem writeKey {key off : Nat} {w : W64} {priv : Bool} {cyc : Nat} (h : a.memoriesOk) :
    (a.writeKey key off w priv cyc).memoriesOk := by
  unfold Aggregator.writeKey
  extract_lets page m cur a1 ones a2 mask base
  have h1 : a1.memoriesOk := .ite h.violation h
  have h2 : a2.memoriesOk := .ite (.of h1 rfl rfl) h1
  exact .ite (.of h rfl rfl) (.ite h2 h2.writeEffect)

theorem indTarget {page : Nat} (h : a.memoriesOk) : (a.indTarget page).memoriesOk := by
  unfold Aggregator.indTarget
  extract_lets a1
  have h1 : a1.memoriesOk := h.set
  split
  · exact h
  · exact .ite h1.set.modBar h1.modBar

theorem writeIndAddr {page : Nat} {w : W64} (h : a.memoriesOk) : (a.writeIndAddr page w).memoriesOk := by
  unfold Aggregator.writeIndAddr
  exact .ite h h.setWord.indTarget

theorem indFetched {page : Nat} (h : a.memoriesOk) : (a.indFetched page).memoriesOk := by
  unfold Aggregator.indFetched
  exact .ite h.set.modBar h

theorem indAdvance {page : Nat} (h : a.memoriesOk) : (a.indAdvance page).memoriesOk := by
  unfold Aggregator.indAdvance
  exact .ite h.set.indTarget h

/-- Here too the body replaces the name as a whole, and the value read is taken apart before the cases: the kernel would
evaluate `lastEntry` and `readKey`. -/
theorem indAccess {page : Nat} {write : Option W64} {priv : Bool} {q cyc : Nat} (h : a.memoriesOk) :
    (a.indAccess page write priv q cyc).2.memoriesOk := by
  rw [show @Aggregator.indAccess = _ by delta Aggregator.indAccess; rfl]
  split
  · exact h
  · extract_lets a0 e
    have h0 : a0.memoriesOk := h.modBar
    have hread : (a0.readKey (entryKey page e) priv q).2.memoriesOk := h0.readKey
    clear_value a0 e
    revert hread
    generalize a0.readKey (entryKey page e) priv q = read
    obtain ⟨v, b⟩ := read
    intro hread
    split
    · exact h0.set
    · split
      · exact h0.set
      · cases write with
        | some w => exact h0.writeKey.indAdvance
        | none => exact hread.indAdvance

theorem pageAccess {page off : Nat} {write : Option W64} {priv : Bool} {q cyc : Nat} (h : a.memoriesOk) :
    (a.pageAccess page off write priv q cyc).2.memoriesOk := by
  unfold Aggregator.pageAccess
  split
  · exact h.indAccess
  · split
    · exact .ite h.writeIndAddr h.writeKey
    · exact h.readKey

theorem applyHeld {k cyc : Nat} (h : a.memoriesOk) : (a.applyHeld k cyc).memoriesOk := by
  unfold Aggregator.applyHeld
  split
  · exact h
  · extract_lets mine
    exact .foldl h.modBar fun _ _ h => h.pageAccess

theorem holdWrite {k addr : Nat} {w : W64} {priv : Bool} (h : a.memoriesOk) : (a.holdWrite k addr w priv).memoriesOk := by
  unfold Aggregator.holdWrite
  extract_lets n
  exact .wakeDomain (.ite h.inc h.modBar)

theorem barAccess {off : Nat} {half : Bool} {write : Option W64} {q cyc : Nat} (h : a.memoriesOk) :
    (a.barAccess off half write q cyc).memoriesOk := by
  unfold Aggregator.barAccess
  extract_lets priv page reg k answer a1 a2
  have hans {b : Aggregator} (hb : b.memoriesOk) (v : W64) : (answer b v).memoriesOk := hb.modBar
  have h1 : a1.memoriesOk := h.violation
  have h2 : a2.memoriesOk := h.applyHeld
  split
  · exact .ite h (hans h _)
  · split
    · exact h.inc
    · split
      · exact .ite h1 (hans h1 _)
      · split
        · split
          · exact h.holdWrite
          · exact hans h.set.set.wakeDomain _
        · split
          · exact h2.pageAccess
          · split
            rename_i b hb
            exact hans (h2.set.pageAccess.ofPair hb) _

theorem sleepDomain {k idle : Nat} {final : Bool} (h : a.memoriesOk) : (a.sleepDomain k idle final).memoriesOk := by
  unfold Aggregator.sleepDomain
  split
  · exact h
  · extract_lets a1
    have h1 : a1.memoriesOk := h.domainSleep
    split
    · exact .foldl h1 fun _ _ h => h.set.set
    · exact h1

theorem wakeGivenUp {k : Nat} (h : a.memoriesOk) : (a.wakeGivenUp k).memoriesOk := by
  unfold Aggregator.wakeGivenUp
  extract_lets a1
  have h1 : a1.memoriesOk := h.wakeFail
  split
  · exact h1
  · exact .foldl h1.modBar fun _ _ h => h.set

end Aggregator.memoriesOk

end Sys2Proof.Machine
end HostMemories

section InstructionMemories
/-!
PROOFS. The memories of the aggregator keep their canonical form:
events of the interfaces and the instructions of detector programs (chapters 4, 5, 12 and 15).
-/
namespace Sys2Proof.Machine

namespace Aggregator.memoriesOk

variable {a : Aggregator}

theorem after {old : Aggregator} (h : a.memoriesOk) : (old.after a).memoriesOk := by
  unfold Aggregator.after
  extract_lets a1 a2
  have h1 : a1.memoriesOk := h.settle.settleBoot.settleFrees
  have h2 : a2.memoriesOk := .ite h1.stopMirrored h1
  exact h2.signalIrq

theorem barWrite {key w cyc : Nat} (h : a.memoriesOk) : (a.barWrite key w cyc).memoriesOk := by
  unfold Aggregator.barWrite
  exact h.barAccess

theorem barSet {f : Fld} {v cyc : Nat} (h : a.memoriesOk) : (a.barSet f v cyc).memoriesOk := by
  unfold Aggregator.barSet
  exact h.barWrite

theorem entryWrite {page e w cyc : Nat} (h : a.memoriesOk) : (a.entryWrite page e w cyc).memoriesOk := by
  unfold Aggregator.entryWrite
  exact h.writeKey

theorem tocReceive {seg : Nat} {l : List Byte} (h : a.memoriesOk) : (a.tocReceive seg l).2.memoriesOk := by
  unfold Aggregator.tocReceive
  exact h.withToc

theorem deliverAlarm {p : List Byte} (h : a.memoriesOk) : (a.deliverAlarm p).memoriesOk := by
  unfold Aggregator.deliverAlarm
  extract_lets a1 duid
  have h1 : a1.memoriesOk := h.report
  exact .ite h1.takeReport h1

theorem alarmRx {seg : Nat} {l : List Byte} (h : a.memoriesOk) : (a.alarmRx seg l).memoriesOk := by
  unfold Aggregator.alarmRx
  split
  · exact h
  · split
    rename_i b hb
    have h1 := h.tocReceive.ofPair hb
    extract_lets p
    split
    · exact h1
    · exact .ite h1.tocSend h1.tocSend.modHlt.deliverAlarm

theorem beaconTx {seg : Nat} (h : a.memoriesOk) : (a.beaconTx seg).memoriesOk := by
  unfold Aggregator.beaconTx
  extract_lets due
  exact .ite h h.modHlt.tocSend

theorem guestRx {seg : Nat} {l : List Byte} (h : a.memoriesOk) : (a.guestRx seg l).memoriesOk := by
  unfold Aggregator.guestRx
  split
  · exact h
  · split
    rename_i b hb
    have h1 := h.tocReceive.ofPair hb
    exact .ite h1 h1.guestNotice

theorem tocUnknown {seg : Nat} {l : List Byte} (h : a.memoriesOk) : (a.tocUnknown seg l).memoriesOk := by
  unfold Aggregator.tocUnknown
  exact .ite h h.tocReceive

theorem tocTxStart {seg quiet : Nat} (h : a.memoriesOk) : (a.tocTxStart seg quiet).memoriesOk := by
  unfold Aggregator.tocTxStart
  exact .ite h h.withToc

theorem tocCollision {seg : Nat} {cd : Bool} {heard : List Bool} (h : a.memoriesOk) : (a.tocCollision seg cd heard).memoriesOk := by
  unfold Aggregator.tocCollision
  split
  · exact h
  · exact .withToc h

theorem tocTxEnd {seg : Nat} (h : a.memoriesOk) : (a.tocTxEnd seg).memoriesOk := by
  unfold Aggregator.tocTxEnd
  exact .ite h h.withToc

theorem capsuleBad (h : a.memoriesOk) : a.capsuleBad.memoriesOk := by
  unfold Aggregator.capsuleBad
  exact h.raise

theorem capsuleRx {src kind : Nat} {l : List Byte} {f : Aggregator → Aggregator} (h : a.memoriesOk)
    (hf : ∀ a : Aggregator, a.memoriesOk → (f a).memoriesOk) : (a.capsuleRx src kind l f).memoriesOk := by
  unfold Aggregator.capsuleRx
  dsimp only
  split
  · exact h.capsuleBad
  · split
    · exact h.ackCapsule
    · exact hf _ h.ackCapsule.modHif

theorem pumpMgmt (h : a.memoriesOk) : a.pumpMgmt.memoriesOk := by
  unfold Aggregator.pumpMgmt
  exact h.modHif

theorem submitRx {src : Nat} {l : List Byte} (h : a.memoriesOk) : (a.submitRx src l).memoriesOk := by
  unfold Aggregator.submitRx
  split
  · exact h.capsuleBad
  · exact h.capsuleRx fun _ h => h.modHif.pumpMgmt

theorem dataRx {src : Nat} {l : List Byte} (h : a.memoriesOk) : (a.dataRx src l).memoriesOk := by
  unfold Aggregator.dataRx
  split
  · exact h.capsuleBad
  · exact h.capsuleRx fun _ h => h.modHif.pumpMgmt

theorem ackRx {src : Nat} {l : List Byte} (h : a.memoriesOk) : (a.ackRx src l).memoriesOk := by
  unfold Aggregator.ackRx
  exact .ite h.capsuleBad h.modHif

theorem capsuleResend {mseq : Nat} (h : a.memoriesOk) : (a.capsuleResend mseq).memoriesOk := by
  unfold Aggregator.capsuleResend
  split
  · exact h
  · split
    · exact h
    · exact .ite h.modHif h.modHif

theorem mctpRx {m : MctpMsg} (h : a.memoriesOk) : (a.mctpRx m).memoriesOk := by
  unfold Aggregator.mctpRx
  exact h.modHif

theorem dmaPulse {n bit_ : Nat} (h : a.memoriesOk) : (a.dmaPulse n bit_).memoriesOk := by
  unfold Aggregator.dmaPulse
  exact h.barWrite

theorem phOp {op pool next actor : Nat} {buf : Option Nat} (h : a.memoriesOk) : (a.phOp op pool next actor buf).memoriesOk := by
  unfold Aggregator.phOp
  extract_lets a1
  have h1 : a1.memoriesOk := by
    unfold a1
    split
    · exact h.barWrite
    · exact h
  exact h1.barWrite

theorem isa {c op : Nat} {i : Insn} {f : Core → Run → IsaRes} (h : a.memoriesOk) (hf : ∀ k r, (f k r).MemoriesOk) :
    (a.isa c op i f).memoriesOk := by
  unfold Aggregator.isa
  dsimp only
  split
  · exact h
  next r _ =>
    split
    · exact h
    · split
      · exact h.endRun
      · have hres := hf (a.core c) r
        split
        next heq => rwa [heq] at hres
        next heq => exact h.endRun
        next heq =>
          rw [heq] at hres
          exact endRun hres

theorem access {r : Run} {q : Req} {l : List MemAccess} {f : Aggregator → IsaRes} (h : a.memoriesOk)
    (hf : ∀ a : Aggregator, a.memoriesOk → (f a).MemoriesOk) : (a.access r q l f).MemoriesOk := by
  unfold Aggregator.access
  split
  · exact h.deny
  · dsimp only
    have h1 : (l.foldl (fun (a : Aggregator) x => a.hbmTouch x.2.1 x.2.2) a).memoriesOk := .foldl h fun _ _ h => h.hbmTouch
    split
    · exact h1
    · exact hf _ h1

theorem syncRes {c : Nat} {k : Core} {rd : Nat} {st : Option Nat} (h : a.memoriesOk) : (a.syncRes c k rd st).MemoriesOk := by
  unfold Aggregator.syncRes
  split
  · exact h.setCore
  · exact h.setCore

theorem isaCore {c op : Nat} {i : Insn} {f : Core → Core} (h : a.memoriesOk) : (a.isaCore c op i f).memoriesOk := by
  unfold Aggregator.isaCore
  exact h.isa fun _ _ => h.setCore

theorem alu {c op : Nat} {i : Insn} {f : W64 → W64 → W64} (h : a.memoriesOk) : (a.alu c op i f).memoriesOk := by
  unfold Aggregator.alu
  exact h.isaCore

theorem isaLi {c : Nat} {i : Insn} (h : a.memoriesOk) : (a.isaLi c i).memoriesOk := by
  unfold Aggregator.isaLi
  exact h.isaCore

theorem isaAddi {c : Nat} {i : Insn} (h : a.memoriesOk) : (a.isaAddi c i).memoriesOk := by
  unfold Aggregator.isaAddi
  exact h.isaCore

theorem isaHalt {c : Nat} {i : Insn} (h : a.memoriesOk) : (a.isaHalt c i).memoriesOk := by
  unfold Aggregator.isaHalt
  exact h.isa fun _ _ => h.endRun

theorem isaBranch {c op : Nat} {i : Insn} {p : W64 → Bool} (h : a.memoriesOk) : (a.isaBranch c op i p).memoriesOk := by
  unfold Aggregator.isaBranch
  exact h.isaCore

theorem isaCall {c : Nat} {i : Insn} (h : a.memoriesOk) : (a.isaCall c i).memoriesOk := by
  unfold Aggregator.isaCall
  exact h.isaCore

theorem isaRet {c : Nat} {i : Insn} (h : a.memoriesOk) : (a.isaRet c i).memoriesOk := by
  unfold Aggregator.isaRet
  exact h.isaCore

theorem isaLoop {c : Nat} {i : Insn} (h : a.memoriesOk) : (a.isaLoop c i).memoriesOk := by
  unfold Aggregator.isaLoop
  exact h.isaCore

theorem isaTrap {c : Nat} {i : Insn} (h : a.memoriesOk) : (a.isaTrap c i).memoriesOk := by
  unfold Aggregator.isaTrap
  exact h.isa fun _ _ => trivial

theorem isaLoad {c op n : Nat} {i : Insn} (h : a.memoriesOk) : (a.isaLoad c op n i).memoriesOk := by
  unfold Aggregator.isaLoad
  refine h.isa fun _ _ => ?_
  extract_lets addr
  split
  · exact trivial
  · exact h.access fun _ h => h.setCore

theorem isaStore {c op n : Nat} {i : Insn} (h : a.memoriesOk) : (a.isaStore c op n i).memoriesOk := by
  unfold Aggregator.isaStore
  refine h.isa fun _ _ => ?_
  extract_lets addr
  split
  · exact trivial
  · exact h.access fun _ h => (h.setCore.withMem (memPut_wf _ _ _ h.1))

theorem isaMove {c : Nat} {i : Insn} (h : a.memoriesOk) : (a.isaMove c i).memoriesOk := by
  unfold Aggregator.isaMove
  refine h.isa fun _ _ => ?_
  extract_lets m
  exact h.access fun _ h => h.setCore

theorem moveDone {c : Nat} (h : a.memoriesOk) : (a.moveDone c).memoriesOk := by
  unfold Aggregator.moveDone
  extract_lets k
  split
  · exact h
  · split
    · exact h
    · exact .ite h h.hbmTouch.setCore.poke

theorem isaMwait {c : Nat} {i : Insn} (h : a.memoriesOk) : (a.isaMwait c i).memoriesOk := by
  unfold Aggregator.isaMwait
  exact h.isa fun _ _ => h.setCore

theorem isaArrive {c cyc : Nat} {i : Insn} (h : a.memoriesOk) : (a.isaArrive c cyc i).memoriesOk := by
  unfold Aggregator.isaArrive
  refine h.isa fun _ _ => ?_
  split
  · exact h
  · split
    · exact h.syncRes
    · dsimp only
      exact h.arrive.syncRes

theorem isaSignal {c cyc : Nat} {i : Insn} (h : a.memoriesOk) : (a.isaSignal c cyc i).memoriesOk := by
  refine h.isa fun _ _ => ?_
  split
  · exact h
  · split
    · exact h.setCore
    · split
      rename_i b hb
      exact (h.semSignal.ofPair hb).setCore

theorem isaWait {c cyc : Nat} {i : Insn} (h : a.memoriesOk) : (a.isaWait c cyc i).memoriesOk := by
  unfold Aggregator.isaWait
  refine h.isa fun _ _ => ?_
  split
  · exact h.syncRes
  · dsimp only
    exact h.semWait.syncRes

theorem isaTrywait {c cyc : Nat} {i : Insn} (h : a.memoriesOk) : (a.isaTrywait c cyc i).memoriesOk := by
  unfold Aggregator.isaTrywait
  refine h.isa fun _ _ => ?_
  split
  · exact h.syncRes
  · dsimp only
    exact h.semTry.syncRes

theorem isaSemread {c : Nat} {i : Insn} (h : a.memoriesOk) : (a.isaSemread c i).memoriesOk := by
  unfold Aggregator.isaSemread
  refine h.isa fun _ _ => ?_
  split
  · split
    · exact h.syncRes
    · exact h.syncRes
  · exact h.syncRes

theorem isaEpoch {c : Nat} {i : Insn} (h : a.memoriesOk) : (a.isaEpoch c i).memoriesOk := by
  unfold Aggregator.isaEpoch
  refine h.isa fun _ _ => ?_
  extract_lets addr dst
  split
  · exact trivial
  · refine h.access fun _ h => ?_
    extract_lets key
    split
    split
    · exact trivial
    · exact h.access fun _ h => (h.setCore.withMem (memPut_wf _ _ _ h.1))

theorem isaEvent {c : Nat} {i : Insn} (h : a.memoriesOk) : (a.isaEvent c i).memoriesOk := by
  unfold Aggregator.isaEvent
  refine h.isa fun _ _ => ?_
  extract_lets addr
  split
  · exact trivial
  · exact h.access fun _ h => h.setCore.putEvent

theorem isaOut {c : Nat} {i : Insn} (h : a.memoriesOk) : (a.isaOut c i).memoriesOk := by
  unfold Aggregator.isaOut
  refine h.isa fun _ _ => ?_
  split
  · exact h.setCore
  · exact h.setCore

theorem isaFence {c : Nat} {i : Insn} (h : a.memoriesOk) : (a.isaFence c i).memoriesOk := by
  unfold Aggregator.isaFence
  exact h.isaCore

theorem isaBcast {c : Nat} {i : Insn} (h : a.memoriesOk) : (a.isaBcast c i).memoriesOk := by
  unfold Aggregator.isaBcast
  refine h.isa fun _ _ => ?_
  extract_lets addr len
  refine h.access fun _ h => ?_
  split
  · rename_i b hb
    have h1 := h.setCore.runBcast.ofPair hb
    exact h1
  · rename_i b hb
    have h1 := h.setCore.runBcast.ofPair hb
    exact trivial

theorem portDiscard {port : Nat} {d : Dom} (h : a.memoriesOk) : (a.portDiscard port d).memoriesOk := by
  unfold Aggregator.portDiscard
  exact .ite h.inc h

theorem ptpIgnore {m : PtpMsg} (h : a.memoriesOk) : (a.ptpIgnore m).memoriesOk := by
  unfold Aggregator.ptpIgnore
  exact h.timeOp.portDiscard

theorem unmatched (h : a.memoriesOk) : a.unmatched.memoriesOk := by
  unfold Aggregator.unmatched
  extract_lets gone
  exact .foldl h.timeOp fun _ _ h => h.portDiscard

theorem slaveRx {m : PtpMsg} {event : Bool} {f : TimeView → TimeView} (h : a.memoriesOk) : (a.slaveRx m event f).memoriesOk := by
  unfold Aggregator.slaveRx
  extract_lets a1
  have h1 : a1.memoriesOk := .ite h.unmatched h
  split
  · exact h1.timeOp
  · exact .ptpIgnore (.ite h1.withView h1)

theorem rxStrobe {port q lIn : Nat} {valid : Bool} (h : a.memoriesOk) : (a.rxStrobe port q lIn valid).memoriesOk := by
  unfold Aggregator.rxStrobe
  extract_lets a1
  have h1 : a1.memoriesOk := h.timeOp
  exact .ite h1 h1.portDiscard

theorem txStrobe {port q lEg : Nat} {valid : Bool} (h : a.memoriesOk) : (a.txStrobe port q lEg valid).memoriesOk := by
  unfold Aggregator.txStrobe
  extract_lets c t a1 a2
  have h1 : a1.memoriesOk := h.timeOp
  have h2 : a2.memoriesOk := .ite h1.portDiscard h1
  split
  · exact h2
  · exact h2

theorem syncTx {port : Nat} {d : Dom} (h : a.memoriesOk) : (a.syncTx port d).memoriesOk := by
  unfold Aggregator.syncTx
  extract_lets e due seq a1
  have h1 : a1.memoriesOk := h.incWrap
  clear_value a1
  split
  · exact .of h1 rfl rfl
  · exact h

theorem announceTx {port : Nat} {d : Dom} (h : a.memoriesOk) : (a.announceTx port d).memoriesOk := by
  unfold Aggregator.announceTx
  extract_lets e cls due seq a1
  have h1 : a1.memoriesOk := h.incWrap
  clear_value a1
  split
  · exact .of h1 rfl rfl
  · exact h

theorem delayReqRx {m : PtpMsg} (h : a.memoriesOk) : (a.delayReqRx m).memoriesOk := by
  unfold Aggregator.delayReqRx
  extract_lets a0
  have h0 : a0.memoriesOk := h.unmatched
  clear_value a0
  split
  · exact h0.withView.ptpIgnore
  · split
    extract_lets a1 a2
    have h1 : a1.memoriesOk := h0.withView
    have h2 : a2.memoriesOk := h1.incWrap
    clear_value a2
    split
    · exact h1.ptpIgnore
    · split
      · exact h1
      · split
        exact .of h2 rfl rfl

theorem delayReqTx {d : Dom} (h : a.memoriesOk) : (a.delayReqTx d).memoriesOk := by
  unfold Aggregator.delayReqTx
  split
  · exact h
  · split
    · exact h
    · extract_lets a1
      have h1 : a1.memoriesOk := h.withView
      exact h1

theorem driveRef (h : a.memoriesOk) : a.driveRef.memoriesOk := by
  unfold Aggregator.driveRef
  exact h

theorem tick (h : a.memoriesOk) : a.tick.memoriesOk := by
  unfold Aggregator.tick
  exact h.withView.driveRef

theorem isaLanes {c op : Nat} {i : Insn} {f : Core → Ste → Nat → W64} (h : a.memoriesOk) : (a.isaLanes c op i f).memoriesOk := by
  unfold Aggregator.isaLanes
  exact h.isaCore

theorem isaVload {c op : Nat} {i : Insn} {at_ : Core → Ste → Nat → W64} (h : a.memoriesOk) : (a.isaVload c op i at_).memoriesOk := by
  unfold Aggregator.isaVload
  refine h.isa fun _ _ => ?_
  extract_lets s n addr on
  split
  · exact trivial
  · exact h.access fun _ h => h.setCore

theorem isaVld {c : Nat} {i : Insn} (h : a.memoriesOk) : (a.isaVld c i).memoriesOk := by
  unfold Aggregator.isaVld
  exact h.isaVload

theorem isaVlds {c : Nat} {i : Insn} (h : a.memoriesOk) : (a.isaVlds c i).memoriesOk := by
  unfold Aggregator.isaVlds
  exact h.isaVload

theorem isaVgather {c : Nat} {i : Insn} (h : a.memoriesOk) : (a.isaVgather c i).memoriesOk := by
  unfold Aggregator.isaVgather
  exact h.isaVload

theorem isaVst {c : Nat} {i : Insn} (h : a.memoriesOk) : (a.isaVst c i).memoriesOk := by
  unfold Aggregator.isaVst
  refine h.isa fun _ _ => ?_
  extract_lets s n addr on
  split
  · exact trivial
  · exact h.access fun _ h => (h.setCore.withMem (memFold_wf h.1 fun _ _ h => memPut_wf _ _ _ h))

theorem isaV2 {c op : Nat} {i : Insn} {fp : FpVal → FpVal → FpVal} {int : Option (Int → Int → Int)} (h : a.memoriesOk) :
    (a.isaV2 c op i fp int).memoriesOk := by
  unfold Aggregator.isaV2
  exact h.isaLanes

theorem isaVfma {c : Nat} {i : Insn} (h : a.memoriesOk) : (a.isaVfma c i).memoriesOk := by
  unfold Aggregator.isaVfma
  exact h.isaLanes

theorem isaV1 {c op : Nat} {i : Insn} {fp : FpVal → FpVal} {int : Option (Int → Int)} (h : a.memoriesOk) : (a.isaV1 c op i fp int).memoriesOk := by
  unfold Aggregator.isaV1
  exact h.isaLanes

theorem isaElem {c op : Nat} {i : Insn} (h : a.memoriesOk) : (a.isaElem c op i).memoriesOk := by
  unfold Aggregator.isaElem
  exact h.isaLanes

theorem isaVcvt {c : Nat} {i : Insn} (h : a.memoriesOk) : (a.isaVcvt c i).memoriesOk := by
  unfold Aggregator.isaVcvt
  exact h.isaLanes

theorem isaVcmp {c op : Nat} {i : Insn} {p : FpVal → FpVal → Bool} (h : a.memoriesOk) : (a.isaVcmp c op i p).memoriesOk := by
  unfold Aggregator.isaVcmp
  exact h.isaCore

theorem isaVsel {c : Nat} {i : Insn} (h : a.memoriesOk) : (a.isaVsel c i).memoriesOk := by
  unfold Aggregator.isaVsel
  exact h.isaCore

theorem isaVbcast {c : Nat} {i : Insn} (h : a.memoriesOk) : (a.isaVbcast c i).memoriesOk := by
  unfold Aggregator.isaVbcast
  exact h.isaLanes

theorem isaVrsum {c : Nat} {i : Insn} (h : a.memoriesOk) : (a.isaVrsum c i).memoriesOk := by
  unfold Aggregator.isaVrsum
  exact h.isaCore

theorem isaVrmax {c : Nat} {i : Insn} (h : a.memoriesOk) : (a.isaVrmax c i).memoriesOk := by
  unfold Aggregator.isaVrmax
  exact h.isaCore

theorem isaVbkt {c : Nat} {i : Insn} (h : a.memoriesOk) : (a.isaVbkt c i).memoriesOk := by
  unfold Aggregator.isaVbkt
  exact h.isaLanes

theorem isaMzero {c : Nat} {i : Insn} (h : a.memoriesOk) : (a.isaMzero c i).memoriesOk := by
  unfold Aggregator.isaMzero
  exact h.isaCore

theorem isaMma {c : Nat} {i : Insn} (h : a.memoriesOk) : (a.isaMma c i).memoriesOk := by
  unfold Aggregator.isaMma
  refine h.isa fun _ _ => ?_
  extract_lets s n w pa pb
  split
  · exact trivial
  · refine h.access fun _ h => ?_
    extract_lets el
    change Aggregator.memoriesOk _
    exact .setCore (.ite h h)

theorem isaMst {c : Nat} {i : Insn} (h : a.memoriesOk) : (a.isaMst c i).memoriesOk := by
  unfold Aggregator.isaMst
  refine h.isa fun _ _ => ?_
  extract_lets s w p
  split
  · exact trivial
  · refine h.access fun _ h => ?_
    change Aggregator.memoriesOk _
    extract_lets __src
    have h__src : __src.memoriesOk := .setCore (.ite h h)
    exact h__src.withMem (memPut_wf _ _ _ h.1)

theorem isaMact {c : Nat} {i : Insn} (h : a.memoriesOk) : (a.isaMact c i).memoriesOk := by
  unfold Aggregator.isaMact
  exact h.isaCore

theorem isaHins {c : Nat} {i : Insn} (h : a.memoriesOk) : (a.isaHins c i).memoriesOk := by
  unfold Aggregator.isaHins
  refine h.isa fun _ _ => ?_
  extract_lets s p
  split
  · exact trivial
  · refine h.access fun _ h => ?_
    extract_lets l new
    exact h.setCore.withMem (memPut_wf _ _ _ h.1)

theorem isaHmrg {c : Nat} {i : Insn} (h : a.memoriesOk) : (a.isaHmrg c i).memoriesOk := by
  refine h.isa fun _ _ => ?_
  extract_lets p q
  split
  · exact trivial
  · refine h.access fun b h => ?_
    extract_lets l m
    clear_value l m
    split
    · exact trivial
    · exact h.setCore.withMem (memPut_wf _ _ _ h.1)

theorem isaHqnt {c : Nat} {i : Insn} (h : a.memoriesOk) : (a.isaHqnt c i).memoriesOk := by
  unfold Aggregator.isaHqnt
  refine h.isa fun _ _ => ?_
  extract_lets p
  split
  · exact trivial
  · refine h.access fun _ h => ?_
    extract_lets l v
    exact h.setCore

/-- A sketch instruction keeps the memories canonical where what it does with a sketch in reach does. -/
theorem sketch {r : Run} {w : Bool} {p : Nat} {f : Aggregator → Nat → List (Nat × Nat) → IsaRes} (h : a.memoriesOk)
    (hf : ∀ a w rows, a.memoriesOk → (f a w rows).MemoriesOk) : (a.sketch r w p f).MemoriesOk := by
  unfold Aggregator.sketch
  extract_lets whole
  split
  · exact trivial
  · refine h.access fun _ h => ?_
    split
    · exact trivial
    · exact h.access fun _ h => hf _ _ _ h

theorem isaCmsadd {c : Nat} {i : Insn} (h : a.memoriesOk) : (a.isaCmsadd c i).memoriesOk := by
  refine h.isa fun _ _ => ?_
  refine h.sketch fun _ _ _ h => ?_
  exact h.setCore.withMem (memFold_wf h.1 fun _ _ hm => memFold_wf hm fun _ _ hm => memPut_wf _ _ _ hm)

theorem isaCmsq {c : Nat} {i : Insn} (h : a.memoriesOk) : (a.isaCmsq c i).memoriesOk := by
  refine h.isa fun _ _ => ?_
  exact h.sketch fun _ _ _ h => h.setCore

theorem isaXde {c op : Nat} {i : Insn} {f : Core → Run → IsaRes} (h : a.memoriesOk) (hf : ∀ k r, (f k r).MemoriesOk) :
    (a.isaXde c op i f).memoriesOk := by
  refine h.isa fun k r => ?_
  split
  · exact trivial
  · exact hf k r

theorem isaXclr {c : Nat} {i : Insn} (h : a.memoriesOk) : (a.isaXclr c i).memoriesOk := by
  unfold Aggregator.isaXclr
  exact h.isaXde fun _ _ => h.setCore

theorem isaXdot {c : Nat} {i : Insn} (h : a.memoriesOk) : (a.isaXdot c i).memoriesOk := by
  unfold Aggregator.isaXdot
  refine h.isaXde fun _ _ => ?_
  extract_lets code pr n pa pb
  split
  rename_i b hb
  have h1 := h.draw.ofPair hb
  split
  split
  · exact h1.setCore
  · extract_lets len
    refine h.access fun _ h => ?_
    split
    rename_i b2 hb2
    have h12 := h.draw.ofPair hb2
    extract_lets x
    split
    · exact h12.setCore
    · exact h.setCore

theorem isaXaddv {c : Nat} {i : Insn} (h : a.memoriesOk) : (a.isaXaddv c i).memoriesOk := by
  unfold Aggregator.isaXaddv
  refine h.isaXde fun _ _ => ?_
  extract_lets st pr
  split
  rename_i b hb
  have h1 := h.draw.ofPair hb
  split
  split
  · exact h1.setCore
  · exact h.setCore

theorem isaXrd {c : Nat} {i : Insn} (h : a.memoriesOk) : (a.isaXrd c i).memoriesOk := by
  unfold Aggregator.isaXrd
  refine h.isaXde fun _ _ => ?_
  extract_lets p
  split
  split
  · exact trivial
  · refine h.access fun _ h => ?_
    extract_lets v
    exact h.setCore.withMem (memPut_wf _ _ _ h.1)

end Aggregator.memoriesOk

end Sys2Proof.Machine
end InstructionMemories

section CommandMemories
/-!
PROOFS. Every command, and so every step, keeps the memories of the aggregator canonical.
-/
namespace Sys2Proof.Machine

/-- The next state, where there is one, has canonical memories. -/
def MemoriesKept : Out → Prop
  | .next t => t.agg.memoriesOk
  | _ => True

namespace MemoriesKept

variable {s : State}

theorem onDu {d : DieUnit} (h : s.agg.memoriesOk) : MemoriesKept (.next { s with du := d }) := h

theorem onAgg {f : Aggregator → Aggregator} (hf : (f s.agg).memoriesOk) : MemoriesKept (s.onAgg f) := hf.after

theorem onUp {f : Aggregator → Aggregator} (h : s.agg.memoriesOk) (hf : (f s.agg).memoriesOk) : MemoriesKept (s.onUp f) :=
  onAgg (.ite hf h)

theorem onOob {f : Aggregator → Aggregator} (h : s.agg.memoriesOk) (hf : (f s.agg).memoriesOk) : MemoriesKept (s.onOob f) :=
  onAgg (.ite hf h)

theorem onPart {p : Part} {fd : DieUnit → DieUnit} {fa : Aggregator → Aggregator} (h : s.agg.memoriesOk)
    (hf : (fa s.agg).memoriesOk) : MemoriesKept (s.onPart p fd fa) := by
  cases p with
  | du => exact onDu h
  | agg => exact onAgg hf

theorem onNode {seg : Option Nat} {fd : DieUnit → DieUnit} {fa : Nat → Aggregator → Aggregator} (h : s.agg.memoriesOk)
    (hf : ∀ k, (fa k s.agg).memoriesOk) : MemoriesKept (s.onNode seg fd fa) := by
  cases seg with
  | none => exact onDu h
  | some k => exact onAgg (hf k)

theorem onHeard {rxd : List Bool} {f : List Byte → Aggregator → Aggregator} (h : s.agg.memoriesOk)
    (hf : ∀ l, (f l s.agg).memoriesOk) : MemoriesKept (s.onHeard rxd f) := by
  refine onAgg ?_
  split
  · exact h
  · exact hf _

end MemoriesKept

theorem exec_memoriesKept (i : Instr) {s : State} (h : s.agg.memoriesOk) : MemoriesKept (exec i s) := by
  cases i <;> dsimp only [exec]
  case interpLineSwap | refLost | refReturn | clkmonWindow | pealArm | counterClockResume | pealLightSetTimeout | gateWindowOpen
    | gateWindowClose | pdClkAck | domainWakeDone | domainWakeFail | domainSleep | tracePacketAsleep | porN | rstN | softReset | domainReset
    | macRxDiscard | egDrop | cntCycle | ltErrToggle | commandStart | commandEnd | selectorWrite | clear | snap | freeze | freezeRel
    | freezeTimeout | latchRel | counterRead | pealBankCopy | latchParcelBuild | tracePacketPresent | traceStageWrite | deadReportStage
    | sourceSleep | sourceWake | traceClockResume | authWrite | segmentFlushTimeout | segmentDrain | drainEnWrite | ringTrig | traceModeWrite
    | stepAdvance | checkEvent | lineageTransfer | tileCommit | selectionAnswer | captureBeat | captureAbort | captureDeadline
    | captureUnfinished | dumpRequest | dumpAck | dumpAckTimeout | dumpBeat | heReport | snUpd | healthRecordRelease | supplyWarn | supplyCrit
    | flushWordAck | flushWordTimeout | alarmAckRx | alarmResend | chipResetAnnounceRx | beaconRx | beaconLost | failoverTimeout | keepaliveRx
    | registerRequestTx | registerAcceptRx | registerRefuseRx | arm | retire | freezeRelease | fpMap | selKey | dumpArm | ringTrigger
    | readmit | regWrite | regRead | ctlBadFrame | launchDecision | shaperRefill | shaperConfigWrite | gateCommit | gateListSwitch
    | parcelCloseTimeout | pkgPosWrite => exact .onDu h
  case syncTx => exact .onAgg h.syncTx
  case announceTx => exact .onAgg h.announceTx
  case bankEraseDone => exact .onAgg h.bankErased
  case aggSupplyWarn => exact .onAgg h.supplyWarn
  case aggSupplyCrit => exact .onAgg h.supplyCrit
  case aggFlushPageDone => exact .onAgg h.flushPageDone
  case beaconTx => exact .onAgg h.beaconTx
  case keepaliveTx => exact .onUp h h.keepalive
  case registerRequestRx => exact .onUp h h.registerRequestRx
  case failoverRequestRx => exact .onUp h h.failoverRx
  case controlAckRx => exact .onUp h h.controlAckRx
  case ctlRetry => exact .onUp h h.ctlRetry
  case parcelCheck => exact .onUp h h.parcelCheck
  case channelOpen => exact .onAgg h.channelOpen
  case forwardBufferGrant => exact .onAgg h.forwardGrant
  case forwardWaitTimeout => exact .onAgg h.forwardTimeout
  case posteRestanteResume => exact .onAgg h.posteResume
  case channelCancel => exact .onAgg h.chanCancel
  case pealArmSend => exact .onUp h h.pealArmSend
  case trayEpochDeadline => exact .onUp h h.trayDeadline
  case subtreeEpochDeadline => exact .onUp h h.subtreeDeadline
  case treeContribRx => exact .onUp h h.treeContribRx
  case contribAckRx => exact .onUp h h.contribAckRx
  case contribRetry => exact .onUp h h.contribRetry
  case treeHeartbeatTx => exact .onUp h h.heartbeatTx
  case treeHeartbeatRx => exact .onUp h h.heartbeatRx
  case treeHeartbeatLost => exact .onUp h h.heartbeatLost
  case reparentEffect => exact .onUp h h.reparentEffect
  case bcArmedCheck | bcPealSchedule | bcSelRates | bcDetectorParams | bcTaint | bcReparent | bcReserved => exact .onUp h h.bcastRx
  case bcRetry => exact .onUp h h.bcRetry
  case bcGapWaitExpiry => exact .onUp h h.gapExpiry
  case bcAckRx => exact .onUp h h.bcAckRx
  case nakRx => exact .onUp h h.nakRx
  case bcDoneWaitExpiry => exact .onUp h h.doneExpiry
  case retireDrainExpiry => exact .onUp h h.retireDrainExpiry
  case quarantineEnd => exact .onUp h h.quarantineEnd
  case mirrorLinkUp => exact .onUp h h.mirrorLinkUp
  case mirrorLinkDown => exact .onUp h h.mirrorLinkDown
  case mirrorLedgerRx => exact .onUp h h.mirrorLedgerRx
  case mirrorContextRx => exact .onUp h h.mirrorContextRx
  case mirrorImageRx => exact .onUp h h.mirrorImageRx
  case mirrorAckRx => exact .onUp h h.mirrorAckRx
  case mirrorSpilledRx => exact .onUp h h.mirrorSpilledRx
  case resyncReqRx => exact .onUp h h.resyncReqRx
  case resyncBeginRx => exact .onUp h h.resyncBeginRx
  case resyncEndRx => exact .onUp h h.resyncEndRx
  case partnerHealthRx => exact .onUp h h.partnerHealthRx
  case mirrorReservedRx => exact .onUp h h.mirrorReservedRx
  case mirrorRetry => exact .onUp h h.mirrorRetry
  case partnerHealthTx => exact .onUp h h.partnerHealthTx
  case partnerLost => exact .onUp h h.partnerLost
  case stageWaitExpiry => exact .onAgg h.stageExpiry
  case tileDispatch => exact .onAgg h.dispatch
  case startWaitExpiry => exact .onAgg h.startExpiry
  case auditComplete => exact .onAgg h.auditComplete
  case engineFault => exact .onAgg h.engineFault
  case numericsDescriptorWrite | syncOwnerWrite | barrierMaskWrite | barrierReset | semValueWrite | semReset => exact .onAgg h.entryWrite
  case detectorTrayRun | detectorEpochRun => exact .onAgg h.startRun
  case runBudget => exact .onAgg h.runBudget
  case nop => exact .onAgg h.isaCore
  case halt => exact .onAgg h.isaHalt
  case li => exact .onAgg h.isaLi
  case add | sub | mul | mulhu | and | or | xor | shl | shr | sra | cmplt | cmpltu | cmpeq | divu | remu => exact .onAgg h.alu
  case addi => exact .onAgg h.isaAddi
  case ld | ldw => exact .onAgg h.isaLoad
  case st | stw => exact .onAgg h.isaStore
  case br | bz | bnz => exact .onAgg h.isaBranch
  case call => exact .onAgg h.isaCall
  case ret => exact .onAgg h.isaRet
  case loop => exact .onAgg h.isaLoop
  case arrive => exact .onAgg h.isaArrive
  case barrierRelease => exact .onAgg h.barrierRelease
  case barrierTimeout => exact .onAgg h.barrierTimeout
  case signal => exact .onAgg h.isaSignal
  case wait => exact .onAgg h.isaWait
  case trywait => exact .onAgg h.isaTrywait
  case semread => exact .onAgg h.isaSemread
  case semWaiterRelease => exact .onAgg h.semRelease
  case semWaitTimeout => exact .onAgg h.semExpire
  case move => exact .onAgg h.isaMove
  case moveDone => exact .onAgg h.moveDone
  case mwait => exact .onAgg h.isaMwait
  case epoch => exact .onAgg h.isaEpoch
  case event => exact .onAgg h.isaEvent
  case out => exact .onAgg h.isaOut
  case fence => exact .onAgg h.isaFence
  case bcast => exact .onAgg h.isaBcast
  case trap => exact .onAgg h.isaTrap
  case vld => exact .onAgg h.isaVld
  case vst => exact .onAgg h.isaVst
  case vlds => exact .onAgg h.isaVlds
  case vgather => exact .onAgg h.isaVgather
  case vadd | vsub | vmul | vdiv | vmin | vmax => exact .onAgg h.isaV2
  case vfma => exact .onAgg h.isaVfma
  case vsqrt | vabs => exact .onAgg h.isaV1
  case vcvt => exact .onAgg h.isaVcvt
  case vcmplt | vcmpeq => exact .onAgg h.isaVcmp
  case vsel => exact .onAgg h.isaVsel
  case vexp2 | vlog2 => exact .onAgg h.isaElem
  case vbcast => exact .onAgg h.isaVbcast
  case vrsum => exact .onAgg h.isaVrsum
  case vrmax => exact .onAgg h.isaVrmax
  case vbkt => exact .onAgg h.isaVbkt
  case mzero => exact .onAgg h.isaMzero
  case mma => exact .onAgg h.isaMma
  case mst => exact .onAgg h.isaMst
  case mact => exact .onAgg h.isaMact
  case hins => exact .onAgg h.isaHins
  case hmrg => exact .onAgg h.isaHmrg
  case hqnt => exact .onAgg h.isaHqnt
  case cmsadd => exact .onAgg h.isaCmsadd
  case cmsq => exact .onAgg h.isaCmsq
  case xclr => exact .onAgg h.isaXclr
  case xdot => exact .onAgg h.isaXdot
  case xaddv => exact .onAgg h.isaXaddv
  case xrd => exact .onAgg h.isaXrd
  case selRatesSend => exact .onUp h h.ratesSend
  case memoryUncorrectable => exact .onAgg h.memoryUe
  case bridgeFatal => exact .onAgg h.bridgeFatal
  case aggWatchdog => exact .onAgg h.watchdog
  case hbmPatrolScrub => exact .onAgg h.patrolScrub
  case aggDomainSleep => exact .onAgg h.sleepDomain
  case deferredWakeStart => exact .onAgg h.deferredStart
  case aggWakeFail => exact .onAgg h.wakeGivenUp
  case coreDrain | coreMapOut => exact .onAgg h.barSet
  case coreDrained => exact .onAgg h.drainDone
  case thermalSample => exact .onAgg h.thermalSample
  case stepSeal => exact .onUp h h.stepSeal
  case forcedSeal => exact .onUp h h.forcedSeal
  case stepSpill => exact .onUp h h.stepSpill
  case spillWriteDone => exact .onUp h h.spillWriteDone
  case spillRetry => exact .onUp h h.spillRetry
  case ledgerFetchDone => exact .onUp h h.fetchDone
  case fetchWaitExpiry => exact .onUp h h.fetchExpiry
  case mismatchResolveTimeout => exact .onUp h h.resolveTimeout
  case scoreDecay => exact .onUp h h.scoreDecay
  case condSuspectExpiry => exact .onUp h h.condExpiry
  case chipReset => exact .onAgg h.chipResetCause
  case chipResetBegin => exact .onAgg h.resetBegin
  case aggPowerOn => exact .onAgg h.powerOn
  case aggBoot => exact .onAgg h.bootRun
  case bootResyncTimeout => exact .onAgg h.bootTimeout
  case scanStart => exact .onUp h h.scanStart
  case scanComplete => exact .onUp h h.scanComplete
  case fanoutCalibration => exact .onUp h h.calFanout
  case bridgeCalibration => exact .onUp h h.calBridge
  case sensorTrimCalibration => exact .onUp h h.calSensor
  case sqDoorbell => exact .onUp h h.sqDoorbell
  case cqDoorbell => exact .onUp h h.cqDoorbell
  case commandFetch => exact .onOob h h.commandFetch
  case commandBudgetExpiry => exact .onOob h h.budgetExpiry
  case identify => exact .onOob h h.cmdIdentify
  case getLogRecorder | getLogNotices | getLogSampling | getLogFwSlots | getLogPools | getLogQueues => exact .onOob h h.cmdLog
  case getFeature => exact .onOob h h.cmdGetFeature
  case firmwareDownload => exact .onOob h h.cmdFwDownload
  case fwCommit => exact .onOob h h.cmdFwCommit
  case fwCommitActivate => exact .onOob h h.cmdFwCommitActivate
  case fwActivate => exact .onOob h h.cmdFwActivate
  case fwActivationProceed => exact .onOob h h.fwProceed
  case fwReady => exact .onOob h h.fwReady
  case fwReadyTimeout => exact .onOob h h.fwTimeout
  case flush => exact .onUp h h.cmdFlush
  case flushComplete => exact .onUp h h.flushComplete
  case resetInterface => exact .onUp h h.resetInterface
  case resetChip => exact .onUp h h.resetChip
  case query => exact .onUp h h.cmdQuery
  case readLedgerRecords | readLedgerSummary | readLedgerEpochs | readLedgerVerdicts | readLedgerCompare | readLedgerLastClean
    | readLedgerManifest => exact .onUp h h.cmdReadLedger
  case readTrace => exact .onUp h h.cmdReadTrace
  case armJob => exact .onUp h h.cmdArmJob
  case retireJob => exact .onUp h h.cmdRetireJob
  case capsuleSubmitRx => exact .onOob h h.submitRx
  case capsuleDataRx => exact .onOob h h.dataRx
  case capsuleAckRx => exact .onOob h h.ackRx
  case capsuleResend => exact .onOob h h.capsuleResend
  case mctpMessageRx => exact .onOob h h.mctpRx
  case pcieConventionalReset => exact .onAgg h.pcieReset
  case flr => exact .onAgg h.flr
  case dmaStart | dmaStop => exact .onAgg h.dmaPulse
  case dmaDescriptorDone => exact .onAgg h.dmaDescDone
  case dmaFault => exact .onAgg h.dmaHostError
  case phAlloc | phGive | phFree => exact .onAgg h.phOp
  case heldWritesApply => exact .onAgg h.applyHeld
  case reAdmission => exact .onUp h h.reAdmission
  case bridgeReplay => exact .onAgg h.bridgeReplay
  case memoryCorrected => exact .onAgg h.memoryCorrected
  case indFetchDone => exact .onAgg h.indFetched
  case hbmTrainingCalibration => exact .onUp h h.calHbm
  case laneTrainingFailure => exact .onAgg h.laneDown
  case fleetTimeTick => exact .onPart h h.tick
  case tsRxStrobe => exact .onPart h h.rxStrobe
  case tsTxStrobe => exact .onPart h h.txStrobe
  case strobeUnmatched => exact .onPart h h.unmatched
  case syncRx | followUpRx | announceRx => exact .onPart h h.slaveRx
  case delayReqTx => exact .onPart h h.delayReqTx
  case delayReqRx => exact .onPart h h.delayReqRx
  case delayRespRx => exact .onPart h h.draw.slaveRx
  case ptpUnimplementedRx => exact .onPart h h.ptpIgnore
  case syncReceiptLoss | announceTimeout => exact .onPart h h.timeOp
  case acceptJump | recorderFlush => exact .onPart h h.barSet
  case activeSet | recorderCursorWrite => exact .onPart h h.barWrite
  case tcNowRead | recWinAutoRead | registerWrite | w1cStatusRead | clearKeyWrite | clearingWrite | indAddrWrite | indDataAccess =>
    exact .onPart h h.barAccess
  case pealFire => exact .onPart h h.fanOut
  case supplyOk => exact .onPart h h.supplyOk
  case faultFlushStart => exact .onPart h h.faultFlush
  case queuedFlushStart => exact .onPart h h.queuedFlush
  case recorderWrite | rateBucketRefill | recWindowLoaded => exact .onPart h h.withRec
  case tocsinTxStart => exact .onNode h fun _ => h.tocTxStart
  case tocsinCollision => exact .onNode h fun _ => h.tocCollision
  case tocsinTxEnd => exact .onNode h fun _ => h.tocTxEnd
  case alarmRx => exact .onHeard h fun _ => h.alarmRx
  case guestFrameRx => exact .onHeard h fun _ => h.guestRx
  case tocsinUnknownRx =>
    refine .onNode h fun _ => ?_
    split
    · exact h
    · exact h.tocUnknown
  case telemetryFrameRx => exact .onUp h h.telemetryRx.settleEpochs
  case reasmTimeout => exact .onUp h h.reasmTimeout.settleEpochs
  case aggDomainWake => exact .onAgg (.ite h.domainUsable h.wakeDomain)
  case queueCreate => exact .onUp h (h.cmdFeature fun _ _ _ h => h.queueCreate)
  case queueDelete => exact .onUp h (h.cmdFeature fun _ _ _ h => h.queueDelete)
  case cancel => exact .onUp h (h.cmdFeature fun _ _ _ h => h.cancelTag)
  case detImageLoad => exact .onUp h (h.cmdFeature fun _ _ _ h => h.detImageLoad)
  case detImageFree => exact .onUp h (h.cmdFeature fun _ _ _ h => h.detImageFree)
  case detBind =>
    refine .onUp h (h.cmdFeature fun _ _ _ h => ?_)
    split
    · exact h
    · exact h.detBind
  case detUnbind => exact .onUp h (h.cmdFeature fun _ _ _ h => h.detUnbind)
  case broadcastIssue => exact .onUp h (h.cmdJobFeature fun _ _ _ _ _ h => h.broadcastIssue)
  case ledgerSpillNow => exact .onUp h (h.cmdFeature fun _ _ _ h => h.spillFeature)
  case ledgerImport => exact .onUp h (h.cmdFeature fun _ _ _ h => h.ledgerImport)
  case ledgerReference => exact .onUp h (h.cmdJobFeature fun _ _ _ _ _ h => h.ledgerReference)
  case healthBudget =>
    refine .onUp h (h.cmdFeature fun _ _ _ h => ?_)
    split
    · exact h
    · exact h.writeBudget
  case knellConfirm => exact .onUp h (h.cmdFeature fun _ _ _ h => by dsimp only; exact h.knellConfirm)
  case knellRelease => exact .onUp h (h.cmdFeature fun _ _ _ h => by dsimp only; exact h.knellRelease)
  case swap => exact .onUp h (h.cmdJobFeature fun _ _ _ _ _ h => h.swap)
  case scan => exact .onUp h (h.cmdFeature fun _ _ _ h => h.scanFeature)
  case resetLoopClear => exact .onUp h (h.cmdFeature fun _ _ _ h => h.resetLoopClear)

theorem step_memoriesKept {s : State} (h : s.agg.memoriesOk) : MemoriesKept (step s) := by
  unfold step
  split
  · exact h
  · exact exec_memoriesKept _ h

/-- Settles O58: every command keeps the memories of the aggregator canonical, and an idle step changes nothing. -/
theorem memoriesStayCanonical : Obligations.MemoriesStayCanonical := by
  unfold Obligations.MemoriesStayCanonical
  intro s t h hstep
  have kept := step_memoriesKept h
  rw [hstep] at kept
  exact kept

end Sys2Proof.Machine
end CommandMemories

section ScansAndSensors
/-!
PROOFS. A scan that passes on a core beyond the 64 (R416): what settles after an event leaves of the word of HLT_STATUS.
-/
namespace Sys2Proof.Machine

/-! ### What settles keeps a job where there is one -/

/-- There is a job. -/
def Aggregator.HasJobs (a : Aggregator) : Prop := a.jobs ≠ []

@[simp] theorem Aggregator.event_fields (a : Aggregator) (e : MgmtEvent) :
    (a.event e).jobs = a.jobs ∧ (a.event e).hlt = a.hlt := by
  unfold Aggregator.event
  split <;> simp

@[simp] theorem Aggregator.report_hlt (a : Aggregator) (n : String) (l : List Nat) : (a.report n l).hlt = a.hlt := by
  simp [Aggregator.report]

@[simp] theorem Aggregator.beginWake_jobs (a : Aggregator) (k : Nat) (off : Bool) : (a.beginWake k off).jobs = a.jobs := by
  simp [Aggregator.beginWake, Aggregator.setAd, Aggregator.showPower]

@[simp] theorem Aggregator.wakeOne_jobs (a : Aggregator) (k : Nat) : (a.wakeOne k).jobs = a.jobs := by
  unfold Aggregator.wakeOne
  dsimp only
  split
  · rfl
  · split
    · simp
    · simp [Aggregator.setAd, Aggregator.showPower]

@[simp] theorem Aggregator.wakeDomain_jobs (a : Aggregator) (k : Nat) : (a.wakeDomain k).jobs = a.jobs := by
  unfold Aggregator.wakeDomain
  split
  · simp [Aggregator.setAd, Aggregator.showPower]
  · split
    · split <;> simp
    · simp

@[simp] theorem Aggregator.regWrite_jobs (a : Aggregator) (k : Nat) (ws : List (Nat × W64)) (gtag : Nat) (cmd : Option Nat) :
    (a.regWrite k ws gtag cmd).jobs = a.jobs := foldl_keeps Aggregator.jobs (fun _ _ => Aggregator.control_jobs _ _ _ _ _ _) _ _

@[simp] theorem Aggregator.finish_jobs (a : Aggregator) (c : Command) (st r : Nat) (l : List Byte) : (a.finish c st r l).jobs = a.jobs := by
  unfold Aggregator.finish
  dsimp only
  split
  · rw [Aggregator.post_jobs]
    exact foldl_keeps Aggregator.jobs (fun _ _ => by simp [Aggregator.sendCapsule]) _ _
  · split
    · rw [Aggregator.post_jobs]
    · rw [Aggregator.post_jobs]

@[simp] theorem Aggregator.ackUp_jobs (a : Aggregator) (ctx seq : Nat) : (a.ackUp ctx seq).jobs = a.jobs := by
  unfold Aggregator.ackUp
  split
  · rfl
  · exact foldl_keeps Aggregator.jobs (fun _ _ => Aggregator.treeFrame_jobs _ _ _ _ _) _ _

@[simp] theorem Aggregator.applyParams_jobs (a : Aggregator) (ctx : Nat) (l : List Byte) : (a.applyParams ctx l).jobs = a.jobs := by
  unfold Aggregator.applyParams
  dsimp only
  split
  · split <;> simp [Aggregator.modInst]
  · simp

@[simp] theorem Aggregator.settleRoll_jobs (a : Aggregator) (c : Command) : (a.settleRoll c).jobs = a.jobs := by
  unfold Aggregator.settleRoll
  split
  · split
    · split <;> simp
    · rfl
  · rfl

@[simp] theorem Aggregator.pumpEvents_jobs (a : Aggregator) : a.pumpEvents.jobs = a.jobs := by
  unfold Aggregator.pumpEvents
  split
  · rfl
  · rw [foldl_keeps Aggregator.jobs fun _ _ => by simp [Aggregator.sendCapsule]]
    simp

namespace Aggregator.HasJobs

variable {a : Aggregator}

/-- Operations that leave the jobs as they are keep one. -/
theorem of {b : Aggregator} (h : a.HasJobs) (hb : b.jobs = a.jobs) : b.HasJobs := by
  unfold HasJobs
  rwa [hb]

theorem foldl {β : Type} {f : Aggregator → β → Aggregator} {l : List β} (h : a.HasJobs)
    (hf : ∀ (a : Aggregator) x, a.HasJobs → (f a x).HasJobs) : (l.foldl f a).HasJobs := by
  induction l generalizing a with
  | nil => exact h
  | cons x l ih => exact ih (hf a x h)

theorem modJob {ctx : Nat} {f : JobCtx → JobCtx} (h : a.HasJobs) : (a.modJob ctx f).HasJobs := by
  unfold HasJobs at h ⊢
  simpa [Aggregator.modJob, tabMod] using h

theorem raise {f : Fld} (h : a.HasJobs) : (a.raise f).HasJobs := h.of (by simp)

theorem report {n : String} {l : List Nat} (h : a.HasJobs) : (a.report n l).HasJobs := h.of (by simp)

theorem wakeDomain {k : Nat} (h : a.HasJobs) : (a.wakeDomain k).HasJobs := h.of (by simp)

theorem regWrite {k gtag : Nat} {ws : List (Nat × W64)} {cmd : Option Nat} (h : a.HasJobs) : (a.regWrite k ws gtag cmd).HasJobs :=
  h.of (by simp)

theorem ackUp {ctx seq : Nat} (h : a.HasJobs) : (a.ackUp ctx seq).HasJobs := h.of (by simp)

theorem settleRoll {c : Command} (h : a.HasJobs) : (a.settleRoll c).HasJobs := h.of (by simp)

theorem pumpEvents (h : a.HasJobs) : a.pumpEvents.HasJobs := h.of (by simp)

theorem modBcast {ctx seq : Nat} {f : Bcast → Bcast} (h : a.HasJobs) : (a.modBcast ctx seq f).HasJobs := h.modJob

theorem modDie {ctx duid : Nat} {f : DieJob → DieJob} (h : a.HasJobs) : (a.modDie ctx duid f).HasJobs := h.modJob

theorem writeThr {ctx duid : Nat} {m : Store Nat} {l : List (Nat × W64)} (h : a.HasJobs) : (a.writeThr ctx duid m l).HasJobs := by
  unfold Aggregator.writeThr
  split
  · exact h
  · exact h.modDie.regWrite

theorem ratesSend {ctx duid : Nat} (h : a.HasJobs) : (a.ratesSend ctx duid).HasJobs := by
  unfold Aggregator.ratesSend
  split
  · exact h
  · split
    · exact h
    · dsimp only
      split
      · exact h
      · exact h.modDie.writeThr

theorem applyRates {ctx : Nat} {l : List Byte} (h : a.HasJobs) : (a.applyRates ctx l).HasJobs := by
  unfold Aggregator.applyRates
  dsimp only
  split
  · exact h.modJob
  · exact .foldl h.modJob.wakeDomain.wakeDomain fun _ _ h => h.ratesSend

theorem applyReparent {ctx : Nat} {l : List Byte} (h : a.HasJobs) : (a.applyReparent ctx l).HasJobs := by
  unfold Aggregator.applyReparent
  split
  · exact h.modJob
  · exact h

theorem applySchedule {ctx seq : Nat} {l : List Byte} (h : a.HasJobs) : (a.applySchedule ctx seq l).HasJobs := by
  unfold Aggregator.applySchedule
  split
  · exact h
  · dsimp only
    split
    · exact h.modJob.raise.report
    · exact h.modJob

theorem applyTaint {l : List Byte} (h : a.HasJobs) : (a.applyTaint l).HasJobs := by
  unfold Aggregator.applyTaint
  extract_lets job gen first mark a1 a2
  have h1 : a1.HasJobs := by
    unfold HasJobs at h ⊢
    simpa [a1] using h
  refine h1.of ((JobsStand.refl a1).trans ?_ |>.appendRec _ _ _ _ _ _ _ _ _).jobs
  unfold a2
  split
  · exact (JobsStand.refl a1).mirrorJob _
  · exact .refl a1

theorem bcastEffect {ctx : Nat} {b : Bcast} (h : a.HasJobs) : (a.bcastEffect ctx b).HasJobs := by
  unfold Aggregator.bcastEffect
  split
  · exact h.applySchedule
  · exact h.applyRates
  · exact h.of (by simp)
  · exact h.applyTaint
  · exact h.applyReparent
  · exact h
  · exact h.modJob

theorem checkComplete {ctx seq : Nat} (h : a.HasJobs) : (a.checkComplete ctx seq).HasJobs := by
  unfold Aggregator.checkComplete
  split
  · exact h
  · split
    · exact h
    · exact h.modBcast.report

theorem applyReady {ctx fuel : Nat} (h : a.HasJobs) : (a.applyReady ctx fuel).HasJobs := by
  induction fuel generalizing a with
  | zero => exact h
  | succ fuel ih =>
    unfold Aggregator.applyReady
    split
    · exact h.modJob
    · split
      · exact h
      · extract_lets a1 a2 twin a3
        have h2 : a2.HasJobs := h.modJob.modBcast.bcastEffect
        have h3 : a3.HasJobs := by
          unfold a3
          clear_value twin
          split
          · split
            · exact h2.modJob.bcastEffect
            · exact h2
          · exact h2
        exact ih (h3.ackUp.checkComplete)

theorem settleCheck {ctx : Nat} {j : JobCtx} (h : a.HasJobs) : (a.settleCheck ctx j).HasJobs := by
  unfold Aggregator.settleCheck
  split
  · split
    · exact h.applyReady
    · exact h
  · exact h

theorem settle (h : a.HasJobs) : a.settle.HasJobs := by
  unfold Aggregator.settle
  have checked : (a.jobs.foldl (fun (a : Aggregator) e => a.settleCheck e.1 e.2) a).HasJobs := .foldl h fun _ _ h => h.settleCheck
  exact (foldl checked fun _ _ h => h.settleRoll).pumpEvents

end Aggregator.HasJobs

/-! ### What an event before the end of the resync leaves -/

section
variable (a : Aggregator)

@[simp] theorem Aggregator.mirrorSend_hlt (kind : Nat) (l : List Byte) : (a.mirrorSend kind l).hlt = a.hlt := by
  unfold Aggregator.mirrorSend
  dsimp only
  split
  · rfl
  · split <;> rfl

/-- The records that are freed go from the ledgers. -/
theorem Aggregator.freeStep_keeps (job gen home step : Nat) :
    (a.freeStep job gen home step).hlt = a.hlt ∧ (a.freeStep job gen home step).jobs = a.jobs := by
  unfold Aggregator.freeStep
  dsimp only
  split
  · exact ⟨rfl, rfl⟩
  · split
    · exact ⟨rfl, rfl⟩
    · split
      · exact ⟨rfl, rfl⟩
      · split
        · exact ⟨by simp [Aggregator.showOcc, Aggregator.modLedger],
            ((JobsStand.refl _).mirrorSend _ _).jobs.trans (by simp [Aggregator.showOcc, Aggregator.modLedger])⟩
        · simp [Aggregator.showOcc, Aggregator.modLedger]

theorem Aggregator.dropLedger_hlt (job gen home : Nat) : (a.dropLedger job gen home).hlt = a.hlt := by
  unfold Aggregator.dropLedger
  split <;> simp [Aggregator.showOcc]

theorem Aggregator.settleFrees_hlt : a.settleFrees.hlt = a.hlt :=
  foldl_keeps Aggregator.hlt (fun b _ => foldl_keeps Aggregator.hlt
    (fun c _ => (Aggregator.dropLedger_hlt _ _ _ _).trans (c.freeStep_keeps _ _ _ _).1) _ b) _ a

theorem Aggregator.settleFrees_jobs : a.settleFrees.jobs = a.jobs :=
  foldl_keeps Aggregator.jobs (fun b _ => foldl_keeps Aggregator.jobs
    (fun c _ => (Aggregator.dropLedger_keeps _ _ _ _).1.trans (c.freeStep_keeps _ _ _ _).2) _ b) _ a

theorem Aggregator.pumpEvents_hlt : a.pumpEvents.hlt = a.hlt := by
  unfold Aggregator.pumpEvents
  split
  · rfl
  · exact foldl_keeps Aggregator.hlt (fun b (e : MgmtEvent) => (rfl : (b.sendCapsule capEvent 0 0 1 (e.bytes.take capMax)).hlt = b.hlt)) _ _

theorem Aggregator.pumpEvents_led : a.pumpEvents.led = a.led := by
  unfold Aggregator.pumpEvents
  split
  · rfl
  · exact foldl_keeps Aggregator.led (fun b (e : MgmtEvent) => (rfl : (b.sendCapsule capEvent 0 0 1 (e.bytes.take capMax)).led = b.led)) _ _

/-- A boot that goes on after its check goes on before it. -/
theorem Aggregator.settleBoot_of_resync {t : Nat} (h : a.settleBoot.boot = .resync t) : a.settleBoot = a := by
  unfold Aggregator.settleBoot at h ⊢
  split
  · next hb =>
    simp only [hb] at h
    split
    · next hend =>
      rw [if_pos hend, Aggregator.bootReady_boot] at h
      exact nomatch h
    · rfl
  · rfl

end

/-- What an event leaves as it is where no job stands and no boot ends. -/
structure Aggregator.Stands (k : Nat) (a b : Aggregator) : Prop where
  jobs : b.jobs = a.jobs
  boot : b.boot = a.boot
  hlt : b.hlt = a.hlt
  word : b.word k = a.word k

theorem Aggregator.signalIrq_stands (old a : Aggregator) (k : Nat) : a.Stands k (Aggregator.signalIrq old a) := by
  unfold Aggregator.signalIrq
  split <;> exact ⟨rfl, rfl, rfl, rfl⟩

theorem Aggregator.after_outsideFailover {old : Aggregator} (hfail : old.inFailover = false) (a : Aggregator) :
    Aggregator.after old a = Aggregator.signalIrq old a.settle.settleBoot.settleFrees := by
  unfold Aggregator.after
  simp only [hfail, Bool.false_eq_true, false_and, if_false]

theorem Aggregator.after_stands {old a : Aggregator} {k : Nat} (hk : k ≠ addr_LDG_OCC) (hfail : old.inFailover = false)
    (hnone : a.jobs = []) (hstay : a.settle.settleBoot = a.settle) : a.Stands k (Aggregator.after old a) := by
  rw [Aggregator.after_outsideFailover hfail, hstay, Aggregator.settle_noJobs hnone]
  obtain ⟨sjobs, sboot, shlt, sword⟩ := Aggregator.signalIrq_stands old a.pumpEvents.settleFrees k
  exact ⟨sjobs.trans ((Aggregator.settleFrees_jobs _).trans a.pumpEvents_jobs),
    sboot.trans ((Aggregator.settleFrees_boot _).trans a.pumpEvents_boot),
    shlt.trans ((Aggregator.settleFrees_hlt _).trans a.pumpEvents_hlt),
    sword.trans ((Aggregator.settleFrees_word hk _).trans a.pumpEvents_word)⟩

/-- Where no job stands before an event, and the partner's resync does not end, everything of them stands. -/
theorem Aggregator.after_stands_of_open {old a : Aggregator} {k : Nat} (hk : k ≠ addr_LDG_OCC) (hfail : old.inFailover = false)
    (hnone : a.jobs = []) (hopen : a.led.mir.endRecv = false) : a.Stands k (Aggregator.after old a) := by
  refine Aggregator.after_stands hk hfail hnone ?_
  have hled : a.settle.led = a.led := by rw [Aggregator.settle_noJobs hnone, Aggregator.pumpEvents_led]
  unfold Aggregator.settleBoot
  split
  · rw [hled, hopen]
    rfl
  · rfl

/-- Where no job stands after an event, and the resync of the boot goes on, they stood so before it. -/
theorem Aggregator.after_stands_of_resync {old a : Aggregator} {k t : Nat} (hk : k ≠ addr_LDG_OCC) (hfail : old.inFailover = false)
    (hjobs : (Aggregator.after old a).jobs = []) (hboot : (Aggregator.after old a).boot = .resync t) :
    a.Stands k (Aggregator.after old a) := by
  obtain ⟨sjobs, sboot, -, -⟩ := Aggregator.signalIrq_stands old a.settle.settleBoot.settleFrees k
  rw [Aggregator.after_outsideFailover hfail, sboot, Aggregator.settleFrees_boot] at hboot
  have hstay := Aggregator.settleBoot_of_resync _ hboot
  rw [Aggregator.after_outsideFailover hfail, sjobs, Aggregator.settleFrees_jobs, hstay] at hjobs
  refine Aggregator.after_stands hk hfail ?_ hstay
  by_contra hsome
  exact (show a.HasJobs from hsome).settle hjobs

/-! ### A unit that is scored anew -/

/-- The kind of the newest notice. -/
def Aggregator.lastKind (a : Aggregator) : Option Byte := a.hlt.notices.getLast?.bind (·.head?)

theorem Notice.bytes_head (n : Notice) (advisory failover : Bool) (nseq agg : Nat) :
    (n.bytes advisory failover nseq agg).head? = some (BitVec.ofNat 8 n.kind) := by
  unfold Notice.bytes
  simp only [List.append_assoc]
  rfl

/-- While the pipeline is on, the newest notice is the one given. -/
theorem Aggregator.unitNotice_lastKind (a : Aggregator) (hon : a.on HLT_CTRL_EN = true) (kind u cause count : Nat) :
    (a.unitNotice kind u cause count).lastKind = some (BitVec.ofNat 8 kind) := by
  have newest (n : Notice) : (a.notice n).lastKind = some (BitVec.ofNat 8 n.kind) := by
    have kept : (a.notice n).hlt.notices.getLast?
        = some (n.bytes (a.on HLT_STATUS_ADVISORY) (a.ofPartner n.subject) (a.get HLT_CNT0_NOTICES_N) a.id) := by
      unfold Aggregator.notice
      rw [if_neg (not_not.2 hon)]
      dsimp only
      split <;> simp [List.getLast?_drop]
    unfold Aggregator.lastKind
    rw [kept, Option.bind_some, Notice.bytes_head]
  exact newest _

/-- Scoring a unit anew leaves the aggregator as it is, or changes its state's register alone, or ends in a notice of a change of state. -/
theorem Aggregator.rescore_cases (a : Aggregator) (u cause : Nat) {k : Nat} (hk : k ≠ addr_HU_STAT u) :
    (a.rescore u cause).word k = a.word k ∨ (a.rescore u cause).lastKind = some 1#8 := by
  unfold Aggregator.rescore Aggregator.setState
  dsimp only
  split
  · exact .inl rfl
  · by_cases hon : (a.set (HU_STAT_STATE u) (a.scoreState huHealthy (a.unitScore u))).on HLT_CTRL_EN = true
    · exact .inr (Aggregator.unitNotice_lastKind _ hon _ _ _ _)
    · refine .inl ?_
      unfold Aggregator.unitNotice Aggregator.notice
      rw [if_pos hon]
      exact Aggregator.word_set_other _ hk _

/-! ### A scan that passes on a core beyond the 64 -/

/-- A commanded scan of core 4085, whose register PD_STAT would be HLT_STATUS. -/
def farScan : Scan := ⟨4085, 1, true, true⟩

/-- An aggregator that runs that scan, before the end of its resync, with health events on and the unit in the state of its score. -/
def farScanned : Aggregator :=
  let a := (Aggregator.blank.set HLT_CTRL_EN 1).set (HU_STAT_STATE (coreUnit 4085)) huSuspect
  { a with boot := .resync 0, hlt := { a.hlt with scans := [farScan] } }

def farScannedState : State := { State.reset with agg := farScanned }

theorem exec_scanComplete_farScanned : exec (.scanComplete 4085 0) farScannedState = nextAgg farScannedState (farScanned.scanComplete 4085 0) :=
  exec_up (f := (·.scanComplete 4085 0)) rfl rfl rfl

/-- The result of the scan is announced, and nothing else. -/
theorem farScanned_passed : let r := farScanned.scanComplete 4085 0
    farScanned.inFailover = false ∧ r.jobs = [] ∧ r.boot = .resync 0 ∧ r.led.mir.endRecv = false
      ∧ r.adState 4085 ≠ farScanned.adState 4085 ∧ r.lastKind = some 0x0C#8 := by
  refine ⟨?_, ?_, ?_, ?_, ?_, ?_⟩ <;> decide +kernel

/-- Refutes O49: no clause bounds the core of a commanded scan, and the word where a core 4085 would show its state is HLT_STATUS, whose
bit 0 the notice of the scan's result sets. -/
theorem not_scansCalibrationsAndSensors : ¬ Obligations.ScansCalibrationsAndSensors := by
  unfold Obligations.ScansCalibrationsAndSensors
  intro h
  obtain ⟨-, -, -, -, -, passes, -⟩ := h farScannedState 4085 0 0 0 true farScan 0 0 0 []
  obtain ⟨e, hexec, hstate, -, -⟩ := passes rfl rfl rfl
  obtain ⟨hfail, hjobs, hboot, hopen, hchanged, hkind⟩ := farScanned_passed
  have hk : addr_PD_STAT 4085 ≠ addr_LDG_OCC := by decide
  have same := after_eq_of_nextAgg_eq (exec_scanComplete_farScanned.symm.trans hexec)
  have real := Aggregator.after_stands_of_open hk hfail hjobs hopen
  change Aggregator.after farScanned _ = Aggregator.after farScanned _ at same
  rw [same] at real
  have claimed := Aggregator.after_stands_of_resync hk hfail (real.jobs.trans hjobs) (real.boot.trans hboot)
  obtain hstay | hnew := e.rescore_cases (coreUnit 4085) (e.get (HU_STAT_LAST_CAUSE (coreUnit 4085))) (k := addr_PD_STAT 4085) (by decide)
  · exact hchanged ((Aggregator.adState_congr (real.word.symm.trans (claimed.word.trans hstay))).trans hstate)
  · have notices : (farScanned.scanComplete 4085 0).lastKind
        = (e.rescore (coreUnit 4085) (e.get (HU_STAT_LAST_CAUSE (coreUnit 4085)))).lastKind :=
      congrArg (fun h : AggHealth => h.notices.getLast?.bind (·.head?)) (real.hlt.symm.trans claimed.hlt)
    rw [hkind, hnew] at notices
    exact absurd notices (by decide)

end Sys2Proof.Machine
end ScansAndSensors
